-- ==== Sys2Proof/Word.lean ====
section
/-! DEFINITION. The word types of the HQ-4025: bytes, 32- and 64-bit words, the 2,048-bit
link-queue and vector entry, the 384-bit bundle, the 256-byte Buoth frame; and the plain types by
which a command names a core, a context, a sequencer, a partition or a stall domain (R14, R24). -/

namespace Sys2Proof

/-- One byte. -/
abbrev Byte := BitVec 8
/-- A 32-bit word: a flag, an INT32 or FP32 value (R163, R233). -/
abbrev W32 := BitVec 32
/-- A 64-bit register or register-map word (R61, R480). -/
abbrev W64 := BitVec 64
/-- A 2,048-bit entry: a vector register or a link-queue entry (R62, R64). -/
abbrev Entry := BitVec 2048
/-- A 384-bit bundle (R87). -/
abbrev RawBundle := BitVec 384
/-- A SHA-384 digest, 48 bytes; byte 0 is the first byte, at bits [7:0] (R7). -/
abbrev Digest := BitVec 384
/-- A Buoth frame of 256 bytes, byte 0 at bits [7:0] (R330, R332). -/
abbrev FrameBits := BitVec 2048

/-- A logical core of the package (R14). -/
abbrev CoreId := Fin 512
/-- A partition number (R22). -/
abbrev PartId := Fin 4
/-- A function: 0 the PF, k VFk (R371). -/
abbrev FnId := Fin 9

/-- One sequencer of one core (R24, R57). -/
structure SeqId where
  core : CoreId
  seq  : Fin 4
deriving DecidableEq, Repr, Inhabited

/-- A whole core (ctx 0) or one context of a split core (R24, R82). -/
structure CtxId where
  core : CoreId
  ctx  : Fin 2
deriving DecidableEq, Repr, Inhabited

/-- A stall domain, named by partition and domain number (R35, R377). -/
structure DomId where
  part : PartId
  dom  : Fin 16
deriving DecidableEq, Repr, Inhabited

/-- The five rows of the grant table (R278), in its order. -/
inductive GrantRow where
  | hbm | cxlRead | cxlWrite | resRead | resWrite
deriving DecidableEq, Repr, Inhabited

end Sys2Proof
end

