-- ==== Sys2Proof/Syntax.lean ====
section
/-! DEFINITION. The commands of the block: one constructor per row of spec/opcode_table.json, in the
table's order. Host commands carry the ring and the descriptor's fields (R377, R389); instruction
rows name the sequencer that presents its next bundle; event rows name the unit in which the event
takes place. Fixed-size byte strings are bit vectors with byte 0 at bits [7:0] (R7). -/

namespace Sys2Proof

/-- The header of a command descriptor, with the ring it came from (R377). -/
structure CmdHdr where
  ring  : Fin 64
  fence : Bool
  part  : PartId
  dom   : Fin 16
  tag   : W32
deriving DecidableEq, Repr, Inhabited

/-- Body of LOAD_TENSOR (R389). -/
structure LoadTensorBody where
  haddr  : W64
  daddr  : W64
  len    : W32
  weight : Bool
  signal : Bool
  score  : BitVec 16
  sflag  : Byte
deriving DecidableEq, Repr, Inhabited

/-- Body of READ_TENSOR (R389). -/
structure ReadTensorBody where
  haddr  : W64
  saddr  : W64
  len    : W32
  bctx   : Byte
  dpoint : Byte
  signal : Bool
  round  : W32
  score  : BitVec 16
  sflag  : Byte
deriving DecidableEq, Repr, Inhabited

/-- Body of RUN (R389). -/
structure RunBody where
  session : W64
  restore : Bool
  image   : W64
  ilen    : W32
deriving DecidableEq, Repr, Inhabited

/-- An idle frame as a link receives it, with the codewords its code has corrected since the last (R329; log entry 84). -/
structure IdleBits where
  frame     : FrameBits
  corrected : BitVec 16
deriving DecidableEq, Repr, Inhabited

/-- What a stack reports of a line that it reads again (R365). -/
inductive Reread where
  | clean | corrected | uncorrectable
deriving DecidableEq, Repr, Inhabited

/-- What a stack reports of an HBM3E request (R365): a read that it corrected, which needs no second try; an uncorrectable one that is
read again; after a parity error the request sent again cleanly, or with a second parity error and the read that follows. -/
inductive SecondTry where
  | corrected
  | reread (result : Reread)
  | resent
  | resentReread (result : Reread)
deriving DecidableEq, Repr, Inhabited

/-- What an error response of an isolation wrapper reaches (R444, R472): the oldest outstanding
transfer of a core or context, or a host command named by its handle. -/
inductive Requester where
  | transfer (c : CtxId)
  | command (handle : W32)
deriving DecidableEq, Repr, Inhabited

/-- Where a pond's replica margin lies as a decision reads it (R406, R422): below CRIT, from there below WARN, between WARN and
twice WARN, above that. -/
inductive Margin where
  | crit | low | good | high
deriving DecidableEq, Repr, Inhabited

/-- The quantities the power manager samples in one decision period (R421). -/
structure PowerReading where
  /-- Mean input power over the decision period, W. -/
  pkgW    : BitVec 16
  /-- Mean input power over the last 1 ms, W. -/
  meanMs  : BitVec 16
  /-- Rail current of each pond, 0.1 A. -/
  current : List (BitVec 16)
  /-- Rail voltage of each pond, mV. -/
  volt    : List (BitVec 16)
  /-- Replica margin of each pond. -/
  margin  : List Margin
  /-- Mean input current over the last 5 µs, 0.1 A. -/
  fast    : BitVec 16
deriving DecidableEq, Repr, Inhabited

/-- The commands of the block, one per row of the table of operations and events. -/
inductive Instr where
  -- host commands and what they start
  | attach (h : CmdHdr) (action : Byte)
  | configurePartition (h : CmdHdr) (config : Byte) (vfPart : W64)
  | setMode (h : CmdHdr) (mode : Byte)
  | loadProgram (h : CmdHdr) (haddr : W64) (hlen : W32)
  | loadProgramOverlay (h : CmdHdr) (haddr : W64) (hlen : W32)
  | loadProgramDone (d : DomId) (hostOk : Bool)
  | overlayLoaded (d : DomId)
  | loadTensor (h : CmdHdr) (b : LoadTensorBody)
  | loadTensorDone (handle : W32) (hostOk : Bool)
  | run (h : CmdHdr) (b : RunBody)
  | runStart (d : DomId)
  | activityRampStep (d : DomId)
  | runEnd (d : DomId)
  | halt (h : CmdHdr)
  | haltTakesEffect (d : DomId)
  | snapshot (h : CmdHdr) (haddr : W64) (hlen : W32) (bctx : Byte)
  | snapshotCopyDone (d : DomId) (hostOk : Bool)
  | readTensor (h : CmdHdr) (b : ReadTensorBody)
  | readTensorCapture (handle : W32)
  | readTensorDone (handle : W32) (hostOk : Bool)
  | issuePennant (h : CmdHdr) (haddr : W64) (hlen : W32)
  | pennantSigned (hostOk : Bool)
  | query (h : CmdHdr) (kind : Byte) (haddr : W64) (hlen : W32)
  | injectError (h : CmdHdr) (detector unit : BitVec 16) (count : W32)
  | resetLevel (h : CmdHdr) (level : Byte) (unit : BitVec 16)
  | descriptorFetch (ok : Bool)
  -- doorbells, interrupts, rings
  | cmdTail (f : FnId) (ring : Fin 64) (value : W32)
  | cplHead (f : FnId) (ring : Fin 64) (value : W32)
  | msixCoalesceExpiry (ring : Fin 64)
  | ringEnable (ring : Fin 64) (value : W64)
  | msixUnmask (f : FnId) (vector : Option (Fin 64))
  -- boot, security, registers with behaviour of their own
  | bootGo (value : W64)
  | bootFetchDone (ok : Bool)
  | bootVerifyDone
  | voathReady
  | bootTimeout
  | svnCommit (revokeMask : Byte)
  | revoke (mask : Byte)
  | fusingDone
  | attestationGo (value : W64)
  | attestationDone (hostOk : Bool)
  | timeSet (value : W64)
  | fabCtrlWrite (value : W64)
  | limitWWrite (value : W64)
  | bankOffWrite (core : CoreId) (value : W64)
  | errHeadWrite (value : W64)
  | registerWrite (f : FnId) (offset : W32) (size : BitVec 4) (value : W64)
  | dbgTokenSubmit
  | jtagIdcode
  | jtagChallenge
  | jtagToken (token : BitVec 2112)
  | jtagSubmit
  | debugEraseDone
  | smbSetOffset (value : W32)
  | smbRead
  -- power, reset
  | auxPowerUp
  | auxPowerLoss
  | mainPowerChange (good : Bool)
  | perstAssert
  | perstDeassert
  | pcieHotReset
  | functionLevelReset (f : FnId)
  | resetReleaseStep (raw : BitVec 6)
  | partitionReset (p : PartId)
  | scratchpadClearDone (p : PartId)
  | unitReset (unit : BitVec 16)
  | unitResetDone
  | errorResponse (r : Requester)
  | mgmtWatchdogExpiry
  | pondWakeSlot (pond : Fin 32)
  | pondRetentionEntry (pond : Fin 32)
  | thermalSample (temps : List Byte)
  | powerDecision (r : PowerReading)
  | fastLimit (current : BitVec 16)
  | frequencyCodeChange (p : PartId)
  | voltageSettled (p : PartId)
  | stretchDemand (pond : Fin 32) (crit : Bool)
  | realignmentStretch (pond : Fin 32)
  | stretchNotice (p : PartId) (die : Fin 4)
  | referenceLost
  | referenceRestored
  | errorEventRecord
  -- scalar slot
  | add (w : SeqId) | sub (w : SeqId) | mul (w : SeqId)
  | and (w : SeqId) | or (w : SeqId) | xor (w : SeqId)
  | shl (w : SeqId) | shr (w : SeqId) | sra (w : SeqId)
  | min (w : SeqId) | max (w : SeqId) | minu (w : SeqId) | maxu (w : SeqId)
  | ceq (w : SeqId) | clt (w : SeqId) | cltu (w : SeqId)
  | pand (w : SeqId) | por (w : SeqId) | pxor (w : SeqId) | pandn (w : SeqId)
  | pmov (w : SeqId) | pget (w : SeqId)
  | rdtick (w : SeqId) | rdtime (w : SeqId)
  | lqpush (w : SeqId) | lqpop (w : SeqId) | lqpeek (w : SeqId)
  | addi (w : SeqId) | andi (w : SeqId) | ori (w : SeqId) | xori (w : SeqId)
  | shli (w : SeqId) | shri (w : SeqId) | srai (w : SeqId)
  | ceqi (w : SeqId) | clti (w : SeqId) | cltui (w : SeqId)
  | li (w : SeqId) | lih (w : SeqId)
  | jmp (w : SeqId) | br (w : SeqId) | loop (w : SeqId) | setwin (w : SeqId)
  | agfetch (w : SeqId) | aginst (w : SeqId) | agbase (w : SeqId)
  | agstep (w : SeqId) | agrd (w : SeqId) | agrst (w : SeqId)
  -- load and store slots, and the events of a transfer
  | ld (w : SeqId) | ldbc (w : SeqId) | st (w : SeqId) | staf (w : SeqId) | stai (w : SeqId)
  | repeatTransfer (c : CtxId) (store : Bool)
  | loadFill (c : CtxId)
  | storeWrite (c : CtxId)
  | requestQueueDepart (c : CtxId)
  | remoteAccessArrive (c : CtxId)
  | accumulateApply (c : CtxId)
  -- sync slot, flags, barriers, messages
  | fadd (w : SeqId) | fsub (w : SeqId) | fwait (w : SeqId) | fwaitr (w : SeqId)
  | fwsub (w : SeqId) | fset (w : SeqId)
  | remoteFlagSignal (c : CtxId)
  | bar (w : SeqId) | barin (w : SeqId) | barout (w : SeqId)
  | barrierArrivalCounted (b : Fin 64)
  | barrierRelease (b : Fin 64)
  | barrierReleaseArrive (b : Fin 64)
  | barrierDepartureCounted (b : Fin 64)
  | senseViolationHalt (c : CtxId)
  | send (w : SeqId) | sendr (w : SeqId)
  | messageDelivery (c : CtxId)
  | anchorUnitAdd (c : CtxId)
  | creditReturn (c : CtxId)
  | quotaHoldRelease (core : CoreId) (queue : Fin 8)
  | endOp (w : SeqId)
  -- matrix slot and array
  | mmul (w : SeqId) | mmulC (w : SeqId) | mmulH (w : SeqId) | mmulCH (w : SeqId)
  | mvec (w : SeqId) | mvecC (w : SeqId) | mvecH (w : SeqId) | mvecCH (w : SeqId)
  | mdrain (w : SeqId) | mstat (w : SeqId)
  | matrixFeedStep (c : CtxId)
  | drainDelivery (c : CtxId)
  -- vector slot and engine
  | vectorMicroOp (w : SeqId) | vep (w : SeqId) | vpload (w : SeqId) | vcvt (w : SeqId)
  | vmxq (w : SeqId) | vcomp (w : SeqId) | vexpd (w : SeqId) | vred (w : SeqId)
  | rxinit (w : SeqId) | rxmax (w : SeqId) | rxexp (w : SeqId) | rxnorm (w : SeqId)
  | rxsq (w : SeqId) | rxget (w : SeqId) | rxset (w : SeqId)
  | vseed (w : SeqId) | vstat (w : SeqId)
  | vectorResult (c : CtxId)
  -- the stall domain
  | variableItemCheck (d : DomId)
  | stallRelease (d : DomId)
  | haltPropagate (d : DomId)
  | waitWatchdogExpiry (w : SeqId)
  | deadlinePoint (d : DomId)
  | pacedOutputRelease (d : DomId)
  | parityResendArrival (c : CtxId) (ok : Bool)
  | bankPowerdown (core : CoreId) (bank : Fin 32)
  | bankPowerdownTimeout (core : CoreId) (bank : Fin 32)
  -- refresh, streams, memory
  | refreshAccrue (stack : Fin 8) (pch : Fin 32)
  | refreshWindowClose (d : DomId)
  | refreshDone (stack : Fin 8) (pch : Fin 32)
  | streamInstanceStart (c : CtxId) (desc : Fin 64)
  | memoryGrant (c : CtxId) (row : GrantRow)
  | writeSlot (c : CtxId)
  | fillLanding (c : CtxId)
  | rotationArrival (c : CtxId)
  | readSlotWrite (c : CtxId)
  | spillAck (c : CtxId)
  | memoryResponse (c : CtxId)
  | hbmReread (stack : Fin 8) (result : SecondTry)
  | cxlPoisonReread (port : Fin 4) (clean : Bool)
  | cxlPortUp (port : Fin 4) (capGib : BitVec 16) (speed width : Byte)
  | cxlPortDown (port : Fin 4)
  | cxlLinkRetry (port : Fin 4)
  | dieLinkRetry (link : Fin 8)
  | dieLinkFailure (link : Fin 8)
  -- collectives and the fabric
  | collectiveInstanceStart (d : DomId) (desc : Fin 16)
  | collectiveFrame (plane : Fin 8) (frame : FrameBits)
  | channelMessageFrame (plane : Fin 8) (frame : FrameBits)
  | channelCreditFrame (plane : Fin 8) (frame : FrameBits)
  | idleFrame (plane : Fin 8) (frame : IdleBits)
  | beacon (plane : Fin 8) (frame : FrameBits)
  | assign (plane : Fin 8) (frame : FrameBits)
  | hello (plane : Fin 8)
  | kill (plane : Fin 8) (frame : FrameBits)
  | fabricFrameSend (p : PartId) (plane : Fin 8)
  | retryTimeout (plane : Fin 8)
  | linkSilenceTimeout (plane : Fin 8)
  | planeLinked (plane : Fin 8)
  | buothFrameFailed (plane : Fin 8) (uncorrectable : BitVec 16)
  | lossOfLanes (plane : Fin 8) (lanes : BitVec 16)
  | dieLinkRetrainDone (link : Fin 8)
  | correctionSlewComplete
  | tokenVerificationDone
  | pcieLinkDown
deriving DecidableEq, Repr, Inhabited

end Sys2Proof
end

