-- ==== Sys2Proof/Config.lean ====
section
/-! DEFINITION. What the spec leaves to one part or one moment: free values. Each is opaque, without
a body, so no proof can see its value. A fresh value is drawn by applying the constant to a plain
counter of the state (Device.freeCtr). Log entries 2, 3, 5, 7. -/

namespace Sys2Proof.Config

/-- A byte of HBM3E that nothing has written since its contents became undefined (R435, R436): the
epoch counts the stack's losses of contents. -/
opaque hbmUndefined (epoch address : Nat) : Byte
/-- A byte of CXL memory that this model has not seen written (R435: not touched by any reset). -/
opaque cxlUndefined (address : Nat) : Byte
/-- A byte of host memory that the device has not written: it is the host's (R375, R377). -/
opaque hostByte (address : Nat) : Byte
/-- The 48-byte challenge drawn from the random bit generator (R463). -/
opaque challenge (draw : Nat) : Digest
/-- The rounding of a transcendental result whose enclosing interval, at the working precision of
Machine/Transcend.lean, does not decide it (R193). -/
opaque undecidedRounding (fn : Nat) (mantissa : Nat) (exponent : Int) : W32
/-- The replica of the time counter on a compute die, as a nanosecond below, at or above the counter (0, 1, 2), by the die and the
time elapsed: the spec bounds the difference and does not give it (R413, R418). -/
opaque replicaSkew (die elapsed : Nat) : Fin 3
/-- The replica of the time counter at an optical engine, in sixteenths of 1 ns from 1 ns below the counter, by the engine and the
time elapsed (R413, R418). -/
opaque engineSkew (engine elapsed : Nat) : Fin 33
/-- A pond's fused voltage-frequency curve: its rail in mV at a frequency code (R422). -/
opaque fusedCurve (pond code : Nat) : Nat
/-- Whether SR-IOV has enabled VFk, k from 1 to 8 (R371, R485): configuration space, which no command of the table
writes. In the boot state no VF is enabled (R447). -/
opaque vfEnabled (k : Nat) : Bool
/-- A word that a restored run needs and its image does not carry (R257, R492): the image, and the place of the word. -/
opaque imageWord (image : List Byte) (place : Nat) : W64
/-- R402, log entry 106: whether a host-memory access of a command reaches host memory on the moment
`draw`. The commands report such a failure (QUERY, an overlay, RUN with RESTORE), and the commands of
the model that come from outside name none, so it is free. -/
opaque hostWorks (draw : Nat) : Bool

/-- A quantity the device reports without the spec giving its law (a measured rail value, a counter
the device fills from outside the model): drawn fresh. -/
opaque freeWord (draw : Nat) : W64

end Sys2Proof.Config
end

