-- ==== Sys2Proof/Machine/CoreTypes.lean ====
section
/-! DEFINITION. The state of one physical core: sequencers, register files, link queues, address
generators, repeat units, the network port, the matrix array, the vector engine, message queues,
flags, scratchpad registers and stream engine entries. Plain data. Ticks are schedule ticks of the
core's (or context's) stall domain. -/

namespace Sys2Proof.Machine

/-- A number: NaN, an infinity, or ± m × 2^e exactly; m = 0 is a signed zero. -/
inductive Num where
  | nan
  | inf (neg : Bool)
  | fin (neg : Bool) (m : Nat) (e : Int)
deriving DecidableEq, Repr, Inhabited

/-- Sequencer states with the codes of R57. -/
inductive SeqState where
  | idle | running | waiting | ended | halted
deriving DecidableEq, Repr, Inhabited

/-- Wait causes with the codes of R86. -/
inductive WaitCause where
  | none | queueEmpty | queueFull | flag | messageQueue | barrier
deriving DecidableEq, Repr, Inhabited

/-- One open loop level (R69). -/
structure LoopLevel where
  start     : BitVec 12
  endAddr   : BitVec 12
  remaining : W32
deriving DecidableEq, Repr, Inhabited

/-- A stream sequencer with its register files (R57, R61, R69, R75). -/
structure Sequencer where
  st       : SeqState
  /-- Address of the bundle to issue next, as the core or context names it (R82); 0x1000 lies past the
  last bundle (R73). -/
  pc       : BitVec 13
  /-- Address of the bundle last issued or waiting (R86). -/
  lastPc   : BitVec 12
  sregs    : Vector W64 32
  pregs    : Vector W64 8
  /-- Tick of the last write to each scalar register, and the issue tick of its operation (R130). -/
  sregTick : Vector (Nat × Nat) 32
  loops    : List LoopLevel
  winLo    : BitVec 4
  winHi    : BitVec 4
  cause    : WaitCause
  /-- Whether the wait counts as local for R68. -/
  waitLocal : Bool
  /-- Consecutive ticks of a non-local wait (R244). -/
  wdCount  : Nat
  /-- The first tick on which the sequencer may issue again (R72). -/
  resumeAt : Nat
  /-- The sequencer has presented its bundle on every tick below this one. -/
  nextTick : Nat
  /-- The waiting bundle has passed its checks of the first presentation (R109). -/
  shown    : Bool
  /-- The waiting bar has sent its arrival (R136). -/
  barSent  : Bool
deriving DecidableEq, Repr, Inhabited

/-- One reserved link-queue entry (R65). -/
structure LqEntry where
  id       : Nat
  data     : Entry
  /-- The tick at whose end it was filled. -/
  filledAt : Option Nat
  /-- It carries the data of a variable item (R67), due at the end of the given tick once its grants are
  known, and ready since the given period; an item on time is ready since period 0. -/
  var      : Bool
  due      : Option Nat
  ready    : Option Nat
  /-- The cause under which its lateness is ledgered (R41). -/
  cause    : Fin 7
deriving DecidableEq, Repr, Inhabited

/-- A link queue of 16 entries (R64); the two tick counts implement R66. -/
structure LinkQueue where
  entries  : List LqEntry
  nextId   : Nat
  headSlot : BitVec 4
  popTick  : Nat
  pops     : Nat
  pushTick : Nat
  pushes   : Nat
deriving DecidableEq, Repr, Inhabited

/-- State of an instruction-memory page (R74). -/
inductive PageState where
  | empty | loading | loaded
deriving DecidableEq, Repr, Inhabited

/-- An address generator: descriptor, indices, DONE, staging buffer (R105, R106, R123). -/
structure AddrGen where
  base    : W64
  count   : Vector W32 6
  stride  : Vector W32 6
  levels  : BitVec 3
  exhaust : Bool
  idx     : Vector W32 6
  done    : Bool
  loaded  : Bool
  /-- The staged descriptor and the tick at whose end it was filled. -/
  staged  : Option (BitVec 512 × Nat)
deriving DecidableEq, Repr, Inhabited

/-- The load and store operations (R125). -/
inductive MemOp where
  | ld | ldbc | st | staf | stai
deriving DecidableEq, Repr, Inhabited

/-- A repeat unit at work (R102). -/
structure RepeatUnit where
  op        : MemOp
  seq       : Fin 4
  pc        : BitVec 12
  ag        : Fin 8
  /-- KIND 1: a scalar register; KIND 0: a link queue. -/
  toReg     : Bool
  reg       : BitVec 5
  width     : BitVec 4
  remaining : Nat
  predOff   : Bool
  /-- The slot value that started it (R101). -/
  slot      : W64
  waiting   : Bool
  waitLocal : Bool
  /-- First tick of the next transfer. -/
  nextTick  : Nat
deriving DecidableEq, Repr, Inhabited

/-- Where the data of a load goes (R125, R123). -/
inductive LoadDest where
  | lq (q : Fin 4) (id : Nat)
  | sreg (seq : Fin 4) (r : Fin 32)
  | staging (ag : Fin 8)
deriving DecidableEq, Repr, Inhabited

/-- What a request-queue entry carries (R128). -/
inductive ReqKind where
  | load (dest : LoadDest) (broadcast : Bool)
  | store (data : Entry)
  | accumulate (float : Bool) (data : Entry)
  | flag (flag : Byte) (delta : W32)
  | message (chan : Byte) (units : Nat) (data : List (BitVec 512)) (srcOff : Nat)
deriving DecidableEq, Repr, Inhabited

/-- An entry of the network-port request queue (R128). -/
structure Request where
  kind      : ReqKind
  seq       : Fin 4
  pc        : BitVec 12
  /-- Core address of a transfer; target register of a flag signal. -/
  addr      : W64
  /-- Bytes of a transfer: 8, 64 or 256. -/
  bytes     : Nat
  predOff   : Bool
  /-- The address passes R118. -/
  valid     : Bool
  entryTick : Nat
  slotsLeft : Nat
deriving DecidableEq, Repr, Inhabited

/-- What keeps a memory response: nothing; the refreshes of its pseudo-channel up to a number, which came before it (R366); or a CXL port
that is not up, which never answers (R369). -/
inductive Hold where
  | free
  | refresh (last : Nat)
  | lost
deriving DecidableEq, Repr, Inhabited

/-- A request of 64 bytes that a core transfer sends to HBM3E or CXL memory (R362). -/
structure SubRequest where
  addr    : Nat
  bytes   : Nat
  granted : Option Nat
  latency : Nat
  /-- What keeps its response; and the period of the partition from which it can come (R49, R366, R471). -/
  held    : Hold
  since   : Nat
deriving DecidableEq, Repr, Inhabited

/-- A transfer, flag signal or message in transport after its last remote slot (R127). -/
structure Flight where
  /-- Number by which the domain's variable items name it. -/
  uid    : Nat
  req    : Request
  /-- Tick of the last remote slot. -/
  u      : Nat
  /-- Tick at whose end it takes effect at its target. -/
  due    : Nat
  /-- Remaining requests to HBM3E or CXL memory. -/
  subs   : List SubRequest
  /-- Data read so far by a load. -/
  data   : Entry
  /-- A load has read its target, or its response has arrived; an accumulate has read its target. -/
  arrived : Bool
  /-- The partition's period of an accumulate's read. -/
  readAt  : Nat
  /-- The partition's period in which it reached the edge of its target (R217); none before. -/
  reached : Option Nat
  /-- Bank ticks of the present access that are done: a line takes a split context's banks on two (R212). -/
  halves  : Nat
  /-- Its data or effect can be late (R36), and the cause under which lateness is ledgered. -/
  var     : Bool
  cause   : Fin 7
  /-- It received an error response (R444), or its read was uncorrectable (R365): the halt reason. -/
  error  : Option Byte
deriving DecidableEq, Repr, Inhabited

/-- Data on its way into a queue entry, register or staging buffer (R127). -/
structure Fill where
  dest     : LoadDest
  data     : Entry
  seq      : Fin 4
  pc       : BitVec 12
  issued   : Nat
  due      : Nat
  /-- Offset of the second half of a split context's line, which is read on the tick after the first (R213). -/
  rest     : Option Nat
deriving DecidableEq, Repr, Inhabited

/-- A local store waiting for its bank (R216). -/
structure PendingStore where
  offset  : Nat
  bytes   : Nat
  data    : Entry
  wanted  : Nat
  /-- The second half of a line of a split context, which does not count as a transfer (R213). -/
  half    : Bool
  /-- The transfer was predicated off: it takes its banks and writes nothing (R103). -/
  off     : Bool
  seq     : Fin 4
  pc      : BitVec 12
deriving DecidableEq, Repr, Inhabited

/-- Sticky numeric flags: those set at the end of the previous tick, and those raised on this one
(R158, R172, R209). Bit 0 O, bit 1 V, bit 2 T. -/
structure Sticky where
  val   : Byte
  fresh : Byte
  /-- The flags raised on this tick, each time with the bundle of the operation that raised them, first ones first (R183). -/
  raised : List (Byte × BitVec 12)
deriving DecidableEq, Repr, Inhabited

/-- Accumulator-plane states with the codes of R159. -/
inductive PlaneState where
  | free | feeding | open | draining
deriving DecidableEq, Repr, Inhabited

/-- One accumulator plane (R139, R150, R151). -/
structure Plane where
  cells  : Vector (Vector W64 64) 128
  st     : PlaneState
  /-- The family that last fed it: true for mvec (R151). -/
  vecFed : Bool
  /-- Format of operand A and integer kind of the last mvec (R156). -/
  fmtA   : BitVec 4
deriving DecidableEq, Repr, Inhabited

/-- The matrix-slot fields of R99. -/
structure MatrixFields where
  opc    : Byte
  srcA   : BitVec 5
  srcB   : BitVec 5
  dst    : BitVec 5
  fmtA   : BitVec 4
  fmtB   : BitVec 4
  exact  : Bool
  rows   : BitVec 7
  cols   : BitVec 6
  anchor : Byte
  klen   : BitVec 11
deriving DecidableEq, Repr, Inhabited

/-- A feed in progress (R148). -/
structure Feed where
  f       : MatrixFields
  plane   : Fin 2
  seq     : Fin 4
  pc      : BitVec 12
  /-- k-steps already fed. -/
  k       : Nat
  /-- The scale tick of the present group has been taken. -/
  scaled  : Bool
  /-- Ticks left of the present step after this one. -/
  subTicks : Nat
  aEntry  : Entry
  bEntry  : Entry
  aScale  : Entry
  bScale  : Entry
  /-- Entries of A and B consumed so far. -/
  aUsed   : Nat
  bUsed   : Nat
  /-- The exact sum of the present K block of each cell, row-major (R140). -/
  block   : List Num
  waiting : Bool
  nextTick : Nat
  /-- The last feed tick is the present tick: the feed stays active until its end. -/
  done    : Bool
  /-- The issue tick of the pass, by which its register writes are ordered (R130, R154). -/
  issued  : Nat
deriving DecidableEq, Repr, Inhabited

/-- A drain in progress (R152, R153). -/
structure Drain where
  plane  : Fin 2
  /-- The slot of its pass, or of its `mdrain`. -/
  f      : MatrixFields
  seq    : Fin 4
  pc     : BitVec 12
  dst    : BitVec 5
  rows   : BitVec 7
  cols   : BitVec 6
  exact  : Bool
  tf     : Nat
  next   : Nat
  waiting : Bool
  /-- The drain has done its work of every tick below this one. -/
  nextTick : Nat
  /-- Its last delivery is on the present tick. -/
  done   : Bool
  /-- The issue tick of its pass or `mdrain` (R130, R154). -/
  issued : Nat
deriving DecidableEq, Repr, Inhabited

/-- The matrix array of a whole core or context (R139, R162). -/
structure MatrixUnit where
  planes : Vector Plane 2
  feed   : Option Feed
  /-- Drains in the order of their last feed ticks. -/
  drains : List Drain
  lastDelivery : Option Nat
  flags  : Sticky
deriving DecidableEq, Repr, Inhabited

/-- The vector-slot fields of R98. -/
structure VectorFields where
  opc  : Byte
  vd   : BitVec 5
  va   : BitVec 5
  vb   : BitVec 5
  vc   : BitVec 5
  pred : BitVec 3
  pneg : Bool
  type : BitVec 4
  eps  : BitVec 4
  mode : Byte
  imm  : W32
deriving DecidableEq, Repr, Inhabited

/-- A row accumulator (R204). -/
structure RowAcc where
  m    : W32
  k    : W32
  live : Bool
  nan  : Bool
  s    : W32
  st   : BitVec 128
  /-- S_T has saturated (R208). -/
  sat  : Bool
  a    : Byte
deriving DecidableEq, Repr, Inhabited

/-- What a vector operation writes at the end of one of its result ticks (R187, R188). -/
structure VResult where
  due   : Nat
  /-- The destination entry, if one is written, and the bits of it that are; the others keep or write zero. -/
  index : Option Nat
  data  : Entry
  mask  : Entry
  flags : Byte
  /-- The row accumulator as it stands after this entry. -/
  ra    : Option RowAcc
deriving DecidableEq, Repr, Inhabited

/-- A vector operation in progress (R187). -/
structure VOp where
  f      : VectorFields
  seq    : Fin 4
  pc     : BitVec 12
  /-- Lanes that the predicate leaves on (R93, R185). -/
  lanes  : W64
  /-- The issue tick, by which register writes are ordered (R130). -/
  issued : Nat
  /-- Cost per entry c and depth P. -/
  cost   : Nat
  depth  : Nat
  /-- The next entry, the tick on which it starts, and their number. -/
  next   : Nat
  start  : Nat
  total  : Nat
  /-- Entries consumed so far from VA, VB, VC, and the last of each. -/
  usedA  : Nat
  usedB  : Nat
  usedC  : Nat
  holdA  : Entry
  holdB  : Entry
  holdC  : Entry
  /-- Elements gathered for a destination entry, or left over from packed entries; scale codes of vmxq. -/
  acc    : List Nat
  accMask : List Bool
  scales : List Byte
  /-- Destination entries produced. -/
  made   : Nat
  /-- The row accumulator as the entries so far leave it, and its nan bit before the first (R205). -/
  ra     : RowAcc
  nan0   : Bool
  results : List VResult
  /-- The time counter as sampled on the issue tick (R178). -/
  timeNow : W64
  waiting : Bool
  /-- The engine has done its work of every tick below this one. -/
  nextTick : Nat
  /-- Its last result tick is the present tick. -/
  done   : Bool
deriving DecidableEq, Repr, Inhabited

/-- The vector engine of a whole core or context (R189, R209). -/
structure VectorUnit where
  op    : Option VOp
  flags : Sticky
deriving DecidableEq, Repr, Inhabited

/-- An entry of a queue's descriptor list (R264). -/
structure MqDesc where
  pad    : Bool
  start  : BitVec 6
  len    : Nat
  remain : Nat
  chan   : Byte
  src    : BitVec 10
  /-- Tick at whose end it was placed. -/
  placed : Nat
  /-- Fabric source and sending channel of a message that came through the inbound table (R274). -/
  inbound : Option (BitVec 18 × Byte)
deriving DecidableEq, Repr, Inhabited

/-- A message queue (R264). -/
structure MsgQueue where
  units : Vector (BitVec 512) 64
  wp    : BitVec 6
  rp    : BitVec 6
  occ   : Nat
  descs : List MqDesc
  quotaHolds : Byte
deriving DecidableEq, Repr, Inhabited

/-- A credit return travelling to its sender (R268). -/
structure CreditReturn where
  /-- The sender's channel, or for a return that leaves the domain the inbound identifier. -/
  chan  : Byte
  units : Nat
  due   : Nat
  /-- Fabric source, sending core and sending channel of a return that leaves the domain. -/
  inbound : Option (BitVec 18 × BitVec 10 × Byte)
deriving DecidableEq, Repr, Inhabited

/-- A change to a flag that takes effect at the end of the present tick (R135). -/
inductive FlagChange where
  | set (seq : Fin 4) (f : Byte) (v : W32)
  | add (f : Byte) (delta : W32)
  /-- The subtraction of an fwsub. -/
  | sub (seq : Fin 4) (f : Byte) (v : W32)
deriving DecidableEq, Repr, Inhabited

/-- A monotonic declaration with its sent count S (R239, R241). -/
structure MonoDecl where
  ctx     : Fin 2
  flag    : Byte
  consumer : Bool
  partner : CoreId
  partnerCtx : Fin 2
  pflag   : Byte
  depth   : W32
  sent    : W32
deriving DecidableEq, Repr, Inhabited

/-- A halt record (R80, R86). -/
structure HaltRec where
  halted : Bool
  tick   : W32
  seqMask : BitVec 4
  seq    : Fin 4
  fetch  : BitVec 12
  code   : Byte
deriving DecidableEq, Repr, Inhabited

/-- Progress of one stream descriptor (R282, R286, R492). -/
structure StreamProg where
  /-- The instance under way or to start next. -/
  inst     : Nat
  active   : Bool
  /-- First tick on which the next instance may start: the tick after the previous one stopped. -/
  startFrom : Nat
  /-- The next transfer to take a grant (fill) or a write slot (spill, rotate). -/
  xfer     : Nat
  /-- The next spill transfer to take its grant. -/
  granted  : Nat
  /-- Transfers finished, by instance not yet complete; instances completed. -/
  counts   : List (Nat × Nat)
  completed : Nat
deriving DecidableEq, Repr, Inhabited

/-- An item bound for the scratchpad, from its grant or its write slot on (R283, R285, R290). -/
structure LandItem where
  desc    : Nat
  inst    : Nat
  xfer    : Nat
  /-- Scratchpad offset of its 64 bytes. -/
  offset  : Nat
  data    : BitVec 512
  /-- Contract landing or arrival tick. -/
  lambda  : Nat
  rotation : Bool
  /-- Period of the landing or arrival. -/
  landed  : Option Nat
  cause   : Fin 7
  /-- The member that sent a rotation transfer; for a fill its own core or context. -/
  sender  : CtxId
  /-- It received an error response (R444), or its read was uncorrectable (R365): the halt reason. -/
  error   : Option Byte
  /-- What keeps its response; and the period of the partition from which it can come (R49, R366, R471). -/
  held    : Hold
  since   : Nat
deriving DecidableEq, Repr, Inhabited

/-- An entry of the outbound buffer (R284): its data once read, its grant, its acknowledgement. -/
structure OutItem where
  desc    : Nat
  inst    : Nat
  xfer    : Nat
  data    : Option (BitVec 512)
  slot    : Nat
  granted : Bool
  ackDue  : Nat
  acked   : Option Nat
  cause   : Fin 7
  error   : Option Byte
  /-- What keeps its response; and the period of the partition from which it can come (R49, R366, R471). -/
  held    : Hold
  since   : Nat
deriving DecidableEq, Repr, Inhabited

/-- The send of a message unit that is to be read (R138): its sequencer, its bundle, and the tick of its request-queue
entry, which no other send shares. -/
structure SendRef where
  seq   : Fin 4
  pc    : BitVec 12
  entry : Nat
deriving DecidableEq, Repr, Inhabited

/-- A request waiting at the scratchpad's edge for the stream port (R217): a write of an item, or a read of
64 bytes for a spill, a rotation or a message unit whose slot was the given tick. -/
structure EdgeReq where
  read : Bool
  slot : Nat
  item : LandItem
  /-- For a unit of a message, its send (R138). -/
  send : Option SendRef
deriving DecidableEq, Repr, Inhabited

/-- A unit of an inbound message for an anchor buffer, on its way into the scratchpad at remote priority (R217, R272). -/
structure InAdd where
  off     : Nat
  data    : BitVec 512
  /-- Period of the target's partition in which it reached the edge, and in which its banks were read. -/
  reached : Nat
  readAt  : Option Nat
  sum     : BitVec 512
  /-- Flag and amount that the write of a message's last unit adds (R271). -/
  flag    : Option (Byte × W32)
  /-- The credit that the last unit's write sets on its way back (R273, log entry 93); its tick is that write's. -/
  back    : Option CreditReturn
deriving DecidableEq, Repr, Inhabited

/-- The stream-engine state of one core or context (R276–R290, R294). -/
structure StreamUnit where
  progs   : Vector StreamProg 64
  /-- Descriptor that took the previous grant of each row, and the previous write slot (R282). -/
  lastGrant : Vector (Fin 64) 5
  lastWrite : Fin 64
  /-- Items granted or sent, not yet given a read slot; rotation transfers are those sent to this member. -/
  landing : List LandItem
  outbound : List OutItem
  edge    : List EdgeReq
  late    : BitVec 16
  lastDone : BitVec 6
  split   : BitVec 2
  /-- Ticks below these have had their grants, slots and edge access. -/
  grantTick : Vector Nat 5
  slotTick  : Nat
  remoteTick : Nat
  edgeTick  : Nat
deriving DecidableEq, Repr, Inhabited

/-- A scratchpad read under parity replay (R224). -/
structure Replay where
  offset  : Nat
  word    : Nat
  source  : BitVec 2
  tries   : Nat
  /-- Tick of the check, two after the bank read (R223). -/
  checkAt : Nat
  /-- Period of the last failed check, once it has failed; a resend arrives 3 periods later. -/
  since   : Nat
  due     : Nat
  seq     : Fin 4
  pc      : BitVec 12
  persistent : Bool
  /-- The read's check has failed and is recorded; its detector, and whether the failure was injected. -/
  checked : Bool
  det     : BitVec 16
  inj     : Bool
deriving DecidableEq, Repr, Inhabited

/-- The units of a whole core (context 0) or of one context (R24). -/
structure CtxUnit where
  /-- The stall domain the core or context is bound to (R391). -/
  bound   : Option (Fin 16)
  halt    : HaltRec
  ldUnit  : Option RepeatUnit
  stUnit  : Option RepeatUnit
  rqueue  : List Request
  flights : List Flight
  fills   : List Fill
  stores  : List PendingStore
  credits : List CreditReturn
  replays : List Replay
  /-- Units of inbound messages for anchor buffers here, in order of arrival. -/
  adds    : List InAdd
  matrix  : MatrixUnit
  vector  : VectorUnit
  stream  : StreamUnit
  /-- Number of the next flight. -/
  nextUid : Nat
  /-- Banks taken so far on the present period, and those a split-context line takes on the next schedule tick
  (R213, R214). -/
  busBanks : W32
  busNext  : W32
  /-- Tick of the last transfer of a line through each port, and of the last store write. -/
  ldLine   : Option Nat
  stLine   : Option Nat
  stWrote  : Option Nat
  /-- A remote request has been served on the present tick (R217). -/
  remServed : Bool
  /-- The ledger registers as of the end of the last period: codes 0 to 6, MISS, MAYVARY, SCHED and TICKS (R490). -/
  ledger    : Vector W64 11
deriving DecidableEq, Repr, Inhabited

/-- SP_PARITY (R231, R232). -/
structure SpParity where
  valid  : Bool
  persistent : Bool
  source : BitVec 2
  bank   : BitVec 5
  word   : BitVec 3
  row    : BitVec 12
  /-- The partition's period of the recorded check, by which checks of one tick are known (R9, R232). -/
  since  : Nat
deriving DecidableEq, Repr, Inhabited

/-- One physical core. -/
structure Core where
  split  : Bool
  /-- A load has fixed the configuration until the next L2 reset (R25, R391). -/
  fixed  : Bool
  seqs   : Vector Sequencer 4
  vregs  : Vector Entry 16
  /-- Writes of vector registers at the end of the present tick, with the issue ticks of their operations
  (R130, R154, R188). -/
  vregPend : List (Fin 16 × Entry × Nat)
  lqs    : Vector LinkQueue 4
  /-- Instruction memory: bundles by physical address, ascending; an unlisted bundle is zero (R73). -/
  imem   : List (Nat × RawBundle)
  /-- Bundles whose stored parity is wrong (R78). -/
  imemBad : List Nat
  pages  : Vector PageState 16
  ags    : Vector AddrGen 8
  flags  : Vector W32 256
  flagPend : List FlagChange
  classes : Vector (BitVec 2) 256
  monos  : List MonoDecl
  /-- The copies of both tables that the other cores of the partition hold (R237). -/
  toldClasses : Vector (BitVec 2) 256
  toldMonos : List MonoDecl
  drift  : W64
  mqs    : Vector MsgQueue 8
  credit : Vector Byte 256
  msgSeq : Vector W32 256
  eps    : Vector (Option Entry) 16
  rowAcc : Vector RowAcc 8
  srState : Vector W32 64
  units  : Vector CtxUnit 2
  replays : BitVec 16
  lateWrites : Byte
  bankOn : W32
  /-- SP_CTRL.BANK_OFF, and banks whose power-down waits for writes in flight (R226, R228). -/
  bankOff : W32
  pdWait : List (Fin 32 × Nat)
  /-- Banks powered down by the binary's mask during a run (R226). -/
  runOff : W32
  clearing : Bool
  spParity : SpParity
  /-- The failed check that the present period would leave there, were VALID cleared (R9, R232). -/
  spFresh  : SpParity
  /-- The record as it stood before the checks of that period. -/
  spBase   : SpParity
  /-- Breakpoint enables in force on the present tick, and as DBG_CTRL holds them (R489). -/
  dbgCtrl : BitVec 2
  dbgNext : BitVec 2
  /-- The unit is held in an L3 reset (R443). -/
  inReset : Bool
deriving DecidableEq, Repr, Inhabited

/-! Reset values of a core: R86, R159, R210, R231, R254, R275, R294, and log entry 1 for the
registers without one. -/

def Sequencer.reset : Sequencer where
  st := .idle
  pc := 0
  lastPc := 0
  sregs := Vector.replicate 32 0
  pregs := Vector.replicate 8 0
  sregTick := Vector.replicate 32 (0, 0)
  loops := []
  winLo := 0
  winHi := 0
  cause := .none
  waitLocal := false
  wdCount := 0
  resumeAt := 0
  nextTick := 0
  shown := false
  barSent := false

def LinkQueue.reset : LinkQueue where
  entries := []
  nextId := 0
  headSlot := 0
  popTick := 0
  pops := 0
  pushTick := 0
  pushes := 0

/-- An unloaded generator: every field zero and DONE set (R107). -/
def AddrGen.reset : AddrGen where
  base := 0
  count := Vector.replicate 6 0
  stride := Vector.replicate 6 0
  levels := 0
  exhaust := false
  idx := Vector.replicate 6 0
  done := true
  loaded := false
  staged := none

def Plane.reset : Plane where
  cells := Vector.replicate 128 (Vector.replicate 64 0)
  st := .free
  vecFed := false
  fmtA := 0

def Sticky.reset : Sticky := { val := 0, fresh := 0, raised := [] }

def MatrixUnit.reset : MatrixUnit where
  planes := Vector.replicate 2 Plane.reset
  feed := none
  drains := []
  lastDelivery := none
  flags := Sticky.reset

def VectorUnit.reset : VectorUnit := { op := none, flags := Sticky.reset }

/-- The values rxinit and RUN set (R204): m is minus infinity. -/
def RowAcc.reset : RowAcc where
  m := 0xFF800000
  k := 0
  live := false
  nan := false
  s := 0
  st := 0
  sat := false
  a := 0

def MsgQueue.reset : MsgQueue where
  units := Vector.replicate 64 0
  wp := 0
  rp := 0
  occ := 0
  descs := []
  quotaHolds := 0

def HaltRec.reset : HaltRec where
  halted := false
  tick := 0
  seqMask := 0
  seq := 0
  fetch := 0
  code := 0

def StreamProg.reset : StreamProg where
  inst := 0
  active := false
  startFrom := 0
  xfer := 0
  granted := 0
  counts := []
  completed := 0

/-- Grant rows and write slots stand as though descriptor 63 had gone last (R282); RUN sets 31 in a context. -/
def StreamUnit.reset : StreamUnit where
  progs := Vector.replicate 64 StreamProg.reset
  lastGrant := Vector.replicate 5 63
  lastWrite := 63
  landing := []
  outbound := []
  edge := []
  late := 0
  lastDone := 0
  split := 0
  grantTick := Vector.replicate 5 0
  slotTick := 0
  remoteTick := 0
  edgeTick := 0

def CtxUnit.reset : CtxUnit where
  bound := none
  halt := HaltRec.reset
  ldUnit := none
  stUnit := none
  rqueue := []
  flights := []
  fills := []
  stores := []
  credits := []
  replays := []
  adds := []
  matrix := MatrixUnit.reset
  vector := VectorUnit.reset
  stream := StreamUnit.reset
  nextUid := 0
  busBanks := 0
  busNext := 0
  ldLine := none
  stLine := none
  stWrote := none
  remServed := false
  ledger := Vector.replicate 11 0

def SpParity.reset : SpParity where
  valid := false
  persistent := false
  source := 0
  bank := 0
  word := 0
  row := 0
  since := 0

def Core.reset : Core where
  split := false
  fixed := false
  seqs := Vector.replicate 4 Sequencer.reset
  vregs := Vector.replicate 16 0
  vregPend := []
  lqs := Vector.replicate 4 LinkQueue.reset
  imem := []
  imemBad := []
  pages := Vector.replicate 16 .empty
  ags := Vector.replicate 8 AddrGen.reset
  flags := Vector.replicate 256 0
  flagPend := []
  classes := Vector.replicate 256 0
  monos := []
  toldClasses := Vector.replicate 256 0
  toldMonos := []
  drift := 0
  mqs := Vector.replicate 8 MsgQueue.reset
  credit := Vector.replicate 256 0
  msgSeq := Vector.replicate 256 0
  eps := Vector.replicate 16 none
  rowAcc := Vector.replicate 8 RowAcc.reset
  srState := Vector.replicate 64 0
  units := Vector.replicate 2 CtxUnit.reset
  replays := 0
  lateWrites := 0
  bankOn := 0xFFFFFFFF
  bankOff := 0
  pdWait := []
  runOff := 0
  clearing := false
  spParity := SpParity.reset
  spFresh := SpParity.reset
  spBase := SpParity.reset
  dbgCtrl := 0
  dbgNext := 0
  inReset := false

end Sys2Proof.Machine
end

