-- ==== Sys2Proof/Machine/ProgTypes.lean ====
section
/-! DEFINITION. A loaded Clastan binary as the device keeps it (R111–R116) and the state of a stall
domain and its run (R35–R58, R385). -/

namespace Sys2Proof.Machine

/-- A core section (R113). -/
structure CoreSect where
  ctx      : CtxId
  split    : Bool
  access   : Bool
  execute  : Bool
  aEntry   : BitVec 13
  xEntry   : BitVec 13
  aLo      : BitVec 4
  aHi      : BitVec 4
  xLo      : BitVec 4
  xHi      : BitVec 4
  banksOff : W32
deriving DecidableEq, Repr, Inhabited

/-- A pages section: the first page and the bundles, by the addresses the core or context names (R112). -/
structure PageSect where
  ctx     : CtxId
  first   : Nat
  count   : Nat
  bundles : List RawBundle
deriving DecidableEq, Repr, Inhabited

/-- A route-table entry (R260). -/
structure RouteEntry where
  kind   : Byte
  fadd   : Bool
  fper   : Bool
  target : CtxId
  queue  : Fin 8
  quota  : Nat
  tflag  : Byte
  taddr  : W32
  inid   : Byte
deriving DecidableEq, Repr, Inhabited

/-- An inbound-table entry (R261). -/
structure InEntry where
  kind   : Byte
  fadd   : Bool
  fper   : Bool
  target : CtxId
  queue  : Fin 8
  quota  : Nat
  tflag  : Byte
  taddr  : W32
  src    : BitVec 18
deriving DecidableEq, Repr, Inhabited

/-- A stream descriptor (R280). -/
structure StreamDesc where
  kind    : Byte
  fadd    : Bool
  flag    : Byte
  maddr   : W64
  saddr   : W32
  bytes   : W32
  start   : W64
  period  : W32
  repeats : W32
  mstride : W64
  sstride : W32
  swrap   : BitVec 16
deriving DecidableEq, Repr, Inhabited

/-- A barrier participant: a core or context and its access (false) or execute (true) stream (R114). -/
structure Participant where
  ctx     : CtxId
  execute : Bool
deriving DecidableEq, Repr, Inhabited

/-- A barrier-table entry (R114). -/
structure BarEntry where
  bctx     : Fin 64
  extended : Bool
  group    : BitVec 12
  parts    : List Participant
deriving DecidableEq, Repr, Inhabited

/-- The pace table (R53): pairs (T_k, D_k). -/
structure Pace where
  haltOnMiss : Bool
  reserve    : W32
  points     : List (Nat × Nat)
deriving DecidableEq, Repr, Inhabited

/-- A collective descriptor (R297), with the agreement check of R301. -/
structure CollDesc where
  kind    : Byte
  format  : Byte
  order   : Byte
  anchor  : Byte
  step    : Byte
  reruns  : Byte
  cid     : BitVec 16
  core    : CtxId
  flag    : Byte
  chan    : Byte
  root    : Nat
  lfirst  : Nat
  lcount  : Nat
  group   : Nat
  iaddr   : Nat
  oaddr   : Nat
  raddr   : Nat
  start   : Nat
  period  : Nat
  repeats : Nat
  check   : W32
deriving DecidableEq, Repr, Inhabited

/-- A layer-table entry (R298). -/
structure Layer where
  rows  : Nat
  rank  : Nat
  scale : Byte
deriving DecidableEq, Repr, Inhabited

/-- A monotonic declaration as the binary carries it (R239). -/
structure MonoSpec where
  flag     : Byte
  consumer : Bool
  partner  : CtxId
  pflag    : Byte
  depth    : W32
deriving DecidableEq, Repr, Inhabited

/-- A loaded binary (R111–R114) without its bundles, which are installed in instruction memory. Tables
of a core or context are keyed by it; an absent table is empty (R112). -/
structure Program where
  digest   : Digest
  portable : Bool
  tdSplit  : BitVec 2
  traps    : BitVec 3
  watchdog : W32
  cores    : List CoreSect
  pages    : List PageSect
  ags      : List (CtxId × List (BitVec 512))
  eps      : List (CtxId × List Entry)
  classes  : List (CtxId × List (BitVec 2))
  monos    : List (CtxId × List MonoSpec)
  routes   : List (CtxId × List RouteEntry)
  streams  : List (CtxId × List StreamDesc)
  inbound  : List InEntry
  barriers : List BarEntry
  refresh  : List (Fin 64 × Nat)
  pace     : Option Pace
  groups   : List (List (BitVec 18))
  colls    : List CollDesc
  layers   : List Layer
  /-- The frequency floor of R54 in kHz; zero for an unpaced binary (R390). -/
  floorKHz : Nat
deriving DecidableEq, Repr, Inhabited

/-- Domain states with the codes of R385. -/
inductive DomState where
  | empty | loading | loaded | running | ended | halted
deriving DecidableEq, Repr, Inhabited

/-- What a variable item is (R36). -/
inductive ItemRef where
  /-- An external flag check (R238): the flag must reach need; sub takes the amount. -/
  | extFlag (c : CtxId) (seq : Fin 4) (flag : Byte) (need : W32) (sub : Option W32)
  /-- The credit of a send on an external channel (R273). -/
  | credit (c : CtxId) (chan : Byte) (units : Nat)
  /-- A credit return that crosses a die link (R268). -/
  | creditBack (c : CtxId) (chan : Byte) (units due : Nat)
  /-- The fabric release of a round of an extended context at a participant (R253). -/
  | fabRelease (b : Fin 64) (round : Nat) (w : SeqId)
  /-- A core transfer, flag signal or message in transport (R127), by its number. -/
  | flight (c : CtxId) (uid : Nat)
  /-- A transfer of a stream instance (R287). -/
  | stream (c : CtxId) (desc inst xfer : Nat)
  /-- A read under parity replay (R224). -/
  | replay (c : CtxId)
  /-- A barrier release delayed by a die-link retry (R252). -/
  | release (b : Fin 64)
  /-- The state copy of a SNAPSHOT (R395). -/
  | copy
  /-- An overlay page that has been loaded, ready since then (R77). -/
  | overlay (core : CoreId) (page : Fin 16)
deriving DecidableEq, Repr, Inhabited

/-- A variable item (R36, R37): its due tick, the period since which it has been ready, and the cause of
R41 under which lateness is ledgered. -/
structure VarItem where
  ref   : ItemRef
  due   : Nat
  ready : Option Nat
  cause : Fin 7
deriving DecidableEq, Repr, Inhabited

/-- The record of a run's first halt (R393). -/
structure FirstHalt where
  ctx  : CtxId
  seq  : Fin 4
  tick : Nat
  code : Byte
deriving DecidableEq, Repr, Inhabited

/-- A partial sum that waits for further contributions, tree and first-come order: the frame, its elements and
the trailer bits so far (R309, R310). -/
structure CollPart where
  seq   : Nat
  vals  : List Nat
  flags : BitVec 3
deriving DecidableEq, Repr, Inhabited

/-- A collective instance (R302–R322). Trailer bits: 0 OVF, 1 INV, 2 TSAT (R316). -/
structure CollInst where
  desc     : Fin 16
  inst     : Nat
  attempt  : Nat
  /-- The attempt has read the input region and sent its first frames. -/
  begun    : Bool
  /-- Frames of the attempt that have been used: phase, shard, sequence number. -/
  used     : List (Nat × Nat × Nat)
  partials : List CollPart
  /-- v_p of R319. -/
  flags    : BitVec 3
  /-- The verdict step in progress; zero before the verdict lap. -/
  step     : Nat
  /-- A frame that was used had been retried (R304). -/
  retried  : Bool
  tx       : Nat
  rx       : Nat
deriving DecidableEq, Repr, Inhabited

/-- An abort of an instance that has not started (R321): its status, and the ACAUSE to forward when it starts; zero
when its abort frames have been sent. -/
structure CollAbort where
  desc   : Fin 16
  inst   : Nat
  status : Nat
  acause : Nat
deriving DecidableEq, Repr, Inhabited

/-- A collective frame in a partition's receive buffer (R317, R318): the plane it came on, none from a partition of
the same package; its sender; whether it was retried; and an injected disagreement. -/
structure HeldFrame where
  plane   : Option (Fin 8)
  /-- The domain of a sender in the package, whose frames stay where they are while it stalls (R303). -/
  dom     : Option DomId
  src     : Nat
  /-- Link sequence number; zero for a frame inside the package. -/
  lseq    : Nat
  retried : Bool
  bad     : Bool
  body    : BitVec 1792
deriving DecidableEq, Repr, Inhabited

/-- The state of a run (R26–R58). -/
structure Run where
  /-- The schedule tick in progress, as rdtick counts it (R122). -/
  tick      : Nat
  /-- Ramp ticks left of a restored run (R258). -/
  ramp      : Nat
  /-- Periods since the run's first period, stall periods included. -/
  period    : Nat
  sched     : Nat
  ledger    : Vector W64 7
  miss      : W64
  mayvary   : W64
  openMode  : Bool
  session   : W64
  restored  : Bool
  /-- The first tick has begun (R387, R394). -/
  started   : Bool
  /-- The first tick after the ramp of a restored run has not executed yet, which fixes its pace start (R258). -/
  resuming  : Bool
  paceStart : Nat
  tStart    : Nat
  stalled   : Bool
  items     : List VarItem
  first     : Option FirstHalt
  /-- Tick on which the other cores halt with 0x16 (R40). -/
  abortAt   : Option Nat
  /-- Handle of a HALT that has not yet taken effect (R394). -/
  hostHalt  : Option W32
  /-- A HALT has taken effect in the present period: its command completes as the period ends (R81). -/
  halting   : Bool
  /-- The tick after an open refresh window; zero when none is open (R48). -/
  window    : Nat
  /-- Windows whose first tick is still to come, with their lengths. -/
  openings : List (Nat × Nat)
  /-- Deadline points already checked (R55). -/
  deadline  : Nat
  /-- Deadline points that were missed (R56). -/
  missed    : List Nat
  /-- Steps of the activity ramp begun so far (R431). -/
  rampStep  : Nat
  /-- The tick in progress is a deadline point that has not been checked yet (R55). -/
  pointDue  : Bool
  /-- The interval of R44 has ended by a halt. -/
  closed    : Bool
  /-- The last tick of the run, and the time in ns at which it ended (R395, R491). -/
  lastTick  : Nat
  endNs     : Nat
  /-- The tick before the one in progress was the last of a run that has not halted (R44). -/
  ended     : Bool
  /-- Elapsed time E_c of a restored run, which its pace start takes off (R258). -/
  elapsed   : Nat
  tainted   : Bool
  /-- Aborted by a reset (R401). -/
  aborted   : Bool
  colls     : List CollInst
  /-- Next instance number of each collective descriptor (R302). -/
  collNext  : Vector Nat 16
  collAbort : List CollAbort
deriving DecidableEq, Repr, Inhabited

/-- The pennant fields assembled at the end of a run (R461), before the signature: bytes 0–495. -/
structure PennantData where
  bytes   : BitVec 3968
  tainted : Bool
deriving DecidableEq, Repr, Inhabited

/-- A message under assembly at the receiving hub (R348). -/
structure Assembling where
  src    : BitVec 18
  inid   : Byte
  mseq   : W32
  sender : BitVec 10
  chan   : Byte
  len    : Nat
  units  : List (Nat × BitVec 512)
  /-- It has found no room and counts in QUOTA_HOLDS (R274). -/
  held   : Bool
  /-- A frame of it was retried (R337). -/
  retried : Bool
  /-- It is refused once it is complete (R274, R475). -/
  refused : Bool
deriving DecidableEq, Repr, Inhabited

/-- The next MSEQ expected of a sending channel at an inbound entry (R348). -/
structure InSeq where
  inid   : Byte
  sender : BitVec 10
  chan   : Byte
  next   : W32
deriving DecidableEq, Repr, Inhabited

/-- One stall domain (R35, R385). -/
structure Domain where
  st        : DomState
  /-- State to return to when a load fails (R390). -/
  prior     : DomState
  prog      : Option Program
  run       : Option Run
  runHandle : Option W32
  pennant   : Option PennantData
  overlay   : Digest
  overlays  : Bool
  weightsAtRun : Digest
  restoreDigest : Digest
  /-- Deliveries by inbound identifier and sending channel: next MSEQ expected (R348); 0 where none is listed. -/
  inSeq     : List InSeq
  /-- Partly received and complete undelivered messages (R348). -/
  assembling : List Assembling
deriving DecidableEq, Repr, Inhabited

def Domain.reset : Domain where
  st := .empty
  prior := .empty
  prog := none
  run := none
  runHandle := none
  pennant := none
  overlay := 0
  overlays := false
  weightsAtRun := 0
  restoreDigest := 0
  inSeq := []
  assembling := []

end Sys2Proof.Machine
end

