-- ==== Sys2Proof/Machine/ChipTypes.lean ====
section
/-! DEFINITION. The state of the hub and of everything outside the cores: rings, commands in progress,
MSI-X, partitions, barriers, boot, security, reset, power, clocks, errors, the fabric, HBM3E and CXL
status, and the pins. Plain data. -/

namespace Sys2Proof.Machine

/-- A byte memory: (address, byte) pairs, addresses strictly rising, no entry equal to what an unlisted
address reads as. -/
abbrev Mem := List Host.Cell

/-- A ring (R375–R384, R484). -/
structure Ring where
  cmdBase  : BitVec 52
  cplBase  : BitVec 52
  coal     : BitVec 16
  vec      : BitVec 6
  owner    : BitVec 4
  cplLog2  : BitVec 5
  cmdLog2  : BitVec 5
  enabled  : Bool
  stopped  : Bool
  dbErr    : Bool
  cfgErr   : Bool
  phase    : Bool
  cmdHead  : BitVec 16
  cmdTail  : BitVec 16
  cplTail  : BitVec 16
  cplHead  : BitVec 16
  seq      : BitVec 26
  held     : List (BitVec 256)
  /-- Handles of commands without a final completion; those of an earlier enabling are kept apart. -/
  outstanding : List W32
  /-- Entries written since the last MSI-X message of the ring (R383). -/
  unsent   : Bool
  /-- Time at which the coalescing interval ends. -/
  coalDue  : Nat
deriving DecidableEq, Repr, Inhabited

/-- The MSI-X state of one function (R486). -/
structure Msix where
  addr   : Vector W64 64
  data   : Vector W32 64
  mask   : W64
  pba    : W64
  /-- The function-level enable and mask of the MSI-X capability (log entry 101). -/
  enabled : Bool
  fmask  : Bool
deriving DecidableEq, Repr, Inhabited

/-- The work of a command that has no final completion yet. -/
inductive Job where
  | loadProgram (haddr : W64) (hlen : W32)
  | overlay (image : List Byte)
  | loadTensor (b : LoadTensorBody)
  /-- The saved image of a RUN with RESTORE, as read at acceptance; empty without. -/
  | run (image : List Byte)
  | halt
  | snapshot (haddr : W64) (hlen : W32) (bctx : Byte)
  | readTensor (b : ReadTensorBody)
  | pennant (haddr : W64) (bytes : BitVec 3968)
  | reset (level : Byte) (unit : BitVec 16)
deriving DecidableEq, Repr, Inhabited

/-- A command between acceptance and its final completion (R381). -/
structure Cmd where
  handle : W32
  hdr    : CmdHdr
  opcode : Byte
  job    : Job
  /-- Data captured for the host: a snapshot image or read bytes, with the capture tick. -/
  data   : Option (List Byte × Nat)
  /-- A READ_TENSOR or SNAPSHOT waits for this round of its context (R395, R396). -/
  round  : Nat
  /-- The capture or the data phase has begun. -/
  active : Bool
  failed : Bool
  /-- Its data phase has begun; the requests of it that have acted, and the bytes that a read has gathered (R392, R396, R506). -/
  begun  : Bool
  pos    : Nat
  got    : List Byte
  /-- Its data is withheld until its deadline point (R56). -/
  held   : Bool
  /-- When that point lies, in sixteenths of 1 ns of the time counter. -/
  release : Nat
  /-- A function-level reset has cut it off from its ring (R401). -/
  mute   : Bool
deriving DecidableEq, Repr, Inhabited

/-- A weight record (R392, R460). -/
structure Weight where
  space  : Byte
  addr   : W64
  len    : W32
  digest : Digest
deriving DecidableEq, Repr, Inhabited

/-- A frame waiting to be sent on the fabric: its class, destination and nominal plane (R338, R344). -/
structure TxFrame where
  part  : PartId
  /-- The domain of a collective frame, which sends none while it stalls (R303). -/
  dom   : Option DomId
  kind  : BitVec 4
  dst   : BitVec 18
  nominal : Fin 8
  body  : BitVec 1792
  resend : Bool
  /-- The plane on which it was first sent (R332). -/
  first : Option (Fin 8)
deriving DecidableEq, Repr, Inhabited

/-- A channel-message or credit item between stall domains inside the hub, and credit bookkeeping. -/
structure CreditTx where
  dst   : BitVec 18
  cseq  : W32
deriving DecidableEq, Repr, Inhabited

/-- One partition (R22, R29, R385, R324, R421). -/
structure Part where
  openMode : Bool
  attached : Option (Fin 64)
  clearing : Bool
  doms     : Vector Domain 16
  weights  : List Weight
  /-- An L2 reset is in progress, with the handles of the commands that wait for it. -/
  resetting : Bool
  resetCmds : List W32
  -- collective engine (R324)
  ceRerun  : BitVec 16
  ceSat    : BitVec 16
  ceAbort  : BitVec 16
  ceRefuse : BitVec 16
  ceLast   : W64
  /-- Time of the recorded event, in sixteenths of 1 ns (R325). -/
  ceLastAt : Nat
  /-- What CE_LASTERR would hold had it been clear when the present tick began, and when that was recorded (R9, R325). -/
  ceFresh  : W64
  ceFreshAt : Nat
  ceHeld   : List HeldFrame
  /-- Frames from partitions of the package that wait for room in the receive buffer (R317). -/
  ceWait   : List HeldFrame
  /-- Instances that an engine reset aborted, whose abort frames leave with its release (R323): domain, descriptor,
  instance. -/
  ceReset  : List (Fin 16 × Fin 16 × Nat)
  /-- Credit sequence numbers sent and applied, per other fabric address (R347). -/
  cseqTx   : List CreditTx
  cseqRx   : List CreditTx
  txq      : List TxFrame
  -- power and clock
  fcode    : Byte
  /-- A code chosen and not yet applied, and whether the rails must settle first (R405, R423). -/
  nextCode : Option Byte
  settling : Bool
  /-- When the code in nextCode was decided, in sixteenths of 1 ns: it is applied 1 µs later at the earliest (R405). -/
  decided  : Nat
  belowFloor : BitVec 16
  lowered  : BitVec 16
  critSeen : Bool
  /-- Start of the next period of the partition's clock, in sixteenths of 1 ns times F (R405). -/
  edge     : Nat
  /-- Periods counted since release (R407). -/
  periods  : Nat
  /-- Extra period lengths owed to own stretches (R406). -/
  stretch  : Nat
  lastOwn  : Option Nat
  /-- Time since which every domain has been EMPTY, in ns elapsed (R430). -/
  emptySince : Nat
  /-- When a command that needs the ponds last came, in sixteenths of 1 ns elapsed (R430). -/
  lastNeed : Option Nat
  -- CXL (R369, R370)
  cxlValid : Bool
  cxlUnits : BitVec 16
deriving DecidableEq, Repr, Inhabited

/-- A participant of a claimed barrier context (R246–R251), by numbers of rounds. -/
structure BarPart where
  who      : Participant
  /-- Arrivals sent: the last is that of round arrivals − 1. -/
  arrivals : Nat
  /-- Rounds whose release has reached the participant. -/
  reached  : Nat
  /-- Rounds that it has left. -/
  left     : Nat
  /-- The hub holds its arrival for the round after the oldest incomplete one. -/
  heldNext : Bool
  /-- Its bar or barout on an extended context has issued, and it leaves the round four ticks after (R253). -/
  leaving  : Bool
  /-- The tick of its first operation after the arrival in the round that it leaves next (R249). -/
  nextAt   : Nat
deriving DecidableEq, Repr, Inhabited

/-- A signal on its way to the hub: the arrival of a participant in a round, or its departure from one
(R248, R250). -/
structure BarSignal where
  depart : Bool
  part   : Nat
  round  : Nat
  due    : Nat
  pc     : BitVec 12
deriving DecidableEq, Repr, Inhabited

/-- A barrier context (R245–R255). -/
structure Barrier where
  claim    : Option DomId
  extended : Bool
  group    : BitVec 12
  parts    : List BarPart
  round    : W64
  sense    : Bool
  counted  : BitVec 16
  awaitDep : BitVec 16
  held     : BitVec 16
  violation : Bool
  signals  : List BarSignal
  /-- Tick on which the due release takes place, and on which it reaches the participants. -/
  releaseAt : Option Nat
  reachAt   : Option Nat
  /-- The tick on which a release last reached the participants. -/
  lastReach : Option Nat
  /-- Extended: the local count is complete and signalled, the fabric has released it, with a retry. -/
  localDone : Bool
  fabDone   : Bool
  retried   : Bool
  /-- Violators halt on the given tick with 0x09 (R251). -/
  halts     : List (Participant × Nat × BitVec 12)
deriving DecidableEq, Repr, Inhabited

/-- Boot states with the codes of R448. -/
inductive BootState where
  | idle | fetching | verifying | running | ready | failed
deriving DecidableEq, Repr, Inhabited

/-- The boot ROM and the RESET block (R435–R450). -/
structure ResetBlock where
  source    : BitVec 9
  mainPower : Bool
  lastLevel : BitVec 2
  lastUnit  : BitVec 16
  retPerr   : Bool
  cfgRaw    : BitVec 6
  cfgInvalid : Bool
  cfgCode   : BitVec 4
  wdTimeout : W32
  wdArmed   : Bool
  bootAddr  : BitVec 52
  bootLen   : W32
  /-- Address and length of the download in progress, as they stood when GO was written (R448). -/
  fetchAddr : BitVec 52
  fetchLen  : W32
  attempts  : W32
  bootErr   : Byte
  boot      : BootState
  bkup      : Vector W64 16
  /-- Retained-memory words whose stored parity is wrong, by byte offset. -/
  retBad    : List Nat
  /-- Hub SRAM holding the Voath image (R435). -/
  image     : List Byte
  /-- Steps of R441 that have ended (0 to 5), and whether the last L0 or L1 was an L0. -/
  step      : Nat
  aux       : Bool
  main      : Bool
  perst     : Bool
  /-- L3 resets in progress: unit, and the command that waits for it. -/
  units     : List (BitVec 16 × Option W32)
  /-- The sources raised on the present hub tick: its time, the most extensive of their levels, the partitions they
  reach (R439). -/
  raised    : Option (Nat × Nat × List PartId)
  /-- Thermal-trip output (R432). -/
  tripOut   : Bool
  /-- SMBus read offset; the target answers once cfg_sense has been measured (R501). -/
  smbOffset : W32
  smbOn     : Bool
  /-- Data of the last SMBus read and the last value a debug-port data register shifted out. -/
  smbData   : W64
  jtagOut   : BitVec 2112
  /-- The debug port's instruction register, and its BYPASS register (R462). -/
  jtagIr    : Byte
  jtagBypass : Bool
  /-- The level of TRST_N (R500), which the board drives (log entry 100). -/
  trstN     : Bool
deriving DecidableEq, Repr, Inhabited

/-- Debug-port states with the codes of R467. -/
inductive DbgState where
  | closed | verifying | erasing | opened
deriving DecidableEq, Repr, Inhabited

/-- Requests to the security engine, signed one at a time (R458). -/
inductive SignReq where
  | attest (addr : BitVec 58) (report : BitVec 2176)
  | pennant (handle : W32)
deriving DecidableEq, Repr, Inhabited

/-- A token under verification: the challenge it was submitted against, whether it came by the port, and when (R464). -/
structure Submission where
  token : BitVec 2112
  chal  : Digest
  port  : Bool
  time  : Nat
deriving DecidableEq, Repr, Inhabited

/-- Fuses, debug port and SECURITY block (R451–R467). -/
structure Security where
  seed      : BitVec 384
  serial    : W64
  keyDig    : Vector Digest 8
  purpose   : BitVec 16
  revoked   : Byte
  /-- The revocations that checks see: those that stood when the present boot began (R455). -/
  revActive : Byte
  svnFused  : Nat
  /-- Security-version fuses blown so far, which the next L0 senses (R454). -/
  svnBlown  : Nat
  stepping  : Byte
  resetMap  : W64
  spare     : Vector Byte 32
  imgSvn    : BitVec 7
  imgSlot   : BitVec 3
  idValid   : Bool
  debugOpened : Bool
  /-- Fused version being blown (R454). -/
  fusing    : Option Nat
  commitRefused : Bool
  revokeRefused : Bool
  attAddr   : BitVec 58
  attState  : BitVec 2
  attErr    : Byte
  attCount  : W32
  attNonce  : Vector W64 6
  challenge : Digest
  draws     : Nat
  token     : Vector W64 33
  portToken : BitVec 2112
  /-- Tokens under verification (R464). -/
  verify    : List Submission
  fails     : Byte
  dbgErr    : Byte
  dbg       : DbgState
  queue     : List SignReq
  pserial   : W64
  fwDigest  : Digest
  fwValid   : Bool
  spDigest  : Digest
  spDigValid : Bool
deriving DecidableEq, Repr, Inhabited

/-- Pond power states with the codes of R434. -/
inductive PondState where
  | off | waking | running | retention
deriving DecidableEq, Repr, Inhabited

/-- One pond's power and clock state (R407, R420, R434). -/
structure Pond where
  st       : PondState
  temp     : Byte
  throttled : Bool
  current  : BitVec 16
  trim     : BitVec 16
  volt     : BitVec 16
  /-- The rail's set point in mV: the curve at the code, and the trim (R422). -/
  setMv    : Int
  /-- When the pond's wake slot ends, in ns elapsed (R429). -/
  wakeAt   : Nat
  crit     : Bool
  deferred : BitVec 16
  realigns : BitVec 16
  stretches : BitVec 16
  /-- The stretch count n_k (R406). -/
  count    : Nat
  /-- Period of the last own stretch. -/
  lastOwn  : Option Nat
  /-- A deferred demand (R407), and the period of a scheduled realignment stretch (R408). -/
  demand   : Bool
  realignAt : Option Nat
deriving DecidableEq, Repr, Inhabited

/-- The package's power registers and readings (R421–R434). -/
structure Power where
  idleGate  : Bool
  idleMs    : BitVec 12
  limitW    : BitVec 12
  pkgW      : BitVec 16
  overFloor : Bool
  limitRefused : Bool
  fastLimit : Bool
  ponds     : Vector Pond 32
  /-- Temperatures and throttle latches of sensors 32–59 (R432). -/
  temps     : Vector Byte 60
  throttled : BitVec 60
  /-- Stretch notices on their way: partition, die of the own stretch, arrival period (R408). -/
  notices   : List (PartId × Fin 4 × Nat)
deriving DecidableEq, Repr, Inhabited

/-- The time counter and the CLOCK_TIME block (R417–R420, R352, R353). -/
structure Clock where
  /-- Sixteenths of 1 ns elapsed since the time domain was released; the phase of the 250 MHz clock. -/
  elapsed  : Nat
  /-- The counter in sixteenths of 1 ns. -/
  time16   : Nat
  setRefused : Bool
  /-- Correction still to be slewed, in sixteenths, signed; half rate: still to be lost. -/
  slew     : Int
  half     : Nat
  /-- Correction in progress: 0 none, 1 slewed, 2 at half rate (R352). -/
  corr     : BitVec 2
  refLost  : Bool
  refOk    : Bool
  /-- Edges arrive at the reference input. -/
  refPresent : Bool
  stopped  : BitVec 26
  overrun  : BitVec 26
  /-- Fraction of the sample the last TIME_NOW read returned. -/
  frac     : BitVec 4
deriving DecidableEq, Repr, Inhabited

/-- How an event travels in its crossing (R415): first of an entry, in the count of the entry before it, or in the sender's
pending count. -/
inductive EventPlace where
  | lead | joined | pending
deriving DecidableEq, Repr, Inhabited

/-- A detection on its way to the error ledger (R471–R474). -/
structure ErrEvent where
  det    : BitVec 16
  unit   : BitVec 16
  sev    : BitVec 2
  inj    : Bool
  code   : Byte
  dom    : Option DomId
  detail : W64
  tick   : W64
  place  : EventPlace
  /-- When its entry was filled, in sixteenths of 1 ns. -/
  since  : Nat
deriving DecidableEq, Repr, Inhabited

/-- An armed injection (R475). -/
structure Armed where
  det   : BitVec 16
  unit  : BitVec 16
  count : W32
deriving DecidableEq, Repr, Inhabited

/-- The W1C bits of the register blocks, but for the two VALID bits that stand for a record (R8, R9). -/
inductive W1cBit where
  | cfgErr (ring : Fin 64) | source (s : Fin 9) | mainPower | retPerr | overFloor | limitRefused | fastLimit | setRefused | refLost
  | overrun (crossing : Fin 26) | crit (pond : Fin 32) | commitRefused | revokeRefused | fatal | overflow | mismatch | stepped
deriving DecidableEq, Repr, Inhabited

/-- The ERROR block (R473–R478). -/
structure Errors where
  notify   : Bool
  minSev   : BitVec 2
  vec      : BitVec 6
  entries  : Vector (BitVec 256) 256
  tail     : Byte
  head     : Byte
  count    : Nat
  unlogged : BitVec 16
  fatal    : Bool
  overflow : Bool
  counts   : Vector W32 512
  armed    : List Armed
  /-- Events in their crossings, in the order of detection (R415, R474). -/
  events   : List ErrEvent
  /-- Crossings that have lost an event since an entry last left them (R415). -/
  lossy    : BitVec 26
  /-- When the last message of R474 was sent. -/
  sentAt   : Option Nat
deriving DecidableEq, Repr, Inhabited

/-- Plane states with the codes of R340. -/
inductive PlaneMode where
  | down | training | linked | active | isolated | disabled
deriving DecidableEq, Repr, Inhabited

/-- One fabric plane (R335–R342, R357). -/
structure PlaneLink where
  st       : PlaneMode
  lanesOk  : BitVec 16
  /-- Retry buffer: sequence number and frame, oldest first. -/
  retained : List (BitVec 12 × TxFrame)
  /-- Frames to send again before any new one. -/
  resendq  : List (BitVec 12 × TxFrame)
  nextSeq  : BitVec 12
  expect   : BitVec 12
  /-- A NAK is to be sent; a resend is awaited. -/
  nakDue   : Bool
  awaiting : Bool
  /-- Frames sent per credit counter, limits last received, entries freed (R338). -/
  sent     : Vector (BitVec 12) 8
  limit    : Vector (BitVec 12) 8
  freed    : Vector (BitVec 12) 8
  /-- Successive resends of one LSEQ without progress (R336). -/
  tries    : Nat
  /-- Times of the last ACK progress and of the last good frame. -/
  ackTime  : Nat
  goodTime : Nat
  /-- A beacon with TVALID has been received since the plane became ACTIVE. -/
  tvalid   : Bool
  /-- Per partition: the next new frame is a collective one when both kinds are ready (R317). -/
  nextColl : BitVec 4
  /-- The last frame sent. -/
  lastSent : FrameBits
  /-- The next upstream position: bits [3:0] the position, bits [23:4] the slot s (R330, R350). -/
  posn     : BitVec 24
  /-- The plane has been ACTIVE since its link came up (R357). -/
  beenActive : Bool
  resends  : BitVec 16
  naks     : BitVec 16
  failed   : BitVec 16
  retrains : BitVec 16
  corrected : W32
  uncorr   : BitVec 16
  refused  : BitVec 16
deriving DecidableEq, Repr, Inhabited

/-- The FABRIC block (R339–R357). -/
structure Fabric where
  fabEn    : Bool
  addrSrc  : Bool
  killEn   : Bool
  planeEn  : Byte
  hostIndex : BitVec 16
  valid    : Bool
  mismatch : Bool
  index    : BitVec 16
  fabricId : W32
  corrLast : W32
  aligned  : Bool
  stepped  : Bool
  timePlane : Fin 8
  beacons  : BitVec 16
  /-- Successive accepted corrections within ±4 ns; beacons since the last valid CORR (R353). -/
  inRange  : Nat
  sinceCorr : Nat
  kid      : W64
  /-- Retained frames of planes that have left ACTIVE, in the order of their sequence numbers, which go before every new frame
  (R345). -/
  moved    : List TxFrame
  /-- Accepted Kills and when each came (R355). -/
  kills    : List (W64 × Nat)
  planes   : Vector PlaneLink 8
deriving DecidableEq, Repr, Inhabited

/-- A pseudo-channel's refresh state (R47, R366). -/
structure Pch where
  owed    : Nat
  /-- A refresh is in progress; refreshes that wait behind it; all that have been issued so far. -/
  busy    : Bool
  queued  : Nat
  issued  : Nat
  windowed : Bool
  /-- Time of the last accrual, and time on which the refresh in progress fell due, in sixteenths of a nanosecond (R47). -/
  lastAt  : Nat
  dueAt   : Nat
deriving DecidableEq, Repr, Inhabited

/-- One HBM3E stack (R358–R370). -/
structure HbmStack where
  temp     : Byte
  hot      : Bool
  ready    : Bool
  owedMax  : BitVec 4
  forced   : BitVec 16
  windowed : BitVec 16
  corrected : W32
  rereadOk : BitVec 16
  uncorr   : Byte
  parity   : Byte
  pchs     : Vector Pch 32
  /-- Losses of contents so far (R435, R436). -/
  epoch    : Nat
deriving DecidableEq, Repr, Inhabited

/-- CXL port states with the codes of R370. -/
inductive CxlState where
  | down | training | up | mapped | held
deriving DecidableEq, Repr, Inhabited

/-- One CXL port (R367–R370). -/
structure CxlPort where
  st      : CxlState
  capGib  : BitVec 16
  speed   : Byte
  width   : Byte
  retries : BitVec 16
  late    : BitVec 16
  poison  : BitVec 16
  crc     : BitVec 16
deriving DecidableEq, Repr, Inhabited

/-- A die link (R19): 0–3 Cd to the hub, 4 C0–C1, 5 C1–C3, 6 C3–C2, 7 C2–C0. -/
structure DieLink where
  up      : Bool
  retraining : Bool
  fails   : Nat
deriving DecidableEq, Repr, Inhabited

def Ring.reset : Ring where
  cmdBase := 0
  cplBase := 0
  coal := 0
  vec := 0
  owner := 0
  cplLog2 := 4
  cmdLog2 := 4
  enabled := false
  stopped := false
  dbErr := false
  cfgErr := false
  phase := false
  cmdHead := 0
  cmdTail := 0
  cplTail := 0
  cplHead := 0
  seq := 0
  held := []
  outstanding := []
  unsent := false
  coalDue := 0

def Msix.reset : Msix where
  addr := Vector.replicate 64 0
  data := Vector.replicate 64 0
  mask := 0xFFFFFFFFFFFFFFFF
  pba := 0
  enabled := false
  fmask := false

def Part.reset : Part where
  openMode := false
  attached := none
  clearing := false
  doms := Vector.replicate 16 Domain.reset
  weights := []
  resetting := false
  resetCmds := []
  ceRerun := 0
  ceSat := 0
  ceAbort := 0
  ceRefuse := 0
  ceLast := 0
  ceLastAt := 0
  ceFresh := 0
  ceFreshAt := 0
  ceHeld := []
  ceWait := []
  ceReset := []
  cseqTx := []
  cseqRx := []
  txq := []
  fcode := 0
  nextCode := none
  settling := false
  decided := 0
  belowFloor := 0
  lowered := 0
  critSeen := false
  edge := 0
  periods := 0
  stretch := 0
  lastOwn := none
  emptySince := 0
  lastNeed := none
  cxlValid := false
  cxlUnits := 0

def Barrier.reset : Barrier where
  claim := none
  extended := false
  group := 0
  parts := []
  round := 0
  sense := false
  counted := 0
  awaitDep := 0
  held := 0
  violation := false
  signals := []
  releaseAt := none
  reachAt := none
  lastReach := none
  localDone := false
  fabDone := false
  retried := false
  halts := []

/-- The RESET block right after L0 (R435, R450). -/
def ResetBlock.reset : ResetBlock where
  source := 1
  mainPower := false
  lastLevel := 0
  lastUnit := 0
  retPerr := false
  cfgRaw := 0
  cfgInvalid := false
  cfgCode := 0
  wdTimeout := 0
  wdArmed := false
  bootAddr := 0
  bootLen := 0
  fetchAddr := 0
  fetchLen := 0
  attempts := 0
  bootErr := 0
  boot := .idle
  bkup := Vector.replicate 16 0
  retBad := []
  image := []
  step := 0
  aux := true
  main := true
  perst := true
  units := []
  raised := none
  tripOut := false
  smbOffset := 0
  smbOn := false
  smbData := 0
  jtagOut := 0
  jtagIr := 0x01
  jtagBypass := false
  trstN := true

/-- The fuses as Quopin ships a part with no failed core, with the values of log entry 4 where the spec
fixes none, and the SECURITY block after L0 (R451, R467). -/
def Security.reset : Security where
  seed := 0
  serial := 0
  keyDig := Vector.replicate 8 0
  purpose := 0
  revoked := 0
  revActive := 0
  svnFused := 0
  svnBlown := 0
  stepping := 0
  resetMap := 0x0000_0001_2311_F110
  spare := Vector.replicate 32 16
  imgSvn := 0
  imgSlot := 0
  idValid := false
  debugOpened := false
  fusing := none
  commitRefused := false
  revokeRefused := false
  attAddr := 0
  attState := 0
  attErr := 0
  attCount := 0
  attNonce := Vector.replicate 6 0
  challenge := 0
  draws := 0
  token := Vector.replicate 33 0
  portToken := 0
  verify := []
  fails := 0
  dbgErr := 0
  dbg := .closed
  queue := []
  pserial := 0
  fwDigest := 0
  fwValid := false
  spDigest := 0
  spDigValid := false

def Pond.reset : Pond where
  st := .off
  temp := 0
  throttled := false
  current := 0
  trim := 0
  volt := 0
  setMv := 0
  wakeAt := 0
  crit := false
  deferred := 0
  realigns := 0
  stretches := 0
  count := 0
  lastOwn := none
  demand := false
  realignAt := none

def Power.reset : Power where
  idleGate := true
  idleMs := 0x00A
  limitW := 0xC80
  pkgW := 0
  overFloor := false
  limitRefused := false
  fastLimit := false
  ponds := Vector.replicate 32 Pond.reset
  temps := Vector.replicate 60 0
  throttled := 0
  notices := []

def Clock.reset : Clock where
  elapsed := 0
  time16 := 0
  setRefused := false
  slew := 0
  half := 0
  corr := 0
  refLost := false
  refOk := false
  refPresent := true
  stopped := 0
  overrun := 0
  frac := 0

def Errors.reset : Errors where
  notify := false
  minSev := 1
  vec := 0
  entries := Vector.replicate 256 0
  tail := 0
  head := 0
  count := 0
  unlogged := 0
  fatal := false
  overflow := false
  counts := Vector.replicate 512 0
  armed := []
  events := []
  lossy := 0
  sentAt := none

def PlaneLink.reset : PlaneLink where
  st := .down
  lanesOk := 0
  retained := []
  resendq := []
  nextSeq := 0
  expect := 0
  nakDue := false
  awaiting := false
  sent := Vector.replicate 8 0
  limit := Vector.replicate 8 0
  freed := Vector.replicate 8 0
  tries := 0
  ackTime := 0
  goodTime := 0
  tvalid := false
  nextColl := 0
  lastSent := 0
  posn := 0
  beenActive := false
  resends := 0
  naks := 0
  failed := 0
  retrains := 0
  corrected := 0
  uncorr := 0
  refused := 0

def Fabric.reset : Fabric where
  fabEn := false
  addrSrc := false
  killEn := false
  planeEn := 0xFF
  hostIndex := 0
  valid := false
  mismatch := false
  index := 0
  fabricId := 0
  corrLast := 0
  aligned := false
  stepped := false
  timePlane := 0
  beacons := 0
  inRange := 0
  sinceCorr := 0
  kid := 0
  moved := []
  kills := []
  planes := Vector.replicate 8 PlaneLink.reset

def Pch.reset : Pch := { owed := 0, busy := false, queued := 0, issued := 0, windowed := false, lastAt := 0, dueAt := 0 }

def HbmStack.reset : HbmStack where
  temp := 0
  hot := false
  ready := false
  owedMax := 0
  forced := 0
  windowed := 0
  corrected := 0
  rereadOk := 0
  uncorr := 0
  parity := 0
  pchs := Vector.replicate 32 Pch.reset
  epoch := 0

def CxlPort.reset : CxlPort where
  st := .down
  capGib := 0
  speed := 0
  width := 0
  retries := 0
  late := 0
  poison := 0
  crc := 0

def DieLink.reset : DieLink := { up := false, retraining := false, fails := 0 }

end Sys2Proof.Machine
end

