-- ==== Sys2Proof/Machine/State.lean ====
section
/-! DEFINITION. The state of the block: the device, and the queue of waiting commands. State.reset is
the device right after L0 (R435), before the first release step of R441. -/

namespace Sys2Proof.Machine

/-- Everything the spec gives the HQ-4025. -/
structure Device where
  cores    : Vector Core 512
  parts    : Vector Part 4
  barriers : Vector Barrier 64
  rings    : Vector Ring 64
  msix     : Vector Msix 9
  cmds     : List Cmd
  /-- Partition configuration 1, 2 or 4 (R22) and the partition of VFk; 15 unassigned (R487). -/
  config   : Nat
  vfPart   : Vector (BitVec 4) 8
  /-- Ring whose turn it is to have a descriptor fetched (R379). -/
  ringTurn : Fin 64
  rb       : ResetBlock
  sec      : Security
  power    : Power
  clock    : Clock
  err      : Errors
  fab      : Fabric
  hbmStat  : Vector HbmStack 8
  cxlPorts : Vector CxlPort 4
  dieLinks : Vector DieLink 8
  -- memories
  scratch  : Mem
  /-- Scratchpad words whose stored parity is wrong (R223), by the key of their first byte. -/
  scratchBad : List Nat
  reservoir : Mem
  retained : Mem
  hbm      : Mem
  cxl      : Mem
  /-- Host memory as far as the device has written it, or read it (R375, R382). -/
  host     : Mem
  /-- Draws of free values so far: the model's own field. -/
  freeCtr  : Nat
  /-- W1C bits that hardware has set on the present tick, so that a clear of the same tick leaves them set (R9). -/
  justSet  : List W1cBit
deriving DecidableEq, Repr, Inhabited

/-- The state: the device and the commands that wait, first in, first out. -/
structure State where
  dev     : Device
  pending : List Instr
deriving DecidableEq, Repr, Inhabited

/-- Reasons to stop with a fault. No command raises one: every command of the table has an effect. -/
inductive Fault where
  /-- Raised by nobody. Safe. -/
  | none
deriving DecidableEq, Repr, Inhabited

/-- Reasons to refuse a command. -/
inductive Refusal where
  /-- Raised by the dispatcher for a command without a meaning. Safe: nothing is claimed of it. -/
  | notModelled (mnemonic : String)
deriving DecidableEq, Repr, Inhabited

/-- The device right after L0. -/
def Device.reset : Device where
  cores := Vector.replicate 512 Core.reset
  parts := Vector.replicate 4 Part.reset
  barriers := Vector.replicate 64 Barrier.reset
  rings := Vector.replicate 64 Ring.reset
  msix := Vector.replicate 9 Msix.reset
  cmds := []
  config := 1
  vfPart := Vector.replicate 8 15
  ringTurn := 0
  rb := ResetBlock.reset
  sec := Security.reset
  power := Power.reset
  clock := Clock.reset
  err := Errors.reset
  fab := Fabric.reset
  hbmStat := Vector.replicate 8 HbmStack.reset
  cxlPorts := Vector.replicate 4 CxlPort.reset
  dieLinks := Vector.replicate 8 DieLink.reset
  scratch := []
  scratchBad := []
  reservoir := []
  retained := []
  hbm := []
  cxl := []
  host := []
  freeCtr := 0
  justSet := []

/-- The state right after reset: the device after L0, and no command waiting. -/
def State.reset : State where
  dev := Device.reset
  pending := []

end Sys2Proof.Machine
end

