-- ==== Sys2Proof/Machine/Ops.lean ====
section
/-! DEFINITION. Named operations over the state: fixed-length tables, bytes and words, the memories,
update of cores, contexts, partitions and domains, the topology of R13–R23, and the free values. -/

namespace Sys2Proof.Machine

/-! ### Tables of fixed length -/

/-- Entry i of a table. -/
def vget {α : Type} {n : Nat} (v : Vector α n) (i : Fin n) : α := v[i]

/-- The table with entry i replaced. -/
def vset {α : Type} {n : Nat} (v : Vector α n) (i : Fin n) (x : α) : Vector α n := v.set i.val x i.isLt

/-- The table with entry i changed by f. -/
def vmod {α : Type} {n : Nat} (v : Vector α n) (i : Fin n) (f : α → α) : Vector α n := vset v i (f (vget v i))

/-- Every entry changed, knowing its index. -/
def vmapi {α : Type} {n : Nat} (v : Vector α n) (f : Fin n → α → α) : Vector α n :=
  Vector.ofFn fun i => f i (vget v i)

/-- The index n modulo the table length. -/
def finMod (n k : Nat) (h : 0 < n := by decide) : Fin n := ⟨k % n, Nat.mod_lt k h⟩

/-! ### Bytes and words -/

/-- The value of little-endian bytes (R7). -/
def leVal : List Byte → Nat
  | [] => 0
  | b :: bs => b.toNat + 256 * leVal bs

/-- The n low bytes of a value, little-endian (R7). -/
def leBytes : Nat → Nat → List Byte
  | 0, _ => []
  | n + 1, v => BitVec.ofNat 8 v :: leBytes n (v / 256)

/-- A bit vector of w bits from little-endian bytes. -/
def leBits (w : Nat) (bs : List Byte) : BitVec w := BitVec.ofNat w (leVal bs)

/-- Bits [hi:lo] of a value as a number. -/
def fieldNat {w : Nat} (x : BitVec w) (hi lo : Nat) : Nat := x.toNat / 2 ^ lo % 2 ^ (hi + 1 - lo)

/-- A word with the given value at bit lo. -/
def put64 (lo : Nat) (v : Nat) : W64 := BitVec.ofNat 64 (v * 2 ^ lo)

/-- A flag as a bit at position lo. -/
def bit64 (lo : Nat) (b : Bool) : W64 := if b then put64 lo 1 else 0

/-- Addition that stops at the largest value of the width (saturating counters). -/
def satAdd {w : Nat} (x : BitVec w) (n : Nat) : BitVec w :=
  if x.toNat + n < 2 ^ w then BitVec.ofNat w (x.toNat + n) else BitVec.allOnes w

/-- Hardware sets a W1C bit on the present tick (R9). -/
def noteSet (d : Device) (b : W1cBit) : Device := { d with justSet := d.justSet.insert b }

/-! ### Byte memories -/

/-- The entry for an address, if one is listed. -/
def memFind : Mem → Nat → Option Byte
  | [], _ => none
  | (k, v) :: rest, a => if k = a then some v else memFind rest a

/-- Lists the byte v at an address, keeping the order. -/
def memPut : Mem → Nat → Byte → Mem
  | [], a, v => [(a, v)]
  | (k, w) :: rest, a, v =>
    if a < k then (a, v) :: (k, w) :: rest
    else if a = k then (a, v) :: rest
    else (k, w) :: memPut rest a v

/-- Unlists an address. -/
def memDel : Mem → Nat → Mem
  | [], _ => []
  | (k, w) :: rest, a =>
    if a < k then (k, w) :: rest
    else if a = k then rest
    else (k, w) :: memDel rest a

/-- Writes a byte into a memory whose unlisted bytes read zero. -/
def memSet (m : Mem) (a : Nat) (v : Byte) : Mem := if v = 0 then memDel m a else memPut m a v

/-- Unlists every address from lo up to, not including, hi. -/
def memClear (m : Mem) (lo hi : Nat) : Mem := m.filter fun c => c.1 < lo || hi ≤ c.1

/-- Addresses strictly rise, from a given lower bound. -/
def memRises : Nat → Mem → Bool
  | _, [] => true
  | lo, (k, _) :: rest => decide (lo ≤ k) && memRises (k + 1) rest

/-- The canonical form of a memory: addresses strictly rise and, where unlisted bytes read zero, no
entry is zero. -/
def memWf (zeros : Bool) (m : Mem) : Bool := memRises 0 m && (!zeros || m.all fun c => c.2 != 0)

/-- The memories of the device. -/
inductive MemId where
  | scratch | reservoir | retained | hbm | cxl | host
deriving DecidableEq, Repr, Inhabited

/-- Whether unlisted bytes of a memory read zero (R435); those of the others have no stored value. -/
def memZeros : MemId → Bool
  | .scratch | .reservoir | .retained => true
  | .hbm | .cxl | .host => false

def memOf (d : Device) : MemId → Mem
  | .scratch => d.scratch
  | .reservoir => d.reservoir
  | .retained => d.retained
  | .hbm => d.hbm
  | .cxl => d.cxl
  | .host => d.host

def withMem (d : Device) (i : MemId) (m : Mem) : Device :=
  match i with
  | .scratch => { d with scratch := m }
  | .reservoir => { d with reservoir := m }
  | .retained => { d with retained := m }
  | .hbm => { d with hbm := m }
  | .cxl => { d with cxl := m }
  | .host => { d with host := m }

/-- Bytes of one stack in the keys of the HBM3E memory: 32 pseudo-channels of 1.5 GB (R358). -/
def hbmStackBytes : Nat := 48000000000

/-- What an unlisted byte reads as: zero, or the free value of Config for memories whose contents the
device did not set (R435, R436). -/
def memDefault (d : Device) (i : MemId) (a : Nat) : Byte :=
  match i with
  | .scratch | .reservoir | .retained => 0
  | .hbm => Config.hbmUndefined (vget d.hbmStat (finMod 8 (a / hbmStackBytes))).epoch a
  | .cxl => Config.cxlUndefined a
  | .host => Config.hostByte a

/-- Reads one byte. -/
def readByte (d : Device) (i : MemId) (a : Nat) : Byte := (memFind (memOf d i) a).getD (memDefault d i a)

/-- Writes one byte. -/
def writeByte (d : Device) (i : MemId) (a : Nat) (v : Byte) : Device :=
  withMem d i (if memZeros i then memSet (memOf d i) a v else memPut (memOf d i) a v)

/-- Every memory of the device has its canonical form. -/
def memoriesWf (d : Device) : Bool :=
  ([.scratch, .reservoir, .retained, .hbm, .cxl, .host] : List MemId).all fun i => memWf (memZeros i) (memOf d i)

/-- Reads n bytes from rising addresses. -/
def readBytes (d : Device) (i : MemId) (a n : Nat) : List Byte := (List.range n).map fun k => readByte d i (a + k)

/-- Writes bytes to rising addresses. -/
def writeBytes (d : Device) (i : MemId) (a : Nat) : List Byte → Device
  | [] => d
  | b :: bs => writeBytes (writeByte d i a b) i (a + 1) bs

/-! ### Updates of parts of the device -/

def getCore (d : Device) (c : CoreId) : Core := vget d.cores c
def modCore (d : Device) (c : CoreId) (f : Core → Core) : Device := { d with cores := vmod d.cores c f }
def getUnit (d : Device) (c : CtxId) : CtxUnit := vget (getCore d c.core).units c.ctx
def modUnit (d : Device) (c : CtxId) (f : CtxUnit → CtxUnit) : Device :=
  modCore d c.core fun k => { k with units := vmod k.units c.ctx f }
def getSeq (d : Device) (w : SeqId) : Sequencer := vget (getCore d w.core).seqs w.seq
def modSeq (d : Device) (w : SeqId) (f : Sequencer → Sequencer) : Device :=
  modCore d w.core fun k => { k with seqs := vmod k.seqs w.seq f }
def getPart (d : Device) (p : PartId) : Part := vget d.parts p
def modPart (d : Device) (p : PartId) (f : Part → Part) : Device := { d with parts := vmod d.parts p f }
def getDom (d : Device) (i : DomId) : Domain := vget (getPart d i.part).doms i.dom
def modDom (d : Device) (i : DomId) (f : Domain → Domain) : Device :=
  modPart d i.part fun p => { p with doms := vmod p.doms i.dom f }
def modRun (d : Device) (i : DomId) (f : Run → Run) : Device :=
  modDom d i fun m => { m with run := m.run.map f }
def modRing (d : Device) (r : Fin 64) (f : Ring → Ring) : Device := { d with rings := vmod d.rings r f }
def modPond (d : Device) (k : Fin 32) (f : Pond → Pond) : Device :=
  { d with power := { d.power with ponds := vmod d.power.ponds k f } }
def getPond (d : Device) (k : Fin 32) : Pond := vget d.power.ponds k
def modBar (d : Device) (b : Fin 64) (f : Barrier → Barrier) : Device := { d with barriers := vmod d.barriers b f }
def getBar (d : Device) (b : Fin 64) : Barrier := vget d.barriers b
def modPlane (d : Device) (p : Fin 8) (f : PlaneLink → PlaneLink) : Device :=
  { d with fab := { d.fab with planes := vmod d.fab.planes p f } }
def getPlane (d : Device) (p : Fin 8) : PlaneLink := vget d.fab.planes p
def modStack (d : Device) (k : Fin 8) (f : HbmStack → HbmStack) : Device := { d with hbmStat := vmod d.hbmStat k f }
def modPort (d : Device) (k : Fin 4) (f : CxlPort → CxlPort) : Device := { d with cxlPorts := vmod d.cxlPorts k f }

/-- A meaning: the device changes by f, and the machine goes on. -/
def onDev (f : Device → Device) (s : State) : Host.Outcome State Fault Refusal := .next { s with dev := f s.dev }

/-- A list fold over the device. -/
def forAll {α : Type} (l : List α) (d : Device) (f : Device → α → Device) : Device := l.foldl f d

/-- The list with its first entry that meets p changed by f. -/
def changeFirst {α : Type} (p : α → Bool) (f : α → α) : List α → List α
  | [] => []
  | x :: rest => if p x then f x :: rest else x :: changeFirst p f rest

/-- Draws a fresh free value (the model's own counter). -/
def drawFree (d : Device) : Nat × Device := (d.freeCtr, { d with freeCtr := d.freeCtr + 1 })

/-! ### Topology (R13–R24) -/

def dieOf (c : CoreId) : Fin 4 := finMod 4 (c.val / 128)
def localPond (c : CoreId) : Nat := c.val % 128 / 16
def logIndex (c : CoreId) : Nat := c.val % 16
def pondOf (c : CoreId) : Fin 32 := finMod 32 (c.val / 16)

/-- Whether partition p exists in the present configuration (R22). -/
def partPresent (d : Device) (p : PartId) : Bool := decide (p.val < d.config)

/-- Dies of each partition: 4, 2 or 1 (R22). -/
def diesPer (d : Device) : Nat := 4 / d.config

/-- The partition that owns a die (R22). -/
def partOfDie (d : Device) (k : Fin 4) : PartId := finMod 4 (k.val / diesPer d)
def partOfCore (d : Device) (c : CoreId) : PartId := partOfDie d (dieOf c)
def partOfPond (d : Device) (k : Fin 32) : PartId := partOfDie d (finMod 4 (k.val / 8))
def partOfStack (d : Device) (k : Fin 8) : PartId := partOfDie d (finMod 4 (k.val / 2))
def partOfPort (d : Device) (k : Fin 4) : PartId := partOfDie d k
def partOfBar (d : Device) (b : Fin 64) : PartId := partOfDie d (finMod 4 (b.val / 16))

/-- First logical core of a partition and its number of cores. -/
def firstCore (d : Device) (p : PartId) : Nat := p.val * (128 * diesPer d)
def coresPer (d : Device) : Nat := 128 * diesPer d
/-- The cores, ponds and dies of a partition. -/
def coresOf (d : Device) (p : PartId) : List CoreId := (List.finRange 512).filter fun c => partOfCore d c = p
def pondsOf (d : Device) (p : PartId) : List (Fin 32) := (List.finRange 32).filter fun k => partOfPond d k = p
/-- HBM3E stacks, CXL ports per partition, and the reservoir share (R22). -/
def stacksPer (d : Device) : Nat := 2 * diesPer d
def portsPer (d : Device) : Nat := diesPer d
def reservoirShare (d : Device) : Nat := 268435456 / d.config

/-- Physical position of a logical core in its pond (R15). -/
def physPos (d : Device) (c : CoreId) : Nat :=
  let s := (vget d.sec.spare (pondOf c)).toNat
  if logIndex c < s then logIndex c else logIndex c + 1

/-- Position used for latencies: logical in a portable binary (R52). -/
def position (d : Device) (portable : Bool) (c : CoreId) : Nat × Nat :=
  (localPond c, if portable then logIndex c else physPos d c)

/-- Hops between two grid positions (R18). -/
def gridHops (a b : Nat × Nat) : Nat := (a.1 - b.1) + (b.1 - a.1) + ((a.2 - b.2) + (b.2 - a.2))

/-- The boundary router (R18). -/
def boundary : Nat × Nat := (4, 0)

/-- Die crossings between two dies (R19, R220). -/
def crossings (a b : Fin 4) : Nat := if a = b then 0 else if a.val + b.val = 3 then 2 else 1

/-- Ticks from a core to a grid position on a die, without the fixed part: 2 × hops, the segments of a
portable binary, and 20 per crossing (R52, R220, R363). -/
def pathTicks (d : Device) (portable : Bool) (a : CoreId) (die : Fin 4) (pos : Nat × Nat) : Nat :=
  let pa := position d portable a
  if dieOf a = die then 2 * (gridHops pa pos + if portable then 1 else 0)
  else 2 * (gridHops pa boundary + gridHops boundary pos + if portable then 2 else 0) + 20 * crossings (dieOf a) die

/-- Contract latency of a remote scratchpad access (R220). -/
def remoteLatency (d : Device) (portable : Bool) (a b : CoreId) : Nat :=
  12 + pathTicks d portable a (dieOf b) (position d portable b)

/-- Ticks to a core's own boundary router (R127, R279, R363). -/
def boundaryTicks (d : Device) (portable : Bool) (a : CoreId) : Nat :=
  pathTicks d portable a (dieOf a) boundary

/-- L_H of R363, to the controller of a stack (R358). -/
def hbmLatency (d : Device) (portable : Bool) (a : CoreId) (stack : Fin 8) : Nat :=
  160 + pathTicks d portable a (finMod 4 (stack.val / 2)) (if stack.val % 2 = 0 then 0 else 7, 16)

/-- L_C of R363. -/
def cxlLatency (d : Device) (portable : Bool) (a : CoreId) : Nat := 660 + boundaryTicks d portable a

/-- HBM3E location of a partition address (R359): stack, pseudo-channel, key in the HBM3E memory. -/
def hbmMap (d : Device) (p : PartId) (a : Nat) : Fin 8 × Fin 32 × Nat :=
  let s := stacksPer d
  let npc := 32 * s
  let g := a / 64
  let q := g % npc
  let stack := finMod 8 (p.val * s + q % s)
  let pch := finMod 32 (q / s)
  (stack, pch, stack.val * hbmStackBytes + pch.val * 1500000000 + g / npc * 64 + a % 64)

/-- Capacity of a partition's HBM3E (R359). -/
def hbmCapacity (d : Device) : Nat := 32 * stacksPer d * 1500000000

/-- CXL location of a partition address (R369): port, key in the CXL memory. -/
def cxlMap (d : Device) (p : PartId) (w : Nat) : Fin 4 × Nat :=
  let n := portsPer d
  let port := finMod 4 (p.val * n + w / 256 % n)
  (port, port.val * 1099511627776 + w / 256 / n * 256 + w % 256)

/-- Mapped CXL range of a partition in bytes (R369). -/
def cxlLimit (d : Device) (p : PartId) : Nat :=
  if (getPart d p).cxlValid then (getPart d p).cxlUnits.toNat * 268435456 else 0

/-- Key of a physical byte of a core's scratchpad: 4 MiB per logical core, bank by bank. -/
def scratchKey (c : CoreId) (off : Nat) : Nat := c.val * 4194304 + off

/-- Bank, and row within it, of an offset that a core or context names (R212); context B has banks 16–31. -/
def bankOf (split : Bool) (ctx : Fin 2) (off : Nat) : Fin 32 :=
  if split then finMod 32 (16 * ctx.val + off / 32 % 16) else finMod 32 (off / 32 % 32)
def rowOf (split : Bool) (off : Nat) : Nat := if split then off / 512 % 4096 else off / 1024 % 4096

/-- Physical byte of a scratchpad: banks of 131,072 bytes, rows of 32. -/
def physOffset (split : Bool) (ctx : Fin 2) (off : Nat) : Nat :=
  (bankOf split ctx off).val * 131072 + rowOf split off * 32 + off % 32

/-- Banks that an access of n bytes touches. -/
def banksOf (split : Bool) (ctx : Fin 2) (off n : Nat) : W32 :=
  (List.range ((off % 32 + n + 31) / 32)).foldl (fun m k => m ||| ((1 : W32) <<< (bankOf split ctx (off + 32 * k)).val)) 0

/-! ### Domains, contexts and their names (R24, R82) -/

def isSplit (d : Device) (c : CoreId) : Bool := (getCore d c).split

/-- The access (false) or execute (true) sequencer of a core or context. -/
def seqOf (c : CtxId) (execute : Bool) : SeqId :=
  { core := c.core, seq := finMod 4 (2 * c.ctx.val + if execute then 1 else 0) }

/-- The core or context a sequencer belongs to. -/
def ctxOf (d : Device) (w : SeqId) : CtxId :=
  { core := w.core, ctx := if isSplit d w.core then finMod 2 (w.seq.val / 2) else 0 }

/-- The sequencers of a core or context. -/
def seqsOf (d : Device) (c : CtxId) : List (Fin 4) :=
  if isSplit d c.core then [finMod 4 (2 * c.ctx.val), finMod 4 (2 * c.ctx.val + 1)] else List.finRange 4

/-- Both contexts of a split core, or a whole core. -/
def ctxsOf (d : Device) (c : CoreId) : List CtxId :=
  if isSplit d c then [{ core := c, ctx := 0 }, { core := c, ctx := 1 }] else [{ core := c, ctx := 0 }]

/-- The stall domain a core or context is bound to. -/
def domOf (d : Device) (c : CtxId) : Option DomId :=
  (getUnit d c).bound.map fun k => { part := partOfCore d c.core, dom := k }

/-- Whether a domain has a run that its events belong to: it is RUNNING, or has halted while operations in flight
complete (R79, R393). -/
def liveDom (m : Domain) : Bool := m.st = .running || (m.st = .halted && m.runHandle.isSome)

/-- The run in progress of a core's or context's domain. -/
def runOf (d : Device) (c : CtxId) : Option Run :=
  match domOf d c with
  | none => none
  | some i => if liveDom (getDom d i) then (getDom d i).run else none

/-- The program bound to a core or context. -/
def progOf (d : Device) (c : CtxId) : Option Program := (domOf d c).bind fun i => (getDom d i).prog

/-- The table of a core or context in a list of keyed tables; absent tables are empty (R112). -/
def tableOf {α : Type} (l : List (CtxId × List α)) (c : CtxId) : List α :=
  match l.find? fun e => e.1 = c with
  | some e => e.2
  | none => []

/-- The cores and contexts of a domain, in ascending order, context A first. -/
def domCtxs (d : Device) (i : DomId) : List CtxId :=
  match (getDom d i).prog with
  | none => []
  | some p => (List.finRange 512).flatMap fun c =>
      ([0, 1] : List (Fin 2)).filterMap fun x =>
        if p.cores.any fun s => s.ctx = { core := c, ctx := x } then some { core := c, ctx := x } else none

/-- The tick count (R44). -/
def tickCount (r : Run) : Nat := r.sched + (r.ledger.toList.take 6).foldl (fun a w => a + w.toNat) 0

/-- The ledger registers of a run (R490). -/
def ledgerRegs (r : Run) : Vector W64 11 := Vector.ofFn fun (k : Fin 11) =>
  if k.val < 7 then vget r.ledger (finMod 7 k.val)
  else if k.val = 7 then r.miss
  else if k.val = 8 then r.mayvary
  else if k.val = 9 then BitVec.ofNat 64 r.sched
  else BitVec.ofNat 64 (tickCount r)

/-- The ledger registers of a domain's cores take the values of its run; those of a core held in reset stay zero (R490). -/
def noteLedger (d : Device) (i : DomId) : Device :=
  match (getDom d i).run with
  | none => d
  | some r => forAll (domCtxs d i) d fun d c =>
      if (getCore d c.core).inReset then d else modUnit d c fun u => { u with ledger := ledgerRegs r }

/-- The schedule tick in progress of a core's or context's run. -/
def tickOf (d : Device) (c : CtxId) : Nat := match runOf d c with | none => 0 | some r => r.tick

/-- All domains of a partition. -/
def domsOf (p : PartId) : List DomId := (List.finRange 16).map fun k => { part := p, dom := k }
def allDoms : List DomId := (List.finRange 4).flatMap domsOf

/-- The state of a domain as commands and registers see it: on the tick of its run's end, or of the first halt of one of its
cores, it is ENDED or HALTED (R387). -/
def domState (d : Device) (i : DomId) : DomState :=
  let m := getDom d i
  match m.st, m.run with
  | .running, some r => if r.first.isSome then .halted else if r.ended then .ended else .running
  | st, _ => st

/-- Whether some domain of a partition is RUNNING. -/
def anyRunning (d : Device) (p : PartId) : Bool := (domsOf p).any fun i => domState d i = .running

/-- Whether the program of a domain is loaded (R22, R342). -/
def anyLoaded (d : Device) : Bool := allDoms.any fun i => (getDom d i).st != .empty

/-- Physical flag number of a flag that a core or context names (R82). -/
def physFlag (split : Bool) (ctx : Fin 2) (f : Byte) : Fin 256 :=
  if split then finMod 256 (128 * ctx.val + f.toNat % 128) else finMod 256 f.toNat

/-- Physical message queue, address generator, element-program slot and link queue (R82). -/
def physQueue (split : Bool) (ctx : Fin 2) (q : Nat) : Fin 8 :=
  if split then finMod 8 (4 * ctx.val + q % 4) else finMod 8 q
def physAg (split : Bool) (ctx : Fin 2) (g : Nat) : Fin 8 := physQueue split ctx g
def physEp (split : Bool) (ctx : Fin 2) (k : Nat) : Fin 16 :=
  if split then finMod 16 (8 * ctx.val + k % 8) else finMod 16 k
def physLq (split : Bool) (ctx : Fin 2) (q : Fin 4) : Fin 4 :=
  if split then finMod 4 (q.val / 2 * 2 + ctx.val) else q
/-- Physical vector register (R82). -/
def physVreg (split : Bool) (ctx : Fin 2) (r : Nat) : Fin 16 :=
  if split then finMod 16 (8 * ctx.val + r % 8) else finMod 16 r
/-- Physical bundle address (R82). -/
def physAddr (split : Bool) (ctx : Fin 2) (a : BitVec 12) : BitVec 12 :=
  if split && ctx = 1 then a + 0x800 else a

end Sys2Proof.Machine
end

