-- ==== Sys2Proof/Machine/Sha.lean ====
section
/-! DEFINITION. SHA-384 (FIPS 180-4) over byte lists, used for the digests of R16, R301, R452 and R460. The constants are
computed from what they are: the first 64 fractional bits of roots of primes. A round is a recurrence on two histories,
of the values that the standard calls a to d and e to h. -/

namespace Sys2Proof.Machine

/-! ### Constants -/

/-- The greatest r below r₀ + 2ⁿ, from r₀ on, with rᵏ ≤ target. -/
def rootBits (k target : Nat) : Nat → Nat → Nat
  | 0, r => r
  | n + 1, r => rootBits k target n (if (r + 2 ^ n) ^ k ≤ target then r + 2 ^ n else r)

/-- The first 64 bits of the fractional part of the k-th root of p, for p below 2⁹. -/
def rootFraction (k p : Nat) : W64 := BitVec.ofNat 64 (rootBits k (p * 2 ^ (64 * k)) 69 0)

/-- The 80 primes below 410. -/
def smallPrimes : List Nat := (List.range 410).filter fun n => decide (2 ≤ n) && (List.range n).all fun k => decide (k < 2) || n % k != 0

/-- Round constants: cube roots of the first 80 primes. -/
def shaK : List W64 := smallPrimes.map (rootFraction 3)

/-- The initial value of SHA-384: square roots of the ninth to sixteenth primes. -/
def shaInit : List W64 := ((smallPrimes.drop 8).take 8).map (rootFraction 2)

/-! ### Bytes, most significant first -/

/-- Big-endian value of bytes. -/
def beVal (bs : List Byte) : Nat := bs.foldl (fun a b => 256 * a + b.toNat) 0

/-- The n bytes of a value, most significant first. -/
def beBytes (n v : Nat) : List Byte := (leBytes n v).reverse

/-- The bytes of a digest, first byte first. -/
def digestBytes (x : Digest) : List Byte := leBytes 48 x.toNat

/-! ### The compression -/

/-- A word rotated right, or where the amount stands under `shifts` shifted right, by each amount: their exclusive or. -/
def shaMix (x : W64) (rotations shifts : List Nat) : W64 :=
  (rotations.map x.rotateRight ++ shifts.map (x >>> ·)).foldl (· ^^^ ·) 0

/-- The schedule extended by n words; the newest word stands first. -/
def shaSchedule : Nat → List W64 → List W64
  | 0, w => w
  | n + 1, w => shaSchedule n ((w.getD 15 0 + w.getD 6 0 + shaMix (w.getD 14 0) [1, 8] [7] + shaMix (w.getD 1 0) [19, 61] [6]) :: w)

/-- The two histories, newest value first: a, b, c, d and e, f, g, h. -/
abbrev ShaState := List W64 × List W64

/-- One round with its constant and schedule word already added. -/
def shaRound (s : ShaState) (kw : W64) : ShaState :=
  let (as, es) := s
  let e := es.headD 0
  let choice := es.getD 2 0 ^^^ (e &&& (es.getD 1 0 ^^^ es.getD 2 0))
  let majority := (as.headD 0 &&& (as.getD 1 0 ||| as.getD 2 0)) ||| (as.getD 1 0 &&& as.getD 2 0)
  let t := es.getD 3 0 + shaMix e [14, 18, 41] [] + choice + kw
  ((t + shaMix (as.headD 0) [28, 34, 39] [] + majority) :: as.take 3, (as.getD 3 0 + t) :: es.take 3)

/-- The state after one block of 128 bytes, read as a number. -/
def shaBlock (s : ShaState) (block : Nat) : ShaState :=
  let first := (List.range 16).map fun j => BitVec.ofNat 64 (block / 2 ^ (64 * j))
  let r := (List.zipWith (· + ·) shaK (shaSchedule 64 first).reverse).foldl shaRound s
  (List.zipWith (· + ·) s.1 r.1, List.zipWith (· + ·) s.2 r.2)

/-- Blocks of padded bytes. -/
def shaBlocks : Nat → List Byte → ShaState → ShaState
  | 0, _, s => s
  | n + 1, bs, s => shaBlocks n (bs.drop 128) (shaBlock s (beVal (bs.take 128)))

/-- The padded message: a one bit, zeros, and the length in bits in the last 16 bytes of a block. -/
def shaPad (m : List Byte) : List Byte :=
  let blocks := (m.length + 17 + 127) / 128
  m ++ 0x80 :: List.replicate (128 * blocks - 17 - m.length) 0 ++ beBytes 16 (8 * m.length)

/-- The 48 bytes of the digest: the first six words of the state. -/
def sha384Bytes (m : List Byte) : List Byte :=
  let p := shaPad m
  let (as, es) := shaBlocks (p.length / 128) p (shaInit.take 4, shaInit.drop 4)
  (as ++ es.take 2).flatMap fun w => beBytes 8 w.toNat

/-- The digest with byte 0 at bits [7:0] (R7). -/
def sha384 (m : List Byte) : Digest := leBits 384 (sha384Bytes m)

end Sys2Proof.Machine
end

