-- ==== Sys2Proof/Machine/Ecdsa.lean ====
section
/-! DEFINITION. The signatures of R453, R456, R458 and R464: ECDSA (FIPS 186-5) on brainpoolP384r1 with SHA-384, the
deterministic per-message secret, and the key derivation of NIST SP 800-108. The spec names these standards and repeats
neither the numbers of the curve (RFC 5639) nor the steps of the procedures: PRESUMED, log entry 76. -/

namespace Sys2Proof.Machine

/-! ### The field -/

/-- bᵉ modulo m, for e below 2ⁿ. -/
def powMod (m : Nat) : Nat → Nat → Nat → Nat
  | 0, _, _ => 1 % m
  | n + 1, b, e =>
    let h := powMod m n (b * b % m) (e / 2)
    if e % 2 = 1 then b * h % m else h

/-- The inverse modulo a prime below 2³⁸⁴. -/
def invMod (m x : Nat) : Nat := powMod m 384 (x % m) (m - 2)

/-! ### The curve brainpoolP384r1: y² = x³ + A x + B over the field of p elements, with base point G of order n -/

def curveP : Nat := 0x8CB91E82A3386D280F5D6F7E50E641DF152F7109ED5456B412B1DA197FB71123ACD3A729901D1A71874700133107EC53
def curveA : Nat := 0x7BC382C63D8C150C3C72080ACE05AFA0C2BEA28E4FB22787139165EFBA91F90F8AA5814A503AD4EB04A8C7DD22CE2826
def curveB : Nat := 0x04A8C7DD22CE28268B39B55416F0447C2FB77DE107DCD2A62E880EA53EEB62D57CB4390295DBC9943AB78696FA504C11
def curveN : Nat := 0x8CB91E82A3386D280F5D6F7E50E641DF152F7109ED5456B31F166E6CAC0425A7CF3AB6AF6B7FC3103B883202E9046565

/-- A point with its coordinates; none is the point at infinity. -/
abbrev CurvePoint := Option (Nat × Nat)

def curveG : CurvePoint :=
  some (0x1D1C64F068CF45FFA2A63A81B7C13F6B8847A3E77EF14FE3DB7FCAFE0CBD10E8E826E03436D646AAEF87B2E247D4AF1E,
        0x8ABE1D7520F9C2A45CB1EB8E95CFD55262B70B29FEEC5864E19C054FF99129280E4646217791811142820341263C5315)

/-- Whether two coordinates satisfy the curve's equation. -/
def onCurve (x y : Nat) : Bool := decide (x < curveP) && decide (y < curveP) && y * y % curveP = (x * x * x + curveA * x + curveB) % curveP

/-- The third point of the line of a slope through (x, y) and a point with abscissa x', reflected. -/
def alongSlope (slope x y x' : Nat) : CurvePoint :=
  let x3 := (slope * slope + 2 * curveP - x - x') % curveP
  some (x3, (slope * (x + curveP - x3) + curveP - y) % curveP)

/-- Addition of points. -/
def addPoint : CurvePoint → CurvePoint → CurvePoint
  | none, q => q
  | q, none => q
  | some (x, y), some (x', y') =>
    if x = x' then
      if (y + y') % curveP = 0 then none
      else alongSlope ((3 * x * x + curveA) * invMod curveP (2 * y) % curveP) x y x'
    else alongSlope ((y' + curveP - y) * invMod curveP (x' + curveP - x) % curveP) x y x'

/-- The k-fold of a point, for k below 2ⁿ. -/
def mulPoint : Nat → Nat → CurvePoint → CurvePoint
  | 0, _, _ => none
  | n + 1, k, q =>
    let h := mulPoint n (k / 2) (addPoint q q)
    if k % 2 = 1 then addPoint q h else h

/-! ### Encodings -/

/-- The uncompressed form: 0x04, X, Y (R451). -/
def pointBytes (x y : Nat) : List Byte := 0x04 :: beBytes 48 x ++ beBytes 48 y

/-- The coordinates of 97 bytes that are a point of the curve other than infinity, uncompressed. -/
def keyPoint (key : List Byte) : Option (Nat × Nat) :=
  let x := beVal ((key.drop 1).take 48)
  let y := beVal (key.drop 49)
  if key.length = 97 && key.headD 0 = 0x04 && onCurve x y then some (x, y) else none

/-- Whether 97 bytes are a point of brainpoolP384r1 other than the point at infinity (R453). -/
def validPoint (key : List Byte) : Bool := (keyPoint key).isSome

/-- A digest as a number: all its 384 bits, its first byte the most significant. -/
def digestNat (x : Digest) : Nat := beVal (digestBytes x)

/-! ### Verification -/

/-- The abscissa of a point modulo the order of G; zero at infinity. -/
def abscissa (q : CurvePoint) : Nat := match q with | some (x, _) => x % curveN | none => 0

/-- Whether r ‖ s is a signature of a digest under a public key (R453, R464). -/
def ecdsaVerifies (key : List Byte) (digest : Digest) (sig : List Byte) : Bool :=
  let r := beVal (sig.take 48)
  let s := beVal (sig.drop 48)
  match keyPoint key with
  | none => false
  | some q =>
    if r = 0 || s = 0 || decide (curveN ≤ r) || decide (curveN ≤ s) then false
    else
      let w := invMod curveN s
      let x := addPoint (mulPoint 384 (digestNat digest * w % curveN) curveG) (mulPoint 384 (r * w % curveN) (some q))
      x.isSome && abscissa x = r

/-! ### HMAC-SHA-384 and the identity key (R456) -/

/-- HMAC-SHA-384. -/
def hmac384 (key m : List Byte) : List Byte :=
  let k := if 128 < key.length then sha384Bytes key else key
  let padded := fun (x : Byte) => ((k ++ List.replicate (128 - k.length) 0).map (· ^^^ x))
  sha384Bytes (padded 0x5C ++ sha384Bytes (padded 0x36 ++ m))

/-- The fixed input of iteration i. -/
def kdfInput (i : Nat) (serial : W64) : List Byte :=
  beBytes 4 i ++ [0x48, 0x51, 0x34, 0x30, 0x32, 0x35, 0x2D, 0x49, 0x44, 0x00] ++ beBytes 8 serial.toNat ++ beBytes 4 448

/-- The private key: the leftmost 448 bits of K(1) ‖ K(2) are c, and d is (c mod (n − 1)) + 1. -/
def identityKey (seed : BitVec 384) (serial : W64) : Nat :=
  let k := fun i => hmac384 (digestBytes seed) (kdfInput i serial)
  beVal ((k 1 ++ k 2).take 56) % (curveN - 1) + 1

/-- The identity digest: SHA-384 of the public key, uncompressed. -/
def identityDigest (seed : BitVec 384) (serial : W64) : Digest :=
  match mulPoint 384 (identityKey seed serial) curveG with
  | some (x, y) => sha384 (pointBytes x y)
  | none => 0

/-! ### Signing (R458) -/

/-- The signature of a digest z by a key under a per-message secret k: r and s, if neither is zero. -/
def signWith (d z k : Nat) : Option (Nat × Nat) :=
  let r := abscissa (mulPoint 384 k curveG)
  let s := invMod curveN k * ((z + r * d) % curveN) % curveN
  if r = 0 || s = 0 then none else some (r, s)

/-- Candidates for the per-message secret in turn, from the key and value of the deterministic generator on: the first below
the order of G that gives a signature. Each is refused with a probability below one half. -/
def signFrom (d z : Nat) : Nat → List Byte → List Byte → Nat × Nat
  | 0, _, _ => (0, 0)
  | n + 1, key, value =>
    let value := hmac384 key value
    let k := beVal value
    let next := fun (_ : Unit) =>
      let key := hmac384 key (value ++ [0x00])
      signFrom d z n key (hmac384 key value)
    if k = 0 || decide (curveN ≤ k) then next () else (signWith d z k).getD (next ())

/-- The generator's start: keyed by the private key and the digest modulo the order of G. -/
def signStart (d z : Nat) : List Byte × List Byte :=
  let seed := beBytes 48 d ++ beBytes 48 (z % curveN)
  let mix := fun (s : List Byte × List Byte) (x : Byte) =>
    let key := hmac384 s.1 (s.2 ++ x :: seed)
    (key, hmac384 key s.2)
  mix (mix (List.replicate 48 0x00, List.replicate 48 0x01) 0x00) 0x01

/-- The signature r ‖ s of the identity key over a digest (R458). -/
def ecdsaSign (seed : BitVec 384) (serial : W64) (digest : Digest) : BitVec 768 :=
  let d := identityKey seed serial
  let z := digestNat digest
  let (key, value) := signStart d z
  let (r, s) := signFrom d z 1024 key value
  leBits 768 (beBytes 48 r ++ beBytes 48 s)

end Sys2Proof.Machine
end

