-- ==== Sys2Proof/Machine/Report.lean ====
section
/-! DEFINITION. How the device reports: MSI-X messages, completion entries, error events and injections,
and halts with their records. -/

namespace Sys2Proof.Machine

/-! ### MSI-X (R383, R486) -/

/-- The message of a vector: a write of DATA to the message address. -/
def sendMsix (d : Device) (f : FnId) (v : Fin 64) : Device :=
  let x := vget d.msix f
  writeBytes d .host (vget x.addr v).toNat (leBytes 4 (vget x.data v).toNat)

/-- Whether a function's messages of a vector are kept back: a mask is set, or MSI-X is not enabled (log entry 101). -/
def msixKept (x : Msix) (v : Fin 64) : Bool := !x.enabled || x.fmask || x.mask.getLsbD v.val

/-- Raises a message: it is sent, or its pending bit is set while the vector or function is masked. -/
def raiseMsix (d : Device) (f : FnId) (v : Fin 64) : Device :=
  let x := vget d.msix f
  if msixKept x v then
    { d with msix := vset d.msix f { x with pba := x.pba ||| put64 v.val 1 } }
  else sendMsix d f v

/-- Sends the pending message of a vector whose masks are clear, and clears its bit. -/
def flushMsix (d : Device) (f : FnId) (v : Fin 64) : Device :=
  let x := vget d.msix f
  if x.pba.getLsbD v.val && !msixKept x v then
    sendMsix { d with msix := vset d.msix f { x with pba := x.pba &&& ~~~ put64 v.val 1 } } f v
  else d

/-! ### Completions (R381–R384) -/

/-- Completion statuses (R469). -/
inductive Status where
  | ok | stateConflict | badDescriptor | signatureFail | latencyMismatch | routeCycle | resourceBusy
  | programHalted | abortedByReset | fabricUnreachable | capacity | notPermitted | isolatedError | debugOpen
deriving DecidableEq, Repr, Inhabited

def statusCode : Status → Nat
  | .ok => 0 | .stateConflict => 1 | .badDescriptor => 2 | .signatureFail => 3 | .latencyMismatch => 4
  | .routeCycle => 5 | .resourceBusy => 6 | .programHalted => 7 | .abortedByReset => 8
  | .fabricUnreachable => 9 | .capacity => 10 | .notPermitted => 11 | .isolatedError => 12 | .debugOpen => 13

/-- The 32 bytes of a completion entry but for PHASE (R382). -/
def cplEntry (handle : W32) (st : Status) (final : Bool) (halt : Byte) (tag : W32) (opcode : Byte)
    (result : List Byte) : BitVec 256 :=
  leBits 256 (leBytes 4 handle.toNat ++ leBytes 2 (statusCode st) ++ [if final then 1 else 0, halt] ++
    leBytes 4 tag.toNat ++ [opcode, 0, 0, 0] ++ (result ++ List.replicate 16 0).take 16)

/-- Entries of a completion ring. -/
def cplSize (r : Ring) : Nat := 2 ^ r.cplLog2.toNat
def cmdSize (r : Ring) : Nat := 2 ^ r.cmdLog2.toNat

def cplFull (r : Ring) : Bool := (r.cplTail.toNat + 1) % cplSize r = r.cplHead.toNat

/-- The time in nanoseconds. -/
def nowNs (d : Device) : Nat := d.clock.time16 / 16

/-- Nanoseconds since the time domain was released, whatever steps and corrections its counter has had. -/
def elapsedNs (d : Device) : Nat := d.clock.elapsed / 16

/-- The replica of the time counter on a core's die, which rdtime reads (R122, R413, R418): within 1 ns of the counter, by a free
value (log entry 77). -/
def replicaNs (d : Device) (c : CoreId) : Nat := nowNs d + (Config.replicaSkew (c.val / 128) d.clock.elapsed).val - 1

/-- Writes an entry at the completion tail and moves the tail; the phase changes at the wrap (R382). -/
def writeEntry (d : Device) (i : Fin 64) (e : BitVec 256) : Device :=
  let r := vget d.rings i
  let e' := if r.phase then e ||| (BitVec.ofNat 256 2 <<< 48) else e
  let d := writeBytes d .host (r.cplBase.toNat * 4096 + r.cplTail.toNat * 32) (leBytes 32 e'.toNat)
  let t := (r.cplTail.toNat + 1) % cplSize r
  modRing d i fun r => { r with cplTail := BitVec.ofNat 16 t, phase := if t = 0 then !r.phase else r.phase, unsent := true }

/-- Sends the ring's vector for entries written, at most once per coalescing interval (R383). -/
def ringMessage (d : Device) (i : Fin 64) : Device :=
  let r := vget d.rings i
  if r.unsent && decide (r.coalDue ≤ elapsedNs d) then
    let d := modRing d i fun r => { r with unsent := false, coalDue := elapsedNs d + r.coal.toNat * 1000 }
    raiseMsix d (finMod 9 r.owner.toNat) (finMod 64 r.vec.toNat)
  else d

/-- Produces a completion entry: written, or held while the ring is full or entries are held (R384). -/
def postEntry (d : Device) (i : Fin 64) (e : BitVec 256) : Device :=
  let r := vget d.rings i
  if cplFull r || !r.held.isEmpty then modRing d i fun r => { r with held := r.held ++ [e] }
  else ringMessage (writeEntry d i e) i

/-- Writes held entries in order as long as the ring has room (R384); fuel bounds the number of entries. -/
def drainHeld : Nat → Device → Fin 64 → Device
  | 0, d, _ => d
  | n + 1, d, i =>
    let r := vget d.rings i
    match r.held with
    | [] => d
    | e :: rest =>
      if cplFull r then d
      else drainHeld n (writeEntry (modRing d i fun r => { r with held := rest }) i e) i

/-- A final completion of a command: the entry, and the command leaves the outstanding ones. -/
def complete (d : Device) (handle : W32) (h : CmdHdr) (opcode : Byte) (st : Status) (halt : Byte)
    (result : List Byte) : Device :=
  let d := modRing d h.ring fun r => { r with outstanding := r.outstanding.filter (· != handle) }
  let d := { d with cmds := d.cmds.filter fun c => c.handle != handle }
  postEntry d h.ring (cplEntry handle st true halt h.tag opcode result)

/-- The final completion of a command in progress, found by its handle. -/
def completeCmd (d : Device) (handle : W32) (st : Status) (halt : Byte) (result : List Byte) : Device :=
  match d.cmds.find? fun c => c.handle = handle with
  | none => d
  | some c =>
    if c.mute then { d with cmds := d.cmds.filter fun x => x.handle != handle }
    else complete d handle c.hdr c.opcode st halt result

def findCmd (d : Device) (handle : W32) : Option Cmd := d.cmds.find? fun c => c.handle = handle

def modCmd (d : Device) (handle : W32) (f : Cmd → Cmd) : Device :=
  { d with cmds := d.cmds.map fun c => if c.handle = handle then f c else c }

/-! ### Error events (R415, R471–R476) -/

/-- UNIT of a core or context (R471). -/
def coreUnit (c : CtxId) : BitVec 16 := BitVec.ofNat 16 (c.core.val + 512 * c.ctx.val)

/-- The event crossing of a detector's unit, as a bit of the CDC mask (R415, R420); none inside the hub. -/
def crossingOf (det unit : BitVec 16) : Option Nat :=
  let u := unit.toNat
  let n := det.toNat
  if n ≤ 0x18 || (0x100 ≤ n && n ≤ 0x104) || n = 0x180 || n = 0x181 then some (u % 512 / 128)
  else if n = 0x106 || n = 0x1A0 || n = 0x1A1 then some 25
  else if n = 0x110 || n = 0x111 then some (if u < 4 then u else if u = 4 then 0 else if u = 5 then 1 else if u = 6 then 3 else 2)
  else if 0x120 ≤ n && n ≤ 0x123 && n != 0x122 then some (12 + u % 8)
  else if 0x130 ≤ n && n ≤ 0x133 then some (20 + u % 4)
  else if 0x140 ≤ n && n ≤ 0x143 then some (4 + u % 8)
  else if n = 0x150 || n = 0x151 then some 24
  else if n = 0x161 then some (u % 32 / 8)
  else none

/-- An event that concerns no run. -/
def hubEvent (det : BitVec 16) (unit : Nat) (sev : BitVec 2) (detail : W64) : ErrEvent :=
  { det := det, unit := BitVec.ofNat 16 unit, sev := sev, inj := false, code := 0, dom := none,
    detail := detail, tick := BitVec.allOnes 64, place := .lead, since := 0 }

/-- Detectors whose unit all partitions share (R476). -/
def sharedDet (det : BitVec 16) : Bool :=
  let n := det.toNat
  (0x120 ≤ n && n ≤ 0x123 && n != 0x122) || n = 0x160 || n = 0x162 || n = 0x170 || n = 0x171 || n = 0x172 ||
    n = 0x1A0 || n = 0x1A1 || n = 0x106

/-- Whether a function belongs to a partition: a virtual one to its own, the physical one to every partition, which all share
it (log entry 94). -/
def functionOn (d : Device) (fn : Nat) (p : PartId) : Bool := fn = 0 || (vget d.vfPart (finMod 8 (fn + 7))).toNat = p.val

/-- Whether a detector's unit lies on a partition. A ring lies on the partition it is attached to, else where its function
does. -/
def unitOn (d : Device) (det unit : BitVec 16) (p : PartId) : Bool :=
  let u := unit.toNat
  let n := det.toNat
  if n = 0x105 || n = 0x122 || n = 0x190 || n = 0x191 then p = finMod 4 u
  else if 0x130 ≤ n && n ≤ 0x133 then p = partOfPort d (finMod 4 u)
  else if 0x140 ≤ n && n ≤ 0x143 then p = partOfStack d (finMod 8 u)
  else if n = 0x161 then p = partOfPond d (finMod 32 u)
  else if n = 0x110 || n = 0x111 then p = partOfDie d (finMod 4 (if u < 4 then u else if u = 5 then 1 else if u = 6 then 3 else if u = 7 then 2 else 0))
  else if n = 0x150 then functionOn d u p
  else if n = 0x151 then
    match (List.finRange 4).find? fun q => (getPart d q).attached = some (finMod 64 u) with
    | some q => p = q
    | none => functionOn d (vget d.rings (finMod 64 u)).owner.toNat p
  else p = partOfCore d (finMod 512 (u % 512))

/-- An injected event taints the runs in progress of its partition, or of all for a shared unit (R476). -/
def taint (d : Device) (det unit : BitVec 16) : Device :=
  forAll (allDoms.filter fun i => sharedDet det || unitOn d det unit i.part) d fun d i =>
    if (getDom d i).st = .running then modRun d i fun r => { r with tainted := true } else d

/-- Whether an event is armed for a detector and unit (R475). -/
def isArmed (d : Device) (det unit : BitVec 16) : Bool :=
  d.err.armed.any fun a => a.det = det && a.unit = unit && a.count != 0

/-- Events still armed for a detector and unit. -/
def armedLeft (d : Device) (det unit : BitVec 16) : Nat := ((d.err.armed.filter fun a => a.det = det && a.unit = unit).map fun a => a.count.toNat).sum

/-- Uses one armed event and taints (R475, R476). -/
def useArmed (d : Device) (det unit : BitVec 16) : Device :=
  taint { d with err := { d.err with armed := d.err.armed.map fun a =>
    if a.det = det && a.unit = unit then { a with count := a.count - 1 } else a } } det unit

/-- Takes an armed event on the next eligible item, if there is one: whether it was, and the device. -/
def inject (d : Device) (det unit : BitVec 16) : Bool × Device :=
  if isArmed d det unit then (true, useArmed d det unit) else (false, d)

/-- Events of a crossing; those inside the hub cross none. -/
def inCrossing (l : List ErrEvent) (k : Option Nat) : List ErrEvent := l.filter fun x => crossingOf x.det x.unit = k

/-- An event enters its place. -/
def pushEvent (d : Device) (e : ErrEvent) (p : EventPlace) : Device :=
  { d with err := { d.err with events := d.err.events ++ [{ e with place := p, since := d.clock.elapsed }] } }

/-- A crossing's overrun flag is set, and the overrun detected (R415, R471). -/
def overrun (d : Device) (k : Nat) (inj : Bool) : Device :=
  let d := noteSet { d with clock := { d.clock with overrun := d.clock.overrun ||| (1 <<< k) } } (.overrun (finMod 26 k))
  pushEvent d { hubEvent 0x162 k 0 0 with inj := inj } .lead

/-- An event is detected. It enters its crossing: as an entry of its own, or while 4 entries wait there in the pending count,
which travels with the next entry. One that would take that count past 255 is lost, and the overrun is detected as the first is
lost since an entry left (R415). An armed 0x0162 sets the flag with the event, which is not lost (R471). An injected event taints
(R476). -/
def detect (d : Device) (e : ErrEvent) : Device :=
  let d := if e.inj then taint d e.det e.unit else d
  match crossingOf e.det e.unit with
  | none => pushEvent d e .lead
  | some k =>
    let (inj, d) := inject d 0x162 (BitVec.ofNat 16 k)
    let mine := inCrossing d.err.events (some k)
    let full := decide (4 ≤ mine.countP fun x => x.place = .lead)
    if full && decide (255 ≤ mine.countP fun x => x.place = .pending) then
      let was := d.err.lossy.getLsbD k
      let d := { d with err := { d.err with lossy := d.err.lossy ||| (1 <<< k) } }
      if was && !inj then d else overrun d k inj
    else
      let d := pushEvent d e (if full then .pending else .lead)
      if inj then overrun d k true else d

/-- A detection at a unit, with INJECTED when an armed event is used on the same item (R475). -/
def detectAt (d : Device) (e : ErrEvent) : Device :=
  let (inj, d) := inject d e.det e.unit
  detect d { e with inj := inj }

/-- A host-memory access for the function of a ring: whether it succeeds. A failure, or a read that an armed
detector 0x0150 poisons, is recorded for that function (R402, R471). -/
def hostAccess (d : Device) (ring : Fin 64) (read ok : Bool) : Bool × Device :=
  let fn := (vget d.rings ring).owner.toNat
  if ok && !(read && isArmed d 0x150 (BitVec.ofNat 16 fn)) then (true, d) else (false, detectAt d (hubEvent 0x150 fn 2 0))

/-! ### Halts (R40, R79–R81) -/

/-- Low 32 bits of a tick. -/
def tick32 (t : Nat) : W32 := BitVec.ofNat 32 t

/-- Whether a core or context has halted. -/
def isHalted (d : Device) (c : CtxId) : Bool := (getUnit d c).halt.halted

/-- The sequencer and fetch address of a halt raised by no bundle (R80). -/
def idleRecord (d : Device) (c : CtxId) : Fin 4 × BitVec 12 :=
  let s := seqsOf d c
  let q := fun (n : Fin 4) => getSeq d { core := c.core, seq := n }
  match s.find? fun n => (q n).st = .running || (q n).st = .waiting with
  | some n => (n, (q n).pc.setWidth 12)
  | none => match s.find? fun n => (q n).st = .ended with
    | some n => (n, (q n).lastPc)
    | none => (finMod 4 (2 * c.ctx.val), 0)

/-- What a halt does to the run (R40, R393): the first halt is recorded, lowest core first on one tick,
and the rest of the domain halts four ticks later. -/
def noteHalt (r : Run) (c : CtxId) (seq : Fin 4) (code : Byte) : Run :=
  let h : FirstHalt := { ctx := c, seq := seq, tick := r.tick, code := code }
  let first := match r.first with
    | none => h
    | some f => if f.tick = r.tick && (c.core.val < f.ctx.core.val || (c.core = f.ctx.core && c.ctx.val < f.ctx.ctx.val)) then h else f
  { r with first := some first
           abortAt := match r.abortAt with | some t => some t | none => some (r.tick + 4) }

/-- Halts a core or context on the present tick: the record, the sequencers, and the domain (R79, R80).
fetch is a physical bundle address. A core or context that has already halted keeps its record. -/
def haltWith (d : Device) (c : CtxId) (code : Byte) (seq : Fin 4) (fetch : BitVec 12) (mask : BitVec 4) : Device :=
  if isHalted d c then d
  else
    let t := tickOf d c
    let d := modUnit d c fun u => { u with halt := { halted := true, tick := tick32 t, seqMask := mask, seq := seq, fetch := fetch, code := code } }
    let d := forAll (seqsOf d c) d fun d n =>
      modSeq d { core := c.core, seq := n } fun q =>
        if q.st = .running || q.st = .waiting then { q with st := .halted, cause := .none } else q
    match domOf d c with
    | none => d
    | some i =>
      let d := modRun d i fun r => noteHalt r c seq code
      if (domCtxs d i).all (isHalted d) then modDom d i fun m => { m with st := if m.st = .running then .halted else m.st } else d

/-- The event of a program check (R471). -/
def checkEvent (d : Device) (c : CtxId) (code : Byte) (fetch : BitVec 12) : ErrEvent :=
  { det := code.setWidth 16, unit := coreUnit c, sev := 2, inj := false, code := code, dom := domOf d c,
    detail := fetch.setWidth 64, tick := BitVec.ofNat 64 (tickOf d c), place := .lead, since := 0 }

/-- Reasons that are program checks with a detector of their own number (R471); 0x0C and 0x0D have
detectors 0x0101 and so on. -/
def isCheck (code : Byte) : Bool :=
  (1 ≤ code.toNat && code.toNat ≤ 0x13 && code != 0x0C && code != 0x0D) || code = 0x17 || code = 0x18

/-- A halt by a condition that a bundle or its transfer met, with its program-check event. -/
def haltCheck (d : Device) (c : CtxId) (code : Byte) (seq : Fin 4) (fetch : BitVec 12) (mask : BitVec 4) : Device :=
  if isHalted d c then d
  else
    let d' := if isCheck code then detectAt d (checkEvent d c code fetch) else d
    haltWith d' c code seq fetch mask

/-- A halt raised by no bundle (R80). -/
def haltNoBundle (d : Device) (c : CtxId) (code : Byte) : Device :=
  let (s, a) := idleRecord d c
  haltCheck d c code s (physAddr (isSplit d c.core) c.ctx a) 0

/-- The memory or unit error events that end in a halt carry the domain and tick of the core (R473). -/
def coreEvent (d : Device) (c : CtxId) (det : BitVec 16) (unit : BitVec 16) (sev : BitVec 2) (code : Byte) (detail : W64) : ErrEvent :=
  { det := det, unit := unit, sev := sev, inj := false, code := code, dom := domOf d c,
    detail := detail, tick := match runOf d c with | none => BitVec.allOnes 64 | some r => BitVec.ofNat 64 r.tick, place := .lead, since := 0 }

/-! ### The end of commands with a run, or at a wrapper (R393–R396, R401) -/

/-- RESULT of a run that halted (R393). -/
def haltResult (r : Run) : Byte × List Byte :=
  match r.first with
  | some f => (f.code, leBytes 2 (coreUnit f.ctx).toNat ++ [BitVec.ofNat 8 f.seq.val, 0] ++ leBytes 4 (f.tick % 2 ^ 32) ++ leBytes 8 (tickCount r))
  | none => (0, [])

/-- Commands that wait for something the run will no longer do (R394–R396). -/
def dropWaiting (d : Device) (i : DomId) (halted : Bool) (code : Byte) : Device :=
  let mine := d.cmds.filter fun c => c.hdr.part = i.part && c.hdr.dom = i.dom
  forAll mine d fun d c => match c.job with
    | .halt => completeCmd d c.handle .stateConflict 0 []
    | .snapshot _ _ b => if b != 0xFF && c.data.isNone then completeCmd d c.handle (if halted then .programHalted else .stateConflict) (if halted then code else 0) [] else d
    | .readTensor b => if b.bctx != 0xFF && !c.active then completeCmd d c.handle (if halted then .programHalted else .stateConflict) (if halted then code else 0) [] else d
    | _ => d

/-- The RUN of a halted domain that is replaced before its last operations have completed ends as its halt decides (R393). -/
def endHalted (d : Device) (i : DomId) : Device :=
  match (getDom d i).run, (getDom d i).runHandle with
  | some r, some h => let (code, res) := haltResult r; completeCmd (dropWaiting d i true code) h .programHalted code res
  | _, _ => d

/-- A command that receives an error response completes with ISOLATED_ERROR, with one ledger entry. -/
def isolateCmd (d : Device) (c : Cmd) : Device :=
  let i : DomId := { part := c.hdr.part, dom := c.hdr.dom }
  let t : W64 := match (getDom d i).run with | some r => BitVec.ofNat 64 r.tick | none => 0
  let d := detectAt d { hubEvent 0x181 0 2 0 with dom := some i, tick := t }
  completeCmd d c.handle .isolatedError 0 []


end Sys2Proof.Machine
end

