-- ==== Sys2Proof/Machine/Clock.lean ====
section
/-! DEFINITION. Clocks and time (R403–R420): the time counter and its corrections, stretches and
realignment, the reference, and the change of frequency code. -/

namespace Sys2Proof.Machine

/-! ### The time counter (R417, R352) -/

/-- One 4 ns period of the time domain: 64 sixteenths, 66 or 62 while slewing, 32 at half rate; the last
period of a correction applies what is left. DESIGN CHOICE: at the end of its 64 bits the counter stays, since it never decreases
(log entry 97). -/
def timeTick (c : Clock) : Clock :=
  let on := fun (c : Clock) (n : Nat) => { c with time16 := min (c.time16 + n) (2 ^ 68 - 1) }
  if 0 < c.half then on { c with half := c.half - 32 } (64 - min 32 c.half)
  else if 0 < c.slew then on { c with slew := c.slew - min 2 c.slew } (64 + (min 2 c.slew).toNat)
  else if c.slew < 0 then on { c with slew := c.slew + min 2 (-c.slew) } (64 - (min 2 (-c.slew)).toNat)
  else on c 64

def timeTicks : Nat → Clock → Clock
  | 0, c => c
  | n + 1, c => timeTicks n (timeTick c)

/-- Time passes by a number of sixteenths of a nanosecond. -/
def advanceTime (c : Clock) (by16 : Nat) : Clock :=
  let n := (c.elapsed + by16) / 64 - c.elapsed / 64
  timeTicks n { c with elapsed := c.elapsed + by16 }

/-- Time passes for the device; where it does, the present tick is over (R9). DESIGN CHOICE: two events of a register block fall
on one tick where no time passes between them (log entry 74). -/
def passTime (d : Device) (by16 : Nat) : Device :=
  { d with clock := advanceTime d.clock by16, justSet := if by16 = 0 then d.justSet else [] }

/-- R419. The counter is compared with its fraction, so that it never decreases. -/
def timeSet (d : Device) (v : W64) : Device :=
  let run := (List.finRange 4).any (anyRunning d)
  if decide (d.clock.time16 ≤ v.toNat * 16) && !run && !d.fab.aligned then
    { d with clock := { d.clock with time16 := v.toNat * 16 } }
  else noteSet { d with clock := { d.clock with setRefused := true } } .setRefused

/-- The boot state of R447: until Voath has reached READY. -/
def bootMode (d : Device) : Bool := d.rb.boot != .ready

/-- TIME_SET: in the boot state the write has no effect (R447). -/
def execTimeSet (value : W64) (s : State) : Host.Outcome State Fault Refusal :=
  onDev (fun d => if bootMode d then d else timeSet d value) s

/-- The end of a correction: nothing of it is left to apply (R352). -/
def slewComplete (d : Device) : Device :=
  if d.clock.slew = 0 && d.clock.half = 0 then { d with clock := { d.clock with corr := 0 } } else d

def execCorrectionSlewComplete (s : State) : Host.Outcome State Fault Refusal := onDev slewComplete s

/-! ### The reference (R404) -/

def referenceLost (d : Device) : Device :=
  if d.clock.refPresent then
    detectAt (noteSet { d with clock := { d.clock with refPresent := false, refLost := true, refOk := false } } .refLost) (hubEvent 0x160 0 1 0)
  else d

def execReferenceLost (s : State) : Host.Outcome State Fault Refusal := onDev referenceLost s

/-- Edges return: the clocks that have been released relock. -/
def referenceRestored (d : Device) : Device :=
  { d with clock := { d.clock with refPresent := true, refOk := decide (2 ≤ d.rb.step) } }

def execReferenceRestored (s : State) : Host.Outcome State Fault Refusal := onDev referenceRestored s

/-! ### Frequency codes (R405, R423) -/

/-- The code a partition runs at once the change in progress has been applied. -/
def codeAhead (p : Part) : Byte := p.nextCode.getD p.fcode

/-- The code a partition's rails stand for: the higher of the code it runs at and the one it changes to, since rails rise before
a change and fall after it (R423). -/
def railCode (p : Part) : Nat := max p.fcode.toNat (codeAhead p).toNat

/-- Sets the rails of a partition's ponds: each at its curve's value, and its trim in steps of 5 mV (R422). -/
def setRails (d : Device) (p : PartId) : Device :=
  let f := railCode (getPart d p)
  forAll (pondsOf d p) d fun d k => modPond d k fun x => { x with setMv := (Config.fusedCurve k.val f : Int) + 5 * x.trim.toInt }

/-- At the chosen reference edge, at least 1 µs after its decision, the code is applied; a raise waits for the rails, and after a
lowering they fall (R405, R423). While the reference is lost there is no edge, and every clock holds its frequency (R404). -/
def applyCode (d : Device) (p : PartId) : Device :=
  let x := getPart d p
  match x.nextCode with
  | some f =>
    if x.settling || !d.clock.refPresent || decide (d.clock.elapsed < x.decided + 16000) then d
    else setRails (modPart d p fun x => { x with fcode := f, nextCode := none, edge := x.edge * f.toNat / max 1 x.fcode.toNat }) p
  | none => d

def execFrequencyCodeChange (p : PartId) (s : State) : Host.Outcome State Fault Refusal := onDev (applyCode · p) s

def execVoltageSettled (p : PartId) (s : State) : Host.Outcome State Fault Refusal :=
  onDev (fun d => modPart d p fun x => { x with settling := false }) s

/-- Lowers a partition's code by one, not below a bound (R424); a raise that has not been applied is given up. -/
def lowerCode (x : Part) (now bound floor : Nat) : Part :=
  let f := min x.fcode.toNat (codeAhead x).toNat
  if f ≤ bound then x
  else { x with nextCode := some (BitVec.ofNat 8 (f - 1)), settling := false, decided := now, lowered := satAdd x.lowered 1,
                belowFloor := if f - 1 < floor then satAdd x.belowFloor 1 else x.belowFloor }

/-- Raises a partition's code by one; the rails rise first (R423). -/
def raiseCode (x : Part) (now : Nat) : Part :=
  let f := (codeAhead x).toNat
  if f < 210 then { x with nextCode := some (BitVec.ofNat 8 (f + 1)), settling := true, decided := now } else x

/-- The floor code of a program: its frequency floor, rounded up to a code (R405). -/
def programCode (g : Program) : Nat := (g.floorKHz + 4999) / 5000

/-- The floor code of a partition (R424): the highest of its paced binaries; 140 else. -/
def floorCode (p : Part) : Nat :=
  p.doms.toList.foldl (fun a m => match m.prog with | some g => max a (programCode g) | none => a) 140

/-! ### Stretches and realignment (R406–R409) -/

/-- The highest stretch count of a partition. -/
def maxCount (d : Device) (p : PartId) : Nat := (pondsOf d p).foldl (fun a k => max a (getPond d k).count) 0

/-- Realignment slots on the die of an own stretch: the other ponds, nearest first, ties to the lower
number, one every two periods (R408). -/
def realignOrder (k : Fin 32) : List (Fin 32) :=
  let sameDie := (List.finRange 32).filter fun j => j.val / 8 = k.val / 8
  (List.range 8).flatMap fun dist => sameDie.filter fun j =>
    0 < dist && (j.val + dist = k.val || k.val + dist = j.val)

/-- Gives each pond of a list its slot, from a period on, two periods apart. -/
def scheduleAt : Device → Nat → List (Fin 32) → Device
  | d, _, [] => d
  | d, q, k :: ks => scheduleAt (modPond d k fun x => { x with realignAt := some q }) (q + 2) ks

/-- Whether an own stretch of pond k in period q is permitted (R407). -/
def ownPermitted (d : Device) (k : Fin 32) (q : Nat) : Bool :=
  (match (getPond d k).lastOwn with | some l => decide (l + 32 ≤ q) | none => true) &&
  (match (getPart d (partOfPond d k)).lastOwn with | some l => decide (l + 16 ≤ q) | none => true)

/-- An own stretch of pond k in period q: every pond of the partition loses one period (R406, R408). -/
def ownStretch (d : Device) (k : Fin 32) (q : Nat) : Device :=
  let p := partOfPond d k
  let d := modPond d k fun x => { x with count := x.count + 1, stretches := satAdd x.stretches 1, lastOwn := some q, demand := false }
  let d := modPart d p fun x => { x with lastOwn := some q, stretch := x.stretch + 1 }
  let d := scheduleAt d (q + 2) (realignOrder k)
  if diesPer d = 1 then d
  else { d with power := { d.power with notices := d.power.notices ++ [(p, finMod 4 (k.val / 8), q + 6)] } }

/-- A realignment stretch of pond k. -/
def realign (d : Device) (k : Fin 32) : Device :=
  modPond d k fun x => { x with count := x.count + 1, realigns := satAdd x.realigns 1, realignAt := none, demand := false }

/-- Serves the demand of pond k on the period after the present one, or leaves it waiting (R407). -/
def serveDemand (d : Device) (k : Fin 32) : Device :=
  let q := (getPart d (partOfPond d k)).periods + 1
  if (getPond d k).count < maxCount d (partOfPond d k) then realign d k
  else if ownPermitted d k q then ownStretch d k q
  else modPond d k fun x => { x with demand := true }

/-- The margin of a pond falls below WARN, or below CRIT as well (R406, R407). -/
def stretchDemand (d : Device) (k : Fin 32) (crit : Bool) : Device :=
  if (getPond d k).st != .running then d
  else
    let p := partOfPond d k
    let (inj, d) := inject d 0x161 (BitVec.ofNat 16 k.val)
    let d := if crit || inj then
        let d := noteSet (modPond d k fun x => { x with crit := true }) (.crit k)
        let d := modPart d p fun x => { lowerCode x d.clock.elapsed 140 (floorCode x) with critSeen := true }
        detect d { hubEvent 0x161 k.val 1 0 with inj := inj }
      else d
    let was := (getPond d k).demand
    let d := serveDemand d k
    if (getPond d k).demand && !was then modPond d k fun x => { x with deferred := satAdd x.deferred 1 } else d

def execStretchDemand (pond : Fin 32) (crit : Bool) (s : State) : Host.Outcome State Fault Refusal :=
  onDev (fun d => stretchDemand d pond crit) s

/-- A pond makes its realignment stretch on its period; the ponds of a die that share the period make it
together (the die-wide stretch of R408). -/
def realignmentStretch (d : Device) (k : Fin 32) : Device :=
  match (getPond d k).realignAt with
  | none => d
  | some q =>
    if q ≤ (getPart d (partOfPond d k)).periods then
      forAll ((List.finRange 32).filter fun j => j.val / 8 = k.val / 8 && (getPond d j).realignAt = some q) d realign
    else d

def execRealignmentStretch (pond : Fin 32) (s : State) : Host.Outcome State Fault Refusal :=
  onDev (fun d => realignmentStretch d pond) s

/-- The notice of an own stretch on a die reaches the other dies of the partition: their ponds that are
behind stretch together two periods later (R408). -/
def stretchNotice (d : Device) (p : PartId) (die : Fin 4) : Device :=
  match d.power.notices.find? fun n => n.1 = p && n.2.1 = die && n.2.2 ≤ (getPart d p).periods with
  | none => d
  | some n =>
    let d := { d with power := { d.power with notices := d.power.notices.erase n } }
    let m := maxCount d p
    forAll ((pondsOf d p).filter fun j => j.val / 8 != die.val && (getPond d j).count < m) d fun d j =>
      modPond d j fun x => { x with realignAt := some (n.2.2 + 2) }

def execStretchNotice (p : PartId) (die : Fin 4) (s : State) : Host.Outcome State Fault Refusal :=
  onDev (fun d => stretchNotice d p die) s

/-- The end of a partition's period: the notices that have come and the realignment stretches of the period take place, where no event
has brought them before; then a deferred demand that is permitted on the next period is served, the lowest pond first (R407, R408). -/
def stretchesEnd (d : Device) (p : PartId) : Device :=
  let d := forAll (List.finRange 4) d fun d die => stretchNotice d p die
  let d := forAll (pondsOf d p) d realignmentStretch
  forAll ((pondsOf d p).filter fun k => (getPond d k).demand) d serveDemand

/-- Whether a realignment is in progress in a partition (CLK_STATUS.ALIGNING). -/
def aligning (d : Device) (p : PartId) : Bool :=
  (pondsOf d p).any (fun k => (getPond d k).realignAt != none) || d.power.notices.any fun n => n.1 = p

end Sys2Proof.Machine
end

