-- ==== Sys2Proof/Machine/CollAbort.lean ====
section
/-! DEFINITION. Fabric addresses and the way of collective frames (R295, R296, R316, R339), and the abort frames that
halts and resets send (R321–R323). -/

namespace Sys2Proof.Machine

/-- Fabric address of a partition (R339). -/
def fabAddr (d : Device) (p : PartId) : Nat := 4 * d.fab.index.toNat + p.val

/-- The present partition that a fabric address names, if the index is valid (R334, R339). -/
def partOfAddr (d : Device) (a : Nat) : Option PartId :=
  let p := finMod 4 a
  if d.fab.valid && a / 4 = d.fab.index.toNat && partPresent d p then some p else none

/-- A routed frame has left its buffer entry: credit is freed (R338). -/
def freeEntry (d : Device) (plane : Fin 8) (coll : Bool) (dst : PartId) : Device :=
  modPlane d plane fun p => { p with freed := vmod p.freed (finMod 8 ((if coll then 4 else 0) + dst.val)) (· + 1) }

/-- An entry of a receive buffer is freed, on the plane its frame came on (R338). -/
def freeHeld (d : Device) (p : PartId) (h : HeldFrame) : Device :=
  match h.plane with
  | some q => freeEntry d q true p
  | none => d

/-- The frames of a partition's receive buffer, and those that wait for it, that a test picks are dropped and freed. -/
def dropHeld (d : Device) (p : PartId) (test : HeldFrame → Bool) : Device :=
  let x := getPart d p
  let d := modPart d p fun x => { x with ceHeld := x.ceHeld.filter fun h => !test h, ceWait := x.ceWait.filter fun h => !test h }
  forAll ((x.ceHeld ++ x.ceWait).filter test) d fun d h => freeHeld d p h

/-- Empties the receive buffer of a partition: each entry is freed on the plane it came on (R322, R338). -/
def emptyBuffer (d : Device) (p : PartId) : Device := dropHeld d p fun _ => true

/-- A partition's share of the receive buffer of 4,096 frames (R317). -/
def bufferShare (d : Device) : Nat := 4096 / d.config

/-- A domain stalls: its collective frames stay where they are (R303). -/
def domStalled (d : Device) (i : Option DomId) : Bool :=
  match i with
  | none => false
  | some i => (getDom d i).st = .running && match (getDom d i).run with | some r => r.stalled | none => false

/-- Frames that wait for a partition's receive buffer enter it, while it has room (R317, R318). -/
def refill (d : Device) (p : PartId) : Device :=
  forAll ((getPart d p).ceWait.filter fun h => !domStalled d h.dom) d fun d h =>
    if bufferShare d ≤ (getPart d p).ceHeld.length then d
    else modPart d p fun x => { x with ceHeld := x.ceHeld ++ [h], ceWait := x.ceWait.erase h }

/-- A frame comes for a partition's receive buffer. -/
def enterBuffer (d : Device) (p : PartId) (h : HeldFrame) : Device :=
  refill (modPart d p fun x => { x with ceWait := x.ceWait ++ [h] }) p

/-- A frame joins its partition's transmit queue. -/
def queueFrame (d : Device) (f : TxFrame) : Device := modPart d f.part fun x => { x with txq := x.txq ++ [f] }

/-- The members of a descriptor's group. -/
def collGroup (g : Program) (x : CollDesc) : List (BitVec 18) := g.groups.getD x.group []

/-- The position of a fabric address in a group (R296). -/
def positionOf (grp : List (BitVec 18)) (a : Nat) : Nat := grp.findIdx fun x => x.toNat = a

/-- A collective frame body (R316), from its fields; scales and payload follow the identifiers. -/
def collBody (op cid inst shard seq : Nat) (scales payload : List Byte) (tflags acause agree : Nat) : BitVec 1792 :=
  leBits 1792 ([BitVec.ofNat 8 op, 0] ++ leBytes 2 cid ++ leBytes 4 inst ++ leBytes 2 shard ++ leBytes 2 0 ++ leBytes 4 seq ++
    (scales ++ leBytes 6 0).take 6 ++ leBytes 2 0 ++ (payload ++ leBytes 192 0).take 192 ++
    [BitVec.ofNat 8 tflags, BitVec.ofNat 8 acause, 0, 0] ++ leBytes 4 agree)

/-- A collective frame on its way from a partition to an address: to a partition of the package through the hub
(R295), else to the transmit queue. It belongs to a domain, or to none. -/
def sendColl (d : Device) (p : PartId) (dom : Option DomId) (dst : Nat) (nominal : Nat) (body : BitVec 1792) : Device :=
  match (if dst / 4 = d.fab.index.toNat then some (finMod 4 dst : PartId) else none) with
  | some q => enterBuffer d q { plane := none, dom := dom, src := fabAddr d p, lseq := 0, retried := false, bad := false, body := body }
  | none => queueFrame d { part := p, dom := dom, kind := 3, dst := BitVec.ofNat 18 dst, nominal := finMod 8 nominal, body := body, resend := false, first := none }

/-- The address of the successor of a partition in a descriptor's ring; none when it is the only member (R295). -/
def successorOf (d : Device) (p : PartId) (g : Program) (x : CollDesc) : Option Nat :=
  let grp := collGroup g x
  if grp.length ≤ 1 then none else (grp[(positionOf grp (fabAddr d p) + 1) % grp.length]?).map (·.toNat)

/-- An abort frame of a partition for an instance of a descriptor (R321). -/
def sendAbort (d : Device) (p : PartId) (x : CollDesc) (inst acause dst : Nat) : Device :=
  sendColl d p none dst x.chan.toNat (collBody 4 x.cid.toNat (inst % 2 ^ 32) 0 0 [] [] 0 acause x.check.toNat)

/-- CID and INST of a frame body (R316). -/
def bodyField (b : BitVec 1792) (a n : Nat) : Nat := b.toNat / 2 ^ (8 * a) % 2 ^ (8 * n)
def bodyCid (b : BitVec 1792) : Nat := bodyField b 2 2
def bodyInst (b : BitVec 1792) : Nat := bodyField b 4 4

/-- Abort frames to the successor for the active instances of a domain, which end without a record; the entries held for them are
freed (R322). -/
def abortActive (d : Device) (i : DomId) (acause : Nat) : Device :=
  match (getDom d i).run, (getDom d i).prog with
  | some r, some g =>
    let d := forAll r.colls d fun d c => match g.colls[c.desc.val]? with
      | some x =>
        let d := dropHeld d i.part fun h => bodyCid h.body = x.cid.toNat && bodyInst h.body = c.inst % 2 ^ 32
        match successorOf d i.part g x with
        | some a => sendAbort d i.part x c.inst acause a
        | none => d
      | none => d
    modRun d i fun r => { r with colls := [], collNext := r.colls.foldl (fun v c => vset v c.desc (c.inst + 1)) r.collNext }
  | _, _ => d

end Sys2Proof.Machine
end

