-- ==== Sys2Proof/Machine/Reset.lean ====
section
/-! DEFINITION. Resets (R435–R446): the four levels, how sources combine, the release steps, the wake of
ponds, and the commands and events that raise resets. -/

namespace Sys2Proof.Machine

/-! ### Ponds (R429, R430) -/

/-- The ponds in the order of their wake slots: slot 4 × (local pond) + die (R429). -/
def slotOrder : List (Fin 32) := (List.finRange 32).map fun j => finMod 32 (8 * (j.val % 4) + j.val / 4)

/-- Spacing of wake slots in ns: the gentle profile doubles it (R429, R446). -/
def wakeSpacing (d : Device) : Nat := if d.rb.cfgCode.getLsbD 3 then 4000 else 2000

/-- When the last slot of the wake in progress ends; now, where none is. -/
def wakeEnd (d : Device) : Nat :=
  (List.finRange 32).foldl (fun a k => if (getPond d k).st = .waking then max a (getPond d k).wakeAt else a) (elapsedNs d)

/-- Gives ponds their wake slots one after another, from a time on: a slot ends where the next begins (R429). -/
def wakeSlots : Device → Nat → List (Fin 32) → Device
  | d, _, [] => d
  | d, t, k :: ks => wakeSlots (modPond d k fun x => { x with st := .waking, wakeAt := t + wakeSpacing d }) (t + wakeSpacing d) ks

/-- Starts a wake of the ponds in a list that are powered down or in retention, in the order of their slots. Ponds that join a
wake in progress follow its last slot (log entry 95). -/
def startWake (d : Device) (ks : List (Fin 32)) : Device :=
  wakeSlots d (wakeEnd d) (slotOrder.filter fun k =>
    ks.contains k && ((getPond d k).st = .off || (getPond d k).st = .retention))

/-- Bits of CLK_STATUS.STOPPED for the compute dies: set when no pond of the die is clocked. -/
def dieStops (d : Device) : Device :=
  let m := (List.finRange 4).foldl (fun (a : BitVec 26) k =>
    if (List.finRange 32).all fun j => j.val / 8 != k.val || (getPond d j).st != .running then a ||| (1 <<< k.val) else a) 0
  { d with clock := { d.clock with stopped := (d.clock.stopped &&& ~~~ 0xF) ||| m } }

/-- The code a partition starts with when its first pond wakes (log entry 6). -/
def initialCode : Byte := 140

/-- The end of a pond's slot has come, and no earlier slot of the wake is still to end. -/
def wakeDue (d : Device) (k : Fin 32) : Bool :=
  (getPond d k).st = .waking && decide ((getPond d k).wakeAt ≤ elapsedNs d) &&
    (List.finRange 32).all fun j => (getPond d j).st != .waking || decide ((getPond d k).wakeAt ≤ (getPond d j).wakeAt)

/-- A pond wakes as its slot ends: it runs, and its die's links train as the die's first pond wakes (R441). -/
def pondWake (d : Device) (k : Fin 32) : Device :=
  if wakeDue d k then
    let d := modPond d k fun x => { x with st := .running, count := 0, lastOwn := none, realignAt := none, demand := false }
    let p := partOfPond d k
    let m := maxCount d p
    let d := modPond d k fun x => { x with count := m }
    let d := modPart d p fun x => if x.fcode = 0 then { x with fcode := initialCode, edge := d.clock.elapsed * initialCode.toNat } else x
    let d := setRails d p
    let awake := fun (die : Nat) => (List.finRange 32).any fun j => j.val / 8 = die && (getPond d j).st = .running
    let ends : List (Fin 8 × Bool) := [(0, awake 0), (1, awake 1), (2, awake 2), (3, awake 3),
      (4, awake 0 && awake 1), (5, awake 1 && awake 3), (6, awake 3 && awake 2), (7, awake 2 && awake 0)]
    dieStops { d with dieLinks := ends.foldl (fun v e => if e.2 then vmod v e.1 fun l => if l.retraining then l else { l with up := true } else v) d.dieLinks }
  else d

def execPondWakeSlot (pond : Fin 32) (s : State) : Host.Outcome State Fault Refusal := onDev (pondWake · pond) s

/-- The partition a command keeps from retention, if any: one whose work needs its ponds (R430). -/
def needsPonds (c : Cmd) : Bool :=
  let scratch := fun (a : W64) => decide (a.toNat / 2 ^ 44 = 1)
  match c.job with
  | .loadProgram _ _ | .overlay _ | .snapshot _ _ _ => true
  | .loadTensor b => scratch b.daddr
  | .readTensor b => scratch b.saddr
  | _ => false

/-- Whether a command in progress, or one that came on the present tick, needs the ponds of a partition, or a reset does. -/
def pondsHeld (d : Device) (p : PartId) : Bool :=
  let x := getPart d p
  x.clearing || x.resetting || decide (x.lastNeed = some d.clock.elapsed) || d.cmds.any (fun c => c.hdr.part = p && needsPonds c) ||
    (coresOf d p).any fun c => (getCore d c).inReset

/-- A pond enters retention when every domain of its partition has been EMPTY for IDLE_MS, and nothing needs the ponds (R430). -/
def pondRetention (d : Device) (k : Fin 32) : Device :=
  let p := partOfPond d k
  let x := getPart d p
  if d.power.idleGate && (getPond d k).st = .running && !bootMode d && !pondsHeld d p &&
      (x.doms.toList.all fun m => m.st = .empty) &&
      decide (x.emptySince + d.power.idleMs.toNat * 1000000 ≤ elapsedNs d) then
    dieStops (modPond d k fun x => { x with st := .retention })
  else d

def execPondRetentionEntry (pond : Fin 32) (s : State) : Host.Outcome State Fault Refusal := onDev (pondRetention · pond) s

/-- Whether a partition has a pond that is not running: a command that needs it waits for the wake. -/
def needsWake (d : Device) (p : PartId) : Bool := (pondsOf d p).any fun k => (getPond d k).st != .running

/-! ### L0 and L1 -/

/-- A reset of the package while fuses are blown: the bits blown so far stay blown, a free number of those still to blow (R454). -/
def stopFusing (d : Device) : Device :=
  match d.sec.fusing with
  | none => d
  | some t =>
    let (n, d) := drawFree d
    { d with sec := { d.sec with svnBlown := d.sec.svnBlown + (Config.freeWord n).toNat % (t - d.sec.svnBlown + 1) } }

/-- What every reset of the package keeps: fuses, memories outside the device, the model's counter, and
the input pins. The stacks lose their contents (R435, R436). The boot that follows takes the revocations as they stand (R455). -/
def packageReset (d : Device) : Device :=
  { Device.reset with
    sec := { Security.reset with
      seed := d.sec.seed, serial := d.sec.serial, keyDig := d.sec.keyDig, purpose := d.sec.purpose,
      revoked := d.sec.revoked, revActive := d.sec.revoked, svnFused := d.sec.svnFused, svnBlown := d.sec.svnBlown,
      stepping := d.sec.stepping, resetMap := d.sec.resetMap, spare := d.sec.spare, draws := d.sec.draws }
    cxl := d.cxl
    host := d.host
    freeCtr := d.freeCtr
    hbmStat := d.hbmStat.map fun x => { HbmStack.reset with epoch := x.epoch + 1 }
    clock := { Clock.reset with refPresent := d.clock.refPresent }
    rb := { ResetBlock.reset with main := d.rb.main, perst := d.rb.perst, trstN := d.rb.trstN } }

/-- L0 (R435): the auxiliary rail comes up, and the fuses are sensed: the security version is the bits blown so far (R454). -/
def resetL0 (d : Device) : Device :=
  let r := packageReset (stopFusing d)
  { r with sec := { r.sec with svnFused := r.sec.svnBlown } }

/-- L1 (R435, R450, R467): as L0, but retained memory, backup registers and RESET_CAUSE are kept, with
what the SECURITY block keeps; step 1 of the release is not repeated, and the fuses are not sensed again. -/
def resetL1 (d : Device) : Device :=
  let r := packageReset (stopFusing d)
  { r with
    retained := d.retained
    justSet := d.justSet
    sec := { r.sec with debugOpened := d.sec.debugOpened, fails := d.sec.fails,
                        dbg := if d.sec.dbg = .opened then .opened else .closed }
    rb := { r.rb with
      source := d.rb.source, mainPower := d.rb.mainPower, lastLevel := 1, bkup := d.rb.bkup, retBad := d.rb.retBad,
      cfgRaw := d.rb.cfgRaw, cfgInvalid := d.rb.cfgInvalid, cfgCode := d.rb.cfgCode,
      step := if d.rb.step = 0 then 0 else 1, tripOut := d.rb.tripOut, aux := d.rb.aux,
      smbOffset := d.rb.smbOffset, smbOn := d.rb.smbOn, smbData := d.rb.smbData,
      jtagOut := d.rb.jtagOut, jtagIr := d.rb.jtagIr, jtagBypass := d.rb.jtagBypass } }

/-- L0 or L1 is being released: the hub and the ponds are not all out of reset (R440, R441). -/
def packageResetting (d : Device) : Bool := decide (d.rb.step < 4)

/-! ### L2 and L3 -/

/-- A domain becomes EMPTY; its barrier claims end (R245). -/
def emptyDomain (d : Device) (i : DomId) : Device :=
  let d := { d with barriers := d.barriers.map fun b => if b.claim = some i then Barrier.reset else b }
  let d := modPart d i.part fun p => { p with emptySince := elapsedNs d }
  modDom d i fun m => { Domain.reset with run := m.run }

/-- Whether an armed detector's unit lies in a partition (R475). -/
def armedIn (d : Device) (p : PartId) (a : Armed) : Bool := !sharedDet a.det && unitOn d a.det a.unit p

/-- A core in its reset state, keeping the domain it is bound to, its configuration, and what the other cores of the
partition hold of its tables (R237), where asked. -/
def clearedCore (k : Core) (keep : Bool) : Core :=
  if keep then
    { Core.reset with split := k.split, fixed := k.fixed, clearing := true, inReset := true,
                      toldClasses := k.toldClasses, toldMonos := k.toldMonos,
                      units := k.units.map fun u => { CtxUnit.reset with bound := u.bound, halt := { HaltRec.reset with halted := true } } }
  else { Core.reset with clearing := true }

/-- Removes a core's scratchpad contents and parity errors. -/
def clearScratch (d : Device) (c : CoreId) : Device :=
  { d with scratch := memClear d.scratch (scratchKey c 0) (scratchKey c 4194304)
           scratchBad := d.scratchBad.filter fun a => a < scratchKey c 0 || scratchKey c 4194304 ≤ a }

/-- Ends the commands in progress of a partition with ABORTED_BY_RESET (R401). RESET_LEVEL waits. -/
def abortCmds (d : Device) (p : PartId) : Device :=
  forAll (d.cmds.filter fun c => c.opcode != 0x0D && c.hdr.part = p) d fun d c => completeCmd d c.handle .abortedByReset 0 []

/-- The senders of the transfers outstanding at a core or context, one for each requester: a transfer, a stream instance (R472). -/
def outstandingAt (d : Device) (c : CtxId) : List CtxId :=
  let s := (getUnit d c).stream
  (((getUnit d c).flights.filter fun f => !f.arrived && f.error.isNone).map fun _ => c) ++
    (((s.landing.filter fun i => i.landed.isNone && i.error.isNone).map fun i => (i.sender, i.desc, i.inst)) ++
      (s.outbound.filter fun o => o.acked.isNone && o.error.isNone).map fun o => (c, o.desc, o.inst)).eraseDups.map (·.1)

/-- The issuing cores of a domain's active collective instances. -/
def activeInsts (d : Device) (i : DomId) : List CtxId :=
  match (getDom d i).run, (getDom d i).prog with
  | some r, some g => r.colls.filterMap fun x => g.colls[x.desc.val]?.map (·.core)
  | _, _ => []

/-- The cores and contexts whose transfers are outstanding in a partition, one for each requester, a collective instance among them (R442,
R472). -/
def outstanding (d : Device) (p : PartId) : List CtxId :=
  (coresOf d p).flatMap (fun k => (ctxsOf d k).flatMap (outstandingAt d)) ++ (domsOf p).flatMap (activeInsts d)

/-- An error response for each of a list of requesters: one ledger entry each (R472). -/
def noteErrors (d : Device) (code : Byte) (cs : List CtxId) : Device :=
  forAll cs d fun d c => detectAt d (coreEvent d c 0x181 (coreUnit c) 2 code 0)

/-- An L2 reset of a partition begins, or begins anew (R442): its wrappers answer what is outstanding; its core resets in progress
are within it. -/
def resetL2 (d : Device) (p : PartId) : Device :=
  let absorbed := d.rb.units.filter fun u => (u.1.toNat / 4096 = 0) && partOfCore d (finMod 512 (u.1.toNat % 512)) = p
  let d := { d with rb := { d.rb with units := d.rb.units.filter fun u => !absorbed.contains u, lastLevel := 2 } }
  let d := noteErrors (abortCmds d p) 0 (outstanding d p)
  let d := modPart (emptyBuffer d p) p fun x => { x with txq := [], ceReset := [] }
  let d := { d with fab := { d.fab with moved := d.fab.moved.filter fun f => f.part != p }
                    parts := d.parts.map fun x => { x with ceWait := x.ceWait.filter fun h => h.dom.all fun i => i.part != p } }
  let d := forAll (domsOf p) d fun d i => emptyDomain (abortActive d i 3) i
  let d := forAll (coresOf d p) d fun d c => clearScratch (modCore d c fun k => clearedCore k false) c
  let d := { d with barriers := vmapi d.barriers fun b x => if partOfBar d b = p then Barrier.reset else x }
  let d := { d with err := { d.err with armed := d.err.armed.filter fun a => !armedIn d p a } }
  let d := modPart d p fun x =>
    { x with openMode := false, weights := [], clearing := true, resetting := true,
             resetCmds := x.resetCmds ++ absorbed.filterMap (·.2), doms := Vector.replicate 16 Domain.reset,
             ceRerun := 0, ceSat := 0, ceAbort := 0, ceRefuse := 0, ceLast := 0, ceLastAt := 0, ceFresh := 0, ceFreshAt := 0,
             cseqTx := [], cseqRx := [], emptySince := elapsedNs d }
  startWake d (pondsOf d p)

/-- The clear ends: the partition is sealed, its reset is released, and the commands complete that wait for no other partition's
(R400, R442). -/
def clearDone (d : Device) (p : PartId) : Device :=
  let x := getPart d p
  if x.clearing && !needsWake d p then
    let d := modPart d p fun x => { x with openMode := false, clearing := false, resetting := false, resetCmds := [] }
    let d := forAll (coresOf d p) d fun d c => modCore d c fun k => { k with clearing := false }
    forAll (x.resetCmds.filter fun h => (List.finRange 4).all fun q => !(getPart d q).resetCmds.contains h) d fun d h => completeCmd d h .ok 0 []
  else d

def execScratchpadClearDone (p : PartId) (s : State) : Host.Outcome State Fault Refusal := onDev (clearDone · p) s

/-- Type and index of an L3 unit (R389). -/
def unitType (u : BitVec 16) : Nat := u.toNat / 4096
def unitIndex (u : BitVec 16) : Nat := u.toNat % 4096

/-- Whether UNIT names a unit that exists (R389). -/
def unitValid (u : BitVec 16) : Bool :=
  match unitType u with
  | 0 => decide (unitIndex u < 512)
  | 1 => decide (unitIndex u < 12)
  | 2 => decide (unitIndex u < 4)
  | 3 => decide (unitIndex u < 8)
  | 4 => decide (unitIndex u = 0)
  | _ => false

/-- Detectors whose unit is the reset one (R475). -/
def armedAtUnit (u : BitVec 16) (a : Armed) : Bool :=
  let n := a.det.toNat
  let i := unitIndex u
  match unitType u with
  | 0 => (n ≤ 0x18 || (0x100 ≤ n && n ≤ 0x104) || n = 0x180 || n = 0x181) && a.unit.toNat % 512 = i
  | 1 => if i < 8 then (0x120 ≤ n && n ≤ 0x123 && n != 0x122) && a.unit.toNat = i
         else (0x130 ≤ n && n ≤ 0x133) && a.unit.toNat + 8 = i
  | 2 => (0x130 ≤ n && n ≤ 0x133) && a.unit.toNat = i
  | 3 => (0x140 ≤ n && n ≤ 0x143) && a.unit.toNat = i
  | _ => n = 0x190 || n = 0x191

/-! ### Sources (R437–R440) -/

/-- Level of a source in the fuse table: 15 is function only. -/
def levelOf (d : Device) (s : Nat) : Nat := d.sec.resetMap.toNat / 2 ^ (4 * s) % 16

/-- Records a source in RESET_CAUSE. -/
def noteSource (d : Device) (s : Nat) : Device :=
  noteSet { d with rb := { d.rb with source := d.rb.source ||| (1 <<< s) } } (.source (finMod 9 s))

/-- Partitions of an L3 unit: the one it lies in, or all for a shared one. -/
def unitParts (d : Device) (u : BitVec 16) : List PartId :=
  let n := unitIndex u
  match unitType u with
  | 0 => [partOfCore d (finMod 512 n)]
  | 1 => if n < 8 then (List.finRange 4).filter (partPresent d) else [partOfPort d (finMod 4 (n - 8))]
  | 2 => [partOfPort d (finMod 4 n)]
  | 3 => [partOfStack d (finMod 8 n)]
  | _ => (List.finRange 4).filter (partPresent d)

/-- The partitions in an L2 reset. -/
def resettingParts (d : Device) : List PartId := (List.finRange 4).filter fun p => (getPart d p).resetting

/-- L2 of partitions, for which commands may wait: absorbed where it lies within the L2 resets in progress; else a new reset begins
that covers what was in reset as well (R440; log entry 96). -/
def beginL2 (d : Device) (ps : List PartId) (hs : List W32) : Device :=
  let ps := ps.filter (partPresent d)
  let within := ps.all (resettingParts d).contains
  let all := (List.finRange 4).filter fun p => ps.contains p || (resettingParts d).contains p || d.rb.units.any fun u => (unitParts d u.1).contains p
  let d := forAll ps d fun d p => modPart d p fun x => { x with resetCmds := x.resetCmds ++ hs }
  if within then d else forAll all d resetL2

/-- Applies a level to partitions, or to the package for L0 and L1; a level within the reset in progress
is absorbed (R438, R440). -/
def applyLevel (d : Device) (level : Nat) (ps : List PartId) (hs : List W32) : Device :=
  match level with
  | 0 => if packageResetting d && d.rb.lastLevel = 0 then d else resetL0 d
  | 1 => if packageResetting d then d else resetL1 d
  | 2 => if packageResetting d then d else beginL2 d ps hs
  | _ => d

/-- A source joins those raised on the same hub tick: the most extensive of their levels, and the union of their scopes (R439).
Two sources fall on one tick where no time passes between them (log entry 74). -/
def joinRaised (d : Device) (level : Nat) (ps : List PartId) : Nat × List PartId × Device :=
  let (l, all) := match d.rb.raised with
    | some (t, l, qs) => if t = d.clock.elapsed then (min l level, qs ++ ps.filter fun p => !qs.contains p) else (level, ps)
    | none => (level, ps)
  (l, all, { d with rb := { d.rb with raised := some (d.clock.elapsed, l, all) } })

/-- A reset at level 0 to 2 over partitions, together with what else is raised on its tick; the commands given wait for an L2. -/
def raiseLevel (d : Device) (level : Nat) (ps : List PartId) (hs : List W32) : Device :=
  let (l, all, d) := joinRaised d level ps
  applyLevel d l all hs

/-- Raises a source over partitions; one that the fuse table maps to the function only resets no more than that (R437). -/
def raiseSource (d : Device) (s : Nat) (ps : List PartId) : Device :=
  let d := noteSource d s
  if 2 < levelOf d s then d else raiseLevel d (levelOf d s) ps []

/-- PARTITION_RESET. -/
def execPartitionReset (p : PartId) (s : State) : Host.Outcome State Fault Refusal :=
  onDev (fun d => if partPresent d p then raiseLevel d 2 [p] [] else d) s

/-- The auxiliary rail comes up: L0 (R437). -/
def execAuxPowerUp (s : State) : Host.Outcome State Fault Refusal :=
  onDev (fun d => if d.rb.aux then d else resetL0 { d with rb := { d.rb with aux := true } }) s

/-- The auxiliary rail is lost: everything on it is lost, and the regulators are held off (R497). -/
def auxLoss (d : Device) : Device :=
  let r := resetL0 d
  { r with rb := { r.rb with aux := false } }

def execAuxPowerLoss (s : State) : Host.Outcome State Fault Refusal := onDev auxLoss s

/-- The 12 V rail fails or returns: source 0 at L1 while the auxiliary rail is up (R437). -/
def mainPower (d : Device) (good : Bool) : Device :=
  let d := { d with rb := { d.rb with main := good } }
  if d.rb.aux then applyLevel (noteSource (noteSet { d with rb := { d.rb with mainPower := true } } .mainPower) 0) 1 [] [] else d

def execMainPowerChange (good : Bool) (s : State) : Host.Outcome State Fault Refusal :=
  onDev (fun d => if d.rb.main = good then d else mainPower d good) s

/-- PERST# is asserted: source 1; a release that has not come to step 2 waits for its deassertion (R437, R441). -/
def perstAssert (d : Device) : Device :=
  let d := { d with rb := { d.rb with perst := true } }
  if d.rb.aux then raiseSource d 1 [] else d

def execPerstAssert (s : State) : Host.Outcome State Fault Refusal := onDev perstAssert s

def execPerstDeassert (s : State) : Host.Outcome State Fault Refusal :=
  onDev (fun d => { d with rb := { d.rb with perst := false } }) s

def execPcieHotReset (s : State) : Host.Outcome State Fault Refusal :=
  onDev (fun d => if d.rb.aux then raiseSource d 2 [] else d) s

/-- A link that goes down without a hot reset raises no source, and the rings keep their state (R437). -/
def execPcieLinkDown (s : State) : Host.Outcome State Fault Refusal := onDev (fun d => d) s

/-- The management watchdog expires, armed by Voath or injected: source 4 and detector 0x01A0. -/
def watchdogExpiry (d : Device) : Device :=
  if d.rb.wdArmed || isArmed d 0x1A0 0 then raiseSource (detectAt d (hubEvent 0x1A0 0 3 0)) 4 [] else d

def execMgmtWatchdogExpiry (s : State) : Host.Outcome State Fault Refusal := onDev watchdogExpiry s

/-- A function-level reset: the function's rings are disabled without further completions, its
attachments are released, its MSI-X state is reset, and source 3 acts at its level (R401, R437, R486). -/
def functionReset (d : Device) (f : FnId) : Device :=
  let owned := fun (r : Fin 64) => decide ((vget d.rings r).owner.toNat = f.val)
  let rings := vmapi d.rings fun i r => if owned i then { r with enabled := false, held := [], outstanding := [], unsent := false } else r
  let cmds := d.cmds.map fun c => if owned c.hdr.ring then { c with mute := true } else c
  let parts := d.parts.map fun p => match p.attached with
    | some r => if owned r then { p with attached := none } else p
    | none => p
  let d := { d with rings := rings, cmds := cmds, parts := parts, msix := vset d.msix f Msix.reset }
  let ps : List PartId :=
    if f.val = 0 then List.finRange 4
    else
      let v := (vget d.vfPart (finMod 8 (f.val - 1))).toNat
      if v < 4 then [finMod 4 v] else []
  raiseSource d 3 ps

/-- The functions answer from the end of step 3 on; in the boot state no VF is enabled (R441, R447). -/
def execFunctionLevelReset (f : FnId) (s : State) : Host.Outcome State Fault Refusal :=
  onDev (fun d => if d.rb.step < 3 || (bootMode d && f.val != 0) then d else functionReset d f) s

/-! ### Release (R441, R446) -/

/-- The strap is measured: reading 4c + 1 or 4c + 2 latches code c, every other reading code 15 (R446, R503). -/
def measureCfg (b : ResetBlock) (raw : BitVec 6) : ResetBlock :=
  let m := raw.toNat % 4
  if m = 1 || m = 2 then { b with cfgRaw := raw, cfgInvalid := false, cfgCode := BitVec.ofNat 4 (raw.toNat / 4) }
  else { b with cfgRaw := raw, cfgInvalid := true, cfgCode := 15 }

/-- The 32 bytes of the spare map (R16). -/
def spareBytes (d : Device) : List Byte := d.sec.spare.toList

/-- A new challenge is drawn (R463). -/
def newChallenge (d : Device) : Device :=
  { d with sec := { d.sec with challenge := Config.challenge d.sec.draws, draws := d.sec.draws + 1 } }

/-- Step 2 ends: cfg_sense is latched, the time counter runs from zero, the spare-map digest is valid,
the first challenge is drawn; step 3 starts, and with it the wake of all ponds (step 4). -/
def releaseHub (d : Device) (raw : BitVec 6) : Device :=
  let d := newChallenge { d with
    rb := { measureCfg d.rb raw with step := 2, smbOn := true }
    clock := { d.clock with refOk := true, time16 := 0, elapsed := 0 }
    sec := { d.sec with spDigest := sha384 (spareBytes d), spDigValid := true } }
  startWake d (List.finRange 32)

/-- A stack that is ready: its controllers accrue refreshes from now on (R47). -/
def readyStack (d : Device) (x : HbmStack) : HbmStack :=
  { x with ready := true, pchs := x.pchs.map fun p => { p with lastAt := d.clock.elapsed } }

/-- The release step in progress ends and the next begins, when the conditions of R441 hold. -/
def releaseStep (d : Device) (raw : BitVec 6) : Device :=
  match d.rb.step with
  | 0 => if d.rb.aux then { d with rb := { d.rb with step := 1 } } else d
  | 1 => if d.rb.main && !d.rb.perst && d.clock.refPresent then releaseHub d raw else d
  | 2 => { d with rb := { d.rb with step := 3 } }
  | 3 => if (List.finRange 32).all fun k => (getPond d k).st = .running then { d with rb := { d.rb with step := 4 } } else d
  | 4 => if d.rb.boot = .running then
      { d with rb := { d.rb with step := 5 }, hbmStat := d.hbmStat.map (readyStack d)
               cxlPorts := d.cxlPorts.map fun x => { x with st := .training } }
    else d
  | _ => d

def execResetReleaseStep (raw : BitVec 6) (s : State) : Host.Outcome State Fault Refusal := onDev (releaseStep · raw) s

end Sys2Proof.Machine
end

