-- ==== Sys2Proof/Machine/Power.lean ====
section
/-! DEFINITION. The power manager (R421–R434): samples, decisions, reservations and limits. -/

namespace Sys2Proof.Machine

/-- R(F) of one pond in hundredths of a watt (R425). -/
def pondReserve (f : Nat) : Nat := 3000 + 64 * (f - 140)

/-- Pond reservation of a partition in hundredths of a watt. -/
def partReserve (d : Device) (p : PartId) : Nat := (pondsOf d p).length * pondReserve (floorCode (getPart d p))

/-- The reservation total in hundredths of a watt (R425). -/
def reserveTotal (d : Device) : Nat :=
  76000 + ((List.finRange 4).filter (partPresent d)).foldl (fun a p => a + partReserve d p) 0

/-- Watts, rounded up. -/
def wattsUp (centi : Nat) : Nat := (centi + 99) / 100

/-- A write of PWR_CTRL (R425, R434): IDLE_GATE, IDLE_MS unless zero, and LIMIT_W if admissible. -/
def writePwrCtrl (d : Device) (v : W64) : Device :=
  let ms := fieldNat v 27 16
  let w := fieldNat v 11 0
  let pw := { d.power with idleGate := v.getLsbD 31, idleMs := if ms = 0 then d.power.idleMs else BitVec.ofNat 12 ms }
  if 1600 ≤ w && w ≤ 3200 && reserveTotal d ≤ 100 * w then
    { d with power := { pw with limitW := BitVec.ofNat 12 w } }
  else noteSet { d with power := { pw with limitRefused := true } } .limitRefused

def execLimitWWrite (value : W64) (s : State) : Host.Outcome State Fault Refusal :=
  onDev (fun d => if bootMode d then d else writePwrCtrl d value) s

/-! ### Temperatures (R432, R433) -/

/-- Throttle temperature of a sensor; none for unused codes and optical engines. -/
def throttleAt (n : Nat) : Option Nat :=
  if n ≤ 32 then some 100 else if 40 ≤ n && n ≤ 47 then some 95 else none

/-- Trip temperature of a sensor. -/
def tripAt (n : Nat) : Option Nat :=
  if n ≤ 32 then some 115 else if 40 ≤ n && n ≤ 47 then some 105 else if 48 ≤ n && n ≤ 59 then some 95 else none

/-- A sample of one sensor, injected or not: the reading is kept, a throttle begins above its threshold and ends 5 °C
below it. -/
def sampleSensor (d : Device) (n : Fin 60) (t : Byte) (inj : Bool) : Device :=
  let d := { d with power := { d.power with temps := vset d.power.temps n t } }
  let d := if n.val < 32 then modPond d (finMod 32 n.val) fun x => { x with temp := t } else d
  let d := if 40 ≤ n.val && n.val < 48 then
    modStack d (finMod 8 (n.val - 40)) fun x => { x with temp := t, hot := decide (85 < t.toNat) } else d
  match throttleAt n.val with
  | none => d
  | some th =>
    let on := d.power.throttled.getLsbD n.val
    if th < t.toNat then
      let d := { d with power := { d.power with throttled := d.power.throttled ||| (1 <<< n.val) } }
      if on && !inj then d else detect d { hubEvent 0x170 n.val 1 0 with inj := inj }
    else if t.toNat + 5 ≤ th then
      { d with power := { d.power with throttled := d.power.throttled &&& ~~~ ((1 : BitVec 60) <<< n.val) } }
    else d

/-- The reading of a sensor after injection, and whether 0x0170 is injected (R471, 0x0170 and 0x0171). -/
def injectTemp (d : Device) (n : Fin 60) (t : Byte) : Byte × Bool × Device :=
  let u := BitVec.ofNat 16 n.val
  match tripAt n.val, throttleAt n.val with
  | some tr, th =>
    if isArmed d 0x171 u then (BitVec.ofNat 8 tr, false, d)
    else match th with
      | some th => if isArmed d 0x170 u then (BitVec.ofNat 8 (th + 1), true, useArmed d 0x170 u) else (t, false, d)
      | none => (t, false, d)
  | none, _ => (t, false, d)

/-- Samples from sensor n on. -/
def sampleFrom : Nat → Device → List Byte → Device
  | _, d, [] => d
  | n, d, t :: ts =>
    if h : n < 60 then
      let (t', inj, d) := injectTemp d ⟨n, h⟩ t
      sampleFrom (n + 1) (sampleSensor d ⟨n, h⟩ t' inj) ts
    else d

/-- The lowest sensor at or above its trip temperature. -/
def tripped (d : Device) : Option (Fin 60) :=
  (List.finRange 60).find? fun n => match tripAt n.val with
    | some tr => decide (tr ≤ (vget d.power.temps n).toNat)
    | none => false

/-- A thermal trip: the trip record, the output, and source 5 (R432, R433). -/
def thermalTrip (d : Device) (n : Fin 60) : Device :=
  let t := vget d.power.temps n
  let d := detectAt d (hubEvent 0x171 n.val 3 0)
  let rec15 := put64 16 (nowNs d % 2 ^ 48) ||| put64 8 t.toNat ||| put64 0 n.val
  let d := { d with rb := { d.rb with bkup := vset d.rb.bkup 15 rec15, tripOut := true } }
  raiseSource d 5 []

/-- SMB_ALERT_N: low while a sensor is at or above its throttle temperature, or the thermal-trip output is asserted (R500). -/
def smbAlertN (d : Device) : Bool :=
  !(d.rb.tripOut || (List.finRange 60).any fun n => match throttleAt n.val with
    | some th => decide (th ≤ (vget d.power.temps n).toNat)
    | none => false)

def thermalSample (d : Device) (temps : List Byte) : Device :=
  let d := sampleFrom 0 d temps
  match tripped d with
  | some n => thermalTrip d n
  | none => d

def execThermalSample (temps : List Byte) (s : State) : Host.Outcome State Fault Refusal :=
  onDev (fun d => if d.rb.step < 2 then d else thermalSample d temps) s

/-- Whether rule 1 of R424 applies to a partition. -/
def throttledPart (d : Device) (p : PartId) : Bool :=
  d.power.throttled.getLsbD 32 ||
  (pondsOf d p).any (fun k => d.power.throttled.getLsbD k.val) ||
  (List.finRange 8).any fun s => partOfStack d s = p && d.power.throttled.getLsbD (40 + s.val)

/-- Whether every pond lies more than 5 °C below its throttle temperature. -/
def allCool (d : Device) : Bool := (List.finRange 32).all fun k => decide ((getPond d k).temp.toNat + 5 < 100)

/-! ### Decisions (R424–R427) -/

/-- The partitions that exist and are awake. -/
def livePartitions (d : Device) : List PartId := (List.finRange 4).filter fun p => partPresent d p && (getPart d p).fcode != 0

/-- Rule 5: the live partition with the highest code above its floor, lowest number on a tie. -/
def rule5 (d : Device) : Option PartId :=
  (livePartitions d).foldl (fun best p =>
    let c := (codeAhead (getPart d p)).toNat
    if c ≤ floorCode (getPart d p) then best
    else match best with
      | none => some p
      | some q => if (codeAhead (getPart d q)).toNat < c then some p else best) none

/-- Rule 6: the live partition with the lowest code below 210, lowest number on a tie. -/
def rule6 (d : Device) : Option PartId :=
  (livePartitions d).foldl (fun best p =>
    let c := (codeAhead (getPart d p)).toNat
    if 210 ≤ c then best
    else match best with
      | none => some p
      | some q => if c < (codeAhead (getPart d q)).toNat then some p else best) none

/-- What a decision period finds: the over-budget fault, the fast limit, the 1 ms mean power, and the ponds whose margin it finds
below CRIT. -/
structure Findings where
  excess : Bool
  fast   : Bool
  mean   : Nat
  crit   : List (Fin 32)
deriving DecidableEq, Repr, Inhabited

/-- The outcome of a decision period for one partition (R424), in the order of its rules: a margin below CRIT found by the decision,
or since the last one, is rule 2's condition. DEDUCED: before rules 5 and 6 a partition below its floor is raised towards it (R54;
log entry 75). -/
def decide1 (d : Device) (x : Part) (p : PartId) (f : Findings) : Part :=
  let floor := floorCode x
  let lim := d.power.limitW.toNat
  let now := d.clock.elapsed
  let seen := { x with critSeen := false }
  if throttledPart d p then lowerCode seen now 140 floor
  else if x.critSeen || f.crit.any fun k => partOfPond d k = p then lowerCode seen now 140 floor
  else if f.excess then lowerCode x now 140 floor
  else if f.fast then lowerCode x now floor floor
  else if (codeAhead x).toNat < floor then raiseCode x now
  else if lim < f.mean then (if rule5 d = some p then lowerCode x now floor floor else x)
  else if 100 * f.mean < 98 * lim && allCool d then (if rule6 d = some p then raiseCode x now else x)
  else x

/-- The adjustment of a trim by one decision: a step up for a margin below WARN, a step down for one above twice WARN (R422). DESIGN
CHOICE: one step of 5 mV (log entry 98). -/
def trimStep : Margin → BitVec 16
  | .crit | .low => 1
  | .good => 0
  | .high => 0xFFFF

/-- The readings of a decision period (R421, R422). -/
def takeReadings (d : Device) (r : PowerReading) : Device :=
  let ponds := vmapi d.power.ponds fun k x =>
    { x with current := r.current.getD k.val x.current, volt := r.volt.getD k.val x.volt, trim := x.trim + trimStep (r.margin.getD k.val .good) }
  { d with power := { d.power with pkgW := r.pkgW, ponds := ponds } }

/-- Whether a 5 µs mean input current, in units of 0.1 A, exceeds 1.0625 × LIMIT_W / 12 V (R426). -/
def overFast (d : Device) (current : Nat) : Bool := decide (106250 * d.power.limitW.toNat < 120000 * current)

/-- The fast limit is seen. -/
def noteFast (d : Device) : Device := noteSet { d with power := { d.power with fastLimit := true } } .fastLimit

/-- Changes of the partitions that are awake, and what follows of the rails. -/
def changeParts (d : Device) (f : PartId → Part → Part) : Device :=
  let d := { d with parts := vmapi d.parts fun p x => if partPresent d p && x.fcode != 0 then f p x else x }
  forAll (livePartitions d) d setRails

/-- A decision period (R424). -/
def powerDecision (d : Device) (r : PowerReading) : Device :=
  let d := takeReadings d r
  let atFloor := (livePartitions d).all fun p => (codeAhead (getPart d p)).toNat ≤ floorCode (getPart d p)
  let genuine := atFloor && decide (105 * d.power.limitW.toNat < 100 * r.meanMs.toNat)
  let (inj, d) := inject d 0x172 0
  let excess := genuine || inj
  let fast := overFast d r.fast.toNat
  let d := if excess then
      detect (noteSet { d with power := { d.power with overFloor := true } } .overFloor) { hubEvent 0x172 0 1 0 with inj := inj }
    else d
  let d := if fast then noteFast d else d
  let f : Findings := { excess := excess, fast := fast, mean := r.meanMs.toNat, crit := (List.finRange 32).filter fun k => r.margin.getD k.val .good = .crit }
  changeParts d fun p x => decide1 d x p f

def execPowerDecision (r : PowerReading) (s : State) : Host.Outcome State Fault Refusal := onDev (powerDecision · r) s

/-- The fast limit (R426) applies rule 4 at once. -/
def fastLimit (d : Device) (current : Nat) : Device :=
  if overFast d current then
    let d := noteFast d
    changeParts d fun _ x => lowerCode x d.clock.elapsed (floorCode x) (floorCode x)
  else d

def execFastLimit (current : BitVec 16) (s : State) : Host.Outcome State Fault Refusal := onDev (fastLimit · current.toNat) s

end Sys2Proof.Machine
end

