-- ==== Sys2Proof/Machine/Security.lean ====
section
/-! DEFINITION. Boot (R447–R449), fuses, the security engine, attestation and the debug port
(R451–R467). Pennants are formed in Machine/Pennant.lean. -/

namespace Sys2Proof.Machine

/-- Bytes a to a + n − 1 of a byte list. -/
def slice (bs : List Byte) (a n : Nat) : List Byte := (bs.drop a).take n

/-- Whether the bytes of a range are all zero. -/
def zeroIn (bs : List Byte) (a n : Nat) : Bool := (slice bs a n).all (· = 0)

/-! ### Boot (R448, R449, R453) -/

/-- A write of BOOT_CTRL (R448): LEN, and GO, which in a state that takes no download leaves the whole write without effect. The
download reads what BOOT_ADDR and LEN hold as GO is written. -/
def bootGo (d : Device) (v : W64) : Device :=
  let len := fieldNat v 63 32
  let x := { d with rb := { d.rb with bootLen := BitVec.ofNat 32 len } }
  if !v.getLsbD 0 then x
  else if 3 ≤ d.rb.step && (d.rb.boot = .idle || d.rb.boot = .failed) then
    let x := { x with rb := { x.rb with attempts := satAdd d.rb.attempts 1 } }
    if len = 0 || len % 64 != 0 || 4194304 < len then { x with rb := { x.rb with boot := .failed, bootErr := 0x11 } }
    else { x with rb := { x.rb with boot := .fetching, fetchAddr := d.rb.bootAddr, fetchLen := BitVec.ofNat 32 len } }
  else d

def execBootGo (value : W64) (s : State) : Host.Outcome State Fault Refusal := onDev (bootGo · value) s

/-- The image has been read into hub SRAM, or a host read failed. -/
def bootFetched (d : Device) (ok : Bool) : Device :=
  if d.rb.boot = .fetching then
    if ok then
      { d with rb := { d.rb with boot := .verifying, image := readBytes d .host (d.rb.fetchAddr.toNat * 4096) d.rb.fetchLen.toNat } }
    else { d with rb := { d.rb with boot := .failed, bootErr := 0x10 } }
  else d

def execBootFetchDone (ok : Bool) (s : State) : Host.Outcome State Fault Refusal := onDev (bootFetched · ok) s

/-- The slot's fused purpose bit (0 firmware, 1 debug). -/
def slotPurpose (d : Device) (slot bitNo : Nat) : Bool := d.sec.purpose.getLsbD (2 * slot + bitNo)

/-- A key in a slot: purpose, not revoked as the present boot began (R455), digest of the key equal to the fused one (R453, R464). -/
def slotAccepts (d : Device) (slot bitNo : Nat) (key : List Byte) : Bool :=
  slotPurpose d slot bitNo && !d.sec.revActive.getLsbD slot && decide (sha384 key = vget d.sec.keyDig (finMod 8 slot))

/-- R453: the error of the first check that fails; 0 when the image verifies. -/
def imageError (d : Device) (im : List Byte) : Byte :=
  let slot := (im.getD 6 0).toNat
  let svn := (im.getD 7 0).toNat
  let key := slice im 112 97
  let sound := decide (256 ≤ im.length) && slice im 0 4 = [0x56, 0x4F, 0x54, 0x48] && leVal (slice im 4 2) = 1 &&
    decide (leVal (slice im 8 4) = im.length) && zeroIn im 12 4 && zeroIn im 209 47 &&
    decide (slot ≤ 7) && decide (svn ≤ 64) && validPoint key
  if !sound then 0x14
  else if !(slotAccepts d slot 0 key && ecdsaVerifies key (sha384 (slice im 0 16 ++ im.drop 112)) (slice im 16 96)) then 0x12
  else if svn < d.sec.svnFused then 0x13
  else 0

/-- Verification ends: on success the identity key is derived, unless the port has been opened, and Voath
starts (R449, R456). -/
def bootVerified (d : Device) : Device :=
  if d.rb.boot = .verifying then
    let e := imageError d d.rb.image
    if e = 0 then
      { d with
        rb := { d.rb with boot := .running }
        sec := { d.sec with imgSvn := BitVec.ofNat 7 (d.rb.image.getD 7 0).toNat, imgSlot := BitVec.ofNat 3 (d.rb.image.getD 6 0).toNat,
                            idValid := !d.sec.debugOpened, fwDigest := sha384 d.rb.image, fwValid := true } }
    else { d with rb := { d.rb with boot := .failed, bootErr := e } }
  else d

def execBootVerifyDone (s : State) : Host.Outcome State Fault Refusal := onDev bootVerified s

/-- Voath sets READY once release step 5 has ended; whether it arms the watchdog, and with which timeout,
is its own (free values within the range of WDOG_STATUS). -/
def voathReady (d : Device) : Device :=
  if d.rb.boot = .running && decide (d.rb.step = 5) then
    let (n, d) := drawFree d
    let x := Config.freeWord n
    { d with
      rb := { d.rb with boot := .ready, wdArmed := x.getLsbD 0,
                        wdTimeout := if x.getLsbD 0 then BitVec.ofNat 32 (100 + x.toNat / 2 % 59901) else 0 }
      parts := d.parts.map fun p => { p with emptySince := elapsedNs d } }
  else d

def execVoathReady (s : State) : Host.Outcome State Fault Refusal := onDev voathReady s

/-- Voath has not reached READY within 200 ms: error 0x15 and source 4. -/
def bootTimeout (d : Device) : Device :=
  if d.rb.boot = .running then
    raiseSource { d with rb := { d.rb with boot := .failed, bootErr := 0x15 } } 4 []
  else d

def execBootTimeout (s : State) : Host.Outcome State Fault Refusal := onDev bootTimeout s

/-! ### Fuses (R454, R455) -/

/-- A write of SVN_COMMIT. -/
def svnCommit (d : Device) : Device :=
  if d.rb.boot = .ready && d.sec.fusing = none then
    if d.sec.svnFused < d.sec.imgSvn.toNat then { d with sec := { d.sec with fusing := some d.sec.imgSvn.toNat } } else d
  else noteSet { d with sec := { d.sec with commitRefused := true } } .commitRefused

/-- A write of a revocation mask. -/
def revokeSlots (d : Device) (mask : Byte) : Device :=
  if mask = 0 || d.rb.boot != .ready then d
  else
    let r := d.sec.revoked ||| mask
    let keeps := (List.range 8).any fun k => slotPurpose d k 0 && !r.getLsbD k
    if mask.getLsbD d.sec.imgSlot.toNat || !keeps || d.sec.fusing != none then
      noteSet { d with sec := { d.sec with revokeRefused := true } } .revokeRefused
    else { d with sec := { d.sec with revoked := r, fusing := some d.sec.svnFused } }

/-- SVN_COMMIT with a mask written in the same access: the commit first (R455). -/
def execSvnCommit (revokeMask : Byte) (s : State) : Host.Outcome State Fault Refusal :=
  onDev (fun d => revokeSlots (svnCommit d) revokeMask) s

def execRevoke (mask : Byte) (s : State) : Host.Outcome State Fault Refusal := onDev (revokeSlots · mask) s

def fusingDone (d : Device) : Device :=
  match d.sec.fusing with
  | some t => { d with sec := { d.sec with svnFused := t, svnBlown := max t d.sec.svnBlown, fusing := none } }
  | none => d

def execFusingDone (s : State) : Host.Outcome State Fault Refusal := onDev fusingDone s

/-! ### Attestation (R458, R459) -/

/-- Identity digest, or zero while no key is latched (R398, R466). -/
def idDigest (d : Device) : Digest := if d.sec.idValid then identityDigest d.sec.seed d.sec.serial else 0

/-- Fabric address of a partition; all ones when not valid (R339, R461). -/
def fabAddr32 (d : Device) (p : PartId) : W32 :=
  if d.fab.valid then BitVec.ofNat 32 (4 * d.fab.index.toNat + p.val) else 0xFFFFFFFF

/-- Bytes 0–271 of an attestation report. -/
def reportBytes (d : Device) : List Byte :=
  leBytes 2 1 ++ leBytes 2 368 ++ leBytes 2 0x4025 ++ [d.sec.stepping, 1, BitVec.ofNat 8 d.sec.svnFused,
    d.sec.imgSvn.setWidth 8, d.sec.imgSlot.setWidth 8, d.sec.revoked, BitVec.ofNat 8 d.config, 0, 0, 0] ++
  d.sec.attNonce.toList.flatMap (fun w => leBytes 8 w.toNat) ++ digestBytes d.sec.fwDigest ++ digestBytes d.sec.spDigest ++
  digestBytes (idDigest d) ++ leBytes 8 d.sec.serial.toNat ++ leBytes 8 (nowNs d) ++ leBytes 4 (fabAddr32 d 0).toNat ++
  List.replicate 44 0

/-- The request at the head of the engine's queue begins: an attestation report takes its time. -/
def beginHead (d : Device) : Device :=
  match d.sec.queue with
  | .attest a _ :: rest => { d with sec := { d.sec with queue := .attest a (leBits 2176 (reportBytes d)) :: rest } }
  | _ => d

/-- A request reaches the security engine (R458). -/
def enqueueSign (d : Device) (r : SignReq) : Device :=
  let q := d.sec.queue
  let d := { d with sec := { d.sec with queue := q ++ [r] } }
  if q.isEmpty then beginHead d else d

/-- The request at the head has been signed. -/
def dequeueSign (d : Device) : Device := beginHead { d with sec := { d.sec with queue := d.sec.queue.drop 1 } }

/-- A write of ATT_CTRL (R459). -/
def attestGo (d : Device) (v : W64) : Device :=
  let a : BitVec 58 := BitVec.ofNat 58 (fieldNat v 63 6)
  let d := { d with sec := { d.sec with attAddr := a } }
  if v.getLsbD 0 && d.sec.attState != 1 then
    if d.sec.idValid then enqueueSign { d with sec := { d.sec with attState := 1, attErr := 0 } } (.attest a 0)
    else { d with sec := { d.sec with attState := 3, attErr := 1 } }
  else d

def execAttestationGo (value : W64) (s : State) : Host.Outcome State Fault Refusal := onDev (attestGo · value) s

/-- Signing of the report at the head ends: it is written, or its host write fails. -/
def attestDone (d : Device) (hostOk : Bool) : Device :=
  match d.sec.queue with
  | .attest a rep :: _ =>
    let d := dequeueSign d
    if hostOk then
      let body := leBytes 272 rep.toNat
      let sig := ecdsaSign d.sec.seed d.sec.serial (sha384 body)
      let d := writeBytes d .host (a.toNat * 64) (body ++ leBytes 96 sig.toNat)
      { d with sec := { d.sec with attState := 2, attErr := 0, attCount := satAdd d.sec.attCount 1 } }
    else detectAt { d with sec := { d.sec with attState := 3, attErr := 2 } } (hubEvent 0x150 0 2 0)
  | _ => d

def execAttestationDone (hostOk : Bool) (s : State) : Host.Outcome State Fault Refusal := onDev (attestDone · hostOk) s

/-! ### Debug port (R462–R466) -/

/-- Each host's token of the same hub tick, from the first on, meets the challenge that the submission before it left. -/
def shiftChallenges (cur : Digest) : List Submission → List Submission
  | [] => []
  | [x] => [{ x with chal := cur }]
  | x :: y :: rest => { x with chal := y.chal } :: shiftChallenges cur (y :: rest)

/-- Whether a submission is the host's, and of the present hub tick. -/
def hostNow (now : Nat) (x : Submission) : Bool := !x.port && decide (x.time = now)

/-- A submission joins those under verification. The port's goes before a host's of the same hub tick, and consumes its challenge
(R464). -/
def placeToken (cur : Digest) (t : Submission) : List Submission → List Submission
  | [] => [{ t with chal := cur }]
  | x :: rest =>
    if t.port && hostNow t.time x then { t with chal := x.chal } :: shiftChallenges cur (x :: rest) else x :: placeToken cur t rest

/-- Submission of a token, by the port or the host: refused with error 0x05 after 16 failures; otherwise it is verified against
the challenge it met. A new challenge is drawn after every submission (R463). DESIGN CHOICE: a port that erases or is open takes
submissions too, and keeps its state (log entry 99). -/
def submitToken (d : Device) (t : BitVec 2112) (port : Bool) : Device :=
  let c := d.sec.challenge
  let d := newChallenge d
  if 16 ≤ d.sec.fails.toNat then { d with sec := { d.sec with dbgErr := 5 } }
  else
    { d with sec := { d.sec with
        dbg := if d.sec.dbg = .closed then .verifying else d.sec.dbg
        verify := placeToken c { token := t, chal := c, port := port, time := d.clock.elapsed } d.sec.verify } }

/-- The token in DBG_TOKEN0–DBG_TOKEN32. -/
def tokenBits (d : Device) : BitVec 2112 := leBits 2112 (d.sec.token.toList.flatMap fun w => leBytes 8 w.toNat)

def execDbgTokenSubmit (s : State) : Host.Outcome State Fault Refusal := onDev (fun d => submitToken d (tokenBits d) false) s

/-- IDCODE (R462). -/
def idcode (d : Device) : Nat := d.sec.stepping.toNat % 16 * 2 ^ 28 + 0x4025 * 2 ^ 12 + 0x3A7 * 2 + 1

/-- The debug port's instructions (R462). -/
inductive PortInstr where
  | bypass | idcode | challenge | token | submit
deriving DecidableEq, Repr

/-- The instruction that a code selects: every code of no other is BYPASS. -/
def portInstr (code : Byte) : PortInstr :=
  if code = 0x01 then .idcode else if code = 0x10 then .challenge else if code = 0x11 then .token else if code = 0x12 then .submit else .bypass

/-- A scan of the debug port: a code is loaded into the instruction register, and data through the register it selects. TRST_N low
holds the port in reset (R462, R500). DBG_PRESENT has no effect. PRESUMED: in reset the instruction register holds IDCODE's code, as IEEE 1149.1
has it (log entry 100). -/
def portScan (d : Device) (code : Byte) (data : BitVec 2112) : Device :=
  if !d.rb.trstN then { d with rb := { d.rb with jtagIr := 0x01 } }
  else
    let d := { d with rb := { d.rb with jtagIr := code } }
    match portInstr code with
    | .bypass => { d with rb := { d.rb with jtagBypass := data.getLsbD 0, jtagOut := 0 } }
    | .idcode => { d with rb := { d.rb with jtagOut := BitVec.ofNat 2112 (idcode d) } }
    | .challenge => { d with rb := { d.rb with jtagOut := d.sec.challenge.setWidth 2112 } }
    | .token => { d with sec := { d.sec with portToken := data } }
    | .submit => submitToken d d.sec.portToken true

def execJtagIdcode (s : State) : Host.Outcome State Fault Refusal := onDev (portScan · 0x01 0) s

def execJtagChallenge (s : State) : Host.Outcome State Fault Refusal := onDev (portScan · 0x10 0) s

def execJtagToken (token : BitVec 2112) (s : State) : Host.Outcome State Fault Refusal := onDev (portScan · 0x11 token) s

def execJtagSubmit (s : State) : Host.Outcome State Fault Refusal := onDev (portScan · 0x12 0) s

/-- R464: the error of the first check that fails; 0 when the token is accepted. -/
def tokenError (d : Device) (t : List Byte) (c : Digest) : Byte :=
  let slot := (t.getD 2 0).toNat
  let key := slice t 64 97
  if !(leVal (slice t 0 2) = 1 && decide (slot ≤ 7) && t.getD 3 0 = 1 && zeroIn t 60 4 && zeroIn t 161 7 && validPoint key) then 1
  else if !slotAccepts d slot 1 key then 2
  else if !(decide (beVal (slice t 4 8) = d.sec.serial.toNat) && slice t 12 48 = digestBytes c) then 4
  else if !ecdsaVerifies key (sha384 (slice t 0 168)) (slice t 168 96) then 3
  else 0

/-- An accepted token (R465, steps 1–7): the port erases. -/
def openPort (d : Device) : Device :=
  let waiting := d.cmds.filter fun c => c.opcode = 0x0A
  let d := forAll waiting d fun d c => completeCmd d c.handle .debugOpen 0 []
  let attesting := d.sec.queue.any fun q => match q with | .attest _ _ => true | .pennant _ => false
  { d with
    sec := { d.sec with debugOpened := true, dbg := .erasing, dbgErr := 0, idValid := false, queue := [],
                        attState := if attesting then 3 else d.sec.attState, attErr := if attesting then 1 else d.sec.attErr,
                        attNonce := Vector.replicate 6 0, pserial := 0 }
    retained := []
    reservoir := []
    rb := { d.rb with bkup := Vector.replicate 16 0, retBad := [] }
    parts := d.parts.map fun p => { p with weights := [], doms := p.doms.map fun m => { m with pennant := none } } }

/-- The check of the first submitted token ends. An injected event fails check 4 without a count; after 16 failures a token is
refused without a check. A port that erases or is open already is not opened again. -/
def tokenChecked (d : Device) : Device :=
  match d.sec.verify with
  | [] => d
  | x :: rest =>
    let d := { d with sec := { d.sec with verify := rest, dbg := if rest.isEmpty && d.sec.dbg = .verifying then .closed else d.sec.dbg } }
    if 16 ≤ d.sec.fails.toNat then { d with sec := { d.sec with dbgErr := 5 } }
    else
      let e := tokenError d (leBytes 264 x.token.toNat) x.chal
      let (inj, d) := if e = 0 || e = 3 then inject d 0x1A1 0 else (false, d)
      let d := if e = 3 || inj then detect d { hubEvent 0x1A1 0 2 0 with inj := inj } else d
      if inj then { d with sec := { d.sec with dbgErr := 3 } }
      else if e != 0 then { d with sec := { d.sec with dbgErr := e, fails := d.sec.fails + 1 } }
      else if d.sec.dbg = .erasing || d.sec.dbg = .opened then { d with sec := { d.sec with dbgErr := 0 } }
      else openPort d

def execTokenVerificationDone (s : State) : Host.Outcome State Fault Refusal := onDev tokenChecked s

/-- Erasure ends: the port opens and the debug-open source raises L1 (R465, steps 8 and 9). -/
def eraseDone (d : Device) : Device :=
  if d.sec.dbg = .erasing then raiseSource { d with sec := { d.sec with dbg := .opened } } 8 [] else d

def execDebugEraseDone (s : State) : Host.Outcome State Fault Refusal := onDev eraseDone s

end Sys2Proof.Machine
end

