-- ==== Sys2Proof/Machine/RegRead.lean ====
section
/-! DEFINITION. What a read of each register returns (R480–R490 and the chapters they name), as a
function of the device, and the SMBus target (R501). -/

namespace Sys2Proof.Machine

/-- Word w (0–5) of a digest as registers hold it (R459). -/
def digestWord (x : Digest) (w : Nat) : W64 := (x >>> (64 * w)).setWidth 64

def bootCode : BootState → Nat
  | .idle => 0 | .fetching => 1 | .verifying => 2 | .running => 3 | .ready => 4 | .failed => 5

def dbgCode : DbgState → Nat
  | .closed => 0 | .verifying => 1 | .erasing => 2 | .opened => 3

def domCode : DomState → Nat
  | .empty => 0 | .loading => 1 | .loaded => 2 | .running => 3 | .ended => 4 | .halted => 5

def pondCode : PondState → Nat
  | .off => 0 | .waking => 1 | .running => 2 | .retention => 3

def planeModeCode : PlaneMode → Nat
  | .down => 0 | .training => 1 | .linked => 2 | .active => 3 | .isolated => 4 | .disabled => 5

def cxlCode : CxlState → Nat
  | .down => 0 | .training => 1 | .up => 2 | .mapped => 3 | .held => 4

def seqCode : SeqState → Nat
  | .idle => 0 | .running => 1 | .waiting => 2 | .ended => 3 | .halted => 4

def causeCode : WaitCause → Nat
  | .none => 0 | .queueEmpty => 1 | .queueFull => 2 | .flag => 3 | .messageQueue => 4 | .barrier => 5

def planeCode : PlaneState → Nat
  | .free => 0 | .feeding => 1 | .open => 2 | .draining => 3

/-- IDENT (R483). -/
def readIdent (d : Device) (o : Nat) : W64 :=
  if o = 0x000 then put64 32 1 ||| put64 24 d.sec.stepping.toNat ||| put64 16 1 ||| put64 0 0x4025
  else if o = 0x008 then d.sec.serial
  else if o = 0x010 then put64 24 8 ||| put64 16 0x40 ||| put64 8 0x40 ||| put64 0 0x40
  else if o = 0x018 then bit64 2 d.sec.fwValid ||| bit64 1 d.sec.spDigValid ||| bit64 0 (d.rb.boot = .ready)
  else if 0x020 ≤ o && o < 0x040 then BitVec.ofNat 64 (leVal (slice (spareBytes d) (o - 0x020) 8))
  else if 0x040 ≤ o && o < 0x070 then digestWord d.sec.spDigest ((o - 0x040) / 8)
  else if 0x070 ≤ o && o < 0x0A0 then digestWord d.sec.fwDigest ((o - 0x070) / 8)
  else 0

/-- A ring slot (R484). -/
def readRing (r : Ring) (o : Nat) : W64 :=
  match o with
  | 0x00 => put64 12 r.cmdBase.toNat
  | 0x08 => put64 12 r.cplBase.toNat
  | 0x10 => put64 48 r.coal.toNat ||| put64 36 r.vec.toNat ||| put64 32 r.owner.toNat ||| put64 24 r.cplLog2.toNat |||
      put64 16 r.cmdLog2.toNat ||| bit64 0 r.enabled
  | 0x18 => put64 48 r.held.length ||| put64 40 r.outstanding.length ||| bit64 37 r.cfgErr ||| bit64 36 r.dbErr |||
      bit64 35 (!r.held.isEmpty) ||| bit64 34 r.phase ||| bit64 33 r.stopped ||| bit64 32 r.enabled |||
      put64 16 r.cplTail.toNat ||| put64 0 r.cmdHead.toNat
  | 0x20 => put64 0 r.seq.toNat
  | _ => 0

/-- MSIX of a function (R486). -/
def readMsix (x : Msix) (o : Nat) : W64 :=
  if o < 0x400 then
    let v := finMod 64 (o / 16)
    if o % 16 = 0 then vget x.addr v else bit64 32 (x.mask.getLsbD v.val) ||| (vget x.data v).setWidth 64
  else if o = 0x800 then x.pba
  else 0

/-- PARTITION with BCTX_STATUS (R487, R255). -/
def readPartition (d : Device) (o : Nat) : W64 :=
  if o = 0x000 then put64 0 d.config
  else if o = 0x008 then BitVec.ofNat 64 (d.vfPart.toList.foldr (fun v a => v.toNat + 16 * a) 0)
  else if 0x100 ≤ o && o < 0x140 then
    let n := finMod 4 ((o - 0x100) / 16)
    let p := getPart d n
    if o % 16 = 0 then
      (if d.fab.valid && partPresent d n then put64 46 (4 * d.fab.index.toNat + n.val) ||| bit64 45 true else 0) |||
      put64 8 (match p.attached with | some r => r.val | none => 0xFF) |||
      bit64 4 (d.cmds.any fun c => c.hdr.part = n && match c.job with | .loadTensor b => b.weight | _ => false) |||
      bit64 3 p.clearing ||| put64 1 (if !partPresent d n then 0 else if p.openMode then 2 else 1) ||| bit64 0 (partPresent d n)
    else BitVec.ofNat 64 (p.doms.toList.foldr (fun m a => domCode m.st + 8 * a) 0)
  else if 0x8000 ≤ o && o < 0x8200 then
    let b := getBar d (finMod 64 ((o - 0x8000) / 8))
    put64 48 (b.round.toNat % 65536) ||| put64 36 (b.held.toNat % 4096) ||| put64 24 (b.awaitDep.toNat % 4096) |||
      put64 12 (b.counted.toNat % 4096) ||| bit64 7 b.claim.isSome ||| bit64 6 b.extended ||| bit64 5 b.violation ||| bit64 4 b.sense
  else 0

/-- RESET with the retained memory (R450). Reads of erased memory return zero until erasure has ended. -/
def readReset (d : Device) (o : Nat) : W64 :=
  let r := d.rb
  if o = 0x000 then put64 10 r.lastLevel.toNat ||| bit64 9 r.mainPower ||| put64 0 r.source.toNat
  else if o = 0x008 then put64 48 r.lastUnit.toNat ||| bit64 8 r.retPerr |||
      put64 4 (((List.finRange 4).filter fun p => (getPart d p).resetting).foldl (fun a p => a + 2 ^ p.val) 0) |||
      bit64 3 (!r.units.isEmpty) ||| bit64 2 (bootMode d)
  else if o = 0x010 then d.sec.resetMap
  else if o = 0x018 then put64 8 r.cfgRaw.toNat ||| bit64 4 r.cfgInvalid ||| put64 0 r.cfgCode.toNat
  else if o = 0x020 then put64 32 r.wdTimeout.toNat ||| bit64 0 r.wdArmed
  else if o = 0x040 then put64 12 r.bootAddr.toNat
  else if o = 0x048 then put64 32 r.bootLen.toNat
  else if o = 0x050 then put64 32 r.attempts.toNat ||| put64 8 r.bootErr.toNat ||| put64 0 (bootCode r.boot)
  else if 0x100 ≤ o && o < 0x180 then (if d.sec.dbg = .erasing then 0 else vget r.bkup (finMod 16 ((o - 0x100) / 8)))
  else if 0x4000 ≤ o && o < 0x8000 then
    (if d.sec.dbg = .erasing then 0 else BitVec.ofNat 64 (leVal (readBytes d .retained (o - 0x4000) 8)))
  else 0

/-- POWER (R434). -/
def readPower (d : Device) (o : Nat) : W64 :=
  let w := d.power
  if o = 0x000 then bit64 31 w.idleGate ||| put64 16 w.idleMs.toNat ||| put64 0 w.limitW.toNat
  else if o = 0x008 then put64 48 w.pkgW.toNat ||| put64 36 (if d.rb.step < 2 then 0 else wattsUp (reserveTotal d)) |||
      bit64 31 w.overFloor ||| bit64 30 w.limitRefused ||| bit64 29 w.fastLimit ||| bit64 28 (decide (2 ≤ d.rb.step) && d.rb.cfgCode.getLsbD 3) |||
      bit64 27 (w.ponds.toList.any fun x => x.st = .waking)
  else if 0x100 ≤ o && o < 0x120 then
    let n := finMod 4 ((o - 0x100) / 8)
    let p := getPart d n
    put64 56 p.fcode.toNat ||| put64 16 p.belowFloor.toNat ||| put64 0 p.lowered.toNat |||
      (if partPresent d n && decide (2 ≤ d.rb.step) then put64 48 (floorCode p) ||| put64 36 (wattsUp (partReserve d n)) else 0)
  else if 0x200 ≤ o && o < 0x300 then
    let x := getPond d (finMod 32 ((o - 0x200) / 8))
    put64 56 x.temp.toNat ||| put64 54 (pondCode x.st) ||| put64 32 x.current.toNat ||| put64 16 x.trim.toNat ||| put64 0 x.volt.toNat
  else 0

/-- CLOCK_TIME (R420). -/
def readClock (d : Device) (o : Nat) : W64 :=
  let c := d.clock
  if o = 0x000 then BitVec.ofNat 64 (nowNs d)
  else if o = 0x008 then bit64 7 c.setRefused ||| bit64 6 (c.corr = 2) ||| bit64 5 (c.corr = 1) ||| put64 0 c.frac.toNat
  else if o = 0x018 then bit64 31 c.refLost ||| bit64 30 c.refOk |||
      put64 26 (((List.finRange 4).filter (aligning d)).foldl (fun a p => a + 2 ^ p.val) 0) ||| put64 0 c.stopped.toNat
  else if o = 0x020 then put64 0 c.overrun.toNat
  else if 0x100 ≤ o && o < 0x200 then
    let k := finMod 32 ((o - 0x100) / 8)
    let x := getPond d k
    put64 56 (if x.st = .running || x.st = .retention then (getPart d (partOfPond d k)).fcode.toNat else 0) |||
      bit64 55 (x.st != .running) ||| bit64 54 x.crit ||| put64 32 x.deferred.toNat ||| put64 16 x.realigns.toNat ||| put64 0 x.stretches.toNat
  else 0

/-- SECURITY (R467). -/
def readSecurity (d : Device) (o : Nat) : W64 :=
  let x := d.sec
  if o = 0x000 then put64 57 x.svnFused ||| put64 50 x.imgSvn.toNat ||| put64 47 x.imgSlot.toNat ||| bit64 46 x.idValid |||
      bit64 45 x.debugOpened ||| bit64 44 x.fusing.isSome ||| bit64 43 x.commitRefused ||| bit64 42 x.revokeRefused
  else if o = 0x010 then put64 16 x.revoked.toNat ||| put64 0 x.purpose.toNat
  else if o = 0x018 then x.serial
  else if o = 0x020 then put64 6 x.attAddr.toNat
  else if o = 0x028 then put64 32 x.attCount.toNat ||| put64 8 x.attErr.toNat ||| put64 0 x.attState.toNat
  else if 0x040 ≤ o && o < 0x070 then vget x.attNonce (finMod 6 ((o - 0x040) / 8))
  else if 0x080 ≤ o && o < 0x0B0 then digestWord x.challenge ((o - 0x080) / 8)
  else if o = 0x0C0 then put64 56 x.fails.toNat ||| put64 8 x.dbgErr.toNat ||| put64 0 (dbgCode x.dbg)
  else if 0x300 ≤ o && o < 0x480 then digestWord (vget x.keyDig (finMod 8 ((o - 0x300) / 0x30))) ((o - 0x300) % 0x30 / 8)
  else 0

/-- ERROR (R478). -/
def readErrors (d : Device) (o : Nat) : W64 :=
  let e := d.err
  if o = 0x000 then bit64 8 e.notify ||| put64 6 e.minSev.toNat ||| put64 0 e.vec.toNat
  else if o = 0x008 then put64 48 e.unlogged.toNat ||| bit64 33 e.fatal ||| bit64 32 e.overflow ||| put64 16 e.count ||| put64 0 e.tail.toNat
  else if o = 0x010 then put64 0 e.head.toNat
  else if 0x1000 ≤ o && o < 0x3000 then
    ((vget e.entries (finMod 256 ((o - 0x1000) / 32))) >>> (64 * ((o - 0x1000) % 32 / 8))).setWidth 64
  else if 0x4000 ≤ o && o < 0x5000 then
    let n := (o - 0x4000) / 8
    let armed := (e.armed.filter fun a => a.det.toNat = n).foldl (fun s a => s + a.count.toNat) 0
    put64 32 (min armed 0xFFFFFFFF) ||| (vget e.counts (finMod 512 n)).setWidth 64
  else 0

/-- FABRIC (R357). -/
def readFabric (d : Device) (o : Nat) : W64 :=
  let f := d.fab
  if o = 0x000 then put64 48 f.hostIndex.toNat ||| put64 16 f.planeEn.toNat ||| bit64 2 f.killEn ||| bit64 1 f.addrSrc ||| bit64 0 f.fabEn
  else if o = 0x008 then put64 32 f.fabricId.toNat ||| bit64 31 f.valid ||| bit64 30 f.mismatch ||| put64 0 f.index.toNat
  else if o = 0x010 then put64 32 f.corrLast.toNat ||| bit64 31 f.aligned ||| bit64 30 f.stepped ||| put64 27 f.timePlane.val ||| put64 0 f.beacons.toNat
  else if o = 0x018 then f.kid
  else if 0x100 ≤ o && o < 0x200 then
    let p := getPlane d (finMod 8 ((o - 0x100) / 32))
    match (o - 0x100) % 32 with
    | 0x00 => put64 32 p.lanesOk.toNat ||| put64 16 (planeModeCode p.st) ||| put64 0 (p.retained.length % 4096)
    | 0x08 => put64 48 p.resends.toNat ||| put64 32 p.naks.toNat ||| put64 16 p.failed.toNat ||| put64 0 p.retrains.toNat
    | 0x10 => put64 32 p.corrected.toNat ||| put64 16 p.uncorr.toNat ||| put64 0 p.refused.toNat
    | _ => 0
  else 0

/-- CXL (R370). -/
def readCxl (d : Device) (o : Nat) : W64 :=
  if o < 0x80 then
    let p := vget d.cxlPorts (finMod 4 (o / 32))
    match o % 32 with
    | 0x00 => put64 32 p.capGib.toNat ||| put64 16 p.speed.toNat ||| put64 8 p.width.toNat ||| put64 0 (cxlCode p.st)
    | 0x08 => put64 48 p.retries.toNat ||| put64 32 p.late.toNat ||| put64 16 p.poison.toNat ||| put64 0 p.crc.toNat
    | _ => 0
  else if 0x100 ≤ o && o < 0x120 then
    let p := getPart d (finMod 4 ((o - 0x100) / 8))
    bit64 63 p.cxlValid ||| put64 0 p.cxlUnits.toNat
  else 0

/-- HBM (R370). -/
def readHbm (d : Device) (o : Nat) : W64 :=
  if o < 0x100 then
    let p := vget d.hbmStat (finMod 8 (o / 32))
    match o % 32 with
    | 0x00 => put64 56 p.temp.toNat ||| bit64 49 p.hot ||| bit64 48 p.ready ||| put64 32 p.owedMax.toNat |||
        put64 16 p.forced.toNat ||| put64 0 p.windowed.toNat
    | 0x08 => put64 32 p.corrected.toNat ||| put64 16 p.rereadOk.toNat ||| put64 8 p.uncorr.toNat ||| put64 0 p.parity.toNat
    | _ => 0
  else 0

/-- Descriptors of a partition with an active collective instance. -/
def activeColls (d : Device) (p : PartId) : Nat :=
  (domsOf p).foldl (fun a i => match (getDom d i).run with
    | some r => r.colls.foldl (fun a c => a ||| 2 ^ c.desc.val) a
    | none => a) 0

/-- COLLECTIVE (R324). -/
def readCollective (d : Device) (o : Nat) : W64 :=
  if o < 0x400 then
    let n := finMod 4 (o / 0x100)
    let p := getPart d n
    match o % 0x100 with
    | 0x00 => put64 48 (activeColls d n) ||| put64 35 (p.ceHeld.length % 8192) |||
        put64 33 (if d.config = 1 then 0 else if d.config = 2 then 1 else 2)
    | 0x08 => put64 48 p.ceRerun.toNat ||| put64 32 p.ceSat.toNat ||| put64 16 p.ceAbort.toNat ||| put64 0 p.ceRefuse.toNat
    | 0x10 => p.ceLast
    | _ => 0
  else 0

/-- CORE_STATUS or CORE_STATUS_B (R86). -/
def readCoreStatus (k : Core) (x : Fin 2) : W64 :=
  if x = 1 && !k.split then 0
  else
    let u := vget k.units x
    let mine := (List.finRange 4).filter fun n => !k.split || n.val / 2 = x.val
    let busy := mine.filter fun n => (vget k.seqs n).st != .idle
    put64 32 u.halt.tick.toNat ||| bit64 31 u.halt.halted |||
      bit64 30 (!busy.isEmpty && busy.all fun n => (vget k.seqs n).st = .ended) |||
      put64 24 u.halt.seqMask.toNat ||| put64 22 u.halt.seq.val ||| put64 8 u.halt.fetch.toNat ||| put64 0 u.halt.code.toNat

/-- A bundle address or page as the physical core numbers it, for a sequencer (R82). -/
def seqPhys (k : Core) (n : Fin 4) (a : BitVec 12) : BitVec 12 := physAddr k.split (finMod 2 (n.val / 2)) a
def pagePhys (k : Core) (n : Fin 4) (w : BitVec 4) : Nat := w.toNat + if k.split && 2 ≤ n.val then 8 else 0

/-- SEQ_STATUSn (R86). -/
def readSeqStatus (k : Core) (n : Fin 4) : W64 :=
  let q := vget k.seqs n
  let a := if q.st = .waiting then q.pc.setWidth 12 else q.lastPc
  (if q.st = .idle then 0 else put64 36 (pagePhys k n q.winHi % 16) ||| put64 32 (pagePhys k n q.winLo % 16)) |||
    put64 29 (q.loops.length % 8) ||| put64 26 (causeCode q.cause) ||| put64 23 (seqCode q.st) |||
    (if q.st = .idle then 0 else put64 0 (seqPhys k n a).toNat)

/-- Whether page p of a core is locked: it lies in the window of a sequencer that is not IDLE (R75). -/
def pageLocked (k : Core) (p : Nat) : Bool :=
  (List.finRange 4).any fun n =>
    let q := vget k.seqs n
    q.st != .idle && pagePhys k n q.winLo ≤ p && p ≤ pagePhys k n q.winHi

/-- CORE_CONFIG (R86). -/
def readCoreConfig (k : Core) : W64 :=
  let pages := (List.finRange 16).foldr (fun p a => (match vget k.pages p with
    | .empty => 0 | .loading => 1 | .loaded => if pageLocked k p.val then 3 else 2) + 4 * a) 0
  bit64 32 k.split ||| put64 0 pages

/-- LQ_STATUS (R86). -/
def readLqStatus (k : Core) : W64 :=
  (List.finRange 4).foldl (fun a n =>
    let q := vget k.lqs n
    a ||| put64 (16 * n.val) q.entries.length ||| put64 (16 * n.val + 8) (q.entries.filter fun e => e.filledAt.isSome).length) 0

/-- MX_STATUS (R159). -/
def readMxStatus (k : Core) : W64 :=
  let m := fun (x : Fin 2) => (vget k.units x).matrix
  let pl := fun (x : Fin 2) (n : Fin 2) => planeCode (vget (m x).planes n).st
  let w := fun (x : Fin 2) => match (m x).feed with | some f => f.waiting | none => false
  put64 32 (m 1).flags.val.toNat ||| put64 24 (m 0).flags.val.toNat ||| bit64 17 (w 1) ||| bit64 16 (w 0) |||
    put64 14 (pl 1 1) ||| put64 12 (pl 1 0) ||| put64 10 (pl 0 1) ||| put64 8 (pl 0 0)

/-- VX_STATUS (R210). -/
def readVxStatus (k : Core) : W64 :=
  let v := fun (x : Fin 2) => (vget k.units x).vector
  let w := fun (x : Fin 2) => match (v x).op with | some o => o.waiting | none => false
  put64 48 ((List.finRange 16).foldl (fun a n => if (vget k.eps n).isSome then a + 2 ^ n.val else a) 0) |||
    put64 40 (v 1).flags.val.toNat ||| put64 32 (v 0).flags.val.toNat ||| bit64 19 (w 1) ||| bit64 18 (w 0) |||
    bit64 17 (v 1).op.isSome ||| bit64 16 (v 0).op.isSome

/-- SP_STATUS (R231). -/
def readSpStatus (k : Core) : W64 :=
  put64 48 k.replays.toNat ||| put64 40 k.lateWrites.toNat ||| bit64 33 k.clearing ||| bit64 32 (!k.pdWait.isEmpty) ||| put64 0 k.bankOn.toNat

/-- SP_PARITY (R231). -/
def readSpParity (k : Core) : W64 :=
  let x := k.spParity
  bit64 63 x.valid ||| bit64 62 x.persistent ||| put64 60 x.source.toNat ||| put64 52 x.bank.toNat ||| put64 49 x.word.toNat ||| put64 36 x.row.toNat

/-- ST_STATUS (R294). -/
def readStStatus (k : Core) : W64 :=
  let u := fun (x : Fin 2) => (vget k.units x).stream
  let n := fun (f : StreamUnit → Nat) => f (u 0) + f (u 1)
  put64 48 (min 0xFFFF (n fun s => s.late.toNat)) ||| put64 40 (n fun s => s.outbound.length) ||| put64 32 (n fun s => (s.landing.filter fun i => i.landed.isSome).length) |||
    put64 16 (n fun s => (s.progs.toList.filter fun p => p.active).length) ||| put64 8 (u 0).lastDone.toNat |||
    (if k.split then put64 2 (u 1).split.toNat else 0) ||| put64 0 (u 0).split.toNat

/-- MQ_STATUSq and MQ_HEADq (R275). -/
def readMqStatus (q : MsgQueue) : W64 :=
  put64 32 q.quotaHolds.toNat ||| bit64 31 (q.descs.any fun x => x.pad) ||| put64 24 (q.descs.filter fun x => !x.pad).length |||
    put64 16 q.occ ||| put64 8 q.rp.toNat ||| put64 0 q.wp.toNat

/-- MQ_HEAD (R275). DESIGN CHOICE: SRC_CTX of an inbound message reads 0 (log entry 118). -/
def readMqHead (q : MsgQueue) : W64 :=
  match q.descs with
  | [] => 0
  | x :: _ => bit64 63 true ||| bit64 62 x.pad ||| put64 32 (if x.inbound.isSome then 0x1FF else x.src.toNat) ||| put64 24 x.chan.toNat |||
      put64 16 x.len ||| put64 12 x.remain ||| put64 0 x.start.toNat

/-- Ledger registers of a core or context (R490). -/
def readLedger (d : Device) (c : CtxId) (o : Nat) : W64 :=
  if o < 0x58 then vget (getUnit d c).ledger (finMod 11 (o / 8)) else 0

/-- The debug window of a core (R488). -/
def readWindow (d : Device) (c : CoreId) (o : Nat) : W64 :=
  let k := getCore d c
  if o = 0x000 then readCoreStatus k 0
  else if o = 0x008 then readCoreStatus k 1
  else if 0x020 ≤ o && o < 0x040 then readSeqStatus k (finMod 4 ((o - 0x020) / 8))
  else if o = 0x040 then readLqStatus k
  else if o = 0x048 then readCoreConfig k
  else if o = 0x050 then put64 0 k.dbgNext.toNat
  else if o = 0x080 then readMxStatus k
  else if o = 0x088 then readVxStatus k
  else if o = 0x090 then readSpStatus k
  else if o = 0x098 then readSpParity k
  else if o = 0x0A0 then put64 0 k.bankOff.toNat
  else if o = 0x0A8 then k.drift
  else if o = 0x0B0 then readStStatus k
  else if 0x100 ≤ o && o < 0x180 then
    let q := vget k.mqs (finMod 8 ((o - 0x100) / 16))
    if o % 16 = 0 then readMqStatus q else readMqHead q
  else if 0x180 ≤ o && o < 0x1D8 then readLedger d { core := c, ctx := 0 } (o - 0x180)
  else if 0x200 ≤ o && o < 0x258 then (if k.split then readLedger d { core := c, ctx := 1 } (o - 0x200) else 0)
  else if 0x400 ≤ o && o < 0x800 then
    let m := (o - 0x400) / 8
    put64 32 (vget k.flags (finMod 256 (2 * m + 1))).toNat ||| put64 0 (vget k.flags (finMod 256 (2 * m))).toNat
  else if 0x800 ≤ o && o < 0x900 then
    BitVec.ofNat 64 (leVal ((List.range 8).map fun j => vget k.credit (finMod 256 (o - 0x800 + j))))
  else 0

/-- A register of the PF's BAR0 (R480); in the boot state only IDENT, RESET and SECURITY answer (R447). -/
def regRead (d : Device) (o : Nat) : W64 :=
  if o % 8 != 0 then 0
  else if o < 0x1000 then readIdent d o
  else if 0x20000 ≤ o && o < 0x30000 then readReset d (o - 0x20000)
  else if 0x50000 ≤ o && o < 0x60000 then readSecurity d (o - 0x50000)
  else if bootMode d then 0
  else if 0x1000 ≤ o && o < 0x2000 then readRing (vget d.rings (finMod 64 ((o - 0x1000) / 64))) ((o - 0x1000) % 64)
  else if 0x2000 ≤ o && o < 0x3000 then readMsix (vget d.msix 0) (o - 0x2000)
  else if 0x10000 ≤ o && o < 0x20000 then readPartition d (o - 0x10000)
  else if 0x30000 ≤ o && o < 0x40000 then readPower d (o - 0x30000)
  else if 0x40000 ≤ o && o < 0x50000 then readClock d (o - 0x40000)
  else if 0x60000 ≤ o && o < 0x70000 then readErrors d (o - 0x60000)
  else if 0x100000 ≤ o && o < 0x200000 then readFabric d (o - 0x100000)
  else if 0x200000 ≤ o && o < 0x300000 then readCxl d (o - 0x200000)
  else if 0x300000 ≤ o && o < 0x400000 then readHbm d (o - 0x300000)
  else if 0x400000 ≤ o && o < 0x500000 then readCollective d (o - 0x400000)
  else if 0x1000000 ≤ o && o < 0x1200000 then readWindow d (finMod 512 ((o - 0x1000000) / 0x1000)) (o % 0x1000)
  else 0

/-- Whether a function can reach the device: the PF always, a VF when SR-IOV has enabled it outside the boot state (R371, R447). -/
def fnOn (d : Device) (f : FnId) : Bool := f.val = 0 || (!bootMode d && Config.vfEnabled f.val)

/-- A register of a function's BAR0, at an 8-byte-aligned offset: the PF's holds the register map; a VF's IDENT, the slots of its
own rings and its own MSI-X, laid out as in the PF (R372, R481, R484). -/
def fnRead (d : Device) (f : FnId) (o : Nat) : W64 :=
  if f.val = 0 then regRead d o
  else if !fnOn d f || o % 8 != 0 then 0
  else if o < 0x1000 then readIdent d o
  else if o < 0x2000 then
    let r := vget d.rings (finMod 64 ((o - 0x1000) / 64))
    if r.owner.toNat = f.val then readRing r ((o - 0x1000) % 64) else 0
  else if o < 0x3000 then readMsix (vget d.msix f) (o - 0x2000)
  else 0

/-! ### SMBus (R501) -/

/-- A read of retained memory checks the parity of its two words (R445); an injected event fails it. -/
def retainedCheck (d : Device) (o : Nat) : Device :=
  if 0x24000 ≤ o && o < 0x28000 && d.sec.dbg != .erasing then
    let a := o - 0x24000
    if d.rb.retBad.contains a || d.rb.retBad.contains (a + 4) || isArmed d 0x106 0 then
      detectAt (noteSet { d with rb := { d.rb with retPerr := true } } .retPerr) (hubEvent 0x106 0 0 (BitVec.ofNat 64 a))
    else d
  else d

/-- What a read through a function's BAR0 leaves: TIME_NOW its sample's fraction in FRAC (R420), retained memory its check (R445). -/
def readEffects (d : Device) (f : FnId) (o : Nat) : Device :=
  if f.val != 0 then d
  else if o = 0x40000 && !bootMode d then { d with clock := { d.clock with frac := BitVec.ofNat 4 (d.clock.time16 % 16) } }
  else retainedCheck d o

/-- A host read of a number of bytes at an offset of a function's BAR (R374, R481, R482): of BAR0 the 8 bytes of a register, or a half
of it; zero at any other size or alignment, and everywhere in BAR2. The table of commands has no row for it. -/
def hostRegRead (d : Device) (f : FnId) (bar o size : Nat) : W64 × Device :=
  if bar != 0 then (0, d)
  else if size = 8 && o % 8 = 0 then (fnRead d f o, readEffects d f o)
  else if size = 4 && o % 4 = 0 then
    let b := o / 8 * 8
    ((fnRead d f b >>> (8 * (o - b))) &&& 0xFFFFFFFF, readEffects d f b)
  else (0, d)

def smbSetOffset (d : Device) (v : W32) : Device :=
  if d.rb.smbOn && d.rb.aux && v.toNat % 8 = 0 then { d with rb := { d.rb with smbOffset := v } } else d

def execSmbSetOffset (value : W32) (s : State) : Host.Outcome State Fault Refusal := onDev (smbSetOffset · value) s

/-- Reads reach IDENT, RESET and POWER; the target answers in the boot state without firmware. -/
def smbValue (d : Device) (o : Nat) : W64 :=
  if o < 0x1000 then readIdent d o
  else if 0x20000 ≤ o && o < 0x30000 then readReset d (o - 0x20000)
  else if 0x30000 ≤ o && o < 0x40000 then readPower d (o - 0x30000)
  else 0

def smbRead (d : Device) : Device :=
  if d.rb.smbOn && d.rb.aux then
    let o := d.rb.smbOffset.toNat
    let v := smbValue d o
    let d := retainedCheck d o
    { d with rb := { d.rb with smbData := v, smbOffset := d.rb.smbOffset + 8 } }
  else d

def execSmbRead (s : State) : Host.Outcome State Fault Refusal := onDev smbRead s

end Sys2Proof.Machine
end

