-- ==== Sys2Proof/Machine/Errors.lean ====
section
/-! DEFINITION. The error ledger (R473, R474, R478) and the arming of injections (R475). -/

namespace Sys2Proof.Machine

/-- The 32 bytes of an entry (R473). -/
def errEntry (d : Device) (e : ErrEvent) : BitVec 256 :=
  let pd : Byte := match e.dom with
    | some i => BitVec.ofNat 8 (i.part.val + 4 * i.dom.val)
    | none => 0
  let flags : Byte := (if e.inj then 1 else 0) + (if e.dom.isSome then 2 else 0)
  leBits 256 (leBytes 2 e.det.toNat ++ leBytes 2 e.unit.toNat ++ [e.sev.setWidth 8, flags, e.code, pd] ++
    leBytes 8 (nowNs d) ++ leBytes 8 e.detail.toNat ++
    leBytes 8 (if e.dom.isSome then e.tick.toNat else 2 ^ 64 - 1))

/-- Counts a detection (R478). -/
def countDetection (x : Errors) (det : BitVec 16) : Errors :=
  if h : det.toNat < 512 then { x with counts := x.counts.set det.toNat (satAdd (x.counts[det.toNat]) 1) h } else x

/-- Writes an entry, or counts it as unlogged while 256 are unconsumed (R474). -/
def recordEvent (d : Device) (e : ErrEvent) : Device :=
  let x := countDetection d.err e.det
  if 256 ≤ x.count then noteSet { d with err := { x with overflow := true, unlogged := satAdd x.unlogged 1 } } .overflow
  else
    let x := { x with entries := vset x.entries (finMod 256 x.tail.toNat) (errEntry d e), tail := x.tail + 1,
                      count := x.count + 1, fatal := x.fatal || e.sev = 3 }
    let d := { d with err := x }
    let d := if e.sev = 3 then noteSet d .fatal else d
    if x.notify && decide (x.minSev.toNat ≤ e.sev.toNat) && x.sentAt != some d.clock.elapsed then
      raiseMsix { d with err := { d.err with sentAt := some d.clock.elapsed } } 0 (finMod 64 x.vec.toNat)
    else d

/-- The first entry of a crossing: its events. -/
def firstEntry : List ErrEvent → List ErrEvent
  | [] => []
  | e :: rest => e :: rest.takeWhile fun x => x.place = .joined

/-- The events that can reach the hub next: those inside it, and the first entry of each crossing whose clock runs (R416). -/
def readyEvents (d : Device) : List ErrEvent :=
  inCrossing d.err.events none ++ ((List.range 26).filter fun k => !d.clock.stopped.getLsbD k).flatMap fun k =>
    firstEntry (inCrossing d.err.events (some k))

/-- The order of R474: by the time of the entry, and within one hub tick by detector and unit. DESIGN CHOICE: events between whose
entries no time passes reach the hub on one hub tick (log entry 74). -/
def sooner (a b : ErrEvent) : Bool :=
  a.since < b.since || (a.since = b.since && (a.det < b.det || (a.det = b.det && a.unit < b.unit)))

/-- The event that the hub receives next. -/
def nextEvent (d : Device) : Option ErrEvent :=
  (readyEvents d).foldl (fun best x => match best with
    | none => some x
    | some b => if sooner x b then some x else some b) none

/-- An event has left its crossing: the rest of its entry stays one, and when the entry is empty the pending count travels
as the next. -/
def leaveCrossing (d : Device) (x : ErrEvent) : Device :=
  let k := crossingOf x.det x.unit
  let l := d.err.events.erase x
  let put := fun (l : List ErrEvent) => { d with err := { d.err with events := l } }
  match k with
  | none => put l
  | some n =>
    let here := fun (p : EventPlace) (y : ErrEvent) => decide (crossingOf y.det y.unit = k) && decide (y.place = p)
    if 1 < (firstEntry (inCrossing d.err.events k)).length then
      put (if x.place = .lead then changeFirst (here .joined) (fun y => { y with place := .lead }) l else l)
    else
      let now := fun (p : EventPlace) (y : ErrEvent) => { y with since := d.clock.elapsed, place := p }
      let d := put ((changeFirst (here .pending) (now .lead) l).map fun y => if here .pending y then now .joined y else y)
      { d with err := { d.err with lossy := d.err.lossy &&& ~~~ ((1 : BitVec 26) <<< n) } }

/-- The next event reaches the hub and is recorded. -/
def eventRecord (d : Device) : Device :=
  match nextEvent d with
  | none => d
  | some e => recordEvent (leaveCrossing d e) e

def execErrorEventRecord (s : State) : Host.Outcome State Fault Refusal := onDev eventRecord s

/-- A write of ERR_HEAD: an advance by more than COUNT, modulo 256, has no effect (R478). -/
def errHeadWrite (d : Device) (v : W64) : Device :=
  let h : Byte := v.setWidth 8
  let adv := (h - d.err.head).toNat
  if adv ≤ d.err.count then { d with err := { d.err with head := h, count := d.err.count - adv } } else d

def execErrHeadWrite (value : W64) (s : State) : Host.Outcome State Fault Refusal :=
  onDev (fun d => if bootMode d then d else errHeadWrite d value) s

/-- Whether a detector is defined, and UNIT lies in its range (R471, R475). -/
def detectorValid (det unit : BitVec 16) : Bool :=
  let n := det.toNat
  let u := unit.toNat
  let core := decide (u < 1024)
  if (1 ≤ n && n ≤ 0x13) || n = 0x17 || n = 0x18 || (0x100 ≤ n && n ≤ 0x104) || n = 0x180 || n = 0x181 then core
  else if n = 0x105 then decide (u % 0x8000 < 4)
  else if n = 0x122 || n = 0x190 || n = 0x191 then decide (u < 4)
  else if n = 0x106 || n = 0x160 || n = 0x172 || n = 0x1A0 || n = 0x1A1 then decide (u = 0)
  else if n = 0x110 || n = 0x111 || n = 0x120 || n = 0x121 || n = 0x123 || (0x140 ≤ n && n ≤ 0x143) then decide (u < 8)
  else if 0x130 ≤ n && n ≤ 0x133 then decide (u < 4)
  else if n = 0x150 then decide (u < 9)
  else if n = 0x151 then decide (u < 64)
  else if n = 0x161 then decide (u < 32)
  else if n = 0x162 then decide (u < 26)
  else if n = 0x170 || n = 0x171 then decide (u ≤ 32) || (decide (40 ≤ u) && decide (u < 60))
  else false

/-- Arms a detector: the new count replaces what remained; zero disarms (R475). -/
def armDetector (d : Device) (det unit : BitVec 16) (count : W32) : Device :=
  let others := d.err.armed.filter fun a => !(a.det = det && a.unit = unit)
  let armed := if count = 0 then others else others ++ [{ det := det, unit := unit, count := count }]
  { d with err := { d.err with armed := armed } }

end Sys2Proof.Machine
end

