-- ==== Sys2Proof/Machine/Fabric.lean ====
section
/-! DEFINITION. Buoth Link (R330–R345): frames, link retry, flow control, plane states, addresses and
discovery. What received channel and collective frames do is in Machine/Message.lean and
Machine/Collective.lean; beacons are in Machine/Beacon.lean. -/

namespace Sys2Proof.Machine

/-! ### Frames (R332–R334) -/

/-- One bit step of the reflected CRC-32. -/
def crcBit (c : W32) : W32 := if c.getLsbD 0 then (c >>> 1) ^^^ 0xEDB88320 else c >>> 1

def crcByte (c : W32) (b : Byte) : W32 :=
  crcBit (crcBit (crcBit (crcBit (crcBit (crcBit (crcBit (crcBit (c ^^^ b.setWidth 32))))))))

/-- CRC-32 of IEEE 802.3 (R333). -/
def crc32 (bs : List Byte) : W32 := ~~~ (bs.foldl crcByte 0xFFFFFFFF)

/-- Bytes of a frame, byte 0 first. -/
def frameBytes (f : FrameBits) : List Byte := leBytes 256 f.toNat

/-- A little-endian field of n bytes at byte a of a frame. -/
def frameField (f : FrameBits) (a n : Nat) : Nat := f.toNat / 2 ^ (8 * a) % 2 ^ (8 * n)

def frameKind (f : FrameBits) : Nat := frameField f 0 1 % 16
def frameVersion (f : FrameBits) : Nat := frameField f 0 1 / 16
def frameRetried (f : FrameBits) : Bool := f.getLsbD 9
def frameResent (f : FrameBits) : Bool := f.getLsbD 8
def frameSeq (f : FrameBits) : BitVec 12 := BitVec.ofNat 12 (frameField f 2 2 % 4096)
def frameDst (f : FrameBits) : Nat := frameField f 4 3 % 2 ^ 18
def frameSrc (f : FrameBits) : Nat := frameField f 8 3 % 2 ^ 18
def frameBody (f : FrameBits) : BitVec 1792 := BitVec.ofNat 1792 (frameField f 16 224)
def frameBodyBytes (f : FrameBits) : List Byte := leBytes 224 (frameBody f).toNat

/-- Whether FCS holds (R333). -/
def frameOk (f : FrameBits) : Bool :=
  decide ((crc32 ((frameBytes f).take 252)).toNat = frameField f 252 4)

/-- Sequenced kinds (R334). -/
def sequencedKind (k : Nat) : Bool := k = 1 || k = 2 || k = 3
def definedKind (k : Nat) : Bool := k ≤ 3 || (8 ≤ k && k ≤ 12)

/-- Buffer size of a credit counter (R338): fields 0–3 channel credit, 4–7 collective credit. -/
def creditBuffer (d : Device) (f : Nat) : Nat := if f < 4 then 512 else 4096 / (8 * d.config)

/-- The CREDIT bytes a link sends: each counter's limit. -/
def creditField (d : Device) (p : PlaneLink) : Nat :=
  (List.finRange 8).foldr (fun f a => (creditBuffer d f.val + (vget p.freed f).toNat) % 4096 + 4096 * a) 0

/-- The ACK bytes: the last frame received in order, NAK, and AVALID (R332, R335). -/
def ackField (p : PlaneLink) : Nat := (p.expect - 1).toNat + (if p.nakDue then 2 ^ 14 else 0) + 2 ^ 15

/-- A frame as it leaves on a plane; first is the plane on which it was first sent. -/
def buildFrame (d : Device) (plane : Fin 8) (kind : Nat) (resent retried : Bool) (seq : Nat) (dst src : Nat)
    (first : Nat) (body : BitVec 1792) : FrameBits :=
  let p := getPlane d plane
  let head := [BitVec.ofNat 8 (16 + kind), (if resent then 1 else 0) + (if retried then 2 else 0)] ++ leBytes 2 seq ++
    leBytes 3 dst ++ [0] ++ leBytes 3 src ++ [BitVec.ofNat 8 first] ++ leBytes 2 (ackField p) ++ [0, 0] ++
    leBytes 224 body.toNat ++ leBytes 12 (creditField d p)
  leBits 2048 (head ++ leBytes 4 (crc32 head).toNat)

/-- A frame leaves: it carries any NAK that is due. -/
def sendFrame (d : Device) (plane : Fin 8) (f : FrameBits) : Device :=
  modPlane d plane fun p =>
    { p with lastSent := f, nakDue := false, naks := if p.nakDue then satAdd p.naks 1 else p.naks }

/-- A link-local or idle frame of the device leaves on a plane. -/
def sendLocal (d : Device) (plane : Fin 8) (kind : Nat) (body : BitVec 1792) : Device :=
  sendFrame d plane (buildFrame d plane kind false false 0 0 0 plane.val body)

/-- An idle frame (R331). -/
def sendIdle (d : Device) (plane : Fin 8) : Device := sendLocal d plane 0 0

/-! ### Positions (R330, R331, R350) -/

/-- Slot of a position. -/
def slotOf (n : BitVec 24) : Nat := n.toNat / 16

/-- Whether a position is the control position of a slot that leaves r modulo 16: 0 carries the answer, 8 another
link-local frame (R331). -/
def controlAt (n : BitVec 24) (r : Nat) : Bool := slotOf n % 16 = r && n.toNat % 16 = slotOf n / 8 % 16

/-- Whether a position is one of a partition's, that of a slot's second kind of control position among them. -/
def ownPosition (d : Device) (p : PartId) (n : BitVec 24) : Bool := !controlAt n 0 && n.toNat % 16 % d.config = p.val

/-- The plane comes to position n: those passed over carry idle frames. -/
def passTo (d : Device) (plane : Fin 8) (n : BitVec 24) : Device :=
  if (getPlane d plane).posn = n then d else modPlane (sendIdle d plane) plane fun p => { p with posn := n }

/-- The plane comes to its next position of a kind, which recurs within 258. -/
def passToNext (d : Device) (plane : Fin 8) (kind : BitVec 24 → Bool) : Device :=
  let n := (getPlane d plane).posn
  passTo d plane (((List.range 258).find? fun k => kind (n + BitVec.ofNat 24 k)).elim n fun k => n + BitVec.ofNat 24 k)

/-- The position in hand has carried its frame. -/
def positionDone (d : Device) (plane : Fin 8) : Device := modPlane d plane fun p => { p with posn := p.posn + 1 }

/-! ### Planes (R340, R344, R345) -/

def planeActive (d : Device) (p : Fin 8) : Bool := (getPlane d p).st = .active

/-- The plane a frame uses: the first ACTIVE one from its nominal plane on (R344). -/
def selectPlane (d : Device) (nominal : Fin 8) : Option (Fin 8) :=
  ((List.range 8).map fun k => finMod 8 (nominal.val + k)).find? (planeActive d)

/-- A plane's link state as it comes up or goes down: sequence numbers, credit and retry start afresh. -/
def freshLink (p : PlaneLink) (st : PlaneMode) : PlaneLink :=
  { PlaneLink.reset with st := st, lanesOk := p.lanesOk, lastSent := p.lastSent, posn := p.posn, resends := p.resends, naks := p.naks,
                         failed := p.failed, retrains := p.retrains, corrected := p.corrected, uncorr := p.uncorr, refused := p.refused }

/-- Moves the frames retained on a plane, in the order of their sequence numbers; they go before every new frame (R345). -/
def failover (d : Device) (plane : Fin 8) : Device :=
  let kept := (getPlane d plane).retained.map fun r => { r.2 with resend := true }
  { d with fab := { d.fab with moved := d.fab.moved ++ kept } }

/-- The time plane: the lowest ACTIVE plane whose beacons carry TVALID (R352, R353). -/
def newTimePlane (d : Device) : Device :=
  match (List.finRange 8).find? fun p => planeActive d p && (getPlane d p).tvalid with
  | some p => { d with fab := { d.fab with timePlane := p } }
  | none => d

/-- A plane becomes ISOLATED: its link stays up, and numbering and credit go on (log entry 83). -/
def isolatedLink (p : PlaneLink) : PlaneLink := { p with st := .isolated, retained := [], resendq := [], tries := 0, tvalid := false }

/-- A plane's link goes down: a transition to DOWN after ACTIVE counts in RETRAINS, one to DISABLED does not (R357). -/
def downLink (p : PlaneLink) (st : PlaneMode) : PlaneLink :=
  freshLink (if p.beenActive && st != .disabled then { p with retrains := satAdd p.retrains 1 } else p) st

/-- A plane leaves its state for another that is not ACTIVE: retained frames move (R345). -/
def leavePlane (d : Device) (plane : Fin 8) (st : PlaneMode) : Device :=
  let d := if (getPlane d plane).st = .active then failover d plane else d
  newTimePlane (modPlane d plane fun p => if st = .isolated then isolatedLink p else downLink p st)

/-- The state a plane takes when it goes down: it trains again while enabled (R336, R340). -/
def downState (d : Device) (plane : Fin 8) : PlaneMode :=
  if !d.fab.planeEn.getLsbD plane.val then .disabled else if d.fab.fabEn then .training else .down

/-- A plane goes DOWN and retrains; detector 0x0123. -/
def planeDown (d : Device) (plane : Fin 8) : Device :=
  leavePlane (detectAt d (hubEvent 0x123 plane.val 1 0)) plane (downState d plane)

def planeUp (st : PlaneMode) : Bool := st = .linked || st = .active || st = .isolated

/-- Training ends with all 16 lanes (R328, R340). -/
def planeLinked (d : Device) (plane : Fin 8) : Device :=
  if (getPlane d plane).st = .training then
    let d := modPlane d plane fun p => { freshLink p .linked with lanesOk := 0xFFFF, goodTime := elapsedNs d, ackTime := elapsedNs d }
    { d with clock := { d.clock with stopped := d.clock.stopped &&& ~~~ ((1 : BitVec 26) <<< (12 + plane.val)) } }
  else d

def execPlaneLinked (plane : Fin 8) (s : State) : Host.Outcome State Fault Refusal := onDev (planeLinked · plane) s

/-- Lanes lose lock: the plane goes DOWN and its recovered clock stops (R340, R416). -/
def lossOfLanes (d : Device) (plane : Fin 8) (lanes : BitVec 16) : Device :=
  if planeUp (getPlane d plane).st && lanes != 0 then
    let d := planeDown (modPlane d plane fun p => { p with lanesOk := p.lanesOk &&& ~~~ lanes }) plane
    { d with clock := { d.clock with stopped := d.clock.stopped ||| ((1 : BitVec 26) <<< (12 + plane.val)) } }
  else d

def execLossOfLanes (plane : Fin 8) (lanes : BitVec 16) (s : State) : Host.Outcome State Fault Refusal :=
  onDev (fun d => lossOfLanes d plane lanes) s

/-- 20 µs without a good frame, or 16 resends of one frame without progress (R336). -/
def linkSilence (d : Device) (plane : Fin 8) : Device :=
  let p := getPlane d plane
  if planeUp p.st && (decide (p.goodTime + 20000 ≤ elapsedNs d) || decide (16 ≤ p.tries) || isArmed d 0x123 (BitVec.ofNat 16 plane.val)) then
    planeDown d plane
  else d

def execLinkSilenceTimeout (plane : Fin 8) (s : State) : Host.Outcome State Fault Refusal := onDev (linkSilence · plane) s

/-! ### FAB_CTRL (R342, R357) -/

/-- A write of FAB_CTRL. FAB_EN, ADDR_SRC and INDEX keep their values while a program is loaded. -/
def fabCtrlWrite (d : Device) (v : W64) : Device :=
  let f := d.fab
  let locked := anyLoaded d
  let f := { f with planeEn := BitVec.ofNat 8 (fieldNat v 23 16), killEn := v.getLsbD 2 }
  let f := if locked then f
    else
      let f := { f with fabEn := v.getLsbD 0, addrSrc := v.getLsbD 1, hostIndex := BitVec.ofNat 16 (fieldNat v 63 48) }
      let f := if f.fabEn then f else { f with valid := false, index := 0, fabricId := 0 }
      if f.addrSrc then { f with valid := true, index := f.hostIndex, fabricId := 0 } else f
  let d := { d with fab := f }
  forAll (List.finRange 8) d fun d p =>
    let st := (getPlane d p).st
    if !f.planeEn.getLsbD p.val then (if st = .disabled then d else leavePlane d p .disabled)
    else if !f.fabEn then (if st = .down then d else leavePlane d p .down)
    else if st = .down || st = .disabled then modPlane d p fun x => freshLink x .training
    else d

def execFabCtrlWrite (value : W64) (s : State) : Host.Outcome State Fault Refusal :=
  onDev (fun d => if bootMode d then d else fabCtrlWrite d value) s

/-! ### Receiving (R333–R338) -/

/-- A frame is refused: counted and recorded (R334, R355). -/
def refuseFrame (d : Device) (plane : Fin 8) (f : FrameBits) : Device :=
  detectAt (modPlane d plane fun p => { p with refused := satAdd p.refused 1 })
    (hubEvent 0x121 plane.val 0 (BitVec.ofNat 64 (frameSeq f).toNat))

/-- A failed frame, with the uncorrectable codewords it came in: counted, recorded with its sequence number, and a NAK is due
(R335, R357, R473). -/
def failFrame (d : Device) (plane : Fin 8) (uncorrectable : Nat) (inj : Bool) (seq : BitVec 12) : Device :=
  let d := modPlane d plane fun p =>
    { p with failed := satAdd p.failed 1, uncorr := satAdd p.uncorr uncorrectable, nakDue := true, awaiting := true }
  detect d { hubEvent 0x120 plane.val 1 (put64 0 seq.toNat) with inj := inj }

/-- Codewords that the link's code has corrected (R329, R357); the command that reports them is log entry 84. -/
def countCorrected (d : Device) (plane : Fin 8) (n : Nat) : Device :=
  modPlane d plane fun p => { p with corrected := satAdd p.corrected n }

/-- Whether an armed event falls on a frame of a plane that is received (R471). -/
def frameInjected (d : Device) (plane : Fin 8) : Bool × Device := inject d 0x120 (BitVec.ofNat 16 plane.val)

/-- A frame of which no bit can be trusted: its entry names the sequence number that was expected (log entry 102). -/
def execBuothFrameFailed (plane : Fin 8) (uncorrectable : BitVec 16) (s : State) : Host.Outcome State Fault Refusal :=
  onDev (fun d =>
    if planeUp (getPlane d plane).st then
      let (inj, d) := frameInjected d plane
      failFrame d plane uncorrectable.toNat inj (getPlane d plane).expect
    else d) s

/-- Frees retained frames up to an acknowledged number (R335). -/
def freeUpTo (a : BitVec 12) (l : List (BitVec 12 × TxFrame)) : List (BitVec 12 × TxFrame) :=
  if l.any fun r => r.1 = a then (l.dropWhile fun r => r.1 != a).drop 1 else l

/-- ACK and NAK of a good frame (R335). -/
def takeAck (d : Device) (plane : Fin 8) (f : FrameBits) : Device :=
  let w := frameField f 12 2
  if w / 2 ^ 15 % 2 = 0 then d
  else
    let a : BitVec 12 := BitVec.ofNat 12 (w % 4096)
    let nak := w / 2 ^ 14 % 2 = 1
    modPlane d plane fun p =>
      let kept := freeUpTo a p.retained
      let p := if kept.length < p.retained.length then { p with tries := 0, ackTime := elapsedNs d } else p
      let p := { p with retained := kept, resendq := freeUpTo a p.resendq }
      if nak then { p with resendq := kept } else p

/-- The credit limits of a good frame (R338). -/
def takeCredit (p : PlaneLink) (f : FrameBits) : PlaneLink :=
  let v := frameField f 240 12
  { p with limit := Vector.ofFn fun (i : Fin 8) => BitVec.ofNat 12 (v / 2 ^ (12 * i.val) % 4096) }

/-- What every good frame does to its link. -/
def goodFrame (d : Device) (plane : Fin 8) (f : FrameBits) : Device :=
  let d := modPlane d plane fun p => { takeCredit p f with goodTime := elapsedNs d }
  takeAck d plane f

/-- Whether x lies behind e in the sequence numbers. -/
def behindSeq (x e : BitVec 12) : Bool := decide ((e - 1 - x).toNat < 2048)

/-- A sequenced frame at the link (R335): whether it is accepted, and the device. -/
def acceptSeq (d : Device) (plane : Fin 8) (f : FrameBits) : Bool × Device :=
  let p := getPlane d plane
  let q := frameSeq f
  if q = p.expect then
    (true, modPlane d plane fun p => { p with expect := p.expect + 1, awaiting := p.awaiting && !frameResent f })
  else if behindSeq q p.expect then (false, d)
  else if p.awaiting then (false, d)
  else (false, modPlane d plane fun p => { p with nakDue := true, awaiting := true })

/-- A routed frame that the link has taken is refused: its buffer entry is freed (R338), and a channel message is recorded
under R274 too, with the frame of its first unit. -/
def refuseRouted (d : Device) (plane : Fin 8) (f : FrameBits) : Device :=
  let p : PartId := finMod 4 (frameDst f)
  let d := refuseFrame (freeEntry d plane (frameKind f = 3) p) plane f
  if frameKind f = 1 && frameField f 19 1 = 0 then detectAt d (hubEvent 0x122 p.val 2 (put64 0 (frameSeq f).toNat)) else d

/-- Reception of a routed frame: FCS, link fields, kind, sequence, version and destination. It answers the
partition the frame is for when it is to be used, with whether the frame was taken at all. -/
def receiveRouted (d : Device) (plane : Fin 8) (f : FrameBits) (kind : Nat) : Option PartId × Device :=
  let p := getPlane d plane
  if !planeUp p.st then (none, d)
  else
    let (inj, d) := frameInjected d plane
    if inj || !frameOk f then (none, failFrame d plane 0 inj (frameSeq f))
    else
      let d := goodFrame d plane f
      if !definedKind (frameKind f) then (none, refuseFrame d plane f)
      else if frameKind f != kind then (none, d)
      else
        let (ok, d) := acceptSeq d plane f
        if !ok then (none, d)
        else match partOfAddr d (frameDst f) with
          | some q => if frameVersion f = 1 && (getPlane d plane).st = .active then (some q, d) else (none, refuseRouted d plane f)
          | none => (none, refuseRouted d plane f)

/-- Reception of a link-local or idle frame: whether it is to be used. -/
def receiveLocal (d : Device) (plane : Fin 8) (f : FrameBits) (kind : Nat) : Bool × Device :=
  let p := getPlane d plane
  if !planeUp p.st then (false, d)
  else if !frameOk f then (false, failFrame d plane 0 false (frameSeq f))
  else
    let d := goodFrame d plane f
    if frameVersion f != 1 || !definedKind (frameKind f) then (false, refuseFrame d plane f)
    else (decide (frameKind f = kind), d)

/-- An idle frame carries acknowledgement and credit only, and reports the codewords corrected since the last; an injected
event reads it as undefined. -/
def idleFrame (d : Device) (plane : Fin 8) (corrected : Nat) (f : FrameBits) : Device :=
  let (use, d) := receiveLocal (if planeUp (getPlane d plane).st then countCorrected d plane corrected else d) plane f 0
  if use && isArmed d 0x121 (BitVec.ofNat 16 plane.val) then refuseFrame d plane f else d

def execIdleFrame (plane : Fin 8) (frame : IdleBits) (s : State) : Host.Outcome State Fault Refusal :=
  onDev (fun d => idleFrame d plane frame.corrected.toNat frame.frame) s

/-- An Assign (R342). -/
def assignIndex (d : Device) (plane : Fin 8) (f : FrameBits) : Device :=
  let idx : BitVec 16 := BitVec.ofNat 16 (frameField f 16 2)
  let fid : W32 := BitVec.ofNat 32 (frameField f 20 4)
  let isolate := fun (d : Device) => leavePlane (noteSet { d with fab := { d.fab with mismatch := true } } .mismatch) plane .isolated
  let join := fun (d : Device) =>
    if (getPlane d plane).st = .active then d else modPlane d plane fun p => { p with st := .active, beenActive := true }
  if frameField f 24 1 != plane.val then isolate d
  else if d.fab.addrSrc then (if idx = d.fab.index then join d else isolate d)
  else if !d.fab.valid then join { d with fab := { d.fab with valid := true, index := idx, fabricId := fid } }
  else if idx = d.fab.index && fid = d.fab.fabricId then join d
  else isolate d

def execAssign (plane : Fin 8) (frame : FrameBits) (s : State) : Host.Outcome State Fault Refusal :=
  onDev (fun d => let r := receiveLocal d plane frame 0xB; if r.1 then assignIndex r.2 plane frame else r.2) s

/-- Whether a Kill of a number has been accepted within the last 100 µs (R355). -/
def killKnown (d : Device) (kid : W64) : Bool := d.fab.kills.any fun k => k.1 = kid && decide (elapsedNs d ≤ k.2 + 100000)

/-- A Kill (R355). -/
def killFrame (d : Device) (plane : Fin 8) (f : FrameBits) : Device :=
  let mask := frameField f 16 1 % 16
  let kid : W64 := BitVec.ofNat 64 (frameField f 18 8)
  let named := (List.finRange 4).filter fun p => partPresent d p && (mask / 2 ^ p.val % 2 = 1)
  if killKnown d kid then d
  else if d.fab.killEn && (getPlane d plane).st = .active && !named.isEmpty then
    let recent := d.fab.kills.filter fun k => decide (elapsedNs d ≤ k.2 + 100000)
    raiseSource { d with fab := { d.fab with kid := kid, kills := recent ++ [(kid, elapsedNs d)] } } 7 named
  else refuseFrame d plane f

def execKill (plane : Fin 8) (frame : FrameBits) (s : State) : Host.Outcome State Fault Refusal :=
  onDev (fun d => let r := receiveLocal d plane frame 0xC; if r.1 then killFrame r.2 plane frame else r.2) s

/-! ### Sending (R335–R345) -/

/-- The body of a Hello (R341). -/
def helloBody (d : Device) (plane : Fin 8) : BitVec 1792 :=
  leBits 1792 (leBytes 2 0x4025 ++ [d.sec.stepping, 1, BitVec.ofNat 8 plane.val, BitVec.ofNat 8 (d.rb.cfgCode.toNat % 8),
    BitVec.ofNat 8 d.config, (if d.fab.addrSrc then 1 else 0) + (if d.fab.valid then 2 else 0)] ++
    leBytes 2 (if d.fab.valid then d.fab.index.toNat else 0) ++ List.replicate 6 0 ++ digestBytes (idDigest d))

/-- A Hello, in any position of a LINKED plane, or in the next control position of an ACTIVE one that may carry it. -/
def sendHello (d : Device) (plane : Fin 8) : Device :=
  let st := (getPlane d plane).st
  if st = .linked || st = .active then
    let d := if st = .active then passToNext d plane (controlAt · 8) else d
    positionDone (sendLocal d plane 0xA (helloBody d plane)) plane
  else d

def execHello (plane : Fin 8) (s : State) : Host.Outcome State Fault Refusal := onDev (sendHello · plane) s

/-- Credit counter of a frame: class and destination partition (R338). -/
def creditIndex (f : TxFrame) : Fin 8 := finMod 8 ((if f.kind = 3 then 4 else 0) + f.dst.toNat % 4)

/-- Whether a new frame has credit on a plane (R338). -/
def hasCredit (p : PlaneLink) (f : TxFrame) : Bool :=
  let n := (vget p.limit (creditIndex f) - vget p.sent (creditIndex f)).toNat
  decide (1 ≤ n) && decide (n ≤ 2047)

/-- The queue's frames that may leave on a plane now: R344 selects it, credit allows, and no earlier frame
of the same class and destination partition waits (R338). -/
def sendable (d : Device) (plane : Fin 8) (q : List TxFrame) : List TxFrame :=
  (q.foldl (fun (acc : List (Fin 8) × List TxFrame) f =>
    if selectPlane d f.nominal != some plane then acc
    else if acc.1.contains (creditIndex f) then acc
    else if hasCredit (getPlane d plane) f then (acc.1, acc.2 ++ [f]) else (creditIndex f :: acc.1, acc.2)) ([], [])).2

/-- Sends a frame under a sequence number. -/
def emit (d : Device) (plane : Fin 8) (f : TxFrame) (seq : BitVec 12) (again : Bool) : Device :=
  sendFrame d plane (buildFrame d plane f.kind.toNat again (again || f.resend) seq.toNat f.dst.toNat (fabAddr d f.part) (f.first.getD plane).val f.body)

/-- A partition's new frame for a plane: collective and channel frames alternate (R317); a domain that stalls sends no collective
frame (R303). -/
def newFrame (d : Device) (p : PartId) (plane : Fin 8) : Option TxFrame :=
  let ready := sendable d plane ((getPart d p).txq.filter fun f => !(f.kind = 3 && domStalled d f.dom))
  let wantColl := (getPlane d plane).nextColl.getLsbD p.val
  (ready.find? fun f => decide (f.kind = 3) = wantColl).orElse fun _ => ready.head?

/-- The frame that a partition sends next on a plane: while a frame moved from another plane can leave on this one, the first such
alone, if it is the partition's (R345); else a new one. -/
def nextFrame (d : Device) (p : PartId) (plane : Fin 8) : Option TxFrame :=
  if 2048 ≤ (getPlane d plane).retained.length then none
  else match sendable d plane d.fab.moved with
    | f :: _ => if f.part = p then some f else none
    | [] => newFrame d p plane

/-- A frame of a partition leaves its transmit queue, or those moved, for the retry buffer of a plane. -/
def retain (d : Device) (p : PartId) (plane : Fin 8) (f : TxFrame) : Device :=
  let d := if f.resend then { d with fab := { d.fab with moved := d.fab.moved.erase f } } else modPart d p fun x => { x with txq := x.txq.erase f }
  modPlane d plane fun x =>
    { x with nextSeq := x.nextSeq + 1, retained := x.retained ++ [(x.nextSeq, { f with first := some (f.first.getD plane) })],
             ackTime := if x.retained.isEmpty then elapsedNs d else x.ackTime,
             sent := vmod x.sent (creditIndex f) (· + 1),
             nextColl := if f.kind = 3 then x.nextColl &&& ~~~ ((1 : BitVec 4) <<< p.val) else x.nextColl ||| ((1 : BitVec 4) <<< p.val) }

/-- What a position of a partition on an ACTIVE plane carries: a resend of its own when that is next, a new frame that credit
allows, or an idle frame. Each resend of the oldest frame retained counts as one without progress (R336). -/
def sendPosition (d : Device) (p : PartId) (plane : Fin 8) : Device :=
  let l := getPlane d plane
  match l.resendq with
  | (q, f) :: rest =>
    if f.part = p then
      emit (modPlane d plane fun x =>
        { x with resendq := rest, resends := satAdd x.resends 1, tries := if x.retained.head?.any (·.1 = q) then x.tries + 1 else x.tries }) plane f q true
    else sendIdle d plane
  | [] => match nextFrame d p plane with
    | none => sendIdle d plane
    | some f => emit (retain d p plane f) plane f l.nextSeq false

/-- The next position of a partition on a plane (R331): on one that is LINKED or ISOLATED it carries an idle frame. -/
def fabricSend (d : Device) (p : PartId) (plane : Fin 8) : Device :=
  let st := (getPlane d plane).st
  if !planeUp st || !partPresent d p then d
  else
    let d := passToNext d plane (ownPosition d p)
    positionDone (if st = .active then sendPosition d p plane else sendIdle d plane) plane

def execFabricFrameSend (p : PartId) (plane : Fin 8) (s : State) : Host.Outcome State Fault Refusal :=
  onDev (fun d => fabricSend d p plane) s

/-- 4 µs without progress while frames are retained: all are sent again (R336). -/
def retryTimeout (d : Device) (plane : Fin 8) : Device :=
  let p := getPlane d plane
  if planeUp p.st && !p.retained.isEmpty && decide (p.ackTime + 4000 ≤ elapsedNs d) then
    modPlane d plane fun x => { x with resendq := x.retained, ackTime := elapsedNs d }
  else d

def execRetryTimeout (plane : Fin 8) (s : State) : Host.Outcome State Fault Refusal := onDev (retryTimeout · plane) s

end Sys2Proof.Machine
end

