-- ==== Sys2Proof/Machine/Address.lean ====
section
/-! DEFINITION. Core addresses (R117, R118): the spaces, what makes an address valid, and the bytes of
memory it names. -/

namespace Sys2Proof.Machine

/-- What a core address names. -/
inductive Target where
  | scratch (c : CtxId) (off : Nat)
  | reservoir (off : Nat)
  | hbm (off : Nat)
  | cxl (off : Nat)
  | queue (q : Nat)
deriving DecidableEq, Repr, Inhabited

/-- The outcome of the address check of R118: foreign is the failure that halts with 0x12. -/
inductive AddrRes where
  | ok (t : Target)
  | foreign
  | bad
deriving DecidableEq, Repr, Inhabited

/-- Bytes of scratchpad a core or context names. -/
def padSize (d : Device) (c : CoreId) : Nat := if isSplit d c then 2097152 else 4194304

/-- A range of a space, by its offset. -/
def rangeRes (ok : Bool) (t : Target) : AddrRes := if ok then .ok t else .bad

/-- Resolves the address of a transfer of n bytes from partition p; own is the core or context that
issues it, absent for the host. -/
def resolve (d : Device) (p : PartId) (own : Option CtxId) (a n : Nat) : AddrRes :=
  let space := a / 2 ^ 44
  let low := a % 2 ^ 44
  match space with
  | 0 => match own with
    | some c => rangeRes (decide (low + n ≤ padSize d c.core)) (.scratch c low)
    | none => .bad
  | 1 =>
    let core : CoreId := finMod 512 (low / 2 ^ 22)
    let ctx : Fin 2 := finMod 2 (low / 2 ^ 31)
    let off := low % 2 ^ 22
    if partOfCore d core != p then .foreign
    else rangeRes (decide (low < 2 ^ 32) && (ctx = 0 || isSplit d core) && decide (off + n ≤ padSize d core))
      (.scratch { core := core, ctx := ctx } off)
  | 2 => rangeRes (decide (low + n ≤ reservoirShare d)) (.reservoir low)
  | 3 => rangeRes (decide (low + n ≤ hbmCapacity d)) (.hbm low)
  | 4 => rangeRes (decide (low + n ≤ cxlLimit d p)) (.cxl low)
  | 5 => match own with
    | some c => rangeRes (decide (low < if isSplit d c.core then 4 else 8)) (.queue low)
    | none => .bad
  | _ => .bad

/-- Memory and key of byte k of a target. A queue has no bytes of its own; its key is never used. -/
def targetKey (d : Device) (p : PartId) (t : Target) (k : Nat) : MemId × Nat :=
  match t with
  | .scratch c off => (.scratch, scratchKey c.core (physOffset (isSplit d c.core) c.ctx (off + k)))
  | .reservoir off => (.reservoir, p.val * reservoirShare d + off + k)
  | .hbm off => (.hbm, (hbmMap d p (off + k)).2.2)
  | .cxl off => (.cxl, (cxlMap d p (off + k)).2)
  | .queue _ => (.scratch, 0)

/-- Reads n bytes of a target. -/
def readTarget (d : Device) (p : PartId) (t : Target) (n : Nat) : List Byte :=
  (List.range n).map fun k => let (i, a) := targetKey d p t k; readByte d i a

/-- Writes bytes of a target from byte k on. -/
def writeTargetFrom (d : Device) (p : PartId) (t : Target) : Nat → List Byte → Device
  | _, [] => d
  | k, b :: bs =>
    let (i, a) := targetKey d p t k
    writeTargetFrom (writeByte d i a b) p t (k + 1) bs

def writeTarget (d : Device) (p : PartId) (t : Target) (bs : List Byte) : Device := writeTargetFrom d p t 0 bs

end Sys2Proof.Machine
end

