-- ==== Sys2Proof/Machine/Parse.lean ====
section
/-! DEFINITION. Reading a Clastan binary (R111–R114 and the table layouts of R105, R194, R236, R239,
R260, R261, R280, R296–R298): its sections and the tables they hold. Checks are in Machine/Loader.lean. -/

namespace Sys2Proof.Machine

/-- A little-endian field of an image. -/
def le (im : List Byte) (off n : Nat) : Nat := leVal (slice im off n)

/-- An entry of the section table (R112), with the offset of the entry itself. -/
structure Sect where
  ty  : Nat
  id  : Nat
  off : Nat
  len : Nat
  pos : Nat
deriving DecidableEq, Repr, Inhabited

def sectAt (im : List Byte) (pos : Nat) : Sect :=
  { ty := le im pos 2, id := le im (pos + 2) 2, off := le im (pos + 4) 4, len := le im (pos + 8) 4, pos := pos }

/-- n entries from an offset on. -/
def sectsFrom (im : List Byte) (pos n : Nat) : List Sect := (List.range n).map fun k => sectAt im (pos + 16 * k)

/-- The core or context an ID names (R112). -/
def sectCtx (s : Sect) : CtxId := { core := finMod 512 (s.id % 512), ctx := finMod 2 (s.id / 512 % 2) }

/-- A word naming a core and context: bits [8:0] and bit 9. -/
def ctxWord (w : Nat) : CtxId := { core := finMod 512 (w % 512), ctx := finMod 2 (w / 512 % 2) }

/-- Whether a section type belongs to a core or context. -/
def coreScope (ty : Nat) : Bool := decide (1 ≤ ty) && decide (ty ≤ 8)
def domScope (ty : Nat) : Bool := decide (0x10 ≤ ty) && decide (ty ≤ 0x16)

/-- n records of a given size from an offset on. -/
def records (off size n : Nat) : List Nat := (List.range n).map fun k => off + size * k

/-- An entry address; one beyond the last bundle stays beyond it, and the fetch halts (R73, R113). -/
def entryAddr (a : Nat) : BitVec 13 := BitVec.ofNat 13 (if a < 4096 then a else 4096 + a % 4096)

def parseCore (im : List Byte) (s : Sect) : CoreSect :=
  let b := fun k => le im (s.off + k) 1
  { ctx := sectCtx s, split := b 0 % 2 = 1, access := b 1 % 2 = 1, execute := b 1 / 2 % 2 = 1,
    aEntry := entryAddr (le im (s.off + 2) 2), xEntry := entryAddr (le im (s.off + 4) 2),
    aLo := BitVec.ofNat 4 (b 6 % 16), aHi := BitVec.ofNat 4 (b 6 / 16), xLo := BitVec.ofNat 4 (b 7 % 16),
    xHi := BitVec.ofNat 4 (b 7 / 16), banksOff := BitVec.ofNat 32 (le im (s.off + 8) 4) }

def parsePages (im : List Byte) (s : Sect) : PageSect :=
  let n := le im (s.off + 2) 2
  { ctx := sectCtx s, first := le im s.off 2, count := n,
    bundles := (records (s.off + 16) 48 (256 * n)).map fun o => leBits 384 (slice im o 48) }

def parseRoute (im : List Byte) (o : Nat) : RouteEntry :=
  { kind := BitVec.ofNat 8 (le im o 1), fadd := le im (o + 1) 1 % 2 = 1, fper := le im (o + 1) 1 / 2 % 2 = 1,
    target := ctxWord (le im (o + 2) 2), queue := finMod 8 (le im (o + 4) 1), quota := le im (o + 5) 1,
    tflag := BitVec.ofNat 8 (le im (o + 6) 1), taddr := BitVec.ofNat 32 (le im (o + 8) 4), inid := BitVec.ofNat 8 (le im (o + 12) 1) }

def parseInbound (im : List Byte) (o : Nat) : InEntry :=
  { kind := BitVec.ofNat 8 (le im o 1), fadd := le im (o + 1) 1 % 2 = 1, fper := le im (o + 1) 1 / 2 % 2 = 1,
    target := ctxWord (le im (o + 2) 2), queue := finMod 8 (le im (o + 4) 1), quota := le im (o + 5) 1,
    tflag := BitVec.ofNat 8 (le im (o + 6) 1), taddr := BitVec.ofNat 32 (le im (o + 8) 4), src := BitVec.ofNat 18 (le im (o + 12) 3) }

def parseStream (im : List Byte) (o : Nat) : StreamDesc :=
  { kind := BitVec.ofNat 8 (le im o 1), fadd := le im (o + 1) 1 % 2 = 1, flag := BitVec.ofNat 8 (le im (o + 4) 1),
    maddr := BitVec.ofNat 64 (le im (o + 8) 8), saddr := BitVec.ofNat 32 (le im (o + 16) 4),
    bytes := BitVec.ofNat 32 (le im (o + 20) 4), start := BitVec.ofNat 64 (le im (o + 24) 8),
    period := BitVec.ofNat 32 (le im (o + 32) 4), repeats := BitVec.ofNat 32 (le im (o + 36) 4),
    mstride := BitVec.ofNat 64 (le im (o + 40) 8), sstride := BitVec.ofNat 32 (le im (o + 48) 4),
    swrap := BitVec.ofNat 16 (le im (o + 52) 2) }

def parseMono (im : List Byte) (o : Nat) : MonoSpec :=
  { flag := BitVec.ofNat 8 (le im o 1), consumer := le im (o + 1) 1 = 1, partner := ctxWord (le im (o + 2) 2),
    pflag := BitVec.ofNat 8 (le im (o + 4) 1), depth := BitVec.ofNat 32 (le im (o + 8) 4) }

/-- The two-bit class codes of a section body (R236). -/
def parseClasses (im : List Byte) (s : Sect) : List (BitVec 2) :=
  (List.range (4 * s.len)).map fun f => BitVec.ofNat 2 (le im (s.off + f / 4) 1 / 4 ^ (f % 4))

/-- One barrier entry: a head of 16 bytes and P participant words, padded to 16 bytes (R114). -/
def barLen (im : List Byte) (o : Nat) : Nat := 16 + (4 * le im (o + 4) 2 + 15) / 16 * 16

def parseBarrier (im : List Byte) (o : Nat) : BarEntry :=
  { bctx := finMod 64 (le im o 1), extended := le im (o + 1) 1 % 2 = 1, group := BitVec.ofNat 12 (le im (o + 2) 2),
    parts := (records (o + 16) 4 (le im (o + 4) 2)).map fun w =>
      { ctx := ctxWord (le im w 4), execute := le im w 4 / 1024 % 2 = 1 } }

/-- Offsets of the barrier entries of a body; fuel bounds their number. -/
def barOffsets : Nat → List Byte → Nat → Nat → List Nat
  | 0, _, _, _ => []
  | n + 1, im, o, stop => if stop ≤ o then [] else o :: barOffsets n im (o + barLen im o) stop

/-- Offsets of the groups of a body: fewer than 16 trailing zero bytes are padding (R112, R296). -/
def groupOffsets : Nat → List Byte → Nat → Nat → List Nat
  | 0, _, _, _ => []
  | n + 1, im, o, stop =>
    if stop ≤ o || (stop < o + 16 && zeroIn im o (stop - o)) then []
    else o :: groupOffsets n im (o + 4 + 4 * le im o 4) stop

def parseGroup (im : List Byte) (o : Nat) : List (BitVec 18) :=
  (records (o + 4) 4 (le im o 4)).map fun w => BitVec.ofNat 18 (le im w 4)

def parseLayer (im : List Byte) (o : Nat) : Layer :=
  { rows := le im o 2, rank := le im (o + 2) 1, scale := BitVec.ofNat 8 (le im (o + 3) 1) }

def parsePace (im : List Byte) (s : Sect) : Option Pace :=
  let n := le im s.off 1
  if n = 0 then none
  else some { haltOnMiss := le im (s.off + 1) 1 % 2 = 1, reserve := BitVec.ofNat 32 (le im (s.off + 4) 4),
              points := (records (s.off + 16) 16 n).map fun o => (le im o 8, le im (o + 8) 8) }

/-- The agreement check of a collective descriptor (R301). -/
def agreement (im : List Byte) (o : Nat) (layerOff : Nat) (group : List (BitVec 18)) : W32 :=
  let layers := slice im (layerOff + 8 * le im (o + 14) 2) (8 * le im (o + 16) 2)
  let g := leBytes 4 group.length ++ group.flatMap fun a => leBytes 4 a.toNat
  leBits 32 ((sha384Bytes (slice im o 8 ++ slice im (o + 12) 2 ++ slice im (o + 16) 2 ++ layers ++ g)).take 4)

def parseColl (im : List Byte) (o : Nat) (layerOff : Nat) (groups : List (List (BitVec 18))) : CollDesc :=
  let b := fun k => BitVec.ofNat 8 (le im (o + k) 1)
  { kind := b 0, format := b 1, order := b 2, anchor := b 3, step := b 4, reruns := b 5,
    cid := BitVec.ofNat 16 (le im (o + 6) 2), core := ctxWord (le im (o + 8) 2), flag := b 10, chan := b 11,
    root := le im (o + 12) 2, lfirst := le im (o + 14) 2, lcount := le im (o + 16) 2, group := le im (o + 18) 2,
    iaddr := le im (o + 20) 4, oaddr := le im (o + 24) 4, raddr := le im (o + 28) 4, start := le im (o + 32) 8,
    period := le im (o + 40) 4, repeats := le im (o + 44) 4,
    check := agreement im o layerOff (groups.getD (le im (o + 18) 2) []) }

/-- The entries of 8 bytes of a section: a last group of eight zero bytes is padding (R112). -/
def refreshOffsets (im : List Byte) (s : Sect) : List Nat :=
  let l := records s.off 8 (s.len / 8)
  if 0 < s.len && zeroIn im (s.off + s.len - 8) 8 then l.dropLast else l

def findSect (l : List Sect) (ty id : Nat) : Option Sect := l.find? fun s => s.ty = ty && s.id = id

def sectsOf (l : List Sect) (ty : Nat) : List Sect := l.filter fun s => s.ty = ty

/-- The section table of a binary (R111, R112). -/
def sectTable (im : List Byte) : List Sect := sectsFrom im (le im 68 4) (le im 64 4)

/-- The tables of a binary, taken as its sections give them; the floor is set by the loader (R54). -/
def parseProgram (im : List Byte) : Program :=
  let t := sectTable im
  let dom := fun ty => findSect t ty 0xFFFF
  let groups := match dom 0x14 with
    | some s => (groupOffsets 17 im s.off (s.off + s.len)).map (parseGroup im)
    | none => []
  let layerOff := match dom 0x16 with | some s => s.off | none => 0
  { digest := sha384 im, portable := le im 7 1 = 1, tdSplit := BitVec.ofNat 2 (le im 8 1), traps := BitVec.ofNat 3 (le im 9 1),
    watchdog := BitVec.ofNat 32 (le im 12 4),
    cores := (sectsOf t 1).map (parseCore im),
    pages := (sectsOf t 2).map (parsePages im),
    ags := (sectsOf t 3).map fun s => (sectCtx s, (records s.off 64 (s.len / 64)).map fun o => leBits 512 (slice im o 64)),
    eps := (sectsOf t 4).map fun s => (sectCtx s, (records s.off 256 (s.len / 256)).map fun o => leBits 2048 (slice im o 256)),
    classes := (sectsOf t 5).map fun s => (sectCtx s, parseClasses im s),
    monos := (sectsOf t 6).map fun s => (sectCtx s, (records s.off 16 (s.len / 16)).map (parseMono im)),
    routes := (sectsOf t 7).map fun s => (sectCtx s, (records s.off 16 (s.len / 16)).map (parseRoute im)),
    streams := (sectsOf t 8).map fun s => (sectCtx s, (records s.off 64 (s.len / 64)).map (parseStream im)),
    inbound := match dom 0x10 with | some s => (records s.off 16 (s.len / 16)).map (parseInbound im) | none => [],
    barriers := match dom 0x11 with | some s => (barOffsets 65 im s.off (s.off + s.len)).map (parseBarrier im) | none => [],
    refresh := match dom 0x12 with
      | some s => (refreshOffsets im s).map fun o => (finMod 64 (le im o 1), le im (o + 4) 4)
      | none => [],
    pace := match dom 0x13 with | some s => parsePace im s | none => none,
    groups := groups,
    colls := match dom 0x15 with
      | some s => (records s.off 64 (s.len / 64)).map fun o => parseColl im o layerOff groups
      | none => [],
    layers := match dom 0x16 with | some s => (refreshOffsets im s).map (parseLayer im) | none => [],
    floorKHz := 0 }

end Sys2Proof.Machine
end

