-- ==== Sys2Proof/Machine/Loader.lean ====
section
/-! DEFINITION. The checks of LOAD_PROGRAM (R115, R390 and the rules each table names), and the
installation of a binary or an overlay. A check is a pair of the offset of its field and whether it
holds; the offset reported is the lowest that fails. -/

namespace Sys2Proof.Machine

/-- Checks by the offset of their field. -/
abbrev Checks := List (Nat × Bool)

/-- The lowest offset of a failing check. -/
def firstFail (cs : Checks) : Option Nat :=
  cs.foldl (fun a c => if c.2 then a else match a with | none => some c.1 | some m => some (min m c.1)) none

/-! ### Structure (R111, R112, R115 step 2) -/

/-- The header. -/
def headChecks (im : List Byte) : Checks :=
  [(0, decide (le im 0 4 = 0x54534C43)), (4, decide (le im 4 2 = 1)), (7, decide (le im 7 1 ≤ 1)),
   (9, decide (le im 9 1 ≤ 7)), (10, zeroIn im 10 2), (16, le im 7 1 != 1 || zeroIn im 16 48),
   (64, decide (1 ≤ le im 64 4) && decide (le im 64 4 ≤ 4096)),
   (68, le im 68 4 % 16 = 0 && decide (128 ≤ le im 68 4) && decide (le im 68 4 + 16 * le im 64 4 ≤ im.length)),
   (72, zeroIn im 72 56 && decide (128 ≤ im.length))]

/-- Whether the binary's core section for an identifier says it is a context. -/
def sectSplit (im : List Byte) (t : List Sect) (id : Nat) : Bool :=
  match findSect t 1 id with | some s => le im s.off 1 % 2 = 1 | none => decide (512 ≤ id)

/-- Whether LEN matches what the type requires. Counts above a table's capacity are content checks. -/
def lenOk (im : List Byte) (t : List Sect) (s : Sect) : Bool :=
  let sp := sectSplit im t s.id
  let full := fun n => if sp then n / 2 else n
  match s.ty with
  | 1 => s.len = 32
  | 2 => s.len = 16 + 12288 * le im (s.off + 2) 2
  | 3 => s.len = full 512
  | 4 => s.len = full 4096
  | 5 => s.len = full 64
  | 6 => decide (s.len ≤ full 512)
  | 7 => s.len = full 4096
  | 8 => s.len % 64 = 0
  | 0x10 => s.len = 4096
  | 0x11 => ((barOffsets 65 im s.off (s.off + s.len)).foldl (fun _ o => o + barLen im o) s.off) = s.off + s.len
  | 0x12 => decide (s.len ≤ 128)
  | 0x13 => s.len = 16 + 16 * le im s.off 1
  | 0x14 =>
    let o := groupOffsets 17 im s.off (s.off + s.len)
    let e := o.foldl (fun _ o => o + 4 + 4 * le im o 4) s.off
    o.length ≤ 16 && decide (e ≤ s.off + s.len) && decide (s.off + s.len < e + 16) && zeroIn im e (s.off + s.len - e)
  | 0x15 => s.len % 64 = 0
  | 0x16 => s.len % 16 = 0
  | _ => true

/-- Two byte ranges meet. -/
def meets (a n b m : Nat) : Bool := decide (a < b + m) && decide (b < a + n) && decide (0 < n) && decide (0 < m)

/-- One section-table entry, given those before it. -/
def sectChecks (d : Device) (p : PartId) (im : List Byte) (t before : List Sect) (tabOff tabLen : Nat) (s : Sect) : Checks :=
  let known := coreScope s.ty || domScope s.ty
  let within := s.off % 16 = 0 && decide (128 ≤ s.off) && decide (s.off + s.len ≤ im.length)
  let free := !meets s.off s.len tabOff tabLen && before.all fun b => !meets s.off s.len b.off b.len
  let idOk := if coreScope s.ty then decide (s.id < 1024) && decide (partOfCore d (finMod 512 (s.id % 512)) = p) else s.id = 0xFFFF
  [(s.pos, known && !before.any fun b => b.ty = s.ty && b.id = s.id), (s.pos + 2, idOk),
   (s.pos + 4, within && free), (s.pos + 8, s.len % 16 = 0 && (!within || lenOk im t s)), (s.pos + 12, zeroIn im (s.pos + 12) 4)]

/-- All entries of a table, each with those before it. -/
def tableChecks (d : Device) (p : PartId) (im : List Byte) (t : List Sect) (tabOff tabLen : Nat) : Checks :=
  (List.range t.length).flatMap fun k => match t[k]? with
    | some s => sectChecks d p im t (t.take k) tabOff tabLen s
    | none => []

/-- Step 2 of R115. -/
def structureChecks (d : Device) (p : PartId) (im : List Byte) : Checks :=
  let h := headChecks im
  if (firstFail h).isSome then h
  else h ++ tableChecks d p im (sectTable im) (le im 68 4) (16 * le im 64 4)

/-! ### Contents of the sections of a core or context -/

/-- An address-generator descriptor at an offset (R105, R107). -/
def agChecks (im : List Byte) (o : Nat) : Checks :=
  let levels := le im (o + 56) 8 % 8
  [(o, decide (le im o 8 < 2 ^ 48)), (o + 56, decide (1 ≤ levels) && decide (levels ≤ 6) && decide (le im (o + 56) 8 < 16))] ++
  (List.range 6).flatMap fun k =>
    let c := le im (o + 8 + 4 * k) 4
    if k < levels then [(o + 8 + 4 * k, decide (1 ≤ c) && decide (c ≤ 16777216))]
    else [(o + 8 + 4 * k, c = 0), (o + 32 + 4 * k, zeroIn im (o + 32 + 4 * k) 4)]

/-- Inputs a micro-operation reads (R192): s1, s2, s3; none for an undefined code. -/
def microInputs (code : Nat) : Option (Bool × Bool × Bool) :=
  if code = 4 || code = 0x0C then some (true, true, true)
  else if (1 ≤ code && code ≤ 6) || (9 ≤ code && code ≤ 0x0B) || code = 0x17 || (0x20 ≤ code && code ≤ 0x2C) then some (true, true, false)
  else if code = 7 || code = 8 || (0x10 ≤ code && code ≤ 0x16) || code = 0x18 || code = 0x19 || code = 0x2D then some (true, false, false)
  else none

/-- An input code that stands for an operand (R194). -/
def inputDefined (c : Nat) : Bool := decide (c ≤ 0x0A) || (decide (0x10 ≤ c) && decide (c ≤ 0x17))

/-- A micro-operation word (R194, R195). -/
def microOk (w : Nat) : Bool :=
  match microInputs (w / 2 ^ 26) with
  | none => false
  | some (r1, r2, r3) =>
    let inp := fun (read : Bool) (c : Nat) => if read then inputDefined c else c = 0x1F
    w % 256 = 0 && inp r1 (w / 2 ^ 18 % 32) && inp r2 (w / 2 ^ 13 % 32) && inp r3 (w / 2 ^ 8 % 32)

/-- An element-program image at an offset (R194, R195). -/
def epChecks (im : List Byte) (o : Nat) : Checks :=
  let len := le im (o + 160) 1
  [(o + 160, decide (1 ≤ len) && decide (len ≤ 32)), (o + 161, zeroIn im (o + 161) 95)] ++
  (List.range 32).map fun k => (o + 4 * k, if k < len then microOk (le im (o + 4 * k) 4) else zeroIn im (o + 4 * k) 4)

/-- Whether an image of 256 bytes is valid. -/
def epValid (e : Entry) : Bool := (firstFail (epChecks (leBytes 256 e.toNat) 0)).isNone

/-- Whether a descriptor of 64 bytes is valid. -/
def agValid (x : BitVec 512) : Bool := (firstFail (agChecks (leBytes 64 x.toNat) 0)).isNone

/-- A core section (R113). -/
def coreChecks (im : List Byte) (t : List Sect) (s : Sect) : Checks :=
  let b := fun k => le im (s.off + k) 1
  let sp := b 0 % 2 = 1
  let other := findSect t 1 (if s.id < 512 then s.id + 512 else s.id - 512)
  let mixed := match other with | some o => !(decide sp && le im o.off 1 % 2 = 1) | none => false
  let win := fun k (act : Bool) =>
    if act then decide (b k % 16 ≤ b k / 16) && (!decide sp || decide (b k / 16 ≤ 7)) else b k = 0
  let entry := fun k (act : Bool) => act || zeroIn im (s.off + k) 2
  let acc : Bool := b 1 % 2 = 1
  let exe : Bool := b 1 / 2 % 2 = 1
  [(s.pos + 2, !mixed), (s.off, decide (b 0 ≤ 1) && (s.id < 512 || decide sp)), (s.off + 1, decide (b 1 ≤ 3)),
   (s.off + 2, entry 2 acc), (s.off + 4, entry 4 exe), (s.off + 6, win 6 acc), (s.off + 7, win 7 exe),
   (s.off + 8, !decide sp || zeroIn im (s.off + 10) 2), (s.off + 12, zeroIn im (s.off + 12) 20)]

/-- The class of a flag that a core or context names (R236). -/
def flagClass (g : Program) (c : CtxId) (f : Nat) : Nat :=
  match (tableOf g.classes c)[f]? with | some k => k.toNat | none => 0

/-- Whether the program names a core as split. -/
def namesSplit (g : Program) (c : CoreId) : Bool := g.cores.any fun s => s.ctx.core = c && s.split
/-- Whether a core or context belongs to the program. -/
def inProgram (g : Program) (c : CtxId) : Bool := g.cores.any fun s => s.ctx = c

/-- Flags, queues and scratchpad bytes of a core or context of the program. -/
def flagsOf (g : Program) (c : CoreId) : Nat := if namesSplit g c then 128 else 256
def queuesOf (g : Program) (c : CoreId) : Nat := if namesSplit g c then 4 else 8
def padOf (g : Program) (c : CoreId) : Nat := if namesSplit g c then 2097152 else 4194304

/-- Whether a declaration is held by a core or context. -/
def holdsMono (g : Program) (c : CtxId) (m : MonoSpec) : Bool := (tableOf g.monos c).any (· = m)

/-- A monotonic declaration (R239, R240). -/
def monoChecks (d : Device) (p : PartId) (im : List Byte) (g : Program) (c : CtxId) (before : List Nat) (o : Nat) : Checks :=
  let m := parseMono im o
  let mirror : MonoSpec := { flag := m.pflag, consumer := !m.consumer, partner := c, pflag := m.flag, depth := m.depth }
  let dpt := le im (o + 8) 4
  [(o, decide (m.flag.toNat < flagsOf g c.core) && decide (flagClass g c m.flag.toNat = 0) && !before.any fun b => le im b 1 = m.flag.toNat),
   (o + 1, decide (le im (o + 1) 1 ≤ 1)),
   (o + 2, decide (le im (o + 2) 2 < 1024) && m.partner != c && decide (partOfCore d m.partner.core = p) && holdsMono g m.partner mirror),
   (o + 5, zeroIn im (o + 5) 3), (o + 8, decide (1 ≤ dpt) && decide (dpt ≤ 65535)), (o + 12, zeroIn im (o + 12) 4)]

/-- Fields that route and inbound entries of kinds 1 and 2 share: the target, its queue, quota, flag and
buffer (R260–R262 orders 1 to 4). flagClassWanted is 0 for a route and 2 for an inbound entry. -/
def channelChecks (im : List Byte) (g : Program) (o kind want : Nat) : Checks :=
  let t := ctxWord (le im (o + 2) 2)
  let fadd : Bool := le im (o + 1) 1 % 2 = 1
  let flag := le im (o + 6) 1
  let taddr := le im (o + 8) 4
  [(o + 1, decide (le im (o + 1) 1 ≤ 3)),
   (o + 2, decide (le im (o + 2) 2 < 1024) && inProgram g t),
   (o + 4, if kind = 1 then decide (le im (o + 4) 1 < queuesOf g t.core) else zeroIn im (o + 4) 1),
   (o + 5, if kind = 1 then decide (8 ≤ le im (o + 5) 1) && decide (le im (o + 5) 1 ≤ 57) else zeroIn im (o + 5) 1),
   (o + 6, if fadd then decide (flag < flagsOf g t.core) && decide (flagClass g t flag = want) else flag = 0),
   (o + 7, zeroIn im (o + 7) 1),
   (o + 8, if kind = 2 then taddr % 64 = 0 && decide (taddr + 512 ≤ padOf g t.core) else taddr = 0)]

/-- A route-table entry (R260, R262). -/
def routeChecks (d : Device) (p : PartId) (im : List Byte) (g : Program) (o : Nat) : Checks :=
  match le im o 1 with
  | 0 => [(o, zeroIn im o 16)]
  | 3 =>
    let own := decide (le im (o + 8) 4 = fabAddr d p) && (match g.inbound[le im (o + 12) 1]? with | some e => e.kind != 0 | none => false)
    [(o + 1, le im (o + 1) 1 = 0), (o + 2, zeroIn im (o + 2) 3),
     (o + 5, decide (8 ≤ le im (o + 5) 1) && decide (le im (o + 5) 1 ≤ 57)), (o + 6, zeroIn im (o + 6) 2),
     (o + 8, decide (le im (o + 8) 4 < 2 ^ 18) && !own), (o + 13, zeroIn im (o + 13) 3)]
  | k =>
    if k ≤ 2 then channelChecks im g o k 0 ++ [(o + 12, zeroIn im (o + 12) 4)]
    else [(o, false)]

/-- How many channels and inbound entries target a queue of a core or context. -/
def feeds (g : Program) (c : CtxId) (q : Nat) : Nat :=
  (g.routes.flatMap (·.2)).countP (fun r => r.kind = 1 && r.target = c && r.queue.val = q) +
  g.inbound.countP fun e => e.kind = 1 && e.target = c && e.queue.val = q

/-- An inbound-table entry (R261, R262). -/
def inboundChecks (im : List Byte) (g : Program) (o : Nat) : Checks :=
  match le im o 1 with
  | 0 => [(o, zeroIn im o 16)]
  | k =>
    if k ≤ 2 then
      let t := ctxWord (le im (o + 2) 2)
      channelChecks im g o k 2 ++
      [(o + 1, decide (le im (o + 1) 1 % 2 = 1)), (o + 4, k != 1 || feeds g t (le im (o + 4) 1) = 1),
       (o + 12, decide (le im (o + 12) 3 < 2 ^ 18)), (o + 15, zeroIn im (o + 15) 1)]
    else [(o, false)]

/-- Whether a memory range of n bytes at a core address lies in space 0x2, 0x3 or 0x4. DESIGN CHOICE: the last instance of a descriptor may lie
in another of them than the first (R281; log entry 119). -/
def memRange (d : Device) (p : PartId) (a : Int) (n : Nat) : Bool :=
  decide (0 ≤ a) && decide (a < 2 ^ 48) &&
    match resolve d p none a.toNat n with
    | .ok (.reservoir _) | .ok (.hbm _) | .ok (.cxl _) => true
    | _ => false

/-- Order of the dies on the rotation ring (R290): C0, C1, C3, C2. -/
def ringRank (k : Fin 4) : Nat := match k.val with | 0 => 0 | 1 => 1 | 3 => 2 | _ => 3

/-- The members of the rotation ring of a program, in ring order (R290). -/
def ringMembers (g : Program) : List CtxId :=
  ((List.range 4).flatMap fun r => (List.finRange 512).filter fun c => ringRank (dieOf c) = r).flatMap fun c =>
    ([0, 1] : List (Fin 2)).filterMap fun x => if inProgram g { core := c, ctx := x } then some { core := c, ctx := x } else none

/-- The entry after x in a cyclic list. -/
def nextIn (l : List CtxId) (x : CtxId) : CtxId :=
  match (l.dropWhile (· != x)).drop 1 with
  | y :: _ => y
  | [] => l.headD x

/-- The ring successor of a member (R290). -/
def ringNext (g : Program) (c : CtxId) : CtxId := nextIn (ringMembers g) c

/-- A stream descriptor of a core or context (R280, R281). -/
def streamChecks (d : Device) (p : PartId) (im : List Byte) (g : Program) (c : CtxId) (o : Nat) : Checks :=
  let kind := le im o 1
  if kind = 0 then [(o, zeroIn im o 64)]
  else if 3 < kind then [(o, false)]
  else
    let x := parseStream im o
    let size := padOf g c.core
    let n := x.bytes.toNat
    let next := if kind = 3 then ringNext g c else c
    let buffers := (x.swrap.toNat - 1) * x.sstride.toNat
    let flag := x.flag.toNat
    let memOk := fun (i : Nat) => memRange d p (x.maddr.toNat + i * x.mstride.toInt) n
    let span : Bool := decide (x.repeats.toNat * x.mstride.toInt.natAbs < 2 ^ 48)
    [(o + 1, decide (le im (o + 1) 1 ≤ 1)), (o + 2, decide (le im (o + 2) 2 < 1024) && ctxWord (le im (o + 2) 2) = c),
     (o + 4, if x.fadd then decide (flag < flagsOf g next.core) && decide (flagClass g next flag = 0) &&
         !(tableOf g.monos next).any fun m => m.flag.toNat = flag
       else flag = 0),
     (o + 5, zeroIn im (o + 5) 3),
     (o + 8, decide (x.maddr.toNat < 2 ^ 48) && x.maddr.toNat % 64 = 0 &&
       if kind = 3 then decide (x.maddr.toNat + buffers + n ≤ padOf g next.core) else span && memOk 0 && memOk x.repeats.toNat),
     (o + 16, x.saddr.toNat % 64 = 0 && decide (x.saddr.toNat + buffers + n ≤ size)),
     (o + 20, n % 64 = 0 && decide (64 ≤ n) && decide (n ≤ size)),
     (o + 32, x.period != 0 || x.repeats = 0),
     (o + 40, x.mstride.toNat % 64 = 0 && (kind != 3 || x.mstride = 0)),
     (o + 48, x.sstride.toNat % 64 = 0), (o + 52, x.swrap != 0), (o + 54, zeroIn im (o + 54) 10)]

/-- Entries of a section that are not all zero where zero entries are skipped (R107, R112). -/
def liveRecords (im : List Byte) (off size n : Nat) : List Nat := (records off size n).filter fun o => !zeroIn im o size

/-- The contents of one section of a core or context. -/
def coreSectChecks (d : Device) (p : PartId) (im : List Byte) (t : List Sect) (g : Program) (s : Sect) : Checks :=
  let c := sectCtx s
  let need : Checks := [(s.pos + 2, inProgram g c)]
  let sp := namesSplit g c.core
  match s.ty with
  | 1 => coreChecks im t s
  | 2 => need ++ [(s.off, decide (le im s.off 2 + le im (s.off + 2) 2 ≤ if sp then 8 else 16)), (s.off + 4, zeroIn im (s.off + 4) 12)]
  | 3 => need ++ (liveRecords im s.off 64 (s.len / 64)).flatMap (agChecks im)
  | 4 => need ++ (liveRecords im s.off 256 (s.len / 256)).flatMap (epChecks im)
  | 5 => need ++ (List.range s.len).map fun k => (s.off + k, (List.range 4).all fun j => le im (s.off + k) 1 / 4 ^ j % 4 != 3)
  | 6 => need ++ (List.range (s.len / 16)).flatMap fun k => monoChecks d p im g c (records s.off 16 k) (s.off + 16 * k)
  | 7 => need ++ (records s.off 16 (s.len / 16)).flatMap (routeChecks d p im g)
  | 8 => need ++ (records s.off 64 (s.len / 64)).flatMap (streamChecks d p im g c)
  | _ => []

/-! ### Contents of the sections of the domain -/

/-- A participant of a barrier entry (R114). -/
def participantOk (g : Program) (x : Participant) : Bool :=
  g.cores.any fun s => s.ctx = x.ctx && if x.execute then s.execute else s.access

/-- The barrier table (R114, R245). -/
def barChecks (d : Device) (p : PartId) (im : List Byte) (g : Program) (s : Sect) : Checks :=
  let os := barOffsets 65 im s.off (s.off + s.len)
  (List.range os.length).flatMap fun k =>
    let o := os.getD k 0
    let n := le im (o + 4) 2
    let grp := le im (o + 2) 2
    let words := records (o + 16) 4 n
    [(o, decide (le im o 1 < 64) && decide (partOfBar d (finMod 64 (le im o 1)) = p) && (os.take k).all fun b => decide (le im b 1 < le im o 1)),
     (o + 1, decide (le im (o + 1) 1 ≤ 1)), (o + 2, decide (grp ≤ 4095) && (le im (o + 1) 1 = 1 || grp = 0)),
     (o + 4, decide (1 ≤ n) && decide (n ≤ 2048)), (o + 6, zeroIn im (o + 6) 10),
     (o + 16 + 4 * n, zeroIn im (o + 16 + 4 * n) (barLen im o - 16 - 4 * n))] ++
    (List.range n).map fun j =>
      let w := o + 16 + 4 * j
      let v := le im w 4
      (w, decide (v < 2048) && participantOk g { ctx := ctxWord v, execute := v / 1024 % 2 = 1 } &&
        (words.take j).all fun u => le im u 4 != v)

/-- The refresh windows (R48). -/
def refreshChecks (im : List Byte) (g : Program) (s : Sect) : Checks :=
  (refreshOffsets im s).flatMap fun o =>
    [(o, g.barriers.any fun b => b.bctx.val = le im o 1), (o + 1, zeroIn im (o + 1) 3),
     (o + 4, decide (450 ≤ le im (o + 4) 4) && decide (le im (o + 4) 4 ≤ 65535))]

/-- The pace table (R112). -/
def paceChecks (im : List Byte) (s : Sect) : Checks :=
  [(s.off, decide (le im s.off 1 ≤ 64)), (s.off + 1, decide (le im (s.off + 1) 1 ≤ 1)), (s.off + 2, zeroIn im (s.off + 2) 2),
   (s.off + 8, zeroIn im (s.off + 8) 8)]

/-- The group table (R296). -/
def groupChecks (d : Device) (p : PartId) (im : List Byte) (s : Sect) : Checks :=
  (groupOffsets 16 im s.off (s.off + s.len)).flatMap fun o =>
    let n := le im o 4
    let ws := (records (o + 4) 4 n).map fun w => le im w 4
    [(o, decide (1 ≤ n) && decide (n ≤ 65536) && ws.contains (fabAddr d p))] ++
    (List.range n).map fun j => (o + 4 + 4 * j, decide (ws.getD j 0 < 2 ^ 18) && !(ws.take j).contains (ws.getD j 0))

/-- The layer table (R298). DEDUCED: as in the refresh windows of R112, a last entry of eight zero bytes is padding (log entry
82). -/
def layerChecks (im : List Byte) (s : Sect) : Checks :=
  (refreshOffsets im s).flatMap fun o =>
    [(o, decide (1 ≤ le im o 2)), (o + 2, decide (1 ≤ le im (o + 2) 1) && decide (le im (o + 2) 1 ≤ 64)),
     (o + 3, decide (le im (o + 3) 1 ≤ 254)), (o + 4, zeroIn im (o + 4) 4)]

/-- Elements of a layer, padded to a multiple of 32 (R298). -/
def layerElems (l : Layer) : Nat := (l.rows * l.rank + 31) / 32 * 32

/-- The layers of a descriptor, and its blocks B (R298). -/
def collLayers (g : Program) (x : CollDesc) : List Layer := (g.layers.drop x.lfirst).take x.lcount
def collBlocks (g : Program) (x : CollDesc) : Nat := ((collLayers g x).foldl (fun a l => a + layerElems l) 0) / 32

/-- First block of shard k; shard k ends where shard k + 1 begins (R307). -/
def shardStart (b n k : Nat) : Nat := k * b / n

/-- Bytes of an element in the input and output regions (R298, R299). -/
def inBytes (x : CollDesc) : Nat := if x.format = 3 then 16 else 4
def outBytes (x : CollDesc) : Nat := if x.format = 2 || x.format = 3 then 16 else 4

/-- Blocks of the input and of the output region; none where the size is "none" (R299). -/
def inRegion (x : CollDesc) (b n pos : Nat) : Option Nat :=
  match x.kind.toNat with
  | 3 => some (shardStart b n (pos + 1) - shardStart b n pos)
  | 5 => if pos = x.root then some b else none
  | _ => some b
def outRegion (x : CollDesc) (b n pos : Nat) : Option Nat :=
  match x.kind.toNat with
  | 2 => some (shardStart b n (pos + 1) - shardStart b n pos)
  | 4 => if pos = x.root then some b else none
  | _ => some b

/-- R299. -/
def collCombination (x : CollDesc) : Bool :=
  let f := x.format.toNat
  let o := x.order.toNat
  match x.kind.toNat with
  | 1 | 4 => decide (f ≤ 3) && (decide (o ≤ 1) || (o = 2 && f = 0))
  | 2 => decide (f ≤ 3) && o = 0
  | 3 => f = 4 && o = 0
  | 5 => f = 4 && decide (o ≤ 1)
  | _ => false

/-- A collective descriptor (R297–R300), with those before it. DESIGN CHOICE: of an unused one its reserved bits alone are checked (log entry
120). -/
def collChecks (d : Device) (p : PartId) (im : List Byte) (g : Program) (before : List CollDesc) (layerOff o : Nat) : Checks :=
  let x := parseColl im o layerOff g.groups
  if x.kind = 0 then [(o + 8, decide (le im (o + 8) 2 < 1024)), (o + 48, zeroIn im (o + 48) 16)]
  else
    let f := x.format.toNat
    let grp := collGroup g x
    let n := grp.length
    let pos := positionOf grp (fabAddr d p)
    let b := collBlocks g x
    let share := reservoirShare d
    let size := fun (r : Option Nat) (w : Nat) => r.getD 0 * 32 * w
    let isz := size (inRegion x b n pos) (inBytes x)
    let osz := size (outRegion x b n pos) (outBytes x)
    let place := fun (a sz : Nat) => a % 64 = 0 && decide (a + sz ≤ share)
    let rooted : Bool := x.kind = 4 || x.kind = 5 || x.order = 1
    [(o, decide (1 ≤ x.kind.toNat) && decide (x.kind.toNat ≤ 5) && collCombination x), (o + 1, decide (f ≤ 4)), (o + 2, decide (x.order.toNat ≤ 2)),
     (o + 3, f = 2 || f = 3 || x.anchor = 0),
     (o + 4, if f = 1 then decide (1 ≤ x.step.toNat) && decide (x.step.toNat ≤ 8) else x.step = 0),
     (o + 5, if f = 1 then decide (x.reruns.toNat ≤ 3) else x.reruns = 0),
     (o + 6, !before.any fun y => y.kind != 0 && y.cid = x.cid),
     (o + 8, decide (le im (o + 8) 2 < 1024) && inProgram g x.core),
     (o + 10, decide (x.flag.toNat < flagsOf g x.core.core) && decide (flagClass g x.core x.flag.toNat = 2)),
     (o + 12, if rooted then decide (x.root < n) else x.root = 0),
     (o + 14, decide (x.lfirst + x.lcount ≤ g.layers.length)), (o + 16, decide (1 ≤ x.lcount) && decide (x.lcount ≤ 256) &&
       (collLayers g x).all fun l => decide (1 ≤ l.rows) && if f = 1 then decide (l.scale.toNat + x.reruns.toNat * x.step.toNat ≤ 254) else l.scale = 0),
     (o + 18, decide (x.group < g.groups.length)),
     (o + 20, place x.iaddr isz && ((inRegion x b n pos).isSome || x.iaddr = 0)),
     (o + 24, place x.oaddr osz && ((outRegion x b n pos).isSome || x.oaddr = 0) && !meets x.iaddr isz x.oaddr osz),
     (o + 28, place x.raddr 32 && !meets x.iaddr isz x.raddr 32 && !meets x.oaddr osz x.raddr 32),
     (o + 40, x.period != 0 || x.repeats = 0), (o + 48, zeroIn im (o + 48) 16)]

/-- The contents of one section of the domain. -/
def domSectChecks (d : Device) (p : PartId) (im : List Byte) (t : List Sect) (g : Program) (s : Sect) : Checks :=
  match s.ty with
  | 0x10 => (records s.off 16 (s.len / 16)).flatMap (inboundChecks im g)
  | 0x11 => barChecks d p im g s
  | 0x12 => refreshChecks im g s
  | 0x13 => paceChecks im s
  | 0x14 => groupChecks d p im s
  | 0x15 => (List.range (s.len / 64)).flatMap fun k =>
      collChecks d p im g (g.colls.take k) ((findSect t 0x16 0xFFFF).elim 0 (·.off)) (s.off + 64 * k)
  | 0x16 => layerChecks im s
  | _ => []

/-- Step 3 of R115: the contents, with TD_SPLIT (R276) and the watchdog limit (R244). -/
def contentChecks (d : Device) (p : PartId) (im : List Byte) (g : Program) : Checks :=
  let t := sectTable im
  let w := le im 12 4
  [(8, decide (le im 8 1 < 4)), (12, w = 0 || decide (256 ≤ w))] ++
    t.flatMap fun s => coreSectChecks d p im t g s ++ domSectChecks d p im t g s

/-! ### Capacity, cycles, bindings (R54, R262, R263, R281, R297, R391, R425) -/

/-- One term of R54, as numerator and denominator in ticks per ns; a denominator of zero or less has no
finite frequency that meets it. -/
def floorTerms (pc : Pace) : List (Int × Int) :=
  (((0, 0) :: pc.points).zip pc.points).map fun (a, b) =>
    ((b.1 : Int) - a.1 + pc.reserve.toNat, (b.2 : Int) - a.2)

/-- The frequency floor in kHz, rounded up; none above 1.05 GHz (R54). -/
def floorKHz (pc : Pace) : Option Nat :=
  (floorTerms pc).foldl (fun (a : Option Nat) (t : Int × Int) => match a with
    | none => none
    | some m =>
      if t.2 ≤ 0 then none
      else
        let k : Int := (t.1 * 1000000 + t.2 - 1) / t.2
        if 1050000 < k then none else some (max m k.toNat)) (some 700000)

/-- The floor of a binary: zero for an unpaced one. -/
def programFloor (g : Program) : Option Nat := match g.pace with | none => some 0 | some pc => floorKHz pc

/-- Units reserved on a queue (R262 order 6). -/
def quotaSum (g : Program) (c : CtxId) (q : Nat) : Nat :=
  ((g.routes.flatMap (·.2)).filter fun r => r.kind = 1 && r.target = c && r.queue.val = q).foldl (fun a r => a + r.quota) 0 +
  (g.inbound.filter fun e => e.kind = 1 && e.target = c && e.queue.val = q).foldl (fun a e => a + e.quota) 0

/-- Whether the binary exceeds a capacity. -/
def overCapacity (d : Device) (i : DomId) (g : Program) (floor : Option Nat) : Bool :=
  let streams := g.streams.any fun e => decide ((if namesSplit g e.1.core then 32 else 64) < e.2.length)
  let quotas := g.cores.any fun s => (List.range 8).any fun q => decide (57 < quotaSum g s.ctx q)
  match floor with
  | none => true
  | some k =>
    let code := max (floorCode { getPart d i.part with doms := vmod (getPart d i.part).doms i.dom fun m => { m with prog := none } }) ((k + 4999) / 5000)
    let total := reserveTotal d - partReserve d i.part + (pondsOf d i.part).length * pondReserve code
    streams || decide (16 < g.colls.length) || quotas || decide (100 * d.power.limitW.toNat < total)

/-- Removes every edge whose source no edge enters, n times. -/
def peel : Nat → List (CtxId × CtxId) → List (CtxId × CtxId)
  | 0, es => es
  | n + 1, es => peel n (es.filter fun e => es.any fun f => f.2 = e.1)

/-- A cycle in the channel graph (R263). -/
def routeCycle (g : Program) : Bool :=
  let es := g.routes.flatMap fun r => (r.2.filter fun e => e.kind = 1).map fun e => (r.1, e.target)
  !(peel (g.cores.length + 1) es).isEmpty

/-- The domains of the partition other than d that hold a core or context of the program (R391). -/
def holders (d : Device) (i : DomId) (g : Program) : List (Fin 16) :=
  (List.finRange 16).filter fun e => e != i.dom && g.cores.any fun s => (getUnit d s.ctx).bound = some e

/-- The cores and contexts bound to a domain. -/
def boundTo (d : Device) (p : PartId) (e : Fin 16) : List CtxId :=
  (coresOf d p).flatMap fun c => ([0, 1] : List (Fin 2)).filterMap fun x =>
    if (getUnit d { core := c, ctx := x }).bound = some e then some { core := c, ctx := x } else none

/-- RESOURCE_BUSY (R245, R391). -/
def loadBusy (d : Device) (i : DomId) (g : Program) : Bool :=
  let hs := holders d i g
  hs.any (fun e =>
    let st := (getDom d { part := i.part, dom := e }).st
    st = .loading || domState d { part := i.part, dom := e } = .running || !(boundTo d i.part e).all (inProgram g)) ||
  g.cores.any (fun s => let k := getCore d s.ctx.core; k.fixed && k.split != s.split) ||
  g.barriers.any fun b => match (getBar d b.bctx).claim with
    | none => false
    | some w => w != i && !(w.part = i.part && hs.contains w.dom)

/-- Whether a binary needs the fabric (R343). -/
def needsFabric (g : Program) : Bool :=
  (g.routes.any fun r => r.2.any fun e => e.kind = 3) || g.inbound.any (fun e => e.kind != 0) ||
    g.barriers.any (fun b => b.extended) || g.groups.any fun l => decide (1 < l.length)

/-- The outcome of the checks of a whole-program load (R115, R390): the status, and the offset reported
with BAD_DESCRIPTOR. -/
def loadStatus (d : Device) (i : DomId) (im : List Byte) : Status × Nat :=
  let contract := le im 6 1 = 1 && (le im 7 1 != 0 || slice im 16 48 = digestBytes d.sec.spDigest)
  if !contract then (.latencyMismatch, 0)
  else match firstFail (structureChecks d i.part im) with
    | some o => (.badDescriptor, o)
    | none =>
      let g := parseProgram im
      match firstFail (contentChecks d i.part im g) with
      | some o => (.badDescriptor, o)
      | none =>
        if overCapacity d i g (programFloor g) then (.capacity, 0)
        else if routeCycle g then (.routeCycle, 0)
        else if loadBusy d i g then (.resourceBusy, 0)
        else if needsFabric g && !d.fab.valid then (.fabricUnreachable, 0)
        else (.ok, 0)

/-! ### Installation (R74, R391) -/

/-- Pages of a core or context, as physical page numbers. -/
def pagesOf (split : Bool) (ctx : Fin 2) : List (Fin 16) :=
  if split then (List.range 8).map fun k => finMod 16 (8 * ctx.val + k) else List.finRange 16

/-- Puts a bundle into instruction memory; the list keeps rising addresses and no zero bundle. -/
def imemPut : List (Nat × RawBundle) → Nat → RawBundle → List (Nat × RawBundle)
  | [], a, b => if b = 0 then [] else [(a, b)]
  | (k, x) :: rest, a, b =>
    if a < k then (if b = 0 then (k, x) :: rest else (a, b) :: (k, x) :: rest)
    else if a = k then (if b = 0 then rest else (a, b) :: rest)
    else (k, x) :: imemPut rest a b

/-- The bundle at a physical address. -/
def imemAt (l : List (Nat × RawBundle)) (a : Nat) : RawBundle := match l.find? fun e => e.1 = a with | some e => e.2 | none => 0

/-- Writes bundles from a physical address on; their parity is sound. -/
def imemFill (k : Core) : Nat → List RawBundle → Core
  | _, [] => k
  | a, b :: bs => imemFill { k with imem := imemPut k.imem a b, imemBad := k.imemBad.filter (· != a) } (a + 1) bs

/-- Sets the states of pages. -/
def setPages (k : Core) (ps : List (Fin 16)) (st : PageState) : Core :=
  { k with pages := ps.foldl (fun v p => vset v p st) k.pages }

/-- The physical pages of a pages section. -/
def sectPages (split : Bool) (s : PageSect) : List (Fin 16) :=
  (List.range s.count).map fun j => finMod 16 (s.first + j + if split && s.ctx.ctx = 1 then 8 else 0)

/-- Fills the pages of a section. -/
def fillPages (split : Bool) (k : Core) (s : PageSect) : Core :=
  setPages (imemFill k (256 * (s.first + if split && s.ctx.ctx = 1 then 8 else 0)) s.bundles) (sectPages split s) .loaded

/-- Replaces a context's part of a table of 256. -/
def setClasses (v : Vector (BitVec 2) 256) (split : Bool) (ctx : Fin 2) (l : List (BitVec 2)) : Vector (BitVec 2) 256 :=
  vmapi v fun f x =>
    if !split then l.getD f.val 0
    else if f.val / 128 = ctx.val then l.getD (f.val % 128) 0 else x

/-- Binds a core or context to a domain and installs its parts of the binary. -/
def installCore (i : DomId) (g : Program) (d : Device) (s : CoreSect) : Device :=
  let c := s.ctx
  modCore d c.core fun k =>
    let k := { k with split := s.split, fixed := true }
    let k := setPages k (pagesOf s.split c.ctx) .empty
    let k := (g.pages.filter fun q => q.ctx = c).foldl (fillPages s.split) k
    let monos := (tableOf g.monos c).map fun m =>
      ({ ctx := c.ctx, flag := m.flag, consumer := m.consumer, partner := m.partner.core, partnerCtx := m.partner.ctx, pflag := m.pflag, depth := m.depth, sent := 0 } : MonoDecl)
    { k with classes := setClasses k.classes s.split c.ctx (tableOf g.classes c)
             monos := (k.monos.filter fun m => m.ctx != c.ctx) ++ monos
             toldClasses := setClasses k.toldClasses s.split c.ctx (tableOf g.classes c)
             toldMonos := (k.toldMonos.filter fun m => m.ctx != c.ctx) ++ monos
             units := vmod k.units c.ctx fun u => { u with bound := some i.dom, stream := { u.stream with split := g.tdSplit } } }

/-- Releases a core or context: unbound, its pages EMPTY, its class and declaration tables empty. -/
def releaseCore (d : Device) (c : CtxId) : Device :=
  modCore d c.core fun k =>
    let k := setPages k (pagesOf k.split c.ctx) .empty
    { k with classes := setClasses k.classes k.split c.ctx [], monos := k.monos.filter fun m => m.ctx != c.ctx,
             toldClasses := setClasses k.toldClasses k.split c.ctx [], toldMonos := k.toldMonos.filter fun m => m.ctx != c.ctx,
             units := vmod k.units c.ctx fun u => { u with bound := none } }

/-- Claims a barrier context for a domain (R245). -/
def claimBarrier (i : DomId) (d : Device) (b : BarEntry) : Device :=
  modBar d b.bctx fun _ =>
    { Barrier.reset with
      claim := some i, extended := b.extended, group := b.group,
      parts := b.parts.map fun w => { who := w, arrivals := 0, reached := 0, left := 0, heldNext := false, leaving := false, nextAt := 0 } }

/-- Installs a binary that has passed every check. -/
def installProgram (d : Device) (i : DomId) (g : Program) : Device :=
  let d := forAll (holders d i g) d fun d e => emptyDomain (endHalted d { part := i.part, dom := e }) { part := i.part, dom := e }
  let d := forAll (boundTo d i.part i.dom) d releaseCore
  let d := { d with barriers := d.barriers.map fun b => if b.claim = some i then Barrier.reset else b }
  let d := forAll g.cores d fun d s => releaseCore d s.ctx
  let d := forAll g.cores d (installCore i g)
  let d := forAll g.barriers d (claimBarrier i)
  modDom d i fun _ =>
    { Domain.reset with st := .loaded, prior := .loaded, prog := some { g with floorKHz := (programFloor g).getD 0 } }

/-- The end of a whole-program load (R390): the binary is read, checked and installed, or the domain
returns to its previous state; a core that is held in reset answers with an error (R401). -/
def loadDone (d : Device) (i : DomId) (hostOk : Bool) : Device :=
  match d.cmds.find? fun c => c.hdr.part = i.part && c.hdr.dom = i.dom && match c.job with | .loadProgram _ _ => true | _ => false with
  | none => d
  | some c => match c.job with
    | .loadProgram haddr hlen =>
      let back := fun (d : Device) => modPart (modDom d i fun m => { m with st := m.prior }) i.part fun x =>
        if (getDom d i).prior = .empty then { x with emptySince := elapsedNs d } else x
      let (ok, d) := hostAccess d c.hdr.ring true hostOk
      if !ok then completeCmd (back d) c.handle .isolatedError 0 []
      else
        let im := readBytes d .host haddr.toNat hlen.toNat
        match loadStatus d i im with
        | (.ok, _) =>
          let g := parseProgram im
          if g.cores.any fun s => (getCore d s.ctx.core).inReset then isolateCmd (back d) c
          else completeCmd (installProgram d i g) c.handle .ok 0
            (leBytes 8 ((programFloor g).getD 0) ++ leBytes 8 (g.digest.toNat % 2 ^ 64))
        | (st, o) => completeCmd (back d) c.handle st 0 (leBytes 16 o)
    | _ => d

def execLoadProgramDone (d : DomId) (hostOk : Bool) (s : State) : Host.Outcome State Fault Refusal :=
  onDev (fun x => loadDone x d hostOk) s

/-! ### Overlays (R76, R116) -/

/-- The pages sections of an overlay image. -/
def overlaySects (im : List Byte) : List Sect := sectsFrom im 64 (le im 6 2)

/-- The checks of an overlay image (R116). -/
def overlayChecks (d : Device) (i : DomId) (im : List Byte) : Checks :=
  let g := (getDom d i).prog
  let n := le im 6 2
  let head : Checks :=
    [(0, decide (le im 0 4 = 0x564F4C43)), (4, decide (le im 4 2 = 1)),
     (6, decide (1 ≤ n) && decide (n ≤ 1024) && decide (64 + 16 * n ≤ im.length)),
     (8, match g with | some g => slice im 8 48 = digestBytes g.digest | none => false), (56, zeroIn im 56 8)]
  if (firstFail head).isSome then head
  else
    let t := overlaySects im
    head ++ (List.range t.length).flatMap fun k => match t[k]? with
      | none => []
      | some s =>
        let c := sectCtx s
        let split := isSplit d c.core
        let within := s.off % 16 = 0 && decide (64 + 16 * n ≤ s.off) && decide (s.off + s.len ≤ im.length)
        [(s.pos, s.ty = 2 && !(t.take k).any fun b => b.id = s.id),
         (s.pos + 2, decide (s.id < 1024) && match g with | some g => inProgram g c | none => false),
         (s.pos + 4, within && (t.take k).all fun b => !meets s.off s.len b.off b.len),
         (s.pos + 8, s.len % 16 = 0 && (!within || s.len = 16 + 12288 * le im (s.off + 2) 2)), (s.pos + 12, zeroIn im (s.pos + 12) 4),
         (s.off, !within || decide (le im s.off 2 + le im (s.off + 2) 2 ≤ if split then 8 else 16)),
         (s.off + 4, !within || zeroIn im (s.off + 4) 12)]

/-- Target pages of an overlay image. -/
def overlayPages (d : Device) (im : List Byte) : List (CoreId × Fin 16) :=
  (overlaySects im).flatMap fun s =>
    let q := parsePages im s
    (sectPages (isSplit d q.ctx.core) q).map fun k => (q.ctx.core, k)

end Sys2Proof.Machine
end

