-- ==== Sys2Proof/Machine/Numerics.lean ====
section
/-! DEFINITION. Numbers (R163–R182): the formats, exact arithmetic, rounding, conversions, block
quantisation, stochastic rounding and tarns. Every value is exact until it is rounded once. -/

namespace Sys2Proof.Machine

/-! ### Values and formats (R164) -/

/-- A floating-point format by its fields; codes are magnitudes, without the sign bit. -/
structure Fmt where
  width : Nat
  man   : Nat
  bias  : Nat
  /-- The largest finite magnitude. -/
  top   : Nat
  infty : Option Nat
  nanCode : Option Nat
deriving DecidableEq, Repr, Inhabited

def fp32 : Fmt := { width := 32, man := 23, bias := 127, top := 0x7F7FFFFF, infty := some 0x7F800000, nanCode := some 0x7FC00000 }
def bf16 : Fmt := { width := 16, man := 7, bias := 127, top := 0x7F7F, infty := some 0x7F80, nanCode := some 0x7FC0 }
def fp16 : Fmt := { width := 16, man := 10, bias := 15, top := 0x7BFF, infty := some 0x7C00, nanCode := some 0x7E00 }
def e5m2 : Fmt := { width := 8, man := 2, bias := 15, top := 0x7B, infty := some 0x7C, nanCode := some 0x7E }
def e4m3 : Fmt := { width := 8, man := 3, bias := 7, top := 0x7E, infty := none, nanCode := some 0x7F }
def e3m2 : Fmt := { width := 6, man := 2, bias := 3, top := 0x1F, infty := none, nanCode := none }
def e2m3 : Fmt := { width := 6, man := 3, bias := 1, top := 0x1F, infty := none, nanCode := none }
def e2m1 : Fmt := { width := 4, man := 1, bias := 1, top := 7, infty := none, nanCode := none }

/-- The sign bit of a format's code. -/
def signBit (f : Fmt) : Nat := 2 ^ (f.width - 1)

/-- Whether a magnitude is a NaN. -/
def isNanMag (f : Fmt) (c : Nat) : Bool :=
  match f.infty, f.nanCode with
  | some i, _ => decide (i < c)
  | none, some n => decide (c = n)
  | none, none => false

/-- The value of a code. -/
def decodeNum (f : Fmt) (code : Nat) : Num :=
  let neg := decide (signBit f ≤ code % 2 ^ f.width)
  let c := code % signBit f
  if isNanMag f c then .nan
  else if f.infty = some c then .inf neg
  else
    let ex := c / 2 ^ f.man
    let m := c % 2 ^ f.man
    if ex = 0 then .fin neg m (1 - f.bias - f.man) else .fin neg (2 ^ f.man + m) (ex - f.bias - f.man)

/-- The code of a signed magnitude. -/
def withSign (f : Fmt) (neg : Bool) (mag : Nat) : Nat := if neg then signBit f + mag else mag

/-! ### Flags (R172) -/

abbrev NFlags := Byte
def flagO : NFlags := 1
def flagV : NFlags := 2
def flagT : NFlags := 4

/-! ### Rounding (R173, R174, R177) -/

/-- How a discarded part is treated: nearest even, toward zero, or by a stochastic draw. -/
inductive Rnd where
  | nearest | zero | draw (r : W32)
deriving DecidableEq, Repr, Inhabited

/-- Rounds n / k to an integer. -/
def roundDiv (rnd : Rnd) (n k : Nat) : Nat :=
  let q := n / k
  let r := n % k
  match rnd with
  | .nearest => if k < 2 * r || (2 * r = k && q % 2 = 1) then q + 1 else q
  | .zero => q
  | .draw w => if 2 ^ 32 ≤ r * 2 ^ 32 / k + w.toNat then q + 1 else q

/-- n / k × 2^s as a fraction of naturals. -/
def scaled (n k : Nat) (s : Int) : Nat × Nat := if 0 ≤ s then (n * 2 ^ s.toNat, k) else (n, k * 2 ^ (-s).toNat)

/-- ⌊log₂ (n / k)⌋ for positive n and k. -/
def floorLog (n k : Nat) : Int :=
  let d : Int := (Nat.log2 n : Int) - Nat.log2 k
  let (a, b) := scaled n k (-d)
  if a < b then d - 1 else d

/-- The magnitude of n / k × 2^e rounded to a format, as though its exponent range had no upper end. -/
def roundMag (f : Fmt) (rnd : Rnd) (n k : Nat) (e : Int) : Nat :=
  if n = 0 then 0
  else
    let least : Int := 1 - f.bias - f.man
    let u := max (floorLog n k + e - f.man) least
    let (a, b) := scaled n k (e - u)
    let q := roundDiv rnd a b
    if q < 2 ^ f.man then q else ((u + f.man + f.bias).toNat) * 2 ^ f.man + (q - 2 ^ f.man)

/-- A rounded magnitude with overflow: to infinity (NaN in E4M3, R173 code 1) or to the largest value; O in every case, as in the
worked overflow of 500.0. -/
def finish (f : Fmt) (toInf : Bool) (neg : Bool) (mag : Nat) : Nat × NFlags :=
  if mag ≤ f.top then (withSign f neg mag, 0)
  else if toInf then
    match f.infty, f.nanCode with
    | some i, _ => (withSign f neg i, flagO)
    | none, some n => (n, flagO)
    | none, none => (withSign f neg f.top, flagO)
  else (withSign f neg f.top, flagO)

/-- The canonical NaN of a format (R170); a format without NaN has none, and zero stands for it. -/
def nanOf (f : Fmt) : Nat := f.nanCode.getD 0

/-- A code with a NaN in its canonical form: the sign and payload of an input NaN reach no result (R170). -/
def canonical (f : Fmt) (code : Nat) : Nat := if isNanMag f (code % signBit f) then nanOf f else code

/-- An infinite value in a format (R173): a saturated one raises O, and V where the format holds no
infinity (R172). -/
def infOf (f : Fmt) (toInf neg : Bool) : Nat × NFlags :=
  if toInf then
    match f.infty, f.nanCode with
    | some i, _ => (withSign f neg i, 0)
    | none, some n => (n, flagV)
    | none, none => (withSign f neg f.top, flagO ||| flagV)
  else (withSign f neg f.top, if f.infty.isSome then flagO else flagO ||| flagV)

/-- A value rounded once to a format. -/
def roundNum (f : Fmt) (rnd : Rnd) (toInf : Bool) (x : Num) : Nat × NFlags :=
  match x with
  | .nan => (nanOf f, flagV)
  | .inf neg => infOf f toInf neg
  | .fin neg m e => finish f toInf neg (roundMag f rnd m 1 e)

/-- Rounding of the arithmetic operations: nearest even, overflow to infinity (R171). -/
def rne (f : Fmt) (x : Num) : Nat × NFlags := roundNum f .nearest true x

/-! ### Exact arithmetic (R171) -/

/-- The integer of a signed magnitude. -/
def signedNat (neg : Bool) (m : Nat) : Int := if neg then -(m : Int) else m

/-- An exact sum of finite values; zero is +0 unless both are −0. -/
def addFin (n1 : Bool) (m1 : Nat) (e1 : Int) (n2 : Bool) (m2 : Nat) (e2 : Int) : Num :=
  let e := min e1 e2
  let s := signedNat n1 m1 * 2 ^ (e1 - e).toNat + signedNat n2 m2 * 2 ^ (e2 - e).toNat
  if s = 0 then .fin (n1 && n2 && m1 = 0 && m2 = 0) 0 e else .fin (decide (s < 0)) s.natAbs e

def addNum (x y : Num) : Num :=
  match x, y with
  | .nan, _ => .nan
  | _, .nan => .nan
  | .inf a, .inf b => if a = b then .inf a else .nan
  | .inf a, _ => .inf a
  | _, .inf b => .inf b
  | .fin n1 m1 e1, .fin n2 m2 e2 => addFin n1 m1 e1 n2 m2 e2

def negNum : Num → Num
  | .nan => .nan
  | .inf a => .inf !a
  | .fin n m e => .fin (!n) m e

def absNum : Num → Num
  | .nan => .nan
  | .inf _ => .inf false
  | .fin _ m e => .fin false m e

def mulNum (x y : Num) : Num :=
  match x, y with
  | .nan, _ => .nan
  | _, .nan => .nan
  | .inf a, .inf b => .inf (a != b)
  | .inf a, .fin b m _ => if m = 0 then .nan else .inf (a != b)
  | .fin a m _, .inf b => if m = 0 then .nan else .inf (a != b)
  | .fin n1 m1 e1, .fin n2 m2 e2 => .fin (n1 != n2) (m1 * m2) (e1 + e2)

/-- Whether a finite or infinite value is below another; −0 equals +0, NaN is unordered. -/
def ltNum (x y : Num) : Bool :=
  match x, y with
  | .nan, _ => false
  | _, .nan => false
  | .inf a, .inf b => a && !b
  | .inf a, .fin _ _ _ => a
  | .fin _ _ _, .inf b => !b
  | .fin n1 m1 e1, .fin n2 m2 e2 =>
    let e := min e1 e2
    decide (signedNat n1 m1 * 2 ^ (e1 - e).toNat < signedNat n2 m2 * 2 ^ (e2 - e).toNat)

def isNan : Num → Bool
  | .nan => true
  | _ => false

def eqNum (x y : Num) : Bool := !isNan x && !isNan y && !ltNum x y && !ltNum y x

def signNum : Num → Bool
  | .nan => false
  | .inf a => a
  | .fin n _ _ => n

/-- IEEE 754-2019 minimum: NaN wins, −0 is below +0. -/
def minNum (x y : Num) : Num :=
  if isNan x || isNan y then .nan
  else if ltNum x y then x else if ltNum y x then y else if signNum x then x else y

def maxNum (x y : Num) : Num :=
  if isNan x || isNan y then .nan
  else if ltNum x y then y else if ltNum y x then x else if signNum x then y else x

/-- Division rounded once to a format; the flags of R172. -/
def divNum (f : Fmt) (x y : Num) : Nat × NFlags :=
  match x, y with
  | .nan, _ => (nanOf f, flagV)
  | _, .nan => (nanOf f, flagV)
  | .inf _, .inf _ => (nanOf f, flagV)
  | .inf a, .fin b _ _ => infOf f true (a != b)
  | .fin a _ _, .inf b => (withSign f (a != b) 0, 0)
  | .fin a m1 e1, .fin b m2 e2 =>
    if m2 = 0 then
      if m1 = 0 then (nanOf f, flagV) else ((infOf f true (a != b)).1, flagO)
    else if m1 = 0 then (withSign f (a != b) 0, 0)
    else finish f true (a != b) (roundMag f .nearest m1 m2 (e1 - e2))

/-- √(n / k) × 2^e with a sticky last bit: enough digits to round any format here. -/
def rootDigits (n k : Nat) : Nat :=
  let a := n * 2 ^ 400 / k
  let s := Nat.sqrt a
  if s * s = a && n * 2 ^ 400 % k = 0 then 2 * s else 2 * s + 1

/-- Square root of a non-negative fraction n / k × 2^e, e even, rounded to a format. -/
def rootRound (f : Fmt) (n k : Nat) (e : Int) : Nat × NFlags :=
  finish f true false (roundMag f .nearest (rootDigits n k) 1 (e / 2 - 201))

/-- m × 2^e with an even exponent. -/
def evenExp (m : Nat) (e : Int) : Nat × Int := if e % 2 = 0 then (m, e) else (2 * m, e - 1)

def sqrtNum (f : Fmt) (x : Num) : Nat × NFlags :=
  match x with
  | .nan => (nanOf f, flagV)
  | .inf a => if a then (nanOf f, flagV) else infOf f true false
  | .fin n m e =>
    if m = 0 then (withSign f n 0, 0)
    else if n then (nanOf f, flagV)
    else let (m, e) := evenExp m e; rootRound f m 1 e

def rsqrtNum (f : Fmt) (x : Num) : Nat × NFlags :=
  match x with
  | .nan => (nanOf f, flagV)
  | .inf a => if a then (nanOf f, flagV) else (0, 0)
  | .fin n m e =>
    if m = 0 then ((infOf f true n).1, flagO)
    else if n then (nanOf f, flagV)
    else let (m, e) := evenExp m e; rootRound f 1 m (-e)

/-! ### FP32 on its codes -/

def d32 (x : W32) : Num := decodeNum fp32 x.toNat
/-- A rounded result as an FP32 word. -/
def w32 (r : Nat × NFlags) : W32 × NFlags := (BitVec.ofNat 32 r.1, r.2)
def nan32 : W32 := 0x7FC00000
def add32 (x y : W32) : W32 × NFlags := w32 (rne fp32 (addNum (d32 x) (d32 y)))

/-! ### Conversions to integers (R175) -/

/-- A finite value rounded to an integer. -/
def roundInt (rnd : Rnd) (neg : Bool) (m : Nat) (e : Int) : Int :=
  let (a, b) := scaled m 1 e
  signedNat neg (roundDiv rnd a b)

/-- Clamps an integer to a signed range of w bits: the value and whether it was out of range. -/
def clampInt (w : Nat) (x : Int) : Int × Bool :=
  if x < -(2 ^ (w - 1)) then (-(2 ^ (w - 1)), true) else if (2 ^ (w - 1)) ≤ x then (2 ^ (w - 1) - 1, true) else (x, false)

/-- A value to INT8 or INT32: out of range and infinite saturate with O (and, infinite, with
V of R172); NaN is 0 with V. -/
def toInt (w : Nat) (rnd : Rnd) (x : Num) : Nat × NFlags :=
  match x with
  | .nan => (0, flagV)
  | .inf a => ((BitVec.ofInt w (if a then -(2 ^ (w - 1)) else 2 ^ (w - 1) - 1)).toNat, flagO ||| flagV)
  | .fin n m e =>
    let (v, o) := clampInt w (roundInt rnd n m e)
    ((BitVec.ofInt w v).toNat, if o then flagO else 0)

/-- The value of a two's-complement integer of w bits. -/
def ofInt (w : Nat) (c : Nat) : Num :=
  let v := (BitVec.ofNat w c).toInt
  .fin (decide (v < 0)) v.natAbs 0

/-! ### Format codes (R100) -/

/-- The formats of the matrix and vector fields. -/
inductive Kind where
  | float (f : Fmt)
  | int (w : Nat)
  | mxint
deriving DecidableEq, Repr, Inhabited

def fmtKind (c : Nat) : Option Kind :=
  match c with
  | 0 | 3 => some (.float e4m3)
  | 1 | 4 => some (.float e5m2)
  | 2 => some (.int 8)
  | 5 => some (.float e3m2)
  | 6 => some (.float e2m3)
  | 7 => some (.float e2m1)
  | 8 => some .mxint
  | 9 => some (.float bf16)
  | 0xA => some (.float fp16)
  | 0xB => some (.float fp32)
  | 0xC => some (.int 32)
  | _ => none

/-- Element width in bits of a format code. -/
def fmtWidth (c : Nat) : Nat :=
  match c with
  | 5 | 6 => 6
  | 7 => 4
  | 9 | 0xA => 16
  | 0xB | 0xC => 32
  | _ => 8

def fmtMx (c : Nat) : Bool := decide (3 ≤ c) && decide (c ≤ 8)

/-- The value of an element; an MXINT8 element n is n × 2⁻⁶ (R165). -/
def elemNum (c : Nat) (code : Nat) : Num :=
  match fmtKind c with
  | some (.float f) => decodeNum f code
  | some (.int w) => ofInt w code
  | some .mxint => match ofInt 8 code with | .fin n m e => .fin n m (e - 6) | x => x
  | none => .nan

/-- The value of a scale code: NaN for 0xFF (R166). -/
def scaleNum (c : Byte) : Num := if c = 0xFF then .nan else .fin false 1 (c.toNat - 127)

/-! ### Conversion between FP32 and narrow formats (R173–R175) -/

/-- The rounding of a control code and whether overflow goes to infinity (R173). r is the draw. -/
def rndOf (code : Nat) (r : W32) : Rnd × Bool :=
  match code with
  | 0 => (.nearest, false)
  | 1 => (.nearest, true)
  | 2 => (.zero, false)
  | _ => (.draw r, false)

/-- One conversion of a value into a destination format. -/
def convertTo (dst : Nat) (rnd : Nat) (r : W32) (x : Num) : Nat × NFlags :=
  let (m, toInf) := rndOf rnd r
  match fmtKind dst with
  | some (.float f) => roundNum f m toInf x
  | some (.int w) => toInt w m x
  | _ => (0, 0)

/-! ### Block quantisation (R167) -/

/-- e_max of the element formats. -/
def eMax (c : Nat) : Int :=
  match c with
  | 3 => 8
  | 4 => 15
  | 5 => 4
  | 6 => 2
  | 7 => 2
  | _ => 0

/-- The exponent X of a block. -/
def blockExp (c : Nat) (vs : List Num) : Int :=
  let top := vs.foldl (fun (a : Option Int) v => match v with
    | .fin _ m e => if m = 0 then a else
        let l := (Nat.log2 m : Int) + e
        some (match a with | none => l | some b => max b l)
    | _ => a) none
  match top with
  | none => -127
  | some l => max (-127) (l - eMax c)

/-- One element of a block: the exact value × 2^(−X), converted with saturation and no overflow flag. -/
def quantElem (c : Nat) (rnd : Rnd) (x : Int) (v : Num) : Nat :=
  match v with
  | .fin n m e => match fmtKind c with
    | some (.float f) => let mag := roundMag f rnd m 1 (e - x); withSign f n (min mag f.top)
    | _ =>
      let q := roundInt rnd n m (e - x + 6)
      (BitVec.ofInt 8 (max (-127) (min 127 q))).toNat
  | _ => 0

/-- A block of 32 values: the scale code, the elements and the flags. draws holds each element's rounding. -/
def quantBlock (c : Nat) (rnds : List Rnd) (vs : List Num) : Byte × List Nat × NFlags :=
  if vs.any fun v => match v with | .fin _ _ _ => false | _ => true then (0xFF, vs.map fun _ => 0, flagV)
  else
    let x := blockExp c vs
    (BitVec.ofInt 8 (x + 127), (vs.zip rnds).map fun (v, r) => quantElem c r x v, 0)

/-! ### Stochastic rounding (R176, R177) -/

/-- The state of lane i for a seed. -/
def srSeed (s : W64) (i : Nat) : W32 :=
  let g := s.setWidth 32 ^^^ BitVec.ofNat 32 (0x9E3779B9 * (i + 1))
  if g = 0 then 1 else g

/-- One draw. -/
def srDraw (g : W32) : W32 :=
  let g := g ^^^ (g <<< 13)
  let g := g ^^^ (g >>> 17)
  g ^^^ (g <<< 5)

/-! ### Tarns (R179–R182) -/

/-- Clamps to the 128-bit window. -/
def tarnClamp (x : Int) : BitVec 128 × NFlags :=
  let (v, o) := clampInt 128 x
  (BitVec.ofInt 128 v, if o then flagT else 0)

/-- v / u rounded to the nearest integer, ties to even, where u = 2^(a − 128). -/
def onGrid (a : Byte) (neg : Bool) (m : Nat) (e : Int) : Int := roundInt .nearest neg m (e - (a.toNat - 128))

/-- A value enters a tarn (R179). -/
def toTarn (a : Byte) (x : Num) : BitVec 128 × NFlags :=
  match x with
  | .fin n m e => tarnClamp (onGrid a n m e)
  | _ => (0, flagV)

/-- An exact addition, saturating (R180). -/
def tarnAdd (x y : BitVec 128) : BitVec 128 × NFlags := tarnClamp (x.toInt + y.toInt)

/-- The exact value of a tarn. -/
def tarnNum (a : Byte) (t : BitVec 128) : Num :=
  let v := t.toInt
  .fin (decide (v < 0)) v.natAbs (a.toNat - 128)

/-- Re-anchoring (R182). -/
def reanchor (a a' : Byte) (t : BitVec 128) : BitVec 128 × NFlags := toTarn a' (tarnNum a t)

/-- A contribution of an anchor pass: rounded once onto the grid; NaN, infinity or a NaN scale gives zero
and V (R157). -/
def anchorTerm (a : Byte) (x : Num) : Int × NFlags :=
  match x with
  | .fin n m e => (onGrid a n m e, 0)
  | _ => (0, flagV)

/-- A cell's 64-bit saturating sum (R157). -/
def cellAdd (x : W64) (y : Int) : W64 × NFlags :=
  let (v, o) := clampInt 64 (x.toInt + y)
  (BitVec.ofInt 64 v, if o then flagT else 0)

end Sys2Proof.Machine
end

