-- ==== Sys2Proof/Machine/Bundle.lean ====
section
/-! DEFINITION. The bundle encoding (R87–R104): slots, fields, what each slot names, and the static
checks of R110 that its bits and the core's configuration decide (checks 4 to 9 and parts of 11 to 13).
A check answers the halt reason it fails with. -/

namespace Sys2Proof.Machine

/-! ### Slots (R87, R89) -/

def header (b : RawBundle) : BitVec 32 := b.extractLsb' 0 32
def scalarSlot (b : RawBundle) : BitVec 48 := b.extractLsb' 32 48
def vectorSlot (b : RawBundle) : BitVec 80 := b.extractLsb' 80 80
def matrixSlot (b : RawBundle) : BitVec 64 := b.extractLsb' 160 64
def loadSlot (b : RawBundle) : BitVec 64 := b.extractLsb' 224 64
def storeSlot (b : RawBundle) : BitVec 64 := b.extractLsb' 288 64
def syncSlot (b : RawBundle) : BitVec 32 := b.extractLsb' 352 32

/-- Slot enables (R89). -/
def enScalar (b : RawBundle) : Bool := b.getLsbD 21
def enVector (b : RawBundle) : Bool := b.getLsbD 22
def enMatrix (b : RawBundle) : Bool := b.getLsbD 23
def enLoad (b : RawBundle) : Bool := b.getLsbD 24
def enStore (b : RawBundle) : Bool := b.getLsbD 25
def enSync (b : RawBundle) : Bool := b.getLsbD 26
def brkMark (b : RawBundle) : Bool := b.getLsbD 20

/-- Opcodes; an empty slot reads as a nop (R90). -/
def scalarOp (b : RawBundle) : Nat := if enScalar b then fieldNat (scalarSlot b) 47 40 else 0
def vectorOp (b : RawBundle) : Nat := if enVector b then fieldNat (vectorSlot b) 79 72 else 0
def matrixOp (b : RawBundle) : Nat := if enMatrix b then fieldNat (matrixSlot b) 63 56 else 0
def loadOp (b : RawBundle) : Nat := if enLoad b then fieldNat (loadSlot b) 63 56 else 0
def storeOp (b : RawBundle) : Nat := if enStore b then fieldNat (storeSlot b) 63 56 else 0
def syncOp (b : RawBundle) : Nat := if enSync b then fieldNat (syncSlot b) 31 26 else 0

/-- Whether a bundle holds no operation at all. -/
def idleBundle (b : RawBundle) : Bool :=
  scalarOp b = 0 && vectorOp b = 0 && matrixOp b = 0 && loadOp b = 0 && storeOp b = 0 && syncOp b = 0

/-! ### Scalar fields (R94) -/

def scRd (b : RawBundle) : Nat := fieldNat (scalarSlot b) 39 35
def scRs1 (b : RawBundle) : Nat := fieldNat (scalarSlot b) 34 30
def scRs2 (b : RawBundle) : Nat := fieldNat (scalarSlot b) 29 25
def scPred (b : RawBundle) : Nat := fieldNat (scalarSlot b) 24 22
def scPneg (b : RawBundle) : Bool := (scalarSlot b).getLsbD 21
/-- Sign-extended immediates of S-I and S-L. -/
def scImm30 (b : RawBundle) : W64 := ((scalarSlot b).extractLsb' 0 30).signExtend 64
def scImm35 (b : RawBundle) : W64 := ((scalarSlot b).extractLsb' 0 35).signExtend 64
def brPred (b : RawBundle) : Nat := fieldNat (scalarSlot b) 39 37
def brPneg (b : RawBundle) : Bool := (scalarSlot b).getLsbD 36
def brTarget (b : RawBundle) : BitVec 12 := (scalarSlot b).extractLsb' 0 12
def loopSrc (b : RawBundle) : Bool := (scalarSlot b).getLsbD 39
def loopReg (b : RawBundle) : Nat := fieldNat (scalarSlot b) 38 34
def loopImm (b : RawBundle) : Nat := fieldNat (scalarSlot b) 33 12
def loopEnd (b : RawBundle) : BitVec 12 := (scalarSlot b).extractLsb' 0 12
def winLo (b : RawBundle) : BitVec 4 := (scalarSlot b).extractLsb' 36 4
def winHi (b : RawBundle) : BitVec 4 := (scalarSlot b).extractLsb' 32 4
def agNum (b : RawBundle) : Nat := fieldNat (scalarSlot b) 39 37
def agRs1 (b : RawBundle) : Nat := fieldNat (scalarSlot b) 36 32
def agLow (b : RawBundle) : BitVec 32 := (scalarSlot b).extractLsb' 0 32

/-- Operations of format S-R by what they name. -/
def isSR (op : Nat) : Bool := decide (1 ≤ op) && decide (op ≤ 0x3F)
def isSI (op : Nat) : Bool := decide (0x40 ≤ op) && decide (op ≤ 0x7F)
def isSA (op : Nat) : Bool := decide (0xC0 ≤ op) && decide (op ≤ 0xDF)
def isCompare (op : Nat) : Bool := (decide (0x10 ≤ op) && decide (op ≤ 0x12)) || (decide (0x50 ≤ op) && decide (op ≤ 0x52))
def isPredOp (op : Nat) : Bool := decide (0x18 ≤ op) && decide (op ≤ 0x1B)

/-- The defined scalar opcodes (R94, R119, R121, R123). -/
def scalarDefined (op : Nat) : Bool :=
  decide (op ≤ 0x0D) || isCompare op || isPredOp op || op = 0x1C || op = 0x1D || op = 0x20 || op = 0x21 ||
  op = 0x30 || op = 0x31 || op = 0x32 || op = 0x41 || (decide (0x44 ≤ op) && decide (op ≤ 0x49)) ||
  op = 0x80 || op = 0x81 || op = 0xA0 || op = 0xA1 || op = 0xB0 || op = 0xB8 || (decide (0xC0 ≤ op) && decide (op ≤ 0xC5))

/-- Check 8 of the scalar slot: reserved and unused fields are zero. -/
def scalarClean (b : RawBundle) : Bool :=
  let s := scalarSlot b
  let op := scalarOp b
  let pd := fun (r : Nat) => decide (r < 8)
  if op = 0 then !enScalar b || s = 0
  else if isSR op then
    fieldNat s 20 0 = 0 &&
      (if isCompare op then pd (scRd b)
       else if isPredOp op then pd (scRd b) && pd (scRs1 b) && pd (scRs2 b)
       else if op = 0x1C then pd (scRd b) && scRs2 b = 0
       else if op = 0x1D then pd (scRs1 b) && scRs2 b = 0
       else if op = 0x20 || op = 0x21 then scRs1 b = 0 && scRs2 b = 0
       else if op = 0x30 then decide (scRd b < 4) && scRs2 b = 0
       else if op = 0x31 || op = 0x32 then decide (scRs1 b < 4) && scRs2 b = 0
       else true)
  else if isSI op then
    (if isCompare op then pd (scRd b) else true) && (if 0x47 ≤ op && op ≤ 0x49 then fieldNat s 29 6 = 0 else true)
  else if op = 0x81 then fieldNat s 34 29 = 0
  else if op = 0xA0 then fieldNat s 39 12 = 0
  else if op = 0xA1 then fieldNat s 35 12 = 0
  else if op = 0xB0 then (if loopSrc b then loopImm b = 0 else loopReg b = 0)
  else if op = 0xB8 then fieldNat s 31 0 = 0
  else if op = 0xC0 then fieldNat s 31 24 = 0
  else if op = 0xC1 || op = 0xC5 then fieldNat s 36 0 = 0
  else if op = 0xC3 then agRs1 b = 0 && fieldNat s 31 16 = 0
  else if op = 0xC4 then agRs1 b = 0 && fieldNat s 26 0 = 0
  else true

/-! ### Load and store fields (R101) -/

def msOp (s : BitVec 64) : Nat := fieldNat s 63 56
def msAg (s : BitVec 64) : Nat := fieldNat s 55 53
def msAdv (s : BitVec 64) : Bool := s.getLsbD 52
def msKind (s : BitVec 64) : Nat := fieldNat s 51 50
def msReg (s : BitVec 64) : Nat := fieldNat s 49 45
def msQueue (s : BitVec 64) : Fin 4 := finMod 4 (msReg s)
def msWidth (s : BitVec 64) : Nat := fieldNat s 44 41
def msRep (s : BitVec 64) : Nat := fieldNat s 40 25
def msPred (s : BitVec 64) : Nat := fieldNat s 24 22
def msPneg (s : BitVec 64) : Bool := s.getLsbD 21

/-- Bytes of a transfer by WIDTH. -/
def widthBytes (w : Nat) : Nat := if w = 0 then 8 else if w = 1 then 256 else 64

/-- The load operation of an opcode, and the store operation. -/
def loadMemOp (op : Nat) : MemOp := if op = 2 then .ldbc else .ld
def storeMemOp (op : Nat) : MemOp := if op = 2 then .staf else if op = 3 then .stai else .st

/-- Check 7 of a load or store slot: opcode, KIND, WIDTH and the pairs of R125. -/
def memDefined (store : Bool) (op : Nat) (s : BitVec 64) : Bool :=
  let k := msKind s
  let w := msWidth s
  op = 0 ||
  (decide (k ≤ 1) && decide (w ≤ 2) && !(k = 1 && w != 0) &&
    match op with
    | 1 => true
    | 2 => if store then k = 0 && w != 0 else k = 0 && w = 0
    | 3 => store && k = 0 && w != 0
    | _ => false)

/-- Check 8 of a load or store slot. -/
def memClean (enabled : Bool) (op : Nat) (s : BitVec 64) : Bool :=
  if op = 0 then !enabled || s = 0 else fieldNat s 20 0 = 0 && (msKind s = 1 || decide (msReg s < 4))

/-! ### Sync fields (R104) -/

def syRa (b : RawBundle) : Nat := fieldNat (syncSlot b) 25 21
def syFlag (b : RawBundle) : Byte := (syncSlot b).extractLsb' 13 8
def syImm (b : RawBundle) : W32 := ((syncSlot b).extractLsb' 0 13).setWidth 32
def syBctx (b : RawBundle) : Fin 64 := finMod 64 (fieldNat (syncSlot b) 25 20)
def syChan (b : RawBundle) : Byte := (syncSlot b).extractLsb' 18 8
def syLen (b : RawBundle) : Nat := fieldNat (syncSlot b) 17 15
def syAg (b : RawBundle) : Nat := fieldNat (syncSlot b) 14 12

def isFlagOp (op : Nat) : Bool := decide (8 ≤ op) && decide (op ≤ 0x0D)
def isBarOp (op : Nat) : Bool := decide (0x10 ≤ op) && decide (op ≤ 0x12)
def isMsgOp (op : Nat) : Bool := op = 0x18 || op = 0x19
def syncDefined (op : Nat) : Bool := op = 0 || op = 1 || isFlagOp op || isBarOp op || isMsgOp op

/-- Check 8 of the sync slot: a flag wait or fset names s0, an fwaitr has no immediate (R133). -/
def syncClean (b : RawBundle) : Bool :=
  let op := syncOp b
  if op = 0 then !enSync b || syncSlot b = 0
  else if op = 1 then fieldNat (syncSlot b) 25 0 = 0
  else if op = 0x0A || op = 0x0C || op = 0x0D then syRa b = 0
  else if op = 0x0B then syImm b = 0
  else if isBarOp op then fieldNat (syncSlot b) 19 0 = 0
  else if isMsgOp op then fieldNat (syncSlot b) 11 0 = 0
  else true

/-! ### Vector fields (R98, R190) -/

def vfields (b : RawBundle) : VectorFields :=
  let s := vectorSlot b
  { opc := s.extractLsb' 72 8, vd := s.extractLsb' 67 5, va := s.extractLsb' 62 5, vb := s.extractLsb' 57 5, vc := s.extractLsb' 52 5,
    pred := s.extractLsb' 49 3, pneg := s.getLsbD 48, type := s.extractLsb' 44 4, eps := s.extractLsb' 40 4,
    mode := s.extractLsb' 32 8, imm := s.extractLsb' 0 32 }

/-- Direct micro-operations. -/
def isMicro (op : Nat) : Bool := (microInputs op).isSome

/-- The operations beside the micro-operations. -/
def vectorDefined (op : Nat) : Bool :=
  op = 0 || isMicro op || op = 0x40 || op = 0x41 || op = 0x48 || op = 0x49 || op = 0x50 || op = 0x51 || op = 0x58 ||
    (decide (0x60 ≤ op) && decide (op ≤ 0x66)) || op = 0x70 || op = 0x71

/-- Which of VA, VB, VC and VD an operation uses (R190). -/
def vectorUses (op : Nat) : Bool × Bool × Bool × Bool :=
  match microInputs op with
  | some (a, b, c) => (a, b, c, true)
  | none =>
    if op = 0x40 then (true, true, true, true)
    else if op = 0x48 || op = 0x49 || op = 0x58 || op = 0x62 || op = 0x63 then (true, false, false, true)
    else if op = 0x50 then (true, true, false, true)
    else if op = 0x51 then (true, true, true, true)
    else if op = 0x65 || op = 0x71 then (false, false, false, true)
    else if op = 0x60 then (false, false, false, false)
    else (true, false, false, false)

/-- Entries N of a streaming operation (R186). -/
def vN (f : VectorFields) : Nat := fieldNat f.imm 10 0 + 1
/-- Broadcast codes of VB and VC (R190, R197). -/
def bcastB (f : VectorFields) : Nat := if f.opc = 0x51 then 0 else fieldNat f.mode 7 6
def bcastC (f : VectorFields) : Nat := fieldNat f.mode 5 4
/-- Row accumulator number. -/
def vQ (f : VectorFields) : Nat := fieldNat f.imm 13 11
def vRnd (f : VectorFields) : Nat := fieldNat f.mode 6 4
def cvtTarnSrc (f : VectorFields) : Bool := f.mode.getLsbD 7
def cvtTarnDst (f : VectorFields) : Bool := f.imm.getLsbD 27
def cvtSrc (f : VectorFields) : Nat := fieldNat f.mode 3 0
def cvtSrcAnchor (f : VectorFields) : Byte := f.imm.extractLsb' 11 8
def cvtDstAnchor (f : VectorFields) : Byte := f.imm.extractLsb' 19 8

/-- Codes of sources and destinations (R92). -/
def srcDefined (c : BitVec 5) : Bool := decide (c.toNat ≤ 0x14)
def dstDefined (c : BitVec 5) : Bool := decide (c.toNat ≤ 0x0F) || c = 0x18 || c = 0x19

/-- Whether an operation converts with a rounding control. -/
def usesRnd (op : Nat) : Bool := op = 0x48 || op = 0x49

/-- Check 7 of the vector slot. -/
def vectorCodes (b : RawBundle) : Bool :=
  let op := vectorOp b
  let f := vfields b
  let (a, bb, c, dd) := vectorUses op
  op = 0 ||
  (vectorDefined op && (!a || srcDefined f.va) && (!bb || srcDefined f.vb) && (!c || srcDefined f.vc) && (!dd || dstDefined f.vd) &&
    (!usesRnd op || decide (vRnd f ≤ 4)) && (op != 0x58 || decide (fieldNat f.mode 2 0 ≤ 4)) &&
    (!(isMicro op || op = 0x48 || op = 0x49 || op = 0x50 || op = 0x51 || op = 0x58) || decide (f.type.toNat ≤ 0xC)) &&
    (op != 0x48 || cvtTarnSrc f || decide (cvtSrc f ≤ 0xC)))

/-- Operations that a lane predicate governs (R185, R188); the others hold zero there. -/
def usesPred (op : Nat) : Bool :=
  isMicro op || op = 0x40 || op = 0x48 || op = 0x49 || op = 0x51 || op = 0x58 || (decide (0x61 ≤ op) && decide (op ≤ 0x64))

def usesType (op : Nat) : Bool := isMicro op || op = 0x48 || op = 0x49 || op = 0x50 || op = 0x51 || op = 0x58
def isStreaming (op : Nat) : Bool :=
  isMicro op || op = 0x40 || op = 0x48 || op = 0x49 || op = 0x50 || op = 0x51 || op = 0x58 || (decide (0x61 ≤ op) && decide (op ≤ 0x64))
def isRowOp (op : Nat) : Bool := decide (0x60 ≤ op) && decide (op ≤ 0x66)

/-- The bits of MODE an operation may set. -/
def modeMask (op : Nat) : Byte :=
  let (_, bb, c, _) := vectorUses op
  if isMicro op || op = 0x40 then (if bb then 0xC0 else 0) ||| (if c then 0x30 else 0)
  else if op = 0x48 then 0xFF
  else if op = 0x49 then 0x70
  else if op = 0x51 then 0x30
  else if op = 0x58 then 0x07
  else if op = 0x63 then 0x01
  else 0

/-- The bits of IMM an operation may set. -/
def immMask (f : VectorFields) : W32 :=
  let op := f.opc.toNat
  (if op = 0x50 || op = 0x51 then 0xF else if isStreaming op then 0x7FF else 0) |||
  (if op = 0x48 then (if cvtTarnSrc f then 0x7F800 else 0) ||| 0x8000000 ||| (if cvtTarnDst f then 0x7F80000 else 0)
   else if op = 0x58 then (if fieldNat f.mode 2 0 = 4 then 0x7F800 else 0)
   else if op = 0x60 then 0x3FF800
   else if isRowOp op then 0x3800
   else 0)

/-- Width of a format for the entries of a vcvt: 6-bit elements lie 256 to an entry, as vmxq writes them (R199). -/
def entryWidth (c : Nat) : Nat := if fmtWidth c = 6 then 8 else fmtWidth c

/-- Widths of the elements of a vcvt by which entries are counted (R198). DEDUCED: R198 lists 8, 16, 32 and 128 bits, and the
narrower MX elements, which R175 lists as sources, count by the elements of their entries (log entry 80). -/
def cvtWidths (f : VectorFields) : Nat × Nat :=
  (if cvtTarnSrc f then 128 else entryWidth (cvtSrc f), if cvtTarnDst f then 128 else entryWidth f.type.toNat)

/-- Exact widening (R175): a floating-point or MX element to a wider format that holds its values, and INT8. -/
def exactWiden (s t : Nat) : Bool :=
  ((s = 0 || s = 1 || (decide (3 ≤ s) && decide (s ≤ 8))) && (t = 9 || t = 0xA || t = 0xB)) || ((s = 9 || s = 0xA) && t = 0xB) ||
    ((s = 5 || s = 6 || s = 7) && t = 0) || ((s = 5 || s = 7) && t = 1) || (s = 2 && (t = 0xC || t = 0xB))

/-- The pairs of formats that vcvt accepts (R175, R198). -/
def cvtPair (f : VectorFields) : Bool :=
  let s := cvtSrc f
  let t := f.type.toNat
  if cvtTarnSrc f then cvtTarnDst f || t = 0xB || t = 9 || t = 0xA || t = 0 || t = 1 || t = 0xC
  else if cvtTarnDst f then s = 0xB
  else exactWiden s t || (s = 0xB && (t = 9 || t = 0xA || t = 0 || t = 1 || t = 2 || t = 0xC)) || (s = 0xC && (t = 2 || t = 0xB))

/-- RND must be 0 where vcvt rounds by none of the controls: exact widening, FP32 to tarn, and re-anchoring. -/
def cvtNoRnd (f : VectorFields) : Bool :=
  if cvtTarnSrc f then cvtTarnDst f else cvtTarnDst f || exactWiden (cvtSrc f) f.type.toNat

/-- Check 8 of the vector slot. -/
def vectorClean (b : RawBundle) : Bool :=
  let op := vectorOp b
  let f := vfields b
  let (a, bb, c, dd) := vectorUses op
  if op = 0 then !enVector b || vectorSlot b = 0
  else
    (a || f.va = 0x1F) && (bb || f.vb = 0x1F) && (c || f.vc = 0x1F) && (dd || f.vd = 0x1F) &&
    (usesPred op || (f.pred = 0 && !f.pneg)) && (op = 0x40 || op = 0x41 || f.eps = 0) &&
    (usesType op || f.type = 0) && f.mode &&& ~~~ modeMask op = 0 && f.imm &&& ~~~ immMask f = 0 &&
    (op != 0x48 || ((!cvtTarnSrc f || cvtSrc f = 0) && (!cvtTarnDst f || f.type = 0) && (!cvtNoRnd f || vRnd f = 0 || (cvtTarnSrc f && decide (3 ≤ vRnd f)))))

/-- Whether a micro-operation works on FP32 (and packed formats), on INT32, or on either (R191). DESIGN CHOICE: of the conversions ftoi
takes TYPE 0xB and itof 0xC, the type of their operand (log entry 117). -/
def microFloat (op : Nat) : Bool := decide (op ≤ 0x18) || op = 0x2D
def microInt (op : Nat) : Bool := op = 0x19 || (decide (0x20 ≤ op) && decide (op ≤ 0x2D))
/-- Micro-operations that packed types accept (R192). -/
def packable (op : Nat) : Bool := decide (op ≤ 0x0C) || op = 0x2D

/-- Check 13 of the vector slot (R191). -/
def vectorTypes (b : RawBundle) : Bool :=
  let op := vectorOp b
  let f := vfields b
  let t := f.type.toNat
  if isMicro op then (t = 0xB && microFloat op) || (t = 0xC && microInt op) || ((t = 9 || t = 0xA) && packable op)
  else if op = 0x48 then cvtPair f && !(cvtTarnSrc f && decide (3 ≤ vRnd f))
  else if op = 0x49 then decide (3 ≤ t) && decide (t ≤ 8)
  else if op = 0x50 || op = 0x51 then t = 0xB || t = 0xC
  else if op = 0x58 then (if fieldNat f.mode 2 0 = 3 then t = 0xC else t = 0xB)
  else true

/-- Entries consumed by a source under a broadcast code (R197). -/
def bcastEntries (code n : Nat) (packed : Bool) : Nat :=
  match code with
  | 0 => n
  | 2 => (n + (if packed then 127 else 63)) / (if packed then 128 else 64)
  | _ => 1

def isPacked (f : VectorFields) : Bool := f.type = 9 || f.type = 0xA

/-- Elements of a destination element entry of vmxq, and its scale entries (R199). -/
def mxqElems (f : VectorFields) : Nat := if f.type = 7 then 512 else 256
def mxqScales (f : VectorFields) : Nat := (vN f * mxqElems f / 32 + 255) / 256

/-- Entries of each source and of the destination of an operation (R186, R197–R203). -/
def vectorEntries (f : VectorFields) : Nat × Nat × Nat × Nat :=
  let op := f.opc.toNat
  let n := if isStreaming op then vN f else 1
  if op = 0x48 then
    let (s, t) := cvtWidths f
    if s < t then (n, 0, 0, n * (t / s)) else (n * (s / t), 0, 0, n)
  else if op = 0x49 then (n * (mxqElems f / 64), 0, 0, n + mxqScales f)
  else if op = 0x50 then (n, n, 0, n + 1)
  else if op = 0x51 then (n, n, bcastEntries (bcastC f) n false, n)
  else if op = 0x58 then (n, 0, 0, if fieldNat f.mode 2 0 = 4 then (n + 15) / 16 else (n + 63) / 64)
  else (n, bcastEntries (bcastB f) n (isPacked f), bcastEntries (bcastC f) n (isPacked f), n)

/-! ### Matrix fields (R99, R141–R144) -/

def mfields (b : RawBundle) : MatrixFields :=
  let s := matrixSlot b
  { opc := s.extractLsb' 56 8, srcA := s.extractLsb' 51 5, srcB := s.extractLsb' 46 5, dst := s.extractLsb' 41 5,
    fmtA := s.extractLsb' 37 4, fmtB := s.extractLsb' 33 4, exact := s.getLsbD 32, rows := s.extractLsb' 25 7,
    cols := s.extractLsb' 19 6, anchor := s.extractLsb' 11 8, klen := s.extractLsb' 0 11 }

def isFeed (op : Nat) : Bool := decide (0x10 ≤ op) && decide (op ≤ 0x1F)
def isMvec (op : Nat) : Bool := decide (0x18 ≤ op) && decide (op ≤ 0x1F)
def isMdrain (op : Nat) : Bool := op = 0x20 || op = 0x21
/-- Bit 0 the plane, bit 1 continue, bit 2 hold. -/
def mPlane (op : Nat) : Fin 2 := finMod 2 op
def mContinues (op : Nat) : Bool := op / 2 % 2 = 1
def mHolds (op : Nat) : Bool := op / 4 % 2 = 1
/-- Whether an operation delivers: its DST is used. -/
def mDelivers (op : Nat) : Bool := (isFeed op && !mHolds op) || isMdrain op
def matrixDefined (op : Nat) : Bool := op = 0 || isFeed op || isMdrain op || op = 0x28

/-- Check 7 of the matrix slot; the formats of a vector TYPE alone are undefined in it whatever its operation (R100). -/
def matrixCodes (b : RawBundle) : Bool :=
  let op := matrixOp b
  let f := mfields b
  matrixDefined op && f.fmtA != 0xB && f.fmtA != 0xC && f.fmtB != 0xB && f.fmtB != 0xC &&
  (!isFeed op || (srcDefined f.srcA && srcDefined f.srcB && decide (f.fmtA.toNat ≤ 0xA) && decide (f.fmtB.toNat ≤ 0xA))) &&
  (!(mDelivers op || op = 0x28) || dstDefined f.dst)

/-- Check 8 of the matrix slot (R142). -/
def matrixClean (b : RawBundle) : Bool :=
  let op := matrixOp b
  let f := mfields b
  if op = 0 then !enMatrix b || matrixSlot b = 0
  else if isFeed op then
    (mDelivers op || f.dst = 0x1F) && (f.exact || f.anchor = 0) && (!isMvec op || f.cols = 0)
  else
    f.srcA = 0x1F && f.srcB = 0x1F && f.fmtA = 0 && f.fmtB = 0 && f.anchor = 0 && f.klen = 0 &&
      (isMdrain op || (!f.exact && f.rows = 0 && f.cols = 0))

/-- Pairs accepted without EXACT (R143). -/
def pairBase (vec : Bool) (a b : Nat) : Bool :=
  let fp8 := fun x => x = 0 || x = 1
  let mx := fun x => decide (3 ≤ x) && decide (x ≤ 7)
  (fp8 a && fp8 b) || (a = 2 && b = 2) || (a = 9 && b = 9) || (a = 0xA && b = 0xA) ||
    (if vec then (mx a && fp8 b) || (a = 8 && b = 2) else (mx a && mx b) || (a = 8 && b = 8))

/-- Check 13 of the matrix slot. -/
def matrixPair (b : RawBundle) : Bool :=
  let op := matrixOp b
  let f := mfields b
  !isFeed op || (pairBase (isMvec op) f.fmtA.toNat f.fmtB.toNat && (!f.exact || (f.fmtA != 9 && f.fmtA != 0xA)))

/-- k-steps of a pass: KLEN + 1 steps, or as many blocks of 32 (R144). -/
def passSteps (f : MatrixFields) : Nat :=
  if fmtMx f.fmtA.toNat || fmtMx f.fmtB.toNat then 32 * (f.klen.toNat + 1) else f.klen.toNat + 1

/-- k-steps per data entry of A and of B (R145). -/
def stepsA (split : Bool) (fmt : Nat) : Nat :=
  let whole := match fmtWidth fmt with | 4 => 4 | 16 => 1 | _ => 2
  if split then 2 * whole else whole
def stepsB (vec : Bool) (fmt : Nat) : Nat :=
  if vec then (if fmtWidth fmt = 16 then 128 else 256) else match fmtWidth fmt with | 4 => 8 | 16 => 2 | _ => 4

/-- Scale entries of an MX operand: one per group of 64 k-steps (R146). -/
def passGroups (f : MatrixFields) : Nat := (passSteps f + 63) / 64

/-- Entries an operand needs in all (R146, R147). -/
def entriesA (split : Bool) (f : MatrixFields) : Nat :=
  let c := stepsA split f.fmtA.toNat
  (passSteps f + c - 1) / c + if fmtMx f.fmtA.toNat then passGroups f else 0
def entriesB (f : MatrixFields) : Nat :=
  let c := stepsB (isMvec f.opc.toNat) f.fmtB.toNat
  (passSteps f + c - 1) / c + if fmtMx f.fmtB.toNat then passGroups f else 0

/-- Entries a drain delivers (R152). -/
def drainEntries (vec exact : Bool) (rows : Nat) : Nat :=
  if vec then (if exact then (rows + 16) / 16 else (rows + 64) / 64) else if exact then 4 * (rows + 1) else rows + 1

/-! ### Checks 4 to 9 (R110) -/

/-- Whether a slot of the other stream is enabled or holds a non-zero bit (R59). -/
def otherStream (execute : Bool) (b : RawBundle) : Bool :=
  if execute then enLoad b || enStore b || loadSlot b != 0 || storeSlot b != 0
  else enVector b || enMatrix b || vectorSlot b != 0 || matrixSlot b != 0

/-- A disabled slot of the stream's own kind with a non-zero bit, or a reserved header field. -/
def dirtySlots (execute : Bool) (b : RawBundle) : Bool :=
  fieldNat (header b) 19 16 != 0 || (!enScalar b && scalarSlot b != 0) || (!enSync b && syncSlot b != 0) ||
    if execute then (!enVector b && vectorSlot b != 0) || (!enMatrix b && matrixSlot b != 0)
    else (!enLoad b && loadSlot b != 0) || (!enStore b && storeSlot b != 0)

/-- Check 7. -/
def definedCodes (b : RawBundle) : Bool :=
  scalarDefined (scalarOp b) && vectorCodes b && matrixCodes b && memDefined false (loadOp b) (loadSlot b) &&
    memDefined true (storeOp b) (storeSlot b) && syncDefined (syncOp b)

/-- Check 8. -/
def cleanFields (b : RawBundle) : Bool :=
  scalarClean b && vectorClean b && matrixClean b && memClean (enLoad b) (loadOp b) (loadSlot b) &&
    memClean (enStore b) (storeOp b) (storeSlot b) && syncClean b

/-- Codes of R92 that name a resource outside a context's half: v8–v15, LQ1, LQ3. -/
def outsideHalf (c : BitVec 5) : Bool := (decide (8 ≤ c.toNat) && decide (c.toNat ≤ 0x0F)) || c = 0x11 || c = 0x13 || c = 0x19

/-- Check 9 of the scalar slot in a split context. -/
def scalarHalf (b : RawBundle) : Option Byte :=
  let op := scalarOp b
  if op = 0x30 && scRd b % 2 = 1 then some 2
  else if (op = 0x31 || op = 0x32) && scRs1 b % 2 = 1 then some 2
  else if isSA op && 4 ≤ agNum b then some 2
  else if (op = 0xA0 || op = 0xA1) && 0x800 ≤ (brTarget b).toNat then some 0x18
  else if op = 0xB0 && 0x800 ≤ (loopEnd b).toNat then some 0x18
  else if op = 0xB8 && 7 < (winHi b).toNat then some 0x18
  else none

def vectorHalf (b : RawBundle) : Option Byte :=
  let op := vectorOp b
  let f := vfields b
  if op != 0 && (outsideHalf f.va || outsideHalf f.vb || outsideHalf f.vc || outsideHalf f.vd || (isRowOp op && decide (4 ≤ vQ f)) ||
      ((op = 0x40 || op = 0x41) && decide (8 ≤ f.eps.toNat))) then some 2 else none

def matrixHalf (b : RawBundle) : Option Byte :=
  let f := mfields b
  if matrixOp b != 0 && (outsideHalf f.srcA || outsideHalf f.srcB || outsideHalf f.dst || decide (64 ≤ f.rows.toNat)) then some 2 else none

def memHalf (op : Nat) (s : BitVec 64) : Option Byte :=
  if op != 0 && (decide (4 ≤ msAg s) || (msKind s = 0 && msReg s % 2 = 1)) then some 2 else none

def syncHalf (b : RawBundle) : Option Byte :=
  let op := syncOp b
  if isFlagOp op && (syRa b = 0 || op = 0x0B) && 128 ≤ (syFlag b).toNat then some 2
  else if isMsgOp op && 4 ≤ syAg b then some 2
  else none

/-- Check 9. -/
def halfCheck (split : Bool) (b : RawBundle) : Option Byte :=
  if !split then none
  else (scalarHalf b).orElse fun _ => (vectorHalf b).orElse fun _ => (matrixHalf b).orElse fun _ =>
    (memHalf (loadOp b) (loadSlot b)).orElse fun _ => (memHalf (storeOp b) (storeSlot b)).orElse fun _ => syncHalf b

/-- Checks 4 to 9. -/
def earlyChecks (split execute : Bool) (b : RawBundle) : Option Byte :=
  if fieldNat (header b) 31 28 != 1 then some 0x01
  else if b.getLsbD 27 != execute || otherStream execute b then some 0x06
  else if dirtySlots execute b then some 0x03
  else if !definedCodes b then some 0x01
  else if !cleanFields b then some 0x03
  else halfCheck split b

/-! ### What a bundle names (R63, R64, R102) -/

/-- The registers, generators and link queues that a slot writes, pushes, pops and peeks, as the core or
context names them. -/
structure Uses where
  sregs : List Nat
  pregs : List Nat
  vregs : List Nat
  gens  : List Nat
  push  : List (Fin 4)
  pop   : List (Fin 4)
  peek  : List (Fin 4)
deriving DecidableEq, Repr, Inhabited

def Uses.none : Uses := { sregs := [], pregs := [], vregs := [], gens := [], push := [], pop := [], peek := [] }

def Uses.join (x y : Uses) : Uses :=
  { sregs := x.sregs ++ y.sregs, pregs := x.pregs ++ y.pregs, vregs := x.vregs ++ y.vregs, gens := x.gens ++ y.gens,
    push := x.push ++ y.push, pop := x.pop ++ y.pop, peek := x.peek ++ y.peek }

/-- A register number unless it is 0. -/
def nonZero (r : Nat) : List Nat := if r = 0 then [] else [r]

/-- Whether an S-R, S-I or S-L operation writes a scalar register. -/
def writesSreg (op : Nat) : Bool :=
  (isSR op && !isCompare op && !isPredOp op && op != 0x1C && op != 0x30) || (isSI op && !isCompare op) || op = 0x80 || op = 0x81
def writesPreg (op : Nat) : Bool := isCompare op || isPredOp op || op = 0x1C

def scalarUses (b : RawBundle) : Uses :=
  let op := scalarOp b
  { Uses.none with
    sregs := if op = 0 then [] else if writesSreg op then nonZero (scRd b) else if op = 0xC4 then nonZero (fieldNat (agLow b) 31 27) else []
    pregs := if op != 0 && writesPreg op then nonZero (scRd b) else []
    gens := if op = 0xC1 || op = 0xC2 || op = 0xC3 || op = 0xC5 then [agNum b] else []
    push := if op = 0x30 then [finMod 4 (scRd b)] else []
    pop := if op = 0x31 then [finMod 4 (scRs1 b)] else []
    peek := if op = 0x32 then [finMod 4 (scRs1 b)] else [] }

/-- Queues of a source code: popped and peeked. -/
def srcPop (c : BitVec 5) : List (Fin 4) := if c = 0x10 then [0] else if c = 0x11 then [1] else []
def srcPeek (c : BitVec 5) : List (Fin 4) := if c = 0x12 then [0] else if c = 0x13 then [1] else []
def dstPush (c : BitVec 5) : List (Fin 4) := if c = 0x18 then [2] else if c = 0x19 then [3] else []
/-- Registers from a code on. -/
def dstRegs (c : BitVec 5) (n : Nat) : List Nat := if c.toNat < 16 then (List.range n).map (c.toNat + ·) else []

def vectorUsesOf (b : RawBundle) : Uses :=
  let op := vectorOp b
  let f := vfields b
  if op = 0 then Uses.none
  else { Uses.none with
    vregs := dstRegs f.vd (vectorEntries f).2.2.2, push := dstPush f.vd,
    pop := srcPop f.va ++ srcPop f.vb ++ srcPop f.vc, peek := srcPeek f.va ++ srcPeek f.vb ++ srcPeek f.vc }

def matrixUsesOf (b : RawBundle) : Uses :=
  let op := matrixOp b
  let f := mfields b
  if op = 0 then Uses.none
  else { Uses.none with
    vregs := if op = 0x28 then dstRegs f.dst 1
      else if isFeed op && !mHolds op then dstRegs f.dst (drainEntries (isMvec op) f.exact f.rows.toNat) else [],
    push := dstPush f.dst,
    pop := srcPop f.srcA ++ srcPop f.srcB, peek := srcPeek f.srcA ++ srcPeek f.srcB }

def loadUses (b : RawBundle) : Uses :=
  let s := loadSlot b
  if loadOp b = 0 then Uses.none
  else { Uses.none with
    sregs := if msKind s = 1 then nonZero (msReg s) else [], gens := if msAdv s then [msAg s] else [],
    push := if msKind s = 0 then [msQueue s] else [] }

def storeUses (b : RawBundle) : Uses :=
  let s := storeSlot b
  if storeOp b = 0 then Uses.none
  else { Uses.none with gens := if msAdv s then [msAg s] else [], pop := if msKind s = 0 then [msQueue s] else [] }

def syncUses (b : RawBundle) : Uses := if isMsgOp (syncOp b) then { Uses.none with gens := [syAg b] } else Uses.none

/-- All of a bundle. The registers of a matrix slot's destination count as its writes, those of an `mdrain` against the state of
its plane in matrixConflict (R63, and the example of R110); a drain's pushes come later (R153) and count in no bundle. -/
def bundleUses (b : RawBundle) : Uses :=
  let m := matrixUsesOf b
  let m := if matrixOp b = 0x28 then m else { m with push := [] }
  (scalarUses b).join ((vectorUsesOf b).join (m.join ((loadUses b).join ((storeUses b).join (syncUses b)))))

/-- Check 10 as far as the bundle alone decides it: double writes, pushes and pops, and register ranges
that run past the last register. -/
def bundleConflict (split : Bool) (b : RawBundle) : Bool :=
  let u := bundleUses b
  let last := if split then 8 else 16
  let f := vfields b
  let m := mfields b
  let past := fun (c : BitVec 5) (n : Nat) => decide (c.toNat < 16) && decide (last < c.toNat + n)
  let ve := vectorEntries f
  let (a, bb, c, dd) := vectorUses (vectorOp b)
  let vpast := vectorOp b != 0 && ((a && past f.va ve.1) || (bb && past f.vb ve.2.1) || (c && past f.vc ve.2.2.1) || (dd && past f.vd ve.2.2.2))
  let mop := matrixOp b
  let mpast := (isFeed mop && (past m.srcA (entriesA split m) || past m.srcB (entriesB m))) ||
    (mDelivers mop && past m.dst (if isMdrain mop then 1 else drainEntries (isMvec mop) m.exact m.rows.toNat))
  !(decide u.sregs.Nodup && decide u.pregs.Nodup && decide u.vregs.Nodup && decide u.gens.Nodup && decide u.push.Nodup && decide u.pop.Nodup) ||
    u.pop.any (u.peek.contains ·) || vpast || mpast

/-- Check 11: a queue of the wrong direction, or a field of the access stream in an execute bundle. -/
def directionCheck (execute : Bool) (b : RawBundle) : Bool :=
  let u := bundleUses b
  let front := fun (q : Fin 4) => decide (q.val < 2)
  u.push.all (fun q => front q != execute) && (u.pop ++ u.peek).all (fun q => front q = execute) &&
    !(execute && (isMsgOp (syncOp b) || isSA (scalarOp b)))

/-- Check 12 as far as the bundle alone decides it: setwin and REP without ADV. -/
def formCheck (b : RawBundle) : Bool :=
  !(scalarOp b = 0xB8 && decide ((winHi b).toNat < (winLo b).toNat)) &&
  !(loadOp b != 0 && msRep (loadSlot b) != 0 && !msAdv (loadSlot b)) && !(storeOp b != 0 && msRep (storeSlot b) != 0 && !msAdv (storeSlot b))

end Sys2Proof.Machine
end

