-- ==== Sys2Proof/Machine/Operands.lean ====
section
/-! DEFINITION. Operands of a bundle: scalar, predicate and vector registers (R61, R93, R130), link queues
(R64–R67), lane values, and the write-back of each. -/

namespace Sys2Proof.Machine

/-! ### Time -/

/-- The period in progress of a core's or context's run. -/
def periodOf (d : Device) (c : CtxId) : Nat := match runOf d c with | none => 0 | some r => r.period

/-- Whether a core's or context's domain executes a schedule tick in the present period on which streams
and units advance: it runs, is not stalled, and its restored ramp has ended (R38, R258). While the debug port opens, every core
has stopped (R465). -/
def executing (d : Device) (c : CtxId) : Bool :=
  d.sec.dbg != .erasing && match runOf d c with
  | none => false
  | some r => r.started && !r.stalled && r.ramp = 0 && !r.pointDue

/-- The tick at whose end an arrival of the present period takes effect in a core or context: while its domain is stalled
the held tick has not begun (R37, R39). -/
def settleTick (d : Device) (c : CtxId) : Nat :=
  match runOf d c with
  | some r => if r.stalled || r.ramp != 0 || !r.started then r.tick - 1 else r.tick
  | none => 0

/-- The program's latency mode. -/
def isPortable (d : Device) (c : CtxId) : Bool := match progOf d c with | none => false | some g => g.portable

/-- Adds a variable item to the run of a core's or context's domain (R36). -/
def addItem (d : Device) (c : CtxId) (i : VarItem) : Device :=
  match domOf d c with
  | none => d
  | some k => modRun d k fun r => { r with items := r.items ++ [i] }

/-! ### Scalar and predicate registers (R61, R83, R93) -/

/-- A scalar register; s0 reads as zero. -/
def readS (q : Sequencer) (r : Nat) : W64 := if r % 32 = 0 then 0 else vget q.sregs (finMod 32 r)

/-- Writes a scalar register by an operation issued at a tick, on the present tick; s0 is not written. -/
def writeS (q : Sequencer) (r : Nat) (v : W64) (now issued : Nat) : Sequencer :=
  if r % 32 = 0 then q
  else { q with sregs := vset q.sregs (finMod 32 r) v, sregTick := vset q.sregTick (finMod 32 r) (now, issued) }

/-- A load's data reaches a register at the end of a tick: the operation issued later stands (R130). -/
def fillS (q : Sequencer) (r : Nat) (v : W64) (now issued : Nat) : Sequencer :=
  let (t, i) := vget q.sregTick (finMod 32 r)
  if t = now && issued < i then q else writeS q r v now issued

/-- A predicate register; p0 reads as all ones, and a context reads bits [63:32] as zero. -/
def readP (split : Bool) (q : Sequencer) (p : Nat) : W64 :=
  let v : W64 := if p % 8 = 0 then BitVec.allOnes 64 else vget q.pregs (finMod 8 p)
  if split then v &&& 0xFFFFFFFF else v

def writeP (q : Sequencer) (p : Nat) (v : W64) : Sequencer :=
  if p % 8 = 0 then q else { q with pregs := vset q.pregs (finMod 8 p) v }

/-- Whether a conditional slot takes effect (R93). -/
def holds (split : Bool) (q : Sequencer) (pred : Nat) (pneg : Bool) : Bool := (readP split q pred).getLsbD 0 != pneg

/-! ### Vector registers -/

/-- A vector register as the core or context names it. -/
def readV (k : Core) (ctx : Fin 2) (r : Nat) : Entry := vget k.vregs (physVreg k.split ctx r)

/-- A result for a vector register at the end of the present tick. -/
def writeV (k : Core) (ctx : Fin 2) (r : Nat) (v : Entry) (issued : Nat) : Core :=
  { k with vregPend := k.vregPend ++ [(physVreg k.split ctx r, v, issued)] }

/-- The vector registers take their values of the end of the tick: where several operations wrote one, the
operation issued last stands (R130, R154). -/
def settleVregs (k : Core) : Core :=
  match k.vregPend with
  | [] => k
  | l =>
    let last := fun (i : Fin 16) => l.foldl (fun (a : Option (Entry × Nat)) x =>
      if x.1 = i then match a with
        | some (v, t) => if t ≤ x.2.2 then some x.2 else some (v, t)
        | none => some x.2
      else a) none
    { k with vregPend := [], vregs := vmapi k.vregs fun i v => match last i with | some (x, _) => x | none => v }

/-! ### Link queues (R64–R67) -/

/-- What the head of a link queue offers a pop or a peek. -/
inductive Head where
  | ready (data : Entry)
  /-- No entry that was filled by the end of the previous tick: the bundle waits (R66, R222). -/
  | empty
  /-- The data of a variable item is late: the domain stalls (R67), under the cause of its lateness (R41). -/
  | late (cause : Fin 7)
deriving DecidableEq, Repr, Inhabited

/-- The cause of a head that is late. -/
def Head.lateness : Head → Option (Fin 7)
  | .late e => some e
  | _ => none
def Head.isLate (h : Head) : Bool := h.lateness.isSome

def lqOf (d : Device) (c : CtxId) (q : Fin 4) : LinkQueue :=
  vget (getCore d c.core).lqs (physLq (isSplit d c.core) c.ctx q)

def modLq (d : Device) (c : CtxId) (q : Fin 4) (f : LinkQueue → LinkQueue) : Device :=
  modCore d c.core fun k => { k with lqs := vmod k.lqs (physLq k.split c.ctx q) f }

/-- The head at tick t in period p. A variable entry past its due tick that is not filled, or not ready for
4 periods, is late. DEDUCED: a pop presented before the contract tick of a variable entry waits on schedule ticks
(R66, R127), and the domain stalls only for what comes after that tick (log entry 35). -/
def headAt (x : LinkQueue) (t p : Nat) : Head :=
  match x.entries with
  | [] => .empty
  | e :: _ =>
    let filled := match e.filledAt with | some f => decide (f < t) | none => false
    let inTime := match e.ready with | some r => r = 0 || decide (r + 4 ≤ p) | none => false
    if !e.var then (if filled then .ready e.data else .empty)
    else if filled && inTime then .ready e.data
    else match e.due with
      | some u => if u < t then .late e.cause else .empty
      | none => .empty

/-- Whether a request in flight is the load that fills an entry of a queue. -/
def fillsEntry (q : Fin 4) (id : Nat) (r : Request) : Bool :=
  match r.kind with
  | .load (.lq p n) _ => p = q && n = id
  | _ => false

/-- The cause under which the lateness of an entry is ledgered: while it is not filled, that of its load (R41). -/
def entryCause (d : Device) (c : CtxId) (q : Fin 4) (e : LqEntry) : Fin 7 :=
  if e.filledAt.isSome then e.cause
  else match (getUnit d c).flights.find? fun f => fillsEntry q e.id f.req with
    | some f => f.cause
    | none => e.cause

def headOf (d : Device) (c : CtxId) (q : Fin 4) : Head :=
  match headAt (lqOf d c q) (tickOf d c) (periodOf d c), (lqOf d c q).entries with
  | .late _, e :: _ => .late (entryCause d c q e)
  | h, _ => h

/-- Whether a push can issue at tick t: the reserved entries as of the end of the previous tick number
fewer than 16 (R66). -/
def roomAt (x : LinkQueue) (t : Nat) : Bool :=
  decide (x.entries.length + (if x.popTick = t then x.pops else 0) < 16 + (if x.pushTick = t then x.pushes else 0))

def roomOf (d : Device) (c : CtxId) (q : Fin 4) : Bool := roomAt (lqOf d c q) (tickOf d c)

/-- Reserves an entry at tick t, filled at its end when data is given. -/
def pushEntry (x : LinkQueue) (t : Nat) (data : Option Entry) (var : Bool) : LinkQueue :=
  { x with
    entries := x.entries ++ [{ id := x.nextId, data := data.getD 0, filledAt := data.map fun _ => t, var := var, due := none, ready := none, cause := 6 }]
    nextId := x.nextId + 1
    pushes := (if x.pushTick = t then x.pushes else 0) + 1
    pushTick := t }

/-- Frees the head entry at tick t. -/
def popEntry (x : LinkQueue) (t : Nat) : LinkQueue :=
  { x with
    entries := x.entries.drop 1
    headSlot := x.headSlot + 1
    pops := (if x.popTick = t then x.pops else 0) + 1
    popTick := t }

/-- Pushes a filled entry. -/
def pushData (d : Device) (c : CtxId) (q : Fin 4) (v : Entry) : Device := modLq d c q fun x => pushEntry x (tickOf d c) (some v) false
def popHead (d : Device) (c : CtxId) (q : Fin 4) : Device := modLq d c q fun x => popEntry x (tickOf d c)

/-- The data at the head, zero when there is none. -/
def headData (d : Device) (c : CtxId) (q : Fin 4) : Entry :=
  match (lqOf d c q).entries with
  | e :: _ => e.data
  | [] => 0

/-- Fills a reserved entry by its number, at the end of tick t; late data is ready from period p. -/
def fillEntry (x : LinkQueue) (id : Nat) (v : Entry) (t : Nat) (ready : Nat) (cause : Fin 7) : LinkQueue :=
  { x with entries := x.entries.map fun e => if e.id = id then { e with data := v, filledAt := some t, ready := some ready, cause := cause } else e }

/-- Sets the due tick of a variable entry. -/
def dueEntry (x : LinkQueue) (id due : Nat) : LinkQueue :=
  { x with entries := x.entries.map fun e => if e.id = id then { e with due := some due } else e }

/-- Element i of w bits of an entry (R163). -/
def lane (e : Entry) (w i : Nat) : Nat := e.toNat / 2 ^ (w * i) % 2 ^ w

/-- An entry from its elements of w bits, element 0 lowest. -/
def ofLanes (w : Nat) (l : List Nat) : Entry := BitVec.ofNat 2048 (l.foldr (fun x a => x % 2 ^ w + 2 ^ w * a) 0)

/-! ### Sources of vector and matrix operands (R92) -/

/-- The queue of a source code, and whether it is popped. -/
def srcQueue (c : BitVec 5) : Option (Fin 4 × Bool) :=
  match srcPop c, srcPeek c with
  | q :: _, _ => some (q, true)
  | [], q :: _ => some (q, false)
  | [], [] => none

/-- The queue of a destination code. -/
def dstQueue (c : BitVec 5) : Option (Fin 4) := (dstPush c).head?

/-- Entry number n of an operand: the register n places on, the head of its queue, or zero. -/
def operand (d : Device) (c : CtxId) (code : BitVec 5) (n : Nat) : Entry :=
  match srcQueue code with
  | some (q, _) => headData d c q
  | none => if code.toNat < 16 then readV (getCore d c.core) c.ctx (code.toNat + n) else 0

/-- Whether an operand can be taken now. -/
def operandHead (d : Device) (c : CtxId) (code : BitVec 5) : Head :=
  match srcQueue code with
  | some (q, _) => headOf d c q
  | none => .ready 0

/-- Pops the queue of a source code that pops. -/
def takeOperand (d : Device) (c : CtxId) (code : BitVec 5) : Device :=
  match srcQueue code with
  | some (q, true) => popHead d c q
  | _ => d

/-- Whether a destination code can accept an entry now. -/
def destRoom (d : Device) (c : CtxId) (code : BitVec 5) : Bool :=
  match dstQueue code with
  | some q => roomOf d c q
  | none => true

/-- Writes result entry n of an operation: to register code + n, or a push. -/
def putResult (d : Device) (c : CtxId) (code : BitVec 5) (n : Nat) (v : Entry) (issued : Nat) : Device :=
  match dstQueue code with
  | some q => pushData d c q v
  | none =>
    if code.toNat < 16 then modCore d c.core fun k => writeV k c.ctx (code.toNat + n) v issued else d

/-! ### Execute sequencer of a core or context -/

/-- The execute sequencer, which issued every matrix and vector operation in progress. -/
def execSeq (c : CtxId) : Fin 4 := (seqOf c true).seq
def accSeq (c : CtxId) : Fin 4 := (seqOf c false).seq

/-- A context's bundle address as the physical core numbers it. -/
def physPc (d : Device) (c : CtxId) (pc : BitVec 12) : BitVec 12 := physAddr (isSplit d c.core) c.ctx pc

end Sys2Proof.Machine
end

