-- ==== Sys2Proof/Machine/AddrGen.lean ====
section
/-! DEFINITION. Address generators (R105–R108, R123): the current address, an advance, loading a
descriptor. -/

namespace Sys2Proof.Machine

/-- A generator as the core or context names it. -/
def agOf (d : Device) (c : CtxId) (g : Nat) : AddrGen := vget (getCore d c.core).ags (physAg (isSplit d c.core) c.ctx g)
def modAg (d : Device) (c : CtxId) (g : Nat) (f : AddrGen → AddrGen) : Device :=
  modCore d c.core fun k => { k with ags := vmod k.ags (physAg k.split c.ctx g) f }

/-- ag_address (R5): the base plus stride times index of the six levels, modulo 2^64. -/
def agAddress (g : AddrGen) : W64 :=
  (List.finRange 6).foldl (fun a l => a + (vget g.stride l).signExtend 64 * (vget g.idx l).setWidth 64) g.base

/-- The 48-bit core address of the current transfer. DESIGN CHOICE: bits [63:48] of a computed address are dropped, and
the transfer proceeds (log entry 65). -/
def agTarget (g : AddrGen) : Nat := (agAddress g).toNat % 2 ^ 48

/-- ag_advance from a level on (R106); the fuel bounds the levels. -/
def agCarry : Nat → Nat → AddrGen → AddrGen
  | 0, _, g => g
  | n + 1, l, g =>
    if l < g.levels.toNat then
      let i := finMod 6 l
      if (vget g.idx i).toNat + 1 < (vget g.count i).toNat then { g with idx := vset g.idx i (vget g.idx i + 1) }
      else agCarry n (l + 1) { g with idx := vset g.idx i 0 }
    else if g.exhaust then g else { g with done := true }

/-- One advance. -/
def agAdvance (g : AddrGen) : AddrGen := agCarry 8 0 g

/-- Whether n advances leave DONE set on the way: the generator stops, and total is the product of its
counts. -/
def agTotal (g : AddrGen) : Nat :=
  (List.finRange 6).foldl (fun a l => if l.val < g.levels.toNat then a * (vget g.count l).toNat else a) 1

/-- The position of the indices in the whole iteration space, level 0 innermost. -/
def agPosition (g : AddrGen) : Nat :=
  ((List.finRange 6).foldl (fun (a : Nat × Nat) l =>
    if l.val < g.levels.toNat then (a.1 + a.2 * (vget g.idx l).toNat, a.2 * (vget g.count l).toNat) else a) (0, 1)).1

/-- The indices at a position. -/
def agIndices (g : AddrGen) (p : Nat) : Vector W32 6 :=
  ((List.finRange 6).foldl (fun (a : Vector W32 6 × Nat) l =>
    if l.val < g.levels.toNat then
      let n := (vget g.count l).toNat
      (vset a.1 l (BitVec.ofNat 32 (a.2 % n)), a.2 / n)
    else a) (Vector.replicate 6 0, p)).1

/-- n advances at once (agstep, R123). With EXHAUST stop, an advance that wraps the last level sets DONE and
leaves every index zero; advances continue from there. -/
def agStep (g : AddrGen) (n : Nat) : AddrGen :=
  let p := agPosition g + n
  { g with idx := agIndices g (p % agTotal g), done := g.done || (!g.exhaust && decide (agTotal g ≤ p)) }

/-- Zero indices, DONE clear (agbase, agrst). -/
def agRestart (g : AddrGen) : AddrGen := { g with idx := Vector.replicate 6 0, done := false }

/-- A generator loaded with a descriptor (R105, R106); an all-zero one stays unloaded (R107). -/
def agLoad (x : BitVec 512) : AddrGen :=
  if x = 0 then AddrGen.reset
  else
    { base := x.extractLsb' 0 64
      count := Vector.ofFn fun k : Fin 6 => x.extractLsb' (64 + 32 * k.val) 32
      stride := Vector.ofFn fun k : Fin 6 => x.extractLsb' (256 + 32 * k.val) 32
      levels := x.extractLsb' 448 3
      exhaust := x.getLsbD 451
      idx := Vector.replicate 6 0
      done := false
      loaded := true
      staged := none }

/-- aginst: the staged descriptor, when it was filled by the end of the previous tick and is valid. -/
def agInstalled (g : AddrGen) (t : Nat) : Option AddrGen :=
  match g.staged with
  | some (x, f) => if f < t && x != 0 && agValid x then some (agLoad x) else none
  | none => none

end Sys2Proof.Machine
end

