-- ==== Sys2Proof/Machine/Flags.lean ====
section
/-! DEFINITION. Flags (R133–R135, R233–R243): values, classes, wait tests, targets of a signal, the
monotonic checks, and the changes that take effect at the end of a tick. -/

namespace Sys2Proof.Machine

/-- A flag of a core or context, as it names it. -/
def flagOf (d : Device) (c : CtxId) (f : Byte) : W32 :=
  vget (getCore d c.core).flags (physFlag (isSplit d c.core) c.ctx f)

/-- The class of a flag (R236): 0 where no loaded binary names the core. -/
def classOf (d : Device) (c : CtxId) (f : Byte) : Nat :=
  (vget (getCore d c.core).classes (physFlag (isSplit d c.core) c.ctx f)).toNat

/-- The declaration of a core or context whose local flag is f (R239). -/
def monoAt (d : Device) (c : CtxId) (f : Byte) : Option MonoDecl :=
  (getCore d c.core).monos.find? fun m => m.ctx = c.ctx && m.flag = f

/-- Class and declaration of a flag of another core or context, in the copy that each core of the partition holds (R237). -/
def toldClass (d : Device) (t : CtxId) (f : Byte) : Nat :=
  (vget (getCore d t.core).toldClasses (physFlag (isSplit d t.core) t.ctx f)).toNat
def toldMono (d : Device) (t : CtxId) (f : Byte) : Option MonoDecl :=
  (getCore d t.core).toldMonos.find? fun m => m.ctx = t.ctx && m.flag = f

/-- The declaration of an issuing core or context whose partner flag is a given flag (R241). -/
def monoTo (d : Device) (c t : CtxId) (f : Byte) : Option MonoDecl :=
  (getCore d c.core).monos.find? fun m =>
    m.ctx = c.ctx && m.partner = t.core && m.partnerCtx = t.ctx && m.pflag = f

/-- Flag ≥ threshold (R234). -/
def reaches (mono : Bool) (v th : W32) : Bool :=
  if mono then decide ((v - th).toNat < 2 ^ 31) else decide (th.toNat ≤ v.toNat)

/-- What fwsub operations of the core take from a flag on the present tick (R135). -/
def takenSubs (l : List FlagChange) (f : Byte) : W32 :=
  l.foldl (fun a x => match x with | .sub _ g v => if g = f then a + v else a | _ => a) 0

/-- Whether a wait on a local flag is met at the present tick: the value of the end of the previous tick,
less what a lower sequencer's fwsub takes when this operation takes too (R135). -/
def flagMet (d : Device) (c : CtxId) (f : Byte) (th : W32) (takes : Bool) : Bool :=
  let taken := if takes then takenSubs (getCore d c.core).flagPend (BitVec.ofNat 8 (physFlag (isSplit d c.core) c.ctx f).val) else 0
  let v := flagOf d c f
  reaches (monoAt d c f).isSome v th && (taken = 0 || (decide (taken.toNat ≤ v.toNat) && reaches (monoAt d c f).isSome (v - taken) th))

/-! ### Targets (R134, R237) -/

/-- The target of a signal, or the halt reason of a faulty one. -/
def signalTarget (d : Device) (c : CtxId) (reg : W64) (f : Byte) : Except Byte CtxId :=
  let core : CoreId := finMod 512 (reg.toNat % 512)
  let ctx : Fin 2 := finMod 2 (reg.toNat / 512)
  if reg.toNat / 1024 != 0 then .error 0x04
  else if partOfCore d core != partOfCore d c.core then .error 0x12
  else if ctx = 1 && !isSplit d core then .error 0x04
  else if isSplit d core && 128 ≤ f.toNat then .error 0x04
  else if toldClass d { core := core, ctx := ctx } f = 1 then .error 0x04
  else .ok { core := core, ctx := ctx }

/-! ### Monotonic checks (R241–R243, R254) -/

/-- FLAG_DRIFT of a failed check. -/
def driftWord (diff : W32) (receipt : Bool) (partner : CtxId) (flag : Nat) : W64 :=
  put64 32 diff.toNat ||| put64 31 1 ||| bit64 30 receipt ||| put64 19 partner.ctx.val ||| put64 10 partner.core.val ||| put64 0 flag

/-- FLAG_DRIFT of an operation that R243 refuses. -/
def driftNamed (d : Device) (t : CtxId) (f : Byte) : W64 := driftWord 0 false t (physFlag (isSplit d t.core) t.ctx f).val

/-- The check of an fadd of i by core or context c to flag f of t: FLAG_DRIFT when it fails. -/
def addDrift (d : Device) (c t : CtxId) (f : Byte) (i : W32) : Option W64 :=
  let foreign := match toldMono d t f with
    | some m => !(m.partner = c.core && m.partnerCtx = c.ctx)
    | none => false
  if foreign then some (driftNamed d t f)
  else match monoTo d c t f with
    | none => none
    | some m =>
      let v := flagOf d c m.flag
      let diff : W32 := if m.consumer then v - (m.sent + i) else m.sent + i - v
      let ok := if m.consumer then decide (0 ≤ diff.toInt) else decide (diff.toInt ≤ (m.depth.toNat : Int))
      if ok then none
      else some (driftWord diff false { core := m.partner, ctx := m.partnerCtx } (physFlag (isSplit d c.core) c.ctx m.flag).val)

/-- Records the first failed check (R254). -/
def noteDrift (k : Core) (v : W64) : Core := if k.drift.getLsbD 31 then k else { k with drift := v }

/-- S := S + i of the declaration whose partner flag is signalled (R241). -/
def countSent (d : Device) (c t : CtxId) (f : Byte) (i : W32) : Device :=
  modCore d c.core fun k => { k with monos := k.monos.map fun m =>
    if m.ctx = c.ctx && m.partner = t.core && m.partnerCtx = t.ctx && m.pflag = f then { m with sent := m.sent + i } else m }

/-! ### Changes at the end of a tick (R135, R235) -/

/-- A change for the end of the tick; the flag is physical. -/
def pendFlag (d : Device) (core : CoreId) (x : FlagChange) : Device :=
  modCore d core fun k => { k with flagPend := k.flagPend ++ [x] }

/-- An addition to a flag of a core or context. -/
def pendAdd (d : Device) (t : CtxId) (f : Byte) (delta : W32) : Device :=
  pendFlag d t.core (.add (BitVec.ofNat 8 (physFlag (isSplit d t.core) t.ctx f).val) delta)

/-- The lowest sequencer's fset of a flag. -/
def setOf (l : List FlagChange) (f : Nat) : Option W32 :=
  (l.foldl (fun a x => match x with
    | .set n g v => if g.toNat = f then
        match a with
        | some (m, w) => if m ≤ n.val then some (m, w) else some (n.val, v)
        | none => some (n.val, v)
      else a
    | _ => a) (none : Option (Nat × W32))).map Prod.snd

/-- The sum of additions and subtractions of a flag. -/
def sumOf (l : List FlagChange) (f : Nat) : W32 :=
  l.foldl (fun a x => match x with
    | .add g v => if g.toNat = f then a + v else a
    | .sub _ g v => if g.toNat = f then a - v else a
    | .set _ _ _ => a) 0

/-- Every change of the tick takes effect: sets first, then the sum. -/
def settleFlags (k : Core) : Core :=
  match k.flagPend with
  | [] => k
  | l => { k with flagPend := [], flags := vmapi k.flags fun f v => (setOf l f.val).getD v + sumOf l f.val }

/-- The receipt checks of R242 that fail after the flags of a core changed: the context and FLAG_DRIFT. -/
def receiptDrifts (before k : Core) : List (Fin 2 × W64) :=
  k.monos.filterMap fun m =>
    let f := physFlag k.split m.ctx m.flag
    let r := vget k.flags f
    let diff := r - m.sent
    if m.consumer && vget before.flags f != r && decide ((m.depth.toNat : Int) < diff.toInt) then
      some (m.ctx, driftWord diff true { core := m.partner, ctx := m.partnerCtx } f.val)
    else none

/-- The run's record of its first halt with the reason of a core or context put right. -/
def renameHalt (r : Run) (c : CtxId) (code : Byte) : Run :=
  { r with first := r.first.map fun f => if f.ctx = c && f.tick = r.tick then { f with code := code } else f }

/-- A failed receipt check is recorded and halts its core or context. One that halted on the same tick with 0x16 or 0x15 records its
own reason instead (R81, R254). -/
def receiptHalt (d : Device) (c : CtxId) (v : W64) : Device :=
  let h := (getUnit d c).halt
  if (runOf d c).isNone || (h.halted && h.tick != tick32 (tickOf d c)) then d
  else if !h.halted then haltNoBundle (modCore d c.core (noteDrift · v)) c 0x07
  else
    let d := detectAt (modCore d c.core (noteDrift · v)) (checkEvent d c 0x07 h.fetch)
    if h.code != 0x16 && h.code != 0x15 then d else
    let d := modUnit d c fun u => { u with halt := { u.halt with code := 0x07 } }
    match domOf d c with
    | some i => modRun d i (renameHalt · c 0x07)
    | none => d

/-- The flags of a core take their values of the end of the tick, and the receipt checks are made. -/
def flagsEnd (d : Device) (core : CoreId) : Device :=
  let k := getCore d core
  if k.flagPend.isEmpty then d
  else forAll (receiptDrifts k (settleFlags k)) (modCore d core settleFlags) fun d x => receiptHalt d { core := core, ctx := x.1 } x.2

end Sys2Proof.Machine
end

