-- ==== Sys2Proof/Machine/Scratch.lean ====
section
/-! DEFINITION. The scratchpad (R211–R232): reads with their parity check, writes, bank arbitration, bank
power, and the parity replay. -/

namespace Sys2Proof.Machine

/-! ### Reads and writes -/

/-- Key of the first byte of the word at an offset. -/
def wordKey (d : Device) (c : CtxId) (off : Nat) : Nat :=
  scratchKey c.core (physOffset (isSplit d c.core) c.ctx (off / 4 * 4))

def readPad (d : Device) (c : CtxId) (off n : Nat) : List Byte := readTarget d (partOfCore d c.core) (.scratch c off) n

/-- The words of an access, by their keys. -/
def wordKeys (d : Device) (c : CtxId) (off n : Nat) : List Nat :=
  (List.range ((off % 4 + n + 3) / 4)).map fun k => wordKey d c (off + 4 * k)

/-- Writes bytes; the words written carry sound parity (R223). -/
def writePad (d : Device) (c : CtxId) (off : Nat) (bs : List Byte) : Device :=
  let keys := wordKeys d c off bs.length
  let d := writeTarget d (partOfCore d c.core) (.scratch c off) bs
  if d.scratchBad.isEmpty then d else { d with scratchBad := d.scratchBad.filter fun k => !keys.contains k }

/-- A store's write: an armed detector 0x0101 inverts the parity of its first word (R471). -/
def storePad (d : Device) (c : CtxId) (off : Nat) (bs : List Byte) : Device :=
  let d := writePad d c off bs
  let (inj, d) := inject d 0x101 (coreUnit c)
  if inj then { d with scratchBad := wordKey d c off :: d.scratchBad } else d

/-- Bytes of an entry, and an entry of bytes. -/
def entryBytes (e : Entry) (n : Nat) : List Byte := leBytes n e.toNat
def bytesEntry (bs : List Byte) : Entry := leBits 2048 bs

/-! ### Parity (R224, R225, R232) -/

/-- The period in progress of the partition that owns a core. -/
def corePeriod (d : Device) (c : CoreId) : Nat := (getPart d (partOfCore d c)).periods

/-- Whether a failed check replaces the record that earlier ticks have left in SP_PARITY: a persistent one replaces one that
is not (R232). -/
def padReplaces (old new : SpParity) : Bool := !old.valid || (new.persistent && !old.persistent)

/-- Of two failed checks on one tick, that of the lowest-numbered bank (R232). DESIGN CHOICE: of two words of one bank, that of the
check noted first, which is the word at the lower address (log entry 107). -/
def lowerBank (a b : SpParity) : SpParity := if !a.valid || b.bank < a.bank then b else a

/-- The failed check of a period that is kept beside SP_PARITY. -/
def freshParity (k : Core) (period : Nat) : SpParity := if k.spFresh.since = period then k.spFresh else SpParity.reset

/-- Records a failed check in SP_PARITY of the core that owns the word (R232). -/
def notePad (d : Device) (key : Nat) (source : BitVec 2) (persistent : Bool) : Device :=
  let core : CoreId := finMod 512 (key / 4194304)
  let x : SpParity :=
    { valid := true, persistent := persistent, source := source, bank := BitVec.ofNat 5 (key / 131072),
      word := BitVec.ofNat 3 (key / 4), row := BitVec.ofNat 12 (key / 32), since := corePeriod d core }
  modCore d core fun k =>
    let fresh := freshParity k x.since
    let base := if fresh.valid then k.spBase else k.spParity
    let now := lowerBank fresh x
    { k with spParity := if padReplaces base now then now else base, spFresh := now, spBase := base }

/-- DETAIL of a parity event (R473). -/
def padDetail (key : Nat) (source : BitVec 2) : W64 :=
  put64 0 (key / 131072 % 32) ||| put64 5 (key / 4 % 8) ||| put64 8 (key / 32 % 4096) ||| put64 20 source.toNat

/-- The core or context that owns a word, as far as UNIT names it. -/
def padUnit (d : Device) (key : Nat) : BitVec 16 :=
  let core : CoreId := finMod 512 (key / 4194304)
  coreUnit { core := core, ctx := if isSplit d core then finMod 2 (key / 2097152) else 0 }

/-- The words of an access whose stored parity is wrong. -/
def badWords (d : Device) (c : CtxId) (off n : Nat) : List Nat := (wordKeys d c off n).filter fun k => d.scratchBad.contains k

/-- A read for a core or context r whose check fails two ticks after its bank read: a replay, or a persistent error.
It is due six ticks after its last bank tick, which may lie some ticks ahead (R213, R224). -/
def failingRead (d : Device) (r : CtxId) (key : Nat) (source : BitVec 2) (seq : Fin 4) (pc : BitVec 12) (det : BitVec 16) (inj : Bool)
    (ahead : Nat) : Device :=
  let t := tickOf d r
  let persistent : Bool := det = 0x101
  let d := modUnit d r fun u => { u with replays := u.replays ++ [
      { offset := key, word := key / 4 % 8, source := source, tries := 0, checkAt := t + 2, since := 0, due := t + ahead + 6, seq := seq, pc := pc,
        persistent := persistent, checked := false, det := det, inj := inj }] }
  addItem d r { ref := .replay r, due := t + ahead + 6, ready := if persistent then some 0 else none, cause := 5 }

/-- A read for a core or context r (its load port, a remote read, or its stream port) on the present tick: each word
whose stored parity is wrong fails, written so by an armed detector 0x0101; an armed detector 0x0100 makes the first
word fail (R471). -/
def parityRead (d : Device) (r c : CtxId) (off n : Nat) (source : BitVec 2) (seq : Fin 4) (pc : BitVec 12) (ahead : Nat) : Device :=
  let bad := badWords d c off n
  let d := forAll bad d fun d k => failingRead d r k source seq pc 0x101 true ahead
  if isArmed d 0x100 (coreUnit c) && !bad.contains (wordKey d c off) then
    let (inj, d) := inject d 0x100 (coreUnit c)
    failingRead d r (wordKey d c off) source seq pc 0x100 inj ahead
  else d

/-- A failed check is recorded (R225, R232, R471). -/
def recordCheck (d : Device) (r : CtxId) (x : Replay) : Device :=
  let e := if x.det = 0x102 then coreEvent d r x.det (coreUnit r) 1 0 (padDetail x.offset x.source)
    else coreEvent d r x.det (padUnit d x.offset) (if x.persistent then 2 else 1) (if x.persistent then 0x0C else 0) (padDetail x.offset x.source)
  detect (notePad d x.offset x.source x.persistent) { e with inj := x.inj }

/-- The reads of a core or context whose check falls on the tick that begins. -/
def checksFall (d : Device) (r : CtxId) : Device :=
  let falls := fun (x : Replay) => !x.checked && decide (x.checkAt ≤ tickOf d r)
  let mine := (getUnit d r).replays.filter falls
  if mine.isEmpty then d
  else
    let d := forAll mine d fun d x => recordCheck d r x
    modUnit d r fun u => { u with replays := u.replays.map fun x => if falls x then { x with checked := true, since := periodOf d r } else x }

/-- A read that no run asks for, by a requester of SP_PARITY (R225): whether it is persistent, and the device. -/
def parityOutside (d : Device) (c : CtxId) (off n : Nat) (source : BitVec 2) : Bool × Device :=
  let bad := badWords d c off n
  let d := forAll bad d fun d k => detect (notePad d k source true) { hubEvent 0x101 (padUnit d k).toNat 2 (padDetail k source) with inj := true }
  let k := wordKey d c off
  if isArmed d 0x100 (coreUnit c) && !bad.contains k then
    let d := modCore d (finMod 512 (k / 4194304)) fun x => { x with replays := satAdd x.replays 1 }
    (!bad.isEmpty, detectAt (notePad d k source false) (hubEvent 0x100 (padUnit d k).toNat 1 (padDetail k source)))
  else (!bad.isEmpty, d)

/-- A read for the host. -/
def parityHost (d : Device) (c : CtxId) (off n : Nat) : Bool × Device := parityOutside d c off n 3

/-- Whether a resend of a read arrives in the present period: the third after the failed check (R224). -/
def resendNow (d : Device) (c : CtxId) (r : Replay) : Bool := r.checked && !r.persistent && periodOf d c = r.since + 3

/-- A resend of the oldest read under replay arrives (R224): repaired, or failed; after three it is persistent, and its tick is
held no longer. Each failed check is recorded (R225). -/
def resendArrives (d : Device) (c : CtxId) (ok : Bool) : Device :=
  match (getUnit d c).replays.find? (resendNow d c) with
  | none => d
  | some r =>
    let swap := fun (d : Device) (f : Replay → List Replay) =>
      modUnit d c fun u => { u with replays := u.replays.flatMap fun x => if x = r then f x else [x] }
    let ready := fun (d : Device) (now : Bool) => match domOf d c with
      | none => d
      | some i => modRun d i fun x => { x with items := (x.items.foldl (fun (a : Bool × List VarItem) it =>
          if !a.1 && it.ref = .replay c && it.due = r.due && it.ready = none then (true, a.2 ++ [{ it with ready := some (if now then 0 else x.period) }]) else (a.1, a.2 ++ [it])) (false, [])).2 }
    if ok then
      let d := swap d fun _ => []
      ready (modCore d (finMod 512 (r.offset / 4194304)) fun k => { k with replays := satAdd k.replays 1 }) false
    else if r.tries < 2 then
      swap (recordCheck d c r) fun x => [{ x with tries := x.tries + 1, since := periodOf d c }]
    else
      let d := notePad d r.offset r.source true
      let e := if r.det = 0x102 then coreEvent d c 0x102 (coreUnit c) 2 0x0C (padDetail r.offset r.source)
        else coreEvent d c 0x101 (padUnit d r.offset) 2 0x0C (padDetail r.offset r.source)
      let d := detect d { e with inj := r.inj }
      ready (swap d fun x => [{ x with tries := 3, persistent := true }]) true

/-! ### Banks (R214, R219, R226–R228) -/

/-- Whether every bank of an access is powered. -/
def padPowered (d : Device) (c : CtxId) (off n : Nat) : Bool :=
  let m := banksOf (isSplit d c.core) c.ctx off n
  (getCore d c.core).bankOn &&& m = m

/-- Whether a write that reached a scratchpad's edge in a period of its partition is accepted: its banks are powered,
and no power-down of one was requested before it came (R227, R228). -/
def writeAccepted (d : Device) (c : CtxId) (off n since : Nat) : Bool :=
  padPowered d c off n &&
    (getCore d c.core).pdWait.all fun p => !(banksOf (isSplit d c.core) c.ctx off n).getLsbD p.1.val || decide (since + 2048 ≤ p.2)

/-- Whether no requester of higher priority has taken a bank of the access on this tick. -/
def banksFree (d : Device) (c : CtxId) (m : W32) : Bool := (getUnit d c).busBanks &&& m = 0
def takeBanks (d : Device) (c : CtxId) (m : W32) : Device := modUnit d c fun u => { u with busBanks := u.busBanks ||| m }

/-- Banks of an access; bits of the context's half only. -/
def padBanks (d : Device) (c : CtxId) (off n : Nat) : W32 := banksOf (isSplit d c.core) c.ctx off n

/-- A bank loses its contents (R226). -/
def bankClear (d : Device) (core : CoreId) (b : Fin 32) : Device :=
  let lo := scratchKey core (b.val * 131072)
  { d with scratch := memClear d.scratch lo (lo + 131072), scratchBad := d.scratchBad.filter fun a => a < lo || lo + 131072 ≤ a }

/-- Context and offset that a transfer to space 0x1 or an anchor unit names. -/
def flightTarget (d : Device) (f : Flight) : Fin 2 × Nat :=
  match f.req.kind with
  | .message _ _ _ off => (finMod 2 (f.req.addr.toNat / 512), off)
  | _ => match resolve d (partOfCore d (finMod 512 (f.req.addr.toNat / 2 ^ 22))) none f.req.addr.toNat f.req.bytes with
    | .ok (.scratch t off) => (t.ctx, off)
    | _ => (0, 0)

/-- An accumulate or an anchor unit of a core between its bank read and its bank write. -/
def accToward (d : Device) (core : CoreId) (f : Flight) : Bool :=
  f.arrived && match f.req.kind with
    | .accumulate _ _ => (match resolve d (partOfCore d core) none f.req.addr.toNat f.req.bytes with | .ok (.scratch t _) => t.core = core | _ => false)
    | .message _ _ _ _ => (finMod 512 f.req.addr.toNat : CoreId) = core
    | _ => false

/-- A write of a flight that still waits for its banks at a core's edge: a store, an accumulate or an anchor unit. -/
def waitingToward (d : Device) (core : CoreId) (f : Flight) : Bool :=
  f.reached.isSome && !f.arrived && !f.req.predOff && match f.req.kind with
    | .store _ | .accumulate _ _ => (match resolve d (partOfCore d core) none f.req.addr.toNat f.req.bytes with | .ok (.scratch t _) => t.core = core | _ => false)
    | .message _ _ _ _ => (finMod 512 f.req.addr.toNat : CoreId) = core
    | _ => false

/-- Whether a flight's write toward a bank is in flight there (R228): between its read and its write, or waiting at the
edge since before the power-down request of a given limit. -/
def writeToward (d : Device) (core : CoreId) (b : Fin 32) (limit : Nat) (f : Flight) : Bool :=
  !f.req.predOff && (accToward d core f || (waitingToward d core f && decide (f.reached.getD 0 + 2048 ≤ limit))) &&
    (banksOf (isSplit d core) (flightTarget d f).1 (flightTarget d f).2 f.req.bytes).getLsbD b.val

/-- Whether a local store or a stream-port write of a core's unit is in flight toward a bank. -/
def storeToward (d : Device) (core : CoreId) (b : Fin 32) (x : Fin 2) (s : PendingStore) : Bool :=
  !s.off && (banksOf (isSplit d core) x s.offset s.bytes).getLsbD b.val
def edgeToward (d : Device) (core : CoreId) (b : Fin 32) (x : Fin 2) (e : EdgeReq) : Bool :=
  !e.read && (banksOf (isSplit d core) x e.item.offset 64).getLsbD b.val

/-- Likewise for a unit from outside that is added to an anchor buffer of the core. -/
def addToward (d : Device) (core : CoreId) (b : Fin 32) (limit : Nat) (x : Fin 2) (a : InAdd) : Bool :=
  (a.readAt.isSome || decide (a.reached + 2048 ≤ limit)) && (banksOf (isSplit d core) x a.off 64).getLsbD b.val

/-- Writes in flight toward a bank at a request of a given limit: of the core's own stores, of its stream port, of units from
outside, and of remote writes that have come to its edge. -/
def bankWrites (d : Device) (core : CoreId) (b : Fin 32) (limit : Nat) : Nat :=
  ((List.finRange 2).map fun x =>
    let u := vget (getCore d core).units x
    (u.stores.filter (storeToward d core b x)).length + (u.stream.edge.filter (edgeToward d core b x)).length +
      (u.adds.filter (addToward d core b limit x)).length).sum +
  ((List.finRange 512).map fun k => ((List.finRange 2).map fun x =>
    ((vget (getCore d k).units x).flights.filter (writeToward d core b limit)).length).sum).sum

/-- The bank powers down: its contents are lost. -/
def bankOffNow (d : Device) (core : CoreId) (b : Fin 32) : Device :=
  let d := bankClear d core b
  modCore d core fun k => { k with bankOn := k.bankOn &&& ~~~ ((1 : W32) <<< b.val), pdWait := k.pdWait.filter fun p => p.1 != b }

/-- A power-down request of a bank: at once, or after the writes in flight (R228). -/
def bankRequest (d : Device) (core : CoreId) (b : Fin 32) : Device :=
  let limit := corePeriod d core + 2048
  if !(getCore d core).bankOn.getLsbD b.val || (getCore d core).pdWait.any (·.1 = b) then d
  else if bankWrites d core b limit = 0 then bankOffNow d core b
  else modCore d core fun k => { k with pdWait := k.pdWait ++ [(b, limit)] }

/-- The bank powers up, cleared to zero with sound parity (R226). -/
def bankOnNow (d : Device) (core : CoreId) (b : Fin 32) : Device :=
  let d := if (getCore d core).bankOn.getLsbD b.val then d else bankClear d core b
  modCore d core fun k => { k with bankOn := k.bankOn ||| ((1 : W32) <<< b.val), pdWait := k.pdWait.filter fun p => p.1 != b }

/-- The banks of a whole core, or of a context (R212). -/
def ctxBanks (d : Device) (c : CtxId) : List (Fin 32) :=
  (List.finRange 32).filter fun b => !isSplit d c.core || b.val / 16 = c.ctx.val

/-- Brings the banks of a core or context to what the run's mask and BANK_OFF ask for. -/
def bankSettle (d : Device) (c : CtxId) : Device :=
  let off := (getCore d c.core).bankOff ||| (getCore d c.core).runOff
  forAll (ctxBanks d c) d fun d b => if off.getLsbD b.val then bankRequest d c.core b else bankOnNow d c.core b

/-- The writes in flight toward a bank have been written, and it powers down. -/
def bankPowerdown (d : Device) (core : CoreId) (b : Fin 32) : Device :=
  match (getCore d core).pdWait.find? (·.1 = b) with
  | some (_, limit) => if bankWrites d core b limit = 0 then bankOffNow d core b else d
  | none => d

def execBankPowerdown (core : CoreId) (bank : Fin 32) (s : State) : Host.Outcome State Fault Refusal :=
  onDev (fun d => bankPowerdown d core bank) s

/-- A local store that receives an error response stands as a transfer that halts its core on the tick after a given one
(R228, R444). -/
def refusedStore (d : Device) (c : CtxId) (s : PendingStore) (due : Nat) : Flight :=
  { uid := (getUnit d c).nextUid, u := 0, due := due, subs := [], data := 0, arrived := true, readAt := 0, reached := none, halves := 0,
    var := false, cause := 2, error := some 0x04,
    req := { kind := .store s.data, seq := s.seq, pc := s.pc, addr := BitVec.ofNat 64 s.offset, bytes := s.bytes, predOff := false, valid := true,
             entryTick := tickOf d c, slotsLeft := 0 } }

/-- The writes in flight toward a bank complete with error responses at their senders (R228). A unit from outside has no sender
here: with its bank off it adds nothing (log entry 72). -/
def refuseWrites (d : Device) (core : CoreId) (b : Fin 32) (limit : Nat) : Device :=
  let d := forAll (List.finRange 2) d fun d x =>
    let c : CtxId := { core := core, ctx := x }
    let lost := (getUnit d c).stores.filter (storeToward d core b x)
    let bad := fun (e : EdgeReq) => if edgeToward d core b x e then { e with item := { e.item with error := some 0x04 } } else e
    modUnit d c fun u =>
      { u with stores := u.stores.filter fun s => !storeToward d core b x s
               flights := u.flights ++ lost.map (fun s => refusedStore d c s (tickOf d c - 1)), nextUid := u.nextUid + lost.length
               adds := u.adds.map fun a => if addToward d core b limit x a then { a with readAt := none } else a
               stream := { u.stream with edge := u.stream.edge.map bad } }
  forAll (List.finRange 512) d fun d k => forAll (List.finRange 2) d fun d x =>
    modUnit d { core := k, ctx := x } fun u =>
      { u with flights := u.flights.map fun f => if writeToward d core b limit f then { f with error := some 0x04, arrived := true } else f }

/-- The bound of 2,048 ticks expires: each outstanding write completes with an error response (R228). -/
def bankTimeout (d : Device) (core : CoreId) (b : Fin 32) : Device :=
  let unit := coreUnit { core := core, ctx := if isSplit d core then finMod 2 (b.val / 16) else 0 }
  match (getCore d core).pdWait.find? (·.1 = b) with
  | none => d
  | some (_, limit) =>
    let n := bankWrites d core b limit
    if n = 0 then d
    else
      let (inj, d) := inject d 0x180 unit
      if !inj && decide (corePeriod d core < limit) then d
      else
        let d := modCore d core fun k => { k with lateWrites := satAdd k.lateWrites n }
        let d := forAll (List.range n) d fun d _ => detect d { hubEvent 0x180 unit.toNat 2 0 with inj := inj }
        bankOffNow (refuseWrites d core b limit) core b

def execBankPowerdownTimeout (core : CoreId) (bank : Fin 32) (s : State) : Host.Outcome State Fault Refusal :=
  onDev (fun d => bankTimeout d core bank) s

/-- SP_CTRL.BANK_OFF: for each core or context at once between its runs, else when its run ends (R226). -/
def bankOffWrite (d : Device) (core : CoreId) (v : W64) : Device :=
  let d := modCore d core fun k => { k with bankOff := v.setWidth 32 }
  forAll (ctxsOf d core) d fun d c => if (runOf d c).isSome then d else bankSettle d c

end Sys2Proof.Machine
end

