-- ==== Sys2Proof/Machine/Message.lean ====
section
/-! DEFINITION. Message queues and channels (R137, R259–R275): the ring, placement and reads, routes and
credit, and the checks of a send. -/

namespace Sys2Proof.Machine

/-! ### The ring (R264–R270) -/

def mqOf (d : Device) (c : CtxId) (q : Nat) : MsgQueue := vget (getCore d c.core).mqs (physQueue (isSplit d c.core) c.ctx q)
def modMq (d : Device) (c : CtxId) (q : Nat) (f : MsgQueue → MsgQueue) : Device :=
  modCore d c.core fun k => { k with mqs := vmod k.mqs (physQueue k.split c.ctx q) f }

/-- Placement of a message (R265): a pad where the tail of the ring is too short, then the units. DESIGN CHOICE: a pad counts its units in
REMAIN too, and has 0 in CHAN and SRC (R275; log entry 118). -/
def place (q : MsgQueue) (units : List (BitVec 512)) (chan : Byte) (src : BitVec 10) (tick : Nat) (inbound : Option (BitVec 18 × Byte)) : MsgQueue :=
  let n := units.length
  let r := 64 - q.wp.toNat
  let q := if r < n then
      { q with descs := q.descs ++ [{ pad := true, start := q.wp, len := r, remain := r, chan := 0, src := 0, placed := tick, inbound := none }]
               occ := q.occ + r, wp := 0 }
    else q
  let m : MqDesc := { pad := false, start := q.wp, len := n, remain := n, chan := chan, src := src, placed := tick, inbound := inbound }
  { q with descs := q.descs ++ [m], occ := q.occ + n,
           units := (List.range units.length).foldl (fun u k => vset u (finMod 64 (q.wp.toNat + k)) (units.getD k 0)) q.units
           wp := BitVec.ofNat 6 (q.wp.toNat + n) }

/-- Units a message of n units takes, with its pad, at the present write position. -/
def placeCost (q : MsgQueue) (n : Nat) : Nat := n + if 64 - q.wp.toNat < n then 64 - q.wp.toNat else 0

/-- The queue with a pad at its head dropped (R270). -/
def skipPad (q : MsgQueue) : MsgQueue :=
  match q.descs with
  | x :: rest => if x.pad then { q with descs := rest, occ := q.occ - x.len, rp := 0 } else q
  | [] => q

/-- Whether a unit was present by the end of the tick before t (R131). -/
def unitReady (q : MsgQueue) (t : Nat) : Bool :=
  match (skipPad q).descs with
  | x :: _ => decide (x.placed < t)
  | [] => false

/-- The unit at the read position, freed with a pad before it, and the message when this was its last unit. -/
def takeUnit (q0 : MsgQueue) : BitVec 512 × MsgQueue × Option MqDesc :=
  let q := skipPad q0
  match q.descs with
  | [] => (0, q0, none)
  | x :: rest =>
    let u := vget q.units (finMod 64 q.rp.toNat)
    let q := { q with rp := q.rp + 1, occ := q.occ - 1 }
    if x.remain ≤ 1 then (u, { q with descs := rest }, some x)
    else (u, { q with descs := { x with remain := x.remain - 1 } :: rest }, none)

/-! ### Channels (R260, R267) -/

/-- Physical number of a channel. -/
def physChan (split : Bool) (ctx : Fin 2) (chan : Byte) : Fin 256 := physFlag split ctx chan

/-- The route of a channel; none when it is unconfigured. -/
def routeOf (d : Device) (c : CtxId) (chan : Byte) : Option RouteEntry :=
  if isSplit d c.core && 128 ≤ chan.toNat then none
  else match progOf d c with
    | none => none
    | some g => match (tableOf g.routes c)[chan.toNat]? with
      | some r => if r.kind = 0 then none else some r
      | none => none

def creditOf (d : Device) (c : CtxId) (chan : Byte) : Nat :=
  (vget (getCore d c.core).credit (physChan (isSplit d c.core) c.ctx chan)).toNat
def modCredit (d : Device) (c : CtxId) (chan : Byte) (f : Nat → Nat) : Device :=
  modCore d c.core fun k => { k with credit := vmod k.credit (physChan k.split c.ctx chan) fun x => BitVec.ofNat 8 (f x.toNat) }

/-! ### Send (R137) -/

/-- Length of a send in units: of sendr as read at issue. -/
def sendLen (q : Sequencer) (b : RawBundle) : Nat :=
  if syncOp b = 0x19 then (readS q (24 + syLen b)).toNat else syLen b + 1

/-- The checks of a send at issue; a send of no units makes none. DESIGN CHOICE: a generator that is DONE is reported before
a bad address (log entry 70). -/
def sendIssue (d : Device) (c : CtxId) (q : Sequencer) (b : RawBundle) : Option Byte :=
  let n := sendLen q b
  let g := agOf d c (syAg b)
  let a := agTarget g
  if n = 0 then none
  else if 8 < n then some 0x13
  else if (routeOf d c (syChan b)).isNone then some 0x0A
  else if g.done then some 0x05
  else if a % 64 = 0 && decide (a + 64 * n ≤ padSize d c.core) && padPowered d c a (64 * n) then none else some 0x04

/-- Capacity of the request queue (R128). -/
def rqRoom (d : Device) (c : CtxId) : Nat := if isSplit d c.core then 4 else 8
/-- The queue has no room for an entry beside those that earlier slots of the bundle need. -/
def rqFull (d : Device) (c : CtxId) (earlier : Nat) : Bool := decide (rqRoom d c ≤ (getUnit d c).rqueue.length + earlier)

/-- Conditions a send waits for (R128, R138, R267). -/
def sendUnmet (d : Device) (c : CtxId) (q : Sequencer) (b : RawBundle) (earlier : Nat) : List (WaitCause × Bool) :=
  let n := sendLen q b
  if n = 0 then []
  else
    (match routeOf d c (syChan b) with
     | some r => if r.kind = 1 && decide (n ≤ 8) && decide (creditOf d c (syChan b) < n) then [(.messageQueue, false)] else []
     | none => []) ++ if rqFull d c earlier then [(.queueFull, false)] else []

/-- Enters a request into the queue. -/
def enqueue (d : Device) (c : CtxId) (r : Request) : Device := modUnit d c fun u => { u with rqueue := u.rqueue ++ [r] }

/-- Whether an earlier send on an external channel still waits for its credit (R273). -/
def creditOwed (d : Device) (c : CtxId) (chan : Byte) : Bool :=
  match runOf d c with
  | some r => r.items.any fun x => x.ready.isNone && (match x.ref with | .credit e k _ => e = c && k = chan | _ => false)
  | none => false

/-- A send issues (R138, R267, R273). DEDUCED: on an external channel too the credit falls by n on issue, or, where it is
short, once it suffices (log entry 71). -/
def sendEffect (d0 d : Device) (c : CtxId) (w : SeqId) (b : RawBundle) : Device :=
  let q := getSeq d0 w
  let n := sendLen q b
  let t := tickOf d0 c
  if n = 0 then d
  else match routeOf d0 c (syChan b) with
    | none => d
    | some r =>
      let g := agOf d0 c (syAg b)
      let req : Request :=
        { kind := .message (syChan b) n [] (agTarget g), seq := w.seq, pc := physPc d0 c (q.pc.setWidth 12), addr := 0, bytes := 64,
          predOff := false, valid := true, entryTick := if r.kind = 3 then t + 4 else t, slotsLeft := n }
      let d := modAg (enqueue d c req) c (syAg b) agAdvance
      if r.kind = 1 then modCredit d c (syChan b) (· - n)
      else if r.kind = 3 then
        let met := decide (n ≤ creditOf d c (syChan b)) && !creditOwed d c (syChan b)
        addItem (if met then modCredit d c (syChan b) (· - n) else d) c
          { ref := .credit c (syChan b) n, due := t + 4, ready := if met then some (periodOf d c) else none, cause := 6 }
      else d

end Sys2Proof.Machine
end

