-- ==== Sys2Proof/Machine/Scalar.lean ====
section
/-! DEFINITION. The scalar slot (R69–R72, R75–R77, R94–R97, R119–R124): checks, the effect of each
operation, and the address of the next bundle. -/

namespace Sys2Proof.Machine

/-! ### Arithmetic (R119) -/

def sMin (a b : W64) : W64 := if a.slt b then a else b
def sMax (a b : W64) : W64 := if a.slt b then b else a
def uMin (a b : W64) : W64 := if a.ult b then a else b
def uMax (a b : W64) : W64 := if a.ult b then b else a
def mask64 (p : Bool) : W64 := if p then BitVec.allOnes 64 else 0
/-- A shift count: bits [5:0]. -/
def shAmt (b : W64) : Nat := b.toNat % 64

/-- Result of an operation of format S-R that writes a scalar register from two. -/
def aluR (op : Nat) (a b : W64) : W64 :=
  match op with
  | 0x01 => a + b
  | 0x02 => a - b
  | 0x03 => a * b
  | 0x04 => a &&& b
  | 0x05 => a ||| b
  | 0x06 => a ^^^ b
  | 0x07 => a <<< shAmt b
  | 0x08 => a >>> shAmt b
  | 0x09 => a.sshiftRight (shAmt b)
  | 0x0A => sMin a b
  | 0x0B => sMax a b
  | 0x0C => uMin a b
  | _ => uMax a b

/-- Result of a compare, of registers or with an immediate. -/
def aluC (op : Nat) (a b : W64) : Bool :=
  match op % 16 with
  | 0 => a = b
  | 1 => a.slt b
  | _ => a.ult b

/-- Result of a predicate operation. -/
def aluP (op : Nat) (a b : W64) : W64 :=
  match op with
  | 0x18 => a &&& b
  | 0x19 => a ||| b
  | 0x1A => a ^^^ b
  | _ => a &&& ~~~ b

/-- Result of an operation of format S-I that writes a scalar register. -/
def aluI (op : Nat) (a i : W64) : W64 :=
  match op with
  | 0x41 => a + i
  | 0x44 => a &&& i
  | 0x45 => a ||| i
  | 0x46 => a ^^^ i
  | 0x47 => a <<< shAmt i
  | 0x48 => a >>> shAmt i
  | _ => a.sshiftRight (shAmt i)

/-- lih: bits [63:35] from the immediate. -/
def lihValue (a i : W64) : W64 := (a &&& put64 0 (2 ^ 35 - 1)) ||| (i <<< 35)

/-! ### Static checks (check 12 of R110) -/

/-- The count of a loop: immediate or register. -/
def loopCount (q : Sequencer) (b : RawBundle) : Nat :=
  if loopSrc b then (readS q (loopReg b)).toNat else loopImm b

/-- A loop that breaks R71, but for what a register count decides. -/
def loopBad (q : Sequencer) (b : RawBundle) : Bool :=
  decide ((loopEnd b).toNat < q.pc.toNat + 1) ||
  (match q.loops with | [] => false | l :: _ => decide (l.endAddr.toNat < (loopEnd b).toNat)) ||
  (!loopSrc b && loopImm b != 0 && decide (6 ≤ q.loops.length))

/-- A target outside the body of the innermost open level (R72). -/
def targetBad (q : Sequencer) (b : RawBundle) : Bool :=
  match q.loops with
  | [] => false
  | l :: _ => decide ((brTarget b).toNat < l.start.toNat) || decide (l.endAddr.toNat < (brTarget b).toNat)

def scalarStatic (q : Sequencer) (b : RawBundle) : Bool :=
  (scalarOp b = 0xB0 && loopBad q b) || (scalarOp b = 0xA0 && targetBad q b)

/-! ### Checks at issue (check 14) -/

/-- Physical pages of a window. -/
def windowPages (split : Bool) (ctx : Fin 2) (lo hi : Nat) : List (Fin 16) :=
  (List.range (hi + 1 - lo)).map fun k => finMod 16 (lo + k + if split && ctx = 1 then 8 else 0)

/-- Whether the run is sealed (R29). -/
def sealedRun (d : Device) (c : CtxId) : Bool := match runOf d c with | some r => !r.openMode | none => true

/-- rs1 + offset of agfetch and of agbase. -/
def fetchAddr (q : Sequencer) (b : RawBundle) : W64 := readS q (agRs1 b) + ((agLow b).extractLsb' 0 24).setWidth 64
def baseAddr (q : Sequencer) (b : RawBundle) : W64 := readS q (agRs1 b) + (agLow b).signExtend 64
def stepCount (b : RawBundle) : Nat := fieldNat (agLow b) 15 0

/-- Whether a conditional scalar operation takes effect. -/
def scalarHolds (d : Device) (c : CtxId) (q : Sequencer) (b : RawBundle) : Bool :=
  holds (isSplit d c.core) q (scPred b) (scPneg b)
def branchTaken (d : Device) (c : CtxId) (q : Sequencer) (b : RawBundle) : Bool :=
  scalarOp b = 0xA0 || (scalarOp b = 0xA1 && holds (isSplit d c.core) q (brPred b) (brPneg b))

/-- Check 14 of the scalar slot. DESIGN CHOICE: the branch check (R72) is made here, for br too, whose outcome turns on a predicate that R109
does not list among the static inputs (log entry 116). -/
def scalarIssue (d : Device) (c : CtxId) (q : Sequencer) (b : RawBundle) : Option Byte :=
  match scalarOp b with
  | 0x21 => if sealedRun d c then some 0x0E else none
  | 0xA1 => if branchTaken d c q b && targetBad q b then some 0x05 else none
  | 0xB0 =>
    if loopSrc b && (decide (2 ^ 32 ≤ loopCount q b) || (loopCount q b != 0 && decide (6 ≤ q.loops.length))) then some 0x05 else none
  | 0xB8 =>
    let k := getCore d c.core
    if (windowPages k.split c.ctx (winLo b).toNat (winHi b).toNat).any fun p => vget k.pages p = .empty then some 0x18 else none
  | 0xC0 =>
    let a := (fetchAddr q b).toNat
    if a % 64 = 0 && decide (a + 64 ≤ padSize d c.core) && padPowered d c a 64 then none else some 0x04
  | 0xC1 => if (agInstalled (agOf d c (agNum b)) (tickOf d c)).isNone then some 0x05 else none
  | 0xC2 => if decide (2 ^ 48 ≤ (baseAddr q b).toNat) || !(agOf d c (agNum b)).loaded then some 0x05 else none
  | 0xC3 => if stepCount b = 0 || (agOf d c (agNum b)).done then some 0x05 else none
  | 0xC5 => if !(agOf d c (agNum b)).loaded then some 0x05 else none
  | _ => none

/-! ### Waits (R66) -/

/-- An unmet condition: its cause, and whether only the core's own streams can meet it. -/
abbrev Unmet := WaitCause × Bool

/-- The condition on a queue's head: none when it is ready or its data is late (R67). -/
def headUnmet (h : Head) : List Unmet := match h with | .empty => [(.queueEmpty, true)] | _ => []
def roomUnmet (ok : Bool) : List Unmet := if ok then [] else [(.queueFull, true)]

def scalarUnmet (d : Device) (c : CtxId) (b : RawBundle) : List Unmet :=
  match scalarOp b with
  | 0x30 => roomUnmet (roomOf d c (finMod 4 (scRd b)))
  | 0x31 => headUnmet (headOf d c (finMod 4 (scRs1 b)))
  | 0x32 => headUnmet (headOf d c (finMod 4 (scRs1 b)))
  | _ => []

/-- The queues whose heads a bundle reads (R67). -/
def headsRead (b : RawBundle) : List (Fin 4) := (bundleUses b).pop ++ (bundleUses b).peek

/-- A bundle that would read a late head makes the domain stall and not its stream wait. A peek of
a predicated-off lqpeek counts like the read it stands for. -/
def readsLate (d : Device) (c : CtxId) (b : RawBundle) : Bool := (headsRead b).any fun q => (headOf d c q).isLate

/-! ### Effects -/

def setS (d : Device) (w : SeqId) (r : Nat) (v : W64) (t : Nat) : Device := modSeq d w fun q => writeS q r v t t
def setP (d : Device) (w : SeqId) (p : Nat) (v : W64) : Device := modSeq d w fun q => writeP q p v

/-- Bits [63:0] of an entry. -/
def lowWord (e : Entry) : W64 := e.extractLsb' 0 64

/-- Adds one to the may-vary counter (R31). -/
def countMayVary (d : Device) (c : CtxId) : Device :=
  match domOf d c with
  | none => d
  | some i => modRun d i fun r => { r with mayvary := r.mayvary + 1 }

/-- The link-queue operations (R121): the queue moves whatever the condition. -/
def lqEffect (d0 d : Device) (c : CtxId) (w : SeqId) (q : Sequencer) (b : RawBundle) (on : Bool) : Device :=
  let t := tickOf d0 c
  match scalarOp b with
  | 0x30 => pushData d c (finMod 4 (scRd b)) (if on then (readS q (scRs1 b)).setWidth 2048 else 0)
  | 0x31 =>
    let x := finMod 4 (scRs1 b)
    let d := if on then setS d w (scRd b) (lowWord (headData d0 c x)) t else d
    popHead d c x
  | _ => if on then setS d w (scRd b) (lowWord (headData d0 c (finMod 4 (scRs1 b)))) t else d

/-- Format S-R. -/
def effectR (d0 d : Device) (c : CtxId) (w : SeqId) (q : Sequencer) (b : RawBundle) : Device :=
  let op := scalarOp b
  let t := tickOf d0 c
  let on := scalarHolds d0 c q b
  let a := readS q (scRs1 b)
  let x := readS q (scRs2 b)
  let sp := isSplit d0 c.core
  if op = 0x30 || op = 0x31 || op = 0x32 then lqEffect d0 d c w q b on
  else if !on then d
  else if isCompare op then setP d w (scRd b) (mask64 (aluC op a x))
  else if isPredOp op then setP d w (scRd b) (aluP op (readP sp q (scRs1 b)) (readP sp q (scRs2 b)))
  else if op = 0x1C then setP d w (scRd b) a
  else if op = 0x1D then setS d w (scRd b) (readP sp q (scRs1 b)) t
  else if op = 0x20 then setS d w (scRd b) (BitVec.ofNat 64 t) t
  else if op = 0x21 then countMayVary (setS d w (scRd b) (BitVec.ofNat 64 (replicaNs d0 c.core)) t) c
  else setS d w (scRd b) (aluR op a x) t

/-- Formats S-I and S-L. -/
def effectI (d0 d : Device) (c : CtxId) (w : SeqId) (q : Sequencer) (b : RawBundle) : Device :=
  let op := scalarOp b
  let t := tickOf d0 c
  let a := readS q (scRs1 b)
  if op = 0x80 then setS d w (scRd b) (scImm35 b) t
  else if op = 0x81 then setS d w (scRd b) (lihValue (readS q (scRd b)) (put64 0 (fieldNat (scalarSlot b) 28 0))) t
  else if isCompare op then setP d w (scRd b) (mask64 (aluC op a (scImm30 b)))
  else setS d w (scRd b) (aluI op a (scImm30 b)) t

/-- The S-A operations but for agfetch, whose read the load port makes (R123, R124). -/
def effectA (d0 d : Device) (c : CtxId) (w : SeqId) (q : Sequencer) (b : RawBundle) : Device :=
  let n := agNum b
  let t := tickOf d0 c
  match scalarOp b with
  | 0xC1 => match agInstalled (agOf d0 c n) t with
    | some g => modAg d c n fun _ => g
    | none => d
  | 0xC2 => modAg d c n fun g => { agRestart g with base := baseAddr q b }
  | 0xC3 => modAg d c n fun g => agStep g (stepCount b)
  | 0xC4 => setS d w (fieldNat (agLow b) 31 27) (BitVec.ofNat 64 (agTarget (agOf d0 c n))) t
  | 0xC5 => modAg d c n agRestart
  | _ => d

/-- setwin: the window in force from the next tick; a LOADING page makes the overlay a variable item due on
this tick, on which the domain holds (R77). -/
def effectW (d : Device) (w : SeqId) (b : RawBundle) : Device :=
  modSeq d w fun q => { q with winLo := winLo b, winHi := winHi b }

/-- The scalar slot of an issued bundle, but for the stream's next address and for agfetch. -/
def scalarEffect (d0 d : Device) (c : CtxId) (w : SeqId) (b : RawBundle) : Device :=
  let q := getSeq d0 w
  let op := scalarOp b
  if op = 0 then d
  else if isSR op then effectR d0 d c w q b
  else if isSI op || op = 0x80 || op = 0x81 then effectI d0 d c w q b
  else if isSA op then effectA d0 d c w q b
  else if op = 0xB8 then effectW d w b
  else d

/-! ### The next address (R69–R73) -/

/-- Loop-end evaluation (R70): the next address and the stack, innermost level first. -/
def loopEndEval (pc : Nat) : List LoopLevel → Nat × List LoopLevel
  | [] => (pc + 1, [])
  | l :: rest =>
    if l.endAddr.toNat = pc then
      if 1 < l.remaining.toNat then (l.start.toNat, { l with remaining := l.remaining - 1 } :: rest)
      else loopEndEval pc rest
    else (pc + 1, l :: rest)

/-- The address of the bundle after an issued one, the loop stack, and the tick of its issue. -/
def nextAddress (d0 : Device) (c : CtxId) (q : Sequencer) (b : RawBundle) : Nat × List LoopLevel × Nat :=
  let t := tickOf d0 c
  let pc := q.pc.toNat
  if branchTaken d0 c q b then ((brTarget b).toNat, q.loops, t + 3)
  else if scalarOp b = 0xB0 then
    let n := loopCount q b
    if n = 0 then ((loopEnd b).toNat + 1, q.loops, t + 1)
    else (pc + 1, { start := BitVec.ofNat 12 (pc + 1), endAddr := loopEnd b, remaining := BitVec.ofNat 32 n } :: q.loops, t + 1)
  else
    let (n, l) := loopEndEval pc q.loops
    (n, l, t + 1)

/-- The stream moves on after its bundle has issued. -/
def advanceStream (d0 d : Device) (c : CtxId) (w : SeqId) (b : RawBundle) : Device :=
  let q := getSeq d0 w
  let (n, l, r) := nextAddress d0 c q b
  modSeq d w fun x =>
    { x with st := if syncOp b = 1 then .ended else .running, pc := BitVec.ofNat 13 n, lastPc := q.pc.setWidth 12, loops := l,
             cause := .none, waitLocal := false, wdCount := 0, resumeAt := r, nextTick := tickOf d0 c + 1, shown := false, barSent := false }

end Sys2Proof.Machine
end

