-- ==== Sys2Proof/Machine/LoadStore.lean ====
section
/-! DEFINITION. Load and store transfers (R101–R103, R108, R117, R118, R125–R132, R213–R216): the checks of a
transfer, what it waits for, and its effect, for a bundle's slot and for the slot's repeat unit alike. -/

namespace Sys2Proof.Machine

/-- One transfer of a load or store slot. -/
structure Xfer where
  op      : MemOp
  seq     : Fin 4
  /-- Physical address of the bundle. -/
  pc      : BitVec 12
  ag      : Nat
  adv     : Bool
  toReg   : Bool
  reg     : BitVec 5
  width   : Nat
  predOff : Bool
deriving DecidableEq, Repr, Inhabited

def isStoreOp : MemOp → Bool
  | .ld | .ldbc => false
  | .st | .staf | .stai => true

/-- The first transfer of a slot. -/
def slotXfer (d : Device) (c : CtxId) (w : SeqId) (store : Bool) (b : RawBundle) : Xfer :=
  let s := if store then storeSlot b else loadSlot b
  let q := getSeq d w
  { op := if store then storeMemOp (storeOp b) else loadMemOp (loadOp b), seq := w.seq, pc := physPc d c (q.pc.setWidth 12),
    ag := msAg s, adv := msAdv s, toReg := msKind s = 1, reg := BitVec.ofNat 5 (msReg s), width := msWidth s,
    predOff := !holds (isSplit d c.core) q (msPred s) (msPneg s) }

/-- The present transfer of a repeat unit. -/
def unitXfer (u : RepeatUnit) : Xfer :=
  { op := u.op, seq := u.seq, pc := u.pc, ag := u.ag.val, adv := true, toReg := u.toReg, reg := u.reg, width := u.width.toNat, predOff := u.predOff }

def xBytes (x : Xfer) : Nat := widthBytes x.width
def xAddr (d : Device) (c : CtxId) (x : Xfer) : Nat := agTarget (agOf d c x.ag)
def xSpace (d : Device) (c : CtxId) (x : Xfer) : Nat := xAddr d c x / 2 ^ 44
/-- Local by bits [47:44] alone (R128). -/
def xLocal (d : Device) (c : CtxId) (x : Xfer) : Bool := xSpace d c x = 0 || xSpace d c x = 5
def xQueue (x : Xfer) : Fin 4 := finMod 4 x.reg.toNat

/-- Whether an operation accepts a space (R125). -/
def spaceAccepted (x : Xfer) (space : Nat) : Bool :=
  match x.op with
  | .ld => decide (space ≤ 4) || (space = 5 && !x.toReg && x.width = 2)
  | .ldbc | .st => decide (space ≤ 4)
  | .staf | .stai => space = 1

/-- The address check of R118. -/
def xResolve (d : Device) (c : CtxId) (x : Xfer) : AddrRes :=
  let a := xAddr d c x
  let n := xBytes x
  match resolve d (partOfCore d c.core) (some c) a n with
  | .ok t => if spaceAccepted x (a / 2 ^ 44) && (a / 2 ^ 44 = 5 || a % n = 0) then .ok t else .bad
  | r => r

/-- The checks of a transfer on its tick (R108, R118, R227, R31). DESIGN CHOICE: of several that fail at once, DONE is recorded before the
address and the address before a may-vary accumulate (log entry 109). -/
def xFault (d : Device) (c : CtxId) (x : Xfer) : Option Byte :=
  if (agOf d c x.ag).done then some 0x05
  else
    let addr := if x.predOff then none
      else match xResolve d c x with
        | .ok (.scratch t off) => if padPowered d t off (xBytes x) then none else some 0x04
        | .ok _ => none
        | .foreign => some 0x12
        | .bad => some 0x04
    addr.orElse fun _ => if x.op = .staf && sealedRun d c then some 0x0E else none

/-- A line of a split context, which takes its port on two ticks (R213). -/
def xLine (d : Device) (c : CtxId) (x : Xfer) : Bool := isSplit d c.core && x.width = 1 && xSpace d c x = 0

/-- Whether the port is on the second tick of a line (R213). -/
def portBusy (d : Device) (c : CtxId) (store : Bool) : Bool :=
  let t := tickOf d c
  match if store then (getUnit d c).stLine else (getUnit d c).ldLine with
  | some l => l + 1 = t
  | none => false

/-- Stores that count toward the four pending writes (R216): those not yet written, which are all pending by the wanted tick of
the transfer that would be the fifth. DEDUCED: no write between now and that tick is counted on (log entry 63). -/
def pendingWrites (d : Device) (c : CtxId) : Nat := (getUnit d c).stores.length

/-- The queue of a predicated-off read of space 0x5: it is read as though predicated on, when it exists. -/
def xMessage (d : Device) (c : CtxId) (x : Xfer) : Option Nat :=
  if xSpace d c x = 5 then match xResolve d c x with | .ok (.queue q) => some q | _ => none else none

/-- Conditions a transfer waits for: sources before destinations (R66, R102, R128, R131, R213, R216). -/
def xUnmet (d : Device) (c : CtxId) (x : Xfer) (earlier : Nat) : List Unmet :=
  let t := tickOf d c
  let rq := if !xLocal d c x && rqFull d c earlier then [(WaitCause.queueFull, false)] else []
  let line := if xLine d c x && portBusy d c (isStoreOp x.op) then [(WaitCause.queueFull, true)] else []
  if isStoreOp x.op then
    (if x.toReg then [] else headUnmet (headOf d c (xQueue x))) ++ line ++
      (if xSpace d c x = 0 && 4 ≤ pendingWrites d c then [(WaitCause.queueFull, false)] else []) ++ rq
  else
    (match xMessage d c x with
     | some q => if unitReady (mqOf d c q) t then [] else [(WaitCause.messageQueue, false)]
     | none => []) ++ line ++ (if x.toReg then [] else roomUnmet (roomOf d c (xQueue x))) ++ rq

/-! ### Effects -/

/-- Data of a load as its entry holds it: ldbc repeats 64 bits in all positions (R125, R126). -/
def loadData (op : MemOp) (bs : List Byte) : Entry :=
  if op = .ldbc then bytesEntry ((List.replicate 32 bs).flatten) else bytesEntry bs

/-- The destination of a load: a reserved entry of its queue, or its register. -/
def loadDest (d : Device) (c : CtxId) (x : Xfer) : LoadDest :=
  if x.toReg then .sreg x.seq (finMod 32 x.reg.toNat) else .lq (xQueue x) (lqOf d c (xQueue x)).nextId

/-- Reserves the entry of a load into a queue. -/
def reserve (d : Device) (c : CtxId) (x : Xfer) (var : Bool) : Device :=
  if x.toReg then d else modLq d c (xQueue x) fun q => pushEntry q (tickOf d c) none var

/-- Adds a fill. -/
def addFill (d : Device) (c : CtxId) (f : Fill) : Device := modUnit d c fun u => { u with fills := u.fills ++ [f] }

/-- Takes the load port's banks for an access on the present tick; a split context's line takes those of its second half
on the next schedule tick (R213). -/
def portBanks (d : Device) (c : CtxId) (off n : Nat) : Device :=
  let two := isSplit d c.core && 128 < n
  let d' := takeBanks d c (padBanks d c off (if two then 128 else n))
  if two then modUnit d' c fun u => { u with busNext := u.busNext ||| padBanks d c (off + 128) (n - 128), ldLine := some (tickOf d c) } else d'

/-- Reads the local scratchpad through the load port on the present tick: the bytes, the offset of a split context's
second half, which is read on the next schedule tick (R213, R215), and the device. -/
def portRead (d : Device) (c : CtxId) (off n : Nat) (seq : Fin 4) (pc : BitVec 12) : List Byte × Option Nat × Device :=
  let two := isSplit d c.core && 128 < n
  let k := if two then 128 else n
  (readPad d c off k, if two then some (off + 128) else none, parityRead (portBanks d c off n) c c off k 0 seq pc (if two then 1 else 0))

/-- The second tick of a split context's line load: the second half is read and checked (R213, R223). -/
def secondHalf (d : Device) (c : CtxId) : Device :=
  match (getUnit d c).fills.find? (·.rest.isSome) with
  | none => d
  | some f =>
    let off := f.rest.getD 0
    let bs := readPad d c off 128
    let d := modUnit d c fun u => { u with fills := u.fills.map fun x => if x = f then { x with data := x.data ||| (bytesEntry bs <<< 1024), rest := none } else x }
    parityRead d c c off 128 0 f.seq f.pc 0

/-- The first work of a schedule tick: the load port's second halves take and read their banks. -/
def startPorts (d : Device) (c : CtxId) : Device :=
  secondHalf (modUnit d c fun u => { u with busBanks := u.busBanks ||| u.busNext, busNext := 0 }) c

/-- The tick from which credit of another domain's message can act: within the package it takes the remote latency after
the tick that frees its last unit (R268); else it is handed to the hub on that tick. -/
def outsideDue (d : Device) (c : CtxId) (a : BitVec 18) (sender : BitVec 10) (freed : Nat) : Nat :=
  if a.toNat / 4 = d.fab.index.toNat then freed + remoteLatency d (isPortable d c) c.core (finMod 512 (sender.toNat % 512)) else freed

/-- Completes the credit of a message read from a queue (R268, R275): it travels to its sender in the package, or, of a
message that came over the fabric, is handed to the hub. -/
def returnCredit (d : Device) (c : CtxId) (m : MqDesc) : Device :=
  let s : CtxId := { core := finMod 512 (m.src.toNat % 512), ctx := finMod 2 (m.src.toNat / 512) }
  let due := tickOf d c + remoteLatency d (isPortable d c) c.core s.core
  match m.inbound with
  | some (a, chan) =>
    modUnit d c fun u => { u with credits := u.credits ++ [{ chan := m.chan, units := m.len, due := outsideDue d c a m.src (tickOf d c), inbound := some (a, m.src, chan) }] }
  | none =>
    let d := modUnit d s fun u => { u with credits := u.credits ++ [{ chan := m.chan, units := m.len, due := due, inbound := none }] }
    if dieOf c.core != dieOf s.core then
      addItem d s { ref := .creditBack s m.chan m.len due, due := due + 1, ready := none, cause := 2 }
    else d

/-- A queue's parity check: an armed detector 0x0102 makes the read fail once, its copy sound (R471).
Where a queue's words lie is not stated: bank, word and row are a free value (log entry 3). -/
def queueParity (d : Device) (c : CtxId) (seq : Fin 4) (pc : BitVec 12) : Device :=
  let (inj, d) := inject d 0x102 (coreUnit c)
  if inj then
    let (n, d) := drawFree d
    failingRead d c (c.core.val * 4194304 + (Config.freeWord n).toNat % 4194304) 0 seq pc 0x102 true 0
  else d

/-- A local load (R127, R131, R213). Predicated off it takes the banks that its offset maps to (R103, R212). -/
def localLoad (d : Device) (c : CtxId) (x : Xfer) : Device :=
  let t := tickOf d c
  let dest := loadDest d c x
  let due := t + if xLine d c x then 6 else 5
  let fill := fun (d : Device) (e : Entry) (rest : Option Nat) =>
    if x.predOff && x.toReg then d
    else addFill d c { dest := dest, data := if x.predOff then 0 else e, seq := x.seq, pc := x.pc, issued := t, due := due, rest := rest }
  let d := reserve d c x false
  match xMessage d c x with
  | some q =>
    let (u, mq, done) := takeUnit (mqOf d c q)
    let d := modMq d c q fun _ => mq
    let d := match done with | some m => returnCredit d c m | none => d
    queueParity (fill d (u.setWidth 2048) none) c x.seq x.pc
  | none =>
    if x.predOff then fill (if xSpace d c x = 0 then portBanks d c (xAddr d c x) (xBytes x) else d) 0 none
    else match xResolve d c x with
      | .ok (.scratch _ off) =>
        let (bs, rest, d) := portRead d c off (xBytes x) x.seq x.pc
        fill d (loadData x.op bs) rest
      | _ => d

/-- The entry a store takes: the head of its queue, or its register (R126). -/
def storeData (d : Device) (c : CtxId) (x : Xfer) : Entry :=
  if x.toReg then (readS (getSeq d { core := c.core, seq := x.seq }) x.reg.toNat).setWidth 2048 else headData d c (xQueue x)

/-- Pops the queue of a store. -/
def storePop (d : Device) (c : CtxId) (x : Xfer) : Device := if x.toReg then d else popHead d c (xQueue x)

/-- A local store (R127, R216): its write is wanted two ticks on. Predicated off it takes its bank ticks and writes
nothing (R103). DESIGN CHOICE: one to a bank whose power-down has been requested receives its error response on the tick that its
write would be wanted, and halts its core on the next (R228, R444; log entry 108). -/
def localStore (d : Device) (c : CtxId) (x : Xfer) : Device :=
  let t := tickOf d c
  let e := storeData d c x
  let d := storePop d c x
  let d := if xLine d c x then modUnit d c fun u => { u with stLine := some t } else d
  let store := fun (off : Nat) => ({ offset := off, bytes := xBytes x, data := e, wanted := t + 2, half := false, off := x.predOff, seq := x.seq, pc := x.pc } : PendingStore)
  let put := fun (off : Nat) => modUnit d c fun u => { u with stores := u.stores ++ [store off] }
  if x.predOff then (if xSpace d c x = 0 then put (xAddr d c x) else d)
  else match xResolve d c x with
    | .ok (.scratch _ off) =>
      if writeAccepted d c off (xBytes x) (corePeriod d c.core) then put off
      else
        let d := modUnit d c fun u => { u with flights := u.flights ++ [refusedStore d c (store off) (t + 2)], nextUid := u.nextUid + 1 }
        detectAt d (coreEvent d c 0x181 (coreUnit c) 2 0x04 0)
    | _ => d

/-- Whether a non-local transfer's data can be late (R36, R127): memory, the hub, another die, or a core of
another stall domain. -/
def xVariable (d : Device) (c : CtxId) (x : Xfer) : Bool :=
  match xResolve d c x with
  | .ok (.scratch t _) => dieOf t.core != dieOf c.core || domOf d t != domOf d c
  | .ok (.reservoir _) | .ok (.hbm _) | .ok (.cxl _) => true
  | _ => false

/-- A non-local transfer enters the request queue (R127, R128). -/
def remoteXfer (d : Device) (c : CtxId) (x : Xfer) : Device :=
  let t := tickOf d c
  let valid := match xResolve d c x with | .ok _ => true | _ => false
  let req := fun (k : ReqKind) =>
    ({ kind := k, seq := x.seq, pc := x.pc, addr := BitVec.ofNat 64 (xAddr d c x), bytes := xBytes x, predOff := x.predOff,
       valid := valid, entryTick := t, slotsLeft := if x.width = 1 then 4 else 1 } : Request)
  if isStoreOp x.op then
    let e := storeData d c x
    let d := enqueue d c (req (match x.op with | .staf => .accumulate true e | .stai => .accumulate false e | _ => .store e))
    let d := storePop d c x
    if x.op = .staf && !x.predOff then countMayVary d c else d
  else
    let dest := loadDest d c x
    reserve (enqueue d c (req (.load dest (x.op = .ldbc)))) c x (xVariable d c x)

/-- The transfer takes place, but for the advance of its generator. -/
def xEffect (d : Device) (c : CtxId) (x : Xfer) : Device :=
  if xLocal d c x then (if isStoreOp x.op then localStore d c x else localLoad d c x) else remoteXfer d c x

/-- The advance that follows a transfer (R102). -/
def xAdvance (d : Device) (c : CtxId) (x : Xfer) : Device := if x.adv then modAg d c x.ag agAdvance else d

/-! ### The slots of a bundle -/

/-- A repeat unit starts with what is left after the first transfer (R102). -/
def startUnit (d : Device) (c : CtxId) (store : Bool) (b : RawBundle) (x : Xfer) : Device :=
  let n := msRep (if store then storeSlot b else loadSlot b)
  if n = 0 then d
  else
    let t := tickOf d c
    let u : RepeatUnit :=
      { slot := if store then storeSlot b else loadSlot b, op := x.op, seq := x.seq, pc := x.pc, ag := finMod 8 x.ag, toReg := x.toReg, reg := x.reg, width := BitVec.ofNat 4 x.width,
        remaining := n, predOff := x.predOff, waiting := false, waitLocal := false, nextTick := t + if isSplit d c.core && x.width = 1 && xLocal d c x then 2 else 1 }
    modUnit d c fun y => if store then { y with stUnit := some u } else { y with ldUnit := some u }

/-- agfetch reads 64 bytes through the load port into the staging buffer (R123, R124). -/
def agFetchEffect (d0 d : Device) (c : CtxId) (w : SeqId) (b : RawBundle) : Device :=
  let q := getSeq d0 w
  let t := tickOf d0 c
  let pc := physPc d0 c (q.pc.setWidth 12)
  let (bs, _, d) := portRead d c (fetchAddr q b).toNat 64 w.seq pc
  addFill d c { dest := .staging (finMod 8 (agNum b)), data := bytesEntry bs, seq := w.seq, pc := pc, issued := t, due := t + 5, rest := none }

/-- The load and store slots of an issued bundle: both take their addresses before either generator
advances. -/
def memEffect (d0 d : Device) (c : CtxId) (w : SeqId) (b : RawBundle) : Device :=
  let l := slotXfer d0 c w false b
  let s := slotXfer d0 c w true b
  let hasL := loadOp b != 0
  let hasS := storeOp b != 0
  let d := if hasL then startUnit (xEffect d c l) c false b l else d
  let d := if hasS then startUnit (xEffect d c s) c true b s else d
  let d := if hasL then xAdvance d c l else d
  if hasS then xAdvance d c s else d

/-! ### Repeat units (R102) -/

def unitOf (d : Device) (c : CtxId) (store : Bool) : Option RepeatUnit :=
  if store then (getUnit d c).stUnit else (getUnit d c).ldUnit
def setUnit (d : Device) (c : CtxId) (store : Bool) (u : Option RepeatUnit) : Device :=
  modUnit d c fun y => if store then { y with stUnit := u } else { y with ldUnit := u }

/-- Whether a repeat unit has a transfer to make or try on the present tick. -/
def unitDue (d : Device) (c : CtxId) (store : Bool) : Bool :=
  executing d c && !isHalted d c && match unitOf d c store with | some u => decide (0 < u.remaining) && decide (u.nextTick ≤ tickOf d c) | none => false

/-- The heads that the present transfer reads, and whether one is late, for which the domain stalls (R67). -/
def unitHeads (d : Device) (c : CtxId) (u : RepeatUnit) : List Head :=
  if isStoreOp u.op && !u.toReg then [headOf d c (finMod 4 u.reg.toNat)] else []
def unitLate (d : Device) (c : CtxId) (u : RepeatUnit) : Bool := (unitHeads d c u).any (·.isLate)

/-- The reason for which the unit's transfer of the present tick halts its core (R109). -/
def unitFault (d : Device) (c : CtxId) (store : Bool) : Option (Byte × RepeatUnit) :=
  match unitOf d c store with
  | none => none
  | some u =>
    let x := unitXfer u
    if unitDue d c store && !unitLate d c u && (xUnmet d c x 0).isEmpty then (xFault d c x).map fun e => (e, u) else none

/-- One tick of a repeat unit: it waits, or makes its transfer. A transfer that fails its checks does not take
place. The unit stays active until the end of the tick of its last transfer. -/
def unitStep (d : Device) (c : CtxId) (store : Bool) : Device :=
  match unitOf d c store with
  | none => d
  | some u =>
    let t := tickOf d c
    let x := unitXfer u
    let un := xUnmet d c x 0
    if unitLate d c u then d
    else if !un.isEmpty then
      setUnit d c store (some { u with waiting := true, waitLocal := un.any (·.2), nextTick := t + 1 })
    else match xFault d c x with
      | some _ => d
      | none =>
        let step := if isSplit d c.core && x.width = 1 && xLocal d c x then 2 else 1
        let d := xAdvance (xEffect d c x) c x
        setUnit d c store (some { u with remaining := u.remaining - 1, waiting := false, waitLocal := false, nextTick := t + step })

/-- Whether a unit has its work of the present tick still to do. A transfer that fails its checks is not
work: it halts the core. -/
def unitWork (d : Device) (c : CtxId) (store : Bool) : Bool := unitDue d c store && (unitFault d c store).isNone

end Sys2Proof.Machine
end

