-- ==== Sys2Proof/Machine/Stream.lean ====
section
/-! DEFINITION. Streaming (R276–R290, R362, R363, R506): the slots of the network port's frame, the memory
grants of core transfers and of stream instances, landings, acknowledgements and rotation. -/

namespace Sys2Proof.Machine

/-! ### Order within a tick -/

/-- Whether every sequencer of a core or context has done its part of the present tick. -/
def presented (d : Device) (c : CtxId) : Bool :=
  let t := tickOf d c
  isHalted d c || (seqsOf d c).all fun n =>
    let q := getSeq d { core := c.core, seq := n }
    !(q.st = .running || q.st = .waiting) || decide (t < q.nextTick) || decide (t < q.resumeAt)

/-- Whether a core or context has made its loads, stores and queue reads of the present tick: those of its units, then those of its
bundles (R102, R214, R266). -/
def accessed (d : Device) (c : CtxId) : Bool := presented d c && !unitWork d c false && !unitWork d c true

/-- Whether a pending store can be written on the present tick (R216). -/
def storeDue (d : Device) (c : CtxId) : Bool :=
  executing d c && accessed d c && (getUnit d c).stWrote != some (tickOf d c) &&
  match (getUnit d c).stores with
  | s :: _ => decide (s.wanted ≤ tickOf d c) && banksFree d c (padBanks d c s.offset (min s.bytes (if isSplit d c.core then 128 else 256)))
  | [] => false

/-! ### Slots (R276, R277) -/

inductive SlotKind where
  | read | write | remote
deriving DecidableEq, Repr, Inhabited

/-- The kind of a position of the frame. -/
def slotKind (code pos : Nat) : SlotKind :=
  match code with
  | 0 => if pos < 4 then .read else if pos < 6 then .write else .remote
  | 1 => if pos < 6 then .read else if pos < 7 then .write else .remote
  | 2 => if pos < 3 then .read else if pos < 6 then .write else .remote
  | _ => if pos < 2 then .read else if pos < 4 then .write else .remote

/-- The slot of a core or context at a tick; a context has one at even ticks. -/
def slotAt (d : Device) (c : CtxId) (t : Nat) : Option SlotKind :=
  let code := (getUnit d c).stream.split.toNat
  if isSplit d c.core then (if t % 2 = 0 then some (slotKind code (t % 16 / 2)) else none) else some (slotKind code (t % 8))

/-! ### Grants (R278) -/

def rowIndex : GrantRow → Fin 5
  | .hbm => 0 | .cxlRead => 1 | .cxlWrite => 2 | .resRead => 3 | .resWrite => 4

/-- The number of the grant of a row at a tick. -/
def grantNumber (row : GrantRow) (t : Nat) : Option Nat :=
  match row with
  | .hbm => let n := 73 * t / 256; if (256 * n + 72) / 73 = t then some n else none
  | .cxlRead => if t % 68 = 0 then some (t / 68) else none
  | .cxlWrite => if t % 68 = 34 then some (t / 68) else none
  | .resRead => if t % 4 = 0 then some (t / 4) else none
  | .resWrite => if t % 4 = 2 then some (t / 4) else none

/-- Whether a core or context holds a grant of a row at a tick. -/
def grantAt (d : Device) (c : CtxId) (row : GrantRow) (t : Nat) : Bool :=
  match grantNumber row t with
  | some n => !isSplit d c.core || n % 2 = c.ctx.val
  | none => false

/-- The target that grant n of a row is bound to: a partition pseudo-channel or a partition port index; the reservoir's
grants are bound to nothing (R360). -/
def grantTarget (d : Device) (c : CtxId) (row : GrantRow) (n : Nat) : Nat :=
  let cp := c.core.val - firstCore d (partOfCore d c.core)
  let npc := 32 * stacksPer d
  let ports := portsPer d
  match row with
  | .hbm => (n / 2 + cp + n % 2 * (npc / 2)) % npc
  | .cxlRead | .cxlWrite => (n / 2 / 4 + cp + n % 2 * (ports / 2)) % ports
  | _ => 0

/-- The target of a request to a core address (R359, R369). -/
def addrTarget (d : Device) (row : GrantRow) (a : Nat) : Nat :=
  match row with
  | .hbm => a % 2 ^ 44 / 64 % (32 * stacksPer d)
  | .cxlRead | .cxlWrite => a % 2 ^ 44 / 256 % portsPer d
  | _ => 0

/-- Whether the grant of a row at tick t is bound to the target of a core address (R361). -/
def grantBound (d : Device) (c : CtxId) (row : GrantRow) (t a : Nat) : Bool :=
  match grantNumber row t with
  | some n => grantTarget d c row n = addrTarget d row a
  | none => false

/-! ### Descriptors and their progress -/

def modStream (d : Device) (c : CtxId) (f : StreamUnit → StreamUnit) : Device := modUnit d c fun u => { u with stream := f u.stream }
def streamOf (d : Device) (c : CtxId) : StreamUnit := (getUnit d c).stream
def streamDescs (d : Device) (c : CtxId) : List StreamDesc := match progOf d c with | some g => tableOf g.streams c | none => []
def descAt (d : Device) (c : CtxId) (k : Nat) : Option StreamDesc :=
  match (streamDescs d c)[k]? with
  | some x => if x.kind = 0 then none else some x
  | none => none
def progAt (d : Device) (c : CtxId) (k : Nat) : StreamProg := vget (streamOf d c).progs (finMod 64 k)
def modProg (d : Device) (c : CtxId) (k : Nat) (f : StreamProg → StreamProg) : Device :=
  modStream d c fun s => { s with progs := vmod s.progs (finMod 64 k) f }

/-- Transfers of an instance; its start tick; its scratchpad, memory and successor addresses (R280). -/
def xfers (x : StreamDesc) : Nat := x.bytes.toNat / 64
def startTick (x : StreamDesc) (i : Nat) : Nat := x.start.toNat + i * x.period.toNat
def padAt (x : StreamDesc) (i j : Nat) : Nat := x.saddr.toNat + i % x.swrap.toNat * x.sstride.toNat + 64 * j
def memAt (x : StreamDesc) (i j : Nat) : Nat := ((x.maddr.toNat : Int) + i * x.mstride.toInt + 64 * j).toNat
def nextAt (x : StreamDesc) (i j : Nat) : Nat := x.maddr.toNat + i % x.swrap.toNat * x.sstride.toNat + 64 * j

/-- Whether an instance of a descriptor is to start on the present tick (R282). -/
def instanceDue (d : Device) (c : CtxId) (k : Nat) : Bool :=
  executing d c && !isHalted d c && match descAt d c k with
  | none => false
  | some x =>
    let p := progAt d c k
    let t := tickOf d c
    !p.active && decide (p.inst ≤ x.repeats.toNat) && decide (startTick x p.inst ≤ t) && decide (p.startFrom ≤ t)

/-- A descriptor's instance becomes active. -/
def instanceStart (d : Device) (c : CtxId) (k : Nat) : Device :=
  if instanceDue d c k then modProg d c k fun p => { p with active := true, xfer := 0, granted := 0 } else d

def execStreamInstanceStart (c : CtxId) (desc : Fin 64) (s : State) : Host.Outcome State Fault Refusal :=
  onDev (fun d => instanceStart d c desc.val) s

/-- An instance stops being active on tick t. -/
def stopInstance (p : StreamProg) (t : Nat) : StreamProg := { p with active := false, inst := p.inst + 1, startFrom := t + 1 }

/-- Physical number of a descriptor. -/
def physDesc (d : Device) (c : CtxId) (k : Nat) : BitVec 6 := BitVec.ofNat 6 (k + if isSplit d c.core then 32 * c.ctx.val else 0)

/-- A transfer of an instance finishes; the last completes the instance and raises its flag (R286). LAST_DONE of the
physical core stands in its first unit (R294). -/
def finishXfer (d : Device) (owner : CtxId) (k inst : Nat) (flagOwner : CtxId) : Device :=
  match descAt d owner k with
  | none => d
  | some x =>
    let p := progAt d owner k
    let n := (match p.counts.find? fun e => e.1 = inst with | some e => e.2 | none => 0) + 1
    let rest := p.counts.filter fun e => e.1 != inst
    if n < xfers x then modProg d owner k fun p => { p with counts := rest ++ [(inst, n)] }
    else
      let d := modProg d owner k fun p => { p with counts := rest, completed := p.completed + 1 }
      let d := modStream d { owner with ctx := 0 } fun s => { s with lastDone := physDesc d owner k }
      if x.fadd then pendAdd d flagOwner x.flag 1 else d

/-- Whether every instance of a core's or context's descriptors has completed (R289). -/
def streamsDone (d : Device) (c : CtxId) : Bool :=
  (List.range 64).all fun k => match descAt d c k with
    | some x => (progAt d c k).completed = x.repeats.toNat + 1
    | none => true

/-! ### Memory errors (R365, R369, R471) -/

/-- What becomes of one access of HBM3E or CXL memory under injection: a halt reason, the cause of a delay, a response that is held 1 µs
past its contract tick. -/
structure MemRead where
  error : Option Byte
  cause : Option (Fin 7)
  late  : Bool
deriving DecidableEq, Repr, Inhabited

/-- One armed event at a memory unit, on an access of a core or of the host: whether it was used, and the device with its error entry. -/
def memEvent (d : Device) (c : Option CtxId) (det unit : Nat) (sev : BitVec 2) (code : Byte) (detail : Nat) : Bool × Device :=
  let u : BitVec 16 := BitVec.ofNat 16 unit
  let (inj, d) := inject d (BitVec.ofNat 16 det) u
  let e := match c with
    | some c => coreEvent d c (BitVec.ofNat 16 det) u sev code (put64 0 detail)
    | none => hubEvent (BitVec.ofNat 16 det) unit sev (put64 0 detail)
  if inj then (true, detect d { e with inj := true }) else (false, d)

/-- An injected event of a stack, counted there. -/
def stackEvent (d : Device) (c : Option CtxId) (stack : Fin 8) (det : Nat) (sev : BitVec 2) (code : Byte) (a : Nat) (count : HbmStack → HbmStack) :
    Bool × Device :=
  let (hit, d) := memEvent d c det stack.val sev code a
  (hit, if hit then modStack d stack count else d)

/-- A clean re-read that no injected event has counted (R365). -/
def cleanReread (d : Device) (c : Option CtxId) (stack : Fin 8) (a : Nat) : Device :=
  detect (modStack d stack fun s => { s with rereadOk := satAdd s.rereadOk 1 }) (match c with
    | some c => coreEvent d c 0x141 (BitVec.ofNat 16 stack.val) 1 0 (put64 0 a)
    | none => hubEvent 0x141 stack.val 1 (put64 0 a))

/-- An access that nothing happens to. -/
def MemRead.plain : MemRead := { error := none, cause := none, late := false }

/-- Injected events of an HBM3E read or write at a stack. A second parity failure of one request leads to a re-read (R365). -/
def hbmEvents (d : Device) (c : Option CtxId) (stack : Fin 8) (read : Bool) (a : Nat) : MemRead × Device :=
  let parity := fun (d : Device) => stackEvent d c stack 0x143 1 0 a fun s => { s with parity := satAdd s.parity 1 }
  let (p, d) := parity d
  let (p2, d) := if p then parity d else (false, d)
  if !read then ({ MemRead.plain with cause := if p then some 5 else none }, if p2 then cleanReread d c stack a else d)
  else
    let (_, d) := stackEvent d c stack 0x140 0 0 a fun s => { s with corrected := satAdd s.corrected 1 }
    let (r, d) := stackEvent d c stack 0x141 1 0 a fun s => { s with rereadOk := satAdd s.rereadOk 1 }
    let (x, d) := stackEvent d c stack 0x142 2 0x0C a fun s => { s with uncorr := satAdd s.uncorr 1 }
    ({ error := if x then some 0x0C else none, cause := if p || r then some 5 else none, late := false },
      if p2 && !r && !x then cleanReread d c stack a else d)

/-- Injected events of a CXL access at a port. -/
def cxlEvents (d : Device) (c : Option CtxId) (port : Fin 4) (read : Bool) (a : Nat) : MemRead × Device :=
  let (k, d) := memEvent d c 0x130 port.val 1 0 a
  let d := if k then modPort d port fun p => { p with crc := satAdd p.crc 1, retries := satAdd p.retries 1 } else d
  let (x, d) := if read then memEvent d c 0x131 port.val 1 0 a else (false, d)
  let d := if x then modPort d port fun p => { p with poison := satAdd p.poison 1 } else d
  let (l, d) := if read then memEvent d c 0x132 port.val 1 0 a else (false, d)
  let d := if l then modPort d port fun p => { p with late := satAdd p.late 1 } else d
  ({ error := none, cause := if x then some 5 else if k then some 4 else none, late := l }, d)

/-- Injected events of a reservoir read: single-bit corrected, double-bit persistent (R471). -/
def resEvents (d : Device) (c : Option CtxId) (part : PartId) (read : Bool) (a : Nat) : MemRead × Device :=
  if !read then (MemRead.plain, d)
  else
    let p := part.val
    let (_, d) := memEvent d c 0x105 p 0 0 a
    let (x, d) := memEvent d c 0x105 (0x8000 + p) 2 0x0C a
    ({ MemRead.plain with error := if x then some 0x0C else none }, d)

/-- Injected events of one access of a partition's memory. -/
def tierEvents (d : Device) (c : Option CtxId) (p : PartId) (t : Target) (read : Bool) : MemRead × Device :=
  match t with
  | .hbm off => hbmEvents d c (hbmMap d p off).1 read off
  | .cxl off => cxlEvents d c (cxlMap d p off).1 read off
  | .reservoir off => resEvents d c p read off
  | _ => (MemRead.plain, d)

/-- Whether a core address lies at a CXL port that is not MAPPED, which leaves its requests without response (R369). -/
def portLost (d : Device) (p : PartId) (a : Nat) : Bool :=
  decide (a / 2 ^ 44 = 4) && (vget d.cxlPorts (cxlMap d p (a % 2 ^ 44)).1).st != .mapped

/-- What keeps the response of a request that is accepted now at a core address: the refreshes that its pseudo-channel has issued and not
done, or its port (R366, R369). -/
def holdAt (d : Device) (p : PartId) (a : Nat) : Hold :=
  if portLost d p a then .lost
  else if a / 2 ^ 44 = 3 then
    match hbmMap d p (a % 2 ^ 44) with
    | (s, k, _) => if (vget (vget d.hbmStat s).pchs k).busy then .refresh (vget (vget d.hbmStat s).pchs k).issued else .free
  else .free

/-- The period of a partition from which the response of a request that is granted now can come: 1 µs past its contract tick where
detector 0x0132 holds it, which is 5 periods for each step of the frequency code (R405, R471). -/
def holdTill (d : Device) (p : PartId) (latency : Nat) (m : MemRead) : Nat :=
  if m.late then (getPart d p).periods + latency - 1 + 5 * (getPart d p).fcode.toNat else 0

/-- Whether a response is kept from coming in the present period. -/
def heldBack (d : Device) (c : CtxId) (held : Hold) (since : Nat) : Bool :=
  held != .free || decide ((getPart d (partOfCore d c.core)).periods < since)

/-- A CXL response that comes after its contract tick is counted and recorded, unless an injected event has been (R370, R471; log
entry 115). -/
def noteLate (d : Device) (c : CtxId) (a due since : Nat) : Device :=
  if decide (a / 2 ^ 44 = 4) && since = 0 && !(executing d c && decide (tickOf d c ≤ due)) then
    let port := (cxlMap d (partOfCore d c.core) (a % 2 ^ 44)).1
    detectAt (modPort d port fun p => { p with late := satAdd p.late 1 }) (coreEvent d c 0x132 (BitVec.ofNat 16 port.val) 1 0 (put64 0 (a % 2 ^ 44)))
  else d

/-- Core address of a stream item's memory. -/
def itemAddr (d : Device) (c : CtxId) (desc inst xfer : Nat) : Nat := match descAt d c desc with | some x => memAt x inst xfer | none => 0

/-! ### Die links on a path (R19, R20) -/

/-- The die links between two dies: none, the neighbour link, or both hub links. -/
def linksBetween (a b : Fin 4) : List (Fin 8) :=
  if a = b then []
  else match a.val, b.val with
    | 0, 1 | 1, 0 => [4]
    | 1, 3 | 3, 1 => [5]
    | 3, 2 | 2, 3 => [6]
    | 2, 0 | 0, 2 => [7]
    | _, _ => [finMod 8 a.val, finMod 8 b.val]

/-- The die of the stack that holds a partition address of HBM3E memory (R358, R359). -/
def stackDie (d : Device) (p : PartId) (a : Nat) : Fin 4 := finMod 4 ((hbmMap d p a).1.val / 2)

def linkOpen (d : Device) (k : Fin 8) : Bool := (vget d.dieLinks k).up && !(vget d.dieLinks k).retraining

/-- Whether a die link is down for good: a retrain of it has failed, and nothing crosses it until L1 (R471). -/
def linkDown (d : Device) (k : Fin 8) : Bool := !(vget d.dieLinks k).up && !(vget d.dieLinks k).retraining

/-- The die links between a core's die and the memory of a core address: a stack's die, or the hub. -/
def memLinks (d : Device) (c : CtxId) (a : Nat) : List (Fin 8) :=
  match a / 2 ^ 44 with
  | 3 => linksBetween (dieOf c.core) (stackDie d (partOfCore d c.core) (a % 2 ^ 44))
  | 2 | 4 => [finMod 8 (dieOf c.core).val]
  | _ => []

/-- The die links that a landing item and a spill cross (R290, R359, R362). -/
def landLinks (d : Device) (c : CtxId) (i : LandItem) : List (Fin 8) :=
  if i.rotation then linksBetween (dieOf i.sender.core) (dieOf c.core) else memLinks d c (itemAddr d c i.desc i.inst i.xfer)
def outLinks (d : Device) (c : CtxId) (o : OutItem) : List (Fin 8) := memLinks d c (itemAddr d c o.desc o.inst o.xfer)

/-- Whether a stream item will never come to an end: its port or a die link on its way does not answer until a reset (R369, R471). -/
def landLost (d : Device) (c : CtxId) (i : LandItem) : Bool := i.landed.isNone && (i.held = .lost || (landLinks d c i).any (linkDown d))
def outLost (d : Device) (c : CtxId) (o : OutItem) : Bool := o.acked.isNone && (o.held = .lost || (outLinks d c o).any (linkDown d))

/-! ### Requests on a grant (R506) -/

/-- The row of a request to a space. -/
def rowOfSpace (space : Nat) (read : Bool) : Option GrantRow :=
  match space with
  | 2 => some (if read then .resRead else .resWrite)
  | 3 => some .hbm
  | 4 => some (if read then .cxlRead else .cxlWrite)
  | _ => none

/-- Contract latency of a granted request to a core address (R279, R363). -/
def memLatency (d : Device) (c : CtxId) (a : Nat) : Nat :=
  let p := isPortable d c
  match a / 2 ^ 44 with
  | 2 => 40 + boundaryTicks d p c.core
  | 3 => hbmLatency d p c.core (hbmMap d (partOfCore d c.core) (a % 2 ^ 44)).1
  | _ => cxlLatency d p c.core

/-- Default cause of lateness of a request to a space (R364). -/
def memCause (space : Nat) : Fin 7 := match space with | 3 => 0 | 4 => 1 | _ => 2

/-- Whether a target lies at a stack or a port that is held in an L3 reset (R443). -/
def heldInReset (d : Device) (p : PartId) (t : Target) : Bool :=
  match t with
  | .hbm off => d.rb.units.any fun u => u.1.toNat = 0x3000 + (hbmMap d p off).1.val
  | .cxl off => d.rb.units.any fun u => u.1.toNat = 0x2000 + (cxlMap d p off).1.val || u.1.toNat = 0x1008 + (cxlMap d p off).1.val
  | _ => false

/-- Whether the isolation wrapper of a unit in reset answers for n bytes of a core address (R443). -/
def wrapped (d : Device) (c : CtxId) (a n : Nat) : Bool :=
  match resolve d (partOfCore d c.core) none a n with
  | .ok t => heldInReset d (partOfCore d c.core) t
  | _ => false

/-- The ledger entry of a requester whose first error response comes from n bytes of a core address (R472). -/
def wrapperEntry (d : Device) (c : CtxId) (a n : Nat) (first : Bool) : Device :=
  if first && wrapped d c a n then detectAt d (coreEvent d c 0x181 (coreUnit c) 2 0x04 0) else d

/-- Acts on memory at the grant tick: reads n bytes, or writes the bytes given. An isolation wrapper answers for a
unit in reset; a CXL port that is not up does nothing (R369). -/
def memAct (d : Device) (c : CtxId) (a n : Nat) (write : Option (List Byte)) : List Byte × MemRead × Device :=
  let part := partOfCore d c.core
  match resolve d part none a n with
  | .ok t =>
    if heldInReset d part t then (List.replicate n 0, { MemRead.plain with error := some 0x04 }, d)
    else if portLost d part a then ([], MemRead.plain, d)
    else
    let (m, d') := tierEvents d (some c) part t write.isNone
    match write with
    | none => (readTarget d part t n, m, d')
    | some bs => ([], m, writeTarget d' part t bs)
  | _ => (List.replicate n 0, { MemRead.plain with error := some 0x04 }, d)

/-! ### Core transfers on a grant (R362) -/

/-- Whether a request of a flight can take the grant of a row at tick t. -/
def subFits (d : Device) (c : CtxId) (row : GrantRow) (t : Nat) (s : SubRequest) : Bool :=
  s.granted.isNone && grantBound d c row t s.addr

/-- Whether a flight has a request for a row that can take a grant at tick t. -/
def wantsGrant (d : Device) (c : CtxId) (f : Flight) (row : GrantRow) (t : Nat) : Bool :=
  let read := match f.req.kind with | .load _ _ => true | _ => false
  decide (f.u + 1 ≤ t) && rowOfSpace (f.req.addr.toNat / 2 ^ 44 % 16) read = some row && f.subs.any (subFits d c row t)

/-- The first request of a flight that can take the grant at tick t takes it. -/
def grantSub (d : Device) (c : CtxId) (f : Flight) (row : GrantRow) (t : Nat) : Flight × Device :=
  let k := f.subs.findIdx (subFits d c row t)
  match f.subs[k]? with
  | none => (f, d)
  | some s =>
    let off := 64 * k
    let read := match f.req.kind with | .load _ _ => true | _ => false
    let d := if f.req.predOff then d else wrapperEntry d c s.addr s.bytes f.error.isNone
    let (bs, m, d) :=
      if f.req.predOff then ([], MemRead.plain, d)
      else if read then memAct d c s.addr s.bytes none
      else match f.req.kind with
        | .store e => memAct d c s.addr s.bytes (some (leBytes s.bytes (e.toNat / 2 ^ (8 * off))))
        | _ => ([], MemRead.plain, d)
    let subs := f.subs.set k { s with granted := some t, held := holdAt d (partOfCore d c.core) s.addr, since := holdTill d (partOfCore d c.core) s.latency m }
    let all := subs.all fun x => x.granted.isSome
    let due := subs.foldl (fun a x => max a (x.granted.getD 0 + x.latency - 1)) 0
    ({ f with subs := subs, data := f.data ||| BitVec.ofNat 2048 (leVal bs * 2 ^ (8 * off)),
              due := if all then due else f.due, cause := m.cause.getD f.cause,
              error := match f.error with | some e => some e | none => m.error }, d)

/-- Once every request has its grant, the contract tick is known: for the entry, or for a variable item due on
the tick after. -/
def flightDue (d : Device) (c : CtxId) (f : Flight) : Device :=
  if f.subs.any fun x => x.granted.isNone then d
  else match f.req.kind with
    | .load (.lq q id) _ => modLq d c q fun x => dueEntry x id f.due
    | _ => addItem d c { ref := .flight c f.uid, due := f.due + 1, ready := none, cause := f.cause }

/-- The oldest core transfer that wants the grant takes it. -/
def grantCore (d : Device) (c : CtxId) (row : GrantRow) : Option Device :=
  let t := tickOf d c
  match (getUnit d c).flights.find? fun f => wantsGrant d c f row t with
  | none => none
  | some f =>
    let (g, d) := grantSub d c f row t
    let d := modUnit d c fun u => { u with flights := u.flights.map fun x => if x.uid = g.uid then g else x }
    some (flightDue d c g)

/-! ### Stream instances on a grant (R282–R284) -/

/-- Order of R285: earlier landing first, fills before rotation arrivals, then the lower descriptor. -/
def landBefore (a b : LandItem) : Bool :=
  decide (a.lambda < b.lambda) || (a.lambda = b.lambda && ((!a.rotation && b.rotation) || (a.rotation = b.rotation && decide (a.desc < b.desc))))

/-- The item that a read slot at tick t writes. -/
def slotItem (l : List LandItem) (t : Nat) : Option LandItem :=
  (l.filter fun i => decide (i.lambda + 4 ≤ t)).foldl (fun a i => match a with
    | some x => if landBefore i x then some i else some x
    | none => some i) none

/-- Occupancy of the landing buffer at the end of tick e under contract timing, from tick t on (R283). -/
def landOccupancy (d : Device) (c : CtxId) (l : List LandItem) (t e : Nat) : Nat :=
  let used := decide (t < (streamOf d c).slotTick)
  let left := (List.range (e + 1 - t)).foldl (fun (l : List LandItem) k =>
    let s := t + k
    if slotAt d c s = some .read && !(k = 0 && used) then
      match slotItem l s with | some i => l.erase i | none => l
    else l) l
  (left.filter fun i => decide (i.lambda ≤ e)).length

def landSize (d : Device) (c : CtxId) : Nat := if isSplit d c.core then 16 else 32
def outSize (d : Device) (c : CtxId) : Nat := if isSplit d c.core then 8 else 16

/-- The landing item of the next transfer of a fill, granted at tick t. -/
def fillItem (d : Device) (c : CtxId) (k : Nat) (x : StreamDesc) (t : Nat) : LandItem :=
  let p := progAt d c k
  let a := memAt x p.inst p.xfer
  { desc := k, inst := p.inst, xfer := p.xfer, offset := padAt x p.inst p.xfer, data := 0, lambda := t + memLatency d c a,
    rotation := false, landed := none, cause := memCause (a / 2 ^ 44), sender := c, error := none,
    held := holdAt d (partOfCore d c.core) a, since := 0 }

/-- The spill transfer waiting longest for a grant of a row, of one descriptor. -/
def spillWaiting (d : Device) (c : CtxId) (k t : Nat) : Option OutItem :=
  (streamOf d c).outbound.find? fun o => o.desc = k && !o.granted && o.data.isSome && decide (o.slot < t)

/-- Whether the active instance of a descriptor can use a grant of a row at tick t. -/
def canGrant (d : Device) (c : CtxId) (row : GrantRow) (t k : Nat) : Bool :=
  match descAt d c k with
  | none => false
  | some x =>
    let p := progAt d c k
    let space := memAt x p.inst 0 / 2 ^ 44
    p.active &&
    if x.kind = 1 then
      rowOfSpace space true = some row && decide (p.xfer < xfers x) && grantBound d c row t (memAt x p.inst p.xfer) &&
        (let i := fillItem d c k x t
         decide (landOccupancy d c ((streamOf d c).landing ++ [i]) t i.lambda ≤ landSize d c))
    else x.kind = 2 && rowOfSpace space false = some row && (spillWaiting d c k t).any fun o => grantBound d c row t (memAt x o.inst o.xfer)

/-- Descriptor numbers in their turn after the one given. -/
def turnAfter (last : Fin 64) : List Nat := (List.range 64).map fun k => (last.val + 1 + k) % 64

/-- A fill takes the grant. -/
def grantFill (d : Device) (c : CtxId) (k : Nat) (x : StreamDesc) (t : Nat) : Device :=
  let p := progAt d c k
  let d := wrapperEntry d c (memAt x p.inst p.xfer) 64 (!(streamOf d c).landing.any fun i => i.desc = k && i.inst = p.inst && !i.rotation && i.error.isSome)
  let (bs, m, d) := memAct d c (memAt x p.inst p.xfer) 64 none
  let a := memAt x p.inst p.xfer
  let i := { fillItem d c k x t with data := leBits 512 bs, error := m.error, since := holdTill d (partOfCore d c.core) (memLatency d c a) m }
  let i := match m.cause with | some e => { i with cause := e } | none => i
  let d := modStream d c fun s => { s with landing := s.landing ++ [i] }
  modProg d c k fun p => if p.xfer + 1 = xfers x then stopInstance p t else { p with xfer := p.xfer + 1 }

/-- A spill takes the grant. -/
def grantSpill (d : Device) (c : CtxId) (k : Nat) (x : StreamDesc) (t : Nat) : Device :=
  match spillWaiting d c k t with
  | none => d
  | some o =>
    let a := memAt x o.inst o.xfer
    let d := wrapperEntry d c a 64 (!(streamOf d c).outbound.any fun y => y.desc = k && y.inst = o.inst && y.error.isSome)
    let (_, m, d) := memAct d c a 64 (some (leBytes 64 (o.data.getD 0).toNat))
    let o' := { o with granted := true, held := holdAt d (partOfCore d c.core) a, ackDue := t + memLatency d c a, cause := m.cause.getD (memCause (a / 2 ^ 44)), error := m.error }
    let d := modStream d c fun s => { s with outbound := s.outbound.map fun y => if y = o then o' else y }
    modProg d c k fun p => if p.granted + 1 = xfers x then stopInstance { p with granted := p.granted + 1 } t else { p with granted := p.granted + 1 }

/-- The instance whose turn it is takes the grant, or it passes unused. -/
def grantStream (d : Device) (c : CtxId) (row : GrantRow) : Device :=
  let t := tickOf d c
  let r := rowIndex row
  match (turnAfter (vget (streamOf d c).lastGrant r)).find? fun k => canGrant d c row t k with
  | none => d
  | some k => match descAt d c k with
    | none => d
    | some x =>
      let d := if x.kind = 1 then grantFill d c k x t else grantSpill d c k x t
      modStream d c fun s => { s with lastGrant := vset s.lastGrant r (finMod 64 k) }

/-- Whether an instance start is still to come on the present tick. -/
def startsDue (d : Device) (c : CtxId) : Bool := (List.range 64).any fun k => instanceDue d c k

/-- Whether a grant of the present tick can be used and has not been. -/
def grantDue (d : Device) (c : CtxId) (row : GrantRow) : Bool :=
  let t := tickOf d c
  executing d c && grantAt d c row t && decide (vget (streamOf d c).grantTick (rowIndex row) ≤ t) &&
    ((getUnit d c).flights.any (fun f => wantsGrant d c f row t) || (!isHalted d c && (List.range 64).any fun k => canGrant d c row t k))

/-- Every row of R278. -/
def grantRows : List GrantRow := [.hbm, .cxlRead, .cxlWrite, .resRead, .resWrite]

/-! ### Landings (R283, R290) -/

/-- Whether an item has landed, or has received an error response, for which nothing waits (R444). -/
def itemCame (i : LandItem) : Bool := i.landed.isSome || i.error.isSome

/-- Writes an item into the scratchpad, and counts its transfer. -/
def landWrite (d : Device) (c : CtxId) (i : LandItem) : Device :=
  finishXfer (writePad d c i.offset (leBytes 64 i.data.toNat)) i.sender i.desc i.inst c

/-- The earliest item of a kind that has reached its contract tick over links that are up and has not landed; of a halted
core, one that has landed too (R288). -/
def landDue (d : Device) (c : CtxId) (rotation : Bool) : Option LandItem :=
  ((streamOf d c).landing.filter fun i => i.rotation = rotation && i.error.isNone &&
    ((isHalted d c && i.landed.isSome) || (i.landed.isNone && decide (i.lambda ≤ tickOf d c) &&
      !heldBack d c i.held i.since && (landLinks d c i).all (linkOpen d)))).foldl
    (fun a i => match a with | some x => if landBefore i x then some i else some x | none => some i) none

/-- An item lands. After the core has halted its data is written at once (R288). -/
def landItem (d : Device) (c : CtxId) (rotation : Bool) : Device :=
  match landDue d c rotation with
  | none => d
  | some i =>
    if isHalted d c then
      let d := if rotation || i.landed.isSome then d else noteLate d c (itemAddr d c i.desc i.inst i.xfer) i.lambda i.since
      let d := modStream d c fun s => { s with landing := s.landing.erase i }
      if padPowered d c i.offset 64 then landWrite d c i else d
    else
      let i' := { i with landed := some (periodOf d c) }
      let d := if rotation then d else noteLate d c (itemAddr d c i.desc i.inst i.xfer) i.lambda i.since
      modStream d c fun s => { s with landing := s.landing.map fun x => if x = i then i' else x }

def execFillLanding (c : CtxId) (s : State) : Host.Outcome State Fault Refusal := onDev (fun d => landItem d c false) s
def execRotationArrival (c : CtxId) (s : State) : Host.Outcome State Fault Refusal := onDev (fun d => landItem d c true) s

/-! ### Read and write slots (R282–R285) -/

/-- Whether an item was ready 4 periods before the present one (R37). -/
def inTime (r : Option Nat) (p : Nat) : Bool := match r with | some q => decide (q + 4 ≤ p) | none => false

/-- Whether the read slot of the present tick has an item to take. -/
def readSlotDue (d : Device) (c : CtxId) : Bool :=
  let t := tickOf d c
  executing d c && !isHalted d c && decide ((streamOf d c).slotTick ≤ t) && slotAt d c t = some .read &&
    match slotItem (streamOf d c).landing t with | some i => itemCame i | none => false

/-- The instance that takes a write slot at tick t. -/
def writeSlotFor (d : Device) (c : CtxId) : Option Nat :=
  let full := decide (outSize d c ≤ (streamOf d c).outbound.length)
  (turnAfter (streamOf d c).lastWrite).find? fun k => match descAt d c k with
    | none => false
    | some x =>
      let p := progAt d c k
      p.active && decide (p.xfer < xfers x) && (x.kind = 3 || (x.kind = 2 && !full))

def writeSlotDue (d : Device) (c : CtxId) : Bool :=
  let t := tickOf d c
  executing d c && !isHalted d c && decide ((streamOf d c).slotTick ≤ t) && slotAt d c t = some .write && (writeSlotFor d c).isSome

/-- Whether the oldest request at the scratchpad's edge can be served on the present tick. -/
def edgeDue (d : Device) (c : CtxId) : Bool :=
  executing d c && decide ((streamOf d c).edgeTick ≤ tickOf d c) && accessed d c && !storeDue d c &&
  match (streamOf d c).edge with
  | e :: _ => banksFree d c (padBanks d c e.item.offset 64)
  | [] => false

/-! ### Failures of stream instances (R227, R228, R287, R444) -/

/-- The halt reason of a landing item on its read slot: its error response, or a bank that takes no write. -/
def itemError (d : Device) (c : CtxId) (i : LandItem) : Option Byte :=
  i.error.orElse fun _ => if writeAccepted d c i.offset 64 (corePeriod d c.core) then none else some 0x04

/-- The halt reason of a stream instance's request at the edge. -/
def edgeError (d : Device) (c : CtxId) (e : EdgeReq) : Option Byte :=
  if e.send.isSome then none else e.item.error.orElse fun _ => if padPowered d c e.item.offset 64 then none else some 0x04

/-- The landing item that the read slot of the present tick takes. -/
def readSlotItem (d : Device) (c : CtxId) : Option LandItem := if readSlotDue d c then slotItem (streamOf d c).landing (tickOf d c) else none

/-- Scratchpad offset that the write slot of the present tick reads. -/
def writeSlotPad (d : Device) (c : CtxId) : Option Nat :=
  if !writeSlotDue d c then none
  else (writeSlotFor d c).bind fun k => (descAt d c k).map fun x => padAt x (progAt d c k).inst (progAt d c k).xfer

/-- Failures at a core or context on the present tick, each with the core or context whose instance it is. -/
def slotErrors (d : Device) (c : CtxId) : List (CtxId × Byte) :=
  ((streamOf d c).edge.filterMap fun e => (edgeError d c e).map fun x => (e.item.sender, x)) ++
    ((readSlotItem d c).bind fun i => (itemError d c i).map fun x => (i.sender, x)).toList ++
    (if (writeSlotPad d c).any fun o => !padPowered d c o 64 then [(c, 0x04)] else []) ++
    ((streamOf d c).outbound.filter fun o => o.granted && decide (o.ackDue ≤ tickOf d c)).filterMap fun o => o.error.map fun x => (c, x)

/-- The first reason for which an instance of a core or context halts it on the present tick, wherever in its domain the transfer
fails (R444). -/
def streamFail (d : Device) (c : CtxId) : Option Byte :=
  match domOf d c with
  | none => none
  | some i => (domCtxs d i).findSome? fun e => ((slotErrors d e).find? fun x => x.1 = c).map (·.2)

/-- The error response to an item of a rotation whose successor is in reset: it comes to its sender, whose core halts when the item was
due (R443, R444); one ledger entry for the instance (R472). -/
def rotationError (d : Device) (i : LandItem) : Device :=
  let told := (streamOf d i.sender).outbound.any fun o => o.desc = i.desc && o.inst = i.inst && o.error.isSome
  let o : OutItem :=
    { desc := i.desc, inst := i.inst, xfer := i.xfer, data := none, slot := 0, granted := true, ackDue := i.lambda + 4, acked := none, cause := 2,
      error := some 0x04, held := .free, since := 0 }
  let d := modStream d i.sender fun s => { s with outbound := s.outbound ++ [o] }
  if told then d else noteErrors d 0x04 [i.sender]

/-- Serves the oldest request at the edge: a write of an item, a read for a spill into its outbound entry, or a
read for a rotation, which travels to the successor (R284, R290). One that fails is dropped once its core has halted. -/
def serveEdge (d : Device) (c : CtxId) : Device :=
  match (streamOf d c).edge with
  | [] => d
  | e :: rest =>
    let t := tickOf d c
    let i := e.item
    let d' := modStream d c fun s => { s with edge := rest, edgeTick := t + 1 }
    if (edgeError d c e).isSome then (if isHalted d i.sender then d' else d)
    else
    let d := takeBanks d' c (padBanks d c i.offset 64)
    if !e.read then landWrite d c i
    else
      let data : BitVec 512 := leBits 512 (readPad d c i.offset 64)
      let d := parityRead d c c i.offset 64 1 0 0 0
      if i.rotation then
        match progOf d c, descAt d c i.desc with
        | some g, some x =>
          let m := ringNext g c
          let y : LandItem := { i with offset := nextAt x i.inst i.xfer, data := data, lambda := e.slot + remoteLatency d (isPortable d c) c.core m.core, cause := 2 }
          if (getCore d m.core).inReset then rotationError d y else modStream d m fun s => { s with landing := s.landing ++ [y] }
        | _, _ => d
      else
        modStream d c fun s => { s with outbound := s.outbound.map fun o =>
          if o.desc = i.desc && o.inst = i.inst && o.xfer = i.xfer then { o with data := some data } else o }

/-- Assigns the read slot of the present tick. An item that fails takes its slot and is dropped, once its core has halted. -/
def assignRead (d : Device) (c : CtxId) : Device :=
  let t := tickOf d c
  match readSlotItem d c with
  | none => d
  | some i =>
    let put := fun (l : List EdgeReq) => modStream d c fun s => { s with landing := s.landing.erase i, edge := s.edge ++ l, slotTick := t + 1 }
    if (itemError d c i).isNone then put [{ read := false, slot := t, item := i, send := none }]
    else if isHalted d i.sender then put [] else d

/-- Assigns the write slot of the present tick. -/
def assignWrite (d : Device) (c : CtxId) : Device :=
  let t := tickOf d c
  if !writeSlotDue d c || (writeSlotPad d c).any (fun o => !padPowered d c o 64) then d
  else match writeSlotFor d c with
    | none => d
    | some k => match descAt d c k with
      | none => d
      | some x =>
        let p := progAt d c k
        let i : LandItem :=
          { desc := k, inst := p.inst, xfer := p.xfer, offset := padAt x p.inst p.xfer, data := 0, lambda := 0, rotation := x.kind = 3,
            landed := none, cause := 2, sender := c, error := none, held := .free, since := 0 }
        let o : OutItem :=
          { desc := k, inst := p.inst, xfer := p.xfer, data := none, slot := t, granted := false, ackDue := 0, acked := none, cause := 2, error := none, held := .free, since := 0 }
        let d := modStream d c fun s =>
          { s with edge := s.edge ++ [{ read := true, slot := t, item := i, send := none }], slotTick := t + 1, lastWrite := finMod 64 k,
                   outbound := if x.kind = 2 then s.outbound ++ [o] else s.outbound }
        modProg d c k fun p =>
          if x.kind = 3 && p.xfer + 1 = xfers x then stopInstance p t else { p with xfer := p.xfer + 1 }

/-- READ_SLOT_WRITE: the slot takes its item, and the edge serves a write that can go. -/
def readSlotWrite (d : Device) (c : CtxId) : Device :=
  if startsDue d c then d
  else
    let d := assignRead d c
    match (streamOf d c).edge with
    | e :: _ => if !e.read && edgeDue d c then serveEdge d c else d
    | [] => d

def execReadSlotWrite (c : CtxId) (s : State) : Host.Outcome State Fault Refusal := onDev (fun d => readSlotWrite d c) s

/-- WRITE_SLOT: the slot takes its instance, and the edge serves a read that can go. -/
def writeSlot (d : Device) (c : CtxId) : Device :=
  if startsDue d c then d
  else
    let d := assignWrite d c
    match (streamOf d c).edge with
    | e :: _ => if e.read && e.send.isNone && edgeDue d c then serveEdge d c else d
    | [] => d

def execWriteSlot (c : CtxId) (s : State) : Host.Outcome State Fault Refusal := onDev (fun d => writeSlot d c) s

/-! ### Spill acknowledgements (R284) -/

/-- Memory acknowledges the oldest outstanding spill write, in time when by its check four ticks before its contract tick
(R287). -/
def spillAck (d : Device) (c : CtxId) : Device :=
  match (streamOf d c).outbound.find? fun o => o.granted && o.acked.isNone && o.error.isNone && decide (o.ackDue ≤ tickOf d c + 4) &&
    !heldBack d c o.held o.since && (outLinks d c o).all (linkOpen d) with
  | none => d
  | some o =>
    let o' := { o with acked := some (if executing d c && decide (tickOf d c + 4 ≤ o.ackDue) then 0 else periodOf d c) }
    modStream (noteLate d c (itemAddr d c o.desc o.inst o.xfer) o.ackDue o.since) c fun s => { s with outbound := s.outbound.map fun x => if x = o then o' else x }

def execSpillAck (c : CtxId) (s : State) : Host.Outcome State Fault Refusal := onDev (fun d => spillAck d c) s

/-- The item that the read slot of a tick ahead of the present one writes, the slots between having written theirs. -/
def slotAhead (d : Device) (c : CtxId) (t n : Nat) : Option LandItem :=
  let left := (List.range n).foldl (fun (l : List LandItem) k =>
    if slotAt d c (t + k) = some .read then (match slotItem l (t + k) with | some i => l.erase i | none => l) else l) (streamOf d c).landing
  if slotAt d c (t + n) = some .read then slotItem left (t + n) else none

/-- Items that fail their check at the end of the tick before t: due four ticks after it and not ready (R287, R294). -/
def checkStream (d : Device) (c : CtxId) (t : Nat) : Device :=
  if isHalted d c then d
  else
    let land := match slotAhead d c t 3 with | some i => if itemCame i then 0 else 1 | none => 0
    let acks := ((streamOf d c).outbound.filter fun o => o.granted && o.ackDue = t + 3 && o.acked.isNone && o.error.isNone).length
    if land + acks = 0 then d else modStream d c fun s => { s with late := satAdd s.late (land + acks) }

/-- Entries whose acknowledgement is due on the present tick are freed (R284, R286). DESIGN CHOICE: at the end of the tick, so that a
write slot on it still finds the buffer as it was (log entry 111). -/
def freeAcked (d : Device) (c : CtxId) : Device :=
  forAll ((streamOf d c).outbound.filter fun o => o.acked.isSome && o.error.isNone && decide (o.ackDue ≤ tickOf d c)) d fun d o =>
    finishXfer (modStream d c fun s => { s with outbound := s.outbound.erase o }) c o.desc o.inst c

/-- Whether an item is to land now whatever is outside the domain: a rotation arrival within a die on its contract tick,
which is no variable item (R287), or data of a halted core that has already landed (R288). -/
def landForced (d : Device) (c : CtxId) : Bool :=
  executing d c && (streamOf d c).landing.any fun i =>
    i.error.isNone && ((isHalted d c && i.landed.isSome) || (i.rotation && i.landed.isNone && decide (i.lambda ≤ tickOf d c) && (landLinks d c i).isEmpty))

/-- Whether the stream engine still has something to do on the present tick. -/
def streamDue (d : Device) (c : CtxId) : Bool :=
  startsDue d c || grantRows.any (grantDue d c) ||
    readSlotDue d c || writeSlotDue d c || edgeDue d c || landForced d c

end Sys2Proof.Machine
end

