-- ==== Sys2Proof/Machine/Channel.lean ====
section
/-! DEFINITION. Channels that leave a stall domain (R273, R274, R346–R348): assembly, the inbound table,
delivery in MSEQ order, held messages, credit frames, and the frames a partition sends. -/

namespace Sys2Proof.Machine

/-! ### Anchor and FP32 sums -/

/-- The sum of a transfer's words with those at the target (R132). -/
def sumWords (float : Bool) (n : Nat) (old new : Entry) : Entry :=
  ofLanes 32 ((List.range (n / 4)).map fun k =>
    let a : W32 := BitVec.ofNat 32 (lane old 32 k)
    let b : W32 := BitVec.ofNat 32 (lane new 32 k)
    (if float then (add32 a b).1 else a + b).toNat)

/-- Four tarns added exactly, saturating, with T when one saturates (R180, R272). -/
def sumTarns (old new : Entry) : Entry × NFlags :=
  let r := (List.range 4).map fun k => tarnAdd (BitVec.ofNat 128 (lane old 128 k)) (BitVec.ofNat 128 (lane new 128 k))
  (ofLanes 128 (r.map fun x => x.1.toNat), r.foldl (fun a x => a ||| x.2) 0)

/-- Raises flags of a context's vector engine by an arrival; they never trap (R272). -/
def raiseVector (d : Device) (c : CtxId) (f : NFlags) : Device :=
  if f = 0 then d else modUnit d c fun u => { u with vector := { u.vector with flags := { u.vector.flags with val := u.vector.flags.val ||| f } } }

/-! ### The inbound table (R261, R274, R348) -/

/-- The domain of a partition whose inbound entry a message names, with the entry. -/
def inboundEntry (d : Device) (p : PartId) (src : BitVec 18) (inid : Byte) : Option (DomId × InEntry) :=
  (domsOf p).findSome? fun i => match (getDom d i).prog with
    | none => none
    | some g => match g.inbound[inid.toNat]? with
      | some e => if e.kind != 0 && e.src = src then some (i, e) else none
      | none => none

/-- FADD on delivery: 1, or the units of the message (R271). -/
def deliverFlag (d : Device) (t : CtxId) (fadd fper : Bool) (flag : Byte) (n : Nat) : Device :=
  if fadd then pendAdd d t flag (if fper then BitVec.ofNat 32 n else 1) else d

/-- The units of a complete message. -/
def messageUnits (m : Assembling) : List (BitVec 512) :=
  (List.range m.len).map fun k => match m.units.find? fun u => u.1 = k with | some u => u.2 | none => 0

/-- Units for an anchor buffer reach the edge of the target's scratchpad, where each is an accumulate at remote priority
(R272). -/
def anchorArrive (d : Device) (e : InEntry) (inid : Byte) (m : Assembling) : Device :=
  let us := messageUnits m
  let now := corePeriod d e.target.core
  let amount : W32 := if e.fper then BitVec.ofNat 32 us.length else 1
  modUnit d e.target fun u => { u with adds := u.adds ++ (List.range us.length).map fun k =>
    { off := e.taddr.toNat + 64 * k, data := us.getD k 0, reached := now, readAt := none, sum := 0,
      flag := if e.fadd && k + 1 = us.length then some (e.tflag, amount) else none
      back := if k + 1 = us.length then some { chan := inid, units := m.len, due := 0, inbound := some (m.src, m.sender, m.chan) } else none } }

/-- A complete message reaches its queue or buffer: none when the queue has no room. -/
def deliverInbound (d : Device) (e : InEntry) (inid : Byte) (m : Assembling) : Option Device :=
  if e.kind = 1 then
    if 64 < (mqOf d e.target e.queue.val).occ + placeCost (mqOf d e.target e.queue.val) m.len then none
    else
      let d := modMq d e.target e.queue.val fun q => place q (messageUnits m) inid m.sender (settleTick d e.target) (some (m.src, m.chan))
      some (deliverFlag d e.target e.fadd e.fper e.tflag m.len)
  else some (anchorArrive d e inid m)

/-- The next MSEQ expected of the channel that sent a message (R348). -/
def nextMseq (x : Domain) (m : Assembling) : W32 :=
  match x.inSeq.find? fun e => e.inid = m.inid && e.sender = m.sender && e.chan = m.chan with
  | some e => e.next
  | none => 0

/-- Whether two records are of one message. -/
def sameMessage (x y : Assembling) : Bool := x.inid = y.inid && x.sender = y.sender && x.chan = y.chan && x.mseq = y.mseq

/-- A message has been delivered or refused: its channel's next one is expected. -/
def passMessage (x : Domain) (m : Assembling) : Domain :=
  { x with assembling := x.assembling.filter fun y => !sameMessage y m,
           inSeq := (x.inSeq.filter fun e => !(e.inid = m.inid && e.sender = m.sender && e.chan = m.chan)) ++
             [{ inid := m.inid, sender := m.sender, chan := m.chan, next := nextMseq x m + 1 }] }

/-- The oldest message of an identifier that is complete and the next of its channel. -/
def readyMessage (x : Domain) (inid : Byte) : Option Assembling :=
  x.assembling.find? fun m => m.inid = inid && m.mseq = nextMseq x m && m.units.length = m.len

/-- Whether a core or context has reads of its present tick still to make, whose room a placement finds free (R266). -/
def readsDue (d : Device) (c : CtxId) : Bool := executing d c && !accessed d c

/-- Whether a domain takes deliveries: its run has begun and is not over. Messages that come before wait (log entry 103). -/
def receives (d : Device) (i : DomId) : Bool := liveDom (getDom d i) && (getDom d i).run.any (·.started)

/-- What the hub holds for a domain as its run starts: of each channel the messages from the first on without a gap (log
entry 103). -/
def keptMessages (l : List Assembling) : List Assembling :=
  l.filter fun m => (List.range m.mseq.toNat).all fun n =>
    l.any fun y => y.inid = m.inid && y.sender = m.sender && y.chan = m.chan && y.mseq.toNat = n

/-- Items whose awaited signal came in a frame that was retried are ledgered under code 0x3 (R238, R273). -/
def markRetried (d : Device) (i : DomId) (hit : ItemRef → Bool) : Device :=
  modRun d i fun r => { r with items := r.items.map fun x => if hit x.ref then { x with cause := 3 } else x }

/-- The external checks that a message of an inbound entry answers (R337). -/
def markMessage (d : Device) (i : DomId) (e : InEntry) (retried : Bool) : Device :=
  if retried then markRetried d i fun x => match x with
    | .extFlag c _ flag _ _ => c = e.target && flag = e.tflag
    | _ => false
  else d

/-- Delivers the messages of one identifier, each channel's in MSEQ order, as long as the next is complete and finds room,
after the target's reads of the tick, while the run is in progress. The isolation wrapper of a core in reset answers what comes to
it: the message is gone, with an entry in the ledger (R443, R472). -/
def deliverReady : Nat → Device → DomId → InEntry → Byte → Device
  | 0, d, _, _, _ => d
  | n + 1, d, i, e, inid =>
    match (if receives d i then readyMessage (getDom d i) inid else none) with
    | none => d
    | some m =>
      if m.refused then deliverReady n (modDom d i fun x => passMessage x m) i e inid
      else if (getCore d e.target.core).inReset then
        deliverReady n (noteErrors (modDom d i fun x => passMessage x m) 0 [e.target]) i e inid
      else if e.kind = 1 && readsDue d e.target then d
      else match deliverInbound d e inid m with
        | some d => deliverReady n (markMessage (modDom d i fun x => passMessage x m) i e m.retried) i e inid
        | none =>
          if m.held then d
          else
            let d := modDom d i fun x => { x with assembling := x.assembling.map fun y => if y = m then { y with held := true } else y }
            modMq d e.target e.queue.val fun q => { q with quotaHolds := satAdd q.quotaHolds 1 }

/-- Joins the units of a frame to the message they belong to. -/
def joinUnits (l : List Assembling) (m : Assembling) : List Assembling :=
  match l.find? fun x => sameMessage x m with
  | none => l ++ [m]
  | some x =>
    let fresh := m.units.filter fun u => !x.units.any fun v => v.1 = u.1
    l.map fun y => if sameMessage y m then { y with units := y.units ++ fresh, retried := y.retried || (m.retried && !fresh.isEmpty) } else y

/-- Whether a frame brings a unit that the hub does not hold yet of the message that its channel delivers next: only such a frame
answers a check (R337, R345). -/
def bringsNext (x : Domain) (m : Assembling) : Bool :=
  m.mseq = nextMseq x m && match x.assembling.find? fun y => sameMessage y m with
    | none => true
    | some y => m.units.any fun u => !y.units.any fun v => v.1 = u.1

/-- The hub receives units of an external message for a partition. A message is refused, and recorded, once: with the first
of its units that comes where detector 0x0122 is armed, else with its first unit (R274, R348); the entry names the sequence number of
its frame. -/
def hubMessage (d : Device) (p : PartId) (lseq : Nat) (m : Assembling) : Device :=
  match inboundEntry d p m.src m.inid with
  | none => if m.units.any fun u => u.1 = 0 then detectAt d (hubEvent 0x122 p.val 2 (put64 0 lseq)) else d
  | some (i, e) =>
    if 2 ^ 31 ≤ (m.mseq - nextMseq (getDom d i) m).toNat then d
    else
      let (inj, d) := if (getDom d i).assembling.any fun x => sameMessage x m then (false, d) else inject d 0x122 (BitVec.ofNat 16 p.val)
      let d := if inj then detect d { hubEvent 0x122 p.val 2 (put64 0 lseq) with inj := true } else d
      let brings := bringsNext (getDom d i) m
      let d := modDom d i fun x => { x with assembling := joinUnits x.assembling { m with refused := m.refused || inj } }
      deliverReady 256 (markMessage d i e (m.retried && brings)) i e m.inid

/-- At the end of a period the messages that waited for the reads of its tick are placed (R266). -/
def deliverWaiting (d : Device) (p : PartId) : Device :=
  forAll (domsOf p) d fun d i =>
    if (getDom d i).assembling.isEmpty then d
    else match (getDom d i).prog with
      | none => d
      | some g => forAll (List.range g.inbound.length) d fun d k => match g.inbound[k]? with
          | some e => if (getDom d i).assembling.any fun m => m.inid = BitVec.ofNat 8 k && !m.held then deliverReady 256 d i e (BitVec.ofNat 8 k) else d
          | none => d

/-- QUOTA_HOLD_RELEASE: reads have freed room for a held message of a queue (R274). -/
def quotaRelease (d : Device) (core : CoreId) (q : Fin 8) : Device :=
  let c : CtxId := { core := core, ctx := if isSplit d core then finMod 2 (q.val / 4) else 0 }
  match domOf d c with
  | none => d
  | some i => match (getDom d i).prog with
    | none => d
    | some g =>
      forAll (List.range g.inbound.length) d fun d k => match g.inbound[k]? with
        | some e =>
          if e.kind = 1 && e.target = c && physQueue (isSplit d core) c.ctx e.queue.val = q && (getDom d i).assembling.any (fun m => m.inid = BitVec.ofNat 8 k && m.held) then
            deliverReady 256 d i e (BitVec.ofNat 8 k)
          else d
        | none => d

def execQuotaHoldRelease (core : CoreId) (queue : Fin 8) (s : State) : Host.Outcome State Fault Refusal :=
  onDev (fun d => quotaRelease d core queue) s

/-! ### Frames a partition sends (R346, R347) -/

/-- SCORE of a core or context: bits [8:0] core, bit 9 context. -/
def scoreOf (c : CtxId) : BitVec 10 := BitVec.ofNat 10 (c.core.val + 512 * c.ctx.val)
def ctxOfScore (v : Nat) : CtxId := { core := finMod 512 (v % 512), ctx := finMod 2 (v / 512 % 2) }

/-- Body of a frame of a channel message: units from a first one on. -/
def messageBody (r : RouteEntry) (c : CtxId) (chan : Byte) (mseq : W32) (units : List (BitVec 512)) (first : Nat) : BitVec 1792 :=
  let part := (units.drop first).take 3
  leBits 1792 ([r.inid, BitVec.ofNat 8 part.length, BitVec.ofNat 8 units.length, BitVec.ofNat 8 first] ++ leBytes 4 mseq.toNat ++
    leBytes 2 (scoreOf c).toNat ++ [chan, 0, 0, 0, 0, 0] ++ part.flatMap fun u => leBytes 64 u.toNat)

/-- The partition of the same package that a route names: it is served inside the hub (R343). -/
def inPackage (d : Device) (r : RouteEntry) : Option PartId :=
  if r.kind = 3 && r.taddr.toNat / 4 = d.fab.index.toNat then some (finMod 4 r.taddr.toNat) else none

/-- The core or context that a route of another domain of the package ends at. -/
def externalTarget (d : Device) (c : CtxId) (r : RouteEntry) : Option CtxId :=
  (inPackage d r).bind fun q => (inboundEntry d q (BitVec.ofNat 18 (fabAddr d (partOfCore d c.core))) r.inid).map fun x => x.2.target

/-- A message on an external channel leaves its core: to the hub within the package, or in frames (R273). -/
def sendExternal (d : Device) (c : CtxId) (chan : Byte) (units : List (BitVec 512)) : Device :=
  match routeOf d c chan with
  | none => d
  | some r =>
    let p := partOfCore d c.core
    let k := physChan (isSplit d c.core) c.ctx chan
    let mseq := vget (getCore d c.core).msgSeq k
    let d := modCore d c.core fun x => { x with msgSeq := vset x.msgSeq k (mseq + 1) }
    match inPackage d r with
    | some q =>
      hubMessage d q 0
        { src := BitVec.ofNat 18 (fabAddr d p), inid := r.inid, mseq := mseq, sender := scoreOf c, chan := chan, len := units.length,
          units := (List.range units.length).map fun j => (j, units.getD j 0), held := false, retried := false, refused := false }
    | none =>
      forAll (List.range ((units.length + 2) / 3)) d fun d j =>
        queueFrame d { part := p, dom := none, kind := 1, dst := BitVec.ofNat 18 r.taddr.toNat, nominal := finMod 8 chan.toNat,
                       body := messageBody r c chan mseq units (3 * j), resend := false, first := none }

/-- Applies a credit return to a sender's channel. -/
def applyCredit (d : Device) (c : CtxId) (chan : Byte) (n : Nat) : Device := modCredit d c chan (· + n)

/-- Credit frames sent so far from a partition to an address. -/
def nextCseq (l : List CreditTx) (dst : BitVec 18) : W32 := match l.find? fun e => e.dst = dst with | some e => e.cseq | none => 0
def bumpCseq (l : List CreditTx) (dst : BitVec 18) : List CreditTx :=
  (l.filter fun e => e.dst != dst) ++ [{ dst := dst, cseq := nextCseq l dst + 1 }]

/-- A credit frame of a partition to another (R347). -/
def sendCredit (d : Device) (p : PartId) (dst : BitVec 18) (es : List (BitVec 10 × Byte × Nat)) : Device :=
  let cseq := nextCseq (getPart d p).cseqTx dst
  let plane := match es with | (_, chan, _) :: _ => finMod 8 chan.toNat | [] => 0
  let body : BitVec 1792 := leBits 1792 ([BitVec.ofNat 8 es.length, 0, 0, 0] ++ leBytes 4 cseq.toNat ++
    es.flatMap fun e => leBytes 2 e.1.toNat ++ [e.2.1, BitVec.ofNat 8 e.2.2])
  let d := modPart d p fun x => { x with cseqTx := bumpCseq x.cseqTx dst }
  queueFrame d { part := p, dom := none, kind := 2, dst := dst, nominal := plane, body := body, resend := false, first := none }

/-! ### Frames a partition receives -/

/-- A received channel-message frame joins its message. -/
def receiveMessage (d : Device) (p : PartId) (f : FrameBits) : Device :=
  let b := frameBodyBytes f
  let nu := le b 1 1
  let first := le b 3 1
  hubMessage d p (frameSeq f).toNat
    { src := BitVec.ofNat 18 (frameSrc f), inid := BitVec.ofNat 8 (le b 0 1), mseq := BitVec.ofNat 32 (le b 4 4),
      sender := BitVec.ofNat 10 (le b 8 2), chan := BitVec.ofNat 8 (le b 10 1), len := le b 2 1,
      units := (List.range nu).map fun k => (first + k, leBits 512 (slice b (16 + 64 * k) 64)), held := false,
      retried := frameRetried f, refused := false }

/-- The credit checks of a partition that a credit frame answers (R337). -/
def retriedCredit (d : Device) (p : PartId) (f : FrameBits) : Device :=
  let b := frameBodyBytes f
  forAll (List.range (le b 0 1)) d fun d k =>
    let c := ctxOfScore (le b (8 + 4 * k) 2)
    match domOf d c with
    | some i => if i.part = p then markRetried d i fun x => match x with
        | .credit e chan _ => e = c && chan.toNat = le b (10 + 4 * k) 1
        | _ => false
      else d
    | none => d

/-- A received credit frame: applied once per CSEQ (R345, R347). -/
def receiveCredit (d : Device) (p : PartId) (f : FrameBits) : Device :=
  let b := frameBodyBytes f
  let src := BitVec.ofNat 18 (frameSrc f)
  let cseq : W32 := BitVec.ofNat 32 (le b 4 4)
  if (getPart d p).cseqRx.any fun e => e.dst = src && e.cseq = cseq then d
  else
    let d := if frameRetried f then retriedCredit d p f else d
    let d := modPart d p fun x => { x with cseqRx := x.cseqRx ++ [{ dst := src, cseq := cseq }] }
    forAll (List.range (le b 0 1)) d fun d k =>
      let c := ctxOfScore (le b (8 + 4 * k) 2)
      if partOfCore d c.core = p then applyCredit d c (BitVec.ofNat 8 (le b (10 + 4 * k) 1)) (le b (11 + 4 * k) 1) else d

def channelMessageFrame (d : Device) (plane : Fin 8) (f : FrameBits) : Device :=
  let (dst, d) := receiveRouted d plane f 1
  match dst with
  | some p => receiveMessage (freeEntry d plane false p) p f
  | none => d

def execChannelMessageFrame (plane : Fin 8) (frame : FrameBits) (s : State) : Host.Outcome State Fault Refusal :=
  onDev (fun d => channelMessageFrame d plane frame) s

def channelCreditFrame (d : Device) (plane : Fin 8) (f : FrameBits) : Device :=
  let (dst, d) := receiveRouted d plane f 2
  match dst with
  | some p => receiveCredit (freeEntry d plane false p) p f
  | none => d

def execChannelCreditFrame (plane : Fin 8) (frame : FrameBits) (s : State) : Host.Outcome State Fault Refusal :=
  onDev (fun d => channelCreditFrame d plane frame) s

end Sys2Proof.Machine
end

