-- ==== Sys2Proof/Machine/Network.lean ====
section
/-! DEFINITION. Transport (R127–R132, R134, R138, R213–R222, R235, R265–R273, R362–R364): local store
writes, departure from the request queue, remote accesses, accumulates, flag signals, messages, credit, and
the fills of loads. -/

namespace Sys2Proof.Machine

/-! ### Store writes (R216) -/

/-- Writes the oldest pending store; a line of a split context writes its halves on two ticks. A store that was predicated
off takes the ticks alone (R103). -/
def storeWrite (d : Device) (c : CtxId) : Device :=
  if !storeDue d c then d
  else match (getUnit d c).stores with
    | [] => d
    | s :: rest =>
      let t := tickOf d c
      let first := if isSplit d c.core then min s.bytes 128 else s.bytes
      let left : List PendingStore :=
        if first < s.bytes then
          [{ s with offset := s.offset + first, bytes := s.bytes - first, data := s.data >>> (8 * first), wanted := t + 1, half := true }]
        else []
      let d := takeBanks d c (padBanks d c s.offset first)
      let d := if s.off then d else storePad d c s.offset (entryBytes s.data first)
      modUnit d c fun u => { u with stores := left ++ rest, stWrote := some t }

def execStoreWrite (c : CtxId) (s : State) : Host.Outcome State Fault Refusal := onDev (fun d => storeWrite d c) s

/-! ### Die links on a path (R19, R20) -/

/-- The die links that a flight crosses; a line of HBM3E memory lies on several stacks (R359, R362). A predicated-off
transfer to an address that fails its checks stays at its own core (R128). -/
def flightLinks (d : Device) (c : CtxId) (f : Flight) : List (Fin 8) :=
  let die := dieOf c.core
  let hub : List (Fin 8) := [finMod 8 die.val]
  match f.req.kind with
  | .flag _ _ => linksBetween die (dieOf (finMod 512 f.req.addr.toNat))
  | .message _ _ _ _ => linksBetween die (dieOf (finMod 512 f.req.addr.toNat))
  | _ =>
    if !f.req.valid then []
    else match f.req.addr.toNat / 2 ^ 44 % 16 with
      | 1 => linksBetween die (dieOf (finMod 512 (f.req.addr.toNat / 2 ^ 22)))
      | 3 => ((List.range ((f.req.bytes + 63) / 64)).flatMap fun k =>
          linksBetween die (stackDie d (partOfCore d c.core) (f.req.addr.toNat % 2 ^ 44 + 64 * k))).eraseDups
      | 2 | 4 => hub
      | _ => []

/-- Whether every link of the path is up. -/
def pathOpen (d : Device) (c : CtxId) (f : Flight) : Bool := (flightLinks d c f).all (linkOpen d)

/-! ### Departure (R127, R128, R138) -/

/-- Latency of a request's flight after its last slot, for what does not go to HBM3E or CXL memory. -/
def flightLatency (d : Device) (c : CtxId) (r : Request) : Nat :=
  let p := isPortable d c
  match r.kind with
  | .flag _ _ => remoteLatency d p c.core (finMod 512 r.addr.toNat)
  | .message _ _ _ _ => remoteLatency d p c.core (finMod 512 r.addr.toNat)
  | _ =>
    if r.predOff && !r.valid then remoteLatency d p c.core c.core
    else match r.addr.toNat / 2 ^ 44 % 16 with
      | 1 => remoteLatency d p c.core (finMod 512 (r.addr.toNat / 2 ^ 22))
      | _ => 40 + boundaryTicks d p c.core

/-- The requests of 64 bytes of a transfer to HBM3E or CXL memory (R362). -/
def subRequests (d : Device) (c : CtxId) (r : Request) : List SubRequest :=
  let a := r.addr.toNat
  if (a / 2 ^ 44 = 3 || a / 2 ^ 44 = 4) && r.valid then
    (List.range ((r.bytes + 63) / 64)).map fun k =>
      { addr := a + 64 * k, bytes := min 64 r.bytes, granted := none, latency := memLatency d c (a + 64 * k), held := .free, since := 0 }
  else []

/-- The flight of a request whose last slot is tick u. -/
def newFlight (d : Device) (c : CtxId) (r : Request) (u : Nat) : Flight :=
  let subs := subRequests d c r
  let f : Flight :=
    { uid := (getUnit d c).nextUid, req := r, u := u, due := u + flightLatency d c r - 1, subs := subs, data := 0, arrived := false,
      readAt := 0, reached := none, halves := 0, var := false, cause := 2, error := none }
  let far := match r.kind with
    | .load _ _ | .store _ | .accumulate _ _ => r.valid && r.addr.toNat / 2 ^ 44 = 1 && domOf d (ctxOfScore (r.addr.toNat / 2 ^ 22)) != domOf d c
    | _ => false
  { f with var := !subs.isEmpty || far || !(flightLinks d c f).isEmpty,
           cause := if far then 6 else if subs.isEmpty then 2 else memCause (r.addr.toNat / 2 ^ 44) }

/-- Whether a flight is a unit of an anchor channel; how many units a message flight holds once all are read. -/
def isAnchorUnit (d : Device) (c : CtxId) (f : Flight) : Bool :=
  match f.req.kind with
  | .message chan _ _ _ => (match routeOf d c chan with | some r => r.kind = 2 | none => false)
  | _ => false
def unitsRead (d : Device) (c : CtxId) (f : Flight) : Bool :=
  match f.req.kind with
  | .message _ n us _ => decide ((if isAnchorUnit d c f then 1 else n) ≤ us.length)
  | _ => true

/-- The variable item that stands for a flight is ready, on time or since the present period; one that is ready stays so. -/
def itemReady (d : Device) (c : CtxId) (f : Flight) (onTime : Bool) : Device :=
  match domOf d c with
  | none => d
  | some i => modRun d i fun r =>
      let mark := fun (x : VarItem) =>
        if x.ref = .flight c f.uid && x.ready.isNone then { x with ready := some (if onTime then 0 else r.period), cause := f.cause } else x
      { r with items := r.items.map mark }

/-- A flight's item is ready as the flight ends. -/
def flightReady (d : Device) (c : CtxId) (f : Flight) : Device := itemReady d c f (executing d c && decide (tickOf d c ≤ f.due))

/-- Links that a transfer has crossed count their failures from 0 again. -/
def linksPassed (d : Device) (l : List (Fin 8)) : Device :=
  { d with dieLinks := vmapi d.dieLinks fun k x => if l.contains k then { x with fails := 0 } else x }

/-- The scratchpad that a flight's access reaches. -/
def padTarget (d : Device) (c : CtxId) (f : Flight) : Option (CtxId × Nat) :=
  if !f.req.valid then none
  else match f.req.kind with
    | .message _ _ _ off => some (ctxOfScore f.req.addr.toNat, off)
    | .flag _ _ => none
    | _ => match resolve d (partOfCore d c.core) (some c) f.req.addr.toNat f.req.bytes with
      | .ok (.scratch t off) => some (t, off)
      | _ => none

/-- The core or context that a flight takes effect at; the hub's reservoir is none. -/
def targetCtx (d : Device) (c : CtxId) (f : Flight) : Option CtxId :=
  match f.req.kind with
  | .flag _ _ | .message _ _ _ _ => some (ctxOfScore f.req.addr.toNat)
  | _ => (padTarget d c f).map fun x => x.1

/-- Whether a flight is a transfer within its stall domain, or to its reservoir (R38, R222). -/
def within (d : Device) (c : CtxId) (f : Flight) : Bool :=
  f.subs.isEmpty && match targetCtx d c f with
    | some t => domOf d t = domOf d c
    | none => true

def isLoad (f : Flight) : Bool := match f.req.kind with | .load _ _ => true | _ => false

/-- The die links that a flight still has to cross: within a domain a write crosses them into a skid buffer before its tick
(R38), and a load's data once it has been read. -/
def linksLeft (d : Device) (c : CtxId) (f : Flight) : List (Fin 8) :=
  if (if within d c f then f.var else !f.arrived) then flightLinks d c f else []

/-- Whether a transfer will never come to an end: a port or a die link on its way does not answer until a reset (R369, R471). -/
def flightLost (d : Device) (c : CtxId) (f : Flight) : Bool := f.subs.any (·.held = .lost) || (linksLeft d c f).any (linkDown d)

/-- Removes a flight that has taken effect. -/
def endFlight (d : Device) (c : CtxId) (f : Flight) : Device :=
  let d := linksPassed d (if within d c f && !f.var then [] else flightLinks d c f)
  flightReady (modUnit d c fun u => { u with flights := u.flights.filter fun x => x.uid != f.uid }) c f

/-- Bytes of an access that the banks of a target give on one tick, and its bank ticks: a line takes a split context's banks
on two (R212). -/
def tickBytes (d : Device) (t : CtxId) (n : Nat) : Nat := if isSplit d t.core then min n 128 else n
def bankTicks (d : Device) (t : CtxId) (n : Nat) : Nat := if tickBytes d t n < n then 2 else 1

/-- The tick on which a flight reaches its target. DEDUCED: its last bank tick is its completion tick (R127); a line into
a split context takes one more before it, and an accumulate reads before it writes (R132, R212, R217; log entry 31). -/
def accessTick (d : Device) (c : CtxId) (f : Flight) : Nat :=
  let two := match padTarget d c f with | some (t, _) => bankTicks d t f.req.bytes | none => 1
  match f.req.kind with
  | .accumulate _ _ | .message _ _ _ _ => f.due + 1 - 2 * two
  | _ => f.due + 1 - two

/-- The tick on which a write within its domain first uses what crosses a die link: that of its first bank access, of the
signal or of the delivery. -/
def effectTick (d : Device) (c : CtxId) (f : Flight) : Nat :=
  match f.req.kind with
  | .flag _ _ => f.due
  | .message _ _ _ _ => if isAnchorUnit d c f then accessTick d c f else f.due
  | _ => if (padTarget d c f).isSome then accessTick d c f else f.due

/-- A flight starts: what can be late is noted (R36, R44). DEDUCED: the due tick of a write within its domain is the tick on
which it takes effect, before which it has to have crossed its die links; that of a load is known with its access (log
entry 35). -/
def launch (d : Device) (c : CtxId) (f : Flight) : Device :=
  let d := modUnit d c fun u => { u with flights := u.flights ++ [f], nextUid := u.nextUid + 1 }
  if !f.var || !f.subs.isEmpty then d
  else if !within d c f then flightDue d c f
  else if isLoad f then d
  else addItem d c { ref := .flight c f.uid, due := effectTick d c f, ready := none, cause := f.cause }

/-- The core or context that a route's messages go to: of an external channel within the package, what the receiving
partition's inbound table names (R261, R343). -/
def routeTarget (d : Device) (c : CtxId) (r : RouteEntry) : Option CtxId :=
  if r.kind != 3 then some r.target
  else match inPackage d r with
    | some q => some (match inboundEntry d q (BitVec.ofNat 18 (fabAddr d (partOfCore d c.core))) r.inid with | some (_, e) => e.target | none => c)
    | none => none

/-- The flight of a message, or of a unit of an anchor channel, after its last slot. Of one that leaves the package, and of
one for another stall domain, no tick of the sender's schedule waits for it: within the package it is due by periods, and
the sender's run can end and its domain stall before that (R44, R138, R273). -/
def messageFlight (d : Device) (c : CtxId) (r : Request) (e : RouteEntry) (t : Nat) : Flight :=
  match routeTarget d c e with
  | some x =>
    let f := newFlight d c { r with addr := BitVec.ofNat 64 (scoreOf x).toNat, slotsLeft := 0 } t
    if e.kind = 3 then { f with var := false, due := corePeriod d c.core + (f.due - t) } else f
  | none => { newFlight d c { r with slotsLeft := 0 } t with due := t, var := false }

/-- One unit of a message takes its slot: its read joins the requests at the scratchpad's edge, in stream-port order (R138,
R214, R217). -/
def departUnit (d : Device) (c : CtxId) (r : Request) (chan : Byte) (n : Nat) (data : List (BitVec 512)) (off : Nat) : Device :=
  let t := tickOf d c
  let j := n - r.slotsLeft
  let i : LandItem :=
    { desc := 0, inst := 0, xfer := j, offset := off + 64 * j, data := 0, lambda := 0, rotation := false, landed := none, cause := 2, sender := c,
      error := none, held := .free, since := 0 }
  let d := modStream d c fun s => { s with edge := s.edge ++ [{ read := true, slot := t, item := i, send := some { seq := r.seq, pc := r.pc, entry := r.entryTick } }] }
  let last := decide (r.slotsLeft ≤ 1)
  let d := modUnit d c fun y => { y with rqueue := (if last then [] else [{ r with slotsLeft := r.slotsLeft - 1 }]) ++ y.rqueue.drop 1 }
  match routeOf d c chan with
  | none => d
  | some e =>
    -- an anchor unit travels by itself; the last carries the flag
    if e.kind = 2 then launch d c (messageFlight d c { r with kind := .message chan (if last then n else 0) [] (e.taddr.toNat + 64 * j) } e t)
    else if last then launch d c (messageFlight d c { r with kind := .message chan n data off } e t)
    else d

/-- Whether a send is that of a request. -/
def sendOf (x : SendRef) (r : Request) : Bool :=
  r.seq = x.seq && r.pc = x.pc && r.entryTick = x.entry && match r.kind with | .message _ _ _ _ => true | _ => false

/-- A request with one more unit read. -/
def addUnit (r : Request) (u : BitVec 512) : Request :=
  match r.kind with
  | .message chan n us off => { r with kind := .message chan n (us ++ [u]) off }
  | _ => r

/-- A unit that has been read joins its message, in flight or still in the request queue. A message that leaves the package
is complete with its last unit. -/
def giveUnit (d : Device) (c : CtxId) (x : SendRef) (u : BitVec 512) : Device :=
  match (getUnit d c).flights.find? fun f => sendOf x f.req && !unitsRead d c f with
  | none => modUnit d c fun y => { y with rqueue := y.rqueue.map fun r => if sendOf x r then addUnit r u else r }
  | some f =>
    let g := { f with req := addUnit f.req u }
    match g.req.kind with
    | .message chan _ us _ =>
      if unitsRead d c g && (match routeOf d c chan with | some e => (routeTarget d c e).isNone | none => true) then
        sendExternal (modUnit d c fun y => { y with flights := y.flights.filter fun z => z.uid != f.uid }) c chan us
      else modUnit d c fun y => { y with flights := y.flights.map fun z => if z.uid = f.uid then g else z }
    | _ => d

/-- Reads the unit whose request is the oldest at the edge. -/
def serveUnit (d : Device) (c : CtxId) (off : Nat) (x : SendRef) : Device :=
  let u : BitVec 512 := leBits 512 (readPad d c off 64)
  let d := modStream d c fun s => { s with edge := s.edge.drop 1, edgeTick := tickOf d c + 1 }
  let d := takeBanks d c (padBanks d c off 64)
  giveUnit (parityRead d c c off 64 1 x.seq x.pc 0) c x u

/-- Whether the remote slot of the present tick has an entry to carry. -/
def departDue (d : Device) (c : CtxId) : Bool :=
  let t := tickOf d c
  executing d c && slotAt d c t = some .remote && decide ((streamOf d c).remoteTick ≤ t) &&
  match (getUnit d c).rqueue with
  | r :: _ => decide (r.entryTick < t)
  | [] => false

/-- The oldest entry takes the remote slot of the present tick. -/
def takeSlot (d : Device) (c : CtxId) : Device :=
  match (getUnit d c).rqueue with
  | [] => d
  | r :: rest =>
    let t := tickOf d c
    let d := modStream d c fun s => { s with remoteTick := t + 1 }
    match r.kind with
    | .message chan n data off => departUnit d c r chan n data off
    | _ =>
      if 1 < r.slotsLeft then modUnit d c fun u => { u with rqueue := { r with slotsLeft := r.slotsLeft - 1 } :: rest }
      else launch (modUnit d c fun u => { u with rqueue := rest }) c (newFlight d c { r with slotsLeft := 0 } t)

/-- REQUEST_QUEUE_DEPART: the remote slot takes its entry, and the edge serves a message unit that can be read. -/
def depart (d : Device) (c : CtxId) : Device :=
  let d := if departDue d c && accessed d c && !storeDue d c then takeSlot d c else d
  match (streamOf d c).edge with
  | e :: _ => match e.send with
    | some x => if edgeDue d c then serveUnit d c e.item.offset x else d
    | none => d
  | [] => d

def execRequestQueueDepart (c : CtxId) (s : State) : Host.Outcome State Fault Refusal := onDev (fun d => depart d c) s

/-! ### Arrivals -/

/-- Whether a flight may act now: its domain executes, or it is late and completes during a stall. Within a domain the
access to the target is on a tick of the schedule, by a write that has crossed the die links of its path; only the data of a
load comes late (R38, R222). -/
def mayAct (d : Device) (c : CtxId) (f : Flight) (tick : Nat) : Bool :=
  let late := f.var && match runOf d c with | some r => r.started && decide (f.due < r.tick) | none => false
  decide (tick ≤ tickOf d c) &&
    if within d c f && (!isLoad f || !f.arrived) then executing d c && (isLoad f || !f.var)
    else pathOpen d c f && (executing d c || late)

/-- The core that a flight takes effect at, for scratchpad accesses, signals and messages. -/
def targetCore (d : Device) (c : CtxId) (f : Flight) : Option CoreId :=
  match f.req.kind with
  | .flag _ _ | .message _ _ _ _ => some (ctxOfScore f.req.addr.toNat).core
  | _ => (padTarget d c f).map fun x => x.1.core

/-- Whether a write within its domain can cross the die links of its path: from its check on (R36). -/
def crossDue (d : Device) (c : CtxId) (f : Flight) : Bool :=
  f.var && within d c f && !isLoad f && f.error.isNone && pathOpen d c f && decide (effectTick d c f ≤ tickOf d c + 4)

/-- The oldest of the flights given that can cross its die links does: on time into the skid buffer of its target, or late,
in the stall that waits for it (R37, R38). -/
def crossLinks (d : Device) (c : CtxId) (which : Flight → Bool) : Device :=
  match (getUnit d c).flights.find? fun f => which f && crossDue d c f with
  | none => d
  | some f =>
    let d := itemReady (linksPassed d (flightLinks d c f)) c f (decide (tickOf d c < effectTick d c f))
    modUnit d c fun u => { u with flights := u.flights.map fun x => if x.uid = f.uid then { f with var := false } else x }

/-- Whether a flight that left earlier still has to take effect at the same core (R129). -/
def behind (d : Device) (c : CtxId) (f : Flight) : Bool :=
  let waits := fun (g : Flight) => g.error.isNone && !(g.arrived && match g.req.kind with | .load _ _ => true | _ => false)
  match targetCore d c f with
  | none => false
  | some k => (getUnit d c).flights.any fun g => decide (g.uid < f.uid) && waits g && targetCore d c g = some k

/-- Whether a flight accesses the banks of a scratchpad, and which: predicated off too, for its timing is the same (R103). -/
def padAccess (d : Device) (c : CtxId) (f : Flight) : Option (CtxId × Nat) :=
  let banks := match f.req.kind with
    | .message chan _ _ _ => (match routeOf d c chan with | some r => r.kind = 2 | none => false)
    | .flag _ _ => false
    | _ => true
  if banks && f.error.isNone then padTarget d c f else none

/-- A flight at the edge of its target that still has to read or write its banks. -/
def atEdge (d : Device) (c : CtxId) (f : Flight) : Bool :=
  !f.arrived && (padAccess d c f).isSome && mayAct d c f (accessTick d c f)

/-- Whether an accumulate or an anchor unit has been read and can be written back (R217). -/
def writeBack (d : Device) (c : CtxId) (f : Flight) : Bool :=
  f.arrived && f.error.isNone && !isLoad f && decide (f.readAt < (getPart d (partOfCore d c.core)).periods)

/-- Whether a flight at an edge comes before another there (R217): within a domain by the tick and the order of their
senders, between domains by the period in which they came, then the lower sender. -/
def comesFirst (d : Device) (e : CtxId) (g : Flight) (c : CtxId) (f : Flight) : Bool :=
  let sender := decide (e.core.val < c.core.val) || (e.core = c.core && decide (e.ctx.val < c.ctx.val)) || (e = c && decide (g.uid < f.uid))
  let at' := fun (x : Flight) => x.reached.getD (corePeriod d c.core)
  if domOf d e = domOf d c then decide (accessTick d e g < accessTick d c f) || (accessTick d e g = accessTick d c f && sender)
  else (atEdge d e g || writeBack d e g) && (decide (at' g < at' f) || (at' g = at' f && sender))

/-- Whether a flight is the oldest that wants the banks of a target (R217), to read or write them or to write a sum back: a late one
of the same domain keeps its place, and one that comes in the same period as a unit from another package goes first. -/
def firstAt (d : Device) (c : CtxId) (f : Flight) (t : CtxId) : Bool :=
  ((List.finRange 512).all fun k => (List.finRange 2).all fun x =>
    let e : CtxId := { core := k, ctx := x }
    (getUnit d e).flights.all fun g =>
      (e = c && g.uid = f.uid) || (g.arrived && !writeBack d e g) || (f.arrived && !g.arrived) || !decide (accessTick d e g ≤ tickOf d e) ||
        !(match padAccess d e g with | some (y, _) => y = t | none => false) || !comesFirst d e g c f) &&
  (getUnit d t).adds.all fun a => decide (f.reached.getD (corePeriod d t.core) ≤ a.reached) || a.readAt = some (corePeriod d t.core)

/-- Whether the local ports of a target have done their accesses of the present tick. -/
def portsDone (d : Device) (t : CtxId) : Bool := !executing d t || (accessed d t && !storeDue d t && !streamDue d t && !departDue d t)

/-- Banks held between the read and the write of an accumulate (R217). -/
def heldBanks (d : Device) (t : CtxId) (n : Nat) (off : Nat) : Bool :=
  let m := padBanks d t off n
  ((getUnit d t).adds.any fun a => a.readAt.isSome && padBanks d t a.off 64 &&& m != 0) ||
  (List.finRange 512).any fun k => (List.finRange 2).any fun x =>
    (vget (getCore d k).units x).flights.any fun f => accToward d t.core f && (flightTarget d f).1 = t.ctx &&
      banksOf (isSplit d t.core) t.ctx (flightTarget d f).2 f.req.bytes &&& m != 0

/-- Whether remote priority gives a flight its banks on the present tick. -/
def remoteBanks (d : Device) (c : CtxId) (f : Flight) (t : CtxId) (off : Nat) : Bool :=
  let n := tickBytes d t f.req.bytes
  portsDone d t && !(getUnit d t).remServed && banksFree d t (padBanks d t (off + n * f.halves) n) && !heldBanks d t f.req.bytes off && firstAt d c f t

/-- Takes the banks of a target at remote priority. -/
def serveRemote (d : Device) (t : CtxId) (off n : Nat) : Device :=
  modUnit (takeBanks d t (padBanks d t off n)) t fun u => { u with remServed := true }

def setFlight (d : Device) (c : CtxId) (f : Flight) : Device :=
  modUnit d c fun u => { u with flights := u.flights.map fun x => if x.uid = f.uid then f else x }

/-- A transfer fails: nothing is late on its account, and its core halts on its due tick, the tick after its
completion tick (R36, R365, R444). -/
def failFlight (d : Device) (c : CtxId) (f : Flight) (code : Byte) : Device :=
  let d := setFlight (flightReady d c f) c { f with arrived := true, error := some code }
  match f.req.kind with
  | .load (.lq q id) _ => modLq d c q fun x => { x with entries := x.entries.map fun e => if e.id = id then { e with var := false } else e }
  | _ => d

/-- A flight receives an error response: one ledger entry, and its core halts on its due tick (R444, R472). -/
def isolated (d : Device) (c : CtxId) (f : Flight) : Device :=
  detectAt (failFlight d c f 0x04) (coreEvent d c 0x181 (coreUnit c) 2 0x04 0)

/-- Whether a flight is a load or store whose turn at its target has come. -/
def accessReady (d : Device) (c : CtxId) (f : Flight) : Bool :=
  let plain := match f.req.kind with | .load _ _ | .store _ => true | _ => false
  plain && f.subs.isEmpty && !f.arrived && mayAct d c f (accessTick d c f) && !behind d c f

/-- Whether a core or context has an access of the reservoir to make on the present tick. -/
def reservoirDue (d : Device) (c : CtxId) : Bool := (getUnit d c).flights.any fun f => accessReady d c f && (padTarget d c f).isNone

/-- Whether every lower core and context of the partition has made its requests of the present period (R506). -/
def requestTurn (d : Device) (c : CtxId) : Bool :=
  (List.finRange 512).all fun k => (List.finRange 2).all fun x =>
    let e : CtxId := { core := k, ctx := x }
    !(decide (k.val < c.core.val) || (k = c.core && decide (x.val < c.ctx.val))) || partOfCore d k != partOfCore d c.core ||
      !(startsDue d e || reservoirDue d e || grantRows.any (grantDue d e))

/-- Whether a flight is a load or store that can reach its target now; the reservoir in the order of R506. -/
def accessDue (d : Device) (c : CtxId) (f : Flight) : Bool :=
  accessReady d c f &&
  match padTarget d c f with
  | some (t, off) => f.error.isSome || (getCore d t.core).inReset || remoteBanks d c f t off
  | none => requestTurn d c

/-- Whether a core or context has used its slots of the present tick and read what its edge can. -/
def slotsDone (d : Device) (c : CtxId) : Bool := accessed d c && !storeDue d c && !readSlotDue d c && !writeSlotDue d c && !edgeDue d c

/-- Whether a grant of a core or context can be given: every lower one has made its requests (R506), it has itself made those to the
reservoir, and its domain has used its slots, whose reads spills and rotations wait for. DESIGN CHOICE: within a tick, slots come
before grants, and a core's own accesses of the reservoir before its grants (log entry 112). -/
def grantTurn (d : Device) (c : CtxId) : Bool :=
  requestTurn d c && !reservoirDue d c && match domOf d c with | some i => (domCtxs d i).all (slotsDone d) | none => true

/-- The grant of the present tick: in the order of R506, after the starts of the tick; spills read before they take one. -/
def memoryGrant (d : Device) (c : CtxId) (row : GrantRow) : Device :=
  if grantDue d c row && !startsDue d c && grantTurn d c then
    let d' := match grantCore d c row with
      | some d' => d'
      | none => if isHalted d c then d else grantStream d c row
    modStream d' c fun s => { s with grantTick := vset s.grantTick (rowIndex row) (tickOf d c + 1) }
  else d

def execMemoryGrant (c : CtxId) (row : GrantRow) (s : State) : Host.Outcome State Fault Refusal := onDev (fun d => memoryGrant d c row) s

/-- A load's data is at hand. Its contract tick is known: over a die link its data can come late from now on (R67, R222). -/
def loadRead (d : Device) (c : CtxId) (f : Flight) : Device :=
  let d := setFlight d c f
  if f.var && within d c f then flightDue d c f else d

/-- A predicated-off access ends without its target. -/
def endAccess (d : Device) (c : CtxId) (f : Flight) : Device :=
  if isLoad f then loadRead d c { f with arrived := true, due := max f.due (tickOf d c), data := 0 } else endFlight d c f

/-- One bank tick of a load or store at its target (R127, R212, R217), or the access of the reservoir. Predicated off it takes its
banks alone (R103). -/
def accessAct (d : Device) (c : CtxId) (f : Flight) : Device :=
  let n := f.req.bytes
  let inReset := match padTarget d c f with | some (t, _) => (getCore d t.core).inReset | none => false
  if inReset then (if f.req.predOff then endAccess d c f else isolated d c f)
  else match f.req.kind with
    | .load _ bc =>
      match padTarget d c f with
        | some (t, off) =>
          let k := tickBytes d t n
          let o := off + k * f.halves
          let more := decide (f.halves + 1 < bankTicks d t n)
          if f.req.predOff then
            let d := serveRemote d t o k
            if more then setFlight d c { f with halves := f.halves + 1 }
            else loadRead d c { f with arrived := true, halves := 0, due := max f.due (tickOf d c), data := 0 }
          else if !padPowered d t off n then isolated d c f
          else
            let bs := readPad d t o k
            let d := parityRead (serveRemote d t o k) c t o k 2 f.req.seq f.req.pc (if more then 1 else 0)
            let data := f.data ||| (loadData (if bc then .ldbc else .ld) bs <<< (8 * k * f.halves))
            if more then setFlight d c { f with halves := f.halves + 1, data := data }
            else loadRead d c { f with arrived := true, halves := 0, due := max f.due (tickOf d c), data := data }
        | none =>
          if f.req.predOff then loadRead d c { f with arrived := true, due := max f.due (tickOf d c), data := 0 }
          else
          let (bs, m, d) := memAct d c f.req.addr.toNat n none
          match m.error with
          | some e => failFlight d c f e
          | none => loadRead d c { f with arrived := true, due := max f.due (tickOf d c), data := loadData (if bc then .ldbc else .ld) bs }
    | .store e =>
      match padTarget d c f with
        | some (t, off) =>
          if f.halves = 0 && !f.req.predOff && !writeAccepted d t off n (f.reached.getD (corePeriod d t.core)) then isolated d c f
          else
            let k := tickBytes d t n
            let o := off + k * f.halves
            let d := serveRemote d t o k
            let d := if f.req.predOff then d else storePad d t o (entryBytes (e >>> (8 * k * f.halves)) k)
            if f.halves + 1 < bankTicks d t n then setFlight d c { f with halves := f.halves + 1 } else endFlight d c f
        | none => endFlight (if f.req.predOff then d else (memAct d c f.req.addr.toNat n (some (entryBytes e n))).2.2) c f
    | _ => d

def isStore (f : Flight) : Bool := match f.req.kind with | .store _ => true | _ => false

/-- REMOTE_ACCESS_ARRIVE: the oldest load or store of a core or context that can reach its target does; else the oldest
store that can cross its die links. -/
def remoteAccess (d : Device) (c : CtxId) : Device :=
  match (getUnit d c).flights.find? (accessDue d c) with
  | some f => accessAct d c f
  | none => crossLinks d c isStore

def execRemoteAccessArrive (c : CtxId) (s : State) : Host.Outcome State Fault Refusal := onDev (fun d => remoteAccess d c) s

/-! ### Accumulates (R132, R217) and anchor units (R272) -/

def isAccumulate (f : Flight) : Bool := match f.req.kind with | .accumulate _ _ => true | _ => false

/-- Whether the target's port can read, or write back, for a flight now. -/
def accDue (d : Device) (c : CtxId) (f : Flight) : Bool :=
  mayAct d c f (if (padTarget d c f).isSome then accessTick d c f else f.due) && f.error.isNone && unitsRead d c f && (f.arrived || !behind d c f) &&
    match padTarget d c f with
    | none => true
    | some (t, off) =>
      if (getCore d t.core).inReset then true
      else if f.arrived then
        writeBack d c f && portsDone d t && !(getUnit d t).remServed && firstAt d c f t &&
          banksFree d t (padBanks d t (off + tickBytes d t f.req.bytes * f.halves) (tickBytes d t f.req.bytes))
      else remoteBanks d c f t off

/-- One bank tick of the write-back of a sum; with an anchor channel's last unit, its flag. -/
def accWrite (d : Device) (c : CtxId) (f : Flight) (t : CtxId) (off : Nat) : Device :=
  let k := tickBytes d t f.req.bytes
  let o := off + k * f.halves
  let d := serveRemote d t o k
  let d := if f.req.predOff then d else storePad d t o (entryBytes (f.data >>> (8 * k * f.halves)) k)
  if f.halves + 1 < bankTicks d t f.req.bytes then setFlight d c { f with halves := f.halves + 1 }
  else
    let d := match f.req.kind with
      | .message chan n _ _ => (match routeOf d c chan with
          | some r => if n = 0 then d else deliverFlag d t r.fadd r.fper r.tflag n
          | none => d)
      | _ => d
    endFlight d c f

/-- One bank tick of the read of the target's words; the last one forms the sum. DESIGN CHOICE: a sum that saturates raises its flag
here, before it is written (R272, log entry 113). -/
def accRead (d : Device) (c : CtxId) (f : Flight) (t : CtxId) (off : Nat) : Device :=
  let n := f.req.bytes
  let k := tickBytes d t n
  let o := off + k * f.halves
  let more := decide (f.halves + 1 < bankTicks d t n)
  let old := f.data ||| (bytesEntry (readPad d t o k) <<< (8 * k * f.halves))
  let d := serveRemote d t o k
  let d := if f.req.predOff then d else parityRead d c t o k 2 f.req.seq f.req.pc (if more then 1 else 0)
  if more then setFlight d c { f with halves := f.halves + 1, data := old }
  else
    let (sum, fl) := match f.req.kind with
      | .accumulate float e => (sumWords float n old e, (0 : NFlags))
      | .message _ _ us _ => sumTarns old ((us.headD 0).setWidth 2048)
      | _ => (old, 0)
    setFlight (if f.req.predOff then d else raiseVector d t fl) c
      { f with arrived := true, halves := 0, data := sum, readAt := (getPart d (partOfCore d c.core)).periods }

/-- One step of an accumulate or an anchor unit: predicated off it takes its banks and changes nothing (R103). -/
def accAct (d : Device) (c : CtxId) (f : Flight) : Device :=
  match padTarget d c f with
    | none => endFlight d c f
    | some (t, off) =>
      if f.req.predOff && (getCore d t.core).inReset then endFlight d c f
      else if (getCore d t.core).inReset ||
          (!f.req.predOff && !f.arrived && f.halves = 0 && !writeAccepted d t off f.req.bytes (f.reached.getD (corePeriod d t.core))) then
        isolated d c f
      else if f.arrived then accWrite d c f t off
      else accRead d c f t off

/-- ACCUMULATE_APPLY: the oldest accumulate store of a core or context that can take its banks does; else the oldest that
can cross its die links. -/
def accumulateApply (d : Device) (c : CtxId) : Device :=
  match (getUnit d c).flights.find? fun f => isAccumulate f && accDue d c f with
  | some f => accAct d c f
  | none => crossLinks d c isAccumulate

def execAccumulateApply (c : CtxId) (s : State) : Host.Outcome State Fault Refusal := onDev (fun d => accumulateApply d c) s

/-- Whether the oldest unit that came from outside for an anchor buffer can be read, or written back, now (R217, R272). -/
def addDue (d : Device) (t : CtxId) : Bool :=
  match (getUnit d t).adds with
  | [] => false
  | a :: _ =>
    let before := fun (e : CtxId) (g : Flight) => ((a.readAt.isNone && atEdge d e g) || writeBack d e g) && (match padAccess d e g with | some (y, _) => y = t | none => false) &&
      decide (g.reached.getD (corePeriod d t.core) ≤ a.reached)
    if (getCore d t.core).inReset then true
    else portsDone d t && !(getUnit d t).remServed && banksFree d t (padBanks d t a.off 64) &&
      (match a.readAt with | some p => decide (p < corePeriod d t.core) | none => !heldBanks d t 64 a.off) &&
      !(List.finRange 512).any fun k => (List.finRange 2).any fun x => (vget (getCore d k).units x).flights.any (before { core := k, ctx := x })

/-- A unit from outside has left the edge; with a message's last one its credit goes back (log entry 93). -/
def addDone (d : Device) (t : CtxId) (a : InAdd) (rest : List InAdd) : Device :=
  let back := match a.back with
    | some r => match r.inbound with
      | some (src, sender, _) => [{ r with due := outsideDue d t src sender (settleTick d t) }]
      | none => []
    | none => []
  modUnit d t fun u => { u with adds := rest, credits := u.credits ++ back }

/-- One step of such a unit: the read of its four tarns, or the write of their sums and the flag of the last. DESIGN CHOICE:
one whose banks are off or in reset, or whose read fails persistently, adds nothing (log entry 72). -/
def addAct (d : Device) (t : CtxId) : Device :=
  match (getUnit d t).adds with
  | [] => d
  | a :: rest =>
    if (getCore d t.core).inReset then addDone d t a rest
    else match a.readAt with
      | some _ =>
        let d := addDone (storePad (serveRemote d t a.off 64) t a.off (leBytes 64 a.sum.toNat)) t a rest
        match a.flag with
        | some (f, n) => pendAdd d t f n
        | none => d
      | none =>
        if !writeAccepted d t a.off 64 a.reached then addDone d t a rest
        else
          let (s, fl) := sumTarns (bytesEntry (readPad d t a.off 64)) (a.data.setWidth 2048)
          let (bad, d) := parityOutside (serveRemote d t a.off 64) t a.off 64 2
          if bad then addDone d t a rest
          else
            let a := { a with readAt := some (corePeriod d t.core), sum := s.setWidth 512 }
            modUnit (raiseVector d t fl) t fun u => { u with adds := a :: rest }

/-- ANCHOR_UNIT_ADD: likewise for the units of anchor channels, after those that came here from outside. -/
def anchorAdd (d : Device) (c : CtxId) : Device :=
  match (getUnit d c).flights.find? fun f => isAnchorUnit d c f && accDue d c f with
  | some f => accAct d c f
  | none => if addDue d c then addAct d c else crossLinks d c (isAnchorUnit d c)

def execAnchorUnitAdd (c : CtxId) (s : State) : Host.Outcome State Fault Refusal := onDev (fun d => anchorAdd d c) s

/-! ### Flag signals, messages, credit -/

def isSignal (f : Flight) : Bool := match f.req.kind with | .flag _ _ => true | _ => false

/-- REMOTE_FLAG_SIGNAL: a signal takes effect at the end of its tick (R134, R235); else one crosses its die links. -/
def flagDue (d : Device) (c : CtxId) (f : Flight) : Bool := isSignal f && f.error.isNone && mayAct d c f f.due && !behind d c f

def flagSignal (d : Device) (c : CtxId) : Device :=
  match (getUnit d c).flights.find? (flagDue d c) with
  | none => crossLinks d c isSignal
  | some f => match f.req.kind with
    | .flag g delta =>
      let t := ctxOfScore f.req.addr.toNat
      if (getCore d t.core).inReset then isolated d c f
      else endFlight (pendAdd d t g delta) c f
    | _ => d

def execRemoteFlagSignal (c : CtxId) (s : State) : Host.Outcome State Fault Refusal := onDev (fun d => flagSignal d c) s

/-- Whether a flight is a message to another stall domain of the package (R273). -/
def isExternal (d : Device) (c : CtxId) (f : Flight) : Bool :=
  match f.req.kind with | .message chan _ _ _ => (routeOf d c chan).any (·.kind = 3) | _ => false

/-- A message on a queue channel, or on an external channel within the package, and whether it is due. -/
def isMail (d : Device) (c : CtxId) (f : Flight) : Bool :=
  match f.req.kind with | .message chan _ _ _ => (match routeOf d c chan with | some r => r.kind = 1 || (inPackage d r).isSome | none => false) | _ => false

def messageDue (d : Device) (c : CtxId) (f : Flight) : Bool :=
  isMail d c f && f.error.isNone && unitsRead d c f && !behind d c f &&
    if isExternal d c f then decide (f.due ≤ corePeriod d c.core) && pathOpen d c f else mayAct d c f f.due

/-- Order of placements on one tick (R266): sending core, context, then channel. -/
def messageKey (c : CtxId) (f : Flight) : Nat :=
  (c.core.val * 2 + c.ctx.val) * 256 + match f.req.kind with | .message chan _ _ _ => chan.toNat | _ => 0

/-- Whether no message that comes first to the same core waits on this tick, and the core has made its reads. -/
def messageTurn (d : Device) (c : CtxId) (f : Flight) : Bool :=
  let t := ctxOfScore f.req.addr.toNat
  !readsDue d t && (List.finRange 512).all fun k => (List.finRange 2).all fun x =>
    let e : CtxId := { core := k, ctx := x }
    partOfCore d k != partOfCore d c.core || (getUnit d e).flights.all fun g =>
      !(messageDue d e g && g.req.addr = f.req.addr && decide (messageKey e g < messageKey c f))

/-- MESSAGE_DELIVERY: the message is placed at the end of its tick, and its flag rises (R265, R271); else one crosses its
die links. -/
def messageDeliver (d : Device) (c : CtxId) : Device :=
  match (getUnit d c).flights.find? fun f => messageDue d c f && messageTurn d c f with
  | none => crossLinks d c (isMail d c)
  | some f => match f.req.kind with
    | .message chan n us _ => match routeOf d c chan with
      | none => endFlight d c f
      | some r =>
        if r.kind = 3 then
          if (externalTarget d c r).any fun t => (getCore d t.core).inReset then isolated d c f else sendExternal (endFlight d c f) c chan us
        else if (getCore d r.target.core).inReset then isolated d c f
        else
          let d := modMq d r.target r.queue.val fun q => place q us chan (scoreOf c) (settleTick d r.target) none
          endFlight (deliverFlag d r.target r.fadd r.fper r.tflag n) c f
    | _ => d

def execMessageDelivery (c : CtxId) (s : State) : Host.Outcome State Fault Refusal := onDev (fun d => messageDeliver d c) s

/-- The other end of a credit's way: the channel's target, or the sender of another domain of the package. -/
def creditEnd (d : Device) (c : CtxId) (r : CreditReturn) : CtxId :=
  match r.inbound with
  | some (a, sender, _) => if a.toNat / 4 = d.fab.index.toNat then ctxOfScore sender.toNat else c
  | none => match routeOf d c r.chan with | some e => e.target | none => c

/-- A credit return that can take effect now: its tick has come and the links of its path are up. One that crosses a die
link comes late in the stall that waits for it (R268); one of another domain's message does not wait for a run. -/
def creditDue (d : Device) (c : CtxId) (r : CreditReturn) : Bool :=
  let stalled := (runOf d c).any (·.stalled)
  (decide (r.due ≤ tickOf d c) || (r.inbound.isSome && (runOf d c).isNone)) &&
    (r.inbound.isSome || presented d c || (stalled && decide (r.due < tickOf d c))) &&
    (linksBetween (dieOf (creditEnd d c r).core) (dieOf c.core)).all (linkOpen d)

/-- Credit of messages from another domain goes to its sender in the package, or in a credit frame shared with the returns
that are ready with it (R268, R343, R347). -/
def returnOutside (d : Device) (c : CtxId) (dst : BitVec 18) : Device :=
  let p := partOfCore d c.core
  let mine := fun (e : CtxId) => (getUnit d e).credits.filter fun r => creditDue d e r && match r.inbound with | some (a, _, _) => a = dst | none => false
  let all := (List.finRange 512).flatMap fun k => (List.finRange 2).flatMap fun x =>
    if partOfCore d k = p then (mine { core := k, ctx := x }).map fun r => (({ core := k, ctx := x } : CtxId), r) else []
  let taken := all.take 54
  let d := forAll taken d fun d e => modUnit d e.1 fun u => { u with credits := u.credits.erase e.2 }
  let es := taken.filterMap fun e => e.2.inbound.map fun (i : BitVec 18 × BitVec 10 × Byte) => (i.2.1, i.2.2, e.2.units)
  if dst.toNat / 4 = d.fab.index.toNat then forAll es d fun d e => applyCredit d (ctxOfScore e.1.toNat) e.2.1 e.2.2
  else sendCredit d p dst es

/-- CREDIT_RETURN: the oldest return due at a core or context (R268). -/
def creditReturn (d : Device) (c : CtxId) : Device :=
  match (getUnit d c).credits.find? (creditDue d c) with
  | none => d
  | some r => match r.inbound with
    | some (dst, _, _) => returnOutside d c dst
    | none =>
      let d := modUnit d c fun u => { u with credits := u.credits.erase r }
      let d := applyCredit d c r.chan r.units
      match domOf d c with
      | none => d
      | some i => modRun d i fun x =>
          let mark := fun (it : VarItem) =>
            if it.ref = .creditBack c r.chan r.units r.due then { it with ready := some (if x.tick ≤ r.due && !x.stalled then 0 else x.period) } else it
          { x with items := x.items.map mark }

def execCreditReturn (c : CtxId) (s : State) : Host.Outcome State Fault Refusal := onDev (fun d => creditReturn d c) s

/-! ### Responses and fills (R127, R364) -/

/-- A core transfer to HBM3E or CXL memory whose grants are known and whose contract tick has come. -/
def responseDue (d : Device) (c : CtxId) (f : Flight) : Bool :=
  !f.subs.isEmpty && f.subs.all (fun s => s.granted.isSome && !heldBack d c s.held s.since) && !f.arrived && mayAct d c f f.due

/-- MEMORY_RESPONSE: a load's data can fill; a store has been acknowledged. -/
def memoryResponse (d : Device) (c : CtxId) : Device :=
  match (getUnit d c).flights.find? (responseDue d c) with
  | none => d
  | some f =>
    let d := noteLate d c f.req.addr.toNat f.due (f.subs.foldl (fun a s => max a s.since) 0)
    match f.error, f.req.kind with
    | some e, _ => failFlight d c f e
    | none, .load _ bc => setFlight d c { f with arrived := true, data := if bc then loadData .ldbc (leBytes 8 f.data.toNat) else f.data }
    | none, _ => endFlight d c f

def execMemoryResponse (c : CtxId) (s : State) : Host.Outcome State Fault Refusal := onDev (fun d => memoryResponse d c) s

/-- Data reaches its destination at the end of a tick. During a stall the held tick has not begun. -/
def fillDest (d : Device) (c : CtxId) (dest : LoadDest) (v : Entry) (issued : Nat) (onTime : Bool) (cause : Fin 7) : Device :=
  let t := settleTick d c
  match dest with
  | .lq q id => modLq d c q fun x => fillEntry x id v t (if onTime then 0 else periodOf d c) cause
  | .sreg s r => modSeq d { core := c.core, seq := s } fun q => fillS q r.val (v.extractLsb' 0 64) t issued
  | .staging g => modAg d c g.val fun a => { a with staged := some (v.setWidth 512, t) }

/-- A local fill due at the end of the present tick. -/
def fillDue (d : Device) (c : CtxId) (f : Fill) : Bool := executing d c && presented d c && decide (f.due ≤ tickOf d c)

/-- A remote load whose data is at hand and whose contract tick has come. -/
def flightFillDue (d : Device) (c : CtxId) (f : Flight) : Bool :=
  isLoad f && f.arrived && f.error.isNone && mayAct d c f f.due &&
    (!executing d c || presented d c)

/-- LOAD_FILL: the oldest local fill that is due, else the oldest remote load. -/
def loadFill (d : Device) (c : CtxId) : Device :=
  match (getUnit d c).fills.find? (fillDue d c) with
  | some f =>
    let d := modUnit d c fun u => { u with fills := u.fills.erase f }
    fillDest d c f.dest f.data f.issued true 5
  | none => match (getUnit d c).flights.find? (flightFillDue d c) with
    | none => d
    | some f => match f.req.kind with
      | .load dest _ =>
        let keep := f.req.predOff && match dest with | .sreg _ _ => true | _ => false
        let d := if keep then d
          else fillDest d c dest f.data f.req.entryTick (executing d c && decide (tickOf d c ≤ f.due)) f.cause
        endFlight d c f
      | _ => d

def execLoadFill (c : CtxId) (s : State) : Host.Outcome State Fault Refusal := onDev (fun d => loadFill d c) s

/-! ### Transfers that halt their core (R80, R225, R365, R444) -/

/-- The halts by reads and transfers whose due tick has come: reason, sequencer, fetch address and SEQ_MASK. A stream-port read, or a
transfer of a stream instance, halts by no bundle (R80, R81). -/
def transferHalts (d : Device) (c : CtxId) : List (Byte × Fin 4 × BitVec 12 × BitVec 4) :=
  let t := tickOf d c
  let unnamed := fun (code : Byte) => let (n, a) := idleRecord d c; (code, n, physAddr (isSplit d c.core) c.ctx a, (0 : BitVec 4))
  ((getUnit d c).replays.filter fun r => r.persistent && decide (r.due ≤ t)).map (fun r =>
      if r.source = (1 : BitVec 2) then unnamed 0x0C else (0x0C, r.seq, r.pc, (1 : BitVec 4) <<< r.seq.val)) ++
    ((getUnit d c).flights.filter fun f => f.arrived && f.error.isSome && decide (f.due + 1 ≤ t)).map (fun f =>
      (f.error.getD 0, f.req.seq, f.req.pc, (1 : BitVec 4) <<< f.req.seq.val)) ++
    (streamFail d c).toList.map unnamed

/-- The transfers of those halts no longer wait. -/
def dropFailed (d : Device) (c : CtxId) : Device :=
  let d := modUnit d c fun u =>
    { u with replays := u.replays.filter fun r => !(r.persistent && decide (r.due ≤ tickOf d c)) }
  forAll ((getUnit d c).flights.filter fun f => f.arrived && f.error.isSome && decide (f.due + 1 ≤ tickOf d c)) d fun d f => endFlight d c f

/-! ### What transport still owes to the present tick -/

/-- Whether an event of the present tick that cannot be late is still to come. -/
def networkDue (d : Device) (c : CtxId) : Bool :=
  let u := getUnit d c
  storeDue d c || (departDue d c && accessed d c && !storeDue d c) ||
  u.fills.any (fillDue d c) ||
  addDue d c ||
  u.credits.any (fun r => creditDue d c r && (match r.inbound with | some (a, _, _) => decide (a.toNat / 4 = d.fab.index.toNat) | none => true) &&
    !(runOf d c).any fun x => x.items.any fun it => it.ref = .creditBack c r.chan r.units r.due) ||
  reservoirDue d c || u.flights.any fun f =>
    (match f.req.kind with | .load _ _ => accessDue d c f | _ => !f.var && accessDue d c f) ||
    (!f.var && ((isAccumulate f || isAnchorUnit d c f) && accDue d c f || flagDue d c f ||
      (messageDue d c f && messageTurn d c f && !(isExternal d c f && !(flightLinks d c f).isEmpty)) || flightFillDue d c f)) ||
    (f.arrived && (isAccumulate f || isAnchorUnit d c f) && accDue d c f)

end Sys2Proof.Machine
end

