-- ==== Sys2Proof/Machine/MemTier.lean ====
section
/-! DEFINITION. HBM3E refresh and windows (R47–R50, R366), read errors of HBM3E and CXL memory (R365, R369),
CXL ports (R367–R370), and the die links (R19, R471). -/

namespace Sys2Proof.Machine

/-! ### Refresh -/

def modPch (d : Device) (s : Fin 8) (k : Fin 32) (f : Pch → Pch) : Device := modStack d s fun x => { x with pchs := vmod x.pchs k f }

/-- A controller issues n refreshes, one after another, on a time in sixteenths of a nanosecond. -/
def issueRefresh (p : Pch) (n : Nat) (windowed : Bool) (now : Nat) : Pch :=
  let p := { p with issued := p.issued + n }
  if n = 0 then p
  else if p.busy then { p with queued := p.queued + n, windowed := windowed }
  else { p with busy := true, queued := n - 1, windowed := windowed, dueAt := now }

/-- Ticks left of the window open over a stack: the latest of the partition's runs (R48). -/
def windowLeft (d : Device) (p : PartId) : Nat :=
  (domsOf p).foldl (fun a i => match (getDom d i).run with
    | some r => if (getDom d i).st = .running && r.window != 0 then max a (r.window - r.tick) else a
    | none => a) 0

/-- OWED_MAX after a count of n. -/
def topOwed (m : BitVec 4) (n : Nat) : BitVec 4 := if m.toNat < min 8 n then BitVec.ofNat 4 (min 8 n) else m

/-- The interval of R47, in sixteenths of a nanosecond: 3.9 µs, or half of it above 85 °C. -/
def refreshInterval (x : HbmStack) : Nat := if x.hot then 31200 else 62400

/-- Whether a pseudo-channel has a refresh to accrue. -/
def accrueDue (d : Device) (s : Fin 8) (k : Fin 32) : Bool :=
  let x := vget d.hbmStat s
  x.ready && decide ((vget x.pchs k).lastAt + refreshInterval x ≤ d.clock.elapsed)

/-- Whether a run of a partition has been accepted and not begun: what accrues meanwhile is issued at once (R50). -/
def runWaits (d : Device) (p : PartId) : Bool :=
  (domsOf p).any fun i => (getDom d i).st = .running && match (getDom d i).run with | some r => !r.started | none => false

/-- A refresh accrues: inside a window with 450 ticks left it is issued at once; outside, the eighth is. -/
def refreshAccrue (d0 : Device) (s : Fin 8) (k : Fin 32) : Device :=
  if !accrueDue d0 s k then d0
  else
    let now := d0.clock.elapsed
    let d := modPch d0 s k fun p => { p with lastAt := p.lastAt + refreshInterval (vget d0.hbmStat s) }
    let n := (vget (vget d.hbmStat s).pchs k).owed + 1
    let d := modStack d s fun x => { x with owedMax := topOwed x.owedMax n }
    if 450 ≤ windowLeft d (partOfStack d s) then
      modStack (modPch d s k fun p => issueRefresh p 1 true now) s fun x => { x with windowed := satAdd x.windowed 1 }
    else if runWaits d (partOfStack d s) then modPch d s k fun p => issueRefresh { p with owed := 0 } n false now
    else if 8 ≤ n then
      modStack (modPch d s k fun p => issueRefresh { p with owed := n - 1 } 1 false now) s fun x => { x with forced := satAdd x.forced 1 }
    else modPch d s k fun p => { p with owed := n }

def execRefreshAccrue (stack : Fin 8) (pch : Fin 32) (s : State) : Host.Outcome State Fault Refusal := onDev (fun d => refreshAccrue d stack pch) s

/-- The requests that came before any refresh of a pseudo-channel but its first n begin (R49, R366). -/
def releaseHeld (d : Device) (s : Fin 8) (k : Fin 32) (n : Nat) : Device :=
  forAll ((List.finRange 512).flatMap fun c => [({ core := c, ctx := 0 } : CtxId), { core := c, ctx := 1 }]) d fun d c =>
    let p := partOfCore d c.core
    let at_ := fun (a : Nat) => decide (a / 2 ^ 44 = 3) && (match hbmMap d p (a % 2 ^ 44) with | (x, y, _) => x = s && y = k)
    let back := fun (a : Nat) => (getPart d p).periods + memLatency d c a - 1
    let past := fun (h : Hold) => match h with | .refresh m => decide (m ≤ n) | _ => false
    let sub := fun (x : SubRequest) => if past x.held && at_ x.addr then { x with held := .free, since := back x.addr } else x
    let u := getUnit d c
    let st := streamOf d c
    let d := if u.flights.any (fun f => f.subs.any fun x => past x.held) then
        modUnit d c fun u => { u with flights := u.flights.map fun f => { f with subs := f.subs.map sub } } else d
    let land := fun (i : LandItem) =>
      let a := itemAddr d c i.desc i.inst i.xfer
      if past i.held && at_ a then { i with held := .free, since := back a } else i
    let out := fun (o : OutItem) =>
      let a := itemAddr d c o.desc o.inst o.xfer
      if past o.held && at_ a then { o with held := .free, since := back a } else o
    if st.landing.any (fun i => past i.held) || st.outbound.any (fun o => past o.held) then
      modStream d c fun s => { s with landing := s.landing.map land, outbound := s.outbound.map out }
    else d

/-- A refresh frees its pseudo-channel: the requests that waited for it alone begin, and the next queued refresh after them (R366). -/
def refreshDone (d : Device) (s : Fin 8) (k : Fin 32) : Device :=
  let p := vget (vget d.hbmStat s).pchs k
  if !p.busy then d
  else
    let d := releaseHeld d s k (p.issued - p.queued)
    if p.queued = 0 then modPch d s k fun p => { p with busy := false }
    else modPch d s k fun p => { p with queued := p.queued - 1, dueAt := d.clock.elapsed }

/-- Whether a refresh has held its pseudo-channel for the 420 ns of R47. -/
def refreshOver (d : Device) (p : Pch) : Bool := p.busy && decide (p.dueAt + 6720 ≤ d.clock.elapsed)

/-- What wall time has brought to the controllers of the ready stacks before it passes on: refreshes that have accrued, and
the ends of those that have lasted as long as they can (R47). -/
def settleRefresh (d : Device) : Device :=
  forAll ((List.finRange 8).filter fun s => (vget d.hbmStat s).ready) d fun d s => forAll (List.finRange 32) d fun d k =>
    let d := if refreshOver d (vget (vget d.hbmStat s).pchs k) then refreshDone d s k else d
    refreshAccrue d s k

def execRefreshDone (stack : Fin 8) (pch : Fin 32) (s : State) : Host.Outcome State Fault Refusal := onDev (fun d => refreshDone d stack pch) s

/-- Stacks of a partition. -/
def stacksOf (d : Device) (p : PartId) : List (Fin 8) := (List.finRange 8).filter fun s => partOfStack d s = p

/-- The opening of a window of L ticks whose first tick is given (R48). -/
def openWindow (d : Device) (i : DomId) (first len : Nat) : Device :=
  let d := forAll (stacksOf d i.part) d fun d s =>
    let n := fun (p : Pch) => min p.owed (len / 450)
    let total := (vget d.hbmStat s).pchs.toList.foldl (fun a p => a + n p) 0
    modStack d s fun x =>
      { x with pchs := x.pchs.map (fun p => issueRefresh { p with owed := p.owed - n p } (n p) true d.clock.elapsed), windowed := satAdd x.windowed total }
  modRun d i fun r => { r with window := max r.window (first + len) }

/-- At RUN every owed refresh of the partition is issued (R50). -/
def runRefresh (d : Device) (p : PartId) : Device :=
  forAll (stacksOf d p) d fun d s => modStack d s fun x => { x with pchs := x.pchs.map fun p => issueRefresh { p with owed := 0 } p.owed false d.clock.elapsed }

/-- A window that has lasted its ticks closes. -/
def windowOver (d : Device) (i : DomId) : Bool := match (getDom d i).run with | some r => r.window != 0 && decide (r.window ≤ r.tick) | none => false
def windowClose (d : Device) (i : DomId) : Device := if windowOver d i then modRun d i fun r => { r with window := 0 } else d

def execRefreshWindowClose (d : DomId) (s : State) : Host.Outcome State Fault Refusal := onDev (fun x => windowClose x d) s

/-! ### Requests in progress at a unit -/

/-- Every core and context. -/
def allCtxs : List CtxId := (List.finRange 512).flatMap fun c => [{ core := c, ctx := 0 }, { core := c, ctx := 1 }]

/-- Whether a core address of a core or context lies at a stack, or at a port. -/
def atStack (d : Device) (c : CtxId) (s : Fin 8) (a : Nat) : Bool := a / 2 ^ 44 = 3 && (hbmMap d (partOfCore d c.core) (a % 2 ^ 44)).1 = s
def atPort (d : Device) (c : CtxId) (k : Fin 4) (a : Nat) : Bool := a / 2 ^ 44 = 4 && (cxlMap d (partOfCore d c.core) (a % 2 ^ 44)).1 = k

/-- Whether a flight waits for a unit: a request of its own has its grant there and no response has come. -/
def flightAt (hit : Nat → Bool) (f : Flight) : Bool := !f.arrived && f.subs.any fun x => x.granted.isSome && hit x.addr

/-- The first request waiting for a unit, in core order: a core transfer before a stream instance; of reads only, or of
writes too. It takes the cause of lateness and the error given, if any. Answers its core and address as well. -/
def markFirst (d : Device) (hit : Device → CtxId → Nat → Bool) (reads : Bool) (cause : Option (Fin 7)) (error : Option Byte) : Option (CtxId × Nat × Device) :=
  allCtxs.findSome? fun c =>
    let h := hit d c
    match (getUnit d c).flights.find? fun f => flightAt h f && (!reads || match f.req.kind with | .load _ _ => true | _ => false) with
    | some f =>
      let a := match f.subs.find? fun x => x.granted.isSome && h x.addr with | some x => x.addr | none => 0
      some (c, a % 2 ^ 44, setFlight d c { f with cause := cause.getD f.cause, error := error.or f.error })
    | none =>
      match (streamOf d c).landing.find? fun i => !i.rotation && i.landed.isNone && h (itemAddr d c i.desc i.inst i.xfer) with
      | some i => some (c, itemAddr d c i.desc i.inst i.xfer % 2 ^ 44,
          modStream d c fun s => { s with landing := s.landing.map fun x => if x = i then { x with cause := cause.getD x.cause, error := error.or x.error } else x })
      | none =>
        match (streamOf d c).outbound.find? fun o => !reads && o.granted && o.acked.isNone && h (itemAddr d c o.desc o.inst o.xfer) with
        | some o => some (c, itemAddr d c o.desc o.inst o.xfer % 2 ^ 44,
            modStream d c fun s => { s with outbound := s.outbound.map fun x => if x = o then { x with cause := cause.getD x.cause, error := error.or x.error } else x })
        | none => none

/-- Every request at a unit takes a cause of lateness. -/
def markAll (d : Device) (hit : Device → CtxId → Nat → Bool) (cause : Fin 7) : Device :=
  forAll allCtxs d fun d c =>
    let h := hit d c
    let late := fun (f : Flight) => if flightAt h f then { f with cause := cause } else f
    let d := if (getUnit d c).flights.any (flightAt h) then modUnit d c fun u => { u with flights := u.flights.map late } else d
    let land := fun (i : LandItem) => if !i.rotation && i.landed.isNone && h (itemAddr d c i.desc i.inst i.xfer) then { i with cause := cause } else i
    let out := fun (o : OutItem) => if o.granted && o.acked.isNone && h (itemAddr d c o.desc o.inst o.xfer) then { o with cause := cause } else o
    if (streamOf d c).landing.isEmpty && (streamOf d c).outbound.isEmpty then d
    else modStream d c fun s => { s with landing := s.landing.map land, outbound := s.outbound.map out }

/-- The entry of an event at a memory unit, of a core's access at an address of its partition, or of the host's. -/
def memDetect (d : Device) (c : Option CtxId × Nat) (det : BitVec 16) (unit : Nat) (sev : BitVec 2) (code : Byte) : Device :=
  detectAt d (match c with
    | (some c, a) => coreEvent d c det (BitVec.ofNat 16 unit) sev code (put64 0 a)
    | (none, a) => hubEvent det unit sev (put64 0 a))

/-- A host command in its data phase in a space of a partition: a READ_TENSOR, or a LOAD_TENSOR where not only reads are meant. -/
def commandIn (d : Device) (p : PartId) (space : Nat) (reads : Bool) : Option Cmd :=
  d.cmds.find? fun c => c.hdr.part = p && !c.failed && match c.job with
    | .readTensor b => c.active && decide (b.saddr.toNat / 2 ^ 44 = space)
    | .loadTensor b => !reads && decide (b.daddr.toNat / 2 ^ 44 = space)
    | _ => false

/-- The address in its partition of the next request of a host command's data phase. -/
def commandAddr (c : Cmd) : Nat :=
  match c.job with
  | .readTensor b => b.saddr.toNat % 2 ^ 44 + 64 * c.pos
  | .loadTensor b => b.daddr.toNat % 2 ^ 44 + 64 * c.pos
  | _ => 0

/-- The command fails where it is to (R365). Answers its address as well. -/
def markCommand (d : Device) (p : PartId) (space : Nat) (reads fails : Bool) : Option (Nat × Device) :=
  (commandIn d p space reads).map fun c => (commandAddr c, if fails then modCmd d c.handle fun c => { c with failed := true } else d)

/-! ### Read errors (R365, R369) -/

/-- A clean second read of a stack: counted and recorded. -/
def rereadClean (d : Device) (s : Fin 8) (c : Option CtxId × Nat) : Device :=
  memDetect (modStack d s fun x => { x with rereadOk := satAdd x.rereadOk 1 }) c 0x141 s.val 1 0
/-- A parity error on a request to a stack: counted and recorded. -/
def parityError (d : Device) (s : Fin 8) (c : Option CtxId × Nat) : Device :=
  memDetect (modStack d s fun x => { x with parity := satAdd x.parity 1 }) c 0x143 s.val 1 0

/-- Parity errors that a request has met, the first one with its second. -/
def tryParities : SecondTry → Nat
  | .corrected | .reread _ => 0
  | .resent => 1
  | .resentReread _ => 2

/-- What a line that was read again gave, if one was. -/
def tryAgain : SecondTry → Option Reread
  | .reread r | .resentReread r => some r
  | .corrected | .resent => none

/-- Whether a report is of a read alone: a parity error can be a write's, whose second is handled as an uncorrectable read (R365). -/
def ofRead : SecondTry → Bool
  | .corrected | .reread _ => true
  | .resent | .resentReread _ => false

/-- A read that the stack corrected: counted and recorded. -/
def readCorrected (d : Device) (s : Fin 8) (c : Option CtxId × Nat) : Device :=
  memDetect (modStack d s fun x => { x with corrected := satAdd x.corrected 1 }) c 0x140 s.val 0 0

/-- What a stack's report is counted and recorded as. -/
def noteTry (d : Device) (s : Fin 8) (r : SecondTry) (c : Option CtxId × Nat) : Device :=
  let d := forAll (List.range (tryParities r)) d fun d _ => parityError d s c
  match tryAgain r with
  | none => if r = .corrected then readCorrected d s c else d
  | some .clean => rereadClean d s c
  | some .corrected => rereadClean (readCorrected d s c) s c
  | some .uncorrectable => memDetect (modStack d s fun x => { x with uncorr := satAdd x.uncorr 1 }) c 0x142 s.val 2 0x0C

/-- A stack's report of the oldest request that waits for it: a core's or a stream's, else a host command's. One that is
read again and is uncorrectable once more fails with 0x0C, or ends its command. -/
def hbmReread (d : Device) (s : Fin 8) (r : SecondTry) : Device :=
  let hit := fun (d : Device) (c : CtxId) (a : Nat) => atStack d c s a
  let lost := tryAgain r = some .uncorrectable
  match markFirst d hit (ofRead r) (if r = .corrected then none else some 5) (if lost then some 0x0C else none) with
  | some (c, a, d) => noteTry d s r (some c, a)
  | none => match markCommand d (partOfStack d s) 3 (ofRead r) lost with
    | some (a, d) => noteTry d s r (none, a)
    | none => d

def execHbmReread (stack : Fin 8) (result : SecondTry) (s : State) : Host.Outcome State Fault Refusal :=
  onDev (fun d => hbmReread d stack result) s

/-- Poisoned responses of a port: counted and recorded. -/
def notePoison (d : Device) (k : Fin 4) (c : Option CtxId × Nat) (n : Nat) (sev : BitVec 2) (code : Byte) : Device :=
  memDetect (modPort d k fun p => { p with poison := satAdd p.poison n }) c 0x131 k.val sev code

/-- The re-read of a poisoned response of a port. -/
def cxlReread (d : Device) (k : Fin 4) (clean : Bool) : Device :=
  let hit := fun (d : Device) (c : CtxId) (a : Nat) => atPort d c k a
  let (n, sev) : Nat × BitVec 2 := if clean then (1, 1) else (2, 2)
  match markFirst d hit true (some 5) (if clean then none else some 0x0C) with
  | some (c, a, d) => notePoison d k (some c, a) n sev (if clean then 0 else 0x0C)
  | none => match markCommand d (partOfPort d k) 4 true (!clean) with
    | some (a, d) => notePoison d k (none, a) n sev 0
    | none => d

def execCxlPoisonReread (port : Fin 4) (clean : Bool) (s : State) : Host.Outcome State Fault Refusal := onDev (fun d => cxlReread d port clean) s

/-! ### CXL ports (R367–R370) -/

/-- Ports of a partition. -/
def portsOf (d : Device) (p : PartId) : List (Fin 4) := (List.finRange 4).filter fun k => partOfPort d k = p

/-- Firmware maps the ports of a partition once all are up and none of its programs is loaded (R369). -/
def mapPorts (d : Device) (p : PartId) : Device :=
  let ks := portsOf d p
  let up := fun (k : Fin 4) => (vget d.cxlPorts k).st = .up || (vget d.cxlPorts k).st = .mapped
  if ks.all up && !((domsOf p).any fun i => (getDom d i).st != .empty) then
    let least := ks.foldl (fun a k => min a (vget d.cxlPorts k).capGib.toNat) 65535
    let d := modPart d p fun x => { x with cxlValid := decide (0 < least), cxlUnits := BitVec.ofNat 16 (4 * least * ks.length) }
    forAll ks d fun d k => modPort d k fun x => { x with st := .mapped }
  else d

/-- The bit of a CXL port's engine in CLK_STATUS.STOPPED (R416, R420). -/
def portClock (k : Fin 4) : BitVec 26 := 1 <<< (20 + k.val)

/-- A port's link has trained, and its receive clock runs: HELD when too narrow or too slow, and the memory interleaved over it is then not
mapped; else a kept mapping is in force again (R367, R369). -/
def cxlUp (d : Device) (k : Fin 4) (cap : BitVec 16) (speed width : Byte) : Device :=
  let p := partOfPort d k
  let slow := decide (width.toNat < 16) || decide (speed.toNat < 64)
  let d := { modPort d k fun x =>
      { x with capGib := cap, speed := speed, width := width, st := if slow then .held else if (getPart d p).cxlValid then .mapped else .up } with
    clock := { d.clock with stopped := d.clock.stopped &&& ~~~ portClock k } }
  if slow then modPart d p fun x => { x with cxlValid := false, cxlUnits := 0 } else mapPorts d p

/-- The port must have been down or in training; the links train from release step 5 on (R441). -/
def execCxlPortUp (port : Fin 4) (capGib : BitVec 16) (speed width : Byte) (s : State) : Host.Outcome State Fault Refusal :=
  onDev (fun d => if d.rb.step = 5 && ((vget d.cxlPorts port).st = .training || (vget d.cxlPorts port).st = .down) then cxlUp d port capGib speed width else d) s

/-- The requests at a port are lost: it does not answer them (R369). -/
def loseRequests (d : Device) (k : Fin 4) : Device :=
  forAll allCtxs d fun d c =>
    let h := atPort d c k
    let sub := fun (x : SubRequest) => if x.granted.isSome && h x.addr then { x with held := .lost } else x
    let land := fun (i : LandItem) => if !i.rotation && i.landed.isNone && h (itemAddr d c i.desc i.inst i.xfer) then { i with held := .lost } else i
    let out := fun (o : OutItem) => if o.granted && o.acked.isNone && h (itemAddr d c o.desc o.inst o.xfer) then { o with held := .lost } else o
    let d := if (getUnit d c).flights.any (flightAt h) then
        modUnit d c fun u => { u with flights := u.flights.map fun f => if f.arrived then f else { f with subs := f.subs.map sub } } else d
    if (streamOf d c).landing.isEmpty && (streamOf d c).outbound.isEmpty then d
    else modStream d c fun s => { s with landing := s.landing.map land, outbound := s.outbound.map out }

/-- A port goes DOWN, and its recovered clock stops: its requests get no response (R369, R416). -/
def cxlDown (d : Device) (k : Fin 4) : Device :=
  if (vget d.cxlPorts k).st = .down then d
  else
    let d := loseRequests (modPort d k fun x => { x with st := .down }) k
    detectAt { d with clock := { d.clock with stopped := d.clock.stopped ||| portClock k } } (hubEvent 0x133 k.val 3 0)

def execCxlPortDown (port : Fin 4) (s : State) : Host.Outcome State Fault Refusal := onDev (fun d => cxlDown d port) s

/-- A flit of a CXL link fails its CRC and is retried. -/
def cxlRetry (d : Device) (k : Fin 4) : Device :=
  let st := (vget d.cxlPorts k).st
  if st = .down || st = .training then d
  else
    let d := modPort d k fun p => { p with crc := satAdd p.crc 1, retries := satAdd p.retries 1 }
    let who := allCtxs.findSome? fun c => ((getUnit d c).flights.find? (flightAt (atPort d c k))).map fun f => (c, f.req.addr.toNat % 2 ^ 44)
    memDetect (markAll d (fun d c a => atPort d c k a) 4) (who.map (·.1), (who.map (·.2)).getD 0) 0x130 k.val 1 0

def execCxlLinkRetry (port : Fin 4) (s : State) : Host.Outcome State Fault Refusal := onDev (fun d => cxlRetry d port) s

/-! ### Die links (R19, R41, R252, R471) -/

/-- Whether the hub link of a participant's die is up. -/
def partOpen (d : Device) (p : BarPart) : Bool := linkOpen d (finMod 8 (dieOf p.who.ctx.core).val)

/-- Whether a signal can cross its die link to the hub (R252). -/
def sigOpen (d : Device) (b : Barrier) (s : BarSignal) : Bool := match b.parts[s.part]? with | some p => partOpen d p | none => true

/-- Whether something of a context is to cross a die link that is not up. -/
def barBlocked (d : Device) (b : Barrier) : Bool :=
  b.signals.any (fun s => !sigOpen d b s) || ((b.releaseAt.isSome || b.reachAt.isSome) && b.parts.any fun p => !partOpen d p)

/-- The tick on which a release reaches the participants, of what is on its way and what has been counted: 13 ticks after the last
arrival, and after the last departure of the round before (R248, R250). -/
def nominalReach (b : Barrier) : Option Nat :=
  let last := fun (l : List BarSignal) => l.foldl (fun a s => max a s.due) 0
  let arrivals := fun (r : Nat) => b.signals.filter fun s => !s.depart && s.round = r
  let departs := b.signals.filter (·.depart)
  let r := b.round.toNat
  match b.reachAt, b.releaseAt with
  | some t, _ => some t
  | none, some t => some (t + 12)
  | none, none =>
    if b.parts.isEmpty then none
    else if b.awaitDep = 0 then
      let l := arrivals r
      if !l.isEmpty && b.counted.toNat + l.length = b.parts.length then some (last l + 13) else none
    else
      let l := arrivals (r + 1)
      if departs.length = b.awaitDep.toNat && b.held.toNat + l.length = b.parts.length then some (last (departs ++ l) + 13) else none

/-- A context of which something is delayed at a die link is marked, and a way to the participants that is late for it is a variable item
from the tick after it was due (R252). -/
def noteReach (d : Device) (k : Fin 64) : Device :=
  let d := if barBlocked d (getBar d k) && !(getBar d k).retried then modBar d k fun b => { b with retried := true } else d
  let b := getBar d k
  match nominalReach b, b.claim with
  | some t, some i =>
    if b.retried then modRun d i fun r =>
      if r.items.any fun x => x.ref = .release k && x.due = t + 1 then r
      else { r with items := r.items ++ [{ ref := .release k, due := t + 1, ready := none, cause := 2 }] }
    else d
  | _, _ => d

/-- Barrier contexts with a signal or a release on a hub link are delayed by its retry (R252). -/
def markBarriers (d : Device) (k : Fin 8) : Device :=
  if 4 ≤ k.val then d
  else
    let mine := fun (p : Participant) => (dieOf p.ctx.core).val = k.val
    forAll (List.finRange 64) d fun d n =>
      let b := getBar d n
      let sig := b.signals.any fun s => match b.parts[s.part]? with | some p => mine p.who | none => false
      let rel := (b.releaseAt.isSome || b.reachAt.isSome) && b.parts.any fun p => mine p.who
      if b.retried || !(sig || rel) then d
      else
        noteReach (modBar d n fun b => { b with retried := true }) n

/-- The die links on the way of what a transfer has sent: of one to HBM3E or CXL memory, its requests that have their grants (R362). -/
def sentLinks (d : Device) (c : CtxId) (f : Flight) : List (Fin 8) :=
  if f.subs.isEmpty then flightLinks d c f
  else (f.subs.filter fun s => s.granted.isSome).flatMap fun s => memLinks d c s.addr

/-- Transfers in transport across a link take code 0x2: those of cores, and the fills, rotations and spills of streams
(R287, R364). -/
def markFlights (d : Device) (k : Fin 8) : Device :=
  forAll allCtxs d fun d c =>
    let late := fun (f : Flight) => if (sentLinks d c f).contains k then { f with cause := 2 } else f
    let land := fun (i : LandItem) => if i.landed.isNone && (landLinks d c i).contains k then { i with cause := 2 } else i
    let out := fun (o : OutItem) => if o.granted && o.acked.isNone && (outLinks d c o).contains k then { o with cause := 2 } else o
    let d := if (getUnit d c).flights.isEmpty then d else modUnit d c fun u => { u with flights := u.flights.map late }
    if (streamOf d c).landing.isEmpty && (streamOf d c).outbound.isEmpty then d
    else modStream d c fun s => { s with landing := s.landing.map land, outbound := s.outbound.map out }

/-- The first core or context, in core order, with a transfer in transport across a link; else a participant of a
barrier context that the link's retry delays. -/
def linkUser (d : Device) (k : Fin 8) : Option CtxId :=
  (allCtxs.find? fun c => ((getUnit d c).flights.any fun f => (linksLeft d c f).contains k && (sentLinks d c f).contains k) ||
      ((streamOf d c).landing.any fun i => i.landed.isNone && (landLinks d c i).contains k) ||
      (streamOf d c).outbound.any fun o => o.granted && o.acked.isNone && (outLinks d c o).contains k).orElse fun _ =>
    if 4 ≤ k.val then none
    else (List.finRange 64).findSome? fun n =>
      let b := getBar d n
      let mine := fun (p : BarPart) => (dieOf p.who.ctx.core).val = k.val
      let sig := b.signals.findSome? fun s => match b.parts[s.part]? with | some p => if mine p then some p.who.ctx else none | none => none
      sig.orElse fun _ => if b.releaseAt.isSome || b.reachAt.isSome then (b.parts.find? mine).map fun p => p.who.ctx else none

/-- A flit of a die link fails: it is retried; after 16 successive failures the link retrains. -/
def dieRetry (d : Device) (k : Fin 8) : Device :=
  let l := vget d.dieLinks k
  if !l.up || l.retraining then d
  else
    let d := { d with dieLinks := vmod d.dieLinks k fun l => if 16 ≤ l.fails + 1 then { l with fails := 0, retraining := true } else { l with fails := l.fails + 1 } }
    memDetect (markBarriers (markFlights d k) k) (linkUser d k, 0) 0x110 k.val 1 0

def execDieLinkRetry (link : Fin 8) (s : State) : Host.Outcome State Fault Refusal := onDev (fun d => dieRetry d link) s

/-- The next flit on a link fails where detector 0x0110 is armed (R471). -/
def armedFlits (d : Device) : Device :=
  if !d.err.armed.any (fun a => a.det = 0x110 && a.count != 0) then d
  else forAll (List.finRange 8) d fun d k => if isArmed d 0x110 (BitVec.ofNat 16 k.val) && (linkUser d k).isSome then dieRetry d k else d

/-- A retrain fails, of itself or by injection: the link stays down until L1. -/
def dieFailure (d : Device) (k : Fin 8) : Device :=
  let l := vget d.dieLinks k
  if l.up && l.retraining then
    detectAt { d with dieLinks := vset d.dieLinks k { l with up := false, retraining := false } } (hubEvent 0x111 k.val 3 0)
  else d

def execDieLinkFailure (link : Fin 8) (s : State) : Host.Outcome State Fault Refusal := onDev (fun d => dieFailure d link) s

/-- A retrain ends; an armed detector 0x0111 makes it fail. -/
def dieRetrained (d : Device) (k : Fin 8) : Device :=
  if isArmed d 0x111 (BitVec.ofNat 16 k.val) then dieFailure d k
  else { d with dieLinks := vmod d.dieLinks k fun l => { l with retraining := false, fails := 0 } }

def execDieLinkRetrainDone (link : Fin 8) (s : State) : Host.Outcome State Fault Refusal := onDev (fun d => dieRetrained d link) s

end Sys2Proof.Machine
end

