-- ==== Sys2Proof/Machine/Barrier.lean ====
section
/-! DEFINITION. Barrier contexts (R136, R245–R253): arrivals and departures, their count at the hub, the
release and its way back, sense violations, and extended contexts. -/

namespace Sys2Proof.Machine

/-! ### Participants -/

/-- The participant that a sequencer is, and its index in a context's list (R246). -/
def partWho (d : Device) (w : SeqId) : Participant := { ctx := ctxOf d w, execute := w.seq.val % 2 = 1 }
def partIndex (b : Barrier) (p : Participant) : Option Nat :=
  let k := b.parts.findIdx fun x => x.who = p
  if k < b.parts.length then some k else none

/-- The sequencer that a participant is. -/
def partSeq (p : Participant) : SeqId := seqOf p.ctx p.execute

def modBarPart (b : Barrier) (k : Nat) (f : BarPart → BarPart) : Barrier :=
  { b with parts := (List.range b.parts.length).filterMap fun i => match b.parts[i]? with
      | some p => some (if i = k then f p else p)
      | none => none }

def barPart (b : Barrier) (k : Nat) : BarPart :=
  (b.parts[k]?).getD { who := default, arrivals := 0, reached := 0, left := 0, heldNext := false, leaving := false, nextAt := 0 }

/-- The tick of the domain that claims a context. -/
def barTick (d : Device) (b : Barrier) : Nat :=
  match b.claim with
  | some i => match (getDom d i).run with | some r => r.tick | none => 0
  | none => 0

/-- A signal leaves a core: it reaches the hub ten ticks later (R248). -/
def sendSignal (b : Barrier) (depart : Bool) (k round t : Nat) (pc : BitVec 12) : Barrier :=
  { b with signals := b.signals ++ [{ depart := depart, part := k, round := round, due := t + 10, pc := pc }] }

/-- The participant leaves the round it arrived in last but has not left, and says so (R249). -/
def leaveRound (b : Barrier) (k t : Nat) : Barrier :=
  let p := barPart b k
  sendSignal (modBarPart b k fun p => { p with left := p.left + 1, leaving := false }) true k p.left t 0

/-- Whether the release of the participant's next round to leave has reached it, so that a later operation leaves the
round: of an extended context the fabric's as well, and no bar or barout that leaves it on a tick of its own (R249, R253). -/
def releaseSeen (b : Barrier) (p : BarPart) : Bool :=
  decide (p.left < p.reached) && !p.leaving && (!b.extended || b.fabDone || decide (p.left < b.round.toNat))

/-- An arrival (R247, R249): it is a later operation for the round before, which it leaves now or when that round's release comes. -/
def arrive (b : Barrier) (k t : Nat) (pc : BitVec 12) : Barrier :=
  let p := barPart b k
  let b := if p.left < p.arrivals && releaseSeen b p then leaveRound b k t else b
  let b := modBarPart b k fun x => { x with arrivals := x.arrivals + 1, nextAt := if x.arrivals = x.left + 1 then t else x.nextAt }
  sendSignal b false k p.arrivals t pc

/-- Whether the release of the participant's last arrival reached it before tick t: its bar or barout can
issue on t. -/
def roundReached (b : Barrier) (k t : Nat) : Bool :=
  decide ((barPart b k).arrivals + (if b.lastReach = some t then 1 else 0) ≤ (barPart b k).reached)

/-! ### The hub (R247–R251) -/

/-- The counted arrivals complete the round: its release follows on the next tick. For an extended context
the local count is complete and is signalled to the fabric (R253). -/
def countFull (b : Barrier) (t : Nat) : Barrier :=
  if b.counted.toNat = b.parts.length && b.parts.length != 0 then
    if b.extended then { b with localDone := true, reachAt := some (t + 13) } else { b with releaseAt := some (t + 1) }
  else b

/-- An arrival reaches the hub at tick t: it is counted, held for the next round, or refused. -/
def hubArrival (b : Barrier) (s : BarSignal) (t : Nat) : Barrier :=
  let r := b.round.toNat
  let released := decide (b.awaitDep != 0)
  if s.round = r && !released then countFull { b with counted := b.counted + 1 } t
  else if s.round = r + 1 then modBarPart { b with held := b.held + 1 } s.part fun p => { p with heldNext := true }
  else { b with violation := true, halts := b.halts ++ [((barPart b s.part).who, s.due + 10, s.pc)] }

/-- A departure reaches the hub: the last one completes the round, and held arrivals are counted (R250). -/
def hubDeparture (b : Barrier) (t : Nat) : Barrier :=
  let n := b.awaitDep - 1
  if n != 0 then { b with awaitDep := n }
  else
    countFull
      { b with awaitDep := 0, round := b.round + 1, counted := b.held, held := 0, localDone := false, fabDone := false,
               parts := b.parts.map fun p => { p with heldNext := false } } t

/-- The oldest signal that has reached the hub over a die link that is up: departures of a tick before arrivals. -/
def nextSignal (d : Device) (b : Barrier) (depart : Bool) : Option BarSignal :=
  let t := barTick d b
  b.signals.find? fun s => s.depart = depart && decide (s.due ≤ t) && sigOpen d b s && (depart || !b.signals.any fun x => x.depart && decide (x.due ≤ s.due))

/-- Whether the domain of a context executes a tick: the hub of a stalled domain does not advance (R38). -/
def barRunning (d : Device) (b : Barrier) : Bool :=
  match b.claim with
  | none => false
  | some i => d.sec.dbg != .erasing && liveDom (getDom d i) && match (getDom d i).run with | some r => r.started && !r.stalled && r.ramp = 0 | none => false

/-- Whether what was due at a tick was delayed at a die link (R252). -/
def barLate (d : Device) (b : Barrier) (t : Nat) : Bool := b.retried && decide (t < barTick d b)

/-- Whether the hub can act on what was due at a tick: as the domain executes, or in the stall that waits for it. -/
def barTurn (d : Device) (b : Barrier) (t : Nat) : Bool := decide (t ≤ barTick d b) && (barRunning d b || barLate d b t)

def arrivalCounted (d : Device) (k : Fin 64) : Device :=
  let b := getBar d k
  match nextSignal d b false with
  | some s => if barTurn d b s.due then noteReach (modBar d k fun b => hubArrival { b with signals := b.signals.erase s } s s.due) k else d
  | none => d

def execBarrierArrivalCounted (b : Fin 64) (s : State) : Host.Outcome State Fault Refusal := onDev (fun d => arrivalCounted d b) s

def departureCounted (d : Device) (k : Fin 64) : Device :=
  let b := getBar d k
  match nextSignal d b true with
  | some s =>
    if barTurn d b s.due then
      let late := decide (s.due < barTick d b)
      noteReach (modBar d k fun b => hubDeparture { b with signals := b.signals.erase s, retried := b.retried || late } s.due) k
    else d
  | none => d

def execBarrierDepartureCounted (b : Fin 64) (s : State) : Host.Outcome State Fault Refusal := onDev (fun d => departureCounted d b) s

/-- The hub releases the round at the end of tick h + 1, where h is the tick of the last count (R248). -/
def releaseRound (b : Barrier) : Barrier :=
  { b with sense := !b.sense, counted := 0, awaitDep := BitVec.ofNat 16 b.parts.length }

def barRelease (d : Device) (k : Fin 64) : Device :=
  let b := getBar d k
  match b.releaseAt with
  | some t =>
    if barTurn d b t then
      let late := decide (t < barTick d b)
      noteReach (modBar d k fun b => { releaseRound b with releaseAt := none, reachAt := some (t + 12), retried := b.retried || late }) k
    else d
  | none => d

def execBarrierRelease (b : Fin 64) (s : State) : Host.Outcome State Fault Refusal := onDev (fun d => barRelease d b) s

/-- The release, or an extended context's local completion, reaches every participant; those whose later
operation has come leave, on the tick of the release or of the operation if that is later (R248, R249, R253). -/
def reachAll (b : Barrier) (t : Nat) : Barrier :=
  let b := { b with reachAt := none, lastReach := some t, retried := false, parts := b.parts.map fun p => { p with reached := p.reached + 1 } }
  (List.range b.parts.length).foldl (fun b k =>
    let p := barPart b k
    if decide (p.left + 1 < p.arrivals) && releaseSeen b p then leaveRound b k (max t p.nextAt) else b) b

/-- Refresh windows that a context opens from a tick on (R48). -/
def barWindows (d : Device) (k : Fin 64) (i : DomId) (first : Nat) : Device :=
  match (getDom d i).prog with
  | none => d
  | some g => modRun d i fun r => { r with openings := r.openings ++ (g.refresh.filter fun e => e.1 = k).map fun e => (first, e.2) }

/-- BARRIER_RELEASE_ARRIVE: on its tick over links that are up, or later when a die link delayed it (R252). -/
def releaseArrive (d : Device) (k : Fin 64) : Device :=
  let b := getBar d k
  match b.reachAt, b.claim with
  | some t, some i =>
    let late := barLate d b t
    if barTurn d b t && b.parts.all (partOpen d) then
      let d := modBar d k fun b => reachAll b t
      let d := if b.extended then d else barWindows d k i (t + 1)
      if b.retried then
        modRun d i fun r =>
          let mark := fun (x : VarItem) => if x.ref = .release k && x.ready.isNone then { x with ready := some (if late then r.period else 0) } else x
          { r with items := r.items.map mark }
      else d
    else d
  | _, _ => d

def execBarrierReleaseArrive (b : Fin 64) (s : State) : Host.Outcome State Fault Refusal := onDev (fun d => releaseArrive d b) s

/-- A refused arrival halts its core at the end of tick t + 20 (R251). -/
def violationHalt (d : Device) (c : CtxId) : Device :=
  let due := fun (b : Barrier) => b.halts.find? fun h => h.1.ctx = c && decide (h.2.1 ≤ barTick d b)
  match (List.finRange 64).findSome? fun k => (due (getBar d k)).map fun h => (k, h) with
  | none => d
  | some (k, h) =>
    let d := modBar d k fun b => { b with halts := b.halts.erase h }
    let s := (partSeq h.1).seq
    haltCheck d c 0x09 s h.2.2 (1 <<< s.val)

def execSenseViolationHalt (c : CtxId) (s : State) : Host.Outcome State Fault Refusal :=
  onDev (fun d => if executing d c then violationHalt d c else d) s

/-! ### The fabric's release (R253, R354) -/

/-- The release of a group's round by parity: recorded at the hub, and the checks that wait for it are met.
Participants whose later operation has come leave. DESIGN CHOICE: the refresh window of an extended context begins on the
tick after the present one (log entry 69). -/
def fabricRelease (d : Device) (group : Nat) (parity : Bool) (retried : Bool) : Device :=
  forAll (List.finRange 64) d fun d k =>
    let b := getBar d k
    match b.claim with
    | none => d
    | some i =>
      if b.extended && b.group.toNat = group && b.localDone && !b.fabDone && b.round.getLsbD 0 = parity then
        let t := barTick d b
        let leave := fun (b : Barrier) => (List.range b.parts.length).foldl (fun b n =>
          let p := barPart b n
          if decide (p.left + 1 < p.arrivals) && releaseSeen b p then leaveRound b n t else b) b
        let d := modBar d k fun b => leave { releaseRound b with fabDone := true }
        let d := barWindows d k i (t + 1)
        let hit := fun (x : VarItem) => match x.ref with | .fabRelease n _ _ => n = k && x.ready.isNone | _ => false
        modRun d i fun r => { r with items := r.items.map fun x => if hit x then { x with ready := some r.period, cause := if retried then 3 else x.cause } else x }
      else d

/-- A participant's extended round on the execution of its due tick: it leaves (R253). -/
def fabLeave (d : Device) (k : Fin 64) (round : Nat) (w : SeqId) (t : Nat) : Device :=
  noteReach (modBar d k fun b => match partIndex b (partWho d w) with
    | some n => if (barPart b n).left = round then leaveRound b n t else b
    | none => b) k

/-- A bar or barout on an extended context has issued on tick t: the fabric's release is due four ticks after (R253). -/
def fabricCheck (d : Device) (k : Fin 64) (n : Nat) (w : SeqId) (t : Nat) : Device :=
  let x := getBar d k
  let round := (barPart x n).left
  let ready := if decide (round < x.round.toNat) || x.fabDone then some 0 else none
  let d := modBar d k fun b => modBarPart b n fun p => { p with leaving := true }
  addItem d (ctxOf d w) { ref := .fabRelease k round w, due := t + 4, ready := ready, cause := 6 }

/-- Rounds of a context that have been released, and those whose release has reached every participant. -/
def releasedRounds (b : Barrier) : Nat := b.round.toNat + if b.awaitDep != 0 then 1 else 0
def reachedRounds (b : Barrier) : Nat :=
  if b.extended then releasedRounds b else b.parts.foldl (fun a p => min a p.reached) (releasedRounds b)

/-! ### What the hub owes to the present tick -/

/-- Whether a barrier event of the present tick is still to come for a domain. What a die link delays may come late. -/
def barrierDue (d : Device) (i : DomId) : Bool :=
  (List.finRange 64).any fun k =>
    let b := getBar d k
    let t := barTick d b
    b.claim = some i && (b.signals.any (fun s => decide (s.due ≤ t) && sigOpen d b s) || (match b.releaseAt with | some x => decide (x ≤ t) | none => false) ||
      (!b.retried && match b.reachAt with | some x => decide (x ≤ t) | none => false) || b.halts.any fun h => decide (h.2.1 ≤ t))

end Sys2Proof.Machine
end

