-- ==== Sys2Proof/Machine/Beacon.lean ====
section
/-! DEFINITION. Beacons and their answers (R349–R354): fabric time, its corrections, and barrier releases. -/

namespace Sys2Proof.Machine

/-- A plane's beacons serve as time: it is the time plane, ACTIVE, and its beacons carry TVALID (R352). -/
def isTimePlane (d : Device) (plane : Fin 8) : Bool := d.fab.timePlane = plane && planeActive d plane && (getPlane d plane).tvalid

/-- Applies an accepted correction, in sixteenths of 1 ns (R352). -/
def applyCorr (c : Clock) (corr : Int) : Clock :=
  if 1024 < corr then { c with time16 := min (c.time16 + corr.toNat) (2 ^ 68 - 1) }
  else if corr < -1024 then { c with half := (-corr).toNat, corr := 2 }
  else if corr = 0 then c
  else { c with slew := corr, corr := 1 }

/-- A correction of the time plane: accepted while none is in progress (R352, R353). -/
def takeCorr (d : Device) (corr : Int) : Device :=
  if d.clock.corr != 0 then { d with fab := { d.fab with sinceCorr := 0 } }
  else
    let near := decide (-64 ≤ corr) && decide (corr ≤ 64)
    let far := decide (corr < -1024) || decide (1024 < corr)
    let n := if near then d.fab.inRange + 1 else 0
    let d := if 1024 < corr then noteSet d .stepped else d
    { d with
      clock := applyCorr d.clock corr
      fab := { d.fab with
        corrLast := BitVec.ofInt 32 corr, sinceCorr := 0, inRange := n, stepped := d.fab.stepped || decide (1024 < corr),
        aligned := if far then false else d.fab.aligned || decide (16 ≤ n) } }

/-- A beacon that brings no valid CORR: after 64 of them ALIGNED clears (R353). -/
def missCorr (d : Device) : Device :=
  let n := d.fab.sinceCorr + 1
  { d with fab := { d.fab with sinceCorr := n, aligned := d.fab.aligned && decide (n < 64), inRange := if n < 64 then d.fab.inRange else 0 } }

/-- A beacon of the time plane: counted, with its correction if it is valid. -/
def beaconTime (d : Device) (cvalid : Bool) (corr : Int) : Device :=
  let d := { d with fab := { d.fab with beacons := d.fab.beacons + 1 } }
  if cvalid then takeCorr d corr else missCorr d

/-- The plane whose beacons are counted while none carries time: that which last did, or, if that one is not ACTIVE, the
lowest ACTIVE one (log entry 85). -/
def countsMisses (d : Device) (plane : Fin 8) : Bool :=
  !isTimePlane d d.fab.timePlane &&
    (d.fab.timePlane = plane || (!planeActive d d.fab.timePlane && (List.finRange 8).find? (planeActive d) = some plane))

/-- Arrival entries of an answer on the time plane (R351, R354). -/
def arrivalEntries (d : Device) : List Nat :=
  (List.finRange 64).filterMap fun k =>
    let b := getBar d k
    match b.claim with
    | some i => if b.extended && b.localDone && !b.fabDone then
        some (b.group.toNat + (if b.round.getLsbD 0 then 4096 else 0) + 8192 * i.part.val) else none
    | none => none

/-- The body of an answer (R351). -/
def answerBody (t bnum : Nat) (aligned settled : Bool) (arrivals : List Nat) : BitVec 1792 :=
  leBits 1792 (leBytes 8 t ++ leBytes 2 bnum ++ [(if aligned then 1 else 0) + (if settled then 2 else 0), BitVec.ofNat 8 arrivals.length] ++
    arrivals.flatMap fun a => leBytes 2 a)

/-- The position of the answer to a beacon: control position q of slot s = 16 × BNUM (R331, R350). -/
def answerPosition (bnum : Nat) : BitVec 24 := BitVec.ofNat 24 (256 * bnum + 2 * bnum % 16)

/-- The replica of the time counter at a plane's engine, in sixteenths of 1 ns: within 1 ns of the counter, where the spec gives no
more (R418; log entry 77). -/
def engineTime (d : Device) (plane : Fin 8) : Nat := d.clock.time16 + (Config.engineSkew plane.val d.clock.elapsed).val - 16

/-- A beacon that is not failed (R349–R354). -/
def beacon (d : Device) (plane : Fin 8) (f : FrameBits) : Device :=
  let t := engineTime d plane
  let settled := d.clock.corr = 0
  let aligned := d.fab.aligned
  let flags := frameField f 30 1
  let d := modPlane d plane fun p => { p with tvalid := p.st = .active && flags % 2 = 1 }
  let d := newTimePlane d
  let timed := isTimePlane d plane
  let d := if timed then
      let d := beaconTime d (flags / 2 % 2 = 1) (BitVec.ofNat 32 (frameField f 24 4)).toInt
      forAll (List.range (min 104 (frameField f 31 1))) d fun d k =>
        let e := frameField f (32 + 2 * k) 2
        fabricRelease d (e % 4096) (e / 4096 % 2 = 1) (frameRetried f)
    else if countsMisses d plane then missCorr d
    else d
  let d := passTo d plane (answerPosition (frameField f 28 2))
  positionDone (sendLocal d plane 9 (answerBody t (frameField f 28 2) aligned settled (if timed then arrivalEntries d else []))) plane

def execBeacon (plane : Fin 8) (frame : FrameBits) (s : State) : Host.Outcome State Fault Refusal :=
  onDev (fun d => let r := receiveLocal d plane frame 8; if r.1 then beacon r.2 plane frame else r.2) s

end Sys2Proof.Machine
end

