-- ==== Sys2Proof/Machine/Collective.lean ====
section
/-! DEFINITION. The collective engine (R295–R325): starts, the arithmetic of each format, the order of additions, the
frames and where they go, the verdict lap, completion, refusals and aborts. -/

namespace Sys2Proof.Machine

/-! ### A descriptor as a member sees it -/

/-- A descriptor of a domain with its group, position and blocks (R295–R298). -/
structure CollView where
  dom : DomId
  idx : Fin 16
  g   : Program
  x   : CollDesc
  grp : List (BitVec 18)
  n   : Nat
  pos : Nat
  blocks : Nat
deriving DecidableEq, Repr, Inhabited

def viewColl (d : Device) (i : DomId) (k : Fin 16) : Option CollView :=
  (getDom d i).prog.bind fun g => match g.colls[k.val]? with
    | none => none
    | some x =>
      if x.kind = 0 then none
      else
        let grp := collGroup g x
        some { dom := i, idx := k, g := g, x := x, grp := grp, n := grp.length, pos := positionOf grp (fabAddr d i.part), blocks := collBlocks g x }

/-- Address of a position. -/
def addrOf (v : CollView) (pos : Nat) : Nat := (v.grp.getD (pos % v.n) 0).toNat

/-- The position k places after this member in the ring. -/
def ringPos (v : CollView) (k : Nat) : Nat := (v.pos + k) % v.n

/-- Relative position of a position in the tree (R309), and the position of a relative one. -/
def relPos (v : CollView) (p : Nat) : Nat := (p + v.n - v.x.root % v.n) % v.n
def absPos (v : CollView) (q : Nat) : Nat := (q + v.x.root) % v.n

/-- Positions of this member's children in the tree. -/
def treeKids (v : CollView) : List Nat :=
  let q := relPos v v.pos
  ([2 * q + 1, 2 * q + 2].filter fun k => decide (k < v.n)).map (absPos v)

/-- This member's parent in the tree. -/
def treeParent (v : CollView) : Nat := absPos v ((relPos v v.pos - 1) / 2)

/-! ### Shards and frames (R307, R316, R317) -/

/-- Whether the descriptor moves data in the shards of R307; the others move all blocks as one. -/
def sharded (v : CollView) : Bool := v.x.order = 0 && (v.x.kind = 1 || v.x.kind = 2 || v.x.kind = 3)

/-- First element and elements of the data under a SHARD number. -/
def spanOf (v : CollView) (shard : Nat) : Nat × Nat :=
  if sharded v then
    let a := shardStart v.blocks v.n shard
    (32 * a, 32 * (shardStart v.blocks v.n (shard + 1) - a))
  else (0, 32 * v.blocks)

/-- Elements in the payload of a frame. -/
def perFrame (v : CollView) : Nat :=
  match v.x.format.toNat with
  | 1 => 192
  | 2 | 3 => 12
  | _ => 48

/-- Frames of a span; an empty one has none. -/
def framesOf (v : CollView) (shard : Nat) : Nat := ((spanOf v shard).2 + perFrame v - 1) / perFrame v

/-- First element, counted over all blocks, and elements of frame j. -/
def frameSpan (v : CollView) (shard j : Nat) : Nat × Nat :=
  let (a, n) := spanOf v shard
  (a + j * perFrame v, min (perFrame v) (n - j * perFrame v))

/-- A stream of frames that this member receives in an attempt: phase, SHARD and the sender's position (R308–R310). -/
structure CollSource where
  phase  : Nat
  shard  : Nat
  sender : Nat
deriving DecidableEq, Repr, Inhabited

/-- Everything this member receives in the data phases of an attempt. -/
def sourcesOf (v : CollView) : List CollSource :=
  let pred := ringPos v (v.n - 1)
  let ring := fun (phase : Nat) (ks : List Nat) => ks.map fun k => ({ phase := phase, shard := k, sender := pred } : CollSource)
  let reduceRing := ring 1 ((List.range v.n).filter fun k => (k + 1) % v.n != v.pos)
  let gatherRing := ring 2 ((List.range v.n).filter fun k => k != v.pos)
  let chain := ring 1 (if (v.x.root + 1) % v.n = v.pos then [] else [v.x.root])
  let pass := ring 2 (if v.pos = v.x.root then [] else [v.x.root])
  let fromKids := (treeKids v).map fun p => ({ phase := 1, shard := p, sender := p } : CollSource)
  let fromParent := fun (label : Nat) => if v.pos = v.x.root then [] else [({ phase := 2, shard := label, sender := treeParent v } : CollSource)]
  let fromAll := if v.pos = v.x.root then ((List.range v.n).filter fun p => p != v.pos).map fun p => ({ phase := 1, shard := p, sender := p } : CollSource) else []
  let fromRoot := if v.pos = v.x.root then [] else [({ phase := 2, shard := v.x.root, sender := v.x.root } : CollSource)]
  match v.x.kind.toNat, v.x.order.toNat with
  | 1, 0 => reduceRing ++ gatherRing
  | 2, _ => reduceRing
  | 3, _ => gatherRing
  | 4, 0 => chain
  | 5, 0 => pass
  | 1, 1 => fromKids ++ fromParent (treeParent v)
  | 4, 1 => fromKids
  | 5, _ => fromParent v.x.root
  | 1, _ => fromAll ++ fromRoot
  | 4, _ => fromAll
  | _, _ => []

/-- Frames that this member uses in an attempt. -/
def framesExpected (v : CollView) : Nat := (sourcesOf v).foldl (fun a s => a + framesOf v s.shard) 0

/-- The source a frame belongs to. -/
def sourceOf (v : CollView) (phase shard seq : Nat) : Option CollSource :=
  (sourcesOf v).find? fun s => s.phase = phase && s.shard = shard && decide (seq < framesOf v shard)

/-! ### Trailer bits and numbers (R311–R314) -/

abbrev CFlags := BitVec 3
def cfOvf : CFlags := 1
def cfInv : CFlags := 2
def cfTsat : CFlags := 4

/-- Applies an operation to each element, joining the trailer bits. -/
def eachElem (l : List Nat) (f : Nat → Nat × CFlags) : List Nat × CFlags :=
  l.foldr (fun x (a : List Nat × CFlags) => let r := f x; (r.1 :: a.1, r.2 ||| a.2)) ([], 0)

/-- Scale code of the block of an element in an attempt (R312). -/
def scaleOf (v : CollView) (attempt elem : Nat) : Nat :=
  let rec go : List Layer → Nat → Nat
    | [], _ => 0
    | l :: rest, e => if e < layerElems l then l.scale.toNat else go rest (e - layerElems l)
  go (collLayers v.g v.x) elem + attempt * v.x.step.toNat

/-- An FP32 sum as an E4M3 element at a scale (R312). -/
def encodeElem (scale : Nat) (c : Nat) : Nat × CFlags :=
  match decodeNum fp32 c with
  | .nan => (0x7F, cfInv)
  | .inf n => (withSign e4m3 n e4m3.top, cfOvf)
  | .fin n m e =>
    let mag := roundMag e4m3 .nearest m 1 (e - ((scale : Int) - 127))
    if mag ≤ e4m3.top then (withSign e4m3 n mag, 0) else (withSign e4m3 n e4m3.top, cfOvf)

/-- A received E4M3 element in FP32: a value above its range becomes infinite, with OVF (R168, R312). -/
def decodeElem (scale : Nat) (c : Nat) : Nat × CFlags :=
  let (v, f) := rne fp32 (mulNum (decodeNum e4m3 c) (.fin false 1 ((scale : Int) - 127)))
  (v, if f &&& flagO != 0 then cfOvf else 0)

/-- This member's contribution of one element, from the word or tarn of the input region (R311–R314). -/
def ownElem (v : CollView) (w : Nat) : Nat × CFlags :=
  match v.x.format.toNat with
  | 0 | 1 => if isNan (decodeNum fp32 w) then (nan32.toNat, cfInv) else (w, 0)
  | 2 =>
    let r := toTarn v.x.anchor (decodeNum fp32 w)
    (r.1.toNat, (if r.2 &&& flagV != 0 then cfInv else 0) ||| (if r.2 &&& flagT != 0 then cfTsat else 0))
  | _ => (w, 0)

/-- A partial sum and a contribution (R311–R313). -/
def addElem (v : CollView) (a b : Nat) : Nat × CFlags :=
  match v.x.format.toNat with
  | 0 | 1 =>
    let r := rne fp32 (addNum (decodeNum fp32 a) (decodeNum fp32 b))
    (r.1, (if isNan (decodeNum fp32 r.1) then cfInv else 0) ||| (if r.2 &&& flagO != 0 then cfOvf else 0))
  | _ =>
    let r := tarnAdd (BitVec.ofNat 128 a) (BitVec.ofNat 128 b)
    (r.1.toNat, if r.2 &&& flagT != 0 then cfTsat else 0)

/-- Elementwise sum of two lists. -/
def addElems (v : CollView) (l r : List Nat) : List Nat × CFlags :=
  (l.zip r).foldr (fun x (a : List Nat × CFlags) => let y := addElem v x.1 x.2; (y.1 :: a.1, y.2 ||| a.2)) ([], 0)

/-- Elements as they travel from a first element on: format 1 encodes each at its block's scale. -/
def toWire (v : CollView) (attempt first : Nat) (l : List Nat) : List Nat × CFlags :=
  if v.x.format = 1 then
    (List.range l.length).foldr (fun k (a : List Nat × CFlags) => let r := encodeElem (scaleOf v attempt (first + k)) (l.getD k 0); (r.1 :: a.1, r.2 ||| a.2)) ([], 0)
  else (l, 0)

/-- Received elements as they are added or written. -/
def fromWire (v : CollView) (attempt first : Nat) (l : List Nat) : List Nat × CFlags :=
  if v.x.format = 1 then
    (List.range l.length).foldr (fun k (a : List Nat × CFlags) => let r := decodeElem (scaleOf v attempt (first + k)) (l.getD k 0); (r.1 :: a.1, r.2 ||| a.2)) ([], 0)
  else (l, 0)

/-- Bytes of an element on the wire. -/
def wireBytes (v : CollView) : Nat :=
  match v.x.format.toNat with
  | 1 => 1
  | 2 | 3 => 16
  | _ => 4

/-! ### The reservoir regions (R299) -/

/-- A collective read of the reservoir meets an injected double-bit error: its first element is a free value, and the core that the
descriptor names halts (R471). -/
def spoilRead (d : Device) (v : CollView) (code : Byte) (l : List Nat) : List Nat × Device :=
  let (n, d) := drawFree d
  let w := inBytes v.x
  let l := match l with | [] => [] | _ :: rest => (Config.freeWord n).toNat % 2 ^ (8 * w) :: rest
  (l, if (getDom d v.dom).st = .running then haltNoBundle d v.x.core code else d)

/-- Reads this member's contribution to a frame's elements; kind 3 has its own shard alone in the input region. -/
def readOwn (d : Device) (v : CollView) (first n : Nat) : List Nat × CFlags × Device :=
  let w := inBytes v.x
  let origin := if v.x.kind = 3 then (spanOf v v.pos).1 else 0
  let off := v.x.iaddr + w * (first - origin)
  let at0 := v.dom.part.val * reservoirShare d + off
  let l := (List.range n).map fun k => leVal (readBytes d .reservoir (at0 + w * k) w)
  let (m, d) := resEvents d (some v.x.core) v.dom.part true off
  let (l, d) := match m.error with | some e => spoilRead d v e l | none => (l, d)
  let (l, f) := eachElem l (ownElem v)
  (l, f, d)

/-- Writes elements of the result; kind 2 has its own shard alone in the output region. -/
def writeOut (d : Device) (v : CollView) (first : Nat) (l : List Nat) : Device :=
  let w := outBytes v.x
  let origin := if v.x.kind = 2 then (spanOf v v.pos).1 else 0
  let at0 := v.dom.part.val * reservoirShare d + v.x.oaddr + w * (first - origin)
  writeBytes d .reservoir at0 (l.flatMap (leBytes w))

/-! ### Sending -/

/-- An instance with the device it acts on. -/
abbrev CollAct := Device × CollInst

/-- Sends a frame of this member's instance to a position. -/
def sendTo (s : CollAct) (v : CollView) (phase shard seq dest : Nat) (scales payload : List Byte) (flags : Nat) : CollAct :=
  let (d, c) := s
  let body := collBody (phase + 16 * (c.attempt % 4)) v.x.cid.toNat (c.inst % 2 ^ 32) shard seq scales payload flags 0 v.x.check.toNat
  (sendColl d v.dom.part (some v.dom) (addrOf v dest) (v.x.chan.toNat + seq) body, { c with tx := c.tx + 1 })

/-- Sends wire elements as frame seq of a SHARD, to each of some positions. -/
def sendData (s : CollAct) (v : CollView) (phase shard label seq : Nat) (dests : List Nat) (wire : List Nat) (flags : CFlags) : CollAct :=
  let first := (frameSpan v shard seq).1
  let scales := if v.x.format = 1 then (List.range ((wire.length + 31) / 32)).map fun b => BitVec.ofNat 8 (scaleOf v s.2.attempt (first + 32 * b)) else []
  dests.foldl (fun s p => sendTo s v phase label seq p scales (wire.flatMap (leBytes (wireBytes v))) flags.toNat) s

/-- Notes trailer bits that this member saw or raised (R319); an own OVF is a detection of 0x0191. -/
def noteFlags (s : CollAct) (v : CollView) (seen own : CFlags) : CollAct :=
  let (d, c) := s
  let d := if own &&& cfOvf != 0 && c.flags &&& cfOvf = 0 then detect d (hubEvent 0x191 v.dom.part.val 1 0) else d
  (d, { c with flags := c.flags ||| seen ||| own })

/-- Where the final elements of this member go on to: kind 1 gathers (R308–R310). -/
def gatherDests (v : CollView) : List Nat :=
  if v.x.kind != 1 || v.n ≤ 1 then []
  else match v.x.order.toNat with
    | 0 => [ringPos v 1]
    | 1 => treeKids v
    | _ => (List.range v.n).filter fun p => p != v.pos

/-- SHARD of the frames this member sends in a phase. -/
def labelOf (v : CollView) (shard : Nat) : Nat := if v.x.kind = 5 || v.x.order = 0 then shard else v.pos

/-- The sum of a frame is complete at this member: it is written, and in kind 1 sent on; format 1 encodes it once
and uses the decoded value (R312). -/
def finishSum (s : CollAct) (v : CollView) (shard seq : Nat) (l : List Nat) (seen : CFlags) : CollAct :=
  let first := (frameSpan v shard seq).1
  let c := s.2
  if v.x.kind = 1 then
    let (w, f) := toWire v c.attempt first l
    let (used, g) := fromWire v c.attempt first w
    let s := noteFlags s v 0 (f ||| g)
    let s : CollAct := (writeOut s.1 v first used, s.2)
    sendData s v 2 shard (labelOf v shard) seq (gatherDests v) w (seen ||| f ||| g)
  else (writeOut s.1 v first l, s.2)

/-- A partial sum leaves this member for the next one of its chain, its parent or the root. -/
def passSum (s : CollAct) (v : CollView) (shard seq dest : Nat) (l : List Nat) (seen : CFlags) : CollAct :=
  let (w, f) := toWire v s.2.attempt (frameSpan v shard seq).1 l
  sendData (noteFlags s v 0 f) v 1 shard (labelOf v shard) seq [dest] w (seen ||| f)

/-- The sum of this member for a frame goes where it must. -/
def forwardSum (s : CollAct) (v : CollView) (shard seq : Nat) (l : List Nat) (seen : CFlags) : CollAct :=
  let ends := if v.x.order = 0 then shard = v.pos else v.pos = v.x.root
  if ends then finishSum s v shard seq l seen
  else passSum s v shard seq (if v.x.order = 0 then ringPos v 1 else if v.x.order = 1 then treeParent v else v.x.root) l seen

/-! ### An attempt begins (R302, R308–R310) -/

/-- The sums that this member starts: SHARD numbers of the chains it is first in, or its own contribution where nobody
sends to it before it passes its sum on. -/
def startsSums (v : CollView) : List Nat :=
  match v.x.kind.toNat, v.x.order.toNat with
  | 1, 0 | 2, _ => [ringPos v (v.n - 1)]
  | 4, 0 => if (v.x.root + 1) % v.n = v.pos then [v.x.root] else []
  | 1, 1 | 4, 1 => if (treeKids v).isEmpty then [v.pos] else []
  | 1, _ | 4, _ => if v.pos != v.x.root || v.n = 1 then [v.pos] else []
  | _, _ => []

/-- The data this member gathers to others from its input region, and where to: kinds 3 and 5. -/
def startsGather (v : CollView) : List (Nat × List Nat) :=
  match v.x.kind.toNat, v.x.order.toNat with
  | 3, _ => [(v.pos, if v.n ≤ 1 then [] else [ringPos v 1])]
  | 5, 0 => if v.pos = v.x.root then [(v.x.root, if v.n ≤ 1 then [] else [ringPos v 1])] else []
  | 5, _ => if v.pos = v.x.root then [(v.x.root, treeKids v)] else []
  | _, _ => []

/-- The first value of a sum: format 1 adds the contribution to +0 (R312). -/
def firstSum (v : CollView) (l : List Nat) : List Nat × CFlags :=
  if v.x.format = 1 then addElems v (l.map fun _ => 0) l else (l, 0)

/-- An attempt begins: the input region is read, and the member's first frames leave. -/
def beginAttempt (d : Device) (v : CollView) (c : CollInst) : CollAct :=
  let (inj, d) := inject d 0x191 (BitVec.ofNat 16 v.dom.part.val)
  let d := if inj then detect d { hubEvent 0x191 v.dom.part.val 1 0 with inj := true } else d
  let s : CollAct := (d, { c with begun := true, used := [], partials := [], step := 0, flags := if inj then cfOvf else 0 })
  let s := (startsSums v).foldl (fun s k => (List.range (framesOf v k)).foldl (fun s j =>
      let (first, n) := frameSpan v k j
      let (own, f, d) := readOwn s.1 v first n
      let (l, f2) := firstSum v own
      forwardSum (noteFlags (d, s.2) v 0 (f ||| f2)) v k j l (f ||| f2)) s) s
  (startsGather v).foldl (fun s e => (List.range (framesOf v e.1)).foldl (fun s j =>
      let (first, n) := frameSpan v e.1 j
      let (own, _, d) := readOwn s.1 v first n
      let s : CollAct := (writeOut d v first own, s.2)
      sendData s v 2 e.1 e.1 j e.2 own 0) s) s

/-! ### Using a frame (R308–R313, R318, R319) -/

/-! Fields of a frame body (R316). -/

def bodyPhase (b : BitVec 1792) : Nat := bodyField b 0 1 % 16
def bodyAttempt (b : BitVec 1792) : Nat := bodyField b 0 1 / 16 % 4
def bodyShard (b : BitVec 1792) : Nat := bodyField b 8 2
def bodySeq (b : BitVec 1792) : Nat := bodyField b 12 4
def bodyFlags (b : BitVec 1792) : CFlags := BitVec.ofNat 3 (bodyField b 216 1 ||| bodyField b 216 1 / 8 % 2)
def bodyCause (b : BitVec 1792) : Nat := bodyField b 217 1
def bodyAgree (b : BitVec 1792) : Nat := bodyField b 220 4

/-- Wire elements of a frame. -/
def bodyElems (v : CollView) (b : BitVec 1792) (n : Nat) : List Nat :=
  (List.range n).map fun k => bodyField b (24 + wireBytes v * k) (wireBytes v)

/-- What a frame's contribution is added to: the partial sum of its elements, or this member's own (R309). -/
def sumSoFar (s : CollAct) (v : CollView) (shard seq : Nat) : List Nat × CFlags × Device :=
  match s.2.partials.find? fun p => p.seq = seq with
  | some p => (p.vals, 0, s.1)
  | none => readOwn s.1 v (frameSpan v shard seq).1 (frameSpan v shard seq).2

/-- A partial sum with the frame of a further contributor. -/
def joinSum (s : CollAct) (v : CollView) (shard seq : Nat) (got : List Nat) (seen : CFlags) (need : Nat) : CollAct :=
  let c := s.2
  let prior := c.partials.find? fun p => p.seq = seq
  let (own, f0, d) := sumSoFar s v shard seq
  let (l, f) := addElems v own got
  let raised := f0 ||| f
  let s := noteFlags (d, s.2) v 0 raised
  let all := seen ||| raised ||| match prior with | some p => p.flags | none => 0
  let done := (c.used.filter fun u => u.1 = 1 && u.2.2 = seq).length + 1
  let rest := c.partials.filter fun p => p.seq != seq
  if need ≤ done then forwardSum (s.1, { s.2 with partials := rest }) v shard seq l all
  else (s.1, { s.2 with partials := rest ++ [{ seq := seq, vals := l, flags := all }] })

/-- A reduce frame is used. -/
def useReduce (s : CollAct) (v : CollView) (shard seq : Nat) (b : BitVec 1792) : CollAct :=
  let (first, n) := frameSpan v shard seq
  let (got, g) := fromWire v s.2.attempt first (bodyElems v b n)
  let s := noteFlags s v 0 g
  let seen := bodyFlags b ||| g
  if v.x.order = 0 then
    let (own, f0, d) := readOwn s.1 v first n
    let (l, f) := addElems v got own
    forwardSum (noteFlags (d, s.2) v 0 (f0 ||| f)) v shard seq l (seen ||| f0 ||| f)
  else joinSum s v shard seq got seen (if v.x.order = 1 then (treeKids v).length else v.n - 1)

/-- A gather frame is used: written, and forwarded unchanged (R308, R309). -/
def useGather (s : CollAct) (v : CollView) (shard seq : Nat) (b : BitVec 1792) : CollAct :=
  let (first, n) := frameSpan v shard seq
  let wire := bodyElems v b n
  let s : CollAct := (writeOut s.1 v first (fromWire v s.2.attempt first wire).1, s.2)
  let dests := match v.x.order.toNat with
    | 0 => if ringPos v 1 = shard then [] else [ringPos v 1]
    | 1 => treeKids v
    | _ => []
  sendData s v 2 shard (labelOf v shard) seq dests wire (bodyFlags b)

/-- Sends the verdict frame of the step in progress. -/
def sendVerdict (s : CollAct) (v : CollView) : CollAct :=
  let f := s.2.flags
  sendTo s v 3 s.2.step 0 (ringPos v 1) [] [] (f.toNat + if f &&& cfOvf != 0 then 8 else 0)

/-- A frame is used by its instance. -/
def useFrame (s : CollAct) (v : CollView) (b : BitVec 1792) (retried : Bool) : CollAct :=
  let (d, c) := s
  let c := { c with rx := c.rx + 1, flags := c.flags ||| bodyFlags b, retried := c.retried || retried }
  if bodyPhase b = 3 then
    let c := { c with step := c.step + 1 }
    if c.step < v.n then sendVerdict (d, c) v else (d, c)
  else
    let s : CollAct := if bodyPhase b = 1 then useReduce (d, c) v (bodyShard b) (bodySeq b) b else useGather (d, c) v (bodyShard b) (bodySeq b) b
    (s.1, { s.2 with used := s.2.used ++ [(bodyPhase b, bodyShard b, bodySeq b)] })

/-! ### Completion (R304, R305, R320) -/

/-- The completion record. -/
def collRecord (v : CollView) (c : CollInst) (status : Nat) : List Byte :=
  let f := (if c.flags &&& cfInv != 0 then 1 else 0) + (if c.flags &&& cfOvf != 0 then 2 else 0) + if c.flags &&& cfTsat != 0 then 4 else 0
  [BitVec.ofNat 8 status, BitVec.ofNat 8 f, BitVec.ofNat 8 (c.attempt + 1), BitVec.ofNat 8 (c.attempt * v.x.step.toNat)] ++
    leBytes 4 v.pos ++ leBytes 8 c.inst ++ leBytes 8 c.tx ++ leBytes 8 c.rx

/-- The instance completes: record, flag, counts. -/
def finishInst (d : Device) (v : CollView) (c : CollInst) (status : Nat) : Device :=
  let d := modRun d v.dom fun r => { r with colls := r.colls.filter fun y => y.desc != v.idx }
  let d := writeBytes d .reservoir (v.dom.part.val * reservoirShare d + v.x.raddr) (collRecord v c status)
  let d := pendAdd d v.x.core v.x.flag 1
  modPart d v.dom.part fun p =>
    { p with ceSat := if status = 1 || status = 2 then satAdd p.ceSat 1 else p.ceSat, ceAbort := if 3 ≤ status then satAdd p.ceAbort 1 else p.ceAbort }

/-- The decision after the verdict lap. -/
def collDecide (d : Device) (v : CollView) (c : CollInst) : Device :=
  if v.x.format = 1 && c.flags &&& cfOvf != 0 && decide (c.attempt < v.x.reruns.toNat) then
    let again := { c with attempt := c.attempt + 1, begun := false }
    let d := modRun d v.dom fun r => { r with colls := r.colls.map fun y => if y.desc = v.idx then again else y }
    modPart d v.dom.part fun p => { p with ceRerun := satAdd p.ceRerun 1 }
  else finishInst d v c (if c.flags &&& cfOvf != 0 then 1 else if c.flags &&& cfTsat != 0 then 2 else 0)

/-! ### Refusals and aborts (R321, R325) -/

/-- A record of CE_LASTERR and its time after an event of the present time: the first since it was cleared stays, or of those of
one tick the lowest cause. -/
def ceTaken (old : W64) (oldAt now cause : Nat) (new : W64) : W64 × Nat :=
  if !old.getLsbD 63 || (oldAt = now && decide (cause < fieldNat old 55 48)) then (new, now) else (old, oldAt)

/-- Records an event in CE_LASTERR, and beside it what the events of this tick leave should the host clear VALID (R9). -/
def ceRecord (d : Device) (p : PartId) (cause src desc inst : Nat) : Device :=
  let now := d.clock.elapsed
  let new := bit64 63 true ||| put64 48 cause ||| put64 30 (src % 2 ^ 18) ||| put64 16 desc ||| put64 0 (inst % 65536)
  modPart d p fun x =>
    let kept := ceTaken x.ceLast x.ceLastAt now cause new
    let fresh := ceTaken (if x.ceFreshAt = now then x.ceFresh else 0) now now cause new
    { x with ceLast := kept.1, ceLastAt := kept.2, ceFresh := fresh.1, ceFreshAt := fresh.2 }

/-- A refused frame: counted, recorded, and in the error ledger. -/
def refuseColl (d : Device) (p : PartId) (h : HeldFrame) (cause desc : Nat) : Device :=
  let inst := bodyInst h.body
  let d := ceRecord d p cause h.src desc inst
  let d := modPart d p fun x => { x with ceRefuse := satAdd x.ceRefuse 1 }
  detect d { hubEvent 0x190 p.val 2 (put64 0 h.lseq) with inj := h.bad }

/-- Completes an instance with an abort status if it is active, or notes that it is to do so on its start tick. -/
def abortInst (d : Device) (v : CollView) (inst status acause : Nat) : Device :=
  match (getDom d v.dom).run with
  | none => d
  | some r =>
    match r.colls.find? fun c => c.desc = v.idx && c.inst = inst with
    | some c => finishInst d v c status
    | none =>
      if inst < vget r.collNext v.idx || r.collAbort.any (fun a => a.desc = v.idx && a.inst = inst) then d
      else modRun d v.dom fun r => { r with collAbort := r.collAbort ++ [{ desc := v.idx, inst := inst, status := status, acause := acause }] }

/-- Whether an instance of a descriptor is active or has not started. -/
def instOpen (d : Device) (v : CollView) (inst : Nat) : Bool :=
  match (getDom d v.dom).run with
  | none => false
  | some r => (r.colls.any fun c => c.desc = v.idx && c.inst = inst) || decide (vget r.collNext v.idx ≤ inst)

/-- A refusal of a frame of a known collective: abort frames go to the successor and to the sender. -/
def refuseKnown (d : Device) (v : CollView) (h : HeldFrame) (cause : Nat) : Device :=
  let inst := bodyInst h.body
  let d := refuseColl d v.dom.part h cause v.idx.val
  let dests := ((successorOf d v.dom.part v.g v.x).toList ++ [h.src]).eraseDups
  let d := abortInst d v inst 3 0
  forAll dests d fun d a => sendAbort d v.dom.part v.x inst cause a

/-- A frame of an unknown collective: an abort frame goes back, on plane 0 (R321). -/
def refuseUnknown (d : Device) (p : PartId) (h : HeldFrame) : Device :=
  let d := refuseColl d p h 3 0
  sendColl d p none h.src 0 (collBody 4 (bodyCid h.body) (bodyInst h.body) 0 0 [] [] 0 2 (bodyAgree h.body))

/-- Forwards one abort frame to the successor. -/
def forwardAbort (d : Device) (v : CollView) (inst acause : Nat) : Device :=
  match successorOf d v.dom.part v.g v.x with
  | some a => sendAbort d v.dom.part v.x inst acause a
  | none => d

/-- An abort frame from a peer. -/
def takeAbort (d : Device) (v : CollView) (h : HeldFrame) : Device :=
  let inst := bodyInst h.body
  if !instOpen d v inst then d
  else
    let active := match (getDom d v.dom).run with | some r => r.colls.any fun c => c.desc = v.idx && c.inst = inst | none => false
    let d := ceRecord d v.dom.part 4 h.src v.idx.val inst
    let d := abortInst d v inst 4 (bodyCause h.body)
    if active then forwardAbort d v inst (bodyCause h.body) else d

/-! ### The receive buffer (R303, R318, R322) -/

/-- The engine is held in an L3 reset (R443). -/
def engineReset (d : Device) : Bool := d.rb.units.any fun u => u.1 = 0x4000

/-- Whether the engine may act for a domain: it executes its tick, or its run has ended with instances active. -/
def collFree (d : Device) (i : DomId) : Bool :=
  !engineReset d && match (getDom d i).run with
  | none => false
  | some r => ((getDom d i).st = .running && r.started && !r.stalled && r.ramp = 0) || ((getDom d i).st = .ended && !r.colls.isEmpty)

/-- The descriptor a frame belongs to: of those of the partition's binaries with its CID, one whose check agrees, else
the first. -/
def matchColl (d : Device) (p : PartId) (h : HeldFrame) : Option CollView :=
  let all := (domsOf p).flatMap fun i => (List.finRange 16).filterMap fun k => match viewColl d i k with
    | some v => if v.x.cid.toNat = bodyCid h.body then some v else none
    | none => none
  match all.find? fun v => v.x.check.toNat = bodyAgree h.body with
  | some v => some v
  | none => all.head?

/-- What becomes of a held frame now. -/
inductive CollFate where
  | wait | drop | unknown
  | abort (v : CollView)
  | refuse (v : CollView) (cause : Nat)
  | use (v : CollView)
deriving DecidableEq, Repr, Inhabited

/-- The fate of a data frame of the active instance's attempt. -/
def fateOfData (v : CollView) (c : CollInst) (b : BitVec 1792) : CollFate :=
  let key := (bodyPhase b, bodyShard b, bodySeq b)
  if !c.begun then .wait
  else if c.step != 0 || c.used.contains key then .drop
  else if bodyPhase b = 1 && v.x.order = 1 && (treeKids v).head? != some (bodyShard b) &&
      !(c.used.any fun u => u.1 = 1 && u.2.2 = bodySeq b) then .wait
  else .use v

/-- The fate of a verdict frame of the active instance's attempt. -/
def fateOfVerdict (v : CollView) (c : CollInst) (b : BitVec 1792) : CollFate :=
  if c.begun && c.step = bodyShard b && c.step != 0 then .use v
  else if c.begun && bodyShard b < c.step then .drop
  else .wait

/-- Where a frame must come from. -/
def expectedSender (v : CollView) (b : BitVec 1792) : Option Nat :=
  if bodyPhase b = 3 then (if 1 ≤ bodyShard b && bodyShard b < v.n then some (addrOf v (ringPos v (v.n - 1))) else none)
  else (sourceOf v (bodyPhase b) (bodyShard b) (bodySeq b)).map fun s => addrOf v s.sender

/-- The fate of a held frame. An abort of an instance that has completed is ignored, also after its run has ended; other frames then
wait for the next run (R321; log entry 51). -/
def fateOf (d : Device) (p : PartId) (h : HeldFrame) : CollFate :=
  let b := h.body
  match matchColl d p h with
  | none => .unknown
  | some v =>
    let m := getDom d v.dom
    match m.run with
    | none => .wait
    | some r =>
      if m.st = .halted then .drop
      else if engineReset d then .wait
      else if m.st = .ended && bodyPhase b = 4 && r.colls.isEmpty && decide (bodyInst b < vget r.collNext v.idx) then .drop
      else if !collFree d v.dom then .wait
      else if bodyPhase b = 4 then .abort v
      else if h.bad || bodyAgree b != v.x.check.toNat then .refuse v 1
      else if expectedSender v b != some h.src then .refuse v 2
      else match r.colls.find? fun c => c.desc = v.idx with
        | none => if bodyInst b < vget r.collNext v.idx then .drop else .wait
        | some c =>
          if bodyInst b < c.inst then .drop
          else if c.inst < bodyInst b || c.attempt < bodyAttempt b then .wait
          else if bodyAttempt b < c.attempt then .drop
          else if bodyPhase b = 3 then fateOfVerdict v c b else fateOfData v c b

/-- A frame leaves the receive buffer: its entry is freed on the plane it came on, and a frame that waits may enter (R338). -/
def leaveBuffer (d : Device) (p : PartId) (k : Nat) : Device :=
  match (getPart d p).ceHeld[k]? with
  | none => d
  | some h => refill (freeHeld (modPart d p fun x => { x with ceHeld := x.ceHeld.eraseIdx k }) p h) p

/-- Puts an instance back after it has acted. -/
def putInst (s : CollAct) (v : CollView) : Device :=
  modRun s.1 v.dom fun r => { r with colls := r.colls.map fun y => if y.desc = v.idx then s.2 else y }

/-- Takes one held frame that can be dealt with now. -/
def takeHeld (d : Device) (p : PartId) : Option Device :=
  let l := (getPart d p).ceHeld
  (List.range l.length).findSome? fun k => match l[k]? with
    | none => none
    | some h => match fateOf d p h with
      | .wait => none
      | .drop => some (leaveBuffer d p k)
      | .unknown => some (refuseUnknown (leaveBuffer d p k) p h)
      | .abort v => some (takeAbort (leaveBuffer d p k) v h)
      | .refuse v cause => some (refuseKnown (leaveBuffer d p k) v h cause)
      | .use v =>
        match (getDom d v.dom).run.bind fun r => r.colls.find? fun c => c.desc = v.idx with
        | none => none
        | some c =>
          let s := useFrame (leaveBuffer d p k, c) v h.body h.retried
          let d := putInst s v
          some (if s.2.retried then markRetried d v.dom fun x => match x with
            | .extFlag e _ f _ _ => e = v.x.core && f = v.x.flag
            | _ => false
          else d)

/-- An active instance that can go on by itself: an attempt begins, a verdict lap begins, or the decision is made. -/
def advanceInst (d : Device) (v : CollView) (c : CollInst) : Option Device :=
  if !c.begun then some (putInst (beginAttempt d v c) v)
  else if c.step = 0 && framesExpected v ≤ c.used.length then
    let c := { c with step := 1 }
    some (if v.n ≤ 1 then putInst (d, c) v else putInst (sendVerdict (d, c) v) v)
  else if v.n ≤ c.step then some (collDecide d v c)
  else none

/-- One thing that an engine does for a partition now. -/
def collStep (d : Device) (p : PartId) : Option Device :=
  let own := (domsOf p).findSome? fun i => match (getDom d i).run with
    | none => none
    | some r =>
      if (getDom d i).st = .halted && !r.colls.isEmpty then some (abortActive d i 3)
      else if !collFree d i then none
      else r.colls.findSome? fun c => match viewColl d i c.desc with
        | some v => advanceInst d v c
        | none => none
  match own with
  | some d => some d
  | none => takeHeld d p

/-- The engine acts for a partition as long as it can. -/
def collPump : Nat → Device → PartId → Device
  | 0, d, _ => d
  | n + 1, d, p => match collStep d p with
    | some d => collPump n d p
    | none => d

/-- Steps enough for what is held and active. -/
def collFuel (d : Device) (p : PartId) : Nat := 256 + 4 * ((getPart d p).ceHeld.length + (getPart d p).ceWait.length)

def collRun (d : Device) (p : PartId) : Device := collPump (collFuel d p) (refill d p) p

/-! ### Starts (R302, R303, R310) -/

/-- Whether the next instance of a descriptor is to start on the tick in progress. -/
def collDue (d : Device) (i : DomId) (k : Fin 16) : Bool :=
  match viewColl d i k, (getDom d i).run with
  | some v, some r =>
    !engineReset d && (getDom d i).st = .running && r.started && !r.stalled && r.ramp = 0 && !(r.colls.any fun c => c.desc = k) &&
      decide (vget r.collNext k ≤ v.x.repeats) && decide (v.x.start + vget r.collNext k * v.x.period ≤ r.tick) &&
      !(v.x.order = 2 && !r.openMode && isHalted d v.x.core)
  | _, _ => false

/-- The halt of a first-come instance in sealed mode: the execute sequencer and the bundle it would issue next (R310). -/
def firstComeHalt (d : Device) (c : CtxId) : Device :=
  let w := seqOf c true
  haltCheck d c 0x0E w.seq (physAddr (isSplit d c.core) c.ctx ((getSeq d w).pc.setWidth 12)) 0

/-- COLLECTIVE_INSTANCE_START. -/
def startColl (d : Device) (i : DomId) (k : Fin 16) : Device :=
  if !collDue d i k then d
  else match viewColl d i k, (getDom d i).run with
    | some v, some r =>
      if v.x.order = 2 && !r.openMode then firstComeHalt d v.x.core
      else
        let n := vget r.collNext k
        let c : CollInst := { desc := k, inst := n, attempt := 0, begun := false, used := [], partials := [], flags := 0, step := 0, retried := false, tx := 0, rx := 0 }
        let ab := r.collAbort.find? fun a => a.desc = k && a.inst = n
        let d := modRun d i fun r =>
          { r with colls := r.colls ++ [c], collNext := vset r.collNext k (n + 1), mayvary := if v.x.order = 2 then r.mayvary + 1 else r.mayvary,
                   collAbort := r.collAbort.filter fun a => !(a.desc = k && a.inst = n) }
        match ab with
        | some a =>
          let d := finishInst d v c a.status
          if a.acause = 0 then d else forwardAbort d v n a.acause
        | none => collRun d i.part
    | _, _ => d

def execCollectiveInstanceStart (d : DomId) (desc : Fin 16) (s : State) : Host.Outcome State Fault Refusal :=
  onDev (fun x => startColl x d desc) s

/-- COLLECTIVE_FRAME: a frame enters the receive buffer of its partition, and the engine acts. -/
def collectiveFrame (d : Device) (plane : Fin 8) (f : FrameBits) : Device :=
  let (dst, d) := receiveRouted d plane f 3
  match dst with
  | some p =>
    if engineReset d then freeEntry d plane true p
    else
    let (bad, d) := inject d 0x190 (BitVec.ofNat 16 p.val)
    let h : HeldFrame := { plane := some plane, dom := none, src := frameSrc f, lseq := (frameSeq f).toNat, retried := frameRetried f, bad := bad, body := frameBody f }
    collRun (enterBuffer d p h) p
  | none => d

def execCollectiveFrame (plane : Fin 8) (frame : FrameBits) (s : State) : Host.Outcome State Fault Refusal :=
  onDev (fun d => collectiveFrame d plane frame) s

/-! ### A reset of the engine (R323) -/

/-- The isolation wrapper writes the record of every active instance and raises its flag; the buffers are emptied. -/
def collReset (d : Device) : Device :=
  forAll allDoms (forAll (List.finRange 4) d emptyBuffer) fun d i => match (getDom d i).run with
    | none => d
    | some r =>
      forAll r.colls d fun d c => match viewColl d i c.desc with
        | some v =>
          let d := ceRecord d i.part 5 (fabAddr d i.part) v.idx.val c.inst
          let d := modPart d i.part fun x => { x with ceReset := x.ceReset ++ [(i.dom, c.desc, c.inst)] }
          finishInst d v c 5
        | none => d

/-- The engine has left reset: its buffers are empty, and an abort frame leaves for each instance it aborted. -/
def collResetDone (d : Device) : Device :=
  forAll (List.finRange 4) d fun d p =>
    let l := (getPart d p).ceReset
    let d := modPart d p fun x => { x with ceReset := [] }
    forAll l d fun d e => match viewColl d { part := p, dom := e.1 } e.2.1 with
      | some v => forwardAbort d v e.2.2 4
      | none => d

end Sys2Proof.Machine
end

