-- ==== Sys2Proof/Machine/Transcend.lean ====
section
/-! DEFINITION. The functions of R193, rounded once: rational bounds of the exact value at a working
precision of 400 bits, rounded on both sides. Where the two roundings differ, which the spec's exact
rounding does not allow to be guessed, the result is a free value (Config.undecidedRounding). -/

namespace Sys2Proof.Machine

/-- Working precision in bits, and one at that precision. -/
def wp : Nat := 400
def wone : Int := 2 ^ wp

/-- Bounds of a real number, both scaled by 2^wp. -/
structure Bounds where
  lo : Int
  hi : Int
deriving DecidableEq, Repr, Inhabited

/-- Floor and ceiling of a product of scaled numbers. -/
def mulLo (x y : Int) : Int := (x * y).fdiv wone
def mulHi (x y : Int) : Int := -((-(x * y)).fdiv wone)

/-- Product of bounds of non-negative numbers. -/
def mulB (x y : Bounds) : Bounds := { lo := mulLo x.lo y.lo, hi := mulHi x.hi y.hi }

/-- Squares bounds n times. -/
def squareB : Nat → Bounds → Bounds
  | 0, x => x
  | n + 1, x => squareB n (mulB x x)

/-- Terms of the exponential series of y, 0 ≤ y ≤ 1/2, from term k on. -/
def expTerms : Nat → Nat → Bounds → Bounds → Bounds → Bounds
  | 0, _, _, _, acc => acc
  | n + 1, k, y, t, acc =>
    let t' : Bounds := { lo := (mulLo t.lo y.lo).fdiv k, hi := -((-(mulHi t.hi y.hi)).fdiv k) }
    expTerms n (k + 1) y t' { lo := acc.lo + t'.lo, hi := acc.hi + t'.hi }

/-- Bounds of e^y for 0 ≤ y ≤ 1/2; 90 terms leave less than one unit. -/
def expSmall (y : Bounds) : Bounds :=
  let s := expTerms 90 1 y { lo := wone, hi := wone } { lo := wone, hi := wone }
  { s with hi := s.hi + 2 }

/-- Bounds of e^y for 0 ≤ y < 512. -/
def expPos (y : Bounds) : Bounds :=
  squareB 10 (expSmall { lo := y.lo.fdiv 1024, hi := y.hi.fdiv 1024 + 1 })

/-- Bounds of a reciprocal of a positive number. -/
def recipB (x : Bounds) : Bounds := { lo := (wone * wone).fdiv x.hi, hi := (wone * wone).fdiv x.lo + 1 }

/-- Terms z^(2k+1) / (2k+1) from k on. -/
def atanhTerms : Nat → Nat → Bounds → Bounds → Bounds → Bounds
  | 0, _, _, _, acc => acc
  | n + 1, k, z2, p, acc =>
    let d : Int := 2 * k + 1
    let p' := mulB p z2
    atanhTerms n (k + 1) z2 p' { lo := acc.lo + p.lo.fdiv d, hi := acc.hi + p.hi.fdiv d + 1 }

/-- Bounds of 2 × atanh z for 0 ≤ z ≤ 1/3; 140 terms leave less than one unit. -/
def logTerm (z : Bounds) : Bounds :=
  let s := atanhTerms 140 0 (mulB z z) z { lo := 0, hi := 0 }
  { lo := 2 * s.lo, hi := 2 * s.hi + 2 }

/-- Bounds of ln 2. -/
def ln2B : Bounds := logTerm { lo := wone.fdiv 3, hi := wone.fdiv 3 + 1 }

/-- Product of bounds of a positive number with an integer. -/
def scaleB (x : Bounds) (k : Int) : Bounds := if 0 ≤ k then { lo := x.lo * k, hi := x.hi * k } else { lo := x.hi * k, hi := x.lo * k }

/-- ± m × 2^e scaled by 2^wp, as bounds. -/
def ofNum (neg : Bool) (m : Nat) (e : Int) : Bounds :=
  let (a, b) := scaled m 1 (e + wp)
  let q : Int := a / b
  let r : Int := if a % b = 0 then q else q + 1
  if neg then { lo := -r, hi := -q } else { lo := q, hi := r }

/-- Rounds a number between two bounds × 2^k, known to be positive, to FP32; a free value when the bounds
round apart. -/
def roundB (fn : Nat) (m : Nat) (e : Int) (neg : Bool) (x : Bounds) (k : Int) : W32 × NFlags :=
  let r := fun (v : Int) => w32 (finish fp32 true neg (roundMag fp32 .nearest v.toNat 1 (k - wp)))
  if r x.lo = r x.hi then r x.lo else (Config.undecidedRounding fn m e, 0)

/-- e^x for a finite x. Beyond ±512 the result is out of range whatever x is. -/
def expNum (x : Num) : W32 × NFlags :=
  match x with
  | .nan => (nan32, flagV)
  | .inf a => (if a then 0 else 0x7F800000, 0)
  | .fin n m e =>
    if m = 0 then (0x3F800000, 0)
    else if 9 ≤ floorLog m 1 + e then (if n then (0, 0) else (0x7F800000, flagO))
    else
      let y := expPos (ofNum false m e)
      roundB 0 m e false (if n then recipB y else y) 0

/-- 2^x. -/
def exp2Num (x : Num) : W32 × NFlags :=
  match x with
  | .nan => (nan32, flagV)
  | .inf a => (if a then 0 else 0x7F800000, 0)
  | .fin n m e =>
    if m = 0 then (0x3F800000, 0)
    else if 9 ≤ floorLog m 1 + e then (if n then (0, 0) else (0x7F800000, flagO))
    else
      let v := ofNum n m e
      let k := v.lo.fdiv wone
      let f : Bounds := { lo := v.lo - k * wone, hi := v.lo - k * wone }
      if f.lo = 0 then w32 (finish fp32 true false (roundMag fp32 .nearest 1 1 k))
      else roundB 1 m e false (expPos (mulB f ln2B)) k

/-- ln x. -/
def lnNum (x : Num) : W32 × NFlags :=
  match x with
  | .nan => (nan32, flagV)
  | .inf a => if a then (nan32, flagV) else (0x7F800000, 0)
  | .fin n m e =>
    if m = 0 then (0xFF800000, flagO)
    else if n then (nan32, flagV)
    else
      let l := Nat.log2 m
      let k : Int := l + e
      if m = 2 ^ l && k = 0 then (0, 0)
      else
        -- z = (u − 1) / (u + 1) for the significand u in [1, 2)
        let z : Int := (((m : Int) - 2 ^ l) * wone).fdiv (m + 2 ^ l)
        let b := logTerm { lo := z, hi := z + 1 }
        let s := scaleB ln2B k
        let v : Bounds := { lo := b.lo + s.lo, hi := b.hi + s.hi }
        if 0 < v.lo then roundB 2 m e false v 0
        else if v.hi < 0 then roundB 2 m e true { lo := -v.hi, hi := -v.lo } 0
        else (Config.undecidedRounding 2 m e, 0)

/-- tanh x. Beyond 64 the result rounds to ±1. -/
def tanhNum (x : Num) : W32 × NFlags :=
  match x with
  | .nan => (nan32, flagV)
  | .inf a => (if a then 0xBF800000 else 0x3F800000, 0)
  | .fin n m e =>
    if m = 0 then (if n then 0x80000000 else 0, 0)
    else if 6 ≤ floorLog m 1 + e then (if n then 0xBF800000 else 0x3F800000, 0)
    else
      let y := expPos (ofNum false m (e + 1))
      roundB 3 m e n { lo := ((y.lo - wone) * wone).fdiv (y.lo + wone), hi := ((y.hi - wone) * wone).fdiv (y.hi + wone) + 1 } 0

end Sys2Proof.Machine
end

