-- ==== Sys2Proof/Machine/Matrix.lean ====
section
/-! DEFINITION. The matrix array (R139–R162): feeds, cell arithmetic, drains, array flags. -/

namespace Sys2Proof.Machine

def matrixOf (d : Device) (c : CtxId) : MatrixUnit := (getUnit d c).matrix
def modMatrix (d : Device) (c : CtxId) (f : MatrixUnit → MatrixUnit) : Device := modUnit d c fun u => { u with matrix := f u.matrix }
def planeOf (d : Device) (c : CtxId) (p : Fin 2) : Plane := vget (matrixOf d c).planes p
def modPlaneOf (d : Device) (c : CtxId) (p : Fin 2) (f : Plane → Plane) : Device := modMatrix d c fun m => { m with planes := vmod m.planes p f }

/-- Raises flags for the end of the present tick (R158). -/
def raise (s : Sticky) (f : NFlags) (pc : BitVec 12) : Sticky :=
  if f = 0 then s else { s with fresh := s.fresh ||| f, raised := s.raised ++ [(f, pc)] }
def raiseArray (d : Device) (c : CtxId) (f : NFlags) (pc : BitVec 12) : Device := modMatrix d c fun m => { m with flags := raise m.flags f pc }

/-- The flags of the end of a tick. -/
def stickyEnd (s : Sticky) : Sticky := { val := s.val ||| s.fresh, fresh := 0, raised := [] }

/-! ### Classes (R143, R148) -/

def isExactFeed (f : MatrixFields) : Bool := f.exact
def fVec (f : MatrixFields) : Bool := isMvec f.opc.toNat
/-- k-steps of one feed step, and its ticks. -/
def feedSteps (split : Bool) (f : MatrixFields) : Nat × Nat :=
  let a := f.fmtA.toNat
  let b := f.fmtB.toNat
  if fVec f then (stepsA split a, if f.exact then 2 else 1)
  else if f.exact then (1, 2)
  else if a = 9 || a = 0xA then (1, 4)
  else if 5 ≤ a && a ≤ 7 && 5 ≤ b && b ≤ 7 then (2, 1)
  else (1, 1)

/-- Rows of operand A's entries: 128, or 64 in a split context (R145, R162). -/
def arrayRows (split : Bool) : Nat := if split then 64 else 128

/-! ### Cell arithmetic (R140, R157) -/

/-- Element (n, m) of a data entry (R145). -/
def elemCode (e : Entry) (re w n m : Nat) : Nat := e.toNat / 2 ^ ((re * m + n) * w) % 2 ^ w

/-- Element of A for row i, and of B for column j, at k-step k. -/
def aElem (split : Bool) (g : Feed) (i k : Nat) : Num :=
  let a := g.f.fmtA.toNat
  elemNum a (elemCode g.aEntry (arrayRows split) (fmtWidth a) i (k % stepsA split a))
def bElem (g : Feed) (j k : Nat) : Num :=
  let b := g.f.fmtB.toNat
  if fVec g.f then elemNum b (elemCode g.bEntry 1 (fmtWidth b) 0 (k % stepsB true b))
  else elemNum b (elemCode g.bEntry 64 (fmtWidth b) j (k % stepsB false b))

def num1 : Num := .fin false 1 0
def num0 : Num := .fin false 0 0

/-- The scale of row i, and of column j, of the block of k-step k: 1 for a format without scales (R146). -/
def aScaleAt (split : Bool) (g : Feed) (i k : Nat) : Num :=
  if fmtMx g.f.fmtA.toNat then scaleNum (BitVec.ofNat 8 (lane g.aScale 8 (arrayRows split * (k / 32 % 2) + i))) else num1
def bScaleAt (g : Feed) (j k : Nat) : Num :=
  if fmtMx g.f.fmtB.toNat then scaleNum (BitVec.ofNat 8 (lane g.bScale 8 (64 * (k / 32 % 2) + j))) else num1

def isMx (f : MatrixFields) : Bool := fmtMx f.fmtA.toNat || fmtMx f.fmtB.toNat
def isInt (f : MatrixFields) : Bool := f.fmtA = 2 && f.fmtB = 2 && !f.exact

/-- Adds a value to a cell's FP32 accumulator with one rounding. DEDUCED: a negative sum that rounds to zero is +0, for the array
never delivers −0 (R171; log entry 78). -/
def cellFp (x : W64) (v : Num) : W64 × NFlags :=
  let (r, f) := rne fp32 (addNum (d32 (x.setWidth 32)) v)
  (if r % signBit fp32 = 0 then 0 else BitVec.ofNat 64 r, f)

/-- Adds an integer product to a cell's INT32 accumulator, wrapping. -/
def cellInt (x : W64) (v : Num) : W64 × NFlags :=
  match v with
  | .fin n m e => (((x.setWidth 32 : W32) + BitVec.ofInt 32 (signedNat n (m * 2 ^ e.toNat))).setWidth 64, 0)
  | _ => (x, 0)

/-- One k-step at a cell: the product is added, or joins the exact sum of its block. -/
def cellStep (split : Bool) (g : Feed) (i j k : Nat) (x : W64) (blk : Num) : W64 × Num × NFlags :=
  let p := mulNum (aElem split g i k) (bElem g (if fVec g.f then 0 else j) k)
  if g.f.exact then
    let (t, f1) := anchorTerm g.f.anchor (mulNum p (mulNum (aScaleAt split g i k) (bScaleAt g j k)))
    let (y, f2) := cellAdd x t
    (y, blk, f1 ||| f2)
  else if isMx g.f then
    let s := addNum blk p
    if (k + 1) % 32 = 0 then
      let (y, f) := cellFp x (mulNum s (mulNum (aScaleAt split g i k) (bScaleAt g j k)))
      (y, num0, f)
    else (x, s, 0)
  else if isInt g.f then
    let (y, f) := cellInt x p
    (y, blk, f)
  else
    let (y, f) := cellFp x p
    (y, blk, f)

/-- In mvec the block sum of a cell ends with the last k-step of the block that it carries (R140, R156). -/
def vecBlockEnd (split : Bool) (g : Feed) (i k : Nat) (x : W64) (s : Num) : W64 × Num × NFlags :=
  if isMx g.f && !g.f.exact && (k + 1) % 32 = 0 then
    let (y, f) := cellFp x (mulNum s (aScaleAt split g i k))
    (y, num0, f)
  else (x, s, 0)

/-- The block sum of a cell. -/
def blockAt (g : Feed) (i j : Nat) : Num := g.block.getD (64 * i + j) num0

/-- The k-steps of one feed step at one cell, from k on. In mvec, sub-step m belongs to column m (R156). -/
def stepCell (split : Bool) (g : Feed) (n i j : Nat) (x : W64) : W64 × Num × NFlags :=
  let b := blockAt g i j
  if fVec g.f then
    if n ≤ j then (x, b, 0)
    else
      let k := g.k + j
      let p := mulNum (aElem split g i k) (bElem g 0 k)
      if isMx g.f && !g.f.exact then vecBlockEnd split g i (g.k + n - 1) x (addNum b p)
      else cellStep split g i j k x b
  else (List.range n).foldl (fun (a : W64 × Num × NFlags) m =>
    let (y, s, f) := cellStep split g i j (g.k + m) a.1 a.2.1
    (y, s, a.2.2 ||| f)) (x, b, 0)

/-- Whether a cell is clocked: its row and column are within the masks (R155, R156). -/
def clocked (split : Bool) (f : MatrixFields) (i j : Nat) : Bool :=
  decide (i ≤ f.rows.toNat) && decide (i < arrayRows split) && (if fVec f then decide (j < stepsA split f.fmtA.toNat) else decide (j ≤ f.cols.toNat))

/-- One feed step over every clocked cell: the plane, the block sums, the flags. -/
def stepPlane (split : Bool) (g : Feed) (n : Nat) (p : Plane) : Plane × List Num × NFlags :=
  let cell := fun (i : Fin 128) (j : Fin 64) => stepCell split g n i.val j.val (vget (vget p.cells i) j)
  let on := fun (i : Fin 128) (j : Fin 64) => clocked split g.f i.val j.val
  let cells := vmapi p.cells fun i r => vmapi r fun j x => if on i j then (cell i j).1 else x
  let blk := (List.finRange 128).flatMap fun i => (List.finRange 64).map fun j => if on i j then (cell i j).2.1 else num0
  let fl := (List.finRange 128).foldl (fun a i => (List.finRange 64).foldl (fun a j => if on i j then a ||| (cell i j).2.2 else a) a) 0
  ({ p with cells := cells }, if isMx g.f && !g.f.exact then blk else [], fl)

/-! ### The feed (R148) -/

/-- Total k-steps of a pass, and those of the next step. -/
def stepLen (split : Bool) (g : Feed) : Nat := min (feedSteps split g.f).1 (passSteps g.f - g.k)

/-- Whether the next tick of work is a scale tick. -/
def scaleTick (g : Feed) : Bool := isMx g.f && g.k % 64 = 0 && !g.scaled

/-- Whether the next step needs a new entry of A and of B. -/
def needsA (split : Bool) (g : Feed) : Bool := g.k % stepsA split g.f.fmtA.toNat = 0
def needsB (g : Feed) : Bool := g.k % stepsB (fVec g.f) g.f.fmtB.toNat = 0

/-- Operands that the next tick of work takes entries of. -/
def feedTakes (split : Bool) (g : Feed) : Bool × Bool :=
  if scaleTick g then (fmtMx g.f.fmtA.toNat, fmtMx g.f.fmtB.toNat) else (needsA split g, needsB g)

/-- The heads the next tick of work takes. -/
def feedHeads (d : Device) (c : CtxId) (g : Feed) : List Head :=
  let (a, b) := feedTakes (isSplit d c.core) g
  (if a then [operandHead d c g.f.srcA] else []) ++ if b then [operandHead d c g.f.srcB] else []

/-- Takes the entries of the next tick of work. -/
def feedTake (d : Device) (c : CtxId) (g : Feed) : Feed × Device :=
  let (a, b) := feedTakes (isSplit d c.core) g
  let ea := operand d c g.f.srcA g.aUsed
  let eb := operand d c g.f.srcB g.bUsed
  let d := if a then takeOperand d c g.f.srcA else d
  let d := if b then takeOperand d c g.f.srcB else d
  let g := { g with aUsed := if a then g.aUsed + 1 else g.aUsed, bUsed := if b then g.bUsed + 1 else g.bUsed }
  if scaleTick g then
    ({ g with aScale := if a then ea else g.aScale, bScale := if b then eb else g.bScale, scaled := true }, d)
  else ({ g with aEntry := if a then ea else g.aEntry, bEntry := if b then eb else g.bEntry }, d)

/-- The pass ends at the end of its last feed tick: its plane drains, or stays open (R150). -/
def endFeed (d : Device) (c : CtxId) (g : Feed) : Device :=
  let t := tickOf d c
  if mHolds g.f.opc.toNat then
    modMatrix d c fun m => { m with feed := none, planes := vmod m.planes g.plane fun p => { p with st := .open } }
  else
    let x : Drain :=
      { f := g.f, plane := g.plane, seq := g.seq, pc := g.pc, dst := g.f.dst, rows := g.f.rows, cols := g.f.cols, exact := g.f.exact, tf := t, next := 0,
        waiting := false, nextTick := t + 1, done := false, issued := g.issued }
    modMatrix d c fun m => { m with feed := none, drains := m.drains ++ [x], planes := vmod m.planes g.plane fun p => { p with st := .draining } }

def setFeed (d : Device) (c : CtxId) (g : Feed) : Device := modMatrix d c fun m => { m with feed := some g }

/-- The last tick of a feed step: the cells add, and the pass moves on or ends. -/
def finishStep (d : Device) (c : CtxId) (g : Feed) : Device :=
  let sp := isSplit d c.core
  let n := stepLen sp g
  let (p, blk, fl) := stepPlane sp g n (planeOf d c g.plane)
  let d := raiseArray (modPlaneOf d c g.plane fun _ => p) c fl g.pc
  let g := { g with k := g.k + n, block := blk, scaled := if (g.k + n) % 64 = 0 then false else g.scaled, subTicks := 0, nextTick := tickOf d c + 1 }
  setFeed d c { g with done := decide (passSteps g.f ≤ g.k) }

/-- Whether nothing will fill the head that a halted core's feed waits for (R161). -/
def nothingFills (d : Device) (c : CtxId) (code : BitVec 5) : Bool :=
  match srcQueue code with
  | none => false
  | some (q, _) =>
    match (lqOf d c q).entries with
    | [] => true
    | e :: _ =>
      !((getUnit d c).fills.any fun f => f.dest = .lq q e.id) && !((getUnit d c).rqueue.any (fillsEntry q e.id)) &&
        !((getUnit d c).flights.any fun f => f.error.isNone && fillsEntry q e.id f.req)

/-- One tick of the feed: it waits, takes entries, or advances (R148). A halted core's feed waits for a late entry, for
which no domain stalls any more, and stops at the first entry that nothing will fill (R161). -/
def feedTick (d : Device) (c : CtxId) : Device :=
  match (matrixOf d c).feed with
  | none => d
  | some g =>
    let t := tickOf d c
    if 1 < g.subTicks then setFeed d c { g with subTicks := g.subTicks - 1, nextTick := t + 1 }
    else if g.subTicks = 1 then finishStep d c g
    else
      let hs := feedHeads d c g
      if hs.any (·.isLate) && !isHalted d c then d
      else if hs.any fun h => h = .empty || h.isLate then
        let (a, b) := feedTakes (isSplit d c.core) g
        let stuck := isHalted d c && ((a && operandHead d c g.f.srcA = .empty && nothingFills d c g.f.srcA) || (b && operandHead d c g.f.srcB = .empty && nothingFills d c g.f.srcB))
        if stuck then setFeed d c { g with done := true, nextTick := t + 1 } else setFeed d c { g with waiting := true, nextTick := t + 1 }
      else
        let scale := scaleTick g
        let (g, d) := feedTake d c { g with waiting := false }
        if scale then setFeed d c { g with nextTick := t + 1 }
        else
          let ticks := (feedSteps (isSplit d c.core) g.f).2
          if ticks = 1 then finishStep d c g
          else setFeed d c { g with subTicks := ticks - 1, nextTick := t + 1 }

/-- Whether the feed has work on the present tick. -/
def feedDue (d : Device) (c : CtxId) : Bool :=
  executing d c && match (matrixOf d c).feed with | some g => decide (g.nextTick ≤ tickOf d c) | none => false

/-- Whether a late head keeps the feed from its tick (R67). -/
def feedLate (d : Device) (c : CtxId) : Bool :=
  match (matrixOf d c).feed with
  | some g => g.subTicks = 0 && (feedHeads d c g).any (·.isLate)
  | none => false

def execMatrixFeedStep (c : CtxId) (s : State) : Host.Outcome State Fault Refusal :=
  onDev (fun d => if feedDue d c then feedTick d c else d) s

/-! ### Issue (R149–R151) -/

/-- A fresh feed of a bundle's pass. -/
def newFeed (f : MatrixFields) (seq : Fin 4) (pc : BitVec 12) (t : Nat) : Feed :=
  { f := f, plane := mPlane f.opc.toNat, seq := seq, pc := pc, k := 0, scaled := false, subTicks := 0, aEntry := 0, bEntry := 0, aScale := 0,
    bScale := 0, aUsed := 0, bUsed := 0, block := [], waiting := false, nextTick := t, done := false, issued := t }

def clearCells (p : Plane) : Plane := { p with cells := Vector.replicate 128 (Vector.replicate 64 0) }

/-- What the matrix slot waits for: the entries that a pass takes on its issue tick, a draining plane, room for mstat
(R66, R148). -/
def matrixUnmet (d : Device) (c : CtxId) (b : RawBundle) : List Unmet :=
  let op := matrixOp b
  let f := mfields b
  let plane := if (planeOf d c (mPlane op)).st = .draining then [(WaitCause.queueFull, true)] else []
  if isFeed op then (feedHeads d c (newFeed f 0 0 0)).flatMap headUnmet ++ plane
  else if isMdrain op then plane
  else if op = 0x28 then roomUnmet (destRoom d c f.dst)
  else []

/-- Static checks against the array's state (R63, R149, R150, R154, R431). -/
def matrixConflict (d : Device) (c : CtxId) (b : RawBundle) : Bool :=
  let op := matrixOp b
  let f := mfields b
  let m := matrixOf d c
  let u := bundleUses b
  let feedQueues := match m.feed with
    | some g => ((srcQueue g.f.srcA).toList ++ (srcQueue g.f.srcB).toList).map Prod.fst
    | none => []
  let last := if isSplit d c.core then 8 else 16
  (m.feed.isSome && isFeed op) || (u.pop ++ u.peek).any (fun q => feedQueues.contains q) ||
  (m.drains.any fun x => decide (0 < x.next) && match dstQueue x.dst with | some q => u.push.contains q | none => false) ||
  (isMdrain op && (planeOf d c (mPlane op)).st = .feeding) ||
  (isMdrain op && (vectorUsesOf b).vregs.any fun v =>
    (dstRegs f.dst (drainEntries (planeOf d c (mPlane op)).vecFed f.exact f.rows.toNat)).contains v) ||
  (isMdrain op && decide (f.dst.toNat < 16) && decide (last < f.dst.toNat + drainEntries (planeOf d c (mPlane op)).vecFed f.exact f.rows.toNat)) ||
  ((isFeed op || isMdrain op) && decide (tickOf d c < 128))

/-- The matrix slot of an issued bundle: the first feed tick is the issue tick. -/
def matrixEffect (d : Device) (c : CtxId) (w : SeqId) (b : RawBundle) : Device :=
  let op := matrixOp b
  let f := mfields b
  let t := tickOf d c
  let pc := physPc d c ((getSeq d w).pc.setWidth 12)
  if isFeed op then
    let d := modMatrix d c fun m =>
      { m with feed := some (newFeed f w.seq pc t)
               planes := vmod m.planes (mPlane op) fun p =>
                 { (if mContinues op then p else clearCells p) with st := .feeding, vecFed := isMvec op, fmtA := if isMvec op then f.fmtA else p.fmtA } }
    feedTick d c
  else if isMdrain op then
    let x : Drain :=
      { f := f, plane := mPlane op, seq := w.seq, pc := pc, dst := f.dst, rows := f.rows, cols := f.cols, exact := f.exact, tf := t, next := 0,
        waiting := false, nextTick := t + 1, done := false, issued := t }
    modMatrix d c fun m => { m with drains := m.drains ++ [x], planes := vmod m.planes (mPlane op) fun p => { p with st := .draining } }
  else if op = 0x28 then
    let v : Entry := (matrixOf d c).flags.val.setWidth 2048
    putResult (modMatrix d c fun m => { m with flags := { m.flags with val := 0 } }) c f.dst 0 v t
  else d

/-! ### Drains (R152–R154, R156) -/

/-- The 32-bit or 64-bit sum of the columns of row i, in their order (R156). -/
def reduceRow (split : Bool) (p : Plane) (exact : Bool) (i : Nat) : W64 × NFlags :=
  let cells := vget p.cells (finMod 128 i)
  let n := stepsA split p.fmtA.toNat
  (List.range (n - 1)).foldl (fun (a : W64 × NFlags) k =>
    let y := vget cells (finMod 64 (k + 1))
    if exact then
      let (z, f) := cellAdd a.1 y.toInt
      (z, a.2 ||| f)
    else if p.fmtA = 2 then (((a.1.setWidth 32 : W32) + y.setWidth 32).setWidth 64, a.2)
    else
      let (z, f) := add32 (a.1.setWidth 32) (y.setWidth 32)
      (z.setWidth 64, a.2 ||| f)) (vget cells 0, 0)

/-- A tarn of a cell register. -/
def cellTarn (x : W64) : Nat := ((x.signExtend 128 : BitVec 128)).toNat

/-- Entry e of a drain, and the flags of its column reductions. -/
def drainEntry (split : Bool) (p : Plane) (x : Drain) (e : Nat) : Entry × NFlags :=
  let rows := x.rows.toNat
  let cols := x.cols.toNat
  if p.vecFed then
    let per := if x.exact then 16 else 64
    let r := (List.range per).map fun k =>
      let i := per * e + k
      if i ≤ rows then reduceRow split p x.exact i else (0, 0)
    (if x.exact then ofLanes 128 (r.map fun y => cellTarn y.1) else ofLanes 32 (r.map fun y => y.1.toNat), r.foldl (fun a y => a ||| y.2) 0)
  else if x.exact then
    let row := vget p.cells (finMod 128 (e / 4))
    (ofLanes 128 ((List.range 16).map fun k =>
      let j := 16 * (e % 4) + k
      if j ≤ cols then cellTarn (vget row (finMod 64 j)) else 0), 0)
  else
    let row := vget p.cells (finMod 128 e)
    (ofLanes 32 ((List.range 64).map fun j => if j ≤ cols then (vget row (finMod 64 j)).toNat else 0), 0)

/-- Whether the oldest drain may deliver on the present tick but for its destination. -/
def drainTime (m : MatrixUnit) (x : Drain) (t : Nat) : Bool :=
  decide (x.tf + 65 + x.next ≤ t) && match m.lastDelivery with | some l => decide (l < t) | none => true

/-- Whether a drain has work on the present tick. -/
def drainDue (d : Device) (c : CtxId) : Bool :=
  executing d c && match (matrixOf d c).drains with
  | x :: _ => !x.done && decide (x.nextTick ≤ tickOf d c) && drainTime (matrixOf d c) x (tickOf d c)
  | [] => false

/-- One tick of the drain port. -/
def drainTick (d : Device) (c : CtxId) : Device :=
  let m := matrixOf d c
  match m.drains with
  | [] => d
  | x :: rest =>
    let t := tickOf d c
    if !destRoom d c x.dst then modMatrix d c fun m => { m with drains := { x with waiting := true, nextTick := t + 1 } :: rest }
    else
      let p := planeOf d c x.plane
      let (e, f) := drainEntry (isSplit d c.core) p x x.next
      let d := raiseArray d c f x.pc
      let d := putResult d c x.dst x.next e x.issued
      let x := { x with next := x.next + 1, waiting := false, nextTick := t + 1, done := decide (drainEntries p.vecFed x.exact x.rows.toNat ≤ x.next + 1) }
      modMatrix d c fun m => { m with lastDelivery := some t, drains := x :: rest }

def drainDelivery (d : Device) (c : CtxId) : Device := if drainDue d c then drainTick d c else d

def execDrainDelivery (c : CtxId) (s : State) : Host.Outcome State Fault Refusal := onDev (fun d => drainDelivery d c) s

/-- The end of a tick: a pass or a drain that ended on it, and the flags raised on it (R150, R158). DESIGN CHOICE: of two
drains with equal t_f, the `mdrain` issued on that tick is delivered before the pass that ends on it (log entry 68). -/
def matrixEnd (d : Device) (c : CtxId) : Device :=
  let d := match (matrixOf d c).feed with
    | some g => if g.done then endFeed d c g else d
    | none => d
  let free := fun (m : MatrixUnit) => match m.drains with
    | x :: rest => if x.done then { m with drains := rest, planes := vmod m.planes x.plane fun p => { clearCells p with st := .free } } else m
    | [] => m
  modMatrix d c fun m => { free m with flags := stickyEnd m.flags }

end Sys2Proof.Machine
end

