-- ==== Sys2Proof/Machine/Vector.lean ====
section
/-! DEFINITION. The vector engine (R184–R210): micro-operations, element programs, conversions, block
quantisation, compress and expand, reductions, row accumulators, and the progress of an operation. -/

namespace Sys2Proof.Machine

/-! ### Micro-operations (R192, R193) -/

/-- Flags of a result: a NaN that is produced raises V. -/
def allOnes32 (p : Bool) : W32 := if p then 0xFFFFFFFF else 0

/-- The micro-operations that every floating-point type shares, on codes of a format. -/
def microPack (f : Fmt) (op a b c : Nat) : Nat × NFlags :=
  let x := decodeNum f a
  let y := decodeNum f b
  let yes := fun (p : Bool) => ((if p then 2 ^ f.width - 1 else 0 : Nat), (0 : NFlags))
  match op with
  | 0x01 => rne f (addNum x y)
  | 0x02 => rne f (addNum x (negNum y))
  | 0x03 => rne f (mulNum x y)
  | 0x04 => rne f (addNum (mulNum x y) (decodeNum f c))
  | 0x05 => rne f (minNum x y)
  | 0x06 => rne f (maxNum x y)
  | 0x07 => rne f (absNum x)
  | 0x08 => rne f (negNum x)
  | 0x09 => yes (ltNum x y)
  | 0x0A => yes (eqNum x y)
  | 0x0B => yes (ltNum x y || eqNum x y)
  | 0x0C => (if a != 0 then b else c, 0)
  | _ => (a, 0)

/-- The functions of R193 and the conversions between FP32 and INT32. -/
def microFn (op : Nat) (a b : W32) : W32 × NFlags :=
  match op with
  | 0x10 => expNum (d32 a)
  | 0x11 => exp2Num (d32 a)
  | 0x12 => lnNum (d32 a)
  | 0x13 => w32 (divNum fp32 (.fin false 1 0) (d32 a))
  | 0x14 => w32 (sqrtNum fp32 (d32 a))
  | 0x15 => w32 (rsqrtNum fp32 (d32 a))
  | 0x16 => tanhNum (d32 a)
  | 0x17 => w32 (divNum fp32 (d32 a) (d32 b))
  | 0x18 => w32 (toInt 32 .nearest (d32 a))
  | _ => w32 (roundNum fp32 .nearest false (ofInt 32 a.toNat))

/-- The integer micro-operations. -/
def microAlu (op : Nat) (a b : W32) : W32 :=
  match op with
  | 0x20 => a + b
  | 0x21 => a - b
  | 0x22 => a * b
  | 0x23 => a &&& b
  | 0x24 => a ||| b
  | 0x25 => a ^^^ b
  | 0x26 => a <<< (b.toNat % 32)
  | 0x27 => a >>> (b.toNat % 32)
  | 0x28 => a.sshiftRight (b.toNat % 32)
  | 0x29 => if a.slt b then a else b
  | 0x2A => if a.slt b then b else a
  | 0x2B => allOnes32 (a.slt b)
  | _ => allOnes32 (a = b)

/-- One micro-operation on 32-bit inputs. -/
def micro32 (op : Nat) (a b c : W32) : W32 × NFlags :=
  if op ≤ 0x0C || op = 0x2D then w32 (microPack fp32 op a.toNat b.toNat c.toNat)
  else if op ≤ 0x19 then microFn op a b
  else (microAlu op a b, 0)

/-- The packed format of TYPE 0x9 and 0xA. -/
def packFmt (f : VectorFields) : Fmt := if f.type = 9 then bf16 else fp16

/-- The floating-point format of TYPE 0x9, 0xA and 0xB. -/
def elemFmt (f : VectorFields) : Fmt := if isPacked f then packFmt f else fp32

/-- An element that an operation only moves: a NaN in FP32 becomes canonical (R170); no flag is raised, for none is produced. -/
def movedElem (f : VectorFields) (code : Nat) : Nat := if f.type = 0xB then canonical fp32 code else code

/-- Cost of a micro-operation in ticks per entry. -/
def microCost (op : Nat) : Nat :=
  if (0x10 ≤ op && op ≤ 0x12) || op = 0x16 || op = 0x17 then 4 else if 0x13 ≤ op && op ≤ 0x15 then 3 else 1

/-! ### Element programs (R194–R196) -/

def epLen (e : Entry) : Nat := fieldNat e 1287 1280
def epWord (e : Entry) (n : Nat) : Nat := fieldNat e (32 * n + 31) (32 * n)

/-- Program cost: the sum of its micro-operation costs. -/
def epCost (e : Entry) : Nat := (List.range (epLen e)).foldl (fun a n => a + microCost (epWord e n / 2 ^ 26)) 0

/-- The value of an input code. -/
def epInput (e : Entry) (t : List W32) (a b c : W32) (code : Nat) : W32 :=
  if code < 8 then t.getD code 0
  else if code = 8 then a
  else if code = 9 then b
  else if code = 0xA then c
  else BitVec.ofNat 32 (fieldNat e (1024 + 32 * (code % 8) + 31) (1024 + 32 * (code % 8)))

/-- The program of an image on one element. A NaN that sel copies becomes canonical (R170, R191). DEDUCED: mov copies bits, for an
element program gives no format that would make them a NaN (log entry 110). -/
def epRun (e : Entry) (a b c : W32) : W32 × NFlags :=
  let (t, fl) := (List.range (epLen e)).foldl (fun (s : List W32 × NFlags) n =>
    let w := epWord e n
    let x := fun (lo : Nat) => epInput e s.1 a b c (w / 2 ^ lo % 32)
    let (v, g) := micro32 (w / 2 ^ 26) (x 18) (x 13) (x 8)
    let v := if w / 2 ^ 26 = 0x0C then BitVec.ofNat 32 (canonical fp32 v.toNat) else v
    (s.1.set (w / 2 ^ 23 % 8) v, s.2 ||| g)) (List.replicate 8 0, 0)
  (t.getD 0 0, fl)

/-- The image of a slot. -/
def epOf (d : Device) (c : CtxId) (k : Nat) : Option Entry := vget (getCore d c.core).eps (physEp (isSplit d c.core) c.ctx k)

/-! ### Lanes (R93, R185) -/

/-- The lanes that a predicate leaves on; lane i of a split context stands for lanes i and i + 32. -/
def laneMask (split : Bool) (q : Sequencer) (pred : Nat) (pneg : Bool) : W64 :=
  let p := readP split q pred
  let p := if pneg then ~~~ p else p
  if split then (p &&& 0xFFFFFFFF) ||| (p <<< 32) else p

/-- Whether element i of an entry of n elements is on: two elements to a lane of a packed entry. -/
def elemOn (m : W64) (n i : Nat) : Bool := if 64 < n then m.getLsbD (64 * i / n) else m.getLsbD i

/-- Bits of an entry that the elements on cover. -/
def onMask (w : Nat) (on : List Bool) : Entry := ofLanes w (on.map fun b => if b then 2 ^ w - 1 else 0)
def fullMask : Entry := BitVec.allOnes 2048

/-! ### Shape of an operation (R186, R187) -/

def vPacked (o : VOp) : Bool := isPacked o.f
/-- Elements of an entry by TYPE. -/
def vElems (f : VectorFields) : Nat := if isPacked f then 128 else 64

/-- Ratio of element widths of a vcvt, and whether its source is the narrower side (R198). -/
def cvtRatio (f : VectorFields) : Nat := let (s, t) := cvtWidths f; if s < t then t / s else s / t
def cvtWiden (f : VectorFields) : Bool := (cvtWidths f).1 < (cvtWidths f).2

/-- Steps of an operation: entries of the sources, or for a widening vcvt of its destination. -/
def vSteps (f : VectorFields) : Nat :=
  let e := vectorEntries f
  if f.opc = 0x48 && cvtWiden f then e.2.2.2 else max e.1 1

/-- Cost per step and depth in a whole core (R190). -/
def vTiming (d : Device) (c : CtxId) (f : VectorFields) : Nat × Nat :=
  let op := f.opc.toNat
  if isMicro op then (microCost op, 0)
  else if op = 0x40 then (match epOf d c f.eps.toNat with | some e => epCost e | none => 1, 0)
  else if op = 0x62 then (4, 2)
  else if op = 0x63 then (1, 4)
  else if op = 0x49 || op = 0x51 || op = 0x58 || op = 0x61 || (decide (0x64 ≤ op) && decide (op ≤ 0x66)) then (1, 2)
  else (1, 0)

/-- Row accumulator q of a core or context (R204). -/
def physRow (split : Bool) (ctx : Fin 2) (q : Nat) : Fin 8 := physQueue split ctx q
def rowOf' (d : Device) (c : CtxId) (q : Nat) : RowAcc := vget (getCore d c.core).rowAcc (physRow (isSplit d c.core) c.ctx q)

/-- An operation as it stands before its first step. -/
def newVOp (d : Device) (c : CtxId) (w : SeqId) (f : VectorFields) : VOp :=
  let q := getSeq d w
  let t := tickOf d c
  let (cost, depth) := vTiming d c f
  let ra := rowOf' d c (vQ f)
  { f := f, seq := w.seq, pc := physPc d c (q.pc.setWidth 12), lanes := laneMask (isSplit d c.core) q f.pred.toNat f.pneg, issued := t,
    cost := if isSplit d c.core then 2 * cost else cost, depth := depth, next := 0, start := t, total := vSteps f, usedA := 0, usedB := 0, usedC := 0,
    holdA := 0, holdB := 0, holdC := 0, acc := [], accMask := [], scales := [], made := 0, ra := ra, nan0 := ra.nan, results := [],
    timeNow := BitVec.ofNat 64 (nowNs d), waiting := false, nextTick := t, done := false }

/-! ### Sources (R186, R197, R198) -/

/-- Whether a source with a broadcast code takes an entry on step j. -/
def bcastTakes (code n j : Nat) : Bool := match code with | 0 => true | 2 => j % n = 0 | _ => j = 0

/-- The sources that step j takes an entry of. -/
def vTakes (o : VOp) : Bool × Bool × Bool :=
  let op := o.f.opc.toNat
  let (a, b, c, _) := vectorUses op
  let n := vElems o.f
  (a && (op != 0x48 || !cvtWiden o.f || o.next % cvtRatio o.f = 0), b && bcastTakes (if op = 0x50 then 0 else bcastB o.f) n o.next,
    c && bcastTakes (bcastC o.f) n o.next)

/-- The heads that the next step takes. -/
def vHeads (d : Device) (c : CtxId) (o : VOp) : List Head :=
  let (a, b, x) := vTakes o
  (if a then [operandHead d c o.f.va] else []) ++ (if b then [operandHead d c o.f.vb] else []) ++ (if x then [operandHead d c o.f.vc] else [])

/-- The entries of the next step are taken: read from the state before, popped in the state now. -/
def vTake (d : Device) (c : CtxId) (o : VOp) : VOp × Device :=
  let (a, b, x) := vTakes o
  let o' := { o with
    holdA := if a then operand d c o.f.va o.usedA else o.holdA, usedA := if a then o.usedA + 1 else o.usedA
    holdB := if b then operand d c o.f.vb o.usedB else o.holdB, usedB := if b then o.usedB + 1 else o.usedB
    holdC := if x then operand d c o.f.vc o.usedC else o.holdC, usedC := if x then o.usedC + 1 else o.usedC }
  let d := if a then takeOperand d c o.f.va else d
  let d := if b then takeOperand d c o.f.vb else d
  (o', if x then takeOperand d c o.f.vc else d)

/-- Element i of a broadcast source on step j. -/
def bcastElem (code : Nat) (e : Entry) (w n j i : Nat) : Nat :=
  match code with
  | 0 => lane e w i
  | 1 => lane e w i
  | 2 => lane e w (j % n)
  | _ => lane e w 0

/-! ### Stochastic draws (R176–R178, R200) -/

/-- Physical lane of a context's lane i: a context has 32 lanes of its own. -/
def physLane (split : Bool) (ctx : Fin 2) (i : Nat) : Fin 64 := if split then finMod 64 (32 * ctx.val + i % 32) else finMod 64 i

/-- One draw of a lane; with RND 4 the time counter enters first. -/
def drawLane (st : Vector W32 64) (k : Fin 64) (timed : Bool) (time : W64) : W32 × Vector W32 64 :=
  let g := vget st k
  let g := if timed then (let x := g ^^^ time.setWidth 32; if x = 0 then 1 else x) else g
  let r := srDraw g
  (r, vset st k r)

/-- Every lane of a core or context is seeded (R176, R200). -/
def seedLanes (split : Bool) (ctx : Fin 2) (st : Vector W32 64) (s : W64) : Vector W32 64 :=
  vmapi st fun k g => if split then (if k.val / 32 = ctx.val then srSeed s (k.val % 32) else g) else srSeed s k.val

/-! ### Results of a step -/

/-- The end of the step's own result tick (R187). -/
def resultTick (o : VOp) : Nat := o.start + o.cost - 1 + o.depth

/-- A result that writes an entry. -/
def resEntry (due n : Nat) (v m : Entry) (f : NFlags) : VResult := { due := due, index := some n, data := v, mask := m, flags := f, ra := none }
/-- A result that only raises flags, or leaves a row accumulator. -/
def resFlags (due : Nat) (f : NFlags) (ra : Option RowAcc) : VResult := { due := due, index := none, data := 0, mask := 0, flags := f, ra := ra }

def orFlags (l : List NFlags) : NFlags := l.foldl (· ||| ·) 0

/-- Adds results and moves to the next step. -/
def addResults (o : VOp) (l : List VResult) : VOp := { o with results := o.results ++ l }

/-- Micro-operations and element programs: element by element (R188, R192, R196). A NaN that sel or mov copies in a
floating-point type becomes canonical (R170). -/
def stepMicro (d : Device) (c : CtxId) (o : VOp) : VOp :=
  let n := vElems o.f
  let w := 2048 / n
  let op := o.f.opc.toNat
  let prog := (epOf d c o.f.eps.toNat).getD 0
  let elem := fun (i : Nat) =>
    let a := lane o.holdA w i
    let b := bcastElem (bcastB o.f) o.holdB w n o.next i
    let x := bcastElem (bcastC o.f) o.holdC w n o.next i
    let copy := fun (r : Nat × NFlags) => if (op = 0x0C || op = 0x2D) && o.f.type != 0xC then (canonical (elemFmt o.f) r.1, r.2) else r
    if !elemOn o.lanes n i then (0, (0 : NFlags))
    else if n = 128 then copy (microPack (packFmt o.f) op a b x)
    else
      let (v, f) := if op = 0x40 then epRun prog (BitVec.ofNat 32 a) (BitVec.ofNat 32 b) (BitVec.ofNat 32 x)
        else micro32 op (BitVec.ofNat 32 a) (BitVec.ofNat 32 b) (BitVec.ofNat 32 x)
      copy (v.toNat, f)
  let r := (List.range n).map elem
  addResults { o with made := o.made + 1 }
    [resEntry (resultTick o) o.made (ofLanes w (r.map Prod.fst)) (onMask w ((List.range n).map (elemOn o.lanes n))) (orFlags (r.map Prod.snd))]

/-- Whether the conversions of a vcvt draw: not where rounding is exact for the pair (R200). -/
def cvtDraws (f : VectorFields) : Bool :=
  decide (3 ≤ vRnd f) && !cvtTarnSrc f && !cvtTarnDst f && !exactWiden (cvtSrc f) f.type.toNat && !(cvtSrc f = 0xC && f.type = 2)

/-- One conversion of a vcvt (R175, R179, R182); widening is exact, and an infinity stays infinite. -/
def cvtElem (f : VectorFields) (code : Nat) (r : W32) : Nat × NFlags :=
  let tarn := fun (x : BitVec 128 × NFlags) => (x.1.toNat, x.2)
  if cvtTarnSrc f then
    if cvtTarnDst f then tarn (reanchor (cvtSrcAnchor f) (cvtDstAnchor f) (BitVec.ofNat 128 code))
    else convertTo f.type.toNat (vRnd f) r (tarnNum (cvtSrcAnchor f) (BitVec.ofNat 128 code))
  else if cvtTarnDst f then tarn (toTarn (cvtDstAnchor f) (elemNum (cvtSrc f) code))
  else if exactWiden (cvtSrc f) f.type.toNat then convertTo f.type.toNat 1 0 (elemNum (cvtSrc f) code)
  else convertTo f.type.toNat (vRnd f) r (elemNum (cvtSrc f) code)

/-- Bits of one element of the source of a vcvt. -/
def cvtBits (f : VectorFields) : Nat := if cvtTarnSrc f then 128 else fmtWidth (cvtSrc f)

/-- One wider entry of a vcvt: its elements converted in order, with the lane states. DESIGN CHOICE: the lane of an element in the
wider entry converts it, so the two elements of a packed destination lane draw from two generators; and a NaN or an infinity
draws as any element does (R177, log entry 81). -/
def cvtStep (split : Bool) (ctx : Fin 2) (o : VOp) (st : Vector W32 64) : List (Nat × NFlags × Bool) × Vector W32 64 :=
  let (s, t) := cvtWidths o.f
  let n := 2048 / max s t
  let off := if cvtWiden o.f then o.next % cvtRatio o.f * n else 0
  (List.range n).foldl (fun (a : List (Nat × NFlags × Bool) × Vector W32 64) i =>
    let on := elemOn o.lanes n i
    if !on then (a.1 ++ [(0, 0, false)], a.2)
    else
      let (r, st) := if cvtDraws o.f then drawLane a.2 (physLane split ctx (if 64 < n then 64 * i / n else i)) (vRnd o.f = 4) o.timeNow else (0, a.2)
      let (v, f) := cvtElem o.f (lane o.holdA (cvtBits o.f) (off + i)) r
      (a.1 ++ [(v, f, true)], st)) ([], st)

/-- A step of vcvt: a widening one writes an entry, a narrowing one gathers (R198). -/
def stepCvt (split : Bool) (ctx : Fin 2) (o : VOp) (st : Vector W32 64) : VOp × Vector W32 64 :=
  let (l, st) := cvtStep split ctx o st
  let t := (cvtWidths o.f).2
  let fl := orFlags (l.map fun x => x.2.1)
  let acc := o.acc ++ l.map fun x => x.1
  let on := o.accMask ++ l.map fun x => x.2.2
  if acc.length < 2048 / t then (addResults { o with acc := acc, accMask := on } [resFlags (resultTick o) fl none], st)
  else (addResults { o with acc := [], accMask := [], made := o.made + 1 } [resEntry (resultTick o) o.made (ofLanes t acc) (onMask t on) fl], st)

/-- The blocks of one source entry of vmxq, lanes in order (R167, R177, R199). An element that is predicated
off enters its block as zero. DESIGN CHOICE: the elements of a block that quantises to scale 0xFF draw as well (R177, log entry
81). -/
def mxqBlocks (split : Bool) (ctx : Fin 2) (o : VOp) (st : Vector W32 64) : List Byte × List Nat × NFlags × Vector W32 64 :=
  let code := o.f.type.toNat
  (List.range 2).foldl (fun (a : List Byte × List Nat × NFlags × Vector W32 64) b =>
    let (rnds, st) := (List.range 32).foldl (fun (x : List Rnd × Vector W32 64) i =>
      if vRnd o.f < 3 || !elemOn o.lanes 64 (32 * b + i) then (x.1 ++ [(rndOf (vRnd o.f % 3) 0).1], x.2)
      else
        let (r, st) := drawLane x.2 (physLane split ctx (32 * b + i)) (vRnd o.f = 4) o.timeNow
        (x.1 ++ [.draw r], st)) ([], a.2.2.2)
    let vals := (List.range 32).map fun i => if elemOn o.lanes 64 (32 * b + i) then decodeNum fp32 (lane o.holdA 32 (32 * b + i)) else num0
    let (s, es, f) := quantBlock code rnds vals
    (a.1 ++ [s], a.2.1 ++ es, a.2.2.1 ||| f, st)) ([], [], 0, st)

/-- A step of vmxq; after the last element entry the scale entries follow tick by tick. -/
def stepMxq (split : Bool) (ctx : Fin 2) (o : VOp) (st : Vector W32 64) : VOp × Vector W32 64 :=
  let (ss, es, fl, st) := mxqBlocks split ctx o st
  let w := fmtWidth o.f.type.toNat
  let acc := o.acc ++ es
  let on := o.accMask ++ (List.range 64).map (elemOn o.lanes 64)
  let scales := o.scales ++ ss
  let due := resultTick o
  if acc.length < mxqElems o.f then (addResults { o with acc := acc, accMask := on, scales := scales } [resFlags due fl none], st)
  else
    let o := addResults { o with acc := [], accMask := [], scales := scales, made := o.made + 1 } [resEntry due o.made (ofLanes w acc) (onMask w on) fl]
    if o.next + 1 < o.total then (o, st)
    else
      let tail := (List.range (mxqScales o.f)).map fun e =>
        resEntry (due + 1 + e) (o.made + e) (ofLanes 8 (((scales.drop (256 * e)).take 256).map fun x => x.toNat)) fullMask 0
      (addResults o tail, st)

/-- A step of vcomp; the output and count entries follow the last (R201). In a split context each output takes
its two ticks. -/
def stepComp (o : VOp) : VOp :=
  let keep := (List.range 64).filterMap fun i => if lane o.holdB 32 i != 0 then some (movedElem o.f (lane o.holdA 32 i)) else none
  let acc := o.acc ++ keep
  let base := o.start + o.cost + 1
  if o.next + 1 < o.total then addResults { o with acc := acc } [resFlags o.start 0 none]
  else
    let outs := (List.range o.total).map fun j => resEntry (base + o.cost * j) j (ofLanes 32 ((acc.drop (64 * j)).take 64)) fullMask 0
    addResults { o with acc := acc } (outs ++ [resEntry (base + o.cost * o.total) o.total (BitVec.ofNat 2048 acc.length) fullMask 0])

/-- A step of vexpd (R202). -/
def stepExpd (o : VOp) : VOp :=
  let start := o.acc ++ (List.range 64).map fun i => movedElem o.f (lane o.holdA 32 i)
  let (out, rest) := (List.range 64).foldl (fun (a : List Nat × List Nat) i =>
    let fill := movedElem o.f (bcastElem (bcastC o.f) o.holdC 32 64 o.next i)
    if lane o.holdB 32 i != 0 then
      match a.2 with
      | x :: rest => (a.1 ++ [x], rest)
      | [] => (a.1 ++ [fill], [])
    else (a.1 ++ [fill], a.2)) ([], start)
  addResults { o with acc := rest, made := o.made + 1 }
    [resEntry (resultTick o) o.made (ofLanes 32 out) (onMask 32 ((List.range 64).map (elemOn o.lanes 64))) 0]

/-! ### Reductions (R203) -/

/-- One level of the pairwise tree. -/
def pairUp {w : Nat} (f : BitVec w → BitVec w → BitVec w × NFlags) : List (BitVec w) → List (BitVec w) × NFlags
  | x :: y :: rest =>
    let (v, g) := f x y
    let (r, h) := pairUp f rest
    (v :: r, g ||| h)
  | l => (l, 0)

/-- Six levels over 64 elements. -/
def treeFold {w : Nat} (f : BitVec w → BitVec w → BitVec w × NFlags) (l : List (BitVec w)) : BitVec w × NFlags :=
  let (r, fl) := (List.range 6).foldl (fun (a : List (BitVec w) × NFlags) _ =>
    let (r, g) := pairUp f a.1
    (r, a.2 ||| g)) (l, 0)
  (r.getD 0 0, fl)

def max32 (x y : W32) : W32 × NFlags := w32 (rne fp32 (maxNum (d32 x) (d32 y)))
def min32 (x y : W32) : W32 × NFlags := w32 (rne fp32 (minNum (d32 x) (d32 y)))
def treeSum (l : List W32) : W32 × NFlags := treeFold add32 l

/-- A tarn sum of values entering one by one (R179, R180, R205). -/
def tarnSum (a : Byte) (start : BitVec 128) (l : List Num) : BitVec 128 × NFlags :=
  l.foldl (fun (s : BitVec 128 × NFlags) x =>
    let (t, f) := toTarn a x
    let (v, g) := tarnAdd s.1 t
    (v, s.2 ||| f ||| g)) (start, 0)

/-- A tarn sum of 64 values by the pairwise tree, each on the grid of an anchor (R203). -/
def tarnTree (a : Byte) (l : List Num) : BitVec 128 × NFlags :=
  let ts := l.map (toTarn a)
  let (v, f) := treeFold tarnAdd (ts.map Prod.fst)
  (v, ts.foldl (fun x t => x ||| t.2) f)

/-- The elements of the present entry, those predicated off replaced. -/
def maskedElems (o : VOp) (neutral : W32) : List W32 :=
  (List.range 64).map fun i => if elemOn o.lanes 64 i then BitVec.ofNat 32 (lane o.holdA 32 i) else neutral

def vredKind (f : VectorFields) : Nat := fieldNat f.mode 2 0

/-- The value of one entry. -/
def vredValue (o : VOp) : Nat × NFlags :=
  let w := fun (x : W32 × NFlags) => (x.1.toNat, x.2)
  match vredKind o.f with
  | 0 => w (treeSum (maskedElems o 0))
  | 1 => w (treeFold max32 (maskedElems o 0xFF800000))
  | 2 => w (treeFold min32 (maskedElems o 0x7F800000))
  | 3 => w (treeFold (fun x y => (x + y, 0)) (maskedElems o 0))
  | _ =>
    let (v, f) := tarnTree (cvtSrcAnchor o.f) ((maskedElems o 0).map d32)
    (v.toNat, f)

/-- A step of vred: an output entry is written with its last value. -/
def stepRed (o : VOp) : VOp :=
  let (v, f) := vredValue o
  let w := if vredKind o.f = 4 then 128 else 32
  let acc := o.acc ++ [v]
  if acc.length < 2048 / w && o.next + 1 < o.total then addResults { o with acc := acc } [resFlags (resultTick o) f none]
  else addResults { o with acc := [], made := o.made + 1 } [resEntry (resultTick o) o.made (ofLanes w acc) fullMask f]

/-! ### Row accumulators (R204–R208) -/

/-- The anchor of rxinit. -/
def initAnchor (f : VectorFields) : Byte := f.imm.extractLsb' 14 8

/-- Elements that are on. -/
def onElems (o : VOp) : List W32 := (List.range 64).filterMap fun i => if elemOn o.lanes 64 i then some (BitVec.ofNat 32 (lane o.holdA 32 i)) else none

/-- rxmax on one element. -/
def rowMax (a : RowAcc × NFlags) (x : W32) : RowAcc × NFlags :=
  match d32 x with
  | .nan => ({ a.1 with nan := true }, a.2 ||| flagV)
  | .inf true => a
  | .inf false => ({ a.1 with live := true, k := a.1.k + 1 }, a.2)
  | y => ({ a.1 with live := true, m := (w32 (rne fp32 (maxNum (d32 a.1.m) y))).1 }, a.2)

/-- e of one element of rxexp; m and k are those before the pass. -/
def rowExp (o : VOp) (x : W32) : W32 × NFlags :=
  if o.nan0 || isNan (d32 x) then (nan32, flagV)
  else if x = 0xFF800000 then (0, 0)
  else if o.ra.k != 0 then (if x = 0x7F800000 then 0x3F800000 else 0, 0)
  else expNum (addNum (d32 x) (negNum (d32 o.ra.m)))

/-- Adds an entry's values to s by the tree and to S_T one by one. -/
def rowAdd (ra : RowAcc) (es : List W32) (ts : List Num) : RowAcc × NFlags :=
  let (v, f) := treeSum es
  let (s, g) := add32 ra.s v
  let (t, h) := tarnSum ra.a ra.st ts
  ({ ra with s := s, st := t, sat := ra.sat || h &&& flagT != 0 }, f ||| g ||| h)

/-- The entry of rxget (R208). -/
def rowEntry (r : RowAcc) : Entry :=
  let fl := (if r.live then 0 else 1) + (if r.nan then 2 else 0) + if r.sat then 4 else 0
  ofLanes 32 ([r.m.toNat, r.s.toNat, r.k.toNat, fl] ++ (List.range 4).map (fun k => fieldNat r.st (32 * k + 31) (32 * k)) ++ [r.a.toNat])

/-- The accumulator that an entry holds (R208); a NaN in m or s becomes canonical (R170). -/
def entryRow (e : Entry) : RowAcc :=
  let w := fun (k : Nat) => BitVec.ofNat 32 (lane e 32 k)
  let fp := fun (k : Nat) => BitVec.ofNat 32 (canonical fp32 (lane e 32 k))
  { m := fp 0, s := fp 1, k := w 2, live := !(w 3).getLsbD 0, nan := (w 3).getLsbD 1, sat := (w 3).getLsbD 2,
    st := e.extractLsb' 128 128, a := (w 8).setWidth 8 }

/-- r of rxnorm: 1 / S rounded once, with the flags of its forming (R206). -/
def rowRecip (o : VOp) : W32 × NFlags :=
  let (s, f) := if o.f.mode.getLsbD 0 then w32 (roundNum fp32 .nearest false (tarnNum o.ra.a o.ra.st)) else (o.ra.s, 0)
  let (r, g) := w32 (divNum fp32 (.fin false 1 0) (d32 s))
  (r, f ||| g)

/-- A step of rxnorm. -/
def rowNorm (o : VOp) : Entry × NFlags :=
  if o.ra.nan then (ofLanes 32 (List.replicate 64 nan32.toNat), flagV)
  else if !o.ra.live then (0, 0)
  else
    let (r, f) := rowRecip o
    let l := (List.range 64).map fun i =>
      if elemOn o.lanes 64 i then w32 (rne fp32 (mulNum (d32 (BitVec.ofNat 32 (lane o.holdA 32 i))) (d32 r))) else (0, 0)
    (ofLanes 32 (l.map fun x => x.1.toNat), orFlags (l.map Prod.snd) ||| if o.next = 0 then f else 0)

/-- A step of the row-accumulator operations. -/
def stepRow (o : VOp) : VOp :=
  let due := resultTick o
  match o.f.opc.toNat with
  | 0x60 => addResults o [resFlags due 0 (some { RowAcc.reset with a := initAnchor o.f })]
  | 0x61 =>
    let (ra, f) := (onElems o).foldl rowMax (o.ra, 0)
    addResults { o with ra := ra } [resFlags due f (some ra)]
  | 0x62 =>
    let l := (List.range 64).map fun i => if elemOn o.lanes 64 i then rowExp o (BitVec.ofNat 32 (lane o.holdA 32 i)) else (0, 0)
    let es := l.map Prod.fst
    let on := (List.range 64).filterMap fun i => if elemOn o.lanes 64 i then es[i]? else none
    let (ra, f) := rowAdd o.ra es (on.map d32)
    let ra := { ra with nan := ra.nan || on.any fun x => isNan (d32 x) }
    addResults { o with ra := ra, made := o.made + 1 }
      [{ resEntry due o.made (ofLanes 32 (es.map fun x => x.toNat)) fullMask (f ||| orFlags (l.map Prod.snd)) with ra := some ra }]
  | 0x63 =>
    let (e, f) := rowNorm o
    addResults { o with made := o.made + 1 } [resEntry due o.made e fullMask f]
  | 0x64 =>
    let sq := fun (x : W32) => mulNum (d32 x) (d32 x)
    let l := (maskedElems o 0).map fun x => w32 (rne fp32 (sq x))
    let (ra, f) := rowAdd o.ra (l.map Prod.fst) ((onElems o).map sq)
    let nans := (onElems o).any fun x => isNan (d32 x)
    let ra := { ra with nan := ra.nan || nans, live := ra.live || (onElems o).any fun x => !isNan (d32 x) }
    addResults { o with ra := ra } [resFlags due (f ||| orFlags (l.map Prod.snd)) (some ra)]
  | 0x65 => addResults { o with made := 1 } [resEntry due 0 (rowEntry o.ra) fullMask 0]
  | _ => addResults o [resFlags due 0 (some (entryRow o.holdA))]

/-! ### One step of any operation -/

/-- The next step's work on the entries it has taken: the operation moves on, and the device changes where an
operation acts on more than its destination. -/
def vStep (d : Device) (c : CtxId) (o : VOp) : VOp × Device :=
  let sp := isSplit d c.core
  let op := o.f.opc.toNat
  let core := getCore d c.core
  let next := fun (o : VOp) => { o with next := o.next + 1, start := o.start + o.cost }
  let withSr := fun (x : VOp × Vector W32 64) => (next x.1, modCore d c.core fun k => { k with srState := x.2 })
  if isMicro op || op = 0x40 then (next (stepMicro d c o), d)
  else if op = 0x48 then withSr (stepCvt sp c.ctx o core.srState)
  else if op = 0x49 then withSr (stepMxq sp c.ctx o core.srState)
  else if op = 0x50 then (next (stepComp o), d)
  else if op = 0x51 then (next (stepExpd o), d)
  else if op = 0x58 then (next (stepRed o), d)
  else if isRowOp op then (next (stepRow o), d)
  else if op = 0x41 then
    (next (addResults o [resFlags (resultTick o) 0 none]), modCore d c.core fun k => { k with eps := vset k.eps (physEp sp c.ctx o.f.eps.toNat) (some o.holdA) })
  else if op = 0x70 then
    (next (addResults o [resFlags (resultTick o) 0 none]), modCore d c.core fun k => { k with srState := seedLanes sp c.ctx k.srState (lowWord o.holdA) })
  else
    let v : Entry := (getUnit d c).vector.flags.val.setWidth 2048
    (next (addResults o [resEntry (resultTick o) 0 v fullMask 0]), modUnit d c fun u => { u with vector := { u.vector with flags := { u.vector.flags with val := 0 } } })

/-! ### A tick of the engine (R187–R189) -/

def vecOf (d : Device) (c : CtxId) : Option VOp := (getUnit d c).vector.op
def setVec (d : Device) (c : CtxId) (o : Option VOp) : Device := modUnit d c fun u => { u with vector := { u.vector with op := o } }

/-- A destination entry: bits that are not written keep their value in a register and are zero in a push. -/
def putMasked (d : Device) (c : CtxId) (o : VOp) (r : VResult) (n : Nat) : Device :=
  let v := r.data &&& r.mask
  match dstQueue o.f.vd with
  | some _ => putResult d c o.f.vd n v o.issued
  | none => putResult d c o.f.vd n (v ||| (readV (getCore d c.core) c.ctx (o.f.vd.toNat + n) &&& ~~~ r.mask)) o.issued

/-- A result takes effect at the end of the tick. -/
def applyResult (d : Device) (c : CtxId) (o : VOp) (r : VResult) : Device :=
  let d := match r.index with | some n => putMasked d c o r n | none => d
  let d := match r.ra with
    | some ra => modCore d c.core fun k => { k with rowAcc := vset k.rowAcc (physRow k.split c.ctx (vQ o.f)) ra }
    | none => d
  modUnit d c fun u => { u with vector := { u.vector with flags := raise u.vector.flags r.flags o.pc } }

/-- A tick on which the engine does not advance: every later tick moves one on. -/
def holdOp (o : VOp) (t : Nat) : VOp :=
  { o with start := o.start + 1, results := o.results.map (fun r => { r with due := r.due + 1 }), waiting := true, nextTick := t + 1 }

/-- Whether the next step is due, and whether a late head keeps the engine from its tick (R67). -/
def stepDue (o : VOp) (t : Nat) : Bool := decide (o.next < o.total) && decide (o.start ≤ t)
def vecLate (d : Device) (c : CtxId) : Bool :=
  match vecOf d c with
  | some o => !o.done && stepDue o (tickOf d c) && (vHeads d c o).any (·.isLate)
  | none => false

/-- Results of the present tick that push. -/
def pushDue (o : VOp) (t : Nat) : Bool := (dstQueue o.f.vd).isSome && o.results.any fun r => decide (r.due ≤ t) && r.index.isSome

/-- One tick of the engine. -/
def vecTick (d : Device) (c : CtxId) : Device :=
  match vecOf d c with
  | none => d
  | some o =>
    let t := tickOf d c
    let due := stepDue o t && !isHalted d c
    let hs := if due then vHeads d c o else []
    if hs.any (·.isLate) then d
    else if hs.any (· = .empty) then setVec d c (some (holdOp o t))
    else
      let (o', d') := if due then (let (x, y) := vTake d c o; vStep y c x) else (o, d)
      if pushDue o' t && !destRoom d c o.f.vd then setVec d c (some (holdOp o t))
      else
        let now := o'.results.filter fun r => decide (r.due ≤ t)
        let left := o'.results.filter fun r => !decide (r.due ≤ t)
        let d := forAll now d' fun d r => applyResult d c o' r
        let idle := decide (o'.total ≤ o'.next) && left.isEmpty
        setVec d c (some { o' with results := left, waiting := false, nextTick := t + 1, done := idle && decide (o'.start ≤ t + 1) })

/-- Whether the engine has work on the present tick. On a halt it takes no further step, as a repeat unit makes no further
transfer, and the results of the steps it took are still delivered (R79, R102, R189). -/
def vecDue (d : Device) (c : CtxId) : Bool :=
  executing d c && match vecOf d c with
  | some o => !o.done && decide (o.nextTick ≤ tickOf d c) && (!isHalted d c || !o.results.isEmpty)
  | none => false

/-- Whether the operation of a halted core has come to rest: no result is left to deliver, or one waits for room that nothing
makes. -/
def vecStuck (d : Device) (c : CtxId) : Bool :=
  isHalted d c && match vecOf d c with
  | some o => o.results.isEmpty || (o.waiting && !destRoom d c o.f.vd)
  | none => false

/-- The end of a tick: an operation that ended on it, and the flags raised on it (R209). -/
def vectorEnd (d : Device) (c : CtxId) : Device :=
  modUnit d c fun u => { u with vector :=
    { op := (match u.vector.op with | some o => if o.done then none else some o | none => none), flags := stickyEnd u.vector.flags } }

/-! ### Issue (R189, R191) -/

/-- Check 10 against the engine: another operation, or a queue that the operation in progress uses. -/
def vectorConflict (d : Device) (c : CtxId) (b : RawBundle) : Bool :=
  match vecOf d c with
  | none => false
  | some o =>
    let u := bundleUses b
    let src := ((srcQueue o.f.va).toList ++ (srcQueue o.f.vb).toList ++ (srcQueue o.f.vc).toList).map Prod.fst
    vectorOp b != 0 || (u.pop ++ u.peek).any (fun q => src.contains q) || (match dstQueue o.f.vd with | some q => u.push.contains q | none => false)

/-- The first step of the vector slot's operation, if it were to issue now. -/
def vecFirst (d : Device) (c : CtxId) (w : SeqId) (b : RawBundle) : VOp := (vStep d c (newVOp d c w (vfields b))).1

/-- What the vector slot waits for: entries of its first step, room for what it pushes on its issue tick. -/
def vectorUnmet (d : Device) (c : CtxId) (w : SeqId) (b : RawBundle) : List Unmet :=
  if vectorOp b = 0 then []
  else
    let f := vfields b
    (vHeads d c (newVOp d c w f)).flatMap headUnmet ++
      if pushDue (vecFirst d c w b) (tickOf d c) then roomUnmet (destRoom d c f.vd) else []

/-- Whether an operation may vary (R30). -/
def vecVaries (b : RawBundle) : Bool := (vectorOp b = 0x48 || vectorOp b = 0x49) && vRnd (vfields b) = 4

/-- Check 14 of the vector slot (R191, R195). -/
def vectorIssue (d : Device) (c : CtxId) (b : RawBundle) : Option Byte :=
  let f := vfields b
  if vectorOp b = 0x40 && (epOf d c f.eps.toNat).isNone then some 0x11
  else if vectorOp b = 0x41 && !epValid (operand d c f.va 0) then some 0x11
  else if vecVaries b && sealedRun d c then some 0x0E
  else none

/-- The vector slot of an issued bundle. An operation with every lane off varies nothing (R31). -/
def vectorEffect (d : Device) (c : CtxId) (w : SeqId) (b : RawBundle) : Device :=
  if vectorOp b = 0 then d
  else
    let o := newVOp d c w (vfields b)
    let d := if vecVaries b && o.lanes != 0 then countMayVary d c else d
    vecTick (setVec d c (some o)) c

end Sys2Proof.Machine
end

