-- ==== Sys2Proof/Machine/Sync.lean ====
section
/-! DEFINITION. The sync slot (R104, R133–R138, R234–R243, R246–R253): flag operations, barrier operations
and sends, as a bundle presents and issues them. -/

namespace Sys2Proof.Machine

/-! ### Flag operations (R133–R135) -/

/-- The threshold of a flag wait: an immediate, or bits [31:0] of a register. -/
def flagNeed (q : Sequencer) (b : RawBundle) : W32 := if syncOp b = 0x0B then (readS q (syRa b)).setWidth 32 else syImm b
def isFlagWait (op : Nat) : Bool := op = 0x0A || op = 0x0B || op = 0x0C
/-- Whether an operation signals through a target register. -/
def isRemoteSignal (b : RawBundle) : Bool := (syncOp b = 8 || syncOp b = 9) && syRa b != 0

/-- The core or context that an fadd or fsub names. -/
def signalOf (d : Device) (c : CtxId) (q : Sequencer) (b : RawBundle) : Except Byte CtxId :=
  if syRa b = 0 then .ok c else signalTarget d c (readS q (syRa b)) (syFlag b)

/-- The FLAG_DRIFT word of the check that a flag operation fails at issue (R241, R243). -/
def syncDrift (d : Device) (c : CtxId) (q : Sequencer) (b : RawBundle) : Option W64 :=
  let f := syFlag b
  let mono := fun (t : CtxId) => if (toldMono d t f).isSome then some (driftNamed d t f) else none
  match syncOp b with
  | 8 => match signalOf d c q b with | .ok t => addDrift d c t f (syImm b) | .error _ => none
  | 9 => match signalOf d c q b with | .ok t => mono t | .error _ => none
  | 0x0C => mono c
  | 0x0D => mono c
  | _ => none

/-! ### Barrier operations (R136, R246) -/

/-- The checks of a barrier operation on the first tick that its bundle is presented. -/
def barCheck (d : Device) (c : CtxId) (w : SeqId) (b : RawBundle) : Option Byte :=
  if !isBarOp (syncOp b) then none
  else
    let k := syBctx b
    let x := getBar d k
    if partOfBar d k != partOfCore d c.core then some 0x12
    else if x.claim.isNone || x.claim != domOf d c then some 0x09
    else match partIndex x (partWho d w) with
      | none => some 0x09
      | some n => if syncOp b = 0x12 && (barPart x n).arrivals ≤ (barPart x n).left then some 0x09 else none

/-- Whether a bar or barout still waits: a bar until its own arrival's release has reached the core. -/
def barWaits (d : Device) (w : SeqId) (b : RawBundle) : Bool :=
  let x := getBar d (syBctx b)
  let t := barTick d x
  match partIndex x (partWho d w) with
  | none => false
  | some n => match syncOp b with
    | 0x10 => !(getSeq d w).barSent || !roundReached x n t
    | 0x12 => !roundReached x n t
    | _ => false

/-- The arrival of a bar that waits with every other condition met (R136). -/
def barArrive (d : Device) (c : CtxId) (w : SeqId) (b : RawBundle) : Device :=
  let t := tickOf d c
  let pc := physPc d c ((getSeq d w).pc.setWidth 12)
  let d := modSeq d w fun q => { q with barSent := true }
  noteReach (modBar d (syBctx b) fun x => match partIndex x (partWho d w) with | some n => arrive x n t pc | none => x) (syBctx b)

/-- A barrier operation issues: barin arrives; bar and barout leave their round, of an extended context once the
fabric's release is in (R249, R253). -/
def barEffect (d : Device) (c : CtxId) (w : SeqId) (b : RawBundle) : Device :=
  let t := tickOf d c
  let k := syBctx b
  let x := getBar d k
  match partIndex x (partWho d w) with
  | none => d
  | some n =>
    if syncOp b = 0x11 then noteReach (modBar d k fun x => arrive x n t (physPc d c ((getSeq d w).pc.setWidth 12))) k
    else if x.extended then fabricCheck d k n w t
    else noteReach (modBar d k fun x => leaveRound x n t) k

/-! ### The slot -/

/-- Conditions the sync slot waits for, the wait of a bar for its release left out. -/
def syncUnmet (d : Device) (c : CtxId) (w : SeqId) (b : RawBundle) (earlier : Nat) : List Unmet :=
  let q := getSeq d w
  let op := syncOp b
  if isFlagWait op then
    let cls := classOf d c (syFlag b)
    if cls = 2 || flagMet d c (syFlag b) (flagNeed q b) (op = 0x0C) then [] else [(.flag, cls = 1)]
  else if isRemoteSignal b then (if rqFull d c earlier then [(.queueFull, false)] else [])
  else if op = 0x12 then (if barWaits d w b then [(.barrier, false)] else [])
  else if isMsgOp op then sendUnmet d c q b earlier
  else []

/-- Check 14 of the sync slot. -/
def syncIssue (d : Device) (c : CtxId) (w : SeqId) (b : RawBundle) : Option Byte :=
  let q := getSeq d w
  let op := syncOp b
  if isMsgOp op then sendIssue d c q b
  else
    let target := if op = 8 || op = 9 then (match signalOf d c q b with | .ok _ => none | .error e => some e) else none
    target.orElse fun _ => if (syncDrift d c q b).isSome then some 0x07 else none

/-- Whether a frame of what a flag of class 2 waits for has been retried: of an active collective (R304), or of a message
still to be delivered (R337). -/
def retriedFlag (d : Device) (c : CtxId) (f : Byte) : Bool :=
  match domOf d c with
  | none => false
  | some i => match (getDom d i).prog with
    | none => false
    | some g =>
      (((getDom d i).run.elim [] (·.colls)).any fun x => x.retried && match g.colls[x.desc.val]? with
        | some e => e.core = c && e.flag = f
        | none => false) ||
      (getDom d i).assembling.any fun m => m.retried && match g.inbound[m.inid.toNat]? with
        | some e => e.target = c && e.tflag = f
        | none => false

/-- An external check: the flag must reach a value by tick t + 4 (R238). -/
def extCheck (d : Device) (c : CtxId) (w : SeqId) (b : RawBundle) (need : W32) : Device :=
  addItem d c { ref := .extFlag c w.seq (syFlag b) need (if syncOp b = 0x0C then some need else none), due := tickOf d c + 4, ready := none,
                cause := if retriedFlag d c (syFlag b) then 3 else 6 }

/-- A signal: local at the end of the tick, or through the request queue. -/
def signalEffect (d0 d : Device) (c : CtxId) (w : SeqId) (b : RawBundle) : Device :=
  let q := getSeq d0 w
  let delta : W32 := if syncOp b = 8 then syImm b else 0 - syImm b
  match signalOf d0 c q b with
  | .error _ => d
  | .ok t =>
    let d := if syncOp b = 8 then countSent d c t (syFlag b) (syImm b) else d
    if syRa b = 0 then pendAdd d c (syFlag b) delta
    else
      let r : Request :=
        { kind := .flag (syFlag b) delta, seq := w.seq, pc := physPc d0 c (q.pc.setWidth 12), addr := readS q (syRa b), bytes := 0,
          predOff := false, valid := true, entryTick := tickOf d0 c, slotsLeft := 1 }
      enqueue d c r

/-- The sync slot of an issued bundle. -/
def syncEffect (d0 d : Device) (c : CtxId) (w : SeqId) (b : RawBundle) : Device :=
  let op := syncOp b
  let phys : Byte := BitVec.ofNat 8 (physFlag (isSplit d0 c.core) c.ctx (syFlag b)).val
  let need := flagNeed (getSeq d0 w) b
  if op = 8 || op = 9 then signalEffect d0 d c w b
  else if isFlagWait op && classOf d0 c (syFlag b) = 2 then extCheck d c w b need
  else if op = 0x0C then pendFlag d c.core (.sub w.seq phys need)
  else if op = 0x0D then pendFlag d c.core (.set w.seq phys (syImm b))
  else if isBarOp op then barEffect d c w b
  else if isMsgOp op then sendEffect d0 d c w b
  else d

end Sys2Proof.Machine
end

