-- ==== Sys2Proof/Machine/Present.lean ====
section
/-! DEFINITION. A sequencer presents its bundle (R57–R60, R66–R68, R73–R81, R91, R109, R110, R244): the fetch, the
checks in their order, the waits, the issue, and the halts of a core or context on one tick. -/

namespace Sys2Proof.Machine

/-! ### Fetch (R73–R78, R91) -/

/-- Whether the page of an address can be fetched from (R73–R75, R83). -/
def pageOk (k : Core) (c : CtxId) (q : Sequencer) : Bool :=
  let pc := q.pc.toNat
  let page := pc / 256
  decide (pc < (if k.split then 2048 else 4096)) && decide (q.winLo.toNat ≤ page) && decide (page ≤ q.winHi.toNat) &&
    vget k.pages (finMod 16 (page + if k.split && c.ctx = 1 then 8 else 0)) = .loaded

/-- The physical address of a sequencer's bundle, and the bundle. DESIGN CHOICE: the address one past the last bundle has
no place in FETCH_ADDR, and its low 12 bits are recorded (log entry 66). -/
def fetchPc (d : Device) (c : CtxId) (q : Sequencer) : BitVec 12 := physPc d c (q.pc.setWidth 12)
def fetchBundle (d : Device) (c : CtxId) (q : Sequencer) : RawBundle := imemAt (getCore d c.core).imem (fetchPc d c q).toNat

/-- Whether a sequencer has a bundle to present on the present tick. -/
def presents (d : Device) (c : CtxId) (w : SeqId) : Bool :=
  let q := getSeq d w
  let t := tickOf d c
  (q.st = .running || q.st = .waiting) && decide (q.nextTick ≤ t) && decide (q.resumeAt ≤ t)

/-- Lower sequencers whose bundles halt the core on the present tick: each has used an armed event (R475). -/
def halting (d : Device) (c : CtxId) (w : SeqId) : Nat := (seqsOf d c).countP fun n => decide (n < w.seq) && presents d c { core := c.core, seq := n }

/-- Whether an event is armed for a detector of a core that its lower sequencers leave to this one. -/
def armedHere (d : Device) (c : CtxId) (w : SeqId) (det : BitVec 16) : Bool := decide (halting d c w < armedLeft d det (coreUnit c))

/-- Checks 1 to 3, which like every static check are made on the first tick that a bundle is presented (R91, R109). -/
def fetchCheck (d : Device) (c : CtxId) (w : SeqId) : Option Byte :=
  let k := getCore d c.core
  let q := getSeq d w
  if q.shown then none
  else if !pageOk k c q then some 0x18
  else if k.imemBad.contains (fetchPc d c q).toNat || armedHere d c w 0x104 then some 0x0D
  else if brkMark (fetchBundle d c q) && k.dbgCtrl.getLsbD c.ctx.val then some 0x14
  else none

/-! ### Static checks (R109, R110) -/

/-- Check 10 against what is in progress: a slot over its repeat unit, agfetch over the load port's unit or
slot, and a generator touched during its repeat (R102, R124). DEDUCED: an agfetch to the generator of either active unit
touches it (log entry 67). -/
def unitConflict (d : Device) (c : CtxId) (b : RawBundle) : Bool :=
  let u := getUnit d c
  let touched := (bundleUses b).gens ++ (if scalarOp b = 0xC0 then [agNum b] else [])
  let holds := fun (x : Option RepeatUnit) => match x with | some y => touched.contains y.ag.val | none => false
  (u.ldUnit.isSome && (loadOp b != 0 || scalarOp b = 0xC0)) || (u.stUnit.isSome && storeOp b != 0) || (scalarOp b = 0xC0 && loadOp b != 0) ||
    holds u.ldUnit || holds u.stUnit

/-- A program check that an armed injection makes the next presented bundle fail; of several armed events each takes a bundle
(R471, R475). -/
def injectedCheck (d : Device) (c : CtxId) (w : SeqId) : Option Byte :=
  let armed := ([1, 2, 3, 4, 5, 6, 7, 8, 9, 10, 11, 12, 13, 14, 15, 16, 17, 18, 19, 23, 24] : List Nat).flatMap fun n =>
    List.replicate (min 4 (armedLeft d (BitVec.ofNat 16 n) (coreUnit c))) (BitVec.ofNat 8 n)
  armed[halting d c w]?

/-- The static checks of a bundle on the first tick that it is presented. -/
def staticCheck (d : Device) (c : CtxId) (w : SeqId) (b : RawBundle) : Option Byte :=
  let k := getCore d c.core
  let q := getSeq d w
  let execute := w.seq.val % 2 = 1
  (earlyChecks k.split execute b).orElse fun _ =>
    if bundleConflict k.split b || unitConflict d c b || matrixConflict d c b || vectorConflict d c b then some 0x02
    else if !directionCheck execute b then some 0x06
    else if !formCheck b || scalarStatic q b then some 0x05
    else if !vectorTypes b || !matrixPair b then some 0x10
    else barCheck d c w b

/-! ### Waits (R66, R67, R136) -/

/-- Entries of the request queue that the load or the store slot needs (R128). -/
def slotEntries (d : Device) (c : CtxId) (w : SeqId) (store : Bool) (b : RawBundle) : Nat :=
  if (if store then storeOp b else loadOp b) != 0 && !xLocal d c (slotXfer d c w store b) then 1 else 0

/-- Unmet conditions in slot order, a bar's wait for its release left out. -/
def bundleUnmet (d : Device) (c : CtxId) (w : SeqId) (b : RawBundle) : List Unmet :=
  scalarUnmet d c b ++ vectorUnmet d c w b ++ matrixUnmet d c b ++
    (if loadOp b != 0 then xUnmet d c (slotXfer d c w false b) 0 else []) ++
    (if storeOp b != 0 then xUnmet d c (slotXfer d c w true b) (slotEntries d c w false b) else []) ++
    syncUnmet d c w b (slotEntries d c w false b + slotEntries d c w true b)

/-- Heads that the bundle takes or reads on its issue tick. -/
def issueHeads (d : Device) (c : CtxId) (w : SeqId) (b : RawBundle) : List Head :=
  (if scalarOp b = 0x31 || scalarOp b = 0x32 then [headOf d c (finMod 4 (scRs1 b))] else []) ++
  (if vectorOp b != 0 then vHeads d c (newVOp d c w (vfields b)) else []) ++
  (if isFeed (matrixOp b) then feedHeads d c (newFeed (mfields b) 0 0 0) else []) ++
  (if storeOp b != 0 && msKind (storeSlot b) = 0 then [headOf d c (msQueue (storeSlot b))] else [])

/-- A setwin whose window holds a page still LOADING, or an overlay too recent (R77). -/
def windowLate (d : Device) (c : CtxId) (b : RawBundle) : Bool :=
  scalarOp b = 0xB8 &&
  (windowPages (isSplit d c.core) c.ctx (winLo b).toNat (winHi b).toNat).any fun p =>
    vget (getCore d c.core).pages p = .loading ||
    (match runOf d c with
     | some r => r.items.any fun i => i.ref = .overlay c.core p && !(match i.ready with | some x => decide (x + 4 ≤ r.period) | none => false)
     | none => false)

/-! ### Check 14 -/

/-- Whether a bundle reads a link queue, a vector register, a plane or a flag (detector 0x0103). -/
def readsArrays (b : RawBundle) : Bool :=
  !(headsRead b).isEmpty || vectorOp b != 0 || matrixOp b != 0 || isFlagWait (syncOp b)

/-- The dynamic checks at issue, in slot order. -/
def issueCheck (d : Device) (c : CtxId) (w : SeqId) (b : RawBundle) : Option Byte :=
  let q := getSeq d w
  (scalarIssue d c q b).orElse fun _ => (vectorIssue d c b).orElse fun _ =>
    (if loadOp b != 0 then xFault d c (slotXfer d c w false b) else none).orElse fun _ =>
      (if storeOp b != 0 then xFault d c (slotXfer d c w true b) else none).orElse fun _ => syncIssue d c w b

/-! ### The verdict on a sequencer's tick -/

/-- What a sequencer does on the present tick. -/
inductive Verdict where
  /-- It presents nothing: idle, ended, halted, or between a taken branch and its target. -/
  | none
  | halt (code : Byte)
  /-- A wait, with what is unmet; a bar may send its arrival. -/
  | wait (un : List Unmet) (arrives : Bool)
  | issue
  /-- It would use variable items that are late, with the causes of their lateness: the domain stalls (R67, R77). -/
  | late (causes : List (Fin 7))
deriving DecidableEq, Repr, Inhabited

/-- The limit of the wait watchdog (R244). -/
def watchdogOf (d : Device) (c : CtxId) : Nat := match progOf d c with | some g => g.watchdog.toNat | none => 0

/-- A wait, or the halt of a watchdog that reaches its limit. -/
def waitOrExpire (d : Device) (c : CtxId) (q : Sequencer) (un : List Unmet) (arrives : Bool) : Verdict :=
  let limit := watchdogOf d c
  if limit != 0 && un.any (fun x => !x.2) && decide (limit ≤ q.wdCount + 1) then .halt 0x0B else .wait un arrives

/-- The rest of the verdict once the static checks have passed. -/
def issueVerdict (d : Device) (c : CtxId) (w : SeqId) (b : RawBundle) : Verdict :=
  let q := getSeq d w
  let un := bundleUnmet d c w b
  let bar := syncOp b = 0x10 && barWaits d w b
  let late := (issueHeads d c w b).filterMap Head.lateness
  if !un.isEmpty then waitOrExpire d c q (if bar then un ++ [(.barrier, false)] else un) false
  else if bar then waitOrExpire d c q [(.barrier, false)] (!q.barSent)
  else if !late.isEmpty then .late late
  else match issueCheck d c w b with
    | some code => .halt code
    | none => if readsArrays b && armedHere d c w 0x103 then .halt 0x0C else if windowLate d c b then .late [6] else .issue

def verdict (d : Device) (c : CtxId) (w : SeqId) : Verdict :=
  let q := getSeq d w
  if !presents d c w then .none
  else match fetchCheck d c w with
    | some code => .halt code
    | none => match injectedCheck d c w with
      | some code => .halt code
      | none =>
        let b := fetchBundle d c q
        match (if q.shown then none else staticCheck d c w b) with
        | some code => .halt code
        | none => issueVerdict d c w b

/-! ### Carrying a verdict out -/

/-- The bundle does not issue; its sequencer tries it again on the next tick (R66, R244). -/
def applyWait (d : Device) (c : CtxId) (w : SeqId) (un : List Unmet) (arrives : Bool) : Device :=
  let t := tickOf d c
  let d := if arrives then barArrive d c w (fetchBundle d c (getSeq d w)) else d
  modSeq d w fun q =>
    { q with st := .waiting, lastPc := q.pc.setWidth 12, cause := (match un with | x :: _ => x.1 | [] => .none), waitLocal := un.any (·.2),
             wdCount := if un.any (fun x => !x.2) then q.wdCount + 1 else 0, shown := true, nextTick := t + 1 }

/-- The bundle issues: every slot reads the state before it (R60). -/
def applyIssue (d0 : Device) (c : CtxId) (w : SeqId) (b : RawBundle) : Device :=
  let d := memEffect d0 d0 c w b
  let d := if scalarOp b = 0xC0 then agFetchEffect d0 d c w b else d
  let d := syncEffect d0 d c w b
  let d := vectorEffect d c w b
  let d := matrixEffect d c w b
  let d := scalarEffect d0 d c w b
  advanceStream d0 d c w b

def applyVerdict (d : Device) (c : CtxId) (w : SeqId) : Device :=
  match verdict d c w with
  | .wait un a => applyWait d c w un a
  | .issue => applyIssue d c w (fetchBundle d c (getSeq d w))
  | _ => d

/-! ### Units of a core before its sequencers -/

/-- Whether a unit of a core has its work of the present tick still to do. -/
def unitsDue (d : Device) (c : CtxId) : Bool := unitWork d c false || unitWork d c true || feedDue d c || vecDue d c || drainDue d c

/-- The units' work of the present tick, all of it: used to judge the tick ahead. -/
def settleUnits (d : Device) (c : CtxId) : Device :=
  let d := if unitWork d c false then unitStep d c false else d
  let d := if unitWork d c true then unitStep d c true else d
  let d := if feedDue d c then feedTick d c else d
  let d := if vecDue d c then vecTick d c else d
  if drainDue d c then drainTick d c else d

/-! ### Halts of a core or context on one tick (R68, R80, R81, R183) -/

/-- One halt condition met: the event it records, if any, and the FLAG_DRIFT word of a monotonic check. -/
structure HaltReq where
  code  : Byte
  seq   : Fin 4
  fetch : BitVec 12
  mask  : BitVec 4
  det   : Option (BitVec 16)
  drift : Option W64
deriving DecidableEq, Repr, Inhabited

/-- The detector of a halt reason met by a bundle. -/
def haltDet (code : Byte) : Option (BitVec 16) :=
  if code = 0x0D then some 0x104 else if code = 0x0C then some 0x103 else if isCheck code then some (code.setWidth 16) else none

def bundleHalt (d : Device) (c : CtxId) (w : SeqId) (code : Byte) : HaltReq :=
  let q := getSeq d w
  let det := if fetchCheck d c w = none && injectedCheck d c w = some code then some (code.setWidth 16) else haltDet code
  { code := code, seq := w.seq, fetch := fetchPc d c q, mask := 1 <<< w.seq.val, det := det,
    drift := if code = 0x07 then syncDrift d c q (fetchBundle d c q) else none }

/-- The sequencers of a core or context in ascending order, each seeing what the lower ones did. -/
def judgeSeqs (d : Device) (c : CtxId) : List HaltReq × Device × List (SeqId × Verdict) :=
  (seqsOf d c).foldl (fun (a : List HaltReq × Device × List (SeqId × Verdict)) n =>
    let w : SeqId := { core := c.core, seq := n }
    let v := verdict a.2.1 c w
    match v with
    | .halt code => (a.1 ++ [bundleHalt a.2.1 c w code], a.2.1, a.2.2 ++ [(w, v)])
    | _ => (a.1, applyVerdict a.2.1 c w, a.2.2 ++ [(w, v)])) ([], d, [])

/-- The bundle that first raised a flag of a mask on this tick. -/
def trappedBy (s : Sticky) (mask : Byte) : Option (BitVec 12) := (s.raised.find? fun x => x.1 &&& mask != 0).map (·.2)

/-- A numeric trap: a flag of the mask raised on this tick in sealed mode (R183). DESIGN CHOICE: where several operations raise
one on the tick, the record names the array's before the vector engine's, and a feed's before a drain's (log entry 79). -/
def trapReq (d : Device) (c : CtxId) : Option HaltReq :=
  let u := getUnit d c
  match progOf d c with
  | none => none
  | some g =>
    let mask : Byte := g.traps.setWidth 8
    let req := fun (pc : BitVec 12) =>
      ({ code := 0x17, seq := execSeq c, fetch := pc, mask := 1 <<< (execSeq c).val, det := some 0x17, drift := none } : HaltReq)
    if sealedRun d c then ((trappedBy u.matrix.flags mask).or (trappedBy u.vector.flags mask)).map req else none

/-- Whether a load is in flight toward a link queue; one that fills on the present tick still is. -/
def loadToQueue (d : Device) (c : CtxId) : Bool :=
  let u := getUnit d c
  let lq := fun (x : LoadDest) => match x with | .lq _ _ => true | _ => false
  let rq := fun (r : Request) => match r.kind with | .load x _ => lq x | _ => false
  let filled := (List.finRange 2).any fun q => (lqOf d c (finMod 4 q.val)).entries.any fun e => e.filledAt = some (tickOf d c)
  filled || u.fills.any (fun f => lq f.dest) || u.rqueue.any rq || u.flights.any fun f => rq f.req

/-- Whether an entry of a link queue of a core or context was popped on the present tick: what waits for its room can
go on (R66). -/
def poppedNow (d : Device) (c : CtxId) : Bool :=
  (List.finRange 4).any fun q => (lqOf d c q).popTick = tickOf d c && decide (0 < (lqOf d c q).pops)

/-- The mutual-wait check on the state after the tick's sequencers (R68, R160): a stream waits, or a feed or a drain
while every stream has ended. DESIGN CHOICE: when both a feed and a drain wait, the record names the feed's bundle (log
entry 26). -/
def mutualWait (d : Device) (c : CtxId) : Option HaltReq :=
  let u := getUnit d c
  let seqs := (seqsOf d c).map fun n => (n, getSeq d { core := c.core, seq := n })
  let live := seqs.filter fun x => x.2.st != .idle
  let waits := live.filter fun x => x.2.st = .waiting
  let unitOk := fun (x : Option RepeatUnit) => match x with | some y => y.waiting && y.waitLocal | none => true
  let feedOk := match u.matrix.feed with | some g => g.waiting | none => true
  let drainOk := match u.matrix.drains with | x :: _ => x.waiting | [] => true
  let vecOk := match u.vector.op with | some o => o.waiting | none => true
  let array := u.matrix.feed.isSome || !u.matrix.drains.isEmpty
  let stuck := live.all (fun x => x.2.st = .waiting || x.2.st = .ended) && (!waits.isEmpty || (array && !live.isEmpty)) &&
    waits.all (fun x => x.2.waitLocal) && !loadToQueue d c && !poppedNow d c && unitOk u.ldUnit && unitOk u.stUnit && feedOk && drainOk && vecOk
  let mask := waits.foldl (fun (m : BitVec 4) x => m ||| ((1 : BitVec 4) <<< x.1.val)) 0
  let named := fun (s : Fin 4) (pc : BitVec 12) (extra : BitVec 4) =>
    ({ code := 0x08, seq := s, fetch := pc, mask := mask ||| extra, det := some 0x08, drift := none } : HaltReq)
  let byUnit := fun (s : Fin 4) (pc : BitVec 12) => some (named s pc (1 <<< s.val))
  if !stuck then none
  else match u.matrix.feed, u.matrix.drains, waits with
    | some g, _, _ => byUnit g.seq g.pc
    | none, x :: _, _ => byUnit x.seq x.pc
    | none, [], x :: _ => some (named x.1 (fetchPc d c x.2) 0)
    | none, [], [] => none

/-- An armed detector 0x0103 meets a read by a repeat unit that pops a queue, a feed, a drain or a vector operation in progress. -/
def unitParity (d : Device) (c : CtxId) : Option HaltReq :=
  if !isArmed d 0x103 (coreUnit c) then none
  else
    let u := getUnit d c
    let req := fun (s : Fin 4) (pc : BitVec 12) => ({ code := 0x0C, seq := s, fetch := pc, mask := 1 <<< s.val, det := some 0x103, drift := none } : HaltReq)
    let pops := match u.stUnit with | some x => unitWork d c true && !(unitHeads d c x).isEmpty && (xUnmet d c (unitXfer x) 0).isEmpty | none => false
    if pops then u.stUnit.map fun x => req x.seq x.pc
    else if feedDue d c then u.matrix.feed.map fun g => req g.seq g.pc
    else if vecDue d c then u.vector.op.map fun o => req o.seq o.pc
    else if drainDue d c then u.matrix.drains.head?.map fun x => req x.seq x.pc
    else none

/-- Every halt condition that a core or context meets on the present tick, in order of preference within a
sequencer. -/
def haltReqs (d : Device) (c : CtxId) : List HaltReq :=
  if isHalted d c || !executing d c then []
  else
    let s := settleUnits d c
    let (l, after, _) := judgeSeqs s c
    let transfer := (transferHalts d c).map fun x => ({ code := x.1, seq := x.2.1, fetch := x.2.2.1, mask := x.2.2.2, det := none, drift := none } : HaltReq)
    let unit := fun (store : Bool) => match unitFault d c store with
      | some (e, u) => [({ code := e, seq := u.seq, fetch := u.pc, mask := 1 <<< u.seq.val, det := haltDet e, drift := none } : HaltReq)]
      | none => []
    let parity := (unitParity d c).toList
    let l := if armedLeft d 0x103 (coreUnit c) ≤ parity.length then l.filter fun x => x.det != some 0x103 else l
    let l := l ++ transfer ++ unit false ++ unit true ++ parity ++ (trapReq s c).toList
    if l.isEmpty then (mutualWait after c).toList else l

/-- The request recorded: of the lowest sequencer, the first. -/
def lowestReq : List HaltReq → Option HaltReq
  | [] => none
  | x :: rest => match lowestReq rest with
    | some y => if y.seq < x.seq then some y else some x
    | none => some x

/-- Halts a core or context for the conditions met on the present tick. -/
def doHalt (d : Device) (c : CtxId) (l : List HaltReq) : Device :=
  match lowestReq l with
  | none => d
  | some x =>
    let mask := l.foldl (fun m y => m ||| y.mask) 0
    let d := forAll l d fun d y => match y.det with
      | some n => detectAt d (if n.toNat < 0x100 then { checkEvent d c y.code y.fetch with det := n } else { checkEvent d c y.code 0 with det := n })
      | none => d
    let d := forAll (l.filterMap (·.drift)) d fun d v => modCore d c.core (noteDrift · v)
    let d := haltWith d c x.code x.seq x.fetch mask
    dropFailed d c

/-- The halts of a core or context, taken if there are any. -/
def takeHalts (d : Device) (c : CtxId) : Option Device :=
  let l := haltReqs d c
  if l.isEmpty then none else some (doHalt d c l)

/-! ### Presenting (R57) -/

/-- Whether the domain's halt reaches the core or context on the present tick (R40). -/
def mustAbort (d : Device) (c : CtxId) : Bool :=
  match runOf d c with
  | some r => match r.abortAt with | some t => decide (t ≤ r.tick) | none => false
  | none => false

/-- Whether it is a sequencer's turn on the present tick: units and lower sequencers have done their part. -/
def myTurn (d : Device) (c : CtxId) (w : SeqId) : Bool :=
  executing d c && !isHalted d c && !mustAbort d c && presents d c w && !unitsDue d c &&
    (seqsOf d c).all fun n => decide (w.seq ≤ n) || !presents d c { core := c.core, seq := n }

/-- A sequencer's tick: the halts of its core or context come first. -/
def present (d : Device) (w : SeqId) : Device :=
  let c := ctxOf d w
  if !myTurn d c w then d
  else match takeHalts d c with
    | some d => d
    | none => applyVerdict d c w

/-- Whether the next bundle of a sequencer holds an operation; a bundle that holds none, or cannot be
fetched, answers to every operation. -/
def holdsOp (d : Device) (w : SeqId) (hit : RawBundle → Bool) : Bool :=
  let c := ctxOf d w
  let q := getSeq d w
  let b := fetchBundle d c q
  (fetchCheck d c w).isSome || (earlyChecks (isSplit d c.core) (w.seq.val % 2 = 1) b).isSome || idleBundle b || hit b

/-- The row of an operation: the sequencer presents its next bundle when it holds that operation. -/
def presentOp (hit : RawBundle → Bool) (w : SeqId) (s : State) : Host.Outcome State Fault Refusal :=
  onDev (fun d => if holdsOp d w hit then present d w else d) s

/-! ### Repeat transfers and the watchdog -/

/-- REPEAT_TRANSFER: one tick of a repeat unit; a transfer that fails its checks halts the core. -/
def repeatTransfer (d : Device) (c : CtxId) (store : Bool) : Device :=
  if !unitDue d c store || mustAbort d c then d
  else match takeHalts d c with
    | some d => d
    | none => unitStep d c store

/-- VECTOR_RESULT: one tick of the engine. On the tick of a halt it takes no step, as a repeat unit makes no transfer (R79, R102,
R189); only a trap comes from the tick's own results, which stand (R183). -/
def vectorResult (d : Device) (c : CtxId) : Device :=
  if !vecDue d c || mustAbort d c && !isHalted d c then d
  else if (haltReqs d c).all (·.code = 0x17) then vecTick d c
  else (takeHalts d c).getD d

def execVectorResult (c : CtxId) (s : State) : Host.Outcome State Fault Refusal := onDev (fun d => vectorResult d c) s

def execRepeatTransfer (c : CtxId) (store : Bool) (s : State) : Host.Outcome State Fault Refusal := onDev (fun d => repeatTransfer d c store) s

/-- WAIT_WATCHDOG_EXPIRY: a sequencer's count of non-local waits reaches the limit (R244). -/
def watchdogExpires (d : Device) (w : SeqId) : Device :=
  let c := ctxOf d w
  if executing d c && !mustAbort d c && (haltReqs d c).any fun x => x.code = 0x0B && x.seq = w.seq then (takeHalts d c).getD d else d

def execWaitWatchdogExpiry (w : SeqId) (s : State) : Host.Outcome State Fault Refusal := onDev (fun d => watchdogExpires d w) s

end Sys2Proof.Machine
end

