-- ==== Sys2Proof/Machine/Snapshot.lean ====
section
/-! DEFINITION. The saved state of a stall domain (R256–R258, R395, R491–R493): writing an image, checking one, and
restoring it. Bytes that R492 leaves to the implementation carry what log entry 40 says. -/

namespace Sys2Proof.Machine

/-- The first n bytes, zeros after the end. -/
def padTo (n : Nat) (l : List Byte) : List Byte := (l ++ List.replicate (n - l.length) 0).take n

/-- A tick as a signed offset of n bytes from the capture tick (R491). -/
def offBytes (n tick c : Nat) : List Byte := leBytes n ((2 ^ (8 * n) + tick - c) % 2 ^ (8 * n))
/-- The tick that such an offset names. -/
def offTick (n v c : Nat) : Nat := if v < 2 ^ (8 * n - 1) then c + v else c + v - 2 ^ (8 * n)

/-! ### What is in transport completes first (R491) -/

/-- A transfer in transport takes effect in its core's or context's state at once; memories are no part of the image. -/
def completeFlight (d : Device) (c : CtxId) (f : Flight) : Device :=
  match f.req.kind with
  | .load dest bc =>
    let data := if f.arrived || f.req.predOff then f.data
      else match padTarget d c f with
        | some (t, off) => loadData (if bc then .ldbc else .ld) (readPad d t off f.req.bytes)
        | none => loadData (if bc then .ldbc else .ld) (memAct d c f.req.addr.toNat f.req.bytes none).1
    fillDest d c dest (if f.req.predOff then 0 else data) f.req.entryTick true f.cause
  | .flag g delta => pendAdd d (ctxOfScore f.req.addr.toNat) g delta
  | .message chan n us _ => match routeOf d c chan with
    | some r =>
      if r.kind = 1 then deliverFlag (modMq d r.target r.queue.val fun q => place q us chan (scoreOf c) (tickOf d c) none) r.target r.fadd r.fper r.tflag n
      else if r.kind = 3 then sendExternal d c chan us
      else if n = 0 then d else deliverFlag d r.target r.fadd r.fper r.tflag n
    | none => d
  | _ => d

/-- Message units that wait at the edge of a scratchpad are read. -/
def completeUnits (d : Device) (c : CtxId) : Device :=
  forAll (streamOf d c).edge d fun d e => match e.send with
    | some x => giveUnit d c x (leBits 512 (readPad d c e.item.offset 64))
    | none => d

/-- The data of a fill with its second half (R213). -/
def wholeFill (d : Device) (c : CtxId) (f : Fill) : Entry :=
  match f.rest with
  | some off => f.data ||| (bytesEntry (readPad d c off 128) <<< 1024)
  | none => f.data

/-- Everything in transport toward a core or context completes. -/
def completeCtx (d : Device) (c : CtxId) : Device :=
  let d := completeUnits d c
  let u := getUnit d c
  let d := forAll u.fills d fun d f => fillDest d c f.dest (wholeFill d c f) f.issued true 5
  let d := forAll u.flights d fun d f => completeFlight d c f
  let d := forAll u.credits d fun d r => if r.inbound.isNone then applyCredit d c r.chan r.units else d
  match u.vector.op with
  | some o => forAll o.results d fun d r => applyResult d c o r
  | none => d

/-- Flag signals and messages in transport toward the domain from a core or context outside it. -/
def completeToward (d : Device) (i : DomId) (c : CtxId) : Device :=
  if domOf d c = some i then d
  else forAll ((getUnit d c).flights.filter fun f => match f.req.kind with
      | .flag _ _ | .message _ _ _ _ => domOf d (ctxOfScore f.req.addr.toNat) = some i && unitsRead d c f
      | _ => false) d fun d f => completeFlight d c f

/-- The flags of messages whose units are still to be added to an anchor buffer here rise (R271, R491). -/
def completeAdds (d : Device) (c : CtxId) : Device :=
  forAll ((getUnit d c).adds.filterMap (·.flag)) d fun d x => pendAdd d c x.1 x.2

/-- The device as an image sees the domain: every transfer in transport toward it has completed (R491). -/
def completeDomain (d : Device) (i : DomId) : Device :=
  let d := forAll (domCtxs d i) d completeCtx
  let d := forAll allCtxs d fun d c => completeToward d i c
  let d := forAll (domCtxs d i) d completeAdds
  forAll (domCtxs d i) d fun d c => modCore d c.core fun k => settleVregs (settleFlags k)

/-! ### Records of one core or context (R492) -/

/-- The sequencers of a core record: access, then execute. -/
def recSeqs (c : CtxId) : List (Fin 4) := [accSeq c, execSeq c]

def seqRecord (q : Sequencer) : List Byte :=
  padTo 64 (leBytes 2 q.pc.toNat ++ [BitVec.ofNat 8 (seqCode q.st), BitVec.ofNat 8 (causeCode q.cause), q.winLo.setWidth 8, q.winHi.setWidth 8,
    BitVec.ofNat 8 q.loops.length, 0] ++ leBytes 4 q.wdCount ++ [0, 0, 0, 0] ++
    q.loops.reverse.flatMap fun l => leBytes 2 l.start.toNat ++ leBytes 2 l.endAddr.toNat ++ leBytes 4 l.remaining.toNat)

def scalarRecord (q : Sequencer) : List Byte :=
  q.sregs.toList.flatMap (fun w => leBytes 8 w.toNat) ++ q.pregs.toList.flatMap fun w => leBytes 8 w.toNat

/-- The entry of a link queue that a slot holds. -/
def slotEntry (x : LinkQueue) (s : Nat) : Option LqEntry := x.entries[(s + 16 - x.headSlot.toNat) % 16]?

def lqRecord (x : LinkQueue) : List Byte :=
  padTo 16 [x.headSlot.setWidth 8, BitVec.ofNat 8 x.entries.length, BitVec.ofNat 8 (x.entries.countP fun e => e.filledAt.isSome)] ++
    (List.range 16).flatMap fun s => match slotEntry x s with
      | some e => leBytes 256 (if e.filledAt.isSome then e.data.toNat else 0)
      | none => List.replicate 256 0

/-- A generator's descriptor in the layout of R105. -/
def agDescriptor (g : AddrGen) : List Byte :=
  leBytes 8 g.base.toNat ++ g.count.toList.flatMap (fun w => leBytes 4 w.toNat) ++ g.stride.toList.flatMap (fun w => leBytes 4 w.toNat) ++
    leBytes 8 (g.levels.toNat + if g.exhaust then 8 else 0)

def agRecord (g : AddrGen) : List Byte :=
  padTo 64 (agDescriptor g) ++ g.idx.toList.flatMap (fun w => leBytes 4 w.toNat) ++ ([if g.done then 1 else 0, if g.staged.isSome then 1 else 0] : List Byte) ++
    leBytes 6 0 ++ leBytes 64 (match g.staged with | some (x, _) => x.toNat | none => 0)

/-- Mark and sending channel of a message that came through the inbound table. -/
def inboundMark (x : Option (BitVec 18 × Byte)) : List Byte := match x with | some (_, ch) => [1, ch] | none => [0, 0]

def mqDescRecord (m : MqDesc) : List Byte :=
  [if m.pad then 1 else 0, m.start.setWidth 8, BitVec.ofNat 8 m.len, m.chan] ++ leBytes 2 m.src.toNat ++
    inboundMark m.inbound

/-- A class-2 check that is pending at the end of tick t: its flag, what the sequencer number, an fwsub's subtraction, a retried frame
and the ticks to its due tick make, and the value that the flag has to reach (R238, log entry 89). -/
def checkRecord (t : Nat) (x : VarItem) : List Byte :=
  match x.ref with
  | .extFlag _ s f need sub =>
    [f, BitVec.ofNat 8 (s.val + (if sub.isSome then 4 else 0) + (if x.cause = 3 then 8 else 0) + (x.due - t) % 8 * 16)] ++ leBytes 4 need.toNat
  | _ => []

/-- The checks of a core or context that are pending, at most eight. -/
def pendingChecks (d : Device) (c : CtxId) : List VarItem :=
  match runOf d c with
  | none => []
  | some r => (r.items.filter fun x => match x.ref with | .extFlag e _ _ _ _ => e = c | _ => false).take 8

def mqRecord (checks : List Byte) (q : MsgQueue) : List Byte :=
  padTo 16 ([q.wp.setWidth 8, q.rp.setWidth 8, BitVec.ofNat 8 q.occ, BitVec.ofNat 8 q.descs.length] ++ checks) ++
    padTo 512 (q.descs.flatMap mqDescRecord) ++ q.units.toList.flatMap fun u => leBytes 64 u.toNat

/-- The queues of a core or context; two pending checks stand in the bytes of each header that the layout leaves open. -/
def mqsRecord : List Byte → List MsgQueue → List Byte
  | _, [] => []
  | checks, q :: rest => mqRecord (checks.take 12) q ++ mqsRecord (checks.drop 12) rest

def planesRecord (split : Bool) (m : MatrixUnit) : List Byte :=
  let ps := m.planes.toList
  padTo 16 (ps.map (fun p => BitVec.ofNat 8 (planeCode p.st)) ++ (ps.map fun p => if p.vecFed then 1 else 0) ++ ps.map fun p => p.fmtA.setWidth 8) ++
    ps.flatMap fun p => (p.cells.toList.take (arrayRows split)).flatMap fun r => r.toList.flatMap fun w => leBytes 8 w.toNat

/-- The parts of a core's tables that a core or context names. -/
def ownPart {α : Type} (split : Bool) (ctx : Fin 2) (l : List α) : List α :=
  if split then (l.drop (ctx.val * (l.length / 2))).take (l.length / 2) else l

def vectorRecord (k : Core) (c : CtxId) (u : CtxUnit) : List Byte :=
  let eps := ownPart k.split c.ctx k.eps.toList
  let valid := (List.range eps.length).foldl (fun a n => if (eps.getD n none).isSome then a + 2 ^ n else a) 0
  eps.flatMap (fun e => leBytes 256 (e.getD 0).toNat) ++
    (ownPart k.split c.ctx k.rowAcc.toList).flatMap (fun r => leBytes 64 (rowEntry r).toNat) ++
    (ownPart k.split c.ctx k.srState.toList).flatMap (fun g => leBytes 4 g.toNat) ++
    padTo 16 ([u.matrix.flags.val, u.vector.flags.val] ++ leBytes 2 valid)

/-! ### Unit state (R492) -/

/-- A slot value, the remaining count, progress, predicate, and two words that this model adds. -/
def unitRecord (slot pc remaining progress extra pred : Nat) : List Byte :=
  leBytes 10 slot ++ leBytes 2 pc ++ leBytes 4 remaining ++ leBytes 4 progress ++ leBytes 4 extra ++ leBytes 8 pred

def repeatRecord (u : Option RepeatUnit) : List Byte :=
  match u with
  | none => List.replicate 32 0
  | some u => unitRecord u.slot.toNat u.pc.toNat u.remaining (msRep u.slot - u.remaining) u.seq.val (if u.predOff then 0 else 1)

/-- Fields of the matrix slot (R99). -/
def matrixValue (f : MatrixFields) : Nat :=
  f.opc.toNat * 2 ^ 56 + f.srcA.toNat * 2 ^ 51 + f.srcB.toNat * 2 ^ 46 + f.dst.toNat * 2 ^ 41 + f.fmtA.toNat * 2 ^ 37 + f.fmtB.toNat * 2 ^ 33 +
    (if f.exact then 2 ^ 32 else 0) + f.rows.toNat * 2 ^ 25 + f.cols.toNat * 2 ^ 19 + f.anchor.toNat * 2 ^ 11 + f.klen.toNat

def feedRecord (g : Option Feed) : List Byte :=
  match g with
  | none => List.replicate 32 0
  | some g => unitRecord (matrixValue g.f) g.pc.toNat (passSteps g.f - g.k) g.k ((if g.scaled then 1 else 0) + 2 * g.subTicks) 1

def drainRecord (m : MatrixUnit) (p : Fin 2) (c : Nat) : List Byte :=
  match m.drains.find? fun x => x.plane = p with
  | none => List.replicate 32 0
  | some x =>
    unitRecord (matrixValue x.f) x.pc.toNat (drainEntries (vget m.planes p).vecFed x.exact x.rows.toNat - x.next) x.next (leVal (offBytes 4 x.tf c)) 1

/-- Fields of the vector slot (R98). -/
def vectorValue (f : VectorFields) : Nat :=
  f.opc.toNat * 2 ^ 72 + f.vd.toNat * 2 ^ 67 + f.va.toNat * 2 ^ 62 + f.vb.toNat * 2 ^ 57 + f.vc.toNat * 2 ^ 52 + f.pred.toNat * 2 ^ 49 +
    (if f.pneg then 2 ^ 48 else 0) + f.type.toNat * 2 ^ 44 + f.eps.toNat * 2 ^ 40 + f.mode.toNat * 2 ^ 32 + f.imm.toNat

def vopRecord (o : Option VOp) : List Byte :=
  match o with
  | none => List.replicate 32 0
  | some o => unitRecord (vectorValue o.f) o.pc.toNat (o.total - o.next) o.next (o.made % 2 ^ 16 + o.acc.length % 2 ^ 16 * 2 ^ 16) o.lanes.toNat

/-- Slot of a link queue that a reserved entry occupies. -/
def entrySlot (x : LinkQueue) (id : Nat) : Nat := (x.headSlot.toNat + x.entries.findIdx fun e => e.id = id) % 16

/-- Whether a send on an external channel still waits for its credit (R273). -/
def creditLate (d : Device) (c : CtxId) (r : Request) : Bool :=
  match r.kind, runOf d c with
  | .message chan n _ _, some x => x.items.any fun i => i.ref = .credit c chan n && i.due = r.entryTick && i.ready.isNone
  | _, _ => false

/-- A request-queue entry: its operation and target in bytes 0–31, data from byte 32. -/
def requestRecord (d : Device) (c : CtxId) (r : Request) (t : Nat) : List Byte :=
  let (k, a, b, w, data) := match r.kind with
    | .load (.lq q id) bc => (if bc then 2 else 1, q.val, entrySlot (lqOf d c q) id, 0, [])
    | .load (.sreg s x) bc => (if bc then 4 else 3, s.val, x.val, 0, [])
    | .load (.staging g) _ => (5, g.val, 0, 0, [])
    | .store e => (6, 0, 0, 0, leBytes 256 e.toNat)
    | .accumulate fl e => (if fl then 8 else 7, 0, 0, 0, leBytes 256 e.toNat)
    | .flag f v => (9, f.toNat, 0, v.toNat, [])
    | .message ch n us off => (10, ch.toNat, n, off, us.flatMap fun u => leBytes 64 u.toNat)
  let bits := r.seq.val + (if r.predOff then 8 else 0) + (if r.valid then 16 else 0) + if creditLate d c r then 32 else 0
  padTo 288 (padTo 32 ([BitVec.ofNat 8 k, BitVec.ofNat 8 a, BitVec.ofNat 8 b, BitVec.ofNat 8 bits] ++ leBytes 2 r.pc.toNat ++ leBytes 2 r.bytes ++
    leBytes 8 r.addr.toNat ++ leBytes 4 w ++ leBytes 4 r.slotsLeft ++ offBytes 8 r.entryTick t) ++ data)

/-- Items in the order in which slots would take them. -/
def landOrder : List LandItem → List LandItem
  | [] => []
  | i :: rest =>
    let l := landOrder rest
    (l.takeWhile fun x => landBefore x i) ++ i :: l.dropWhile fun x => landBefore x i

/-- The items that an image carries, and those beyond the landing buffer, which count as not granted. -/
def landSplit (d : Device) (c : CtxId) : List LandItem × List LandItem :=
  let l := landOrder (streamOf d c).landing
  (l.take (landSize d c), l.drop (landSize d c))

/-- The instance and transfer from which a descriptor goes on. -/
def progFrom (d : Device) (c : CtxId) (k : Nat) : Nat × Nat :=
  let p := progAt d c k
  let here := (landSplit d c).2.filter fun i => i.desc = k && !i.rotation
  let there := (domCtxs d (((domOf d c)).getD default)).flatMap fun e => (landSplit d e).2.filter fun i => i.desc = k && i.rotation && i.sender = c
  (here ++ there).foldl (fun (a : Nat × Nat) i => if i.inst < a.1 || (i.inst = a.1 && i.xfer < a.2) then (i.inst, i.xfer) else a) (p.inst, p.xfer)

def streamRecord (d : Device) (c : CtxId) (k : Nat) : List Byte :=
  let s := streamOf d c
  let (inst, xfer) := progFrom d c k
  let rows := (List.finRange 5).foldl (fun a r => if (vget s.lastGrant r).val = k then a + 2 ^ r.val else a) (if s.lastWrite.val = k then 32 else 0)
  padTo 16 (leBytes 4 inst ++ leBytes 4 xfer ++ [BitVec.ofNat 8 rows])

/-- A landing entry; bit 15 of its descriptor word marks a rotation arrival. -/
def landRecord (i : LandItem) (t : Nat) : List Byte :=
  leBytes 64 i.data.toNat ++ leBytes 2 (i.desc + if i.rotation then 2 ^ 15 else 0) ++ leBytes 2 i.inst ++ leBytes 4 i.xfer ++ offBytes 8 i.lambda t

/-- An outbound entry; bits of its descriptor word mark data read, a grant, and an acknowledgement. -/
def outRecord (o : OutItem) (t : Nat) : List Byte :=
  leBytes 64 (o.data.getD 0).toNat ++
    leBytes 2 (o.desc + (if o.granted then 2 ^ 15 else 0) + (if o.acked.isSome then 2 ^ 14 else 0) + if o.data.isSome then 2 ^ 13 else 0) ++
    leBytes 2 o.inst ++ leBytes 4 o.xfer ++ offBytes 8 (if o.granted then o.ackDue else o.slot) t

def unitsRecord (d : Device) (c : CtxId) (t : Nat) : List Byte :=
  let u := getUnit d c
  let n := if isSplit d c.core then 2 else 1
  repeatRecord u.ldUnit ++ repeatRecord u.stUnit ++ feedRecord u.matrix.feed ++ drainRecord u.matrix 0 t ++ drainRecord u.matrix 1 t ++
    vopRecord u.vector.op ++
    padTo (2304 / n) (u.rqueue.flatMap fun r => requestRecord d c r t) ++
    (List.range (64 / n)).flatMap (streamRecord d c) ++
    padTo (2560 / n) ((landSplit d c).1.flatMap fun i => landRecord i t) ++
    padTo (1280 / n) (u.stream.outbound.flatMap fun o => outRecord o t)

/-! ### The image -/

/-- Queues that a core or context has: a context has LQ0 and LQ2 as it names them. -/
def recQueues (split : Bool) : List (Fin 4) := if split then [0, 2] else [0, 1, 2, 3]

/-- The body of a core record. -/
def coreBody (d : Device) (c : CtxId) (t : Nat) : List Byte :=
  let k := getCore d c.core
  let sp := k.split
  let sents := (k.monos.filter fun m => m.ctx = c.ctx).flatMap fun m => leBytes 4 m.sent.toNat
  (recSeqs c).flatMap (fun s => seqRecord (vget k.seqs s)) ++
    (recSeqs c).flatMap (fun s => scalarRecord (vget k.seqs s)) ++
    (ownPart sp c.ctx k.vregs.toList).flatMap (fun v => leBytes 256 v.toNat) ++
    (recQueues sp).flatMap (fun q => lqRecord (lqOf d c q)) ++
    (ownPart sp c.ctx k.ags.toList).flatMap agRecord ++
    (ownPart sp c.ctx k.flags.toList).flatMap (fun f => leBytes 4 f.toNat) ++ padTo (if sp then 64 else 128) sents ++
    mqsRecord ((pendingChecks d c).flatMap (checkRecord t)) (ownPart sp c.ctx k.mqs.toList) ++ ownPart sp c.ctx k.credit.toList ++
    planesRecord sp (getUnit d c).matrix ++ vectorRecord k c (getUnit d c) ++ unitsRecord d c t

/-- Length of that body. -/
def coreBodyLen (split : Bool) : Nat := if split then 102656 else 204320

def recHead (ty id len : Nat) : List Byte := padTo 16 (leBytes 2 ty ++ leBytes 2 id ++ leBytes 4 len)

/-- The body of the domain record; tick c ended at the time given. -/
def domBody (r : Run) (paced : Bool) (now : Nat) : List Byte :=
  let l := r.ledger.toList
  l.flatMap (fun w => leBytes 8 w.toNat) ++ leBytes 8 r.miss.toNat ++ leBytes 8 r.mayvary.toNat ++ leBytes 8 r.sched ++
    leBytes 8 (r.sched + (l.take 6).foldl (fun a w => a + w.toNat) 0) ++ leBytes 8 (if paced then now + r.elapsed - r.paceStart else 0) ++
    (List.finRange 16).flatMap fun k => leBytes 4 (match r.colls.find? fun x => x.desc = k with | some x => x.inst | none => vget r.collNext k)

def barBodyLen (n : Nat) : Nat := (32 + 8 * n + 15) / 16 * 16

/-- Ticks until the check of a participant's bar or barout on an extended context; zero when it has none (R253). -/
def checkLeft (r : Run) (k : Fin 64) (p : BarPart) (t : Nat) : Nat :=
  match r.items.find? fun x => match x.ref with | .fabRelease n _ w => n = k && w = partSeq p.who | _ => false with
  | some x => x.due - t
  | none => 0

/-- Whether a participant waits with a bar on a context whose arrival it has sent. -/
def barWaiting (d : Device) (k : Fin 64) (p : Participant) : Bool :=
  let q := getSeq d (partSeq p)
  let b := fetchBundle d p.ctx q
  q.st = .waiting && q.barSent && syncOp b = 0x10 && syBctx b = k

/-- The body of a barrier record (R493). DESIGN CHOICE: bytes 5 to 7 of an entry and byte 18, which the layout leaves open,
hold whether the release of the oldest incomplete round has reached the participant, the ticks to its check, whether its waiting bar
has sent its arrival, and whether a refresh window opens on the next tick (log entry 40). -/
def barBody (d : Device) (r : Run) (k : Fin 64) (b : Barrier) (t : Nat) : List Byte :=
  let entry := fun (p : BarPart) =>
    leBytes 4 p.arrivals ++ [(if b.round.toNat < p.left then 1 else 0) + (if p.heldNext then 2 else 0),
      if b.round.toNat < p.reached then 1 else 0, BitVec.ofNat 8 (checkLeft r k p t), if barWaiting d k p.who then 1 else 0]
  let lens : List Nat := match b.claim.bind fun i => (getDom d i).prog with
    | some g => (g.refresh.filter fun e => e.1 = k).map (·.2)
    | none => []
  let opens : Bool := lens.any fun n => r.openings.contains (t + 1, n)
  padTo (barBodyLen b.parts.length) (padTo 32 (leBytes 8 b.round.toNat ++ [if b.sense then 1 else 0, if b.extended && b.localDone && !b.fabDone then 1 else 0] ++
    leBytes 2 b.counted.toNat ++ leBytes 2 b.awaitDep.toNat ++ leBytes 2 b.held.toNat ++ leBytes 2 b.parts.length ++ [if opens then 1 else 0]) ++ b.parts.flatMap entry)

/-- Barrier contexts that a domain claims. -/
def claimed (d : Device) (i : DomId) : List (Fin 64) := (List.finRange 64).filter fun k => (getBar d k).claim = some i

/-- Signals in transport count in the image: arrivals and departures of a context take effect at once (R256). -/
def settleSignals : Nat → Barrier → Barrier
  | 0, b => b
  | n + 1, b =>
    match (b.signals.find? fun s => s.depart).orElse fun _ => b.signals.head? with
    | none => b
    | some s =>
      let x := { b with signals := b.signals.erase s }
      settleSignals n (if s.depart then hubDeparture x s.due else hubArrival x s s.due)

/-- Length of a domain's image. -/
def imageLength (d : Device) (i : DomId) : Nat :=
  64 + 176 + (domCtxs d i).foldl (fun a c => a + 16 + coreBodyLen (isSplit d c.core)) 0 +
    (claimed d i).foldl (fun a k => a + 16 + barBodyLen (getBar d k).parts.length) 0 + 16

/-- The image of a domain at the end of tick t (R395, R491). -/
def captureImage (d0 : Device) (i : DomId) (t : Nat) : List Byte :=
  let d := completeDomain d0 i
  match (getDom d i).run, (getDom d i).prog with
  | some r, some g =>
    leBytes 4 1 ++ leBytes 4 (imageLength d i) ++ digestBytes g.digest ++ leBytes 8 t ++
      recHead 1 0 160 ++ domBody r g.pace.isSome (if (getDom d i).st = .running then nowNs d else r.endNs) ++
      (domCtxs d i).flatMap (fun c => recHead 2 (scoreOf c).toNat (coreBodyLen (isSplit d c.core)) ++ padTo (coreBodyLen (isSplit d c.core)) (coreBody d c t)) ++
      (claimed d i).flatMap (fun k =>
        let b := settleSignals (getBar d k).signals.length (getBar d k)
        recHead 3 k.val (barBodyLen b.parts.length) ++ barBody d r k b t) ++
      recHead 0xFFFF 0 0
  | _, _ => []

/-! ### Checking an image (R257, R493) -/

/-- The record headers that a domain's image must have, with their offsets. -/
def imageHeads (d : Device) (i : DomId) : List (Nat × List Byte) :=
  let bodies := [(recHead 1 0 160, 160)] ++
    (domCtxs d i).map (fun c => (recHead 2 (scoreOf c).toNat (coreBodyLen (isSplit d c.core)), coreBodyLen (isSplit d c.core))) ++
    (claimed d i).map (fun k => (recHead 3 k.val (barBodyLen (getBar d k).parts.length), barBodyLen (getBar d k).parts.length)) ++ [(recHead 0xFFFF 0 0, 0)]
  (bodies.foldl (fun (a : List (Nat × List Byte) × Nat) x => (a.1 ++ [(a.2, x.1)], a.2 + 16 + x.2)) ([], 64)).1

/-- The offset of the first item of an image that keeps it from being restored into a domain (R257, R493); a saved
stream that R256 counts as a participant agrees in number. -/
def imageFail (d : Device) (i : DomId) (im : List Byte) : Option Nat :=
  match (getDom d i).prog with
  | none => some 0
  | some g =>
    let checks : List (Nat × Bool) :=
      [(0, decide (le im 0 4 = 1)), (4, decide (le im 4 4 = im.length) && decide (im.length = imageLength d i)), (8, decide (slice im 8 48 = digestBytes g.digest))] ++
        (imageHeads d i).map fun h => (h.1, decide (slice im h.1 16 = h.2))
    (checks.find? fun x => !x.2).map (·.1)

/-! ### Restoring (R257, R258) -/

/-- A word that an image does not carry: the same in every run restored from equal images (R257, R258; log entry 41). The
record's place in the image and a number tell such words apart. -/
def imageNat (im : List Byte) (o k : Nat) : Nat := (Config.imageWord im (o * 16384 + k)).toNat
def imageLanes (im : List Byte) (o k : Nat) : Entry := ofLanes 64 ((List.range 32).map fun j => imageNat im o (32 * k + j))

/-- The state a saved sequencer resumes in: one that had halted runs again (log entry 42). -/
def seqOfCode (n : Nat) : SeqState := match n with | 1 | 4 => .running | 2 => .waiting | 3 => .ended | _ => .idle
def causeOfCode (n : Nat) : WaitCause :=
  match n with | 1 => .queueEmpty | 2 => .queueFull | 3 => .flag | 4 => .messageQueue | 5 => .barrier | _ => .none
def planeOfCode (n : Nat) : PlaneState := match n with | 1 => .feeding | 2 => .open | 3 => .draining | _ => .free

def restoreSeq (im : List Byte) (o s : Nat) (t : Nat) (q : Sequencer) : Sequencer :=
  let st := seqOfCode (le im (o + 2) 1)
  { q with
    st := st, pc := BitVec.ofNat 13 (le im o 2), lastPc := BitVec.ofNat 12 (le im o 2),
    cause := causeOfCode (le im (o + 3) 1), winLo := BitVec.ofNat 4 (le im (o + 4) 1), winHi := BitVec.ofNat 4 (le im (o + 5) 1),
    wdCount := le im (o + 8) 4,
    loops := ((List.range (min 6 (le im (o + 6) 1))).map fun l =>
      ({ start := BitVec.ofNat 12 (le im (o + 16 + 8 * l) 2), endAddr := BitVec.ofNat 12 (le im (o + 18 + 8 * l) 2), remaining := BitVec.ofNat 32 (le im (o + 20 + 8 * l) 4) } : LoopLevel)).reverse,
    sregs := Vector.ofFn fun (n : Fin 32) => BitVec.ofNat 64 (le im (s + 8 * n.val) 8),
    pregs := Vector.ofFn fun (n : Fin 8) => BitVec.ofNat 64 (le im (s + 256 + 8 * n.val) 8),
    sregTick := Vector.replicate 32 (0, 0), resumeAt := t, nextTick := t, shown := st = .waiting,
    barSent := false }

def restoreLq (im : List Byte) (o t : Nat) (unfilled : List Nat) : LinkQueue :=
  let h := le im o 1 % 16
  { LinkQueue.reset with
    headSlot := BitVec.ofNat 4 h, nextId := min 16 (le im (o + 1) 1),
    entries := (List.range (min 16 (le im (o + 1) 1))).map fun k =>
      let s := (h + k) % 16
      let filled := !unfilled.contains s
      { id := k, data := if filled then leBits 2048 (slice im (o + 16 + 256 * s) 256) else 0, filledAt := if filled then some (t - 1) else none,
        var := true, due := none, ready := if filled then some 0 else none, cause := 6 } }

def restoreAg (im : List Byte) (o t : Nat) : AddrGen :=
  let g := agLoad (leBits 512 (slice im o 64))
  { g with
    idx := Vector.ofFn fun (k : Fin 6) => BitVec.ofNat 32 (le im (o + 64 + 4 * k.val) 4), done := le im (o + 88) 1 != 0,
    staged := if le im (o + 89) 1 != 0 then some (leBits 512 (slice im (o + 96) 64), t - 1) else none }

/-- A queue's descriptors; the head message has the units up to the read position read. -/
def restoreMq (g : Program) (im : List Byte) (o : Nat) : MsgQueue :=
  let n := min 64 (le im (o + 3) 1)
  let rp := le im (o + 1) 1 % 64
  { MsgQueue.reset with
    wp := BitVec.ofNat 6 (le im o 1), rp := BitVec.ofNat 6 rp, occ := le im (o + 2) 1,
    descs := (List.range n).map fun k =>
      let e := o + 16 + 8 * k
      let pad := le im e 1 = 1
      let start := le im (e + 1) 1 % 64
      let len := le im (e + 2) 1
      let chan := BitVec.ofNat 8 (le im (e + 3) 1)
      { pad := pad, start := BitVec.ofNat 6 start, len := len, remain := if k = 0 && !decide pad then len - (64 + rp - start) % 64 else len, chan := chan,
        src := BitVec.ofNat 10 (le im (e + 4) 2), placed := 0,
        inbound := if le im (e + 6) 1 = 1 then some ((match g.inbound[chan.toNat]? with | some x => x.src | none => 0), BitVec.ofNat 8 (le im (e + 7) 1)) else none },
    units := Vector.ofFn fun (k : Fin 64) => leBits 512 (slice im (o + 528 + 64 * k.val) 64) }

def restorePlane (split : Bool) (im : List Byte) (o n : Nat) (p : Plane) : Plane :=
  let rows := arrayRows split
  let base := o + 16 + n * rows * 512
  { p with
    st := planeOfCode (le im (o + n) 1), vecFed := le im (o + 2 + n) 1 = 1, fmtA := BitVec.ofNat 4 (le im (o + 4 + n) 1),
    cells := Vector.ofFn fun (i : Fin 128) => Vector.ofFn fun (j : Fin 64) =>
      if i.val < rows then BitVec.ofNat 64 (le im (base + 512 * i.val + 8 * j.val) 8) else 0 }

def restoreRepeat (im : List Byte) (o t : Nat) (store : Bool) : Option RepeatUnit :=
  let s : BitVec 64 := BitVec.ofNat 64 (le im o 8)
  let op := msOp s
  if op = 0 then none
  else some
    { slot := s, op := if store then storeMemOp op else loadMemOp op, seq := finMod 4 (le im (o + 20) 4), pc := BitVec.ofNat 12 (le im (o + 10) 2), ag := finMod 8 (msAg s),
      toReg := msKind s = 1, reg := BitVec.ofNat 5 (msReg s), width := BitVec.ofNat 4 (msWidth s), remaining := le im (o + 12) 4,
      predOff := le im (o + 24) 8 = 0, waiting := false, waitLocal := false, nextTick := t }

/-- A bundle that holds only the given slots. -/
def slotBundle (vec mat : Nat) : RawBundle := BitVec.ofNat 384 (vec * 2 ^ 80 + mat * 2 ^ 160)

/-- A feed goes on from its k-step; the entries it holds and the sums of its present block are free (log entry 41). -/
def restoreFeed (im : List Byte) (o t : Nat) (c : CtxId) : Option Feed :=
  if le im o 10 = 0 then none
  else
    let k := le im (o + 16) 4
    let g := newFeed (mfields (slotBundle 0 (le im o 8))) (execSeq c) (BitVec.ofNat 12 (le im (o + 10) 2)) t
    let blk := (List.range (if k % 64 = 0 then 0 else 8192)).map fun n => imageNat im o (128 + n)
    some { g with k := k, subTicks := le im (o + 20) 4 / 2, scaled := le im (o + 20) 4 % 2 = 1, nextTick := t, issued := t - 1,
                  aEntry := imageLanes im o 0, bEntry := imageLanes im o 1, aScale := imageLanes im o 2, bScale := imageLanes im o 3,
                  block := blk.map fun v => .fin (decide (2 ^ 63 ≤ v)) (v % 2 ^ 63) 0 }

def restoreDrain (im : List Byte) (o t : Nat) (c : CtxId) (p : Fin 2) : Option Drain :=
  if le im o 10 = 0 then none
  else
    let f := mfields (slotBundle 0 (le im o 8))
    some { f := f, plane := p, seq := execSeq c, pc := BitVec.ofNat 12 (le im (o + 10) 2), dst := f.dst, rows := f.rows, cols := f.cols, exact := f.exact,
           tf := offTick 4 (le im (o + 20) 4) (t - 1), next := le im (o + 16) 4, waiting := false, nextTick := t, done := false, issued := t - 1 }

/-- A vector operation goes on from its entry; what it holds between entries is free (log entry 41). -/
def restoreVOp (d : Device) (im : List Byte) (o t : Nat) (c : CtxId) : Option VOp :=
  if le im o 10 = 0 then none
  else
    let v := newVOp d c { core := c.core, seq := execSeq c } (vfields (slotBundle (le im o 10) 0))
    let n := le im (o + 16) 4
    let acc := (List.range (le im (o + 22) 2)).map fun k => imageNat im o (96 + k)
    some { v with pc := BitVec.ofNat 12 (le im (o + 10) 2), lanes := BitVec.ofNat 64 (le im (o + 24) 8), next := n, start := t, usedA := n, usedB := n, usedC := n,
                  holdA := imageLanes im o 0, holdB := imageLanes im o 1, holdC := imageLanes im o 2, acc := acc, accMask := acc.map fun _ => true,
                  made := le im (o + 20) 2, nextTick := t }

def restoreRequest (d : Device) (im : List Byte) (o t : Nat) (c : CtxId) : Option Request :=
  let k := le im o 1
  if k = 0 then none
  else
    let a := le im (o + 1) 1
    let b := le im (o + 2) 1
    let w := le im (o + 16) 4
    let bits := le im (o + 3) 1
    let left := le im (o + 20) 4
    let data : Entry := leBits 2048 (slice im (o + 32) 256)
    let x : LinkQueue := lqOf d c (finMod 4 a)
    let id := (b + 16 - x.headSlot.toNat) % 16
    let kind : ReqKind := match k with
      | 1 => .load (.lq (finMod 4 a) id) false
      | 2 => .load (.lq (finMod 4 a) id) true
      | 3 => .load (.sreg (finMod 4 a) (finMod 32 b)) false
      | 4 => .load (.sreg (finMod 4 a) (finMod 32 b)) true
      | 5 => .load (.staging (finMod 8 a)) false
      | 6 => .store data
      | 7 => .accumulate false data
      | 8 => .accumulate true data
      | 9 => .flag (BitVec.ofNat 8 a) (BitVec.ofNat 32 w)
      | _ => .message (BitVec.ofNat 8 a) b ((List.range (b - left)).map fun j =>
          if j < 4 then leBits 512 (slice im (o + 32 + 64 * j) 64) else (imageLanes im o j).setWidth 512) w
    some { kind := kind, seq := finMod 4 (bits % 4), pc := BitVec.ofNat 12 (le im (o + 4) 2), addr := BitVec.ofNat 64 (le im (o + 8) 8), bytes := le im (o + 6) 2,
            predOff := bits / 8 % 2 = 1, valid := bits / 16 % 2 = 1, entryTick := offTick 8 (le im (o + 24) 8) (t - 1), slotsLeft := left }

/-- The instance number near another that ends in 16 given bits. -/
def nearInst (inst low : Nat) : Nat := inst - (inst + 65536 - low) % 65536

def restoreLand (d : Device) (im : List Byte) (o t : Nat) (c : CtxId) (from' : CtxId) (insts : CtxId → Nat → Nat) : Option LandItem :=
  let w := le im (o + 64) 2
  if zeroIn im o 80 then none
  else
    let rot : Bool := decide (2 ^ 15 ≤ w)
    let k := w % 64
    let sender := if rot then from' else c
    let inst := nearInst (insts sender k) (le im (o + 66) 2)
    let j := le im (o + 68) 4
    match descAt d sender k with
    | none => none
    | some x => some
        { desc := k, inst := inst, xfer := j, offset := if rot then nextAt x inst j else padAt x inst j, data := leBits 512 (slice im o 64),
          lambda := offTick 8 (le im (o + 72) 8) (t - 1), rotation := rot, landed := some 0, cause := 6, sender := sender, error := none, held := .free, since := 0 }

def restoreOut (im : List Byte) (o t : Nat) (c : CtxId) (insts : CtxId → Nat → Nat) : Option OutItem :=
  if zeroIn im o 80 then none
  else
    let w := le im (o + 64) 2
    let k := w % 64
    let tick := offTick 8 (le im (o + 72) 8) (t - 1)
    let granted : Bool := w / 2 ^ 15 % 2 = 1
    some { desc := k, inst := nearInst (insts c k) (le im (o + 66) 2), xfer := le im (o + 68) 4, data := if w / 2 ^ 13 % 2 = 1 then some (leBits 512 (slice im o 64)) else none,
           slot := if granted then 0 else tick, granted := granted, ackDue := if granted then tick else 0, acked := if granted then some 0 else none, cause := 6, error := none, held := .free, since := 0 }

/-- Offsets of the sections of a core record from its body. -/
structure RecOffs where
  scalars : Nat
  vregs : Nat
  lqs : Nat
  ags : Nat
  flags : Nat
  sent : Nat
  mqs : Nat
  credit : Nat
  planes : Nat
  vector : Nat
  rows : Nat
  lanes : Nat
  status : Nat
  units : Nat
  requests : Nat
  progs : Nat
  landing : Nat
  outbound : Nat
deriving DecidableEq, Repr, Inhabited

def recOffs (split : Bool) (o : Nat) : RecOffs :=
  let n := if split then 2 else 1
  let v := o + 768
  let l := v + 4096 / n
  let a := l + 16448 / n
  let f := a + 1280 / n
  let m := f + 1152 / n
  let p := m + 37248 / n
  let x := p + 16 + 131072 / n
  let e := x + 4096 / n
  let g := e + 512 / n
  let s := g + 256 / n
  let u := s + 16
  let r := u + 192
  let q := r + 2304 / n
  let y := q + 1024 / n
  { scalars := o + 128, vregs := v, lqs := l, ags := a, flags := f, sent := f + 1024 / n, mqs := m, credit := m + 36992 / n, planes := p, vector := x,
    rows := e, lanes := g, status := s, units := u, requests := r, progs := q, landing := y, outbound := y + 2560 / n }

/-- The entries of a table that a core or context names, replaced by number as it names them. -/
def setOwn {α : Type} {n : Nat} (split : Bool) (ctx : Fin 2) (v : Vector α n) (f : Nat → α → α) : Vector α n :=
  vmapi v fun k x => if !split then f k.val x else if k.val / (n / 2) = ctx.val then f (k.val % (n / 2)) x else x

/-- Body of a core's or context's record in an image. -/
def recordOf (d : Device) (i : DomId) (im : List Byte) (c : CtxId) : Nat :=
  let h := recHead 2 (scoreOf c).toNat (coreBodyLen (isSplit d c.core))
  match (imageHeads d i).find? fun x => x.2 = h with
  | some x => x.1 + 16
  | none => im.length

/-- Registers, queues, generators, flags, planes and status of a core or context. -/
def restoreRegs (g : Program) (im : List Byte) (c : CtxId) (o t : Nat) (k : Core) : Core :=
  let sp := k.split
  let x := recOffs sp o
  let seq := fun (v : Vector Sequencer 4) (n : Nat) (s : Fin 4) => vmod v s (restoreSeq im (o + 64 * n) (x.scalars + 320 * n) t)
  let unfilled := fun (q : Nat) => (List.range 8).filterMap fun j =>
    let r := x.requests + 288 * j
    if (sp && decide (4 ≤ j)) || !(le im r 1 = 1 || le im r 1 = 2) || le im (r + 1) 1 != q then none else some (le im (r + 2) 1)
  let lqs := (List.range (recQueues sp).length).foldl (fun v n =>
    let q : Fin 4 := (recQueues sp).getD n 0
    vset v (physLq sp c.ctx q) (restoreLq im (x.lqs + 4112 * n) t (unfilled q.val))) k.lqs
  let valid := le im (x.status + 2) 2
  let mine := k.monos.filter fun m => m.ctx = c.ctx
  let sent := (List.range mine.length).filterMap fun n => mine[n]?.map fun m => { m with sent := BitVec.ofNat 32 (le im (x.sent + 4 * n) 4) }
  { k with
    seqs := seq (seq k.seqs 0 (accSeq c)) 1 (execSeq c)
    vregs := setOwn sp c.ctx k.vregs fun n _ => leBits 2048 (slice im (x.vregs + 256 * n) 256)
    lqs := lqs
    ags := setOwn sp c.ctx k.ags fun n _ => restoreAg im (x.ags + 160 * n) t
    flags := setOwn sp c.ctx k.flags fun n _ => BitVec.ofNat 32 (le im (x.flags + 4 * n) 4)
    monos := (k.monos.filter fun m => m.ctx != c.ctx) ++ sent
    mqs := setOwn sp c.ctx k.mqs fun n _ => restoreMq g im (x.mqs + 4624 * n)
    credit := setOwn sp c.ctx k.credit fun n _ => BitVec.ofNat 8 (le im (x.credit + n) 1)
    eps := setOwn sp c.ctx k.eps fun n _ => if valid / 2 ^ n % 2 = 1 then some (leBits 2048 (slice im (x.vector + 256 * n) 256)) else none
    rowAcc := setOwn sp c.ctx k.rowAcc fun n _ => entryRow (leBits 2048 (slice im (x.rows + 64 * n) 64))
    srState := setOwn sp c.ctx k.srState fun n _ => BitVec.ofNat 32 (le im (x.lanes + 4 * n) 4) }

/-- Progress of a descriptor: what is neither in a buffer nor ahead has finished. -/
def restoreProg (d : Device) (c : CtxId) (k t inst xfer : Nat) (land : List LandItem) (out : List OutItem) : StreamProg :=
  match descAt d c k with
  | none => StreamProg.reset
  | some x =>
    let waitsIn := fun (n : Nat) => land.countP (fun i => i.desc = k && i.sender = c && i.inst = n) + out.countP fun o => o.desc = k && o.inst = n
    let ungranted := out.countP fun o => o.desc = k && o.inst = inst && !o.granted
    let older := (List.range inst).filter fun n => inst ≤ n + 64 && waitsIn n != 0
    { inst := inst, active := decide (inst ≤ x.repeats.toNat) && (xfer != 0 || decide (startTick x inst < t)), startFrom := t, xfer := xfer, granted := xfer - ungranted,
      counts := older.map (fun n => (n, xfers x - waitsIn n)) ++ (if xfer - waitsIn inst = 0 then [] else [(inst, xfer - waitsIn inst)]),
      completed := inst - older.length }

/-- The stream engine of a core or context. -/
def restoreStreams (d : Device) (im : List Byte) (c : CtxId) (o t : Nat) (prev : CtxId) (insts : CtxId → Nat → Nat) : Device :=
  let sp := isSplit d c.core
  let x := recOffs sp o
  let n := if sp then 2 else 1
  let land := (List.range (32 / n)).filterMap fun j => restoreLand d im (x.landing + 80 * j) t c prev insts
  let out := (List.range (16 / n)).filterMap fun j => restoreOut im (x.outbound + 80 * j) t c insts
  let last := fun (bitNo : Nat) => match (List.range (64 / n)).find? fun k => le im (x.progs + 16 * k + 8) 1 / 2 ^ bitNo % 2 = 1 with
    | some k => finMod 64 k
    | none => if sp then 31 else 63
  modStream d c fun s =>
    { s with landing := land, outbound := out, lastGrant := Vector.ofFn fun (r : Fin 5) => last r.val, lastWrite := last 5,
             grantTick := Vector.replicate 5 t, slotTick := t, remoteTick := t, edgeTick := t,
             edge := (out.filter fun o => o.data.isNone).map fun o =>
               { read := true, slot := o.slot,
                 item := { desc := o.desc, inst := o.inst, xfer := o.xfer, offset := (match descAt d c o.desc with | some y => padAt y o.inst o.xfer | none => 0),
                           data := 0, lambda := 0, rotation := false, landed := none, cause := 2, sender := c, error := none, held := .free, since := 0 }, send := none } }

/-- Units, request queue, matrix and vector state of a core or context. -/
def restoreUnits (d : Device) (im : List Byte) (c : CtxId) (o t : Nat) : Device :=
  let sp := isSplit d c.core
  let x := recOffs sp o
  let drains := (restoreDrain im (x.units + 96) t c 0).toList ++ (restoreDrain im (x.units + 128) t c 1).toList
  let drains := match drains with | [a, b] => if b.tf < a.tf then [b, a] else [a, b] | l => l
  let vop := restoreVOp d im (x.units + 160) t c
  let rq := (List.range (if sp then 4 else 8)).filterMap fun j => restoreRequest d im (x.requests + 288 * j) t c
  let owed := (List.range (if sp then 4 else 8)).filterMap fun j =>
    let o := x.requests + 288 * j
    match restoreRequest d im o t c with
    | some r => match r.kind with
      | .message chan n _ _ => if le im (o + 3) 1 / 32 % 2 = 1 then some ({ ref := .credit c chan n, due := r.entryTick, ready := none, cause := 6 } : VarItem) else none
      | _ => none
    | none => none
  let checks := (List.range 8).filterMap fun j =>
    let o := x.mqs + 4624 * (j / 2) + 4 + 6 * (j % 2)
    let bits := le im (o + 1) 1
    let need : W32 := BitVec.ofNat 32 (le im (o + 2) 4)
    if bits / 16 = 0 then none
    else some ({ ref := .extFlag c (finMod 4 (bits % 4)) (BitVec.ofNat 8 (le im o 1)) need (if bits / 4 % 2 = 1 then some need else none), due := t - 1 + bits / 16,
                 ready := none, cause := if bits / 8 % 2 = 1 then 3 else 6 } : VarItem)
  let d := forAll (owed ++ checks) d fun d x => addItem d c x
  modUnit d c fun u =>
    { u with
      ldUnit := restoreRepeat im x.units t false, stUnit := restoreRepeat im (x.units + 32) t true, rqueue := rq,
      matrix := { u.matrix with
        feed := restoreFeed im (x.units + 64) t c, drains := drains, flags := { Sticky.reset with val := BitVec.ofNat 8 (le im x.status 1) },
        planes := vmapi u.matrix.planes fun n p => restorePlane sp im x.planes n.val p },
      vector := { op := vop, flags := { Sticky.reset with val := BitVec.ofNat 8 (le im (x.status + 1) 1) } } }

/-- Instance numbers that an image holds for a core's or context's descriptors. -/
def imageInst (d : Device) (i : DomId) (im : List Byte) (c : CtxId) (k : Nat) : Nat :=
  le im ((recOffs (isSplit d c.core) (recordOf d i im c)).progs + 16 * k) 4
def imageXfer (d : Device) (i : DomId) (im : List Byte) (c : CtxId) (k : Nat) : Nat :=
  le im ((recOffs (isSplit d c.core) (recordOf d i im c)).progs + 16 * k + 4) 4

/-- A barrier context from its record. A release or a local completion that was in transport reaches the participants at
tick t; one that had reached them is not sent again (R257). -/
def restoreBarrier (b : Barrier) (im : List Byte) (o t : Nat) : Barrier :=
  let released := le im (o + 12) 2 != 0
  let round := le im o 8
  let fabric := le im (o + 9) 1 = 1
  let entry := fun (n : Nat) => o + 32 + 8 * n
  let parts := (List.range b.parts.length).filterMap fun n => b.parts[n]?.map fun p =>
    let bits := le im (entry n + 4) 1
    { p with arrivals := le im (entry n) 4, left := if bits % 2 = 1 then round + 1 else min round (le im (entry n) 4),
             reached := round + min 1 (le im (entry n + 5) 1), heldNext := bits / 2 % 2 = 1, leaving := le im (entry n + 6) 1 != 0, nextAt := t - 1 }
  let came := (List.range b.parts.length).all fun n => le im (entry n + 5) 1 != 0
  { b with
    parts := parts, round := BitVec.ofNat 64 round, sense := le im (o + 8) 1 != 0, counted := BitVec.ofNat 16 (le im (o + 10) 2),
    awaitDep := BitVec.ofNat 16 (le im (o + 12) 2), held := BitVec.ofNat 16 (le im (o + 14) 2), violation := false, signals := [],
    reachAt := if !came && (if b.extended then released || decide fabric else released) then some t else none,
    releaseAt := if !released && !b.extended && le im (o + 10) 2 = b.parts.length then some t else none,
    localDone := b.extended && (released || decide fabric), fabDone := b.extended && released, retried := false, halts := [] }

/-- The fabric checks of a restored barrier context, the bars that have sent their arrivals, and the refresh windows that its last
release opens on tick t. -/
def restoreChecks (d : Device) (i : DomId) (g : Program) (k : Fin 64) (im : List Byte) (o t : Nat) : Device :=
  let b := getBar d k
  let items := (List.range b.parts.length).filterMap fun n =>
    let left := le im (o + 38 + 8 * n) 1
    if left = 0 then none
    else
      let p := barPart b n
      some ({ ref := .fabRelease k p.left (partSeq p.who), due := t - 1 + left,
              ready := if decide (p.left < b.round.toNat) || b.fabDone then some 0 else none, cause := 6 } : VarItem)
  let bars := (List.range b.parts.length).filterMap fun n => if le im (o + 39 + 8 * n) 1 = 1 then some (partSeq (barPart b n).who) else none
  let d := forAll bars d fun d w => modSeq d w fun q => { q with barSent := true }
  let opened := if le im (o + 18) 1 = 1 then (g.refresh.filter fun e => e.1 = k).map fun e => (t, e.2) else []
  modRun d i fun r => { r with items := r.items ++ items, openings := r.openings ++ opened }

/-- Everything that a saved image gives a domain, at the first tick t after its capture. -/
def restoreDomain (d : Device) (i : DomId) (im : List Byte) (t : Nat) : Device :=
  match (getDom d i).prog with
  | none => d
  | some g =>
    let cs := domCtxs d i
    let d := forAll cs d fun d c => modCore d c.core (restoreRegs g im c (recordOf d i im c) t)
    let d := forAll cs d fun d c => restoreUnits d im c (recordOf d i im c) t
    let prev := fun (c : CtxId) => (cs.find? fun e => ringNext g e = c).getD c
    let insts := imageInst d i im
    let d := forAll cs d fun d c => restoreStreams d im c (recordOf d i im c) t (prev c) insts
    let land := cs.flatMap fun c => (streamOf d c).landing
    let d := forAll cs d fun d c => modStream d c fun s =>
      { s with progs := Vector.ofFn fun (k : Fin 64) =>
          if k.val < (if isSplit d c.core then 32 else 64) then restoreProg d c k.val t (insts c k.val) (imageXfer d i im c k.val) land s.outbound else StreamProg.reset }
    forAll (claimed d i) d fun d k =>
      let h := recHead 3 k.val (barBodyLen (getBar d k).parts.length)
      match (imageHeads d i).find? fun x => x.2 = h with
      | some x => restoreChecks (modBar d k fun b => restoreBarrier b im (x.1 + 16) t) i g k im (x.1 + 16) t
      | none => d

end Sys2Proof.Machine
end

