-- ==== Sys2Proof/Machine/Domain.lean ====
section
/-! DEFINITION. A run from its first tick to its end (R27, R40, R44, R54–R58, R79–R81, R226, R258, R393, R394, R431,
R460, R461): RUN_START, the activity ramp, the end, the halts of a whole domain, and deadline points. -/

namespace Sys2Proof.Machine

/-! ### The clearing before the first tick (R27) -/

/-- A core's sequencer at RUN. -/
def startSeq (s : CoreSect) (execute : Bool) : Sequencer :=
  let active := if execute then s.execute else s.access
  if active then
    { Sequencer.reset with
      st := .running, pc := if execute then s.xEntry else s.aEntry,
      winLo := if execute then s.xLo else s.aLo, winHi := if execute then s.xHi else s.aHi }
  else Sequencer.reset

/-- Credit of a channel at RUN: its QUOTA (R264, R275). -/
def startCredit (g : Program) (c : CtxId) (chan : Nat) : Byte :=
  match (tableOf g.routes c)[chan]? with
  | some r => if r.kind = 1 || r.kind = 3 then BitVec.ofNat 8 r.quota else 0
  | none => 0

/-- A pair of bits with the one of a context replaced. -/
def setBit2 (v : BitVec 2) (x : Fin 2) (b : Bool) : BitVec 2 :=
  let m : BitVec 2 := (1 : BitVec 2) <<< x.val
  if b then v ||| m else v &&& ~~~m

/-- A stream engine at RUN: every turn stands as though its highest-numbered descriptor had gone last (R282). -/
def startStream (split : Bool) (s : StreamUnit) : StreamUnit :=
  let last : Fin 64 := if split then 31 else 63
  { StreamUnit.reset with split := s.split, lastGrant := Vector.replicate 5 last, lastWrite := last }

/-- What RUN leaves in a core for one of its contexts, or for all of it. -/
def startCore (g : Program) (s : CoreSect) (k : Core) : Core :=
  let c := s.ctx
  let sp := s.split
  let mine := fun (n : Fin 4) => !sp || n.val / 2 = c.ctx.val
  let seqs := vmapi k.seqs fun n q => if mine n then (if n = accSeq c then startSeq s false else if n = execSeq c then startSeq s true else Sequencer.reset) else q
  let eps := tableOf g.eps c
  let ags := tableOf g.ags c
  -- what an earlier run has sent to another stall domain is still on its way (R44, R273)
  let sent := fun (f : Flight) => match f.req.kind with
    | .message chan _ _ _ => (tableOf g.routes c)[chan.toNat]?.any (·.kind = 3)
    | _ => false
  { k with
    seqs := seqs
    vregs := setOwn sp c.ctx k.vregs fun _ _ => 0
    lqs := vmapi k.lqs fun n x => if !sp || n.val % 2 = c.ctx.val then LinkQueue.reset else x
    ags := setOwn sp c.ctx k.ags fun n _ => agLoad (ags.getD n 0)
    flags := setOwn sp c.ctx k.flags fun _ _ => 0
    monos := k.monos.map fun m => if m.ctx = c.ctx then { m with sent := 0 } else m
    drift := 0
    dbgCtrl := if sp then setBit2 k.dbgCtrl c.ctx (k.dbgNext.getLsbD c.ctx.val) else k.dbgNext
    mqs := setOwn sp c.ctx k.mqs fun _ _ => MsgQueue.reset
    credit := setOwn sp c.ctx k.credit fun n _ => startCredit g c n
    msgSeq := setOwn sp c.ctx k.msgSeq fun _ _ => 0
    eps := setOwn sp c.ctx k.eps fun n _ => match eps[n]? with | some e => if e = 0 then none else some e | none => none
    rowAcc := setOwn sp c.ctx k.rowAcc fun _ _ => RowAcc.reset
    srState := setOwn sp c.ctx k.srState fun n _ => srSeed 0 n
    vregPend := k.vregPend.filter fun x => sp && x.1.val / 8 != c.ctx.val
    units := vmod (vmod k.units c.ctx fun u =>
      { CtxUnit.reset with bound := u.bound, flights := u.flights.filter sent, nextUid := if u.flights.any sent then u.nextUid else 0, credits := u.credits.filter fun r => r.inbound.isSome, stream := startStream sp u.stream }) 0 fun u =>
        { u with stream := { u.stream with lastDone := 0 } } }

/-- Banks that a core's sections mask, as physical banks (R226). -/
def maskBanks (s : CoreSect) : W32 := if s.split && s.ctx.ctx = 1 then s.banksOff <<< 16 else s.banksOff

/-- A barrier context at RUN (R247, R255). -/
def startBarrier (b : Barrier) : Barrier :=
  { Barrier.reset with claim := b.claim, extended := b.extended, group := b.group,
                       parts := b.parts.map fun p => { who := p.who, arrivals := 0, reached := 0, left := 0, heldNext := false, leaving := false, nextAt := 0 } }

/-- The saved image of the RUN command, if it restores one. -/
def restoreImage (d : Device) (m : Domain) : Option (List Byte) :=
  match m.runHandle.bind (findCmd d) with
  | some c => match c.job with
    | .run (b :: im) => some (b :: im)
    | _ => none
  | none => none

/-- Whether a tick is a deadline point of a program (R55). -/
def isPoint (g : Program) (t : Nat) : Bool :=
  match g.pace with
  | some p => p.points.any fun x => x.1 = t
  | none => false

/-- The state of the run on its first tick. A restored run keeps the saved numbering and totals (R258). -/
def startRun (g : Program) (im : Option (List Byte)) (now : Nat) (r : Run) : Run :=
  let r := { r with started := true, resuming := im.isSome, tStart := now, paceStart := now }
  match im with
  | none => { r with pointDue := isPoint g 0 }
  | some im =>
    let c := le im 56 8
    let w := fun (o : Nat) => (BitVec.ofNat 64 (le im (80 + o) 8) : W64)
    { r with
      tick := c + 1, ramp := 128, sched := le im (80 + 72) 8, ledger := Vector.ofFn fun (k : Fin 7) => w (8 * k.val), miss := w 56, mayvary := w 64,
      elapsed := le im (80 + 88) 8, restored := true,
      deadline := match g.pace with | some p => (p.points.filter fun x => decide (x.1 ≤ c)).length | none => 0
      collNext := Vector.ofFn fun (k : Fin 16) => le im (80 + 96 + 4 * k.val) 4 }

/-- The refreshes of R50 are still in progress, or one is owed. -/
def refreshing (d : Device) (p : PartId) : Bool := (stacksOf d p).any fun s => (vget d.hbmStat s).pchs.any fun x => x.busy || x.owed != 0

/-- The frequency code of a domain's partition does not lie below its binary's floor, and no change in progress takes it there
(R54). -/
def floorReached (d : Device) (i : DomId) : Bool :=
  let x := getPart d i.part
  match (getDom d i).prog with
  | some g => decide (programCode g ≤ x.fcode.toNat) && decide (programCode g ≤ (codeAhead x).toNat)
  | none => true

/-- Whether the first tick of a run can begin. -/
def startDue (d : Device) (i : DomId) : Bool :=
  (getDom d i).st = .running && !refreshing d i.part && !needsWake d i.part && floorReached d i &&
    match (getDom d i).run with | some r => !r.started | none => false

/-- Credit frames are counted since RUN (R347): the counts of a partition start afresh where no other domain of it runs (log
entry 86). -/
def freshCredit (d : Device) (i : DomId) : Device :=
  if (domsOf i.part).any fun j => j != i && (getDom d j).st = .running then d
  else modPart d i.part fun x => { x with cseqTx := [], cseqRx := [] }

/-- RUN_START: the clearing, and the first tick of the run or of a restored run's ramp. -/
def runStart (d : Device) (i : DomId) : Device :=
  if !startDue d i then d
  else match (getDom d i).prog with
    | none => d
    | some g =>
      let im := restoreImage d (getDom d i)
      let d := forAll g.cores d fun d s => modCore d s.ctx.core (startCore g s)
      let d := forAll g.cores d fun d s => modCore d s.ctx.core fun k => { k with runOff := k.runOff ||| maskBanks s }
      let d := forAll g.cores d fun d s => bankSettle d s.ctx
      let d := forAll (claimed d i) d fun d k => modBar d k startBarrier
      let d := modDom (freshCredit d i) i fun m => { m with inSeq := [], assembling := if im.isSome then m.assembling else keptMessages m.assembling }
      let d := modRun d i (startRun g im (nowNs d))
      let d := match im with
        | some im => restoreDomain d i im (le im 56 8 + 1)
        | none => d
      deliverWaiting (noteLedger d i) i.part

def execRunStart (d : DomId) (s : State) : Host.Outcome State Fault Refusal := onDev (fun x => runStart x d) s

/-! ### The activity ramp (R431) -/

/-- The ramp tick of a run: its own first ticks, or the unnumbered ones of a restored run. -/
def rampTick (r : Run) : Option Nat :=
  if r.ramp != 0 then some (128 - r.ramp) else if !r.restored && decide (r.tick < 128) then some r.tick else none

/-- A step of the ramp begins on the present tick. -/
def rampDue (r : Run) : Bool :=
  r.started && !r.stalled && match rampTick r with | some t => decide (r.rampStep < t / 16 + 1) | none => false

def rampStep (d : Device) (i : DomId) : Device := modRun d i fun r => if rampDue r then { r with rampStep := r.rampStep + 1 } else r

def execActivityRampStep (d : DomId) (s : State) : Host.Outcome State Fault Refusal := onDev (fun x => rampStep x d) s

/-! ### Halts of a whole domain (R40, R394) -/

/-- Whether the contexts of a domain that have not halted are to halt with 0x16 on the present tick. -/
def propagateDue (d : Device) (i : DomId) : Bool :=
  liveDom (getDom d i) && (match (getDom d i).run with
    | some r => r.started && !r.stalled && (match r.abortAt with | some t => decide (t ≤ r.tick) | none => false)
    | none => false) && (domCtxs d i).any fun c => !isHalted d c

/-- Halts each context that has not halted: with a reason of its own where it meets one on this tick (R81). -/
def haltRest (d : Device) (i : DomId) (code : Byte) (own : Bool) : Device :=
  forAll (domCtxs d i) d fun d c =>
    if isHalted d c then d
    else match (if own then takeHalts d c else none) with
      | some d => d
      | none => haltNoBundle d c code

def haltPropagate (d : Device) (i : DomId) : Device := if propagateDue d i then haltRest d i 0x16 true else d

def execHaltPropagate (d : DomId) (s : State) : Host.Outcome State Fault Refusal := onDev (fun x => haltPropagate x d) s

/-- Whether a sequencer of the domain has done its part of the tick in progress. -/
def tickBegun (d : Device) (i : DomId) : Bool :=
  match (getDom d i).run with
  | none => false
  | some r => (domCtxs d i).any fun c => (seqsOf d c).any fun n =>
      let q := getSeq d { core := c.core, seq := n }
      (q.st = .running || q.st = .waiting) && decide (r.tick < q.nextTick)

/-- Ends the HALT commands of a domain. -/
def endHalts (d : Device) (i : DomId) (st : Status) : Device :=
  forAll (d.cmds.filter fun c => c.hdr.part = i.part && c.hdr.dom = i.dom && decide (c.job = .halt)) d fun d c => completeCmd d c.handle st 0 []

/-- A host HALT takes effect in a period, before any bundle of its tick; it ends a stall, whose tick is not executed.
Where a core has halted for a reason of its own before, or meets one on that tick, that reason stands, and the HALT is in
conflict (R81, R387, R394; log entry 19). -/
def haltTakesEffect (d : Device) (i : DomId) : Device :=
  match (getDom d i).run with
  | none => d
  | some r => match r.hostHalt with
    | none => d
    | some _ =>
      if (getDom d i).st != .running || !r.started || r.ended || tickBegun d i then d
      else if r.first.isSome || (!r.stalled && r.ramp = 0 && (domCtxs d i).any fun c => (takeHalts d c).isSome) then
        endHalts (modRun d i fun x => { x with hostHalt := none }) i .stateConflict
      else
        let d := haltRest d i 0x15 false
        modRun d i fun x =>
          { x with hostHalt := none, halting := true, stalled := false, pointDue := false, closed := x.closed || r.stalled,
                   lastTick := if r.stalled then r.tick - 1 else x.lastTick, endNs := if r.stalled then nowNs d else x.endNs }

/-- At the end of the period in which a host HALT has taken effect its command completes (R394). -/
def haltAnswer (d : Device) (i : DomId) : Device :=
  match (getDom d i).run with
  | none => d
  | some r => if r.halting then endHalts (modRun d i fun x => { x with halting := false }) i .ok else d

def execHaltTakesEffect (d : DomId) (s : State) : Host.Outcome State Fault Refusal := onDev (fun x => haltTakesEffect x d) s

/-! ### Deadline points (R53, R55, R56) -/

/-- Output of points that have been missed is withheld no longer (R56). -/
def freeOutput (d : Device) (i : DomId) (missed : List Nat) : Device :=
  { d with cmds := d.cmds.map fun c =>
      if c.held && c.hdr.part = i.part && c.hdr.dom = i.dom && (match c.job with | .readTensor b => missed.contains (b.dpoint.toNat - 1) | _ => false) then
        { c with release := 0 }
      else c }

/-- DEADLINE_POINT: the comparison on the tick that the domain executes. DESIGN CHOICE: the counter is compared with its fraction,
against a start in whole ns (log entry 104). -/
def deadlinePoint (d : Device) (i : DomId) : Device :=
  match (getDom d i).run, (getDom d i).prog.bind (·.pace) with
  | some r, some p =>
    if !r.pointDue || r.stalled || !liveDom (getDom d i) then d
    else
      let due := (List.range p.points.length).filter fun k => (p.points.getD k (0, 0)).1 = r.tick
      let late := due.filter fun k => decide ((r.paceStart + (p.points.getD k (0, 0)).2) * 16 < d.clock.time16 + 16 * r.elapsed)
      let d := freeOutput d i late
      let d := modRun d i fun r => { r with pointDue := false, deadline := r.deadline + due.length, miss := r.miss + BitVec.ofNat 64 late.length, missed := r.missed ++ late }
      if p.haltOnMiss && !late.isEmpty then haltRest d i 0x0F false else d
  | _, _ => d

def execDeadlinePoint (d : DomId) (s : State) : Host.Outcome State Fault Refusal := onDev (fun x => deadlinePoint x d) s

/-! ### The pennant (R460, R461) -/

/-- Bytes 0–495 of the pennant of a run that has just ended, with its serial. -/
def pennantBytes (d : Device) (i : DomId) (m : Domain) (r : Run) (g : Program) (serial : Nat) : List Byte :=
  leBytes 2 1 ++ leBytes 2 592 ++ leBytes 2 0x4025 ++ [d.sec.stepping, 1, if r.openMode then 2 else 1, if g.portable then 1 else 0,
    (if r.restored then 1 else 0) + (if m.overlays then 2 else 0), BitVec.ofNat 8 d.config, BitVec.ofNat 8 i.part.val, BitVec.ofNat 8 i.dom.val] ++ leBytes 2 0 ++
  leBytes 8 r.session.toNat ++ leBytes 8 serial ++ digestBytes g.digest ++ digestBytes m.overlay ++ digestBytes m.weightsAtRun ++
  digestBytes d.sec.fwDigest ++ digestBytes d.sec.spDigest ++ digestBytes m.restoreDigest ++ leBytes 8 (tickCount r) ++ leBytes 8 r.sched ++
  r.ledger.toList.flatMap (fun w => leBytes 8 w.toNat) ++ leBytes 8 r.miss.toNat ++ leBytes 8 r.mayvary.toNat ++ leBytes 8 r.tStart ++ leBytes 8 (nowNs d) ++
  leBytes 8 d.sec.serial.toNat ++ digestBytes (idDigest d) ++ leBytes 4 (fabAddr32 d i.part).toNat ++ leBytes 12 0

/-- The pennant is assembled as the run ends, and takes the next serial. -/
def makePennant (d : Device) (i : DomId) : Device :=
  let m := getDom d i
  match m.run, m.prog with
  | some r, some g =>
    let s := d.sec.pserial + 1
    let bytes : BitVec 3968 := leBits 3968 (pennantBytes d i m r g s.toNat)
    modDom { d with sec := { d.sec with pserial := s } } i fun m => { m with pennant := some { bytes := bytes, tainted := r.tainted } }
  | _, _ => d

/-! ### The end of a run (R44, R289, R387, R393) -/

/-- Whether nothing of a core or context is in flight but flights of a kind, of a halted one as far as it will come to
an end. Local loads and stores do not hold the end of a run, nor a read under replay of its own, and no message to another stall
domain after its last slot (R44), nor, in a halted core, what will never be answered (R369, R471). -/
def quietBut (d : Device) (c : CtxId) (but : Flight → Bool) : Bool :=
  let u := getUnit d c
  let h := isHalted d c
  let drainsOver := match u.matrix.drains with | [] => true | x :: _ => h && x.waiting && !destRoom d c x.dst
  (h || (u.ldUnit.isNone && u.stUnit.isNone)) && u.matrix.feed.isNone && drainsOver && (u.vector.op.isNone || vecStuck d c) &&
    u.rqueue.isEmpty && (!h || (u.fills.isEmpty && u.stores.isEmpty)) &&
    u.flights.all (fun f => but f || (isExternal d c f && unitsRead d c f) || (h && ((f.arrived && f.error.isSome) || flightLost d c f))) &&
    u.stream.landing.all (fun i => h && (i.error.isSome || landLost d c i)) && u.stream.edge.isEmpty &&
    u.stream.outbound.all (fun o => h && (!o.granted || o.error.isSome || outLost d c o)) &&
    (h || streamsDone d c)
def quiet (d : Device) (c : CtxId) : Bool := quietBut d c fun _ => false

/-- Whether, between two ticks, a run has nothing left to do but flights of a kind. -/
def doneBut (d : Device) (i : DomId) (but : CtxId → Flight → Bool) : Bool :=
  match (getDom d i).run with
  | none => false
  | some r =>
    let cs := domCtxs d i
    let streamsEnded := cs.all fun c => (seqsOf d c).all fun n => let q := getSeq d { core := c.core, seq := n }; q.st = .idle || q.st = .ended
    let atEnd := (getDom d i).st = .running && r.ramp = 0 && decide (0 < r.sched) && streamsEnded && r.first.isNone
    (atEnd || ((getDom d i).st = .halted && r.closed)) && cs.all fun c => quietBut d c (but c)
def runDone (d : Device) (i : DomId) : Bool := doneBut d i fun _ _ => false

/-- A load into a link queue that has missed its contract tick, which its grants fix, or its access within its domain: no pop
waits for it, but the end of the run does (R44). -/
def lateLoad (d : Device) (t : Nat) (c : CtxId) (f : Flight) : Bool :=
  f.var && f.subs.all (fun s => s.granted.isSome) && (f.arrived || !within d c f) && decide (f.due < t) &&
    match f.req.kind with | .load (.lq _ _) _ => true | _ => false

/-- At the end of a run, late loads into link queues hold it as variable items (R44). -/
def holdEnd (d : Device) (i : DomId) : Device :=
  match (getDom d i).run with
  | none => d
  | some r =>
    if (getDom d i).st != .running || !doneBut d i (lateLoad d r.tick) then d
    else
      let late := (domCtxs d i).flatMap fun c => ((getUnit d c).flights.filter fun f => f.error.isNone).map fun f =>
        ({ ref := .flight c f.uid, due := f.due + 1, ready := none, cause := f.cause } : VarItem)
      modRun d i fun r => { r with items := r.items ++ late.filter fun x => r.items.all fun y => y.ref != x.ref }

/-- Whether a run is over: its last tick has passed, or it has halted and nothing of it is left in flight. -/
def runOver (d : Device) (i : DomId) : Bool :=
  match (getDom d i).run with
  | none => false
  | some r => d.sec.dbg != .erasing && r.started && r.ended && ((getDom d i).st = .running || ((getDom d i).st = .halted && (getDom d i).runHandle.isSome))

/-- Local stores and fills that a run's last ticks leave in flight complete: none of R44's ticks waits for them. -/
def landLocal (d : Device) (c : CtxId) : Device :=
  let u := getUnit d c
  let halves := u.fills.map fun f => { f with data := wholeFill d c f, rest := none }
  let d := modUnit d c fun u => { u with stores := [], fills := [] }
  let d := forAll (u.stores.filter fun s => !s.off) d fun d s => storePad d c s.offset (entryBytes s.data s.bytes)
  forAll halves d fun d f => fillDest d c f.dest f.data f.issued true 5

/-- Reads whose replay the end of a run does not wait for (R44, R224). DESIGN CHOICE: a check still to fall is recorded, and a resend
still to come repairs its read (log entry 114). -/
def settleReplays (d : Device) (c : CtxId) : Device :=
  let rs := (getUnit d c).replays
  let d := forAll (rs.filter fun x => !x.checked) d fun d x => recordCheck d c x
  let d := forAll (rs.filter fun x => !x.persistent) d fun d x => modCore d (finMod 512 (x.offset / 4194304)) fun k => { k with replays := satAdd k.replays 1 }
  modUnit d c fun u => { u with replays := [] }

/-- RUN_END: the domain is ENDED, and collective instances that are still active go on (R304), or its halted run completes; the banks that its mask powered down return (R226). -/
def runEnd (d : Device) (i : DomId) : Device :=
  if !runOver d i then d
  else
    let m := getDom d i
    match m.run, m.runHandle with
    | some r, some h =>
      let halted := m.st = .halted
      let (code, res) := haltResult r
      let d := forAll (domCtxs d i) d settleReplays
      let d := if halted then d else forAll (domCtxs d i) d landLocal
      let d := forAll (domCtxs d i) d fun d c =>
        bankSettle (modCore d c.core fun k => { k with runOff := if k.split then k.runOff &&& (if c.ctx = 0 then 0xFFFF0000 else 0x0000FFFF) else 0 }) c
      let d := if halted then d else makePennant d i
      let d := modDom d i fun m => { m with st := if halted then .halted else .ended, runHandle := none, inSeq := [], assembling := [] }
      let d := modRun d i fun r => { r with window := 0, openings := [], items := [], hostHalt := none, colls := if halted then [] else r.colls }
      let d := dropWaiting d i halted code
      if r.aborted then completeCmd d h .abortedByReset 0 []
      else if halted then completeCmd d h .programHalted code res
      else completeCmd d h .ok 0 (leBytes 8 (tickCount r) ++ leBytes 8 r.sched)
    | _, _ => d

def execRunEnd (d : DomId) (s : State) : Host.Outcome State Fault Refusal := onDev (fun x => runEnd x d) s

end Sys2Proof.Machine
end

