-- ==== Sys2Proof/Machine/Units.lean ====
section
/-! DEFINITION. L3 resets of single units through their isolation wrappers, and error responses (R443, R444, R472);
SP_CTRL.BANK_OFF (R226). -/

namespace Sys2Proof.Machine

/-- Items of a core or context that meet a unit receive an error response; one ledger entry for each instance that has none (R472). -/
def isolateItems (d : Device) (c : CtxId) (land : LandItem → Bool) (out : OutItem → Bool) : Device :=
  let s := streamOf d c
  let met := ((s.landing.filter land).map fun i => (i.sender, i.desc, i.inst)) ++ (s.outbound.filter out).map fun o => (c, o.desc, o.inst)
  let told := ((s.landing.filter (·.error.isSome)).map fun i => (i.sender, i.desc, i.inst)) ++
    (s.outbound.filter (·.error.isSome)).map fun o => (c, o.desc, o.inst)
  if met.isEmpty then d
  else
    let d := modStream d c fun s =>
      { s with landing := s.landing.map fun i => if land i then { i with error := some 0x04 } else i
               outbound := s.outbound.map fun o => if out o then { o with error := some 0x04 } else o }
    noteErrors d 0x04 ((met.eraseDups.filter fun x => !told.contains x).map (·.1))

/-- Transfers outstanding at a unit receive an error response; one ledger entry for each requester. -/
def isolateAt (d : Device) (hit : Device → CtxId → Nat → Bool) : Device :=
  forAll allCtxs d fun d c =>
    let h := hit d c
    let d := forAll ((getUnit d c).flights.filter (flightAt h)) d fun d f => isolated d c f
    isolateItems d c (fun i => !i.rotation && i.landed.isNone && i.error.isNone && h (itemAddr d c i.desc i.inst i.xfer))
      (fun o => o.granted && o.acked.isNone && o.error.isNone && h (itemAddr d c o.desc o.inst o.xfer))

/-- Stacks, ports and cores that a region of a partition touches: whether one of them satisfies a test of unit
numbers. Port n stands for optical engine 8 + n as well (R359, R368, R369). -/
def regionMeets (d : Device) (p : PartId) (a len : Nat) (test : Nat → Bool) : Bool :=
  let low := a % 2 ^ 44
  match a / 2 ^ 44 with
  | 1 => test (low / 2 ^ 22 % 512)
  | 3 => (List.range (min (len / 64 + 2) 256)).any fun k => test (0x3000 + (hbmMap d p (low + 64 * k)).1.val)
  | 4 => (List.range (min (len / 256 + 2) 4)).any fun k => test (0x2000 + (cxlMap d p (low + 256 * k)).1.val) || test (0x1008 + (cxlMap d p (low + 256 * k)).1.val)
  | _ => false

/-- Whether a scratchpad region of a host command touches a powered-down bank (R227). -/
def regionDark (d : Device) (a len : Nat) : Bool :=
  let c : CtxId := { core := finMod 512 (a % 2 ^ 44 / 2 ^ 22), ctx := finMod 2 (a % 2 ^ 44 / 2 ^ 31) }
  decide (a / 2 ^ 44 = 1) && !padPowered d c (a % 2 ^ 22) len

/-- Whether a scratchpad region that a host command writes touches a bank that takes no write (R227, R228). -/
def regionShut (d : Device) (a len : Nat) : Bool :=
  let c : CtxId := { core := finMod 512 (a % 2 ^ 44 / 2 ^ 22), ctx := finMod 2 (a % 2 ^ 44 / 2 ^ 31) }
  decide (a / 2 ^ 44 = 1) && !writeAccepted d c (a % 2 ^ 22) len (corePeriod d c.core)

/-- The device region that a command reads or writes. -/
def cmdRegion (c : Cmd) : Option (Nat × Nat) :=
  match c.job with
  | .loadTensor b => some (b.daddr.toNat, b.len.toNat)
  | .readTensor b => some (b.saddr.toNat, b.len.toNat)
  | _ => none

/-- Whether a command's transfers meet a unit in reset or a powered-down bank. -/
def cmdIsolated (d : Device) (c : Cmd) : Bool :=
  match cmdRegion c with
  | some (a, n) => regionMeets d c.hdr.part a n (fun u => d.rb.units.any fun x => x.1.toNat = u) ||
      match c.job with | .loadTensor _ => regionShut d a n | _ => regionDark d a n
  | none => false

/-- Whether a command's transfers meet a CXL port that is not MAPPED, which never answers (R369). -/
def cmdLost (d : Device) (c : Cmd) : Bool :=
  match cmdRegion c with
  | some (a, n) => regionMeets d c.hdr.part a n fun u => decide (u / 4096 = 2) && (vget d.cxlPorts (finMod 4 u)).st != .mapped
  | none => false

/-- Commands in progress whose transfers meet a unit that enters reset. -/
def isolateCmds (d : Device) : Device :=
  forAll (d.cmds.filter fun c => cmdIsolated d c) d isolateCmd

/-- The core or context that a transfer ends at, through the hub as well. -/
def endOf (d : Device) (c : CtxId) (f : Flight) : Option CtxId :=
  match f.req.kind with
  | .message chan _ _ _ => if isExternal d c f then (routeOf d c chan).bind (externalTarget d c) else targetCtx d c f
  | _ => targetCtx d c f

/-- Whether a transfer has still to act at a core. -/
def outstandingTo (d : Device) (c : CtxId) (k : CoreId) (f : Flight) : Bool :=
  f.error.isNone && (!f.arrived || accToward d k f) && !f.req.predOff && (endOf d c f).any fun t => t.core = k

/-- The error responses that an L3 reset of a core brings: to the senders of what is outstanding toward it, and of what is outstanding
from it, each with its entry (R443, R472). -/
def isolateCore (d : Device) (k : CoreId) : Device :=
  let own := (ctxsOf d k).flatMap (outstandingAt d) ++
    (((ctxsOf d k).filterMap (domOf d)).eraseDups.flatMap (activeInsts d)).filter fun c => c.core = k
  let adds := (ctxsOf d k).flatMap fun c => ((getUnit d c).adds.filter fun a => a.back.isSome).map fun _ => c
  let d := noteErrors d 0 (own ++ adds)
  let d := forAll (ctxsOf d k) d fun d c =>
    forAll ((streamOf d c).landing.filter fun i => i.rotation && i.error.isNone && i.sender.core != k) d rotationError
  forAll (allCtxs.filter fun c => c.core != k) d fun d c =>
    if (getUnit d c).flights.isEmpty then d else forAll ((getUnit d c).flights.filter (outstandingTo d c k)) d fun d f => isolated d c f

/-- An L3 reset of a core: a halt on the assertion tick, with the error responses and the abort of collective instances that it brings; its
state and scratchpad cleared, its weight records removed (R322, R443). -/
def resetCore (d : Device) (k : CoreId) : Device :=
  let cs := ctxsOf d k
  let is := (cs.filterMap (domOf d)).eraseDups
  let d := forAll cs (isolateCore d k) fun d c =>
    match runOf d c with
    | some _ =>
      let d := haltWith d c 0 (finMod 4 (2 * c.ctx.val)) 0 0
      (match domOf d c with | some i => modRun d i fun r => { r with aborted := true } | none => d)
    | none => d
  let d := forAll is d fun d i => abortActive d i 3
  let d := clearScratch (modCore d k fun x => clearedCore x true) k
  modPart d (partOfCore d k) fun x => { x with weights := x.weights.filter fun w => !(w.space = 1 && w.addr.toNat % 2 ^ 44 / 2 ^ 22 % 512 = k.val) }

/-- An L3 reset of a plane's optical engine: the plane goes DOWN, its retained frames move (R345). -/
def resetPlane (d : Device) (p : Fin 8) : Device :=
  let d := leavePlane d p .down
  modPlane d p fun _ => { PlaneLink.reset with st := downState d p }

/-- An L3 reset of a CXL port: its link retrains. A reset of optical engine 8 + n is one of port n, whose link it carries
(R368, R443). -/
def resetPort (d : Device) (k : Fin 4) : Device :=
  isolateAt (modPort d k fun x => { x with st := .training }) fun d c a => atPort d c k a

/-- An L3 reset of a stack: its contents are lost, and with them the weight records of the partition's space 0x3. -/
def resetStack (d : Device) (s : Fin 8) : Device :=
  let lo := s.val * hbmStackBytes
  let d := { d with hbm := memClear d.hbm lo (lo + hbmStackBytes) }
  let d := modStack d s fun x => { x with ready := false, epoch := x.epoch + 1, pchs := Vector.replicate 32 Pch.reset }
  let d := modPart d (partOfStack d s) fun x => { x with weights := x.weights.filter fun w => w.space != 3 }
  isolateAt d fun d c a => atStack d c s a

/-- The effect of an L3 reset of a unit. -/
def beginUnit (d : Device) (u : BitVec 16) : Device :=
  let n := unitIndex u
  let d := { d with rb := { d.rb with lastLevel := 3, lastUnit := u }
                    err := { d.err with armed := d.err.armed.filter fun a => !armedAtUnit u a } }
  let d := match unitType u with
    | 0 => resetCore d (finMod 512 n)
    | 1 => if n < 8 then resetPlane d (finMod 8 n) else resetPort d (finMod 4 (n - 8))
    | 2 => resetPort d (finMod 4 n)
    | 3 => resetStack d (finMod 8 n)
    | _ => collReset d
  isolateCmds d

/-- Begins an L3 reset, for which a command may wait. What is raised with it on its tick can make it more (R439). One of a unit already in
reset, or of a core of a partition in reset, is absorbed; any other begins anew what is in reset (R440). -/
def resetUnit (d : Device) (u : BitVec 16) (h : Option W32) : Device :=
  let (l, all, d) := joinRaised d 3 (unitParts d u)
  let p := partOfCore d (finMod 512 (unitIndex u))
  if l ≤ 2 then applyLevel d l all h.toList
  else if unitType u = 0 && (getPart d p).resetting then modPart d p fun x => { x with resetCmds := x.resetCmds ++ h.toList }
  else
    let begun := d.rb.units.any fun x => x.1 = u
    let d := { d with rb := { d.rb with units := d.rb.units ++ [(u, h)] } }
    if begun then d else beginUnit (forAll (resettingParts d) d resetL2) u

/-- UNIT_RESET: the host reset command at L3 acts on a unit that exists. -/
def execUnitReset (unit : BitVec 16) (s : State) : Host.Outcome State Fault Refusal :=
  onDev (fun d => if packageResetting d || !unitValid unit then d else resetUnit d unit none) s

/-- Whether a unit can leave reset: its pond runs, its plane has trained or is not to train, its port is MAPPED. -/
def canLeave (d : Device) (u : BitVec 16) : Bool :=
  let n := unitIndex u
  let mapped := fun (k : Fin 4) => decide ((vget d.cxlPorts k).st = .mapped)
  match unitType u with
  | 0 => decide ((getPond d (pondOf (finMod 512 n))).st = .running)
  | 1 => if n < 8 then decide ((getPlane d (finMod 8 n)).st != .training) else mapped (finMod 4 (n - 8))
  | 2 => mapped (finMod 4 n)
  | _ => true

/-- What the release of a unit leaves. -/
def releaseUnit (d : Device) (u : BitVec 16) : Device :=
  match unitType u with
  | 0 => modCore d (finMod 512 (unitIndex u)) fun k => { k with clearing := false, inReset := false }
  | 3 => modStack d (finMod 8 (unitIndex u)) (readyStack d)
  | 4 => collResetDone d
  | _ => d

/-- UNIT_RESET_DONE: the first unit whose reset can end leaves it, and the commands that wait for it complete. -/
def unitDone (d : Device) : Device :=
  match d.rb.units.find? fun x => canLeave d x.1 with
  | none => d
  | some (u, _) =>
    let waiting := (d.rb.units.filter fun x => x.1 = u).filterMap (·.2)
    let d := releaseUnit { d with rb := { d.rb with units := d.rb.units.filter fun x => x.1 != u } } u
    forAll waiting d fun d h => completeCmd d h .ok 0 []

def execUnitResetDone (s : State) : Host.Outcome State Fault Refusal := onDev unitDone s

/-- Whether a core address lies at a unit in reset, seen from a core or context. -/
def addrHeld (d : Device) (c : CtxId) (a : Nat) : Bool :=
  regionMeets d (partOfCore d c.core) a 1 fun u => d.rb.units.any fun x => x.1.toNat = u

/-- The oldest outstanding transfer of a core or context receives an error response: it is toward a unit in reset, or
detector 0x0181 is armed. -/
def errorTransfer (d : Device) (c : CtxId) : Device :=
  let inj := isArmed d 0x181 (coreUnit c)
  let hit := fun (a : Nat) => inj || addrHeld d c a
  match (getUnit d c).flights.find? fun f => f.error.isNone && !f.arrived && hit f.req.addr.toNat with
  | some f => isolated d c f
  | none =>
    match (streamOf d c).landing.find? fun i => i.landed.isNone && i.error.isNone && hit (itemAddr d c i.desc i.inst i.xfer) with
    | some i => isolateItems d c (fun x => x = i) fun _ => false
    | none =>
      match (streamOf d c).outbound.find? fun o => o.granted && o.acked.isNone && o.error.isNone && hit (itemAddr d c o.desc o.inst o.xfer) with
      | some o => isolateItems d c (fun _ => false) fun x => x = o
      | none => d

/-- ERROR_RESPONSE. -/
def errorResponse (d : Device) (r : Requester) : Device :=
  match r with
  | .transfer c => errorTransfer d c
  | .command h => match findCmd d h with
    | some c => if cmdIsolated d c then isolateCmd d c else d
    | none => d

def execErrorResponse (r : Requester) (s : State) : Host.Outcome State Fault Refusal := onDev (fun d => errorResponse d r) s

/-- BANK_OFF_WRITE: no register block but RESET takes a write in the boot state (R447). -/
def execBankOffWrite (core : CoreId) (value : W64) (s : State) : Host.Outcome State Fault Refusal :=
  onDev (fun d => if bootMode d then d else bankOffWrite d core value) s

end Sys2Proof.Machine
end

