-- ==== Sys2Proof/Machine/HostCmd.lean ====
section
/-! DEFINITION. Acceptance of host commands (R377–R388) and the commands themselves (R389–R400): what each checks, what
it does at once, and what its later steps do. -/

namespace Sys2Proof.Machine

/-! ### Taking a descriptor (R378, R379) -/

/-- Whether the device can take the next descriptor of a ring. -/
def ringReady (d : Device) (i : Fin 64) (fence : Bool) : Bool :=
  let r := vget d.rings i
  !bootMode d && r.enabled && !r.stopped && r.cmdHead != r.cmdTail && decide (r.outstanding.length < 32) && r.held.isEmpty &&
    (!fence || r.outstanding.isEmpty)

/-- The descriptor is fetched: its handle, and the ring moved on. -/
def fetchDesc (d : Device) (i : Fin 64) : W32 × Device :=
  let r := vget d.rings i
  let h : W32 := BitVec.ofNat 32 (i.val * 2 ^ 26 + r.seq.toNat)
  (h, modRing d i fun r => { r with cmdHead := BitVec.ofNat 16 ((r.cmdHead.toNat + 1) % cmdSize r), seq := r.seq + 1, outstanding := r.outstanding ++ [h] })

/-! ### Acceptance (R380) -/

/-- A failing check with its status, and the number that RESULT reports. -/
abbrev Refused := Option (Status × Nat)

/-- The first check of R380: the lowest offset of a bad item. -/
def badField (pre : Option Nat) (cs : Checks) : Refused :=
  match pre, firstFail cs with
  | some a, some b => some (.badDescriptor, min a b)
  | some a, none => some (.badDescriptor, a)
  | none, some b => some (.badDescriptor, b)
  | none, none => none

/-- The first failing check of a list: a status where its condition holds. -/
def firstOf (l : List (Bool × Status × Nat)) : Refused := (l.find? fun x => x.1).map (·.2)

def orElse (a : Refused) (b : Refused) : Refused := match a with | some x => some x | none => b

/-- RESULT of a command that fails acceptance (R382). -/
def failResult (st : Status) (n : Nat) : List Byte := if st = .badDescriptor || st = .capacity then leBytes 4 n else []

/-- Acceptance of the next descriptor of a ring as a given command. A command that needs ponds in retention starts their
wake and is accepted only after it (R430). -/
def acceptCmd (d : Device) (h : CmdHdr) (op : Byte) (fail : Refused) (wake : Option PartId) (go : Device → W32 → Device) : Device :=
  if !ringReady d h.ring h.fence then d
  else match fail with
    | some (st, n) =>
      let (hd, d) := fetchDesc d h.ring
      complete d hd h op st 0 (failResult st n)
    | none =>
      match wake with
      | some p =>
        let d := modPart d p fun x => { x with lastNeed := some d.clock.elapsed }
        if needsWake d p then startWake d (pondsOf d p) else let (hd, d) := fetchDesc d h.ring; go d hd
      | none => let (hd, d) := fetchDesc d h.ring; go d hd

/-- The acceptance entry of a long command, which goes on (R381). -/
def beginLong (d : Device) (hd : W32) (h : CmdHdr) (op : Byte) (job : Job) : Device :=
  let c : Cmd := { handle := hd, hdr := h, opcode := op, job := job, data := none, round := 0, active := false, failed := false, begun := false, pos := 0, got := [], held := false, release := 0, mute := false }
  postEntry { d with cmds := d.cmds ++ [c] } h.ring (cplEntry hd .ok false 0 h.tag op [])

/-- Partition of the function that owns a ring; none for the PF, which may name any (R373). -/
def vfOf (d : Device) (i : Fin 64) : Option Nat :=
  let f := (vget d.rings i).owner.toNat
  if f = 0 then none else some (vget d.vfPart (finMod 8 (f - 1))).toNat

/-- A function may name a partition. -/
def mayName (d : Device) (i : Fin 64) (p : PartId) : Bool := match vfOf d i with | none => true | some q => decide (q = p.val)

def isPF (d : Device) (i : Fin 64) : Bool := (vfOf d i).isNone

/-- The second check of R380 for a command that names a partition; a state-changing one needs the attachment (R388). -/
def rightsFail (d : Device) (h : CmdHdr) (attached : Bool) : Refused :=
  if !mayName d h.ring h.part || (attached && (getPart d h.part).attached != some h.ring) then some (.notPermitted, 0) else none

/-- TARGET names a present partition. -/
def targetOk (d : Device) (h : CmdHdr) : Nat × Bool := (2, partPresent d h.part)
/-- TARGET is unused and zero. -/
def noTarget (h : CmdHdr) : Nat × Bool := (2, h.part.val = 0 && h.dom.val = 0)

def aligned64 (a : W64) : Bool := decide (a.toNat % 64 = 0)
def len64 (n : W32) : Bool := n != 0 && decide (n.toNat % 64 = 0)

def cmdDom (h : CmdHdr) : DomId := { part := h.part, dom := h.dom }

/-! ### ATTACH, CONFIGURE_PARTITION, SET_MODE (R388, R399, R29) -/

def attachFail (d : Device) (h : CmdHdr) (action : Byte) (pre : Option Nat) : Refused :=
  let x := (getPart d h.part).attached
  orElse (badField pre [targetOk d h, (8, action = 1 || action = 2)]) <| orElse (rightsFail d h false) <|
    firstOf [(action = 2 && x != some h.ring, .stateConflict, 0), (action = 1 && x.isSome && x != some h.ring, .resourceBusy, 0)]

def attach (d : Device) (h : CmdHdr) (action : Byte) (pre : Option Nat) : Device :=
  acceptCmd d h 0x01 (attachFail d h action pre) none fun d hd =>
    complete (modPart d h.part fun p => { p with attached := if action = 1 then some h.ring else none }) hd h 0x01 .ok 0 []

def execAttach (h : CmdHdr) (action : Byte) (s : State) : Host.Outcome State Fault Refusal := onDev (fun d => attach d h action none) s

/-- Partition of VFk, k from 1, in VF_PART. -/
def vfByte (vf : W64) (k : Nat) : Nat := fieldNat vf (8 * k - 1) (8 * k - 8)

def configureFail (d : Device) (h : CmdHdr) (config : Byte) (vf : W64) (pre : Option Nat) : Refused :=
  let okCfg : Bool := config = 1 || config = 2 || config = 4
  orElse (badField pre ([noTarget h, (8, okCfg)] ++ (List.range 8).map fun k =>
      (9 + k, vfByte vf (k + 1) = 0xFF || decide (vfByte vf (k + 1) < if okCfg then config.toNat else 4)))) <|
    firstOf [(!isPF d h.ring, .notPermitted, 0), (anyLoaded d || !d.cmds.isEmpty, .stateConflict, 0)]

/-- The partitions after CONFIGURE_PARTITION: sealed, unattached, without weight records; the clock of each comes from
the partition that had its first die. DESIGN CHOICE: a clear in progress stays with the partition number it began under (log
entry 105). -/
def newParts (d : Device) (config : Nat) : Vector Part 4 :=
  vmapi d.parts fun p x =>
    let old := getPart d (partOfDie d (finMod 4 (p.val * (4 / config))))
    { x with openMode := false, attached := none, weights := [], emptySince := elapsedNs d, cxlValid := false, cxlUnits := 0,
             fcode := old.fcode, nextCode := old.nextCode, settling := old.settling, decided := old.decided, edge := old.edge,
             periods := old.periods, stretch := old.stretch, lastOwn := old.lastOwn }

/-- The ponds begin to count their stretches anew, so that those of a new partition are aligned (R409). -/
def alignPonds (d : Device) : Device :=
  { d with power := { d.power with notices := []
                                   ponds := d.power.ponds.map fun x => { x with count := 0, realignAt := none, demand := false, lastOwn := none } } }

def configureParts (d : Device) (config : Nat) (vf : W64) : Device :=
  let parts := newParts d config
  let d := alignPonds { d with parts := parts, config := config, vfPart := Vector.ofFn fun (k : Fin 8) => BitVec.ofNat 4 (vfByte vf (k.val + 1)) }
  forAll ((List.finRange 4).filter (partPresent d)) d mapPorts

def configurePartition (d : Device) (h : CmdHdr) (config : Byte) (vf : W64) (pre : Option Nat) : Device :=
  acceptCmd d h 0x02 (configureFail d h config vf pre) none fun d hd => complete (configureParts d config.toNat vf) hd h 0x02 .ok 0 []

def execConfigurePartition (h : CmdHdr) (config : Byte) (vfPart : W64) (s : State) : Host.Outcome State Fault Refusal :=
  onDev (fun d => configurePartition d h config vfPart none) s

def setModeFail (d : Device) (h : CmdHdr) (mode : Byte) (pre : Option Nat) : Refused :=
  orElse (badField pre [targetOk d h, (8, mode = 1 || mode = 2)]) <| orElse (rightsFail d h true) <| firstOf [(anyRunning d h.part, .stateConflict, 0)]

def setMode (d : Device) (h : CmdHdr) (mode : Byte) (pre : Option Nat) : Device :=
  acceptCmd d h 0x03 (setModeFail d h mode pre) none fun d hd => complete (modPart d h.part fun p => { p with openMode := mode = 2 }) hd h 0x03 .ok 0 []

def execSetMode (h : CmdHdr) (mode : Byte) (s : State) : Host.Outcome State Fault Refusal := onDev (fun d => setMode d h mode none) s

/-! ### LOAD_PROGRAM (R390, R391, R76) -/

def handlePending (d : Device) (i : DomId) : Bool := (getDom d i).runHandle.isSome

def loadFail (d : Device) (h : CmdHdr) (haddr : W64) (hlen : W32) (pre : Option Nat) : Refused :=
  let st := domState d (cmdDom h)
  orElse (badField pre [targetOk d h, (8, aligned64 haddr), (16, len64 hlen)]) <| orElse (rightsFail d h true) <|
    firstOf [(st = .loading || st = .running || (getPart d h.part).clearing, .stateConflict, 0), (handlePending d (cmdDom h), .resourceBusy, 0)]

def loadProgram (d : Device) (h : CmdHdr) (haddr : W64) (hlen : W32) (pre : Option Nat) : Device :=
  acceptCmd d h 0x04 (loadFail d h haddr hlen pre) (some h.part) fun d hd =>
    beginLong (modDom d (cmdDom h) fun m => { m with st := .loading, prior := m.st, pennant := none }) hd h 0x04 (.loadProgram haddr hlen)

def execLoadProgram (h : CmdHdr) (haddr : W64) (hlen : W32) (s : State) : Host.Outcome State Fault Refusal :=
  onDev (fun d => loadProgram d h haddr hlen none) s

/-- Whether a host-memory read that a command makes as it is accepted fails: the host has no memory there, or an armed event
poisons it (R402, R471). -/
def readFails (d : Device) (ring : Fin 64) : Bool :=
  !Config.hostWorks d.freeCtr || isArmed d 0x150 (BitVec.ofNat 16 (vget d.rings ring).owner.toNat)

/-- The read that a command makes as it is accepted: its outcome is drawn, and an event tells of one that it is refused for. -/
def noteReadFail (d : Device) (h : CmdHdr) (reads : Bool) (fail : Refused) : Device :=
  if !(reads && ringReady d h.ring h.fence) then d
  else
    let (n, d) := drawFree d
    if fail = some (.isolatedError, 0) then (hostAccess d h.ring true (Config.hostWorks n)).2 else d

def overlayFail (d : Device) (h : CmdHdr) (haddr : W64) (hlen : W32) (pre : Option Nat) : Refused :=
  let st := domState d (cmdDom h)
  let im := readBytes d .host haddr.toNat hlen.toNat
  let poisoned := readFails d h.ring
  orElse (badField pre [targetOk d h, (8, aligned64 haddr), (16, len64 hlen)]) <| orElse (rightsFail d h true) <|
    orElse (firstOf [(st = .empty || st = .loading, .stateConflict, 0), (poisoned, .isolatedError, 0)]) <|
    orElse ((firstFail (overlayChecks d (cmdDom h) im)).map fun o => (.badDescriptor, o)) <|
    firstOf [((overlayPages d im).any fun x => pageLocked (getCore d x.1) x.2.val, .resourceBusy, 0)]

/-- Sets the target pages of an overlay image. -/
def overlayMark (d : Device) (im : List Byte) (st : PageState) : Device :=
  forAll (overlayPages d im) d fun d x => modCore d x.1 fun k => setPages k [x.2] st

/-- An overlay accepted during a run joins the overlay digest (R460). -/
def chainOverlay (d : Device) (i : DomId) (im : List Byte) : Device :=
  if domState d i = .running then
    modDom d i fun m => { m with overlays := true, overlay := sha384 (digestBytes m.overlay ++ digestBytes (sha384 im)) }
  else d

def loadOverlay (d : Device) (h : CmdHdr) (haddr : W64) (hlen : W32) (pre : Option Nat) : Device :=
  let fail := overlayFail d h haddr hlen pre
  let d := noteReadFail d h true fail
  acceptCmd d h 0x04 fail (some h.part) fun d hd =>
    let im := readBytes d .host haddr.toNat hlen.toNat
    let d := modDom (chainOverlay (overlayMark d im .loading) (cmdDom h) im) (cmdDom h) fun m => { m with pennant := none }
    beginLong d hd h 0x04 (.overlay im)

def execLoadProgramOverlay (h : CmdHdr) (haddr : W64) (hlen : W32) (s : State) : Host.Outcome State Fault Refusal :=
  onDev (fun d => loadOverlay d h haddr hlen none) s

/-- The first command of a domain whose work satisfies a test. -/
def jobOf (d : Device) (i : DomId) (test : Cmd → Bool) : Option Cmd := d.cmds.find? fun c => c.hdr.part = i.part && c.hdr.dom = i.dom && test c

/-- OVERLAY_LOADED: the last bundle is written, unless a core is held in reset (R401); a page that a late setwin waits for becomes ready (R74, R77). -/
def overlayLoaded (d : Device) (i : DomId) : Device :=
  match jobOf d i fun c => match c.job with | .overlay _ => true | _ => false with
  | none => d
  | some c => match c.job, (getDom d i).prog with
    | .overlay im, some g =>
      if (overlayPages d im).any fun x => (getCore d x.1).inReset then isolateCmd d c
      else
      let d := forAll (overlaySects im) d fun d s =>
        let q := parsePages im s
        modCore d q.ctx.core fun k => fillPages k.split k q
      let d := modRun d i fun r =>
        { r with items := r.items ++ (overlayPages d im).map fun x => { ref := .overlay x.1 x.2, due := 0, ready := some r.period, cause := 6 } }
      completeCmd d c.handle .ok 0 (leBytes 8 g.floorKHz ++ leBytes 8 (g.digest.toNat % 2 ^ 64))
    | _, _ => d

def execOverlayLoaded (d : DomId) (s : State) : Host.Outcome State Fault Refusal := onDev (fun x => overlayLoaded x d) s

/-! ### LOAD_TENSOR (R392) -/

/-- A device region of a partition, in spaces 0x1 to 0x4 (R389). -/
def regionOf (d : Device) (p : PartId) (a : W64) (n : Nat) : Option Target :=
  let s := a.toNat / 2 ^ 44
  if 1 ≤ s && s ≤ 4 && aligned64 a then (match resolve d p none a.toNat n with | .ok t => some t | _ => none) else none

/-- SCORE and SFLAG: used with SIGNAL, else zero. -/
def signalFields (signal : Bool) (score : BitVec 16) (sflag : Byte) (so fo : Nat) : Checks :=
  [(so, if signal then decide (score.toNat < 1024) else score = 0), (fo, signal || sflag = 0)]

/-- The core or context that SCORE names, and the domain it runs in, if that domain is RUNNING. -/
def scoreCtx (score : BitVec 16) : CtxId := ctxOfScore (score.toNat % 1024)
def scoreRunning (d : Device) (p : PartId) (score : BitVec 16) : Bool :=
  let c := scoreCtx score
  partOfCore d c.core = p && match domOf d c with | some i => domState d i = .running | none => false

/-- SFLAG is a class-2 flag of SCORE under its binary. -/
def signalFlag (d : Device) (score : BitVec 16) (sflag : Byte) : Bool :=
  let c := scoreCtx score
  match progOf d c with
  | some g => decide (sflag.toNat < flagsOf g c.core) && decide (flagClass g c sflag.toNat = 2)
  | none => false

/-- Whether two ranges of one space meet, and whether the first covers the second. -/
def overlaps (w : Weight) (a n : Nat) : Bool := decide (w.addr.toNat < a + n) && decide (a < w.addr.toNat + w.len.toNat)
def covers (w : Weight) (a n : Nat) : Bool := decide (a ≤ w.addr.toNat) && decide (w.addr.toNat + w.len.toNat ≤ a + n)

/-- A scratchpad command meets a clear (R229). -/
def clearingAt (d : Device) (p : PartId) (t : Option Target) : Bool :=
  match t with
  | some (.scratch c _) => (getPart d p).clearing || (getCore d c.core).clearing
  | _ => false

/-- The partition whose ponds a scratchpad region needs. -/
def wakeFor (p : PartId) (t : Option Target) : Option PartId := match t with | some (.scratch _ _) => some p | _ => none

def tensorFail (d : Device) (h : CmdHdr) (b : LoadTensorBody) (pre : Option Nat) : Refused :=
  let t := regionOf d h.part b.daddr b.len.toNat
  let run := anyRunning d h.part
  orElse (badField pre ([targetOk d h, (8, aligned64 b.haddr), (16, t.isSome), (24, len64 b.len)] ++ signalFields b.signal b.score b.sflag 30 32)) <|
    orElse (rightsFail d h true) <| firstOf
      [(clearingAt d h.part t, .stateConflict, 0), (run && (!b.signal || b.weight || !scoreRunning d h.part b.score), .stateConflict, 0),
       (!run && b.signal, .stateConflict, 0), (run && !signalFlag d b.score b.sflag, .badDescriptor, 32),
       (b.weight && (getPart d h.part).weights.any fun w => overlaps w b.daddr.toNat b.len.toNat && !covers w b.daddr.toNat b.len.toNat, .badDescriptor, 16)]

def loadTensor (d : Device) (h : CmdHdr) (b : LoadTensorBody) (pre : Option Nat) : Device :=
  acceptCmd d h 0x05 (tensorFail d h b pre) (wakeFor h.part (regionOf d h.part b.daddr b.len.toNat)) fun d hd => beginLong d hd h 0x05 (.loadTensor b)

def execLoadTensor (h : CmdHdr) (b : LoadTensorBody) (s : State) : Host.Outcome State Fault Refusal := onDev (fun d => loadTensor d h b none) s

/-- A memory address further on. -/
def alongTarget (t : Target) (k : Nat) : Target :=
  match t with
  | .scratch c off => .scratch c (off + k)
  | .reservoir off => .reservoir (off + k)
  | .hbm off => .hbm (off + k)
  | .cxl off => .cxl (off + k)
  | t => t

/-- Injected events of the host's accesses of a memory region, one access for each 64 bytes: whether one of them
fails. -/
def hostEvents (d : Device) (p : PartId) (t : Target) (n : Nat) (read : Bool) : Bool × Device :=
  (List.range ((n + 63) / 64)).foldl (fun a k =>
    let (m, d) := tierEvents a.2 none p (alongTarget t (64 * k)) read
    (a.1 || m.error.isSome, d)) (false, d)

/-- Writes host data to a device region; scratchpad words take sound parity. -/
def hostWrite (d : Device) (p : PartId) (t : Target) (bs : List Byte) : Device :=
  match t with
  | .scratch c off => storePad d c off bs
  | _ => writeTarget (hostEvents d p t bs.length false).2 p t bs

/-- The weight record of a region replaces those that it covers. -/
def recordWeight (d : Device) (p : PartId) (a : W64) (n : W32) (bs : List Byte) : Device :=
  modPart d p fun x =>
    { x with weights := (x.weights.filter fun w => !overlaps w a.toNat n.toNat) ++
      [{ space := BitVec.ofNat 8 (a.toNat / 2 ^ 44), addr := a, len := n, digest := sha384 bs }] }

/-- Whether the flag signal of a command meets a core in reset, whose wrapper answers it with an error (R443). -/
def signalHeld (d : Device) (signal : Bool) (score : BitVec 16) : Bool := signal && (getCore d (scoreCtx score).core).inReset

/-- SFLAG rises by 1. -/
def raiseSignal (d : Device) (signal : Bool) (score : BitVec 16) (sflag : Byte) : Device :=
  if signal then pendAdd d (scoreCtx score) sflag 1 else d

/-- Whether a program request of a partition's present tick is still to come: a host command's requests act after it (R506). -/
def requestsDue (d : Device) (p : PartId) : Bool :=
  (coresOf d p).any fun k => (List.finRange 2).any fun x =>
    let c : CtxId := { core := k, ctx := x }
    reservoirDue d c || grantRows.any (grantDue d c)

/-- Requests of a command's region: one for each 64 bytes. -/
def requestCount (len : Nat) : Nat := (len + 63) / 64

/-- The next k requests of a LOAD_TENSOR act: host bytes are written to its region. -/
def loadSome (d : Device) (c : Cmd) (b : LoadTensorBody) (t : Target) (k : Nat) : Device :=
  let a := 64 * c.pos
  let bs := readBytes d .host (b.haddr.toNat + a) (min (64 * k) (b.len.toNat - a))
  hostWrite (modCmd d c.handle fun c => { c with pos := c.pos + k }) c.hdr.part (alongTarget t a) bs

/-- LOAD_TENSOR_DONE: the requests that are left act, and the command completes; or the read of host memory has failed, and an
unstated part of them acts. -/
def loadTensorDone (d : Device) (handle : W32) (hostOk : Bool) : Device :=
  match findCmd d handle with
  | none => d
  | some c => match c.job with
    | .loadTensor b =>
      match regionOf d c.hdr.part b.daddr b.len.toNat with
      | none => d
      | some t =>
        if requestsDue d c.hdr.part || cmdLost d c then d
        else if cmdIsolated d c then isolateCmd d c
        else
          let (ok, d) := hostAccess d c.hdr.ring true hostOk
          let left := requestCount b.len.toNat - c.pos
          if ok && !c.failed then
            let d := loadSome d c b t left
            let d := if b.weight then recordWeight d c.hdr.part b.daddr b.len (readBytes d .host b.haddr.toNat b.len.toNat) else d
            if signalHeld d b.signal b.score then isolateCmd d c else completeCmd (raiseSignal d b.signal b.score b.sflag) handle .ok 0 []
          else
            let (n, d) := drawFree d
            completeCmd (loadSome d c b t ((Config.freeWord n).toNat % (left + 1))) handle .isolatedError 0 []
    | _ => d

def execLoadTensorDone (handle : W32) (hostOk : Bool) (s : State) : Host.Outcome State Fault Refusal := onDev (fun d => loadTensorDone d handle hostOk) s

/-! ### RUN and HALT (R257, R343, R393, R394, R460) -/

/-- Whether the binary names a fabric address of another package. -/
def namesOther (d : Device) (g : Program) : Bool :=
  let other := fun (a : Nat) => decide (a / 4 != d.fab.index.toNat)
  (g.routes.any fun r => r.2.any fun e => e.kind = 3 && other e.taddr.toNat) || (g.inbound.any fun e => e.kind != 0 && other e.src.toNat) ||
    g.groups.any fun l => decide (1 < l.length) && l.any fun a => other a.toNat

/-- A weight load is in progress in a partition. -/
def weightLoading (d : Device) (p : PartId) : Bool := d.cmds.any fun c => c.hdr.part = p && match c.job with | .loadTensor b => b.weight | _ => false

/-- The image that RUN reads. -/
def runImage (d : Device) (b : RunBody) : List Byte := if b.restore then readBytes d .host b.image.toNat b.ilen.toNat else []

def runFail (d : Device) (h : CmdHdr) (b : RunBody) (pre : Option Nat) : Refused :=
  let i := cmdDom h
  let m := getDom d i
  let poisoned := b.restore && readFails d h.ring
  let far := match m.prog with | some g => needsFabric g && namesOther d g && !(List.finRange 8).any (planeActive d) | none => false
  orElse (badField pre [targetOk d h, (24, if b.restore then aligned64 b.image else b.image = 0), (32, if b.restore then len64 b.ilen else b.ilen = 0)]) <|
    orElse (rightsFail d h true) <| orElse (firstOf
      [(!(domState d i = .loaded || domState d i = .ended || domState d i = .halted) || (getPart d h.part).clearing || (domCtxs d i).any (fun c => (getCore d c.core).clearing), .stateConflict, 0),
       (handlePending d i || weightLoading d h.part, .resourceBusy, 0), (far, .fabricUnreachable, 0), (poisoned, .isolatedError, 0)]) <|
    if b.restore then (imageFail d i (runImage d b)).map fun o => (.badDescriptor, o) else none

/-- The order of weight records in the weights digest. -/
def weightKey (w : Weight) : Nat := w.space.toNat * 2 ^ 64 + w.addr.toNat
def insertWeight (w : Weight) : List Weight → List Weight
  | [] => [w]
  | x :: rest => if weightKey w < weightKey x then w :: x :: rest else x :: insertWeight w rest

/-- The weights digest of a partition (R460). -/
def weightsDigest (p : Part) : Digest :=
  sha384 ((p.weights.foldl (fun l w => insertWeight w l) []).flatMap fun w =>
    [w.space] ++ leBytes 7 0 ++ leBytes 8 w.addr.toNat ++ leBytes 4 w.len.toNat ++ leBytes 4 0 ++ leBytes 40 w.digest.toNat)

/-- The record of a run from its acceptance to its first tick. -/
def freshRun (mode : Bool) (session : W64) : Run where
  tick := 0
  ramp := 0
  period := 0
  sched := 0
  ledger := Vector.replicate 7 0
  miss := 0
  mayvary := 0
  openMode := mode
  session := session
  restored := false
  started := false
  resuming := false
  paceStart := 0
  tStart := 0
  stalled := false
  items := []
  first := none
  abortAt := none
  hostHalt := none
  halting := false
  window := 0
  openings := []
  deadline := 0
  missed := []
  rampStep := 0
  pointDue := false
  closed := false
  lastTick := 0
  endNs := 0
  ended := false
  elapsed := 0
  tainted := false
  aborted := false
  colls := []
  collNext := Vector.replicate 16 0
  collAbort := []

/-- The domain is RUNNING: the owed refreshes are issued, the digests of the run are taken (R50, R460). -/
def beginRun (d : Device) (i : DomId) (hd : W32) (b : RunBody) : Device :=
  let x := getPart d i.part
  let im := runImage d b
  let d := modDom d i fun m =>
    { m with st := .running, run := some (freshRun x.openMode b.session), runHandle := some hd, pennant := none, overlay := 0, overlays := false,
             weightsAtRun := weightsDigest x, restoreDigest := if b.restore then sha384 im else 0 }
  runRefresh d i.part

def run (d : Device) (h : CmdHdr) (b : RunBody) (pre : Option Nat) : Device :=
  let fail := runFail d h b pre
  let d := noteReadFail d h b.restore fail
  acceptCmd d h 0x06 fail none fun d hd => beginLong (beginRun d (cmdDom h) hd b) hd h 0x06 (.run (runImage d b))

def execRun (h : CmdHdr) (b : RunBody) (s : State) : Host.Outcome State Fault Refusal := onDev (fun d => run d h b none) s

def haltFail (d : Device) (h : CmdHdr) (pre : Option Nat) : Refused :=
  orElse (badField pre [targetOk d h]) <| orElse (rightsFail d h true) <| firstOf [(domState d (cmdDom h) != .running, .stateConflict, 0)]

/-- HALT is short: it waits without an entry until it takes effect, or the run ends. -/
def halt (d : Device) (h : CmdHdr) (pre : Option Nat) : Device :=
  acceptCmd d h 0x07 (haltFail d h pre) none fun d hd =>
    let c : Cmd := { handle := hd, hdr := h, opcode := 0x07, job := .halt, data := none, round := 0, active := true, failed := false, begun := false, pos := 0, got := [], held := false, release := 0, mute := false }
    modRun { d with cmds := d.cmds ++ [c] } (cmdDom h) fun r => { r with hostHalt := some (r.hostHalt.getD hd) }

def execHalt (h : CmdHdr) (s : State) : Host.Outcome State Fault Refusal := onDev (fun d => halt d h none) s

/-! ### SNAPSHOT (R395) -/

def snapshotFail (d : Device) (h : CmdHdr) (haddr : W64) (hlen : W32) (bctx : Byte) (pre : Option Nat) : Refused :=
  let i := cmdDom h
  let st := domState d i
  let claims := (getBar d (finMod 64 bctx.toNat)).claim = some i
  let need := imageLength d i
  orElse (badField pre [targetOk d h, (8, aligned64 haddr), (16, len64 hlen), (20, decide (bctx.toNat ≤ 63) || bctx = 0xFF)]) <|
    orElse (rightsFail d h true) <| firstOf
      [(!(st = .running || st = .ended || st = .halted) || (getPart d h.part).clearing, .stateConflict, 0),
       (if st = .running then bctx = 0xFF || !claims else bctx != 0xFF, .stateConflict, 0),
       (st != .running && handlePending d i, .resourceBusy, 0), (decide (hlen.toNat < need), .capacity, need)]

def snapshot (d : Device) (h : CmdHdr) (haddr : W64) (hlen : W32) (bctx : Byte) (pre : Option Nat) : Device :=
  acceptCmd d h 0x08 (snapshotFail d h haddr hlen bctx pre) (some h.part) fun d hd =>
    let i := cmdDom h
    let d := beginLong d hd h 0x08 (.snapshot haddr hlen bctx)
    if bctx = 0xFF then
      let t := match (getDom d i).run with | some r => r.lastTick | none => 0
      modCmd d hd fun c => { c with active := true, data := some (captureImage d i t, t) }
    else modCmd d hd fun c => { c with round := releasedRounds (getBar d (finMod 64 bctx.toNat)) }

def execSnapshot (h : CmdHdr) (haddr : W64) (hlen : W32) (bctx : Byte) (s : State) : Host.Outcome State Fault Refusal :=
  onDev (fun d => snapshot d h haddr hlen bctx none) s

/-- The stall of a capture can end. -/
def endCopy (d : Device) (i : DomId) : Device :=
  modRun d i fun r => { r with items := r.items.map fun x => match x.ref with | .copy => { x with ready := some (x.ready.getD r.period) } | _ => x }

/-- SNAPSHOT_COPY_DONE: the image has been copied to the host. -/
def copyDone (d : Device) (i : DomId) (hostOk : Bool) : Device :=
  match jobOf d i fun c => c.data.isSome && match c.job with | .snapshot _ _ _ => true | _ => false with
  | none => d
  | some c => match c.job, c.data with
    | .snapshot haddr _ b, some (im, t) =>
      let d := if b = 0xFF then d else endCopy d i
      let (ok, d) := hostAccess d c.hdr.ring false hostOk
      if ok then completeCmd (writeBytes d .host haddr.toNat im) c.handle .ok 0 (leBytes 8 t ++ leBytes 4 im.length)
      else completeCmd d c.handle .isolatedError 0 []
    | _, _ => d

def execSnapshotCopyDone (d : DomId) (hostOk : Bool) (s : State) : Host.Outcome State Fault Refusal := onDev (fun x => copyDone x d hostOk) s

/-! ### READ_TENSOR (R56, R396) -/

def readFail (d : Device) (h : CmdHdr) (b : ReadTensorBody) (pre : Option Nat) : Refused :=
  let i := cmdDom h
  let t := regionOf d h.part b.saddr b.len.toNat
  let now := b.bctx = 0xFF
  let bar := getBar d (finMod 64 b.bctx.toNat)
  orElse (badField pre ([targetOk d h, (8, aligned64 b.haddr), (16, t.isSome), (24, len64 b.len), (28, decide (b.bctx.toNat ≤ 63) || now),
      (29, decide (b.dpoint.toNat ≤ 64)), (32, !now || b.round = 0)] ++ signalFields b.signal b.score b.sflag 36 38)) <|
    orElse (rightsFail d h false) <| firstOf
      [(clearingAt d h.part t, .stateConflict, 0), (now && (anyRunning d h.part || b.signal), .stateConflict, 0),
       (!now && (domState d i != .running || bar.claim != some i || decide (b.round.toNat < releasedRounds bar)), .stateConflict, 0),
       (b.signal && !(scoreRunning d h.part b.score && signalFlag d b.score b.sflag), .badDescriptor, 38)]

/-- Reads a device region for the host: the bytes, or none after a persistent error (R225, R365, R471). -/
def hostRead (d : Device) (p : PartId) (t : Target) (n : Nat) : Option (List Byte) × Device :=
  match t with
  | .scratch c off =>
    let (bad, d) := parityHost d c off n
    (if bad then none else some (readTarget d p t n), d)
  | _ =>
    let (bad, d) := hostEvents d p t n true
    (if bad then none else some (readTarget d p t n), d)

/-- The next k requests of a READ_TENSOR act: its bytes are gathered; a persistent error ends the command. -/
def readSome (d : Device) (c : Cmd) (b : ReadTensorBody) (t : Target) (k : Nat) : Device :=
  let a := 64 * c.pos
  let (bs, d) := hostRead d c.hdr.part (alongTarget t a) (min (64 * k) (b.len.toNat - a))
  match bs with
  | none => completeCmd d c.handle .isolatedError 0 []
  | some bs => modCmd d c.handle fun c => { c with pos := c.pos + k, got := c.got ++ bs }

/-- The last byte of a READ_TENSOR has been read: its data is complete, and its SFLAG rises. -/
def readEnd (d : Device) (handle : W32) (b : ReadTensorBody) : Device :=
  match findCmd d handle with
  | none => d
  | some c => if signalHeld d b.signal b.score then isolateCmd d c else raiseSignal (modCmd d handle fun c => { c with data := some (c.got, c.round) }) b.signal b.score b.sflag

/-- The requests of a READ_TENSOR that are left act. -/
def captureRead (d : Device) (c : Cmd) (b : ReadTensorBody) : Device :=
  match regionOf d c.hdr.part b.saddr b.len.toNat with
  | none => d
  | some t =>
    if requestsDue d c.hdr.part || cmdLost d c then d
    else if cmdIsolated d c then isolateCmd d c
    else readEnd (readSome d c b t (requestCount b.len.toNat - c.pos)) c.handle b

/-- Requests of the data phases in progress in a partition take grants of the present tick that pass unused, after every program
request of it. DESIGN CHOICE: how many do is a free value (R392, R396, R506; log entry 73). -/
def hostGrants (d : Device) (p : PartId) : Device :=
  forAll (d.cmds.filter fun c => c.hdr.part = p) d fun d c =>
    if cmdIsolated d c || cmdLost d c then d
    else
      let (n, d) := drawFree d
      let share := fun (len : Nat) => (Config.freeWord n).toNat % (requestCount len - c.pos + 1)
      match c.job with
      | .loadTensor b => match regionOf d p b.daddr b.len.toNat with
        | some t => loadSome d c b t (share b.len.toNat)
        | none => d
      | .readTensor b => match regionOf d p b.saddr b.len.toNat with
        | some t => if c.begun && c.data.isNone && !c.failed then readSome d c b t (share b.len.toNat) else d
        | none => d
      | _ => d

def readTensor (d : Device) (h : CmdHdr) (b : ReadTensorBody) (pre : Option Nat) : Device :=
  acceptCmd d h 0x09 (readFail d h b pre) (wakeFor h.part (regionOf d h.part b.saddr b.len.toNat)) fun d hd =>
    let d := beginLong d hd h 0x09 (.readTensor b)
    if b.bctx = 0xFF then modCmd d hd fun c => { c with active := true } else modCmd d hd fun c => { c with round := b.round.toNat }

def execReadTensor (h : CmdHdr) (b : ReadTensorBody) (s : State) : Host.Outcome State Fault Refusal := onDev (fun d => readTensor d h b none) s

/-- READ_TENSOR_CAPTURE: the data phase begins, at once or on the capture tick (R396). -/
def readCapture (d : Device) (handle : W32) : Device :=
  match findCmd d handle with
  | none => d
  | some c => match c.job with
    | .readTensor _ =>
      if !c.active || c.begun || c.failed then d
      else if cmdIsolated d c then isolateCmd d c
      else modCmd d handle fun c => { c with begun := true }
    | _ => d

def execReadTensorCapture (handle : W32) (s : State) : Host.Outcome State Fault Refusal := onDev (fun d => readCapture d handle) s

/-- When deadline point k of a domain's run lies, in sixteenths of 1 ns of the time counter; none where no output is tagged to it, or
where it was missed (R56). -/
def pointTime (d : Device) (i : DomId) (k : Nat) : Option Nat :=
  match (getDom d i).run, (getDom d i).prog.bind (·.pace) with
  | some r, some p =>
    if k = 0 || r.missed.contains (k - 1) then none
    else (p.points[k - 1]?).map fun x => (r.paceStart + x.2) * 16 - 16 * r.elapsed
  | _, _ => none

/-- The data goes to the host, and the command completes. -/
def finishRead (d : Device) (c : Cmd) (b : ReadTensorBody) (hostOk : Bool) : Device :=
  match c.data with
  | none => d
  | some (bs, t) =>
    let (ok, d) := hostAccess d c.hdr.ring false hostOk
    if ok && !c.failed then completeCmd (writeBytes d .host b.haddr.toNat bs) c.handle .ok 0 (leBytes 8 t ++ leBytes 4 bs.length)
    else completeCmd d c.handle .isolatedError 0 []

/-- Its data is complete: it is written to the host, or withheld until its deadline point (R56). -/
def deliverRead (d : Device) (c : Cmd) (b : ReadTensorBody) (hostOk : Bool) : Device :=
  match pointTime d { part := c.hdr.part, dom := c.hdr.dom } b.dpoint.toNat with
  | some t => if d.clock.time16 < t then modCmd d c.handle fun c => { c with held := true, release := t, failed := !hostOk } else finishRead d c b hostOk
  | none => finishRead d c b hostOk

/-- READ_TENSOR_DONE: the last byte has been read, and the data is written or withheld. A read that failed twice ends with
ISOLATED_ERROR (R365). -/
def readDone (d : Device) (handle : W32) (hostOk : Bool) : Device :=
  match findCmd d handle with
  | none => d
  | some c => match c.job with
    | .readTensor b =>
      if c.held || !c.begun then d
      else if c.failed then completeCmd d handle .isolatedError 0 []
      else
        let d := if c.data.isNone then captureRead d c b else d
        match findCmd d handle with
        | some c => if c.data.isSome then deliverRead d c b hostOk else d
        | none => d
    | _ => d

def execReadTensorDone (handle : W32) (hostOk : Bool) (s : State) : Host.Outcome State Fault Refusal := onDev (fun d => readDone d handle hostOk) s

/-- PACED_OUTPUT_RELEASE: withheld output whose point has come, or was missed, is released, whatever has become of its run. -/
def pacedRelease (d : Device) (i : DomId) : Device :=
  forAll (d.cmds.filter fun c => c.held && c.hdr.part = i.part && c.hdr.dom = i.dom) d fun d c => match c.job with
    | .readTensor b => if d.clock.time16 < c.release then d else finishRead d c b (!c.failed)
    | _ => d

def execPacedOutputRelease (d : DomId) (s : State) : Host.Outcome State Fault Refusal := onDev (fun x => pacedRelease x d) s

/-! ### ISSUE_PENNANT (R397, R461, R466, R476) -/

def pennantFail (d : Device) (h : CmdHdr) (haddr : W64) (hlen : W32) (pre : Option Nat) : Refused :=
  let m := getDom d (cmdDom h)
  orElse (badField pre [targetOk d h, (8, aligned64 haddr), (16, len64 hlen)]) <| orElse (rightsFail d h true) <| firstOf
    [(!d.sec.idValid, .debugOpen, 0), (domState d (cmdDom h) != .ended || m.pennant.isNone, .stateConflict, 0),
     (match m.pennant with | some x => x.tainted | none => false, .notPermitted, 0), (decide (hlen.toNat < 592), .capacity, 592)]

def issuePennant (d : Device) (h : CmdHdr) (haddr : W64) (hlen : W32) (pre : Option Nat) : Device :=
  acceptCmd d h 0x0A (pennantFail d h haddr hlen pre) none fun d hd =>
    match (getDom d (cmdDom h)).pennant with
    | some x => enqueueSign (beginLong d hd h 0x0A (.pennant haddr x.bytes)) (.pennant hd)
    | none => d

def execIssuePennant (h : CmdHdr) (haddr : W64) (hlen : W32) (s : State) : Host.Outcome State Fault Refusal := onDev (fun d => issuePennant d h haddr hlen none) s

/-- PENNANT_SIGNED: the pennant at the head of the engine's queue is signed and written. -/
def pennantSigned (d : Device) (hostOk : Bool) : Device :=
  match d.sec.queue with
  | .pennant hd :: _ =>
    let d := dequeueSign d
    match findCmd d hd with
    | none => d
    | some c => match c.job with
      | .pennant haddr body =>
        let (ok, d) := hostAccess d c.hdr.ring false hostOk
        let bs := leBytes 496 body.toNat
        let sig := ecdsaSign d.sec.seed d.sec.serial (sha384 bs)
        if ok then completeCmd (writeBytes d .host haddr.toNat (bs ++ leBytes 96 sig.toNat)) hd .ok 0 (leBytes 4 592)
        else completeCmd d hd .isolatedError 0 []
      | _ => d
  | _ => d

def execPennantSigned (hostOk : Bool) (s : State) : Host.Outcome State Fault Refusal := onDev (fun d => pennantSigned d hostOk) s

/-! ### QUERY (R398) -/

/-- The record that KIND selects. -/
def queryRecord (d : Device) (h : CmdHdr) (kind : Byte) : List Byte :=
  match kind.toNat with
  | 0 =>
    leBytes 2 0x4025 ++ [d.sec.stepping, 1, BitVec.ofNat 8 d.config, BitVec.ofNat 8 (d.rb.cfgCode.toNat % 8)] ++
      leBytes 2 (if d.fab.valid then d.fab.index.toNat else 0) ++ spareBytes d ++ digestBytes d.sec.spDigest ++ digestBytes d.sec.fwDigest ++ digestBytes (idDigest d)
  | 1 =>
    let p := getPart d h.part
    [BitVec.ofNat 8 d.config, if p.openMode then 2 else 1, match p.attached with | some r => BitVec.ofNat 8 r.val | none => 0xFF,
      BitVec.ofNat 8 ((if p.clearing then 1 else 0) + (if d.sec.debugOpened then 2 else 0) + if weightLoading d h.part then 4 else 0)] ++
      (domsOf h.part).map (fun i => BitVec.ofNat 8 (domCode (domState d i))) ++ leBytes 4 0
  | _ =>
    match (getDom d (cmdDom h)).run with
    | none => leBytes 88 0
    | some r => r.ledger.toList.flatMap (fun w => leBytes 8 w.toNat) ++ leBytes 8 r.miss.toNat ++ leBytes 8 r.mayvary.toNat ++ leBytes 8 r.sched ++ leBytes 8 (tickCount r)

def queryFail (d : Device) (h : CmdHdr) (kind : Byte) (haddr : W64) (hlen : W32) (pre : Option Nat) : Refused :=
  let need := (queryRecord d h kind).length
  orElse (badField pre [if kind = 0 then noTarget h else targetOk d h, (8, decide (kind.toNat ≤ 2)), (16, aligned64 haddr), (24, len64 hlen)]) <|
    orElse (if kind = 0 then none else rightsFail d h false) <| firstOf [(decide (hlen.toNat < need), .capacity, need)]

def query (d : Device) (h : CmdHdr) (kind : Byte) (haddr : W64) (hlen : W32) (pre : Option Nat) : Device :=
  acceptCmd d h 0x0B (queryFail d h kind haddr hlen pre) none fun d hd =>
    let rec0 := queryRecord d h kind
    let (n, d) := drawFree d
    let (ok, d) := hostAccess d h.ring false (Config.hostWorks n)
    if ok then complete (writeBytes d .host haddr.toNat rec0) hd h 0x0B .ok 0 (leBytes 4 rec0.length)
    else complete d hd h 0x0B .isolatedError 0 []

def execQuery (h : CmdHdr) (kind : Byte) (haddr : W64) (hlen : W32) (s : State) : Host.Outcome State Fault Refusal :=
  onDev (fun d => query d h kind haddr hlen none) s

/-! ### INJECT_ERROR and RESET_LEVEL (R373, R400, R475) -/

def injectFail (d : Device) (h : CmdHdr) (det unit : BitVec 16) (pre : Option Nat) : Refused :=
  orElse (badField pre [noTarget h, (8, detectorValid det 0), (10, !detectorValid det 0 || detectorValid det unit)]) <|
    firstOf [(!isPF d h.ring, .notPermitted, 0)]

def injectError (d : Device) (h : CmdHdr) (det unit : BitVec 16) (count : W32) (pre : Option Nat) : Device :=
  acceptCmd d h 0x0C (injectFail d h det unit pre) none fun d hd => complete (armDetector d det unit count) hd h 0x0C .ok 0 []

def execInjectError (h : CmdHdr) (detector unit : BitVec 16) (count : W32) (s : State) : Host.Outcome State Fault Refusal :=
  onDev (fun d => injectError d h detector unit count none) s

/-- A VF may reset its partition, and units of it that no partition shares. -/
def resetRights (d : Device) (h : CmdHdr) (level : Byte) (unit : BitVec 16) : Bool :=
  isPF d h.ring || match level.toNat with
    | 2 => mayName d h.ring h.part
    | 3 => unitType unit != 1 && unitType unit != 4 && (unitParts d unit).all (mayName d h.ring)
    | _ => false

def resetFail (d : Device) (h : CmdHdr) (level : Byte) (unit : BitVec 16) (pre : Option Nat) : Refused :=
  orElse (badField pre [if level = 2 then targetOk d h else noTarget h, (8, level = 1 || level = 2 || level = 3), (10, if level = 3 then unitValid unit else unit = 0)]) <|
    firstOf [(!resetRights d h level unit, .notPermitted, 0)]

/-- The level that a request takes effect at: the fuse table may raise it (R400, R437). -/
def effectiveLevel (d : Device) (level : Nat) : Nat := min level (levelOf d 6)

/-- The ponds that a reset needs. -/
def resetWake (d : Device) (h : CmdHdr) (level : Byte) (unit : BitVec 16) : Option PartId :=
  if level = 2 then some h.part else if level = 3 && unitType unit = 0 then some (partOfCore d (finMod 512 (unitIndex unit))) else none

def resetLevel (d : Device) (h : CmdHdr) (level : Byte) (unit : BitVec 16) (pre : Option Nat) : Device :=
  acceptCmd d h 0x0D (resetFail d h level unit pre) (resetWake d h level unit) fun d hd =>
    let e := effectiveLevel d level.toNat
    let d := noteSource (beginLong d hd h 0x0D (.reset level unit)) 6
    if e ≤ 2 then raiseLevel d e (if level = 2 then [h.part] else unitParts d unit) [hd] else resetUnit d unit (some hd)

def execResetLevel (h : CmdHdr) (level : Byte) (unit : BitVec 16) (s : State) : Host.Outcome State Fault Refusal :=
  onDev (fun d => resetLevel d h level unit none) s

/-! ### DESCRIPTOR_FETCH (R377–R379) -/

/-- The lowest offset of a reserved item of a descriptor, given the bytes that its command uses. -/
def reservedFail (bs : List Byte) (used : List Nat) : Option Nat :=
  let bad := fun (o : Nat) => (bs.getD o 0).toNat
  (List.range 64).find? fun o =>
    if o = 1 then decide (2 ≤ bad 1)
    else if o = 2 then decide (bad 2 / 4 % 4 != 0)
    else if o = 3 then bad 3 != 0
    else decide (8 ≤ o) && !used.contains o && bad o != 0

/-- Reserved bits of a flags byte. -/
def flagBits (bs : List Byte) (o limit : Nat) (pre : Option Nat) : Option Nat :=
  if (bs.getD o 0).toNat < limit then pre else match pre with | some a => some (min a o) | none => some o

def span (a n : Nat) : List Nat := (List.range n).map (a + ·)

/-- The command that 64 descriptor bytes hold is accepted. -/
def acceptDesc (d : Device) (ring : Fin 64) (bs : List Byte) : Device :=
  let b := fun (o : Nat) => bs.getD o 0
  let w := fun (o : Nat) => (BitVec.ofNat 64 (le bs o 8) : W64)
  let v := fun (o : Nat) => (BitVec.ofNat 32 (le bs o 4) : W32)
  let h : CmdHdr := { ring := ring, fence := (b 1).getLsbD 0, part := finMod 4 (b 2).toNat, dom := finMod 16 ((b 2).toNat / 16), tag := v 4 }
  let r := fun (used : List Nat) => reservedFail bs used
  match (b 0).toNat with
  | 0x01 => attach d h (b 8) (r [8])
  | 0x02 => configurePartition d h (b 8) (w 9) (r (span 8 9))
  | 0x03 => setMode d h (b 8) (r [8])
  | 0x04 =>
    let pre := flagBits bs 20 2 (r (span 8 13))
    if (b 20).getLsbD 0 then loadOverlay d h (w 8) (v 16) pre else loadProgram d h (w 8) (v 16) pre
  | 0x05 => loadTensor d h { haddr := w 8, daddr := w 16, len := v 24, weight := (b 28).getLsbD 0, signal := (b 28).getLsbD 1, score := BitVec.ofNat 16 (le bs 30 2), sflag := b 32 }
      (flagBits bs 28 4 (r (span 8 21 ++ [30, 31, 32])))
  | 0x06 => run d h { session := w 8, restore := (b 16).getLsbD 0, image := w 24, ilen := v 32 } (flagBits bs 16 2 (r (span 8 9 ++ span 24 12)))
  | 0x07 => halt d h (r [])
  | 0x08 => snapshot d h (w 8) (v 16) (b 20) (r (span 8 13))
  | 0x09 => readTensor d h { haddr := w 8, saddr := w 16, len := v 24, bctx := b 28, dpoint := b 29, signal := (b 30).getLsbD 0, round := v 32, score := BitVec.ofNat 16 (le bs 36 2), sflag := b 38 }
      (flagBits bs 30 2 (r (span 8 23 ++ span 32 7)))
  | 0x0A => issuePennant d h (w 8) (v 16) (r (span 8 12))
  | 0x0B => query d h (b 8) (w 16) (v 24) (r ([8] ++ span 16 12))
  | 0x0C => injectError d h (BitVec.ofNat 16 (le bs 8 2)) (BitVec.ofNat 16 (le bs 10 2)) (v 12) (r (span 8 8))
  | 0x0D => resetLevel d h (b 8) (BitVec.ofNat 16 (le bs 10 2)) (r [8, 10, 11])
  | _ => acceptCmd d h (b 0) (some (.badDescriptor, 0)) none fun d _ => d

/-- The 64 bytes of the next descriptor of a ring. -/
def nextDesc (d : Device) (i : Fin 64) : List Byte :=
  let r := vget d.rings i
  readBytes d .host (r.cmdBase.toNat * 4096 + r.cmdHead.toNat * 64) 64

/-- The ring whose turn it is: the first from the present turn on whose next descriptor can be taken. -/
def fetchRing (d : Device) : Option (Fin 64) :=
  ((List.range 64).map fun k => finMod 64 (d.ringTurn.val + k)).find? fun i => ringReady d i false && ringReady d i ((nextDesc d i).getD 1 0 |>.getLsbD 0)

/-- DESCRIPTOR_FETCH: the next descriptor is fetched and its command accepted, or the fetch fails. The fields that a
failed fetch would echo are free values. -/
def descriptorFetch (d : Device) (ok : Bool) : Device :=
  match fetchRing d with
  | none => d
  | some i =>
    let d := { d with ringTurn := finMod 64 (i.val + 1) }
    let (good, d) := hostAccess d i true ok
    if good then acceptDesc d i (nextDesc d i)
    else
      let (n, d) := drawFree d
      let h : CmdHdr := { ring := i, fence := false, part := 0, dom := 0, tag := (Config.freeWord n).setWidth 32 }
      let (hd, d) := fetchDesc d i
      complete d hd h ((Config.freeWord n).extractLsb' 32 8) .badDescriptor 0 (leBytes 4 0)

def execDescriptorFetch (ok : Bool) (s : State) : Host.Outcome State Fault Refusal := onDev (fun d => descriptorFetch d ok) s

end Sys2Proof.Machine
end

