-- ==== Sys2Proof/Machine/Idle.lean ====
section
/-! DEFINITION. The passing of periods (R36–R46, R403–R408): what blocks a tick, stalls and their ledger, the end of a
tick, and the next period of a partition. Step takes it on an empty queue. -/

namespace Sys2Proof.Machine

/-! ### What blocks the tick ahead (R36, R37, R42) -/

/-- Whether an item that has been ready since a period lets its tick execute in period p. -/
def readyBy (r : Option Nat) (p : Nat) : Bool :=
  match r with
  | some 0 => true
  | some q => decide (q + 4 ≤ p)
  | none => false

/-- A blocking item: its due tick and cause. -/
structure Blocker where
  due   : Nat
  cause : Fin 7
deriving DecidableEq, Repr, Inhabited

/-- Whether a participant of a barrier context waits on the present tick for the release that a retry has delayed: it
presents a barout, or a bar that has sent its arrival, in the round that is to reach it, or has just (R252). -/
def releaseWanted (d : Device) (k : Fin 64) (came : Bool) : Bool :=
  (getBar d k).parts.any fun p =>
    let w := partSeq p.who
    let q := getSeq d w
    let b := fetchBundle d p.who.ctx q
    presents d p.who.ctx w && (fetchCheck d p.who.ctx w).isNone && syBctx b = k && (syncOp b = 0x12 || (syncOp b = 0x10 && q.barSent)) &&
      decide (p.arrivals = p.reached + if came then 0 else 1)

/-- Whether a variable item can keep the domain from its present tick: a barrier's release only where one waits for it. -/
def itemHolds (d : Device) (x : VarItem) : Bool :=
  match x.ref with
  | .overlay _ _ => false
  | .release k => releaseWanted d k x.ready.isSome
  | _ => true

/-- Variable items due by a tick that are not ready. -/
def itemBlocks (d : Device) (r : Run) : List Blocker :=
  (r.items.filter fun i => decide (i.due ≤ r.tick) && !readyBy i.ready r.period && itemHolds d i).map fun i =>
    { due := i.due, cause := i.cause }

/-- Stream items of a core or context due on the present tick that are late: the item of a read slot, and an
acknowledgement (R287). -/
def streamBlocks (d : Device) (c : CtxId) (r : Run) : List Blocker :=
  let s := streamOf d c
  let read := if slotAt d c r.tick = some .read then
      (match slotItem s.landing r.tick with
       | some i => if i.error.isSome || (match i.landed with | some q => readyBy (some q) r.period | none => false) then [] else [({ due := r.tick, cause := i.cause } : Blocker)]
       | none => [])
    else []
  read ++ (s.outbound.filter fun o => o.granted && o.error.isNone && decide (o.ackDue ≤ r.tick) && !readyBy o.acked r.period).map fun o =>
    { due := o.ackDue, cause := o.cause }

/-- The causes of the late heads that a unit or a bundle of a core or context would use on the present tick, and of a
window whose overlay is late (R67, R77). -/
def lateUses (d : Device) (c : CtxId) : List (Fin 7) :=
  let late := fun (l : List Head) => l.filterMap Head.lateness
  let unit := fun (store : Bool) => if unitDue d c store then (match unitOf d c store with | some u => late (unitHeads d c u) | none => []) else []
  let feed := match (matrixOf d c).feed with
    | some g => if feedDue d c && g.subTicks = 0 then late (feedHeads d c g) else []
    | none => []
  let vec := match vecOf d c with
    | some o => if vecDue d c && stepDue o (tickOf d c) then late (vHeads d c o) else []
    | none => []
  let s := settleUnits d c
  unit false ++ unit true ++ feed ++ vec ++ (judgeSeqs s c).2.2.flatMap fun x => match x.2 with | .late l => l | _ => []

/-- The domain as it would execute its tick now. -/
def asExecuting (d : Device) (i : DomId) : Device := modRun d i fun r => { r with stalled := false, pointDue := false }

/-- Everything that keeps a domain from executing its tick in its present period. A halted domain is not kept. -/
def blockers (d : Device) (i : DomId) : List Blocker :=
  match (getDom d i).run with
  | none => []
  | some r =>
    if (getDom d i).st != .running || r.ramp != 0 then []
    else
      let x := asExecuting d i
      itemBlocks x r ++ (domCtxs d i).flatMap fun c =>
        if isHalted d c then []
        else streamBlocks d c r ++ (lateUses x c).map fun e => { due := r.tick, cause := e }

/-- The cause under which a stall tick is ledgered (R42). -/
def stallCause (l : List Blocker) : Fin 7 :=
  match l with
  | [] => 6
  | b :: rest => (rest.foldl (fun (a : Blocker) x => if x.due < a.due || (x.due = a.due && x.cause < a.cause) then x else a) b).cause

/-! ### The start of a period (R37) -/

/-- The windows whose first tick the run comes to open at its start (R48). -/
def openWindows (d : Device) (i : DomId) : Device :=
  match (getDom d i).run with
  | none => d
  | some r =>
    let now := r.openings.filter fun w => decide (w.1 ≤ r.tick)
    if now.isEmpty || (getDom d i).st != .running then d
    else forAll now (modRun d i fun r => { r with openings := r.openings.filter fun w => !decide (w.1 ≤ r.tick) }) fun d w => openWindow d i w.1 w.2

/-- A domain's tick begins, with the refresh windows that it opens and the second halves of its line loads, or the domain stalls. The
pace of a restored run starts as its first numbered tick does (R48, R258). -/
def beginTick (d : Device) (i : DomId) : Device :=
  if (blockers d i).isEmpty then
    let g := (getDom d i).prog
    let d := openWindows d i
    let d := forAll (domCtxs d i) d fun d c => if (runOf d c).any (·.ramp = 0) then startPorts d c else d
    modRun d i fun r =>
      { r with stalled := false, pointDue := r.ramp = 0 && (match g with | some g => isPoint g r.tick | none => false),
               paceStart := if r.ramp = 0 && r.resuming then nowNs d else r.paceStart, resuming := r.resuming && r.ramp != 0 }
  else modRun d i fun r => { r with stalled := true }

/-- VARIABLE_ITEM_CHECK: persistent read errors whose tick has come halt their core; an item that is not ready
freezes the domain before the tick it blocks. -/
def itemCheck (d : Device) (i : DomId) : Device :=
  match (getDom d i).run with
  | none => d
  | some r =>
    if !liveDom (getDom d i) || !r.started || r.stalled then d
    else match (domCtxs d i).find? fun c => !isHalted d c && executing d c && !(transferHalts d c).isEmpty with
      | some c => (takeHalts d c).getD d
      | none => if tickBegun d i || r.pointDue || (blockers d i).isEmpty then d else beginTick d i

def execVariableItemCheck (d : DomId) (s : State) : Host.Outcome State Fault Refusal := onDev (fun x => itemCheck x d) s

/-- STALL_RELEASE: every item that blocks has met its condition. -/
def stallRelease (d : Device) (i : DomId) : Device :=
  match (getDom d i).run with
  | some r => if liveDom (getDom d i) && r.started && r.stalled && (blockers d i).isEmpty then beginTick d i else d
  | none => d

def execStallRelease (d : DomId) (s : State) : Host.Outcome State Fault Refusal := onDev (fun x => stallRelease x d) s

/-- PARITY_RESEND_ARRIVAL: a resend arrives; where it fails for the third time, the tick that waited for the read executes in the same
period and halts the core (R224, R225). -/
def resendArrival (d : Device) (c : CtxId) (ok : Bool) : Device :=
  let e := resendArrives d c ok
  match domOf e c with
  | some i => if (getUnit e c).replays.any fun x => x.persistent && decide (x.tries = 3) then stallRelease e i else e
  | none => e

def execParityResendArrival (c : CtxId) (ok : Bool) (s : State) : Host.Outcome State Fault Refusal :=
  onDev (fun d => resendArrival d c ok) s

/-! ### External conditions (R238, R273) -/

/-- Whether the flag of an external check satisfies it; none for items that events mark. -/
def conditionHolds (d : Device) (x : ItemRef) : Option Bool :=
  match x with
  | .extFlag c _ f need _ => some (reaches (monoAt d c f).isSome (flagOf d c f) need)
  | _ => none

/-- Sends on external channels whose credit has come to suffice take it, the oldest of a channel first (R267, R273). -/
def takeCredits : List VarItem → List (CtxId × Byte) → Device → Nat → List VarItem × Device
  | [], _, d, _ => ([], d)
  | x :: rest, owed, d, p =>
    match x.ref with
    | .credit c chan n =>
      if x.ready.isSome then let (l, d) := takeCredits rest owed d p; (x :: l, d)
      else if decide (n ≤ creditOf d c chan) && !owed.contains (c, chan) then
        let (l, d) := takeCredits rest owed (modCredit d c chan (· - n)) p
        ({ x with ready := some p } :: l, d)
      else let (l, d) := takeCredits rest ((c, chan) :: owed) d p; (x :: l, d)
    | _ => let (l, d) := takeCredits rest owed d p; (x :: l, d)

/-- An item at the end of period p: marked with the period since which its condition has held. -/
def markItem (d : Device) (p : Nat) (x : VarItem) : VarItem :=
  match conditionHolds d x.ref with
  | some true => if x.ready.isSome then x else { x with ready := some p }
  | some false => { x with ready := none }
  | none => x

/-- At the end of a period each condition that holds is marked with the period since which it has. -/
def settleConditions (d : Device) (i : DomId) : Device :=
  match (getDom d i).run with
  | none => d
  | some r =>
    let (l, e) := takeCredits r.items [] d r.period
    modRun e i fun r => { r with items := l.map (markItem d r.period) }

/-- Items whose tick has executed are used. -/
def useItems (d : Device) (i : DomId) : Device :=
  match (getDom d i).run with
  | none => d
  | some r =>
    let keep := fun (x : VarItem) =>
      (match x.ref with | .overlay _ _ => true | .release _ => !readyBy x.ready r.period | _ => false) || decide (r.tick < x.due)
    let d := forAll (r.items.filter fun x => !keep x) d fun d x => match x.ref with
      | .extFlag c s f _ (some n) => pendFlag d c.core (.sub s (BitVec.ofNat 8 (physFlag (isSplit d c.core) c.ctx f).val) n)
      | .fabRelease b round w => fabLeave d b round w r.tick
      | _ => d
    modRun d i fun r => { r with items := r.items.filter keep }

/-! ### Captures (R395, R396) -/

/-- At the end of a tick: SNAPSHOTs whose release has reached the participants capture the domain, which then stalls
for the copy; READ_TENSORs may capture from the next tick on. -/
def settleCaptures (d : Device) (i : DomId) (t : Nat) : Device :=
  let mine := d.cmds.filter fun c => c.hdr.part = i.part && c.hdr.dom = i.dom && !c.active
  forAll mine d fun d c => match c.job with
    | .snapshot _ _ b =>
      if b != 0xFF && decide (c.round < reachedRounds (getBar d (finMod 64 b.toNat))) then
        let im := captureImage (modRun d i fun r => { r with sched := r.sched + 1 }) i t
        let d := modCmd d c.handle fun c => { c with active := true, data := some (im, t) }
        modRun d i fun r => { r with items := r.items ++ [{ ref := .copy, due := t + 1, ready := none, cause := 6 }] }
      else d
    | .readTensor x =>
      if x.bctx != 0xFF && decide (c.round < reachedRounds (getBar d (finMod 64 x.bctx.toNat))) then modCmd d c.handle fun c => { c with active := true, round := t + 1 } else d
    | _ => d

/-! ### The end of a tick -/

/-- The end of an executed tick in one core or context. -/
def endCtx (d : Device) (c : CtxId) : Device :=
  let kept := fun (u : Option RepeatUnit) => match u with | some x => if x.remaining = 0 then none else some x | none => none
  let d := modUnit d c fun u => { u with ldUnit := kept u.ldUnit, stUnit := kept u.stUnit }
  freeAcked (vectorEnd (matrixEnd d c) c) c

/-- The end of a domain's tick, stalled or not, before the flags of the period settle. -/
def endTick (d : Device) (i : DomId) : Device :=
  match (getDom d i).run with
  | none => d
  | some r =>
    if r.stalled || r.ramp != 0 then d
    else useItems (forAll (domCtxs d i) d endCtx) i

/-- Ledgers a stall tick. -/
def countStall (d : Device) (i : DomId) : Device :=
  let e := stallCause (blockers d i)
  modRun d i fun r => { r with ledger := vmod r.ledger e (· + 1) }

/-- The last tick of a run and the time at its end (R44, R491). -/
def markEnd (r : Run) (tick now : Nat) : Run := { r with lastTick := tick, endNs := now }

/-- What is in progress of the run moves to its next period. A run with nothing left to do takes no further tick, not
even the one that a stall was holding (R44). -/
def nextPeriod (d : Device) (i : DomId) : Device :=
  match (getDom d i).run with
  | none => d
  | some r =>
    let halted := (getDom d i).st = .halted
    let now := nowNs d
    if r.stalled then
      let d := if r.closed then d else countStall d i
      let d := modRun d i fun r => { r with period := r.period + 1 }
      if runDone d i then noteLedger (modRun d i fun r => { (if r.closed then r else markEnd r (r.tick - 1) now) with ended := true, stalled := false }) i
      else beginTick (noteLedger d i) i
    else
      let d := modRun d i fun x =>
        { (if !x.closed && halted then markEnd x r.tick now else x) with
          period := x.period + 1, sched := if x.closed then x.sched else x.sched + 1, closed := x.closed || halted,
          tick := if x.ramp = 0 then x.tick + 1 else x.tick, ramp := x.ramp - 1 }
      let done := runDone d i
      let d := forAll (domCtxs d i) (modRun d i fun x => { (if done && !x.closed then markEnd x r.tick now else x) with ended := done }) fun d c =>
        checksFall (checkStream d c (r.tick + 1)) c
      let d := noteLedger d i
      if done then d else beginTick (holdEnd d i) i

/-! ### Periods of a partition -/

/-- Domains of a partition with a run in progress whose first tick has begun; none while the debug port opens (R465). -/
def liveRuns (d : Device) (p : PartId) : List DomId :=
  if d.sec.dbg = .erasing then [] else (domsOf p).filter fun i => liveDom (getDom d i) && match (getDom d i).run with | some r => r.started | none => false

/-- Whether something of the present tick that cannot be late is still to come. -/
def owes (d : Device) (i : DomId) : Bool :=
  match (getDom d i).run with
  | none => false
  | some r =>
    if runOver d i || (domCtxs d i).any (fun c => (getUnit d c).replays.any (resendNow d c)) then true
    else if r.stalled then false
    else rampDue r || r.pointDue || propagateDue d i ||
      (r.ramp = 0 && (barrierDue d i || windowOver d i || ((List.finRange 16).any fun k => collDue d i k) || (domCtxs d i).any fun c =>
        (unitsDue d c || !presented d c || networkDue d c || streamDue d c)))

/-- The first core or context of the package that meets a halt on its present tick with all its sequencers done. -/
def haltHere (d : Device) : Option Device :=
  ((List.finRange 4).flatMap (liveRuns d)).findSome? fun i => (domCtxs d i).findSome? fun c =>
    if isHalted d c || mustAbort d c || unitsDue d c then none else takeHalts d c

/-- Whether a partition's clock runs: it has a code and a pond that runs. -/
def clocked' (d : Device) (p : PartId) : Bool := partPresent d p && (getPart d p).fcode != 0 && (pondsOf d p).any fun k => (getPond d k).st = .running

/-- The partition whose next period begins first. -/
def nextPart (d : Device) : Option PartId :=
  ((List.finRange 4).filter (clocked' d)).foldl (fun a p => match a with
    | none => some p
    | some q => if (getPart d p).edge * (getPart d q).fcode.toNat < (getPart d q).edge * (getPart d p).fcode.toNat then some p else some q) none

/-- Every core's banks are free for the next period. Those that a line takes on its second tick are taken when that tick
executes, not in a stall before it (R38). -/
def clearBanks (d : Device) (p : PartId) : Device :=
  forAll (coresOf d p) d fun d c => modCore d c fun k =>
    { k with dbgCtrl := k.dbgNext, units := k.units.map fun u => { u with busBanks := 0, remServed := false } }

/-- Flights whose access tick has come reach the edges of their targets in the present period (R217). -/
def markReached (d : Device) (p : PartId) : Device :=
  let now := (getPart d p).periods
  forAll (coresOf d p) d fun d c => forAll (List.finRange 2) d fun d x =>
    let e : CtxId := { core := c, ctx := x }
    let fs := (getUnit d e).flights
    if fs.isEmpty then d
    else
      let mark := fun (f : Flight) => if f.reached.isNone && atEdge d e f then { f with reached := some now } else f
      modUnit d e fun u => { u with flights := fs.map mark }

/-- A partition's period ends and its next begins: time first, then the ends of its domains' ticks, then the flags and
registers of its cores, then the next ticks; a refresh that falls due on one comes before its requests (R366). -/
def partPeriod (d : Device) (p : PartId) : Device :=
  let x := getPart d p
  let target := x.edge / max 1 x.fcode.toNat
  let d := stretchesEnd (passTime d (target - d.clock.elapsed)) p
  let d := modPart d p fun x => { x with edge := max x.edge (d.clock.elapsed * x.fcode.toNat) + 3200 * (1 + x.stretch), stretch := 0, periods := x.periods + 1 }
  let runs := liveRuns d p
  let d := deliverWaiting (armedFlits (forAll runs d endTick)) p
  let d := forAll (coresOf d p) d fun d c => flagsEnd (modCore d c settleVregs) c
  let d := forAll runs d haltAnswer
  let d := forAll runs d settleConditions
  let d := forAll runs d fun d i => match (getDom d i).run with
    | some r => if r.stalled || r.ramp != 0 || (getDom d i).st != .running then d else settleCaptures d i r.tick
    | none => d
  let d := clearBanks (hostGrants d p) p
  settleRefresh (collRun (markReached (forAll runs d nextPeriod) p) p)

/-- What the block does on an empty queue: a halt that a core meets on its present tick is taken; nothing passes while
something of a present tick is still to come; else the next period of a partition begins, or, with no arithmetic clock,
4 ns pass once the time domain has been released. -/
def passPeriod (d : Device) : Device :=
  match haltHere d with
  | some d => d
  | none =>
    if ((List.finRange 4).flatMap (liveRuns d)).any (owes d) then d
    else
      match nextPart d with
      | some p => partPeriod d p
      | none => if 2 ≤ d.rb.step then settleRefresh (passTime d 64) else d

end Sys2Proof.Machine
end

