-- ==== Sys2Proof/Machine/RegWrite.lean ====
section
/-! DEFINITION. Doorbells, interrupts and ring enabling (R375, R376, R383–R385, R485, R486), and host writes to every
register of BAR0 by its access code (R8–R10, R374, R447, R480–R490). -/

namespace Sys2Proof.Machine

/-! ### Functions and rings (R371, R372, R447) -/

/-- Whether a function's doorbell page of a ring acts: the PF's every page, a VF's those of its own rings. -/
def ownsPage (d : Device) (f : FnId) (i : Fin 64) : Bool :=
  f.val = 0 || (fnOn d f && decide ((vget d.rings i).owner.toNat = f.val))

/-! ### Doorbells (R376, R384) -/

/-- A doorbell value at or beyond the ring's size stops the ring, as an armed event makes any value do (R376, R471). -/
def doorbellBad (d : Device) (i : Fin 64) (size : Nat) (v : W32) : Bool :=
  decide (size ≤ v.toNat) || isArmed d 0x151 (BitVec.ofNat 16 i.val)

def stopRing (d : Device) (i : Fin 64) : Device :=
  detectAt (modRing d i fun r => { r with dbErr := true, stopped := true }) (hubEvent 0x151 i.val 2 0)

/-- CMD_TAIL. In the boot state doorbells are ignored (R447). -/
def cmdTail (d : Device) (f : FnId) (i : Fin 64) (v : W32) : Device :=
  if bootMode d || !ownsPage d f i then d
  else if doorbellBad d i (cmdSize (vget d.rings i)) v then stopRing d i
  else modRing d i fun r => { r with cmdTail := v.setWidth 16 }

/-- CPL_HEAD: held entries are written as soon as there is room, and the ring's message follows them. -/
def cplHead (d : Device) (f : FnId) (i : Fin 64) (v : W32) : Device :=
  if bootMode d || !ownsPage d f i then d
  else if doorbellBad d i (cplSize (vget d.rings i)) v then stopRing d i
  else ringMessage (drainHeld 64 (modRing d i fun r => { r with cplHead := v.setWidth 16 }) i) i

def execCmdTail (f : FnId) (ring : Fin 64) (value : W32) (s : State) : Host.Outcome State Fault Refusal :=
  onDev (fun d => cmdTail d f ring value) s
def execCplHead (f : FnId) (ring : Fin 64) (value : W32) (s : State) : Host.Outcome State Fault Refusal :=
  onDev (fun d => cplHead d f ring value) s

/-- The coalescing interval of a ring has ended: the message of the entries written since the last one is sent. -/
def execMsixCoalesceExpiry (ring : Fin 64) (s : State) : Host.Outcome State Fault Refusal := onDev (ringMessage · ring) s

/-! ### MSI-X masks (R486) -/

/-- A vector's mask bit is cleared, or with none the function-level mask with MSI-X enabled: pending messages are sent (R486, log
entry 101). -/
def msixUnmask (d : Device) (f : FnId) (vector : Option (Fin 64)) : Device :=
  if bootMode d || !fnOn d f then d
  else
    let x := vget d.msix f
    match vector with
    | some v => flushMsix { d with msix := vset d.msix f { x with mask := x.mask &&& ~~~ put64 v.val 1 } } f v
    | none => forAll (List.finRange 64) { d with msix := vset d.msix f { x with enabled := true, fmask := false } } fun d v => flushMsix d f v

def execMsixUnmask (f : FnId) (vector : Option (Fin 64)) (s : State) : Host.Outcome State Fault Refusal :=
  onDev (fun d => msixUnmask d f vector) s

/-! ### Ring slots (R375, R388, R484, R485) -/

/-- The fields of RING_CFG but ENABLE, taken from a written value. -/
def cfgFields (r : Ring) (v : W64) : Ring :=
  { r with coal := BitVec.ofNat 16 (fieldNat v 63 48), vec := BitVec.ofNat 6 (fieldNat v 41 36),
           owner := BitVec.ofNat 4 (fieldNat v 35 32), cplLog2 := BitVec.ofNat 5 (fieldNat v 28 24),
           cmdLog2 := BitVec.ofNat 5 (fieldNat v 20 16) }

/-- Whether the device refuses to enable a ring with these fields (R485). -/
def cfgBad (d : Device) (r : Ring) : Bool :=
  let log := fun (k : BitVec 5) => decide (k.toNat < 4 ∨ 16 < k.toNat)
  log r.cmdLog2 || log r.cplLog2 || decide (8 < r.owner.toNat) || !fnOn d (finMod 9 r.owner.toNat) ||
    r.cmdBase = 0 || r.cplBase = 0

/-- The ring as it is right after enabling (R375). -/
def startRing (r : Ring) : Ring :=
  { r with enabled := true, stopped := false, dbErr := false, phase := true, cmdHead := 0, cmdTail := 0, cplTail := 0,
           cplHead := 0, seq := 0 }

/-- A ring is disabled, and an attachment that it holds is released (R375, R388). -/
def disableRing (d : Device) (i : Fin 64) : Device :=
  { modRing d i (fun r => { r with enabled := false }) with
    parts := d.parts.map fun p => if p.attached = some i then { p with attached := none } else p }

/-- A write of RING_CFG. -/
def ringCfg (d : Device) (i : Fin 64) (v : W64) : Device :=
  let r := vget d.rings i
  let r' := cfgFields r v
  if r.enabled then (if v.getLsbD 0 then d else disableRing d i)
  else if !v.getLsbD 0 then modRing d i fun _ => r'
  else if cfgBad d r' then noteSet (modRing d i fun r => { r with cfgErr := true }) (.cfgErr i)
  else modRing d i fun _ => startRing r'

def execRingEnable (ring : Fin 64) (value : W64) (s : State) : Host.Outcome State Fault Refusal :=
  onDev (fun d => if bootMode d then d else ringCfg d ring value) s

/-! ### Register writes

`v` holds the written bits in their places and zeros elsewhere; `m` tells which bits the access covers. A 4-byte
access leaves the other half of a register as it is (R374). -/

/-- The value of a register after a write: the bits that the access does not cover keep what a read returns. -/
def merged (old m v : W64) : W64 := (old &&& ~~~ m) ||| v

/-- W1C: a written 1 at position n clears the bit, unless hardware has set it on this tick (R8, R9). -/
def w1c (d : Device) (k : W1cBit) (b : Bool) (v : W64) (n : Nat) : Bool := b && (!v.getLsbD n || d.justSet.contains k)

/-- W1C bits from position 0 on, one for each unit. -/
def w1cMask {w : Nat} (d : Device) (k : Fin w → W1cBit) (b : BitVec w) (v : W64) : BitVec w :=
  (List.finRange w).foldl (fun a i => if w1c d (k i) (b.getLsbD i.val) v i.val then a ||| (1 <<< i.val) else a) 0

/-- A ring slot: the bases and RING_CFG change only while the ring is disabled, but for ENABLE. -/
def writeRing (d : Device) (i : Fin 64) (o : Nat) (m v : W64) : Device :=
  let r := vget d.rings i
  let x := merged (readRing r o) m v
  match o with
  | 0x00 => if r.enabled then d else modRing d i fun r => { r with cmdBase := BitVec.ofNat 52 (fieldNat x 63 12) }
  | 0x08 => if r.enabled then d else modRing d i fun r => { r with cplBase := BitVec.ofNat 52 (fieldNat x 63 12) }
  | 0x10 => ringCfg d i x
  | 0x18 => modRing d i fun r => { r with cfgErr := w1c d (.cfgErr i) r.cfgErr v 37 }
  | _ => d

/-- A function's MSI-X table. -/
def writeMsix (d : Device) (f : FnId) (o : Nat) (m v : W64) : Device :=
  if o < 0x400 then
    let t := vget d.msix f
    let k := finMod 64 (o / 16)
    let x := merged (readMsix t o) m v
    if o % 16 = 0 then { d with msix := vset d.msix f { t with addr := vset t.addr k (x &&& ~~~ 3) } }
    else
      let bit := put64 k.val 1
      let t := { t with data := vset t.data k (x.setWidth 32),
                        mask := if x.getLsbD 32 then t.mask ||| bit else t.mask &&& ~~~ bit }
      flushMsix { d with msix := vset d.msix f t } f k
  else d

/-- RESET (R450, R445). Writes of memory that is being erased have no effect. -/
def writeReset (d : Device) (o : Nat) (m v : W64) : Device :=
  let r := d.rb
  let x := merged (readReset d o) m v
  if o = 0x000 then { d with rb := { r with source := w1cMask d .source r.source v, mainPower := w1c d .mainPower r.mainPower v 9 } }
  else if o = 0x008 then { d with rb := { r with retPerr := w1c d .retPerr r.retPerr v 8 } }
  else if o = 0x040 then { d with rb := { r with bootAddr := BitVec.ofNat 52 (fieldNat x 63 12) } }
  else if o = 0x048 then bootGo d x
  else if d.sec.dbg = .erasing then d
  else if 0x100 ≤ o && o < 0x180 then { d with rb := { r with bkup := vset r.bkup (finMod 16 ((o - 0x100) / 8)) x } }
  else if 0x4000 ≤ o && o < 0x8000 then
    let a := o - 0x4000
    let low := m.getLsbD 0
    let high := m.getLsbD 32
    let d := { d with rb := { r with retBad := r.retBad.filter fun w => !((low && w = a) || (high && w = a + 4)) } }
    let d := if low then writeBytes d .retained a (leBytes 4 v.toNat) else d
    if high then writeBytes d .retained (a + 4) (leBytes 4 (v.toNat / 2 ^ 32)) else d
  else d

/-- POWER (R434). -/
def writePower (d : Device) (o : Nat) (m v : W64) : Device :=
  let w := d.power
  if o = 0x000 then (if m.getLsbD 0 then writePwrCtrl d v else d)
  else if o = 0x008 then
    let w := { w with overFloor := w1c d .overFloor w.overFloor v 31, limitRefused := w1c d .limitRefused w.limitRefused v 30 }
    { d with power := { w with fastLimit := w1c d .fastLimit w.fastLimit v 29 } }
  else d

/-- CLOCK_TIME (R419, R420). -/
def writeClock (d : Device) (o : Nat) (v : W64) : Device :=
  let c := d.clock
  if o = 0x008 then { d with clock := { c with setRefused := w1c d .setRefused c.setRefused v 7 } }
  else if o = 0x010 then timeSet d v
  else if o = 0x018 then { d with clock := { c with refLost := w1c d .refLost c.refLost v 31 } }
  else if o = 0x020 then { d with clock := { c with overrun := w1cMask d .overrun c.overrun v } }
  else if 0x100 ≤ o && o < 0x200 then 
    let n : Fin 32 := finMod 32 ((o - 0x100) / 8)
    modPond d n fun k => { k with crit := w1c d (.crit n) k.crit v 54 }
  else d

/-- SECURITY (R467). -/
def writeSecurity (d : Device) (o : Nat) (m v : W64) : Device :=
  let x := d.sec
  if o = 0x000 then { d with sec := { x with commitRefused := w1c d .commitRefused x.commitRefused v 43, revokeRefused := w1c d .revokeRefused x.revokeRefused v 42 } }
  else if o = 0x008 then revokeSlots (if v.getLsbD 0 then svnCommit d else d) (BitVec.ofNat 8 (fieldNat v 15 8))
  else if o = 0x020 then attestGo d (merged (readSecurity d o) m v)
  else if 0x040 ≤ o && o < 0x070 then
    { d with sec := { x with attNonce := vmod x.attNonce (finMod 6 ((o - 0x040) / 8)) fun w => merged w m v } }
  else if o = 0x0C8 then (if v.getLsbD 0 then submitToken d (tokenBits d) false else d)
  else if 0x100 ≤ o && o < 0x208 then
    { d with sec := { x with token := vmod x.token (finMod 33 ((o - 0x100) / 8)) fun w => merged w m v } }
  else d

/-- ERROR (R478). -/
def writeErrors (d : Device) (o : Nat) (m v : W64) : Device :=
  let e := d.err
  if o = 0x000 then
    let x := merged (readErrors d o) m v
    { d with err := { e with notify := x.getLsbD 8, minSev := BitVec.ofNat 2 (fieldNat x 7 6), vec := BitVec.ofNat 6 (fieldNat x 5 0) } }
  else if o = 0x008 then { d with err := { e with fatal := w1c d .fatal e.fatal v 33, overflow := w1c d .overflow e.overflow v 32 } }
  else if o = 0x010 then (if m.getLsbD 0 then errHeadWrite d v else d)
  else d

/-- FABRIC (R357). -/
def writeFabric (d : Device) (o : Nat) (m v : W64) : Device :=
  if o = 0x000 then fabCtrlWrite d (merged (readFabric d o) m v)
  else if o = 0x008 then { d with fab := { d.fab with mismatch := w1c d .mismatch d.fab.mismatch v 30 } }
  else if o = 0x010 then { d with fab := { d.fab with stepped := w1c d .stepped d.fab.stepped v 30 } }
  else d

/-- CE_LASTERR once VALID has been cleared: a record of the present tick stands (R9, R325). -/
def ceCleared (d : Device) (p : Part) : Part :=
  if p.ceFreshAt = d.clock.elapsed && p.ceFresh.getLsbD 63 then { p with ceLast := p.ceFresh, ceLastAt := p.ceFreshAt }
  else { p with ceLast := p.ceLast &&& ~~~ put64 63 1 }

/-- COLLECTIVE: VALID of CE_LASTERR (R324). -/
def writeCollective (d : Device) (o : Nat) (v : W64) : Device :=
  if o < 0x400 && o % 0x100 = 0x10 && v.getLsbD 63 then modPart d (finMod 4 (o / 0x100)) (ceCleared d) else d

/-- SP_PARITY once VALID has been cleared: a check of the present tick stands (R9, R232). -/
def parityCleared (d : Device) (c : CoreId) (k : Core) : Core :=
  let x := freshParity k (corePeriod d c)
  let none := { k.spParity with valid := false }
  if x.valid then { k with spParity := x, spBase := none } else { k with spParity := none }

/-- A debug window: DBG_CTRL, SP_PARITY and SP_CTRL (R489, R231). -/
def writeWindow (d : Device) (c : CoreId) (o : Nat) (m v : W64) : Device :=
  if o = 0x050 then (if m.getLsbD 0 then modCore d c fun k => { k with dbgNext := v.setWidth 2 } else d)
  else if o = 0x098 then (if v.getLsbD 63 then modCore d c (parityCleared d c) else d)
  else if o = 0x0A0 then (if m.getLsbD 0 then bankOffWrite d c v else d)
  else d

/-- A write through the PF's BAR0, at an 8-byte-aligned offset (R480, R481); in the boot state only IDENT, RESET and
SECURITY are served (R447). Blocks without a writable field are left out. -/
def pfWrite (d : Device) (o : Nat) (m v : W64) : Device :=
  if 0x20000 ≤ o && o < 0x30000 then writeReset d (o - 0x20000) m v
  else if 0x50000 ≤ o && o < 0x60000 then writeSecurity d (o - 0x50000) m v
  else if bootMode d then d
  else if 0x1000 ≤ o && o < 0x2000 then writeRing d (finMod 64 ((o - 0x1000) / 64)) ((o - 0x1000) % 64) m v
  else if 0x2000 ≤ o && o < 0x3000 then writeMsix d 0 (o - 0x2000) m v
  else if 0x30000 ≤ o && o < 0x40000 then writePower d (o - 0x30000) m v
  else if 0x40000 ≤ o && o < 0x50000 then writeClock d (o - 0x40000) v
  else if 0x60000 ≤ o && o < 0x70000 then writeErrors d (o - 0x60000) m v
  else if 0x100000 ≤ o && o < 0x200000 then writeFabric d (o - 0x100000) m v
  else if 0x400000 ≤ o && o < 0x500000 then writeCollective d (o - 0x400000) v
  else if 0x1000000 ≤ o && o < 0x1200000 then writeWindow d (finMod 512 ((o - 0x1000000) / 0x1000)) (o % 0x1000) m v
  else d

/-- A write through a function's BAR0: of a VF's blocks only its MSI-X table is written (R372, R484). -/
def fnWrite (d : Device) (f : FnId) (o : Nat) (m v : W64) : Device :=
  if f.val = 0 then pfWrite d o m v
  else if fnOn d f && decide (0x2000 ≤ o) && decide (o < 0x3000) then writeMsix d f (o - 0x2000) m v
  else d

/-- A host write of `size` bytes at an offset of a function's BAR0 (R374). -/
def registerWrite (d : Device) (f : FnId) (o size : Nat) (value : W64) : Device :=
  if size = 8 && decide (o % 8 = 0) then fnWrite d f o (BitVec.allOnes 64) value
  else if size = 4 && decide (o % 8 = 0) then fnWrite d f o 0x00000000FFFFFFFF (value &&& 0x00000000FFFFFFFF)
  else if size = 4 && decide (o % 8 = 4) then fnWrite d f (o - 4) 0xFFFFFFFF00000000 (value <<< 32)
  else d

def execRegisterWrite (f : FnId) (offset : W32) (size : BitVec 4) (value : W64) (s : State) : Host.Outcome State Fault Refusal :=
  onDev (fun d => registerWrite d f offset.toNat size.toNat value) s

end Sys2Proof.Machine
end

