-- ==== Sys2Proof/Machine/Rows.lean ====
section
/-! DEFINITION. The operation rows of the table, slot by slot: each is the presentation of a sequencer's next
bundle, when that bundle holds the operation. A bundle is all or nothing (R60, R66), so its other slots take
effect with it; what each slot does is in Scalar, LoadStore, Sync, Matrix and Vector. -/

namespace Sys2Proof.Machine

/-! ### Scalar slot (R119–R124) -/

/-- add rd, rs1, rs2 (R119): the wrapping sum. -/
def execAdd (w : SeqId) (s : State) : Host.Outcome State Fault Refusal := presentOp (fun b => scalarOp b = 0x01) w s

/-- sub (R119): the wrapping difference. -/
def execSub (w : SeqId) (s : State) : Host.Outcome State Fault Refusal := presentOp (fun b => scalarOp b = 0x02) w s

/-- mul (R119): the low 64 bits of the product. -/
def execMul (w : SeqId) (s : State) : Host.Outcome State Fault Refusal := presentOp (fun b => scalarOp b = 0x03) w s

/-- and (R119). -/
def execAnd (w : SeqId) (s : State) : Host.Outcome State Fault Refusal := presentOp (fun b => scalarOp b = 0x04) w s

/-- or (R119). -/
def execOr (w : SeqId) (s : State) : Host.Outcome State Fault Refusal := presentOp (fun b => scalarOp b = 0x05) w s

/-- xor (R119). -/
def execXor (w : SeqId) (s : State) : Host.Outcome State Fault Refusal := presentOp (fun b => scalarOp b = 0x06) w s

/-- shl (R119): left by rs2[5:0]. -/
def execShl (w : SeqId) (s : State) : Host.Outcome State Fault Refusal := presentOp (fun b => scalarOp b = 0x07) w s

/-- shr (R119): logical right by rs2[5:0]. -/
def execShr (w : SeqId) (s : State) : Host.Outcome State Fault Refusal := presentOp (fun b => scalarOp b = 0x08) w s

/-- sra (R119): arithmetic right by rs2[5:0]. -/
def execSra (w : SeqId) (s : State) : Host.Outcome State Fault Refusal := presentOp (fun b => scalarOp b = 0x09) w s

/-- min (R119): signed. -/
def execMin (w : SeqId) (s : State) : Host.Outcome State Fault Refusal := presentOp (fun b => scalarOp b = 0x0A) w s

/-- max (R119): signed. -/
def execMax (w : SeqId) (s : State) : Host.Outcome State Fault Refusal := presentOp (fun b => scalarOp b = 0x0B) w s

/-- minu (R119): unsigned. -/
def execMinu (w : SeqId) (s : State) : Host.Outcome State Fault Refusal := presentOp (fun b => scalarOp b = 0x0C) w s

/-- maxu (R119): unsigned. -/
def execMaxu (w : SeqId) (s : State) : Host.Outcome State Fault Refusal := presentOp (fun b => scalarOp b = 0x0D) w s

/-- ceq (R119): all ones into a predicate register when equal, else zero. -/
def execCeq (w : SeqId) (s : State) : Host.Outcome State Fault Refusal := presentOp (fun b => scalarOp b = 0x10) w s

/-- clt (R119): signed below. -/
def execClt (w : SeqId) (s : State) : Host.Outcome State Fault Refusal := presentOp (fun b => scalarOp b = 0x11) w s

/-- cltu (R119): unsigned below. -/
def execCltu (w : SeqId) (s : State) : Host.Outcome State Fault Refusal := presentOp (fun b => scalarOp b = 0x12) w s

/-- pand (R119). -/
def execPand (w : SeqId) (s : State) : Host.Outcome State Fault Refusal := presentOp (fun b => scalarOp b = 0x18) w s

/-- por (R119). -/
def execPor (w : SeqId) (s : State) : Host.Outcome State Fault Refusal := presentOp (fun b => scalarOp b = 0x19) w s

/-- pxor (R119). -/
def execPxor (w : SeqId) (s : State) : Host.Outcome State Fault Refusal := presentOp (fun b => scalarOp b = 0x1A) w s

/-- pandn (R119). -/
def execPandn (w : SeqId) (s : State) : Host.Outcome State Fault Refusal := presentOp (fun b => scalarOp b = 0x1B) w s

/-- pmov (R119): a scalar register into a predicate register. -/
def execPmov (w : SeqId) (s : State) : Host.Outcome State Fault Refusal := presentOp (fun b => scalarOp b = 0x1C) w s

/-- pget (R119): a predicate register into a scalar register. -/
def execPget (w : SeqId) (s : State) : Host.Outcome State Fault Refusal := presentOp (fun b => scalarOp b = 0x1D) w s

/-- rdtick (R122): the schedule tick. -/
def execRdtick (w : SeqId) (s : State) : Host.Outcome State Fault Refusal := presentOp (fun b => scalarOp b = 0x20) w s

/-- rdtime (R122): the time counter; may vary (R30). -/
def execRdtime (w : SeqId) (s : State) : Host.Outcome State Fault Refusal := presentOp (fun b => scalarOp b = 0x21) w s

/-- lqpush (R121). -/
def execLqpush (w : SeqId) (s : State) : Host.Outcome State Fault Refusal := presentOp (fun b => scalarOp b = 0x30) w s

/-- lqpop (R121). -/
def execLqpop (w : SeqId) (s : State) : Host.Outcome State Fault Refusal := presentOp (fun b => scalarOp b = 0x31) w s

/-- lqpeek (R121). -/
def execLqpeek (w : SeqId) (s : State) : Host.Outcome State Fault Refusal := presentOp (fun b => scalarOp b = 0x32) w s

/-- addi (R119). -/
def execAddi (w : SeqId) (s : State) : Host.Outcome State Fault Refusal := presentOp (fun b => scalarOp b = 0x41) w s

/-- andi (R119). -/
def execAndi (w : SeqId) (s : State) : Host.Outcome State Fault Refusal := presentOp (fun b => scalarOp b = 0x44) w s

/-- ori (R119). -/
def execOri (w : SeqId) (s : State) : Host.Outcome State Fault Refusal := presentOp (fun b => scalarOp b = 0x45) w s

/-- xori (R119). -/
def execXori (w : SeqId) (s : State) : Host.Outcome State Fault Refusal := presentOp (fun b => scalarOp b = 0x46) w s

/-- shli (R119). -/
def execShli (w : SeqId) (s : State) : Host.Outcome State Fault Refusal := presentOp (fun b => scalarOp b = 0x47) w s

/-- shri (R119). -/
def execShri (w : SeqId) (s : State) : Host.Outcome State Fault Refusal := presentOp (fun b => scalarOp b = 0x48) w s

/-- srai (R119). -/
def execSrai (w : SeqId) (s : State) : Host.Outcome State Fault Refusal := presentOp (fun b => scalarOp b = 0x49) w s

/-- ceqi (R119). -/
def execCeqi (w : SeqId) (s : State) : Host.Outcome State Fault Refusal := presentOp (fun b => scalarOp b = 0x50) w s

/-- clti (R119). -/
def execClti (w : SeqId) (s : State) : Host.Outcome State Fault Refusal := presentOp (fun b => scalarOp b = 0x51) w s

/-- cltui (R119). -/
def execCltui (w : SeqId) (s : State) : Host.Outcome State Fault Refusal := presentOp (fun b => scalarOp b = 0x52) w s

/-- li (R119): a sign-extended 35-bit immediate. -/
def execLi (w : SeqId) (s : State) : Host.Outcome State Fault Refusal := presentOp (fun b => scalarOp b = 0x80) w s

/-- lih (R119): bits [63:35] from the immediate. -/
def execLih (w : SeqId) (s : State) : Host.Outcome State Fault Refusal := presentOp (fun b => scalarOp b = 0x81) w s

/-- jmp (R72, R120). -/
def execJmp (w : SeqId) (s : State) : Host.Outcome State Fault Refusal := presentOp (fun b => scalarOp b = 0xA0) w s

/-- br (R72, R120). -/
def execBr (w : SeqId) (s : State) : Host.Outcome State Fault Refusal := presentOp (fun b => scalarOp b = 0xA1) w s

/-- loop (R69–R71). -/
def execLoop (w : SeqId) (s : State) : Host.Outcome State Fault Refusal := presentOp (fun b => scalarOp b = 0xB0) w s

/-- setwin (R75, R77). -/
def execSetwin (w : SeqId) (s : State) : Host.Outcome State Fault Refusal := presentOp (fun b => scalarOp b = 0xB8) w s

/-- agfetch (R123, R124): a descriptor into the staging buffer. -/
def execAgfetch (w : SeqId) (s : State) : Host.Outcome State Fault Refusal := presentOp (fun b => scalarOp b = 0xC0) w s

/-- aginst (R123): the staged descriptor is installed. -/
def execAginst (w : SeqId) (s : State) : Host.Outcome State Fault Refusal := presentOp (fun b => scalarOp b = 0xC1) w s

/-- agbase (R123). -/
def execAgbase (w : SeqId) (s : State) : Host.Outcome State Fault Refusal := presentOp (fun b => scalarOp b = 0xC2) w s

/-- agstep (R123). -/
def execAgstep (w : SeqId) (s : State) : Host.Outcome State Fault Refusal := presentOp (fun b => scalarOp b = 0xC3) w s

/-- agrd (R123). -/
def execAgrd (w : SeqId) (s : State) : Host.Outcome State Fault Refusal := presentOp (fun b => scalarOp b = 0xC4) w s

/-- agrst (R123). -/
def execAgrst (w : SeqId) (s : State) : Host.Outcome State Fault Refusal := presentOp (fun b => scalarOp b = 0xC5) w s

/-! ### Load and store slots (R125–R132) -/

/-- ld (R125). -/
def execLd (w : SeqId) (s : State) : Host.Outcome State Fault Refusal := presentOp (fun b => loadOp b = 1) w s

/-- ldbc (R125): 8 bytes broadcast over the entry. -/
def execLdbc (w : SeqId) (s : State) : Host.Outcome State Fault Refusal := presentOp (fun b => loadOp b = 2) w s

/-- st (R125). -/
def execSt (w : SeqId) (s : State) : Host.Outcome State Fault Refusal := presentOp (fun b => storeOp b = 1) w s

/-- staf (R125, R132): FP32 accumulate on arrival; may vary (R30). -/
def execStaf (w : SeqId) (s : State) : Host.Outcome State Fault Refusal := presentOp (fun b => storeOp b = 2) w s

/-- stai (R125, R132): INT32 accumulate on arrival. -/
def execStai (w : SeqId) (s : State) : Host.Outcome State Fault Refusal := presentOp (fun b => storeOp b = 3) w s

/-! ### Sync slot (R133–R138) -/

/-- end (R58): the stream enters ENDED. -/
def execEndOp (w : SeqId) (s : State) : Host.Outcome State Fault Refusal := presentOp (fun b => syncOp b = 0x01) w s

/-- fadd (R133–R135, R241). -/
def execFadd (w : SeqId) (s : State) : Host.Outcome State Fault Refusal := presentOp (fun b => syncOp b = 0x08) w s

/-- fsub (R133–R135). -/
def execFsub (w : SeqId) (s : State) : Host.Outcome State Fault Refusal := presentOp (fun b => syncOp b = 0x09) w s

/-- fwait (R133, R234, R238). -/
def execFwait (w : SeqId) (s : State) : Host.Outcome State Fault Refusal := presentOp (fun b => syncOp b = 0x0A) w s

/-- fwaitr (R133). -/
def execFwaitr (w : SeqId) (s : State) : Host.Outcome State Fault Refusal := presentOp (fun b => syncOp b = 0x0B) w s

/-- fwsub (R133, R135). -/
def execFwsub (w : SeqId) (s : State) : Host.Outcome State Fault Refusal := presentOp (fun b => syncOp b = 0x0C) w s

/-- fset (R133, R135). -/
def execFset (w : SeqId) (s : State) : Host.Outcome State Fault Refusal := presentOp (fun b => syncOp b = 0x0D) w s

/-- bar (R136). -/
def execBar (w : SeqId) (s : State) : Host.Outcome State Fault Refusal := presentOp (fun b => syncOp b = 0x10) w s

/-- barin (R136). -/
def execBarin (w : SeqId) (s : State) : Host.Outcome State Fault Refusal := presentOp (fun b => syncOp b = 0x11) w s

/-- barout (R136). -/
def execBarout (w : SeqId) (s : State) : Host.Outcome State Fault Refusal := presentOp (fun b => syncOp b = 0x12) w s

/-- send (R137, R138). -/
def execSend (w : SeqId) (s : State) : Host.Outcome State Fault Refusal := presentOp (fun b => syncOp b = 0x18) w s

/-- sendr (R137, R138). -/
def execSendr (w : SeqId) (s : State) : Host.Outcome State Fault Refusal := presentOp (fun b => syncOp b = 0x19) w s

/-! ### Matrix slot (R141–R158) -/

/-- mmul (R141): clears its plane and drains it. -/
def execMmul (w : SeqId) (s : State) : Host.Outcome State Fault Refusal := presentOp (fun b => isFeed (matrixOp b) && !isMvec (matrixOp b) && !mContinues (matrixOp b) && !mHolds (matrixOp b)) w s

/-- mmul.c (R141): continues its plane and drains it. -/
def execMmulC (w : SeqId) (s : State) : Host.Outcome State Fault Refusal := presentOp (fun b => isFeed (matrixOp b) && !isMvec (matrixOp b) && mContinues (matrixOp b) && !mHolds (matrixOp b)) w s

/-- mmul.h (R141): clears its plane and leaves it open. -/
def execMmulH (w : SeqId) (s : State) : Host.Outcome State Fault Refusal := presentOp (fun b => isFeed (matrixOp b) && !isMvec (matrixOp b) && !mContinues (matrixOp b) && mHolds (matrixOp b)) w s

/-- mmul.ch (R141): continues its plane and leaves it open. -/
def execMmulCH (w : SeqId) (s : State) : Host.Outcome State Fault Refusal := presentOp (fun b => isFeed (matrixOp b) && !isMvec (matrixOp b) && mContinues (matrixOp b) && mHolds (matrixOp b)) w s

/-- mvec (R141): clears its plane and drains it. -/
def execMvec (w : SeqId) (s : State) : Host.Outcome State Fault Refusal := presentOp (fun b => isFeed (matrixOp b) && isMvec (matrixOp b) && !mContinues (matrixOp b) && !mHolds (matrixOp b)) w s

/-- mvec.c (R141): continues its plane and drains it. -/
def execMvecC (w : SeqId) (s : State) : Host.Outcome State Fault Refusal := presentOp (fun b => isFeed (matrixOp b) && isMvec (matrixOp b) && mContinues (matrixOp b) && !mHolds (matrixOp b)) w s

/-- mvec.h (R141): clears its plane and leaves it open. -/
def execMvecH (w : SeqId) (s : State) : Host.Outcome State Fault Refusal := presentOp (fun b => isFeed (matrixOp b) && isMvec (matrixOp b) && !mContinues (matrixOp b) && mHolds (matrixOp b)) w s

/-- mvec.ch (R141): continues its plane and leaves it open. -/
def execMvecCH (w : SeqId) (s : State) : Host.Outcome State Fault Refusal := presentOp (fun b => isFeed (matrixOp b) && isMvec (matrixOp b) && mContinues (matrixOp b) && mHolds (matrixOp b)) w s

/-- mdrain (R150, R152). -/
def execMdrain (w : SeqId) (s : State) : Host.Outcome State Fault Refusal := presentOp (fun b => isMdrain (matrixOp b)) w s

/-- mstat (R158). -/
def execMstat (w : SeqId) (s : State) : Host.Outcome State Fault Refusal := presentOp (fun b => matrixOp b = 0x28) w s

/-! ### Vector slot (R190) -/

/-- A direct micro-operation over N entries (R192). -/
def execVectorMicroOp (w : SeqId) (s : State) : Host.Outcome State Fault Refusal := presentOp (fun b => isMicro (vectorOp b)) w s

/-- vep (R196). -/
def execVep (w : SeqId) (s : State) : Host.Outcome State Fault Refusal := presentOp (fun b => vectorOp b = 0x40) w s

/-- vpload (R194, R195). -/
def execVpload (w : SeqId) (s : State) : Host.Outcome State Fault Refusal := presentOp (fun b => vectorOp b = 0x41) w s

/-- vcvt (R198). -/
def execVcvt (w : SeqId) (s : State) : Host.Outcome State Fault Refusal := presentOp (fun b => vectorOp b = 0x48) w s

/-- vmxq (R199). -/
def execVmxq (w : SeqId) (s : State) : Host.Outcome State Fault Refusal := presentOp (fun b => vectorOp b = 0x49) w s

/-- vcomp (R201). -/
def execVcomp (w : SeqId) (s : State) : Host.Outcome State Fault Refusal := presentOp (fun b => vectorOp b = 0x50) w s

/-- vexpd (R202). -/
def execVexpd (w : SeqId) (s : State) : Host.Outcome State Fault Refusal := presentOp (fun b => vectorOp b = 0x51) w s

/-- vred (R203). -/
def execVred (w : SeqId) (s : State) : Host.Outcome State Fault Refusal := presentOp (fun b => vectorOp b = 0x58) w s

/-- rxinit (R204). -/
def execRxinit (w : SeqId) (s : State) : Host.Outcome State Fault Refusal := presentOp (fun b => vectorOp b = 0x60) w s

/-- rxmax (R205). -/
def execRxmax (w : SeqId) (s : State) : Host.Outcome State Fault Refusal := presentOp (fun b => vectorOp b = 0x61) w s

/-- rxexp (R205). -/
def execRxexp (w : SeqId) (s : State) : Host.Outcome State Fault Refusal := presentOp (fun b => vectorOp b = 0x62) w s

/-- rxnorm (R206). -/
def execRxnorm (w : SeqId) (s : State) : Host.Outcome State Fault Refusal := presentOp (fun b => vectorOp b = 0x63) w s

/-- rxsq (R207). -/
def execRxsq (w : SeqId) (s : State) : Host.Outcome State Fault Refusal := presentOp (fun b => vectorOp b = 0x64) w s

/-- rxget (R208). -/
def execRxget (w : SeqId) (s : State) : Host.Outcome State Fault Refusal := presentOp (fun b => vectorOp b = 0x65) w s

/-- rxset (R208). -/
def execRxset (w : SeqId) (s : State) : Host.Outcome State Fault Refusal := presentOp (fun b => vectorOp b = 0x66) w s

/-- vseed (R200). -/
def execVseed (w : SeqId) (s : State) : Host.Outcome State Fault Refusal := presentOp (fun b => vectorOp b = 0x70) w s

/-- vstat (R209). -/
def execVstat (w : SeqId) (s : State) : Host.Outcome State Fault Refusal := presentOp (fun b => vectorOp b = 0x71) w s

end Sys2Proof.Machine
end

