-- ==== Sys2Proof/Machine/Dispatch.lean ====
section
/-! DEFINITION. The dispatcher: one arm per command of the table, in its order. -/

namespace Sys2Proof.Machine
open Sys2Proof

def exec (i : Instr) (s : State) : Host.Outcome State Fault Refusal :=
  match i with
  | .attach h action => Sys2Proof.Machine.execAttach h action s
  | .configurePartition h config vfPart => Sys2Proof.Machine.execConfigurePartition h config vfPart s
  | .setMode h mode => Sys2Proof.Machine.execSetMode h mode s
  | .loadProgram h haddr hlen => Sys2Proof.Machine.execLoadProgram h haddr hlen s
  | .loadProgramOverlay h haddr hlen => Sys2Proof.Machine.execLoadProgramOverlay h haddr hlen s
  | .loadProgramDone d hostOk => Sys2Proof.Machine.execLoadProgramDone d hostOk s
  | .overlayLoaded d => Sys2Proof.Machine.execOverlayLoaded d s
  | .loadTensor h b => Sys2Proof.Machine.execLoadTensor h b s
  | .loadTensorDone handle hostOk => Sys2Proof.Machine.execLoadTensorDone handle hostOk s
  | .run h b => Sys2Proof.Machine.execRun h b s
  | .runStart d => Sys2Proof.Machine.execRunStart d s
  | .activityRampStep d => Sys2Proof.Machine.execActivityRampStep d s
  | .runEnd d => Sys2Proof.Machine.execRunEnd d s
  | .halt h => Sys2Proof.Machine.execHalt h s
  | .haltTakesEffect d => Sys2Proof.Machine.execHaltTakesEffect d s
  | .snapshot h haddr hlen bctx => Sys2Proof.Machine.execSnapshot h haddr hlen bctx s
  | .snapshotCopyDone d hostOk => Sys2Proof.Machine.execSnapshotCopyDone d hostOk s
  | .readTensor h b => Sys2Proof.Machine.execReadTensor h b s
  | .readTensorCapture handle => Sys2Proof.Machine.execReadTensorCapture handle s
  | .readTensorDone handle hostOk => Sys2Proof.Machine.execReadTensorDone handle hostOk s
  | .issuePennant h haddr hlen => Sys2Proof.Machine.execIssuePennant h haddr hlen s
  | .pennantSigned hostOk => Sys2Proof.Machine.execPennantSigned hostOk s
  | .query h kind haddr hlen => Sys2Proof.Machine.execQuery h kind haddr hlen s
  | .injectError h detector unit count => Sys2Proof.Machine.execInjectError h detector unit count s
  | .resetLevel h level unit => Sys2Proof.Machine.execResetLevel h level unit s
  | .descriptorFetch ok => Sys2Proof.Machine.execDescriptorFetch ok s
  | .cmdTail f ring value => Sys2Proof.Machine.execCmdTail f ring value s
  | .cplHead f ring value => Sys2Proof.Machine.execCplHead f ring value s
  | .msixCoalesceExpiry ring => Sys2Proof.Machine.execMsixCoalesceExpiry ring s
  | .ringEnable ring value => Sys2Proof.Machine.execRingEnable ring value s
  | .msixUnmask f vector => Sys2Proof.Machine.execMsixUnmask f vector s
  | .bootGo value => Sys2Proof.Machine.execBootGo value s
  | .bootFetchDone ok => Sys2Proof.Machine.execBootFetchDone ok s
  | .bootVerifyDone => Sys2Proof.Machine.execBootVerifyDone s
  | .voathReady => Sys2Proof.Machine.execVoathReady s
  | .bootTimeout => Sys2Proof.Machine.execBootTimeout s
  | .svnCommit revokeMask => Sys2Proof.Machine.execSvnCommit revokeMask s
  | .revoke mask => Sys2Proof.Machine.execRevoke mask s
  | .fusingDone => Sys2Proof.Machine.execFusingDone s
  | .attestationGo value => Sys2Proof.Machine.execAttestationGo value s
  | .attestationDone hostOk => Sys2Proof.Machine.execAttestationDone hostOk s
  | .timeSet value => Sys2Proof.Machine.execTimeSet value s
  | .fabCtrlWrite value => Sys2Proof.Machine.execFabCtrlWrite value s
  | .limitWWrite value => Sys2Proof.Machine.execLimitWWrite value s
  | .bankOffWrite core value => Sys2Proof.Machine.execBankOffWrite core value s
  | .errHeadWrite value => Sys2Proof.Machine.execErrHeadWrite value s
  | .registerWrite f offset size value => Sys2Proof.Machine.execRegisterWrite f offset size value s
  | .dbgTokenSubmit => Sys2Proof.Machine.execDbgTokenSubmit s
  | .jtagIdcode => Sys2Proof.Machine.execJtagIdcode s
  | .jtagChallenge => Sys2Proof.Machine.execJtagChallenge s
  | .jtagToken token => Sys2Proof.Machine.execJtagToken token s
  | .jtagSubmit => Sys2Proof.Machine.execJtagSubmit s
  | .debugEraseDone => Sys2Proof.Machine.execDebugEraseDone s
  | .smbSetOffset value => Sys2Proof.Machine.execSmbSetOffset value s
  | .smbRead => Sys2Proof.Machine.execSmbRead s
  | .auxPowerUp => Sys2Proof.Machine.execAuxPowerUp s
  | .auxPowerLoss => Sys2Proof.Machine.execAuxPowerLoss s
  | .mainPowerChange good => Sys2Proof.Machine.execMainPowerChange good s
  | .perstAssert => Sys2Proof.Machine.execPerstAssert s
  | .perstDeassert => Sys2Proof.Machine.execPerstDeassert s
  | .pcieHotReset => Sys2Proof.Machine.execPcieHotReset s
  | .functionLevelReset f => Sys2Proof.Machine.execFunctionLevelReset f s
  | .resetReleaseStep raw => Sys2Proof.Machine.execResetReleaseStep raw s
  | .partitionReset p => Sys2Proof.Machine.execPartitionReset p s
  | .scratchpadClearDone p => Sys2Proof.Machine.execScratchpadClearDone p s
  | .unitReset unit => Sys2Proof.Machine.execUnitReset unit s
  | .unitResetDone => Sys2Proof.Machine.execUnitResetDone s
  | .errorResponse r => Sys2Proof.Machine.execErrorResponse r s
  | .mgmtWatchdogExpiry => Sys2Proof.Machine.execMgmtWatchdogExpiry s
  | .pondWakeSlot pond => Sys2Proof.Machine.execPondWakeSlot pond s
  | .pondRetentionEntry pond => Sys2Proof.Machine.execPondRetentionEntry pond s
  | .thermalSample temps => Sys2Proof.Machine.execThermalSample temps s
  | .powerDecision r => Sys2Proof.Machine.execPowerDecision r s
  | .fastLimit current => Sys2Proof.Machine.execFastLimit current s
  | .frequencyCodeChange p => Sys2Proof.Machine.execFrequencyCodeChange p s
  | .voltageSettled p => Sys2Proof.Machine.execVoltageSettled p s
  | .stretchDemand pond crit => Sys2Proof.Machine.execStretchDemand pond crit s
  | .realignmentStretch pond => Sys2Proof.Machine.execRealignmentStretch pond s
  | .stretchNotice p die => Sys2Proof.Machine.execStretchNotice p die s
  | .referenceLost => Sys2Proof.Machine.execReferenceLost s
  | .referenceRestored => Sys2Proof.Machine.execReferenceRestored s
  | .errorEventRecord => Sys2Proof.Machine.execErrorEventRecord s
  | .add w => Sys2Proof.Machine.execAdd w s
  | .sub w => Sys2Proof.Machine.execSub w s
  | .mul w => Sys2Proof.Machine.execMul w s
  | .and w => Sys2Proof.Machine.execAnd w s
  | .or w => Sys2Proof.Machine.execOr w s
  | .xor w => Sys2Proof.Machine.execXor w s
  | .shl w => Sys2Proof.Machine.execShl w s
  | .shr w => Sys2Proof.Machine.execShr w s
  | .sra w => Sys2Proof.Machine.execSra w s
  | .min w => Sys2Proof.Machine.execMin w s
  | .max w => Sys2Proof.Machine.execMax w s
  | .minu w => Sys2Proof.Machine.execMinu w s
  | .maxu w => Sys2Proof.Machine.execMaxu w s
  | .ceq w => Sys2Proof.Machine.execCeq w s
  | .clt w => Sys2Proof.Machine.execClt w s
  | .cltu w => Sys2Proof.Machine.execCltu w s
  | .pand w => Sys2Proof.Machine.execPand w s
  | .por w => Sys2Proof.Machine.execPor w s
  | .pxor w => Sys2Proof.Machine.execPxor w s
  | .pandn w => Sys2Proof.Machine.execPandn w s
  | .pmov w => Sys2Proof.Machine.execPmov w s
  | .pget w => Sys2Proof.Machine.execPget w s
  | .rdtick w => Sys2Proof.Machine.execRdtick w s
  | .rdtime w => Sys2Proof.Machine.execRdtime w s
  | .lqpush w => Sys2Proof.Machine.execLqpush w s
  | .lqpop w => Sys2Proof.Machine.execLqpop w s
  | .lqpeek w => Sys2Proof.Machine.execLqpeek w s
  | .addi w => Sys2Proof.Machine.execAddi w s
  | .andi w => Sys2Proof.Machine.execAndi w s
  | .ori w => Sys2Proof.Machine.execOri w s
  | .xori w => Sys2Proof.Machine.execXori w s
  | .shli w => Sys2Proof.Machine.execShli w s
  | .shri w => Sys2Proof.Machine.execShri w s
  | .srai w => Sys2Proof.Machine.execSrai w s
  | .ceqi w => Sys2Proof.Machine.execCeqi w s
  | .clti w => Sys2Proof.Machine.execClti w s
  | .cltui w => Sys2Proof.Machine.execCltui w s
  | .li w => Sys2Proof.Machine.execLi w s
  | .lih w => Sys2Proof.Machine.execLih w s
  | .jmp w => Sys2Proof.Machine.execJmp w s
  | .br w => Sys2Proof.Machine.execBr w s
  | .loop w => Sys2Proof.Machine.execLoop w s
  | .setwin w => Sys2Proof.Machine.execSetwin w s
  | .agfetch w => Sys2Proof.Machine.execAgfetch w s
  | .aginst w => Sys2Proof.Machine.execAginst w s
  | .agbase w => Sys2Proof.Machine.execAgbase w s
  | .agstep w => Sys2Proof.Machine.execAgstep w s
  | .agrd w => Sys2Proof.Machine.execAgrd w s
  | .agrst w => Sys2Proof.Machine.execAgrst w s
  | .ld w => Sys2Proof.Machine.execLd w s
  | .ldbc w => Sys2Proof.Machine.execLdbc w s
  | .st w => Sys2Proof.Machine.execSt w s
  | .staf w => Sys2Proof.Machine.execStaf w s
  | .stai w => Sys2Proof.Machine.execStai w s
  | .repeatTransfer c store => Sys2Proof.Machine.execRepeatTransfer c store s
  | .loadFill c => Sys2Proof.Machine.execLoadFill c s
  | .storeWrite c => Sys2Proof.Machine.execStoreWrite c s
  | .requestQueueDepart c => Sys2Proof.Machine.execRequestQueueDepart c s
  | .remoteAccessArrive c => Sys2Proof.Machine.execRemoteAccessArrive c s
  | .accumulateApply c => Sys2Proof.Machine.execAccumulateApply c s
  | .fadd w => Sys2Proof.Machine.execFadd w s
  | .fsub w => Sys2Proof.Machine.execFsub w s
  | .fwait w => Sys2Proof.Machine.execFwait w s
  | .fwaitr w => Sys2Proof.Machine.execFwaitr w s
  | .fwsub w => Sys2Proof.Machine.execFwsub w s
  | .fset w => Sys2Proof.Machine.execFset w s
  | .remoteFlagSignal c => Sys2Proof.Machine.execRemoteFlagSignal c s
  | .bar w => Sys2Proof.Machine.execBar w s
  | .barin w => Sys2Proof.Machine.execBarin w s
  | .barout w => Sys2Proof.Machine.execBarout w s
  | .barrierArrivalCounted b => Sys2Proof.Machine.execBarrierArrivalCounted b s
  | .barrierRelease b => Sys2Proof.Machine.execBarrierRelease b s
  | .barrierReleaseArrive b => Sys2Proof.Machine.execBarrierReleaseArrive b s
  | .barrierDepartureCounted b => Sys2Proof.Machine.execBarrierDepartureCounted b s
  | .senseViolationHalt c => Sys2Proof.Machine.execSenseViolationHalt c s
  | .send w => Sys2Proof.Machine.execSend w s
  | .sendr w => Sys2Proof.Machine.execSendr w s
  | .messageDelivery c => Sys2Proof.Machine.execMessageDelivery c s
  | .anchorUnitAdd c => Sys2Proof.Machine.execAnchorUnitAdd c s
  | .creditReturn c => Sys2Proof.Machine.execCreditReturn c s
  | .quotaHoldRelease core queue => Sys2Proof.Machine.execQuotaHoldRelease core queue s
  | .endOp w => Sys2Proof.Machine.execEndOp w s
  | .mmul w => Sys2Proof.Machine.execMmul w s
  | .mmulC w => Sys2Proof.Machine.execMmulC w s
  | .mmulH w => Sys2Proof.Machine.execMmulH w s
  | .mmulCH w => Sys2Proof.Machine.execMmulCH w s
  | .mvec w => Sys2Proof.Machine.execMvec w s
  | .mvecC w => Sys2Proof.Machine.execMvecC w s
  | .mvecH w => Sys2Proof.Machine.execMvecH w s
  | .mvecCH w => Sys2Proof.Machine.execMvecCH w s
  | .mdrain w => Sys2Proof.Machine.execMdrain w s
  | .mstat w => Sys2Proof.Machine.execMstat w s
  | .matrixFeedStep c => Sys2Proof.Machine.execMatrixFeedStep c s
  | .drainDelivery c => Sys2Proof.Machine.execDrainDelivery c s
  | .vectorMicroOp w => Sys2Proof.Machine.execVectorMicroOp w s
  | .vep w => Sys2Proof.Machine.execVep w s
  | .vpload w => Sys2Proof.Machine.execVpload w s
  | .vcvt w => Sys2Proof.Machine.execVcvt w s
  | .vmxq w => Sys2Proof.Machine.execVmxq w s
  | .vcomp w => Sys2Proof.Machine.execVcomp w s
  | .vexpd w => Sys2Proof.Machine.execVexpd w s
  | .vred w => Sys2Proof.Machine.execVred w s
  | .rxinit w => Sys2Proof.Machine.execRxinit w s
  | .rxmax w => Sys2Proof.Machine.execRxmax w s
  | .rxexp w => Sys2Proof.Machine.execRxexp w s
  | .rxnorm w => Sys2Proof.Machine.execRxnorm w s
  | .rxsq w => Sys2Proof.Machine.execRxsq w s
  | .rxget w => Sys2Proof.Machine.execRxget w s
  | .rxset w => Sys2Proof.Machine.execRxset w s
  | .vseed w => Sys2Proof.Machine.execVseed w s
  | .vstat w => Sys2Proof.Machine.execVstat w s
  | .vectorResult c => Sys2Proof.Machine.execVectorResult c s
  | .variableItemCheck d => Sys2Proof.Machine.execVariableItemCheck d s
  | .stallRelease d => Sys2Proof.Machine.execStallRelease d s
  | .haltPropagate d => Sys2Proof.Machine.execHaltPropagate d s
  | .waitWatchdogExpiry w => Sys2Proof.Machine.execWaitWatchdogExpiry w s
  | .deadlinePoint d => Sys2Proof.Machine.execDeadlinePoint d s
  | .pacedOutputRelease d => Sys2Proof.Machine.execPacedOutputRelease d s
  | .parityResendArrival c ok => Sys2Proof.Machine.execParityResendArrival c ok s
  | .bankPowerdown core bank => Sys2Proof.Machine.execBankPowerdown core bank s
  | .bankPowerdownTimeout core bank => Sys2Proof.Machine.execBankPowerdownTimeout core bank s
  | .refreshAccrue stack pch => Sys2Proof.Machine.execRefreshAccrue stack pch s
  | .refreshWindowClose d => Sys2Proof.Machine.execRefreshWindowClose d s
  | .refreshDone stack pch => Sys2Proof.Machine.execRefreshDone stack pch s
  | .streamInstanceStart c desc => Sys2Proof.Machine.execStreamInstanceStart c desc s
  | .memoryGrant c row => Sys2Proof.Machine.execMemoryGrant c row s
  | .writeSlot c => Sys2Proof.Machine.execWriteSlot c s
  | .fillLanding c => Sys2Proof.Machine.execFillLanding c s
  | .rotationArrival c => Sys2Proof.Machine.execRotationArrival c s
  | .readSlotWrite c => Sys2Proof.Machine.execReadSlotWrite c s
  | .spillAck c => Sys2Proof.Machine.execSpillAck c s
  | .memoryResponse c => Sys2Proof.Machine.execMemoryResponse c s
  | .hbmReread stack result => Sys2Proof.Machine.execHbmReread stack result s
  | .cxlPoisonReread port clean => Sys2Proof.Machine.execCxlPoisonReread port clean s
  | .cxlPortUp port capGib speed width => Sys2Proof.Machine.execCxlPortUp port capGib speed width s
  | .cxlPortDown port => Sys2Proof.Machine.execCxlPortDown port s
  | .cxlLinkRetry port => Sys2Proof.Machine.execCxlLinkRetry port s
  | .dieLinkRetry link => Sys2Proof.Machine.execDieLinkRetry link s
  | .dieLinkFailure link => Sys2Proof.Machine.execDieLinkFailure link s
  | .collectiveInstanceStart d desc => Sys2Proof.Machine.execCollectiveInstanceStart d desc s
  | .collectiveFrame plane frame => Sys2Proof.Machine.execCollectiveFrame plane frame s
  | .channelMessageFrame plane frame => Sys2Proof.Machine.execChannelMessageFrame plane frame s
  | .channelCreditFrame plane frame => Sys2Proof.Machine.execChannelCreditFrame plane frame s
  | .idleFrame plane frame => Sys2Proof.Machine.execIdleFrame plane frame s
  | .beacon plane frame => Sys2Proof.Machine.execBeacon plane frame s
  | .assign plane frame => Sys2Proof.Machine.execAssign plane frame s
  | .hello plane => Sys2Proof.Machine.execHello plane s
  | .kill plane frame => Sys2Proof.Machine.execKill plane frame s
  | .fabricFrameSend p plane => Sys2Proof.Machine.execFabricFrameSend p plane s
  | .retryTimeout plane => Sys2Proof.Machine.execRetryTimeout plane s
  | .linkSilenceTimeout plane => Sys2Proof.Machine.execLinkSilenceTimeout plane s
  | .planeLinked plane => Sys2Proof.Machine.execPlaneLinked plane s
  | .buothFrameFailed plane uncorrectable => Sys2Proof.Machine.execBuothFrameFailed plane uncorrectable s
  | .lossOfLanes plane lanes => Sys2Proof.Machine.execLossOfLanes plane lanes s
  | .dieLinkRetrainDone link => Sys2Proof.Machine.execDieLinkRetrainDone link s
  | .correctionSlewComplete => Sys2Proof.Machine.execCorrectionSlewComplete s
  | .tokenVerificationDone => Sys2Proof.Machine.execTokenVerificationDone s
  | .pcieLinkDown => Sys2Proof.Machine.execPcieLinkDown s

end Sys2Proof.Machine
end

