-- ==== Sys2Proof/WellFormed.lean ====
section
/-! DEFINITION. Which commands the hardware can be given. Types bound most operands; the checks here
are those the types cannot say. A command that fails a check is none the hardware can be given; the model
gives it an outcome all the same, and claims nothing about it. -/

namespace Sys2Proof

/-- THERMAL_SAMPLE carries one temperature for each of the sensor numbers 0–59 (R432). -/
def wfTemps (t : List Byte) : Bool := decide (t.length = 60)

/-- POWER_DECISION carries one reading for each of the 32 ponds (R421). -/
def wfReading (r : PowerReading) : Bool :=
  decide (r.current.length = 32) && decide (r.volt.length = 32) && decide (r.margin.length = 32)

/-- SMBus Set offset carries an offset aligned to 8 bytes (R501). -/
def wfOffset (v : W32) : Bool := decide (v.toNat % 8 = 0)

/-- The checks of a command. -/
def Instr.wellFormed (i : Instr) : Bool :=
  match i with
  | .thermalSample t => wfTemps t
  | .powerDecision r => wfReading r
  | .smbSetOffset v => wfOffset v
  | _ => true

end Sys2Proof
end

