-- ==== Sys2Proof/Certificates/Slice0/Obligations.lean ====
section
/-! DEFINITION. The statements about the block, for the provers. Gives and Answers say that a command runs: its
conclusion is a next state, the queue as it was; what such a statement does not name as changed is as it was. -/

open Sys2Proof Sys2Proof.Machine

namespace Sys2Proof.Claims

/-- The command answers the next state in which the device is d and the queue is as it was. -/
def Gives (i : Instr) (s : State) (d : Device) : Prop := exec i s = .next { s with dev := d }

/-- The command answers a next state, the queue as it was, whose device satisfies P. -/
def Answers (i : Instr) (s : State) (P : Device → Prop) : Prop := ∃ d, Gives i s d ∧ P d

end Sys2Proof.Claims

open Sys2Proof.Claims

/-! ### The step -/

/-- A step with a command waiting is the meaning of the command at the front, on the state with the queue's rest. -/
def Obligations.StepRunsTheFrontCommand : Prop :=
  ∀ (s : State) (c : Instr) (rest : List Instr), s.pending = c :: rest → step s = exec c { s with pending := rest }

/-- Every command answers a next state, and leaves to the queue whatever waits behind it. -/
def Obligations.EveryCommandAnswersAndKeepsTheQueue : Prop :=
  (∀ (i : Instr) (s : State), ∃ d, exec i s = .next { s with dev := d }) ∧
  ∀ (s : State), Safe s ∧ ∀ t, step s = .next t → t.pending = s.pending.drop 1

/-- The values that the spec gives for L0, in State.reset (R22, R29, R86, R107, R370, R376, R420, R434, R435, R437, R450,
R478, R485, R486). -/
def Obligations.ResetLeavesTheStatedValues : Prop :=
  let d := State.reset.dev
  State.reset.pending = [] ∧ d.rb.source = 0x001 ∧ d.rb.lastLevel = 0 ∧ d.rb.boot = .idle ∧ d.rb.attempts = 0 ∧
  d.sec.resetMap = 0x0000000123_11F110 ∧ d.sec.idValid = false ∧ d.sec.debugOpened = false ∧ d.sec.dbg = .closed ∧ d.sec.fails = 0 ∧
  d.config = 1 ∧ (∀ k, vget d.vfPart k = 15) ∧ d.clock.time16 = 0 ∧
  (∀ c, (getCore d c).split = false ∧ (∀ n, (vget (getCore d c).seqs n).st = .idle ∧ (vget (getCore d c).seqs n).loops = []) ∧
    (∀ a, (getCore d c).imem.find? (fun x => x.1 = a) = none) ∧ (∀ f, vget (getCore d c).flags f = 0)) ∧
  (∀ p, (getPart d p).openMode = false ∧ (getPart d p).attached = none ∧ (getPart d p).weights = []) ∧
  (∀ i, (getDom d i).st = .empty ∧ (getDom d i).prog = none) ∧ (∀ b, (getBar d b).claim = none) ∧
  (∀ r, (vget d.rings r).enabled = false ∧ (vget d.rings r).held = []) ∧
  (∀ f, (vget d.msix f).mask = 0xFFFFFFFFFFFFFFFF ∧ (vget d.msix f).pba = 0 ∧
    ∀ v, vget (vget d.msix f).addr v = 0 ∧ vget (vget d.msix f).data v = 0) ∧
  d.power.idleGate = true ∧ d.power.idleMs = 0x00A ∧ d.power.limitW = 0xC80 ∧ (∀ k, (getPond d k).st = .off) ∧
  d.fab.fabEn = false ∧ d.fab.valid = false ∧ d.fab.planeEn = 0xFF ∧ (∀ p, (getPlane d p).st = .down) ∧
  (∀ k, (vget d.cxlPorts k).st = .down) ∧ d.err.count = 0 ∧ d.err.minSev = 1 ∧ d.err.notify = false ∧
  (∀ c off, readByte d .scratch (scratchKey c off) = 0) ∧ (∀ a, readByte d .reservoir a = 0 ∧ readByte d .retained a = 0)

/-- Every step keeps the canonical form of the six memories: addresses rise, and no entry of a memory that reads zero
where nothing is listed is zero. -/
def Obligations.StepKeepsMemoriesCanonical : Prop :=
  ∀ (s t : State), memoriesWf s.dev = true → step s = .next t → memoriesWf t.dev = true

/-- The memories after reset are canonical. -/
def Obligations.ResetMemoriesAreCanonical : Prop := memoriesWf State.reset.dev = true ∧ ∀ i, memOf State.reset.dev i = []

namespace Sys2Proof.Claims

/-- The memories that a command may write: host memory by completions, messages and results; the device's memories by
the transfers that reach them and by resets; an operation row none, since its accesses land by rows of their own. -/
def mayWrite : Instr → List MemId
  | .activityRampStep .. | .cmdTail .. | .ringEnable .. | .bootGo .. | .bootFetchDone .. | .bootVerifyDone ..
  | .voathReady .. | .svnCommit .. | .revoke .. | .fusingDone .. | .attestationGo .. | .timeSet .. | .fabCtrlWrite ..
  | .limitWWrite .. | .errHeadWrite .. | .dbgTokenSubmit .. | .jtagIdcode .. | .jtagChallenge .. | .jtagToken ..
  | .jtagSubmit .. | .smbSetOffset .. | .smbRead .. | .perstDeassert .. | .resetReleaseStep .. | .pondWakeSlot ..
  | .pondRetentionEntry .. | .powerDecision .. | .fastLimit .. | .frequencyCodeChange .. | .voltageSettled ..
  | .stretchDemand .. | .realignmentStretch .. | .stretchNotice .. | .referenceLost .. | .referenceRestored ..
  | .add .. | .sub .. | .mul .. | .and .. | .or .. | .xor .. | .shl .. | .shr .. | .sra .. | .min .. | .max ..
  | .minu .. | .maxu .. | .ceq .. | .clt .. | .cltu .. | .pand .. | .por .. | .pxor .. | .pandn .. | .pmov ..
  | .pget .. | .rdtick .. | .rdtime .. | .lqpush .. | .lqpop .. | .lqpeek .. | .addi .. | .andi .. | .ori .. | .xori ..
  | .shli .. | .shri .. | .srai .. | .ceqi .. | .clti .. | .cltui .. | .li .. | .lih .. | .jmp .. | .br .. | .loop ..
  | .setwin .. | .agfetch .. | .aginst .. | .agbase .. | .agstep .. | .agrd .. | .agrst .. | .ld .. | .ldbc .. | .st ..
  | .staf .. | .stai .. | .repeatTransfer .. | .loadFill .. | .fadd .. | .fsub .. | .fwait .. | .fwaitr .. | .fwsub ..
  | .fset .. | .remoteFlagSignal .. | .bar .. | .barin .. | .barout .. | .barrierArrivalCounted .. | .barrierRelease ..
  | .barrierReleaseArrive .. | .barrierDepartureCounted .. | .send .. | .sendr .. | .messageDelivery ..
  | .creditReturn .. | .endOp .. | .mmul .. | .mmulC .. | .mmulH .. | .mmulCH .. | .mvec .. | .mvecC .. | .mvecH ..
  | .mvecCH .. | .mdrain .. | .mstat .. | .matrixFeedStep .. | .drainDelivery .. | .vectorMicroOp .. | .vep ..
  | .vpload .. | .vcvt .. | .vmxq .. | .vcomp .. | .vexpd .. | .vred .. | .rxinit .. | .rxmax .. | .rxexp ..
  | .rxnorm .. | .rxsq .. | .rxget .. | .rxset .. | .vseed .. | .vstat .. | .vectorResult .. | .variableItemCheck ..
  | .stallRelease .. | .haltPropagate .. | .waitWatchdogExpiry .. | .deadlinePoint .. | .parityResendArrival ..
  | .refreshAccrue .. | .refreshWindowClose .. | .refreshDone .. | .streamInstanceStart .. | .spillAck ..
  | .memoryResponse .. | .hbmReread .. | .cxlPoisonReread .. | .cxlPortUp .. | .cxlPortDown .. | .cxlLinkRetry ..
  | .dieLinkRetry .. | .dieLinkFailure .. | .channelCreditFrame .. | .idleFrame .. | .beacon .. | .assign ..
  | .hello .. | .fabricFrameSend .. | .retryTimeout .. | .linkSilenceTimeout .. | .planeLinked ..
  | .buothFrameFailed .. | .lossOfLanes .. | .dieLinkRetrainDone .. | .correctionSlewComplete .. | .pcieLinkDown ..
  | .requestQueueDepart .. | .quotaHoldRelease .. | .channelMessageFrame .. => []
  | .attach .. | .configurePartition .. | .setMode .. | .loadProgram .. | .loadProgramOverlay .. | .loadProgramDone ..
  | .overlayLoaded .. | .loadTensor .. | .run .. | .halt .. | .snapshot .. | .snapshotCopyDone ..
  | .readTensor .. | .readTensorCapture .. | .readTensorDone .. | .issuePennant .. | .pennantSigned .. | .query ..
  | .injectError .. | .cplHead .. | .msixCoalesceExpiry .. | .msixUnmask .. | .attestationDone ..
  | .scratchpadClearDone .. | .unitResetDone .. | .errorResponse .. | .errorEventRecord .. | .senseViolationHalt ..
  | .pacedOutputRelease .. | .haltTakesEffect .. => [.host]
  | .runStart .. | .bankOffWrite .. | .storeWrite .. | .accumulateApply .. | .anchorUnitAdd .. | .bankPowerdown ..
  | .bankPowerdownTimeout .. | .fillLanding .. | .rotationArrival .. | .writeSlot .. | .readSlotWrite .. => [.scratch]
  | .collectiveInstanceStart .. | .collectiveFrame .. => [.reservoir]
  | .runEnd .. => [.scratch, .host]
  | .registerWrite .. => [.scratch, .retained, .host]
  | .tokenVerificationDone .. => [.reservoir, .retained, .host]
  | .remoteAccessArrive .. | .memoryGrant .. => [.scratch, .reservoir, .hbm, .cxl]
  | .auxPowerUp .. | .auxPowerLoss .. | .mainPowerChange .. => [.scratch, .reservoir, .retained, .hbm]
  | .loadTensorDone .. => [.scratch, .reservoir, .hbm, .cxl, .host]
  | .resetLevel .. | .descriptorFetch .. | .bootTimeout .. | .debugEraseDone .. | .perstAssert .. | .pcieHotReset ..
  | .functionLevelReset .. | .mgmtWatchdogExpiry .. | .thermalSample .. | .kill .. | .partitionReset .. | .unitReset .. => [.scratch, .reservoir, .retained, .hbm, .host]

end Sys2Proof.Claims

/-- A command changes no memory outside those it may write: every byte of the others reads as before (of HBM3E, every
listed byte: an unlisted one is undefined, R436). -/
def Obligations.CommandsWriteOnlyTheirMemories : Prop :=
  ∀ (i : Instr) (s t : State) (m : MemId), exec i s = .next t → m ∉ mayWrite i →
    memOf t.dev m = memOf s.dev m ∧ (m ≠ .hbm → ∀ a, readByte t.dev m a = readByte s.dev m a)

/-! ### Fuses, boot, reset -/

/-- SVN_COMMIT and REVOKE (R454, R455), and the end of the blowing of fuses. -/
def Obligations.FuseWritesFollowTheirChecks : Prop :=
  (∀ (s : State) (mask : Byte), s.dev.rb.boot = .ready → s.dev.sec.fusing = none → s.dev.sec.svnFused < s.dev.sec.imgSvn.toNat →
    let d := { s.dev with sec := { s.dev.sec with fusing := some s.dev.sec.imgSvn.toNat } }
    Gives (.svnCommit mask) s (if mask = 0 then d else noteSet { d with sec := { d.sec with revokeRefused := true } } .revokeRefused)) ∧
  (∀ s : State, s.dev.rb.boot = .ready → s.dev.sec.fusing = none → s.dev.sec.imgSvn.toNat ≤ s.dev.sec.svnFused →
    Gives (.svnCommit 0) s s.dev) ∧
  (∀ s : State, s.dev.rb.boot ≠ .ready ∨ s.dev.sec.fusing ≠ none →
    Gives (.svnCommit 0) s (noteSet { s.dev with sec := { s.dev.sec with commitRefused := true } } .commitRefused)) ∧
  (∀ (s : State) (mask : Byte) (k : Nat), s.dev.rb.boot = .ready → s.dev.sec.fusing = none → mask ≠ 0 →
    mask.getLsbD s.dev.sec.imgSlot.toNat = false → k < 8 → s.dev.sec.purpose.getLsbD (2 * k) = true →
    s.dev.sec.revoked.getLsbD k = false → mask.getLsbD k = false →
    Gives (.revoke mask) s { s.dev with sec := { s.dev.sec with
      revoked := s.dev.sec.revoked ||| mask, fusing := some s.dev.sec.svnFused } }) ∧
  (∀ (s : State) (mask : Byte), s.dev.rb.boot = .ready → mask ≠ 0 →
    (mask.getLsbD s.dev.sec.imgSlot.toNat = true ∨ s.dev.sec.fusing ≠ none ∨
      ∀ k, k < 8 → s.dev.sec.purpose.getLsbD (2 * k) = true → (s.dev.sec.revoked ||| mask).getLsbD k = true) →
    Gives (.revoke mask) s (noteSet { s.dev with sec := { s.dev.sec with revokeRefused := true } } .revokeRefused)) ∧
  (∀ (s : State) (v : Nat), s.dev.sec.fusing = some v →
    Gives .fusingDone s { s.dev with sec := { s.dev.sec with svnFused := v, svnBlown := max v s.dev.sec.svnBlown, fusing := none } })

/-- BOOT_CTRL.GO and the end of the fetch (R448), the READY of Voath (R449, R450). -/
def Obligations.BootDownloadRuns : Prop :=
  (∀ (s : State) (v : W64), v.getLsbD 0 = true → 3 ≤ s.dev.rb.step → s.dev.rb.boot = .idle ∨ s.dev.rb.boot = .failed →
    (v >>> 32).toNat ≠ 0 → (v >>> 32).toNat % 64 = 0 → (v >>> 32).toNat ≤ 4194304 →
    Gives (.bootGo v) s { s.dev with rb := { s.dev.rb with
      bootLen := (v >>> 32).setWidth 32, attempts := satAdd s.dev.rb.attempts 1, boot := .fetching,
      fetchAddr := s.dev.rb.bootAddr, fetchLen := (v >>> 32).setWidth 32 } }) ∧
  (∀ (s : State) (v : W64), v.getLsbD 0 = true → 3 ≤ s.dev.rb.step → s.dev.rb.boot = .idle ∨ s.dev.rb.boot = .failed →
    (v >>> 32).toNat = 0 ∨ (v >>> 32).toNat % 64 ≠ 0 ∨ 4194304 < (v >>> 32).toNat →
    Gives (.bootGo v) s { s.dev with rb := { s.dev.rb with
      bootLen := (v >>> 32).setWidth 32, attempts := satAdd s.dev.rb.attempts 1, boot := .failed, bootErr := 0x11 } }) ∧
  (∀ (s : State) (v : W64), v.getLsbD 0 = true → s.dev.rb.step < 3 ∨ (s.dev.rb.boot ≠ .idle ∧ s.dev.rb.boot ≠ .failed) →
    Gives (.bootGo v) s s.dev) ∧
  (∀ (s : State) (v : W64), v.getLsbD 0 = false →
    Gives (.bootGo v) s { s.dev with rb := { s.dev.rb with bootLen := (v >>> 32).setWidth 32 } }) ∧
  (∀ s : State, s.dev.rb.boot = .fetching →
    Gives (.bootFetchDone true) s { s.dev with rb := { s.dev.rb with
      boot := .verifying,
      image := (List.range s.dev.rb.fetchLen.toNat).map fun k => readByte s.dev .host (s.dev.rb.fetchAddr.toNat * 4096 + k) } } ∧
    Gives (.bootFetchDone false) s { s.dev with rb := { s.dev.rb with boot := .failed, bootErr := 0x10 } }) ∧
  (∀ s : State, s.dev.rb.boot = .running → s.dev.rb.step = 5 →
    Answers .voathReady s fun e => e.rb.boot = .ready ∧ e.sec = s.dev.sec ∧ e.cores = s.dev.cores ∧
      (e.rb.wdArmed = true → 100 ≤ e.rb.wdTimeout.toNat ∧ e.rb.wdTimeout.toNat ≤ 60000) ∧
      (e.rb.wdArmed = false → e.rb.wdTimeout = 0))

namespace Sys2Proof.Claims

/-- R453, check 1: the header of the image, by the offsets of R452. -/
def imageSound (im : List Byte) : Bool :=
  decide (256 ≤ im.length) && decide (im.take 4 = [0x56, 0x4F, 0x54, 0x48]) && decide (leVal ((im.drop 4).take 2) = 1) &&
    decide (leVal ((im.drop 8).take 4) = im.length) && ((im.drop 12).take 4).all (· = 0) && ((im.drop 209).take 47).all (· = 0) &&
    decide ((im.getD 6 0).toNat ≤ 7) && decide ((im.getD 7 0).toNat ≤ 64) && validPoint ((im.drop 112).take 97)

/-- R453, check 2: the slot has purpose bit 0 and is not revoked as the boot began (R455), the key's digest is the slot's, the
signature verifies. -/
def imageSigned (d : Device) (im : List Byte) : Bool :=
  let slot := (im.getD 6 0).toNat
  let key := (im.drop 112).take 97
  d.sec.purpose.getLsbD (2 * slot) && !d.sec.revActive.getLsbD slot && decide (sha384 key = vget d.sec.keyDig (finMod 8 slot)) &&
    ecdsaVerifies key (sha384 (im.take 16 ++ im.drop 112)) ((im.drop 16).take 96)

end Sys2Proof.Claims

/-- The checks of an image in their order (R453), and what a success latches (R449, R456). -/
def Obligations.BootVerifyChecksInOrder : Prop :=
  ∀ s : State, s.dev.rb.boot = .verifying →
    let im := s.dev.rb.image
    let fail := fun (e : Byte) => { s.dev with rb := { s.dev.rb with boot := .failed, bootErr := e } }
    Gives .bootVerifyDone s
      (if imageSound im = false then fail 0x14
       else if imageSigned s.dev im = false then fail 0x12
       else if (im.getD 7 0).toNat < s.dev.sec.svnFused then fail 0x13
       else { s.dev with
         rb := { s.dev.rb with boot := .running }
         sec := { s.dev.sec with imgSvn := (im.getD 7 0).setWidth 7, imgSlot := (im.getD 6 0).setWidth 3,
                                 idValid := !s.dev.sec.debugOpened, fwDigest := sha384 im, fwValid := true } })

namespace Sys2Proof.Claims

/-- What L1 leaves (R435, column L1; R450, R467): kept are retained memory, the backup registers, CXL and host memory, the
fuses, DEBUG_OPENED and the debug failures; the rest takes its reset value. -/
def AfterL1 (d e : Device) : Prop :=
  e.retained = d.retained ∧ e.rb.bkup = d.rb.bkup ∧ e.cxl = d.cxl ∧ e.host = d.host ∧
  e.sec.debugOpened = d.sec.debugOpened ∧ e.sec.fails = d.sec.fails ∧ e.sec.svnFused = d.sec.svnFused ∧ e.sec.revoked = d.sec.revoked ∧
  e.rb.lastLevel = 1 ∧ e.rb.step ≤ 1 ∧ e.rb.boot = .idle ∧ e.rb.image = [] ∧ e.sec.idValid = false ∧ e.sec.queue = [] ∧
  e.clock.time16 = 0 ∧ (∀ r, vget e.rings r = Ring.reset) ∧ (∀ f, vget e.msix f = Msix.reset) ∧ e.cmds = [] ∧
  e.config = 1 ∧ (∀ k, vget e.vfPart k = 15) ∧ (∀ p, getPart e p = Part.reset) ∧ (∀ b, getBar e b = Barrier.reset) ∧
  (∀ c, getCore e c = Core.reset) ∧ e.fab = Fabric.reset ∧ e.power = Power.reset ∧ e.err = Errors.reset ∧
  e.scratch = [] ∧ e.reservoir = []

/-- What L0 leaves (R435, column L0; R454): RESET_CAUSE is power-on only, only fuses and the memories outside are kept, and the
fused version is what has been blown. -/
def AfterL0 (d e : Device) : Prop :=
  e.rb.source = 0x001 ∧ e.rb.mainPower = false ∧ e.rb.lastLevel = 0 ∧ e.rb.step = 0 ∧ e.retained = [] ∧
  (∀ k, vget e.rb.bkup k = 0) ∧ e.cxl = d.cxl ∧ e.host = d.host ∧ e.sec.debugOpened = false ∧ e.sec.fails = 0 ∧
  (d.sec.fusing = none → e.sec.svnFused = d.sec.svnBlown) ∧ d.sec.svnBlown ≤ e.sec.svnFused ∧
  (∀ v, d.sec.fusing = some v → e.sec.svnFused ≤ max v d.sec.svnBlown) ∧ e.sec.revoked = d.sec.revoked ∧
  e.sec.revActive = d.sec.revoked ∧ e.rb.boot = .idle ∧ e.rb.image = [] ∧
  e.sec.idValid = false ∧ e.clock.time16 = 0 ∧ (∀ r, vget e.rings r = Ring.reset) ∧ (∀ f, vget e.msix f = Msix.reset) ∧
  e.config = 1 ∧ (∀ k, vget e.vfPart k = 15) ∧ (∀ p, getPart e p = Part.reset) ∧ (∀ b, getBar e b = Barrier.reset) ∧
  (∀ c, getCore e c = Core.reset) ∧ e.fab = Fabric.reset ∧ e.scratch = [] ∧ e.reservoir = []

/-- No source of a reset has been raised on the present hub tick (R439). -/
def NoneRaised (d : Device) : Prop := ∀ x, d.rb.raised = some x → x.1 ≠ d.clock.elapsed

/-- Source n is mapped to a level in RESET_MAP (R437, R450). -/
def mapped (d : Device) (n : Nat) (level : W64) : Prop := (d.sec.resetMap >>> (4 * n)) &&& 0xF = level

end Sys2Proof.Claims

/-- The sources of the package that raise L1 once a release is over (R437, R438, R440): each leaves what L1 leaves and sets
its own bit in RESET_CAUSE. -/
def Obligations.PackageSourcesRaiseL1 : Prop :=
  (∀ s : State, s.dev.rb.aux = true → 4 ≤ s.dev.rb.step → NoneRaised s.dev → mapped s.dev 1 1 →
    Answers .perstAssert s fun e => AfterL1 s.dev e ∧ e.rb.source = s.dev.rb.source ||| 0x002 ∧ e.rb.perst = true) ∧
  (∀ s : State, s.dev.rb.aux = true → 4 ≤ s.dev.rb.step → NoneRaised s.dev → mapped s.dev 2 1 →
    Answers .pcieHotReset s fun e => AfterL1 s.dev e ∧ e.rb.source = s.dev.rb.source ||| 0x004) ∧
  (∀ s : State, s.dev.rb.wdArmed = true → 4 ≤ s.dev.rb.step → NoneRaised s.dev → mapped s.dev 4 1 →
    Answers .mgmtWatchdogExpiry s fun e => AfterL1 s.dev e ∧ e.rb.source = s.dev.rb.source ||| 0x010) ∧
  (∀ s : State, s.dev.rb.boot = .running → 4 ≤ s.dev.rb.step → NoneRaised s.dev → mapped s.dev 4 1 →
    Answers .bootTimeout s fun e => AfterL1 s.dev e ∧ e.rb.source = s.dev.rb.source ||| 0x010) ∧
  (∀ s : State, s.dev.sec.dbg = .erasing → 4 ≤ s.dev.rb.step → NoneRaised s.dev → mapped s.dev 8 1 →
    Answers .debugEraseDone s fun e => AfterL1 s.dev e ∧ e.rb.source = s.dev.rb.source ||| 0x100 ∧ e.sec.dbg = .opened) ∧
  (∀ (s : State) (good : Bool), s.dev.rb.aux = true → 4 ≤ s.dev.rb.step → s.dev.rb.main ≠ good →
    Answers (.mainPowerChange good) s fun e => AfterL1 s.dev e ∧ e.rb.source = s.dev.rb.source ||| 0x001 ∧
      e.rb.mainPower = true ∧ e.rb.main = good)

/-- The auxiliary rail coming up, or lost, leaves what L0 leaves (R435, R437, R497). -/
def Obligations.AuxiliaryPowerRaisesL0 : Prop :=
  (∀ s : State, s.dev.rb.aux = false → Answers .auxPowerUp s fun e => AfterL0 s.dev e ∧ e.rb.aux = true) ∧
  (∀ s : State, Answers .auxPowerLoss s fun e => AfterL0 s.dev e ∧ e.rb.aux = false)

/-- The release steps in their order, each when its condition holds (R441, R446, R463); PERST# deasserted; a link that goes
down without a hot reset (R437). -/
def Obligations.ReleaseStepsFollowTheTable : Prop :=
  (∀ (s : State) (raw : BitVec 6), s.dev.rb.step = 0 → s.dev.rb.aux = true →
    Gives (.resetReleaseStep raw) s { s.dev with rb := { s.dev.rb with step := 1 } }) ∧
  (∀ (s : State) (raw : BitVec 6), s.dev.rb.step = 1 → s.dev.rb.main = true → s.dev.rb.perst = false → s.dev.clock.refPresent = true →
    Answers (.resetReleaseStep raw) s fun e => e.rb.step = 2 ∧ e.rb.cfgRaw = raw ∧ e.clock.time16 = 0 ∧
      (raw.toNat % 4 = 1 ∨ raw.toNat % 4 = 2 → e.rb.cfgInvalid = false ∧ e.rb.cfgCode.toNat = raw.toNat / 4) ∧
      (raw.toNat % 4 = 0 ∨ raw.toNat % 4 = 3 → e.rb.cfgInvalid = true ∧ e.rb.cfgCode = 15) ∧
      e.sec.challenge = Config.challenge s.dev.sec.draws ∧
      (∀ k, (getPond s.dev k).st = .off ∨ (getPond s.dev k).st = .retention → (getPond e k).st = .waking) ∧
      ((∀ k, (getPond s.dev k).st = .off) →
        ∀ k, (getPond e k).wakeAt = (4 * (k.val % 8) + k.val / 8 + 1) * if e.rb.cfgCode.getLsbD 3 then 4000 else 2000)) ∧
  (∀ (s : State) (raw : BitVec 6), s.dev.rb.step = 1 → s.dev.rb.main = false ∨ s.dev.rb.perst = true ∨ s.dev.clock.refPresent = false →
    Gives (.resetReleaseStep raw) s s.dev) ∧
  (∀ (s : State) (raw : BitVec 6), s.dev.rb.step = 2 → Gives (.resetReleaseStep raw) s { s.dev with rb := { s.dev.rb with step := 3 } }) ∧
  (∀ (s : State) (raw : BitVec 6), s.dev.rb.step = 3 → (∀ k, (getPond s.dev k).st = .running) →
    Gives (.resetReleaseStep raw) s { s.dev with rb := { s.dev.rb with step := 4 } }) ∧
  (∀ (s : State) (raw : BitVec 6), s.dev.rb.step = 4 → s.dev.rb.boot = .running →
    Answers (.resetReleaseStep raw) s fun e => e.rb.step = 5 ∧ (∀ k, (vget e.hbmStat k).ready = true) ∧
      (∀ k, (vget e.cxlPorts k).st = .training) ∧ e.cores = s.dev.cores ∧ e.hbm = s.dev.hbm) ∧
  (∀ s : State, Gives .perstDeassert s { s.dev with rb := { s.dev.rb with perst := false } }) ∧
  (∀ s : State, Gives .pcieLinkDown s s.dev)

/-- A pond runs as its wake slot ends, in the order of the slots (R429), and enters retention after IDLE_MS of empty domains, while
no command and no reset needs it (R430). -/
def Obligations.PondsWakeAndRetain : Prop :=
  (∀ (s : State) (k : Fin 32), (getPond s.dev k).st = .waking → (getPond s.dev k).wakeAt ≤ s.dev.clock.elapsed / 16 →
    (∀ j, (getPond s.dev j).st = .waking → (getPond s.dev k).wakeAt ≤ (getPond s.dev j).wakeAt) →
    Answers (.pondWakeSlot k) s fun e => (getPond e k).st = .running ∧
      (∀ j, j ≠ k → (getPond e j).st = (getPond s.dev j).st ∧ (getPond e j).wakeAt = (getPond s.dev j).wakeAt) ∧
      (vget e.dieLinks (finMod 8 (k.val / 8))).up = (!(vget s.dev.dieLinks (finMod 8 (k.val / 8))).retraining ||
        (vget s.dev.dieLinks (finMod 8 (k.val / 8))).up) ∧
      e.cores = s.dev.cores) ∧
  (∀ (s : State) (k : Fin 32), (getPond s.dev k).st ≠ .waking ∨ s.dev.clock.elapsed / 16 < (getPond s.dev k).wakeAt ∨
      (∃ j, (getPond s.dev j).st = .waking ∧ (getPond s.dev j).wakeAt < (getPond s.dev k).wakeAt) →
    Gives (.pondWakeSlot k) s s.dev) ∧
  (∀ (s : State) (k : Fin 32), s.dev.rb.boot = .ready → s.dev.power.idleGate = true → (getPond s.dev k).st = .running →
    (∀ m, (getDom s.dev { part := partOfPond s.dev k, dom := m }).st = .empty) →
    (getPart s.dev (partOfPond s.dev k)).clearing = false → (getPart s.dev (partOfPond s.dev k)).resetting = false →
    (getPart s.dev (partOfPond s.dev k)).lastNeed ≠ some s.dev.clock.elapsed →
    (∀ c ∈ s.dev.cmds, c.hdr.part = partOfPond s.dev k → needsPonds c = false) →
    (∀ c, partOfCore s.dev c = partOfPond s.dev k → (getCore s.dev c).inReset = false) →
    (getPart s.dev (partOfPond s.dev k)).emptySince + s.dev.power.idleMs.toNat * 1000000 ≤ s.dev.clock.elapsed / 16 →
    Answers (.pondRetentionEntry k) s fun e => (getPond e k).st = .retention ∧ (∀ j, j ≠ k → getPond e j = getPond s.dev j) ∧
      e.cores = s.dev.cores ∧ e.scratch = s.dev.scratch) ∧
  (∀ (s : State) (k : Fin 32), s.dev.power.idleGate = false → Gives (.pondRetentionEntry k) s s.dev)

/-- L2 of a partition (R435, R442), its end, and a function-level reset (R401, R437, R438, R486). -/
def Obligations.PartitionAndFunctionResets : Prop :=
  (∀ (s : State) (p : PartId), 4 ≤ s.dev.rb.step → NoneRaised s.dev → p.val < s.dev.config → (getPart s.dev p).resetting = false →
    Answers (.partitionReset p) s fun e =>
      (getPart e p).resetting = true ∧ (getPart e p).clearing = true ∧ (getPart e p).openMode = false ∧ (getPart e p).weights = [] ∧
      (∀ m, (getDom e { part := p, dom := m }).st = .empty ∧ (getDom e { part := p, dom := m }).prog = none) ∧
      (∀ c, partOfCore s.dev c = p → getCore e c = { Core.reset with clearing := true } ∧
        ∀ off, off < 4194304 → readByte e .scratch (scratchKey c off) = 0) ∧
      (∀ b, partOfBar s.dev b = p → getBar e b = Barrier.reset) ∧ e.rb.lastLevel = 2 ∧ e.config = s.dev.config ∧
      e.reservoir = s.dev.reservoir ∧ e.retained = s.dev.retained ∧ e.hbm = s.dev.hbm ∧ e.clock.time16 = s.dev.clock.time16) ∧
  (∀ (s : State) (p : PartId), (getPart s.dev p).clearing = true → (∀ k ∈ pondsOf s.dev p, (getPond s.dev k).st = .running) →
    Answers (.scratchpadClearDone p) s fun e => (getPart e p).clearing = false ∧ (getPart e p).openMode = false ∧ (getPart e p).resetting = false ∧
      (getPart e p).resetCmds = [] ∧ ∀ c, partOfCore s.dev c = p → getCore e c = { getCore s.dev c with clearing := false }) ∧
  (∀ (s : State) (f : FnId), 3 ≤ s.dev.rb.step → s.dev.rb.boot = .ready ∨ f.val = 0 → mapped s.dev 3 0xF →
    Answers (.functionLevelReset f) s fun e => vget e.msix f = Msix.reset ∧ (∀ g, g ≠ f → vget e.msix g = vget s.dev.msix g) ∧
      (∀ i, (vget s.dev.rings i).owner.toNat = f.val → (vget e.rings i).enabled = false ∧ (vget e.rings i).held = [] ∧
        ∀ p, (getPart e p).attached ≠ some i) ∧
      (∀ i, (vget s.dev.rings i).owner.toNat ≠ f.val → vget e.rings i = vget s.dev.rings i) ∧
      e.rb.source = s.dev.rb.source ||| 0x008 ∧ e.cores = s.dev.cores ∧ e.host = s.dev.host) ∧
  (∀ (s : State) (f : FnId) (p : PartId), 4 ≤ s.dev.rb.step → NoneRaised s.dev → s.dev.rb.boot = .ready ∨ f.val = 0 → mapped s.dev 3 2 → p.val < s.dev.config →
    f.val = 0 ∨ (vget s.dev.vfPart (finMod 8 (f.val - 1))).toNat = p.val →
    Answers (.functionLevelReset f) s fun e => (getPart e p).resetting = true ∧ e.rb.source = s.dev.rb.source ||| 0x008)

/-- L3 of single units (R435, R443), its end, and the error responses of an isolation wrapper (R444, R472). -/
def Obligations.UnitResetsIsolate : Prop :=
  (∀ (s : State) (k : CoreId), 4 ≤ s.dev.rb.step → NoneRaised s.dev → (getPart s.dev (partOfCore s.dev k)).resetting = false →
    (∀ x ∈ s.dev.rb.units, x.1.toNat ≠ k.val) →
    Answers (.unitReset (BitVec.ofNat 16 k.val)) s fun e =>
      (getCore e k).inReset = true ∧ (getCore e k).clearing = true ∧ (getCore e k).split = (getCore s.dev k).split ∧
      (getCore e k).seqs = Core.reset.seqs ∧ (getCore e k).flags = Core.reset.flags ∧ (getCore e k).imem = [] ∧
      (∀ x, (vget (getCore e k).units x).halt.halted = true) ∧
      (∀ off, off < 4194304 → readByte e .scratch (scratchKey k off) = 0) ∧
      (∀ w ∈ (getPart e (partOfCore s.dev k)).weights, ¬(w.space = 1 ∧ w.addr.toNat % 2 ^ 44 / 2 ^ 22 % 512 = k.val)) ∧
      e.rb.lastLevel = 3 ∧ e.rb.lastUnit.toNat = k.val ∧ (BitVec.ofNat 16 k.val, none) ∈ e.rb.units ∧
      ((∀ q, (getPart s.dev q).resetting = false) → e.rb.units = s.dev.rb.units ++ [(BitVec.ofNat 16 k.val, none)])) ∧
  (∀ (s : State) (m : Fin 8), 4 ≤ s.dev.rb.step → NoneRaised s.dev → (∀ x ∈ s.dev.rb.units, x.1.toNat ≠ 0x3000 + m.val) →
    Answers (.unitReset (BitVec.ofNat 16 (0x3000 + m.val))) s fun e => (vget e.hbmStat m).ready = false ∧
      (∀ a, m.val * hbmStackBytes ≤ a → a < (m.val + 1) * hbmStackBytes → memFind e.hbm a = none) ∧
      (∀ a, a < m.val * hbmStackBytes ∨ (m.val + 1) * hbmStackBytes ≤ a → memFind e.hbm a = memFind s.dev.hbm a) ∧
      (∀ w ∈ (getPart e (partOfStack s.dev m)).weights, w.space ≠ 3) ∧ e.rb.lastUnit.toNat = 0x3000 + m.val) ∧
  (∀ (s : State) (k : Fin 4), 4 ≤ s.dev.rb.step → NoneRaised s.dev → (∀ x ∈ s.dev.rb.units, x.1.toNat ≠ 0x2000 + k.val) →
    Answers (.unitReset (BitVec.ofNat 16 (0x2000 + k.val))) s fun e => (vget e.cxlPorts k).st = .training ∧
      (∀ p, (getPart e p).cxlValid = (getPart s.dev p).cxlValid ∧ (getPart e p).cxlUnits = (getPart s.dev p).cxlUnits) ∧
      e.cxl = s.dev.cxl) ∧
  (∀ (s : State) (u : BitVec 16), s.dev.rb.units = [(u, none)] → u.toNat / 4096 = 3 →
    Answers .unitResetDone s fun e => e.rb.units = [] ∧ (vget e.hbmStat (finMod 8 (u.toNat % 4096))).ready = true ∧
      e.cores = s.dev.cores ∧ e.hbm = s.dev.hbm) ∧
  (∀ (s : State) (u : BitVec 16), s.dev.rb.units = [(u, none)] → u.toNat < 512 → (getPond s.dev (pondOf (finMod 512 u.toNat))).st = .running →
    Answers .unitResetDone s fun e => e.rb.units = [] ∧
      getCore e (finMod 512 u.toNat) = { getCore s.dev (finMod 512 u.toNat) with clearing := false, inReset := false }) ∧
  (∀ (s : State) (c : CtxId) (f : Flight), s.dev.err.events = [] → isArmed s.dev 0x181 (coreUnit c) = false → (getUnit s.dev c).flights = [f] →
    f.error = none → f.arrived = false → addrHeld s.dev c f.req.addr.toNat = true →
    Answers (.errorResponse (.transfer c)) s fun e => (∃ g ∈ (getUnit e c).flights, g.uid = f.uid ∧ g.error = some 0x04) ∧
      ∃ x ∈ e.err.events, x.det = 0x181 ∧ x.unit = coreUnit c)

/-! ### Power, clocks, time, errors -/

namespace Sys2Proof.Claims

/-- The code that a partition runs at once the change in progress has been applied. -/
def code (d : Device) (p : PartId) : Nat := (codeAhead (getPart d p)).toNat

/-- The code of a partition after a rule that lowers it by one, not below a bound: a raise that has not been applied is given up. -/
def oneDown (d : Device) (p : PartId) (bound : Nat) : Nat :=
  let f := min (getPart d p).fcode.toNat (code d p)
  if f ≤ bound then code d p else f - 1

/-- The code of a partition after a rule that raises it by one (R405). -/
def oneUp (d : Device) (p : PartId) : Nat := if code d p < 210 then code d p + 1 else code d p

end Sys2Proof.Claims

/-- LIMIT_W and IDLE_MS (R425, R434), and the fast limit (R426; rule 4 of R424). -/
def Obligations.PowerLimitsAreApplied : Prop :=
  (∀ (s : State) (v : W64), s.dev.rb.boot = .ready → 1600 ≤ (v &&& 0xFFF).toNat → (v &&& 0xFFF).toNat ≤ 3200 →
    reserveTotal s.dev ≤ 100 * (v &&& 0xFFF).toNat →
    Gives (.limitWWrite v) s { s.dev with power := { s.dev.power with
      idleGate := v.getLsbD 31, limitW := v.setWidth 12,
      idleMs := if (v >>> 16) &&& 0xFFF = 0 then s.dev.power.idleMs else (v >>> 16).setWidth 12 } }) ∧
  (∀ (s : State) (v : W64), s.dev.rb.boot = .ready →
    (v &&& 0xFFF).toNat < 1600 ∨ 3200 < (v &&& 0xFFF).toNat ∨ 100 * (v &&& 0xFFF).toNat < reserveTotal s.dev →
    Gives (.limitWWrite v) s (noteSet { s.dev with power := { s.dev.power with
      idleGate := v.getLsbD 31, limitRefused := true,
      idleMs := if (v >>> 16) &&& 0xFFF = 0 then s.dev.power.idleMs else (v >>> 16).setWidth 12 } } .limitRefused)) ∧
  (∀ (s : State) (a : BitVec 16), 106250 * s.dev.power.limitW.toNat < 120000 * a.toNat →
    Answers (.fastLimit a) s fun e => e.power.fastLimit = true ∧ e.power.limitW = s.dev.power.limitW ∧ e.cores = s.dev.cores ∧
      ∀ p, p.val < s.dev.config → (getPart s.dev p).fcode ≠ 0 → code e p = oneDown s.dev p (floorCode (getPart s.dev p))) ∧
  (∀ (s : State) (a : BitVec 16), 120000 * a.toNat ≤ 106250 * s.dev.power.limitW.toNat → Gives (.fastLimit a) s s.dev)

namespace Sys2Proof.Claims

/-- Rule 5 of R424 names p: the highest code above its floor, the lowest number on a tie. -/
def highest (d : Device) (p : PartId) : Prop :=
  p ∈ livePartitions d ∧ floorCode (getPart d p) < code d p ∧
    ∀ q ∈ livePartitions d, floorCode (getPart d q) < code d q → code d q < code d p ∨ (code d q = code d p ∧ p ≤ q)

/-- Rule 6 of R424 names p: the lowest code below 210, the lowest number on a tie. -/
def lowest (d : Device) (p : PartId) : Prop :=
  p ∈ livePartitions d ∧ code d p < 210 ∧ ∀ q ∈ livePartitions d, code d p < code d q ∨ (code d q = code d p ∧ p ≤ q)

/-- Every live partition is at its floor and the mean exceeds 1.05 times LIMIT_W (R427). -/
def overBudget (d : Device) (mean : Nat) : Prop :=
  105 * d.power.limitW.toNat < 100 * mean ∧ ∀ p ∈ livePartitions d, code d p ≤ floorCode (getPart d p)

end Sys2Proof.Claims

open Classical in
/-- A decision period, partition by partition: the first rule of R424 that applies sets the outcome (R424, R426, R427). That a
partition below its floor is raised before rules 5 and 6 is the model's reading (log entry 75). -/
def Obligations.PowerDecisionTakesTheFirstRule : Prop :=
  ∀ (s : State) (r : PowerReading),
    Answers (.powerDecision r) s fun e =>
      e.power.pkgW = r.pkgW ∧ e.cores = s.dev.cores ∧ (overBudget s.dev r.meanMs.toNat → e.power.overFloor = true) ∧
      ∀ p ∈ livePartitions s.dev,
        let c := code s.dev p
        let mean := r.meanMs.toNat
        let floor := floorCode (getPart s.dev p)
        code e p =
          if throttledPart s.dev p = true then oneDown s.dev p 140
          else if (getPart s.dev p).critSeen = true ∨ ∃ k, partOfPond s.dev k = p ∧ r.margin.getD k.val .good = .crit then
            oneDown s.dev p 140
          else if overBudget s.dev mean ∨ isArmed s.dev 0x172 0 = true then oneDown s.dev p 140
          else if 106250 * s.dev.power.limitW.toNat < 120000 * r.fast.toNat then oneDown s.dev p floor
          else if c < floor then oneUp s.dev p
          else if s.dev.power.limitW.toNat < mean then (if highest s.dev p then oneDown s.dev p floor else c)
          else if 100 * mean < 98 * s.dev.power.limitW.toNat ∧ ∀ k, (getPond s.dev k).temp.toNat + 5 < 100 then
            (if lowest s.dev p then oneUp s.dev p else c)
          else c

/-- A sample of the sensors: readings are kept, throttling begins above the throttle temperature and ends 5 °C below it
(R432); the trip of the lowest sensor writes its record, asserts the output and raises source 5 at L1 (R432, R433, R437). -/
def Obligations.ThermalSampleThrottlesAndTrips : Prop :=
  (∀ (s : State) (ts : List Byte), ts.length = 60 → 2 ≤ s.dev.rb.step → s.dev.err.armed = [] →
    (∀ (n : Fin 60) (tr : Nat), tripAt n.val = some tr → (ts.getD n.val 0).toNat < tr) →
    Answers (.thermalSample ts) s fun e => e.cores = s.dev.cores ∧ e.rb = s.dev.rb ∧
      (∀ n : Fin 60, vget e.power.temps n = ts.getD n.val 0) ∧ (∀ k : Fin 32, (getPond e k).temp = ts.getD k.val 0) ∧
      (∀ k : Fin 8, (vget e.hbmStat k).temp = ts.getD (40 + k.val) 0 ∧
        (vget e.hbmStat k).hot = decide (85 < (ts.getD (40 + k.val) 0).toNat)) ∧
      (∀ (n : Fin 60) (th : Nat), n.val ≤ 32 ∧ th = 100 ∨ 40 ≤ n.val ∧ n.val ≤ 47 ∧ th = 95 →
        (th < (ts.getD n.val 0).toNat → e.power.throttled.getLsbD n.val = true) ∧
        ((ts.getD n.val 0).toNat + 5 ≤ th → e.power.throttled.getLsbD n.val = false) ∧
        (th < (ts.getD n.val 0).toNat + 5 → (ts.getD n.val 0).toNat ≤ th →
          e.power.throttled.getLsbD n.val = s.dev.power.throttled.getLsbD n.val))) ∧
  (∀ (s : State) (ts : List Byte) (n : Fin 60) (tr : Nat), ts.length = 60 → 4 ≤ s.dev.rb.step → NoneRaised s.dev → s.dev.err.armed = [] →
    mapped s.dev 5 1 → tripAt n.val = some tr → tr ≤ (ts.getD n.val 0).toNat →
    (∀ (m : Fin 60) (x : Nat), m < n → tripAt m.val = some x → (ts.getD m.val 0).toNat < x) →
    Answers (.thermalSample ts) s fun e => e.rb.tripOut = true ∧ e.rb.source = s.dev.rb.source ||| 0x020 ∧ e.rb.lastLevel = 1 ∧
      e.retained = s.dev.retained ∧ (∀ c, getCore e c = Core.reset) ∧
      (vget e.rb.bkup 15).toNat = s.dev.clock.time16 / 16 % 2 ^ 48 * 2 ^ 16 + (ts.getD n.val 0).toNat * 256 + n.val ∧
      ∀ k : Fin 16, k ≠ 15 → vget e.rb.bkup k = vget s.dev.rb.bkup k)

/-- A chosen code is applied when the rails have settled, at a reference edge that comes 1 µs after the decision or later, and the rails
then stand at the curve's value and the trim (R404, R405, R422, R423). -/
def Obligations.FrequencyCodeChangesAfterSettling : Prop :=
  (∀ (s : State) (p : PartId) (f : Byte), (getPart s.dev p).nextCode = some f → (getPart s.dev p).settling = false →
    s.dev.clock.refPresent = true → (getPart s.dev p).decided + 16000 ≤ s.dev.clock.elapsed →
    Answers (.frequencyCodeChange p) s fun e => (getPart e p).fcode = f ∧ (getPart e p).nextCode = none ∧
      (getPart e p).doms = (getPart s.dev p).doms ∧ (∀ q, q ≠ p → getPart e q = getPart s.dev q) ∧ e.cores = s.dev.cores ∧
      (∀ k ∈ pondsOf s.dev p, (getPond e k).setMv = Config.fusedCurve k.val f.toNat + 5 * (getPond s.dev k).trim.toInt)) ∧
  (∀ (s : State) (p : PartId), (getPart s.dev p).nextCode = none ∨ (getPart s.dev p).settling = true ∨ s.dev.clock.refPresent = false ∨
      s.dev.clock.elapsed < (getPart s.dev p).decided + 16000 →
    Gives (.frequencyCodeChange p) s s.dev) ∧
  (∀ (s : State) (p : PartId), Answers (.voltageSettled p) s fun e => (getPart e p).settling = false ∧
    (getPart e p).fcode = (getPart s.dev p).fcode ∧ (getPart e p).nextCode = (getPart s.dev p).nextCode ∧
    (∀ q, q ≠ p → getPart e q = getPart s.dev q) ∧ e.cores = s.dev.cores)

/-- Demands, realignment and notices of stretches (R406, R407, R408). -/
def Obligations.StretchesKeepPondsAligned : Prop :=
  (∀ (s : State) (k : Fin 32), (getPond s.dev k).st = .running → isArmed s.dev 0x161 (BitVec.ofNat 16 k.val) = false →
    (getPond s.dev k).count < maxCount s.dev (partOfPond s.dev k) →
    Answers (.stretchDemand k false) s fun e => (getPond e k).count = (getPond s.dev k).count + 1 ∧
      (getPond e k).realigns = satAdd (getPond s.dev k).realigns 1 ∧ (getPond e k).stretches = (getPond s.dev k).stretches ∧
      (∀ j, j ≠ k → getPond e j = getPond s.dev j) ∧ e.parts = s.dev.parts ∧ e.cores = s.dev.cores) ∧
  (∀ (s : State) (k : Fin 32), (getPond s.dev k).st = .running → isArmed s.dev 0x161 (BitVec.ofNat 16 k.val) = false →
    maxCount s.dev (partOfPond s.dev k) ≤ (getPond s.dev k).count →
    (∀ l, (getPond s.dev k).lastOwn = some l → l + 32 ≤ (getPart s.dev (partOfPond s.dev k)).periods + 1) →
    (∀ l, (getPart s.dev (partOfPond s.dev k)).lastOwn = some l → l + 16 ≤ (getPart s.dev (partOfPond s.dev k)).periods + 1) →
    Answers (.stretchDemand k false) s fun e => (getPond e k).count = (getPond s.dev k).count + 1 ∧
      (getPond e k).stretches = satAdd (getPond s.dev k).stretches 1 ∧
      (getPond e k).lastOwn = some ((getPart s.dev (partOfPond s.dev k)).periods + 1) ∧
      (∀ j, j.val / 8 = k.val / 8 → j ≠ k → ∃ n, n < 7 ∧
        (getPond e j).realignAt = some ((getPart s.dev (partOfPond s.dev k)).periods + 3 + 2 * n)) ∧
      e.cores = s.dev.cores) ∧
  (∀ (s : State) (k : Fin 32), (getPond s.dev k).st = .running → isArmed s.dev 0x161 (BitVec.ofNat 16 k.val) = false →
    maxCount s.dev (partOfPond s.dev k) ≤ (getPond s.dev k).count → (getPond s.dev k).demand = false →
    (∃ l, (getPond s.dev k).lastOwn = some l ∧ (getPart s.dev (partOfPond s.dev k)).periods + 1 < l + 32) ∨
      (∃ l, (getPart s.dev (partOfPond s.dev k)).lastOwn = some l ∧ (getPart s.dev (partOfPond s.dev k)).periods + 1 < l + 16) →
    Answers (.stretchDemand k false) s fun e => getPond e k =
        { getPond s.dev k with demand := true, deferred := satAdd (getPond s.dev k).deferred 1 } ∧
      e.parts = s.dev.parts ∧ e.cores = s.dev.cores) ∧
  (∀ (s : State) (k : Fin 32), (getPond s.dev k).st = .running →
    Answers (.stretchDemand k true) s fun e => (getPond e k).crit = true ∧ (getPart e (partOfPond s.dev k)).critSeen = true ∧
      code e (partOfPond s.dev k) = oneDown s.dev (partOfPond s.dev k) 140) ∧
  (∀ (s : State) (k : Fin 32) (q : Nat), (getPond s.dev k).realignAt = some q → q ≤ (getPart s.dev (partOfPond s.dev k)).periods →
    Answers (.realignmentStretch k) s fun e => ∀ j : Fin 32,
      (j.val / 8 = k.val / 8 ∧ (getPond s.dev j).realignAt = some q →
        (getPond e j).count = (getPond s.dev j).count + 1 ∧ (getPond e j).realignAt = none) ∧
      (j.val / 8 ≠ k.val / 8 ∨ (getPond s.dev j).realignAt ≠ some q → getPond e j = getPond s.dev j)) ∧
  (∀ (s : State) (p : PartId) (die : Fin 4) (t : Nat), s.dev.power.notices = [(p, die, t)] → t ≤ (getPart s.dev p).periods →
    Answers (.stretchNotice p die) s fun e => e.power.notices = [] ∧ ∀ j ∈ pondsOf s.dev p, j.val / 8 ≠ die.val →
      (getPond s.dev j).count < maxCount s.dev p → (getPond e j).realignAt = some (t + 2))

/-- TIME_SET steps the counter forward only, outside runs and fabric alignment (R419); the comparison takes the fraction in
(log entry 57). The loss and return of the reference (R404), and the end of a correction (R352). -/
def Obligations.TimeCounterCommands : Prop :=
  (∀ (s : State) (v : W64), s.dev.rb.boot = .ready → s.dev.clock.time16 ≤ v.toNat * 16 → (∀ p, anyRunning s.dev p = false) →
    s.dev.fab.aligned = false → Gives (.timeSet v) s { s.dev with clock := { s.dev.clock with time16 := v.toNat * 16 } }) ∧
  (∀ (s : State) (v : W64), s.dev.rb.boot = .ready →
    v.toNat * 16 < s.dev.clock.time16 ∨ (∃ p, anyRunning s.dev p = true) ∨ s.dev.fab.aligned = true →
    Gives (.timeSet v) s (noteSet { s.dev with clock := { s.dev.clock with setRefused := true } } .setRefused)) ∧
  (∀ s : State, s.dev.clock.refPresent = true → isArmed s.dev 0x160 0 = false →
    Answers .referenceLost s fun e => e.clock = { s.dev.clock with refPresent := false, refLost := true, refOk := false } ∧
      (∃ x, e.err.events = s.dev.err.events ++ [x] ∧ x.det = 0x160 ∧ x.inj = false) ∧ e.cores = s.dev.cores ∧ e.parts = s.dev.parts) ∧
  (∀ s : State, 2 ≤ s.dev.rb.step →
    Gives .referenceRestored s { s.dev with clock := { s.dev.clock with refPresent := true, refOk := true } }) ∧
  (∀ s : State, s.dev.clock.slew = 0 → s.dev.clock.half = 0 →
    Gives .correctionSlewComplete s { s.dev with clock := { s.dev.clock with corr := 0 } })

/-- The ledger: the event that the hub receives next is counted, and written at the tail while fewer than 256 entries wait, else
counted as unlogged (R473, R474, R478); with NOTIFY clear no message is sent. Of two entries the earlier comes first, and of one
tick that of the lower detector, then unit (R474). ERR_HEAD consumes entries (R478). -/
def Obligations.ErrorLedgerRecordsAndConsumes : Prop :=
  (∀ (s : State) (x : ErrEvent), nextEvent s.dev = some x → s.dev.err.count < 256 → s.dev.err.notify = false →
    Answers .errorEventRecord s fun e => e.err.events.length + 1 = s.dev.err.events.length ∧ e.err.count = s.dev.err.count + 1 ∧
      e.err.tail = s.dev.err.tail + 1 ∧ e.err.head = s.dev.err.head ∧ e.err.fatal = (s.dev.err.fatal || x.sev == 3) ∧
      (let n := vget e.err.entries (finMod 256 s.dev.err.tail.toNat)
       n.extractLsb' 0 16 = x.det ∧ n.extractLsb' 16 16 = x.unit ∧ n.extractLsb' 32 2 = x.sev ∧ n.extractLsb' 40 1 = (if x.inj then 1 else 0) ∧
         n.extractLsb' 48 8 = x.code ∧ n.extractLsb' 128 64 = x.detail) ∧
      (∀ k, k ≠ finMod 256 s.dev.err.tail.toNat → vget e.err.entries k = vget s.dev.err.entries k) ∧
      (∀ h : x.det.toNat < 512, vget e.err.counts ⟨x.det.toNat, h⟩ = satAdd (vget s.dev.err.counts ⟨x.det.toNat, h⟩) 1) ∧
      e.cores = s.dev.cores ∧ e.host = s.dev.host) ∧
  (∀ (s : State) (x : ErrEvent), nextEvent s.dev = some x → 256 ≤ s.dev.err.count →
    Answers .errorEventRecord s fun e => e.err.events.length + 1 = s.dev.err.events.length ∧ e.err.overflow = true ∧
      e.err.unlogged = satAdd s.dev.err.unlogged 1 ∧ e.err.entries = s.dev.err.entries ∧ e.err.count = s.dev.err.count ∧
      e.host = s.dev.host) ∧
  (∀ (s : State) (a b : ErrEvent), s.dev.err.events = [a, b] ∨ s.dev.err.events = [b, a] → s.dev.clock.stopped = 0 →
    crossingOf a.det a.unit ≠ crossingOf b.det b.unit ∨ crossingOf a.det a.unit = none → a.place = .lead → b.place = .lead →
    a.since < b.since ∨ (a.since = b.since ∧ (a.det < b.det ∨ (a.det = b.det ∧ a.unit < b.unit))) →
    Answers .errorEventRecord s fun e => e.err.events = [b]) ∧
  (∀ (s : State) (v : W64), s.dev.rb.boot = .ready → (v.setWidth 8 - s.dev.err.head).toNat ≤ s.dev.err.count →
    Gives (.errHeadWrite v) s { s.dev with err := { s.dev.err with
      head := v.setWidth 8, count := s.dev.err.count - (v.setWidth 8 - s.dev.err.head).toNat } }) ∧
  (∀ (s : State) (v : W64), s.dev.rb.boot = .ready → s.dev.err.count < (v.setWidth 8 - s.dev.err.head).toNat →
    Gives (.errHeadWrite v) s s.dev)

/-! ### Debug port, SMBus, attestation, pennants -/

/-- IDCODE, CHALLENGE and TOKEN of the port, each in its instruction register (R462); TRST_N low holds the port in reset (R500), with
the code that log entry 100 presumes; and the SMBus target's two commands (R501). -/
def Obligations.PortAndSmbusRead : Prop :=
  (∀ s : State, s.dev.rb.trstN = true → Gives .jtagIdcode s { s.dev with rb := { s.dev.rb with
    jtagIr := 0x01
    jtagOut := BitVec.ofNat 2112 (s.dev.sec.stepping.toNat % 16 * 2 ^ 28 + 0x4025 * 2 ^ 12 + 0x3A7 * 2 + 1) } }) ∧
  (∀ s : State, s.dev.rb.trstN = true → Gives .jtagChallenge s { s.dev with rb := { s.dev.rb with
    jtagIr := 0x10, jtagOut := s.dev.sec.challenge.setWidth 2112 } }) ∧
  (∀ (s : State) (t : BitVec 2112), s.dev.rb.trstN = true → Gives (.jtagToken t) s { s.dev with
    rb := { s.dev.rb with jtagIr := 0x11 }, sec := { s.dev.sec with portToken := t } }) ∧
  (∀ (s : State) (t : BitVec 2112), s.dev.rb.trstN = false →
    let d := { s.dev with rb := { s.dev.rb with jtagIr := 0x01 } }
    Gives .jtagIdcode s d ∧ Gives .jtagChallenge s d ∧ Gives (.jtagToken t) s d ∧ Gives .jtagSubmit s d) ∧
  (∀ (s : State) (v : W32), s.dev.rb.smbOn = true → s.dev.rb.aux = true → v.toNat % 8 = 0 →
    Gives (.smbSetOffset v) s { s.dev with rb := { s.dev.rb with smbOffset := v } }) ∧
  (∀ (s : State) (n : Fin 16), s.dev.rb.smbOn = true → s.dev.rb.aux = true → s.dev.sec.dbg ≠ .erasing →
    s.dev.rb.smbOffset.toNat = 0x20100 + 8 * n.val →
    Gives .smbRead s { s.dev with rb := { s.dev.rb with smbData := vget s.dev.rb.bkup n, smbOffset := s.dev.rb.smbOffset + 8 } }) ∧
  (∀ (s : State) (a : Nat), s.dev.rb.smbOn = true → s.dev.rb.aux = true → s.dev.sec.dbg ≠ .erasing → a % 8 = 0 → a < 0x4000 →
    s.dev.rb.smbOffset.toNat = 0x24000 + a → a ∉ s.dev.rb.retBad → a + 4 ∉ s.dev.rb.retBad → isArmed s.dev 0x106 0 = false →
    ∃ v : W64, Gives .smbRead s { s.dev with rb := { s.dev.rb with smbData := v, smbOffset := s.dev.rb.smbOffset + 8 } } ∧
      ∀ j, j < 8 → v.extractLsb' (8 * j) 8 = readByte s.dev .retained (a + j)) ∧
  (∀ s : State, s.dev.rb.smbOn = true → s.dev.rb.aux = true → s.dev.rb.smbOffset.toNat % 8 = 0 →
    (0x1000 ≤ s.dev.rb.smbOffset.toNat ∧ s.dev.rb.smbOffset.toNat < 0x20000) ∨ 0x40000 ≤ s.dev.rb.smbOffset.toNat →
    Gives .smbRead s { s.dev with rb := { s.dev.rb with smbData := 0, smbOffset := s.dev.rb.smbOffset + 8 } }) ∧
  (∀ s : State, s.dev.rb.smbOn = false → Gives .smbRead s s.dev)

namespace Sys2Proof.Claims

/-- What a submission of a token leaves (R463, R464), v the tokens then under verification: a new challenge in any case; below 16
failures the token is to be checked, and from 16 on it is refused with 0x05. -/
def submitted (d : Device) (v : List Submission) : Device :=
  { d with sec :=
    if d.sec.fails.toNat < 16 then
      { d.sec with challenge := Config.challenge d.sec.draws, draws := d.sec.draws + 1,
                   dbg := if d.sec.dbg = .closed then .verifying else d.sec.dbg, verify := v }
    else { d.sec with challenge := Config.challenge d.sec.draws, draws := d.sec.draws + 1, dbgErr := 5 } }

/-- A submission of the present tick, which meets a challenge. -/
def submission (d : Device) (t : BitVec 2112) (c : Digest) (port : Bool) : Submission :=
  { token := t, chal := c, port := port, time := d.clock.elapsed }

/-- The port's instruction register holds SUBMIT. -/
def scanned (d : Device) : Device := { d with rb := { d.rb with jtagIr := 0x12 } }

/-- R464, checks 1 to 4, of a token t of 264 bytes that met the challenge c. -/
def tokenSound (t : List Byte) : Bool :=
  decide (leVal (t.take 2) = 1) && decide ((t.getD 2 0).toNat ≤ 7) && decide (t.getD 3 0 = 1) && ((t.drop 60).take 4).all (· = 0) &&
    ((t.drop 161).take 7).all (· = 0) && validPoint ((t.drop 64).take 97)
def tokenKeyed (d : Device) (t : List Byte) : Bool :=
  d.sec.purpose.getLsbD (2 * (t.getD 2 0).toNat + 1) && !d.sec.revActive.getLsbD (t.getD 2 0).toNat &&
    decide (sha384 ((t.drop 64).take 97) = vget d.sec.keyDig (finMod 8 (t.getD 2 0).toNat))
def tokenMeant (d : Device) (t : List Byte) (c : Digest) : Bool :=
  decide (((t.drop 4).take 8).reverse = leBytes 8 d.sec.serial.toNat) && decide ((t.drop 12).take 48 = leBytes 48 c.toNat)
def tokenSigned (t : List Byte) : Bool :=
  ecdsaVerifies ((t.drop 64).take 97) (sha384 (t.take 168)) ((t.drop 168).take 96)

/-- Steps 1 to 7 of R465. -/
def Erasing (d e : Device) : Prop :=
  e.sec.debugOpened = true ∧ e.sec.dbg = .erasing ∧ e.sec.idValid = false ∧ e.sec.queue = [] ∧ (∀ k, vget e.sec.attNonce k = 0) ∧
  e.sec.pserial = 0 ∧ e.sec.fails = d.sec.fails ∧ e.retained = [] ∧ e.reservoir = [] ∧ (∀ n, vget e.rb.bkup n = 0) ∧
  (∀ p, (getPart e p).weights = []) ∧ (∀ i, (getDom e i).pennant = none ∧ (getDom e i).st = (getDom d i).st) ∧
  (∀ x ∈ e.cmds, x.opcode ≠ 0x0A) ∧ e.scratch = d.scratch ∧ e.hbm = d.hbm

end Sys2Proof.Claims

/-- A token is submitted through the port or the registers, and draws a new challenge (R463, R464). The port's goes before a host's
of the same tick, and meets the challenge that the host's would have met. -/
def Obligations.TokensAreSubmitted : Prop :=
  (∀ s : State, s.dev.rb.trstN = true → (∀ x ∈ s.dev.sec.verify, x.port = true ∨ x.time ≠ s.dev.clock.elapsed) →
    Gives .jtagSubmit s (submitted (scanned s.dev)
      (s.dev.sec.verify ++ [submission s.dev s.dev.sec.portToken s.dev.sec.challenge true]))) ∧
  (∀ (s : State) (t : BitVec 2112) (c : Digest), s.dev.rb.trstN = true → s.dev.sec.verify = [submission s.dev t c false] →
    Gives .jtagSubmit s (submitted (scanned s.dev)
      [submission s.dev s.dev.sec.portToken c true, submission s.dev t s.dev.sec.challenge false])) ∧
  (∀ s : State, ∃ t : BitVec 2112, (∀ k : Fin 33, t.extractLsb' (64 * k.val) 64 = vget s.dev.sec.token k) ∧
    Gives .dbgTokenSubmit s (submitted s.dev (s.dev.sec.verify ++ [submission s.dev t s.dev.sec.challenge false])))

/-- The checks of a token in their order, what a failure counts, and what an accepted token erases (R464, R465). That a port which
erases or is open takes submissions, and is not opened again, is the model's choice (log entry 99). -/
def Obligations.TokenVerificationChecksInOrder : Prop :=
  ∀ (s : State) (x : Submission) (rest : List Submission), s.dev.sec.verify = x :: rest → isArmed s.dev 0x1A1 0 = false →
    let b := leBytes 264 x.token.toNat
    let sec := { s.dev.sec with
      verify := rest, dbg := if rest = [] ∧ s.dev.sec.dbg = DbgState.verifying then .closed else s.dev.sec.dbg }
    let fail := fun (n : Byte) => { sec with dbgErr := n, fails := s.dev.sec.fails + 1 }
    Answers .tokenVerificationDone s fun e =>
      if 16 ≤ s.dev.sec.fails.toNat then e = { s.dev with sec := { sec with dbgErr := 5 } }
      else if tokenSound b = false then e = { s.dev with sec := fail 1 }
      else if tokenKeyed s.dev b = false then e = { s.dev with sec := fail 2 }
      else if tokenMeant s.dev b x.chal = false then e = { s.dev with sec := fail 4 }
      else if tokenSigned b = false then
        e = { s.dev with sec := fail 3, err := e.err, clock := e.clock, justSet := e.justSet, parts := e.parts } ∧
          (isArmed s.dev 0x162 25 = false → e.parts = s.dev.parts) ∧
          (s.dev.err.events = [] → ∃ x ∈ e.err.events, x.det = 0x1A1)
      else if s.dev.sec.dbg = .erasing ∨ s.dev.sec.dbg = .opened then e = { s.dev with sec := { sec with dbgErr := 0 } }
      else Erasing s.dev e ∧ e.sec.verify = rest

namespace Sys2Proof.Claims

/-- Bytes 0 to 271 of the attestation report (R459). -/
def attestation (d : Device) : List Byte :=
  leBytes 2 1 ++ leBytes 2 368 ++ leBytes 2 0x4025 ++ [d.sec.stepping, 1, BitVec.ofNat 8 d.sec.svnFused] ++
  leBytes 1 d.sec.imgSvn.toNat ++ leBytes 1 d.sec.imgSlot.toNat ++ [d.sec.revoked] ++ leBytes 1 d.config ++ [0, 0, 0] ++
  d.sec.attNonce.toList.flatMap (fun w => leBytes 8 w.toNat) ++ leBytes 48 d.sec.fwDigest.toNat ++ leBytes 48 d.sec.spDigest.toNat ++
  leBytes 48 (identityDigest d.sec.seed d.sec.serial).toNat ++ leBytes 8 d.sec.serial.toNat ++
  leBytes 8 (d.clock.time16 / 16) ++ leBytes 4 (if d.fab.valid then 4 * d.fab.index.toNat else 0xFFFFFFFF) ++ List.replicate 44 0

end Sys2Proof.Claims

/-- An attestation request, the report that its signing takes, and what is written (R458, R459). -/
def Obligations.AttestationIsSigned : Prop :=
  (∀ (s : State) (v : W64), v.getLsbD 0 = true → s.dev.sec.attState ≠ 1 → s.dev.sec.idValid = true → s.dev.sec.queue = [] →
    ∃ rep : BitVec 2176, leBytes 272 rep.toNat = attestation s.dev ∧
      Gives (.attestationGo v) s { s.dev with sec := { s.dev.sec with
        attAddr := (v >>> 6).setWidth 58, attState := 1, attErr := 0, queue := [.attest ((v >>> 6).setWidth 58) rep] } }) ∧
  (∀ (s : State) (v : W64), v.getLsbD 0 = true → s.dev.sec.attState ≠ 1 → s.dev.sec.idValid = true → s.dev.sec.queue ≠ [] →
    Gives (.attestationGo v) s { s.dev with sec := { s.dev.sec with
      attAddr := (v >>> 6).setWidth 58, attState := 1, attErr := 0, queue := s.dev.sec.queue ++ [.attest ((v >>> 6).setWidth 58) 0] } }) ∧
  (∀ (s : State) (v : W64), v.getLsbD 0 = true → s.dev.sec.attState ≠ 1 → s.dev.sec.idValid = false →
    Gives (.attestationGo v) s { s.dev with sec := { s.dev.sec with attAddr := (v >>> 6).setWidth 58, attState := 3, attErr := 1 } }) ∧
  (∀ (s : State) (v : W64), v.getLsbD 0 = false ∨ s.dev.sec.attState = 1 →
    Gives (.attestationGo v) s { s.dev with sec := { s.dev.sec with attAddr := (v >>> 6).setWidth 58 } }) ∧
  (∀ (s : State) (a : BitVec 58) (rep : BitVec 2176), s.dev.sec.queue = [.attest a rep] →
    Answers (.attestationDone true) s fun e =>
      e.sec = { s.dev.sec with queue := [], attState := 2, attErr := 0, attCount := satAdd s.dev.sec.attCount 1 } ∧
      readBytes e .host (a.toNat * 64) 272 = leBytes 272 rep.toNat ∧
      readBytes e .host (a.toNat * 64 + 272) 96 =
        leBytes 96 (ecdsaSign s.dev.sec.seed s.dev.sec.serial (sha384 (leBytes 272 rep.toNat))).toNat ∧
      (∀ x, x < a.toNat * 64 ∨ a.toNat * 64 + 368 ≤ x → readByte e .host x = readByte s.dev .host x) ∧
      e = { s.dev with sec := e.sec, host := e.host }) ∧
  (∀ (s : State) (a : BitVec 58) (rep : BitVec 2176), s.dev.sec.queue = [.attest a rep] → s.dev.err.events = [] →
    Answers (.attestationDone false) s fun e => e.sec = { s.dev.sec with queue := [], attState := 3, attErr := 2 } ∧
      (∃ x ∈ e.err.events, x.det = 0x150) ∧ e.host = s.dev.host ∧ e.cores = s.dev.cores)

/-! ### Host commands -/

namespace Sys2Proof.Claims

/-- The handle of the next command of a ring (R381). -/
def nextHandle (d : Device) (i : Fin 64) : W32 := BitVec.ofNat 32 (i.val * 2 ^ 26 + (vget d.rings i).seq.toNat)

/-- A completion ring has room and holds nothing back (R384), and its owner's messages are masked or not enabled (R486): an entry
writes its 32 bytes to host memory and nothing else. -/
def Room (d : Device) (i : Fin 64) : Prop :=
  let r := vget d.rings i
  (r.cplTail.toNat + 1) % 2 ^ r.cplLog2.toNat ≠ r.cplHead.toNat ∧ r.held = [] ∧
    ((vget d.msix (finMod 9 r.owner.toNat)).fmask = true ∨ (vget d.msix (finMod 9 r.owner.toNat)).enabled = false)

/-- The next descriptor of a ring can be taken (R378, R379). -/
def Takes (d : Device) (i : Fin 64) (fence : Bool) : Prop :=
  let r := vget d.rings i
  d.rb.boot = .ready ∧ r.enabled = true ∧ r.stopped = false ∧ r.cmdHead ≠ r.cmdTail ∧ r.outstanding.length < 32 ∧
    (fence = true → r.outstanding = []) ∧ Room d i

/-- A ring may name a partition (R373), and holds its attachment (R388). -/
def MayName (d : Device) (i : Fin 64) (p : PartId) : Prop :=
  (vget d.rings i).owner.toNat = 0 ∨ (vget d.vfPart (finMod 8 ((vget d.rings i).owner.toNat - 1))).toNat = p.val
def Holds (d : Device) (h : CmdHdr) : Prop :=
  h.part.val < d.config ∧ MayName d h.ring h.part ∧ (getPart d h.part).attached = some h.ring

/-- The address of the next completion entry of a ring. -/
def entryAt (d : Device) (i : Fin 64) : Nat := (vget d.rings i).cplBase.toNat * 4096 + (vget d.rings i).cplTail.toNat * 32

/-- The 32 bytes of a completion entry (R382). -/
def entry (d : Device) (i : Fin 64) (hd : W32) (st : Nat) (final : Bool) (halt : Byte) (tag : W32) (op : Byte) (res : List Byte) : List Byte :=
  leBytes 4 hd.toNat ++ leBytes 2 st ++ [(if final then 1 else 0) + (if (vget d.rings i).phase then 2 else 0), halt] ++
    leBytes 4 tag.toNat ++ [op, 0, 0, 0] ++ (res ++ List.replicate 16 0).take 16

/-- From d to e an entry is written at the tail of a ring, which moves; no other byte of host memory and no other ring
changes. -/
def Wrote (d e : Device) (i : Fin 64) (bytes : List Byte) : Prop :=
  readBytes e .host (entryAt d i) 32 = bytes ∧
  (∀ a, a < entryAt d i ∨ entryAt d i + 32 ≤ a → readByte e .host a = readByte d .host a) ∧
  (vget e.rings i).cplTail = BitVec.ofNat 16 (((vget d.rings i).cplTail.toNat + 1) % 2 ^ (vget d.rings i).cplLog2.toNat) ∧
  ∀ j, j ≠ i → vget e.rings j = vget d.rings j

/-- The descriptor has been taken from its ring. -/
def Taken (d e : Device) (i : Fin 64) : Prop :=
  (vget e.rings i).cmdHead = BitVec.ofNat 16 (((vget d.rings i).cmdHead.toNat + 1) % 2 ^ (vget d.rings i).cmdLog2.toNat) ∧
  (vget e.rings i).seq = (vget d.rings i).seq + 1

/-- x with the rings, messages, host memory and commands of e. -/
def under (x e : Device) : Device := { x with rings := e.rings, msix := e.msix, host := e.host, cmds := e.cmds }

/-- A short command runs: its final entry is written, and the device is x under the rings and host memory. -/
def Finishes (i : Instr) (s : State) (h : CmdHdr) (op : Byte) (st : Nat) (res : List Byte) (x : Device) : Prop :=
  Answers i s fun e => Wrote s.dev e h.ring (entry s.dev h.ring (nextHandle s.dev h.ring) st true 0 h.tag op res) ∧ Taken s.dev e h.ring ∧
    (vget e.rings h.ring).outstanding = (vget s.dev.rings h.ring).outstanding.filter (· != nextHandle s.dev h.ring) ∧
    e.cmds = s.dev.cmds.filter (·.handle != nextHandle s.dev h.ring) ∧ e = under x e

/-- A command that needs the ponds of a partition has come (R430), which keeps them from retention. -/
def needed (d : Device) (p : PartId) : Device := modPart d p fun x => { x with lastNeed := some d.clock.elapsed }

/-- What a LOAD_TENSOR or READ_TENSOR of a region leaves as it is accepted: one of space 0x1 needs the ponds. -/
def neededFor (d : Device) (p : PartId) (a : W64) : Device := if a.toNat / 2 ^ 44 = 1 then needed d p else d

/-- A command in progress as its acceptance leaves it. -/
def begun (d : Device) (h : CmdHdr) (op : Byte) (job : Job) : Cmd :=
  { handle := nextHandle d h.ring, hdr := h, opcode := op, job := job, data := none, round := 0, active := false,
    failed := false, begun := false, pos := 0, got := [], held := false, release := 0, mute := false }

/-- A long command is accepted: a non-final entry with status OK, the command outstanding, and the device is x. -/
def Begins (i : Instr) (s : State) (h : CmdHdr) (op : Byte) (c : Device → Cmd → Prop) (x : Device) : Prop :=
  Answers i s fun e => Wrote s.dev e h.ring (entry s.dev h.ring (nextHandle s.dev h.ring) 0 false 0 h.tag op []) ∧ Taken s.dev e h.ring ∧
    (vget e.rings h.ring).outstanding = (vget s.dev.rings h.ring).outstanding ++ [nextHandle s.dev h.ring] ∧
    (∃ k, e.cmds = s.dev.cmds ++ [k] ∧ c e k) ∧ e = under x e

/-- The final completion of a command in progress. -/
def Ends (d e : Device) (c : Cmd) (st : Nat) (halt : Byte) (res : List Byte) : Prop :=
  Wrote d e c.hdr.ring (entry d c.hdr.ring c.handle st true halt c.hdr.tag c.opcode res) ∧
  (vget e.rings c.hdr.ring).outstanding = (vget d.rings c.hdr.ring).outstanding.filter (· != c.handle) ∧
  e.cmds = d.cmds.filter (·.handle != c.handle)

end Sys2Proof.Claims

/-- ATTACH, SET_MODE and CONFIGURE_PARTITION, with what they refuse (R29, R380, R388, R399). -/
def Obligations.PartitionsAreAttachedAndConfigured : Prop :=
  (∀ (s : State) (h : CmdHdr), Takes s.dev h.ring h.fence → h.part.val < s.dev.config → MayName s.dev h.ring h.part →
    ((getPart s.dev h.part).attached = none ∨ (getPart s.dev h.part).attached = some h.ring →
      Finishes (.attach h 1) s h 0x01 0 [] (modPart s.dev h.part fun p => { p with attached := some h.ring })) ∧
    ((getPart s.dev h.part).attached = some h.ring →
      Finishes (.attach h 2) s h 0x01 0 [] (modPart s.dev h.part fun p => { p with attached := none })) ∧
    ((getPart s.dev h.part).attached ≠ some h.ring →
      Finishes (.attach h 2) s h 0x01 1 [] s.dev ∧ ∀ m : Byte, m = 1 ∨ m = 2 → Finishes (.setMode h m) s h 0x03 11 [] s.dev) ∧
    (∀ r, (getPart s.dev h.part).attached = some r → r ≠ h.ring → Finishes (.attach h 1) s h 0x01 6 [] s.dev)) ∧
  (∀ (s : State) (h : CmdHdr) (m : Byte), Takes s.dev h.ring h.fence → Holds s.dev h → m = 1 ∨ m = 2 →
    (∀ k, (getDom s.dev { part := h.part, dom := k }).st ≠ .running) →
    Finishes (.setMode h m) s h 0x03 0 [] (modPart s.dev h.part fun p => { p with openMode := decide (m = 2) })) ∧
  (∀ (s : State) (h : CmdHdr) (n : Byte) (vf : W64), Takes s.dev h.ring h.fence → (vget s.dev.rings h.ring).owner = 0 → h.part = 0 → h.dom = 0 →
    n = 1 ∨ n = 2 ∨ n = 4 → (∀ k, k < 8 → vf.extractLsb' (8 * k) 8 = 0xFF ∨ (vf.extractLsb' (8 * k) 8).toNat < n.toNat) →
    (∀ i, (getDom s.dev i).st = .empty) → s.dev.cmds = [] →
    Answers (.configurePartition h n vf) s fun e =>
      Wrote s.dev e h.ring (entry s.dev h.ring (nextHandle s.dev h.ring) 0 true 0 h.tag 0x02 []) ∧ Taken s.dev e h.ring ∧
      e.config = n.toNat ∧ (∀ k : Fin 8, vget e.vfPart k = vf.extractLsb' (8 * k.val) 4) ∧
      (∀ p, (getPart e p).openMode = false ∧ (getPart e p).attached = none ∧ (getPart e p).weights = []) ∧
      e.cores = s.dev.cores ∧ e.power = { s.dev.power with notices := [], ponds := e.power.ponds } ∧
      (∀ k, (getPond e k).st = (getPond s.dev k).st ∧ (getPond e k).count = 0) ∧
      e.scratch = s.dev.scratch ∧ e.reservoir = s.dev.reservoir)

/-- LOAD_PROGRAM of a whole binary and of an overlay: acceptance (R76, R390, R460), and the end of a load (R390, R391). -/
def Obligations.ProgramsAreLoaded : Prop :=
  (∀ (s : State) (h : CmdHdr) (a : W64) (n : W32), Takes s.dev h.ring h.fence → Holds s.dev h → a.toNat % 64 = 0 → n ≠ 0 → n.toNat % 64 = 0 →
    (getDom s.dev { part := h.part, dom := h.dom }).st ≠ .loading → (getDom s.dev { part := h.part, dom := h.dom }).st ≠ .running →
    (getDom s.dev { part := h.part, dom := h.dom }).runHandle = none → (getPart s.dev h.part).clearing = false →
    (∀ k, (getPond s.dev k).st = .running) →
    Begins (.loadProgram h a n) s h 0x04 (fun _ c => c = begun s.dev h 0x04 (.loadProgram a n))
      (modDom (needed s.dev h.part) { part := h.part, dom := h.dom } fun m => { m with st := .loading, prior := m.st, pennant := none })) ∧
  (∀ (s : State) (h : CmdHdr) (a : W64) (n : W32), Takes s.dev h.ring h.fence → Holds s.dev h → (∀ k, (getPond s.dev k).st = .running) →
    a.toNat % 64 = 0 → n ≠ 0 → n.toNat % 64 = 0 → domState s.dev { part := h.part, dom := h.dom } ≠ .empty →
    domState s.dev { part := h.part, dom := h.dom } ≠ .loading → s.dev.err.events = [] →
    isArmed s.dev 0x150 (BitVec.ofNat 16 (vget s.dev.rings h.ring).owner.toNat) = false →
    firstFail (overlayChecks s.dev { part := h.part, dom := h.dom } (readBytes s.dev .host a.toNat n.toNat)) = none →
    (∀ x ∈ overlayPages s.dev (readBytes s.dev .host a.toNat n.toNat), pageLocked (getCore s.dev x.1) x.2.val = false) →
    Answers (.loadProgramOverlay h a n) s fun e => if Config.hostWorks s.dev.freeCtr = false then
      Wrote s.dev e h.ring (entry s.dev h.ring (nextHandle s.dev h.ring) 12 true 0 h.tag 0x04 []) ∧ Taken s.dev e h.ring ∧
      e.cores = s.dev.cores ∧ ∃ x ∈ e.err.events, x.det = 0x150
    else
      Wrote s.dev e h.ring (entry s.dev h.ring (nextHandle s.dev h.ring) 0 false 0 h.tag 0x04 []) ∧ Taken s.dev e h.ring ∧
      e.cmds = s.dev.cmds ++ [begun s.dev h 0x04 (.overlay (readBytes s.dev .host a.toNat n.toNat))] ∧
      (∀ x ∈ overlayPages s.dev (readBytes s.dev .host a.toNat n.toNat), vget (getCore e x.1).pages x.2 = .loading) ∧
      (getDom e { part := h.part, dom := h.dom }).pennant = none ∧
      (domState s.dev { part := h.part, dom := h.dom } = .running →
        (getDom e { part := h.part, dom := h.dom }).overlays = true ∧
        (getDom e { part := h.part, dom := h.dom }).overlay =
          sha384 (leBytes 48 (getDom s.dev { part := h.part, dom := h.dom }).overlay.toNat ++
            leBytes 48 (sha384 (readBytes s.dev .host a.toNat n.toNat)).toNat)) ∧ e.scratch = s.dev.scratch) ∧
  (∀ (s : State) (i : DomId) (c : Cmd) (a : W64) (n : W32), s.dev.cmds = [c] → c.hdr.part = i.part → c.hdr.dom = i.dom →
    c.job = .loadProgram a n → c.mute = false → Room s.dev c.hdr.ring →
    isArmed s.dev 0x150 (BitVec.ofNat 16 (vget s.dev.rings c.hdr.ring).owner.toNat) = false → (∀ k, (getCore s.dev k).inReset = false) →
    let im := readBytes s.dev .host a.toNat n.toNat
    let g := parseProgram im
    let status := loadStatus s.dev i im
    Answers (.loadProgramDone i true) s fun e =>
      if status.1 = .ok then
        Ends s.dev e c 0 0 (leBytes 8 ((programFloor g).getD 0) ++ leBytes 8 (g.digest.toNat % 2 ^ 64)) ∧
        (getDom e i).st = .loaded ∧ (getDom e i).prog = some { g with floorKHz := (programFloor g).getD 0 } ∧
        (getDom e i).pennant = none ∧ (getDom e i).run = none
      else
        Ends s.dev e c (statusCode status.1) 0 (leBytes 16 status.2) ∧
        e = under (modPart (modDom s.dev i fun m => { m with st := m.prior }) i.part fun x =>
          { x with emptySince := if (getDom s.dev i).prior = .empty then s.dev.clock.elapsed / 16 else x.emptySince }) e) ∧
  (∀ (s : State) (i : DomId) (c : Cmd) (im : List Byte) (g : Program), s.dev.cmds = [c] → c.hdr.part = i.part → c.hdr.dom = i.dom →
    c.job = .overlay im → c.mute = false → Room s.dev c.hdr.ring → (getDom s.dev i).prog = some g →
    (∀ x ∈ overlayPages s.dev im, (getCore s.dev x.1).inReset = false) →
    Answers (.overlayLoaded i) s fun e =>
      Ends s.dev e c 0 0 (leBytes 8 g.floorKHz ++ leBytes 8 (g.digest.toNat % 2 ^ 64)) ∧
      (∀ x ∈ overlayPages s.dev im, vget (getCore e x.1).pages x.2 = .loaded) ∧
      (∀ r, (getDom s.dev i).run = some r → ∃ q, (getDom e i).run = some q ∧ q.items = r.items ++
        (overlayPages s.dev im).map fun x => { ref := .overlay x.1 x.2, due := 0, ready := some r.period, cause := 6 }) ∧
      (getDom e i).st = (getDom s.dev i).st ∧ e.scratch = s.dev.scratch)

/-- LOAD_TENSOR and READ_TENSOR: acceptance, the bytes that move, and the entries; output that is withheld until its deadline point
(R56, R365, R389, R392, R396). -/
def Obligations.TensorsMove : Prop :=
  (∀ (s : State) (h : CmdHdr) (b : LoadTensorBody), Takes s.dev h.ring h.fence → Holds s.dev h → b.haddr.toNat % 64 = 0 →
    b.len ≠ 0 → b.len.toNat % 64 = 0 → b.signal = false → b.score = 0 → b.sflag = 0 →
    (∃ t, regionOf s.dev h.part b.daddr b.len.toNat = some t) → (∀ k, (getPond s.dev k).st = .running) →
    (getPart s.dev h.part).clearing = false → (∀ k, (getCore s.dev k).clearing = false) →
    (∀ k, (getDom s.dev { part := h.part, dom := k }).st ≠ .running) →
    (b.weight = false ∨ ∀ w ∈ (getPart s.dev h.part).weights,
      w.addr.toNat + w.len.toNat ≤ b.daddr.toNat ∨ b.daddr.toNat + b.len.toNat ≤ w.addr.toNat ∨
      (b.daddr.toNat ≤ w.addr.toNat ∧ w.addr.toNat + w.len.toNat ≤ b.daddr.toNat + b.len.toNat)) →
    Begins (.loadTensor h b) s h 0x05 (fun _ c => c = begun s.dev h 0x05 (.loadTensor b)) (neededFor s.dev h.part b.daddr)) ∧
  (∀ (s : State) (c : Cmd) (b : LoadTensorBody) (t : Target), s.dev.cmds = [c] → c.job = .loadTensor b → c.mute = false → Room s.dev c.hdr.ring →
    regionOf s.dev c.hdr.part b.daddr b.len.toNat = some t → requestsDue s.dev c.hdr.part = false → cmdIsolated s.dev c = false →
    cmdLost s.dev c = false → c.failed = false → s.dev.err.armed = [] →
    (b.signal = true → (getCore s.dev (scoreCtx b.score).core).inReset = false) →
    let bytes := readBytes s.dev .host b.haddr.toNat b.len.toNat
    let x := writeTarget s.dev c.hdr.part (alongTarget t (64 * c.pos)) (bytes.drop (64 * c.pos))
    Answers (.loadTensorDone c.handle true) s fun e => Ends s.dev e c 0 0 [] ∧
      e.scratch = x.scratch ∧ e.reservoir = x.reservoir ∧ e.hbm = x.hbm ∧ e.cxl = x.cxl ∧ e.retained = s.dev.retained ∧
      (b.weight = false → (getPart e c.hdr.part).weights = (getPart s.dev c.hdr.part).weights) ∧
      (b.weight = true → { space := BitVec.ofNat 8 (b.daddr.toNat / 2 ^ 44), addr := b.daddr, len := b.len, digest := sha384 bytes } ∈
        (getPart e c.hdr.part).weights) ∧
      (b.signal = true → (getCore e (scoreCtx b.score).core).flagPend = (getCore s.dev (scoreCtx b.score).core).flagPend ++
        [.add (BitVec.ofNat 8 (physFlag (isSplit s.dev (scoreCtx b.score).core) (scoreCtx b.score).ctx b.sflag).val) 1])) ∧
  (∀ (s : State) (h : CmdHdr) (b : ReadTensorBody), Takes s.dev h.ring h.fence → h.part.val < s.dev.config → MayName s.dev h.ring h.part →
    b.haddr.toNat % 64 = 0 → b.len ≠ 0 → b.len.toNat % 64 = 0 → b.bctx = 0xFF → b.dpoint.toNat ≤ 64 → b.round = 0 → b.signal = false →
    b.score = 0 → b.sflag = 0 → (∃ t, regionOf s.dev h.part b.saddr b.len.toNat = some t) → (∀ k, (getPond s.dev k).st = .running) →
    (getPart s.dev h.part).clearing = false → (∀ k, (getCore s.dev k).clearing = false) →
    (∀ k, (getDom s.dev { part := h.part, dom := k }).st ≠ .running) → (∀ c ∈ s.dev.cmds, c.handle ≠ nextHandle s.dev h.ring) →
    Begins (.readTensor h b) s h 0x09 (fun _ c => c = { begun s.dev h 0x09 (.readTensor b) with active := true })
      (neededFor s.dev h.part b.saddr)) ∧
  (∀ (s : State) (c : Cmd) (b : ReadTensorBody), s.dev.cmds = [c] → c.job = .readTensor b → c.active = true → c.begun = false →
    c.failed = false → cmdIsolated s.dev c = false →
    Gives (.readTensorCapture c.handle) s { s.dev with cmds := [{ c with begun := true }] }) ∧
  (∀ (s : State) (c : Cmd) (b : ReadTensorBody) (t : Target), s.dev.cmds = [c] → c.job = .readTensor b → c.held = false → c.begun = true →
    c.data = none → c.failed = false → c.mute = false → regionOf s.dev c.hdr.part b.saddr b.len.toNat = some t →
    requestsDue s.dev c.hdr.part = false → cmdIsolated s.dev c = false → cmdLost s.dev c = false → s.dev.err.armed = [] →
    s.dev.scratchBad = [] → b.signal = false → b.dpoint = 0 → Room s.dev c.hdr.ring →
    let bytes := c.got ++ readTarget s.dev c.hdr.part (alongTarget t (64 * c.pos)) (b.len.toNat - 64 * c.pos)
    Answers (.readTensorDone c.handle true) s fun e =>
      Ends (writeBytes s.dev .host b.haddr.toNat bytes) e c 0 0 (leBytes 8 c.round ++ leBytes 4 bytes.length) ∧
      e.scratch = s.dev.scratch ∧ e.reservoir = s.dev.reservoir ∧ e.hbm = s.dev.hbm ∧ e.cxl = s.dev.cxl) ∧
  (∀ (s : State) (c : Cmd) (b : ReadTensorBody) (bytes : List Byte) (t : Nat), s.dev.cmds = [c] → c.job = .readTensor b → c.held = false →
    c.begun = true → c.failed = false → c.mute = false → c.data = some (bytes, t) →
    (∀ x, pointTime s.dev { part := c.hdr.part, dom := c.hdr.dom } b.dpoint.toNat = some x → x ≤ s.dev.clock.time16) → Room s.dev c.hdr.ring →
    Answers (.readTensorDone c.handle true) s fun e =>
      Ends (writeBytes s.dev .host b.haddr.toNat bytes) e c 0 0 (leBytes 8 t ++ leBytes 4 bytes.length) ∧ e = under s.dev e) ∧
  (∀ (s : State) (c : Cmd) (b : ReadTensorBody) (bytes : List Byte) (t : Nat) (r : Run) (g : Program) (p : Pace) (x : Nat × Nat),
    s.dev.cmds = [c] → c.job = .readTensor b → c.held = false → c.begun = true → c.failed = false → c.data = some (bytes, t) →
    (getDom s.dev { part := c.hdr.part, dom := c.hdr.dom }).run = some r → (getDom s.dev { part := c.hdr.part, dom := c.hdr.dom }).prog = some g →
    g.pace = some p → b.dpoint ≠ 0 → p.points[b.dpoint.toNat - 1]? = some x → b.dpoint.toNat - 1 ∉ r.missed →
    s.dev.clock.time16 < (r.paceStart + x.2) * 16 - 16 * r.elapsed →
    Gives (.readTensorDone c.handle true) s { s.dev with
      cmds := [{ c with held := true, release := (r.paceStart + x.2) * 16 - 16 * r.elapsed }] }) ∧
  (∀ (s : State) (i : DomId) (c : Cmd) (b : ReadTensorBody) (bytes : List Byte) (t : Nat), s.dev.cmds = [c] → c.job = .readTensor b →
    c.hdr.part = i.part → c.hdr.dom = i.dom → c.held = true → c.failed = false → c.mute = false → c.data = some (bytes, t) →
    c.release ≤ s.dev.clock.time16 → Room s.dev c.hdr.ring →
    Answers (.pacedOutputRelease i) s fun e =>
      Ends (writeBytes s.dev .host b.haddr.toNat bytes) e c 0 0 (leBytes 8 t ++ leBytes 4 bytes.length) ∧ e = under s.dev e) ∧
  (∀ (s : State) (i : DomId) (c : Cmd) (b : ReadTensorBody), s.dev.cmds = [c] → c.job = .readTensor b →
    s.dev.clock.time16 < c.release → Gives (.pacedOutputRelease i) s s.dev)

/-- RUN, the first tick and its clearing, the activity ramp, and the end of a run (R27, R44, R50, R393, R431, R460, R461). -/
def Obligations.RunsStartAndEnd : Prop :=
  (∀ (s : State) (h : CmdHdr) (b : RunBody) (g : Program), Takes s.dev h.ring h.fence → Holds s.dev h →
    b.restore = false → b.image = 0 → b.ilen = 0 →
    let i : DomId := { part := h.part, dom := h.dom }
    (getDom s.dev i).st = .loaded ∨ (getDom s.dev i).st = .ended ∨ (getDom s.dev i).st = .halted → (getDom s.dev i).prog = some g →
    needsFabric g = false → (getDom s.dev i).runHandle = none → (getPart s.dev h.part).clearing = false →
    (∀ k, (getCore s.dev k).clearing = false) → s.dev.cmds = [] →
    Answers (.run h b) s fun e =>
      Wrote s.dev e h.ring (entry s.dev h.ring (nextHandle s.dev h.ring) 0 false 0 h.tag 0x06 []) ∧ Taken s.dev e h.ring ∧
      e.cmds = [begun s.dev h 0x06 (.run [])] ∧ (getDom e i).st = .running ∧ (getDom e i).runHandle = some (nextHandle s.dev h.ring) ∧
      (getDom e i).run = some (freshRun (getPart s.dev h.part).openMode b.session) ∧ (getDom e i).pennant = none ∧
      (getDom e i).overlay = 0 ∧ (getDom e i).restoreDigest = 0 ∧
      (∀ m k, partOfStack s.dev m = h.part → (vget (vget e.hbmStat m).pchs k).owed = 0) ∧ e.cores = s.dev.cores) ∧
  (∀ (s : State) (i : DomId) (g : Program) (r : Run) (c : CoreSect), startDue s.dev i = true → (getDom s.dev i).prog = some g →
    (getDom s.dev i).run = some r → restoreImage s.dev (getDom s.dev i) = none → g.cores = [c] →
    (∀ m, (getDom s.dev { part := i.part, dom := m }).assembling = []) →
    Answers (.runStart i) s fun e =>
      (∃ q, (getDom e i).run = some q ∧ q.started = true ∧ q.tStart = s.dev.clock.time16 / 16 ∧ q.paceStart = s.dev.clock.time16 / 16 ∧
        q.tick = r.tick ∧ q.sched = r.sched ∧ q.ledger = r.ledger) ∧
      (∀ x : Bool, let q := getSeq e (seqOf c.ctx x)
        (∀ n, vget q.sregs n = 0) ∧ (∀ n, vget q.pregs n = 0) ∧ q.loops = [] ∧
        ((if x then c.execute else c.access) = true → q.st = .running ∧ q.pc = (if x then c.xEntry else c.aEntry) ∧
          q.winLo = (if x then c.xLo else c.aLo) ∧ q.winHi = (if x then c.xHi else c.aHi)) ∧
        ((if x then c.execute else c.access) = false → q.st = .idle)) ∧
      (c.split = false → (∀ f, vget (getCore e c.ctx.core).flags f = 0) ∧ (∀ n, vget (getCore e c.ctx.core).vregs n = 0) ∧
        (∀ n, (vget (getCore e c.ctx.core).lqs n).entries = []) ∧ (∀ n, vget (getCore e c.ctx.core).mqs n = MsgQueue.reset) ∧
        (∀ n, vget (getCore e c.ctx.core).rowAcc n = RowAcc.reset)) ∧
      (getUnit e c.ctx).bound = (getUnit s.dev c.ctx).bound ∧ (∀ k, k ≠ c.ctx.core → getCore e k = getCore s.dev k) ∧ e.rings = s.dev.rings) ∧
  (∀ (s : State) (i : DomId) (r : Run), (getDom s.dev i).run = some r → r.started = true → r.stalled = false → r.restored = false →
    r.ramp = 0 → r.tick < 128 → r.rampStep ≤ r.tick / 16 →
    Gives (.activityRampStep i) s (modRun s.dev i fun r => { r with rampStep := r.rampStep + 1 })) ∧
  (∀ (s : State) (i : DomId) (g : Program) (r : Run) (c : Cmd) (im : List Byte), (getDom s.dev i).run = some r → (getDom s.dev i).prog = some g →
    (getDom s.dev i).st = .running → r.started = true → r.ended = true → r.aborted = false → (getDom s.dev i).runHandle = some c.handle →
    s.dev.cmds = [c] → c.job = .run im → c.mute = false → Room s.dev c.hdr.ring → s.dev.sec.dbg ≠ .erasing →
    (∀ k, (getUnit s.dev k).stores = [] ∧ (getUnit s.dev k).fills = [] ∧ (getUnit s.dev k).replays = []) →
    Answers (.runEnd i) s fun e =>
      Ends s.dev e c 0 0 (leBytes 8 (r.sched + ((List.finRange 6).map fun k => (r.ledger.toList.getD k.val 0).toNat).sum) ++ leBytes 8 r.sched) ∧
      (getDom e i).st = .ended ∧ (getDom e i).runHandle = none ∧ e.sec = { s.dev.sec with pserial := s.dev.sec.pserial + 1 } ∧
      (getDom e i).pennant = some { bytes := leBits 3968 (pennantBytes s.dev i (getDom s.dev i) r g (s.dev.sec.pserial + 1).toNat), tainted := r.tainted }) ∧
  (∀ (s : State) (i : DomId) (r : Run) (f : FirstHalt) (c : Cmd) (im : List Byte), (getDom s.dev i).run = some r →
    (getDom s.dev i).st = .halted → r.started = true → r.ended = true → r.aborted = false → (getDom s.dev i).runHandle = some c.handle →
    r.first = some f → s.dev.cmds = [c] → c.job = .run im → c.mute = false → Room s.dev c.hdr.ring → s.dev.sec.dbg ≠ .erasing →
    Answers (.runEnd i) s fun e =>
      Ends s.dev e c 7 f.code (leBytes 2 (f.ctx.core.val + 512 * f.ctx.ctx.val) ++ [BitVec.ofNat 8 f.seq.val, 0] ++ leBytes 4 f.tick ++
        leBytes 8 (r.sched + ((List.finRange 6).map fun k => (r.ledger.toList.getD k.val 0).toNat).sum)) ∧
      (getDom e i).st = .halted ∧ (getDom e i).runHandle = none ∧ (getDom e i).pennant = (getDom s.dev i).pennant ∧ e.sec = s.dev.sec)

/-- HALT waits for its effect, which halts every core of the domain with 0x15 (R387, R394), and completes at the end of that
period; it is in conflict where the domain does not run, or a core has halted or halts for a reason of its own (log entry 19).
SNAPSHOT of a run that is over, and the copy of its image (R395). -/
def Obligations.HaltAndSnapshot : Prop :=
  (∀ (s : State) (h : CmdHdr) (r : Run), Takes s.dev h.ring h.fence → Holds s.dev h →
    (getDom s.dev { part := h.part, dom := h.dom }).st = .running → (getDom s.dev { part := h.part, dom := h.dom }).run = some r → r.hostHalt = none →
    r.first = none → r.ended = false →
    Answers (.halt h) s fun e => Taken s.dev e h.ring ∧ e.host = s.dev.host ∧ e.msix = s.dev.msix ∧
      e.cmds = s.dev.cmds ++ [{ begun s.dev h 0x07 .halt with active := true }] ∧
      e = under (modRun s.dev { part := h.part, dom := h.dom } fun r => { r with hostHalt := some (nextHandle s.dev h.ring) }) e) ∧
  (∀ (s : State) (h : CmdHdr), Takes s.dev h.ring h.fence → Holds s.dev h → domState s.dev { part := h.part, dom := h.dom } ≠ .running →
    Finishes (.halt h) s h 0x07 1 [] s.dev) ∧
  (∀ (s : State) (i : DomId) (r : Run) (hd : W32), (getDom s.dev i).st = .running → (getDom s.dev i).run = some r →
    r.hostHalt = some hd → r.started = true → r.ended = false → r.first = none → tickBegun s.dev i = false → domCtxs s.dev i ≠ [] →
    r.stalled = true ∨ (∀ k ∈ domCtxs s.dev i, takeHalts s.dev k = none) →
    (∀ k ∈ domCtxs s.dev i, domOf s.dev k = some i ∧ isHalted s.dev k = false) →
    Answers (.haltTakesEffect i) s fun e => (getDom e i).st = .halted ∧ e.cmds = s.dev.cmds ∧ e.rings = s.dev.rings ∧
      (∀ k ∈ domCtxs s.dev i, (getUnit e k).halt.halted = true ∧ (getUnit e k).halt.code = 0x15 ∧ (getUnit e k).halt.tick = BitVec.ofNat 32 r.tick) ∧
      (∃ q, (getDom e i).run = some q ∧ q.hostHalt = none ∧ q.halting = true ∧ q.stalled = false ∧ q.closed = (r.closed || r.stalled)) ∧
      e.err = s.dev.err) ∧
  (∀ (s : State) (i : DomId) (r : Run) (c : Cmd) (hd : W32), (getDom s.dev i).st = .running → (getDom s.dev i).run = some r →
    r.hostHalt = some hd → r.started = true → r.ended = false → tickBegun s.dev i = false →
    r.first.isSome = true ∨ (r.stalled = false ∧ r.ramp = 0 ∧ ∃ k ∈ domCtxs s.dev i, (takeHalts s.dev k).isSome = true) →
    s.dev.cmds = [c] → c.job = .halt → c.mute = false → c.hdr.part = i.part → c.hdr.dom = i.dom → Room s.dev c.hdr.ring →
    Answers (.haltTakesEffect i) s fun e => Ends s.dev e c 1 0 [] ∧ e = under (modRun s.dev i fun r => { r with hostHalt := none }) e) ∧
  (∀ (d : Device) (i : DomId) (r : Run) (c : Cmd), (getDom d i).run = some r → r.halting = true → d.cmds = [c] → c.job = .halt → c.mute = false →
    c.hdr.part = i.part → c.hdr.dom = i.dom → Room d c.hdr.ring → Ends d (haltAnswer d i) c 0 0 []) ∧
  (∀ (s : State) (h : CmdHdr) (a : W64) (n : W32), Takes s.dev h.ring h.fence → Holds s.dev h → a.toNat % 64 = 0 → n ≠ 0 → n.toNat % 64 = 0 →
    (getDom s.dev { part := h.part, dom := h.dom }).st = .ended ∨ (getDom s.dev { part := h.part, dom := h.dom }).st = .halted →
    (getDom s.dev { part := h.part, dom := h.dom }).runHandle = none → (getPart s.dev h.part).clearing = false →
    (∀ k, (getPond s.dev k).st = .running) → imageLength s.dev { part := h.part, dom := h.dom } ≤ n.toNat →
    (∀ c ∈ s.dev.cmds, c.handle ≠ nextHandle s.dev h.ring) →
    Begins (.snapshot h a n 0xFF) s h 0x08 (fun _ c => ∃ x t, x = under (needed s.dev h.part) x ∧
        (∀ r, (getDom s.dev { part := h.part, dom := h.dom }).run = some r → t = r.lastTick) ∧
        c = { begun s.dev h 0x08 (.snapshot a n 0xFF) with active := true, data := some (captureImage x { part := h.part, dom := h.dom } t, t) })
      (needed s.dev h.part)) ∧
  (∀ (s : State) (h : CmdHdr) (a : W64) (n : W32) (k : Fin 64), Takes s.dev h.ring h.fence → Holds s.dev h → a.toNat % 64 = 0 → n ≠ 0 → n.toNat % 64 = 0 →
    domState s.dev { part := h.part, dom := h.dom } = .running → (getBar s.dev k).claim = some { part := h.part, dom := h.dom } →
    (getPart s.dev h.part).clearing = false → (∀ k, (getPond s.dev k).st = .running) →
    imageLength s.dev { part := h.part, dom := h.dom } ≤ n.toNat → (∀ c ∈ s.dev.cmds, c.handle ≠ nextHandle s.dev h.ring) →
    Begins (.snapshot h a n (BitVec.ofNat 8 k.val)) s h 0x08
      (fun _ c => c = { begun s.dev h 0x08 (.snapshot a n (BitVec.ofNat 8 k.val)) with round := releasedRounds (getBar s.dev k) })
      (needed s.dev h.part)) ∧
  (∀ (s : State) (i : DomId) (c : Cmd) (a : W64) (n : W32) (b : Byte) (im : List Byte) (t : Nat), s.dev.cmds = [c] → c.hdr.part = i.part → c.hdr.dom = i.dom →
    c.job = .snapshot a n b → c.data = some (im, t) → c.mute = false → Room s.dev c.hdr.ring →
    Answers (.snapshotCopyDone i true) s fun e =>
      Ends (writeBytes s.dev .host a.toNat im) e c 0 0 (leBytes 8 t ++ leBytes 4 im.length) ∧ (b = 0xFF → e = under s.dev e) ∧
      (b ≠ 0xFF → ∀ r, (getDom s.dev i).run = some r → ∃ q, (getDom e i).run = some q ∧
        ∀ x ∈ q.items, x.ref = .copy → x.ready.isSome = true))

/-- ISSUE_PENNANT and the signature (R397, R458, R461), QUERY (R398), INJECT_ERROR (R475), RESET_LEVEL at each level
(R400, R437, R438). -/
def Obligations.PennantsQueriesInjectionsResets : Prop :=
  (∀ (s : State) (h : CmdHdr) (a : W64) (n : W32) (p : PennantData), Takes s.dev h.ring h.fence → Holds s.dev h → a.toNat % 64 = 0 →
    n.toNat % 64 = 0 → 592 ≤ n.toNat → s.dev.sec.idValid = true → (getDom s.dev { part := h.part, dom := h.dom }).st = .ended →
    (getDom s.dev { part := h.part, dom := h.dom }).pennant = some p → p.tainted = false →
    Begins (.issuePennant h a n) s h 0x0A (fun _ c => c = begun s.dev h 0x0A (.pennant a p.bytes))
      { s.dev with sec := { s.dev.sec with queue := s.dev.sec.queue ++ [.pennant (nextHandle s.dev h.ring)] } }) ∧
  (∀ (s : State) (c : Cmd) (a : W64) (body : BitVec 3968), s.dev.sec.queue = [.pennant c.handle] → s.dev.cmds = [c] → c.job = .pennant a body →
    c.mute = false → Room s.dev c.hdr.ring →
    Answers (.pennantSigned true) s fun e =>
      Ends (writeBytes s.dev .host a.toNat (leBytes 496 body.toNat ++
        leBytes 96 (ecdsaSign s.dev.sec.seed s.dev.sec.serial (sha384 (leBytes 496 body.toNat))).toNat)) e c 0 0 (leBytes 4 592) ∧
      e = under { s.dev with sec := { s.dev.sec with queue := [] } } e) ∧
  (∀ (s : State) (h : CmdHdr) (k : Byte) (a : W64) (n : W32), Takes s.dev h.ring h.fence → k.toNat ≤ 2 → a.toNat % 64 = 0 → n ≠ 0 → n.toNat % 64 = 0 →
    (k = 0 → h.part = 0 ∧ h.dom = 0) → (k ≠ 0 → h.part.val < s.dev.config ∧ MayName s.dev h.ring h.part) →
    (queryRecord s.dev h k).length ≤ n.toNat → s.dev.err.events = [] →
    Answers (.query h k a n) s fun e => if Config.hostWorks s.dev.freeCtr = false then
      Wrote s.dev e h.ring (entry s.dev h.ring (nextHandle s.dev h.ring) 12 true 0 h.tag 0x0B []) ∧ Taken s.dev e h.ring ∧
      e.cores = s.dev.cores ∧ ∃ x ∈ e.err.events, x.det = 0x150
    else
      Wrote (writeBytes s.dev .host a.toNat (queryRecord s.dev h k)) e h.ring
        (entry s.dev h.ring (nextHandle s.dev h.ring) 0 true 0 h.tag 0x0B (leBytes 4 (queryRecord s.dev h k).length)) ∧
      Taken s.dev e h.ring ∧ e = under { s.dev with freeCtr := s.dev.freeCtr + 1 } e) ∧
  (∀ (s : State) (h : CmdHdr), queryRecord s.dev h 1 =
    [BitVec.ofNat 8 s.dev.config, if (getPart s.dev h.part).openMode then 2 else 1,
      (match (getPart s.dev h.part).attached with | some r => BitVec.ofNat 8 r.val | none => 0xFF),
      (if (getPart s.dev h.part).clearing then 1 else 0) + (if s.dev.sec.debugOpened then 2 else 0) + (if weightLoading s.dev h.part then 4 else 0)] ++
    (List.finRange 16).map (fun k => BitVec.ofNat 8 (domCode (domState s.dev { part := h.part, dom := k }))) ++ [0, 0, 0, 0]) ∧
  (∀ (s : State) (h : CmdHdr) (det unit : BitVec 16) (n : W32), Takes s.dev h.ring h.fence → (vget s.dev.rings h.ring).owner = 0 → h.part = 0 → h.dom = 0 →
    detectorValid det unit = true → n ≠ 0 →
    Finishes (.injectError h det unit n) s h 0x0C 0 [] { s.dev with err := { s.dev.err with
      armed := (s.dev.err.armed.filter fun a => !(a.det = det && a.unit = unit)) ++ [{ det := det, unit := unit, count := n }] } }) ∧
  (∀ (s : State) (h : CmdHdr), Takes s.dev h.ring h.fence → (vget s.dev.rings h.ring).owner = 0 → h.part = 0 → h.dom = 0 → 4 ≤ s.dev.rb.step → NoneRaised s.dev →
    s.dev.sec.resetMap.extractLsb' 24 4 ≠ 0 →
    Answers (.resetLevel h 1 0) s fun e => AfterL1 { s.dev with host := e.host } e ∧ e.rb.source = s.dev.rb.source ||| 0x040) ∧
  (∀ (s : State) (h : CmdHdr), Takes s.dev h.ring h.fence → h.part.val < s.dev.config → MayName s.dev h.ring h.part →
    4 ≤ s.dev.rb.step → NoneRaised s.dev → 2 ≤ (s.dev.sec.resetMap.extractLsb' 24 4).toNat → (∀ k, (getPond s.dev k).st = .running) → (getPart s.dev h.part).resetting = false →
    s.dev.cmds = [] →
    Answers (.resetLevel h 2 0) s fun e =>
      Wrote s.dev e h.ring (entry s.dev h.ring (nextHandle s.dev h.ring) 0 false 0 h.tag 0x0D []) ∧ Taken s.dev e h.ring ∧
      e.cmds = [begun s.dev h 0x0D (.reset 2 0)] ∧ (getPart e h.part).resetting = true ∧ nextHandle s.dev h.ring ∈ (getPart e h.part).resetCmds ∧
      (∀ m, (getDom e { part := h.part, dom := m }).st = .empty) ∧ e.rb.source = s.dev.rb.source ||| 0x040 ∧ e.rb.lastLevel = 2) ∧
  (∀ (s : State) (h : CmdHdr) (k : CoreId), Takes s.dev h.ring h.fence → (vget s.dev.rings h.ring).owner = 0 → h.part = 0 → h.dom = 0 →
    NoneRaised s.dev → 3 ≤ (s.dev.sec.resetMap.extractLsb' 24 4).toNat → (∀ k, (getPond s.dev k).st = .running) →
    (getPart s.dev (partOfCore s.dev k)).resetting = false → (∀ x ∈ s.dev.rb.units, x.1.toNat ≠ k.val) → s.dev.cmds = [] →
    Answers (.resetLevel h 3 (BitVec.ofNat 16 k.val)) s fun e =>
      Wrote s.dev e h.ring (entry s.dev h.ring (nextHandle s.dev h.ring) 0 false 0 h.tag 0x0D []) ∧ Taken s.dev e h.ring ∧
      e.cmds = [begun s.dev h 0x0D (.reset 3 (BitVec.ofNat 16 k.val))] ∧ (getCore e k).inReset = true ∧
      (BitVec.ofNat 16 k.val, some (nextHandle s.dev h.ring)) ∈ e.rb.units ∧
      ((∀ q, (getPart s.dev q).resetting = false) →
        e.rb.units = s.dev.rb.units ++ [(BitVec.ofNat 16 k.val, some (nextHandle s.dev h.ring))]) ∧
      e.rb.source = s.dev.rb.source ||| 0x040 ∧ e.rb.lastLevel = 3)

/-- A descriptor in host memory is the command of its opcode, and moves the turn on (R377–R379): one that holds SET_MODE has
its effect and completes with OK (R380, R399); a fetch that fails
completes with BAD_DESCRIPTOR and an event (R402). What the entry of a failed fetch echoes is open (the model's choice,
log entry 3). -/
def Obligations.DescriptorsAreFetched : Prop :=
  (∀ (s : State) (i : Fin 64) (b : List Byte) (flag target : Byte) (tag : W32), s.dev.ringTurn = i → Takes s.dev i true →
    isArmed s.dev 0x150 (BitVec.ofNat 16 (vget s.dev.rings i).owner.toNat) = false → flag.toNat < 2 → target.toNat / 4 % 4 = 0 →
    b = readBytes s.dev .host ((vget s.dev.rings i).cmdBase.toNat * 4096 + (vget s.dev.rings i).cmdHead.toNat * 64) 64 →
    let h : CmdHdr := { ring := i, fence := decide (flag = 1), part := finMod 4 target.toNat, dom := finMod 16 (target.toNat / 16), tag := tag }
    let t : State := { s with dev := { s.dev with ringTurn := finMod 64 (i.val + 1) } }
    let head := fun (op : Byte) => [op, flag, target, 0] ++ leBytes 4 tag.toNat
    (∀ x, b = head 0x01 ++ [x] ++ List.replicate 55 0 → exec (.descriptorFetch true) s = exec (.attach h x) t) ∧
    (∀ x, b = head 0x03 ++ [x] ++ List.replicate 55 0 → exec (.descriptorFetch true) s = exec (.setMode h x) t) ∧
    (∀ (a : W64) (n : W32), b = head 0x04 ++ leBytes 8 a.toNat ++ leBytes 4 n.toNat ++ List.replicate 44 0 →
      exec (.descriptorFetch true) s = exec (.loadProgram h a n) t) ∧
    (∀ x : W64, b = head 0x06 ++ leBytes 8 x.toNat ++ List.replicate 48 0 →
      exec (.descriptorFetch true) s = exec (.run h { session := x, restore := false, image := 0, ilen := 0 }) t) ∧
    (b = head 0x07 ++ List.replicate 56 0 → exec (.descriptorFetch true) s = exec (.halt h) t) ∧
    (∀ (k : Byte) (a : W64) (n : W32), b = head 0x0B ++ [k, 0, 0, 0, 0, 0, 0, 0] ++ leBytes 8 a.toNat ++ leBytes 4 n.toNat ++ List.replicate 36 0 →
      exec (.descriptorFetch true) s = exec (.query h k a n) t)) ∧
  (∀ (s : State) (i : Fin 64) (flag target m : Byte) (tag : W32), s.dev.ringTurn = i → Takes s.dev i true →
    isArmed s.dev 0x150 (BitVec.ofNat 16 (vget s.dev.rings i).owner.toNat) = false → flag.toNat < 2 → target.toNat / 4 % 4 = 0 →
    readBytes s.dev .host ((vget s.dev.rings i).cmdBase.toNat * 4096 + (vget s.dev.rings i).cmdHead.toNat * 64) 64 =
      [0x03, flag, target, 0] ++ leBytes 4 tag.toNat ++ [m] ++ List.replicate 55 0 →
    let h : CmdHdr := { ring := i, fence := decide (flag = 1), part := finMod 4 target.toNat, dom := finMod 16 (target.toNat / 16), tag := tag }
    Holds s.dev h → m = 1 ∨ m = 2 → (∀ k, (getDom s.dev { part := h.part, dom := k }).st ≠ .running) →
    Finishes (.descriptorFetch true) s h 0x03 0 []
      { modPart s.dev h.part (fun p => { p with openMode := decide (m = 2) }) with ringTurn := finMod 64 (i.val + 1) }) ∧
  (∀ (s : State) (i : Fin 64), s.dev.ringTurn = i → Takes s.dev i true → s.dev.err.events = [] →
    Answers (.descriptorFetch false) s fun e => e.ringTurn = finMod 64 (i.val + 1) ∧ Taken s.dev e i ∧ e.cores = s.dev.cores ∧
      (∃ tag op, Wrote s.dev e i (entry s.dev i (nextHandle s.dev i) 2 true 0 tag op [])) ∧ ∃ x ∈ e.err.events, x.det = 0x150)

/-- CMD_TAIL, CPL_HEAD, coalescing, RING_CFG and the masks of MSI-X (R375, R376, R383, R384, R388, R485, R486). -/
def Obligations.DoorbellsRingsAndMessages : Prop :=
  (∀ (s : State) (i : Fin 64) (v : W32), s.dev.rb.boot = .ready → v.toNat < 2 ^ (vget s.dev.rings i).cmdLog2.toNat →
    isArmed s.dev 0x151 (BitVec.ofNat 16 i.val) = false →
    Gives (.cmdTail 0 i v) s (modRing s.dev i fun r => { r with cmdTail := v.setWidth 16 })) ∧
  (∀ (s : State) (i : Fin 64) (v : W32), s.dev.rb.boot = .ready → 2 ^ (vget s.dev.rings i).cmdLog2.toNat ≤ v.toNat → s.dev.err.events = [] →
    Answers (.cmdTail 0 i v) s fun e => (vget e.rings i) = { vget s.dev.rings i with dbErr := true, stopped := true } ∧
      (∃ x ∈ e.err.events, x.det = 0x151 ∧ x.unit.toNat = i.val) ∧ e.cores = s.dev.cores) ∧
  (∀ (s : State) (i : Fin 64) (v : W32), s.dev.rb.boot ≠ .ready → Gives (.cmdTail 0 i v) s s.dev ∧ Gives (.cplHead 0 i v) s s.dev) ∧
  (∀ (s : State) (i : Fin 64) (v : W32), s.dev.rb.boot = .ready → v.toNat < 2 ^ (vget s.dev.rings i).cplLog2.toNat →
    isArmed s.dev 0x151 (BitVec.ofNat 16 i.val) = false → (vget s.dev.rings i).held = [] → (vget s.dev.rings i).unsent = false →
    Gives (.cplHead 0 i v) s (modRing s.dev i fun r => { r with cplHead := v.setWidth 16 })) ∧
  (∀ (s : State) (i : Fin 64) (v : W32) (x : BitVec 256), s.dev.rb.boot = .ready → v.toNat < 2 ^ (vget s.dev.rings i).cplLog2.toNat →
    v.toNat < 65536 → isArmed s.dev 0x151 (BitVec.ofNat 16 i.val) = false → (vget s.dev.rings i).held = [x] →
    ((vget s.dev.msix (finMod 9 (vget s.dev.rings i).owner.toNat)).fmask = true ∨
      (vget s.dev.msix (finMod 9 (vget s.dev.rings i).owner.toNat)).enabled = false) →
    ((vget s.dev.rings i).cplTail.toNat + 1) % 2 ^ (vget s.dev.rings i).cplLog2.toNat ≠ v.toNat →
    Answers (.cplHead 0 i v) s fun e => (vget e.rings i).held = [] ∧ (vget e.rings i).cplHead = v.setWidth 16 ∧
      Wrote s.dev e i (leBytes 32 (if (vget s.dev.rings i).phase then x ||| (2 <<< 48) else x).toNat)) ∧
  (∀ (s : State) (i : Fin 64) (f : FnId) (n : Fin 64), (vget s.dev.rings i).unsent = true → (vget s.dev.rings i).coalDue ≤ s.dev.clock.elapsed / 16 →
    (vget s.dev.rings i).owner.toNat = f.val → (vget s.dev.rings i).vec.toNat = n.val → (vget s.dev.msix f).enabled = true → (vget s.dev.msix f).fmask = false →
    (vget s.dev.msix f).mask.getLsbD n.val = false →
    Answers (.msixCoalesceExpiry i) s fun e =>
      readBytes e .host (vget (vget s.dev.msix f).addr n).toNat 4 = leBytes 4 (vget (vget s.dev.msix f).data n).toNat ∧
      vget e.rings i = { vget s.dev.rings i with unsent := false, coalDue := s.dev.clock.elapsed / 16 + (vget s.dev.rings i).coal.toNat * 1000 } ∧
      e = { s.dev with host := e.host, rings := e.rings }) ∧
  (∀ (s : State) (i : Fin 64), (vget s.dev.rings i).unsent = false → Gives (.msixCoalesceExpiry i) s s.dev) ∧
  (∀ (s : State) (i : Fin 64) (v : W64), s.dev.rb.boot = .ready → (vget s.dev.rings i).enabled = false → v.getLsbD 0 = true →
    v.extractLsb' 32 4 = 0 → 4 ≤ (v.extractLsb' 16 5).toNat → (v.extractLsb' 16 5).toNat ≤ 16 → 4 ≤ (v.extractLsb' 24 5).toNat →
    (v.extractLsb' 24 5).toNat ≤ 16 → (vget s.dev.rings i).cmdBase ≠ 0 → (vget s.dev.rings i).cplBase ≠ 0 →
    Gives (.ringEnable i v) s (modRing s.dev i fun r => { r with
      enabled := true, stopped := false, dbErr := false, phase := true, cmdHead := 0, cmdTail := 0, cplTail := 0, cplHead := 0, seq := 0,
      coal := v.extractLsb' 48 16, vec := v.extractLsb' 36 6, owner := 0, cplLog2 := v.extractLsb' 24 5, cmdLog2 := v.extractLsb' 16 5 })) ∧
  (∀ (s : State) (i : Fin 64) (v : W64), s.dev.rb.boot = .ready → (vget s.dev.rings i).enabled = false → v.getLsbD 0 = true →
    (vget s.dev.rings i).cmdBase = 0 → Gives (.ringEnable i v) s (noteSet (modRing s.dev i fun r => { r with cfgErr := true }) (.cfgErr i))) ∧
  (∀ (s : State) (i : Fin 64) (v : W64), s.dev.rb.boot = .ready → (vget s.dev.rings i).enabled = true → v.getLsbD 0 = false →
    Answers (.ringEnable i v) s fun e => vget e.rings i = { vget s.dev.rings i with enabled := false } ∧
      ∀ p, (getPart e p).attached ≠ some i ∧ ((getPart s.dev p).attached ≠ some i → getPart e p = getPart s.dev p)) ∧
  (∀ (s : State) (n : Fin 64), s.dev.rb.boot = .ready → (vget s.dev.msix 0).enabled = true → (vget s.dev.msix 0).fmask = false → (vget s.dev.msix 0).pba.getLsbD n.val = true →
    Answers (.msixUnmask 0 (some n)) s fun e =>
      readBytes e .host (vget (vget s.dev.msix 0).addr n).toNat 4 = leBytes 4 (vget (vget s.dev.msix 0).data n).toNat ∧
      (∀ k, k < 64 → (vget e.msix 0).pba.getLsbD k = (decide (k ≠ n.val) && (vget s.dev.msix 0).pba.getLsbD k) ∧
        (vget e.msix 0).mask.getLsbD k = (decide (k ≠ n.val) && (vget s.dev.msix 0).mask.getLsbD k)) ∧
      e = { s.dev with host := e.host, msix := e.msix }) ∧
  (∀ s : State, s.dev.rb.boot = .ready → (vget s.dev.msix 0).pba = 0 →
    Gives (.msixUnmask 0 none) s { s.dev with msix := vset s.dev.msix 0 { vget s.dev.msix 0 with enabled := true, fmask := false } })

/-- Writes of 8 bytes, and of 4 bytes, which leave the other half (R374); a written 1 clears a W1C bit unless hardware has set
it on this tick (R8, R9); the boot state serves RESET and not POWER (R447);
retained memory (R445); BANK_OFF, which clears the banks that it powers down (R226). -/
def Obligations.RegisterWritesActByTheirFields : Prop :=
  (∀ (s : State) (n : Fin 16) (o : W32) (v : W64), o.toNat = 0x20100 + 8 * n.val → s.dev.sec.dbg ≠ .erasing →
    Gives (.registerWrite 0 o 8 v) s { s.dev with rb := { s.dev.rb with bkup := vset s.dev.rb.bkup n v } } ∧
    Gives (.registerWrite 0 o 4 v) s { s.dev with rb := { s.dev.rb with
      bkup := vset s.dev.rb.bkup n ((vget s.dev.rb.bkup n).extractLsb' 32 32 ++ v.extractLsb' 0 32) } } ∧
    Gives (.registerWrite 0 (o + 4) 4 v) s { s.dev with rb := { s.dev.rb with
      bkup := vset s.dev.rb.bkup n (v.extractLsb' 0 32 ++ (vget s.dev.rb.bkup n).extractLsb' 0 32) } }) ∧
  (∀ (s : State) (v : W64), Answers (.registerWrite 0 0x20000 8 v) s fun e =>
    (∀ n : Fin 9, e.rb.source.getLsbD n.val = (s.dev.rb.source.getLsbD n.val && (!v.getLsbD n.val || s.dev.justSet.contains (.source n)))) ∧
    e.rb.mainPower = (s.dev.rb.mainPower && (!v.getLsbD 9 || s.dev.justSet.contains .mainPower)) ∧
    e = { s.dev with rb := { s.dev.rb with source := e.rb.source, mainPower := e.rb.mainPower } }) ∧
  (∀ (s : State) (v : W64), s.dev.rb.boot ≠ .ready → Gives (.registerWrite 0 0x30000 8 v) s s.dev) ∧
  (∀ (s : State) (a : Nat) (o : W32) (v : W64), memoriesWf s.dev = true → s.dev.sec.dbg ≠ .erasing → a < 0x4000 → a % 8 = 0 → o.toNat = 0x24000 + a →
    Answers (.registerWrite 0 o 8 v) s fun e => (∀ j, j < 8 → readByte e .retained (a + j) = v.extractLsb' (8 * j) 8) ∧
      (∀ b, b < a ∨ a + 8 ≤ b → readByte e .retained b = readByte s.dev .retained b) ∧ a ∉ e.rb.retBad ∧ a + 4 ∉ e.rb.retBad ∧
      e = { s.dev with retained := e.retained, rb := { s.dev.rb with retBad := e.rb.retBad } }) ∧
  (∀ (s : State) (k : CoreId) (v : W64), s.dev.rb.boot = .ready → (∀ x, runOf s.dev { core := k, ctx := x } = none) →
    (getCore s.dev k).pdWait = [] → (getCore s.dev k).runOff = 0 → (∀ b n, bankWrites s.dev k b n = 0) →
    Answers (.bankOffWrite k v) s fun e => (getCore e k).bankOff = v.setWidth 32 ∧
      (∀ b : Fin 32, (getCore e k).bankOn.getLsbD b.val = !v.getLsbD b.val ∧
        ((getCore s.dev k).bankOn.getLsbD b.val = true → ∀ off, off < 131072 →
          readByte e .scratch (scratchKey k (b.val * 131072 + off)) =
            if v.getLsbD b.val then 0 else readByte s.dev .scratch (scratchKey k (b.val * 131072 + off)))) ∧
      (∀ j, j ≠ k → getCore e j = getCore s.dev j) ∧ (getCore e k).seqs = (getCore s.dev k).seqs)

/-! ### Operations of the streams -/

namespace Sys2Proof.Claims

/-- It is a sequencer's turn, nothing halts its core or context, and its bundle b issues. -/
def Issues (s : State) (w : SeqId) (b : RawBundle) : Prop :=
  myTurn s.dev (ctxOf s.dev w) w = true ∧ takeHalts s.dev (ctxOf s.dev w) = none ∧ verdict s.dev (ctxOf s.dev w) w = .issue ∧
    fetchBundle s.dev (ctxOf s.dev w) (getSeq s.dev w) = b

/-- The present tick of a sequencer. -/
def tickAt (s : State) (w : SeqId) : Nat := tickOf s.dev (ctxOf s.dev w)

/-- The stream after a bundle that neither branches nor opens a loop (R57, R58, R70). -/
def moved (s : State) (w : SeqId) (b : RawBundle) (q : Sequencer) : Sequencer :=
  let n := loopEndEval q.pc.toNat q.loops
  { q with st := if syncOp b = 1 then .ended else .running, pc := BitVec.ofNat 13 n.1, lastPc := q.pc.setWidth 12, loops := n.2, cause := .none,
           waitLocal := false, wdCount := 0, resumeAt := tickAt s w + 1, nextTick := tickAt s w + 1, shown := false, barSent := false }

/-- The command runs, and the device is d but for the stream, which moves on. -/
def Acts (i : Instr) (s : State) (w : SeqId) (b : RawBundle) (d : Device) : Prop := Gives i s (modSeq d w (moved s w b))

/-- Sequencers but w are as they were, and w only moved on. -/
def OnlyMoves (s : State) (w : SeqId) (b : RawBundle) (e : Device) : Prop :=
  ∀ x, getSeq e x = if x = w then moved s w b (getSeq s.dev w) else getSeq s.dev x

/-- The scalar slot is the bundle's only one that may act. -/
def Alone (b : RawBundle) : Prop := loadOp b = 0 ∧ storeOp b = 0 ∧ vectorOp b = 0 ∧ matrixOp b = 0 ∧ syncOp b ≤ 1

/-- Sequencers but w are as they were; a bundle of the scalar slot alone changes nothing outside w. -/
def Leaves (s : State) (w : SeqId) (b : RawBundle) (e : Device) : Prop :=
  (∀ x, x ≠ w → getSeq e x = getSeq s.dev x) ∧ (Alone b → ∃ q, e = modSeq s.dev w fun _ => q)

/-- Scalar register rd takes v when on, but for s0; every other register of the stream keeps its value. -/
def Sets (s : State) (w : SeqId) (on : Bool) (rd : Nat) (v : W64) (e : Device) : Prop :=
  (∀ r : Fin 32, vget (getSeq e w).sregs r = if on = true ∧ r.val = rd ∧ rd ≠ 0 then v else vget (getSeq s.dev w).sregs r) ∧
    (getSeq e w).pregs = (getSeq s.dev w).pregs
def SetsS (i : Instr) (s : State) (w : SeqId) (b : RawBundle) (on : Bool) (v : W64) : Prop :=
  Answers i s fun e => Sets s w on (scRd b) v e ∧ Leaves s w b e

/-- The same of a predicate register, but for p0. -/
def SetsP (i : Instr) (s : State) (w : SeqId) (b : RawBundle) (on : Bool) (v : W64) : Prop :=
  Answers i s fun e => (∀ r : Fin 8, vget (getSeq e w).pregs r = if on = true ∧ r.val = scRd b % 8 ∧ r ≠ 0 then v else vget (getSeq s.dev w).pregs r) ∧
    (getSeq e w).sregs = (getSeq s.dev w).sregs ∧ Leaves s w b e

/-- All ones or all zeros. -/
def ones (p : Prop) [Decidable p] : W64 := if p then BitVec.allOnes 64 else 0

/-- The unsigned value of n bits as a signed one. -/
def signed (n x : Nat) : Int := (BitVec.ofNat n x).toInt

/-- Rows of the scalar slot and their opcodes (R119–R124). -/
def scalarRows : List ((SeqId → Instr) × Nat) :=
  [(Instr.add, 0x01), (Instr.sub, 0x02), (Instr.mul, 0x03), (Instr.and, 0x04), (Instr.or, 0x05), (Instr.xor, 0x06), (Instr.shl, 0x07),
   (Instr.shr, 0x08), (Instr.sra, 0x09), (Instr.min, 0x0A), (Instr.max, 0x0B), (Instr.minu, 0x0C), (Instr.maxu, 0x0D), (Instr.ceq, 0x10),
   (Instr.clt, 0x11), (Instr.cltu, 0x12), (Instr.pand, 0x18), (Instr.por, 0x19), (Instr.pxor, 0x1A), (Instr.pandn, 0x1B),
   (Instr.pmov, 0x1C), (Instr.pget, 0x1D), (Instr.rdtick, 0x20), (Instr.rdtime, 0x21), (Instr.lqpush, 0x30), (Instr.lqpop, 0x31),
   (Instr.lqpeek, 0x32), (Instr.addi, 0x41), (Instr.andi, 0x44), (Instr.ori, 0x45), (Instr.xori, 0x46), (Instr.shli, 0x47),
   (Instr.shri, 0x48), (Instr.srai, 0x49), (Instr.ceqi, 0x50), (Instr.clti, 0x51), (Instr.cltui, 0x52), (Instr.li, 0x80),
   (Instr.lih, 0x81), (Instr.jmp, 0xA0), (Instr.br, 0xA1), (Instr.loop, 0xB0), (Instr.setwin, 0xB8), (Instr.agfetch, 0xC0),
   (Instr.aginst, 0xC1), (Instr.agbase, 0xC2), (Instr.agstep, 0xC3), (Instr.agrd, 0xC4), (Instr.agrst, 0xC5)]

/-- Rows of the load and store slots (R125). -/
def memRows (w : SeqId) : List (Instr × (RawBundle → Bool)) :=
  [(.ld w, fun b => loadOp b = 1), (.ldbc w, fun b => loadOp b = 2), (.st w, fun b => storeOp b = 1), (.staf w, fun b => storeOp b = 2),
    (.stai w, fun b => storeOp b = 3)]

/-- Rows of the sync slot (R104, R133, R136, R137). -/
def syncRows : List ((SeqId → Instr) × Nat) :=
  [(Instr.endOp, 0x01), (Instr.fadd, 0x08), (Instr.fsub, 0x09), (Instr.fwait, 0x0A), (Instr.fwaitr, 0x0B), (Instr.fwsub, 0x0C),
   (Instr.fset, 0x0D), (Instr.bar, 0x10), (Instr.barin, 0x11), (Instr.barout, 0x12), (Instr.send, 0x18), (Instr.sendr, 0x19)]

/-- Rows of the matrix slot (R141, R152, R158). -/
def matrixRows (w : SeqId) : List (Instr × (RawBundle → Bool)) :=
  [(.mmul w, fun b => matrixOp b / 2 = 8), (.mmulC w, fun b => matrixOp b / 2 = 9), (.mmulH w, fun b => matrixOp b / 2 = 10),
    (.mmulCH w, fun b => matrixOp b / 2 = 11), (.mvec w, fun b => matrixOp b / 2 = 12), (.mvecC w, fun b => matrixOp b / 2 = 13),
    (.mvecH w, fun b => matrixOp b / 2 = 14), (.mvecCH w, fun b => matrixOp b / 2 = 15), (.mdrain w, fun b => matrixOp b / 2 = 16),
    (.mstat w, fun b => matrixOp b = 0x28)]

/-- Rows of the vector slot (R190). -/
def vectorRows : List ((SeqId → Instr) × Nat) :=
  [(Instr.vep, 0x40), (Instr.vpload, 0x41), (Instr.vcvt, 0x48), (Instr.vmxq, 0x49), (Instr.vcomp, 0x50), (Instr.vexpd, 0x51),
   (Instr.vred, 0x58), (Instr.rxinit, 0x60), (Instr.rxmax, 0x61), (Instr.rxexp, 0x62), (Instr.rxnorm, 0x63), (Instr.rxsq, 0x64),
   (Instr.rxget, 0x65), (Instr.rxset, 0x66), (Instr.vseed, 0x70), (Instr.vstat, 0x71)]

/-- Every row of an operation, and the bundles that hold it. -/
def opRows (w : SeqId) : List (Instr × (RawBundle → Bool)) :=
  (scalarRows.map fun p => (p.1 w, fun b => decide (scalarOp b = p.2))) ++ memRows w ++ (syncRows.map fun p => (p.1 w, fun b => decide (syncOp b = p.2))) ++
    matrixRows w ++ [(.vectorMicroOp w, fun b => isMicro (vectorOp b))] ++ vectorRows.map fun p => (p.1 w, fun b => decide (vectorOp b = p.2))

end Sys2Proof.Claims

/-- A row of an operation presents the bundle that holds it: it halts its core or context, waits, or issues every slot; a
sequencer whose turn it is not does nothing (R57, R60, R66, R68). -/
def Obligations.OperationsPresentTheirBundles : Prop :=
  ∀ (s : State) (w : SeqId) (b : RawBundle), fetchBundle s.dev (ctxOf s.dev w) (getSeq s.dev w) = b →
    ∀ r ∈ opRows w, r.2 b = true →
      (myTurn s.dev (ctxOf s.dev w) w = false → Gives r.1 s s.dev) ∧
      (∀ d, myTurn s.dev (ctxOf s.dev w) w = true → takeHalts s.dev (ctxOf s.dev w) = some d → Gives r.1 s d) ∧
      (∀ u l, myTurn s.dev (ctxOf s.dev w) w = true → takeHalts s.dev (ctxOf s.dev w) = none →
        verdict s.dev (ctxOf s.dev w) w = .wait (u :: l) false →
        Answers r.1 s fun e => (getSeq e w).st = .waiting ∧ (getSeq e w).cause = u.1 ∧ (getSeq e w).pc = (getSeq s.dev w).pc ∧
          (getSeq e w).nextTick = tickAt s w + 1 ∧ (∃ q, e = modSeq s.dev w fun _ => q) ∧
          (getSeq e w).sregs = (getSeq s.dev w).sregs ∧ (getSeq e w).pregs = (getSeq s.dev w).pregs) ∧
      (Issues s w b → Answers r.1 s fun e => (∀ x, x ≠ w → getSeq e x = getSeq s.dev x) ∧ (getSeq e w).cause = .none ∧
        (getSeq e w).st = (if syncOp b = 1 then .ended else .running) ∧ (getSeq e w).nextTick = tickAt s w + 1 ∧
        (scalarOp b = 0 → (getSeq e w).sregs = (getSeq s.dev w).sregs ∧ (getSeq e w).pregs = (getSeq s.dev w).pregs))

/-- The operations of two scalar registers: each writes rd when its predicate holds (R93, R119). -/
def Obligations.ArithmeticOfTwoRegisters : Prop :=
  ∀ (s : State) (w : SeqId) (b : RawBundle), Issues s w b →
    let q := getSeq s.dev w
    let on := scalarHolds s.dev (ctxOf s.dev w) q b
    let x := readS q (scRs1 b)
    let y := readS q (scRs2 b)
    (scalarOp b = 0x01 → SetsS (.add w) s w b on (x + y)) ∧
    (scalarOp b = 0x02 → SetsS (.sub w) s w b on (x - y)) ∧
    (scalarOp b = 0x03 → SetsS (.mul w) s w b on (x * y)) ∧
    (scalarOp b = 0x04 → SetsS (.and w) s w b on (x &&& y)) ∧
    (scalarOp b = 0x05 → SetsS (.or w) s w b on (x ||| y)) ∧
    (scalarOp b = 0x06 → SetsS (.xor w) s w b on (x ^^^ y)) ∧
    (scalarOp b = 0x07 → SetsS (.shl w) s w b on (BitVec.ofNat 64 (x.toNat * 2 ^ (y.toNat % 64)))) ∧
    (scalarOp b = 0x08 → SetsS (.shr w) s w b on (BitVec.ofNat 64 (x.toNat / 2 ^ (y.toNat % 64)))) ∧
    (scalarOp b = 0x09 → SetsS (.sra w) s w b on (BitVec.ofInt 64 (x.toInt / 2 ^ (y.toNat % 64)))) ∧
    (scalarOp b = 0x0A → SetsS (.min w) s w b on (BitVec.ofInt 64 (min x.toInt y.toInt))) ∧
    (scalarOp b = 0x0B → SetsS (.max w) s w b on (BitVec.ofInt 64 (max x.toInt y.toInt))) ∧
    (scalarOp b = 0x0C → SetsS (.minu w) s w b on (BitVec.ofNat 64 (min x.toNat y.toNat))) ∧
    (scalarOp b = 0x0D → SetsS (.maxu w) s w b on (BitVec.ofNat 64 (max x.toNat y.toNat)))

/-- Compares, predicate operations and moves between the two register files (R83, R93, R119). -/
def Obligations.ComparesAndPredicates : Prop :=
  ∀ (s : State) (w : SeqId) (b : RawBundle), Issues s w b →
    let q := getSeq s.dev w
    let sp := isSplit s.dev w.core
    let on := scalarHolds s.dev (ctxOf s.dev w) q b
    let x := readS q (scRs1 b)
    let y := readS q (scRs2 b)
    let i := scImm30 b
    let pa := readP sp q (scRs1 b)
    let pb := readP sp q (scRs2 b)
    (scalarOp b = 0x10 → SetsP (.ceq w) s w b on (ones (x = y))) ∧
    (scalarOp b = 0x11 → SetsP (.clt w) s w b on (ones (x.toInt < y.toInt))) ∧
    (scalarOp b = 0x12 → SetsP (.cltu w) s w b on (ones (x.toNat < y.toNat))) ∧
    (scalarOp b = 0x50 → SetsP (.ceqi w) s w b true (ones (x = i))) ∧
    (scalarOp b = 0x51 → SetsP (.clti w) s w b true (ones (x.toInt < i.toInt))) ∧
    (scalarOp b = 0x52 → SetsP (.cltui w) s w b true (ones (x.toNat < i.toNat))) ∧
    (scalarOp b = 0x18 → SetsP (.pand w) s w b on (pa &&& pb)) ∧
    (scalarOp b = 0x19 → SetsP (.por w) s w b on (pa ||| pb)) ∧
    (scalarOp b = 0x1A → SetsP (.pxor w) s w b on (pa ^^^ pb)) ∧
    (scalarOp b = 0x1B → SetsP (.pandn w) s w b on (pa &&& ~~~ pb)) ∧
    (scalarOp b = 0x1C → SetsP (.pmov w) s w b on x) ∧
    (scalarOp b = 0x1D → SetsS (.pget w) s w b on pa)

/-- Operations with an immediate, and the two counters (R30, R31, R119, R122): rdtime reads a replica within 1 ns of the time counter
(R418), and counts as may vary. -/
def Obligations.ImmediatesAndCounters : Prop :=
  ∀ (s : State) (w : SeqId) (b : RawBundle), Issues s w b →
    let q := getSeq s.dev w
    let on := scalarHolds s.dev (ctxOf s.dev w) q b
    let x := readS q (scRs1 b)
    let i := scImm30 b
    (scalarOp b = 0x41 → SetsS (.addi w) s w b true (x + i)) ∧
    (scalarOp b = 0x44 → SetsS (.andi w) s w b true (x &&& i)) ∧
    (scalarOp b = 0x45 → SetsS (.ori w) s w b true (x ||| i)) ∧
    (scalarOp b = 0x46 → SetsS (.xori w) s w b true (x ^^^ i)) ∧
    (scalarOp b = 0x47 → SetsS (.shli w) s w b true (BitVec.ofNat 64 (x.toNat * 2 ^ (i.toNat % 64)))) ∧
    (scalarOp b = 0x48 → SetsS (.shri w) s w b true (BitVec.ofNat 64 (x.toNat / 2 ^ (i.toNat % 64)))) ∧
    (scalarOp b = 0x49 → SetsS (.srai w) s w b true (BitVec.ofInt 64 (x.toInt / 2 ^ (i.toNat % 64)))) ∧
    (scalarOp b = 0x80 → SetsS (.li w) s w b true (scImm35 b)) ∧
    (scalarOp b = 0x81 → SetsS (.lih w) s w b true
      (BitVec.ofNat 64 ((readS q (scRd b)).toNat % 2 ^ 35 + 2 ^ 35 * fieldNat (scalarSlot b) 28 0))) ∧
    (scalarOp b = 0x20 → SetsS (.rdtick w) s w b on (BitVec.ofNat 64 (tickAt s w))) ∧
    (scalarOp b = 0x21 → Answers (.rdtime w) s fun e =>
      (∃ ns, ns ≤ s.dev.clock.time16 / 16 + 1 ∧ s.dev.clock.time16 / 16 ≤ ns + 1 ∧ Sets s w on (scRd b) (BitVec.ofNat 64 ns) e) ∧
      (∀ x, x ≠ w → getSeq e x = getSeq s.dev x) ∧
      (Alone b → e.clock = s.dev.clock ∧ ∀ r, runOf s.dev (ctxOf s.dev w) = some r →
        runOf e (ctxOf s.dev w) = some { r with mayvary := r.mayvary + if on then 1 else 0 }))

/-- lqpush, lqpop and lqpeek: the queue moves whatever the predicate (R64, R121). -/
def Obligations.LinkQueueOperations : Prop :=
  ∀ (s : State) (w : SeqId) (b : RawBundle), Issues s w b → Alone b →
    let c := ctxOf s.dev w
    let q := getSeq s.dev w
    let on := scalarHolds s.dev c q b
    (scalarOp b = 0x30 → Acts (.lqpush w) s w b (modLq s.dev c (finMod 4 (scRd b)) fun x =>
      pushEntry x (tickAt s w) (some (if on then (readS q (scRs1 b)).setWidth 2048 else 0)) false)) ∧
    (∀ (h : LqEntry) l, (lqOf s.dev c (finMod 4 (scRs1 b))).entries = h :: l →
      (scalarOp b = 0x31 → Answers (.lqpop w) s fun e => Sets s w on (scRd b) (h.data.extractLsb' 0 64) e ∧
        (lqOf e c (finMod 4 (scRs1 b))).entries = l ∧ (∀ n : Fin 4, physLq (isSplit s.dev w.core) c.ctx n ≠ physLq (isSplit s.dev w.core) c.ctx (finMod 4 (scRs1 b)) →
          lqOf e c n = lqOf s.dev c n) ∧ (∀ x, x ≠ w → getSeq e x = getSeq s.dev x) ∧ ∀ x, getUnit e x = getUnit s.dev x) ∧
      (scalarOp b = 0x32 → SetsS (.lqpeek w) s w b on (h.data.extractLsb' 0 64))) ∧
    (∀ n : Fin 4, ∀ l, (lqOf s.dev c n).entries = l → l.length < 16 → ∀ v : Entry,
      (pushEntry (lqOf s.dev c n) (tickAt s w) (some v) false).entries =
        l ++ [{ id := (lqOf s.dev c n).nextId, data := v, filledAt := some (tickAt s w), var := false, due := none, ready := none, cause := 6 }])

/-- jmp, br, loop, setwin and end, and the evaluation of the loop stack (R58, R69–R72, R75, R120). -/
def Obligations.StreamsBranchAndLoop : Prop :=
  (∀ (s : State) (w : SeqId) (b : RawBundle), Issues s w b →
    let q := getSeq s.dev w
    let t := tickAt s w
    let Goes := fun (i : Instr) (pc : Nat) (l : List LoopLevel) (at' : Nat) => Answers i s fun e => Leaves s w b e ∧
      getSeq e w = { moved s w b q with pc := BitVec.ofNat 13 pc, loops := l, resumeAt := at' }
    (scalarOp b = 0xA0 → Goes (.jmp w) (brTarget b).toNat q.loops (t + 3)) ∧
    (scalarOp b = 0xA1 → (readP (isSplit s.dev w.core) q (brPred b)).getLsbD 0 ≠ brPneg b → Goes (.br w) (brTarget b).toNat q.loops (t + 3)) ∧
    (scalarOp b = 0xA1 → (readP (isSplit s.dev w.core) q (brPred b)).getLsbD 0 = brPneg b →
      Answers (.br w) s fun e => Leaves s w b e ∧ getSeq e w = moved s w b q) ∧
    (scalarOp b = 0xB0 → loopCount q b = 0 → Goes (.loop w) ((loopEnd b).toNat + 1) q.loops (t + 1)) ∧
    (scalarOp b = 0xB0 → loopCount q b ≠ 0 → Goes (.loop w) (q.pc.toNat + 1)
      ({ start := BitVec.ofNat 12 (q.pc.toNat + 1), endAddr := loopEnd b, remaining := BitVec.ofNat 32 (loopCount q b) } :: q.loops) (t + 1)) ∧
    (scalarOp b = 0xB8 → Answers (.setwin w) s fun e => Leaves s w b e ∧
      getSeq e w = { moved s w b q with winLo := winLo b, winHi := winHi b }) ∧
    (syncOp b = 1 → scalarOp b = 0 → loadOp b = 0 → storeOp b = 0 → vectorOp b = 0 → matrixOp b = 0 → Acts (.endOp w) s w b s.dev)) ∧
  (∀ (s : State) (w : SeqId) (b : RawBundle) (pc : Nat) (l : LoopLevel) (rest : List LoopLevel),
    (moved s w b (getSeq s.dev w)).st = (if syncOp b = 1 then .ended else .running) ∧ loopEndEval pc [] = (pc + 1, []) ∧
    (l.endAddr.toNat ≠ pc → loopEndEval pc (l :: rest) = (pc + 1, l :: rest)) ∧
    (l.endAddr.toNat = pc → 1 < l.remaining.toNat → loopEndEval pc (l :: rest) = (l.start.toNat, { l with remaining := l.remaining - 1 } :: rest)) ∧
    (l.endAddr.toNat = pc → l.remaining.toNat ≤ 1 → loopEndEval pc (l :: rest) = loopEndEval pc rest))

namespace Sys2Proof.Claims

/-- One slot of the bundle holds an operation. -/
def OnlyMem (b : RawBundle) (store : Bool) : Prop :=
  scalarOp b = 0 ∧ vectorOp b = 0 ∧ matrixOp b = 0 ∧ syncOp b = 0 ∧ (if store then loadOp b = 0 else storeOp b = 0)
def OnlySync (b : RawBundle) : Prop := scalarOp b = 0 ∧ loadOp b = 0 ∧ storeOp b = 0 ∧ vectorOp b = 0 ∧ matrixOp b = 0
def OnlyMatrix (b : RawBundle) : Prop := scalarOp b = 0 ∧ loadOp b = 0 ∧ storeOp b = 0 ∧ vectorOp b = 0 ∧ syncOp b = 0
def OnlyVector (b : RawBundle) : Prop := scalarOp b = 0 ∧ loadOp b = 0 ∧ storeOp b = 0 ∧ matrixOp b = 0 ∧ syncOp b = 0

/-- A transfer of the load or store slot: the generator advances with ADV, a repeat unit starts with REP, no sequencer
but the issuing one changes, and P holds (R102). -/
def Transfers (i : Instr) (s : State) (w : SeqId) (b : RawBundle) (store : Bool) (P : Device → Prop) : Prop :=
  let c := ctxOf s.dev w
  let x := slotXfer s.dev c w store b
  let n := msRep (if store then storeSlot b else loadSlot b)
  Answers i s fun e => OnlyMoves s w b e ∧ agOf e c x.ag = (if x.adv then agAdvance (agOf s.dev c x.ag) else agOf s.dev c x.ag) ∧
    (n = 0 → unitOf e c store = unitOf s.dev c store) ∧
    (n ≠ 0 → ∃ u, unitOf e c store = some u ∧ u.remaining = n ∧ u.ag.val = x.ag ∧ u.op = x.op ∧ u.predOff = x.predOff ∧ tickAt s w < u.nextTick) ∧ P e

/-- The request of a non-local transfer (R127, R128). -/
def request (s : State) (w : SeqId) (x : Xfer) (k : ReqKind) (valid : Bool) : Request :=
  { kind := k, seq := x.seq, pc := x.pc, addr := BitVec.ofNat 64 (xAddr s.dev (ctxOf s.dev w) x), bytes := xBytes x, predOff := x.predOff,
    valid := valid, entryTick := tickAt s w, slotsLeft := if x.width = 1 then 4 else 1 }

/-- A load into a queue reserves an entry, which is not filled; one into a register reserves nothing. -/
def Reserves (s : State) (w : SeqId) (x : Xfer) (e : Device) : Prop :=
  if x.toReg = true then lqOf e (ctxOf s.dev w) (xQueue x) = lqOf s.dev (ctxOf s.dev w) (xQueue x)
  else ∃ n, (lqOf e (ctxOf s.dev w) (xQueue x)).entries = (lqOf s.dev (ctxOf s.dev w) (xQueue x)).entries ++ [n] ∧ n.filledAt = none ∧
    n.id = (lqOf s.dev (ctxOf s.dev w) (xQueue x)).nextId

/-- A store from a queue pops it. -/
def Pops (s : State) (w : SeqId) (x : Xfer) (e : Device) : Prop :=
  (lqOf e (ctxOf s.dev w) (xQueue x)).entries =
    if x.toReg then (lqOf s.dev (ctxOf s.dev w) (xQueue x)).entries else (lqOf s.dev (ctxOf s.dev w) (xQueue x)).entries.drop 1

/-- A result of a vector operation's first step: it is applied on the issue tick when due then, and is else among the
results of the operation in progress (R187, R188). -/
def Yields (s : State) (w : SeqId) (b : RawBundle) (e : Device) (r : VResult) : Prop :=
  let c := ctxOf s.dev w
  let sp := isSplit s.dev w.core
  let n := fun k => (vfields b).vd.toNat + k
  (tickAt s w < r.due → ∃ o, vecOf e c = some o ∧ r ∈ o.results) ∧
  (r.due ≤ tickAt s w →
    (∀ k, r.index = some k → (physVreg sp c.ctx (n k), (r.data &&& r.mask) ||| (readV (getCore s.dev w.core) c.ctx (n k) &&& ~~~ r.mask), tickAt s w)
      ∈ (getCore e w.core).vregPend) ∧
    ∀ x, r.ra = some x → vget (getCore e w.core).rowAcc (physRow sp c.ctx (vQ (vfields b))) = x)

end Sys2Proof.Claims

/-- agfetch, aginst, agbase, agstep, agrd and agrst (R106, R123): agstep is n advances. -/
def Obligations.AddressGeneratorOperations : Prop :=
  (∀ (s : State) (w : SeqId) (b : RawBundle), Issues s w b → Alone b →
    let c := ctxOf s.dev w
    let g := agOf s.dev c (agNum b)
    let a := readS (getSeq s.dev w) (agRs1 b)
    (scalarOp b = 0xC0 → Answers (.agfetch w) s fun e => OnlyMoves s w b e ∧ (∀ n, agOf e c n = agOf s.dev c n) ∧
      ∃ f ∈ (getUnit e c).fills, f.dest = .staging (finMod 8 (agNum b)) ∧ f.due = tickAt s w + 5 ∧
        f.data = bytesEntry (readPad s.dev c (a.toNat + ((agLow b).extractLsb' 0 24).toNat) 64)) ∧
    (∀ x t, scalarOp b = 0xC1 → g.staged = some (x, t) → Acts (.aginst w) s w b (modAg s.dev c (agNum b) fun _ => agLoad x)) ∧
    (scalarOp b = 0xC2 → Acts (.agbase w) s w b (modAg s.dev c (agNum b) fun g =>
      { g with base := a + (agLow b).signExtend 64, idx := Vector.replicate 6 0, done := false })) ∧
    (scalarOp b = 0xC3 → Acts (.agstep w) s w b (modAg s.dev c (agNum b) fun g => agStep g ((agLow b).extractLsb' 0 16).toNat)) ∧
    (scalarOp b = 0xC4 → Answers (.agrd w) s fun e => Sets s w true ((agLow b).extractLsb' 27 5).toNat ((agAddress g) &&& 0xFFFFFFFFFFFF) e ∧
      Leaves s w b e) ∧
    (scalarOp b = 0xC5 → Acts (.agrst w) s w b (modAg s.dev c (agNum b) fun g => { g with idx := Vector.replicate 6 0, done := false }))) ∧
  (∀ (g : AddrGen) (n : Nat), g.levels.toNat ≤ 6 → (∀ l : Fin 6, l.val < g.levels.toNat → (vget g.idx l).toNat < (vget g.count l).toNat) →
    (∀ l : Fin 6, g.levels.toNat ≤ l.val → vget g.idx l = 0) → agStep g n = Nat.iterate agAdvance n g)

/-- A load: a local one fills five ticks on, or six for a line of a split context, whose second half is read on the next tick;
a message read takes a unit; another
transfer enters the request queue; one predicated off fills zero (R103, R126–R128, R131, R213). -/
def Obligations.LoadsFillOrRequest : Prop :=
  ∀ (s : State) (w : SeqId) (b : RawBundle) (i : Instr), Issues s w b → OnlyMem b false →
    (i = .ld w ∧ loadOp b = 1) ∨ (i = .ldbc w ∧ loadOp b = 2) →
    let c := ctxOf s.dev w
    let x := slotXfer s.dev c w false b
    let two := isSplit s.dev c.core && decide (128 < xBytes x)
    let fill := fun (v : Entry) (rest : Option Nat) =>
      ({ dest := loadDest s.dev c x, data := v, seq := x.seq, pc := x.pc, issued := tickAt s w, due := tickAt s w + (if xLine s.dev c x then 6 else 5),
         rest := rest } : Fill)
    (∀ o off, xSpace s.dev c x = 0 → x.predOff = false → xResolve s.dev c x = .ok (.scratch o off) →
      Transfers i s w b false fun e => Reserves s w x e ∧ (getUnit s.dev c).fills ⊆ (getUnit e c).fills ∧
        fill (loadData x.op (readPad s.dev c off (if two then 128 else xBytes x))) (if two then some (off + 128) else none) ∈ (getUnit e c).fills) ∧
    (xSpace s.dev c x = 0 → x.predOff = true → x.toReg = false → Transfers i s w b false fun e => Reserves s w x e ∧
      (getUnit e c).fills = (getUnit s.dev c).fills ++ [fill 0 none]) ∧
    (xSpace s.dev c x = 0 → x.predOff = true → x.toReg = true → Transfers i s w b false fun e => Reserves s w x e ∧
      (getUnit e c).fills = (getUnit s.dev c).fills) ∧
    (∀ q, xSpace s.dev c x = 5 → xResolve s.dev c x = .ok (.queue q) → x.predOff = false →
      Transfers i s w b false fun e => Reserves s w x e ∧ fill ((takeUnit (mqOf s.dev c q)).1.setWidth 2048) none ∈ (getUnit e c).fills ∧
        mqOf e c q = (takeUnit (mqOf s.dev c q)).2.1) ∧
    (∀ t, xLocal s.dev c x = false → xResolve s.dev c x = .ok t →
      Transfers i s w b false fun e => Reserves s w x e ∧ (getUnit e c).fills = (getUnit s.dev c).fills ∧
        (getUnit e c).rqueue = (getUnit s.dev c).rqueue ++ [request s w x (.load (loadDest s.dev c x) (loadOp b = 2)) true])

/-- A store: a local one waits for its bank, wanted two ticks on; another enters the request queue; staf counts as may
vary; one predicated off still pops, and takes its bank ticks but writes nothing (R31, R103, R126–R128, R132, R216). A local
one to a bank that is being powered down writes nothing and receives an error response, two ticks on by log entry 108. -/
def Obligations.StoresWriteOrRequest : Prop :=
  ∀ (s : State) (w : SeqId) (b : RawBundle), Issues s w b → OnlyMem b true →
    let c := ctxOf s.dev w
    let x := slotXfer s.dev c w true b
    let v : Entry := if x.toReg then (readS (getSeq s.dev w) x.reg.toNat).setWidth 2048 else headData s.dev c (xQueue x)
    let Enters := fun (i : Instr) (k : ReqKind) (more : Nat) => ∀ t r, xLocal s.dev c x = false → xResolve s.dev c x = .ok t → runOf s.dev c = some r →
      Transfers i s w b true fun e => Pops s w x e ∧ (getUnit e c).rqueue = (getUnit s.dev c).rqueue ++ [request s w x k true] ∧
        (getUnit e c).stores = (getUnit s.dev c).stores ∧ runOf e c = some { r with mayvary := r.mayvary + BitVec.ofNat 64 more }
    (∀ o off, storeOp b = 1 → xSpace s.dev c x = 0 → x.predOff = false → xResolve s.dev c x = .ok (.scratch o off) →
      writeAccepted s.dev c off (xBytes x) (corePeriod s.dev c.core) = false →
      Transfers (.st w) s w b true fun e => Pops s w x e ∧ (getUnit e c).rqueue = (getUnit s.dev c).rqueue ∧
        (getUnit e c).stores = (getUnit s.dev c).stores ∧ ∃ f, (getUnit e c).flights = (getUnit s.dev c).flights ++ [f] ∧ f.error = some 0x04 ∧
          f.due = tickAt s w + 2 ∧ f.req.seq = x.seq ∧ f.req.pc = x.pc) ∧
    (∀ o off, storeOp b = 1 → xSpace s.dev c x = 0 → x.predOff = false → xResolve s.dev c x = .ok (.scratch o off) →
      writeAccepted s.dev c off (xBytes x) (corePeriod s.dev c.core) = true →
      Transfers (.st w) s w b true fun e => Pops s w x e ∧ (getUnit e c).rqueue = (getUnit s.dev c).rqueue ∧
        (getUnit e c).stores = (getUnit s.dev c).stores ++
          [{ offset := off, bytes := xBytes x, data := v, wanted := tickAt s w + 2, half := false, off := false, seq := x.seq, pc := x.pc }]) ∧
    (storeOp b = 1 → xSpace s.dev c x = 0 → x.predOff = true → Transfers (.st w) s w b true fun e => Pops s w x e ∧
      (getUnit e c).rqueue = (getUnit s.dev c).rqueue ∧ (getUnit e c).stores = (getUnit s.dev c).stores ++
        [{ offset := xAddr s.dev c x, bytes := xBytes x, data := v, wanted := tickAt s w + 2, half := false, off := true, seq := x.seq, pc := x.pc }]) ∧
    (storeOp b = 1 → Enters (.st w) (.store v) 0) ∧
    (storeOp b = 2 → Enters (.staf w) (.accumulate true v) (if x.predOff then 0 else 1)) ∧
    (storeOp b = 3 → Enters (.stai w) (.accumulate false v) 0)

/-- Flag operations: a local change joins those of the end of the tick, a remote one enters the request queue, a wait on
an external flag becomes a variable item; and the end of the tick (R133–R135, R238, R241). -/
def Obligations.FlagOperations : Prop :=
  (∀ (s : State) (w : SeqId) (b : RawBundle), Issues s w b → OnlySync b →
    let c := ctxOf s.dev w
    let q := getSeq s.dev w
    let i := syImm b
    let f : Byte := BitVec.ofNat 8 (physFlag (isSplit s.dev w.core) c.ctx (syFlag b)).val
    let far := fun (v : W32) => ({ kind := .flag (syFlag b) v, seq := w.seq, pc := physPc s.dev c (q.pc.setWidth 12), addr := readS q (syRa b), bytes := 0,
                                   predOff := false, valid := true, entryTick := tickAt s w, slotsLeft := 1 } : Request)
    let item := fun (need : W32) (sub : Option W32) =>
      ({ ref := .extFlag c w.seq (syFlag b) need sub, due := tickAt s w + 4, ready := none,
         cause := if retriedFlag s.dev c (syFlag b) then 3 else 6 } : VarItem)
    (syncOp b = 8 → syRa b = 0 → Acts (.fadd w) s w b (pendFlag (countSent s.dev c c (syFlag b) i) w.core (.add f i))) ∧
    (∀ t, syncOp b = 8 → syRa b ≠ 0 → signalTarget s.dev c (readS q (syRa b)) (syFlag b) = .ok t →
      Acts (.fadd w) s w b (enqueue (countSent s.dev c t (syFlag b) i) c (far i))) ∧
    (syncOp b = 9 → syRa b = 0 → Acts (.fsub w) s w b (pendFlag s.dev w.core (.add f (-i)))) ∧
    (∀ t, syncOp b = 9 → syRa b ≠ 0 → signalTarget s.dev c (readS q (syRa b)) (syFlag b) = .ok t →
      Acts (.fsub w) s w b (enqueue s.dev c (far (-i)))) ∧
    (syncOp b = 0x0A → classOf s.dev c (syFlag b) ≠ 2 → Acts (.fwait w) s w b s.dev) ∧
    (syncOp b = 0x0B → classOf s.dev c (syFlag b) ≠ 2 → Acts (.fwaitr w) s w b s.dev) ∧
    (syncOp b = 0x0C → classOf s.dev c (syFlag b) ≠ 2 → Acts (.fwsub w) s w b (pendFlag s.dev w.core (.sub w.seq f i))) ∧
    (syncOp b = 0x0A → classOf s.dev c (syFlag b) = 2 → Acts (.fwait w) s w b (addItem s.dev c (item i none))) ∧
    (syncOp b = 0x0B → classOf s.dev c (syFlag b) = 2 → Acts (.fwaitr w) s w b (addItem s.dev c (item ((readS q (syRa b)).setWidth 32) none))) ∧
    (syncOp b = 0x0C → classOf s.dev c (syFlag b) = 2 → Acts (.fwsub w) s w b (addItem s.dev c (item i (some i)))) ∧
    (syncOp b = 0x0D → Acts (.fset w) s w b (pendFlag s.dev w.core (.set w.seq f i)))) ∧
  (∀ (k : Core) (f : Fin 256) (g : Byte) (x y v : W32) (m n : Fin 4), g.toNat = f.val → m < n →
    (k.flagPend = [.add g x, .sub m g y] → vget (settleFlags k).flags f = vget k.flags f + x - y) ∧
    (k.flagPend = [.add g x, .set n g y, .set m g v] → vget (settleFlags k).flags f = v + x) ∧
    (∀ h : Byte, h ≠ g → k.flagPend = [.add h x, .set n h y, .sub m h v] → vget (settleFlags k).flags f = vget k.flags f) ∧
    (settleFlags k).flagPend = [])

/-- bar, barin and barout, the first presentation of a bar, a signal held at a die link that is not up, and send and sendr
(R136–R138, R247, R249, R252, R253, R267, R273). -/
def Obligations.BarriersAndSends : Prop :=
  (∀ (s : State) (w : SeqId) (b : RawBundle) (n : Nat), Issues s w b → OnlySync b → partIndex (getBar s.dev (syBctx b)) (partWho s.dev w) = some n →
    let c := ctxOf s.dev w
    let x := getBar s.dev (syBctx b)
    let out := addItem (modBar s.dev (syBctx b) fun x => modBarPart x n fun p => { p with leaving := true }) c
      { ref := .fabRelease (syBctx b) (barPart x n).left w, due := tickAt s w + 4,
        ready := if (barPart x n).left < x.round.toNat ∨ x.fabDone = true then some 0 else none, cause := 6 }
    let note := fun (d : Device) => noteReach d (syBctx b)
    (syncOp b = 0x10 → Acts (.bar w) s w b (if x.extended then out else note (modBar s.dev (syBctx b) fun x => leaveRound x n (tickAt s w)))) ∧
    (syncOp b = 0x11 → Acts (.barin w) s w b (note (modBar s.dev (syBctx b) fun x =>
      arrive x n (tickAt s w) (physPc s.dev c ((getSeq s.dev w).pc.setWidth 12))))) ∧
    (syncOp b = 0x12 → Acts (.barout w) s w b (if x.extended then out else note (modBar s.dev (syBctx b) fun x => leaveRound x n (tickAt s w))))) ∧
  (∀ (s : State) (w : SeqId) (b : RawBundle) (u : Unmet) (n : Nat), let c := ctxOf s.dev w; let x := getBar s.dev (syBctx b)
    myTurn s.dev c w = true → takeHalts s.dev c = none → verdict s.dev c w = .wait [u] true → fetchBundle s.dev c (getSeq s.dev w) = b →
    syncOp b = 0x10 → partIndex x (partWho s.dev w) = some n →
    Answers (.bar w) s fun e => (getSeq e w).barSent = true ∧ (getSeq e w).st = .waiting ∧
      (∃ l, (getBar e (syBctx b)).signals = l ++
        [{ depart := false, part := n, round := (barPart x n).arrivals, due := tickAt s w + 10, pc := physPc s.dev c ((getSeq s.dev w).pc.setWidth 12) }]) ∧
      (barPart (getBar e (syBctx b)) n).arrivals = (barPart x n).arrivals + 1) ∧
  (∀ (x : Barrier) (n t : Nat), n < x.parts.length →
    (leaveRound x n t).signals = x.signals ++ [{ depart := true, part := n, round := (barPart x n).left, due := t + 10, pc := 0 }] ∧
    barPart (leaveRound x n t) n = { barPart x n with left := (barPart x n).left + 1, leaving := false } ∧
    ∀ k, k ≠ n → barPart (leaveRound x n t) k = barPart x k) ∧
  (∀ (d : Device) (k : Fin 64), (∀ n, linkOpen d n = true) → (getBar d k).retried = false → noteReach d k = d) ∧
  (∀ (d : Device) (k : Fin 64) (i : DomId) (r : Run) (g : BarSignal) (p : BarPart) (t : Nat), let b := getBar d k
    g ∈ b.signals → b.parts[g.part]? = some p → linkOpen d (finMod 8 (dieOf p.who.ctx.core).val) = false → b.retried = false →
    b.claim = some i → (getDom d i).run = some r → nominalReach b = some t → (∀ x ∈ r.items, x.ref ≠ .release k) →
    (getBar (noteReach d k) k).retried = true ∧
    (getDom (noteReach d k) i).run = some { r with items := r.items ++ [{ ref := .release k, due := t + 1, ready := none, cause := 2 }] }) ∧
  (∀ (s : State) (w : SeqId) (b : RawBundle) (i : Instr) (n : Nat), Issues s w b → OnlySync b →
    (i = .send w ∧ syncOp b = 0x18 ∧ n = syLen b + 1) ∨ (i = .sendr w ∧ syncOp b = 0x19 ∧ n = (readS (getSeq s.dev w) (24 + syLen b)).toNat) →
    let c := ctxOf s.dev w
    let req := fun (t : Nat) => ({ kind := .message (syChan b) n [] (agTarget (agOf s.dev c (syAg b))), seq := w.seq,
                                    pc := physPc s.dev c ((getSeq s.dev w).pc.setWidth 12), addr := 0, bytes := 64,
                                    predOff := false, valid := true, entryTick := t, slotsLeft := n } : Request)
    (n = 0 → Acts i s w b s.dev) ∧
    (∀ r, n ≠ 0 → routeOf s.dev c (syChan b) = some r → r.kind = 1 →
      Acts i s w b (modCredit (modAg (enqueue s.dev c (req (tickAt s w))) c (syAg b) agAdvance) c (syChan b) fun k => k - n)) ∧
    (∀ r, n ≠ 0 → routeOf s.dev c (syChan b) = some r → r.kind = 3 →
      let met := decide (n ≤ creditOf s.dev c (syChan b)) && !creditOwed s.dev c (syChan b)
      let sent := modAg (enqueue s.dev c (req (tickAt s w + 4))) c (syAg b) agAdvance
      Acts i s w b (addItem (if met then modCredit sent c (syChan b) fun k => k - n else sent) c
        { ref := .credit c (syChan b) n, due := tickAt s w + 4, ready := if met then some (periodOf s.dev c) else none, cause := 6 })) ∧
    (∀ r, n ≠ 0 → routeOf s.dev c (syChan b) = some r → r.kind ≠ 1 → r.kind ≠ 3 →
      Acts i s w b (modAg (enqueue s.dev c (req (tickAt s w))) c (syAg b) agAdvance)))

/-- The passes of the matrix array: the plane is cleared or continued and fed from the issue tick on, INT8 products
being added to the clocked cells; the end of a pass; mdrain and mstat (R139–R141, R144, R145, R148, R150, R155–R158). -/
def Obligations.MatrixOperations : Prop :=
  (∀ (s : State) (w : SeqId) (b : RawBundle), Issues s w b → OnlyMatrix b → ∀ r ∈ matrixRows w, r.2 b = true → matrixOp b < 0x20 →
    let c := ctxOf s.dev w
    let sp := isSplit s.dev w.core
    let m := mfields b
    let p := mPlane (matrixOp b)
    let old := planeOf s.dev c p
    let z := fun (i : Fin 128) (j : Fin 64) => if matrixOp b / 2 % 2 = 1 then vget (vget old.cells i) j else 0
    let A := readV (getCore s.dev w.core) c.ctx m.srcA.toNat
    let B := readV (getCore s.dev w.core) c.ctx m.srcB.toNat
    let rows := if sp then 64 else 128
    let plus := fun (x : W64) (k : Int) => ((x.setWidth 32 : W32) + BitVec.ofInt 32 k).setWidth 64
    let fed := fun (Cells : Plane → Prop) => Answers r.1 s fun e => OnlyMoves s w b e ∧
      (∃ g, (matrixOf e c).feed = some g ∧ g.f = m ∧ g.plane = p ∧ g.seq = w.seq) ∧ (planeOf e c p).st = .feeding ∧
      (planeOf e c p).vecFed = decide (0x18 ≤ matrixOp b) ∧ (∀ k, k ≠ p → planeOf e c k = planeOf s.dev c k) ∧
      (matrixOf e c).drains = (matrixOf s.dev c).drains ∧ Cells (planeOf e c p)
    let are := fun (g : Fin 128 → Fin 64 → W64) (x : Plane) => ∀ i j, vget (vget x.cells i) j = g i j
    (fed fun x => ∀ i j, clocked sp m i.val j.val = false → vget (vget x.cells i) j = z i j) ∧
    (isMx m = true ∨ (feedSteps sp m).2 ≠ 1 → fed (are z)) ∧
    (matrixOp b < 0x18 → m.srcA.toNat < 16 → m.srcB.toNat < 16 → m.fmtA = 2 → m.fmtB = 2 → m.exact = false →
      fed (are fun i j => if i.val ≤ m.rows.toNat ∧ i.val < rows ∧ j.val ≤ m.cols.toNat then plus (z i j) (signed 8 (lane A 8 i.val) * signed 8 (lane B 8 j.val)) else z i j)) ∧
    (0x18 ≤ matrixOp b → m.srcA.toNat < 16 → m.srcB.toNat < 16 → m.fmtA = 2 → m.fmtB = 2 → m.exact = false →
      fed (are fun i j => if i.val ≤ m.rows.toNat ∧ i.val < rows ∧ j.val < (if sp then 4 else 2) ∧ j.val ≤ m.klen.toNat then
        plus (z i j) (signed 8 (lane A 8 (rows * j.val + i.val)) * signed 8 (lane B 8 j.val)) else z i j))) ∧
  (∀ (d : Device) (c : CtxId) (g : Feed),
    (matrixOf (endFeed d c g) c).feed = none ∧ (planeOf (endFeed d c g) c g.plane).cells = (planeOf d c g.plane).cells ∧
    (mHolds g.f.opc.toNat = true → (planeOf (endFeed d c g) c g.plane).st = .open ∧ (matrixOf (endFeed d c g) c).drains = (matrixOf d c).drains) ∧
    (mHolds g.f.opc.toNat = false → (planeOf (endFeed d c g) c g.plane).st = .draining ∧
      ∃ x, (matrixOf (endFeed d c g) c).drains = (matrixOf d c).drains ++ [x] ∧ x.plane = g.plane ∧ x.dst = g.f.dst ∧ x.tf = tickOf d c ∧ x.next = 0)) ∧
  (∀ (s : State) (w : SeqId) (b : RawBundle), Issues s w b → OnlyMatrix b → let c := ctxOf s.dev w; let m := mfields b
    (matrixOp b / 2 = 16 → Acts (.mdrain w) s w b (modUnit s.dev c fun u => { u with matrix := { u.matrix with
      drains := u.matrix.drains ++ [{ plane := mPlane (matrixOp b), f := m, seq := w.seq, pc := physPc s.dev c ((getSeq s.dev w).pc.setWidth 12), dst := m.dst,
                                      rows := m.rows, cols := m.cols, exact := m.exact, tf := tickAt s w, next := 0, waiting := false,
                                      nextTick := tickAt s w + 1, done := false, issued := tickAt s w }],
      planes := vmod u.matrix.planes (mPlane (matrixOp b)) fun p => { p with st := .draining } } })) ∧
    (matrixOp b = 0x28 → m.dst.toNat < 16 → Answers (.mstat w) s fun e => OnlyMoves s w b e ∧
      (getCore e w.core).vregPend = (getCore s.dev w.core).vregPend ++
        [(physVreg (isSplit s.dev w.core) c.ctx m.dst.toNat, (matrixOf s.dev c).flags.val.setWidth 2048, tickAt s w)] ∧
      matrixOf e c = { matrixOf s.dev c with flags := { (matrixOf s.dev c).flags with val := 0 } }) ∧
    (∀ q, matrixOp b = 0x28 → dstQueue m.dst = some q → Answers (.mstat w) s fun e => OnlyMoves s w b e ∧
      lqOf e c q = pushEntry (lqOf s.dev c q) (tickAt s w) (some ((matrixOf s.dev c).flags.val.setWidth 2048)) false ∧ (matrixOf e c).flags.val = 0))

/-- Vector operations take the engine from their issue tick on (R187, R189); the first step of each from registers:
elements in program order, conversions, blocks, compress and expand, integer reduction, row accumulators, seeds and
flags (R176, R190, R192, R194–R209). -/
def Obligations.VectorOperations : Prop :=
  (∀ (s : State) (w : SeqId) (b : RawBundle), Issues s w b → OnlyVector b →
    (isMicro (vectorOp b) = true → Answers (.vectorMicroOp w) s fun e => OnlyMoves s w b e ∧
      ∃ o, vecOf e (ctxOf s.dev w) = some o ∧ o.f = vfields b ∧ o.seq = w.seq ∧ o.issued = tickAt s w) ∧
    ∀ r ∈ vectorRows, vectorOp b = r.2 → Answers (r.1 w) s fun e => OnlyMoves s w b e ∧
      ∃ o, vecOf e (ctxOf s.dev w) = some o ∧ o.f = vfields b ∧ o.seq = w.seq ∧ o.issued = tickAt s w) ∧
  (∀ (s : State) (w : SeqId) (b : RawBundle), Issues s w b → OnlyVector b →
    srcQueue (vfields b).va = none → srcQueue (vfields b).vb = none → srcQueue (vfields b).vc = none →
    let c := ctxOf s.dev w
    let sp := isSplit s.dev w.core
    let f := vfields b
    let op := vectorOp b
    let t := tickAt s w
    let k := if sp then 2 else 1
    let A := operand s.dev c f.va 0
    let B := operand s.dev c f.vb 0
    let C := operand s.dev c f.vc 0
    let on := fun (i : Nat) => elemOn (laneMask sp (getSeq s.dev w) f.pred.toNat f.pneg) 64 i
    let w32 := fun (n : Nat) => BitVec.ofNat 32 n
    let a := fun i => w32 (lane A 32 i)
    let row := rowOf' s.dev c (vQ f)
    let each := fun (g : Nat → W32) => ofLanes 32 ((List.range 64).map fun i => if on i then (g i).toNat else 0)
    let mask := onMask 32 ((List.range 64).map on)
    let one := f.imm.extractLsb' 0 11 = 0
    let Gets := fun (i : Instr) (due : Nat) (v m : Entry) => Answers i s fun e => ∃ r, Yields s w b e r ∧ r.due = due ∧ r.index = some 0 ∧ r.data = v ∧ r.mask = m
    let Rows := fun (i : Instr) (due : Nat) (P : RowAcc → Prop) => Answers i s fun e => ∃ r x, Yields s w b e r ∧ r.due = due ∧ r.ra = some x ∧ P x
    (isMicro op = true → f.vd.toNat < 16 → f.type = 0xB ∨ f.type = 0xC → Gets (.vectorMicroOp w) (t + k * microCost op - 1)
      (each fun i =>
        let v := (micro32 op (a i) (w32 (bcastElem (bcastB f) B 32 64 0 i)) (w32 (bcastElem (bcastC f) C 32 64 0 i))).1
        if (op = 0x0C ∨ op = 0x2D) ∧ f.type = 0xB then w32 (canonical fp32 v.toNat) else v) mask) ∧
    (∀ x, op = 0x40 → f.vd.toNat < 16 → f.type = 0 → epOf s.dev c f.eps.toNat = some x → Gets (.vep w) (t + k * epCost x - 1)
      (each fun i => (epRun x (a i) (w32 (bcastElem (bcastB f) B 32 64 0 i)) (w32 (bcastElem (bcastC f) C 32 64 0 i))).1) mask) ∧
    (op = 0x41 → Answers (.vpload w) s fun e => epOf e c f.eps.toNat = some A) ∧
    (op = 0x48 → f.vd.toNat < 16 → cvtTarnSrc f = false → cvtTarnDst f = false → cvtSrc f = 0xB → f.type = 0xC → vRnd f < 3 →
      Gets (.vcvt w) (t + k - 1) (each fun i => w32 (convertTo 0xC (vRnd f) 0 (elemNum 0xB (lane A 32 i))).1) mask) ∧
    (op = 0x49 → vRnd f < 3 → Answers (.vmxq w) s fun e => ∃ o, vecOf e c = some o ∧
      let blk := fun n => quantBlock f.type.toNat (List.replicate 32 (rndOf (vRnd f) 0).1)
        ((List.range 32).map fun i => if on (32 * n + i) then decodeNum fp32 (lane A 32 (32 * n + i)) else num0)
      o.scales = [(blk 0).1, (blk 1).1] ∧ o.acc = (blk 0).2.1 ++ (blk 1).2.1) ∧
    (op = 0x50 → f.vd.toNat < 15 → one → let l := (List.range 64).filterMap fun i => if lane B 32 i ≠ 0 then some (movedElem f (lane A 32 i)) else none
      Answers (.vcomp w) s fun e => Yields s w b e (resEntry (t + k + 1) 0 (ofLanes 32 l) fullMask 0) ∧
        Yields s w b e (resEntry (t + 2 * k + 1) 1 (BitVec.ofNat 2048 l.length) fullMask 0)) ∧
    (op = 0x51 → f.vd.toNat < 16 → Gets (.vexpd w) (t + k + 1) (ofLanes 32 ((List.range 64).map fun i => if lane B 32 i ≠ 0 then
      movedElem f (lane A 32 ((List.range i).filter fun j => lane B 32 j ≠ 0).length) else movedElem f (bcastElem (bcastC f) C 32 64 0 i))) mask) ∧
    (op = 0x58 → f.vd.toNat < 16 → one → vredKind f = 3 → Gets (.vred w) (t + k + 1)
      (ofLanes 32 [((List.range 64).map fun i => if on i then lane A 32 i else 0).sum]) fullMask) ∧
    (op = 0x60 → Rows (.rxinit w) (t + k - 1) fun x => x = { RowAcc.reset with a := f.imm.extractLsb' 14 8 }) ∧
    (op = 0x61 → Rows (.rxmax w) (t + k + 1) fun x =>
      x = (((List.range 64).filterMap fun i => if on i then some (a i) else none).foldl rowMax (row, 0)).1) ∧
    (op = 0x62 → f.vd.toNat < 16 → row.nan = false → row.k = 0 → (∀ i, i < 64 → on i = true → isNan (d32 (a i)) = false) →
      let es := (List.range 64).map fun i => if on i then (if a i = 0xFF800000 then 0 else (expNum (addNum (d32 (a i)) (negNum (d32 row.m)))).1) else 0
      Gets (.rxexp w) (t + 4 * k + 1) (ofLanes 32 (es.map fun x => x.toNat)) fullMask ∧
      Rows (.rxexp w) (t + 4 * k + 1) fun x => x.s = (add32 row.s (treeSum es).1).1 ∧ x.m = row.m ∧ x.k = row.k ∧ x.live = row.live) ∧
    (op = 0x63 → f.vd.toNat < 16 → Gets (.rxnorm w) (t + k + 3) (if row.nan then ofLanes 32 (List.replicate 64 nan32.toNat) else if !row.live then 0 else
      let s' := if f.mode.getLsbD 0 then BitVec.ofNat 32 (roundNum fp32 .nearest false (tarnNum row.a row.st)).1 else row.s
      each fun i => w32 (rne fp32 (mulNum (d32 (a i)) (d32 (w32 (divNum fp32 (.fin false 1 0) (d32 s')).1)))).1) fullMask) ∧
    (op = 0x64 → Rows (.rxsq w) (t + k + 1) fun x => x.m = row.m ∧ x.s = (add32 row.s
      (treeSum ((List.range 64).map fun i => if on i then w32 (rne fp32 (mulNum (d32 (a i)) (d32 (a i)))).1 else
        w32 (rne fp32 (mulNum (d32 0) (d32 0))).1)).1).1) ∧
    (op = 0x65 → f.vd.toNat < 16 → Gets (.rxget w) (t + k + 1) (rowEntry row) fullMask) ∧
    (op = 0x66 → Rows (.rxset w) (t + k + 1) fun x => x = entryRow A) ∧
    (op = 0x70 → Answers (.vseed w) s fun e =>
      (getCore e w.core).srState = seedLanes sp c.ctx (getCore s.dev w.core).srState (A.extractLsb' 0 64)) ∧
    (op = 0x71 → f.vd.toNat < 16 → Gets (.vstat w) (t + k - 1) ((getUnit s.dev c).vector.flags.val.setWidth 2048) fullMask))

/-! ### Events of a core -/

namespace Sys2Proof.Claims

/-- The byte of the scratchpad that a core or context names by an offset, as a key of the memory (R82, R212). -/
def padKey (d : Device) (c : CtxId) (off : Nat) : Nat := scratchKey c.core (physOffset (isSplit d c.core) c.ctx off)

/-- From d to e bytes are written at an offset of a scratchpad, and no other byte of any scratchpad changes. -/
def PadWrote (d e : Device) (c : CtxId) (off : Nat) (bs : List Byte) : Prop :=
  (∀ k, k < bs.length → readByte e .scratch (padKey d c (off + k)) = bs.getD k 0) ∧
  ∀ a, (∀ k, k < bs.length → a ≠ padKey d c (off + k)) → readByte e .scratch a = readByte d .scratch a

/-- A change of a flag of t joins those of the end of the tick. -/
def FlagAdded (d e : Device) (t : CtxId) (f : Byte) (v : W32) : Prop :=
  (getCore e t.core).flagPend = (getCore d t.core).flagPend ++ [.add (BitVec.ofNat 8 (physFlag (isSplit d t.core) t.ctx f).val) v]

end Sys2Proof.Claims

/-- Repeat units, fills, store writes, the request queue, whose message units are read as their banks allow, remote
accesses, of a split context's line half by half, those predicated off taking their banks alone, and the writes of a domain that cross its die links before their tick, from
the fourth on before it by log entry 91 (R36, R38, R102, R103, R127, R128, R130, R138, R212, R214, R216, R217). -/
def Obligations.TransfersComplete : Prop :=
  (∀ (s : State) (c : CtxId) (store : Bool) (u : RepeatUnit), unitOf s.dev c store = some u → unitDue s.dev c store = true →
    mustAbort s.dev c = false → takeHalts s.dev c = none → unitLate s.dev c u = false → xFault s.dev c (unitXfer u) = none →
    let t := tickOf s.dev c
    (xUnmet s.dev c (unitXfer u) 0 = [] → Gives (.repeatTransfer c store) s
      (setUnit (modAg (xEffect s.dev c (unitXfer u)) c u.ag.val agAdvance) c store (some { u with
        remaining := u.remaining - 1, waiting := false, waitLocal := false
        nextTick := t + if isSplit s.dev c.core = true ∧ u.width = 1 ∧ xLocal s.dev c (unitXfer u) = true then 2 else 1 }))) ∧
    (∀ x l, xUnmet s.dev c (unitXfer u) 0 = x :: l → Gives (.repeatTransfer c store) s
      (setUnit s.dev c store (some { u with waiting := true, waitLocal := (x :: l).any (·.2), nextTick := t + 1 })))) ∧
  (∀ (s : State) (c : CtxId) (f : Fill) (rest : List Fill), (getUnit s.dev c).fills = f :: rest → executing s.dev c = true →
    presented s.dev c = true → f.due ≤ tickOf s.dev c →
    let d := modUnit s.dev c fun u => { u with fills := rest }
    let t := tickOf s.dev c
    (∀ q id, f.dest = .lq q id → Gives (.loadFill c) s (modLq d c q fun x => { x with entries := x.entries.map fun e =>
      if e.id = id then { e with data := f.data, filledAt := some t, ready := some 0, cause := 5 } else e })) ∧
    (∀ n r, f.dest = .sreg n r → Gives (.loadFill c) s (modSeq d { core := c.core, seq := n } fun q => fillS q r.val (f.data.extractLsb' 0 64) t f.issued)) ∧
    (∀ g, f.dest = .staging g → Gives (.loadFill c) s (modAg d c g.val fun a => { a with staged := some (f.data.setWidth 512, t) }))) ∧
  (∀ (q : Sequencer) (r : Fin 32) (v : W64) (t n : Nat), r ≠ 0 →
    ((vget q.sregTick r).1 = t → n < (vget q.sregTick r).2 → fillS q r.val v t n = q) ∧
    ((vget q.sregTick r).1 ≠ t ∨ (vget q.sregTick r).2 ≤ n → vget (fillS q r.val v t n).sregs r = v)) ∧
  (∀ (s : State) (c : CtxId) (f : Flight) (q : Fin 4) (id : Nat) (bc : Bool), (getUnit s.dev c).fills = [] → (getUnit s.dev c).flights = [f] →
    flightFillDue s.dev c f = true → executing s.dev c = true → f.req.kind = .load (.lq q id) bc →
    Answers (.loadFill c) s fun e => (getUnit e c).flights = [] ∧ lqOf e c q = fillEntry (lqOf s.dev c q) id f.data (tickOf s.dev c)
      (if tickOf s.dev c ≤ f.due then 0 else periodOf s.dev c) f.cause) ∧
  (∀ (s : State) (c : CtxId) (p : PendingStore) (rest : List PendingStore), storeDue s.dev c = true → (getUnit s.dev c).stores = p :: rest →
    isSplit s.dev c.core = false → memoriesWf s.dev = true → p.bytes ≤ 256 →
    Answers (.storeWrite c) s fun e => (getUnit e c).stores = rest ∧ (getUnit e c).stWrote = some (tickOf s.dev c) ∧
      PadWrote s.dev e c p.offset (if p.off then [] else entryBytes p.data p.bytes) ∧ ∀ x, getSeq e x = getSeq s.dev x) ∧
  (∀ (s : State) (c : CtxId) (r : Request) (rest : List Request), departDue s.dev c = true → accessed s.dev c = true → storeDue s.dev c = false →
    (getUnit s.dev c).rqueue = r :: rest → (streamOf s.dev c).edge = [] →
    let t := tickOf s.dev c
    ((∀ ch n l o, r.kind ≠ .message ch n l o) → 1 < r.slotsLeft → Answers (.requestQueueDepart c) s fun e =>
      (getUnit e c).rqueue = { r with slotsLeft := r.slotsLeft - 1 } :: rest ∧ (getUnit e c).flights = (getUnit s.dev c).flights ∧
      (streamOf e c).remoteTick = t + 1) ∧
    ((∀ ch n l o, r.kind ≠ .message ch n l o) → r.slotsLeft ≤ 1 → Answers (.requestQueueDepart c) s fun e =>
      (getUnit e c).rqueue = rest ∧ (streamOf e c).remoteTick = t + 1 ∧ ∃ f, (getUnit e c).flights = (getUnit s.dev c).flights ++ [f] ∧
        f.req = { r with slotsLeft := 0 } ∧ f.u = t ∧ f.due = t + flightLatency s.dev c r - 1 ∧ f.arrived = false ∧ f.uid = (getUnit s.dev c).nextUid) ∧
    (∀ ch n l o x, r.kind = .message ch n l o → routeOf s.dev c ch = some x → x.kind = 1 → r.slotsLeft = 1 →
      (banksFree s.dev c (padBanks s.dev c (o + 64 * (n - 1)) 64) = false → Answers (.requestQueueDepart c) s fun e => (getUnit e c).rqueue = rest ∧
        (∃ f, (getUnit e c).flights = (getUnit s.dev c).flights ++ [f] ∧ f.req.kind = .message ch n l o ∧ f.u = t) ∧
        ∃ q, (streamOf e c).edge = [q] ∧ q.read = true ∧ q.slot = t ∧ q.item.offset = o + 64 * (n - 1)) ∧
      (banksFree s.dev c (padBanks s.dev c (o + 64 * (n - 1)) 64) = true → (streamOf s.dev c).edgeTick ≤ t → (getUnit s.dev c).flights = [] →
        l.length + 1 = n → Answers (.requestQueueDepart c) s fun e => (getUnit e c).rqueue = rest ∧ (streamOf e c).edge = [] ∧
        ∃ f, (getUnit e c).flights = [f] ∧ f.u = t ∧ f.req.kind = .message ch n (l ++ [leBits 512 (readPad s.dev c (o + 64 * (n - 1)) 64)]) o))) ∧
  (∀ (s : State) (c t : CtxId) (f : Flight) (off : Nat), (getUnit s.dev c).flights = [f] → accessDue s.dev c f = true →
    padTarget s.dev c f = some (t, off) → (getCore s.dev t.core).inReset = false → f.req.predOff = false →
    let n := f.req.bytes
    let k := tickBytes s.dev t n
    let more := decide (f.halves + 1 < bankTicks s.dev t n)
    (∀ dest bc, f.req.kind = .load dest bc → padPowered s.dev t off n = true →
      let v := f.data ||| (loadData (if bc then .ldbc else .ld) (readPad s.dev t (off + k * f.halves) k) <<< (8 * k * f.halves))
      Answers (.remoteAccessArrive c) s fun e => (getUnit e c).flights =
        [if more then { f with halves := f.halves + 1, data := v }
         else { f with arrived := true, halves := 0, due := max f.due (tickOf s.dev c), data := v }]) ∧
    (∀ v, f.req.kind = .store v → (f.halves = 0 → writeAccepted s.dev t off n (f.reached.getD (corePeriod s.dev t.core)) = true) →
      memoriesWf s.dev = true → n ≤ 256 →
      Answers (.remoteAccessArrive c) s fun e => (getUnit e c).flights = (if more then [{ f with halves := f.halves + 1 }] else []) ∧
        PadWrote s.dev e t (off + k * f.halves) (entryBytes (v >>> (8 * k * f.halves)) k))) ∧
  (∀ (s : State) (c t : CtxId) (f : Flight) (off : Nat), (getUnit s.dev c).flights = [f] → accessDue s.dev c f = true →
    padTarget s.dev c f = some (t, off) → (getCore s.dev t.core).inReset = false → f.req.predOff = true →
    Answers (.remoteAccessArrive c) s fun e => e.scratch = s.dev.scratch ∧ (getUnit e t).remServed = true ∧
      (getUnit e c).flights = if f.halves + 1 < bankTicks s.dev t f.req.bytes then [{ f with halves := f.halves + 1 }]
        else if isStore f = true then [] else [{ f with arrived := true, halves := 0, due := max f.due (tickOf s.dev c), data := 0 }]) ∧
  (∀ (s : State) (c : CtxId) (f : Flight) (i : Instr), (getUnit s.dev c).flights = [f] → (getUnit s.dev c).adds = [] → crossDue s.dev c f = true →
    ((i = .remoteAccessArrive c ∧ isStore f = true) ∨ (i = .accumulateApply c ∧ isAccumulate f = true) ∨ (i = .anchorUnitAdd c ∧ isAnchorUnit s.dev c f = true) ∨
      (i = .remoteFlagSignal c ∧ isSignal f = true) ∨ (i = .messageDelivery c ∧ isMail s.dev c f = true)) →
    Answers i s fun e => (getUnit e c).flights = [{ f with var := false }] ∧ e.scratch = s.dev.scratch ∧
      let mark := fun (r : Run) (x : VarItem) =>
        if x.ref = .flight c f.uid ∧ x.ready = none then
          { x with ready := some (if tickOf s.dev c < effectTick s.dev c f then 0 else r.period), cause := f.cause }
        else x
      ∀ n r, domOf s.dev c = some n → (getDom s.dev n).run = some r → (getDom e n).run = some { r with items := r.items.map (mark r) })

/-- Accumulates, anchor units, flag signals, messages, credit and held messages take effect (R132, R134, R235, R265, R268,
R271, R272, R274). -/
def Obligations.SignalsAndMessagesArrive : Prop :=
  (∀ (s : State) (c t : CtxId) (f : Flight) (off : Nat) (fl : Bool) (v : Entry), (getUnit s.dev c).flights = [f] →
    f.req.kind = .accumulate fl v → accDue s.dev c f = true → padTarget s.dev c f = some (t, off) → (getCore s.dev t.core).inReset = false →
    f.req.predOff = false →
    let n := f.req.bytes
    let k := tickBytes s.dev t n
    let more := decide (f.halves + 1 < bankTicks s.dev t n)
    let old := f.data ||| (bytesEntry (readPad s.dev t (off + k * f.halves) k) <<< (8 * k * f.halves))
    (f.arrived = false → (f.halves = 0 → writeAccepted s.dev t off n (f.reached.getD (corePeriod s.dev t.core)) = true) →
      Answers (.accumulateApply c) s fun e => (getUnit e c).flights =
        [if more then { f with halves := f.halves + 1, data := old }
         else { f with arrived := true, halves := 0, data := sumWords fl n old v
                       readAt := (getPart s.dev (partOfCore s.dev c.core)).periods }] ∧ e.scratch = s.dev.scratch) ∧
    (f.arrived = true → memoriesWf s.dev = true → n ≤ 256 → Answers (.accumulateApply c) s fun e =>
      (getUnit e c).flights = (if more then [{ f with halves := f.halves + 1 }] else []) ∧
      PadWrote s.dev e t (off + k * f.halves) (entryBytes (f.data >>> (8 * k * f.halves)) k))) ∧
  (∀ (s : State) (c t : CtxId) (f : Flight) (off n o : Nat) (ch : Byte) (u : BitVec 512) (r : RouteEntry), (getUnit s.dev c).flights = [f] →
    f.req.kind = .message ch n [u] o → routeOf s.dev c ch = some r → r.kind = 2 → accDue s.dev c f = true → padTarget s.dev c f = some (t, off) →
    (getCore s.dev t.core).inReset = false → f.req.predOff = false → f.req.bytes = 64 → f.halves = 0 →
    (f.arrived = false → f.data = 0 → writeAccepted s.dev t off 64 (f.reached.getD (corePeriod s.dev t.core)) = true →
      Answers (.anchorUnitAdd c) s fun e => let x := sumTarns (bytesEntry (readPad s.dev t off 64)) (u.setWidth 2048)
      (getUnit e c).flights = [{ f with arrived := true, data := x.1, readAt := (getPart s.dev (partOfCore s.dev c.core)).periods }] ∧
      (getUnit e t).vector.flags.val = (getUnit s.dev t).vector.flags.val ||| x.2 ∧ e.scratch = s.dev.scratch) ∧
    (f.arrived = true → memoriesWf s.dev = true → Answers (.anchorUnitAdd c) s fun e => (getUnit e c).flights = [] ∧
      PadWrote s.dev e t off (entryBytes f.data 64) ∧
      (n ≠ 0 → r.fadd = true → FlagAdded s.dev e t r.tflag (if r.fper then BitVec.ofNat 32 n else 1)))) ∧
  (∀ (s : State) (t : CtxId) (a : InAdd) (rest : List InAdd), (getUnit s.dev t).flights = [] → (getUnit s.dev t).adds = a :: rest →
    addDue s.dev t = true → (getCore s.dev t.core).inReset = false →
    (a.readAt = none → writeAccepted s.dev t a.off 64 a.reached = true → s.dev.scratchBad = [] → isArmed s.dev 0x100 (coreUnit t) = false →
      Answers (.anchorUnitAdd t) s fun e => let x := sumTarns (bytesEntry (readPad s.dev t a.off 64)) (a.data.setWidth 2048)
      (getUnit e t).adds = { a with readAt := some (corePeriod s.dev t.core), sum := x.1.setWidth 512 } :: rest ∧
      (getUnit e t).vector.flags.val = (getUnit s.dev t).vector.flags.val ||| x.2 ∧ e.scratch = s.dev.scratch) ∧
    (a.readAt ≠ none → memoriesWf s.dev = true → Answers (.anchorUnitAdd t) s fun e => (getUnit e t).adds = rest ∧
      PadWrote s.dev e t a.off (leBytes 64 a.sum.toNat) ∧ (∀ f n, a.flag = some (f, n) → FlagAdded s.dev e t f n) ∧
      ∀ r src k x, a.back = some r → r.inbound = some (src, k, x) → (getUnit e t).credits = (getUnit s.dev t).credits ++
        [{ r with due := outsideDue s.dev t src k (settleTick s.dev t) }])) ∧
  (∀ (s : State) (c : CtxId) (f : Flight) (g : Byte) (v : W32), (getUnit s.dev c).flights = [f] → f.req.kind = .flag g v → flagDue s.dev c f = true →
    (getCore s.dev (ctxOfScore f.req.addr.toNat).core).inReset = false →
    Answers (.remoteFlagSignal c) s fun e => (getUnit e c).flights = [] ∧ FlagAdded s.dev e (ctxOfScore f.req.addr.toNat) g v ∧
      ∀ k, (getCore e k).flags = (getCore s.dev k).flags) ∧
  (∀ (s : State) (c : CtxId) (f : Flight) (ch : Byte) (n o : Nat) (us : List (BitVec 512)) (r : RouteEntry), (getUnit s.dev c).flights = [f] →
    f.req.kind = .message ch n us o → routeOf s.dev c ch = some r → r.kind = 1 → messageDue s.dev c f = true → messageTurn s.dev c f = true →
    (getCore s.dev r.target.core).inReset = false →
    Answers (.messageDelivery c) s fun e => (getUnit e c).flights = [] ∧
      mqOf e r.target r.queue.val = place (mqOf s.dev r.target r.queue.val) us ch (scoreOf c) (settleTick s.dev r.target) none ∧
      (r.fadd = true → FlagAdded s.dev e r.target r.tflag (if r.fper then BitVec.ofNat 32 n else 1)) ∧
      (r.fadd = false → ∀ k, (getCore e k).flagPend = (getCore s.dev k).flagPend)) ∧
  (∀ (s : State) (c : CtxId) (r : CreditReturn), (getUnit s.dev c).credits = [r] → r.inbound = none → creditDue s.dev c r = true →
    Answers (.creditReturn c) s fun e => (getUnit e c).credits = [] ∧ creditOf e c r.chan = (creditOf s.dev c r.chan + r.units) % 256 ∧
      (∀ n, physChan (isSplit s.dev c.core) c.ctx n ≠ physChan (isSplit s.dev c.core) c.ctx r.chan → creditOf e c n = creditOf s.dev c n)) ∧
  (∀ (s : State) (k : CoreId) (q : Fin 8) (i : DomId) (g : Program) (x : InEntry) (m : Assembling),
    let c : CtxId := { core := k, ctx := if isSplit s.dev k then finMod 2 (q.val / 4) else 0 }
    domOf s.dev c = some i → (getDom s.dev i).prog = some g → g.inbound = [x] → x.kind = 1 → x.target = c →
    physQueue (isSplit s.dev k) c.ctx x.queue.val = q → (getDom s.dev i).assembling = [m] → m.inid = 0 → m.held = true → m.refused = false →
    m.units.length = m.len → m.mseq = nextMseq (getDom s.dev i) m → readsDue s.dev c = false →
    receives s.dev i = true → (getCore s.dev k).inReset = false →
    (mqOf s.dev c x.queue.val).occ + placeCost (mqOf s.dev c x.queue.val) m.len ≤ 64 →
    Answers (.quotaHoldRelease k q) s fun e => (getDom e i).assembling = [] ∧ nextMseq (getDom e i) m = m.mseq + 1 ∧
      mqOf e c x.queue.val = place (mqOf s.dev c x.queue.val)
        ((List.range m.len).map fun n => match m.units.find? fun u => u.1 = n with | some u => u.2 | none => 0) 0 m.sender (settleTick s.dev c) (some (m.src, m.chan)))

/-- The hub of the barriers: arrivals, the release and its way back, departures, with what a die link that is not up holds back, and
the halt of a sense violation (R247–R252). -/
def Obligations.BarrierRoundsComplete : Prop :=
  (∀ (s : State) (k : Fin 64) (g : BarSignal), let b := getBar s.dev k
    nextSignal s.dev b false = some g → barRunning s.dev b = true → (∀ p ∈ b.parts, partOpen s.dev p = true) →
    Answers (.barrierArrivalCounted k) s (fun e => getBar e k = hubArrival { b with signals := b.signals.erase g } g g.due ∧
      (∀ j, j ≠ k → getBar e j = getBar s.dev j) ∧ e.cores = s.dev.cores) ∧
    (b.retried = false → g.round = b.round.toNat → b.awaitDep = 0 → b.extended = false → b.parts ≠ [] →
      Gives (.barrierArrivalCounted k) s (modBar s.dev k fun b => { b with
        signals := b.signals.erase g, counted := b.counted + 1
        releaseAt := if (b.counted + 1).toNat = b.parts.length then some (g.due + 1) else b.releaseAt })) ∧
    (b.retried = false → g.round = b.round.toNat → b.awaitDep = 0 → b.extended = true → b.parts ≠ [] → (b.counted + 1).toNat = b.parts.length →
      Gives (.barrierArrivalCounted k) s (modBar s.dev k fun b => { b with
        signals := b.signals.erase g, counted := b.counted + 1
        localDone := true, reachAt := some (g.due + 13) })) ∧
    (g.round = b.round.toNat + 1 → g.part < b.parts.length → Answers (.barrierArrivalCounted k) s fun e =>
      (getBar e k).signals = b.signals.erase g ∧ (getBar e k).held = b.held + 1 ∧ (barPart (getBar e k) g.part).heldNext = true ∧
      (getBar e k).counted = b.counted ∧ ∀ j, j ≠ k → getBar e j = getBar s.dev j) ∧
    (b.retried = false → g.round ≠ b.round.toNat → g.round ≠ b.round.toNat + 1 → Gives (.barrierArrivalCounted k) s (modBar s.dev k fun b => { b with
      signals := b.signals.erase g, violation := true, halts := b.halts ++ [((barPart b g.part).who, g.due + 10, g.pc)] }))) ∧
  (∀ (s : State) (k : Fin 64) (t : Nat), let b := getBar s.dev k
    b.releaseAt = some t → barRunning s.dev b = true → t ≤ barTick s.dev b → (∀ p ∈ b.parts, partOpen s.dev p = true) →
    Answers (.barrierRelease k) s fun e => getBar e k = { b with
        sense := !b.sense, counted := 0, awaitDep := BitVec.ofNat 16 b.parts.length
        releaseAt := none, reachAt := some (t + 12), retried := b.retried || decide (t < barTick s.dev b) } ∧
      (∀ j, j ≠ k → getBar e j = getBar s.dev j) ∧ e.cores = s.dev.cores) ∧
  (∀ (s : State) (k : Fin 64) (t : Nat) (i : DomId) (g : Program) (r : Run), (getBar s.dev k).reachAt = some t → (getBar s.dev k).claim = some i →
    (getDom s.dev i).prog = some g → (getDom s.dev i).run = some r → barRunning s.dev (getBar s.dev k) = true → t ≤ barTick s.dev (getBar s.dev k) →
    (getBar s.dev k).retried = false → (∀ p ∈ (getBar s.dev k).parts, partOpen s.dev p = true) →
    Answers (.barrierReleaseArrive k) s fun e => (getBar e k).reachAt = none ∧ (getBar e k).lastReach = some t ∧
      (∀ n, n < (getBar s.dev k).parts.length → (barPart (getBar e k) n).reached = (barPart (getBar s.dev k) n).reached + 1 ∧
        (barPart (getBar e k) n).arrivals = (barPart (getBar s.dev k) n).arrivals) ∧
      ((getBar s.dev k).extended = false → (getDom e i).run = some { r with
        openings := r.openings ++ (g.refresh.filter fun x => x.1 = k).map fun x => (t + 1, x.2) }) ∧ e.cores = s.dev.cores) ∧
  (∀ (s : State) (k : Fin 64) (g : BarSignal), let b := getBar s.dev k
    nextSignal s.dev b true = some g → barRunning s.dev b = true → (∀ p ∈ b.parts, partOpen s.dev p = true) →
    (b.awaitDep ≠ 1 → b.retried = false → g.due = barTick s.dev b → Gives (.barrierDepartureCounted k) s (modBar s.dev k fun b => { b with signals := b.signals.erase g, awaitDep := b.awaitDep - 1 })) ∧
    (b.awaitDep = 1 → b.held = 0 → b.parts ≠ [] → Answers (.barrierDepartureCounted k) s fun e => (getBar e k).round = b.round + 1 ∧ (getBar e k).awaitDep = 0 ∧
      (getBar e k).counted = 0 ∧ (getBar e k).held = 0 ∧ (getBar e k).releaseAt = b.releaseAt ∧ (getBar e k).sense = b.sense ∧
      (∀ p ∈ (getBar e k).parts, p.heldNext = false) ∧ ∀ j, j ≠ k → getBar e j = getBar s.dev j) ∧
    (b.awaitDep = 1 → b.held.toNat = b.parts.length → b.parts ≠ [] → b.extended = false → Answers (.barrierDepartureCounted k) s fun e =>
      (getBar e k).round = b.round + 1 ∧ (getBar e k).counted = b.held ∧ (getBar e k).releaseAt = some (g.due + 1))) ∧
  (∀ (s : State) (k : Fin 64) (p : BarPart), p ∈ (getBar s.dev k).parts → partOpen s.dev p = false →
    Gives (.barrierReleaseArrive k) s s.dev ∧
    ((∀ g ∈ (getBar s.dev k).signals, (getBar s.dev k).parts[g.part]? = some p) →
      Gives (.barrierArrivalCounted k) s s.dev ∧ Gives (.barrierDepartureCounted k) s s.dev)) ∧
  (∀ (b : Barrier) (p : BarPart) (t : Nat), b.parts = [p] → b.extended = false → p.left + 1 < p.arrivals → p.left ≤ p.reached → p.leaving = false →
    (reachAll b t).signals = b.signals ++ [{ depart := true, part := 0, round := p.left, due := max t p.nextAt + 10, pc := 0 }]) ∧
  (∀ (s : State) (c : CtxId) (k : Fin 64) (p : Participant) (t : Nat) (pc : BitVec 12), executing s.dev c = true → isHalted s.dev c = false →
    (∀ j, j ≠ k → (getBar s.dev j).halts = []) → (getBar s.dev k).halts = [(p, t, pc)] → p.ctx = c → t ≤ barTick s.dev (getBar s.dev k) →
    Answers (.senseViolationHalt c) s fun e => (getBar e k).halts = [] ∧ (getUnit e c).halt = {
      halted := true, tick := BitVec.ofNat 32 (tickOf s.dev c)
      seqMask := 1 <<< (partSeq p).seq.val, seq := (partSeq p).seq, fetch := pc, code := 0x09 })

/-- A tick of the feed, of the drain port and of the vector engine, which takes no step on the tick of another halt (R79, R148,
R152–R155, R183, R187–R189). -/
def Obligations.EnginesAdvance : Prop :=
  (∀ (s : State) (c : CtxId) (g : Feed), (matrixOf s.dev c).feed = some g → feedDue s.dev c = true →
    let t := tickOf s.dev c
    let sp := isSplit s.dev c.core
    (1 < g.subTicks → Gives (.matrixFeedStep c) s (modUnit s.dev c fun u => { u with matrix := { u.matrix with
      feed := some { g with subTicks := g.subTicks - 1, nextTick := t + 1 } } })) ∧
    (g.subTicks = 1 → Answers (.matrixFeedStep c) s fun e => let r := stepPlane sp g (stepLen sp g) (planeOf s.dev c g.plane)
      planeOf e c g.plane = r.1 ∧ (∀ p, p ≠ g.plane → planeOf e c p = planeOf s.dev c p) ∧ (matrixOf e c).flags.val = (matrixOf s.dev c).flags.val ∧
      ∃ x, (matrixOf e c).feed = some x ∧ x.k = g.k + stepLen sp g ∧ x.block = r.2.1 ∧ x.done = decide (passSteps g.f ≤ g.k + stepLen sp g) ∧ x.nextTick = t + 1) ∧
    (g.subTicks = 0 → isHalted s.dev c = false → .empty ∈ feedHeads s.dev c g → (∀ h ∈ feedHeads s.dev c g, h.isLate = false) →
      Gives (.matrixFeedStep c) s (modUnit s.dev c fun u => { u with matrix := { u.matrix with feed := some { g with waiting := true, nextTick := t + 1 } } }))) ∧
  (∀ (s : State) (c : CtxId) (x : Drain) (rest : List Drain), (matrixOf s.dev c).drains = x :: rest → drainDue s.dev c = true →
    let t := tickOf s.dev c
    let p := planeOf s.dev c x.plane
    (destRoom s.dev c x.dst = false → Gives (.drainDelivery c) s (modUnit s.dev c fun u => { u with matrix := { u.matrix with
      drains := { x with waiting := true, nextTick := t + 1 } :: rest } })) ∧
    (x.dst.toNat < 16 → p.vecFed = false → x.exact = false → Answers (.drainDelivery c) s fun e =>
      (getCore e c.core).vregPend = (getCore s.dev c.core).vregPend ++ [(physVreg (isSplit s.dev c.core) c.ctx (x.dst.toNat + x.next),
        ofLanes 32 ((List.range 64).map fun j => if j ≤ x.cols.toNat then (vget (vget p.cells (finMod 128 x.next)) (finMod 64 j)).toNat else 0), x.issued)] ∧
      matrixOf e c = { matrixOf s.dev c with lastDelivery := some t, drains := { x with
        next := x.next + 1, waiting := false, nextTick := t + 1, done := decide (x.rows.toNat + 1 ≤ x.next + 1) } :: rest })) ∧
  (∀ (s : State) (c : CtxId) (o : VOp) (r : VResult), vecOf s.dev c = some o → vecDue s.dev c = true → isHalted s.dev c = true ∨ mustAbort s.dev c = false →
    (∀ h ∈ haltReqs s.dev c, h.code = 0x17) → o.total ≤ o.next → o.results = [r] →
    o.f.vd.toNat < 16 → r.due ≤ tickOf s.dev c →
    Answers (.vectorResult c) s fun e => vecOf e c = some { o with results := [], waiting := false, nextTick := tickOf s.dev c + 1,
                                                                   done := decide (o.start ≤ tickOf s.dev c + 1) } ∧
      (∀ n, r.index = some n → (getCore e c.core).vregPend = (getCore s.dev c.core).vregPend ++
        [(physVreg (isSplit s.dev c.core) c.ctx (o.f.vd.toNat + n), (r.data &&& r.mask) |||
          (readV (getCore s.dev c.core) c.ctx (o.f.vd.toNat + n) &&& ~~~ r.mask), o.issued)]) ∧
      (∀ x, r.ra = some x → vget (getCore e c.core).rowAcc (physRow (isSplit s.dev c.core) c.ctx (vQ o.f)) = x) ∧
      (getUnit e c).vector.flags.fresh = (getUnit s.dev c).vector.flags.fresh ||| r.flags) ∧
  (∀ (s : State) (c : CtxId) (h : HaltReq) (d : Device), vecDue s.dev c = true → isHalted s.dev c = true ∨ mustAbort s.dev c = false →
    h ∈ haltReqs s.dev c → h.code ≠ 0x17 → takeHalts s.dev c = some d → Gives (.vectorResult c) s d) ∧
  (∀ (s : State) (c : CtxId) (o : VOp), vecOf s.dev c = some o → vecDue s.dev c = true → mustAbort s.dev c = false →
    (∀ h ∈ haltReqs s.dev c, h.code = 0x17) → o.next < o.total → o.start ≤ tickOf s.dev c →
    isHalted s.dev c = false → .empty ∈ vHeads s.dev c o → (∀ h ∈ vHeads s.dev c o, h.isLate = false) →
    Gives (.vectorResult c) s (modUnit s.dev c fun u => { u with vector := { u.vector with op := some { o with
      start := o.start + 1, results := o.results.map fun r => { r with due := r.due + 1 }, waiting := true, nextTick := tickOf s.dev c + 1 } } }))

/-! ### Stalls, streams and memories -/

namespace Sys2Proof.Claims

/-- An event of a detector at a unit waits, of a severity and a halt reason. -/
def Logged (e : Device) (det unit : BitVec 16) (sev : BitVec 2) (code : Byte) : Prop :=
  ∃ x ∈ e.err.events, x.det = det ∧ x.unit = unit ∧ x.sev = sev ∧ x.code = code

/-- The bytes of a bank read zero, and every other byte of a scratchpad as before. -/
def BankZeroed (d e : Device) (k : CoreId) (b : Fin 32) : Prop :=
  (∀ n, n < 131072 → readByte e .scratch (scratchKey k (b.val * 131072 + n)) = 0) ∧
  ∀ a, a < scratchKey k (b.val * 131072) ∨ scratchKey k (b.val * 131072) + 131072 ≤ a → readByte e .scratch a = readByte d .scratch a

/-- No context of a domain has a transfer whose error halts it on the present tick. -/
def NoTransferHalt (d : Device) (i : DomId) : Prop :=
  ∀ c ∈ domCtxs d i, isHalted d c = true ∨ executing d c = false ∨ transferHalts d c = []

end Sys2Proof.Claims

/-- A domain stalls before the tick that a late item blocks and goes on when nothing blocks it; halts of a whole domain,
of the wait watchdog and of a missed deadline, whose output is held no longer; a parity replay (R36, R37, R40, R55, R56, R224, R225,
R244). A restored run's pace starts with its first numbered tick (R258). -/
def Obligations.DomainsStallHaltAndMeetDeadlines : Prop :=
  (∀ (d : Device) (i : DomId) (r : Run) (it : VarItem), (getDom d i).run = some r → (getDom d i).st = .running → r.ramp = 0 → it ∈ r.items →
    (∀ k p, it.ref ≠ .overlay k p) → (∀ k, it.ref = .release k → releaseWanted (asExecuting d i) k it.ready.isSome = true) →
    it.due ≤ r.tick → readyBy it.ready r.period = false → blockers d i ≠ []) ∧
  (∀ (s : State) (i : DomId) (r : Run), (getDom s.dev i).run = some r → liveDom (getDom s.dev i) = true → r.started = true → r.stalled = false →
    r.pointDue = false → tickBegun s.dev i = false → NoTransferHalt s.dev i →
    (blockers s.dev i ≠ [] → Gives (.variableItemCheck i) s (modRun s.dev i fun r => { r with stalled := true })) ∧
    (blockers s.dev i = [] → Gives (.variableItemCheck i) s s.dev)) ∧
  (∀ (s : State) (i : DomId) (r : Run) (c : CtxId), (getDom s.dev i).run = some r → liveDom (getDom s.dev i) = true → r.started = true →
    r.stalled = false → domCtxs s.dev i = [c] → isHalted s.dev c = false → executing s.dev c = true → transferHalts s.dev c ≠ [] →
    Answers (.variableItemCheck i) s fun e => isHalted e c = true) ∧
  (∀ (s : State) (i : DomId) (r : Run) (g : Program), (getDom s.dev i).run = some r → (getDom s.dev i).prog = some g → liveDom (getDom s.dev i) = true →
    r.started = true → r.stalled = true → blockers s.dev i = [] →
    (Answers (.stallRelease i) s fun e => ∃ q, (getDom e i).run = some q ∧ q.stalled = false ∧ q.tick = r.tick ∧ q.period = r.period ∧ q.ramp = r.ramp ∧
      q.pointDue = (decide (r.ramp = 0) && isPoint g r.tick) ∧ ((getDom s.dev i).st = .running →
        q.openings = (r.openings.filter fun w => decide (r.tick < w.1)) ∧ ∀ w, r.openings = [w] → w.1 ≤ r.tick → q.window = max r.window (w.1 + w.2))) ∧
    ((∀ w ∈ r.openings, r.tick < w.1) → (∀ c ∈ domCtxs s.dev i, (getUnit s.dev c).busNext = 0 ∧ ∀ f ∈ (getUnit s.dev c).fills, f.rest = none) →
      Gives (.stallRelease i) s (modRun s.dev i fun r => { r with
        stalled := false, pointDue := r.ramp = 0 && isPoint g r.tick
        paceStart := if r.ramp = 0 ∧ r.resuming = true then nowNs s.dev else r.paceStart, resuming := r.resuming && r.ramp != 0 })) ∧
    (∀ c f off, (∀ w ∈ r.openings, r.tick < w.1) → domCtxs s.dev i = [c] → runOf s.dev c = some r → r.ramp = 0 → (getUnit s.dev c).fills = [f] → f.rest = some off →
      s.dev.scratchBad = [] → isArmed s.dev 0x100 (coreUnit c) = false → Answers (.stallRelease i) s fun e => (getUnit e c).fills = [{ f with
        data := f.data ||| (bytesEntry (readPad s.dev c off 128) <<< 1024)
        rest := none }] ∧ (getUnit e c).busBanks = (getUnit s.dev c).busBanks ||| (getUnit s.dev c).busNext ∧ e.scratch = s.dev.scratch)) ∧
  (∀ (s : State) (i : DomId), propagateDue s.dev i = true →
    Answers (.haltPropagate i) s fun e => ∀ c ∈ domCtxs s.dev i, isHalted e c = true) ∧
  (∀ (s : State) (i : DomId) (c : CtxId), propagateDue s.dev i = true → domCtxs s.dev i = [c] → takeHalts s.dev c = none →
    Answers (.haltPropagate i) s fun e => (getUnit e c).halt = {
      halted := true, tick := BitVec.ofNat 32 (tickOf s.dev c), seqMask := 0, seq := (idleRecord s.dev c).1
      fetch := physAddr (isSplit s.dev c.core) c.ctx (idleRecord s.dev c).2, code := 0x16 }) ∧
  (∀ (d : Device) (c : CtxId) (q : Sequencer) (un : List Unmet) (a : Bool), waitOrExpire d c q un a =
    if watchdogOf d c ≠ 0 ∧ (∃ x ∈ un, x.2 = false) ∧ watchdogOf d c ≤ q.wdCount + 1 then .halt 0x0B else .wait un a) ∧
  (∀ (s : State) (w : SeqId) (x : HaltReq), let c := ctxOf s.dev w
    executing s.dev c = true → mustAbort s.dev c = false → transferHalts s.dev c = [] → haltReqs s.dev c = [x] → x.code = 0x0B → x.seq = w.seq →
    Answers (.waitWatchdogExpiry w) s fun e => (getUnit e c).halt = {
      halted := true, tick := BitVec.ofNat 32 (tickOf s.dev c), seqMask := x.mask, seq := w.seq, fetch := x.fetch, code := 0x0B }) ∧
  (∀ (s : State) (i : DomId) (r : Run) (g : Program) (p : Pace), (getDom s.dev i).run = some r → (getDom s.dev i).prog = some g → g.pace = some p →
    r.pointDue = true → r.stalled = false → liveDom (getDom s.dev i) = true →
    let due := (List.range p.points.length).filter fun k => (p.points.getD k (0, 0)).1 = r.tick
    let late := due.filter fun k => decide ((r.paceStart + (p.points.getD k (0, 0)).2) * 16 < s.dev.clock.time16 + 16 * r.elapsed)
    (p.haltOnMiss = false ∨ late = [] → Gives (.deadlinePoint i) s (modRun (freeOutput s.dev i late) i fun r => { r with
      pointDue := false
      deadline := r.deadline + due.length
      miss := r.miss + BitVec.ofNat 64 late.length
      missed := r.missed ++ late })) ∧
    (p.haltOnMiss = true → late ≠ [] → Answers (.deadlinePoint i) s fun e => ∀ c ∈ domCtxs s.dev i,
      isHalted e c = true ∧ (isHalted s.dev c = false → (getUnit e c).halt.code = 0x0F))) ∧
  (∀ (d : Device) (i : DomId) (l : List Nat) (c : Cmd) (b : ReadTensorBody), c ∈ d.cmds → c.held = true → c.hdr.part = i.part → c.hdr.dom = i.dom →
    c.job = .readTensor b → b.dpoint.toNat - 1 ∈ l → { c with release := 0 } ∈ (freeOutput d i l).cmds) ∧
  (∀ (s : State) (c : CtxId) (r : Replay), (getUnit s.dev c).replays = [r] → r.checked = true → r.persistent = false → periodOf s.dev c = r.since + 3 →
    let owner : CoreId := finMod 512 (r.offset / 4194304)
    Answers (.parityResendArrival c true) s (fun e => (getUnit e c).replays = [] ∧
      (getCore e owner).replays = satAdd (getCore s.dev owner).replays 1) ∧
    (r.tries < 2 → Answers (.parityResendArrival c false) s fun e =>
      (getUnit e c).replays = [{ r with tries := r.tries + 1, since := periodOf s.dev c }] ∧
      (s.dev.err.events = [] → ∃ u, Logged e r.det u 1 0)) ∧
    (2 ≤ r.tries → s.dev.err.events = [] → Answers (.parityResendArrival c false) s fun e =>
      { r with tries := 3, persistent := true } ∈ (getUnit e c).replays ∧ ∃ u, Logged e (if r.det = 0x102 then 0x102 else 0x101) u 2 0x0C))

/-- Banks power down once their writes are written, or when the bound expires; refreshes accrue, are issued, at the opening of a window
as well, and end, which lets the requests begin that came before the next (R47–R50, R226, R228, R366). -/
def Obligations.BanksAndRefreshes : Prop :=
  (∀ (s : State) (k : CoreId) (b : Fin 32), (getCore s.dev k).pdWait.any (·.1 = b) = true → (∀ n, bankWrites s.dev k b n = 0) →
    Answers (.bankPowerdown k b) s fun e => BankZeroed s.dev e k b ∧ (∀ j, j ≠ k → getCore e j = getCore s.dev j) ∧
      getCore e k = { getCore s.dev k with
        bankOn := (getCore s.dev k).bankOn &&& ~~~ ((1 : W32) <<< b.val)
        pdWait := (getCore s.dev k).pdWait.filter fun p => p.1 != b }) ∧
  (∀ (s : State) (k : CoreId) (b : Fin 32) (limit : Nat), (getCore s.dev k).pdWait = [(b, limit)] → s.dev.err.armed = [] →
    limit ≤ (getPart s.dev (partOfCore s.dev k)).periods →
    (bankWrites s.dev k b limit = 0 → Gives (.bankPowerdownTimeout k b) s s.dev) ∧
    (bankWrites s.dev k b limit ≠ 0 → Answers (.bankPowerdownTimeout k b) s fun e => BankZeroed s.dev e k b ∧
      (getCore e k).bankOn = (getCore s.dev k).bankOn &&& ~~~ ((1 : W32) <<< b.val) ∧ (getCore e k).pdWait = [] ∧
      (getCore e k).lateWrites = satAdd (getCore s.dev k).lateWrites (bankWrites s.dev k b limit) ∧
      (∀ x : Fin 2, (getUnit e ⟨k, x⟩).stores = (getUnit s.dev ⟨k, x⟩).stores.filter fun t => !storeToward s.dev k b x t) ∧
      (bankWrites s.dev k b limit = 1 → s.dev.err.events = [] →
        Logged e 0x180 (coreUnit ⟨k, if isSplit s.dev k then finMod 2 (b.val / 16) else 0⟩) 2 0))) ∧
  (∀ (s : State) (st : Fin 8) (k : Fin 32), let h := vget s.dev.hbmStat st
    let p := vget h.pchs k
    let rest := fun (e : Device) => (∀ j, j ≠ st → vget e.hbmStat j = vget s.dev.hbmStat j) ∧
      (∀ j, j ≠ k → vget (vget e.hbmStat st).pchs j = vget h.pchs j) ∧ e.cores = s.dev.cores ∧ e.parts = s.dev.parts
    let now := p.lastAt + refreshInterval h
    (accrueDue s.dev st k = false → Gives (.refreshAccrue st k) s s.dev) ∧
    (accrueDue s.dev st k = true →
      (450 ≤ windowLeft s.dev (partOfStack s.dev st) → Answers (.refreshAccrue st k) s fun e => rest e ∧
        vget (vget e.hbmStat st).pchs k = (if p.busy = true then { p with lastAt := now, issued := p.issued + 1, queued := p.queued + 1, windowed := true }
          else { p with lastAt := now, issued := p.issued + 1, busy := true, queued := 0, windowed := true, dueAt := s.dev.clock.elapsed }) ∧
        (vget e.hbmStat st).windowed = satAdd h.windowed 1 ∧ (vget e.hbmStat st).forced = h.forced) ∧
      (windowLeft s.dev (partOfStack s.dev st) < 450 → runWaits s.dev (partOfStack s.dev st) = true →
        Answers (.refreshAccrue st k) s fun e => rest e ∧
          vget (vget e.hbmStat st).pchs k = (if p.busy = true then { p with lastAt := now, owed := 0, issued := p.issued + (p.owed + 1), queued := p.queued + (p.owed + 1), windowed := false }
            else { p with lastAt := now, owed := 0, issued := p.issued + (p.owed + 1), busy := true, queued := p.owed, windowed := false, dueAt := s.dev.clock.elapsed }) ∧
          (vget e.hbmStat st).forced = h.forced ∧ (vget e.hbmStat st).windowed = h.windowed) ∧
      (windowLeft s.dev (partOfStack s.dev st) < 450 → runWaits s.dev (partOfStack s.dev st) = false → p.owed < 7 →
        Answers (.refreshAccrue st k) s fun e => rest e ∧
          vget (vget e.hbmStat st).pchs k = { p with lastAt := now, owed := p.owed + 1 } ∧ (vget e.hbmStat st).forced = h.forced ∧ (vget e.hbmStat st).windowed = h.windowed) ∧
      (windowLeft s.dev (partOfStack s.dev st) < 450 → runWaits s.dev (partOfStack s.dev st) = false → 7 ≤ p.owed →
        Answers (.refreshAccrue st k) s fun e => rest e ∧
          vget (vget e.hbmStat st).pchs k = (if p.busy = true then { p with lastAt := now, issued := p.issued + 1, queued := p.queued + 1, windowed := false }
            else { p with lastAt := now, issued := p.issued + 1, busy := true, queued := 0, windowed := false, dueAt := s.dev.clock.elapsed }) ∧
          (vget e.hbmStat st).forced = satAdd h.forced 1 ∧ (vget e.hbmStat st).windowed = h.windowed))) ∧
  (∀ (s : State) (i : DomId) (r : Run), (getDom s.dev i).run = some r → r.window ≠ 0 → r.window ≤ r.tick →
    Gives (.refreshWindowClose i) s (modRun s.dev i fun r => { r with window := 0 })) ∧
  (∀ (d : Device) (i : DomId) (first len : Nat) (st : Fin 8) (k : Fin 32), st ∈ stacksOf d i.part →
    let p := vget (vget d.hbmStat st).pchs k
    let n := min p.owed (len / 450)
    let q := vget (vget (openWindow d i first len).hbmStat st).pchs k
    q.owed = p.owed - n ∧ q.issued = p.issued + n ∧ (0 < n → q.busy = true ∧ q.windowed = true ∧ q.queued = if p.busy = true then p.queued + n else n - 1)) ∧
  (∀ (s : State) (st : Fin 8) (k : Fin 32), let p := vget (vget s.dev.hbmStat st).pchs k
    (p.busy = false → Gives (.refreshDone st k) s s.dev) ∧
    (p.busy = true → Answers (.refreshDone st k) s fun e =>
      vget (vget e.hbmStat st).pchs k = (if p.queued = 0 then { p with busy := false } else { p with queued := p.queued - 1, dueAt := s.dev.clock.elapsed }) ∧
      (∀ j, j ≠ st → vget e.hbmStat j = vget s.dev.hbmStat j) ∧
      ∀ (c : CtxId) (f : Flight) (x : SubRequest) (m : Nat), (getUnit s.dev c).flights = [f] → f.subs = [x] → x.held = .refresh m → x.addr / 2 ^ 44 = 3 →
        (hbmMap s.dev (partOfCore s.dev c.core) (x.addr % 2 ^ 44)).1 = st → (hbmMap s.dev (partOfCore s.dev c.core) (x.addr % 2 ^ 44)).2.1 = k →
        (getUnit e c).flights = if p.issued - p.queued < m then [f] else [{ f with subs := [{ x with
          held := .free
          since := (getPart s.dev (partOfCore s.dev c.core)).periods + memLatency s.dev c x.addr - 1 }] }]))

/-- Stream instances start, take their grants and slots, land, after a halt as well, and are acknowledged; memory answers core transfers.
A late answer of a CXL port is counted and recorded (R278, R282–R288, R290, R362, R364, R370). -/
def Obligations.StreamsMoveTheirTransfers : Prop :=
  (∀ (s : State) (c : CtxId) (k : Fin 64) (x : StreamDesc), executing s.dev c = true → isHalted s.dev c = false → descAt s.dev c k.val = some x →
    let p := progAt s.dev c k.val
    p.active = false → p.inst ≤ x.repeats.toNat → x.start.toNat + p.inst * x.period.toNat ≤ tickOf s.dev c → p.startFrom ≤ tickOf s.dev c →
    Gives (.streamInstanceStart c k) s (modProg s.dev c k.val fun p => { p with active := true, xfer := 0, granted := 0 })) ∧
  (∀ (s : State) (c : CtxId) (row : GrantRow) (k : Nat) (x : StreamDesc) (g : Target), let t := tickOf s.dev c
    let p := progAt s.dev c k
    let a := memAt x p.inst p.xfer
    grantDue s.dev c row = true → grantTurn s.dev c = true → startsDue s.dev c = false → (getUnit s.dev c).flights = [] → isHalted s.dev c = false →
    (turnAfter (vget (streamOf s.dev c).lastGrant (rowIndex row))).find? (fun k => canGrant s.dev c row t k) = some k → descAt s.dev c k = some x →
    x.kind = 1 → s.dev.err.armed = [] → portLost s.dev (partOfCore s.dev c.core) a = false → resolve s.dev (partOfCore s.dev c.core) none a 64 = .ok g → heldInReset s.dev (partOfCore s.dev c.core) g = false →
    Answers (.memoryGrant c row) s fun e => (streamOf e c).landing = (streamOf s.dev c).landing ++ [{ fillItem s.dev c k x t with
        data := leBits 512 (readTarget s.dev (partOfCore s.dev c.core) g 64) }] ∧
      progAt e c k = (if p.xfer + 1 = xfers x then { p with active := false, inst := p.inst + 1, startFrom := t + 1 } else { p with xfer := p.xfer + 1 }) ∧
      vget (streamOf e c).lastGrant (rowIndex row) = finMod 64 k ∧ vget (streamOf e c).grantTick (rowIndex row) = t + 1 ∧
      e.hbm = s.dev.hbm ∧ e.cxl = s.dev.cxl ∧ e.reservoir = s.dev.reservoir ∧ e.scratch = s.dev.scratch) ∧
  (∀ (s : State) (c : CtxId) (row : GrantRow) (k : Nat) (x : StreamDesc) (o : OutItem) (v : BitVec 512) (g : Target), let t := tickOf s.dev c
    let p := progAt s.dev c k
    let a := memAt x o.inst o.xfer
    grantDue s.dev c row = true → grantTurn s.dev c = true → startsDue s.dev c = false → (getUnit s.dev c).flights = [] → isHalted s.dev c = false →
    (turnAfter (vget (streamOf s.dev c).lastGrant (rowIndex row))).find? (fun k => canGrant s.dev c row t k) = some k → descAt s.dev c k = some x →
    x.kind = 2 → spillWaiting s.dev c k t = some o → o.data = some v → (streamOf s.dev c).outbound = [o] → s.dev.err.armed = [] → portLost s.dev (partOfCore s.dev c.core) a = false →
    resolve s.dev (partOfCore s.dev c.core) none a 64 = .ok g → heldInReset s.dev (partOfCore s.dev c.core) g = false →
    Answers (.memoryGrant c row) s fun e => (streamOf e c).outbound = [{ o with
        granted := true
        held := holdAt s.dev (partOfCore s.dev c.core) a
        ackDue := t + memLatency s.dev c a
        cause := memCause (a / 2 ^ 44)
        error := none }] ∧
      (let m := writeTarget s.dev (partOfCore s.dev c.core) g (leBytes 64 v.toNat); e.hbm = m.hbm ∧ e.cxl = m.cxl ∧ e.reservoir = m.reservoir) ∧
      progAt e c k = (if p.granted + 1 = xfers x then { p with granted := p.granted + 1, active := false, inst := p.inst + 1, startFrom := t + 1 }
        else { p with granted := p.granted + 1 })) ∧
  (∀ (s : State) (c : CtxId) (row : GrantRow) (f : Flight) (y : SubRequest) (dest : LoadDest) (bc : Bool) (g : Target), let t := tickOf s.dev c
    grantDue s.dev c row = true → grantTurn s.dev c = true → startsDue s.dev c = false → (getUnit s.dev c).flights = [f] → f.subs = [y] → wantsGrant s.dev c f row t = true →
    f.req.kind = .load dest bc → f.req.predOff = false → f.error = none → s.dev.err.armed = [] →
    portLost s.dev (partOfCore s.dev c.core) y.addr = false →
    resolve s.dev (partOfCore s.dev c.core) none y.addr y.bytes = .ok g → heldInReset s.dev (partOfCore s.dev c.core) g = false →
    Answers (.memoryGrant c row) s fun e => (getUnit e c).flights = [{ f with
        subs := [{ y with granted := some t, held := holdAt s.dev (partOfCore s.dev c.core) y.addr, since := 0 }]
        data := f.data ||| BitVec.ofNat 2048 (leVal (readTarget s.dev (partOfCore s.dev c.core) g y.bytes))
        due := t + y.latency - 1 }] ∧
      (∀ q id, dest = .lq q id → lqOf e c q = dueEntry (lqOf s.dev c q) id (t + y.latency - 1)) ∧
      vget (streamOf e c).grantTick (rowIndex row) = t + 1 ∧ (streamOf e c).landing = (streamOf s.dev c).landing ∧ e.hbm = s.dev.hbm ∧ e.cxl = s.dev.cxl) ∧
  (∀ (s : State) (c : CtxId) (k : Nat) (x : StreamDesc), let t := tickOf s.dev c
    let p := progAt s.dev c k
    startsDue s.dev c = false → writeSlotDue s.dev c = true → writeSlotFor s.dev c = some k → descAt s.dev c k = some x → presented s.dev c = false →
    padPowered s.dev c (padAt x p.inst p.xfer) 64 = true →
    Answers (.writeSlot c) s fun e => (streamOf e c).slotTick = t + 1 ∧ (streamOf e c).lastWrite = finMod 64 k ∧
      (∃ i, (streamOf e c).edge = (streamOf s.dev c).edge ++ [{ read := true, slot := t, item := i, send := none }] ∧ i.desc = k ∧ i.inst = p.inst ∧ i.xfer = p.xfer ∧
        i.offset = padAt x p.inst p.xfer ∧ i.rotation = decide (x.kind = 3) ∧ i.sender = c) ∧
      (x.kind = 2 → progAt e c k = { p with xfer := p.xfer + 1 } ∧ ∃ o, (streamOf e c).outbound = (streamOf s.dev c).outbound ++ [o] ∧ o.desc = k ∧
        o.inst = p.inst ∧ o.xfer = p.xfer ∧ o.data = none ∧ o.slot = t ∧ o.granted = false) ∧
      (x.kind = 3 → (streamOf e c).outbound = (streamOf s.dev c).outbound ∧ progAt e c k =
        if p.xfer + 1 = xfers x then { p with active := false, inst := p.inst + 1, startFrom := t + 1 } else { p with xfer := p.xfer + 1 })) ∧
  (∀ (s : State) (c : CtxId) (r : EdgeReq) (rest : List EdgeReq), startsDue s.dev c = false → writeSlotDue s.dev c = false →
    (streamOf s.dev c).edge = r :: rest → r.read = true → r.send = none → edgeDue s.dev c = true → padPowered s.dev c r.item.offset 64 = true → r.item.error = none →
    s.dev.scratchBad = [] → isArmed s.dev 0x100 (coreUnit c) = false →
    let v : BitVec 512 := leBits 512 (readPad s.dev c r.item.offset 64)
    (r.item.rotation = false → Answers (.writeSlot c) s fun e => (streamOf e c).edge = rest ∧ (streamOf e c).edgeTick = tickOf s.dev c + 1 ∧
      (streamOf e c).outbound = ((streamOf s.dev c).outbound.map fun o =>
        if o.desc = r.item.desc ∧ o.inst = r.item.inst ∧ o.xfer = r.item.xfer then { o with data := some v } else o) ∧ e.scratch = s.dev.scratch) ∧
    (∀ g x, r.item.rotation = true → progOf s.dev c = some g → descAt s.dev c r.item.desc = some x → (getCore s.dev (ringNext g c).core).inReset = false → Answers (.writeSlot c) s fun e =>
      (streamOf e c).edge = rest ∧ (streamOf e (ringNext g c)).landing = (streamOf s.dev (ringNext g c)).landing ++ [{ r.item with
        offset := nextAt x r.item.inst r.item.xfer
        data := v
        lambda := r.slot + remoteLatency s.dev (isPortable s.dev c) c.core (ringNext g c).core
        cause := 2 }] ∧ e.scratch = s.dev.scratch)) ∧
  (∀ (s : State) (c : CtxId) (i : LandItem) (cmd : Instr) (rot : Bool), (cmd, rot) ∈ [(.fillLanding c, false), (.rotationArrival c, true)] →
    landDue s.dev c rot = some i →
    let noted := if rot then s.dev else noteLate s.dev c (itemAddr s.dev c i.desc i.inst i.xfer) i.lambda i.since
    (isHalted s.dev c = false → Gives cmd s (modStream noted c fun x => { x with
      landing := x.landing.map fun y => if y = i then { i with landed := some (periodOf s.dev c) } else y })) ∧
    (isHalted s.dev c = true → memoriesWf s.dev = true → padPowered s.dev c i.offset 64 = true → Answers cmd s fun e =>
      (streamOf e c).landing = (streamOf s.dev c).landing.erase i ∧ PadWrote s.dev e c i.offset (leBytes 64 i.data.toNat) ∧
      ∀ x, descAt s.dev i.sender i.desc = some x → xfers x = 1 →
        (progAt e i.sender i.desc).completed = (progAt s.dev i.sender i.desc).completed + 1 ∧ (x.fadd = true → FlagAdded s.dev e c x.flag 1)) ∧
    (isHalted s.dev c = true → padPowered s.dev c i.offset 64 = false → Answers cmd s fun e =>
      (streamOf e c).landing = (streamOf s.dev c).landing.erase i ∧ e.scratch = s.dev.scratch)) ∧
  (∀ (d : Device) (c : CtxId) (a due since : Nat), let port := (cxlMap d (partOfCore d c.core) (a % 2 ^ 44)).1
    (a / 2 ^ 44 ≠ 4 ∨ since ≠ 0 ∨ (executing d c = true ∧ tickOf d c ≤ due) → noteLate d c a due since = d) ∧
    (a / 2 ^ 44 = 4 → since = 0 → executing d c = false ∨ due < tickOf d c → d.err.events = [] →
      (vget (noteLate d c a due since).cxlPorts port).late = satAdd (vget d.cxlPorts port).late 1 ∧ (noteLate d c a due since).cores = d.cores ∧
      Logged (noteLate d c a due since) 0x132 (BitVec.ofNat 16 port.val) 1 0)) ∧
  (∀ (s : State) (c : CtxId) (i : LandItem), startsDue s.dev c = false → readSlotDue s.dev c = true →
    slotItem (streamOf s.dev c).landing (tickOf s.dev c) = some i → presented s.dev c = false → itemError s.dev c i = none →
    Gives (.readSlotWrite c) s (modStream s.dev c fun x => { x with
      landing := x.landing.erase i
      edge := x.edge ++ [{ read := false, slot := tickOf s.dev c, item := i, send := none }]
      slotTick := tickOf s.dev c + 1 })) ∧
  (∀ (s : State) (c : CtxId) (r : EdgeReq) (rest : List EdgeReq), startsDue s.dev c = false → readSlotDue s.dev c = false →
    (streamOf s.dev c).edge = r :: rest → r.read = false → edgeDue s.dev c = true → padPowered s.dev c r.item.offset 64 = true →
    r.item.error = none → memoriesWf s.dev = true →
    Answers (.readSlotWrite c) s fun e => (streamOf e c).edge = rest ∧ (streamOf e c).edgeTick = tickOf s.dev c + 1 ∧
      PadWrote s.dev e c r.item.offset (leBytes 64 r.item.data.toNat) ∧
      ∀ x, descAt s.dev r.item.sender r.item.desc = some x → xfers x = 1 →
        (progAt e r.item.sender r.item.desc).completed = (progAt s.dev r.item.sender r.item.desc).completed + 1 ∧
        (x.fadd = true → FlagAdded s.dev e c x.flag 1)) ∧
  (∀ (s : State) (c : CtxId) (o : OutItem), (streamOf s.dev c).outbound = [o] → o.granted = true → o.acked = none → o.error = none → o.ackDue ≤ tickOf s.dev c + 4 →
    heldBack s.dev c o.held o.since = false → (outLinks s.dev c o).all (linkOpen s.dev) = true → Gives (.spillAck c) s (modStream (noteLate s.dev c (itemAddr s.dev c o.desc o.inst o.xfer) o.ackDue o.since) c fun x => { x with
      outbound := [{ o with acked := some (if executing s.dev c = true ∧ tickOf s.dev c + 4 ≤ o.ackDue then 0 else periodOf s.dev c) }] })) ∧
  (∀ (s : State) (c : CtxId) (f : Flight), (getUnit s.dev c).flights = [f] → responseDue s.dev c f = true →
    (∀ dest bc, f.error = none → f.req.kind = .load dest bc → Gives (.memoryResponse c) s (modUnit
      (noteLate s.dev c f.req.addr.toNat f.due (f.subs.foldl (fun a x => max a x.since) 0)) c fun u => { u with flights := [{ f with
      arrived := true
      data := if bc then loadData .ldbc (leBytes 8 f.data.toNat) else f.data }] })) ∧
    (∀ v, f.error = none → f.req.kind = .store v → Answers (.memoryResponse c) s fun e => (getUnit e c).flights = [] ∧
      e.scratch = s.dev.scratch ∧ e.hbm = s.dev.hbm ∧ e.cxl = s.dev.cxl) ∧
    (∀ v, f.error = some v → Answers (.memoryResponse c) s fun e => (getUnit e c).flights = [{ f with arrived := true, error := some v }]))

/-- The first request waiting for a unit takes the cause and the error of a report, and no more of the device changes. -/
def Sys2Proof.Claims.Marks (d : Device) (hit : Device → CtxId → Nat → Bool) (reads : Bool) (cause : Option (Fin 7)) (error : Option Byte) : Prop :=
  ∀ f, (getUnit d ⟨0, 0⟩).flights = [f] → flightAt (hit d ⟨0, 0⟩) f = true → (reads = true → ∃ dest bc, f.req.kind = .load dest bc) →
    ∃ a, markFirst d hit reads cause error = some (⟨0, 0⟩, a, modUnit d ⟨0, 0⟩ fun u => { u with
      flights := [{ f with cause := cause.getD f.cause, error := error.or f.error }] })

/-- Reads that HBM3E memory corrects or makes again, requests that it has resent, re-reads of CXL memory, CXL ports that train, go down
and retry, and the die links (R365, R367, R369, R416, R471). -/
def Obligations.MemoryLinksFailAndRecover : Prop :=
  (∀ d hit reads cause error, Marks d hit reads cause error) ∧
  (∀ (s : State) (st : Fin 8) (c : CtxId) (a : Nat) (d : Device), let hit := fun (d : Device) (c : CtxId) (a : Nat) => atStack d c st a
    let h := vget s.dev.hbmStat st
    let u : BitVec 16 := BitVec.ofNat 16 st.val
    let Counts := fun (r : SecondTry) (reads : Bool) (cause : Option (Fin 7)) (error : Option Byte) (x : HbmStack) (dets : List (BitVec 16)) =>
      markFirst s.dev hit reads cause error = some (c, a, d) → Answers (.hbmReread st r) s fun e =>
        e.cores = d.cores ∧ e.cmds = s.dev.cmds ∧ e.hbmStat = vset s.dev.hbmStat st x ∧ e.err.events.map (·.det) = dets ∧
        ∀ y ∈ e.err.events, y.unit = u ∧ (y.code ≠ 0 → y.det = 0x142)
    let more := satAdd (satAdd h.parity 1) 1
    s.dev.err.events = [] → s.dev.err.armed = [] →
    Counts .corrected true none none { h with corrected := satAdd h.corrected 1 } [0x140] ∧
    Counts (.reread .clean) true (some 5) none { h with rereadOk := satAdd h.rereadOk 1 } [0x141] ∧
    Counts (.reread .corrected) true (some 5) none { h with corrected := satAdd h.corrected 1, rereadOk := satAdd h.rereadOk 1 } [0x140, 0x141] ∧
    Counts (.reread .uncorrectable) true (some 5) (some 0x0C) { h with uncorr := satAdd h.uncorr 1 } [0x142] ∧
    Counts .resent false (some 5) none { h with parity := satAdd h.parity 1 } [0x143] ∧
    Counts (.resentReread .clean) false (some 5) none { h with parity := more, rereadOk := satAdd h.rereadOk 1 } [0x143, 0x143, 0x141] ∧
    Counts (.resentReread .uncorrectable) false (some 5) (some 0x0C) { h with parity := more, uncorr := satAdd h.uncorr 1 } [0x143, 0x143, 0x142] ∧
    (∀ m, commandIn s.dev (partOfStack s.dev st) 3 true = some m →
      (markFirst s.dev hit true (some 5) none = none → Answers (.hbmReread st (.reread .clean)) s fun e =>
        e.cores = s.dev.cores ∧ e.cmds = s.dev.cmds ∧ e.hbmStat = vset s.dev.hbmStat st { h with rereadOk := satAdd h.rereadOk 1 } ∧ Logged e 0x141 u 1 0) ∧
      (markFirst s.dev hit true (some 5) (some 0x0C) = none → Answers (.hbmReread st (.reread .uncorrectable)) s fun e =>
        e.cmds = (modCmd s.dev m.handle fun x => { x with failed := true }).cmds ∧ e.cores = s.dev.cores ∧
        e.hbmStat = vset s.dev.hbmStat st { h with uncorr := satAdd h.uncorr 1 } ∧ Logged e 0x142 u 2 0))) ∧
  (∀ (s : State) (k : Fin 4) (c : CtxId) (a : Nat) (d : Device), let hit := fun (d : Device) (c : CtxId) (a : Nat) => atPort d c k a
    let x := vget s.dev.cxlPorts k
    let u : BitVec 16 := BitVec.ofNat 16 k.val
    s.dev.err.events = [] →
    (markFirst s.dev hit true (some 5) none = some (c, a, d) → Answers (.cxlPoisonReread k true) s fun e => e.cores = d.cores ∧
      e.cxlPorts = vset s.dev.cxlPorts k { x with poison := satAdd x.poison 1 } ∧ Logged e 0x131 u 1 0) ∧
    (markFirst s.dev hit true (some 5) (some 0x0C) = some (c, a, d) → Answers (.cxlPoisonReread k false) s fun e => e.cores = d.cores ∧
      e.cxlPorts = vset s.dev.cxlPorts k { x with poison := satAdd x.poison 2 } ∧ Logged e 0x131 u 2 0x0C) ∧
    (∀ m, commandIn s.dev (partOfPort s.dev k) 4 true = some m →
      (markFirst s.dev hit true (some 5) none = none → Answers (.cxlPoisonReread k true) s fun e =>
        e.cores = s.dev.cores ∧ e.cmds = s.dev.cmds ∧ e.cxlPorts = vset s.dev.cxlPorts k { x with poison := satAdd x.poison 1 } ∧ Logged e 0x131 u 1 0) ∧
      (markFirst s.dev hit true (some 5) (some 0x0C) = none → Answers (.cxlPoisonReread k false) s fun e =>
        e.cmds = (modCmd s.dev m.handle fun x => { x with failed := true }).cmds ∧ e.cores = s.dev.cores ∧
        e.cxlPorts = vset s.dev.cxlPorts k { x with poison := satAdd x.poison 2 } ∧ Logged e 0x131 u 2 0))) ∧
  (∀ (s : State) (k : Fin 4) (cap : BitVec 16) (speed width : Byte), let p := partOfPort s.dev k
    s.dev.rb.step = 5 → (vget s.dev.cxlPorts k).st = .training ∨ (vget s.dev.cxlPorts k).st = .down →
    let runs := fun (d : Device) => { d with clock := { d.clock with stopped := d.clock.stopped &&& ~~~ ((1 : BitVec 26) <<< (20 + k.val)) } }
    let up := fun (st : CxlState) => runs (modPort s.dev k fun x => { x with capGib := cap, speed := speed, width := width, st := st })
    (width.toNat < 16 ∨ speed.toNat < 64 → Gives (.cxlPortUp k cap speed width) s (modPart (up .held) p fun x => { x with cxlValid := false, cxlUnits := 0 })) ∧
    (16 ≤ width.toNat → 64 ≤ speed.toNat → (∃ i ∈ domsOf p, (getDom s.dev i).st ≠ .empty) →
      Gives (.cxlPortUp k cap speed width) s (up (if (getPart s.dev p).cxlValid then .mapped else .up))) ∧
    (16 ≤ width.toNat → 64 ≤ speed.toNat → (∀ i ∈ domsOf p, (getDom s.dev i).st = .empty) → s.dev.config = 4 →
      Answers (.cxlPortUp k cap speed width) s fun e =>
        vget e.cxlPorts k = { vget s.dev.cxlPorts k with capGib := cap, speed := speed, width := width, st := .mapped } ∧
        getPart e p = { getPart s.dev p with cxlValid := decide (0 < cap.toNat), cxlUnits := BitVec.ofNat 16 (4 * cap.toNat) } ∧ e.clock = (runs s.dev).clock)) ∧
  (∀ (s : State) (k : Fin 4), (vget s.dev.cxlPorts k).st ≠ .down → s.dev.err.events = [] → Answers (.cxlPortDown k) s fun e =>
    e.cxlPorts = vset s.dev.cxlPorts k { vget s.dev.cxlPorts k with st := .down } ∧ Logged e 0x133 (BitVec.ofNat 16 k.val) 3 0 ∧
    e.clock.stopped = s.dev.clock.stopped ||| ((1 : BitVec 26) <<< (20 + k.val)) ∧
    (∀ c f, (getUnit s.dev c).flights = [f] → flightAt (atPort s.dev c k) f = true → (getUnit e c).flights = [{ f with
      subs := f.subs.map fun x => if x.granted.isSome && atPort s.dev c k x.addr then { x with held := .lost } else x }]) ∧
    ∀ c i, (streamOf s.dev c).landing = [i] → i.rotation = false → i.landed = none → atPort s.dev c k (itemAddr s.dev c i.desc i.inst i.xfer) = true →
      (streamOf e c).landing = [{ i with held := .lost }]) ∧
  (∀ (s : State) (k : Fin 4), (vget s.dev.cxlPorts k).st ≠ .down → (vget s.dev.cxlPorts k).st ≠ .training → s.dev.err.events = [] →
    Answers (.cxlLinkRetry k) s fun e => e.cxlPorts = vset s.dev.cxlPorts k { vget s.dev.cxlPorts k with
        crc := satAdd (vget s.dev.cxlPorts k).crc 1, retries := satAdd (vget s.dev.cxlPorts k).retries 1 } ∧
      (∀ c f, (getUnit s.dev c).flights = [f] → flightAt (atPort s.dev c k) f = true → (getUnit e c).flights = [{ f with cause := 4 }]) ∧
      Logged e 0x130 (BitVec.ofNat 16 k.val) 1 0) ∧
  (∀ (s : State) (k : Fin 8), let l := vget s.dev.dieLinks k
    l.up = true → l.retraining = false → s.dev.err.events = [] → Answers (.dieLinkRetry k) s fun e =>
      e.dieLinks = vset s.dev.dieLinks k (if l.fails < 15 then { l with fails := l.fails + 1 } else { l with fails := 0, retraining := true }) ∧
      (∀ c f, (getUnit s.dev c).flights = [f] → k ∈ sentLinks s.dev c f → (getUnit e c).flights = [{ f with cause := 2 }]) ∧
      Logged e 0x110 (BitVec.ofNat 16 k.val) 1 0) ∧
  (∀ (s : State) (k : Fin 8), let l := vget s.dev.dieLinks k
    l.up = true → l.retraining = true →
    (s.dev.err.events = [] → Answers (.dieLinkFailure k) s fun e => e.dieLinks = vset s.dev.dieLinks k { l with up := false, retraining := false } ∧
      e.cores = s.dev.cores ∧ Logged e 0x111 (BitVec.ofNat 16 k.val) 3 0) ∧
    (isArmed s.dev 0x111 (BitVec.ofNat 16 k.val) = false → Gives (.dieLinkRetrainDone k) s { s.dev with
      dieLinks := vset s.dev.dieLinks k { l with retraining := false, fails := 0 } }))

/-! ### Buoth Link and the collective engine -/

namespace Sys2Proof.Claims

/-- A plane that is up receives a good frame of the protocol's version and of a kind (R333, R334). -/
def Heard (s : State) (p : Fin 8) (f : FrameBits) (kind : Nat) : Prop :=
  planeUp (getPlane s.dev p).st = true ∧ frameOk f = true ∧ frameVersion f = 1 ∧ frameKind f = kind

/-- The frame is the next sequenced one of an ACTIVE plane, of no injected failure, and goes to partition q (R334, R335). -/
def Routed (s : State) (p : Fin 8) (f : FrameBits) (kind : Nat) (q : PartId) : Prop :=
  Heard s p f kind ∧ (getPlane s.dev p).st = .active ∧ isArmed s.dev 0x120 (BitVec.ofNat 16 p.val) = false ∧
    frameSeq f = (getPlane s.dev p).expect ∧ partOfAddr s.dev (frameDst f) = some q

/-- A routed frame is accepted, and its buffer entry freed (R335, R338). -/
def Accepted (s : State) (p : Fin 8) (e : Device) (n : Nat) : Prop :=
  (getPlane e p).expect = (getPlane s.dev p).expect + 1 ∧ (getPlane e p).goodTime = elapsedNs s.dev ∧
    vget (getPlane e p).freed (finMod 8 n) = vget (getPlane s.dev p).freed (finMod 8 n) + 1

/-- The plane has gone down: its link starts afresh, and frames retained on an ACTIVE one go before new ones (R336, R340, R345). -/
def Downed (d e : Device) (p : Fin 8) : Prop :=
  (getPlane e p).st = (if d.fab.planeEn.getLsbD p.val = false then .disabled else if d.fab.fabEn = true then .training else .down) ∧
  (getPlane e p).retained = [] ∧ (getPlane e p).expect = 0 ∧ (getPlane e p).nextSeq = 0 ∧ (∀ q, q ≠ p → getPlane e q = getPlane d q) ∧
  e.fab.moved = d.fab.moved ++ (if (getPlane d p).st = .active then (getPlane d p).retained.map fun r => { r.2 with resend := true } else []) ∧
  (∀ q, (getPart e q).txq = (getPart d q).txq) ∧
  (getPlane e p).retrains = (if (getPlane d p).beenActive = true ∧ d.fab.planeEn.getLsbD p.val = true then satAdd (getPlane d p).retrains 1 else (getPlane d p).retrains) ∧
  (getPlane e p).posn = (getPlane d p).posn ∧ Logged e 0x123 (BitVec.ofNat 16 p.val) 1 0

/-- The plane carries an idle frame in the position in hand, and any NAK that was due (R331, R335). -/
def IdlePosition (d : Device) (p : Fin 8) : Device := modPlane d p fun x => { x with
  lastSent := buildFrame d p 0 false false 0 0 0 p.val 0
  nakDue := false
  naks := if x.nakDue then satAdd x.naks 1 else x.naks
  posn := x.posn + 1 }

/-- The device when the plane comes to a position from another: an idle frame has carried any NAK that was due (R331). -/
def CameTo (d : Device) (p : Fin 8) (n : BitVec 24) : Device := if (getPlane d p).posn = n then d else modPlane d p fun x => { x with nakDue := false }

end Sys2Proof.Claims

/-- Frames carry their fields and FCS; good ones bring acknowledgement and credit, failed ones ask for a resend, others are
refused (R332–R335, R338). -/
def Obligations.FramesAreCheckedAndAcknowledged : Prop :=
  (∀ (d : Device) (p : Fin 8) (kind seq dst src first : Nat) (resent retried : Bool) (body : BitVec 1792),
    kind < 16 → seq < 4096 → dst < 2 ^ 18 → src < 2 ^ 18 → let f := buildFrame d p kind resent retried seq dst src first body
    frameOk f = true ∧ frameVersion f = 1 ∧ frameKind f = kind ∧ frameSeq f = BitVec.ofNat 12 seq ∧ frameDst f = dst ∧ frameSrc f = src ∧
      frameBody f = body ∧ frameResent f = resent ∧ frameRetried f = retried) ∧
  (∀ (s : State) (p : Fin 8) (f : FrameBits) (n : BitVec 16), Heard s p f 0 → isArmed s.dev 0x121 (BitVec.ofNat 16 p.val) = false →
    let x := getPlane s.dev p
    let w := frameField f 12 2
    let kept := if w / 2 ^ 15 % 2 = 0 then x.retained else freeUpTo (BitVec.ofNat 12 (w % 4096)) x.retained
    Answers (.idleFrame p ⟨f, n⟩) s fun e => (getPlane e p).goodTime = elapsedNs s.dev ∧ (getPlane e p).retained = kept ∧ (getPlane e p).corrected = satAdd x.corrected n.toNat ∧
      (∀ i : Fin 8, vget (getPlane e p).limit i = BitVec.ofNat 12 (frameField f 240 12 / 2 ^ (12 * i.val))) ∧
      (w / 2 ^ 15 % 2 = 1 → w / 2 ^ 14 % 2 = 1 → (getPlane e p).resendq = kept) ∧
      (getPlane e p).expect = x.expect ∧ (getPlane e p).st = x.st ∧ (∀ q, q ≠ p → getPlane e q = getPlane s.dev q) ∧ e.parts = s.dev.parts) ∧
  (∀ (s : State) (p : Fin 8) (unc : BitVec 16), let x := getPlane s.dev p
    planeUp x.st = true → s.dev.err.events = [] → Answers (.buothFrameFailed p unc) s fun e => getPlane e p = { x with
      failed := satAdd x.failed 1
      uncorr := satAdd x.uncorr unc.toNat
      nakDue := true
      awaiting := true } ∧ Logged e 0x120 (BitVec.ofNat 16 p.val) 1 0 ∧ e.cores = s.dev.cores) ∧
  (∀ (s : State) (p : Fin 8) (f : FrameBits) (n : BitVec 16), let x := getPlane s.dev p
    planeUp x.st = true → isArmed s.dev 0x120 (BitVec.ofNat 16 p.val) = false → s.dev.err.events = [] →
    (∀ cmd ∈ [Instr.assign p f, .kill p f, .beacon p f, .channelMessageFrame p f, .channelCreditFrame p f, .collectiveFrame p f], frameOk f = false →
      Answers cmd s fun e => getPlane e p = { x with failed := satAdd x.failed 1, nakDue := true, awaiting := true } ∧ Logged e 0x120 (BitVec.ofNat 16 p.val) 1 0) ∧
    (frameOk f = false → Answers (.idleFrame p ⟨f, n⟩) s fun e => getPlane e p = { x with
      corrected := satAdd x.corrected n.toNat, failed := satAdd x.failed 1, nakDue := true, awaiting := true } ∧ Logged e 0x120 (BitVec.ofNat 16 p.val) 1 0) ∧
    (∀ cmd ∈ [Instr.idleFrame p ⟨f, n⟩, .assign p f, .kill p f, .beacon p f], frameOk f = true → frameVersion f ≠ 1 → Answers cmd s fun e =>
      (getPlane e p).refused = satAdd x.refused 1 ∧ (getPlane e p).expect = x.expect ∧ Logged e 0x121 (BitVec.ofNat 16 p.val) 0 0) ∧
    (∀ (cmd : Instr) (kind credit : Nat), (cmd, kind, credit) ∈ [(Instr.channelMessageFrame p f, 1, 0), (.channelCreditFrame p f, 2, 0), (.collectiveFrame p f, 3, 4)] →
      frameOk f = true → frameKind f = kind → frameSeq f = x.expect → frameVersion f ≠ 1 ∨ partOfAddr s.dev (frameDst f) = none ∨ x.st ≠ .active → Answers cmd s fun e =>
        (getPlane e p).refused = satAdd x.refused 1 ∧ (getPlane e p).expect = x.expect + 1 ∧
        (let b : Fin 8 := finMod 8 (credit + frameDst f % 4); vget (getPlane e p).freed b = vget x.freed b + 1) ∧
        ((e.err.events.filter fun y => y.det ≠ 0x162).map (·.det)) = (if kind = 1 ∧ frameField f 19 1 = 0 then [0x121, 0x122] else [0x121]) ∧ e.cores = s.dev.cores)) ∧
  (∀ (s : State) (p : Fin 8) (f : FrameBits) (cmd : Instr) (kind : Nat), (cmd, kind) ∈ [(Instr.channelMessageFrame p f, 1), (.channelCreditFrame p f, 2), (.collectiveFrame p f, 3)] →
    Heard s p f kind → isArmed s.dev 0x120 (BitVec.ofNat 16 p.val) = false → let x := getPlane s.dev p
    (frameSeq f ≠ x.expect → (x.expect - 1 - frameSeq f).toNat < 2048 → Answers cmd s fun e =>
      (getPlane e p).expect = x.expect ∧ (getPlane e p).nakDue = x.nakDue ∧ e.parts = s.dev.parts ∧ e.cores = s.dev.cores) ∧
    (frameSeq f ≠ x.expect → 2048 ≤ (x.expect - 1 - frameSeq f).toNat → Answers cmd s fun e => (getPlane e p).expect = x.expect ∧
      (getPlane e p).nakDue = (x.nakDue || !x.awaiting) ∧ (getPlane e p).awaiting = true ∧ e.parts = s.dev.parts ∧ e.cores = s.dev.cores))

/-- Planes train and go down, frames wait, leave in the positions of their partitions, those of a plane that went down first, and leave
again, and FAB_CTRL rules the planes (R303, R331, R335, R336, R340, R342, R344, R345). -/
def Obligations.PlanesTrainFailAndResend : Prop :=
  (∀ (s : State) (p : Fin 8), (getPlane s.dev p).st = .training → Answers (.planeLinked p) s fun e => (getPlane e p).st = .linked ∧
    (getPlane e p).lanesOk = 0xFFFF ∧ (getPlane e p).goodTime = elapsedNs s.dev ∧ (getPlane e p).ackTime = elapsedNs s.dev ∧ (getPlane e p).retained = [] ∧
    (∀ q, q ≠ p → getPlane e q = getPlane s.dev q) ∧ e.clock = { s.dev.clock with stopped := s.dev.clock.stopped &&& ~~~ ((1 : BitVec 26) <<< (12 + p.val)) } ∧
    e.parts = s.dev.parts) ∧
  (∀ (s : State) (p : Fin 8) (lanes : BitVec 16), planeUp (getPlane s.dev p).st = true → lanes ≠ 0 → s.dev.err.events = [] →
    Answers (.lossOfLanes p lanes) s fun e => Downed s.dev e p ∧ (getPlane e p).lanesOk = (getPlane s.dev p).lanesOk &&& ~~~ lanes ∧
      e.clock.stopped = s.dev.clock.stopped ||| ((1 : BitVec 26) <<< (12 + p.val))) ∧
  (∀ (s : State) (p : Fin 8), planeUp (getPlane s.dev p).st = true →
    (getPlane s.dev p).goodTime + 20000 ≤ elapsedNs s.dev ∨ 16 ≤ (getPlane s.dev p).tries → s.dev.err.events = [] →
    Answers (.linkSilenceTimeout p) s fun e => Downed s.dev e p ∧ (getPlane e p).lanesOk = (getPlane s.dev p).lanesOk) ∧
  (∀ (s : State) (p : Fin 8), planeUp (getPlane s.dev p).st = true → (getPlane s.dev p).retained ≠ [] →
    (getPlane s.dev p).ackTime + 4000 ≤ elapsedNs s.dev → Gives (.retryTimeout p) s (modPlane s.dev p fun x => { x with
      resendq := x.retained
      ackTime := elapsedNs s.dev })) ∧
  (∀ (s : State) (q : PartId) (p : Fin 8), let l := getPlane s.dev p
    q.val < s.dev.config → ownPosition s.dev q l.posn = true →
    (l.st = .linked ∨ l.st = .isolated → Gives (.fabricFrameSend q p) s (IdlePosition s.dev p)) ∧
    (l.st = .active →
      (∀ n f rest, l.resendq = (n, f) :: rest → f.part = q → Answers (.fabricFrameSend q p) s fun e => (getPlane e p).resendq = rest ∧
        (getPlane e p).resends = satAdd l.resends 1 ∧ (getPlane e p).retained = l.retained ∧ (getPlane e p).nakDue = false ∧ (getPlane e p).posn = l.posn + 1 ∧
        (getPlane e p).tries = (if l.retained.head?.map (·.1) = some n then l.tries + 1 else l.tries) ∧
        (getPlane e p).lastSent = buildFrame s.dev p f.kind.toNat true true n.toNat f.dst.toNat (fabAddr s.dev f.part) (f.first.getD p).val f.body) ∧
      (∀ n f rest, l.resendq = (n, f) :: rest → f.part ≠ q → Gives (.fabricFrameSend q p) s (IdlePosition s.dev p)) ∧
      (∀ f, l.resendq = [] → l.retained.length < 2048 → selectPlane s.dev f.nominal = some p → hasCredit l f = true →
        (s.dev.fab.moved = [] ∧ (getPart s.dev q).txq = [f] ∧ f.resend = false ∧ (f.kind = 3 → domStalled s.dev f.dom = false)) ∨
          (s.dev.fab.moved = [f] ∧ f.resend = true ∧ f.part = q) →
        Answers (.fabricFrameSend q p) s fun e => (if f.resend then e.fab.moved = [] ∧ (getPart e q).txq = (getPart s.dev q).txq else (getPart e q).txq = []) ∧
          (getPlane e p).retained = l.retained ++ [(l.nextSeq, { f with first := some (f.first.getD p) })] ∧
          (getPlane e p).nextSeq = l.nextSeq + 1 ∧ vget (getPlane e p).sent (creditIndex f) = vget l.sent (creditIndex f) + 1 ∧ (getPlane e p).posn = l.posn + 1 ∧
          (getPlane e p).lastSent = buildFrame s.dev p f.kind.toNat false f.resend l.nextSeq.toNat f.dst.toNat (fabAddr s.dev f.part) (f.first.getD p).val f.body) ∧
      (l.resendq = [] → s.dev.fab.moved = [] → (getPart s.dev q).txq = [] → Gives (.fabricFrameSend q p) s (IdlePosition s.dev p)) ∧
      (∀ f, l.resendq = [] → s.dev.fab.moved = [f] → f.part ≠ q → selectPlane s.dev f.nominal = some p → hasCredit l f = true →
        Gives (.fabricFrameSend q p) s (IdlePosition s.dev p)) ∧
      (∀ f, l.resendq = [] → s.dev.fab.moved = [] → (getPart s.dev q).txq = [f] → hasCredit l f = false ∨ (f.kind = 3 ∧ domStalled s.dev f.dom = true) →
        Gives (.fabricFrameSend q p) s (IdlePosition s.dev p)))) ∧
  (∀ (s : State) (q : PartId) (p : Fin 8), planeUp (getPlane s.dev p).st = true → q.val < s.dev.config → s.dev.config = 1 ∨ s.dev.config = 2 ∨ s.dev.config = 4 →
    Answers (.fabricFrameSend q p) s fun e => ownPosition s.dev q ((getPlane e p).posn - 1) = true ∧ (getPlane e p).nakDue = false) ∧
  (∀ (s : State) (v : W64), s.dev.rb.boot = .ready → Answers (.fabCtrlWrite v) s fun e =>
    e.fab.planeEn = v.extractLsb' 16 8 ∧ e.fab.killEn = v.getLsbD 2 ∧
    (anyLoaded s.dev = true → e.fab.fabEn = s.dev.fab.fabEn ∧ e.fab.addrSrc = s.dev.fab.addrSrc ∧ e.fab.hostIndex = s.dev.fab.hostIndex ∧
      e.fab.valid = s.dev.fab.valid ∧ e.fab.index = s.dev.fab.index) ∧
    (anyLoaded s.dev = false → e.fab.fabEn = v.getLsbD 0 ∧ e.fab.addrSrc = v.getLsbD 1 ∧ e.fab.hostIndex = v.extractLsb' 48 16 ∧
      e.fab.valid = (v.getLsbD 1 || (v.getLsbD 0 && s.dev.fab.valid)) ∧
      e.fab.index = if v.getLsbD 1 = true then v.extractLsb' 48 16 else if v.getLsbD 0 = true then s.dev.fab.index else 0) ∧
    (∀ p : Fin 8, let st := (getPlane s.dev p).st
      (getPlane e p).st = if v.getLsbD (16 + p.val) = false then .disabled else if e.fab.fabEn = false then .down
        else if st = .down ∨ st = .disabled then .training else st) ∧
    e.cores = s.dev.cores)

/-- Assign, Hello, Kill and beacon frames (R341, R342, R349–R353, R355). -/
def Obligations.LinkLocalFramesAct : Prop :=
  (∀ (s : State) (p : Fin 8) (f : FrameBits), Heard s p f 0xB → let fab := s.dev.fab
    let idx : BitVec 16 := BitVec.ofNat 16 (frameField f 16 2)
    let fid : W32 := BitVec.ofNat 32 (frameField f 20 4)
    (frameField f 24 1 = p.val → fab.addrSrc = false → fab.valid = false → Answers (.assign p f) s fun e =>
      e.fab.valid = true ∧ e.fab.index = idx ∧ e.fab.fabricId = fid ∧ (getPlane e p).st = .active ∧ e.fab.mismatch = fab.mismatch) ∧
    (frameField f 24 1 = p.val → (if fab.addrSrc then idx = fab.index else fab.valid = true ∧ idx = fab.index ∧ fid = fab.fabricId) →
      Answers (.assign p f) s fun e => (getPlane e p).st = .active ∧ e.fab.index = fab.index ∧ e.fab.mismatch = fab.mismatch) ∧
    (frameField f 24 1 ≠ p.val ∨ (if fab.addrSrc then idx ≠ fab.index else fab.valid = true ∧ (idx ≠ fab.index ∨ fid ≠ fab.fabricId)) →
      Answers (.assign p f) s fun e => (getPlane e p).st = .isolated ∧ (getPlane e p).expect = (getPlane s.dev p).expect ∧
        (getPlane e p).nextSeq = (getPlane s.dev p).nextSeq ∧ e.fab.mismatch = true ∧ e.fab.index = fab.index ∧
        ∀ q, q ≠ p → getPlane e q = getPlane s.dev q)) ∧
  (∀ (s : State) (p : Fin 8), let x := getPlane s.dev p
    (x.st = .linked ∨ (x.st = .active ∧ Machine.controlAt x.posn 8 = true) → Gives (.hello p) s (modPlane s.dev p fun x => { x with
      lastSent := buildFrame s.dev p 0xA false false 0 0 0 p.val (helloBody s.dev p)
      nakDue := false
      naks := if x.nakDue then satAdd x.naks 1 else x.naks
      posn := x.posn + 1 })) ∧
    (x.st = .active → Machine.controlAt x.posn 8 = false → Answers (.hello p) s fun e => Machine.controlAt ((getPlane e p).posn - 1) 8 = true ∧
      (getPlane e p).lastSent = buildFrame (modPlane s.dev p fun x => { x with nakDue := false }) p 0xA false false 0 0 0 p.val (helloBody s.dev p) ∧
      (getPlane e p).nakDue = false)) ∧
  (∀ (s : State) (p : Fin 8) (f : FrameBits) (q : PartId), Heard s p f 0xC → (getPlane s.dev p).st = .active → s.dev.fab.killEn = true →
    q.val < s.dev.config → frameField f 16 1 / 2 ^ q.val % 2 = 1 → killKnown s.dev (BitVec.ofNat 64 (frameField f 18 8)) = false → 4 ≤ s.dev.rb.step →
    mapped s.dev 7 2 → NoneRaised s.dev → Answers (.kill p f) s fun e => (getPart e q).resetting = true ∧ e.rb.source = s.dev.rb.source ||| 0x080 ∧
      e.fab.kid = BitVec.ofNat 64 (frameField f 18 8) ∧ (BitVec.ofNat 64 (frameField f 18 8), elapsedNs s.dev) ∈ e.fab.kills) ∧
  (∀ (s : State) (p : Fin 8) (f : FrameBits), Heard s p f 0xC →
    (∃ t, (BitVec.ofNat 64 (frameField f 18 8), t) ∈ s.dev.fab.kills ∧ elapsedNs s.dev ≤ t + 100000) → Answers (.kill p f) s fun e => e.parts = s.dev.parts ∧ e.cores = s.dev.cores ∧ e.rb = s.dev.rb) ∧
  (∀ (s : State) (p : Fin 8) (f : FrameBits), let n := answerPosition (frameField f 28 2)
    Heard s p f 8 → (getPlane s.dev p).st ≠ .active → Answers (.beacon p f) s fun e => (getPlane e p).posn = n + 1 ∧
    (getPlane e p).lastSent = buildFrame (CameTo s.dev p n) p 9 false false 0 0 0 p.val
      (answerBody (engineTime s.dev p) (frameField f 28 2) s.dev.fab.aligned (s.dev.clock.corr = 0) []) ∧ e.clock = s.dev.clock ∧ e.fab.beacons = s.dev.fab.beacons) ∧
  (∀ (s : State) (p : Fin 8) (f : FrameBits), let corr := (BitVec.ofNat 32 (frameField f 24 4)).toInt
    let bits := frameField f 30 1
    let at_ := answerPosition (frameField f 28 2)
    let n := if -64 ≤ corr ∧ corr ≤ 64 then s.dev.fab.inRange + 1 else 0
    Heard s p f 8 → (getPlane s.dev p).st = .active → bits % 2 = 1 → frameField f 31 1 = 0 →
    (∀ q : Fin 8, q.val < p.val → planeActive s.dev q = false ∨ (getPlane s.dev q).tvalid = false) →
    Answers (.beacon p f) s fun e => e.fab.timePlane = p ∧ e.fab.beacons = s.dev.fab.beacons + 1 ∧ (getPlane e p).tvalid = true ∧
      (getPlane e p).posn = at_ + 1 ∧ (getPlane e p).lastSent = buildFrame (CameTo s.dev p at_) p 9 false false 0 0 0 p.val
        (answerBody (engineTime s.dev p) (frameField f 28 2) s.dev.fab.aligned (s.dev.clock.corr = 0) (arrivalEntries s.dev)) ∧
      (bits / 2 % 2 = 0 → e.clock = s.dev.clock ∧ e.fab.sinceCorr = s.dev.fab.sinceCorr + 1 ∧
        e.fab.aligned = (s.dev.fab.aligned && decide (s.dev.fab.sinceCorr + 1 < 64))) ∧
      (s.dev.clock.corr ≠ 0 → e.clock = s.dev.clock) ∧
      (bits / 2 % 2 = 1 → s.dev.clock.corr = 0 →
        e.clock = (if 1024 < corr then { s.dev.clock with time16 := min (s.dev.clock.time16 + corr.toNat) (2 ^ 68 - 1) }
          else if corr < -1024 then { s.dev.clock with half := (-corr).toNat, corr := 2 }
          else if corr = 0 then s.dev.clock else { s.dev.clock with slew := corr, corr := 1 }) ∧
        e.fab.sinceCorr = 0 ∧ e.fab.inRange = n ∧ (1024 < corr → e.fab.stepped = true) ∧ e.fab.corrLast = BitVec.ofInt 32 corr ∧
        e.fab.aligned = (if corr < -1024 ∨ 1024 < corr then false else s.dev.fab.aligned || decide (16 ≤ n))))

/-- Channel messages and credit reach their partitions, those of a run that has not begun and to a core in reset as well, and collective
instances start and use their frames, which a full receive buffer keeps waiting (R302, R303, R310, R317, R318, R347, R348, R443). What
becomes of a message before the run is log entry 103. -/
def Obligations.RoutedFramesReachTheirPartitions : Prop :=
  (∀ (s : State) (p : Fin 8) (f : FrameBits) (q : PartId) (i : DomId) (x : InEntry), Routed s p f 1 q → frameRetried f = false →
    isArmed s.dev 0x122 (BitVec.ofNat 16 q.val) = false → let b := frameBodyBytes f
    let src : BitVec 18 := BitVec.ofNat 18 (frameSrc f)
    let id : Byte := BitVec.ofNat 8 (le b 0 1)
    let seq : W32 := BitVec.ofNat 32 (le b 4 4)
    let len := le b 2 1
    let us := (List.range len).map fun k => (leBits 512 (slice b (16 + 64 * k) 64) : BitVec 512)
    let m : Assembling := {
      src := src, inid := id, mseq := seq, sender := BitVec.ofNat 10 (le b 8 2), chan := BitVec.ofNat 8 (le b 10 1), len := len
      units := (List.range len).map fun k => (k, us.getD k 0), held := false, retried := false, refused := false }
    let amount : W32 := if x.fper then BitVec.ofNat 32 len else 1
    inboundEntry s.dev q src id = some (i, x) → (getDom s.dev i).assembling = [] → nextMseq (getDom s.dev i) m = seq → le b 1 1 = len → le b 3 1 = 0 →
    (receives s.dev i = false → Answers (.channelMessageFrame p f) s fun e => Accepted s p e q.val ∧ (getDom e i).assembling = [m] ∧ e.cores = s.dev.cores) ∧
    (receives s.dev i = true → (getCore s.dev x.target.core).inReset = true → Answers (.channelMessageFrame p f) s fun e => Accepted s p e q.val ∧
      (getDom e i).assembling = [] ∧ nextMseq (getDom e i) m = seq + 1 ∧ e.cores = s.dev.cores ∧
      (s.dev.err.events = [] → Logged e 0x181 (coreUnit x.target) 2 0)) ∧
    (receives s.dev i = true → (getCore s.dev x.target.core).inReset = false →
    (x.kind = 1 → readsDue s.dev x.target = false → (mqOf s.dev x.target x.queue.val).occ + placeCost (mqOf s.dev x.target x.queue.val) len ≤ 64 →
      Answers (.channelMessageFrame p f) s fun e => Accepted s p e q.val ∧ (getDom e i).assembling = [] ∧ nextMseq (getDom e i) m = seq + 1 ∧
        mqOf e x.target x.queue.val = place (mqOf s.dev x.target x.queue.val) us id m.sender (settleTick s.dev x.target) (some (src, m.chan)) ∧
        (x.fadd = true → FlagAdded s.dev e x.target x.tflag amount)) ∧
    (x.kind = 1 → readsDue s.dev x.target = true → Answers (.channelMessageFrame p f) s fun e => Accepted s p e q.val ∧
      (getDom e i).assembling = [m] ∧ e.cores = s.dev.cores) ∧
    (x.kind = 1 → readsDue s.dev x.target = false → 64 < (mqOf s.dev x.target x.queue.val).occ + placeCost (mqOf s.dev x.target x.queue.val) len →
      Answers (.channelMessageFrame p f) s fun e => Accepted s p e q.val ∧ (getDom e i).assembling = [{ m with held := true }] ∧
        mqOf e x.target x.queue.val = { mqOf s.dev x.target x.queue.val with quotaHolds := satAdd (mqOf s.dev x.target x.queue.val).quotaHolds 1 }) ∧
    (x.kind = 2 → Answers (.channelMessageFrame p f) s fun e => Accepted s p e q.val ∧ (getDom e i).assembling = [] ∧ nextMseq (getDom e i) m = seq + 1 ∧
      (getUnit e x.target).adds = (getUnit s.dev x.target).adds ++ (List.range len).map fun k => {
        off := x.taddr.toNat + 64 * k, data := us.getD k 0, reached := corePeriod s.dev x.target.core, readAt := none, sum := 0
        flag := if x.fadd && k + 1 = len then some (x.tflag, amount) else none
        back := if k + 1 = len then some { chan := id, units := len, due := 0, inbound := some (src, m.sender, m.chan) } else none }))) ∧
  (∀ (s : State) (p : Fin 8) (f : FrameBits) (q : PartId), Routed s p f 1 q → frameRetried f = false → isArmed s.dev 0x122 (BitVec.ofNat 16 q.val) = false →
    inboundEntry s.dev q (BitVec.ofNat 18 (frameSrc f)) (BitVec.ofNat 8 (le (frameBodyBytes f) 0 1)) = none → s.dev.err.events = [] →
    Answers (.channelMessageFrame p f) s fun e => Accepted s p e q.val ∧ e.parts = s.dev.parts ∧ e.cores = s.dev.cores ∧
      (if le (frameBodyBytes f) 3 1 = 0 ∧ 0 < le (frameBodyBytes f) 1 1 then Logged e 0x122 (BitVec.ofNat 16 q.val) 2 0 else e.err.events = [])) ∧
  (∀ (s : State) (p : Fin 8) (f : FrameBits) (q : PartId), Routed s p f 2 q → frameRetried f = false → let b := frameBodyBytes f
    let src : BitVec 18 := BitVec.ofNat 18 (frameSrc f)
    let seq : W32 := BitVec.ofNat 32 (le b 4 4)
    let c := ctxOfScore (le b 8 2)
    let chan : Byte := BitVec.ofNat 8 (le b 10 1)
    (le b 0 1 = 1 → partOfCore s.dev c.core = q → (∀ x ∈ (getPart s.dev q).cseqRx, x.dst ≠ src ∨ x.cseq ≠ seq) →
      Answers (.channelCreditFrame p f) s fun e => Accepted s p e q.val ∧ (getPart e q).cseqRx = (getPart s.dev q).cseqRx ++ [{ dst := src, cseq := seq }] ∧
        creditOf e c chan = (creditOf s.dev c chan + le b 11 1) % 256 ∧ ∀ k, k ≠ c.core → getCore e k = getCore s.dev k) ∧
    ((∃ x ∈ (getPart s.dev q).cseqRx, x.dst = src ∧ x.cseq = seq) → Answers (.channelCreditFrame p f) s fun e =>
      Accepted s p e q.val ∧ e.parts = s.dev.parts ∧ e.cores = s.dev.cores)) ∧
  (∀ (s : State) (p : Fin 8) (f : FrameBits) (q : PartId), Routed s p f 3 q → isArmed s.dev 0x190 (BitVec.ofNat 16 q.val) = false →
    let h : HeldFrame := { plane := some p, dom := none, src := frameSrc f, lseq := (frameSeq f).toNat, retried := frameRetried f, bad := false, body := frameBody f }
    (engineReset s.dev = true → Answers (.collectiveFrame p f) s fun e => Accepted s p e (4 + q.val) ∧ e.parts = s.dev.parts) ∧
    (∀ v, engineReset s.dev = false → (getPart s.dev q).ceHeld = [] → (getPart s.dev q).ceWait = [] → 0 < bufferShare s.dev → (∀ j ∈ domsOf q, (getDom s.dev j).run = none) → matchColl s.dev q h = some v →
      Answers (.collectiveFrame p f) s fun e => (getPart e q).ceHeld = [h] ∧ (getPlane e p).expect = (getPlane s.dev p).expect + 1 ∧
        (getPlane e p).freed = (getPlane s.dev p).freed ∧ e.reservoir = s.dev.reservoir) ∧
    (∀ (v : CollView) (r : Run) (c : CollInst), engineReset s.dev = false → (getPart s.dev q).ceHeld = [] → (getPart s.dev q).ceWait = [] → 0 < bufferShare s.dev → v.dom ∈ domsOf q →
      (∀ j ∈ domsOf q, j ≠ v.dom → (getDom s.dev j).run = none) → (getDom s.dev v.dom).run = some r → r.colls = [c] → c.desc = v.idx →
      viewColl s.dev v.dom v.idx = some v → fateOf s.dev q h = .use v → v.x.kind = 5 → v.x.order = 0 → v.n = 2 → bodyPhase h.body = 2 →
      ringPos v 1 = bodyShard h.body → c.begun = true → c.step = 0 → c.used = [] → 1 < framesExpected v → c.retried = false → h.retried = false →
      let t := frameSpan v (bodyShard h.body) (bodySeq h.body)
      Answers (.collectiveFrame p f) s fun e => Accepted s p e (4 + q.val) ∧ (getPart e q).ceHeld = [] ∧
        e.reservoir = (writeOut s.dev v t.1 (fromWire v c.attempt t.1 (bodyElems v h.body t.2)).1).reservoir ∧
        (getDom e v.dom).run = some { r with colls := [{ c with
          rx := c.rx + 1
          flags := c.flags ||| bodyFlags h.body
          used := [(2, bodyShard h.body, bodySeq h.body)] }] })) ∧
  (∀ (d : Device) (q : PartId) (h : HeldFrame), bufferShare d ≤ (getPart d q).ceHeld.length → (enterBuffer d q h) = modPart d q fun x => { x with ceWait := x.ceWait ++ [h] }) ∧
  (∀ (s : State) (i : DomId) (k : Fin 16) (v : CollView) (r : Run), collDue s.dev i k = true → viewColl s.dev i k = some v →
    (getDom s.dev i).run = some r →
    (v.x.order = 2 → r.openMode = false → Answers (.collectiveInstanceStart i k) s fun e => isHalted e v.x.core = true ∧
      (getUnit e v.x.core).halt.code = 0x0E ∧ (getUnit e v.x.core).halt.seq = execSeq v.x.core) ∧
    (v.x.kind = 5 → v.x.order = 0 → v.n = 2 → v.pos ≠ v.x.root → r.colls = [] → r.collAbort = [] → (getPart s.dev i.part).ceHeld = [] → (getPart s.dev i.part).ceWait = [] →
      (∀ j ∈ domsOf i.part, j ≠ i → (getDom s.dev j).run = none) → isArmed s.dev 0x191 (BitVec.ofNat 16 i.part.val) = false → 0 < framesExpected v →
      Answers (.collectiveInstanceStart i k) s fun e => (getDom e i).run = some { r with
          colls := [{ desc := k, inst := vget r.collNext k, attempt := 0, begun := true, used := [], partials := [], flags := 0, step := 0,
                      retried := false, tx := 0, rx := 0 }]
          collNext := vset r.collNext k (vget r.collNext k + 1) } ∧
        e.reservoir = s.dev.reservoir ∧ e.cores = s.dev.cores))
end

