-- ==== Sys2Proof/Laws/State.lean ====
section
/-! SUPPORT. What each update of the device leaves unchanged, one lemma for each field, and reading back what was
written: later proofs need not unfold an update. -/

namespace Sys2Proof.Machine

/-! ### Tables -/

@[simp] theorem vget_vset_same {α : Type} {n : Nat} (v : Vector α n) (i : Fin n) (x : α) : vget (vset v i x) i = x := by
  simp [vget, vset]

theorem vget_vset_other {α : Type} {n : Nat} (v : Vector α n) (i j : Fin n) (x : α) (h : i ≠ j) : vget (vset v i x) j = vget v j := by
  have h' : i.val ≠ j.val := fun e => h (Fin.ext e)
  simp [vget, vset, Vector.getElem_set, h']

@[simp] theorem vget_vmod_same {α : Type} {n : Nat} (v : Vector α n) (i : Fin n) (f : α → α) : vget (vmod v i f) i = f (vget v i) := by
  simp [vmod]

theorem vget_vmod_other {α : Type} {n : Nat} (v : Vector α n) (i j : Fin n) (f : α → α) (h : i ≠ j) : vget (vmod v i f) j = vget v j := by
  simp [vmod, vget_vset_other _ _ _ _ h]

/-! ### Reading back an update -/

@[simp] theorem getCore_modCore_same (d : Device) (c : CoreId) (f : Core → Core) : getCore (modCore d c f) c = f (getCore d c) := by
  simp [getCore, modCore]

theorem getCore_modCore_other (d : Device) (c k : CoreId) (f : Core → Core) (h : c ≠ k) : getCore (modCore d c f) k = getCore d k := by
  simp [getCore, modCore, vget_vmod_other _ _ _ _ h]

@[simp] theorem getUnit_modUnit_same (d : Device) (c : CtxId) (f : CtxUnit → CtxUnit) : getUnit (modUnit d c f) c = f (getUnit d c) := by
  simp [getUnit, modUnit]

@[simp] theorem getSeq_modSeq_same (d : Device) (w : SeqId) (f : Sequencer → Sequencer) : getSeq (modSeq d w f) w = f (getSeq d w) := by
  simp [getSeq, modSeq]

@[simp] theorem getSeq_modUnit (d : Device) (c : CtxId) (f : CtxUnit → CtxUnit) (w : SeqId) : getSeq (modUnit d c f) w = getSeq d w := by
  by_cases h : c.core = w.core
  · simp [getSeq, modUnit, h]
  · simp [getSeq, modUnit, getCore_modCore_other _ _ _ _ h]

@[simp] theorem getUnit_modSeq (d : Device) (w : SeqId) (f : Sequencer → Sequencer) (c : CtxId) : getUnit (modSeq d w f) c = getUnit d c := by
  by_cases h : w.core = c.core
  · simp [getUnit, modSeq, h]
  · simp [getUnit, modSeq, getCore_modCore_other _ _ _ _ h]

@[simp] theorem getPart_modPart_same (d : Device) (p : PartId) (f : Part → Part) : getPart (modPart d p f) p = f (getPart d p) := by
  simp [getPart, modPart]

theorem getPart_modPart_other (d : Device) (p q : PartId) (f : Part → Part) (h : p ≠ q) : getPart (modPart d p f) q = getPart d q := by
  simp [getPart, modPart, vget_vmod_other _ _ _ _ h]

@[simp] theorem getDom_modDom_same (d : Device) (i : DomId) (f : Domain → Domain) : getDom (modDom d i f) i = f (getDom d i) := by
  simp [getDom, modDom]

@[simp] theorem getBar_modBar_same (d : Device) (b : Fin 64) (f : Barrier → Barrier) : getBar (modBar d b f) b = f (getBar d b) := by
  simp [getBar, modBar]

theorem getBar_modBar_other (d : Device) (b k : Fin 64) (f : Barrier → Barrier) (h : b ≠ k) : getBar (modBar d b f) k = getBar d k := by
  simp [getBar, modBar, vget_vmod_other _ _ _ _ h]

@[simp] theorem getPond_modPond_same (d : Device) (k : Fin 32) (f : Pond → Pond) : getPond (modPond d k f) k = f (getPond d k) := by
  simp [getPond, modPond]

@[simp] theorem getPlane_modPlane_same (d : Device) (p : Fin 8) (f : PlaneLink → PlaneLink) : getPlane (modPlane d p f) p = f (getPlane d p) := by
  simp [getPlane, modPlane]

@[simp] theorem stack_modStack_same (d : Device) (k : Fin 8) (f : HbmStack → HbmStack) : vget (modStack d k f).hbmStat k = f (vget d.hbmStat k) := by
  simp [modStack]

@[simp] theorem port_modPort_same (d : Device) (k : Fin 4) (f : CxlPort → CxlPort) : vget (modPort d k f).cxlPorts k = f (vget d.cxlPorts k) := by
  simp [modPort]

@[simp] theorem ring_modRing_same (d : Device) (r : Fin 64) (f : Ring → Ring) : vget (modRing d r f).rings r = f (vget d.rings r) := by
  simp [modRing]

/-! ### What an update leaves alone -/

@[simp] theorem modCore_parts (d : Device) (c : CoreId) (f : Core → Core) : (modCore d c f).parts = d.parts := rfl
@[simp] theorem modCore_barriers (d : Device) (c : CoreId) (f : Core → Core) : (modCore d c f).barriers = d.barriers := rfl
@[simp] theorem modCore_rings (d : Device) (c : CoreId) (f : Core → Core) : (modCore d c f).rings = d.rings := rfl
@[simp] theorem modCore_msix (d : Device) (c : CoreId) (f : Core → Core) : (modCore d c f).msix = d.msix := rfl
@[simp] theorem modCore_cmds (d : Device) (c : CoreId) (f : Core → Core) : (modCore d c f).cmds = d.cmds := rfl
@[simp] theorem modCore_config (d : Device) (c : CoreId) (f : Core → Core) : (modCore d c f).config = d.config := rfl
@[simp] theorem modCore_vfPart (d : Device) (c : CoreId) (f : Core → Core) : (modCore d c f).vfPart = d.vfPart := rfl
@[simp] theorem modCore_ringTurn (d : Device) (c : CoreId) (f : Core → Core) : (modCore d c f).ringTurn = d.ringTurn := rfl
@[simp] theorem modCore_rb (d : Device) (c : CoreId) (f : Core → Core) : (modCore d c f).rb = d.rb := rfl
@[simp] theorem modCore_sec (d : Device) (c : CoreId) (f : Core → Core) : (modCore d c f).sec = d.sec := rfl
@[simp] theorem modCore_power (d : Device) (c : CoreId) (f : Core → Core) : (modCore d c f).power = d.power := rfl
@[simp] theorem modCore_clock (d : Device) (c : CoreId) (f : Core → Core) : (modCore d c f).clock = d.clock := rfl
@[simp] theorem modCore_err (d : Device) (c : CoreId) (f : Core → Core) : (modCore d c f).err = d.err := rfl
@[simp] theorem modCore_fab (d : Device) (c : CoreId) (f : Core → Core) : (modCore d c f).fab = d.fab := rfl
@[simp] theorem modCore_hbmStat (d : Device) (c : CoreId) (f : Core → Core) : (modCore d c f).hbmStat = d.hbmStat := rfl
@[simp] theorem modCore_cxlPorts (d : Device) (c : CoreId) (f : Core → Core) : (modCore d c f).cxlPorts = d.cxlPorts := rfl
@[simp] theorem modCore_dieLinks (d : Device) (c : CoreId) (f : Core → Core) : (modCore d c f).dieLinks = d.dieLinks := rfl
@[simp] theorem modCore_scratch (d : Device) (c : CoreId) (f : Core → Core) : (modCore d c f).scratch = d.scratch := rfl
@[simp] theorem modCore_scratchBad (d : Device) (c : CoreId) (f : Core → Core) : (modCore d c f).scratchBad = d.scratchBad := rfl
@[simp] theorem modCore_reservoir (d : Device) (c : CoreId) (f : Core → Core) : (modCore d c f).reservoir = d.reservoir := rfl
@[simp] theorem modCore_retained (d : Device) (c : CoreId) (f : Core → Core) : (modCore d c f).retained = d.retained := rfl
@[simp] theorem modCore_hbm (d : Device) (c : CoreId) (f : Core → Core) : (modCore d c f).hbm = d.hbm := rfl
@[simp] theorem modCore_cxl (d : Device) (c : CoreId) (f : Core → Core) : (modCore d c f).cxl = d.cxl := rfl
@[simp] theorem modCore_host (d : Device) (c : CoreId) (f : Core → Core) : (modCore d c f).host = d.host := rfl
@[simp] theorem modCore_freeCtr (d : Device) (c : CoreId) (f : Core → Core) : (modCore d c f).freeCtr = d.freeCtr := rfl
@[simp] theorem modCore_justSet (d : Device) (c : CoreId) (f : Core → Core) : (modCore d c f).justSet = d.justSet := rfl

@[simp] theorem modPart_cores (d : Device) (p : PartId) (f : Part → Part) : (modPart d p f).cores = d.cores := rfl
@[simp] theorem modPart_barriers (d : Device) (p : PartId) (f : Part → Part) : (modPart d p f).barriers = d.barriers := rfl
@[simp] theorem modPart_rings (d : Device) (p : PartId) (f : Part → Part) : (modPart d p f).rings = d.rings := rfl
@[simp] theorem modPart_msix (d : Device) (p : PartId) (f : Part → Part) : (modPart d p f).msix = d.msix := rfl
@[simp] theorem modPart_cmds (d : Device) (p : PartId) (f : Part → Part) : (modPart d p f).cmds = d.cmds := rfl
@[simp] theorem modPart_config (d : Device) (p : PartId) (f : Part → Part) : (modPart d p f).config = d.config := rfl
@[simp] theorem modPart_vfPart (d : Device) (p : PartId) (f : Part → Part) : (modPart d p f).vfPart = d.vfPart := rfl
@[simp] theorem modPart_ringTurn (d : Device) (p : PartId) (f : Part → Part) : (modPart d p f).ringTurn = d.ringTurn := rfl
@[simp] theorem modPart_rb (d : Device) (p : PartId) (f : Part → Part) : (modPart d p f).rb = d.rb := rfl
@[simp] theorem modPart_sec (d : Device) (p : PartId) (f : Part → Part) : (modPart d p f).sec = d.sec := rfl
@[simp] theorem modPart_power (d : Device) (p : PartId) (f : Part → Part) : (modPart d p f).power = d.power := rfl
@[simp] theorem modPart_clock (d : Device) (p : PartId) (f : Part → Part) : (modPart d p f).clock = d.clock := rfl
@[simp] theorem modPart_err (d : Device) (p : PartId) (f : Part → Part) : (modPart d p f).err = d.err := rfl
@[simp] theorem modPart_fab (d : Device) (p : PartId) (f : Part → Part) : (modPart d p f).fab = d.fab := rfl
@[simp] theorem modPart_hbmStat (d : Device) (p : PartId) (f : Part → Part) : (modPart d p f).hbmStat = d.hbmStat := rfl
@[simp] theorem modPart_cxlPorts (d : Device) (p : PartId) (f : Part → Part) : (modPart d p f).cxlPorts = d.cxlPorts := rfl
@[simp] theorem modPart_dieLinks (d : Device) (p : PartId) (f : Part → Part) : (modPart d p f).dieLinks = d.dieLinks := rfl
@[simp] theorem modPart_scratch (d : Device) (p : PartId) (f : Part → Part) : (modPart d p f).scratch = d.scratch := rfl
@[simp] theorem modPart_scratchBad (d : Device) (p : PartId) (f : Part → Part) : (modPart d p f).scratchBad = d.scratchBad := rfl
@[simp] theorem modPart_reservoir (d : Device) (p : PartId) (f : Part → Part) : (modPart d p f).reservoir = d.reservoir := rfl
@[simp] theorem modPart_retained (d : Device) (p : PartId) (f : Part → Part) : (modPart d p f).retained = d.retained := rfl
@[simp] theorem modPart_hbm (d : Device) (p : PartId) (f : Part → Part) : (modPart d p f).hbm = d.hbm := rfl
@[simp] theorem modPart_cxl (d : Device) (p : PartId) (f : Part → Part) : (modPart d p f).cxl = d.cxl := rfl
@[simp] theorem modPart_host (d : Device) (p : PartId) (f : Part → Part) : (modPart d p f).host = d.host := rfl
@[simp] theorem modPart_freeCtr (d : Device) (p : PartId) (f : Part → Part) : (modPart d p f).freeCtr = d.freeCtr := rfl
@[simp] theorem modPart_justSet (d : Device) (p : PartId) (f : Part → Part) : (modPart d p f).justSet = d.justSet := rfl

@[simp] theorem modRing_cores (d : Device) (r : Fin 64) (f : Ring → Ring) : (modRing d r f).cores = d.cores := rfl
@[simp] theorem modRing_parts (d : Device) (r : Fin 64) (f : Ring → Ring) : (modRing d r f).parts = d.parts := rfl
@[simp] theorem modRing_barriers (d : Device) (r : Fin 64) (f : Ring → Ring) : (modRing d r f).barriers = d.barriers := rfl
@[simp] theorem modRing_msix (d : Device) (r : Fin 64) (f : Ring → Ring) : (modRing d r f).msix = d.msix := rfl
@[simp] theorem modRing_cmds (d : Device) (r : Fin 64) (f : Ring → Ring) : (modRing d r f).cmds = d.cmds := rfl
@[simp] theorem modRing_config (d : Device) (r : Fin 64) (f : Ring → Ring) : (modRing d r f).config = d.config := rfl
@[simp] theorem modRing_vfPart (d : Device) (r : Fin 64) (f : Ring → Ring) : (modRing d r f).vfPart = d.vfPart := rfl
@[simp] theorem modRing_ringTurn (d : Device) (r : Fin 64) (f : Ring → Ring) : (modRing d r f).ringTurn = d.ringTurn := rfl
@[simp] theorem modRing_rb (d : Device) (r : Fin 64) (f : Ring → Ring) : (modRing d r f).rb = d.rb := rfl
@[simp] theorem modRing_sec (d : Device) (r : Fin 64) (f : Ring → Ring) : (modRing d r f).sec = d.sec := rfl
@[simp] theorem modRing_power (d : Device) (r : Fin 64) (f : Ring → Ring) : (modRing d r f).power = d.power := rfl
@[simp] theorem modRing_clock (d : Device) (r : Fin 64) (f : Ring → Ring) : (modRing d r f).clock = d.clock := rfl
@[simp] theorem modRing_err (d : Device) (r : Fin 64) (f : Ring → Ring) : (modRing d r f).err = d.err := rfl
@[simp] theorem modRing_fab (d : Device) (r : Fin 64) (f : Ring → Ring) : (modRing d r f).fab = d.fab := rfl
@[simp] theorem modRing_hbmStat (d : Device) (r : Fin 64) (f : Ring → Ring) : (modRing d r f).hbmStat = d.hbmStat := rfl
@[simp] theorem modRing_cxlPorts (d : Device) (r : Fin 64) (f : Ring → Ring) : (modRing d r f).cxlPorts = d.cxlPorts := rfl
@[simp] theorem modRing_dieLinks (d : Device) (r : Fin 64) (f : Ring → Ring) : (modRing d r f).dieLinks = d.dieLinks := rfl
@[simp] theorem modRing_scratch (d : Device) (r : Fin 64) (f : Ring → Ring) : (modRing d r f).scratch = d.scratch := rfl
@[simp] theorem modRing_scratchBad (d : Device) (r : Fin 64) (f : Ring → Ring) : (modRing d r f).scratchBad = d.scratchBad := rfl
@[simp] theorem modRing_reservoir (d : Device) (r : Fin 64) (f : Ring → Ring) : (modRing d r f).reservoir = d.reservoir := rfl
@[simp] theorem modRing_retained (d : Device) (r : Fin 64) (f : Ring → Ring) : (modRing d r f).retained = d.retained := rfl
@[simp] theorem modRing_hbm (d : Device) (r : Fin 64) (f : Ring → Ring) : (modRing d r f).hbm = d.hbm := rfl
@[simp] theorem modRing_cxl (d : Device) (r : Fin 64) (f : Ring → Ring) : (modRing d r f).cxl = d.cxl := rfl
@[simp] theorem modRing_host (d : Device) (r : Fin 64) (f : Ring → Ring) : (modRing d r f).host = d.host := rfl
@[simp] theorem modRing_freeCtr (d : Device) (r : Fin 64) (f : Ring → Ring) : (modRing d r f).freeCtr = d.freeCtr := rfl
@[simp] theorem modRing_justSet (d : Device) (r : Fin 64) (f : Ring → Ring) : (modRing d r f).justSet = d.justSet := rfl

@[simp] theorem modPond_cores (d : Device) (k : Fin 32) (f : Pond → Pond) : (modPond d k f).cores = d.cores := rfl
@[simp] theorem modPond_parts (d : Device) (k : Fin 32) (f : Pond → Pond) : (modPond d k f).parts = d.parts := rfl
@[simp] theorem modPond_barriers (d : Device) (k : Fin 32) (f : Pond → Pond) : (modPond d k f).barriers = d.barriers := rfl
@[simp] theorem modPond_rings (d : Device) (k : Fin 32) (f : Pond → Pond) : (modPond d k f).rings = d.rings := rfl
@[simp] theorem modPond_msix (d : Device) (k : Fin 32) (f : Pond → Pond) : (modPond d k f).msix = d.msix := rfl
@[simp] theorem modPond_cmds (d : Device) (k : Fin 32) (f : Pond → Pond) : (modPond d k f).cmds = d.cmds := rfl
@[simp] theorem modPond_config (d : Device) (k : Fin 32) (f : Pond → Pond) : (modPond d k f).config = d.config := rfl
@[simp] theorem modPond_vfPart (d : Device) (k : Fin 32) (f : Pond → Pond) : (modPond d k f).vfPart = d.vfPart := rfl
@[simp] theorem modPond_ringTurn (d : Device) (k : Fin 32) (f : Pond → Pond) : (modPond d k f).ringTurn = d.ringTurn := rfl
@[simp] theorem modPond_rb (d : Device) (k : Fin 32) (f : Pond → Pond) : (modPond d k f).rb = d.rb := rfl
@[simp] theorem modPond_sec (d : Device) (k : Fin 32) (f : Pond → Pond) : (modPond d k f).sec = d.sec := rfl
@[simp] theorem modPond_clock (d : Device) (k : Fin 32) (f : Pond → Pond) : (modPond d k f).clock = d.clock := rfl
@[simp] theorem modPond_err (d : Device) (k : Fin 32) (f : Pond → Pond) : (modPond d k f).err = d.err := rfl
@[simp] theorem modPond_fab (d : Device) (k : Fin 32) (f : Pond → Pond) : (modPond d k f).fab = d.fab := rfl
@[simp] theorem modPond_hbmStat (d : Device) (k : Fin 32) (f : Pond → Pond) : (modPond d k f).hbmStat = d.hbmStat := rfl
@[simp] theorem modPond_cxlPorts (d : Device) (k : Fin 32) (f : Pond → Pond) : (modPond d k f).cxlPorts = d.cxlPorts := rfl
@[simp] theorem modPond_dieLinks (d : Device) (k : Fin 32) (f : Pond → Pond) : (modPond d k f).dieLinks = d.dieLinks := rfl
@[simp] theorem modPond_scratch (d : Device) (k : Fin 32) (f : Pond → Pond) : (modPond d k f).scratch = d.scratch := rfl
@[simp] theorem modPond_scratchBad (d : Device) (k : Fin 32) (f : Pond → Pond) : (modPond d k f).scratchBad = d.scratchBad := rfl
@[simp] theorem modPond_reservoir (d : Device) (k : Fin 32) (f : Pond → Pond) : (modPond d k f).reservoir = d.reservoir := rfl
@[simp] theorem modPond_retained (d : Device) (k : Fin 32) (f : Pond → Pond) : (modPond d k f).retained = d.retained := rfl
@[simp] theorem modPond_hbm (d : Device) (k : Fin 32) (f : Pond → Pond) : (modPond d k f).hbm = d.hbm := rfl
@[simp] theorem modPond_cxl (d : Device) (k : Fin 32) (f : Pond → Pond) : (modPond d k f).cxl = d.cxl := rfl
@[simp] theorem modPond_host (d : Device) (k : Fin 32) (f : Pond → Pond) : (modPond d k f).host = d.host := rfl
@[simp] theorem modPond_freeCtr (d : Device) (k : Fin 32) (f : Pond → Pond) : (modPond d k f).freeCtr = d.freeCtr := rfl
@[simp] theorem modPond_justSet (d : Device) (k : Fin 32) (f : Pond → Pond) : (modPond d k f).justSet = d.justSet := rfl

@[simp] theorem modBar_cores (d : Device) (b : Fin 64) (f : Barrier → Barrier) : (modBar d b f).cores = d.cores := rfl
@[simp] theorem modBar_parts (d : Device) (b : Fin 64) (f : Barrier → Barrier) : (modBar d b f).parts = d.parts := rfl
@[simp] theorem modBar_rings (d : Device) (b : Fin 64) (f : Barrier → Barrier) : (modBar d b f).rings = d.rings := rfl
@[simp] theorem modBar_msix (d : Device) (b : Fin 64) (f : Barrier → Barrier) : (modBar d b f).msix = d.msix := rfl
@[simp] theorem modBar_cmds (d : Device) (b : Fin 64) (f : Barrier → Barrier) : (modBar d b f).cmds = d.cmds := rfl
@[simp] theorem modBar_config (d : Device) (b : Fin 64) (f : Barrier → Barrier) : (modBar d b f).config = d.config := rfl
@[simp] theorem modBar_vfPart (d : Device) (b : Fin 64) (f : Barrier → Barrier) : (modBar d b f).vfPart = d.vfPart := rfl
@[simp] theorem modBar_ringTurn (d : Device) (b : Fin 64) (f : Barrier → Barrier) : (modBar d b f).ringTurn = d.ringTurn := rfl
@[simp] theorem modBar_rb (d : Device) (b : Fin 64) (f : Barrier → Barrier) : (modBar d b f).rb = d.rb := rfl
@[simp] theorem modBar_sec (d : Device) (b : Fin 64) (f : Barrier → Barrier) : (modBar d b f).sec = d.sec := rfl
@[simp] theorem modBar_power (d : Device) (b : Fin 64) (f : Barrier → Barrier) : (modBar d b f).power = d.power := rfl
@[simp] theorem modBar_clock (d : Device) (b : Fin 64) (f : Barrier → Barrier) : (modBar d b f).clock = d.clock := rfl
@[simp] theorem modBar_err (d : Device) (b : Fin 64) (f : Barrier → Barrier) : (modBar d b f).err = d.err := rfl
@[simp] theorem modBar_fab (d : Device) (b : Fin 64) (f : Barrier → Barrier) : (modBar d b f).fab = d.fab := rfl
@[simp] theorem modBar_hbmStat (d : Device) (b : Fin 64) (f : Barrier → Barrier) : (modBar d b f).hbmStat = d.hbmStat := rfl
@[simp] theorem modBar_cxlPorts (d : Device) (b : Fin 64) (f : Barrier → Barrier) : (modBar d b f).cxlPorts = d.cxlPorts := rfl
@[simp] theorem modBar_dieLinks (d : Device) (b : Fin 64) (f : Barrier → Barrier) : (modBar d b f).dieLinks = d.dieLinks := rfl
@[simp] theorem modBar_scratch (d : Device) (b : Fin 64) (f : Barrier → Barrier) : (modBar d b f).scratch = d.scratch := rfl
@[simp] theorem modBar_scratchBad (d : Device) (b : Fin 64) (f : Barrier → Barrier) : (modBar d b f).scratchBad = d.scratchBad := rfl
@[simp] theorem modBar_reservoir (d : Device) (b : Fin 64) (f : Barrier → Barrier) : (modBar d b f).reservoir = d.reservoir := rfl
@[simp] theorem modBar_retained (d : Device) (b : Fin 64) (f : Barrier → Barrier) : (modBar d b f).retained = d.retained := rfl
@[simp] theorem modBar_hbm (d : Device) (b : Fin 64) (f : Barrier → Barrier) : (modBar d b f).hbm = d.hbm := rfl
@[simp] theorem modBar_cxl (d : Device) (b : Fin 64) (f : Barrier → Barrier) : (modBar d b f).cxl = d.cxl := rfl
@[simp] theorem modBar_host (d : Device) (b : Fin 64) (f : Barrier → Barrier) : (modBar d b f).host = d.host := rfl
@[simp] theorem modBar_freeCtr (d : Device) (b : Fin 64) (f : Barrier → Barrier) : (modBar d b f).freeCtr = d.freeCtr := rfl
@[simp] theorem modBar_justSet (d : Device) (b : Fin 64) (f : Barrier → Barrier) : (modBar d b f).justSet = d.justSet := rfl

@[simp] theorem modPlane_cores (d : Device) (p : Fin 8) (f : PlaneLink → PlaneLink) : (modPlane d p f).cores = d.cores := rfl
@[simp] theorem modPlane_parts (d : Device) (p : Fin 8) (f : PlaneLink → PlaneLink) : (modPlane d p f).parts = d.parts := rfl
@[simp] theorem modPlane_barriers (d : Device) (p : Fin 8) (f : PlaneLink → PlaneLink) : (modPlane d p f).barriers = d.barriers := rfl
@[simp] theorem modPlane_rings (d : Device) (p : Fin 8) (f : PlaneLink → PlaneLink) : (modPlane d p f).rings = d.rings := rfl
@[simp] theorem modPlane_msix (d : Device) (p : Fin 8) (f : PlaneLink → PlaneLink) : (modPlane d p f).msix = d.msix := rfl
@[simp] theorem modPlane_cmds (d : Device) (p : Fin 8) (f : PlaneLink → PlaneLink) : (modPlane d p f).cmds = d.cmds := rfl
@[simp] theorem modPlane_config (d : Device) (p : Fin 8) (f : PlaneLink → PlaneLink) : (modPlane d p f).config = d.config := rfl
@[simp] theorem modPlane_vfPart (d : Device) (p : Fin 8) (f : PlaneLink → PlaneLink) : (modPlane d p f).vfPart = d.vfPart := rfl
@[simp] theorem modPlane_ringTurn (d : Device) (p : Fin 8) (f : PlaneLink → PlaneLink) : (modPlane d p f).ringTurn = d.ringTurn := rfl
@[simp] theorem modPlane_rb (d : Device) (p : Fin 8) (f : PlaneLink → PlaneLink) : (modPlane d p f).rb = d.rb := rfl
@[simp] theorem modPlane_sec (d : Device) (p : Fin 8) (f : PlaneLink → PlaneLink) : (modPlane d p f).sec = d.sec := rfl
@[simp] theorem modPlane_power (d : Device) (p : Fin 8) (f : PlaneLink → PlaneLink) : (modPlane d p f).power = d.power := rfl
@[simp] theorem modPlane_clock (d : Device) (p : Fin 8) (f : PlaneLink → PlaneLink) : (modPlane d p f).clock = d.clock := rfl
@[simp] theorem modPlane_err (d : Device) (p : Fin 8) (f : PlaneLink → PlaneLink) : (modPlane d p f).err = d.err := rfl
@[simp] theorem modPlane_hbmStat (d : Device) (p : Fin 8) (f : PlaneLink → PlaneLink) : (modPlane d p f).hbmStat = d.hbmStat := rfl
@[simp] theorem modPlane_cxlPorts (d : Device) (p : Fin 8) (f : PlaneLink → PlaneLink) : (modPlane d p f).cxlPorts = d.cxlPorts := rfl
@[simp] theorem modPlane_dieLinks (d : Device) (p : Fin 8) (f : PlaneLink → PlaneLink) : (modPlane d p f).dieLinks = d.dieLinks := rfl
@[simp] theorem modPlane_scratch (d : Device) (p : Fin 8) (f : PlaneLink → PlaneLink) : (modPlane d p f).scratch = d.scratch := rfl
@[simp] theorem modPlane_scratchBad (d : Device) (p : Fin 8) (f : PlaneLink → PlaneLink) : (modPlane d p f).scratchBad = d.scratchBad := rfl
@[simp] theorem modPlane_reservoir (d : Device) (p : Fin 8) (f : PlaneLink → PlaneLink) : (modPlane d p f).reservoir = d.reservoir := rfl
@[simp] theorem modPlane_retained (d : Device) (p : Fin 8) (f : PlaneLink → PlaneLink) : (modPlane d p f).retained = d.retained := rfl
@[simp] theorem modPlane_hbm (d : Device) (p : Fin 8) (f : PlaneLink → PlaneLink) : (modPlane d p f).hbm = d.hbm := rfl
@[simp] theorem modPlane_cxl (d : Device) (p : Fin 8) (f : PlaneLink → PlaneLink) : (modPlane d p f).cxl = d.cxl := rfl
@[simp] theorem modPlane_host (d : Device) (p : Fin 8) (f : PlaneLink → PlaneLink) : (modPlane d p f).host = d.host := rfl
@[simp] theorem modPlane_freeCtr (d : Device) (p : Fin 8) (f : PlaneLink → PlaneLink) : (modPlane d p f).freeCtr = d.freeCtr := rfl
@[simp] theorem modPlane_justSet (d : Device) (p : Fin 8) (f : PlaneLink → PlaneLink) : (modPlane d p f).justSet = d.justSet := rfl

@[simp] theorem modStack_cores (d : Device) (k : Fin 8) (f : HbmStack → HbmStack) : (modStack d k f).cores = d.cores := rfl
@[simp] theorem modStack_parts (d : Device) (k : Fin 8) (f : HbmStack → HbmStack) : (modStack d k f).parts = d.parts := rfl
@[simp] theorem modStack_barriers (d : Device) (k : Fin 8) (f : HbmStack → HbmStack) : (modStack d k f).barriers = d.barriers := rfl
@[simp] theorem modStack_rings (d : Device) (k : Fin 8) (f : HbmStack → HbmStack) : (modStack d k f).rings = d.rings := rfl
@[simp] theorem modStack_msix (d : Device) (k : Fin 8) (f : HbmStack → HbmStack) : (modStack d k f).msix = d.msix := rfl
@[simp] theorem modStack_cmds (d : Device) (k : Fin 8) (f : HbmStack → HbmStack) : (modStack d k f).cmds = d.cmds := rfl
@[simp] theorem modStack_config (d : Device) (k : Fin 8) (f : HbmStack → HbmStack) : (modStack d k f).config = d.config := rfl
@[simp] theorem modStack_vfPart (d : Device) (k : Fin 8) (f : HbmStack → HbmStack) : (modStack d k f).vfPart = d.vfPart := rfl
@[simp] theorem modStack_ringTurn (d : Device) (k : Fin 8) (f : HbmStack → HbmStack) : (modStack d k f).ringTurn = d.ringTurn := rfl
@[simp] theorem modStack_rb (d : Device) (k : Fin 8) (f : HbmStack → HbmStack) : (modStack d k f).rb = d.rb := rfl
@[simp] theorem modStack_sec (d : Device) (k : Fin 8) (f : HbmStack → HbmStack) : (modStack d k f).sec = d.sec := rfl
@[simp] theorem modStack_power (d : Device) (k : Fin 8) (f : HbmStack → HbmStack) : (modStack d k f).power = d.power := rfl
@[simp] theorem modStack_clock (d : Device) (k : Fin 8) (f : HbmStack → HbmStack) : (modStack d k f).clock = d.clock := rfl
@[simp] theorem modStack_err (d : Device) (k : Fin 8) (f : HbmStack → HbmStack) : (modStack d k f).err = d.err := rfl
@[simp] theorem modStack_fab (d : Device) (k : Fin 8) (f : HbmStack → HbmStack) : (modStack d k f).fab = d.fab := rfl
@[simp] theorem modStack_cxlPorts (d : Device) (k : Fin 8) (f : HbmStack → HbmStack) : (modStack d k f).cxlPorts = d.cxlPorts := rfl
@[simp] theorem modStack_dieLinks (d : Device) (k : Fin 8) (f : HbmStack → HbmStack) : (modStack d k f).dieLinks = d.dieLinks := rfl
@[simp] theorem modStack_scratch (d : Device) (k : Fin 8) (f : HbmStack → HbmStack) : (modStack d k f).scratch = d.scratch := rfl
@[simp] theorem modStack_scratchBad (d : Device) (k : Fin 8) (f : HbmStack → HbmStack) : (modStack d k f).scratchBad = d.scratchBad := rfl
@[simp] theorem modStack_reservoir (d : Device) (k : Fin 8) (f : HbmStack → HbmStack) : (modStack d k f).reservoir = d.reservoir := rfl
@[simp] theorem modStack_retained (d : Device) (k : Fin 8) (f : HbmStack → HbmStack) : (modStack d k f).retained = d.retained := rfl
@[simp] theorem modStack_hbm (d : Device) (k : Fin 8) (f : HbmStack → HbmStack) : (modStack d k f).hbm = d.hbm := rfl
@[simp] theorem modStack_cxl (d : Device) (k : Fin 8) (f : HbmStack → HbmStack) : (modStack d k f).cxl = d.cxl := rfl
@[simp] theorem modStack_host (d : Device) (k : Fin 8) (f : HbmStack → HbmStack) : (modStack d k f).host = d.host := rfl
@[simp] theorem modStack_freeCtr (d : Device) (k : Fin 8) (f : HbmStack → HbmStack) : (modStack d k f).freeCtr = d.freeCtr := rfl
@[simp] theorem modStack_justSet (d : Device) (k : Fin 8) (f : HbmStack → HbmStack) : (modStack d k f).justSet = d.justSet := rfl

@[simp] theorem modPort_cores (d : Device) (k : Fin 4) (f : CxlPort → CxlPort) : (modPort d k f).cores = d.cores := rfl
@[simp] theorem modPort_parts (d : Device) (k : Fin 4) (f : CxlPort → CxlPort) : (modPort d k f).parts = d.parts := rfl
@[simp] theorem modPort_barriers (d : Device) (k : Fin 4) (f : CxlPort → CxlPort) : (modPort d k f).barriers = d.barriers := rfl
@[simp] theorem modPort_rings (d : Device) (k : Fin 4) (f : CxlPort → CxlPort) : (modPort d k f).rings = d.rings := rfl
@[simp] theorem modPort_msix (d : Device) (k : Fin 4) (f : CxlPort → CxlPort) : (modPort d k f).msix = d.msix := rfl
@[simp] theorem modPort_cmds (d : Device) (k : Fin 4) (f : CxlPort → CxlPort) : (modPort d k f).cmds = d.cmds := rfl
@[simp] theorem modPort_config (d : Device) (k : Fin 4) (f : CxlPort → CxlPort) : (modPort d k f).config = d.config := rfl
@[simp] theorem modPort_vfPart (d : Device) (k : Fin 4) (f : CxlPort → CxlPort) : (modPort d k f).vfPart = d.vfPart := rfl
@[simp] theorem modPort_ringTurn (d : Device) (k : Fin 4) (f : CxlPort → CxlPort) : (modPort d k f).ringTurn = d.ringTurn := rfl
@[simp] theorem modPort_rb (d : Device) (k : Fin 4) (f : CxlPort → CxlPort) : (modPort d k f).rb = d.rb := rfl
@[simp] theorem modPort_sec (d : Device) (k : Fin 4) (f : CxlPort → CxlPort) : (modPort d k f).sec = d.sec := rfl
@[simp] theorem modPort_power (d : Device) (k : Fin 4) (f : CxlPort → CxlPort) : (modPort d k f).power = d.power := rfl
@[simp] theorem modPort_clock (d : Device) (k : Fin 4) (f : CxlPort → CxlPort) : (modPort d k f).clock = d.clock := rfl
@[simp] theorem modPort_err (d : Device) (k : Fin 4) (f : CxlPort → CxlPort) : (modPort d k f).err = d.err := rfl
@[simp] theorem modPort_fab (d : Device) (k : Fin 4) (f : CxlPort → CxlPort) : (modPort d k f).fab = d.fab := rfl
@[simp] theorem modPort_hbmStat (d : Device) (k : Fin 4) (f : CxlPort → CxlPort) : (modPort d k f).hbmStat = d.hbmStat := rfl
@[simp] theorem modPort_dieLinks (d : Device) (k : Fin 4) (f : CxlPort → CxlPort) : (modPort d k f).dieLinks = d.dieLinks := rfl
@[simp] theorem modPort_scratch (d : Device) (k : Fin 4) (f : CxlPort → CxlPort) : (modPort d k f).scratch = d.scratch := rfl
@[simp] theorem modPort_scratchBad (d : Device) (k : Fin 4) (f : CxlPort → CxlPort) : (modPort d k f).scratchBad = d.scratchBad := rfl
@[simp] theorem modPort_reservoir (d : Device) (k : Fin 4) (f : CxlPort → CxlPort) : (modPort d k f).reservoir = d.reservoir := rfl
@[simp] theorem modPort_retained (d : Device) (k : Fin 4) (f : CxlPort → CxlPort) : (modPort d k f).retained = d.retained := rfl
@[simp] theorem modPort_hbm (d : Device) (k : Fin 4) (f : CxlPort → CxlPort) : (modPort d k f).hbm = d.hbm := rfl
@[simp] theorem modPort_cxl (d : Device) (k : Fin 4) (f : CxlPort → CxlPort) : (modPort d k f).cxl = d.cxl := rfl
@[simp] theorem modPort_host (d : Device) (k : Fin 4) (f : CxlPort → CxlPort) : (modPort d k f).host = d.host := rfl
@[simp] theorem modPort_freeCtr (d : Device) (k : Fin 4) (f : CxlPort → CxlPort) : (modPort d k f).freeCtr = d.freeCtr := rfl
@[simp] theorem modPort_justSet (d : Device) (k : Fin 4) (f : CxlPort → CxlPort) : (modPort d k f).justSet = d.justSet := rfl

@[simp] theorem modUnit_parts (d : Device) (c : CtxId) (f : CtxUnit → CtxUnit) : (modUnit d c f).parts = d.parts := rfl
@[simp] theorem modUnit_barriers (d : Device) (c : CtxId) (f : CtxUnit → CtxUnit) : (modUnit d c f).barriers = d.barriers := rfl
@[simp] theorem modUnit_rings (d : Device) (c : CtxId) (f : CtxUnit → CtxUnit) : (modUnit d c f).rings = d.rings := rfl
@[simp] theorem modUnit_msix (d : Device) (c : CtxId) (f : CtxUnit → CtxUnit) : (modUnit d c f).msix = d.msix := rfl
@[simp] theorem modUnit_cmds (d : Device) (c : CtxId) (f : CtxUnit → CtxUnit) : (modUnit d c f).cmds = d.cmds := rfl
@[simp] theorem modUnit_config (d : Device) (c : CtxId) (f : CtxUnit → CtxUnit) : (modUnit d c f).config = d.config := rfl
@[simp] theorem modUnit_vfPart (d : Device) (c : CtxId) (f : CtxUnit → CtxUnit) : (modUnit d c f).vfPart = d.vfPart := rfl
@[simp] theorem modUnit_ringTurn (d : Device) (c : CtxId) (f : CtxUnit → CtxUnit) : (modUnit d c f).ringTurn = d.ringTurn := rfl
@[simp] theorem modUnit_rb (d : Device) (c : CtxId) (f : CtxUnit → CtxUnit) : (modUnit d c f).rb = d.rb := rfl
@[simp] theorem modUnit_sec (d : Device) (c : CtxId) (f : CtxUnit → CtxUnit) : (modUnit d c f).sec = d.sec := rfl
@[simp] theorem modUnit_power (d : Device) (c : CtxId) (f : CtxUnit → CtxUnit) : (modUnit d c f).power = d.power := rfl
@[simp] theorem modUnit_clock (d : Device) (c : CtxId) (f : CtxUnit → CtxUnit) : (modUnit d c f).clock = d.clock := rfl
@[simp] theorem modUnit_err (d : Device) (c : CtxId) (f : CtxUnit → CtxUnit) : (modUnit d c f).err = d.err := rfl
@[simp] theorem modUnit_fab (d : Device) (c : CtxId) (f : CtxUnit → CtxUnit) : (modUnit d c f).fab = d.fab := rfl
@[simp] theorem modUnit_hbmStat (d : Device) (c : CtxId) (f : CtxUnit → CtxUnit) : (modUnit d c f).hbmStat = d.hbmStat := rfl
@[simp] theorem modUnit_cxlPorts (d : Device) (c : CtxId) (f : CtxUnit → CtxUnit) : (modUnit d c f).cxlPorts = d.cxlPorts := rfl
@[simp] theorem modUnit_dieLinks (d : Device) (c : CtxId) (f : CtxUnit → CtxUnit) : (modUnit d c f).dieLinks = d.dieLinks := rfl
@[simp] theorem modUnit_scratch (d : Device) (c : CtxId) (f : CtxUnit → CtxUnit) : (modUnit d c f).scratch = d.scratch := rfl
@[simp] theorem modUnit_scratchBad (d : Device) (c : CtxId) (f : CtxUnit → CtxUnit) : (modUnit d c f).scratchBad = d.scratchBad := rfl
@[simp] theorem modUnit_reservoir (d : Device) (c : CtxId) (f : CtxUnit → CtxUnit) : (modUnit d c f).reservoir = d.reservoir := rfl
@[simp] theorem modUnit_retained (d : Device) (c : CtxId) (f : CtxUnit → CtxUnit) : (modUnit d c f).retained = d.retained := rfl
@[simp] theorem modUnit_hbm (d : Device) (c : CtxId) (f : CtxUnit → CtxUnit) : (modUnit d c f).hbm = d.hbm := rfl
@[simp] theorem modUnit_cxl (d : Device) (c : CtxId) (f : CtxUnit → CtxUnit) : (modUnit d c f).cxl = d.cxl := rfl
@[simp] theorem modUnit_host (d : Device) (c : CtxId) (f : CtxUnit → CtxUnit) : (modUnit d c f).host = d.host := rfl
@[simp] theorem modUnit_freeCtr (d : Device) (c : CtxId) (f : CtxUnit → CtxUnit) : (modUnit d c f).freeCtr = d.freeCtr := rfl
@[simp] theorem modUnit_justSet (d : Device) (c : CtxId) (f : CtxUnit → CtxUnit) : (modUnit d c f).justSet = d.justSet := rfl

@[simp] theorem modSeq_parts (d : Device) (w : SeqId) (f : Sequencer → Sequencer) : (modSeq d w f).parts = d.parts := rfl
@[simp] theorem modSeq_barriers (d : Device) (w : SeqId) (f : Sequencer → Sequencer) : (modSeq d w f).barriers = d.barriers := rfl
@[simp] theorem modSeq_rings (d : Device) (w : SeqId) (f : Sequencer → Sequencer) : (modSeq d w f).rings = d.rings := rfl
@[simp] theorem modSeq_msix (d : Device) (w : SeqId) (f : Sequencer → Sequencer) : (modSeq d w f).msix = d.msix := rfl
@[simp] theorem modSeq_cmds (d : Device) (w : SeqId) (f : Sequencer → Sequencer) : (modSeq d w f).cmds = d.cmds := rfl
@[simp] theorem modSeq_config (d : Device) (w : SeqId) (f : Sequencer → Sequencer) : (modSeq d w f).config = d.config := rfl
@[simp] theorem modSeq_vfPart (d : Device) (w : SeqId) (f : Sequencer → Sequencer) : (modSeq d w f).vfPart = d.vfPart := rfl
@[simp] theorem modSeq_ringTurn (d : Device) (w : SeqId) (f : Sequencer → Sequencer) : (modSeq d w f).ringTurn = d.ringTurn := rfl
@[simp] theorem modSeq_rb (d : Device) (w : SeqId) (f : Sequencer → Sequencer) : (modSeq d w f).rb = d.rb := rfl
@[simp] theorem modSeq_sec (d : Device) (w : SeqId) (f : Sequencer → Sequencer) : (modSeq d w f).sec = d.sec := rfl
@[simp] theorem modSeq_power (d : Device) (w : SeqId) (f : Sequencer → Sequencer) : (modSeq d w f).power = d.power := rfl
@[simp] theorem modSeq_clock (d : Device) (w : SeqId) (f : Sequencer → Sequencer) : (modSeq d w f).clock = d.clock := rfl
@[simp] theorem modSeq_err (d : Device) (w : SeqId) (f : Sequencer → Sequencer) : (modSeq d w f).err = d.err := rfl
@[simp] theorem modSeq_fab (d : Device) (w : SeqId) (f : Sequencer → Sequencer) : (modSeq d w f).fab = d.fab := rfl
@[simp] theorem modSeq_hbmStat (d : Device) (w : SeqId) (f : Sequencer → Sequencer) : (modSeq d w f).hbmStat = d.hbmStat := rfl
@[simp] theorem modSeq_cxlPorts (d : Device) (w : SeqId) (f : Sequencer → Sequencer) : (modSeq d w f).cxlPorts = d.cxlPorts := rfl
@[simp] theorem modSeq_dieLinks (d : Device) (w : SeqId) (f : Sequencer → Sequencer) : (modSeq d w f).dieLinks = d.dieLinks := rfl
@[simp] theorem modSeq_scratch (d : Device) (w : SeqId) (f : Sequencer → Sequencer) : (modSeq d w f).scratch = d.scratch := rfl
@[simp] theorem modSeq_scratchBad (d : Device) (w : SeqId) (f : Sequencer → Sequencer) : (modSeq d w f).scratchBad = d.scratchBad := rfl
@[simp] theorem modSeq_reservoir (d : Device) (w : SeqId) (f : Sequencer → Sequencer) : (modSeq d w f).reservoir = d.reservoir := rfl
@[simp] theorem modSeq_retained (d : Device) (w : SeqId) (f : Sequencer → Sequencer) : (modSeq d w f).retained = d.retained := rfl
@[simp] theorem modSeq_hbm (d : Device) (w : SeqId) (f : Sequencer → Sequencer) : (modSeq d w f).hbm = d.hbm := rfl
@[simp] theorem modSeq_cxl (d : Device) (w : SeqId) (f : Sequencer → Sequencer) : (modSeq d w f).cxl = d.cxl := rfl
@[simp] theorem modSeq_host (d : Device) (w : SeqId) (f : Sequencer → Sequencer) : (modSeq d w f).host = d.host := rfl
@[simp] theorem modSeq_freeCtr (d : Device) (w : SeqId) (f : Sequencer → Sequencer) : (modSeq d w f).freeCtr = d.freeCtr := rfl
@[simp] theorem modSeq_justSet (d : Device) (w : SeqId) (f : Sequencer → Sequencer) : (modSeq d w f).justSet = d.justSet := rfl

@[simp] theorem modDom_cores (d : Device) (i : DomId) (f : Domain → Domain) : (modDom d i f).cores = d.cores := rfl
@[simp] theorem modDom_barriers (d : Device) (i : DomId) (f : Domain → Domain) : (modDom d i f).barriers = d.barriers := rfl
@[simp] theorem modDom_rings (d : Device) (i : DomId) (f : Domain → Domain) : (modDom d i f).rings = d.rings := rfl
@[simp] theorem modDom_msix (d : Device) (i : DomId) (f : Domain → Domain) : (modDom d i f).msix = d.msix := rfl
@[simp] theorem modDom_cmds (d : Device) (i : DomId) (f : Domain → Domain) : (modDom d i f).cmds = d.cmds := rfl
@[simp] theorem modDom_config (d : Device) (i : DomId) (f : Domain → Domain) : (modDom d i f).config = d.config := rfl
@[simp] theorem modDom_vfPart (d : Device) (i : DomId) (f : Domain → Domain) : (modDom d i f).vfPart = d.vfPart := rfl
@[simp] theorem modDom_ringTurn (d : Device) (i : DomId) (f : Domain → Domain) : (modDom d i f).ringTurn = d.ringTurn := rfl
@[simp] theorem modDom_rb (d : Device) (i : DomId) (f : Domain → Domain) : (modDom d i f).rb = d.rb := rfl
@[simp] theorem modDom_sec (d : Device) (i : DomId) (f : Domain → Domain) : (modDom d i f).sec = d.sec := rfl
@[simp] theorem modDom_power (d : Device) (i : DomId) (f : Domain → Domain) : (modDom d i f).power = d.power := rfl
@[simp] theorem modDom_clock (d : Device) (i : DomId) (f : Domain → Domain) : (modDom d i f).clock = d.clock := rfl
@[simp] theorem modDom_err (d : Device) (i : DomId) (f : Domain → Domain) : (modDom d i f).err = d.err := rfl
@[simp] theorem modDom_fab (d : Device) (i : DomId) (f : Domain → Domain) : (modDom d i f).fab = d.fab := rfl
@[simp] theorem modDom_hbmStat (d : Device) (i : DomId) (f : Domain → Domain) : (modDom d i f).hbmStat = d.hbmStat := rfl
@[simp] theorem modDom_cxlPorts (d : Device) (i : DomId) (f : Domain → Domain) : (modDom d i f).cxlPorts = d.cxlPorts := rfl
@[simp] theorem modDom_dieLinks (d : Device) (i : DomId) (f : Domain → Domain) : (modDom d i f).dieLinks = d.dieLinks := rfl
@[simp] theorem modDom_scratch (d : Device) (i : DomId) (f : Domain → Domain) : (modDom d i f).scratch = d.scratch := rfl
@[simp] theorem modDom_scratchBad (d : Device) (i : DomId) (f : Domain → Domain) : (modDom d i f).scratchBad = d.scratchBad := rfl
@[simp] theorem modDom_reservoir (d : Device) (i : DomId) (f : Domain → Domain) : (modDom d i f).reservoir = d.reservoir := rfl
@[simp] theorem modDom_retained (d : Device) (i : DomId) (f : Domain → Domain) : (modDom d i f).retained = d.retained := rfl
@[simp] theorem modDom_hbm (d : Device) (i : DomId) (f : Domain → Domain) : (modDom d i f).hbm = d.hbm := rfl
@[simp] theorem modDom_cxl (d : Device) (i : DomId) (f : Domain → Domain) : (modDom d i f).cxl = d.cxl := rfl
@[simp] theorem modDom_host (d : Device) (i : DomId) (f : Domain → Domain) : (modDom d i f).host = d.host := rfl
@[simp] theorem modDom_freeCtr (d : Device) (i : DomId) (f : Domain → Domain) : (modDom d i f).freeCtr = d.freeCtr := rfl
@[simp] theorem modDom_justSet (d : Device) (i : DomId) (f : Domain → Domain) : (modDom d i f).justSet = d.justSet := rfl

@[simp] theorem modRun_cores (d : Device) (i : DomId) (f : Run → Run) : (modRun d i f).cores = d.cores := rfl
@[simp] theorem modRun_barriers (d : Device) (i : DomId) (f : Run → Run) : (modRun d i f).barriers = d.barriers := rfl
@[simp] theorem modRun_rings (d : Device) (i : DomId) (f : Run → Run) : (modRun d i f).rings = d.rings := rfl
@[simp] theorem modRun_msix (d : Device) (i : DomId) (f : Run → Run) : (modRun d i f).msix = d.msix := rfl
@[simp] theorem modRun_cmds (d : Device) (i : DomId) (f : Run → Run) : (modRun d i f).cmds = d.cmds := rfl
@[simp] theorem modRun_config (d : Device) (i : DomId) (f : Run → Run) : (modRun d i f).config = d.config := rfl
@[simp] theorem modRun_vfPart (d : Device) (i : DomId) (f : Run → Run) : (modRun d i f).vfPart = d.vfPart := rfl
@[simp] theorem modRun_ringTurn (d : Device) (i : DomId) (f : Run → Run) : (modRun d i f).ringTurn = d.ringTurn := rfl
@[simp] theorem modRun_rb (d : Device) (i : DomId) (f : Run → Run) : (modRun d i f).rb = d.rb := rfl
@[simp] theorem modRun_sec (d : Device) (i : DomId) (f : Run → Run) : (modRun d i f).sec = d.sec := rfl
@[simp] theorem modRun_power (d : Device) (i : DomId) (f : Run → Run) : (modRun d i f).power = d.power := rfl
@[simp] theorem modRun_clock (d : Device) (i : DomId) (f : Run → Run) : (modRun d i f).clock = d.clock := rfl
@[simp] theorem modRun_err (d : Device) (i : DomId) (f : Run → Run) : (modRun d i f).err = d.err := rfl
@[simp] theorem modRun_fab (d : Device) (i : DomId) (f : Run → Run) : (modRun d i f).fab = d.fab := rfl
@[simp] theorem modRun_hbmStat (d : Device) (i : DomId) (f : Run → Run) : (modRun d i f).hbmStat = d.hbmStat := rfl
@[simp] theorem modRun_cxlPorts (d : Device) (i : DomId) (f : Run → Run) : (modRun d i f).cxlPorts = d.cxlPorts := rfl
@[simp] theorem modRun_dieLinks (d : Device) (i : DomId) (f : Run → Run) : (modRun d i f).dieLinks = d.dieLinks := rfl
@[simp] theorem modRun_scratch (d : Device) (i : DomId) (f : Run → Run) : (modRun d i f).scratch = d.scratch := rfl
@[simp] theorem modRun_scratchBad (d : Device) (i : DomId) (f : Run → Run) : (modRun d i f).scratchBad = d.scratchBad := rfl
@[simp] theorem modRun_reservoir (d : Device) (i : DomId) (f : Run → Run) : (modRun d i f).reservoir = d.reservoir := rfl
@[simp] theorem modRun_retained (d : Device) (i : DomId) (f : Run → Run) : (modRun d i f).retained = d.retained := rfl
@[simp] theorem modRun_hbm (d : Device) (i : DomId) (f : Run → Run) : (modRun d i f).hbm = d.hbm := rfl
@[simp] theorem modRun_cxl (d : Device) (i : DomId) (f : Run → Run) : (modRun d i f).cxl = d.cxl := rfl
@[simp] theorem modRun_host (d : Device) (i : DomId) (f : Run → Run) : (modRun d i f).host = d.host := rfl
@[simp] theorem modRun_freeCtr (d : Device) (i : DomId) (f : Run → Run) : (modRun d i f).freeCtr = d.freeCtr := rfl
@[simp] theorem modRun_justSet (d : Device) (i : DomId) (f : Run → Run) : (modRun d i f).justSet = d.justSet := rfl

@[simp] theorem noteSet_cores (d : Device) (b : W1cBit) : (noteSet d b).cores = d.cores := rfl
@[simp] theorem noteSet_parts (d : Device) (b : W1cBit) : (noteSet d b).parts = d.parts := rfl
@[simp] theorem noteSet_barriers (d : Device) (b : W1cBit) : (noteSet d b).barriers = d.barriers := rfl
@[simp] theorem noteSet_rings (d : Device) (b : W1cBit) : (noteSet d b).rings = d.rings := rfl
@[simp] theorem noteSet_msix (d : Device) (b : W1cBit) : (noteSet d b).msix = d.msix := rfl
@[simp] theorem noteSet_cmds (d : Device) (b : W1cBit) : (noteSet d b).cmds = d.cmds := rfl
@[simp] theorem noteSet_config (d : Device) (b : W1cBit) : (noteSet d b).config = d.config := rfl
@[simp] theorem noteSet_vfPart (d : Device) (b : W1cBit) : (noteSet d b).vfPart = d.vfPart := rfl
@[simp] theorem noteSet_ringTurn (d : Device) (b : W1cBit) : (noteSet d b).ringTurn = d.ringTurn := rfl
@[simp] theorem noteSet_rb (d : Device) (b : W1cBit) : (noteSet d b).rb = d.rb := rfl
@[simp] theorem noteSet_sec (d : Device) (b : W1cBit) : (noteSet d b).sec = d.sec := rfl
@[simp] theorem noteSet_power (d : Device) (b : W1cBit) : (noteSet d b).power = d.power := rfl
@[simp] theorem noteSet_clock (d : Device) (b : W1cBit) : (noteSet d b).clock = d.clock := rfl
@[simp] theorem noteSet_err (d : Device) (b : W1cBit) : (noteSet d b).err = d.err := rfl
@[simp] theorem noteSet_fab (d : Device) (b : W1cBit) : (noteSet d b).fab = d.fab := rfl
@[simp] theorem noteSet_hbmStat (d : Device) (b : W1cBit) : (noteSet d b).hbmStat = d.hbmStat := rfl
@[simp] theorem noteSet_cxlPorts (d : Device) (b : W1cBit) : (noteSet d b).cxlPorts = d.cxlPorts := rfl
@[simp] theorem noteSet_dieLinks (d : Device) (b : W1cBit) : (noteSet d b).dieLinks = d.dieLinks := rfl
@[simp] theorem noteSet_scratch (d : Device) (b : W1cBit) : (noteSet d b).scratch = d.scratch := rfl
@[simp] theorem noteSet_scratchBad (d : Device) (b : W1cBit) : (noteSet d b).scratchBad = d.scratchBad := rfl
@[simp] theorem noteSet_reservoir (d : Device) (b : W1cBit) : (noteSet d b).reservoir = d.reservoir := rfl
@[simp] theorem noteSet_retained (d : Device) (b : W1cBit) : (noteSet d b).retained = d.retained := rfl
@[simp] theorem noteSet_hbm (d : Device) (b : W1cBit) : (noteSet d b).hbm = d.hbm := rfl
@[simp] theorem noteSet_cxl (d : Device) (b : W1cBit) : (noteSet d b).cxl = d.cxl := rfl
@[simp] theorem noteSet_host (d : Device) (b : W1cBit) : (noteSet d b).host = d.host := rfl
@[simp] theorem noteSet_freeCtr (d : Device) (b : W1cBit) : (noteSet d b).freeCtr = d.freeCtr := rfl
@[simp] theorem noteSet_justSet (d : Device) (b : W1cBit) : (noteSet d b).justSet = d.justSet.insert b := rfl

end Sys2Proof.Machine
end

