-- ==== Sys2Proof/Laws/Keeps.lean ====
section
/-! SUPPORT. What a slot of an issued bundle leaves alone: Keeps l d e says that e differs from d in none of the
parts of a core outside l, and that whatever was in flight in d (fills, pending stores, queued requests, flag
changes) still is in e. -/

namespace Sys2Proof.Machine

/-- Parts of a core that some slots of a bundle change and others do not. -/
inductive CorePart where
  | seqs | ags | lqs | mqs | credit | matrix | vector | bars
deriving DecidableEq

/-- What an operation may have done to a core or context. -/
structure UnitKeeps (l : List CorePart) (u v : CtxUnit) : Prop where
  bound : v.bound = u.bound
  matrix : .matrix ∉ l → v.matrix = u.matrix
  vector : .vector ∉ l → v.vector = u.vector
  fills : u.fills ⊆ v.fills
  stores : u.stores ⊆ v.stores
  rqueue : u.rqueue ⊆ v.rqueue

/-- What an operation may have done to a physical core. -/
structure CoreKeeps (l : List CorePart) (k m : Core) : Prop where
  split : m.split = k.split
  seqs : .seqs ∉ l → m.seqs = k.seqs
  ags : .ags ∉ l → m.ags = k.ags
  lqs : .lqs ∉ l → m.lqs = k.lqs
  mqs : .mqs ∉ l → m.mqs = k.mqs
  credit : .credit ∉ l → m.credit = k.credit
  flagPend : k.flagPend ⊆ m.flagPend
  vregPend : k.vregPend ⊆ m.vregPend
  units : ∀ x, UnitKeeps l (vget k.units x) (vget m.units x)

/-- What an operation may have done to a domain: its run's tick stays and its variable items stay. -/
structure DomKeeps (m n : Domain) : Prop where
  st : n.st = m.st
  runHandle : n.runHandle = m.runHandle
  none : m.run = none → n.run = none
  run : ∀ r, m.run = some r → ∃ q, n.run = some q ∧ q.tick = r.tick ∧ q.period = r.period ∧ r.items ⊆ q.items

/-- What an operation from d to e may have done to the cores, the barriers and the domains. -/
structure Keeps (l : List CorePart) (d e : Device) : Prop where
  config : e.config = d.config
  doms : ∀ i, DomKeeps (getDom d i) (getDom e i)
  core : ∀ c, CoreKeeps l (getCore d c) (getCore e c)
  bars : .bars ∉ l → e.barriers = d.barriers

theorem UnitKeeps.refl (l : List CorePart) (u : CtxUnit) : UnitKeeps l u u :=
  ⟨rfl, fun _ => rfl, fun _ => rfl, List.Subset.refl _, List.Subset.refl _, List.Subset.refl _⟩

theorem UnitKeeps.trans {l k : List CorePart} {u v x : CtxUnit} (h : UnitKeeps k v x) (hk : k ⊆ l) (hu : UnitKeeps l u v) : UnitKeeps l u x :=
  ⟨h.bound.trans hu.bound, fun hn => (h.matrix fun i => hn (hk i)).trans (hu.matrix hn), fun hn => (h.vector fun i => hn (hk i)).trans (hu.vector hn),
    List.Subset.trans hu.fills h.fills, List.Subset.trans hu.stores h.stores, List.Subset.trans hu.rqueue h.rqueue⟩

theorem CoreKeeps.refl (l : List CorePart) (k : Core) : CoreKeeps l k k :=
  ⟨rfl, fun _ => rfl, fun _ => rfl, fun _ => rfl, fun _ => rfl, fun _ => rfl, List.Subset.refl _, List.Subset.refl _, fun _ => UnitKeeps.refl _ _⟩

theorem CoreKeeps.trans {l k : List CorePart} {a b c : Core} (h : CoreKeeps k b c) (hk : k ⊆ l) (ha : CoreKeeps l a b) : CoreKeeps l a c :=
  ⟨h.split.trans ha.split, fun hn => (h.seqs fun i => hn (hk i)).trans (ha.seqs hn), fun hn => (h.ags fun i => hn (hk i)).trans (ha.ags hn),
    fun hn => (h.lqs fun i => hn (hk i)).trans (ha.lqs hn), fun hn => (h.mqs fun i => hn (hk i)).trans (ha.mqs hn),
    fun hn => (h.credit fun i => hn (hk i)).trans (ha.credit hn), List.Subset.trans ha.flagPend h.flagPend, List.Subset.trans ha.vregPend h.vregPend, fun x => (h.units x).trans hk (ha.units x)⟩

theorem DomKeeps.refl (m : Domain) : DomKeeps m m := ⟨rfl, rfl, id, fun r h => ⟨r, h, rfl, rfl, List.Subset.refl _⟩⟩

theorem DomKeeps.trans {a b c : Domain} (h : DomKeeps b c) (ha : DomKeeps a b) : DomKeeps a c := by
  refine ⟨h.st.trans ha.st, h.runHandle.trans ha.runHandle, fun hn => h.none (ha.none hn), fun r hr => ?_⟩
  obtain ⟨q, hq, h1, h2, h3⟩ := ha.run r hr
  obtain ⟨x, hx, k1, k2, k3⟩ := h.run q hq
  exact ⟨x, hx, k1.trans h1, k2.trans h2, List.Subset.trans h3 k3⟩

namespace Keeps

theorem refl (l : List CorePart) (d : Device) : Keeps l d d := ⟨rfl, fun _ => DomKeeps.refl _, fun _ => CoreKeeps.refl _ _, fun _ => rfl⟩

/-- One step more, of an operation that changes no part outside k. -/
theorem step {l k : List CorePart} {d x e : Device} (h : Keeps k x e) (hk : k ⊆ l) (hx : Keeps l d x) : Keeps l d e :=
  ⟨h.config.trans hx.config, fun i => (h.doms i).trans (hx.doms i), fun c => (h.core c).trans hk (hx.core c), fun hn => (h.bars fun i => hn (hk i)).trans (hx.bars hn)⟩

/-- A change of neither the cores, the barriers, the domains nor the configuration. -/
theorem lit {l : List CorePart} {d e : Device} (hc : e.cores = d.cores) (hb : e.barriers = d.barriers) (hp : e.parts = d.parts)
    (hg : e.config = d.config) : Keeps l d e :=
  ⟨hg, fun i => by rw [show getDom e i = getDom d i by simp only [getDom, getPart, hp]]; exact DomKeeps.refl _, fun c => by rw [show getCore e c = getCore d c by simp only [getCore, hc]]; exact CoreKeeps.refl _ _, fun _ => hb⟩

theorem modCore {l : List CorePart} (d : Device) (c : CoreId) {f : Core → Core} (h : ∀ k, CoreKeeps l k (f k)) : Keeps l d (modCore d c f) := by
  refine ⟨rfl, fun _ => DomKeeps.refl _, fun x => ?_, fun _ => rfl⟩
  by_cases e : c = x
  · subst e
    rw [getCore_modCore_same]
    exact h _
  · rw [getCore_modCore_other _ _ _ _ e]
    exact CoreKeeps.refl _ _

theorem modUnit {l : List CorePart} (d : Device) (c : CtxId) {f : CtxUnit → CtxUnit} (h : ∀ u, UnitKeeps l u (f u)) : Keeps l d (modUnit d c f) := by
  refine modCore d c.core fun k =>
    ⟨rfl, fun _ => rfl, fun _ => rfl, fun _ => rfl, fun _ => rfl, fun _ => rfl, List.Subset.refl _, List.Subset.refl _, fun x => ?_⟩
  by_cases e : c.ctx = x
  · subst e
    simp only [vget_vmod_same]
    exact h _
  · simp only [vget_vmod_other _ _ _ _ e]
    exact UnitKeeps.refl _ _

theorem cond {l : List CorePart} {d a b : Device} {c : Prop} [Decidable c] (hb : Keeps l d b) (ha : Keeps l d b → Keeps l d a) :
    Keeps l d (if c then a else b) := by
  split
  · exact ha hb
  · exact hb

theorem condSnd {β : Type} {l : List CorePart} {d : Device} {a b : β × Device} {c : Prop} [Decidable c] (ha : Keeps l d a.2) (hb : Keeps l d b.2) :
    Keeps l d (if c then a else b).2 := by
  split
  · exact ha
  · exact hb

theorem fold {α : Type} {l : List CorePart} {d e : Device} {f : Device → α → Device} {xs : List α} (hf : ∀ e x, Keeps l e (f e x)) (he : Keeps l d e) :
    Keeps l d (xs.foldl f e) := by
  induction xs generalizing e with
  | nil => exact he
  | cons x xs ih => exact ih (step (hf e x) (List.Subset.refl _) he)

theorem all {α : Type} {l : List CorePart} {d e : Device} {f : Device → α → Device} {xs : List α} (hf : ∀ e x, Keeps l e (f e x)) (he : Keeps l d e) :
    Keeps l d (forAll xs e f) := fold hf he

theorem snd {β : Type} {l : List CorePart} {d e : Device} {a : β} {p : β × Device} (h : p = (a, e)) (hp : Keeps l d p.2) : Keeps l d e := by
  subst h
  exact hp

end Keeps

/-! ### The operations of a bundle's slots -/

theorem keeps_modRun (d : Device) (i : DomId) {f : Run → Run} (h : ∀ r, (f r).tick = r.tick ∧ (f r).period = r.period ∧ r.items ⊆ (f r).items) :
    Keeps [] d (modRun d i f) := by
  refine ⟨rfl, fun j => ?_, fun _ => CoreKeeps.refl _ _, fun _ => rfl⟩
  by_cases e : i = j
  · subst e
    rw [modRun, getDom_modDom_same]
    refine ⟨rfl, rfl, fun hn => by simp [hn], fun r hr => ⟨f r, by simp [hr], (h r).1, (h r).2.1, (h r).2.2⟩⟩
  · have : getDom (modRun d i f) j = getDom d j := by
      unfold modRun modDom getDom getPart modPart
      by_cases hp : i.part = j.part
      · have hd : i.dom ≠ j.dom := fun hd => e (by cases i; cases j; simp_all)
        simp only [hp, vget_vmod_same, vget_vmod_other _ _ _ _ hd]
      · simp only [vget_vmod_other _ _ _ _ hp]
    rw [this]
    exact DomKeeps.refl _
theorem keeps_modBar (d : Device) (b : Fin 64) (f : Barrier → Barrier) : Keeps [.bars] d (modBar d b f) :=
  ⟨rfl, fun _ => DomKeeps.refl _, fun _ => CoreKeeps.refl _ _, fun h => absurd (by decide) h⟩
theorem keeps_drawFree (d : Device) : Keeps [] d (drawFree d).2 := Keeps.lit rfl rfl rfl rfl

theorem keeps_modSeq (d : Device) (w : SeqId) (f : Sequencer → Sequencer) : Keeps [.seqs] d (modSeq d w f) := by
  unfold modSeq
  with_reducible repeat' first
    | exact Keeps.refl _ _
    | assumption
    | refine Keeps.cond ?_ (fun _ => ?_)
    | refine Keeps.step (k := [.seqs]) (Keeps.modCore _ _ fun _ => ⟨rfl, by (first | with_unfolding_all exact fun _ => rfl | with_unfolding_all exact fun h => absurd (by decide) h), by with_unfolding_all exact fun _ => rfl, by with_unfolding_all exact fun _ => rfl, by with_unfolding_all exact fun _ => rfl, by with_unfolding_all exact fun _ => rfl, by (first | with_unfolding_all exact fun _ => rfl | with_unfolding_all exact fun h => absurd (by decide) h | with_unfolding_all exact List.Subset.refl _), by (first | with_unfolding_all exact fun _ => rfl | with_unfolding_all exact fun h => absurd (by decide) h | with_unfolding_all exact List.Subset.refl _), fun _ => UnitKeeps.refl _ _⟩) (by with_unfolding_all decide) ?_

theorem keeps_taint (d : Device) (det unit : BitVec 16) : Keeps [] d (taint d det unit) := by
  unfold taint
  with_reducible repeat' first
    | exact Keeps.refl _ _
    | assumption
    | refine Keeps.all (fun _ _ => ?_) ?_
    | refine Keeps.cond ?_ (fun _ => ?_)
    | refine Keeps.step (keeps_modRun _ _ fun _ => ⟨rfl, rfl, by with_unfolding_all exact List.Subset.refl _⟩) (by with_unfolding_all decide) ?_

theorem keeps_useArmed (d : Device) (det unit : BitVec 16) : Keeps [] d (useArmed d det unit) := by
  unfold useArmed
  with_reducible repeat' first
    | exact Keeps.refl _ _
    | assumption
    | refine Keeps.cond ?_ (fun _ => ?_)
    | apply Keeps.step (keeps_taint _ _ _)
    | (with_unfolding_all exact Keeps.lit rfl rfl rfl rfl)
    | split
    | dsimp only
    | with_unfolding_all decide

theorem keeps_inject (d : Device) (det unit : BitVec 16) : Keeps [] d (inject d det unit).2 := by
  unfold inject
  with_reducible repeat' first
    | exact Keeps.refl _ _
    | assumption
    | refine Keeps.cond ?_ (fun _ => ?_)
    | apply Keeps.step (keeps_useArmed _ _ _)
    | split
    | dsimp only
    | with_unfolding_all decide

theorem keeps_pushEvent (d : Device) (e : ErrEvent) (p : EventPlace) : Keeps [] d (pushEvent d e p) := Keeps.lit rfl rfl rfl rfl

theorem keeps_overrun (d : Device) (k : Nat) (inj : Bool) : Keeps [] d (overrun d k inj) := Keeps.lit rfl rfl rfl rfl

theorem keeps_detect (d : Device) (e : ErrEvent) : Keeps [] d (detect d e) := by
  have hk : Keeps [] d (if e.inj then taint d e.det e.unit else d) := Keeps.cond (Keeps.refl _ _) fun _ => keeps_taint _ _ _
  have next : ∀ {x y : Device}, Keeps [] x y → Keeps [] d x → Keeps [] d y := fun h hx => Keeps.step h (List.nil_subset _) hx
  unfold detect
  dsimp only
  split
  · exact next (keeps_pushEvent _ _ _) hk
  · have hi := next (keeps_inject _ 0x162 (BitVec.ofNat 16 ‹Nat›)) hk
    refine Keeps.cond (Keeps.cond (next (keeps_pushEvent _ _ _) hi) fun h => next (keeps_overrun _ _ _) h) fun _ => ?_
    have hl : ∀ m, Keeps [] d { (inject (if e.inj then taint d e.det e.unit else d) 0x162 (BitVec.ofNat 16 ‹Nat›)).2 with err := m } :=
      fun _ => ⟨hi.config, hi.doms, hi.core, hi.bars⟩
    exact Keeps.cond (next (keeps_overrun _ _ _) (hl _)) fun _ => hl _

theorem keeps_detectAt (d : Device) (e : ErrEvent) : Keeps [] d (detectAt d e) :=
  Keeps.step (keeps_detect _ _) (by decide) (Keeps.step (keeps_inject _ _ _) (by decide) (Keeps.refl _ _))

theorem keeps_addItem (d : Device) (c : CtxId) (i : VarItem) : Keeps [] d (addItem d c i) := by
  unfold addItem
  with_reducible repeat' first
    | exact Keeps.refl _ _
    | assumption
    | refine Keeps.cond ?_ (fun _ => ?_)
    | refine Keeps.step (keeps_modRun _ _ fun _ => ⟨rfl, rfl, by (first | with_unfolding_all exact List.Subset.refl _ | with_unfolding_all exact List.subset_append_left _ _)⟩) (by with_unfolding_all decide) ?_
    | split

theorem keeps_noteReach (d : Device) (k : Fin 64) : Keeps [.bars] d (noteReach d k) := by
  unfold noteReach
  with_reducible repeat' first
    | exact Keeps.refl _ _
    | assumption
    | refine Keeps.cond ?_ (fun _ => ?_)
    | refine Keeps.step (keeps_modRun _ _ fun _ => ?_) (by with_unfolding_all decide) ?_
    | apply Keeps.step (keeps_modBar _ _ _)
    | (with_unfolding_all exact ⟨rfl, rfl, List.Subset.refl _⟩)
    | (with_unfolding_all exact ⟨rfl, rfl, List.subset_append_left _ _⟩)
    | split
    | dsimp only
    | with_unfolding_all decide

theorem keeps_modLq (d : Device) (c : CtxId) (q : Fin 4) (f : LinkQueue → LinkQueue) : Keeps [.lqs] d (modLq d c q f) := by
  unfold modLq
  with_reducible repeat' first
    | exact Keeps.refl _ _
    | assumption
    | refine Keeps.cond ?_ (fun _ => ?_)
    | refine Keeps.step (k := [.lqs]) (Keeps.modCore _ _ fun _ => ⟨rfl, by with_unfolding_all exact fun _ => rfl, by with_unfolding_all exact fun _ => rfl, by (first | with_unfolding_all exact fun _ => rfl | with_unfolding_all exact fun h => absurd (by decide) h), by with_unfolding_all exact fun _ => rfl, by with_unfolding_all exact fun _ => rfl, by (first | with_unfolding_all exact fun _ => rfl | with_unfolding_all exact fun h => absurd (by decide) h | with_unfolding_all exact List.Subset.refl _), by (first | with_unfolding_all exact fun _ => rfl | with_unfolding_all exact fun h => absurd (by decide) h | with_unfolding_all exact List.Subset.refl _), fun _ => UnitKeeps.refl _ _⟩) (by with_unfolding_all decide) ?_

theorem keeps_pushData (d : Device) (c : CtxId) (q : Fin 4) (v : Entry) : Keeps [.lqs] d (pushData d c q v) := by
  unfold pushData
  with_reducible repeat' first
    | exact Keeps.refl _ _
    | assumption
    | refine Keeps.cond ?_ (fun _ => ?_)
    | apply Keeps.step (keeps_modLq _ _ _ _)
    | split
    | dsimp only
    | with_unfolding_all decide

theorem keeps_popHead (d : Device) (c : CtxId) (q : Fin 4) : Keeps [.lqs] d (popHead d c q) := by
  unfold popHead
  with_reducible repeat' first
    | exact Keeps.refl _ _
    | assumption
    | refine Keeps.cond ?_ (fun _ => ?_)
    | apply Keeps.step (keeps_modLq _ _ _ _)
    | split
    | dsimp only
    | with_unfolding_all decide

theorem keeps_takeOperand (d : Device) (c : CtxId) (code : BitVec 5) : Keeps [.lqs] d (takeOperand d c code) := by
  unfold takeOperand
  with_reducible repeat' first
    | exact Keeps.refl _ _
    | assumption
    | refine Keeps.cond ?_ (fun _ => ?_)
    | apply Keeps.step (keeps_popHead _ _ _)
    | split
    | dsimp only
    | with_unfolding_all decide

theorem keeps_putResult (d : Device) (c : CtxId) (code : BitVec 5) (n : Nat) (v : Entry) (issued : Nat) : Keeps [.lqs] d (putResult d c code n v issued) := by
  unfold putResult
  with_reducible repeat' first
    | exact Keeps.refl _ _
    | assumption
    | refine Keeps.cond ?_ (fun _ => ?_)
    | apply Keeps.step (keeps_pushData _ _ _ _)
    | refine Keeps.step (k := [.lqs]) (Keeps.modCore _ _ fun _ => ⟨rfl, by with_unfolding_all exact fun _ => rfl, by with_unfolding_all exact fun _ => rfl, by with_unfolding_all exact fun _ => rfl, by with_unfolding_all exact fun _ => rfl, by with_unfolding_all exact fun _ => rfl, by (first | with_unfolding_all exact fun _ => rfl | with_unfolding_all exact fun h => absurd (by decide) h | with_unfolding_all exact List.Subset.refl _), by (first | with_unfolding_all exact fun _ => rfl | with_unfolding_all exact fun h => absurd (by decide) h | with_unfolding_all exact List.Subset.refl _ | with_unfolding_all exact List.subset_append_left _ _), fun _ => UnitKeeps.refl _ _⟩) (by with_unfolding_all decide) ?_
    | split
    | dsimp only
    | with_unfolding_all decide

theorem keeps_modAg (d : Device) (c : CtxId) (g : Nat) (f : AddrGen → AddrGen) : Keeps [.ags] d (modAg d c g f) := by
  unfold modAg
  with_reducible repeat' first
    | exact Keeps.refl _ _
    | assumption
    | refine Keeps.cond ?_ (fun _ => ?_)
    | refine Keeps.step (k := [.ags]) (Keeps.modCore _ _ fun _ => ⟨rfl, by with_unfolding_all exact fun _ => rfl, by (first | with_unfolding_all exact fun _ => rfl | with_unfolding_all exact fun h => absurd (by decide) h), by with_unfolding_all exact fun _ => rfl, by with_unfolding_all exact fun _ => rfl, by with_unfolding_all exact fun _ => rfl, by (first | with_unfolding_all exact fun _ => rfl | with_unfolding_all exact fun h => absurd (by decide) h | with_unfolding_all exact List.Subset.refl _), by (first | with_unfolding_all exact fun _ => rfl | with_unfolding_all exact fun h => absurd (by decide) h | with_unfolding_all exact List.Subset.refl _), fun _ => UnitKeeps.refl _ _⟩) (by with_unfolding_all decide) ?_

theorem keeps_countSent (d : Device) (c t : CtxId) (f : Byte) (i : W32) : Keeps [] d (countSent d c t f i) := by
  unfold countSent
  with_reducible repeat' first
    | exact Keeps.refl _ _
    | assumption
    | refine Keeps.cond ?_ (fun _ => ?_)
    | refine Keeps.step (k := []) (Keeps.modCore _ _ fun _ => ⟨rfl, by with_unfolding_all exact fun _ => rfl, by with_unfolding_all exact fun _ => rfl, by with_unfolding_all exact fun _ => rfl, by with_unfolding_all exact fun _ => rfl, by with_unfolding_all exact fun _ => rfl, by (first | with_unfolding_all exact fun _ => rfl | with_unfolding_all exact fun h => absurd (by decide) h | with_unfolding_all exact List.Subset.refl _), by (first | with_unfolding_all exact fun _ => rfl | with_unfolding_all exact fun h => absurd (by decide) h | with_unfolding_all exact List.Subset.refl _), fun _ => UnitKeeps.refl _ _⟩) (by with_unfolding_all decide) ?_

theorem keeps_pendFlag (d : Device) (core : CoreId) (x : FlagChange) : Keeps [] d (pendFlag d core x) := by
  unfold pendFlag
  with_reducible repeat' first
    | exact Keeps.refl _ _
    | assumption
    | refine Keeps.cond ?_ (fun _ => ?_)
    | refine Keeps.step (k := []) (Keeps.modCore _ _ fun _ => ⟨rfl, by with_unfolding_all exact fun _ => rfl, by with_unfolding_all exact fun _ => rfl, by with_unfolding_all exact fun _ => rfl, by with_unfolding_all exact fun _ => rfl, by with_unfolding_all exact fun _ => rfl, by (first | with_unfolding_all exact fun _ => rfl | with_unfolding_all exact fun h => absurd (by decide) h | with_unfolding_all exact List.Subset.refl _ | with_unfolding_all exact List.subset_append_left _ _), by (first | with_unfolding_all exact fun _ => rfl | with_unfolding_all exact fun h => absurd (by decide) h | with_unfolding_all exact List.Subset.refl _), fun _ => UnitKeeps.refl _ _⟩) (by with_unfolding_all decide) ?_

theorem keeps_pendAdd (d : Device) (t : CtxId) (f : Byte) (delta : W32) : Keeps [] d (pendAdd d t f delta) := by
  unfold pendAdd
  with_reducible repeat' first
    | exact Keeps.refl _ _
    | assumption
    | refine Keeps.cond ?_ (fun _ => ?_)
    | apply Keeps.step (keeps_pendFlag _ _ _)
    | split
    | dsimp only
    | with_unfolding_all decide

theorem keeps_modMq (d : Device) (c : CtxId) (q : Nat) (f : MsgQueue → MsgQueue) : Keeps [.mqs] d (modMq d c q f) := by
  unfold modMq
  with_reducible repeat' first
    | exact Keeps.refl _ _
    | assumption
    | refine Keeps.cond ?_ (fun _ => ?_)
    | refine Keeps.step (k := [.mqs]) (Keeps.modCore _ _ fun _ => ⟨rfl, by with_unfolding_all exact fun _ => rfl, by with_unfolding_all exact fun _ => rfl, by with_unfolding_all exact fun _ => rfl, by (first | with_unfolding_all exact fun _ => rfl | with_unfolding_all exact fun h => absurd (by decide) h), by with_unfolding_all exact fun _ => rfl, by (first | with_unfolding_all exact fun _ => rfl | with_unfolding_all exact fun h => absurd (by decide) h | with_unfolding_all exact List.Subset.refl _), by (first | with_unfolding_all exact fun _ => rfl | with_unfolding_all exact fun h => absurd (by decide) h | with_unfolding_all exact List.Subset.refl _), fun _ => UnitKeeps.refl _ _⟩) (by with_unfolding_all decide) ?_

theorem keeps_modCredit (d : Device) (c : CtxId) (chan : Byte) (f : Nat → Nat) : Keeps [.credit] d (modCredit d c chan f) := by
  unfold modCredit
  with_reducible repeat' first
    | exact Keeps.refl _ _
    | assumption
    | refine Keeps.cond ?_ (fun _ => ?_)
    | refine Keeps.step (k := [.credit]) (Keeps.modCore _ _ fun _ => ⟨rfl, by with_unfolding_all exact fun _ => rfl, by with_unfolding_all exact fun _ => rfl, by with_unfolding_all exact fun _ => rfl, by with_unfolding_all exact fun _ => rfl, by (first | with_unfolding_all exact fun _ => rfl | with_unfolding_all exact fun h => absurd (by decide) h), by (first | with_unfolding_all exact fun _ => rfl | with_unfolding_all exact fun h => absurd (by decide) h | with_unfolding_all exact List.Subset.refl _), by (first | with_unfolding_all exact fun _ => rfl | with_unfolding_all exact fun h => absurd (by decide) h | with_unfolding_all exact List.Subset.refl _), fun _ => UnitKeeps.refl _ _⟩) (by with_unfolding_all decide) ?_

theorem keeps_enqueue (d : Device) (c : CtxId) (r : Request) : Keeps [] d (enqueue d c r) := by
  unfold enqueue
  with_reducible repeat' first
    | exact Keeps.refl _ _
    | assumption
    | refine Keeps.cond ?_ (fun _ => ?_)
    | refine Keeps.step (k := []) (Keeps.modUnit _ _ fun _ => ⟨rfl, by with_unfolding_all exact fun _ => rfl, by with_unfolding_all exact fun _ => rfl, by (first | with_unfolding_all exact fun _ => rfl | with_unfolding_all exact fun h => absurd (by decide) h | with_unfolding_all exact List.Subset.refl _), by (first | with_unfolding_all exact fun _ => rfl | with_unfolding_all exact fun h => absurd (by decide) h | with_unfolding_all exact List.Subset.refl _), by (first | with_unfolding_all exact fun _ => rfl | with_unfolding_all exact fun h => absurd (by decide) h | with_unfolding_all exact List.Subset.refl _ | with_unfolding_all exact List.subset_append_left _ _)⟩) (by with_unfolding_all decide) ?_

theorem keeps_sendEffect (d0 d : Device) (c : CtxId) (w : SeqId) (b : RawBundle) : Keeps [.ags, .credit] d (sendEffect d0 d c w b) := by
  unfold sendEffect
  with_reducible repeat' first
    | exact Keeps.refl _ _
    | assumption
    | refine Keeps.cond ?_ (fun _ => ?_)
    | apply Keeps.step (keeps_addItem _ _ _)
    | apply Keeps.step (keeps_modAg _ _ _ _)
    | apply Keeps.step (keeps_modCredit _ _ _ _)
    | apply Keeps.step (keeps_enqueue _ _ _)
    | split
    | dsimp only
    | with_unfolding_all decide

theorem keeps_failingRead (d : Device) (r : CtxId) (key : Nat) (source : BitVec 2) (seq : Fin 4) (pc : BitVec 12) (det : BitVec 16) (inj : Bool) (ahead : Nat) : Keeps [] d (failingRead d r key source seq pc det inj ahead) := by
  unfold failingRead
  with_reducible repeat' first
    | exact Keeps.refl _ _
    | assumption
    | refine Keeps.cond ?_ (fun _ => ?_)
    | apply Keeps.step (keeps_addItem _ _ _)
    | refine Keeps.step (k := []) (Keeps.modUnit _ _ fun _ => ⟨rfl, by with_unfolding_all exact fun _ => rfl, by with_unfolding_all exact fun _ => rfl, by (first | with_unfolding_all exact fun _ => rfl | with_unfolding_all exact fun h => absurd (by decide) h | with_unfolding_all exact List.Subset.refl _), by (first | with_unfolding_all exact fun _ => rfl | with_unfolding_all exact fun h => absurd (by decide) h | with_unfolding_all exact List.Subset.refl _), by (first | with_unfolding_all exact fun _ => rfl | with_unfolding_all exact fun h => absurd (by decide) h | with_unfolding_all exact List.Subset.refl _)⟩) (by with_unfolding_all decide) ?_
    | split
    | dsimp only
    | with_unfolding_all decide

theorem keeps_parityRead (d : Device) (r c : CtxId) (off n : Nat) (source : BitVec 2) (seq : Fin 4) (pc : BitVec 12) (ahead : Nat) : Keeps [] d (parityRead d r c off n source seq pc ahead) := by
  unfold parityRead
  with_reducible repeat' first
    | exact Keeps.refl _ _
    | assumption
    | refine Keeps.all (fun _ _ => ?_) ?_
    | refine Keeps.snd (by with_reducible assumption) ?_
    | refine Keeps.cond ?_ (fun _ => ?_)
    | apply Keeps.step (keeps_inject _ _ _)
    | apply Keeps.step (keeps_failingRead _ _ _ _ _ _ _ _ _)
    | split
    | dsimp only
    | with_unfolding_all decide

theorem keeps_takeBanks (d : Device) (c : CtxId) (m : W32) : Keeps [] d (takeBanks d c m) := by
  unfold takeBanks
  with_reducible repeat' first
    | exact Keeps.refl _ _
    | assumption
    | refine Keeps.cond ?_ (fun _ => ?_)
    | refine Keeps.step (k := []) (Keeps.modUnit _ _ fun _ => ⟨rfl, by with_unfolding_all exact fun _ => rfl, by with_unfolding_all exact fun _ => rfl, by (first | with_unfolding_all exact fun _ => rfl | with_unfolding_all exact fun h => absurd (by decide) h | with_unfolding_all exact List.Subset.refl _), by (first | with_unfolding_all exact fun _ => rfl | with_unfolding_all exact fun h => absurd (by decide) h | with_unfolding_all exact List.Subset.refl _), by (first | with_unfolding_all exact fun _ => rfl | with_unfolding_all exact fun h => absurd (by decide) h | with_unfolding_all exact List.Subset.refl _)⟩) (by with_unfolding_all decide) ?_

theorem keeps_setS (d : Device) (w : SeqId) (r : Nat) (v : W64) (t : Nat) : Keeps [.seqs] d (setS d w r v t) := by
  unfold setS
  with_reducible repeat' first
    | exact Keeps.refl _ _
    | assumption
    | refine Keeps.cond ?_ (fun _ => ?_)
    | refine Keeps.step (keeps_modSeq _ _ _) (by with_unfolding_all decide) ?_

theorem keeps_setP (d : Device) (w : SeqId) (p : Nat) (v : W64) : Keeps [.seqs] d (setP d w p v) := by
  unfold setP
  with_reducible repeat' first
    | exact Keeps.refl _ _
    | assumption
    | refine Keeps.cond ?_ (fun _ => ?_)
    | refine Keeps.step (keeps_modSeq _ _ _) (by with_unfolding_all decide) ?_

theorem keeps_countMayVary (d : Device) (c : CtxId) : Keeps [] d (countMayVary d c) := by
  unfold countMayVary
  with_reducible repeat' first
    | exact Keeps.refl _ _
    | assumption
    | refine Keeps.cond ?_ (fun _ => ?_)
    | refine Keeps.step (keeps_modRun _ _ fun _ => ⟨rfl, rfl, by with_unfolding_all exact List.Subset.refl _⟩) (by with_unfolding_all decide) ?_
    | split

theorem keeps_lqEffect (d0 d : Device) (c : CtxId) (w : SeqId) (q : Sequencer) (b : RawBundle) (on : Bool) : Keeps [.seqs, .lqs] d (lqEffect d0 d c w q b on) := by
  unfold lqEffect
  with_reducible repeat' first
    | exact Keeps.refl _ _
    | assumption
    | refine Keeps.cond ?_ (fun _ => ?_)
    | apply Keeps.step (keeps_pushData _ _ _ _)
    | apply Keeps.step (keeps_popHead _ _ _)
    | apply Keeps.step (keeps_setS _ _ _ _ _)
    | split
    | dsimp only
    | with_unfolding_all decide

theorem keeps_effectR (d0 d : Device) (c : CtxId) (w : SeqId) (q : Sequencer) (b : RawBundle) : Keeps [.seqs, .lqs] d (effectR d0 d c w q b) := by
  unfold effectR
  with_reducible repeat' first
    | exact Keeps.refl _ _
    | assumption
    | refine Keeps.cond ?_ (fun _ => ?_)
    | apply Keeps.step (keeps_setS _ _ _ _ _)
    | apply Keeps.step (keeps_setP _ _ _ _)
    | apply Keeps.step (keeps_countMayVary _ _)
    | apply Keeps.step (keeps_lqEffect _ _ _ _ _ _ _)
    | split
    | dsimp only
    | with_unfolding_all decide

theorem keeps_effectI (d0 d : Device) (c : CtxId) (w : SeqId) (q : Sequencer) (b : RawBundle) : Keeps [.seqs] d (effectI d0 d c w q b) := by
  unfold effectI
  with_reducible repeat' first
    | exact Keeps.refl _ _
    | assumption
    | refine Keeps.cond ?_ (fun _ => ?_)
    | apply Keeps.step (keeps_setS _ _ _ _ _)
    | apply Keeps.step (keeps_setP _ _ _ _)
    | split
    | dsimp only
    | with_unfolding_all decide

theorem keeps_effectA (d0 d : Device) (c : CtxId) (w : SeqId) (q : Sequencer) (b : RawBundle) : Keeps [.seqs, .ags] d (effectA d0 d c w q b) := by
  unfold effectA
  with_reducible repeat' first
    | exact Keeps.refl _ _
    | assumption
    | refine Keeps.cond ?_ (fun _ => ?_)
    | apply Keeps.step (keeps_modAg _ _ _ _)
    | apply Keeps.step (keeps_setS _ _ _ _ _)
    | split
    | dsimp only
    | with_unfolding_all decide

theorem keeps_effectW (d : Device) (w : SeqId) (b : RawBundle) : Keeps [.seqs] d (effectW d w b) := by
  unfold effectW
  with_reducible repeat' first
    | exact Keeps.refl _ _
    | assumption
    | refine Keeps.cond ?_ (fun _ => ?_)
    | refine Keeps.step (keeps_modSeq _ _ _) (by with_unfolding_all decide) ?_

theorem keeps_scalarEffect (d0 d : Device) (c : CtxId) (w : SeqId) (b : RawBundle) : Keeps [.seqs, .ags, .lqs] d (scalarEffect d0 d c w b) := by
  unfold scalarEffect
  with_reducible repeat' first
    | exact Keeps.refl _ _
    | assumption
    | refine Keeps.cond ?_ (fun _ => ?_)
    | apply Keeps.step (keeps_effectR _ _ _ _ _ _)
    | apply Keeps.step (keeps_effectI _ _ _ _ _ _)
    | apply Keeps.step (keeps_effectA _ _ _ _ _ _)
    | apply Keeps.step (keeps_effectW _ _ _)
    | split
    | dsimp only
    | with_unfolding_all decide

theorem keeps_reserve (d : Device) (c : CtxId) (x : Xfer) (var : Bool) : Keeps [.lqs] d (reserve d c x var) := by
  unfold reserve
  with_reducible repeat' first
    | exact Keeps.refl _ _
    | assumption
    | refine Keeps.cond ?_ (fun _ => ?_)
    | apply Keeps.step (keeps_modLq _ _ _ _)
    | split
    | dsimp only
    | with_unfolding_all decide

theorem keeps_addFill (d : Device) (c : CtxId) (f : Fill) : Keeps [] d (addFill d c f) := by
  unfold addFill
  with_reducible repeat' first
    | exact Keeps.refl _ _
    | assumption
    | refine Keeps.cond ?_ (fun _ => ?_)
    | refine Keeps.step (k := []) (Keeps.modUnit _ _ fun _ => ⟨rfl, by with_unfolding_all exact fun _ => rfl, by with_unfolding_all exact fun _ => rfl, by (first | with_unfolding_all exact fun _ => rfl | with_unfolding_all exact fun h => absurd (by decide) h | with_unfolding_all exact List.Subset.refl _ | with_unfolding_all exact List.subset_append_left _ _), by (first | with_unfolding_all exact fun _ => rfl | with_unfolding_all exact fun h => absurd (by decide) h | with_unfolding_all exact List.Subset.refl _), by (first | with_unfolding_all exact fun _ => rfl | with_unfolding_all exact fun h => absurd (by decide) h | with_unfolding_all exact List.Subset.refl _)⟩) (by with_unfolding_all decide) ?_

theorem keeps_portBanks (d : Device) (c : CtxId) (off n : Nat) : Keeps [] d (portBanks d c off n) := by
  unfold portBanks
  with_reducible repeat' first
    | exact Keeps.refl _ _
    | assumption
    | refine Keeps.cond ?_ (fun _ => ?_)
    | apply Keeps.step (keeps_takeBanks _ _ _)
    | refine Keeps.step (k := []) (Keeps.modUnit _ _ fun _ => ⟨rfl, by with_unfolding_all exact fun _ => rfl, by with_unfolding_all exact fun _ => rfl, by (first | with_unfolding_all exact fun _ => rfl | with_unfolding_all exact fun h => absurd (by decide) h | with_unfolding_all exact List.Subset.refl _), by (first | with_unfolding_all exact fun _ => rfl | with_unfolding_all exact fun h => absurd (by decide) h | with_unfolding_all exact List.Subset.refl _), by (first | with_unfolding_all exact fun _ => rfl | with_unfolding_all exact fun h => absurd (by decide) h | with_unfolding_all exact List.Subset.refl _)⟩) (by with_unfolding_all decide) ?_
    | split
    | dsimp only
    | with_unfolding_all decide

theorem keeps_portRead (d : Device) (c : CtxId) (off n : Nat) (seq : Fin 4) (pc : BitVec 12) : Keeps [] d (portRead d c off n seq pc).2.2 := by
  unfold portRead
  with_reducible repeat' first
    | exact Keeps.refl _ _
    | assumption
    | refine Keeps.cond ?_ (fun _ => ?_)
    | apply Keeps.step (keeps_parityRead _ _ _ _ _ _ _ _ _)
    | apply Keeps.step (keeps_portBanks _ _ _ _)
    | refine Keeps.step (k := []) (Keeps.modUnit _ _ fun _ => ⟨rfl, by with_unfolding_all exact fun _ => rfl, by with_unfolding_all exact fun _ => rfl, by (first | with_unfolding_all exact fun _ => rfl | with_unfolding_all exact fun h => absurd (by decide) h | with_unfolding_all exact List.Subset.refl _), by (first | with_unfolding_all exact fun _ => rfl | with_unfolding_all exact fun h => absurd (by decide) h | with_unfolding_all exact List.Subset.refl _), by (first | with_unfolding_all exact fun _ => rfl | with_unfolding_all exact fun h => absurd (by decide) h | with_unfolding_all exact List.Subset.refl _)⟩) (by with_unfolding_all decide) ?_
    | split
    | dsimp only
    | with_unfolding_all decide

theorem keeps_returnCredit (d : Device) (c : CtxId) (m : MqDesc) : Keeps [] d (returnCredit d c m) := by
  unfold returnCredit
  with_reducible repeat' first
    | exact Keeps.refl _ _
    | assumption
    | refine Keeps.cond ?_ (fun _ => ?_)
    | apply Keeps.step (keeps_addItem _ _ _)
    | refine Keeps.step (k := []) (Keeps.modUnit _ _ fun _ => ⟨rfl, by with_unfolding_all exact fun _ => rfl, by with_unfolding_all exact fun _ => rfl, by (first | with_unfolding_all exact fun _ => rfl | with_unfolding_all exact fun h => absurd (by decide) h | with_unfolding_all exact List.Subset.refl _), by (first | with_unfolding_all exact fun _ => rfl | with_unfolding_all exact fun h => absurd (by decide) h | with_unfolding_all exact List.Subset.refl _), by (first | with_unfolding_all exact fun _ => rfl | with_unfolding_all exact fun h => absurd (by decide) h | with_unfolding_all exact List.Subset.refl _)⟩) (by with_unfolding_all decide) ?_
    | split
    | dsimp only
    | with_unfolding_all decide

theorem keeps_queueParity (d : Device) (c : CtxId) (seq : Fin 4) (pc : BitVec 12) : Keeps [] d (queueParity d c seq pc) := by
  unfold queueParity
  with_reducible repeat' first
    | exact Keeps.refl _ _
    | assumption
    | refine Keeps.snd (by with_reducible assumption) ?_
    | refine Keeps.cond ?_ (fun _ => ?_)
    | apply Keeps.step (keeps_drawFree _)
    | apply Keeps.step (keeps_inject _ _ _)
    | apply Keeps.step (keeps_failingRead _ _ _ _ _ _ _ _ _)
    | split
    | dsimp only
    | with_unfolding_all decide

theorem keeps_localLoad (d : Device) (c : CtxId) (x : Xfer) : Keeps [.lqs, .mqs] d (localLoad d c x) := by
  unfold localLoad
  with_reducible repeat' first
    | exact Keeps.refl _ _
    | assumption
    | refine Keeps.snd (by with_reducible assumption) ?_
    | refine Keeps.cond ?_ (fun _ => ?_)
    | apply Keeps.step (keeps_modMq _ _ _ _)
    | apply Keeps.step (keeps_reserve _ _ _ _)
    | apply Keeps.step (keeps_addFill _ _ _)
    | apply Keeps.step (keeps_portBanks _ _ _ _)
    | apply Keeps.step (keeps_portRead _ _ _ _ _ _)
    | apply Keeps.step (keeps_returnCredit _ _ _)
    | apply Keeps.step (keeps_queueParity _ _ _ _)
    | refine Keeps.step (k := [.lqs, .mqs]) (Keeps.modUnit _ _ fun _ => ⟨rfl, by with_unfolding_all exact fun _ => rfl, by with_unfolding_all exact fun _ => rfl, by (first | with_unfolding_all exact fun _ => rfl | with_unfolding_all exact fun h => absurd (by decide) h | with_unfolding_all exact List.Subset.refl _), by (first | with_unfolding_all exact fun _ => rfl | with_unfolding_all exact fun h => absurd (by decide) h | with_unfolding_all exact List.Subset.refl _), by (first | with_unfolding_all exact fun _ => rfl | with_unfolding_all exact fun h => absurd (by decide) h | with_unfolding_all exact List.Subset.refl _)⟩) (by with_unfolding_all decide) ?_
    | split
    | dsimp only
    | with_unfolding_all decide

theorem keeps_storePop (d : Device) (c : CtxId) (x : Xfer) : Keeps [.lqs] d (storePop d c x) := by
  unfold storePop
  with_reducible repeat' first
    | exact Keeps.refl _ _
    | assumption
    | refine Keeps.cond ?_ (fun _ => ?_)
    | apply Keeps.step (keeps_popHead _ _ _)
    | split
    | dsimp only
    | with_unfolding_all decide

theorem keeps_stUnit (d : Device) (c : CtxId) {f : CtxUnit → CtxUnit}
    (h : ∀ u, (f u).bound = u.bound ∧ (f u).matrix = u.matrix ∧ (f u).vector = u.vector ∧ (f u).fills = u.fills ∧ u.stores ⊆ (f u).stores ∧
      (f u).rqueue = u.rqueue) : Keeps [] d (modUnit d c f) :=
  Keeps.modUnit d c fun u =>
    let ⟨h1, h2, h3, h4, h5, h6⟩ := h u
    ⟨h1, fun _ => h2, fun _ => h3, by rw [h4]; exact List.Subset.refl _, h5, by rw [h6]; exact List.Subset.refl _⟩

theorem keeps_localStore (d : Device) (c : CtxId) (x : Xfer) : Keeps [.lqs] d (localStore d c x) := by
  have hp : Keeps [.lqs] d (storePop d c x) := keeps_storePop d c x
  have hl : Keeps [.lqs] d (if xLine (storePop d c x) c x then modUnit (storePop d c x) c fun u => { u with stLine := some (tickOf d c) } else storePop d c x) :=
    Keeps.cond hp fun _ => Keeps.step (keeps_stUnit _ _ fun _ => ⟨rfl, rfl, rfl, rfl, List.Subset.refl _, rfl⟩) (List.nil_subset _) hp
  unfold localStore
  dsimp only
  revert hl
  generalize (if xLine (storePop d c x) c x then modUnit (storePop d c x) c fun u => { u with stLine := some (tickOf d c) } else storePop d c x) = e
  intro hl
  have hs := fun p => Keeps.step (keeps_stUnit e c (f := fun u => { u with stores := u.stores ++ [p] })
    fun _ => ⟨rfl, rfl, rfl, rfl, List.subset_append_left _ _, rfl⟩) (List.nil_subset _) hl
  have hf := fun g => Keeps.step (keeps_stUnit e c (f := fun u => { u with flights := u.flights ++ [g], nextUid := u.nextUid + 1 })
    fun _ => ⟨rfl, rfl, rfl, rfl, List.Subset.refl _, rfl⟩) (List.nil_subset _) hl
  refine Keeps.cond ?_ fun _ => Keeps.cond hl fun _ => hs _
  split
  · exact Keeps.cond (Keeps.step (keeps_detectAt _ _) (List.nil_subset _) (hf _)) fun _ => hs _
  · exact hl

theorem keeps_remoteXfer (d : Device) (c : CtxId) (x : Xfer) : Keeps [.lqs] d (remoteXfer d c x) := by
  unfold remoteXfer
  with_reducible repeat' first
    | exact Keeps.refl _ _
    | assumption
    | refine Keeps.cond ?_ (fun _ => ?_)
    | apply Keeps.step (keeps_enqueue _ _ _)
    | apply Keeps.step (keeps_countMayVary _ _)
    | apply Keeps.step (keeps_reserve _ _ _ _)
    | apply Keeps.step (keeps_storePop _ _ _)
    | split
    | dsimp only
    | with_unfolding_all decide

theorem keeps_xEffect (d : Device) (c : CtxId) (x : Xfer) : Keeps [.lqs, .mqs] d (xEffect d c x) := by
  unfold xEffect
  with_reducible repeat' first
    | exact Keeps.refl _ _
    | assumption
    | refine Keeps.cond ?_ (fun _ => ?_)
    | apply Keeps.step (keeps_localLoad _ _ _)
    | apply Keeps.step (keeps_localStore _ _ _)
    | apply Keeps.step (keeps_remoteXfer _ _ _)
    | split
    | dsimp only
    | with_unfolding_all decide

theorem keeps_xAdvance (d : Device) (c : CtxId) (x : Xfer) : Keeps [.ags] d (xAdvance d c x) := by
  unfold xAdvance
  with_reducible repeat' first
    | exact Keeps.refl _ _
    | assumption
    | refine Keeps.cond ?_ (fun _ => ?_)
    | apply Keeps.step (keeps_modAg _ _ _ _)
    | split
    | dsimp only
    | with_unfolding_all decide

theorem keeps_startUnit (d : Device) (c : CtxId) (store : Bool) (b : RawBundle) (x : Xfer) : Keeps [] d (startUnit d c store b x) := by
  unfold startUnit
  cases store <;> refine Keeps.cond ?_ fun _ => Keeps.refl _ _
  all_goals
      exact Keeps.modUnit _ _ fun _ => ⟨rfl, fun _ => rfl, fun _ => rfl, List.Subset.refl _, List.Subset.refl _, List.Subset.refl _⟩

theorem keeps_agFetchEffect (d0 d : Device) (c : CtxId) (w : SeqId) (b : RawBundle) : Keeps [] d (agFetchEffect d0 d c w b) := by
  unfold agFetchEffect
  with_reducible repeat' first
    | exact Keeps.refl _ _
    | assumption
    | refine Keeps.snd (by with_reducible assumption) ?_
    | refine Keeps.cond ?_ (fun _ => ?_)
    | apply Keeps.step (keeps_addFill _ _ _)
    | apply Keeps.step (keeps_portRead _ _ _ _ _ _)
    | split
    | dsimp only
    | with_unfolding_all decide

theorem keeps_memEffect (d0 d : Device) (c : CtxId) (w : SeqId) (b : RawBundle) : Keeps [.ags, .lqs, .mqs] d (memEffect d0 d c w b) := by
  unfold memEffect
  with_reducible repeat' first
    | exact Keeps.refl _ _
    | assumption
    | refine Keeps.cond ?_ (fun _ => ?_)
    | apply Keeps.step (keeps_xEffect _ _ _)
    | apply Keeps.step (keeps_xAdvance _ _ _)
    | apply Keeps.step (keeps_startUnit _ _ _ _ _)
    | split
    | dsimp only
    | with_unfolding_all decide

theorem keeps_modMatrix (d : Device) (c : CtxId) (f : MatrixUnit → MatrixUnit) : Keeps [.matrix] d (modMatrix d c f) := by
  unfold modMatrix
  with_reducible repeat' first
    | exact Keeps.refl _ _
    | assumption
    | refine Keeps.cond ?_ (fun _ => ?_)
    | refine Keeps.step (k := [.matrix]) (Keeps.modUnit _ _ fun _ => ⟨rfl, by (first | with_unfolding_all exact fun _ => rfl | with_unfolding_all exact fun h => absurd (by decide) h), by with_unfolding_all exact fun _ => rfl, by (first | with_unfolding_all exact fun _ => rfl | with_unfolding_all exact fun h => absurd (by decide) h | with_unfolding_all exact List.Subset.refl _), by (first | with_unfolding_all exact fun _ => rfl | with_unfolding_all exact fun h => absurd (by decide) h | with_unfolding_all exact List.Subset.refl _), by (first | with_unfolding_all exact fun _ => rfl | with_unfolding_all exact fun h => absurd (by decide) h | with_unfolding_all exact List.Subset.refl _)⟩) (by with_unfolding_all decide) ?_

theorem keeps_modPlaneOf (d : Device) (c : CtxId) (p : Fin 2) (f : Plane → Plane) : Keeps [.matrix] d (modPlaneOf d c p f) := by
  unfold modPlaneOf
  with_reducible repeat' first
    | exact Keeps.refl _ _
    | assumption
    | refine Keeps.cond ?_ (fun _ => ?_)
    | apply Keeps.step (keeps_modMatrix _ _ _)
    | split
    | dsimp only
    | with_unfolding_all decide

theorem keeps_raiseArray (d : Device) (c : CtxId) (f : NFlags) (pc : BitVec 12) : Keeps [.matrix] d (raiseArray d c f pc) := by
  unfold raiseArray
  with_reducible repeat' first
    | exact Keeps.refl _ _
    | assumption
    | refine Keeps.cond ?_ (fun _ => ?_)
    | apply Keeps.step (keeps_modMatrix _ _ _)
    | split
    | dsimp only
    | with_unfolding_all decide

theorem keeps_feedTake (d : Device) (c : CtxId) (g : Feed) : Keeps [.lqs] d (feedTake d c g).2 := by
  unfold feedTake
  with_reducible repeat' first
    | exact Keeps.refl _ _
    | assumption
    | refine Keeps.cond ?_ (fun _ => ?_)
    | apply Keeps.step (keeps_takeOperand _ _ _)
    | split
    | dsimp only
    | with_unfolding_all decide

theorem keeps_setFeed (d : Device) (c : CtxId) (g : Feed) : Keeps [.matrix] d (setFeed d c g) := by
  unfold setFeed
  with_reducible repeat' first
    | exact Keeps.refl _ _
    | assumption
    | refine Keeps.cond ?_ (fun _ => ?_)
    | apply Keeps.step (keeps_modMatrix _ _ _)
    | split
    | dsimp only
    | with_unfolding_all decide

theorem keeps_finishStep (d : Device) (c : CtxId) (g : Feed) : Keeps [.matrix] d (finishStep d c g) := by
  unfold finishStep
  with_reducible repeat' first
    | exact Keeps.refl _ _
    | assumption
    | refine Keeps.cond ?_ (fun _ => ?_)
    | apply Keeps.step (keeps_modPlaneOf _ _ _ _)
    | apply Keeps.step (keeps_raiseArray _ _ _ _)
    | apply Keeps.step (keeps_setFeed _ _ _)
    | split
    | dsimp only
    | with_unfolding_all decide

theorem keeps_feedTick (d : Device) (c : CtxId) : Keeps [.lqs, .matrix] d (feedTick d c) := by
  unfold feedTick
  with_reducible repeat' first
    | exact Keeps.refl _ _
    | assumption
    | refine Keeps.snd (by with_reducible assumption) ?_
    | refine Keeps.cond ?_ (fun _ => ?_)
    | apply Keeps.step (keeps_feedTake _ _ _)
    | apply Keeps.step (keeps_setFeed _ _ _)
    | apply Keeps.step (keeps_finishStep _ _ _)
    | split
    | dsimp only
    | with_unfolding_all decide

theorem keeps_matrixEffect (d : Device) (c : CtxId) (w : SeqId) (b : RawBundle) : Keeps [.lqs, .matrix] d (matrixEffect d c w b) := by
  unfold matrixEffect
  with_reducible repeat' first
    | exact Keeps.refl _ _
    | assumption
    | refine Keeps.cond ?_ (fun _ => ?_)
    | apply Keeps.step (keeps_putResult _ _ _ _ _ _)
    | apply Keeps.step (keeps_modMatrix _ _ _)
    | apply Keeps.step (keeps_feedTick _ _)
    | split
    | dsimp only
    | with_unfolding_all decide

theorem keeps_vTake (d : Device) (c : CtxId) (o : VOp) : Keeps [.lqs] d (vTake d c o).2 := by
  unfold vTake
  with_reducible repeat' first
    | exact Keeps.refl _ _
    | assumption
    | refine Keeps.cond ?_ (fun _ => ?_)
    | apply Keeps.step (keeps_takeOperand _ _ _)
    | split
    | dsimp only
    | with_unfolding_all decide

theorem keeps_vStep (d : Device) (c : CtxId) (o : VOp) : Keeps [.vector] d (vStep d c o).2 := by
  unfold vStep
  with_reducible repeat' first
    | exact Keeps.refl _ _
    | assumption
    | refine Keeps.cond ?_ (fun _ => ?_)
    | apply Keeps.condSnd
    | refine Keeps.step (k := [.vector]) (Keeps.modCore _ _ fun _ => ⟨rfl, by with_unfolding_all exact fun _ => rfl, by with_unfolding_all exact fun _ => rfl, by with_unfolding_all exact fun _ => rfl, by with_unfolding_all exact fun _ => rfl, by with_unfolding_all exact fun _ => rfl, by (first | with_unfolding_all exact fun _ => rfl | with_unfolding_all exact fun h => absurd (by decide) h | with_unfolding_all exact List.Subset.refl _), by (first | with_unfolding_all exact fun _ => rfl | with_unfolding_all exact fun h => absurd (by decide) h | with_unfolding_all exact List.Subset.refl _), fun _ => UnitKeeps.refl _ _⟩) (by with_unfolding_all decide) ?_
    | refine Keeps.step (k := [.vector]) (Keeps.modUnit _ _ fun _ => ⟨rfl, by with_unfolding_all exact fun _ => rfl, by (first | with_unfolding_all exact fun _ => rfl | with_unfolding_all exact fun h => absurd (by decide) h), by (first | with_unfolding_all exact fun _ => rfl | with_unfolding_all exact fun h => absurd (by decide) h | with_unfolding_all exact List.Subset.refl _), by (first | with_unfolding_all exact fun _ => rfl | with_unfolding_all exact fun h => absurd (by decide) h | with_unfolding_all exact List.Subset.refl _), by (first | with_unfolding_all exact fun _ => rfl | with_unfolding_all exact fun h => absurd (by decide) h | with_unfolding_all exact List.Subset.refl _)⟩) (by with_unfolding_all decide) ?_

theorem keeps_setVec (d : Device) (c : CtxId) (o : Option VOp) : Keeps [.vector] d (setVec d c o) := by
  unfold setVec
  with_reducible repeat' first
    | exact Keeps.refl _ _
    | assumption
    | refine Keeps.cond ?_ (fun _ => ?_)
    | refine Keeps.step (k := [.vector]) (Keeps.modUnit _ _ fun _ => ⟨rfl, by with_unfolding_all exact fun _ => rfl, by (first | with_unfolding_all exact fun _ => rfl | with_unfolding_all exact fun h => absurd (by decide) h), by (first | with_unfolding_all exact fun _ => rfl | with_unfolding_all exact fun h => absurd (by decide) h | with_unfolding_all exact List.Subset.refl _), by (first | with_unfolding_all exact fun _ => rfl | with_unfolding_all exact fun h => absurd (by decide) h | with_unfolding_all exact List.Subset.refl _), by (first | with_unfolding_all exact fun _ => rfl | with_unfolding_all exact fun h => absurd (by decide) h | with_unfolding_all exact List.Subset.refl _)⟩) (by with_unfolding_all decide) ?_

theorem keeps_putMasked (d : Device) (c : CtxId) (o : VOp) (r : VResult) (n : Nat) : Keeps [.lqs] d (putMasked d c o r n) := by
  unfold putMasked
  with_reducible repeat' first
    | exact Keeps.refl _ _
    | assumption
    | refine Keeps.cond ?_ (fun _ => ?_)
    | apply Keeps.step (keeps_putResult _ _ _ _ _ _)
    | split
    | dsimp only
    | with_unfolding_all decide

theorem keeps_applyResult (d : Device) (c : CtxId) (o : VOp) (r : VResult) : Keeps [.lqs, .vector] d (applyResult d c o r) := by
  unfold applyResult
  with_reducible repeat' first
    | exact Keeps.refl _ _
    | assumption
    | refine Keeps.cond ?_ (fun _ => ?_)
    | apply Keeps.step (keeps_putMasked _ _ _ _ _)
    | refine Keeps.step (k := [.lqs, .vector]) (Keeps.modCore _ _ fun _ => ⟨rfl, by with_unfolding_all exact fun _ => rfl, by with_unfolding_all exact fun _ => rfl, by with_unfolding_all exact fun _ => rfl, by with_unfolding_all exact fun _ => rfl, by with_unfolding_all exact fun _ => rfl, by (first | with_unfolding_all exact fun _ => rfl | with_unfolding_all exact fun h => absurd (by decide) h | with_unfolding_all exact List.Subset.refl _), by (first | with_unfolding_all exact fun _ => rfl | with_unfolding_all exact fun h => absurd (by decide) h | with_unfolding_all exact List.Subset.refl _), fun _ => UnitKeeps.refl _ _⟩) (by with_unfolding_all decide) ?_
    | refine Keeps.step (k := [.lqs, .vector]) (Keeps.modUnit _ _ fun _ => ⟨rfl, by with_unfolding_all exact fun _ => rfl, by (first | with_unfolding_all exact fun _ => rfl | with_unfolding_all exact fun h => absurd (by decide) h), by (first | with_unfolding_all exact fun _ => rfl | with_unfolding_all exact fun h => absurd (by decide) h | with_unfolding_all exact List.Subset.refl _), by (first | with_unfolding_all exact fun _ => rfl | with_unfolding_all exact fun h => absurd (by decide) h | with_unfolding_all exact List.Subset.refl _), by (first | with_unfolding_all exact fun _ => rfl | with_unfolding_all exact fun h => absurd (by decide) h | with_unfolding_all exact List.Subset.refl _)⟩) (by with_unfolding_all decide) ?_
    | split
    | dsimp only
    | with_unfolding_all decide

theorem keeps_vecTick (d : Device) (c : CtxId) : Keeps [.lqs, .vector] d (vecTick d c) := by
  unfold vecTick
  with_reducible repeat' first
    | exact Keeps.refl _ _
    | assumption
    | refine Keeps.snd (by with_reducible assumption) ?_
    | refine Keeps.all (fun _ _ => ?_) ?_
    | refine Keeps.cond ?_ (fun _ => ?_)
    | apply Keeps.step (keeps_vTake _ _ _)
    | apply Keeps.step (keeps_vStep _ _ _)
    | apply Keeps.step (keeps_setVec _ _ _)
    | apply Keeps.step (keeps_applyResult _ _ _ _)
    | split
    | dsimp only
    | with_unfolding_all decide

theorem keeps_vectorEffect (d : Device) (c : CtxId) (w : SeqId) (b : RawBundle) : Keeps [.lqs, .vector] d (vectorEffect d c w b) := by
  unfold vectorEffect
  with_reducible repeat' first
    | exact Keeps.refl _ _
    | assumption
    | refine Keeps.cond ?_ (fun _ => ?_)
    | apply Keeps.step (keeps_countMayVary _ _)
    | apply Keeps.step (keeps_setVec _ _ _)
    | apply Keeps.step (keeps_vecTick _ _)
    | split
    | dsimp only
    | with_unfolding_all decide

theorem keeps_fabricCheck (d : Device) (k : Fin 64) (n : Nat) (w : SeqId) (t : Nat) : Keeps [.bars] d (fabricCheck d k n w t) := by
  unfold fabricCheck
  with_reducible repeat' first
    | exact Keeps.refl _ _
    | assumption
    | refine Keeps.cond ?_ (fun _ => ?_)
    | apply Keeps.step (keeps_modBar _ _ _)
    | apply Keeps.step (keeps_addItem _ _ _)
    | split
    | dsimp only
    | with_unfolding_all decide

theorem keeps_barEffect (d : Device) (c : CtxId) (w : SeqId) (b : RawBundle) : Keeps [.bars] d (barEffect d c w b) := by
  unfold barEffect
  with_reducible repeat' first
    | exact Keeps.refl _ _
    | assumption
    | refine Keeps.cond ?_ (fun _ => ?_)
    | apply Keeps.step (keeps_noteReach _ _)
    | apply Keeps.step (keeps_modBar _ _ _)
    | apply Keeps.step (keeps_fabricCheck _ _ _ _ _)
    | split
    | dsimp only
    | with_unfolding_all decide

theorem keeps_extCheck (d : Device) (c : CtxId) (w : SeqId) (b : RawBundle) (need : W32) : Keeps [] d (extCheck d c w b need) := by
  unfold extCheck
  with_reducible repeat' first
    | exact Keeps.refl _ _
    | assumption
    | refine Keeps.cond ?_ (fun _ => ?_)
    | apply Keeps.step (keeps_addItem _ _ _)
    | split
    | dsimp only
    | with_unfolding_all decide

theorem keeps_signalEffect (d0 d : Device) (c : CtxId) (w : SeqId) (b : RawBundle) : Keeps [] d (signalEffect d0 d c w b) := by
  unfold signalEffect
  with_reducible repeat' first
    | exact Keeps.refl _ _
    | assumption
    | refine Keeps.cond ?_ (fun _ => ?_)
    | apply Keeps.step (keeps_countSent _ _ _ _ _)
    | apply Keeps.step (keeps_pendAdd _ _ _ _)
    | apply Keeps.step (keeps_enqueue _ _ _)
    | split
    | dsimp only
    | with_unfolding_all decide

theorem keeps_syncEffect (d0 d : Device) (c : CtxId) (w : SeqId) (b : RawBundle) : Keeps [.ags, .credit, .bars] d (syncEffect d0 d c w b) := by
  unfold syncEffect
  with_reducible repeat' first
    | exact Keeps.refl _ _
    | assumption
    | refine Keeps.cond ?_ (fun _ => ?_)
    | apply Keeps.step (keeps_pendFlag _ _ _)
    | apply Keeps.step (keeps_sendEffect _ _ _ _ _)
    | apply Keeps.step (keeps_barEffect _ _ _ _)
    | apply Keeps.step (keeps_extCheck _ _ _ _ _)
    | apply Keeps.step (keeps_signalEffect _ _ _ _ _)
    | split
    | dsimp only
    | with_unfolding_all decide

end Sys2Proof.Machine
end

