-- ==== Sys2Proof/Laws/Issue.lean ====
section
/-! SUPPORT. What the issue of a bundle comes to: the row of an operation, when its bundle issues, applies the bundle;
and all that precedes the scalar slot leaves the streams alone. -/

namespace Sys2Proof.Machine

/-- Everything of an issued bundle but its scalar slot and the stream's advance. -/
def issueSlots (d0 : Device) (c : CtxId) (w : SeqId) (b : RawBundle) : Device :=
  let d := memEffect d0 d0 c w b
  let d := if scalarOp b = 0xC0 then agFetchEffect d0 d c w b else d
  matrixEffect (vectorEffect (syncEffect d0 d c w b) c w b) c w b

theorem applyIssue_eq (d : Device) (c : CtxId) (w : SeqId) (b : RawBundle) :
    applyIssue d c w b = advanceStream d (scalarEffect d (issueSlots d c w b) c w b) c w b := rfl

theorem keeps_issueSlots (d : Device) (c : CtxId) (w : SeqId) (b : RawBundle) :
    Keeps [.ags, .lqs, .mqs, .credit, .matrix, .vector, .bars] d (issueSlots d c w b) := by
  unfold issueSlots
  refine Keeps.step (keeps_matrixEffect _ _ _ _) (by decide) ?_
  refine Keeps.step (keeps_vectorEffect _ _ _ _) (by decide) ?_
  refine Keeps.step (keeps_syncEffect _ _ _ _ _) (by decide) ?_
  have h : Keeps [.ags, .lqs, .mqs, .credit, .matrix, .vector, .bars] d (memEffect d d c w b) :=
    Keeps.step (keeps_memEffect _ _ _ _ _) (by decide) (Keeps.refl _ _)
  exact Keeps.cond h fun h => Keeps.step (keeps_agFetchEffect _ _ _ _ _) (by decide) h

theorem getSeq_issueSlots (d : Device) (c : CtxId) (w x : SeqId) (b : RawBundle) : getSeq (issueSlots d c w b) x = getSeq d x := by
  simp only [getSeq, ((keeps_issueSlots d c w b).core x.core).seqs (by decide)]

theorem split_issueSlots (d : Device) (c : CtxId) (w : SeqId) (b : RawBundle) (x : CoreId) : isSplit (issueSlots d c w b) x = isSplit d x :=
  ((keeps_issueSlots d c w b).core x).split

/-- The row of an operation, when its sequencer's bundle holds it and issues, applies the bundle. -/
theorem presentOp_issues (hit : RawBundle → Bool) (w : SeqId) (s : State)
    (hturn : myTurn s.dev (ctxOf s.dev w) w = true) (hhalt : takeHalts s.dev (ctxOf s.dev w) = none)
    (hv : verdict s.dev (ctxOf s.dev w) w = .issue) (hb : hit (fetchBundle s.dev (ctxOf s.dev w) (getSeq s.dev w)) = true) :
    presentOp hit w s =
      .next { s with dev := applyIssue s.dev (ctxOf s.dev w) w (fetchBundle s.dev (ctxOf s.dev w) (getSeq s.dev w)) } := by
  have hh : holdsOp s.dev w hit = true := by simp [holdsOp, hb]
  simp [presentOp, onDev, hh, present, hturn, hhalt, applyVerdict, hv]

end Sys2Proof.Machine
end

