-- ==== Sys2Proof/Laws/Memory.lean ====
section
/-! SUPPORT. The byte memories: every operation keeps the canonical form, and what is read after a write. -/

namespace Sys2Proof.Machine

/-! ### Order -/

theorem memRises_weaken {lo lo' : Nat} (h : lo' ≤ lo) : {m : Mem} → memRises lo m = true → memRises lo' m = true
  | [], _ => rfl
  | (k, v) :: rest, hm => by
    simp only [memRises, Bool.and_eq_true, decide_eq_true_eq] at hm ⊢
    exact ⟨le_trans h hm.1, hm.2⟩

theorem memRises_memPut (a : Nat) (v : Byte) : (m : Mem) → (lo : Nat) → lo ≤ a → memRises lo m = true → memRises lo (memPut m a v) = true
  | [], lo, h, _ => by simp [memPut, memRises, h]
  | (k, w) :: rest, lo, h, hm => by
    simp only [memRises, Bool.and_eq_true, decide_eq_true_eq] at hm
    unfold memPut
    split
    · simp only [memRises, Bool.and_eq_true, decide_eq_true_eq]
      exact ⟨h, by omega, hm.2⟩
    · split
      · simp only [memRises, Bool.and_eq_true, decide_eq_true_eq]
        exact ⟨h, by subst_vars; exact hm.2⟩
      · simp only [memRises, Bool.and_eq_true, decide_eq_true_eq]
        exact ⟨hm.1, memRises_memPut a v rest (k + 1) (by omega) hm.2⟩

theorem memRises_memDel (a : Nat) : (m : Mem) → (lo : Nat) → memRises lo m = true → memRises lo (memDel m a) = true
  | [], _, _ => rfl
  | (k, w) :: rest, lo, hm => by
    have hm' := hm
    simp only [memRises, Bool.and_eq_true, decide_eq_true_eq] at hm
    unfold memDel
    split
    · exact hm'
    · split
      · exact memRises_weaken (by omega) hm.2
      · simp only [memRises, Bool.and_eq_true, decide_eq_true_eq]
        exact ⟨hm.1, memRises_memDel a rest (k + 1) hm.2⟩

theorem memRises_filter (p : Host.Cell → Bool) : (m : Mem) → (lo : Nat) → memRises lo m = true → memRises lo (m.filter p) = true
  | [], _, _ => rfl
  | (k, w) :: rest, lo, hm => by
    simp only [memRises, Bool.and_eq_true, decide_eq_true_eq] at hm
    rw [List.filter_cons]
    split
    · simp only [memRises, Bool.and_eq_true, decide_eq_true_eq]
      exact ⟨hm.1, memRises_filter p rest (k + 1) hm.2⟩
    · exact memRises_filter p rest lo (memRises_weaken (by omega) hm.2)

/-! ### No entry that an unlisted address reads as -/

theorem memPut_nonzero (a : Nat) (v : Byte) (hv : v ≠ 0) : (m : Mem) → (m.all fun c => c.2 != 0) = true → ((memPut m a v).all fun c => c.2 != 0) = true
  | [], _ => by simpa [memPut] using hv
  | (k, w) :: rest, hm => by
    simp only [List.all_cons, Bool.and_eq_true] at hm
    unfold memPut
    split
    · simp only [List.all_cons, Bool.and_eq_true]
      exact ⟨by simpa using hv, hm.1, hm.2⟩
    · split
      · simp only [List.all_cons, Bool.and_eq_true]
        exact ⟨by simpa using hv, hm.2⟩
      · simp only [List.all_cons, Bool.and_eq_true]
        exact ⟨hm.1, memPut_nonzero a v hv rest hm.2⟩

theorem memDel_nonzero (a : Nat) : (m : Mem) → (m.all fun c => c.2 != 0) = true → ((memDel m a).all fun c => c.2 != 0) = true
  | [], _ => rfl
  | (k, w) :: rest, hm => by
    have hm' := hm
    simp only [List.all_cons, Bool.and_eq_true] at hm
    unfold memDel
    split
    · exact hm'
    · split
      · exact hm.2
      · simp only [List.all_cons, Bool.and_eq_true]
        exact ⟨hm.1, memDel_nonzero a rest hm.2⟩

/-! ### The canonical form -/

/-- A memory whose unlisted bytes read zero keeps its form under a write. -/
theorem memWf_memSet (m : Mem) (a : Nat) (v : Byte) (h : memWf true m = true) : memWf true (memSet m a v) = true := by
  simp only [memWf, Bool.and_eq_true, Bool.not_true, Bool.false_or] at h ⊢
  unfold memSet
  split
  · exact ⟨memRises_memDel a m 0 h.1, memDel_nonzero a m h.2⟩
  · rename_i hv
    exact ⟨memRises_memPut a v m 0 (Nat.zero_le _) h.1, memPut_nonzero a v hv m h.2⟩

/-- A memory whose unlisted bytes read a free value keeps its form under a write. -/
theorem memWf_memPut (m : Mem) (a : Nat) (v : Byte) (h : memWf false m = true) : memWf false (memPut m a v) = true := by
  simp only [memWf, Bool.not_false, Bool.true_or, Bool.and_true] at h ⊢
  exact memRises_memPut a v m 0 (Nat.zero_le _) h

/-- Clearing a range keeps the form. -/
theorem memWf_memClear (z : Bool) (m : Mem) (lo hi : Nat) (h : memWf z m = true) : memWf z (memClear m lo hi) = true := by
  simp only [memWf, Bool.and_eq_true, Bool.or_eq_true, Bool.not_eq_true'] at h ⊢
  refine ⟨memRises_filter _ m 0 h.1, h.2.imp id fun g => ?_⟩
  rw [List.all_eq_true] at g ⊢
  exact fun x hx => g x (List.mem_of_mem_filter hx)

/-- The empty memory has the form. -/
@[simp] theorem memWf_nil (z : Bool) : memWf z [] = true := by cases z <;> rfl

/-! ### Reading -/

theorem memFind_below {a lo : Nat} (h : a < lo) : {m : Mem} → memRises lo m = true → memFind m a = none
  | [], _ => rfl
  | (k, w) :: rest, hm => by
    simp only [memRises, Bool.and_eq_true, decide_eq_true_eq] at hm
    have hk : ¬ k = a := by omega
    simp only [memFind, hk, if_false]
    exact memFind_below (by omega) hm.2

theorem memFind_memPut (a : Nat) (v : Byte) (b : Nat) : (m : Mem) → memFind (memPut m a v) b = if b = a then some v else memFind m b
  | [] => by
    by_cases h : b = a
    · simp [memPut, memFind, h]
    · simp [memPut, memFind, h, Ne.symm h]
  | (k, w) :: rest => by
    unfold memPut
    split
    · by_cases h : b = a
      · simp [memFind, h]
      · simp [memFind, h, Ne.symm h]
    · split
      · subst_vars
        by_cases h : b = k
        · simp [memFind, h]
        · simp [memFind, h, Ne.symm h]
      · rename_i h1 h2
        by_cases hk : k = b
        · have : ¬ b = a := by omega
          simp [memFind, hk, this]
        · simp only [memFind, hk, if_false]
          exact memFind_memPut a v b rest

theorem memFind_memDel (a b : Nat) : (m : Mem) → (lo : Nat) → memRises lo m = true → memFind (memDel m a) b = if b = a then none else memFind m b
  | [], _, _ => by simp [memDel, memFind]
  | (k, w) :: rest, lo, hm => by
    have hm' := hm
    simp only [memRises, Bool.and_eq_true, decide_eq_true_eq] at hm
    unfold memDel
    split
    · rename_i h1
      by_cases h : b = a
      · have hf : memFind ((k, w) :: rest) b = none := by
          refine memFind_below (lo := k) (by omega) ?_
          simp only [memRises, Bool.and_eq_true, decide_eq_true_eq]
          exact ⟨le_refl _, hm.2⟩
        rw [hf]
        simp
      · simp [h]
    · split
      · subst_vars
        by_cases h : b = k
        · simp only [h, if_true]
          exact memFind_below (by omega) hm.2
        · simp [memFind, h, Ne.symm h]
      · rename_i h1 h2
        by_cases hk : k = b
        · have : ¬ b = a := by omega
          simp [memFind, hk, this]
        · simp only [memFind, hk, if_false]
          exact memFind_memDel a b rest (k + 1) hm.2

/-- What each byte of a zero-reading memory is after a write. -/
theorem memFind_memSet (m : Mem) (a : Nat) (v : Byte) (b : Nat) (h : memWf true m = true) :
    (memFind (memSet m a v) b).getD 0 = if b = a then v else (memFind m b).getD 0 := by
  have hr : memRises 0 m = true := by
    simp only [memWf, Bool.and_eq_true] at h
    exact h.1
  unfold memSet
  split
  · rename_i hv
    rw [memFind_memDel a b m 0 hr]
    by_cases e : b = a
    · simp [e, hv]
    · simp [e]
  · rw [memFind_memPut]
    by_cases e : b = a
    · simp [e]
    · simp [e]

/-! ### The device's memories -/

@[simp] theorem memOf_withMem_same (d : Device) (i : MemId) (m : Mem) : memOf (withMem d i m) i = m := by cases i <;> rfl

theorem memOf_withMem_other (d : Device) (i j : MemId) (m : Mem) (h : i ≠ j) : memOf (withMem d i m) j = memOf d j := by
  cases i <;> cases j <;> first | rfl | exact absurd rfl h

@[simp] theorem hbmStat_withMem (d : Device) (i : MemId) (m : Mem) : (withMem d i m).hbmStat = d.hbmStat := by cases i <;> rfl

@[simp] theorem memDefault_withMem (d : Device) (i j : MemId) (m : Mem) (a : Nat) : memDefault (withMem d i m) j a = memDefault d j a := by
  cases j <;> simp [memDefault]

/-- A write of one byte leaves every other memory as it was. -/
theorem memOf_writeByte_other (d : Device) (i j : MemId) (a : Nat) (v : Byte) (h : i ≠ j) : memOf (writeByte d i a v) j = memOf d j :=
  memOf_withMem_other d i j _ h

end Sys2Proof.Machine
end

