-- ==== Sys2Proof/Laws/Mems.lean ====
section
/-! SUPPORT. Which memories an operation may write, and that it keeps their canonical form: Mems l d e says that e
differs from d in no memory outside l, and that e's memories are in form when d's are. -/

namespace Sys2Proof.Machine

theorem memoriesWf_iff (d : Device) : memoriesWf d = true ↔ ∀ i, memWf (memZeros i) (memOf d i) = true := by
  constructor
  · intro h i
    simp only [memoriesWf, List.all_cons, List.all_nil, Bool.and_eq_true] at h
    obtain ⟨h1, h2, h3, h4, h5, h6, -⟩ := h
    cases i <;> assumption
  · intro h
    simp [memoriesWf, h]

/-- What an operation from d to e may have done to the memories. -/
structure Mems (l : List MemId) (d e : Device) : Prop where
  other : ∀ i, i ∉ l → memOf e i = memOf d i
  form : memoriesWf d = true → memoriesWf e = true

namespace Mems

theorem refl (l : List MemId) (d : Device) : Mems l d d := ⟨fun _ _ => rfl, id⟩

/-- One step more, of an operation that writes no memory outside k. -/
theorem step {l k : List MemId} {d x e : Device} (h : Mems k x e) (hk : k ⊆ l) (hx : Mems l d x) : Mems l d e :=
  ⟨fun i hi => (h.other i fun hik => hi (hk hik)).trans (hx.other i hi), fun hd => h.form (hx.form hd)⟩

/-- A change of anything but the memories. -/
theorem lit {l : List MemId} {d x : Device} {f0 f1 f2 f3 f4 f5 f6 f7 f8 f9 f10 f11 f12 f13 f14 f15 f16 f17 f19 f25 f26} (hx : Mems l d x) :
    Mems l d (Device.mk f0 f1 f2 f3 f4 f5 f6 f7 f8 f9 f10 f11 f12 f13 f14 f15 f16 f17 x.scratch f19 x.reservoir x.retained x.hbm x.cxl x.host f25 f26) := by
  have hm : ∀ i, memOf (Device.mk f0 f1 f2 f3 f4 f5 f6 f7 f8 f9 f10 f11 f12 f13 f14 f15 f16 f17 x.scratch f19 x.reservoir x.retained x.hbm x.cxl x.host f25 f26) i = memOf x i := by intro i; cases i <;> rfl
  refine ⟨fun i hi => (hm i).trans (hx.other i hi), fun hd => ?_⟩
  have := hx.form hd
  rw [memoriesWf_iff] at this ⊢
  intro i
  rw [hm i]
  exact this i

theorem lit_iff {l : List MemId} {d x : Device} {f0 f1 f2 f3 f4 f5 f6 f7 f8 f9 f10 f11 f12 f13 f14 f15 f16 f17 f19 f25 f26} :
    Mems l d (Device.mk f0 f1 f2 f3 f4 f5 f6 f7 f8 f9 f10 f11 f12 f13 f14 f15 f16 f17 x.scratch f19 x.reservoir x.retained x.hbm x.cxl x.host f25 f26) ↔ Mems l d x := by
  have hm : ∀ i, memOf (Device.mk f0 f1 f2 f3 f4 f5 f6 f7 f8 f9 f10 f11 f12 f13 f14 f15 f16 f17 x.scratch f19 x.reservoir x.retained x.hbm x.cxl x.host f25 f26) i = memOf x i := by intro i; cases i <;> rfl
  refine ⟨fun hx => ⟨fun i hi => (hm i).symm.trans (hx.other i hi), fun hd => ?_⟩, lit⟩
  have := hx.form hd
  rw [memoriesWf_iff] at this ⊢
  intro i
  rw [← hm i]
  exact this i

/-- A branch: the second alternative is shown first. -/
theorem cond {l : List MemId} {d a b : Device} {c : Prop} [Decidable c] (hb : Mems l d b) (ha : Mems l d b → Mems l d a) :
    Mems l d (if c then a else b) := by
  split
  · exact ha hb
  · exact hb

/-- Branches of a computation that gives a device as the second component. -/
theorem condSnd {β : Type} {l : List MemId} {d : Device} {a b : β × Device} {c : Prop} [Decidable c] (ha : Mems l d a.2) (hb : Mems l d b.2) :
    Mems l d (if c then a else b).2 := by
  split
  · exact ha
  · exact hb

/-- A fold over a list. -/
theorem fold {α : Type} {l : List MemId} {d e : Device} {f : Device → α → Device} {xs : List α} (hf : ∀ e x, Mems l e (f e x)) (he : Mems l d e) :
    Mems l d (xs.foldl f e) := by
  induction xs generalizing e with
  | nil => exact he
  | cons x xs ih => exact ih (step (hf e x) (List.Subset.refl _) he)

theorem all {α : Type} {l : List MemId} {d e : Device} {f : Device → α → Device} {xs : List α} (hf : ∀ e x, Mems l e (f e x)) (he : Mems l d e) :
    Mems l d (forAll xs e f) := fold hf he

/-- A fold that carries a device as the second component. -/
theorem foldSnd {α β : Type} {l : List MemId} {d : Device} {p : β × Device} {f : β × Device → α → β × Device} {xs : List α}
    (hf : ∀ p x, Mems l p.2 (f p x).2) (he : Mems l d p.2) : Mems l d (xs.foldl f p).2 := by
  induction xs generalizing p with
  | nil => exact he
  | cons x xs ih => exact ih (step (hf p x) (List.Subset.refl _) he)

/-- A fold that carries a device as the first component. -/
theorem foldFst {α β : Type} {l : List MemId} {d : Device} {p : Device × β} {f : Device × β → α → Device × β} {xs : List α}
    (hf : ∀ p x, Mems l p.1 (f p x).1) (he : Mems l d p.1) : Mems l d (xs.foldl f p).1 := by
  induction xs generalizing p with
  | nil => exact he
  | cons x xs ih => exact ih (step (hf p x) (List.Subset.refl _) he)

/-- The device of a pair that a computation gives. -/
theorem snd {β : Type} {l : List MemId} {d e : Device} {a : β} {p : β × Device} (h : p = (a, e)) (hp : Mems l d p.2) : Mems l d e := by
  subst h
  exact hp

/-- An optional device, when there is one. -/
def opt (l : List MemId) (d : Device) (o : Option Device) : Prop := ∀ e, o = some e → Mems l d e

theorem optNone (l : List MemId) (d : Device) : opt l d none := fun _ h => nomatch h

theorem optSome {l : List MemId} {d e : Device} (h : Mems l d e) : opt l d (some e) := by
  rintro x ⟨⟩
  exact h

theorem optFindSome {α : Type} {l : List MemId} {d : Device} {f : α → Option Device} {xs : List α} (hf : ∀ x, opt l d (f x)) :
    opt l d (xs.findSome? f) := by
  intro e he
  obtain ⟨x, -, hx⟩ := List.exists_of_findSome?_eq_some he
  exact hf x e hx

theorem optWeaken {l k : List MemId} {d x : Device} {o : Option Device} (ho : opt k x o) (hk : k ⊆ l) (hx : Mems l d x) : opt l d o :=
  fun e he => step (ho e he) hk hx

theorem ofOpt {l k : List MemId} {d x e : Device} {o : Option Device} (h : o = some e) (ho : opt k x o) (hk : k ⊆ l) (hx : Mems l d x) : Mems l d e :=
  step (ho e h) hk hx

theorem optGetD {l : List MemId} {d e : Device} {o : Option Device} (ho : opt l d o) (he : Mems l d e) : Mems l d (o.getD e) := by
  cases o with
  | none => exact he
  | some x => exact ho x rfl

end Mems

/-! ### The operations over the memories -/

theorem mems_withMem (d : Device) (i : MemId) (m : Mem) (h : memoriesWf d = true → memWf (memZeros i) m = true) : Mems [i] d (withMem d i m) := by
  refine ⟨fun j hj => memOf_withMem_other d i j m fun e => hj (by simp [e]), fun hd => ?_⟩
  rw [memoriesWf_iff]
  intro j
  by_cases e : i = j
  · subst e
    rw [memOf_withMem_same]
    exact h hd
  · rw [memOf_withMem_other d i j m e]
    exact (memoriesWf_iff d).1 hd j

theorem mems_writeByte (d : Device) (i : MemId) (a : Nat) (v : Byte) : Mems [i] d (writeByte d i a v) := by
  refine mems_withMem d i _ fun hd => ?_
  have h := (memoriesWf_iff d).1 hd i
  split
  · rename_i hz
    rw [hz] at h ⊢
    exact memWf_memSet _ a v h
  · rename_i hz
    have hz : memZeros i = false := by simpa using hz
    rw [hz] at h ⊢
    exact memWf_memPut _ a v h

theorem mems_writeBytes (i : MemId) : (bs : List Byte) → (d : Device) → (a : Nat) → Mems [i] d (writeBytes d i a bs)
  | [], d, _ => Mems.refl _ d
  | b :: bs, d, a => Mems.step (mems_writeBytes i bs (writeByte d i a b) (a + 1)) (List.Subset.refl _) (mems_writeByte d i a b)

end Sys2Proof.Machine
end

