-- ==== Sys2Proof/Laws/MemsHub.lean ====
section
/-! SUPPORT. Which memories the operations of the hub may write, one lemma for each: reports, clocks, resets, power, security, errors, fabric. -/

namespace Sys2Proof.Machine

/-! ### Ops -/

theorem mems_noteSet (d : Device) (b : W1cBit) : Mems [] d (noteSet d b) := by
  unfold noteSet
  with_reducible repeat' first
    | exact Mems.refl _ _
    | assumption
    | refine Mems.cond ?_ (fun _ => ?_)
    | simp only [Mems.lit_iff]
    | split
    | dsimp only
    | with_unfolding_all decide

theorem mems_modCore (d : Device) (c : CoreId) (f : Core → Core) : Mems [] d (modCore d c f) := by
  unfold modCore
  with_reducible repeat' first
    | exact Mems.refl _ _
    | assumption
    | refine Mems.cond ?_ (fun _ => ?_)
    | simp only [Mems.lit_iff]

theorem mems_modUnit (d : Device) (c : CtxId) (f : CtxUnit → CtxUnit) : Mems [] d (modUnit d c f) := by
  unfold modUnit
  with_reducible repeat' first
    | exact Mems.refl _ _
    | assumption
    | refine Mems.cond ?_ (fun _ => ?_)
    | apply Mems.step (mems_modCore _ _ _)
    | simp only [Mems.lit_iff]
    | split
    | dsimp only
    | with_unfolding_all decide

theorem mems_modSeq (d : Device) (w : SeqId) (f : Sequencer → Sequencer) : Mems [] d (modSeq d w f) := by
  unfold modSeq
  with_reducible repeat' first
    | exact Mems.refl _ _
    | assumption
    | refine Mems.cond ?_ (fun _ => ?_)
    | apply Mems.step (mems_modCore _ _ _)
    | simp only [Mems.lit_iff]
    | split
    | dsimp only
    | with_unfolding_all decide

theorem mems_modPart (d : Device) (p : PartId) (f : Part → Part) : Mems [] d (modPart d p f) := by
  unfold modPart
  with_reducible repeat' first
    | exact Mems.refl _ _
    | assumption
    | refine Mems.cond ?_ (fun _ => ?_)
    | simp only [Mems.lit_iff]

theorem mems_modDom (d : Device) (i : DomId) (f : Domain → Domain) : Mems [] d (modDom d i f) := by
  unfold modDom
  with_reducible repeat' first
    | exact Mems.refl _ _
    | assumption
    | refine Mems.cond ?_ (fun _ => ?_)
    | apply Mems.step (mems_modPart _ _ _)
    | simp only [Mems.lit_iff]
    | split
    | dsimp only
    | with_unfolding_all decide

theorem mems_modRun (d : Device) (i : DomId) (f : Run → Run) : Mems [] d (modRun d i f) := by
  unfold modRun
  with_reducible repeat' first
    | exact Mems.refl _ _
    | assumption
    | refine Mems.cond ?_ (fun _ => ?_)
    | apply Mems.step (mems_modDom _ _ _)
    | simp only [Mems.lit_iff]
    | split
    | dsimp only
    | with_unfolding_all decide

theorem mems_modRing (d : Device) (r : Fin 64) (f : Ring → Ring) : Mems [] d (modRing d r f) := by
  unfold modRing
  with_reducible repeat' first
    | exact Mems.refl _ _
    | assumption
    | refine Mems.cond ?_ (fun _ => ?_)
    | simp only [Mems.lit_iff]

theorem mems_modPond (d : Device) (k : Fin 32) (f : Pond → Pond) : Mems [] d (modPond d k f) := by
  unfold modPond
  with_reducible repeat' first
    | exact Mems.refl _ _
    | assumption
    | refine Mems.cond ?_ (fun _ => ?_)
    | simp only [Mems.lit_iff]

theorem mems_modBar (d : Device) (b : Fin 64) (f : Barrier → Barrier) : Mems [] d (modBar d b f) := by
  unfold modBar
  with_reducible repeat' first
    | exact Mems.refl _ _
    | assumption
    | refine Mems.cond ?_ (fun _ => ?_)
    | simp only [Mems.lit_iff]

theorem mems_modPlane (d : Device) (p : Fin 8) (f : PlaneLink → PlaneLink) : Mems [] d (modPlane d p f) := by
  unfold modPlane
  with_reducible repeat' first
    | exact Mems.refl _ _
    | assumption
    | refine Mems.cond ?_ (fun _ => ?_)
    | simp only [Mems.lit_iff]

theorem mems_modStack (d : Device) (k : Fin 8) (f : HbmStack → HbmStack) : Mems [] d (modStack d k f) := by
  unfold modStack
  with_reducible repeat' first
    | exact Mems.refl _ _
    | assumption
    | refine Mems.cond ?_ (fun _ => ?_)
    | simp only [Mems.lit_iff]

theorem mems_modPort (d : Device) (k : Fin 4) (f : CxlPort → CxlPort) : Mems [] d (modPort d k f) := by
  unfold modPort
  with_reducible repeat' first
    | exact Mems.refl _ _
    | assumption
    | refine Mems.cond ?_ (fun _ => ?_)
    | simp only [Mems.lit_iff]

theorem mems_drawFree (d : Device) : Mems [] d (drawFree d).2 := by
  unfold drawFree
  with_reducible repeat' first
    | exact Mems.refl _ _
    | assumption
    | refine Mems.cond ?_ (fun _ => ?_)
    | simp only [Mems.lit_iff]

theorem mems_noteLedger (d : Device) (i : DomId) : Mems [] d (noteLedger d i) := by
  unfold noteLedger
  with_reducible repeat' first
    | exact Mems.refl _ _
    | assumption
    | refine Mems.all (fun _ _ => ?_) ?_
    | refine Mems.cond ?_ (fun _ => ?_)
    | refine Mems.optGetD ?_ ?_
    | apply Mems.step (mems_modUnit _ _ _)
    | simp only [Mems.lit_iff]
    | split
    | dsimp only
    | with_unfolding_all decide

/-! ### Address -/

theorem mems_writeTargetFrom (d : Device) (p : PartId) (t : Target) : (k : Nat) → (bs : List Byte) → Mems [.scratch, .reservoir, .hbm, .cxl] d (writeTargetFrom d p t k bs)
  | _, [] => Mems.refl _ d
  | k, b :: bs => by
    unfold writeTargetFrom
    refine Mems.step (mems_writeTargetFrom _ p t (k + 1) bs) (List.Subset.refl _) (Mems.step (mems_writeByte _ _ _ _) ?_ (Mems.refl _ _))
    cases t <;> simp [targetKey]

theorem mems_writeTarget (d : Device) (p : PartId) (t : Target) (bs : List Byte) : Mems [.scratch, .reservoir, .hbm, .cxl] d (writeTarget d p t bs) := by
  unfold writeTarget
  with_reducible repeat' first
    | exact Mems.refl _ _
    | assumption
    | refine Mems.cond ?_ (fun _ => ?_)
    | apply Mems.step (mems_writeTargetFrom _ _ _ _ _)
    | simp only [Mems.lit_iff]
    | split
    | dsimp only
    | with_unfolding_all decide

/-! ### Report -/

theorem mems_sendMsix (d : Device) (f : FnId) (v : Fin 64) : Mems [.host] d (sendMsix d f v) := by
  unfold sendMsix
  with_reducible repeat' first
    | exact Mems.refl _ _
    | assumption
    | refine Mems.cond ?_ (fun _ => ?_)
    | apply Mems.step (mems_writeBytes _ _ _ _)
    | simp only [Mems.lit_iff]
    | split
    | dsimp only
    | with_unfolding_all decide

theorem mems_raiseMsix (d : Device) (f : FnId) (v : Fin 64) : Mems [.host] d (raiseMsix d f v) := by
  unfold raiseMsix
  with_reducible repeat' first
    | exact Mems.refl _ _
    | assumption
    | refine Mems.cond ?_ (fun _ => ?_)
    | apply Mems.step (mems_sendMsix _ _ _)
    | simp only [Mems.lit_iff]
    | split
    | dsimp only
    | with_unfolding_all decide

theorem mems_flushMsix (d : Device) (f : FnId) (v : Fin 64) : Mems [.host] d (flushMsix d f v) := by
  unfold flushMsix
  with_reducible repeat' first
    | exact Mems.refl _ _
    | assumption
    | refine Mems.cond ?_ (fun _ => ?_)
    | apply Mems.step (mems_sendMsix _ _ _)
    | simp only [Mems.lit_iff]
    | split
    | dsimp only
    | with_unfolding_all decide

theorem mems_writeEntry (d : Device) (i : Fin 64) (e : BitVec 256) : Mems [.host] d (writeEntry d i e) := by
  unfold writeEntry
  with_reducible repeat' first
    | exact Mems.refl _ _
    | assumption
    | refine Mems.cond ?_ (fun _ => ?_)
    | apply Mems.step (mems_writeBytes _ _ _ _)
    | apply Mems.step (mems_modRing _ _ _)
    | simp only [Mems.lit_iff]
    | split
    | dsimp only
    | with_unfolding_all decide

theorem mems_ringMessage (d : Device) (i : Fin 64) : Mems [.host] d (ringMessage d i) := by
  unfold ringMessage
  with_reducible repeat' first
    | exact Mems.refl _ _
    | assumption
    | refine Mems.cond ?_ (fun _ => ?_)
    | apply Mems.step (mems_modRing _ _ _)
    | apply Mems.step (mems_raiseMsix _ _ _)
    | simp only [Mems.lit_iff]
    | split
    | dsimp only
    | with_unfolding_all decide

theorem mems_postEntry (d : Device) (i : Fin 64) (e : BitVec 256) : Mems [.host] d (postEntry d i e) := by
  unfold postEntry
  with_reducible repeat' first
    | exact Mems.refl _ _
    | assumption
    | refine Mems.cond ?_ (fun _ => ?_)
    | apply Mems.step (mems_modRing _ _ _)
    | apply Mems.step (mems_writeEntry _ _ _)
    | apply Mems.step (mems_ringMessage _ _)
    | simp only [Mems.lit_iff]
    | split
    | dsimp only
    | with_unfolding_all decide

theorem mems_drainHeld : (n : Nat) → (d : Device) → (i : Fin 64) → Mems [.host] d (drainHeld n d i)
  | 0, d, _ => Mems.refl _ d
  | n + 1, d, i => by
    unfold drainHeld
    dsimp only
    split
    · exact Mems.refl _ d
    · split
      · exact Mems.refl _ d
      · exact Mems.step (mems_drainHeld n _ i) (List.Subset.refl _)
          (Mems.step (mems_writeEntry _ _ _) (List.Subset.refl _) (Mems.step (mems_modRing _ _ _) (List.nil_subset _) (Mems.refl _ _)))

theorem mems_complete (d : Device) (handle : W32) (h : CmdHdr) (opcode : Byte) (st : Status) (halt : Byte)
    (result : List Byte) : Mems [.host] d (complete d handle h opcode st halt result) := by
  unfold complete
  with_reducible repeat' first
    | exact Mems.refl _ _
    | assumption
    | refine Mems.cond ?_ (fun _ => ?_)
    | apply Mems.step (mems_modRing _ _ _)
    | apply Mems.step (mems_postEntry _ _ _)
    | apply Mems.step (mems_halt _ _ _)
    | simp only [Mems.lit_iff]
    | split
    | dsimp only
    | with_unfolding_all decide

theorem mems_completeCmd (d : Device) (handle : W32) (st : Status) (halt : Byte) (result : List Byte) : Mems [.host] d (completeCmd d handle st halt result) := by
  unfold completeCmd
  with_reducible repeat' first
    | exact Mems.refl _ _
    | assumption
    | refine Mems.cond ?_ (fun _ => ?_)
    | apply Mems.step (mems_complete _ _ _ _ _ _ _)
    | apply Mems.step (mems_halt _ _ _)
    | simp only [Mems.lit_iff]
    | split
    | dsimp only
    | with_unfolding_all decide

theorem mems_modCmd (d : Device) (handle : W32) (f : Cmd → Cmd) : Mems [] d (modCmd d handle f) := by
  unfold modCmd
  with_reducible repeat' first
    | exact Mems.refl _ _
    | assumption
    | refine Mems.cond ?_ (fun _ => ?_)
    | simp only [Mems.lit_iff]

theorem mems_taint (d : Device) (det unit : BitVec 16) : Mems [] d (taint d det unit) := by
  unfold taint
  with_reducible repeat' first
    | exact Mems.refl _ _
    | assumption
    | refine Mems.all (fun _ _ => ?_) ?_
    | refine Mems.cond ?_ (fun _ => ?_)
    | refine Mems.optGetD ?_ ?_
    | apply Mems.step (mems_modRun _ _ _)
    | simp only [Mems.lit_iff]
    | split
    | dsimp only
    | with_unfolding_all decide

theorem mems_useArmed (d : Device) (det unit : BitVec 16) : Mems [] d (useArmed d det unit) := by
  unfold useArmed
  with_reducible repeat' first
    | exact Mems.refl _ _
    | assumption
    | refine Mems.cond ?_ (fun _ => ?_)
    | apply Mems.step (mems_taint _ _ _)
    | simp only [Mems.lit_iff]
    | split
    | dsimp only
    | with_unfolding_all decide

theorem mems_inject (d : Device) (det unit : BitVec 16) : Mems [] d (inject d det unit).2 := by
  unfold inject
  with_reducible repeat' first
    | exact Mems.refl _ _
    | assumption
    | refine Mems.cond ?_ (fun _ => ?_)
    | apply Mems.step (mems_useArmed _ _ _)
    | simp only [Mems.lit_iff]
    | split
    | dsimp only
    | with_unfolding_all decide

theorem mems_pushEvent (d : Device) (e : ErrEvent) (p : EventPlace) : Mems [] d (pushEvent d e p) := by
  unfold pushEvent
  with_reducible repeat' first
    | exact Mems.refl _ _
    | assumption
    | refine Mems.cond ?_ (fun _ => ?_)
    | simp only [Mems.lit_iff]
    | split
    | dsimp only
    | with_unfolding_all decide

theorem mems_overrun (d : Device) (k : Nat) (inj : Bool) : Mems [] d (overrun d k inj) := by
  unfold overrun
  with_reducible repeat' first
    | exact Mems.refl _ _
    | assumption
    | refine Mems.cond ?_ (fun _ => ?_)
    | apply Mems.step (mems_noteSet _ _)
    | apply Mems.step (mems_pushEvent _ _ _)
    | simp only [Mems.lit_iff]
    | split
    | dsimp only
    | with_unfolding_all decide

theorem mems_detect (d : Device) (e : ErrEvent) : Mems [] d (detect d e) := by
  unfold detect
  with_reducible repeat' first
    | exact Mems.refl _ _
    | assumption
    | refine Mems.cond ?_ (fun _ => ?_)
    | refine Mems.condSnd ?_ ?_
    | apply Mems.step (mems_taint _ _ _)
    | apply Mems.step (mems_pushEvent _ _ _)
    | apply Mems.step (mems_inject _ _ _)
    | apply Mems.step (mems_overrun _ _ _)
    | refine Mems.snd (by with_reducible assumption) ?_
    | simp only [Mems.lit_iff]
    | split
    | dsimp only
    | with_unfolding_all decide

theorem mems_detectAt (d : Device) (e : ErrEvent) : Mems [] d (detectAt d e) := by
  unfold detectAt
  with_reducible repeat' first
    | exact Mems.refl _ _
    | assumption
    | refine Mems.snd (by with_reducible assumption) ?_
    | refine Mems.cond ?_ (fun _ => ?_)
    | apply Mems.step (mems_detect _ _)
    | apply Mems.step (mems_inject _ _ _)
    | simp only [Mems.lit_iff]
    | split
    | dsimp only
    | with_unfolding_all decide

theorem mems_hostAccess (d : Device) (ring : Fin 64) (read ok : Bool) : Mems [] d (hostAccess d ring read ok).2 := by
  unfold hostAccess
  with_reducible repeat' first
    | exact Mems.refl _ _
    | assumption
    | refine Mems.cond ?_ (fun _ => ?_)
    | apply Mems.step (mems_detectAt _ _)
    | simp only [Mems.lit_iff]
    | split
    | dsimp only
    | with_unfolding_all decide

theorem mems_haltWith (d : Device) (c : CtxId) (code : Byte) (seq : Fin 4) (fetch : BitVec 12) (mask : BitVec 4) : Mems [] d (haltWith d c code seq fetch mask) := by
  unfold haltWith
  with_reducible repeat' first
    | exact Mems.refl _ _
    | assumption
    | refine Mems.all (fun _ _ => ?_) ?_
    | refine Mems.cond ?_ (fun _ => ?_)
    | apply Mems.step (mems_modUnit _ _ _)
    | apply Mems.step (mems_modSeq _ _ _)
    | apply Mems.step (mems_modDom _ _ _)
    | apply Mems.step (mems_modRun _ _ _)
    | simp only [Mems.lit_iff]
    | split
    | dsimp only
    | with_unfolding_all decide

theorem mems_haltCheck (d : Device) (c : CtxId) (code : Byte) (seq : Fin 4) (fetch : BitVec 12) (mask : BitVec 4) : Mems [] d (haltCheck d c code seq fetch mask) := by
  unfold haltCheck
  with_reducible repeat' first
    | exact Mems.refl _ _
    | assumption
    | refine Mems.cond ?_ (fun _ => ?_)
    | apply Mems.step (mems_detectAt _ _)
    | apply Mems.step (mems_haltWith _ _ _ _ _ _)
    | simp only [Mems.lit_iff]
    | split
    | dsimp only
    | with_unfolding_all decide

theorem mems_haltNoBundle (d : Device) (c : CtxId) (code : Byte) : Mems [] d (haltNoBundle d c code) := by
  unfold haltNoBundle
  with_reducible repeat' first
    | exact Mems.refl _ _
    | assumption
    | refine Mems.cond ?_ (fun _ => ?_)
    | apply Mems.step (mems_haltCheck _ _ _ _ _ _)
    | simp only [Mems.lit_iff]
    | split
    | dsimp only
    | with_unfolding_all decide

theorem mems_dropWaiting (d : Device) (i : DomId) (halted : Bool) (code : Byte) : Mems [.host] d (dropWaiting d i halted code) := by
  unfold dropWaiting
  with_reducible repeat' first
    | exact Mems.refl _ _
    | assumption
    | refine Mems.all (fun _ _ => ?_) ?_
    | refine Mems.cond ?_ (fun _ => ?_)
    | apply Mems.step (mems_completeCmd _ _ _ _ _)
    | simp only [Mems.lit_iff]
    | split
    | dsimp only
    | with_unfolding_all decide

theorem mems_endHalted (d : Device) (i : DomId) : Mems [.host] d (endHalted d i) := by
  unfold endHalted
  with_reducible repeat' first
    | exact Mems.refl _ _
    | assumption
    | refine Mems.cond ?_ (fun _ => ?_)
    | refine Mems.optGetD ?_ ?_
    | apply Mems.step (mems_completeCmd _ _ _ _ _)
    | apply Mems.step (mems_dropWaiting _ _ _ _)
    | simp only [Mems.lit_iff]
    | split
    | dsimp only
    | with_unfolding_all decide

theorem mems_isolateCmd (d : Device) (c : Cmd) : Mems [.host] d (isolateCmd d c) := by
  unfold isolateCmd
  with_reducible repeat' first
    | exact Mems.refl _ _
    | assumption
    | refine Mems.optGetD ?_ ?_
    | refine Mems.cond ?_ (fun _ => ?_)
    | apply Mems.step (mems_completeCmd _ _ _ _ _)
    | apply Mems.step (mems_detectAt _ _)
    | simp only [Mems.lit_iff]
    | split
    | dsimp only
    | with_unfolding_all decide

/-! ### Clock -/

theorem mems_passTime (d : Device) (by16 : Nat) : Mems [] d (passTime d by16) := by
  unfold passTime
  with_reducible repeat' first
    | exact Mems.refl _ _
    | assumption
    | refine Mems.cond ?_ (fun _ => ?_)
    | simp only [Mems.lit_iff]
    | split
    | dsimp only
    | with_unfolding_all decide

theorem mems_timeSet (d : Device) (v : W64) : Mems [] d (timeSet d v) := by
  unfold timeSet
  with_reducible repeat' first
    | exact Mems.refl _ _
    | assumption
    | refine Mems.cond ?_ (fun _ => ?_)
    | apply Mems.step (mems_noteSet _ _)
    | simp only [Mems.lit_iff]
    | split
    | dsimp only
    | with_unfolding_all decide

theorem mems_slewComplete (d : Device) : Mems [] d (slewComplete d) := by
  unfold slewComplete
  with_reducible repeat' first
    | exact Mems.refl _ _
    | assumption
    | refine Mems.cond ?_ (fun _ => ?_)
    | simp only [Mems.lit_iff]

theorem mems_referenceLost (d : Device) : Mems [] d (referenceLost d) := by
  unfold referenceLost
  with_reducible repeat' first
    | exact Mems.refl _ _
    | assumption
    | refine Mems.cond ?_ (fun _ => ?_)
    | apply Mems.step (mems_detectAt _ _)
    | apply Mems.step (mems_noteSet _ _)
    | simp only [Mems.lit_iff]
    | split
    | dsimp only
    | with_unfolding_all decide

theorem mems_referenceRestored (d : Device) : Mems [] d (referenceRestored d) := by
  unfold referenceRestored
  with_reducible repeat' first
    | exact Mems.refl _ _
    | assumption
    | refine Mems.cond ?_ (fun _ => ?_)
    | simp only [Mems.lit_iff]

theorem mems_setRails (d : Device) (p : PartId) : Mems [] d (setRails d p) := by
  unfold setRails
  with_reducible repeat' first
    | exact Mems.refl _ _
    | assumption
    | refine Mems.all (fun _ _ => ?_) ?_
    | refine Mems.cond ?_ (fun _ => ?_)
    | apply Mems.step (mems_modPond _ _ _)
    | simp only [Mems.lit_iff]
    | split
    | dsimp only
    | with_unfolding_all decide

theorem mems_applyCode (d : Device) (p : PartId) : Mems [] d (applyCode d p) := by
  unfold applyCode
  with_reducible repeat' first
    | exact Mems.refl _ _
    | assumption
    | refine Mems.cond ?_ (fun _ => ?_)
    | apply Mems.step (mems_setRails _ _)
    | apply Mems.step (mems_modPart _ _ _)
    | simp only [Mems.lit_iff]
    | split
    | dsimp only
    | with_unfolding_all decide

theorem mems_scheduleAt : (d : Device) → (q : Nat) → (l : List (Fin 32)) → Mems [] d (scheduleAt d q l)
  | d, _, [] => Mems.refl _ d
  | d, q, k :: rest => Mems.step (mems_scheduleAt _ (q + 2) rest) (List.Subset.refl _) (mems_modPond _ _ _)

theorem mems_ownStretch (d : Device) (k : Fin 32) (q : Nat) : Mems [] d (ownStretch d k q) := by
  unfold ownStretch
  with_reducible repeat' first
    | exact Mems.refl _ _
    | assumption
    | refine Mems.cond ?_ (fun _ => ?_)
    | apply Mems.step (mems_modPart _ _ _)
    | apply Mems.step (mems_modPond _ _ _)
    | apply Mems.step (mems_scheduleAt _ _ _)
    | simp only [Mems.lit_iff]
    | split
    | dsimp only
    | with_unfolding_all decide

theorem mems_realign (d : Device) (k : Fin 32) : Mems [] d (realign d k) := by
  unfold realign
  with_reducible repeat' first
    | exact Mems.refl _ _
    | assumption
    | refine Mems.cond ?_ (fun _ => ?_)
    | apply Mems.step (mems_modPond _ _ _)
    | simp only [Mems.lit_iff]
    | split
    | dsimp only
    | with_unfolding_all decide

theorem mems_serveDemand (d : Device) (k : Fin 32) : Mems [] d (serveDemand d k) := by
  unfold serveDemand
  with_reducible repeat' first
    | exact Mems.refl _ _
    | assumption
    | refine Mems.cond ?_ (fun _ => ?_)
    | apply Mems.step (mems_modPond _ _ _)
    | apply Mems.step (mems_ownStretch _ _ _)
    | apply Mems.step (mems_realign _ _)
    | simp only [Mems.lit_iff]
    | split
    | dsimp only
    | with_unfolding_all decide

theorem mems_stretchDemand (d : Device) (k : Fin 32) (crit : Bool) : Mems [] d (stretchDemand d k crit) := by
  unfold stretchDemand
  with_reducible repeat' first
    | exact Mems.refl _ _
    | assumption
    | refine Mems.cond ?_ (fun _ => ?_)
    | refine Mems.condSnd ?_ ?_
    | apply Mems.step (mems_inject _ _ _)
    | apply Mems.step (mems_noteSet _ _)
    | apply Mems.step (mems_modPond _ _ _)
    | apply Mems.step (mems_modPart _ _ _)
    | apply Mems.step (mems_detect _ _)
    | apply Mems.step (mems_serveDemand _ _)
    | refine Mems.snd (by with_reducible assumption) ?_
    | simp only [Mems.lit_iff]
    | split
    | dsimp only
    | with_unfolding_all decide

theorem mems_realignmentStretch (d : Device) (k : Fin 32) : Mems [] d (realignmentStretch d k) := by
  unfold realignmentStretch
  with_reducible repeat' first
    | exact Mems.refl _ _
    | assumption
    | refine Mems.all (fun _ _ => ?_) ?_
    | refine Mems.cond ?_ (fun _ => ?_)
    | apply Mems.step (mems_realign _ _)
    | simp only [Mems.lit_iff]
    | split
    | dsimp only
    | with_unfolding_all decide

theorem mems_stretchNotice (d : Device) (p : PartId) (die : Fin 4) : Mems [] d (stretchNotice d p die) := by
  unfold stretchNotice
  with_reducible repeat' first
    | exact Mems.refl _ _
    | assumption
    | refine Mems.all (fun _ _ => ?_) ?_
    | refine Mems.cond ?_ (fun _ => ?_)
    | apply Mems.step (mems_modPond _ _ _)
    | simp only [Mems.lit_iff]
    | split
    | dsimp only
    | with_unfolding_all decide

theorem mems_stretchesEnd (d : Device) (p : PartId) : Mems [] d (stretchesEnd d p) := by
  unfold stretchesEnd
  with_reducible repeat' first
    | exact Mems.refl _ _
    | assumption
    | refine Mems.all (fun _ _ => ?_) ?_
    | refine Mems.cond ?_ (fun _ => ?_)
    | apply Mems.step (mems_stretchNotice _ _ _)
    | apply Mems.step (mems_realignmentStretch _ _)
    | apply Mems.step (mems_serveDemand _ _)
    | simp only [Mems.lit_iff]
    | split
    | dsimp only
    | with_unfolding_all decide

/-! ### CollAbort -/

theorem mems_freeEntry (d : Device) (plane : Fin 8) (coll : Bool) (dst : PartId) : Mems [] d (freeEntry d plane coll dst) := by
  unfold freeEntry
  with_reducible repeat' first
    | exact Mems.refl _ _
    | assumption
    | refine Mems.cond ?_ (fun _ => ?_)
    | apply Mems.step (mems_modPlane _ _ _)
    | simp only [Mems.lit_iff]
    | split
    | dsimp only
    | with_unfolding_all decide

theorem mems_freeHeld (d : Device) (p : PartId) (h : HeldFrame) : Mems [] d (freeHeld d p h) := by
  unfold freeHeld
  with_reducible repeat' first
    | exact Mems.refl _ _
    | assumption
    | refine Mems.cond ?_ (fun _ => ?_)
    | apply Mems.step (mems_freeEntry _ _ _ _)
    | simp only [Mems.lit_iff]
    | split
    | dsimp only
    | with_unfolding_all decide

theorem mems_dropHeld (d : Device) (p : PartId) (test : HeldFrame → Bool) : Mems [] d (dropHeld d p test) := by
  unfold dropHeld
  with_reducible repeat' first
    | exact Mems.refl _ _
    | assumption
    | refine Mems.all (fun _ _ => ?_) ?_
    | refine Mems.cond ?_ (fun _ => ?_)
    | apply Mems.step (mems_modPart _ _ _)
    | apply Mems.step (mems_freeHeld _ _ _)
    | simp only [Mems.lit_iff]
    | split
    | dsimp only
    | with_unfolding_all decide

theorem mems_emptyBuffer (d : Device) (p : PartId) : Mems [] d (emptyBuffer d p) := by
  unfold emptyBuffer
  with_reducible repeat' first
    | exact Mems.refl _ _
    | assumption
    | refine Mems.cond ?_ (fun _ => ?_)
    | apply Mems.step (mems_dropHeld _ _ _)
    | simp only [Mems.lit_iff]
    | split
    | dsimp only
    | with_unfolding_all decide

theorem mems_refill (d : Device) (p : PartId) : Mems [] d (refill d p) := by
  unfold refill
  with_reducible repeat' first
    | exact Mems.refl _ _
    | assumption
    | refine Mems.all (fun _ _ => ?_) ?_
    | refine Mems.cond ?_ (fun _ => ?_)
    | apply Mems.step (mems_modPart _ _ _)
    | simp only [Mems.lit_iff]
    | split
    | dsimp only
    | with_unfolding_all decide

theorem mems_enterBuffer (d : Device) (p : PartId) (h : HeldFrame) : Mems [] d (enterBuffer d p h) := by
  unfold enterBuffer
  with_reducible repeat' first
    | exact Mems.refl _ _
    | assumption
    | refine Mems.cond ?_ (fun _ => ?_)
    | apply Mems.step (mems_refill _ _)
    | apply Mems.step (mems_modPart _ _ _)
    | simp only [Mems.lit_iff]
    | split
    | dsimp only
    | with_unfolding_all decide

theorem mems_queueFrame (d : Device) (f : TxFrame) : Mems [] d (queueFrame d f) := by
  unfold queueFrame
  with_reducible repeat' first
    | exact Mems.refl _ _
    | assumption
    | refine Mems.cond ?_ (fun _ => ?_)
    | apply Mems.step (mems_modPart _ _ _)
    | simp only [Mems.lit_iff]
    | split
    | dsimp only
    | with_unfolding_all decide

theorem mems_sendColl (d : Device) (p : PartId) (dom : Option DomId) (dst : Nat) (nominal : Nat) (body : BitVec 1792) : Mems [] d (sendColl d p dom dst nominal body) := by
  unfold sendColl
  with_reducible repeat' first
    | exact Mems.refl _ _
    | assumption
    | refine Mems.cond ?_ (fun _ => ?_)
    | apply Mems.step (mems_enterBuffer _ _ _)
    | apply Mems.step (mems_queueFrame _ _)
    | simp only [Mems.lit_iff]
    | split
    | dsimp only
    | with_unfolding_all decide

theorem mems_sendAbort (d : Device) (p : PartId) (x : CollDesc) (inst acause dst : Nat) : Mems [] d (sendAbort d p x inst acause dst) := by
  unfold sendAbort
  with_reducible repeat' first
    | exact Mems.refl _ _
    | assumption
    | refine Mems.cond ?_ (fun _ => ?_)
    | apply Mems.step (mems_sendColl _ _ _ _ _ _)
    | simp only [Mems.lit_iff]
    | split
    | dsimp only
    | with_unfolding_all decide

theorem mems_abortActive (d : Device) (i : DomId) (acause : Nat) : Mems [] d (abortActive d i acause) := by
  unfold abortActive
  with_reducible repeat' first
    | exact Mems.refl _ _
    | assumption
    | refine Mems.all (fun _ _ => ?_) ?_
    | refine Mems.fold (fun _ _ => ?_) ?_
    | refine Mems.cond ?_ (fun _ => ?_)
    | refine Mems.optGetD ?_ ?_
    | apply Mems.step (mems_dropHeld _ _ _)
    | apply Mems.step (mems_sendAbort _ _ _ _ _ _)
    | apply Mems.step (mems_modRun _ _ _)
    | simp only [Mems.lit_iff]
    | split
    | dsimp only
    | with_unfolding_all decide

/-! ### Reset -/

theorem mems_wakeSlots (d : Device) (t : Nat) (ks : List (Fin 32)) : Mems [] d (wakeSlots d t ks) := by
  induction ks generalizing d t with
  | nil => exact Mems.refl _ _
  | cons k ks ih => exact Mems.step (ih _ _) (by decide) (mems_modPond _ _ _)

theorem mems_startWake (d : Device) (ks : List (Fin 32)) : Mems [] d (startWake d ks) := mems_wakeSlots _ _ _

theorem mems_dieStops (d : Device) : Mems [] d (dieStops d) := by
  unfold dieStops
  with_reducible repeat' first
    | exact Mems.refl _ _
    | assumption
    | refine Mems.fold (fun _ _ => ?_) ?_
    | refine Mems.cond ?_ (fun _ => ?_)
    | simp only [Mems.lit_iff]

theorem mems_pondWake (d : Device) (k : Fin 32) : Mems [] d (pondWake d k) := by
  unfold pondWake
  with_reducible repeat' first
    | exact Mems.refl _ _
    | assumption
    | refine Mems.fold (fun _ _ => ?_) ?_
    | refine Mems.cond ?_ (fun _ => ?_)
    | refine Mems.condSnd ?_ ?_
    | apply Mems.step (mems_modPond _ _ _)
    | apply Mems.step (mems_modPart _ _ _)
    | apply Mems.step (mems_setRails _ _)
    | apply Mems.step (mems_dieStops _)
    | simp only [Mems.lit_iff]
    | split
    | dsimp only
    | with_unfolding_all decide

theorem mems_pondRetention (d : Device) (k : Fin 32) : Mems [] d (pondRetention d k) := by
  unfold pondRetention
  with_reducible repeat' first
    | exact Mems.refl _ _
    | assumption
    | refine Mems.cond ?_ (fun _ => ?_)
    | apply Mems.step (mems_dieStops _)
    | apply Mems.step (mems_modPond _ _ _)
    | simp only [Mems.lit_iff]
    | split
    | dsimp only
    | with_unfolding_all decide

theorem mems_stopFusing (d : Device) : Mems [] d (stopFusing d) := by
  unfold stopFusing
  with_reducible repeat' first
    | exact Mems.refl _ _
    | assumption
    | refine Mems.cond ?_ (fun _ => ?_)
    | refine Mems.condSnd ?_ ?_
    | apply Mems.step (mems_drawFree _)
    | refine Mems.snd (by with_reducible assumption) ?_
    | simp only [Mems.lit_iff]
    | split
    | dsimp only
    | with_unfolding_all decide

theorem mems_packageReset (d : Device) : Mems [.scratch, .reservoir, .retained, .hbm] d (packageReset d) := by
  refine ⟨fun i hi => ?_, fun h => ?_⟩
  · cases i <;> first | rfl | simp at hi
  · rw [memoriesWf_iff] at h ⊢
    intro i
    have := h i
    cases i <;> first | exact this | rfl

theorem mems_resetL0 (d : Device) : Mems [.scratch, .reservoir, .retained, .hbm] d (resetL0 d) := by
  unfold resetL0
  with_reducible repeat' first
    | exact Mems.refl _ _
    | assumption
    | refine Mems.cond ?_ (fun _ => ?_)
    | apply Mems.step (mems_packageReset _)
    | apply Mems.step (mems_stopFusing _)
    | simp only [Mems.lit_iff]
    | split
    | dsimp only
    | with_unfolding_all decide

theorem mems_resetL1 (d : Device) : Mems [.scratch, .reservoir, .retained, .hbm] d (resetL1 d) := by
  have m := mems_stopFusing d
  refine ⟨fun i hi => ?_, fun h => ?_⟩
  · have hc : (stopFusing d).cxl = d.cxl := m.other .cxl (by simp)
    have hh : (stopFusing d).host = d.host := m.other .host (by simp)
    cases i <;> first | exact hc | exact hh | simp at hi
  · have h2 := (memoriesWf_iff _).1 (m.form h)
    rw [memoriesWf_iff] at h ⊢
    intro i
    have h1 := h i
    have h3 := h2 i
    cases i <;> first | exact h3 | exact h1 | rfl

theorem mems_emptyDomain (d : Device) (i : DomId) : Mems [] d (emptyDomain d i) := by
  unfold emptyDomain
  with_reducible repeat' first
    | exact Mems.refl _ _
    | assumption
    | refine Mems.cond ?_ (fun _ => ?_)
    | apply Mems.step (mems_modPart _ _ _)
    | apply Mems.step (mems_modDom _ _ _)
    | simp only [Mems.lit_iff]
    | split
    | dsimp only
    | with_unfolding_all decide

theorem mems_clearScratch (d : Device) (c : CoreId) : Mems [.scratch] d (clearScratch d c) := by
  refine ⟨fun i hi => ?_, fun h => ?_⟩
  · cases i <;> first | rfl | simp at hi
  · rw [memoriesWf_iff] at h ⊢
    intro i
    have := h i
    cases i <;> first | exact this | exact memWf_memClear true _ _ _ this

theorem mems_abortCmds (d : Device) (p : PartId) : Mems [.host] d (abortCmds d p) := by
  unfold abortCmds
  with_reducible repeat' first
    | exact Mems.refl _ _
    | assumption
    | refine Mems.all (fun _ _ => ?_) ?_
    | refine Mems.cond ?_ (fun _ => ?_)
    | apply Mems.step (mems_completeCmd _ _ _ _ _)
    | simp only [Mems.lit_iff]
    | split
    | dsimp only
    | with_unfolding_all decide

theorem mems_noteErrors (d : Device) (code : Byte) (cs : List CtxId) : Mems [] d (noteErrors d code cs) := by
  unfold noteErrors
  with_reducible repeat' first
    | exact Mems.refl _ _
    | assumption
    | refine Mems.all (fun _ _ => ?_) ?_
    | refine Mems.cond ?_ (fun _ => ?_)
    | apply Mems.step (mems_detectAt _ _)
    | simp only [Mems.lit_iff]
    | split
    | dsimp only
    | with_unfolding_all decide

theorem mems_resetL2 (d : Device) (p : PartId) : Mems [.scratch, .host] d (resetL2 d p) := by
  unfold resetL2
  with_reducible repeat' first
    | exact Mems.refl _ _
    | assumption
    | refine Mems.all (fun _ _ => ?_) ?_
    | refine Mems.cond ?_ (fun _ => ?_)
    | apply Mems.step (mems_noteErrors _ _ _)
    | apply Mems.step (mems_abortCmds _ _)
    | apply Mems.step (mems_modPart _ _ _)
    | apply Mems.step (mems_emptyBuffer _ _)
    | apply Mems.step (mems_emptyDomain _ _)
    | apply Mems.step (mems_abortActive _ _ _)
    | apply Mems.step (mems_clearScratch _ _)
    | apply Mems.step (mems_modCore _ _ _)
    | apply Mems.step (mems_startWake _ _)
    | simp only [Mems.lit_iff]
    | split
    | dsimp only
    | with_unfolding_all decide

theorem mems_clearDone (d : Device) (p : PartId) : Mems [.host] d (clearDone d p) := by
  unfold clearDone
  with_reducible repeat' first
    | exact Mems.refl _ _
    | assumption
    | refine Mems.all (fun _ _ => ?_) ?_
    | refine Mems.cond ?_ (fun _ => ?_)
    | apply Mems.step (mems_modPart _ _ _)
    | apply Mems.step (mems_modCore _ _ _)
    | apply Mems.step (mems_completeCmd _ _ _ _ _)
    | simp only [Mems.lit_iff]
    | split
    | dsimp only
    | with_unfolding_all decide

theorem mems_noteSource (d : Device) (s : Nat) : Mems [] d (noteSource d s) := by
  unfold noteSource
  with_reducible repeat' first
    | exact Mems.refl _ _
    | assumption
    | refine Mems.cond ?_ (fun _ => ?_)
    | apply Mems.step (mems_noteSet _ _)
    | simp only [Mems.lit_iff]
    | split
    | dsimp only
    | with_unfolding_all decide

theorem mems_beginL2 (d : Device) (ps : List PartId) (hs : List W32) : Mems [.scratch, .host] d (beginL2 d ps hs) := by
  unfold beginL2
  with_reducible repeat' first
    | exact Mems.refl _ _
    | assumption
    | refine Mems.all (fun _ _ => ?_) ?_
    | refine Mems.cond ?_ (fun _ => ?_)
    | apply Mems.step (mems_modPart _ _ _)
    | apply Mems.step (mems_resetL2 _ _)
    | simp only [Mems.lit_iff]
    | split
    | dsimp only
    | with_unfolding_all decide

theorem mems_applyLevel (d : Device) (level : Nat) (ps : List PartId) (hs : List W32) : Mems [.scratch, .reservoir, .retained, .hbm, .host] d (applyLevel d level ps hs) := by
  unfold applyLevel
  with_reducible repeat' first
    | exact Mems.refl _ _
    | assumption
    | refine Mems.cond ?_ (fun _ => ?_)
    | apply Mems.step (mems_resetL0 _)
    | apply Mems.step (mems_resetL1 _)
    | apply Mems.step (mems_beginL2 _ _ _)
    | simp only [Mems.lit_iff]
    | split
    | dsimp only
    | with_unfolding_all decide

theorem mems_joinRaised (d : Device) (level : Nat) (ps : List PartId) : Mems [] d (joinRaised d level ps).2.2 := by
  unfold joinRaised
  with_reducible repeat' first
    | exact Mems.refl _ _
    | assumption
    | refine Mems.cond ?_ (fun _ => ?_)
    | refine Mems.condSnd ?_ ?_
    | simp only [Mems.lit_iff]
    | split
    | dsimp only
    | with_unfolding_all decide

theorem mems_raiseLevel (d : Device) (level : Nat) (ps : List PartId) (hs : List W32) : Mems [.scratch, .reservoir, .retained, .hbm, .host] d (raiseLevel d level ps hs) := by
  unfold raiseLevel
  with_reducible repeat' first
    | exact Mems.refl _ _
    | assumption
    | refine Mems.cond ?_ (fun _ => ?_)
    | refine Mems.condSnd ?_ ?_
    | apply Mems.step (mems_joinRaised _ _ _)
    | apply Mems.step (mems_applyLevel _ _ _ _)
    | refine Mems.snd (by with_reducible assumption) ?_
    | simp only [Mems.lit_iff]
    | split
    | dsimp only
    | with_unfolding_all decide

theorem mems_raiseSource (d : Device) (s : Nat) (ps : List PartId) : Mems [.scratch, .reservoir, .retained, .hbm, .host] d (raiseSource d s ps) := by
  unfold raiseSource
  with_reducible repeat' first
    | exact Mems.refl _ _
    | assumption
    | refine Mems.cond ?_ (fun _ => ?_)
    | apply Mems.step (mems_noteSource _ _)
    | apply Mems.step (mems_raiseLevel _ _ _ _)
    | simp only [Mems.lit_iff]
    | split
    | dsimp only
    | with_unfolding_all decide

theorem mems_auxLoss (d : Device) : Mems [.scratch, .reservoir, .retained, .hbm] d (auxLoss d) := by
  unfold auxLoss
  with_reducible repeat' first
    | exact Mems.refl _ _
    | assumption
    | refine Mems.cond ?_ (fun _ => ?_)
    | apply Mems.step (mems_resetL0 _)
    | simp only [Mems.lit_iff]
    | split
    | dsimp only
    | with_unfolding_all decide

theorem mems_mainPower (d : Device) (good : Bool) : Mems [.scratch, .reservoir, .retained, .hbm] d (mainPower d good) := by
  unfold mainPower applyLevel
  with_reducible repeat' first
    | exact Mems.refl _ _
    | assumption
    | refine Mems.cond ?_ (fun _ => ?_)
    | apply Mems.step (mems_resetL1 _)
    | apply Mems.step (mems_noteSource _ _)
    | apply Mems.step (mems_noteSet _ _)
    | simp only [Mems.lit_iff]
    | split
    | dsimp only
    | with_unfolding_all decide

theorem mems_perstAssert (d : Device) : Mems [.scratch, .reservoir, .retained, .hbm, .host] d (perstAssert d) := by
  unfold perstAssert
  with_reducible repeat' first
    | exact Mems.refl _ _
    | assumption
    | refine Mems.cond ?_ (fun _ => ?_)
    | apply Mems.step (mems_raiseSource _ _ _)
    | simp only [Mems.lit_iff]
    | split
    | dsimp only
    | with_unfolding_all decide

theorem mems_watchdogExpiry (d : Device) : Mems [.scratch, .reservoir, .retained, .hbm, .host] d (watchdogExpiry d) := by
  unfold watchdogExpiry
  with_reducible repeat' first
    | exact Mems.refl _ _
    | assumption
    | refine Mems.cond ?_ (fun _ => ?_)
    | apply Mems.step (mems_detectAt _ _)
    | apply Mems.step (mems_raiseSource _ _ _)
    | simp only [Mems.lit_iff]
    | split
    | dsimp only
    | with_unfolding_all decide

theorem mems_functionReset (d : Device) (f : FnId) : Mems [.scratch, .reservoir, .retained, .hbm, .host] d (functionReset d f) := by
  unfold functionReset
  with_reducible repeat' first
    | exact Mems.refl _ _
    | assumption
    | refine Mems.cond ?_ (fun _ => ?_)
    | apply Mems.step (mems_raiseSource _ _ _)
    | simp only [Mems.lit_iff]
    | split
    | dsimp only
    | with_unfolding_all decide

theorem mems_newChallenge (d : Device) : Mems [] d (newChallenge d) := by
  unfold newChallenge
  with_reducible repeat' first
    | exact Mems.refl _ _
    | assumption
    | refine Mems.cond ?_ (fun _ => ?_)
    | simp only [Mems.lit_iff]

theorem mems_releaseHub (d : Device) (raw : BitVec 6) : Mems [] d (releaseHub d raw) := by
  unfold releaseHub
  with_reducible repeat' first
    | exact Mems.refl _ _
    | assumption
    | refine Mems.cond ?_ (fun _ => ?_)
    | apply Mems.step (mems_startWake _ _)
    | apply Mems.step (mems_newChallenge _)
    | simp only [Mems.lit_iff]
    | split
    | dsimp only
    | with_unfolding_all decide

theorem mems_releaseStep (d : Device) (raw : BitVec 6) : Mems [] d (releaseStep d raw) := by
  unfold releaseStep
  with_reducible repeat' first
    | exact Mems.refl _ _
    | assumption
    | refine Mems.cond ?_ (fun _ => ?_)
    | apply Mems.step (mems_releaseHub _ _)
    | simp only [Mems.lit_iff]
    | split
    | dsimp only
    | with_unfolding_all decide

/-! ### Power -/

theorem mems_writePwrCtrl (d : Device) (v : W64) : Mems [] d (writePwrCtrl d v) := by
  unfold writePwrCtrl
  with_reducible repeat' first
    | exact Mems.refl _ _
    | assumption
    | refine Mems.cond ?_ (fun _ => ?_)
    | apply Mems.step (mems_noteSet _ _)
    | simp only [Mems.lit_iff]
    | split
    | dsimp only
    | with_unfolding_all decide

theorem mems_sampleSensor (d : Device) (n : Fin 60) (t : Byte) (inj : Bool) : Mems [] d (sampleSensor d n t inj) := by
  unfold sampleSensor
  with_reducible repeat' first
    | exact Mems.refl _ _
    | assumption
    | refine Mems.cond ?_ (fun _ => ?_)
    | apply Mems.step (mems_modPond _ _ _)
    | apply Mems.step (mems_modStack _ _ _)
    | apply Mems.step (mems_detect _ _)
    | simp only [Mems.lit_iff]
    | split
    | dsimp only
    | with_unfolding_all decide

theorem mems_injectTemp (d : Device) (n : Fin 60) (t : Byte) : Mems [] d (injectTemp d n t).2.2 := by
  unfold injectTemp
  with_reducible repeat' first
    | exact Mems.refl _ _
    | assumption
    | refine Mems.cond ?_ (fun _ => ?_)
    | refine Mems.condSnd ?_ ?_
    | apply Mems.step (mems_useArmed _ _ _)
    | simp only [Mems.lit_iff]
    | split
    | dsimp only
    | with_unfolding_all decide

theorem mems_sampleFrom : (n : Nat) → (d : Device) → (ts : List Byte) → Mems [.host] d (sampleFrom n d ts)
  | _, d, [] => Mems.refl _ d
  | n, d, t :: ts => by
    unfold sampleFrom
    split
    · dsimp only
      exact Mems.step (mems_sampleFrom (n + 1) _ ts) (List.Subset.refl _)
        (Mems.step (mems_sampleSensor _ _ _ _) (by decide) (Mems.step (mems_injectTemp _ _ _) (by decide) (Mems.refl _ _)))
    · exact Mems.refl _ _

theorem mems_thermalTrip (d : Device) (n : Fin 60) : Mems [.scratch, .reservoir, .retained, .hbm, .host] d (thermalTrip d n) := by
  unfold thermalTrip
  with_reducible repeat' first
    | exact Mems.refl _ _
    | assumption
    | refine Mems.cond ?_ (fun _ => ?_)
    | apply Mems.step (mems_detectAt _ _)
    | apply Mems.step (mems_raiseSource _ _ _)
    | simp only [Mems.lit_iff]
    | split
    | dsimp only
    | with_unfolding_all decide

theorem mems_thermalSample (d : Device) (temps : List Byte) : Mems [.scratch, .reservoir, .retained, .hbm, .host] d (thermalSample d temps) := by
  unfold thermalSample
  with_reducible repeat' first
    | exact Mems.refl _ _
    | assumption
    | refine Mems.cond ?_ (fun _ => ?_)
    | apply Mems.step (mems_sampleFrom _ _ _)
    | apply Mems.step (mems_thermalTrip _ _)
    | simp only [Mems.lit_iff]
    | split
    | dsimp only
    | with_unfolding_all decide

theorem mems_takeReadings (d : Device) (r : PowerReading) : Mems [] d (takeReadings d r) := by
  unfold takeReadings
  with_reducible repeat' first
    | exact Mems.refl _ _
    | assumption
    | refine Mems.cond ?_ (fun _ => ?_)
    | refine Mems.optGetD ?_ ?_
    | simp only [Mems.lit_iff]
    | split
    | dsimp only
    | with_unfolding_all decide

theorem mems_noteFast (d : Device) : Mems [] d (noteFast d) := by
  unfold noteFast
  with_reducible repeat' first
    | exact Mems.refl _ _
    | assumption
    | refine Mems.cond ?_ (fun _ => ?_)
    | apply Mems.step (mems_noteSet _ _)
    | simp only [Mems.lit_iff]
    | split
    | dsimp only
    | with_unfolding_all decide

theorem mems_changeParts (d : Device) (f : PartId → Part → Part) : Mems [] d (changeParts d f) := by
  unfold changeParts
  with_reducible repeat' first
    | exact Mems.refl _ _
    | assumption
    | refine Mems.all (fun _ _ => ?_) ?_
    | refine Mems.cond ?_ (fun _ => ?_)
    | apply Mems.step (mems_setRails _ _)
    | simp only [Mems.lit_iff]
    | split
    | dsimp only
    | with_unfolding_all decide

theorem mems_powerDecision (d : Device) (r : PowerReading) : Mems [] d (powerDecision d r) := by
  unfold powerDecision
  with_reducible repeat' first
    | exact Mems.refl _ _
    | assumption
    | refine Mems.cond ?_ (fun _ => ?_)
    | refine Mems.condSnd ?_ ?_
    | refine Mems.optGetD ?_ ?_
    | apply Mems.step (mems_takeReadings _ _)
    | apply Mems.step (mems_inject _ _ _)
    | apply Mems.step (mems_detect _ _)
    | apply Mems.step (mems_noteSet _ _)
    | apply Mems.step (mems_noteFast _)
    | apply Mems.step (mems_changeParts _ _)
    | refine Mems.snd (by with_reducible assumption) ?_
    | simp only [Mems.lit_iff]
    | split
    | dsimp only
    | with_unfolding_all decide

theorem mems_fastLimit (d : Device) (current : Nat) : Mems [] d (fastLimit d current) := by
  unfold fastLimit
  with_reducible repeat' first
    | exact Mems.refl _ _
    | assumption
    | refine Mems.cond ?_ (fun _ => ?_)
    | apply Mems.step (mems_noteFast _)
    | apply Mems.step (mems_changeParts _ _)
    | simp only [Mems.lit_iff]
    | split
    | dsimp only
    | with_unfolding_all decide

/-! ### Security -/

theorem mems_bootGo (d : Device) (v : W64) : Mems [] d (bootGo d v) := by
  unfold bootGo
  with_reducible repeat' first
    | exact Mems.refl _ _
    | assumption
    | refine Mems.cond ?_ (fun _ => ?_)
    | simp only [Mems.lit_iff]
    | split
    | dsimp only
    | with_unfolding_all decide

theorem mems_bootFetched (d : Device) (ok : Bool) : Mems [] d (bootFetched d ok) := by
  unfold bootFetched
  with_reducible repeat' first
    | exact Mems.refl _ _
    | assumption
    | refine Mems.cond ?_ (fun _ => ?_)
    | simp only [Mems.lit_iff]
    | split
    | dsimp only
    | with_unfolding_all decide

theorem mems_bootVerified (d : Device) : Mems [] d (bootVerified d) := by
  unfold bootVerified
  with_reducible repeat' first
    | exact Mems.refl _ _
    | assumption
    | refine Mems.optGetD ?_ ?_
    | refine Mems.cond ?_ (fun _ => ?_)
    | simp only [Mems.lit_iff]

theorem mems_voathReady (d : Device) : Mems [] d (voathReady d) := by
  unfold voathReady
  with_reducible repeat' first
    | exact Mems.refl _ _
    | assumption
    | refine Mems.cond ?_ (fun _ => ?_)
    | refine Mems.condSnd ?_ ?_
    | apply Mems.step (mems_drawFree _)
    | refine Mems.snd (by with_reducible assumption) ?_
    | simp only [Mems.lit_iff]
    | split
    | dsimp only
    | with_unfolding_all decide

theorem mems_bootTimeout (d : Device) : Mems [.scratch, .reservoir, .retained, .hbm, .host] d (bootTimeout d) := by
  unfold bootTimeout
  with_reducible repeat' first
    | exact Mems.refl _ _
    | assumption
    | refine Mems.cond ?_ (fun _ => ?_)
    | apply Mems.step (mems_raiseSource _ _ _)
    | simp only [Mems.lit_iff]
    | split
    | dsimp only
    | with_unfolding_all decide

theorem mems_svnCommit (d : Device) : Mems [] d (svnCommit d) := by
  unfold svnCommit
  with_reducible repeat' first
    | exact Mems.refl _ _
    | assumption
    | refine Mems.cond ?_ (fun _ => ?_)
    | apply Mems.step (mems_noteSet _ _)
    | simp only [Mems.lit_iff]
    | split
    | dsimp only
    | with_unfolding_all decide

theorem mems_revokeSlots (d : Device) (mask : Byte) : Mems [] d (revokeSlots d mask) := by
  unfold revokeSlots
  with_reducible repeat' first
    | exact Mems.refl _ _
    | assumption
    | refine Mems.cond ?_ (fun _ => ?_)
    | apply Mems.step (mems_noteSet _ _)
    | simp only [Mems.lit_iff]
    | split
    | dsimp only
    | with_unfolding_all decide

theorem mems_fusingDone (d : Device) : Mems [] d (fusingDone d) := by
  unfold fusingDone
  with_reducible repeat' first
    | exact Mems.refl _ _
    | assumption
    | refine Mems.cond ?_ (fun _ => ?_)
    | simp only [Mems.lit_iff]
    | split
    | dsimp only
    | with_unfolding_all decide

theorem mems_beginHead (d : Device) : Mems [] d (beginHead d) := by
  unfold beginHead
  with_reducible repeat' first
    | exact Mems.refl _ _
    | assumption
    | refine Mems.cond ?_ (fun _ => ?_)
    | simp only [Mems.lit_iff]
    | split

theorem mems_enqueueSign (d : Device) (r : SignReq) : Mems [] d (enqueueSign d r) := by
  unfold enqueueSign
  with_reducible repeat' first
    | exact Mems.refl _ _
    | assumption
    | refine Mems.cond ?_ (fun _ => ?_)
    | apply Mems.step (mems_beginHead _)
    | simp only [Mems.lit_iff]
    | split
    | dsimp only
    | with_unfolding_all decide

theorem mems_dequeueSign (d : Device) : Mems [] d (dequeueSign d) := by
  unfold dequeueSign
  with_reducible repeat' first
    | exact Mems.refl _ _
    | assumption
    | refine Mems.cond ?_ (fun _ => ?_)
    | apply Mems.step (mems_beginHead _)
    | simp only [Mems.lit_iff]
    | split
    | dsimp only
    | with_unfolding_all decide

theorem mems_attestGo (d : Device) (v : W64) : Mems [] d (attestGo d v) := by
  unfold attestGo
  with_reducible repeat' first
    | exact Mems.refl _ _
    | assumption
    | refine Mems.cond ?_ (fun _ => ?_)
    | apply Mems.step (mems_enqueueSign _ _)
    | simp only [Mems.lit_iff]
    | split
    | dsimp only
    | with_unfolding_all decide

theorem mems_attestDone (d : Device) (hostOk : Bool) : Mems [.host] d (attestDone d hostOk) := by
  unfold attestDone
  with_reducible repeat' first
    | exact Mems.refl _ _
    | assumption
    | refine Mems.cond ?_ (fun _ => ?_)
    | apply Mems.step (mems_writeBytes _ _ _ _)
    | apply Mems.step (mems_detectAt _ _)
    | apply Mems.step (mems_dequeueSign _)
    | simp only [Mems.lit_iff]
    | split
    | dsimp only
    | with_unfolding_all decide

theorem mems_submitToken (d : Device) (t : BitVec 2112) (port : Bool) : Mems [] d (submitToken d t port) := by
  unfold submitToken
  with_reducible repeat' first
    | exact Mems.refl _ _
    | assumption
    | refine Mems.cond ?_ (fun _ => ?_)
    | apply Mems.step (mems_newChallenge _)
    | simp only [Mems.lit_iff]
    | split
    | dsimp only
    | with_unfolding_all decide

theorem mems_portScan (d : Device) (code : Byte) (data : BitVec 2112) : Mems [] d (portScan d code data) := by
  unfold portScan
  with_reducible repeat' first
    | exact Mems.refl _ _
    | assumption
    | refine Mems.cond ?_ (fun _ => ?_)
    | apply Mems.step (mems_submitToken _ _ _)
    | simp only [Mems.lit_iff]
    | split
    | dsimp only
    | with_unfolding_all decide

theorem mems_openPort (d : Device) : Mems [.reservoir, .retained, .host] d (openPort d) := by
  have h : Mems [.host] d (forAll (d.cmds.filter fun c => c.opcode = 0x0A) d fun d c => completeCmd d c.handle .debugOpen 0 []) :=
    Mems.all (fun _ _ => mems_completeCmd _ _ _ _ _) (Mems.refl _ _)
  refine Mems.step (k := [.reservoir, .retained]) ?_ (by decide) (Mems.step h (by decide) (Mems.refl _ _))
  refine ⟨fun i hi => ?_, fun h => ?_⟩
  · cases i <;> first | rfl | simp at hi
  · rw [memoriesWf_iff] at h ⊢
    intro i
    have := h i
    cases i <;> first | exact this | rfl

theorem mems_tokenChecked (d : Device) : Mems [.reservoir, .retained, .host] d (tokenChecked d) := by
  unfold tokenChecked
  with_reducible repeat' first
    | exact Mems.refl _ _
    | assumption
    | refine Mems.cond ?_ (fun _ => ?_)
    | refine Mems.condSnd ?_ ?_
    | apply Mems.step (mems_inject _ _ _)
    | apply Mems.step (mems_detect _ _)
    | apply Mems.step (mems_openPort _)
    | refine Mems.snd (by with_reducible assumption) ?_
    | simp only [Mems.lit_iff]
    | split
    | dsimp only
    | with_unfolding_all decide

theorem mems_eraseDone (d : Device) : Mems [.scratch, .reservoir, .retained, .hbm, .host] d (eraseDone d) := by
  unfold eraseDone
  with_reducible repeat' first
    | exact Mems.refl _ _
    | assumption
    | refine Mems.cond ?_ (fun _ => ?_)
    | apply Mems.step (mems_raiseSource _ _ _)
    | simp only [Mems.lit_iff]
    | split
    | dsimp only
    | with_unfolding_all decide

/-! ### RegRead -/

theorem mems_retainedCheck (d : Device) (o : Nat) : Mems [] d (retainedCheck d o) := by
  unfold retainedCheck
  with_reducible repeat' first
    | exact Mems.refl _ _
    | assumption
    | refine Mems.cond ?_ (fun _ => ?_)
    | apply Mems.step (mems_detectAt _ _)
    | apply Mems.step (mems_noteSet _ _)
    | simp only [Mems.lit_iff]
    | split
    | dsimp only
    | with_unfolding_all decide

theorem mems_readEffects (d : Device) (f : FnId) (o : Nat) : Mems [] d (readEffects d f o) := by
  unfold readEffects
  with_reducible repeat' first
    | exact Mems.refl _ _
    | assumption
    | refine Mems.cond ?_ (fun _ => ?_)
    | apply Mems.step (mems_retainedCheck _ _)
    | simp only [Mems.lit_iff]
    | split
    | dsimp only
    | with_unfolding_all decide

theorem mems_hostRegRead (d : Device) (f : FnId) (bar o size : Nat) : Mems [] d (hostRegRead d f bar o size).2 := by
  unfold hostRegRead
  with_reducible repeat' first
    | exact Mems.refl _ _
    | assumption
    | refine Mems.cond ?_ (fun _ => ?_)
    | refine Mems.condSnd ?_ ?_
    | apply Mems.step (mems_readEffects _ _ _)
    | simp only [Mems.lit_iff]
    | split
    | dsimp only
    | with_unfolding_all decide

theorem mems_smbSetOffset (d : Device) (v : W32) : Mems [] d (smbSetOffset d v) := by
  unfold smbSetOffset
  with_reducible repeat' first
    | exact Mems.refl _ _
    | assumption
    | refine Mems.cond ?_ (fun _ => ?_)
    | simp only [Mems.lit_iff]

theorem mems_smbRead (d : Device) : Mems [] d (smbRead d) := by
  unfold smbRead
  with_reducible repeat' first
    | exact Mems.refl _ _
    | assumption
    | refine Mems.cond ?_ (fun _ => ?_)
    | apply Mems.step (mems_retainedCheck _ _)
    | simp only [Mems.lit_iff]
    | split
    | dsimp only
    | with_unfolding_all decide

/-! ### Errors -/

theorem mems_recordEvent (d : Device) (e : ErrEvent) : Mems [.host] d (recordEvent d e) := by
  unfold recordEvent
  with_reducible repeat' first
    | exact Mems.refl _ _
    | assumption
    | refine Mems.cond ?_ (fun _ => ?_)
    | apply Mems.step (mems_noteSet _ _)
    | apply Mems.step (mems_raiseMsix _ _ _)
    | simp only [Mems.lit_iff]
    | split
    | dsimp only
    | with_unfolding_all decide

theorem mems_leaveCrossing (d : Device) (x : ErrEvent) : Mems [] d (leaveCrossing d x) := by
  unfold leaveCrossing
  with_reducible repeat' first
    | exact Mems.refl _ _
    | assumption
    | refine Mems.cond ?_ (fun _ => ?_)
    | simp only [Mems.lit_iff]
    | split
    | dsimp only
    | with_unfolding_all decide

theorem mems_eventRecord (d : Device) : Mems [.host] d (eventRecord d) := by
  unfold eventRecord
  with_reducible repeat' first
    | exact Mems.refl _ _
    | assumption
    | refine Mems.cond ?_ (fun _ => ?_)
    | apply Mems.step (mems_recordEvent _ _)
    | apply Mems.step (mems_leaveCrossing _ _)
    | simp only [Mems.lit_iff]
    | split
    | dsimp only
    | with_unfolding_all decide

theorem mems_errHeadWrite (d : Device) (v : W64) : Mems [] d (errHeadWrite d v) := by
  unfold errHeadWrite
  with_reducible repeat' first
    | exact Mems.refl _ _
    | assumption
    | refine Mems.cond ?_ (fun _ => ?_)
    | simp only [Mems.lit_iff]

theorem mems_armDetector (d : Device) (det unit : BitVec 16) (count : W32) : Mems [] d (armDetector d det unit count) := by
  unfold armDetector
  with_reducible repeat' first
    | exact Mems.refl _ _
    | assumption
    | refine Mems.cond ?_ (fun _ => ?_)
    | simp only [Mems.lit_iff]

/-! ### Fabric -/

theorem mems_sendFrame (d : Device) (plane : Fin 8) (f : FrameBits) : Mems [] d (sendFrame d plane f) := by
  unfold sendFrame
  with_reducible repeat' first
    | exact Mems.refl _ _
    | assumption
    | refine Mems.cond ?_ (fun _ => ?_)
    | apply Mems.step (mems_modPlane _ _ _)
    | simp only [Mems.lit_iff]
    | split
    | dsimp only
    | with_unfolding_all decide

theorem mems_sendLocal (d : Device) (plane : Fin 8) (kind : Nat) (body : BitVec 1792) : Mems [] d (sendLocal d plane kind body) := by
  unfold sendLocal
  with_reducible repeat' first
    | exact Mems.refl _ _
    | assumption
    | refine Mems.cond ?_ (fun _ => ?_)
    | apply Mems.step (mems_sendFrame _ _ _)
    | simp only [Mems.lit_iff]
    | split
    | dsimp only
    | with_unfolding_all decide

theorem mems_sendIdle (d : Device) (plane : Fin 8) : Mems [] d (sendIdle d plane) := by
  unfold sendIdle
  with_reducible repeat' first
    | exact Mems.refl _ _
    | assumption
    | refine Mems.cond ?_ (fun _ => ?_)
    | apply Mems.step (mems_sendLocal _ _ _ _)
    | simp only [Mems.lit_iff]
    | split
    | dsimp only
    | with_unfolding_all decide

theorem mems_passTo (d : Device) (plane : Fin 8) (n : BitVec 24) : Mems [] d (passTo d plane n) := by
  unfold passTo
  with_reducible repeat' first
    | exact Mems.refl _ _
    | assumption
    | refine Mems.cond ?_ (fun _ => ?_)
    | apply Mems.step (mems_modPlane _ _ _)
    | apply Mems.step (mems_sendIdle _ _)
    | simp only [Mems.lit_iff]
    | split
    | dsimp only
    | with_unfolding_all decide

theorem mems_passToNext (d : Device) (plane : Fin 8) (kind : BitVec 24 → Bool) : Mems [] d (passToNext d plane kind) := by
  unfold passToNext
  with_reducible repeat' first
    | exact Mems.refl _ _
    | assumption
    | refine Mems.cond ?_ (fun _ => ?_)
    | apply Mems.step (mems_passTo _ _ _)
    | simp only [Mems.lit_iff]
    | split
    | dsimp only
    | with_unfolding_all decide

theorem mems_positionDone (d : Device) (plane : Fin 8) : Mems [] d (positionDone d plane) := by
  unfold positionDone
  with_reducible repeat' first
    | exact Mems.refl _ _
    | assumption
    | refine Mems.cond ?_ (fun _ => ?_)
    | apply Mems.step (mems_modPlane _ _ _)
    | simp only [Mems.lit_iff]
    | split
    | dsimp only
    | with_unfolding_all decide

theorem mems_failover (d : Device) (plane : Fin 8) : Mems [] d (failover d plane) := by
  unfold failover
  with_reducible repeat' first
    | exact Mems.refl _ _
    | assumption
    | refine Mems.cond ?_ (fun _ => ?_)
    | simp only [Mems.lit_iff]
    | split
    | dsimp only
    | with_unfolding_all decide

theorem mems_newTimePlane (d : Device) : Mems [] d (newTimePlane d) := by
  unfold newTimePlane
  with_reducible repeat' first
    | exact Mems.refl _ _
    | assumption
    | refine Mems.cond ?_ (fun _ => ?_)
    | simp only [Mems.lit_iff]
    | split

theorem mems_leavePlane (d : Device) (plane : Fin 8) (st : PlaneMode) : Mems [] d (leavePlane d plane st) := by
  unfold leavePlane
  with_reducible repeat' first
    | exact Mems.refl _ _
    | assumption
    | refine Mems.cond ?_ (fun _ => ?_)
    | apply Mems.step (mems_modPlane _ _ _)
    | apply Mems.step (mems_failover _ _)
    | apply Mems.step (mems_newTimePlane _)
    | simp only [Mems.lit_iff]
    | split
    | dsimp only
    | with_unfolding_all decide

theorem mems_planeDown (d : Device) (plane : Fin 8) : Mems [] d (planeDown d plane) := by
  unfold planeDown
  with_reducible repeat' first
    | exact Mems.refl _ _
    | assumption
    | refine Mems.cond ?_ (fun _ => ?_)
    | apply Mems.step (mems_detectAt _ _)
    | apply Mems.step (mems_leavePlane _ _ _)
    | simp only [Mems.lit_iff]
    | split
    | dsimp only
    | with_unfolding_all decide

theorem mems_planeLinked (d : Device) (plane : Fin 8) : Mems [] d (planeLinked d plane) := by
  unfold planeLinked
  with_reducible repeat' first
    | exact Mems.refl _ _
    | assumption
    | refine Mems.cond ?_ (fun _ => ?_)
    | apply Mems.step (mems_modPlane _ _ _)
    | simp only [Mems.lit_iff]
    | split
    | dsimp only
    | with_unfolding_all decide

theorem mems_lossOfLanes (d : Device) (plane : Fin 8) (lanes : BitVec 16) : Mems [] d (lossOfLanes d plane lanes) := by
  unfold lossOfLanes
  with_reducible repeat' first
    | exact Mems.refl _ _
    | assumption
    | refine Mems.cond ?_ (fun _ => ?_)
    | apply Mems.step (mems_modPlane _ _ _)
    | apply Mems.step (mems_planeDown _ _)
    | simp only [Mems.lit_iff]
    | split
    | dsimp only
    | with_unfolding_all decide

theorem mems_linkSilence (d : Device) (plane : Fin 8) : Mems [] d (linkSilence d plane) := by
  unfold linkSilence
  with_reducible repeat' first
    | exact Mems.refl _ _
    | assumption
    | refine Mems.cond ?_ (fun _ => ?_)
    | apply Mems.step (mems_planeDown _ _)
    | simp only [Mems.lit_iff]
    | split
    | dsimp only
    | with_unfolding_all decide

theorem mems_fabCtrlWrite (d : Device) (v : W64) : Mems [] d (fabCtrlWrite d v) := by
  unfold fabCtrlWrite
  with_reducible repeat' first
    | exact Mems.refl _ _
    | assumption
    | refine Mems.all (fun _ _ => ?_) ?_
    | refine Mems.cond ?_ (fun _ => ?_)
    | apply Mems.step (mems_modPlane _ _ _)
    | apply Mems.step (mems_leavePlane _ _ _)
    | simp only [Mems.lit_iff]
    | split
    | dsimp only
    | with_unfolding_all decide

theorem mems_refuseFrame (d : Device) (plane : Fin 8) (f : FrameBits) : Mems [] d (refuseFrame d plane f) := by
  unfold refuseFrame
  with_reducible repeat' first
    | exact Mems.refl _ _
    | assumption
    | refine Mems.cond ?_ (fun _ => ?_)
    | apply Mems.step (mems_modPlane _ _ _)
    | apply Mems.step (mems_detectAt _ _)
    | simp only [Mems.lit_iff]
    | split
    | dsimp only
    | with_unfolding_all decide

theorem mems_failFrame (d : Device) (plane : Fin 8) (uncorrectable : Nat) (inj : Bool) (seq : BitVec 12) : Mems [] d (failFrame d plane uncorrectable inj seq) := by
  unfold failFrame
  with_reducible repeat' first
    | exact Mems.refl _ _
    | assumption
    | refine Mems.cond ?_ (fun _ => ?_)
    | apply Mems.step (mems_modPlane _ _ _)
    | apply Mems.step (mems_detect _ _)
    | simp only [Mems.lit_iff]
    | split
    | dsimp only
    | with_unfolding_all decide

theorem mems_countCorrected (d : Device) (plane : Fin 8) (n : Nat) : Mems [] d (countCorrected d plane n) := by
  unfold countCorrected
  with_reducible repeat' first
    | exact Mems.refl _ _
    | assumption
    | refine Mems.cond ?_ (fun _ => ?_)
    | apply Mems.step (mems_modPlane _ _ _)
    | simp only [Mems.lit_iff]
    | split
    | dsimp only
    | with_unfolding_all decide

theorem mems_frameInjected (d : Device) (plane : Fin 8) : Mems [] d (frameInjected d plane).2 := by
  unfold frameInjected
  with_reducible repeat' first
    | exact Mems.refl _ _
    | assumption
    | refine Mems.cond ?_ (fun _ => ?_)
    | refine Mems.condSnd ?_ ?_
    | apply Mems.step (mems_inject _ _ _)
    | refine Mems.snd (by with_reducible assumption) ?_
    | simp only [Mems.lit_iff]
    | split
    | dsimp only
    | with_unfolding_all decide

theorem mems_takeAck (d : Device) (plane : Fin 8) (f : FrameBits) : Mems [] d (takeAck d plane f) := by
  unfold takeAck
  with_reducible repeat' first
    | exact Mems.refl _ _
    | assumption
    | refine Mems.cond ?_ (fun _ => ?_)
    | apply Mems.step (mems_modPlane _ _ _)
    | simp only [Mems.lit_iff]
    | split
    | dsimp only
    | with_unfolding_all decide

theorem mems_goodFrame (d : Device) (plane : Fin 8) (f : FrameBits) : Mems [] d (goodFrame d plane f) := by
  unfold goodFrame
  with_reducible repeat' first
    | exact Mems.refl _ _
    | assumption
    | refine Mems.cond ?_ (fun _ => ?_)
    | apply Mems.step (mems_modPlane _ _ _)
    | apply Mems.step (mems_takeAck _ _ _)
    | simp only [Mems.lit_iff]
    | split
    | dsimp only
    | with_unfolding_all decide

theorem mems_acceptSeq (d : Device) (plane : Fin 8) (f : FrameBits) : Mems [] d (acceptSeq d plane f).2 := by
  unfold acceptSeq
  with_reducible repeat' first
    | exact Mems.refl _ _
    | assumption
    | refine Mems.cond ?_ (fun _ => ?_)
    | apply Mems.step (mems_modPlane _ _ _)
    | simp only [Mems.lit_iff]
    | split
    | dsimp only
    | with_unfolding_all decide

theorem mems_refuseRouted (d : Device) (plane : Fin 8) (f : FrameBits) : Mems [] d (refuseRouted d plane f) := by
  unfold refuseRouted
  with_reducible repeat' first
    | exact Mems.refl _ _
    | assumption
    | refine Mems.cond ?_ (fun _ => ?_)
    | apply Mems.step (mems_refuseFrame _ _ _)
    | apply Mems.step (mems_freeEntry _ _ _ _)
    | apply Mems.step (mems_detectAt _ _)
    | simp only [Mems.lit_iff]
    | split
    | dsimp only
    | with_unfolding_all decide

theorem mems_receiveRouted (d : Device) (plane : Fin 8) (f : FrameBits) (kind : Nat) : Mems [] d (receiveRouted d plane f kind).2 := by
  unfold receiveRouted
  with_reducible repeat' first
    | exact Mems.refl _ _
    | assumption
    | refine Mems.cond ?_ (fun _ => ?_)
    | refine Mems.condSnd ?_ ?_
    | apply Mems.step (mems_frameInjected _ _)
    | apply Mems.step (mems_failFrame _ _ _ _ _)
    | apply Mems.step (mems_goodFrame _ _ _)
    | apply Mems.step (mems_refuseFrame _ _ _)
    | apply Mems.step (mems_acceptSeq _ _ _)
    | apply Mems.step (mems_refuseRouted _ _ _)
    | refine Mems.snd (by with_reducible assumption) ?_
    | simp only [Mems.lit_iff]
    | split
    | dsimp only
    | with_unfolding_all decide

theorem mems_receiveLocal (d : Device) (plane : Fin 8) (f : FrameBits) (kind : Nat) : Mems [] d (receiveLocal d plane f kind).2 := by
  unfold receiveLocal
  with_reducible repeat' first
    | exact Mems.refl _ _
    | assumption
    | refine Mems.cond ?_ (fun _ => ?_)
    | refine Mems.condSnd ?_ ?_
    | apply Mems.step (mems_failFrame _ _ _ _ _)
    | apply Mems.step (mems_goodFrame _ _ _)
    | apply Mems.step (mems_refuseFrame _ _ _)
    | simp only [Mems.lit_iff]
    | split
    | dsimp only
    | with_unfolding_all decide

theorem mems_idleFrame (d : Device) (plane : Fin 8) (corrected : Nat) (f : FrameBits) : Mems [] d (idleFrame d plane corrected f) := by
  unfold idleFrame
  with_reducible repeat' first
    | exact Mems.refl _ _
    | assumption
    | refine Mems.cond ?_ (fun _ => ?_)
    | apply Mems.step (mems_receiveLocal _ _ _ _)
    | apply Mems.step (mems_countCorrected _ _ _)
    | apply Mems.step (mems_refuseFrame _ _ _)
    | refine Mems.snd (by with_reducible assumption) ?_
    | simp only [Mems.lit_iff]
    | split
    | dsimp only
    | with_unfolding_all decide

theorem mems_assignIndex (d : Device) (plane : Fin 8) (f : FrameBits) : Mems [] d (assignIndex d plane f) := by
  unfold assignIndex
  with_reducible repeat' first
    | exact Mems.refl _ _
    | assumption
    | refine Mems.cond ?_ (fun _ => ?_)
    | apply Mems.step (mems_leavePlane _ _ _)
    | apply Mems.step (mems_noteSet _ _)
    | apply Mems.step (mems_modPlane _ _ _)
    | simp only [Mems.lit_iff]
    | split
    | dsimp only
    | with_unfolding_all decide

theorem mems_killFrame (d : Device) (plane : Fin 8) (f : FrameBits) : Mems [.scratch, .reservoir, .retained, .hbm, .host] d (killFrame d plane f) := by
  unfold killFrame
  with_reducible repeat' first
    | exact Mems.refl _ _
    | assumption
    | refine Mems.cond ?_ (fun _ => ?_)
    | apply Mems.step (mems_raiseSource _ _ _)
    | apply Mems.step (mems_refuseFrame _ _ _)
    | simp only [Mems.lit_iff]
    | split
    | dsimp only
    | with_unfolding_all decide

theorem mems_sendHello (d : Device) (plane : Fin 8) : Mems [] d (sendHello d plane) := by
  unfold sendHello
  with_reducible repeat' first
    | exact Mems.refl _ _
    | assumption
    | refine Mems.cond ?_ (fun _ => ?_)
    | apply Mems.step (mems_passToNext _ _ _)
    | apply Mems.step (mems_positionDone _ _)
    | apply Mems.step (mems_sendLocal _ _ _ _)
    | simp only [Mems.lit_iff]
    | split
    | dsimp only
    | with_unfolding_all decide

theorem mems_emit (d : Device) (plane : Fin 8) (f : TxFrame) (seq : BitVec 12) (again : Bool) : Mems [] d (emit d plane f seq again) := by
  unfold emit
  with_reducible repeat' first
    | exact Mems.refl _ _
    | assumption
    | refine Mems.cond ?_ (fun _ => ?_)
    | refine Mems.optGetD ?_ ?_
    | apply Mems.step (mems_sendFrame _ _ _)
    | simp only [Mems.lit_iff]
    | split
    | dsimp only
    | with_unfolding_all decide

theorem mems_retain (d : Device) (p : PartId) (plane : Fin 8) (f : TxFrame) : Mems [] d (retain d p plane f) := by
  unfold retain
  with_reducible repeat' first
    | exact Mems.refl _ _
    | assumption
    | refine Mems.cond ?_ (fun _ => ?_)
    | refine Mems.optGetD ?_ ?_
    | apply Mems.step (mems_modPart _ _ _)
    | apply Mems.step (mems_modPlane _ _ _)
    | simp only [Mems.lit_iff]
    | split
    | dsimp only
    | with_unfolding_all decide

theorem mems_sendPosition (d : Device) (p : PartId) (plane : Fin 8) : Mems [] d (sendPosition d p plane) := by
  unfold sendPosition
  with_reducible repeat' first
    | exact Mems.refl _ _
    | assumption
    | refine Mems.cond ?_ (fun _ => ?_)
    | apply Mems.step (mems_emit _ _ _ _ _)
    | apply Mems.step (mems_modPlane _ _ _)
    | apply Mems.step (mems_sendIdle _ _)
    | apply Mems.step (mems_retain _ _ _ _)
    | simp only [Mems.lit_iff]
    | split
    | dsimp only
    | with_unfolding_all decide

theorem mems_fabricSend (d : Device) (p : PartId) (plane : Fin 8) : Mems [] d (fabricSend d p plane) := by
  unfold fabricSend
  with_reducible repeat' first
    | exact Mems.refl _ _
    | assumption
    | refine Mems.cond ?_ (fun _ => ?_)
    | apply Mems.step (mems_passToNext _ _ _)
    | apply Mems.step (mems_positionDone _ _)
    | apply Mems.step (mems_sendPosition _ _ _)
    | apply Mems.step (mems_sendIdle _ _)
    | simp only [Mems.lit_iff]
    | split
    | dsimp only
    | with_unfolding_all decide

theorem mems_retryTimeout (d : Device) (plane : Fin 8) : Mems [] d (retryTimeout d plane) := by
  unfold retryTimeout
  with_reducible repeat' first
    | exact Mems.refl _ _
    | assumption
    | refine Mems.cond ?_ (fun _ => ?_)
    | apply Mems.step (mems_modPlane _ _ _)
    | simp only [Mems.lit_iff]
    | split
    | dsimp only
    | with_unfolding_all decide

end Sys2Proof.Machine
end

