-- ==== Sys2Proof/Laws/MemsCore.lean ====
section
/-! SUPPORT. Which memories the operations of a core may write, one lemma for each: loading, operands, flags, messages, scratchpad, scalar, load and store slots. -/

namespace Sys2Proof.Machine

/-! ### Loader -/

theorem mems_installCore (i : DomId) (g : Program) (d : Device) (s : CoreSect) : Mems [] d (installCore i g d s) := by
  unfold installCore
  with_reducible repeat' first
    | exact Mems.refl _ _
    | assumption
    | refine Mems.fold (fun _ _ => ?_) ?_
    | refine Mems.cond ?_ (fun _ => ?_)
    | apply Mems.step (mems_modCore _ _ _)
    | simp only [Mems.lit_iff]
    | split
    | dsimp only
    | with_unfolding_all decide

theorem mems_releaseCore (d : Device) (c : CtxId) : Mems [] d (releaseCore d c) := by
  unfold releaseCore
  with_reducible repeat' first
    | exact Mems.refl _ _
    | assumption
    | refine Mems.cond ?_ (fun _ => ?_)
    | apply Mems.step (mems_modCore _ _ _)
    | simp only [Mems.lit_iff]
    | split
    | dsimp only
    | with_unfolding_all decide

theorem mems_claimBarrier (i : DomId) (d : Device) (b : BarEntry) : Mems [] d (claimBarrier i d b) := by
  unfold claimBarrier
  with_reducible repeat' first
    | exact Mems.refl _ _
    | assumption
    | refine Mems.cond ?_ (fun _ => ?_)
    | apply Mems.step (mems_modBar _ _ _)
    | simp only [Mems.lit_iff]
    | split
    | dsimp only
    | with_unfolding_all decide

theorem mems_installProgram (d : Device) (i : DomId) (g : Program) : Mems [.host] d (installProgram d i g) := by
  unfold installProgram
  with_reducible repeat' first
    | exact Mems.refl _ _
    | assumption
    | refine Mems.all (fun _ _ => ?_) ?_
    | refine Mems.cond ?_ (fun _ => ?_)
    | refine Mems.optGetD ?_ ?_
    | apply Mems.step (mems_emptyDomain _ _)
    | apply Mems.step (mems_endHalted _ _)
    | apply Mems.step (mems_releaseCore _ _)
    | apply Mems.step (mems_installCore _ _ _ _)
    | apply Mems.step (mems_claimBarrier _ _ _)
    | apply Mems.step (mems_modDom _ _ _)
    | simp only [Mems.lit_iff]
    | split
    | dsimp only
    | with_unfolding_all decide

theorem mems_loadDone (d : Device) (i : DomId) (hostOk : Bool) : Mems [.host] d (loadDone d i hostOk) := by
  unfold loadDone
  with_reducible repeat' first
    | exact Mems.refl _ _
    | assumption
    | refine Mems.cond ?_ (fun _ => ?_)
    | refine Mems.condSnd ?_ ?_
    | refine Mems.optGetD ?_ ?_
    | apply Mems.step (mems_modPart _ _ _)
    | apply Mems.step (mems_modDom _ _ _)
    | apply Mems.step (mems_hostAccess _ _ _ _)
    | apply Mems.step (mems_completeCmd _ _ _ _ _)
    | apply Mems.step (mems_isolateCmd _ _)
    | apply Mems.step (mems_installProgram _ _ _)
    | refine Mems.snd (by with_reducible assumption) ?_
    | simp only [Mems.lit_iff]
    | split
    | dsimp only
    | with_unfolding_all decide

/-! ### Operands -/

theorem mems_addItem (d : Device) (c : CtxId) (i : VarItem) : Mems [] d (addItem d c i) := by
  unfold addItem
  with_reducible repeat' first
    | exact Mems.refl _ _
    | assumption
    | refine Mems.cond ?_ (fun _ => ?_)
    | apply Mems.step (mems_modRun _ _ _)
    | simp only [Mems.lit_iff]
    | split
    | dsimp only
    | with_unfolding_all decide

theorem mems_modLq (d : Device) (c : CtxId) (q : Fin 4) (f : LinkQueue → LinkQueue) : Mems [] d (modLq d c q f) := by
  unfold modLq
  with_reducible repeat' first
    | exact Mems.refl _ _
    | assumption
    | refine Mems.cond ?_ (fun _ => ?_)
    | apply Mems.step (mems_modCore _ _ _)
    | simp only [Mems.lit_iff]
    | split
    | dsimp only
    | with_unfolding_all decide

theorem mems_pushData (d : Device) (c : CtxId) (q : Fin 4) (v : Entry) : Mems [] d (pushData d c q v) := by
  unfold pushData
  with_reducible repeat' first
    | exact Mems.refl _ _
    | assumption
    | refine Mems.cond ?_ (fun _ => ?_)
    | apply Mems.step (mems_modLq _ _ _ _)
    | simp only [Mems.lit_iff]
    | split
    | dsimp only
    | with_unfolding_all decide

theorem mems_popHead (d : Device) (c : CtxId) (q : Fin 4) : Mems [] d (popHead d c q) := by
  unfold popHead
  with_reducible repeat' first
    | exact Mems.refl _ _
    | assumption
    | refine Mems.cond ?_ (fun _ => ?_)
    | apply Mems.step (mems_modLq _ _ _ _)
    | simp only [Mems.lit_iff]
    | split
    | dsimp only
    | with_unfolding_all decide

theorem mems_takeOperand (d : Device) (c : CtxId) (code : BitVec 5) : Mems [] d (takeOperand d c code) := by
  unfold takeOperand
  with_reducible repeat' first
    | exact Mems.refl _ _
    | assumption
    | refine Mems.cond ?_ (fun _ => ?_)
    | apply Mems.step (mems_popHead _ _ _)
    | simp only [Mems.lit_iff]
    | split
    | dsimp only
    | with_unfolding_all decide

theorem mems_putResult (d : Device) (c : CtxId) (code : BitVec 5) (n : Nat) (v : Entry) (issued : Nat) : Mems [] d (putResult d c code n v issued) := by
  unfold putResult
  with_reducible repeat' first
    | exact Mems.refl _ _
    | assumption
    | refine Mems.cond ?_ (fun _ => ?_)
    | apply Mems.step (mems_modCore _ _ _)
    | apply Mems.step (mems_pushData _ _ _ _)
    | simp only [Mems.lit_iff]
    | split
    | dsimp only
    | with_unfolding_all decide

/-! ### AddrGen -/

theorem mems_modAg (d : Device) (c : CtxId) (g : Nat) (f : AddrGen → AddrGen) : Mems [] d (modAg d c g f) := by
  unfold modAg
  with_reducible repeat' first
    | exact Mems.refl _ _
    | assumption
    | refine Mems.cond ?_ (fun _ => ?_)
    | apply Mems.step (mems_modCore _ _ _)
    | simp only [Mems.lit_iff]
    | split
    | dsimp only
    | with_unfolding_all decide

/-! ### Flags -/

theorem mems_countSent (d : Device) (c t : CtxId) (f : Byte) (i : W32) : Mems [] d (countSent d c t f i) := by
  unfold countSent
  with_reducible repeat' first
    | exact Mems.refl _ _
    | assumption
    | refine Mems.cond ?_ (fun _ => ?_)
    | apply Mems.step (mems_modCore _ _ _)
    | simp only [Mems.lit_iff]
    | split
    | dsimp only
    | with_unfolding_all decide

theorem mems_pendFlag (d : Device) (core : CoreId) (x : FlagChange) : Mems [] d (pendFlag d core x) := by
  unfold pendFlag
  with_reducible repeat' first
    | exact Mems.refl _ _
    | assumption
    | refine Mems.cond ?_ (fun _ => ?_)
    | apply Mems.step (mems_modCore _ _ _)
    | simp only [Mems.lit_iff]
    | split
    | dsimp only
    | with_unfolding_all decide

theorem mems_pendAdd (d : Device) (t : CtxId) (f : Byte) (delta : W32) : Mems [] d (pendAdd d t f delta) := by
  unfold pendAdd
  with_reducible repeat' first
    | exact Mems.refl _ _
    | assumption
    | refine Mems.cond ?_ (fun _ => ?_)
    | apply Mems.step (mems_pendFlag _ _ _)
    | simp only [Mems.lit_iff]
    | split
    | dsimp only
    | with_unfolding_all decide

theorem mems_receiptHalt (d : Device) (c : CtxId) (v : W64) : Mems [] d (receiptHalt d c v) := by
  unfold receiptHalt
  with_reducible repeat' first
    | exact Mems.refl _ _
    | assumption
    | refine Mems.cond ?_ (fun _ => ?_)
    | apply Mems.step (mems_haltNoBundle _ _ _)
    | apply Mems.step (mems_modCore _ _ _)
    | apply Mems.step (mems_detectAt _ _)
    | apply Mems.step (mems_modUnit _ _ _)
    | apply Mems.step (mems_modRun _ _ _)
    | simp only [Mems.lit_iff]
    | split
    | dsimp only
    | with_unfolding_all decide

theorem mems_flagsEnd (d : Device) (core : CoreId) : Mems [] d (flagsEnd d core) := by
  unfold flagsEnd
  with_reducible repeat' first
    | exact Mems.refl _ _
    | assumption
    | refine Mems.all (fun _ _ => ?_) ?_
    | refine Mems.cond ?_ (fun _ => ?_)
    | apply Mems.step (mems_modCore _ _ _)
    | apply Mems.step (mems_receiptHalt _ _ _)
    | simp only [Mems.lit_iff]
    | split
    | dsimp only
    | with_unfolding_all decide

/-! ### Message -/

theorem mems_modMq (d : Device) (c : CtxId) (q : Nat) (f : MsgQueue → MsgQueue) : Mems [] d (modMq d c q f) := by
  unfold modMq
  with_reducible repeat' first
    | exact Mems.refl _ _
    | assumption
    | refine Mems.cond ?_ (fun _ => ?_)
    | apply Mems.step (mems_modCore _ _ _)
    | simp only [Mems.lit_iff]
    | split
    | dsimp only
    | with_unfolding_all decide

theorem mems_modCredit (d : Device) (c : CtxId) (chan : Byte) (f : Nat → Nat) : Mems [] d (modCredit d c chan f) := by
  unfold modCredit
  with_reducible repeat' first
    | exact Mems.refl _ _
    | assumption
    | refine Mems.cond ?_ (fun _ => ?_)
    | apply Mems.step (mems_modCore _ _ _)
    | simp only [Mems.lit_iff]
    | split
    | dsimp only
    | with_unfolding_all decide

theorem mems_enqueue (d : Device) (c : CtxId) (r : Request) : Mems [] d (enqueue d c r) := by
  unfold enqueue
  with_reducible repeat' first
    | exact Mems.refl _ _
    | assumption
    | refine Mems.cond ?_ (fun _ => ?_)
    | apply Mems.step (mems_modUnit _ _ _)
    | simp only [Mems.lit_iff]
    | split
    | dsimp only
    | with_unfolding_all decide

theorem mems_sendEffect (d0 d : Device) (c : CtxId) (w : SeqId) (b : RawBundle) : Mems [] d (sendEffect d0 d c w b) := by
  unfold sendEffect
  with_reducible repeat' first
    | exact Mems.refl _ _
    | assumption
    | refine Mems.cond ?_ (fun _ => ?_)
    | apply Mems.step (mems_addItem _ _ _)
    | apply Mems.step (mems_modAg _ _ _ _)
    | apply Mems.step (mems_modCredit _ _ _ _)
    | apply Mems.step (mems_enqueue _ _ _)
    | simp only [Mems.lit_iff]
    | split
    | dsimp only
    | with_unfolding_all decide

/-! ### Scratch -/

theorem mems_writeTargetFrom_scratch (d : Device) (p : PartId) (c : CtxId) (off : Nat) : (k : Nat) → (bs : List Byte) →
    Mems [.scratch] d (writeTargetFrom d p (.scratch c off) k bs)
  | _, [] => Mems.refl _ d
  | k, b :: bs => by
    unfold writeTargetFrom
    exact Mems.step (mems_writeTargetFrom_scratch _ p c off (k + 1) bs) (List.Subset.refl _) (mems_writeByte d .scratch _ _)

theorem mems_writePad (d : Device) (c : CtxId) (off : Nat) (bs : List Byte) : Mems [.scratch] d (writePad d c off bs) := by
  unfold writePad writeTarget
  dsimp only
  split
  · exact mems_writeTargetFrom_scratch _ _ _ _ _ _
  · rw [Mems.lit_iff]
    exact mems_writeTargetFrom_scratch _ _ _ _ _ _

theorem mems_storePad (d : Device) (c : CtxId) (off : Nat) (bs : List Byte) : Mems [.scratch] d (storePad d c off bs) := by
  unfold storePad
  with_reducible repeat' first
    | exact Mems.refl _ _
    | assumption
    | refine Mems.snd (by with_reducible assumption) ?_
    | refine Mems.cond ?_ (fun _ => ?_)
    | apply Mems.step (mems_inject _ _ _)
    | apply Mems.step (mems_writePad _ _ _ _)
    | simp only [Mems.lit_iff]
    | split
    | dsimp only
    | with_unfolding_all decide

theorem mems_notePad (d : Device) (key : Nat) (source : BitVec 2) (persistent : Bool) : Mems [] d (notePad d key source persistent) := by
  unfold notePad
  with_reducible repeat' first
    | exact Mems.refl _ _
    | assumption
    | refine Mems.cond ?_ (fun _ => ?_)
    | apply Mems.step (mems_modCore _ _ _)
    | simp only [Mems.lit_iff]
    | split
    | dsimp only
    | with_unfolding_all decide

theorem mems_failingRead (d : Device) (r : CtxId) (key : Nat) (source : BitVec 2) (seq : Fin 4) (pc : BitVec 12) (det : BitVec 16) (inj : Bool)
    (ahead : Nat) : Mems [] d (failingRead d r key source seq pc det inj ahead) := by
  unfold failingRead
  with_reducible repeat' first
    | exact Mems.refl _ _
    | assumption
    | refine Mems.cond ?_ (fun _ => ?_)
    | apply Mems.step (mems_modUnit _ _ _)
    | apply Mems.step (mems_addItem _ _ _)
    | simp only [Mems.lit_iff]
    | split
    | dsimp only
    | with_unfolding_all decide

theorem mems_parityRead (d : Device) (r c : CtxId) (off n : Nat) (source : BitVec 2) (seq : Fin 4) (pc : BitVec 12) (ahead : Nat) : Mems [] d (parityRead d r c off n source seq pc ahead) := by
  unfold parityRead
  with_reducible repeat' first
    | exact Mems.refl _ _
    | assumption
    | refine Mems.all (fun _ _ => ?_) ?_
    | refine Mems.cond ?_ (fun _ => ?_)
    | apply Mems.step (mems_failingRead _ _ _ _ _ _ _ _ _)
    | apply Mems.step (mems_inject _ _ _)
    | refine Mems.snd (by with_reducible assumption) ?_
    | simp only [Mems.lit_iff]
    | split
    | dsimp only
    | with_unfolding_all decide

theorem mems_recordCheck (d : Device) (r : CtxId) (x : Replay) : Mems [] d (recordCheck d r x) := by
  unfold recordCheck
  with_reducible repeat' first
    | exact Mems.refl _ _
    | assumption
    | refine Mems.cond ?_ (fun _ => ?_)
    | apply Mems.step (mems_detect _ _)
    | apply Mems.step (mems_notePad _ _ _ _)
    | simp only [Mems.lit_iff]
    | split
    | dsimp only
    | with_unfolding_all decide

theorem mems_checksFall (d : Device) (r : CtxId) : Mems [] d (checksFall d r) := by
  unfold checksFall
  with_reducible repeat' first
    | exact Mems.refl _ _
    | assumption
    | refine Mems.all (fun _ _ => ?_) ?_
    | refine Mems.cond ?_ (fun _ => ?_)
    | apply Mems.step (mems_modUnit _ _ _)
    | apply Mems.step (mems_recordCheck _ _ _)
    | simp only [Mems.lit_iff]
    | split
    | dsimp only
    | with_unfolding_all decide

theorem mems_parityOutside (d : Device) (c : CtxId) (off n : Nat) (source : BitVec 2) : Mems [] d (parityOutside d c off n source).2 := by
  unfold parityOutside
  with_reducible repeat' first
    | exact Mems.refl _ _
    | assumption
    | refine Mems.all (fun _ _ => ?_) ?_
    | refine Mems.cond ?_ (fun _ => ?_)
    | apply Mems.step (mems_detect _ _)
    | apply Mems.step (mems_notePad _ _ _ _)
    | apply Mems.step (mems_modCore _ _ _)
    | apply Mems.step (mems_detectAt _ _)
    | simp only [Mems.lit_iff]
    | split
    | dsimp only
    | with_unfolding_all decide

theorem mems_parityHost (d : Device) (c : CtxId) (off n : Nat) : Mems [] d (parityHost d c off n).2 := by
  unfold parityHost
  with_reducible repeat' first
    | exact Mems.refl _ _
    | assumption
    | refine Mems.cond ?_ (fun _ => ?_)
    | apply Mems.step (mems_parityOutside _ _ _ _ _)
    | refine Mems.snd (by with_reducible assumption) ?_
    | simp only [Mems.lit_iff]
    | split
    | dsimp only
    | with_unfolding_all decide

theorem mems_resendArrives (d : Device) (c : CtxId) (ok : Bool) : Mems [] d (resendArrives d c ok) := by
  unfold resendArrives
  with_reducible repeat' first
    | exact Mems.refl _ _
    | assumption
    | refine Mems.fold (fun _ _ => ?_) ?_
    | refine Mems.cond ?_ (fun _ => ?_)
    | refine Mems.condSnd ?_ ?_
    | apply Mems.step (mems_modUnit _ _ _)
    | apply Mems.step (mems_modRun _ _ _)
    | apply Mems.step (mems_modCore _ _ _)
    | apply Mems.step (mems_recordCheck _ _ _)
    | apply Mems.step (mems_notePad _ _ _ _)
    | apply Mems.step (mems_detect _ _)
    | simp only [Mems.lit_iff]
    | split
    | dsimp only
    | with_unfolding_all decide

theorem mems_takeBanks (d : Device) (c : CtxId) (m : W32) : Mems [] d (takeBanks d c m) := by
  unfold takeBanks
  with_reducible repeat' first
    | exact Mems.refl _ _
    | assumption
    | refine Mems.cond ?_ (fun _ => ?_)
    | apply Mems.step (mems_modUnit _ _ _)
    | simp only [Mems.lit_iff]
    | split
    | dsimp only
    | with_unfolding_all decide

theorem mems_bankClear (d : Device) (core : CoreId) (b : Fin 32) : Mems [.scratch] d (bankClear d core b) := by
  refine ⟨fun i hi => ?_, fun h => ?_⟩
  · cases i <;> first | rfl | simp at hi
  · rw [memoriesWf_iff] at h ⊢
    intro i
    have := h i
    cases i <;> first | exact this | exact memWf_memClear true _ _ _ this

theorem mems_bankOffNow (d : Device) (core : CoreId) (b : Fin 32) : Mems [.scratch] d (bankOffNow d core b) := by
  unfold bankOffNow
  with_reducible repeat' first
    | exact Mems.refl _ _
    | assumption
    | refine Mems.cond ?_ (fun _ => ?_)
    | apply Mems.step (mems_modCore _ _ _)
    | apply Mems.step (mems_bankClear _ _ _)
    | simp only [Mems.lit_iff]
    | split
    | dsimp only
    | with_unfolding_all decide

theorem mems_bankRequest (d : Device) (core : CoreId) (b : Fin 32) : Mems [.scratch] d (bankRequest d core b) := by
  unfold bankRequest
  with_reducible repeat' first
    | exact Mems.refl _ _
    | assumption
    | refine Mems.cond ?_ (fun _ => ?_)
    | apply Mems.step (mems_modCore _ _ _)
    | apply Mems.step (mems_bankOffNow _ _ _)
    | simp only [Mems.lit_iff]
    | split
    | dsimp only
    | with_unfolding_all decide

theorem mems_bankOnNow (d : Device) (core : CoreId) (b : Fin 32) : Mems [.scratch] d (bankOnNow d core b) := by
  unfold bankOnNow
  with_reducible repeat' first
    | exact Mems.refl _ _
    | assumption
    | refine Mems.cond ?_ (fun _ => ?_)
    | apply Mems.step (mems_modCore _ _ _)
    | apply Mems.step (mems_bankClear _ _ _)
    | simp only [Mems.lit_iff]
    | split
    | dsimp only
    | with_unfolding_all decide

theorem mems_bankSettle (d : Device) (c : CtxId) : Mems [.scratch] d (bankSettle d c) := by
  unfold bankSettle
  with_reducible repeat' first
    | exact Mems.refl _ _
    | assumption
    | refine Mems.all (fun _ _ => ?_) ?_
    | refine Mems.cond ?_ (fun _ => ?_)
    | apply Mems.step (mems_bankRequest _ _ _)
    | apply Mems.step (mems_bankOnNow _ _ _)
    | simp only [Mems.lit_iff]
    | split
    | dsimp only
    | with_unfolding_all decide

theorem mems_bankPowerdown (d : Device) (core : CoreId) (b : Fin 32) : Mems [.scratch] d (bankPowerdown d core b) := by
  unfold bankPowerdown
  with_reducible repeat' first
    | exact Mems.refl _ _
    | assumption
    | refine Mems.cond ?_ (fun _ => ?_)
    | apply Mems.step (mems_bankOffNow _ _ _)
    | simp only [Mems.lit_iff]
    | split
    | dsimp only
    | with_unfolding_all decide

theorem mems_refuseWrites (d : Device) (core : CoreId) (b : Fin 32) (limit : Nat) : Mems [] d (refuseWrites d core b limit) := by
  unfold refuseWrites
  with_reducible repeat' first
    | exact Mems.refl _ _
    | assumption
    | refine Mems.all (fun _ _ => ?_) ?_
    | refine Mems.cond ?_ (fun _ => ?_)
    | apply Mems.step (mems_modUnit _ _ _)
    | simp only [Mems.lit_iff]
    | split
    | dsimp only
    | with_unfolding_all decide

theorem mems_bankTimeout (d : Device) (core : CoreId) (b : Fin 32) : Mems [.scratch] d (bankTimeout d core b) := by
  unfold bankTimeout
  with_reducible repeat' first
    | exact Mems.refl _ _
    | assumption
    | refine Mems.all (fun _ _ => ?_) ?_
    | refine Mems.cond ?_ (fun _ => ?_)
    | refine Mems.condSnd ?_ ?_
    | apply Mems.step (mems_inject _ _ _)
    | apply Mems.step (mems_modCore _ _ _)
    | apply Mems.step (mems_detect _ _)
    | apply Mems.step (mems_bankOffNow _ _ _)
    | apply Mems.step (mems_refuseWrites _ _ _ _)
    | refine Mems.snd (by with_reducible assumption) ?_
    | simp only [Mems.lit_iff]
    | split
    | dsimp only
    | with_unfolding_all decide

theorem mems_bankOffWrite (d : Device) (core : CoreId) (v : W64) : Mems [.scratch] d (bankOffWrite d core v) := by
  unfold bankOffWrite
  with_reducible repeat' first
    | exact Mems.refl _ _
    | assumption
    | refine Mems.all (fun _ _ => ?_) ?_
    | refine Mems.cond ?_ (fun _ => ?_)
    | apply Mems.step (mems_modCore _ _ _)
    | apply Mems.step (mems_bankSettle _ _)
    | simp only [Mems.lit_iff]
    | split
    | dsimp only
    | with_unfolding_all decide

/-! ### Scalar -/

theorem mems_setS (d : Device) (w : SeqId) (r : Nat) (v : W64) (t : Nat) : Mems [] d (setS d w r v t) := by
  unfold setS
  with_reducible repeat' first
    | exact Mems.refl _ _
    | assumption
    | refine Mems.cond ?_ (fun _ => ?_)
    | apply Mems.step (mems_modSeq _ _ _)
    | simp only [Mems.lit_iff]
    | split
    | dsimp only
    | with_unfolding_all decide

theorem mems_setP (d : Device) (w : SeqId) (p : Nat) (v : W64) : Mems [] d (setP d w p v) := by
  unfold setP
  with_reducible repeat' first
    | exact Mems.refl _ _
    | assumption
    | refine Mems.cond ?_ (fun _ => ?_)
    | apply Mems.step (mems_modSeq _ _ _)
    | simp only [Mems.lit_iff]
    | split
    | dsimp only
    | with_unfolding_all decide

theorem mems_countMayVary (d : Device) (c : CtxId) : Mems [] d (countMayVary d c) := by
  unfold countMayVary
  with_reducible repeat' first
    | exact Mems.refl _ _
    | assumption
    | refine Mems.cond ?_ (fun _ => ?_)
    | apply Mems.step (mems_modRun _ _ _)
    | simp only [Mems.lit_iff]
    | split
    | dsimp only
    | with_unfolding_all decide

theorem mems_lqEffect (d0 d : Device) (c : CtxId) (w : SeqId) (q : Sequencer) (b : RawBundle) (on : Bool) : Mems [] d (lqEffect d0 d c w q b on) := by
  unfold lqEffect
  with_reducible repeat' first
    | exact Mems.refl _ _
    | assumption
    | refine Mems.cond ?_ (fun _ => ?_)
    | apply Mems.step (mems_pushData _ _ _ _)
    | apply Mems.step (mems_popHead _ _ _)
    | apply Mems.step (mems_setS _ _ _ _ _)
    | simp only [Mems.lit_iff]
    | split
    | dsimp only
    | with_unfolding_all decide

theorem mems_effectR (d0 d : Device) (c : CtxId) (w : SeqId) (q : Sequencer) (b : RawBundle) : Mems [] d (effectR d0 d c w q b) := by
  unfold effectR
  with_reducible repeat' first
    | exact Mems.refl _ _
    | assumption
    | refine Mems.cond ?_ (fun _ => ?_)
    | apply Mems.step (mems_setS _ _ _ _ _)
    | apply Mems.step (mems_setP _ _ _ _)
    | apply Mems.step (mems_countMayVary _ _)
    | apply Mems.step (mems_lqEffect _ _ _ _ _ _ _)
    | simp only [Mems.lit_iff]
    | split
    | dsimp only
    | with_unfolding_all decide

theorem mems_effectI (d0 d : Device) (c : CtxId) (w : SeqId) (q : Sequencer) (b : RawBundle) : Mems [] d (effectI d0 d c w q b) := by
  unfold effectI
  with_reducible repeat' first
    | exact Mems.refl _ _
    | assumption
    | refine Mems.cond ?_ (fun _ => ?_)
    | apply Mems.step (mems_setS _ _ _ _ _)
    | apply Mems.step (mems_setP _ _ _ _)
    | simp only [Mems.lit_iff]
    | split
    | dsimp only
    | with_unfolding_all decide

theorem mems_effectA (d0 d : Device) (c : CtxId) (w : SeqId) (q : Sequencer) (b : RawBundle) : Mems [] d (effectA d0 d c w q b) := by
  unfold effectA
  with_reducible repeat' first
    | exact Mems.refl _ _
    | assumption
    | refine Mems.cond ?_ (fun _ => ?_)
    | apply Mems.step (mems_modAg _ _ _ _)
    | apply Mems.step (mems_setS _ _ _ _ _)
    | simp only [Mems.lit_iff]
    | split
    | dsimp only
    | with_unfolding_all decide

theorem mems_effectW (d : Device) (w : SeqId) (b : RawBundle) : Mems [] d (effectW d w b) := by
  unfold effectW
  with_reducible repeat' first
    | exact Mems.refl _ _
    | assumption
    | refine Mems.cond ?_ (fun _ => ?_)
    | apply Mems.step (mems_modSeq _ _ _)
    | simp only [Mems.lit_iff]
    | split
    | dsimp only
    | with_unfolding_all decide

theorem mems_scalarEffect (d0 d : Device) (c : CtxId) (w : SeqId) (b : RawBundle) : Mems [] d (scalarEffect d0 d c w b) := by
  unfold scalarEffect
  with_reducible repeat' first
    | exact Mems.refl _ _
    | assumption
    | refine Mems.cond ?_ (fun _ => ?_)
    | apply Mems.step (mems_effectR _ _ _ _ _ _)
    | apply Mems.step (mems_effectI _ _ _ _ _ _)
    | apply Mems.step (mems_effectA _ _ _ _ _ _)
    | apply Mems.step (mems_effectW _ _ _)
    | simp only [Mems.lit_iff]
    | split
    | dsimp only
    | with_unfolding_all decide

theorem mems_advanceStream (d0 d : Device) (c : CtxId) (w : SeqId) (b : RawBundle) : Mems [] d (advanceStream d0 d c w b) := by
  unfold advanceStream
  with_reducible repeat' first
    | exact Mems.refl _ _
    | assumption
    | refine Mems.cond ?_ (fun _ => ?_)
    | apply Mems.step (mems_modSeq _ _ _)
    | simp only [Mems.lit_iff]
    | split
    | dsimp only
    | with_unfolding_all decide

/-! ### LoadStore -/

theorem mems_reserve (d : Device) (c : CtxId) (x : Xfer) (var : Bool) : Mems [] d (reserve d c x var) := by
  unfold reserve
  with_reducible repeat' first
    | exact Mems.refl _ _
    | assumption
    | refine Mems.cond ?_ (fun _ => ?_)
    | apply Mems.step (mems_modLq _ _ _ _)
    | simp only [Mems.lit_iff]
    | split
    | dsimp only
    | with_unfolding_all decide

theorem mems_addFill (d : Device) (c : CtxId) (f : Fill) : Mems [] d (addFill d c f) := by
  unfold addFill
  with_reducible repeat' first
    | exact Mems.refl _ _
    | assumption
    | refine Mems.cond ?_ (fun _ => ?_)
    | apply Mems.step (mems_modUnit _ _ _)
    | simp only [Mems.lit_iff]
    | split
    | dsimp only
    | with_unfolding_all decide

theorem mems_portBanks (d : Device) (c : CtxId) (off n : Nat) : Mems [] d (portBanks d c off n) := by
  unfold portBanks
  with_reducible repeat' first
    | exact Mems.refl _ _
    | assumption
    | refine Mems.cond ?_ (fun _ => ?_)
    | apply Mems.step (mems_takeBanks _ _ _)
    | apply Mems.step (mems_modUnit _ _ _)
    | simp only [Mems.lit_iff]
    | split
    | dsimp only
    | with_unfolding_all decide

theorem mems_portRead (d : Device) (c : CtxId) (off n : Nat) (seq : Fin 4) (pc : BitVec 12) : Mems [] d (portRead d c off n seq pc).2.2 := by
  unfold portRead
  with_reducible repeat' first
    | exact Mems.refl _ _
    | assumption
    | refine Mems.cond ?_ (fun _ => ?_)
    | apply Mems.step (mems_parityRead _ _ _ _ _ _ _ _ _)
    | apply Mems.step (mems_portBanks _ _ _ _)
    | simp only [Mems.lit_iff]
    | split
    | dsimp only
    | with_unfolding_all decide

theorem mems_secondHalf (d : Device) (c : CtxId) : Mems [] d (secondHalf d c) := by
  unfold secondHalf
  with_reducible repeat' first
    | exact Mems.refl _ _
    | assumption
    | refine Mems.cond ?_ (fun _ => ?_)
    | refine Mems.optGetD ?_ ?_
    | apply Mems.step (mems_modUnit _ _ _)
    | apply Mems.step (mems_parityRead _ _ _ _ _ _ _ _ _)
    | simp only [Mems.lit_iff]
    | split
    | dsimp only
    | with_unfolding_all decide

theorem mems_startPorts (d : Device) (c : CtxId) : Mems [] d (startPorts d c) := by
  unfold startPorts
  with_reducible repeat' first
    | exact Mems.refl _ _
    | assumption
    | refine Mems.cond ?_ (fun _ => ?_)
    | apply Mems.step (mems_secondHalf _ _)
    | apply Mems.step (mems_modUnit _ _ _)
    | simp only [Mems.lit_iff]
    | split
    | dsimp only
    | with_unfolding_all decide

theorem mems_returnCredit (d : Device) (c : CtxId) (m : MqDesc) : Mems [] d (returnCredit d c m) := by
  unfold returnCredit
  with_reducible repeat' first
    | exact Mems.refl _ _
    | assumption
    | refine Mems.cond ?_ (fun _ => ?_)
    | apply Mems.step (mems_modUnit _ _ _)
    | apply Mems.step (mems_addItem _ _ _)
    | simp only [Mems.lit_iff]
    | split
    | dsimp only
    | with_unfolding_all decide

theorem mems_queueParity (d : Device) (c : CtxId) (seq : Fin 4) (pc : BitVec 12) : Mems [] d (queueParity d c seq pc) := by
  unfold queueParity
  with_reducible repeat' first
    | exact Mems.refl _ _
    | assumption
    | refine Mems.cond ?_ (fun _ => ?_)
    | apply Mems.step (mems_inject _ _ _)
    | apply Mems.step (mems_drawFree _)
    | apply Mems.step (mems_failingRead _ _ _ _ _ _ _ _ _)
    | refine Mems.snd (by with_reducible assumption) ?_
    | simp only [Mems.lit_iff]
    | split
    | dsimp only
    | with_unfolding_all decide

theorem mems_localLoad (d : Device) (c : CtxId) (x : Xfer) : Mems [] d (localLoad d c x) := by
  unfold localLoad
  with_reducible repeat' first
    | exact Mems.refl _ _
    | assumption
    | refine Mems.cond ?_ (fun _ => ?_)
    | apply Mems.step (mems_addFill _ _ _)
    | apply Mems.step (mems_reserve _ _ _ _)
    | apply Mems.step (mems_modMq _ _ _ _)
    | apply Mems.step (mems_returnCredit _ _ _)
    | apply Mems.step (mems_queueParity _ _ _ _)
    | apply Mems.step (mems_portBanks _ _ _ _)
    | apply Mems.step (mems_portRead _ _ _ _ _ _)
    | refine Mems.snd (by with_reducible assumption) ?_
    | simp only [Mems.lit_iff]
    | split
    | dsimp only
    | with_unfolding_all decide

theorem mems_storePop (d : Device) (c : CtxId) (x : Xfer) : Mems [] d (storePop d c x) := by
  unfold storePop
  with_reducible repeat' first
    | exact Mems.refl _ _
    | assumption
    | refine Mems.cond ?_ (fun _ => ?_)
    | apply Mems.step (mems_popHead _ _ _)
    | simp only [Mems.lit_iff]
    | split
    | dsimp only
    | with_unfolding_all decide

theorem mems_localStore (d : Device) (c : CtxId) (x : Xfer) : Mems [] d (localStore d c x) := by
  unfold localStore
  with_reducible repeat' first
    | exact Mems.refl _ _
    | assumption
    | refine Mems.cond ?_ (fun _ => ?_)
    | apply Mems.step (mems_storePop _ _ _)
    | apply Mems.step (mems_modUnit _ _ _)
    | apply Mems.step (mems_detectAt _ _)
    | simp only [Mems.lit_iff]
    | split
    | dsimp only
    | with_unfolding_all decide

theorem mems_remoteXfer (d : Device) (c : CtxId) (x : Xfer) : Mems [] d (remoteXfer d c x) := by
  unfold remoteXfer
  with_reducible repeat' first
    | exact Mems.refl _ _
    | assumption
    | refine Mems.cond ?_ (fun _ => ?_)
    | apply Mems.step (mems_enqueue _ _ _)
    | apply Mems.step (mems_countMayVary _ _)
    | apply Mems.step (mems_reserve _ _ _ _)
    | apply Mems.step (mems_storePop _ _ _)
    | simp only [Mems.lit_iff]
    | split
    | dsimp only
    | with_unfolding_all decide

theorem mems_xEffect (d : Device) (c : CtxId) (x : Xfer) : Mems [] d (xEffect d c x) := by
  unfold xEffect
  with_reducible repeat' first
    | exact Mems.refl _ _
    | assumption
    | refine Mems.cond ?_ (fun _ => ?_)
    | apply Mems.step (mems_localLoad _ _ _)
    | apply Mems.step (mems_localStore _ _ _)
    | apply Mems.step (mems_remoteXfer _ _ _)
    | simp only [Mems.lit_iff]
    | split
    | dsimp only
    | with_unfolding_all decide

theorem mems_xAdvance (d : Device) (c : CtxId) (x : Xfer) : Mems [] d (xAdvance d c x) := by
  unfold xAdvance
  with_reducible repeat' first
    | exact Mems.refl _ _
    | assumption
    | refine Mems.cond ?_ (fun _ => ?_)
    | apply Mems.step (mems_modAg _ _ _ _)
    | simp only [Mems.lit_iff]
    | split
    | dsimp only
    | with_unfolding_all decide

theorem mems_startUnit (d : Device) (c : CtxId) (store : Bool) (b : RawBundle) (x : Xfer) : Mems [] d (startUnit d c store b x) := by
  unfold startUnit
  with_reducible repeat' first
    | exact Mems.refl _ _
    | assumption
    | refine Mems.cond ?_ (fun _ => ?_)
    | apply Mems.step (mems_modUnit _ _ _)
    | simp only [Mems.lit_iff]
    | split
    | dsimp only
    | with_unfolding_all decide

theorem mems_agFetchEffect (d0 d : Device) (c : CtxId) (w : SeqId) (b : RawBundle) : Mems [] d (agFetchEffect d0 d c w b) := by
  unfold agFetchEffect
  with_reducible repeat' first
    | exact Mems.refl _ _
    | assumption
    | refine Mems.cond ?_ (fun _ => ?_)
    | apply Mems.step (mems_portRead _ _ _ _ _ _)
    | apply Mems.step (mems_addFill _ _ _)
    | refine Mems.snd (by with_reducible assumption) ?_
    | simp only [Mems.lit_iff]
    | split
    | dsimp only
    | with_unfolding_all decide

theorem mems_memEffect (d0 d : Device) (c : CtxId) (w : SeqId) (b : RawBundle) : Mems [] d (memEffect d0 d c w b) := by
  unfold memEffect
  with_reducible repeat' first
    | exact Mems.refl _ _
    | assumption
    | refine Mems.cond ?_ (fun _ => ?_)
    | apply Mems.step (mems_xEffect _ _ _)
    | apply Mems.step (mems_xAdvance _ _ _)
    | apply Mems.step (mems_startUnit _ _ _ _ _)
    | simp only [Mems.lit_iff]
    | split
    | dsimp only
    | with_unfolding_all decide

theorem mems_setUnit (d : Device) (c : CtxId) (store : Bool) (u : Option RepeatUnit) : Mems [] d (setUnit d c store u) := by
  unfold setUnit
  with_reducible repeat' first
    | exact Mems.refl _ _
    | assumption
    | refine Mems.cond ?_ (fun _ => ?_)
    | apply Mems.step (mems_modUnit _ _ _)
    | simp only [Mems.lit_iff]
    | split
    | dsimp only
    | with_unfolding_all decide

theorem mems_unitStep (d : Device) (c : CtxId) (store : Bool) : Mems [] d (unitStep d c store) := by
  unfold unitStep
  with_reducible repeat' first
    | exact Mems.refl _ _
    | assumption
    | refine Mems.cond ?_ (fun _ => ?_)
    | apply Mems.step (mems_xEffect _ _ _)
    | apply Mems.step (mems_xAdvance _ _ _)
    | apply Mems.step (mems_setUnit _ _ _ _)
    | simp only [Mems.lit_iff]
    | split
    | dsimp only
    | with_unfolding_all decide

end Sys2Proof.Machine
end

