-- ==== Sys2Proof/Laws/MemsNetwork.lean ====
section
/-! SUPPORT. Which memories the operations between the cores may write, one lemma for each: streams, channels, network, memory tiers, barriers, collectives. -/

namespace Sys2Proof.Machine

/-! ### Stream -/

theorem mems_modStream (d : Device) (c : CtxId) (f : StreamUnit → StreamUnit) : Mems [] d (modStream d c f) := by
  unfold modStream
  with_reducible repeat' first
    | exact Mems.refl _ _
    | assumption
    | refine Mems.cond ?_ (fun _ => ?_)
    | apply Mems.step (mems_modUnit _ _ _)
    | simp only [Mems.lit_iff]
    | split
    | dsimp only
    | with_unfolding_all decide

theorem mems_modProg (d : Device) (c : CtxId) (k : Nat) (f : StreamProg → StreamProg) : Mems [] d (modProg d c k f) := by
  unfold modProg
  with_reducible repeat' first
    | exact Mems.refl _ _
    | assumption
    | refine Mems.cond ?_ (fun _ => ?_)
    | apply Mems.step (mems_modStream _ _ _)
    | simp only [Mems.lit_iff]
    | split
    | dsimp only
    | with_unfolding_all decide

theorem mems_instanceStart (d : Device) (c : CtxId) (k : Nat) : Mems [] d (instanceStart d c k) := by
  unfold instanceStart
  with_reducible repeat' first
    | exact Mems.refl _ _
    | assumption
    | refine Mems.cond ?_ (fun _ => ?_)
    | apply Mems.step (mems_modProg _ _ _ _)
    | simp only [Mems.lit_iff]
    | split
    | dsimp only
    | with_unfolding_all decide

theorem mems_finishXfer (d : Device) (owner : CtxId) (k inst : Nat) (flagOwner : CtxId) : Mems [] d (finishXfer d owner k inst flagOwner) := by
  unfold finishXfer
  with_reducible repeat' first
    | exact Mems.refl _ _
    | assumption
    | refine Mems.cond ?_ (fun _ => ?_)
    | apply Mems.step (mems_pendAdd _ _ _ _)
    | apply Mems.step (mems_modStream _ _ _)
    | apply Mems.step (mems_modProg _ _ _ _)
    | simp only [Mems.lit_iff]
    | split
    | dsimp only
    | with_unfolding_all decide

theorem mems_memEvent (d : Device) (c : Option CtxId) (det unit : Nat) (sev : BitVec 2) (code : Byte) (detail : Nat) : Mems [] d (memEvent d c det unit sev code detail).2 := by
  unfold memEvent
  with_reducible repeat' first
    | exact Mems.refl _ _
    | assumption
    | refine Mems.snd (by with_reducible assumption) ?_
    | refine Mems.cond ?_ (fun _ => ?_)
    | apply Mems.step (mems_detect _ _)
    | apply Mems.step (mems_inject _ _ _)
    | simp only [Mems.lit_iff]
    | split
    | dsimp only
    | with_unfolding_all decide

theorem mems_stackEvent (d : Device) (c : Option CtxId) (stack : Fin 8) (det : Nat) (sev : BitVec 2) (code : Byte) (a : Nat) (count : HbmStack → HbmStack) : Mems [] d (stackEvent d c stack det sev code a count).2 := by
  unfold stackEvent
  with_reducible repeat' first
    | exact Mems.refl _ _
    | assumption
    | refine Mems.cond ?_ (fun _ => ?_)
    | refine Mems.condSnd ?_ ?_
    | apply Mems.step (mems_memEvent _ _ _ _ _ _ _)
    | apply Mems.step (mems_modStack _ _ _)
    | refine Mems.snd (by with_reducible assumption) ?_
    | simp only [Mems.lit_iff]
    | split
    | dsimp only
    | with_unfolding_all decide

theorem mems_cleanReread (d : Device) (c : Option CtxId) (stack : Fin 8) (a : Nat) : Mems [] d (cleanReread d c stack a) := by
  unfold cleanReread
  with_reducible repeat' first
    | exact Mems.refl _ _
    | assumption
    | refine Mems.cond ?_ (fun _ => ?_)
    | apply Mems.step (mems_detect _ _)
    | apply Mems.step (mems_modStack _ _ _)
    | simp only [Mems.lit_iff]
    | split
    | dsimp only
    | with_unfolding_all decide

theorem mems_hbmEvents (d : Device) (c : Option CtxId) (stack : Fin 8) (read : Bool) (a : Nat) : Mems [] d (hbmEvents d c stack read a).2 := by
  unfold hbmEvents
  with_reducible repeat' first
    | exact Mems.refl _ _
    | assumption
    | refine Mems.cond ?_ (fun _ => ?_)
    | refine Mems.condSnd ?_ ?_
    | apply Mems.step (mems_stackEvent _ _ _ _ _ _ _ _)
    | apply Mems.step (mems_cleanReread _ _ _ _)
    | refine Mems.snd (by with_reducible assumption) ?_
    | simp only [Mems.lit_iff]
    | split
    | dsimp only
    | with_unfolding_all decide

theorem mems_cxlEvents (d : Device) (c : Option CtxId) (port : Fin 4) (read : Bool) (a : Nat) : Mems [] d (cxlEvents d c port read a).2 := by
  unfold cxlEvents
  with_reducible repeat' first
    | exact Mems.refl _ _
    | assumption
    | refine Mems.cond ?_ (fun _ => ?_)
    | refine Mems.condSnd ?_ ?_
    | apply Mems.step (mems_memEvent _ _ _ _ _ _ _)
    | apply Mems.step (mems_modPort _ _ _)
    | refine Mems.snd (by with_reducible assumption) ?_
    | simp only [Mems.lit_iff]
    | split
    | dsimp only
    | with_unfolding_all decide

theorem mems_resEvents (d : Device) (c : Option CtxId) (part : PartId) (read : Bool) (a : Nat) : Mems [] d (resEvents d c part read a).2 := by
  unfold resEvents
  with_reducible repeat' first
    | exact Mems.refl _ _
    | assumption
    | refine Mems.cond ?_ (fun _ => ?_)
    | refine Mems.condSnd ?_ ?_
    | apply Mems.step (mems_memEvent _ _ _ _ _ _ _)
    | refine Mems.snd (by with_reducible assumption) ?_
    | simp only [Mems.lit_iff]
    | split
    | dsimp only
    | with_unfolding_all decide

theorem mems_tierEvents (d : Device) (c : Option CtxId) (p : PartId) (t : Target) (read : Bool) : Mems [] d (tierEvents d c p t read).2 := by
  unfold tierEvents
  with_reducible repeat' first
    | exact Mems.refl _ _
    | assumption
    | refine Mems.cond ?_ (fun _ => ?_)
    | refine Mems.condSnd ?_ ?_
    | apply Mems.step (mems_hbmEvents _ _ _ _ _)
    | apply Mems.step (mems_cxlEvents _ _ _ _ _)
    | apply Mems.step (mems_resEvents _ _ _ _ _)
    | refine Mems.snd (by with_reducible assumption) ?_
    | simp only [Mems.lit_iff]
    | split
    | dsimp only
    | with_unfolding_all decide

theorem mems_noteLate (d : Device) (c : CtxId) (a due since : Nat) : Mems [] d (noteLate d c a due since) := by
  unfold noteLate
  with_reducible repeat' first
    | exact Mems.refl _ _
    | assumption
    | refine Mems.cond ?_ (fun _ => ?_)
    | apply Mems.step (mems_detectAt _ _)
    | apply Mems.step (mems_modPort _ _ _)
    | simp only [Mems.lit_iff]
    | split
    | dsimp only
    | with_unfolding_all decide

theorem mems_wrapperEntry (d : Device) (c : CtxId) (a n : Nat) (first : Bool) : Mems [] d (wrapperEntry d c a n first) := by
  unfold wrapperEntry
  with_reducible repeat' first
    | exact Mems.refl _ _
    | assumption
    | refine Mems.cond ?_ (fun _ => ?_)
    | apply Mems.step (mems_detectAt _ _)
    | simp only [Mems.lit_iff]
    | split
    | dsimp only
    | with_unfolding_all decide

theorem mems_memAct (d : Device) (c : CtxId) (a n : Nat) (write : Option (List Byte)) : Mems [.scratch, .reservoir, .hbm, .cxl] d (memAct d c a n write).2.2 := by
  unfold memAct
  with_reducible repeat' first
    | exact Mems.refl _ _
    | assumption
    | refine Mems.cond ?_ (fun _ => ?_)
    | refine Mems.condSnd ?_ ?_
    | apply Mems.step (mems_tierEvents _ _ _ _ _)
    | apply Mems.step (mems_writeTarget _ _ _ _)
    | refine Mems.snd (by with_reducible assumption) ?_
    | simp only [Mems.lit_iff]
    | split
    | dsimp only
    | with_unfolding_all decide

theorem mems_grantSub (d : Device) (c : CtxId) (f : Flight) (row : GrantRow) (t : Nat) : Mems [.scratch, .reservoir, .hbm, .cxl] d (grantSub d c f row t).2 := by
  unfold grantSub
  with_reducible repeat' first
    | exact Mems.refl _ _
    | assumption
    | refine Mems.fold (fun _ _ => ?_) ?_
    | refine Mems.cond ?_ (fun _ => ?_)
    | refine Mems.condSnd ?_ ?_
    | refine Mems.optGetD ?_ ?_
    | apply Mems.step (mems_wrapperEntry _ _ _ _ _)
    | apply Mems.step (mems_memAct _ _ _ _ _)
    | refine Mems.snd (by with_reducible assumption) ?_
    | simp only [Mems.lit_iff]
    | split
    | dsimp only
    | with_unfolding_all decide

theorem mems_flightDue (d : Device) (c : CtxId) (f : Flight) : Mems [] d (flightDue d c f) := by
  unfold flightDue
  with_reducible repeat' first
    | exact Mems.refl _ _
    | assumption
    | refine Mems.cond ?_ (fun _ => ?_)
    | apply Mems.step (mems_addItem _ _ _)
    | apply Mems.step (mems_modLq _ _ _ _)
    | simp only [Mems.lit_iff]
    | split
    | dsimp only
    | with_unfolding_all decide

theorem mems_grantCore (d : Device) (c : CtxId) (row : GrantRow) : Mems.opt [.scratch, .reservoir, .hbm, .cxl] d (grantCore d c row) := by
  unfold grantCore
  with_reducible repeat' first
    | exact Mems.refl _ _
    | assumption
    | exact Mems.optNone _ _
    | refine Mems.optSome ?_
    | refine Mems.snd (by with_reducible assumption) ?_
    | refine Mems.cond ?_ (fun _ => ?_)
    | apply Mems.step (mems_modUnit _ _ _)
    | apply Mems.step (mems_grantSub _ _ _ _ _)
    | apply Mems.step (mems_flightDue _ _ _)
    | simp only [Mems.lit_iff]
    | split
    | dsimp only
    | with_unfolding_all decide

theorem mems_grantFill (d : Device) (c : CtxId) (k : Nat) (x : StreamDesc) (t : Nat) : Mems [.scratch, .reservoir, .hbm, .cxl] d (grantFill d c k x t) := by
  unfold grantFill
  with_reducible repeat' first
    | exact Mems.refl _ _
    | assumption
    | refine Mems.cond ?_ (fun _ => ?_)
    | refine Mems.condSnd ?_ ?_
    | apply Mems.step (mems_wrapperEntry _ _ _ _ _)
    | apply Mems.step (mems_memAct _ _ _ _ _)
    | apply Mems.step (mems_modStream _ _ _)
    | apply Mems.step (mems_modProg _ _ _ _)
    | refine Mems.snd (by with_reducible assumption) ?_
    | simp only [Mems.lit_iff]
    | split
    | dsimp only
    | with_unfolding_all decide

theorem mems_grantSpill (d : Device) (c : CtxId) (k : Nat) (x : StreamDesc) (t : Nat) : Mems [.scratch, .reservoir, .hbm, .cxl] d (grantSpill d c k x t) := by
  unfold grantSpill
  with_reducible repeat' first
    | exact Mems.refl _ _
    | assumption
    | refine Mems.cond ?_ (fun _ => ?_)
    | refine Mems.condSnd ?_ ?_
    | refine Mems.optGetD ?_ ?_
    | apply Mems.step (mems_wrapperEntry _ _ _ _ _)
    | apply Mems.step (mems_memAct _ _ _ _ _)
    | apply Mems.step (mems_modStream _ _ _)
    | apply Mems.step (mems_modProg _ _ _ _)
    | refine Mems.snd (by with_reducible assumption) ?_
    | simp only [Mems.lit_iff]
    | split
    | dsimp only
    | with_unfolding_all decide

theorem mems_grantStream (d : Device) (c : CtxId) (row : GrantRow) : Mems [.scratch, .reservoir, .hbm, .cxl] d (grantStream d c row) := by
  unfold grantStream
  with_reducible repeat' first
    | exact Mems.refl _ _
    | assumption
    | refine Mems.cond ?_ (fun _ => ?_)
    | apply Mems.step (mems_modStream _ _ _)
    | apply Mems.step (mems_grantFill _ _ _ _ _)
    | apply Mems.step (mems_grantSpill _ _ _ _ _)
    | simp only [Mems.lit_iff]
    | split
    | dsimp only
    | with_unfolding_all decide

theorem mems_landWrite (d : Device) (c : CtxId) (i : LandItem) : Mems [.scratch] d (landWrite d c i) := by
  unfold landWrite
  with_reducible repeat' first
    | exact Mems.refl _ _
    | assumption
    | refine Mems.cond ?_ (fun _ => ?_)
    | apply Mems.step (mems_finishXfer _ _ _ _ _)
    | apply Mems.step (mems_writePad _ _ _ _)
    | simp only [Mems.lit_iff]
    | split
    | dsimp only
    | with_unfolding_all decide

theorem mems_landItem (d : Device) (c : CtxId) (rotation : Bool) : Mems [.scratch] d (landItem d c rotation) := by
  unfold landItem
  with_reducible repeat' first
    | exact Mems.refl _ _
    | assumption
    | refine Mems.cond ?_ (fun _ => ?_)
    | apply Mems.step (mems_noteLate _ _ _ _ _)
    | apply Mems.step (mems_modStream _ _ _)
    | apply Mems.step (mems_landWrite _ _ _)
    | simp only [Mems.lit_iff]
    | split
    | dsimp only
    | with_unfolding_all decide

theorem mems_rotationError (d : Device) (i : LandItem) : Mems [] d (rotationError d i) := by
  unfold rotationError
  with_reducible repeat' first
    | exact Mems.refl _ _
    | assumption
    | refine Mems.cond ?_ (fun _ => ?_)
    | apply Mems.step (mems_modStream _ _ _)
    | apply Mems.step (mems_noteErrors _ _ _)
    | simp only [Mems.lit_iff]
    | split
    | dsimp only
    | with_unfolding_all decide

theorem mems_serveEdge (d : Device) (c : CtxId) : Mems [.scratch] d (serveEdge d c) := by
  unfold serveEdge
  with_reducible repeat' first
    | exact Mems.refl _ _
    | assumption
    | refine Mems.cond ?_ (fun _ => ?_)
    | apply Mems.step (mems_modStream _ _ _)
    | apply Mems.step (mems_takeBanks _ _ _)
    | apply Mems.step (mems_landWrite _ _ _)
    | apply Mems.step (mems_parityRead _ _ _ _ _ _ _ _ _)
    | apply Mems.step (mems_rotationError _ _)
    | simp only [Mems.lit_iff]
    | split
    | dsimp only
    | with_unfolding_all decide

theorem mems_assignRead (d : Device) (c : CtxId) : Mems [] d (assignRead d c) := by
  unfold assignRead
  with_reducible repeat' first
    | exact Mems.refl _ _
    | assumption
    | refine Mems.cond ?_ (fun _ => ?_)
    | apply Mems.step (mems_modStream _ _ _)
    | simp only [Mems.lit_iff]
    | split
    | dsimp only
    | with_unfolding_all decide

theorem mems_assignWrite (d : Device) (c : CtxId) : Mems [] d (assignWrite d c) := by
  unfold assignWrite
  with_reducible repeat' first
    | exact Mems.refl _ _
    | assumption
    | refine Mems.cond ?_ (fun _ => ?_)
    | apply Mems.step (mems_modStream _ _ _)
    | apply Mems.step (mems_modProg _ _ _ _)
    | simp only [Mems.lit_iff]
    | split
    | dsimp only
    | with_unfolding_all decide

theorem mems_readSlotWrite (d : Device) (c : CtxId) : Mems [.scratch] d (readSlotWrite d c) := by
  unfold readSlotWrite
  with_reducible repeat' first
    | exact Mems.refl _ _
    | assumption
    | refine Mems.cond ?_ (fun _ => ?_)
    | apply Mems.step (mems_serveEdge _ _)
    | apply Mems.step (mems_assignRead _ _)
    | simp only [Mems.lit_iff]
    | split
    | dsimp only
    | with_unfolding_all decide

theorem mems_writeSlot (d : Device) (c : CtxId) : Mems [.scratch] d (writeSlot d c) := by
  unfold writeSlot
  with_reducible repeat' first
    | exact Mems.refl _ _
    | assumption
    | refine Mems.cond ?_ (fun _ => ?_)
    | apply Mems.step (mems_serveEdge _ _)
    | apply Mems.step (mems_assignWrite _ _)
    | simp only [Mems.lit_iff]
    | split
    | dsimp only
    | with_unfolding_all decide

theorem mems_spillAck (d : Device) (c : CtxId) : Mems [] d (spillAck d c) := by
  unfold spillAck
  with_reducible repeat' first
    | exact Mems.refl _ _
    | assumption
    | refine Mems.cond ?_ (fun _ => ?_)
    | apply Mems.step (mems_modStream _ _ _)
    | apply Mems.step (mems_noteLate _ _ _ _ _)
    | simp only [Mems.lit_iff]
    | split
    | dsimp only
    | with_unfolding_all decide

theorem mems_checkStream (d : Device) (c : CtxId) (t : Nat) : Mems [] d (checkStream d c t) := by
  unfold checkStream
  with_reducible repeat' first
    | exact Mems.refl _ _
    | assumption
    | refine Mems.cond ?_ (fun _ => ?_)
    | apply Mems.step (mems_modStream _ _ _)
    | simp only [Mems.lit_iff]
    | split
    | dsimp only
    | with_unfolding_all decide

theorem mems_freeAcked (d : Device) (c : CtxId) : Mems [] d (freeAcked d c) := by
  unfold freeAcked
  with_reducible repeat' first
    | exact Mems.refl _ _
    | assumption
    | refine Mems.all (fun _ _ => ?_) ?_
    | refine Mems.cond ?_ (fun _ => ?_)
    | apply Mems.step (mems_finishXfer _ _ _ _ _)
    | apply Mems.step (mems_modStream _ _ _)
    | simp only [Mems.lit_iff]
    | split
    | dsimp only
    | with_unfolding_all decide

/-! ### Channel -/

theorem mems_raiseVector (d : Device) (c : CtxId) (f : NFlags) : Mems [] d (raiseVector d c f) := by
  unfold raiseVector
  with_reducible repeat' first
    | exact Mems.refl _ _
    | assumption
    | refine Mems.cond ?_ (fun _ => ?_)
    | apply Mems.step (mems_modUnit _ _ _)
    | simp only [Mems.lit_iff]
    | split
    | dsimp only
    | with_unfolding_all decide

theorem mems_deliverFlag (d : Device) (t : CtxId) (fadd fper : Bool) (flag : Byte) (n : Nat) : Mems [] d (deliverFlag d t fadd fper flag n) := by
  unfold deliverFlag
  with_reducible repeat' first
    | exact Mems.refl _ _
    | assumption
    | refine Mems.cond ?_ (fun _ => ?_)
    | apply Mems.step (mems_pendAdd _ _ _ _)
    | simp only [Mems.lit_iff]
    | split
    | dsimp only
    | with_unfolding_all decide

theorem mems_anchorArrive (d : Device) (e : InEntry) (inid : Byte) (m : Assembling) : Mems [] d (anchorArrive d e inid m) :=
  mems_modUnit _ _ _

theorem mems_deliverInbound (d : Device) (e : InEntry) (inid : Byte) (m : Assembling) : Mems.opt [] d (deliverInbound d e inid m) := by
  unfold deliverInbound
  with_reducible repeat' first
    | exact Mems.refl _ _
    | assumption
    | exact Mems.optNone _ _
    | refine Mems.optSome ?_
    | refine Mems.cond ?_ (fun _ => ?_)
    | apply Mems.step (mems_modMq _ _ _ _)
    | apply Mems.step (mems_deliverFlag _ _ _ _ _ _)
    | apply Mems.step (mems_anchorArrive _ _ _ _)
    | simp only [Mems.lit_iff]
    | split
    | dsimp only
    | with_unfolding_all decide

theorem mems_markRetried (d : Device) (i : DomId) (hit : ItemRef → Bool) : Mems [] d (markRetried d i hit) := by
  unfold markRetried
  with_reducible repeat' first
    | exact Mems.refl _ _
    | assumption
    | refine Mems.cond ?_ (fun _ => ?_)
    | apply Mems.step (mems_modRun _ _ _)
    | simp only [Mems.lit_iff]
    | split
    | dsimp only
    | with_unfolding_all decide

theorem mems_markMessage (d : Device) (i : DomId) (e : InEntry) (retried : Bool) : Mems [] d (markMessage d i e retried) := by
  unfold markMessage
  with_reducible repeat' first
    | exact Mems.refl _ _
    | assumption
    | refine Mems.cond ?_ (fun _ => ?_)
    | apply Mems.step (mems_markRetried _ _ _)
    | simp only [Mems.lit_iff]
    | split
    | dsimp only
    | with_unfolding_all decide

theorem mems_deliverReady : (n : Nat) → (d : Device) → (i : DomId) → (e : InEntry) → (inid : Byte) → Mems [] d (deliverReady n d i e inid)
  | 0, d, _, _, _ => Mems.refl _ d
  | n + 1, d, i, e, inid => by
    unfold deliverReady
    dsimp only
    split
    · exact Mems.refl _ d
    · split
      · exact Mems.step (mems_deliverReady n _ i e inid) (by decide) (Mems.step (mems_modDom _ _ _) (by decide) (Mems.refl _ _))
      · split
        · exact Mems.step (mems_deliverReady n _ i e inid) (by decide)
            (Mems.step (mems_noteErrors _ _ _) (by decide) (Mems.step (mems_modDom _ _ _) (by decide) (Mems.refl _ _)))
        · split
          · exact Mems.refl _ d
          · split
            · rename_i x h
              exact Mems.step (mems_deliverReady n _ i e inid) (by decide) (Mems.step (mems_markMessage _ _ _ _) (by decide)
                (Mems.step (mems_modDom _ _ _) (by decide) (Mems.ofOpt h (mems_deliverInbound _ _ _ _) (by decide) (Mems.refl _ _))))
            · split
              · exact Mems.refl _ d
              · exact Mems.step (mems_modMq _ _ _ _) (by decide) (Mems.step (mems_modDom _ _ _) (by decide) (Mems.refl _ _))

theorem mems_hubMessage (d : Device) (p : PartId) (lseq : Nat) (m : Assembling) : Mems [] d (hubMessage d p lseq m) := by
  unfold hubMessage
  with_reducible repeat' first
    | exact Mems.refl _ _
    | assumption
    | refine Mems.cond ?_ (fun _ => ?_)
    | refine Mems.condSnd ?_ ?_
    | refine Mems.optGetD ?_ ?_
    | apply Mems.step (mems_detectAt _ _)
    | apply Mems.step (mems_inject _ _ _)
    | apply Mems.step (mems_detect _ _)
    | apply Mems.step (mems_modDom _ _ _)
    | apply Mems.step (mems_deliverReady _ _ _ _ _)
    | apply Mems.step (mems_markMessage _ _ _ _)
    | refine Mems.snd (by with_reducible assumption) ?_
    | simp only [Mems.lit_iff]
    | split
    | dsimp only
    | with_unfolding_all decide

theorem mems_deliverWaiting (d : Device) (p : PartId) : Mems [] d (deliverWaiting d p) := by
  unfold deliverWaiting
  with_reducible repeat' first
    | exact Mems.refl _ _
    | assumption
    | refine Mems.all (fun _ _ => ?_) ?_
    | refine Mems.cond ?_ (fun _ => ?_)
    | refine Mems.optGetD ?_ ?_
    | apply Mems.step (mems_deliverReady _ _ _ _ _)
    | simp only [Mems.lit_iff]
    | split
    | dsimp only
    | with_unfolding_all decide

theorem mems_quotaRelease (d : Device) (core : CoreId) (q : Fin 8) : Mems [] d (quotaRelease d core q) := by
  unfold quotaRelease
  with_reducible repeat' first
    | exact Mems.refl _ _
    | assumption
    | refine Mems.all (fun _ _ => ?_) ?_
    | refine Mems.cond ?_ (fun _ => ?_)
    | refine Mems.optGetD ?_ ?_
    | apply Mems.step (mems_deliverReady _ _ _ _ _)
    | simp only [Mems.lit_iff]
    | split
    | dsimp only
    | with_unfolding_all decide

theorem mems_sendExternal (d : Device) (c : CtxId) (chan : Byte) (units : List (BitVec 512)) : Mems [] d (sendExternal d c chan units) := by
  unfold sendExternal
  with_reducible repeat' first
    | exact Mems.refl _ _
    | assumption
    | refine Mems.all (fun _ _ => ?_) ?_
    | refine Mems.cond ?_ (fun _ => ?_)
    | refine Mems.optGetD ?_ ?_
    | apply Mems.step (mems_modCore _ _ _)
    | apply Mems.step (mems_hubMessage _ _ _ _)
    | apply Mems.step (mems_queueFrame _ _)
    | simp only [Mems.lit_iff]
    | split
    | dsimp only
    | with_unfolding_all decide

theorem mems_applyCredit (d : Device) (c : CtxId) (chan : Byte) (n : Nat) : Mems [] d (applyCredit d c chan n) := by
  unfold applyCredit
  with_reducible repeat' first
    | exact Mems.refl _ _
    | assumption
    | refine Mems.cond ?_ (fun _ => ?_)
    | apply Mems.step (mems_modCredit _ _ _ _)
    | simp only [Mems.lit_iff]
    | split
    | dsimp only
    | with_unfolding_all decide

theorem mems_sendCredit (d : Device) (p : PartId) (dst : BitVec 18) (es : List (BitVec 10 × Byte × Nat)) : Mems [] d (sendCredit d p dst es) := by
  unfold sendCredit
  with_reducible repeat' first
    | exact Mems.refl _ _
    | assumption
    | refine Mems.cond ?_ (fun _ => ?_)
    | apply Mems.step (mems_modPart _ _ _)
    | apply Mems.step (mems_queueFrame _ _)
    | simp only [Mems.lit_iff]
    | split
    | dsimp only
    | with_unfolding_all decide

theorem mems_receiveMessage (d : Device) (p : PartId) (f : FrameBits) : Mems [] d (receiveMessage d p f) := by
  unfold receiveMessage
  with_reducible repeat' first
    | exact Mems.refl _ _
    | assumption
    | refine Mems.cond ?_ (fun _ => ?_)
    | apply Mems.step (mems_hubMessage _ _ _ _)
    | simp only [Mems.lit_iff]
    | split
    | dsimp only
    | with_unfolding_all decide

theorem mems_retriedCredit (d : Device) (p : PartId) (f : FrameBits) : Mems [] d (retriedCredit d p f) := by
  unfold retriedCredit
  with_reducible repeat' first
    | exact Mems.refl _ _
    | assumption
    | refine Mems.all (fun _ _ => ?_) ?_
    | refine Mems.cond ?_ (fun _ => ?_)
    | apply Mems.step (mems_markRetried _ _ _)
    | simp only [Mems.lit_iff]
    | split
    | dsimp only
    | with_unfolding_all decide

theorem mems_receiveCredit (d : Device) (p : PartId) (f : FrameBits) : Mems [] d (receiveCredit d p f) := by
  unfold receiveCredit
  with_reducible repeat' first
    | exact Mems.refl _ _
    | assumption
    | refine Mems.all (fun _ _ => ?_) ?_
    | refine Mems.cond ?_ (fun _ => ?_)
    | apply Mems.step (mems_retriedCredit _ _ _)
    | apply Mems.step (mems_modPart _ _ _)
    | apply Mems.step (mems_applyCredit _ _ _ _)
    | simp only [Mems.lit_iff]
    | split
    | dsimp only
    | with_unfolding_all decide

theorem mems_channelMessageFrame (d : Device) (plane : Fin 8) (f : FrameBits) : Mems [] d (channelMessageFrame d plane f) := by
  unfold channelMessageFrame
  with_reducible repeat' first
    | exact Mems.refl _ _
    | assumption
    | refine Mems.cond ?_ (fun _ => ?_)
    | apply Mems.step (mems_receiveRouted _ _ _ _)
    | apply Mems.step (mems_receiveMessage _ _ _)
    | apply Mems.step (mems_freeEntry _ _ _ _)
    | refine Mems.snd (by with_reducible assumption) ?_
    | simp only [Mems.lit_iff]
    | split
    | dsimp only
    | with_unfolding_all decide

theorem mems_channelCreditFrame (d : Device) (plane : Fin 8) (f : FrameBits) : Mems [] d (channelCreditFrame d plane f) := by
  unfold channelCreditFrame
  with_reducible repeat' first
    | exact Mems.refl _ _
    | assumption
    | refine Mems.cond ?_ (fun _ => ?_)
    | apply Mems.step (mems_receiveRouted _ _ _ _)
    | apply Mems.step (mems_receiveCredit _ _ _)
    | apply Mems.step (mems_freeEntry _ _ _ _)
    | refine Mems.snd (by with_reducible assumption) ?_
    | simp only [Mems.lit_iff]
    | split
    | dsimp only
    | with_unfolding_all decide

/-! ### Network -/

theorem mems_storeWrite (d : Device) (c : CtxId) : Mems [.scratch] d (storeWrite d c) := by
  unfold storeWrite
  with_reducible repeat' first
    | exact Mems.refl _ _
    | assumption
    | refine Mems.cond ?_ (fun _ => ?_)
    | apply Mems.step (mems_modUnit _ _ _)
    | apply Mems.step (mems_storePad _ _ _ _)
    | apply Mems.step (mems_takeBanks _ _ _)
    | simp only [Mems.lit_iff]
    | split
    | dsimp only
    | with_unfolding_all decide

theorem mems_itemReady (d : Device) (c : CtxId) (f : Flight) (onTime : Bool) : Mems [] d (itemReady d c f onTime) := by
  unfold itemReady
  with_reducible repeat' first
    | exact Mems.refl _ _
    | assumption
    | refine Mems.cond ?_ (fun _ => ?_)
    | apply Mems.step (mems_modRun _ _ _)
    | simp only [Mems.lit_iff]
    | split
    | dsimp only
    | with_unfolding_all decide

theorem mems_flightReady (d : Device) (c : CtxId) (f : Flight) : Mems [] d (flightReady d c f) := by
  unfold flightReady
  with_reducible repeat' first
    | exact Mems.refl _ _
    | assumption
    | refine Mems.cond ?_ (fun _ => ?_)
    | apply Mems.step (mems_itemReady _ _ _ _)
    | simp only [Mems.lit_iff]
    | split
    | dsimp only
    | with_unfolding_all decide

theorem mems_linksPassed (d : Device) (l : List (Fin 8)) : Mems [] d (linksPassed d l) := by
  unfold linksPassed
  with_reducible repeat' first
    | exact Mems.refl _ _
    | assumption
    | refine Mems.cond ?_ (fun _ => ?_)
    | simp only [Mems.lit_iff]
    | split
    | dsimp only
    | with_unfolding_all decide

theorem mems_endFlight (d : Device) (c : CtxId) (f : Flight) : Mems [] d (endFlight d c f) := by
  unfold endFlight
  with_reducible repeat' first
    | exact Mems.refl _ _
    | assumption
    | refine Mems.cond ?_ (fun _ => ?_)
    | apply Mems.step (mems_modUnit _ _ _)
    | apply Mems.step (mems_flightReady _ _ _)
    | apply Mems.step (mems_linksPassed _ _)
    | simp only [Mems.lit_iff]
    | split
    | dsimp only
    | with_unfolding_all decide

theorem mems_launch (d : Device) (c : CtxId) (f : Flight) : Mems [] d (launch d c f) := by
  unfold launch
  with_reducible repeat' first
    | exact Mems.refl _ _
    | assumption
    | refine Mems.cond ?_ (fun _ => ?_)
    | apply Mems.step (mems_modUnit _ _ _)
    | apply Mems.step (mems_flightDue _ _ _)
    | apply Mems.step (mems_addItem _ _ _)
    | simp only [Mems.lit_iff]
    | split
    | dsimp only
    | with_unfolding_all decide

theorem mems_departUnit (d : Device) (c : CtxId) (r : Request) (chan : Byte) (n : Nat) (data : List (BitVec 512)) (off : Nat) : Mems [] d (departUnit d c r chan n data off) := by
  unfold departUnit
  with_reducible repeat' first
    | exact Mems.refl _ _
    | assumption
    | refine Mems.cond ?_ (fun _ => ?_)
    | apply Mems.step (mems_modStream _ _ _)
    | apply Mems.step (mems_modUnit _ _ _)
    | apply Mems.step (mems_launch _ _ _)
    | simp only [Mems.lit_iff]
    | split
    | dsimp only
    | with_unfolding_all decide

theorem mems_giveUnit (d : Device) (c : CtxId) (x : SendRef) (u : BitVec 512) : Mems [] d (giveUnit d c x u) := by
  unfold giveUnit
  with_reducible repeat' first
    | exact Mems.refl _ _
    | assumption
    | refine Mems.cond ?_ (fun _ => ?_)
    | apply Mems.step (mems_modUnit _ _ _)
    | apply Mems.step (mems_sendExternal _ _ _ _)
    | simp only [Mems.lit_iff]
    | split
    | dsimp only
    | with_unfolding_all decide

theorem mems_serveUnit (d : Device) (c : CtxId) (off : Nat) (x : SendRef) : Mems [] d (serveUnit d c off x) := by
  unfold serveUnit
  with_reducible repeat' first
    | exact Mems.refl _ _
    | assumption
    | refine Mems.cond ?_ (fun _ => ?_)
    | apply Mems.step (mems_modStream _ _ _)
    | apply Mems.step (mems_takeBanks _ _ _)
    | apply Mems.step (mems_giveUnit _ _ _ _)
    | apply Mems.step (mems_parityRead _ _ _ _ _ _ _ _ _)
    | simp only [Mems.lit_iff]
    | split
    | dsimp only
    | with_unfolding_all decide

theorem mems_takeSlot (d : Device) (c : CtxId) : Mems [] d (takeSlot d c) := by
  unfold takeSlot
  with_reducible repeat' first
    | exact Mems.refl _ _
    | assumption
    | refine Mems.cond ?_ (fun _ => ?_)
    | apply Mems.step (mems_modStream _ _ _)
    | apply Mems.step (mems_departUnit _ _ _ _ _ _ _)
    | apply Mems.step (mems_modUnit _ _ _)
    | apply Mems.step (mems_launch _ _ _)
    | simp only [Mems.lit_iff]
    | split
    | dsimp only
    | with_unfolding_all decide

theorem mems_depart (d : Device) (c : CtxId) : Mems [] d (depart d c) := by
  unfold depart
  with_reducible repeat' first
    | exact Mems.refl _ _
    | assumption
    | refine Mems.cond ?_ (fun _ => ?_)
    | apply Mems.step (mems_takeSlot _ _)
    | apply Mems.step (mems_serveUnit _ _ _ _)
    | simp only [Mems.lit_iff]
    | split
    | dsimp only
    | with_unfolding_all decide

theorem mems_crossLinks (d : Device) (c : CtxId) (which : Flight → Bool) : Mems [] d (crossLinks d c which) := by
  unfold crossLinks
  with_reducible repeat' first
    | exact Mems.refl _ _
    | assumption
    | refine Mems.cond ?_ (fun _ => ?_)
    | apply Mems.step (mems_modUnit _ _ _)
    | apply Mems.step (mems_itemReady _ _ _ _)
    | apply Mems.step (mems_linksPassed _ _)
    | simp only [Mems.lit_iff]
    | split
    | dsimp only
    | with_unfolding_all decide

theorem mems_serveRemote (d : Device) (t : CtxId) (off n : Nat) : Mems [] d (serveRemote d t off n) := by
  unfold serveRemote
  with_reducible repeat' first
    | exact Mems.refl _ _
    | assumption
    | refine Mems.cond ?_ (fun _ => ?_)
    | apply Mems.step (mems_modUnit _ _ _)
    | apply Mems.step (mems_takeBanks _ _ _)
    | simp only [Mems.lit_iff]
    | split
    | dsimp only
    | with_unfolding_all decide

theorem mems_setFlight (d : Device) (c : CtxId) (f : Flight) : Mems [] d (setFlight d c f) := by
  unfold setFlight
  with_reducible repeat' first
    | exact Mems.refl _ _
    | assumption
    | refine Mems.cond ?_ (fun _ => ?_)
    | apply Mems.step (mems_modUnit _ _ _)
    | simp only [Mems.lit_iff]
    | split
    | dsimp only
    | with_unfolding_all decide

theorem mems_failFlight (d : Device) (c : CtxId) (f : Flight) (code : Byte) : Mems [] d (failFlight d c f code) := by
  unfold failFlight
  with_reducible repeat' first
    | exact Mems.refl _ _
    | assumption
    | refine Mems.cond ?_ (fun _ => ?_)
    | apply Mems.step (mems_modLq _ _ _ _)
    | apply Mems.step (mems_flightReady _ _ _)
    | apply Mems.step (mems_setFlight _ _ _)
    | simp only [Mems.lit_iff]
    | split
    | dsimp only
    | with_unfolding_all decide

theorem mems_isolated (d : Device) (c : CtxId) (f : Flight) : Mems [] d (isolated d c f) := by
  unfold isolated
  with_reducible repeat' first
    | exact Mems.refl _ _
    | assumption
    | refine Mems.cond ?_ (fun _ => ?_)
    | apply Mems.step (mems_detectAt _ _)
    | apply Mems.step (mems_failFlight _ _ _ _)
    | simp only [Mems.lit_iff]
    | split
    | dsimp only
    | with_unfolding_all decide

theorem mems_memoryGrant (d : Device) (c : CtxId) (row : GrantRow) : Mems [.scratch, .reservoir, .hbm, .cxl] d (memoryGrant d c row) := by
  unfold memoryGrant
  with_reducible repeat' first
    | exact Mems.refl _ _
    | assumption
    | refine Mems.cond ?_ (fun _ => ?_)
    | apply Mems.step (mems_modStream _ _ _)
    | refine Mems.ofOpt (by with_reducible assumption) (mems_grantCore _ _ _) (by with_unfolding_all decide) ?_
    | apply Mems.step (mems_grantStream _ _ _)
    | simp only [Mems.lit_iff]
    | split
    | dsimp only
    | with_unfolding_all decide

theorem mems_loadRead (d : Device) (c : CtxId) (f : Flight) : Mems [] d (loadRead d c f) := by
  unfold loadRead
  with_reducible repeat' first
    | exact Mems.refl _ _
    | assumption
    | refine Mems.cond ?_ (fun _ => ?_)
    | apply Mems.step (mems_setFlight _ _ _)
    | apply Mems.step (mems_flightDue _ _ _)
    | simp only [Mems.lit_iff]
    | split
    | dsimp only
    | with_unfolding_all decide

theorem mems_endAccess (d : Device) (c : CtxId) (f : Flight) : Mems [] d (endAccess d c f) := by
  unfold endAccess
  with_reducible repeat' first
    | exact Mems.refl _ _
    | assumption
    | refine Mems.cond ?_ (fun _ => ?_)
    | apply Mems.step (mems_loadRead _ _ _)
    | apply Mems.step (mems_endFlight _ _ _)
    | simp only [Mems.lit_iff]
    | split
    | dsimp only
    | with_unfolding_all decide

theorem mems_accessAct (d : Device) (c : CtxId) (f : Flight) : Mems [.scratch, .reservoir, .hbm, .cxl] d (accessAct d c f) := by
  unfold accessAct
  with_reducible repeat' first
    | exact Mems.refl _ _
    | assumption
    | refine Mems.cond ?_ (fun _ => ?_)
    | refine Mems.condSnd ?_ ?_
    | refine Mems.optGetD ?_ ?_
    | apply Mems.step (mems_endAccess _ _ _)
    | apply Mems.step (mems_isolated _ _ _)
    | apply Mems.step (mems_serveRemote _ _ _ _)
    | apply Mems.step (mems_setFlight _ _ _)
    | apply Mems.step (mems_loadRead _ _ _)
    | apply Mems.step (mems_parityRead _ _ _ _ _ _ _ _ _)
    | apply Mems.step (mems_memAct _ _ _ _ _)
    | apply Mems.step (mems_failFlight _ _ _ _)
    | apply Mems.step (mems_storePad _ _ _ _)
    | apply Mems.step (mems_endFlight _ _ _)
    | refine Mems.snd (by with_reducible assumption) ?_
    | simp only [Mems.lit_iff]
    | split
    | dsimp only
    | with_unfolding_all decide

theorem mems_remoteAccess (d : Device) (c : CtxId) : Mems [.scratch, .reservoir, .hbm, .cxl] d (remoteAccess d c) := by
  unfold remoteAccess
  with_reducible repeat' first
    | exact Mems.refl _ _
    | assumption
    | refine Mems.cond ?_ (fun _ => ?_)
    | apply Mems.step (mems_accessAct _ _ _)
    | apply Mems.step (mems_crossLinks _ _ _)
    | simp only [Mems.lit_iff]
    | split
    | dsimp only
    | with_unfolding_all decide

theorem mems_accWrite (d : Device) (c : CtxId) (f : Flight) (t : CtxId) (off : Nat) : Mems [.scratch] d (accWrite d c f t off) := by
  unfold accWrite
  with_reducible repeat' first
    | exact Mems.refl _ _
    | assumption
    | refine Mems.cond ?_ (fun _ => ?_)
    | apply Mems.step (mems_serveRemote _ _ _ _)
    | apply Mems.step (mems_storePad _ _ _ _)
    | apply Mems.step (mems_setFlight _ _ _)
    | apply Mems.step (mems_deliverFlag _ _ _ _ _ _)
    | apply Mems.step (mems_endFlight _ _ _)
    | simp only [Mems.lit_iff]
    | split
    | dsimp only
    | with_unfolding_all decide

theorem mems_accRead (d : Device) (c : CtxId) (f : Flight) (t : CtxId) (off : Nat) : Mems [] d (accRead d c f t off) := by
  unfold accRead
  with_reducible repeat' first
    | exact Mems.refl _ _
    | assumption
    | refine Mems.cond ?_ (fun _ => ?_)
    | apply Mems.step (mems_serveRemote _ _ _ _)
    | apply Mems.step (mems_parityRead _ _ _ _ _ _ _ _ _)
    | apply Mems.step (mems_setFlight _ _ _)
    | apply Mems.step (mems_raiseVector _ _ _)
    | simp only [Mems.lit_iff]
    | split
    | dsimp only
    | with_unfolding_all decide

theorem mems_accAct (d : Device) (c : CtxId) (f : Flight) : Mems [.scratch] d (accAct d c f) := by
  unfold accAct
  with_reducible repeat' first
    | exact Mems.refl _ _
    | assumption
    | refine Mems.cond ?_ (fun _ => ?_)
    | refine Mems.optGetD ?_ ?_
    | apply Mems.step (mems_endFlight _ _ _)
    | apply Mems.step (mems_isolated _ _ _)
    | apply Mems.step (mems_accWrite _ _ _ _ _)
    | apply Mems.step (mems_accRead _ _ _ _ _)
    | simp only [Mems.lit_iff]
    | split
    | dsimp only
    | with_unfolding_all decide

theorem mems_accumulateApply (d : Device) (c : CtxId) : Mems [.scratch] d (accumulateApply d c) := by
  unfold accumulateApply
  with_reducible repeat' first
    | exact Mems.refl _ _
    | assumption
    | refine Mems.cond ?_ (fun _ => ?_)
    | apply Mems.step (mems_accAct _ _ _)
    | apply Mems.step (mems_crossLinks _ _ _)
    | simp only [Mems.lit_iff]
    | split
    | dsimp only
    | with_unfolding_all decide

theorem mems_addDone (d : Device) (t : CtxId) (a : InAdd) (rest : List InAdd) : Mems [] d (addDone d t a rest) :=
  mems_modUnit _ _ _

theorem mems_addAct (d : Device) (t : CtxId) : Mems [.scratch] d (addAct d t) := by
  unfold addAct
  with_reducible repeat' first
    | exact Mems.refl _ _
    | assumption
    | refine Mems.cond ?_ (fun _ => ?_)
    | refine Mems.condSnd ?_ ?_
    | apply Mems.step (mems_modUnit _ _ _)
    | apply Mems.step (mems_addDone _ _ _ _)
    | apply Mems.step (mems_storePad _ _ _ _)
    | apply Mems.step (mems_serveRemote _ _ _ _)
    | apply Mems.step (mems_pendAdd _ _ _ _)
    | apply Mems.step (mems_parityOutside _ _ _ _ _)
    | apply Mems.step (mems_raiseVector _ _ _)
    | refine Mems.snd (by with_reducible assumption) ?_
    | simp only [Mems.lit_iff]
    | split
    | dsimp only
    | with_unfolding_all decide

theorem mems_anchorAdd (d : Device) (c : CtxId) : Mems [.scratch] d (anchorAdd d c) := by
  unfold anchorAdd
  with_reducible repeat' first
    | exact Mems.refl _ _
    | assumption
    | refine Mems.cond ?_ (fun _ => ?_)
    | apply Mems.step (mems_accAct _ _ _)
    | apply Mems.step (mems_addAct _ _)
    | apply Mems.step (mems_crossLinks _ _ _)
    | simp only [Mems.lit_iff]
    | split
    | dsimp only
    | with_unfolding_all decide

theorem mems_flagSignal (d : Device) (c : CtxId) : Mems [] d (flagSignal d c) := by
  unfold flagSignal
  with_reducible repeat' first
    | exact Mems.refl _ _
    | assumption
    | refine Mems.cond ?_ (fun _ => ?_)
    | apply Mems.step (mems_pendAdd _ _ _ _)
    | apply Mems.step (mems_endFlight _ _ _)
    | apply Mems.step (mems_isolated _ _ _)
    | apply Mems.step (mems_crossLinks _ _ _)
    | simp only [Mems.lit_iff]
    | split
    | dsimp only
    | with_unfolding_all decide

theorem mems_messageDeliver (d : Device) (c : CtxId) : Mems [] d (messageDeliver d c) := by
  unfold messageDeliver
  with_reducible repeat' first
    | exact Mems.refl _ _
    | assumption
    | refine Mems.cond ?_ (fun _ => ?_)
    | apply Mems.step (mems_crossLinks _ _ _)
    | apply Mems.step (mems_endFlight _ _ _)
    | apply Mems.step (mems_isolated _ _ _)
    | apply Mems.step (mems_sendExternal _ _ _ _)
    | apply Mems.step (mems_modMq _ _ _ _)
    | apply Mems.step (mems_deliverFlag _ _ _ _ _ _)
    | simp only [Mems.lit_iff]
    | split
    | dsimp only
    | with_unfolding_all decide

theorem mems_returnOutside (d : Device) (c : CtxId) (dst : BitVec 18) : Mems [] d (returnOutside d c dst) := by
  unfold returnOutside
  with_reducible repeat' first
    | exact Mems.refl _ _
    | assumption
    | refine Mems.all (fun _ _ => ?_) ?_
    | refine Mems.cond ?_ (fun _ => ?_)
    | apply Mems.step (mems_modUnit _ _ _)
    | apply Mems.step (mems_applyCredit _ _ _ _)
    | apply Mems.step (mems_sendCredit _ _ _ _)
    | simp only [Mems.lit_iff]
    | split
    | dsimp only
    | with_unfolding_all decide

theorem mems_creditReturn (d : Device) (c : CtxId) : Mems [] d (creditReturn d c) := by
  unfold creditReturn
  with_reducible repeat' first
    | exact Mems.refl _ _
    | assumption
    | refine Mems.cond ?_ (fun _ => ?_)
    | apply Mems.step (mems_modUnit _ _ _)
    | apply Mems.step (mems_modRun _ _ _)
    | apply Mems.step (mems_applyCredit _ _ _ _)
    | apply Mems.step (mems_returnOutside _ _ _)
    | simp only [Mems.lit_iff]
    | split
    | dsimp only
    | with_unfolding_all decide

theorem mems_memoryResponse (d : Device) (c : CtxId) : Mems [] d (memoryResponse d c) := by
  unfold memoryResponse
  with_reducible repeat' first
    | exact Mems.refl _ _
    | assumption
    | refine Mems.fold (fun _ _ => ?_) ?_
    | refine Mems.cond ?_ (fun _ => ?_)
    | apply Mems.step (mems_noteLate _ _ _ _ _)
    | apply Mems.step (mems_failFlight _ _ _ _)
    | apply Mems.step (mems_setFlight _ _ _)
    | apply Mems.step (mems_endFlight _ _ _)
    | simp only [Mems.lit_iff]
    | split
    | dsimp only
    | with_unfolding_all decide

theorem mems_fillDest (d : Device) (c : CtxId) (dest : LoadDest) (v : Entry) (issued : Nat) (onTime : Bool) (cause : Fin 7) : Mems [] d (fillDest d c dest v issued onTime cause) := by
  unfold fillDest
  with_reducible repeat' first
    | exact Mems.refl _ _
    | assumption
    | refine Mems.cond ?_ (fun _ => ?_)
    | apply Mems.step (mems_modSeq _ _ _)
    | apply Mems.step (mems_modLq _ _ _ _)
    | apply Mems.step (mems_modAg _ _ _ _)
    | simp only [Mems.lit_iff]
    | split
    | dsimp only
    | with_unfolding_all decide

theorem mems_loadFill (d : Device) (c : CtxId) : Mems [] d (loadFill d c) := by
  unfold loadFill
  with_reducible repeat' first
    | exact Mems.refl _ _
    | assumption
    | refine Mems.cond ?_ (fun _ => ?_)
    | apply Mems.step (mems_modUnit _ _ _)
    | apply Mems.step (mems_endFlight _ _ _)
    | apply Mems.step (mems_fillDest _ _ _ _ _ _ _)
    | simp only [Mems.lit_iff]
    | split
    | dsimp only
    | with_unfolding_all decide

theorem mems_dropFailed (d : Device) (c : CtxId) : Mems [] d (dropFailed d c) := by
  unfold dropFailed
  with_reducible repeat' first
    | exact Mems.refl _ _
    | assumption
    | refine Mems.all (fun _ _ => ?_) ?_
    | refine Mems.cond ?_ (fun _ => ?_)
    | apply Mems.step (mems_modUnit _ _ _)
    | apply Mems.step (mems_endFlight _ _ _)
    | simp only [Mems.lit_iff]
    | split
    | dsimp only
    | with_unfolding_all decide

/-! ### MemTier -/

theorem mems_modPch (d : Device) (s : Fin 8) (k : Fin 32) (f : Pch → Pch) : Mems [] d (modPch d s k f) := by
  unfold modPch
  with_reducible repeat' first
    | exact Mems.refl _ _
    | assumption
    | refine Mems.cond ?_ (fun _ => ?_)
    | apply Mems.step (mems_modStack _ _ _)
    | simp only [Mems.lit_iff]
    | split
    | dsimp only
    | with_unfolding_all decide

theorem mems_refreshAccrue (d0 : Device) (s : Fin 8) (k : Fin 32) : Mems [] d0 (refreshAccrue d0 s k) := by
  unfold refreshAccrue
  with_reducible repeat' first
    | exact Mems.refl _ _
    | assumption
    | refine Mems.cond ?_ (fun _ => ?_)
    | apply Mems.step (mems_modPch _ _ _ _)
    | apply Mems.step (mems_modStack _ _ _)
    | simp only [Mems.lit_iff]
    | split
    | dsimp only
    | with_unfolding_all decide

theorem mems_releaseHeld (d : Device) (s : Fin 8) (k : Fin 32) (n : Nat) : Mems [] d (releaseHeld d s k n) := by
  unfold releaseHeld
  with_reducible repeat' first
    | exact Mems.refl _ _
    | assumption
    | refine Mems.all (fun _ _ => ?_) ?_
    | refine Mems.cond ?_ (fun _ => ?_)
    | apply Mems.step (mems_modUnit _ _ _)
    | apply Mems.step (mems_modStream _ _ _)
    | simp only [Mems.lit_iff]
    | split
    | dsimp only
    | with_unfolding_all decide

theorem mems_refreshDone (d : Device) (s : Fin 8) (k : Fin 32) : Mems [] d (refreshDone d s k) := by
  unfold refreshDone
  with_reducible repeat' first
    | exact Mems.refl _ _
    | assumption
    | refine Mems.cond ?_ (fun _ => ?_)
    | apply Mems.step (mems_releaseHeld _ _ _ _)
    | apply Mems.step (mems_modPch _ _ _ _)
    | simp only [Mems.lit_iff]
    | split
    | dsimp only
    | with_unfolding_all decide

theorem mems_settleRefresh (d : Device) : Mems [] d (settleRefresh d) := by
  unfold settleRefresh
  with_reducible repeat' first
    | exact Mems.refl _ _
    | assumption
    | refine Mems.all (fun _ _ => ?_) ?_
    | refine Mems.cond ?_ (fun _ => ?_)
    | apply Mems.step (mems_refreshDone _ _ _)
    | apply Mems.step (mems_refreshAccrue _ _ _)
    | simp only [Mems.lit_iff]
    | split
    | dsimp only
    | with_unfolding_all decide

theorem mems_openWindow (d : Device) (i : DomId) (first len : Nat) : Mems [] d (openWindow d i first len) := by
  unfold openWindow
  with_reducible repeat' first
    | exact Mems.refl _ _
    | assumption
    | refine Mems.all (fun _ _ => ?_) ?_
    | refine Mems.fold (fun _ _ => ?_) ?_
    | refine Mems.cond ?_ (fun _ => ?_)
    | apply Mems.step (mems_modStack _ _ _)
    | apply Mems.step (mems_modRun _ _ _)
    | simp only [Mems.lit_iff]
    | split
    | dsimp only
    | with_unfolding_all decide

theorem mems_runRefresh (d : Device) (p : PartId) : Mems [] d (runRefresh d p) := by
  unfold runRefresh
  with_reducible repeat' first
    | exact Mems.refl _ _
    | assumption
    | refine Mems.all (fun _ _ => ?_) ?_
    | refine Mems.cond ?_ (fun _ => ?_)
    | apply Mems.step (mems_modStack _ _ _)
    | simp only [Mems.lit_iff]
    | split
    | dsimp only
    | with_unfolding_all decide

theorem mems_windowClose (d : Device) (i : DomId) : Mems [] d (windowClose d i) := by
  unfold windowClose
  with_reducible repeat' first
    | exact Mems.refl _ _
    | assumption
    | refine Mems.cond ?_ (fun _ => ?_)
    | apply Mems.step (mems_modRun _ _ _)
    | simp only [Mems.lit_iff]
    | split
    | dsimp only
    | with_unfolding_all decide

theorem mems_markFirst {d : Device} {hit : Device → CtxId → Nat → Bool} {reads : Bool} {cause : Option (Fin 7)} {error : Option Byte} {c : CtxId} {a : Nat}
    {e : Device} (h : markFirst d hit reads cause error = some (c, a, e)) : Mems [] d e := by
  unfold markFirst at h
  obtain ⟨x, -, hx⟩ := List.exists_of_findSome?_eq_some h
  dsimp only at hx
  split at hx
  · simp only [Option.some.injEq, Prod.mk.injEq] at hx
    obtain ⟨-, -, rfl⟩ := hx
    exact mems_setFlight _ _ _
  · split at hx
    · simp only [Option.some.injEq, Prod.mk.injEq] at hx
      obtain ⟨-, -, rfl⟩ := hx
      exact mems_modStream _ _ _
    · split at hx
      · simp only [Option.some.injEq, Prod.mk.injEq] at hx
        obtain ⟨-, -, rfl⟩ := hx
        exact mems_modStream _ _ _
      · cases hx

theorem mems_markAll (d : Device) (hit : Device → CtxId → Nat → Bool) (cause : Fin 7) : Mems [] d (markAll d hit cause) := by
  unfold markAll
  with_reducible repeat' first
    | exact Mems.refl _ _
    | assumption
    | refine Mems.all (fun _ _ => ?_) ?_
    | refine Mems.cond ?_ (fun _ => ?_)
    | apply Mems.step (mems_modUnit _ _ _)
    | apply Mems.step (mems_modStream _ _ _)
    | simp only [Mems.lit_iff]
    | split
    | dsimp only
    | with_unfolding_all decide

theorem mems_memDetect (d : Device) (c : Option CtxId × Nat) (det : BitVec 16) (unit : Nat) (sev : BitVec 2) (code : Byte) : Mems [] d (memDetect d c det unit sev code) := by
  unfold memDetect
  with_reducible repeat' first
    | exact Mems.refl _ _
    | assumption
    | refine Mems.cond ?_ (fun _ => ?_)
    | apply Mems.step (mems_detectAt _ _)
    | simp only [Mems.lit_iff]
    | split
    | dsimp only
    | with_unfolding_all decide

theorem mems_rereadClean (d : Device) (s : Fin 8) (c : Option CtxId × Nat) : Mems [] d (rereadClean d s c) := by
  unfold rereadClean
  with_reducible repeat' first
    | exact Mems.refl _ _
    | assumption
    | refine Mems.cond ?_ (fun _ => ?_)
    | apply Mems.step (mems_memDetect _ _ _ _ _ _)
    | apply Mems.step (mems_modStack _ _ _)
    | simp only [Mems.lit_iff]
    | split
    | dsimp only
    | with_unfolding_all decide

theorem mems_parityError (d : Device) (s : Fin 8) (c : Option CtxId × Nat) : Mems [] d (parityError d s c) := by
  unfold parityError
  with_reducible repeat' first
    | exact Mems.refl _ _
    | assumption
    | refine Mems.cond ?_ (fun _ => ?_)
    | apply Mems.step (mems_memDetect _ _ _ _ _ _)
    | apply Mems.step (mems_modStack _ _ _)
    | simp only [Mems.lit_iff]
    | split
    | dsimp only
    | with_unfolding_all decide

theorem mems_readCorrected (d : Device) (s : Fin 8) (c : Option CtxId × Nat) : Mems [] d (readCorrected d s c) := by
  unfold readCorrected
  with_reducible repeat' first
    | exact Mems.refl _ _
    | assumption
    | refine Mems.cond ?_ (fun _ => ?_)
    | apply Mems.step (mems_memDetect _ _ _ _ _ _)
    | apply Mems.step (mems_modStack _ _ _)
    | simp only [Mems.lit_iff]
    | split
    | dsimp only
    | with_unfolding_all decide

theorem mems_noteTry (d : Device) (s : Fin 8) (r : SecondTry) (c : Option CtxId × Nat) : Mems [] d (noteTry d s r c) := by
  unfold noteTry
  with_reducible repeat' first
    | exact Mems.refl _ _
    | assumption
    | refine Mems.all (fun _ _ => ?_) ?_
    | refine Mems.cond ?_ (fun _ => ?_)
    | apply Mems.step (mems_parityError _ _ _)
    | apply Mems.step (mems_readCorrected _ _ _)
    | apply Mems.step (mems_rereadClean _ _ _)
    | apply Mems.step (mems_memDetect _ _ _ _ _ _)
    | apply Mems.step (mems_modStack _ _ _)
    | simp only [Mems.lit_iff]
    | split
    | dsimp only
    | with_unfolding_all decide

theorem mems_markCommand {d : Device} {p : PartId} {space : Nat} {reads fails : Bool} {a : Nat} {e : Device}
    (h : markCommand d p space reads fails = some (a, e)) : Mems [] d e := by
  unfold markCommand at h
  obtain ⟨c, -, hc⟩ := Option.map_eq_some_iff.1 h
  simp only [Prod.mk.injEq] at hc
  rw [← hc.2]
  exact Mems.cond (Mems.refl _ _) fun _ => mems_modCmd _ _ _

theorem mems_hbmReread (d : Device) (s : Fin 8) (r : SecondTry) : Mems [] d (hbmReread d s r) := by
  unfold hbmReread
  dsimp only
  split
  · exact Mems.step (mems_noteTry _ _ _ _) (by decide) (mems_markFirst ‹_›)
  · split
    · exact Mems.step (mems_noteTry _ _ _ _) (by decide) (mems_markCommand ‹_›)
    · exact Mems.refl _ _

theorem mems_notePoison (d : Device) (k : Fin 4) (c : Option CtxId × Nat) (n : Nat) (sev : BitVec 2) (code : Byte) : Mems [] d (notePoison d k c n sev code) := by
  unfold notePoison
  with_reducible repeat' first
    | exact Mems.refl _ _
    | assumption
    | refine Mems.cond ?_ (fun _ => ?_)
    | apply Mems.step (mems_memDetect _ _ _ _ _ _)
    | apply Mems.step (mems_modPort _ _ _)
    | simp only [Mems.lit_iff]
    | split
    | dsimp only
    | with_unfolding_all decide

theorem mems_cxlReread (d : Device) (k : Fin 4) (clean : Bool) : Mems [] d (cxlReread d k clean) := by
  unfold cxlReread
  dsimp only
  split
  · exact Mems.step (mems_notePoison _ _ _ _ _ _) (by decide) (mems_markFirst ‹_›)
  · split
    · exact Mems.step (mems_notePoison _ _ _ _ _ _) (by decide) (mems_markCommand ‹_›)
    · exact Mems.refl _ _

theorem mems_mapPorts (d : Device) (p : PartId) : Mems [] d (mapPorts d p) := by
  unfold mapPorts
  with_reducible repeat' first
    | exact Mems.refl _ _
    | assumption
    | refine Mems.all (fun _ _ => ?_) ?_
    | refine Mems.fold (fun _ _ => ?_) ?_
    | refine Mems.optGetD ?_ ?_
    | refine Mems.cond ?_ (fun _ => ?_)
    | apply Mems.step (mems_modPart _ _ _)
    | apply Mems.step (mems_modPort _ _ _)
    | simp only [Mems.lit_iff]
    | split
    | dsimp only
    | with_unfolding_all decide

theorem mems_cxlUp (d : Device) (k : Fin 4) (cap : BitVec 16) (speed width : Byte) : Mems [] d (cxlUp d k cap speed width) := by
  unfold cxlUp
  with_reducible repeat' first
    | exact Mems.refl _ _
    | assumption
    | refine Mems.cond ?_ (fun _ => ?_)
    | apply Mems.step (mems_modPort _ _ _)
    | apply Mems.step (mems_modPart _ _ _)
    | apply Mems.step (mems_mapPorts _ _)
    | simp only [Mems.lit_iff]
    | split
    | dsimp only
    | with_unfolding_all decide

theorem mems_loseRequests (d : Device) (k : Fin 4) : Mems [] d (loseRequests d k) := by
  unfold loseRequests
  with_reducible repeat' first
    | exact Mems.refl _ _
    | assumption
    | refine Mems.all (fun _ _ => ?_) ?_
    | refine Mems.cond ?_ (fun _ => ?_)
    | apply Mems.step (mems_modUnit _ _ _)
    | apply Mems.step (mems_modStream _ _ _)
    | simp only [Mems.lit_iff]
    | split
    | dsimp only
    | with_unfolding_all decide

theorem mems_cxlDown (d : Device) (k : Fin 4) : Mems [] d (cxlDown d k) := by
  unfold cxlDown
  with_reducible repeat' first
    | exact Mems.refl _ _
    | assumption
    | refine Mems.cond ?_ (fun _ => ?_)
    | apply Mems.step (mems_loseRequests _ _)
    | apply Mems.step (mems_modPort _ _ _)
    | apply Mems.step (mems_detectAt _ _)
    | simp only [Mems.lit_iff]
    | split
    | dsimp only
    | with_unfolding_all decide

theorem mems_cxlRetry (d : Device) (k : Fin 4) : Mems [] d (cxlRetry d k) := by
  unfold cxlRetry
  with_reducible repeat' first
    | exact Mems.refl _ _
    | assumption
    | refine Mems.cond ?_ (fun _ => ?_)
    | refine Mems.optGetD ?_ ?_
    | apply Mems.step (mems_modPort _ _ _)
    | apply Mems.step (mems_memDetect _ _ _ _ _ _)
    | apply Mems.step (mems_markAll _ _ _)
    | simp only [Mems.lit_iff]
    | split
    | dsimp only
    | with_unfolding_all decide

theorem mems_noteReach (d : Device) (k : Fin 64) : Mems [] d (noteReach d k) := by
  unfold noteReach
  with_reducible repeat' first
    | exact Mems.refl _ _
    | assumption
    | refine Mems.cond ?_ (fun _ => ?_)
    | apply Mems.step (mems_modBar _ _ _)
    | apply Mems.step (mems_modRun _ _ _)
    | simp only [Mems.lit_iff]
    | split
    | dsimp only
    | with_unfolding_all decide

theorem mems_markBarriers (d : Device) (k : Fin 8) : Mems [] d (markBarriers d k) := by
  unfold markBarriers
  with_reducible repeat' first
    | exact Mems.refl _ _
    | assumption
    | refine Mems.all (fun _ _ => ?_) ?_
    | refine Mems.cond ?_ (fun _ => ?_)
    | apply Mems.step (mems_noteReach _ _)
    | apply Mems.step (mems_modBar _ _ _)
    | simp only [Mems.lit_iff]
    | split
    | dsimp only
    | with_unfolding_all decide

theorem mems_markFlights (d : Device) (k : Fin 8) : Mems [] d (markFlights d k) := by
  unfold markFlights
  with_reducible repeat' first
    | exact Mems.refl _ _
    | assumption
    | refine Mems.all (fun _ _ => ?_) ?_
    | refine Mems.cond ?_ (fun _ => ?_)
    | apply Mems.step (mems_modUnit _ _ _)
    | apply Mems.step (mems_modStream _ _ _)
    | simp only [Mems.lit_iff]
    | split
    | dsimp only
    | with_unfolding_all decide

theorem mems_dieRetry (d : Device) (k : Fin 8) : Mems [] d (dieRetry d k) := by
  unfold dieRetry
  with_reducible repeat' first
    | exact Mems.refl _ _
    | assumption
    | refine Mems.cond ?_ (fun _ => ?_)
    | apply Mems.step (mems_memDetect _ _ _ _ _ _)
    | apply Mems.step (mems_markBarriers _ _)
    | apply Mems.step (mems_markFlights _ _)
    | simp only [Mems.lit_iff]
    | split
    | dsimp only
    | with_unfolding_all decide

theorem mems_armedFlits (d : Device) : Mems [] d (armedFlits d) := by
  unfold armedFlits
  with_reducible repeat' first
    | exact Mems.refl _ _
    | assumption
    | refine Mems.all (fun _ _ => ?_) ?_
    | refine Mems.cond ?_ (fun _ => ?_)
    | apply Mems.step (mems_dieRetry _ _)
    | simp only [Mems.lit_iff]
    | split
    | dsimp only
    | with_unfolding_all decide

theorem mems_dieFailure (d : Device) (k : Fin 8) : Mems [] d (dieFailure d k) := by
  unfold dieFailure
  with_reducible repeat' first
    | exact Mems.refl _ _
    | assumption
    | refine Mems.cond ?_ (fun _ => ?_)
    | apply Mems.step (mems_detectAt _ _)
    | simp only [Mems.lit_iff]
    | split
    | dsimp only
    | with_unfolding_all decide

theorem mems_dieRetrained (d : Device) (k : Fin 8) : Mems [] d (dieRetrained d k) := by
  unfold dieRetrained
  with_reducible repeat' first
    | exact Mems.refl _ _
    | assumption
    | refine Mems.cond ?_ (fun _ => ?_)
    | apply Mems.step (mems_dieFailure _ _)
    | simp only [Mems.lit_iff]
    | split
    | dsimp only
    | with_unfolding_all decide

/-! ### Barrier -/

theorem mems_arrivalCounted (d : Device) (k : Fin 64) : Mems [] d (arrivalCounted d k) := by
  unfold arrivalCounted
  with_reducible repeat' first
    | exact Mems.refl _ _
    | assumption
    | refine Mems.cond ?_ (fun _ => ?_)
    | apply Mems.step (mems_noteReach _ _)
    | apply Mems.step (mems_modBar _ _ _)
    | simp only [Mems.lit_iff]
    | split
    | dsimp only
    | with_unfolding_all decide

theorem mems_departureCounted (d : Device) (k : Fin 64) : Mems [] d (departureCounted d k) := by
  unfold departureCounted
  with_reducible repeat' first
    | exact Mems.refl _ _
    | assumption
    | refine Mems.cond ?_ (fun _ => ?_)
    | apply Mems.step (mems_noteReach _ _)
    | apply Mems.step (mems_modBar _ _ _)
    | simp only [Mems.lit_iff]
    | split
    | dsimp only
    | with_unfolding_all decide

theorem mems_barRelease (d : Device) (k : Fin 64) : Mems [] d (barRelease d k) := by
  unfold barRelease
  with_reducible repeat' first
    | exact Mems.refl _ _
    | assumption
    | refine Mems.cond ?_ (fun _ => ?_)
    | apply Mems.step (mems_noteReach _ _)
    | apply Mems.step (mems_modBar _ _ _)
    | simp only [Mems.lit_iff]
    | split
    | dsimp only
    | with_unfolding_all decide

theorem mems_barWindows (d : Device) (k : Fin 64) (i : DomId) (first : Nat) : Mems [] d (barWindows d k i first) := by
  unfold barWindows
  with_reducible repeat' first
    | exact Mems.refl _ _
    | assumption
    | refine Mems.optGetD ?_ ?_
    | refine Mems.cond ?_ (fun _ => ?_)
    | apply Mems.step (mems_modRun _ _ _)
    | simp only [Mems.lit_iff]
    | split
    | dsimp only
    | with_unfolding_all decide

theorem mems_releaseArrive (d : Device) (k : Fin 64) : Mems [] d (releaseArrive d k) := by
  unfold releaseArrive
  with_reducible repeat' first
    | exact Mems.refl _ _
    | assumption
    | refine Mems.cond ?_ (fun _ => ?_)
    | apply Mems.step (mems_modBar _ _ _)
    | apply Mems.step (mems_barWindows _ _ _ _)
    | apply Mems.step (mems_modRun _ _ _)
    | simp only [Mems.lit_iff]
    | split
    | dsimp only
    | with_unfolding_all decide

theorem mems_violationHalt (d : Device) (c : CtxId) : Mems [.host] d (violationHalt d c) := by
  unfold violationHalt
  with_reducible repeat' first
    | exact Mems.refl _ _
    | assumption
    | refine Mems.cond ?_ (fun _ => ?_)
    | apply Mems.step (mems_modBar _ _ _)
    | apply Mems.step (mems_haltCheck _ _ _ _ _ _)
    | apply Mems.step (mems_halt _ _ _)
    | simp only [Mems.lit_iff]
    | split
    | dsimp only
    | with_unfolding_all decide

theorem mems_fabricRelease (d : Device) (group : Nat) (parity : Bool) (retried : Bool) : Mems [] d (fabricRelease d group parity retried) := by
  unfold fabricRelease
  with_reducible repeat' first
    | exact Mems.refl _ _
    | assumption
    | refine Mems.all (fun _ _ => ?_) ?_
    | refine Mems.fold (fun _ _ => ?_) ?_
    | refine Mems.cond ?_ (fun _ => ?_)
    | apply Mems.step (mems_modRun _ _ _)
    | apply Mems.step (mems_modBar _ _ _)
    | apply Mems.step (mems_barWindows _ _ _ _)
    | simp only [Mems.lit_iff]
    | split
    | dsimp only
    | with_unfolding_all decide

theorem mems_fabLeave (d : Device) (k : Fin 64) (round : Nat) (w : SeqId) (t : Nat) : Mems [] d (fabLeave d k round w t) := by
  unfold fabLeave
  with_reducible repeat' first
    | exact Mems.refl _ _
    | assumption
    | refine Mems.cond ?_ (fun _ => ?_)
    | apply Mems.step (mems_noteReach _ _)
    | apply Mems.step (mems_modBar _ _ _)
    | simp only [Mems.lit_iff]
    | split
    | dsimp only
    | with_unfolding_all decide

theorem mems_fabricCheck (d : Device) (k : Fin 64) (n : Nat) (w : SeqId) (t : Nat) : Mems [] d (fabricCheck d k n w t) := by
  unfold fabricCheck
  with_reducible repeat' first
    | exact Mems.refl _ _
    | assumption
    | refine Mems.cond ?_ (fun _ => ?_)
    | apply Mems.step (mems_modBar _ _ _)
    | apply Mems.step (mems_addItem _ _ _)
    | simp only [Mems.lit_iff]
    | split
    | dsimp only
    | with_unfolding_all decide

/-! ### Beacon -/

theorem mems_takeCorr (d : Device) (corr : Int) : Mems [] d (takeCorr d corr) := by
  unfold takeCorr
  with_reducible repeat' first
    | exact Mems.refl _ _
    | assumption
    | refine Mems.cond ?_ (fun _ => ?_)
    | apply Mems.step (mems_noteSet _ _)
    | simp only [Mems.lit_iff]
    | split
    | dsimp only
    | with_unfolding_all decide

theorem mems_missCorr (d : Device) : Mems [] d (missCorr d) := by
  unfold missCorr
  with_reducible repeat' first
    | exact Mems.refl _ _
    | assumption
    | refine Mems.cond ?_ (fun _ => ?_)
    | simp only [Mems.lit_iff]
    | split
    | dsimp only
    | with_unfolding_all decide

theorem mems_beaconTime (d : Device) (cvalid : Bool) (corr : Int) : Mems [] d (beaconTime d cvalid corr) := by
  unfold beaconTime
  with_reducible repeat' first
    | exact Mems.refl _ _
    | assumption
    | refine Mems.cond ?_ (fun _ => ?_)
    | apply Mems.step (mems_takeCorr _ _)
    | apply Mems.step (mems_missCorr _)
    | simp only [Mems.lit_iff]
    | split
    | dsimp only
    | with_unfolding_all decide

theorem mems_beacon (d : Device) (plane : Fin 8) (f : FrameBits) : Mems [] d (beacon d plane f) := by
  unfold beacon
  with_reducible repeat' first
    | exact Mems.refl _ _
    | assumption
    | refine Mems.all (fun _ _ => ?_) ?_
    | refine Mems.cond ?_ (fun _ => ?_)
    | apply Mems.step (mems_modPlane _ _ _)
    | apply Mems.step (mems_newTimePlane _)
    | apply Mems.step (mems_beaconTime _ _ _)
    | apply Mems.step (mems_fabricRelease _ _ _ _)
    | apply Mems.step (mems_missCorr _)
    | apply Mems.step (mems_passTo _ _ _)
    | apply Mems.step (mems_positionDone _ _)
    | apply Mems.step (mems_sendLocal _ _ _ _)
    | simp only [Mems.lit_iff]
    | split
    | dsimp only
    | with_unfolding_all decide

/-! ### Collective -/

theorem mems_spoilRead (d : Device) (v : CollView) (code : Byte) (l : List Nat) : Mems [] d (spoilRead d v code l).2 := by
  unfold spoilRead
  with_reducible repeat' first
    | exact Mems.refl _ _
    | assumption
    | refine Mems.cond ?_ (fun _ => ?_)
    | refine Mems.condSnd ?_ ?_
    | refine Mems.optGetD ?_ ?_
    | apply Mems.step (mems_drawFree _)
    | apply Mems.step (mems_haltNoBundle _ _ _)
    | refine Mems.snd (by with_reducible assumption) ?_
    | simp only [Mems.lit_iff]
    | split
    | dsimp only
    | with_unfolding_all decide

theorem mems_readOwn (d : Device) (v : CollView) (first n : Nat) : Mems [] d (readOwn d v first n).2.2 := by
  unfold readOwn
  with_reducible repeat' first
    | exact Mems.refl _ _
    | assumption
    | refine Mems.cond ?_ (fun _ => ?_)
    | refine Mems.condSnd ?_ ?_
    | apply Mems.step (mems_resEvents _ _ _ _ _)
    | apply Mems.step (mems_spoilRead _ _ _ _)
    | refine Mems.snd (by with_reducible assumption) ?_
    | simp only [Mems.lit_iff]
    | split
    | dsimp only
    | with_unfolding_all decide

theorem mems_writeOut (d : Device) (v : CollView) (first : Nat) (l : List Nat) : Mems [.reservoir] d (writeOut d v first l) := by
  unfold writeOut
  with_reducible repeat' first
    | exact Mems.refl _ _
    | assumption
    | refine Mems.cond ?_ (fun _ => ?_)
    | apply Mems.step (mems_writeBytes _ _ _ _)
    | simp only [Mems.lit_iff]
    | split
    | dsimp only
    | with_unfolding_all decide

theorem mems_sendTo (s : CollAct) (v : CollView) (phase shard seq dest : Nat) (scales payload : List Byte) (flags : Nat) :
    Mems [] s.1 (sendTo s v phase shard seq dest scales payload flags).1 := mems_sendColl _ _ _ _ _ _

theorem mems_sendData (s : CollAct) (v : CollView) (phase shard label seq : Nat) (dests wire : List Nat) (flags : CFlags) :
    Mems [] s.1 (sendData s v phase shard label seq dests wire flags).1 := by
  unfold sendData
  exact Mems.foldFst (fun _ _ => mems_sendTo _ _ _ _ _ _ _ _ _) (Mems.refl _ _)

theorem mems_noteFlags (s : CollAct) (v : CollView) (seen own : CFlags) : Mems [] s.1 (noteFlags s v seen own).1 := by
  unfold noteFlags
  dsimp only
  split
  · exact mems_detect _ _
  · exact Mems.refl _ _

theorem mems_finishSum (s : CollAct) (v : CollView) (shard seq : Nat) (l : List Nat) (seen : CFlags) :
    Mems [.reservoir] s.1 (finishSum s v shard seq l seen).1 := by
  unfold finishSum
  dsimp only
  split
  · exact Mems.step (mems_sendData _ _ _ _ _ _ _ _ _) (by decide)
      (Mems.step (mems_writeOut _ _ _ _) (by decide) (Mems.step (mems_noteFlags _ _ _ _) (by decide) (Mems.refl _ _)))
  · exact mems_writeOut _ _ _ _

theorem mems_passSum (s : CollAct) (v : CollView) (shard seq dest : Nat) (l : List Nat) (seen : CFlags) :
    Mems [] s.1 (passSum s v shard seq dest l seen).1 :=
  Mems.step (mems_sendData _ _ _ _ _ _ _ _ _) (by decide) (mems_noteFlags _ _ _ _)

theorem mems_forwardSum (s : CollAct) (v : CollView) (shard seq : Nat) (l : List Nat) (seen : CFlags) :
    Mems [.reservoir] s.1 (forwardSum s v shard seq l seen).1 := by
  unfold forwardSum
  dsimp only
  by_cases h : (if v.x.order = 0 then decide (shard = v.pos) else decide (v.pos = v.x.root)) = true
  · rw [if_pos (by simpa using h)]
    exact mems_finishSum _ _ _ _ _ _
  · rw [if_neg (by simpa using h)]
    exact Mems.step (mems_passSum _ _ _ _ _ _ _) (by decide) (Mems.refl _ _)

theorem mems_beginAttempt (d : Device) (v : CollView) (c : CollInst) : Mems [.reservoir] d (beginAttempt d v c).1 := by
  unfold beginAttempt
  dsimp only
  refine Mems.foldFst (fun s e => Mems.foldFst (fun s j => ?_) (Mems.refl _ _)) (Mems.foldFst (fun s k => Mems.foldFst (fun s j => ?_) (Mems.refl _ _)) ?_)
  · exact Mems.step (mems_sendData _ _ _ _ _ _ _ _ _) (by decide)
      (Mems.step (mems_writeOut _ _ _ _) (List.Subset.refl _) (Mems.step (mems_readOwn _ _ _ _) (by decide) (Mems.refl _ _)))
  · exact Mems.step (mems_forwardSum _ _ _ _ _ _) (by decide) (Mems.step (mems_noteFlags _ _ _ _) (by decide)
      (Mems.step (mems_readOwn _ _ _ _) (by decide) (Mems.refl _ _)))
  · dsimp only
    split
    · exact Mems.step (mems_detect _ _) (by decide) (Mems.step (mems_inject _ _ _) (by decide) (Mems.refl _ _))
    · exact Mems.step (mems_inject _ _ _) (by decide) (Mems.refl _ _)

theorem mems_sumSoFar (s : CollAct) (v : CollView) (shard seq : Nat) : Mems [] s.1 (sumSoFar s v shard seq).2.2 := by
  unfold sumSoFar
  split
  · exact Mems.refl _ _
  · exact mems_readOwn _ _ _ _

theorem mems_joinSum (s : CollAct) (v : CollView) (shard seq : Nat) (got : List Nat) (seen : CFlags) (need : Nat) :
    Mems [.reservoir] s.1 (joinSum s v shard seq got seen need).1 := by
  have hn : ∀ f, Mems [.reservoir] s.1 (noteFlags ((sumSoFar s v shard seq).2.2, s.2) v 0 f).1 := fun f =>
    Mems.step (mems_noteFlags _ v 0 f) (by decide) (Mems.step (mems_sumSoFar _ _ _ _) (by decide) (Mems.refl _ _))
  unfold joinSum
  dsimp only
  split
  · exact Mems.step (mems_forwardSum _ _ _ _ _ _) (List.Subset.refl _) (hn _)
  · exact hn _

theorem mems_useReduce (s : CollAct) (v : CollView) (shard seq : Nat) (b : BitVec 1792) : Mems [.reservoir] s.1 (useReduce s v shard seq b).1 := by
  unfold useReduce
  dsimp only
  split
  · exact Mems.step (mems_forwardSum _ _ _ _ _ _) (by decide) (Mems.step (mems_noteFlags _ _ _ _) (by decide)
      (Mems.step (mems_readOwn _ _ _ _) (by decide) (Mems.step (mems_noteFlags _ _ _ _) (by decide) (Mems.refl _ _))))
  · exact Mems.step (mems_joinSum _ _ _ _ _ _ _) (List.Subset.refl _) (Mems.step (mems_noteFlags _ _ _ _) (by decide) (Mems.refl _ _))

theorem mems_useGather (s : CollAct) (v : CollView) (shard seq : Nat) (b : BitVec 1792) : Mems [.reservoir] s.1 (useGather s v shard seq b).1 :=
  Mems.step (mems_sendData _ _ _ _ _ _ _ _ _) (by decide) (mems_writeOut _ _ _ _)

theorem mems_sendVerdict (s : CollAct) (v : CollView) : Mems [] s.1 (sendVerdict s v).1 := mems_sendTo _ _ _ _ _ _ _ _ _

theorem mems_useFrame (s : CollAct) (v : CollView) (b : BitVec 1792) (retried : Bool) : Mems [.reservoir] s.1 (useFrame s v b retried).1 := by
  obtain ⟨d, c⟩ := s
  have hv : ∀ x, Mems [.reservoir] d (sendVerdict (d, x) v).1 := fun x => Mems.step (mems_sendVerdict (d, x) v) (by decide) (Mems.refl _ _)
  have hr : ∀ x, Mems [.reservoir] d (useReduce (d, x) v (bodyShard b) (bodySeq b) b).1 := fun x => mems_useReduce (d, x) v _ _ _
  have hg : ∀ x, Mems [.reservoir] d (useGather (d, x) v (bodyShard b) (bodySeq b) b).1 := fun x => mems_useGather (d, x) v _ _ _
  unfold useFrame
  by_cases h3 : bodyPhase b = 3
  · simp only [h3, if_true]
    split
    · exact hv _
    · exact Mems.refl _ _
  · simp only [h3, if_false]
    by_cases h1 : bodyPhase b = 1
    · simp only [h1, if_true]
      exact hr _
    · simp only [h1, if_false]
      exact hg _

theorem mems_finishInst (d : Device) (v : CollView) (c : CollInst) (status : Nat) : Mems [.reservoir] d (finishInst d v c status) := by
  unfold finishInst
  with_reducible repeat' first
    | exact Mems.refl _ _
    | assumption
    | refine Mems.cond ?_ (fun _ => ?_)
    | apply Mems.step (mems_writeBytes _ _ _ _)
    | apply Mems.step (mems_modPart _ _ _)
    | apply Mems.step (mems_modRun _ _ _)
    | apply Mems.step (mems_pendAdd _ _ _ _)
    | simp only [Mems.lit_iff]
    | split
    | dsimp only
    | with_unfolding_all decide

theorem mems_collDecide (d : Device) (v : CollView) (c : CollInst) : Mems [.reservoir] d (collDecide d v c) := by
  unfold collDecide
  with_reducible repeat' first
    | exact Mems.refl _ _
    | assumption
    | refine Mems.cond ?_ (fun _ => ?_)
    | apply Mems.step (mems_modPart _ _ _)
    | apply Mems.step (mems_modRun _ _ _)
    | apply Mems.step (mems_finishInst _ _ _ _)
    | simp only [Mems.lit_iff]
    | split
    | dsimp only
    | with_unfolding_all decide

theorem mems_ceRecord (d : Device) (p : PartId) (cause src desc inst : Nat) : Mems [] d (ceRecord d p cause src desc inst) := by
  unfold ceRecord
  with_reducible repeat' first
    | exact Mems.refl _ _
    | assumption
    | refine Mems.cond ?_ (fun _ => ?_)
    | apply Mems.step (mems_modPart _ _ _)
    | simp only [Mems.lit_iff]
    | split
    | dsimp only
    | with_unfolding_all decide

theorem mems_refuseColl (d : Device) (p : PartId) (h : HeldFrame) (cause desc : Nat) : Mems [] d (refuseColl d p h cause desc) := by
  unfold refuseColl
  with_reducible repeat' first
    | exact Mems.refl _ _
    | assumption
    | refine Mems.cond ?_ (fun _ => ?_)
    | apply Mems.step (mems_modPart _ _ _)
    | apply Mems.step (mems_detect _ _)
    | apply Mems.step (mems_ceRecord _ _ _ _ _ _)
    | simp only [Mems.lit_iff]
    | split
    | dsimp only
    | with_unfolding_all decide

theorem mems_abortInst (d : Device) (v : CollView) (inst status acause : Nat) : Mems [.reservoir] d (abortInst d v inst status acause) := by
  unfold abortInst
  with_reducible repeat' first
    | exact Mems.refl _ _
    | assumption
    | refine Mems.optGetD ?_ ?_
    | refine Mems.cond ?_ (fun _ => ?_)
    | apply Mems.step (mems_modRun _ _ _)
    | apply Mems.step (mems_finishInst _ _ _ _)
    | simp only [Mems.lit_iff]
    | split
    | dsimp only
    | with_unfolding_all decide

theorem mems_refuseKnown (d : Device) (v : CollView) (h : HeldFrame) (cause : Nat) : Mems [.reservoir] d (refuseKnown d v h cause) := by
  unfold refuseKnown
  with_reducible repeat' first
    | exact Mems.refl _ _
    | assumption
    | refine Mems.all (fun _ _ => ?_) ?_
    | refine Mems.cond ?_ (fun _ => ?_)
    | apply Mems.step (mems_sendAbort _ _ _ _ _ _)
    | apply Mems.step (mems_refuseColl _ _ _ _ _)
    | apply Mems.step (mems_abortInst _ _ _ _ _)
    | simp only [Mems.lit_iff]
    | split
    | dsimp only
    | with_unfolding_all decide

theorem mems_refuseUnknown (d : Device) (p : PartId) (h : HeldFrame) : Mems [] d (refuseUnknown d p h) := by
  unfold refuseUnknown
  with_reducible repeat' first
    | exact Mems.refl _ _
    | assumption
    | refine Mems.cond ?_ (fun _ => ?_)
    | apply Mems.step (mems_refuseColl _ _ _ _ _)
    | apply Mems.step (mems_sendColl _ _ _ _ _ _)
    | simp only [Mems.lit_iff]
    | split
    | dsimp only
    | with_unfolding_all decide

theorem mems_forwardAbort (d : Device) (v : CollView) (inst acause : Nat) : Mems [] d (forwardAbort d v inst acause) := by
  unfold forwardAbort
  with_reducible repeat' first
    | exact Mems.refl _ _
    | assumption
    | refine Mems.cond ?_ (fun _ => ?_)
    | apply Mems.step (mems_sendAbort _ _ _ _ _ _)
    | simp only [Mems.lit_iff]
    | split
    | dsimp only
    | with_unfolding_all decide

theorem mems_takeAbort (d : Device) (v : CollView) (h : HeldFrame) : Mems [.reservoir] d (takeAbort d v h) := by
  unfold takeAbort
  with_reducible repeat' first
    | exact Mems.refl _ _
    | assumption
    | refine Mems.optGetD ?_ ?_
    | refine Mems.cond ?_ (fun _ => ?_)
    | apply Mems.step (mems_ceRecord _ _ _ _ _ _)
    | apply Mems.step (mems_abortInst _ _ _ _ _)
    | apply Mems.step (mems_forwardAbort _ _ _ _)
    | simp only [Mems.lit_iff]
    | split
    | dsimp only
    | with_unfolding_all decide

theorem mems_leaveBuffer (d : Device) (p : PartId) (k : Nat) : Mems [] d (leaveBuffer d p k) := by
  unfold leaveBuffer
  with_reducible repeat' first
    | exact Mems.refl _ _
    | assumption
    | refine Mems.cond ?_ (fun _ => ?_)
    | apply Mems.step (mems_refill _ _)
    | apply Mems.step (mems_freeHeld _ _ _)
    | apply Mems.step (mems_modPart _ _ _)
    | simp only [Mems.lit_iff]
    | split
    | dsimp only
    | with_unfolding_all decide

theorem mems_putInst (s : CollAct) (v : CollView) : Mems [] s.1 (putInst s v) := mems_modRun _ _ _

theorem mems_takeHeld (d : Device) (p : PartId) : Mems.opt [.reservoir] d (takeHeld d p) := by
  unfold takeHeld
  refine Mems.optFindSome fun k => ?_
  have hl : Mems [.reservoir] d (leaveBuffer d p k) := Mems.step (mems_leaveBuffer _ _ _) (by decide) (Mems.refl _ _)
  split
  · exact Mems.optNone _ _
  · split
    · exact Mems.optNone _ _
    · exact Mems.optSome hl
    · exact Mems.optSome (Mems.step (mems_refuseUnknown _ _ _) (by decide) hl)
    · exact Mems.optSome (Mems.step (mems_takeAbort _ _ _) (by decide) hl)
    · exact Mems.optSome (Mems.step (mems_refuseKnown _ _ _ _) (by decide) hl)
    · split
      · exact Mems.optNone _ _
      · refine Mems.optSome ?_
        have hu := fun v c b r => Mems.step (mems_putInst _ v) (by decide) (Mems.step (mems_useFrame (leaveBuffer d p k, c) v b r) (List.Subset.refl _) hl)
        split
        · exact Mems.step (mems_markRetried _ _ _) (by decide) (hu _ _ _ _)
        · exact hu _ _ _ _

theorem mems_advanceInst (d : Device) (v : CollView) (c : CollInst) : Mems.opt [.reservoir] d (advanceInst d v c) := by
  unfold advanceInst
  split
  · exact Mems.optSome (Mems.step (mems_putInst _ v) (by decide) (mems_beginAttempt d v c))
  · split
    · refine Mems.optSome ?_
      split
      · exact Mems.step (mems_putInst _ v) (by decide) (Mems.refl _ _)
      · exact Mems.step (mems_putInst _ v) (by decide) (Mems.step (mems_sendVerdict _ _) (by decide) (Mems.refl _ _))
    · split
      · exact Mems.optSome (mems_collDecide d v c)
      · exact Mems.optNone _ _

theorem mems_collStep (d : Device) (p : PartId) : Mems.opt [.reservoir] d (collStep d p) := by
  unfold collStep
  dsimp only
  split
  · rename_i x h
    refine Mems.optSome (Mems.optFindSome (fun i => ?_) x h)
    split
    · exact Mems.optNone _ _
    · split
      · exact Mems.optSome (Mems.step (mems_abortActive _ _ _) (by decide) (Mems.refl _ _))
      · split
        · exact Mems.optNone _ _
        · refine Mems.optFindSome fun c => ?_
          split
          · exact mems_advanceInst _ _ _
          · exact Mems.optNone _ _
  · exact mems_takeHeld d p

theorem mems_collPump : (n : Nat) → (d : Device) → (p : PartId) → Mems [.reservoir] d (collPump n d p)
  | 0, d, _ => Mems.refl _ d
  | n + 1, d, p => by
    unfold collPump
    split
    · rename_i x h
      exact Mems.step (mems_collPump n x p) (List.Subset.refl _) (mems_collStep d p x h)
    · exact Mems.refl _ _

theorem mems_collRun (d : Device) (p : PartId) : Mems [.reservoir] d (collRun d p) := by
  unfold collRun
  with_reducible repeat' first
    | exact Mems.refl _ _
    | assumption
    | refine Mems.cond ?_ (fun _ => ?_)
    | apply Mems.step (mems_collPump _ _ _)
    | apply Mems.step (mems_refill _ _)
    | simp only [Mems.lit_iff]
    | split
    | dsimp only
    | with_unfolding_all decide

theorem mems_firstComeHalt (d : Device) (c : CtxId) : Mems [] d (firstComeHalt d c) := by
  unfold firstComeHalt
  with_reducible repeat' first
    | exact Mems.refl _ _
    | assumption
    | refine Mems.cond ?_ (fun _ => ?_)
    | apply Mems.step (mems_haltCheck _ _ _ _ _ _)
    | simp only [Mems.lit_iff]
    | split
    | dsimp only
    | with_unfolding_all decide

theorem mems_startColl (d : Device) (i : DomId) (k : Fin 16) : Mems [.reservoir] d (startColl d i k) := by
  unfold startColl
  with_reducible repeat' first
    | exact Mems.refl _ _
    | assumption
    | refine Mems.optGetD ?_ ?_
    | refine Mems.cond ?_ (fun _ => ?_)
    | apply Mems.step (mems_modRun _ _ _)
    | apply Mems.step (mems_finishInst _ _ _ _)
    | apply Mems.step (mems_forwardAbort _ _ _ _)
    | apply Mems.step (mems_collRun _ _)
    | apply Mems.step (mems_firstComeHalt _ _)
    | simp only [Mems.lit_iff]
    | split
    | dsimp only
    | with_unfolding_all decide

theorem mems_collectiveFrame (d : Device) (plane : Fin 8) (f : FrameBits) : Mems [.reservoir] d (collectiveFrame d plane f) := by
  unfold collectiveFrame
  with_reducible repeat' first
    | exact Mems.refl _ _
    | assumption
    | refine Mems.cond ?_ (fun _ => ?_)
    | refine Mems.condSnd ?_ ?_
    | apply Mems.step (mems_receiveRouted _ _ _ _)
    | apply Mems.step (mems_freeEntry _ _ _ _)
    | apply Mems.step (mems_inject _ _ _)
    | apply Mems.step (mems_collRun _ _)
    | apply Mems.step (mems_enterBuffer _ _ _)
    | refine Mems.snd (by with_reducible assumption) ?_
    | simp only [Mems.lit_iff]
    | split
    | dsimp only
    | with_unfolding_all decide

theorem mems_collReset (d : Device) : Mems [.reservoir] d (collReset d) := by
  unfold collReset
  with_reducible repeat' first
    | exact Mems.refl _ _
    | assumption
    | refine Mems.all (fun _ _ => ?_) ?_
    | refine Mems.optGetD ?_ ?_
    | refine Mems.cond ?_ (fun _ => ?_)
    | apply Mems.step (mems_modPart _ _ _)
    | apply Mems.step (mems_finishInst _ _ _ _)
    | apply Mems.step (mems_ceRecord _ _ _ _ _ _)
    | apply Mems.step (mems_emptyBuffer _ _)
    | simp only [Mems.lit_iff]
    | split
    | dsimp only
    | with_unfolding_all decide

theorem mems_collResetDone (d : Device) : Mems [] d (collResetDone d) := by
  unfold collResetDone
  with_reducible repeat' first
    | exact Mems.refl _ _
    | assumption
    | refine Mems.all (fun _ _ => ?_) ?_
    | refine Mems.cond ?_ (fun _ => ?_)
    | apply Mems.step (mems_modPart _ _ _)
    | apply Mems.step (mems_forwardAbort _ _ _ _)
    | simp only [Mems.lit_iff]
    | split
    | dsimp only
    | with_unfolding_all decide

end Sys2Proof.Machine
end

