-- ==== Sys2Proof/Laws/MemsRun.lean ====
section
/-! SUPPORT. Which memories the operations of a tick may write, one lemma for each: arrays, sync slot, presenting, snapshots, domains, the passing of a period. -/

namespace Sys2Proof.Machine

/-! ### Matrix -/

theorem mems_modMatrix (d : Device) (c : CtxId) (f : MatrixUnit → MatrixUnit) : Mems [] d (modMatrix d c f) := by
  unfold modMatrix
  with_reducible repeat' first
    | exact Mems.refl _ _
    | assumption
    | refine Mems.cond ?_ (fun _ => ?_)
    | apply Mems.step (mems_modUnit _ _ _)
    | simp only [Mems.lit_iff]
    | split
    | dsimp only
    | with_unfolding_all decide

theorem mems_modPlaneOf (d : Device) (c : CtxId) (p : Fin 2) (f : Plane → Plane) : Mems [] d (modPlaneOf d c p f) := by
  unfold modPlaneOf
  with_reducible repeat' first
    | exact Mems.refl _ _
    | assumption
    | refine Mems.cond ?_ (fun _ => ?_)
    | apply Mems.step (mems_modMatrix _ _ _)
    | simp only [Mems.lit_iff]
    | split
    | dsimp only
    | with_unfolding_all decide

theorem mems_raiseArray (d : Device) (c : CtxId) (f : NFlags) (pc : BitVec 12) : Mems [] d (raiseArray d c f pc) := by
  unfold raiseArray
  with_reducible repeat' first
    | exact Mems.refl _ _
    | assumption
    | refine Mems.cond ?_ (fun _ => ?_)
    | apply Mems.step (mems_modMatrix _ _ _)
    | simp only [Mems.lit_iff]
    | split
    | dsimp only
    | with_unfolding_all decide

theorem mems_feedTake (d : Device) (c : CtxId) (g : Feed) : Mems [] d (feedTake d c g).2 := by
  unfold feedTake
  with_reducible repeat' first
    | exact Mems.refl _ _
    | assumption
    | refine Mems.cond ?_ (fun _ => ?_)
    | apply Mems.step (mems_takeOperand _ _ _)
    | simp only [Mems.lit_iff]
    | split
    | dsimp only
    | with_unfolding_all decide

theorem mems_endFeed (d : Device) (c : CtxId) (g : Feed) : Mems [] d (endFeed d c g) := by
  unfold endFeed
  with_reducible repeat' first
    | exact Mems.refl _ _
    | assumption
    | refine Mems.cond ?_ (fun _ => ?_)
    | apply Mems.step (mems_modMatrix _ _ _)
    | simp only [Mems.lit_iff]
    | split
    | dsimp only
    | with_unfolding_all decide

theorem mems_setFeed (d : Device) (c : CtxId) (g : Feed) : Mems [] d (setFeed d c g) := by
  unfold setFeed
  with_reducible repeat' first
    | exact Mems.refl _ _
    | assumption
    | refine Mems.cond ?_ (fun _ => ?_)
    | apply Mems.step (mems_modMatrix _ _ _)
    | simp only [Mems.lit_iff]
    | split
    | dsimp only
    | with_unfolding_all decide

theorem mems_finishStep (d : Device) (c : CtxId) (g : Feed) : Mems [] d (finishStep d c g) := by
  unfold finishStep
  with_reducible repeat' first
    | exact Mems.refl _ _
    | assumption
    | refine Mems.cond ?_ (fun _ => ?_)
    | apply Mems.step (mems_modPlaneOf _ _ _ _)
    | apply Mems.step (mems_raiseArray _ _ _ _)
    | apply Mems.step (mems_setFeed _ _ _)
    | simp only [Mems.lit_iff]
    | split
    | dsimp only
    | with_unfolding_all decide

theorem mems_feedTick (d : Device) (c : CtxId) : Mems [] d (feedTick d c) := by
  unfold feedTick
  with_reducible repeat' first
    | exact Mems.refl _ _
    | assumption
    | refine Mems.snd (by with_reducible assumption) ?_
    | refine Mems.cond ?_ (fun _ => ?_)
    | apply Mems.step (mems_feedTake _ _ _)
    | apply Mems.step (mems_setFeed _ _ _)
    | apply Mems.step (mems_finishStep _ _ _)
    | simp only [Mems.lit_iff]
    | split
    | dsimp only
    | with_unfolding_all decide

theorem mems_matrixEffect (d : Device) (c : CtxId) (w : SeqId) (b : RawBundle) : Mems [] d (matrixEffect d c w b) := by
  unfold matrixEffect
  with_reducible repeat' first
    | exact Mems.refl _ _
    | assumption
    | refine Mems.cond ?_ (fun _ => ?_)
    | apply Mems.step (mems_modMatrix _ _ _)
    | apply Mems.step (mems_feedTick _ _)
    | apply Mems.step (mems_putResult _ _ _ _ _ _)
    | simp only [Mems.lit_iff]
    | split
    | dsimp only
    | with_unfolding_all decide

theorem mems_drainTick (d : Device) (c : CtxId) : Mems [] d (drainTick d c) := by
  unfold drainTick
  with_reducible repeat' first
    | exact Mems.refl _ _
    | assumption
    | refine Mems.cond ?_ (fun _ => ?_)
    | apply Mems.step (mems_putResult _ _ _ _ _ _)
    | apply Mems.step (mems_modMatrix _ _ _)
    | apply Mems.step (mems_raiseArray _ _ _ _)
    | simp only [Mems.lit_iff]
    | split
    | dsimp only
    | with_unfolding_all decide

theorem mems_drainDelivery (d : Device) (c : CtxId) : Mems [] d (drainDelivery d c) := by
  unfold drainDelivery
  with_reducible repeat' first
    | exact Mems.refl _ _
    | assumption
    | refine Mems.cond ?_ (fun _ => ?_)
    | apply Mems.step (mems_drainTick _ _)
    | simp only [Mems.lit_iff]
    | split
    | dsimp only
    | with_unfolding_all decide

theorem mems_matrixEnd (d : Device) (c : CtxId) : Mems [] d (matrixEnd d c) := by
  unfold matrixEnd
  with_reducible repeat' first
    | exact Mems.refl _ _
    | assumption
    | refine Mems.cond ?_ (fun _ => ?_)
    | apply Mems.step (mems_modMatrix _ _ _)
    | apply Mems.step (mems_endFeed _ _ _)
    | simp only [Mems.lit_iff]
    | split
    | dsimp only
    | with_unfolding_all decide

/-! ### Vector -/

theorem mems_vTake (d : Device) (c : CtxId) (o : VOp) : Mems [] d (vTake d c o).2 := by
  unfold vTake
  with_reducible repeat' first
    | exact Mems.refl _ _
    | assumption
    | refine Mems.cond ?_ (fun _ => ?_)
    | apply Mems.step (mems_takeOperand _ _ _)
    | simp only [Mems.lit_iff]
    | split
    | dsimp only
    | with_unfolding_all decide

theorem mems_vStep (d : Device) (c : CtxId) (o : VOp) : Mems [] d (vStep d c o).2 := by
  unfold vStep
  extract_lets sp op core next withSr
  repeat' first
    | exact Mems.refl _ _
    | exact mems_modCore _ _ _
    | refine Mems.condSnd ?_ ?_

theorem mems_setVec (d : Device) (c : CtxId) (o : Option VOp) : Mems [] d (setVec d c o) := by
  unfold setVec
  with_reducible repeat' first
    | exact Mems.refl _ _
    | assumption
    | refine Mems.cond ?_ (fun _ => ?_)
    | apply Mems.step (mems_modUnit _ _ _)
    | simp only [Mems.lit_iff]
    | split
    | dsimp only
    | with_unfolding_all decide

theorem mems_putMasked (d : Device) (c : CtxId) (o : VOp) (r : VResult) (n : Nat) : Mems [] d (putMasked d c o r n) := by
  unfold putMasked
  with_reducible repeat' first
    | exact Mems.refl _ _
    | assumption
    | refine Mems.cond ?_ (fun _ => ?_)
    | apply Mems.step (mems_putResult _ _ _ _ _ _)
    | simp only [Mems.lit_iff]
    | split
    | dsimp only
    | with_unfolding_all decide

theorem mems_applyResult (d : Device) (c : CtxId) (o : VOp) (r : VResult) : Mems [] d (applyResult d c o r) := by
  unfold applyResult
  with_reducible repeat' first
    | exact Mems.refl _ _
    | assumption
    | refine Mems.cond ?_ (fun _ => ?_)
    | apply Mems.step (mems_modCore _ _ _)
    | apply Mems.step (mems_modUnit _ _ _)
    | apply Mems.step (mems_putMasked _ _ _ _ _)
    | simp only [Mems.lit_iff]
    | split
    | dsimp only
    | with_unfolding_all decide

theorem mems_vecTick (d : Device) (c : CtxId) : Mems [] d (vecTick d c) := by
  unfold vecTick
  with_reducible repeat' first
    | exact Mems.refl _ _
    | assumption
    | refine Mems.snd (by with_reducible assumption) ?_
    | refine Mems.all (fun _ _ => ?_) ?_
    | refine Mems.cond ?_ (fun _ => ?_)
    | apply Mems.step (mems_vTake _ _ _)
    | apply Mems.step (mems_vStep _ _ _)
    | apply Mems.step (mems_setVec _ _ _)
    | apply Mems.step (mems_applyResult _ _ _ _)
    | simp only [Mems.lit_iff]
    | split
    | dsimp only
    | with_unfolding_all decide

theorem mems_vectorEnd (d : Device) (c : CtxId) : Mems [] d (vectorEnd d c) := by
  unfold vectorEnd
  with_reducible repeat' first
    | exact Mems.refl _ _
    | assumption
    | refine Mems.cond ?_ (fun _ => ?_)
    | apply Mems.step (mems_modUnit _ _ _)
    | simp only [Mems.lit_iff]
    | split
    | dsimp only
    | with_unfolding_all decide

theorem mems_vectorEffect (d : Device) (c : CtxId) (w : SeqId) (b : RawBundle) : Mems [] d (vectorEffect d c w b) := by
  unfold vectorEffect
  with_reducible repeat' first
    | exact Mems.refl _ _
    | assumption
    | refine Mems.cond ?_ (fun _ => ?_)
    | apply Mems.step (mems_countMayVary _ _)
    | apply Mems.step (mems_setVec _ _ _)
    | apply Mems.step (mems_vecTick _ _)
    | simp only [Mems.lit_iff]
    | split
    | dsimp only
    | with_unfolding_all decide

/-! ### Sync -/

theorem mems_barArrive (d : Device) (c : CtxId) (w : SeqId) (b : RawBundle) : Mems [] d (barArrive d c w b) := by
  unfold barArrive
  with_reducible repeat' first
    | exact Mems.refl _ _
    | assumption
    | refine Mems.cond ?_ (fun _ => ?_)
    | apply Mems.step (mems_modSeq _ _ _)
    | apply Mems.step (mems_noteReach _ _)
    | apply Mems.step (mems_modBar _ _ _)
    | simp only [Mems.lit_iff]
    | split
    | dsimp only
    | with_unfolding_all decide

theorem mems_barEffect (d : Device) (c : CtxId) (w : SeqId) (b : RawBundle) : Mems [] d (barEffect d c w b) := by
  unfold barEffect
  with_reducible repeat' first
    | exact Mems.refl _ _
    | assumption
    | refine Mems.cond ?_ (fun _ => ?_)
    | apply Mems.step (mems_noteReach _ _)
    | apply Mems.step (mems_modBar _ _ _)
    | apply Mems.step (mems_fabricCheck _ _ _ _ _)
    | simp only [Mems.lit_iff]
    | split
    | dsimp only
    | with_unfolding_all decide

theorem mems_extCheck (d : Device) (c : CtxId) (w : SeqId) (b : RawBundle) (need : W32) : Mems [] d (extCheck d c w b need) := by
  unfold extCheck
  with_reducible repeat' first
    | exact Mems.refl _ _
    | assumption
    | refine Mems.cond ?_ (fun _ => ?_)
    | apply Mems.step (mems_addItem _ _ _)
    | simp only [Mems.lit_iff]
    | split
    | dsimp only
    | with_unfolding_all decide

theorem mems_signalEffect (d0 d : Device) (c : CtxId) (w : SeqId) (b : RawBundle) : Mems [] d (signalEffect d0 d c w b) := by
  unfold signalEffect
  with_reducible repeat' first
    | exact Mems.refl _ _
    | assumption
    | refine Mems.cond ?_ (fun _ => ?_)
    | apply Mems.step (mems_countSent _ _ _ _ _)
    | apply Mems.step (mems_pendAdd _ _ _ _)
    | apply Mems.step (mems_enqueue _ _ _)
    | simp only [Mems.lit_iff]
    | split
    | dsimp only
    | with_unfolding_all decide

theorem mems_syncEffect (d0 d : Device) (c : CtxId) (w : SeqId) (b : RawBundle) : Mems [] d (syncEffect d0 d c w b) := by
  unfold syncEffect
  with_reducible repeat' first
    | exact Mems.refl _ _
    | assumption
    | refine Mems.cond ?_ (fun _ => ?_)
    | apply Mems.step (mems_pendFlag _ _ _)
    | apply Mems.step (mems_sendEffect _ _ _ _ _)
    | apply Mems.step (mems_barEffect _ _ _ _)
    | apply Mems.step (mems_extCheck _ _ _ _ _)
    | apply Mems.step (mems_signalEffect _ _ _ _ _)
    | simp only [Mems.lit_iff]
    | split
    | dsimp only
    | with_unfolding_all decide

/-! ### Present -/

theorem mems_applyWait (d : Device) (c : CtxId) (w : SeqId) (un : List Unmet) (arrives : Bool) : Mems [] d (applyWait d c w un arrives) := by
  unfold applyWait
  with_reducible repeat' first
    | exact Mems.refl _ _
    | assumption
    | refine Mems.cond ?_ (fun _ => ?_)
    | apply Mems.step (mems_modSeq _ _ _)
    | apply Mems.step (mems_barArrive _ _ _ _)
    | simp only [Mems.lit_iff]
    | split
    | dsimp only
    | with_unfolding_all decide

theorem mems_applyIssue (d0 : Device) (c : CtxId) (w : SeqId) (b : RawBundle) : Mems [] d0 (applyIssue d0 c w b) := by
  unfold applyIssue
  with_reducible repeat' first
    | exact Mems.refl _ _
    | assumption
    | refine Mems.cond ?_ (fun _ => ?_)
    | apply Mems.step (mems_scalarEffect _ _ _ _ _)
    | apply Mems.step (mems_advanceStream _ _ _ _ _)
    | apply Mems.step (mems_agFetchEffect _ _ _ _ _)
    | apply Mems.step (mems_memEffect _ _ _ _ _)
    | apply Mems.step (mems_matrixEffect _ _ _ _)
    | apply Mems.step (mems_vectorEffect _ _ _ _)
    | apply Mems.step (mems_syncEffect _ _ _ _ _)
    | simp only [Mems.lit_iff]
    | split
    | dsimp only
    | with_unfolding_all decide

theorem mems_applyVerdict (d : Device) (c : CtxId) (w : SeqId) : Mems [] d (applyVerdict d c w) := by
  unfold applyVerdict
  with_reducible repeat' first
    | exact Mems.refl _ _
    | assumption
    | refine Mems.cond ?_ (fun _ => ?_)
    | apply Mems.step (mems_applyWait _ _ _ _ _)
    | apply Mems.step (mems_applyIssue _ _ _ _)
    | simp only [Mems.lit_iff]
    | split
    | dsimp only
    | with_unfolding_all decide

theorem mems_settleUnits (d : Device) (c : CtxId) : Mems [] d (settleUnits d c) := by
  unfold settleUnits
  with_reducible repeat' first
    | exact Mems.refl _ _
    | assumption
    | refine Mems.cond ?_ (fun _ => ?_)
    | apply Mems.step (mems_unitStep _ _ _)
    | apply Mems.step (mems_feedTick _ _)
    | apply Mems.step (mems_drainTick _ _)
    | apply Mems.step (mems_vecTick _ _)
    | simp only [Mems.lit_iff]
    | split
    | dsimp only
    | with_unfolding_all decide

theorem mems_judgeSeqs (d : Device) (c : CtxId) : Mems [] d (judgeSeqs d c).2.1 := by
  unfold judgeSeqs
  generalize seqsOf d c = l
  suffices h : ∀ p : List HaltReq × Device × List (SeqId × Verdict), Mems [] d p.2.1 → Mems [] d (l.foldl (fun (a : List HaltReq × Device × List (SeqId × Verdict)) n =>
      let w : SeqId := { core := c.core, seq := n }
      let v := verdict a.2.1 c w
      match v with
      | .halt code => (a.1 ++ [bundleHalt a.2.1 c w code], a.2.1, a.2.2 ++ [(w, v)])
      | _ => (a.1, applyVerdict a.2.1 c w, a.2.2 ++ [(w, v)])) p).2.1 from h _ (Mems.refl _ _)
  induction l with
  | nil => exact fun p hp => hp
  | cons n l ih =>
    intro p hp
    refine ih _ ?_
    dsimp only
    split
    · exact hp
    · exact Mems.step (mems_applyVerdict _ _ _) (by decide) hp

theorem mems_doHalt (d : Device) (c : CtxId) (l : List HaltReq) : Mems [] d (doHalt d c l) := by
  unfold doHalt
  with_reducible repeat' first
    | exact Mems.refl _ _
    | assumption
    | refine Mems.all (fun _ _ => ?_) ?_
    | refine Mems.fold (fun _ _ => ?_) ?_
    | refine Mems.cond ?_ (fun _ => ?_)
    | apply Mems.step (mems_detectAt _ _)
    | apply Mems.step (mems_modCore _ _ _)
    | apply Mems.step (mems_haltWith _ _ _ _ _ _)
    | apply Mems.step (mems_dropFailed _ _)
    | simp only [Mems.lit_iff]
    | split
    | dsimp only
    | with_unfolding_all decide

theorem mems_takeHalts (d : Device) (c : CtxId) : Mems.opt [] d (takeHalts d c) := by
  unfold takeHalts
  with_reducible repeat' first
    | exact Mems.refl _ _
    | assumption
    | exact Mems.optNone _ _
    | refine Mems.optSome ?_
    | refine Mems.cond ?_ (fun _ => ?_)
    | apply Mems.step (mems_doHalt _ _ _)
    | simp only [Mems.lit_iff]
    | split
    | dsimp only
    | with_unfolding_all decide

theorem mems_present (d : Device) (w : SeqId) : Mems [] d (present d w) := by
  unfold present
  with_reducible repeat' first
    | exact Mems.refl _ _
    | assumption
    | refine Mems.cond ?_ (fun _ => ?_)
    | apply Mems.step (mems_applyVerdict _ _ _)
    | refine Mems.ofOpt (by with_reducible assumption) (mems_takeHalts _ _) (by with_unfolding_all decide) ?_
    | simp only [Mems.lit_iff]
    | split
    | dsimp only
    | with_unfolding_all decide

theorem mems_repeatTransfer (d : Device) (c : CtxId) (store : Bool) : Mems [] d (repeatTransfer d c store) := by
  unfold repeatTransfer
  with_reducible repeat' first
    | exact Mems.refl _ _
    | assumption
    | refine Mems.cond ?_ (fun _ => ?_)
    | apply Mems.step (mems_unitStep _ _ _)
    | refine Mems.ofOpt (by with_reducible assumption) (mems_takeHalts _ _) (by with_unfolding_all decide) ?_
    | simp only [Mems.lit_iff]
    | split
    | dsimp only
    | with_unfolding_all decide

theorem mems_vectorResult (d : Device) (c : CtxId) : Mems [] d (vectorResult d c) := by
  unfold vectorResult
  with_reducible repeat' first
    | exact Mems.refl _ _
    | assumption
    | refine Mems.cond ?_ (fun _ => ?_)
    | refine Mems.optGetD ?_ ?_
    | apply Mems.step (mems_vecTick _ _)
    | exact mems_takeHalts _ _
    | refine Mems.ofOpt (by with_reducible assumption) (mems_takeHalts _ _) (by with_unfolding_all decide) ?_
    | simp only [Mems.lit_iff]
    | split
    | dsimp only
    | with_unfolding_all decide

theorem mems_watchdogExpires (d : Device) (w : SeqId) : Mems [] d (watchdogExpires d w) := by
  unfold watchdogExpires
  dsimp only
  split
  · exact Mems.optGetD (mems_takeHalts _ _) (Mems.refl _ _)
  · exact Mems.refl _ _

/-! ### Snapshot -/

theorem mems_completeFlight (d : Device) (c : CtxId) (f : Flight) : Mems [.scratch, .reservoir, .hbm, .cxl] d (completeFlight d c f) := by
  unfold completeFlight
  with_reducible repeat' first
    | exact Mems.refl _ _
    | assumption
    | refine Mems.snd (by with_reducible assumption) ?_
    | refine Mems.cond ?_ (fun _ => ?_)
    | apply Mems.step (mems_pendAdd _ _ _ _)
    | apply Mems.step (mems_modMq _ _ _ _)
    | apply Mems.step (mems_memAct _ _ _ _ _)
    | apply Mems.step (mems_deliverFlag _ _ _ _ _ _)
    | apply Mems.step (mems_sendExternal _ _ _ _)
    | apply Mems.step (mems_fillDest _ _ _ _ _ _ _)
    | simp only [Mems.lit_iff]
    | split
    | dsimp only
    | with_unfolding_all decide

theorem mems_completeUnits (d : Device) (c : CtxId) : Mems [] d (completeUnits d c) := by
  unfold completeUnits
  with_reducible repeat' first
    | exact Mems.refl _ _
    | assumption
    | refine Mems.all (fun _ _ => ?_) ?_
    | refine Mems.cond ?_ (fun _ => ?_)
    | apply Mems.step (mems_giveUnit _ _ _ _)
    | simp only [Mems.lit_iff]
    | split
    | dsimp only
    | with_unfolding_all decide

theorem mems_completeCtx (d : Device) (c : CtxId) : Mems [.scratch, .reservoir, .hbm, .cxl] d (completeCtx d c) := by
  unfold completeCtx
  with_reducible repeat' first
    | exact Mems.refl _ _
    | assumption
    | refine Mems.all (fun _ _ => ?_) ?_
    | refine Mems.cond ?_ (fun _ => ?_)
    | apply Mems.step (mems_completeUnits _ _)
    | apply Mems.step (mems_fillDest _ _ _ _ _ _ _)
    | apply Mems.step (mems_completeFlight _ _ _)
    | apply Mems.step (mems_applyCredit _ _ _ _)
    | apply Mems.step (mems_applyResult _ _ _ _)
    | simp only [Mems.lit_iff]
    | split
    | dsimp only
    | with_unfolding_all decide

theorem mems_completeToward (d : Device) (i : DomId) (c : CtxId) : Mems [.scratch, .reservoir, .hbm, .cxl] d (completeToward d i c) := by
  unfold completeToward
  with_reducible repeat' first
    | exact Mems.refl _ _
    | assumption
    | refine Mems.all (fun _ _ => ?_) ?_
    | refine Mems.cond ?_ (fun _ => ?_)
    | apply Mems.step (mems_completeFlight _ _ _)
    | simp only [Mems.lit_iff]
    | split
    | dsimp only
    | with_unfolding_all decide

theorem mems_completeAdds (d : Device) (c : CtxId) : Mems [] d (completeAdds d c) := by
  unfold completeAdds
  with_reducible repeat' first
    | exact Mems.refl _ _
    | assumption
    | refine Mems.all (fun _ _ => ?_) ?_
    | refine Mems.cond ?_ (fun _ => ?_)
    | apply Mems.step (mems_pendAdd _ _ _ _)
    | simp only [Mems.lit_iff]
    | split
    | dsimp only
    | with_unfolding_all decide

theorem mems_completeDomain (d : Device) (i : DomId) : Mems [.scratch, .reservoir, .hbm, .cxl] d (completeDomain d i) := by
  unfold completeDomain
  with_reducible repeat' first
    | exact Mems.refl _ _
    | assumption
    | refine Mems.all (fun _ _ => ?_) ?_
    | refine Mems.cond ?_ (fun _ => ?_)
    | apply Mems.step (mems_completeCtx _ _)
    | apply Mems.step (mems_completeToward _ _ _)
    | apply Mems.step (mems_completeAdds _ _)
    | apply Mems.step (mems_modCore _ _ _)
    | simp only [Mems.lit_iff]
    | split
    | dsimp only
    | with_unfolding_all decide

theorem mems_restoreStreams (d : Device) (im : List Byte) (c : CtxId) (o t : Nat) (prev : CtxId) (insts : CtxId → Nat → Nat) : Mems [] d (restoreStreams d im c o t prev insts) := by
  unfold restoreStreams
  with_reducible repeat' first
    | exact Mems.refl _ _
    | assumption
    | refine Mems.cond ?_ (fun _ => ?_)
    | apply Mems.step (mems_modStream _ _ _)
    | simp only [Mems.lit_iff]
    | split
    | dsimp only
    | with_unfolding_all decide

theorem mems_restoreUnits (d : Device) (im : List Byte) (c : CtxId) (o t : Nat) : Mems [] d (restoreUnits d im c o t) := by
  unfold restoreUnits
  with_reducible repeat' first
    | exact Mems.refl _ _
    | assumption
    | refine Mems.all (fun _ _ => ?_) ?_
    | refine Mems.cond ?_ (fun _ => ?_)
    | apply Mems.step (mems_addItem _ _ _)
    | apply Mems.step (mems_modUnit _ _ _)
    | simp only [Mems.lit_iff]
    | split
    | dsimp only
    | with_unfolding_all decide

theorem mems_restoreChecks (d : Device) (i : DomId) (g : Program) (k : Fin 64) (im : List Byte) (o t : Nat) : Mems [] d (restoreChecks d i g k im o t) := by
  unfold restoreChecks
  with_reducible repeat' first
    | exact Mems.refl _ _
    | assumption
    | refine Mems.all (fun _ _ => ?_) ?_
    | refine Mems.cond ?_ (fun _ => ?_)
    | apply Mems.step (mems_modSeq _ _ _)
    | apply Mems.step (mems_modRun _ _ _)
    | simp only [Mems.lit_iff]
    | split
    | dsimp only
    | with_unfolding_all decide

theorem mems_restoreDomain (d : Device) (i : DomId) (im : List Byte) (t : Nat) : Mems [] d (restoreDomain d i im t) := by
  unfold restoreDomain
  with_reducible repeat' first
    | exact Mems.refl _ _
    | assumption
    | refine Mems.all (fun _ _ => ?_) ?_
    | refine Mems.cond ?_ (fun _ => ?_)
    | refine Mems.optGetD ?_ ?_
    | apply Mems.step (mems_modCore _ _ _)
    | apply Mems.step (mems_restoreUnits _ _ _ _ _)
    | apply Mems.step (mems_restoreStreams _ _ _ _ _ _ _)
    | apply Mems.step (mems_modStream _ _ _)
    | apply Mems.step (mems_restoreChecks _ _ _ _ _ _ _)
    | apply Mems.step (mems_modBar _ _ _)
    | simp only [Mems.lit_iff]
    | split
    | dsimp only
    | with_unfolding_all decide

/-! ### Domain -/

theorem mems_freshCredit (d : Device) (i : DomId) : Mems [] d (freshCredit d i) := by
  unfold freshCredit
  with_reducible repeat' first
    | exact Mems.refl _ _
    | assumption
    | refine Mems.cond ?_ (fun _ => ?_)
    | refine Mems.optGetD ?_ ?_
    | apply Mems.step (mems_modPart _ _ _)
    | simp only [Mems.lit_iff]
    | split
    | dsimp only
    | with_unfolding_all decide

theorem mems_runStart (d : Device) (i : DomId) : Mems [.scratch] d (runStart d i) := by
  unfold runStart
  with_reducible repeat' first
    | exact Mems.refl _ _
    | assumption
    | refine Mems.all (fun _ _ => ?_) ?_
    | refine Mems.cond ?_ (fun _ => ?_)
    | refine Mems.optGetD ?_ ?_
    | apply Mems.step (mems_modCore _ _ _)
    | apply Mems.step (mems_bankSettle _ _)
    | apply Mems.step (mems_modBar _ _ _)
    | apply Mems.step (mems_modDom _ _ _)
    | apply Mems.step (mems_freshCredit _ _)
    | apply Mems.step (mems_modRun _ _ _)
    | apply Mems.step (mems_restoreDomain _ _ _ _)
    | apply Mems.step (mems_deliverWaiting _ _)
    | apply Mems.step (mems_noteLedger _ _)
    | simp only [Mems.lit_iff]
    | split
    | dsimp only
    | with_unfolding_all decide

theorem mems_rampStep (d : Device) (i : DomId) : Mems [] d (rampStep d i) := by
  unfold rampStep
  with_reducible repeat' first
    | exact Mems.refl _ _
    | assumption
    | refine Mems.cond ?_ (fun _ => ?_)
    | apply Mems.step (mems_modRun _ _ _)
    | simp only [Mems.lit_iff]
    | split
    | dsimp only
    | with_unfolding_all decide

theorem mems_haltRest (d : Device) (i : DomId) (code : Byte) (own : Bool) : Mems [] d (haltRest d i code own) := by
  unfold haltRest
  refine Mems.all (fun e c => ?_) (Mems.refl _ _)
  split
  · exact Mems.refl _ _
  · split
    · rename_i h
      split at h
      · exact mems_takeHalts _ _ _ h
      · cases h
    · exact mems_haltNoBundle _ _ _

theorem mems_haltPropagate (d : Device) (i : DomId) : Mems [] d (haltPropagate d i) := by
  unfold haltPropagate
  with_reducible repeat' first
    | exact Mems.refl _ _
    | assumption
    | refine Mems.cond ?_ (fun _ => ?_)
    | apply Mems.step (mems_haltRest _ _ _ _)
    | simp only [Mems.lit_iff]
    | split
    | dsimp only
    | with_unfolding_all decide

theorem mems_endHalts (d : Device) (i : DomId) (st : Status) : Mems [.host] d (endHalts d i st) := by
  unfold endHalts
  with_reducible repeat' first
    | exact Mems.refl _ _
    | assumption
    | refine Mems.all (fun _ _ => ?_) ?_
    | refine Mems.cond ?_ (fun _ => ?_)
    | apply Mems.step (mems_completeCmd _ _ _ _ _)
    | simp only [Mems.lit_iff]
    | split
    | dsimp only
    | with_unfolding_all decide

theorem mems_haltTakesEffect (d : Device) (i : DomId) : Mems [.host] d (haltTakesEffect d i) := by
  unfold haltTakesEffect
  with_reducible repeat' first
    | exact Mems.refl _ _
    | assumption
    | refine Mems.cond ?_ (fun _ => ?_)
    | refine Mems.optGetD ?_ ?_
    | refine Mems.ofOpt (by with_reducible assumption) (mems_takeHalts _ _) (by with_unfolding_all decide) ?_
    | apply Mems.step (mems_endHalts _ _ _)
    | apply Mems.step (mems_modRun _ _ _)
    | apply Mems.step (mems_haltRest _ _ _ _)
    | simp only [Mems.lit_iff]
    | split
    | dsimp only
    | with_unfolding_all decide

theorem mems_haltAnswer (d : Device) (i : DomId) : Mems [.host] d (haltAnswer d i) := by
  unfold haltAnswer
  with_reducible repeat' first
    | exact Mems.refl _ _
    | assumption
    | refine Mems.cond ?_ (fun _ => ?_)
    | refine Mems.optGetD ?_ ?_
    | apply Mems.step (mems_endHalts _ _ _)
    | apply Mems.step (mems_modRun _ _ _)
    | simp only [Mems.lit_iff]
    | split
    | dsimp only
    | with_unfolding_all decide

theorem mems_freeOutput (d : Device) (i : DomId) (missed : List Nat) : Mems [] d (freeOutput d i missed) := by
  unfold freeOutput
  with_reducible repeat' first
    | exact Mems.refl _ _
    | assumption
    | refine Mems.cond ?_ (fun _ => ?_)
    | simp only [Mems.lit_iff]
    | split
    | dsimp only
    | with_unfolding_all decide

theorem mems_deadlinePoint (d : Device) (i : DomId) : Mems [] d (deadlinePoint d i) := by
  unfold deadlinePoint
  with_reducible repeat' first
    | exact Mems.refl _ _
    | assumption
    | refine Mems.cond ?_ (fun _ => ?_)
    | refine Mems.optGetD ?_ ?_
    | apply Mems.step (mems_freeOutput _ _ _)
    | apply Mems.step (mems_modRun _ _ _)
    | apply Mems.step (mems_haltRest _ _ _ _)
    | simp only [Mems.lit_iff]
    | split
    | dsimp only
    | with_unfolding_all decide

theorem mems_makePennant (d : Device) (i : DomId) : Mems [] d (makePennant d i) := by
  unfold makePennant
  with_reducible repeat' first
    | exact Mems.refl _ _
    | assumption
    | refine Mems.optGetD ?_ ?_
    | refine Mems.cond ?_ (fun _ => ?_)
    | apply Mems.step (mems_modDom _ _ _)
    | simp only [Mems.lit_iff]
    | split
    | dsimp only
    | with_unfolding_all decide

theorem mems_holdEnd (d : Device) (i : DomId) : Mems [] d (holdEnd d i) := by
  unfold holdEnd
  with_reducible repeat' first
    | exact Mems.refl _ _
    | assumption
    | refine Mems.cond ?_ (fun _ => ?_)
    | refine Mems.optGetD ?_ ?_
    | apply Mems.step (mems_modRun _ _ _)
    | simp only [Mems.lit_iff]
    | split
    | dsimp only
    | with_unfolding_all decide

theorem mems_landLocal (d : Device) (c : CtxId) : Mems [.scratch] d (landLocal d c) := by
  unfold landLocal
  with_reducible repeat' first
    | exact Mems.refl _ _
    | assumption
    | refine Mems.all (fun _ _ => ?_) ?_
    | refine Mems.cond ?_ (fun _ => ?_)
    | apply Mems.step (mems_modUnit _ _ _)
    | apply Mems.step (mems_storePad _ _ _ _)
    | apply Mems.step (mems_fillDest _ _ _ _ _ _ _)
    | simp only [Mems.lit_iff]
    | split
    | dsimp only
    | with_unfolding_all decide

theorem mems_settleReplays (d : Device) (c : CtxId) : Mems [] d (settleReplays d c) := by
  unfold settleReplays
  with_reducible repeat' first
    | exact Mems.refl _ _
    | assumption
    | refine Mems.all (fun _ _ => ?_) ?_
    | refine Mems.cond ?_ (fun _ => ?_)
    | apply Mems.step (mems_recordCheck _ _ _)
    | apply Mems.step (mems_modCore _ _ _)
    | apply Mems.step (mems_modUnit _ _ _)
    | simp only [Mems.lit_iff]
    | split
    | dsimp only
    | with_unfolding_all decide

theorem mems_runEnd (d : Device) (i : DomId) : Mems [.scratch, .host] d (runEnd d i) := by
  unfold runEnd
  with_reducible repeat' first
    | exact Mems.refl _ _
    | assumption
    | refine Mems.all (fun _ _ => ?_) ?_
    | refine Mems.cond ?_ (fun _ => ?_)
    | refine Mems.optGetD ?_ ?_
    | apply Mems.step (mems_settleReplays _ _)
    | apply Mems.step (mems_landLocal _ _)
    | apply Mems.step (mems_bankSettle _ _)
    | apply Mems.step (mems_modCore _ _ _)
    | apply Mems.step (mems_makePennant _ _)
    | apply Mems.step (mems_modDom _ _ _)
    | apply Mems.step (mems_modRun _ _ _)
    | apply Mems.step (mems_dropWaiting _ _ _ _)
    | apply Mems.step (mems_completeCmd _ _ _ _ _)
    | simp only [Mems.lit_iff]
    | split
    | dsimp only
    | with_unfolding_all decide

end Sys2Proof.Machine
end

