-- ==== Sys2Proof/Laws/MemsHost.lean ====
section
/-! SUPPORT. Which memories the host commands and register writes may write, one lemma for each. -/

namespace Sys2Proof.Machine

/-! ### Units -/

theorem mems_isolateItems (d : Device) (c : CtxId) (land : LandItem → Bool) (out : OutItem → Bool) : Mems [] d (isolateItems d c land out) := by
  unfold isolateItems
  with_reducible repeat' first
    | exact Mems.refl _ _
    | assumption
    | refine Mems.cond ?_ (fun _ => ?_)
    | apply Mems.step (mems_modStream _ _ _)
    | apply Mems.step (mems_noteErrors _ _ _)
    | simp only [Mems.lit_iff]
    | split
    | dsimp only
    | with_unfolding_all decide

theorem mems_isolateAt (d : Device) (hit : Device → CtxId → Nat → Bool) : Mems [] d (isolateAt d hit) := by
  unfold isolateAt
  with_reducible repeat' first
    | exact Mems.refl _ _
    | assumption
    | refine Mems.all (fun _ _ => ?_) ?_
    | refine Mems.cond ?_ (fun _ => ?_)
    | apply Mems.step (mems_isolated _ _ _)
    | apply Mems.step (mems_isolateItems _ _ _ _)
    | simp only [Mems.lit_iff]
    | split
    | dsimp only
    | with_unfolding_all decide

theorem mems_isolateCmds (d : Device) : Mems [.host] d (isolateCmds d) := by
  unfold isolateCmds
  with_reducible repeat' first
    | exact Mems.refl _ _
    | assumption
    | refine Mems.all (fun _ _ => ?_) ?_
    | refine Mems.cond ?_ (fun _ => ?_)
    | apply Mems.step (mems_isolateCmd _ _)
    | simp only [Mems.lit_iff]
    | split
    | dsimp only
    | with_unfolding_all decide

theorem mems_isolateCore (d : Device) (k : CoreId) : Mems [] d (isolateCore d k) := by
  unfold isolateCore
  with_reducible repeat' first
    | exact Mems.refl _ _
    | assumption
    | refine Mems.all (fun _ _ => ?_) ?_
    | refine Mems.cond ?_ (fun _ => ?_)
    | apply Mems.step (mems_noteErrors _ _ _)
    | apply Mems.step (mems_rotationError _ _)
    | apply Mems.step (mems_isolated _ _ _)
    | simp only [Mems.lit_iff]
    | split
    | dsimp only
    | with_unfolding_all decide

theorem mems_resetCore (d : Device) (k : CoreId) : Mems [.scratch] d (resetCore d k) := by
  unfold resetCore
  with_reducible repeat' first
    | exact Mems.refl _ _
    | assumption
    | refine Mems.all (fun _ _ => ?_) ?_
    | refine Mems.cond ?_ (fun _ => ?_)
    | apply Mems.step (mems_isolateCore _ _)
    | apply Mems.step (mems_haltWith _ _ _ _ _ _)
    | apply Mems.step (mems_modRun _ _ _)
    | apply Mems.step (mems_abortActive _ _ _)
    | apply Mems.step (mems_clearScratch _ _)
    | apply Mems.step (mems_modCore _ _ _)
    | apply Mems.step (mems_modPart _ _ _)
    | simp only [Mems.lit_iff]
    | split
    | dsimp only
    | with_unfolding_all decide

theorem mems_resetPlane (d : Device) (p : Fin 8) : Mems [] d (resetPlane d p) := by
  unfold resetPlane
  with_reducible repeat' first
    | exact Mems.refl _ _
    | assumption
    | refine Mems.cond ?_ (fun _ => ?_)
    | apply Mems.step (mems_modPlane _ _ _)
    | apply Mems.step (mems_leavePlane _ _ _)
    | simp only [Mems.lit_iff]
    | split
    | dsimp only
    | with_unfolding_all decide

theorem mems_resetPort (d : Device) (k : Fin 4) : Mems [] d (resetPort d k) := by
  unfold resetPort
  with_reducible repeat' first
    | exact Mems.refl _ _
    | assumption
    | refine Mems.cond ?_ (fun _ => ?_)
    | apply Mems.step (mems_modPort _ _ _)
    | apply Mems.step (mems_isolateAt _ _)
    | simp only [Mems.lit_iff]
    | split
    | dsimp only
    | with_unfolding_all decide

theorem mems_resetStack (d : Device) (s : Fin 8) : Mems [.hbm] d (resetStack d s) := by
  unfold resetStack
  refine Mems.step (mems_isolateAt _ _) (by decide) (Mems.step (mems_modPart _ _ _) (by decide) (Mems.step (mems_modStack _ _ _) (by decide) ?_))
  refine ⟨fun i hi => ?_, fun h => ?_⟩
  · cases i <;> first | rfl | simp at hi
  · rw [memoriesWf_iff] at h ⊢
    intro i
    have := h i
    cases i <;> first | exact this | exact memWf_memClear false _ _ _ this

theorem mems_beginUnit (d : Device) (u : BitVec 16) : Mems [.scratch, .reservoir, .hbm, .host] d (beginUnit d u) := by
  unfold beginUnit
  with_reducible repeat' first
    | exact Mems.refl _ _
    | assumption
    | refine Mems.cond ?_ (fun _ => ?_)
    | apply Mems.step (mems_resetCore _ _)
    | apply Mems.step (mems_resetPlane _ _)
    | apply Mems.step (mems_resetPort _ _)
    | apply Mems.step (mems_resetStack _ _)
    | apply Mems.step (mems_collReset _)
    | apply Mems.step (mems_isolateCmds _)
    | simp only [Mems.lit_iff]
    | split
    | dsimp only
    | with_unfolding_all decide

theorem mems_resetUnit (d : Device) (u : BitVec 16) (h : Option W32) : Mems [.scratch, .reservoir, .retained, .hbm, .host] d (resetUnit d u h) := by
  unfold resetUnit
  with_reducible repeat' first
    | exact Mems.refl _ _
    | assumption
    | refine Mems.all (fun _ _ => ?_) ?_
    | refine Mems.cond ?_ (fun _ => ?_)
    | refine Mems.condSnd ?_ ?_
    | apply Mems.step (mems_joinRaised _ _ _)
    | apply Mems.step (mems_applyLevel _ _ _ _)
    | apply Mems.step (mems_modPart _ _ _)
    | apply Mems.step (mems_beginUnit _ _)
    | apply Mems.step (mems_resetL2 _ _)
    | refine Mems.snd (by with_reducible assumption) ?_
    | simp only [Mems.lit_iff]
    | split
    | dsimp only
    | with_unfolding_all decide

theorem mems_releaseUnit (d : Device) (u : BitVec 16) : Mems [] d (releaseUnit d u) := by
  unfold releaseUnit
  with_reducible repeat' first
    | exact Mems.refl _ _
    | assumption
    | refine Mems.cond ?_ (fun _ => ?_)
    | apply Mems.step (mems_modCore _ _ _)
    | apply Mems.step (mems_modStack _ _ _)
    | apply Mems.step (mems_collResetDone _)
    | simp only [Mems.lit_iff]
    | split
    | dsimp only
    | with_unfolding_all decide

theorem mems_unitDone (d : Device) : Mems [.host] d (unitDone d) := by
  unfold unitDone
  with_reducible repeat' first
    | exact Mems.refl _ _
    | assumption
    | refine Mems.all (fun _ _ => ?_) ?_
    | refine Mems.cond ?_ (fun _ => ?_)
    | apply Mems.step (mems_completeCmd _ _ _ _ _)
    | apply Mems.step (mems_releaseUnit _ _)
    | simp only [Mems.lit_iff]
    | split
    | dsimp only
    | with_unfolding_all decide

theorem mems_errorTransfer (d : Device) (c : CtxId) : Mems [] d (errorTransfer d c) := by
  unfold errorTransfer
  with_reducible repeat' first
    | exact Mems.refl _ _
    | assumption
    | refine Mems.cond ?_ (fun _ => ?_)
    | apply Mems.step (mems_isolated _ _ _)
    | apply Mems.step (mems_isolateItems _ _ _ _)
    | simp only [Mems.lit_iff]
    | split
    | dsimp only
    | with_unfolding_all decide

theorem mems_errorResponse (d : Device) (r : Requester) : Mems [.host] d (errorResponse d r) := by
  unfold errorResponse
  with_reducible repeat' first
    | exact Mems.refl _ _
    | assumption
    | refine Mems.cond ?_ (fun _ => ?_)
    | apply Mems.step (mems_isolateCmd _ _)
    | apply Mems.step (mems_errorTransfer _ _)
    | simp only [Mems.lit_iff]
    | split
    | dsimp only
    | with_unfolding_all decide

/-! ### HostCmd -/

theorem mems_fetchDesc (d : Device) (i : Fin 64) : Mems [] d (fetchDesc d i).2 := by
  unfold fetchDesc
  with_reducible repeat' first
    | exact Mems.refl _ _
    | assumption
    | refine Mems.cond ?_ (fun _ => ?_)
    | apply Mems.step (mems_modRing _ _ _)
    | simp only [Mems.lit_iff]
    | split
    | dsimp only
    | with_unfolding_all decide

theorem mems_acceptCmd {l : List MemId} (d : Device) (h : CmdHdr) (op : Byte) (fail : Refused) (wake : Option PartId) (go : Device → W32 → Device)
    (hl : [.host] ⊆ l) (hg : ∀ e hd, Mems l e (go e hd)) : Mems l d (acceptCmd d h op fail wake go) := by
  have hf : ∀ e, Mems l e (fetchDesc e h.ring).2 := fun e => Mems.step (mems_fetchDesc _ _) (List.nil_subset _) (Mems.refl _ _)
  have hgo : ∀ e, Mems l e (go (fetchDesc e h.ring).2 (fetchDesc e h.ring).1) := fun e => Mems.step (hg _ _) (List.Subset.refl _) (hf e)
  unfold acceptCmd
  split
  · exact Mems.refl _ _
  · split
    · exact Mems.step (mems_complete _ _ _ _ _ _ _) hl (hf d)
    · split
      · have hp := mems_modPart d ‹PartId› fun x => { x with lastNeed := some d.clock.elapsed }
        refine Mems.cond (Mems.step (hgo _) (List.Subset.refl _) (Mems.step hp (List.nil_subset _) (Mems.refl _ _))) fun _ => ?_
        exact Mems.step (mems_startWake _ _) (List.nil_subset _) (Mems.step hp (List.nil_subset _) (Mems.refl _ _))
      · exact hgo d

theorem mems_acceptCmd_from {l : List MemId} {d e : Device} (h : CmdHdr) (op : Byte) (fail : Refused) (wake : Option PartId)
    (go : Device → W32 → Device) (hl : [.host] ⊆ l) (hg : ∀ e hd, Mems l e (go e hd)) (he : Mems l d e) : Mems l d (acceptCmd e h op fail wake go) :=
  Mems.step (mems_acceptCmd _ _ _ _ _ _ hl hg) (List.Subset.refl _) he

theorem mems_beginLong (d : Device) (hd : W32) (h : CmdHdr) (op : Byte) (job : Job) : Mems [.host] d (beginLong d hd h op job) := by
  unfold beginLong
  with_reducible repeat' first
    | exact Mems.refl _ _
    | assumption
    | refine Mems.cond ?_ (fun _ => ?_)
    | apply Mems.step (mems_postEntry _ _ _)
    | simp only [Mems.lit_iff]
    | split
    | dsimp only
    | with_unfolding_all decide

theorem mems_attach (d : Device) (h : CmdHdr) (action : Byte) (pre : Option Nat) : Mems [.host] d (attach d h action pre) := by
  unfold attach
  with_reducible repeat' first
    | exact Mems.refl _ _
    | assumption
    | refine Mems.cond ?_ (fun _ => ?_)
    | apply Mems.step (mems_modPart _ _ _)
    | apply Mems.step (mems_complete _ _ _ _ _ _ _)
    | refine mems_acceptCmd _ _ _ _ _ _ (by with_unfolding_all decide) (fun _ _ => ?_)
    | refine mems_acceptCmd_from _ _ _ _ _ (by with_unfolding_all decide) (fun _ _ => ?_) ?_
    | simp only [Mems.lit_iff]
    | split
    | dsimp only
    | with_unfolding_all decide

theorem mems_alignPonds (d : Device) : Mems [] d (alignPonds d) := by
  unfold alignPonds
  with_reducible repeat' first
    | exact Mems.refl _ _
    | assumption
    | refine Mems.cond ?_ (fun _ => ?_)
    | simp only [Mems.lit_iff]
    | split
    | dsimp only
    | with_unfolding_all decide

theorem mems_configureParts (d : Device) (config : Nat) (vf : W64) : Mems [] d (configureParts d config vf) := by
  unfold configureParts
  with_reducible repeat' first
    | exact Mems.refl _ _
    | assumption
    | refine Mems.all (fun _ _ => ?_) ?_
    | refine Mems.cond ?_ (fun _ => ?_)
    | apply Mems.step (mems_alignPonds _)
    | apply Mems.step (mems_mapPorts _ _)
    | simp only [Mems.lit_iff]
    | split
    | dsimp only
    | with_unfolding_all decide

theorem mems_configurePartition (d : Device) (h : CmdHdr) (config : Byte) (vf : W64) (pre : Option Nat) : Mems [.host] d (configurePartition d h config vf pre) := by
  unfold configurePartition
  with_reducible repeat' first
    | exact Mems.refl _ _
    | assumption
    | refine Mems.cond ?_ (fun _ => ?_)
    | apply Mems.step (mems_complete _ _ _ _ _ _ _)
    | refine mems_acceptCmd _ _ _ _ _ _ (by with_unfolding_all decide) (fun _ _ => ?_)
    | refine mems_acceptCmd_from _ _ _ _ _ (by with_unfolding_all decide) (fun _ _ => ?_) ?_
    | apply Mems.step (mems_configureParts _ _ _)
    | simp only [Mems.lit_iff]
    | split
    | dsimp only
    | with_unfolding_all decide

theorem mems_setMode (d : Device) (h : CmdHdr) (mode : Byte) (pre : Option Nat) : Mems [.host] d (setMode d h mode pre) := by
  unfold setMode
  with_reducible repeat' first
    | exact Mems.refl _ _
    | assumption
    | refine Mems.cond ?_ (fun _ => ?_)
    | apply Mems.step (mems_modPart _ _ _)
    | apply Mems.step (mems_complete _ _ _ _ _ _ _)
    | refine mems_acceptCmd _ _ _ _ _ _ (by with_unfolding_all decide) (fun _ _ => ?_)
    | refine mems_acceptCmd_from _ _ _ _ _ (by with_unfolding_all decide) (fun _ _ => ?_) ?_
    | simp only [Mems.lit_iff]
    | split
    | dsimp only
    | with_unfolding_all decide

theorem mems_loadProgram (d : Device) (h : CmdHdr) (haddr : W64) (hlen : W32) (pre : Option Nat) : Mems [.host] d (loadProgram d h haddr hlen pre) := by
  unfold loadProgram
  with_reducible repeat' first
    | exact Mems.refl _ _
    | assumption
    | refine Mems.cond ?_ (fun _ => ?_)
    | refine mems_acceptCmd _ _ _ _ _ _ (by with_unfolding_all decide) (fun _ _ => ?_)
    | refine mems_acceptCmd_from _ _ _ _ _ (by with_unfolding_all decide) (fun _ _ => ?_) ?_
    | apply Mems.step (mems_beginLong _ _ _ _ _)
    | apply Mems.step (mems_modDom _ _ _)
    | simp only [Mems.lit_iff]
    | split
    | dsimp only
    | with_unfolding_all decide

theorem mems_noteReadFail (d : Device) (h : CmdHdr) (reads : Bool) (fail : Refused) : Mems [] d (noteReadFail d h reads fail) := by
  unfold noteReadFail
  with_reducible repeat' first
    | exact Mems.refl _ _
    | assumption
    | refine Mems.cond ?_ (fun _ => ?_)
    | refine Mems.condSnd ?_ ?_
    | apply Mems.step (mems_hostAccess _ _ _ _)
    | exact mems_drawFree _
    | refine Mems.snd (by with_reducible assumption) ?_
    | simp only [Mems.lit_iff]
    | split
    | dsimp only
    | with_unfolding_all decide

theorem mems_overlayMark (d : Device) (im : List Byte) (st : PageState) : Mems [] d (overlayMark d im st) := by
  unfold overlayMark
  with_reducible repeat' first
    | exact Mems.refl _ _
    | assumption
    | refine Mems.all (fun _ _ => ?_) ?_
    | refine Mems.cond ?_ (fun _ => ?_)
    | apply Mems.step (mems_modCore _ _ _)
    | simp only [Mems.lit_iff]
    | split
    | dsimp only
    | with_unfolding_all decide

theorem mems_chainOverlay (d : Device) (i : DomId) (im : List Byte) : Mems [] d (chainOverlay d i im) := by
  unfold chainOverlay
  with_reducible repeat' first
    | exact Mems.refl _ _
    | assumption
    | refine Mems.cond ?_ (fun _ => ?_)
    | apply Mems.step (mems_modDom _ _ _)
    | simp only [Mems.lit_iff]
    | split
    | dsimp only
    | with_unfolding_all decide

theorem mems_loadOverlay (d : Device) (h : CmdHdr) (haddr : W64) (hlen : W32) (pre : Option Nat) : Mems [.host] d (loadOverlay d h haddr hlen pre) := by
  unfold loadOverlay
  with_reducible repeat' first
    | exact Mems.refl _ _
    | assumption
    | refine Mems.cond ?_ (fun _ => ?_)
    | apply Mems.step (mems_noteReadFail _ _ _ _)
    | refine mems_acceptCmd _ _ _ _ _ _ (by with_unfolding_all decide) (fun _ _ => ?_)
    | refine mems_acceptCmd_from _ _ _ _ _ (by with_unfolding_all decide) (fun _ _ => ?_) ?_
    | apply Mems.step (mems_modDom _ _ _)
    | apply Mems.step (mems_chainOverlay _ _ _)
    | apply Mems.step (mems_overlayMark _ _ _)
    | apply Mems.step (mems_beginLong _ _ _ _ _)
    | simp only [Mems.lit_iff]
    | split
    | dsimp only
    | with_unfolding_all decide

theorem mems_overlayLoaded (d : Device) (i : DomId) : Mems [.host] d (overlayLoaded d i) := by
  unfold overlayLoaded
  with_reducible repeat' first
    | exact Mems.refl _ _
    | assumption
    | refine Mems.all (fun _ _ => ?_) ?_
    | refine Mems.cond ?_ (fun _ => ?_)
    | refine Mems.optGetD ?_ ?_
    | apply Mems.step (mems_isolateCmd _ _)
    | apply Mems.step (mems_modCore _ _ _)
    | apply Mems.step (mems_modRun _ _ _)
    | apply Mems.step (mems_completeCmd _ _ _ _ _)
    | simp only [Mems.lit_iff]
    | split
    | dsimp only
    | with_unfolding_all decide

theorem mems_loadTensor (d : Device) (h : CmdHdr) (b : LoadTensorBody) (pre : Option Nat) : Mems [.host] d (loadTensor d h b pre) := by
  unfold loadTensor
  with_reducible repeat' first
    | exact Mems.refl _ _
    | assumption
    | refine Mems.cond ?_ (fun _ => ?_)
    | refine mems_acceptCmd _ _ _ _ _ _ (by with_unfolding_all decide) (fun _ _ => ?_)
    | refine mems_acceptCmd_from _ _ _ _ _ (by with_unfolding_all decide) (fun _ _ => ?_) ?_
    | apply Mems.step (mems_beginLong _ _ _ _ _)
    | simp only [Mems.lit_iff]
    | split
    | dsimp only
    | with_unfolding_all decide

theorem mems_hostEvents (d : Device) (p : PartId) (t : Target) (n : Nat) (read : Bool) : Mems [] d (hostEvents d p t n read).2 := by
  unfold hostEvents
  exact Mems.foldSnd (p := (false, d)) (fun a k => mems_tierEvents _ _ _ _ _) (Mems.refl _ _)

theorem mems_hostWrite (d : Device) (p : PartId) (t : Target) (bs : List Byte) : Mems [.scratch, .reservoir, .hbm, .cxl] d (hostWrite d p t bs) := by
  unfold hostWrite
  with_reducible repeat' first
    | exact Mems.refl _ _
    | assumption
    | refine Mems.snd (by with_reducible assumption) ?_
    | refine Mems.cond ?_ (fun _ => ?_)
    | apply Mems.step (mems_writeTarget _ _ _ _)
    | apply Mems.step (mems_storePad _ _ _ _)
    | apply Mems.step (mems_hostEvents _ _ _ _ _)
    | simp only [Mems.lit_iff]
    | split
    | dsimp only
    | with_unfolding_all decide

theorem mems_recordWeight (d : Device) (p : PartId) (a : W64) (n : W32) (bs : List Byte) : Mems [] d (recordWeight d p a n bs) := by
  unfold recordWeight
  with_reducible repeat' first
    | exact Mems.refl _ _
    | assumption
    | refine Mems.cond ?_ (fun _ => ?_)
    | apply Mems.step (mems_modPart _ _ _)
    | simp only [Mems.lit_iff]
    | split
    | dsimp only
    | with_unfolding_all decide

theorem mems_raiseSignal (d : Device) (signal : Bool) (score : BitVec 16) (sflag : Byte) : Mems [] d (raiseSignal d signal score sflag) := by
  unfold raiseSignal
  with_reducible repeat' first
    | exact Mems.refl _ _
    | assumption
    | refine Mems.cond ?_ (fun _ => ?_)
    | apply Mems.step (mems_pendAdd _ _ _ _)
    | simp only [Mems.lit_iff]
    | split
    | dsimp only
    | with_unfolding_all decide

theorem mems_loadSome (d : Device) (c : Cmd) (b : LoadTensorBody) (t : Target) (k : Nat) : Mems [.scratch, .reservoir, .hbm, .cxl] d (loadSome d c b t k) := by
  unfold loadSome
  with_reducible repeat' first
    | exact Mems.refl _ _
    | assumption
    | refine Mems.cond ?_ (fun _ => ?_)
    | apply Mems.step (mems_hostWrite _ _ _ _)
    | apply Mems.step (mems_modCmd _ _ _)
    | simp only [Mems.lit_iff]
    | split
    | dsimp only
    | with_unfolding_all decide

theorem mems_loadTensorDone (d : Device) (handle : W32) (hostOk : Bool) : Mems [.scratch, .reservoir, .hbm, .cxl, .host] d (loadTensorDone d handle hostOk) := by
  unfold loadTensorDone
  with_reducible repeat' first
    | exact Mems.refl _ _
    | assumption
    | refine Mems.cond ?_ (fun _ => ?_)
    | refine Mems.condSnd ?_ ?_
    | apply Mems.step (mems_isolateCmd _ _)
    | apply Mems.step (mems_hostAccess _ _ _ _)
    | apply Mems.step (mems_loadSome _ _ _ _ _)
    | apply Mems.step (mems_recordWeight _ _ _ _ _)
    | apply Mems.step (mems_completeCmd _ _ _ _ _)
    | apply Mems.step (mems_raiseSignal _ _ _ _)
    | apply Mems.step (mems_drawFree _)
    | refine Mems.snd (by with_reducible assumption) ?_
    | simp only [Mems.lit_iff]
    | split
    | dsimp only
    | with_unfolding_all decide

theorem mems_beginRun (d : Device) (i : DomId) (hd : W32) (b : RunBody) : Mems [] d (beginRun d i hd b) := by
  unfold beginRun
  with_reducible repeat' first
    | exact Mems.refl _ _
    | assumption
    | refine Mems.cond ?_ (fun _ => ?_)
    | apply Mems.step (mems_modDom _ _ _)
    | apply Mems.step (mems_runRefresh _ _)
    | simp only [Mems.lit_iff]
    | split
    | dsimp only
    | with_unfolding_all decide

theorem mems_run (d : Device) (h : CmdHdr) (b : RunBody) (pre : Option Nat) : Mems [.host] d (run d h b pre) := by
  unfold run
  with_reducible repeat' first
    | exact Mems.refl _ _
    | assumption
    | refine Mems.cond ?_ (fun _ => ?_)
    | apply Mems.step (mems_noteReadFail _ _ _ _)
    | refine mems_acceptCmd _ _ _ _ _ _ (by with_unfolding_all decide) (fun _ _ => ?_)
    | refine mems_acceptCmd_from _ _ _ _ _ (by with_unfolding_all decide) (fun _ _ => ?_) ?_
    | apply Mems.step (mems_beginLong _ _ _ _ _)
    | apply Mems.step (mems_beginRun _ _ _ _)
    | simp only [Mems.lit_iff]
    | split
    | dsimp only
    | with_unfolding_all decide

theorem mems_halt (d : Device) (h : CmdHdr) (pre : Option Nat) : Mems [.host] d (halt d h pre) := by
  unfold halt
  with_reducible repeat' first
    | exact Mems.refl _ _
    | assumption
    | refine Mems.cond ?_ (fun _ => ?_)
    | refine Mems.optGetD ?_ ?_
    | refine mems_acceptCmd _ _ _ _ _ _ (by with_unfolding_all decide) (fun _ _ => ?_)
    | refine mems_acceptCmd_from _ _ _ _ _ (by with_unfolding_all decide) (fun _ _ => ?_) ?_
    | apply Mems.step (mems_modRun _ _ _)
    | simp only [Mems.lit_iff]
    | split
    | dsimp only
    | with_unfolding_all decide

theorem mems_snapshot (d : Device) (h : CmdHdr) (haddr : W64) (hlen : W32) (bctx : Byte) (pre : Option Nat) : Mems [.host] d (snapshot d h haddr hlen bctx pre) := by
  unfold snapshot
  with_reducible repeat' first
    | exact Mems.refl _ _
    | assumption
    | refine Mems.cond ?_ (fun _ => ?_)
    | refine Mems.optGetD ?_ ?_
    | refine mems_acceptCmd _ _ _ _ _ _ (by with_unfolding_all decide) (fun _ _ => ?_)
    | refine mems_acceptCmd_from _ _ _ _ _ (by with_unfolding_all decide) (fun _ _ => ?_) ?_
    | apply Mems.step (mems_beginLong _ _ _ _ _)
    | apply Mems.step (mems_modCmd _ _ _)
    | simp only [Mems.lit_iff]
    | split
    | dsimp only
    | with_unfolding_all decide

theorem mems_endCopy (d : Device) (i : DomId) : Mems [] d (endCopy d i) := by
  unfold endCopy
  with_reducible repeat' first
    | exact Mems.refl _ _
    | assumption
    | refine Mems.optGetD ?_ ?_
    | refine Mems.cond ?_ (fun _ => ?_)
    | apply Mems.step (mems_modRun _ _ _)
    | simp only [Mems.lit_iff]
    | split
    | dsimp only
    | with_unfolding_all decide

theorem mems_copyDone (d : Device) (i : DomId) (hostOk : Bool) : Mems [.host] d (copyDone d i hostOk) := by
  unfold copyDone
  with_reducible repeat' first
    | exact Mems.refl _ _
    | assumption
    | refine Mems.snd (by with_reducible assumption) ?_
    | refine Mems.cond ?_ (fun _ => ?_)
    | apply Mems.step (mems_writeBytes _ _ _ _)
    | apply Mems.step (mems_completeCmd _ _ _ _ _)
    | apply Mems.step (mems_hostAccess _ _ _ _)
    | apply Mems.step (mems_endCopy _ _)
    | simp only [Mems.lit_iff]
    | split
    | dsimp only
    | with_unfolding_all decide

theorem mems_hostRead (d : Device) (p : PartId) (t : Target) (n : Nat) : Mems [] d (hostRead d p t n).2 := by
  unfold hostRead
  with_reducible repeat' first
    | exact Mems.refl _ _
    | assumption
    | refine Mems.snd (by with_reducible assumption) ?_
    | refine Mems.cond ?_ (fun _ => ?_)
    | apply Mems.step (mems_parityHost _ _ _ _)
    | apply Mems.step (mems_hostEvents _ _ _ _ _)
    | simp only [Mems.lit_iff]
    | split
    | dsimp only
    | with_unfolding_all decide

theorem mems_readSome (d : Device) (c : Cmd) (b : ReadTensorBody) (t : Target) (k : Nat) : Mems [.host] d (readSome d c b t k) := by
  unfold readSome
  with_reducible repeat' first
    | exact Mems.refl _ _
    | assumption
    | refine Mems.cond ?_ (fun _ => ?_)
    | refine Mems.condSnd ?_ ?_
    | apply Mems.step (mems_hostRead _ _ _ _)
    | apply Mems.step (mems_completeCmd _ _ _ _ _)
    | apply Mems.step (mems_modCmd _ _ _)
    | refine Mems.snd (by with_reducible assumption) ?_
    | simp only [Mems.lit_iff]
    | split
    | dsimp only
    | with_unfolding_all decide

theorem mems_readEnd (d : Device) (handle : W32) (b : ReadTensorBody) : Mems [.host] d (readEnd d handle b) := by
  unfold readEnd
  with_reducible repeat' first
    | exact Mems.refl _ _
    | assumption
    | refine Mems.cond ?_ (fun _ => ?_)
    | apply Mems.step (mems_isolateCmd _ _)
    | apply Mems.step (mems_raiseSignal _ _ _ _)
    | apply Mems.step (mems_modCmd _ _ _)
    | simp only [Mems.lit_iff]
    | split
    | dsimp only
    | with_unfolding_all decide

theorem mems_captureRead (d : Device) (c : Cmd) (b : ReadTensorBody) : Mems [.host] d (captureRead d c b) := by
  unfold captureRead
  with_reducible repeat' first
    | exact Mems.refl _ _
    | assumption
    | refine Mems.cond ?_ (fun _ => ?_)
    | apply Mems.step (mems_isolateCmd _ _)
    | apply Mems.step (mems_readEnd _ _ _)
    | apply Mems.step (mems_readSome _ _ _ _ _)
    | simp only [Mems.lit_iff]
    | split
    | dsimp only
    | with_unfolding_all decide

theorem mems_hostGrants (d : Device) (p : PartId) : Mems [.scratch, .reservoir, .hbm, .cxl, .host] d (hostGrants d p) := by
  unfold hostGrants
  with_reducible repeat' first
    | exact Mems.refl _ _
    | assumption
    | refine Mems.all (fun _ _ => ?_) ?_
    | refine Mems.cond ?_ (fun _ => ?_)
    | refine Mems.condSnd ?_ ?_
    | apply Mems.step (mems_drawFree _)
    | apply Mems.step (mems_loadSome _ _ _ _ _)
    | apply Mems.step (mems_readSome _ _ _ _ _)
    | refine Mems.snd (by with_reducible assumption) ?_
    | simp only [Mems.lit_iff]
    | split
    | dsimp only
    | with_unfolding_all decide

theorem mems_readTensor (d : Device) (h : CmdHdr) (b : ReadTensorBody) (pre : Option Nat) : Mems [.host] d (readTensor d h b pre) := by
  unfold readTensor
  with_reducible repeat' first
    | exact Mems.refl _ _
    | assumption
    | refine Mems.cond ?_ (fun _ => ?_)
    | apply Mems.step (mems_modCmd _ _ _)
    | refine mems_acceptCmd _ _ _ _ _ _ (by with_unfolding_all decide) (fun _ _ => ?_)
    | refine mems_acceptCmd_from _ _ _ _ _ (by with_unfolding_all decide) (fun _ _ => ?_) ?_
    | apply Mems.step (mems_beginLong _ _ _ _ _)
    | simp only [Mems.lit_iff]
    | split
    | dsimp only
    | with_unfolding_all decide

theorem mems_readCapture (d : Device) (handle : W32) : Mems [.host] d (readCapture d handle) := by
  unfold readCapture
  with_reducible repeat' first
    | exact Mems.refl _ _
    | assumption
    | refine Mems.cond ?_ (fun _ => ?_)
    | apply Mems.step (mems_isolateCmd _ _)
    | apply Mems.step (mems_modCmd _ _ _)
    | simp only [Mems.lit_iff]
    | split
    | dsimp only
    | with_unfolding_all decide

theorem mems_finishRead (d : Device) (c : Cmd) (b : ReadTensorBody) (hostOk : Bool) : Mems [.host] d (finishRead d c b hostOk) := by
  unfold finishRead
  with_reducible repeat' first
    | exact Mems.refl _ _
    | assumption
    | refine Mems.snd (by with_reducible assumption) ?_
    | refine Mems.cond ?_ (fun _ => ?_)
    | apply Mems.step (mems_writeBytes _ _ _ _)
    | apply Mems.step (mems_completeCmd _ _ _ _ _)
    | apply Mems.step (mems_hostAccess _ _ _ _)
    | simp only [Mems.lit_iff]
    | split
    | dsimp only
    | with_unfolding_all decide

theorem mems_deliverRead (d : Device) (c : Cmd) (b : ReadTensorBody) (hostOk : Bool) : Mems [.host] d (deliverRead d c b hostOk) := by
  unfold deliverRead
  with_reducible repeat' first
    | exact Mems.refl _ _
    | assumption
    | refine Mems.cond ?_ (fun _ => ?_)
    | apply Mems.step (mems_modCmd _ _ _)
    | apply Mems.step (mems_finishRead _ _ _ _)
    | simp only [Mems.lit_iff]
    | split
    | dsimp only
    | with_unfolding_all decide

theorem mems_readDone (d : Device) (handle : W32) (hostOk : Bool) : Mems [.host] d (readDone d handle hostOk) := by
  unfold readDone
  with_reducible repeat' first
    | exact Mems.refl _ _
    | assumption
    | refine Mems.cond ?_ (fun _ => ?_)
    | apply Mems.step (mems_completeCmd _ _ _ _ _)
    | apply Mems.step (mems_captureRead _ _ _)
    | apply Mems.step (mems_deliverRead _ _ _ _)
    | simp only [Mems.lit_iff]
    | split
    | dsimp only
    | with_unfolding_all decide

theorem mems_pacedRelease (d : Device) (i : DomId) : Mems [.host] d (pacedRelease d i) := by
  unfold pacedRelease
  with_reducible repeat' first
    | exact Mems.refl _ _
    | assumption
    | refine Mems.all (fun _ _ => ?_) ?_
    | refine Mems.cond ?_ (fun _ => ?_)
    | apply Mems.step (mems_finishRead _ _ _ _)
    | simp only [Mems.lit_iff]
    | split
    | dsimp only
    | with_unfolding_all decide

theorem mems_issuePennant (d : Device) (h : CmdHdr) (haddr : W64) (hlen : W32) (pre : Option Nat) : Mems [.host] d (issuePennant d h haddr hlen pre) := by
  unfold issuePennant
  with_reducible repeat' first
    | exact Mems.refl _ _
    | assumption
    | refine Mems.optGetD ?_ ?_
    | refine Mems.cond ?_ (fun _ => ?_)
    | apply Mems.step (mems_enqueueSign _ _)
    | refine mems_acceptCmd _ _ _ _ _ _ (by with_unfolding_all decide) (fun _ _ => ?_)
    | refine mems_acceptCmd_from _ _ _ _ _ (by with_unfolding_all decide) (fun _ _ => ?_) ?_
    | apply Mems.step (mems_beginLong _ _ _ _ _)
    | simp only [Mems.lit_iff]
    | split
    | dsimp only
    | with_unfolding_all decide

theorem mems_pennantSigned (d : Device) (hostOk : Bool) : Mems [.host] d (pennantSigned d hostOk) := by
  unfold pennantSigned
  with_reducible repeat' first
    | exact Mems.refl _ _
    | assumption
    | refine Mems.snd (by with_reducible assumption) ?_
    | refine Mems.cond ?_ (fun _ => ?_)
    | apply Mems.step (mems_writeBytes _ _ _ _)
    | apply Mems.step (mems_completeCmd _ _ _ _ _)
    | apply Mems.step (mems_hostAccess _ _ _ _)
    | apply Mems.step (mems_dequeueSign _)
    | simp only [Mems.lit_iff]
    | split
    | dsimp only
    | with_unfolding_all decide

theorem mems_query (d : Device) (h : CmdHdr) (kind : Byte) (haddr : W64) (hlen : W32) (pre : Option Nat) : Mems [.host] d (query d h kind haddr hlen pre) := by
  unfold query
  with_reducible repeat' first
    | exact Mems.refl _ _
    | assumption
    | refine Mems.cond ?_ (fun _ => ?_)
    | refine Mems.condSnd ?_ ?_
    | refine mems_acceptCmd _ _ _ _ _ _ (by with_unfolding_all decide) (fun _ _ => ?_)
    | refine mems_acceptCmd_from _ _ _ _ _ (by with_unfolding_all decide) (fun _ _ => ?_) ?_
    | apply Mems.step (mems_drawFree _)
    | apply Mems.step (mems_hostAccess _ _ _ _)
    | apply Mems.step (mems_complete _ _ _ _ _ _ _)
    | apply Mems.step (mems_writeBytes _ _ _ _)
    | refine Mems.snd (by with_reducible assumption) ?_
    | simp only [Mems.lit_iff]
    | split
    | dsimp only
    | with_unfolding_all decide

theorem mems_injectError (d : Device) (h : CmdHdr) (det unit : BitVec 16) (count : W32) (pre : Option Nat) : Mems [.host] d (injectError d h det unit count pre) := by
  unfold injectError
  with_reducible repeat' first
    | exact Mems.refl _ _
    | assumption
    | refine Mems.cond ?_ (fun _ => ?_)
    | apply Mems.step (mems_complete _ _ _ _ _ _ _)
    | apply Mems.step (mems_armDetector _ _ _ _)
    | refine mems_acceptCmd _ _ _ _ _ _ (by with_unfolding_all decide) (fun _ _ => ?_)
    | refine mems_acceptCmd_from _ _ _ _ _ (by with_unfolding_all decide) (fun _ _ => ?_) ?_
    | simp only [Mems.lit_iff]
    | split
    | dsimp only
    | with_unfolding_all decide

theorem mems_resetLevel (d : Device) (h : CmdHdr) (level : Byte) (unit : BitVec 16) (pre : Option Nat) : Mems [.scratch, .reservoir, .retained, .hbm, .host] d (resetLevel d h level unit pre) := by
  unfold resetLevel
  with_reducible repeat' first
    | exact Mems.refl _ _
    | assumption
    | refine Mems.cond ?_ (fun _ => ?_)
    | refine mems_acceptCmd _ _ _ _ _ _ (by with_unfolding_all decide) (fun _ _ => ?_)
    | refine mems_acceptCmd_from _ _ _ _ _ (by with_unfolding_all decide) (fun _ _ => ?_) ?_
    | apply Mems.step (mems_noteSource _ _)
    | apply Mems.step (mems_beginLong _ _ _ _ _)
    | apply Mems.step (mems_raiseLevel _ _ _ _)
    | apply Mems.step (mems_resetUnit _ _ _)
    | simp only [Mems.lit_iff]
    | split
    | dsimp only
    | with_unfolding_all decide

theorem mems_acceptDesc (d : Device) (ring : Fin 64) (bs : List Byte) : Mems [.scratch, .reservoir, .retained, .hbm, .host] d (acceptDesc d ring bs) := by
  unfold acceptDesc
  with_reducible repeat' first
    | exact Mems.refl _ _
    | assumption
    | refine Mems.optGetD ?_ ?_
    | refine Mems.cond ?_ (fun _ => ?_)
    | refine mems_acceptCmd _ _ _ _ _ _ (by with_unfolding_all decide) (fun _ _ => ?_)
    | refine mems_acceptCmd_from _ _ _ _ _ (by with_unfolding_all decide) (fun _ _ => ?_) ?_
    | apply Mems.step (mems_attach _ _ _ _)
    | apply Mems.step (mems_configurePartition _ _ _ _ _)
    | apply Mems.step (mems_setMode _ _ _ _)
    | apply Mems.step (mems_loadProgram _ _ _ _ _)
    | apply Mems.step (mems_loadOverlay _ _ _ _ _)
    | apply Mems.step (mems_loadTensor _ _ _ _)
    | apply Mems.step (mems_run _ _ _ _)
    | apply Mems.step (mems_halt _ _ _)
    | apply Mems.step (mems_snapshot _ _ _ _ _ _)
    | apply Mems.step (mems_readTensor _ _ _ _)
    | apply Mems.step (mems_issuePennant _ _ _ _ _)
    | apply Mems.step (mems_query _ _ _ _ _ _)
    | apply Mems.step (mems_injectError _ _ _ _ _ _)
    | apply Mems.step (mems_resetLevel _ _ _ _ _)
    | simp only [Mems.lit_iff]
    | split
    | dsimp only
    | with_unfolding_all decide

theorem mems_descriptorFetch (d : Device) (ok : Bool) : Mems [.scratch, .reservoir, .retained, .hbm, .host] d (descriptorFetch d ok) := by
  unfold descriptorFetch
  with_reducible repeat' first
    | exact Mems.refl _ _
    | assumption
    | refine Mems.snd (by with_reducible assumption) ?_
    | refine Mems.cond ?_ (fun _ => ?_)
    | apply Mems.step (mems_drawFree _)
    | apply Mems.step (mems_complete _ _ _ _ _ _ _)
    | apply Mems.step (mems_hostAccess _ _ _ _)
    | apply Mems.step (mems_fetchDesc _ _)
    | apply Mems.step (mems_acceptDesc _ _ _)
    | simp only [Mems.lit_iff]
    | split
    | dsimp only
    | with_unfolding_all decide

/-! ### RegWrite -/

theorem mems_stopRing (d : Device) (i : Fin 64) : Mems [] d (stopRing d i) := by
  unfold stopRing
  with_reducible repeat' first
    | exact Mems.refl _ _
    | assumption
    | refine Mems.cond ?_ (fun _ => ?_)
    | apply Mems.step (mems_modRing _ _ _)
    | apply Mems.step (mems_detectAt _ _)
    | simp only [Mems.lit_iff]
    | split
    | dsimp only
    | with_unfolding_all decide

theorem mems_cmdTail (d : Device) (f : FnId) (i : Fin 64) (v : W32) : Mems [] d (cmdTail d f i v) := by
  unfold cmdTail
  with_reducible repeat' first
    | exact Mems.refl _ _
    | assumption
    | refine Mems.cond ?_ (fun _ => ?_)
    | apply Mems.step (mems_modRing _ _ _)
    | apply Mems.step (mems_stopRing _ _)
    | simp only [Mems.lit_iff]
    | split
    | dsimp only
    | with_unfolding_all decide

theorem mems_cplHead (d : Device) (f : FnId) (i : Fin 64) (v : W32) : Mems [.host] d (cplHead d f i v) := by
  unfold cplHead
  with_reducible repeat' first
    | exact Mems.refl _ _
    | assumption
    | refine Mems.cond ?_ (fun _ => ?_)
    | apply Mems.step (mems_modRing _ _ _)
    | apply Mems.step (mems_ringMessage _ _)
    | apply Mems.step (mems_drainHeld _ _ _)
    | apply Mems.step (mems_stopRing _ _)
    | simp only [Mems.lit_iff]
    | split
    | dsimp only
    | with_unfolding_all decide

theorem mems_msixUnmask (d : Device) (f : FnId) (vector : Option (Fin 64)) : Mems [.host] d (msixUnmask d f vector) := by
  unfold msixUnmask
  with_reducible repeat' first
    | exact Mems.refl _ _
    | assumption
    | refine Mems.all (fun _ _ => ?_) ?_
    | refine Mems.cond ?_ (fun _ => ?_)
    | apply Mems.step (mems_flushMsix _ _ _)
    | simp only [Mems.lit_iff]
    | split
    | dsimp only
    | with_unfolding_all decide

theorem mems_disableRing (d : Device) (i : Fin 64) : Mems [] d (disableRing d i) := by
  unfold disableRing
  with_reducible repeat' first
    | exact Mems.refl _ _
    | assumption
    | refine Mems.cond ?_ (fun _ => ?_)
    | apply Mems.step (mems_modRing _ _ _)
    | simp only [Mems.lit_iff]
    | split
    | dsimp only
    | with_unfolding_all decide

theorem mems_ringCfg (d : Device) (i : Fin 64) (v : W64) : Mems [] d (ringCfg d i v) := by
  unfold ringCfg
  with_reducible repeat' first
    | exact Mems.refl _ _
    | assumption
    | refine Mems.cond ?_ (fun _ => ?_)
    | apply Mems.step (mems_disableRing _ _)
    | apply Mems.step (mems_modRing _ _ _)
    | apply Mems.step (mems_noteSet _ _)
    | simp only [Mems.lit_iff]
    | split
    | dsimp only
    | with_unfolding_all decide

theorem mems_writeRing (d : Device) (i : Fin 64) (o : Nat) (m v : W64) : Mems [] d (writeRing d i o m v) := by
  unfold writeRing
  with_reducible repeat' first
    | exact Mems.refl _ _
    | assumption
    | refine Mems.cond ?_ (fun _ => ?_)
    | apply Mems.step (mems_modRing _ _ _)
    | apply Mems.step (mems_ringCfg _ _ _)
    | simp only [Mems.lit_iff]
    | split
    | dsimp only
    | with_unfolding_all decide

theorem mems_writeMsix (d : Device) (f : FnId) (o : Nat) (m v : W64) : Mems [.host] d (writeMsix d f o m v) := by
  unfold writeMsix
  with_reducible repeat' first
    | exact Mems.refl _ _
    | assumption
    | refine Mems.cond ?_ (fun _ => ?_)
    | apply Mems.step (mems_flushMsix _ _ _)
    | simp only [Mems.lit_iff]
    | split
    | dsimp only
    | with_unfolding_all decide

theorem mems_writeReset (d : Device) (o : Nat) (m v : W64) : Mems [.retained] d (writeReset d o m v) := by
  unfold writeReset
  with_reducible repeat' first
    | exact Mems.refl _ _
    | assumption
    | refine Mems.cond ?_ (fun _ => ?_)
    | apply Mems.step (mems_writeBytes _ _ _ _)
    | apply Mems.step (mems_bootGo _ _)
    | simp only [Mems.lit_iff]
    | split
    | dsimp only
    | with_unfolding_all decide

theorem mems_writePower (d : Device) (o : Nat) (m v : W64) : Mems [] d (writePower d o m v) := by
  unfold writePower
  with_reducible repeat' first
    | exact Mems.refl _ _
    | assumption
    | refine Mems.cond ?_ (fun _ => ?_)
    | apply Mems.step (mems_writePwrCtrl _ _)
    | simp only [Mems.lit_iff]
    | split
    | dsimp only
    | with_unfolding_all decide

theorem mems_writeClock (d : Device) (o : Nat) (v : W64) : Mems [] d (writeClock d o v) := by
  unfold writeClock
  with_reducible repeat' first
    | exact Mems.refl _ _
    | assumption
    | refine Mems.cond ?_ (fun _ => ?_)
    | apply Mems.step (mems_modPond _ _ _)
    | apply Mems.step (mems_timeSet _ _)
    | simp only [Mems.lit_iff]
    | split
    | dsimp only
    | with_unfolding_all decide

theorem mems_writeSecurity (d : Device) (o : Nat) (m v : W64) : Mems [] d (writeSecurity d o m v) := by
  unfold writeSecurity
  with_reducible repeat' first
    | exact Mems.refl _ _
    | assumption
    | refine Mems.cond ?_ (fun _ => ?_)
    | apply Mems.step (mems_revokeSlots _ _)
    | apply Mems.step (mems_svnCommit _)
    | apply Mems.step (mems_attestGo _ _)
    | apply Mems.step (mems_submitToken _ _ _)
    | simp only [Mems.lit_iff]
    | split
    | dsimp only
    | with_unfolding_all decide

theorem mems_writeErrors (d : Device) (o : Nat) (m v : W64) : Mems [] d (writeErrors d o m v) := by
  unfold writeErrors
  with_reducible repeat' first
    | exact Mems.refl _ _
    | assumption
    | refine Mems.cond ?_ (fun _ => ?_)
    | apply Mems.step (mems_errHeadWrite _ _)
    | simp only [Mems.lit_iff]
    | split
    | dsimp only
    | with_unfolding_all decide

theorem mems_writeFabric (d : Device) (o : Nat) (m v : W64) : Mems [] d (writeFabric d o m v) := by
  unfold writeFabric
  with_reducible repeat' first
    | exact Mems.refl _ _
    | assumption
    | refine Mems.cond ?_ (fun _ => ?_)
    | apply Mems.step (mems_fabCtrlWrite _ _)
    | simp only [Mems.lit_iff]
    | split
    | dsimp only
    | with_unfolding_all decide

theorem mems_writeCollective (d : Device) (o : Nat) (v : W64) : Mems [] d (writeCollective d o v) := by
  unfold writeCollective
  with_reducible repeat' first
    | exact Mems.refl _ _
    | assumption
    | refine Mems.cond ?_ (fun _ => ?_)
    | apply Mems.step (mems_modPart _ _ _)
    | simp only [Mems.lit_iff]
    | split
    | dsimp only
    | with_unfolding_all decide

theorem mems_writeWindow (d : Device) (c : CoreId) (o : Nat) (m v : W64) : Mems [.scratch] d (writeWindow d c o m v) := by
  unfold writeWindow
  with_reducible repeat' first
    | exact Mems.refl _ _
    | assumption
    | refine Mems.cond ?_ (fun _ => ?_)
    | apply Mems.step (mems_modCore _ _ _)
    | apply Mems.step (mems_bankOffWrite _ _ _)
    | simp only [Mems.lit_iff]
    | split
    | dsimp only
    | with_unfolding_all decide

theorem mems_pfWrite (d : Device) (o : Nat) (m v : W64) : Mems [.scratch, .retained, .host] d (pfWrite d o m v) := by
  unfold pfWrite
  with_reducible repeat' first
    | exact Mems.refl _ _
    | assumption
    | refine Mems.cond ?_ (fun _ => ?_)
    | apply Mems.step (mems_writeRing _ _ _ _ _)
    | apply Mems.step (mems_writeMsix _ _ _ _ _)
    | apply Mems.step (mems_writeReset _ _ _ _)
    | apply Mems.step (mems_writePower _ _ _ _)
    | apply Mems.step (mems_writeClock _ _ _)
    | apply Mems.step (mems_writeSecurity _ _ _ _)
    | apply Mems.step (mems_writeErrors _ _ _ _)
    | apply Mems.step (mems_writeFabric _ _ _ _)
    | apply Mems.step (mems_writeCollective _ _ _)
    | apply Mems.step (mems_writeWindow _ _ _ _ _)
    | simp only [Mems.lit_iff]
    | split
    | dsimp only
    | with_unfolding_all decide

theorem mems_fnWrite (d : Device) (f : FnId) (o : Nat) (m v : W64) : Mems [.scratch, .retained, .host] d (fnWrite d f o m v) := by
  unfold fnWrite
  with_reducible repeat' first
    | exact Mems.refl _ _
    | assumption
    | refine Mems.cond ?_ (fun _ => ?_)
    | apply Mems.step (mems_writeMsix _ _ _ _ _)
    | apply Mems.step (mems_pfWrite _ _ _ _)
    | simp only [Mems.lit_iff]
    | split
    | dsimp only
    | with_unfolding_all decide

theorem mems_registerWrite (d : Device) (f : FnId) (o size : Nat) (value : W64) : Mems [.scratch, .retained, .host] d (registerWrite d f o size value) := by
  unfold registerWrite
  with_reducible repeat' first
    | exact Mems.refl _ _
    | assumption
    | refine Mems.cond ?_ (fun _ => ?_)
    | apply Mems.step (mems_fnWrite _ _ _ _ _)
    | simp only [Mems.lit_iff]
    | split
    | dsimp only
    | with_unfolding_all decide

/-! ### Idle -/

theorem mems_asExecuting (d : Device) (i : DomId) : Mems [] d (asExecuting d i) := by
  unfold asExecuting
  with_reducible repeat' first
    | exact Mems.refl _ _
    | assumption
    | refine Mems.cond ?_ (fun _ => ?_)
    | apply Mems.step (mems_modRun _ _ _)
    | simp only [Mems.lit_iff]
    | split
    | dsimp only
    | with_unfolding_all decide

theorem mems_openWindows (d : Device) (i : DomId) : Mems [] d (openWindows d i) := by
  unfold openWindows
  with_reducible repeat' first
    | exact Mems.refl _ _
    | assumption
    | refine Mems.all (fun _ _ => ?_) ?_
    | refine Mems.optGetD ?_ ?_
    | refine Mems.cond ?_ (fun _ => ?_)
    | apply Mems.step (mems_modRun _ _ _)
    | apply Mems.step (mems_openWindow _ _ _ _)
    | simp only [Mems.lit_iff]
    | split
    | dsimp only
    | with_unfolding_all decide

theorem mems_beginTick (d : Device) (i : DomId) : Mems [] d (beginTick d i) := by
  unfold beginTick
  with_reducible repeat' first
    | exact Mems.refl _ _
    | assumption
    | refine Mems.all (fun _ _ => ?_) ?_
    | refine Mems.cond ?_ (fun _ => ?_)
    | refine Mems.optGetD ?_ ?_
    | apply Mems.step (mems_openWindows _ _)
    | apply Mems.step (mems_startPorts _ _)
    | apply Mems.step (mems_modRun _ _ _)
    | simp only [Mems.lit_iff]
    | split
    | dsimp only
    | with_unfolding_all decide

theorem mems_itemCheck (d : Device) (i : DomId) : Mems [] d (itemCheck d i) := by
  unfold itemCheck
  split
  · exact Mems.refl _ _
  · split
    · exact Mems.refl _ _
    · split
      · exact Mems.optGetD (mems_takeHalts _ _) (Mems.refl _ _)
      · split
        · exact Mems.refl _ _
        · exact mems_beginTick _ _

theorem mems_stallRelease (d : Device) (i : DomId) : Mems [] d (stallRelease d i) := by
  unfold stallRelease
  with_reducible repeat' first
    | exact Mems.refl _ _
    | assumption
    | refine Mems.cond ?_ (fun _ => ?_)
    | refine Mems.optGetD ?_ ?_
    | apply Mems.step (mems_beginTick _ _)
    | simp only [Mems.lit_iff]
    | split
    | dsimp only
    | with_unfolding_all decide

theorem mems_resendArrival (d : Device) (c : CtxId) (ok : Bool) : Mems [] d (resendArrival d c ok) := by
  unfold resendArrival
  with_reducible repeat' first
    | exact Mems.refl _ _
    | assumption
    | refine Mems.cond ?_ (fun _ => ?_)
    | apply Mems.step (mems_resendArrives _ _ _)
    | apply Mems.step (mems_stallRelease _ _)
    | simp only [Mems.lit_iff]
    | split
    | dsimp only
    | with_unfolding_all decide

theorem mems_takeCredits : (l : List VarItem) → (owed : List (CtxId × Byte)) → (d : Device) → (p : Nat) → Mems [] d (takeCredits l owed d p).2
  | [], _, d, _ => Mems.refl _ d
  | x :: rest, owed, d, p => by
    unfold takeCredits
    split
    · split
      · exact mems_takeCredits rest owed d p
      · split
        · exact Mems.step (mems_takeCredits rest owed _ p) (by decide) (mems_modCredit _ _ _ _)
        · exact mems_takeCredits rest _ d p
    · exact mems_takeCredits rest owed d p

theorem mems_settleConditions (d : Device) (i : DomId) : Mems [] d (settleConditions d i) := by
  unfold settleConditions
  with_reducible repeat' first
    | exact Mems.refl _ _
    | assumption
    | refine Mems.cond ?_ (fun _ => ?_)
    | refine Mems.condSnd ?_ ?_
    | refine Mems.optGetD ?_ ?_
    | apply Mems.step (mems_takeCredits _ _ _ _)
    | apply Mems.step (mems_modRun _ _ _)
    | refine Mems.snd (by with_reducible assumption) ?_
    | simp only [Mems.lit_iff]
    | split
    | dsimp only
    | with_unfolding_all decide

theorem mems_useItems (d : Device) (i : DomId) : Mems [] d (useItems d i) := by
  unfold useItems
  with_reducible repeat' first
    | exact Mems.refl _ _
    | assumption
    | refine Mems.all (fun _ _ => ?_) ?_
    | refine Mems.cond ?_ (fun _ => ?_)
    | refine Mems.optGetD ?_ ?_
    | apply Mems.step (mems_pendFlag _ _ _)
    | apply Mems.step (mems_fabLeave _ _ _ _ _)
    | apply Mems.step (mems_modRun _ _ _)
    | simp only [Mems.lit_iff]
    | split
    | dsimp only
    | with_unfolding_all decide

theorem mems_settleCaptures (d : Device) (i : DomId) (t : Nat) : Mems [] d (settleCaptures d i t) := by
  unfold settleCaptures
  with_reducible repeat' first
    | exact Mems.refl _ _
    | assumption
    | refine Mems.all (fun _ _ => ?_) ?_
    | refine Mems.cond ?_ (fun _ => ?_)
    | apply Mems.step (mems_modRun _ _ _)
    | apply Mems.step (mems_modCmd _ _ _)
    | simp only [Mems.lit_iff]
    | split
    | dsimp only
    | with_unfolding_all decide

theorem mems_endCtx (d : Device) (c : CtxId) : Mems [] d (endCtx d c) := by
  unfold endCtx
  with_reducible repeat' first
    | exact Mems.refl _ _
    | assumption
    | refine Mems.cond ?_ (fun _ => ?_)
    | apply Mems.step (mems_modUnit _ _ _)
    | apply Mems.step (mems_freeAcked _ _)
    | apply Mems.step (mems_matrixEnd _ _)
    | apply Mems.step (mems_vectorEnd _ _)
    | simp only [Mems.lit_iff]
    | split
    | dsimp only
    | with_unfolding_all decide

theorem mems_endTick (d : Device) (i : DomId) : Mems [] d (endTick d i) := by
  unfold endTick
  with_reducible repeat' first
    | exact Mems.refl _ _
    | assumption
    | refine Mems.all (fun _ _ => ?_) ?_
    | refine Mems.optGetD ?_ ?_
    | refine Mems.cond ?_ (fun _ => ?_)
    | apply Mems.step (mems_useItems _ _)
    | apply Mems.step (mems_endCtx _ _)
    | simp only [Mems.lit_iff]
    | split
    | dsimp only
    | with_unfolding_all decide

theorem mems_countStall (d : Device) (i : DomId) : Mems [] d (countStall d i) := by
  unfold countStall
  with_reducible repeat' first
    | exact Mems.refl _ _
    | assumption
    | refine Mems.cond ?_ (fun _ => ?_)
    | apply Mems.step (mems_modRun _ _ _)
    | simp only [Mems.lit_iff]
    | split
    | dsimp only
    | with_unfolding_all decide

theorem mems_nextPeriod (d : Device) (i : DomId) : Mems [] d (nextPeriod d i) := by
  unfold nextPeriod
  with_reducible repeat' first
    | exact Mems.refl _ _
    | assumption
    | refine Mems.all (fun _ _ => ?_) ?_
    | refine Mems.cond ?_ (fun _ => ?_)
    | refine Mems.optGetD ?_ ?_
    | apply Mems.step (mems_countStall _ _)
    | apply Mems.step (mems_modRun _ _ _)
    | apply Mems.step (mems_noteLedger _ _)
    | apply Mems.step (mems_beginTick _ _)
    | apply Mems.step (mems_checksFall _ _)
    | apply Mems.step (mems_checkStream _ _ _)
    | apply Mems.step (mems_holdEnd _ _)
    | simp only [Mems.lit_iff]
    | split
    | dsimp only
    | with_unfolding_all decide

theorem mems_haltHere (d : Device) : Mems.opt [] d (haltHere d) := by
  unfold haltHere
  refine Mems.optFindSome fun i => Mems.optFindSome fun c => ?_
  split
  · exact Mems.optNone _ _
  · exact mems_takeHalts _ _

theorem mems_clearBanks (d : Device) (p : PartId) : Mems [] d (clearBanks d p) := by
  unfold clearBanks
  with_reducible repeat' first
    | exact Mems.refl _ _
    | assumption
    | refine Mems.all (fun _ _ => ?_) ?_
    | refine Mems.cond ?_ (fun _ => ?_)
    | apply Mems.step (mems_modCore _ _ _)
    | simp only [Mems.lit_iff]
    | split
    | dsimp only
    | with_unfolding_all decide

theorem mems_markReached (d : Device) (p : PartId) : Mems [] d (markReached d p) := by
  unfold markReached
  with_reducible repeat' first
    | exact Mems.refl _ _
    | assumption
    | refine Mems.all (fun _ _ => ?_) ?_
    | refine Mems.cond ?_ (fun _ => ?_)
    | apply Mems.step (mems_modUnit _ _ _)
    | simp only [Mems.lit_iff]
    | split
    | dsimp only
    | with_unfolding_all decide

theorem mems_partPeriod (d : Device) (p : PartId) : Mems [.scratch, .reservoir, .hbm, .cxl, .host] d (partPeriod d p) := by
  unfold partPeriod
  with_reducible repeat' first
    | exact Mems.refl _ _
    | assumption
    | refine Mems.all (fun _ _ => ?_) ?_
    | refine Mems.cond ?_ (fun _ => ?_)
    | refine Mems.optGetD ?_ ?_
    | apply Mems.step (mems_stretchesEnd _ _)
    | apply Mems.step (mems_passTime _ _)
    | apply Mems.step (mems_modPart _ _ _)
    | apply Mems.step (mems_deliverWaiting _ _)
    | apply Mems.step (mems_armedFlits _)
    | apply Mems.step (mems_endTick _ _)
    | apply Mems.step (mems_flagsEnd _ _)
    | apply Mems.step (mems_modCore _ _ _)
    | apply Mems.step (mems_haltAnswer _ _)
    | apply Mems.step (mems_settleConditions _ _)
    | apply Mems.step (mems_settleCaptures _ _ _)
    | apply Mems.step (mems_clearBanks _ _)
    | apply Mems.step (mems_hostGrants _ _)
    | apply Mems.step (mems_settleRefresh _)
    | apply Mems.step (mems_collRun _ _)
    | apply Mems.step (mems_markReached _ _)
    | apply Mems.step (mems_nextPeriod _ _)
    | simp only [Mems.lit_iff]
    | split
    | dsimp only
    | with_unfolding_all decide

theorem mems_passPeriod (d : Device) : Mems [.scratch, .reservoir, .hbm, .cxl, .host] d (passPeriod d) := by
  unfold passPeriod
  with_reducible repeat' first
    | exact Mems.refl _ _
    | assumption
    | refine Mems.cond ?_ (fun _ => ?_)
    | refine Mems.ofOpt (by with_reducible assumption) (mems_haltHere _) (by with_unfolding_all decide) ?_
    | apply Mems.step (mems_partPeriod _ _)
    | apply Mems.step (mems_settleRefresh _)
    | apply Mems.step (mems_passTime _ _)
    | simp only [Mems.lit_iff]
    | split
    | dsimp only
    | with_unfolding_all decide

end Sys2Proof.Machine
end

