-- ==== Sys2Proof/Tests/Slice0.lean ====
section
/-! SUPPORT. Tests: the commands that WellFormed refuses, and for each statement with hypotheses concrete states and
operands that meet them, clause by clause. A state is that of reset with the named fields changed. -/

open Sys2Proof Sys2Proof.Machine Sys2Proof.Claims

set_option Elab.async false

namespace Sys2Proof.Tests

/-- The reset state with its device changed. -/
def onReset (f : Device → Device) : State := { State.reset with dev := f State.reset.dev }

/-- The reset state with Voath running and READY. -/
def ready (f : Device → Device) : State := onReset fun d => f { d with rb := { d.rb with boot := .ready, step := 5 } }

def withRb (f : ResetBlock → ResetBlock) : State := onReset fun d => { d with rb := f d.rb }
def withSec (f : Security → Security) : State := onReset fun d => { d with sec := f d.sec }

/-! ### WellFormed -/

/-- Readings that carry one value for each pond, but for the currents. -/
def reading (n : Nat) : PowerReading :=
  { pkgW := 0, meanMs := 0, current := List.replicate n 0, volt := List.replicate 32 0, margin := List.replicate 32 .good, fast := 0 }

/-- A sample without its last sensor, a reading without its last pond, and an offset off the 8-byte grid are refused. -/
theorem test_illFormed_refused :
    Instr.wellFormed (.thermalSample (List.replicate 59 0)) = false ∧ Instr.wellFormed (.powerDecision (reading 31)) = false ∧
    Instr.wellFormed (.powerDecision { reading 32 with volt := [] }) = false ∧
    Instr.wellFormed (.powerDecision { reading 32 with margin := [] }) = false ∧ Instr.wellFormed (.smbSetOffset 4) = false := by decide

/-- The same commands with every value are well formed, and so is a command without a check. -/
theorem test_wellFormed_accepted :
    Instr.wellFormed (.thermalSample (List.replicate 60 0)) = true ∧ Instr.wellFormed (.powerDecision (reading 32)) = true ∧
    Instr.wellFormed (.smbSetOffset 8) = true ∧ Instr.wellFormed .smbRead = true := by decide

/-- No word spells a command. -/
theorem test_noWord_decodes : decodeTableWord 32 0x10000000 = none := rfl

/-! ### Cores other than core 0 -/

/-- Every core but core 0 is as after reset. -/
def Quiet (d : Device) : Prop := ∀ k, k ≠ 0 → getCore d k = Core.reset

theorem vget_replicate {α : Type} {n : Nat} (x : α) (i : Fin n) : vget (Vector.replicate n x) i = x := by simp [vget]

theorem quiet_reset (d : Device) (h : d.cores = Vector.replicate 512 Core.reset) : Quiet d := fun k _ => by rw [getCore, h, vget_replicate]

theorem quiet_vmod (d e : Device) (f : Core → Core) (h : Quiet d) (he : e.cores = vmod d.cores 0 f) : Quiet e := fun k hk => by
  rw [getCore, he, vget_vmod_other _ _ _ _ (Ne.symm hk)]
  exact h k hk

/-- What holds of core 0 and of a core after reset holds of every core. -/
theorem Quiet.every {d : Device} (h : Quiet d) {p : Core → Prop} (h0 : p (getCore d 0)) (hr : p Core.reset) (k : CoreId) : p (getCore d k) := by
  by_cases hk : k = 0
  · rw [hk]
    exact h0
  · rw [h k hk]
    exact hr

/-- No unit of any core holds an access that has read its target. -/
theorem heldBanks_none {d : Device} (h : Quiet d) (h0 : ∀ x : Fin 2, ((getUnit d ⟨0, x⟩).flights.all fun f => !f.arrived) = true) (t : CtxId)
    (ha : ((getUnit d t).adds.all fun a => a.readAt.isNone) = true) (n off : Nat) : heldBanks d t n off = false := by
  have hall : ∀ k x, ∀ f ∈ (vget (getCore d k).units x).flights, f.arrived = false := by
    refine h.every (p := fun k => ∀ x, ∀ f ∈ (vget k.units x).flights, f.arrived = false) (fun x f hf => ?_) (by decide +kernel)
    simpa using List.all_eq_true.mp (h0 x) f hf
  have hadds : ((getUnit d t).adds.any fun a => a.readAt.isSome && padBanks d t a.off 64 &&& padBanks d t off n != 0) = false := by
    refine List.any_eq_false.mpr fun a h => ?_
    simp [Option.isNone_iff_eq_none.mp (List.all_eq_true.mp ha a h)]
  simp only [heldBanks, hadds, Bool.false_or, List.any_eq_false, accToward]
  intro k _ hx
  obtain ⟨x, _, hx⟩ := List.any_eq_true.mp hx
  obtain ⟨f, hf, hx⟩ := List.any_eq_true.mp hx
  simp [hall k x f hf] at hx

/-- An access that is alone in transport is the first at its target. -/
theorem firstAt_alone {d : Device} {c : CtxId} {f : Flight} (h : Quiet d)
    (h0 : ∀ x : Fin 2, ((getUnit d ⟨0, x⟩).flights.all fun g => ((⟨0, x⟩ : CtxId) = c && g.uid = f.uid)) = true) {t : CtxId}
    (ha : (getUnit d t).adds = []) : firstAt d c f t = true := by
  have hall : ∀ (k : CoreId) (x : Fin 2), ∀ g ∈ (getUnit d ⟨k, x⟩).flights, (⟨k, x⟩ : CtxId) = c ∧ g.uid = f.uid := by
    intro k x g hg
    by_cases hk : k = 0
    · subst hk
      simpa using List.all_eq_true.mp (h0 x) g hg
    · have hn : (getUnit d ⟨k, x⟩).flights = [] := by
        rw [getUnit, h k hk]
        exact (by decide +kernel : ∀ x : Fin 2, (vget Core.reset.units x).flights = []) x
      rw [hn] at hg
      cases hg
  simp only [firstAt, ha, List.all_nil, Bool.and_true, List.all_eq_true]
  intro k _ x _ g hg
  simp [hall k x g hg]

/-- With nothing in transport, the oldest unit from outside for an anchor buffer can be read. -/
theorem addDue_alone {d : Device} {t : CtxId} {a : InAdd} (h : Quiet d) (h0 : ∀ x : Fin 2, (getUnit d ⟨0, x⟩).flights = [])
    (ha : (getUnit d t).adds = [a]) (hr : (match a.readAt with | some p => decide (p < corePeriod d t.core) | none => true) = true)
    (hp : (portsDone d t && !(getUnit d t).remServed && banksFree d t (padBanks d t a.off 64)) = true) : addDue d t = true := by
  have hall : ∀ k, ∀ x : Fin 2, (vget (getCore d k).units x).flights = [] :=
    h.every (p := fun k => ∀ x : Fin 2, (vget k.units x).flights = []) h0 (by decide +kernel)
  simp only [Bool.and_eq_true] at hp
  cases hn : a.readAt with
  | none =>
    have hb : heldBanks d t 64 a.off = false := heldBanks_none h (fun x => by rw [h0 x]; rfl) t (by rw [ha]; simp [hn]) 64 a.off
    simp [addDue, ha, hn, hb, hall, hp]
  | some p =>
    rw [hn] at hr
    simp only [decide_eq_true_eq] at hr
    simp [addDue, ha, hn, hr, hall, hp]

/-- A message that is alone in transport is the first to its core. -/
theorem messageTurn_alone {d : Device} {c : CtxId} {f : Flight} (h : Quiet d)
    (h0 : ∀ x : Fin 2, ((getUnit d ⟨0, x⟩).flights.all fun g => ((⟨0, x⟩ : CtxId) = c && g = f)) = true)
    (hr : readsDue d (ctxOfScore f.req.addr.toNat) = false) : messageTurn d c f = true := by
  simp only [messageTurn, hr, Bool.not_false, Bool.true_and, List.all_eq_true, Bool.or_eq_true]
  refine fun k _ x _ => .inr fun g hg => ?_
  by_cases hk : k = 0
  · subst hk
    obtain ⟨rfl, rfl⟩ : (⟨0, x⟩ : CtxId) = c ∧ g = f := by simpa using List.all_eq_true.mp (h0 x) g hg
    simp
  · have hn : (getUnit d ⟨k, x⟩).flights = [] := by
      rw [getUnit, h k hk]
      exact (by decide +kernel : ∀ x : Fin 2, (vget Core.reset.units x).flights = []) x
    rw [hn] at hg
    cases hg

theorem accessDue_of {d : Device} {c t : CtxId} {f : Flight} {off : Nat} (hk : (∃ a b, f.req.kind = .load a b) ∨ ∃ v, f.req.kind = .store v)
    (hp : padTarget d c f = some (t, off)) (hb : heldBanks d t f.req.bytes off = false)
    (h : (f.subs.isEmpty && !f.arrived && mayAct d c f (accessTick d c f) && !behind d c f && portsDone d t && !(getUnit d t).remServed &&
      banksFree d t (padBanks d t (off + tickBytes d t f.req.bytes * f.halves) (tickBytes d t f.req.bytes))) = true) (hf : firstAt d c f t = true) :
    accessDue d c f = true := by
  simp only [Bool.and_eq_true, Bool.not_eq_true'] at h
  obtain ⟨a, b, hk⟩ | ⟨v, hk⟩ := hk <;> simp [accessDue, accessReady, hk, hp, remoteBanks, hb, h, hf]

/-- What an accumulate's read and write-back need beside the order of arrivals. -/
def accReads (d : Device) (c t : CtxId) (f : Flight) (off : Nat) : Bool :=
  !f.arrived && !f.req.predOff && f.error.isNone && mayAct d c f (accessTick d c f) && unitsRead d c f && !behind d c f &&
    !(getCore d t.core).inReset && portsDone d t && !(getUnit d t).remServed &&
    banksFree d t (padBanks d t (off + tickBytes d t f.req.bytes * f.halves) (tickBytes d t f.req.bytes))
def accWrites (d : Device) (c t : CtxId) (f : Flight) (off : Nat) : Bool :=
  f.arrived && f.error.isNone && mayAct d c f (accessTick d c f) && unitsRead d c f && !(getCore d t.core).inReset && writeBack d c f &&
    portsDone d t && !(getUnit d t).remServed &&
    banksFree d t (padBanks d t (off + tickBytes d t f.req.bytes * f.halves) (tickBytes d t f.req.bytes))

theorem accDue_of {d : Device} {c t : CtxId} {f : Flight} {off : Nat} (hp : padTarget d c f = some (t, off)) (hb : heldBanks d t f.req.bytes off = false)
    (h : accReads d c t f off = true) (hf : firstAt d c f t = true) : accDue d c f = true := by
  simp only [accReads, Bool.and_eq_true, Bool.not_eq_true'] at h
  simp [accDue, hp, remoteBanks, hb, h, hf]

theorem accDue_arrived {d : Device} {c t : CtxId} {f : Flight} {off : Nat} (hp : padTarget d c f = some (t, off))
    (h : accWrites d c t f off = true) (hf : firstAt d c f t = true) : accDue d c f = true := by
  simp only [accWrites, Bool.and_eq_true, Bool.not_eq_true'] at h
  simp [accDue, hp, h, hf]

/-- With nothing in transport, the writes that a bank awaits are the local stores and the stream port's writes toward it. -/
theorem bankWrites_of {d : Device} (h : ∀ k, ∀ x : Fin 2, (vget (getCore d k).units x).flights = []) (k : CoreId) (b : Fin 32) (n : Nat)
    (ha : ∀ x : Fin 2, (vget (getCore d k).units x).adds = []) :
    bankWrites d k b n = ((List.finRange 2).map fun x => ((vget (getCore d k).units x).stores.filter (storeToward d k b x)).length +
      ((vget (getCore d k).units x).stream.edge.filter (edgeToward d k b x)).length).sum := by
  simp only [bankWrites, ha, List.filter_nil, List.length_nil, Nat.add_zero]
  refine Nat.add_eq_left.mpr (List.sum_eq_zero fun n hn => ?_)
  obtain ⟨x, _, rfl⟩ := List.mem_map.mp hn
  refine List.sum_eq_zero fun n hn => ?_
  obtain ⟨y, _, rfl⟩ := List.mem_map.mp hn
  simp only [h x y, List.filter_nil, List.length_nil]

/-- With nothing in transport, landing or leaving, no second try has a request to mark. -/
theorem markFirst_none {d : Device} (h : ∀ k, ∀ x : Fin 2, (vget (getCore d k).units x).flights = [] ∧ (vget (getCore d k).units x).stream.landing = [] ∧
    (vget (getCore d k).units x).stream.outbound = []) (hit : Device → CtxId → Nat → Bool) (reads : Bool) (cause : Option (Fin 7)) (error : Option Byte) :
    markFirst d hit reads cause error = none := by
  simp only [markFirst, List.findSome?_eq_none_iff]
  intro c _
  obtain ⟨hf, hl, ho⟩ := h c.core c.ctx
  simp only [getUnit, streamOf, hf, hl, ho, List.find?_nil]

theorem each {α : Type} {p : α → Prop} [DecidablePred p] (l : List α) (h : (l.all fun b => decide (p b)) = true) : ∀ b ∈ l, p b :=
  fun b hb => of_decide_eq_true (List.all_eq_true.mp h b hb)

/-! ### The step, fuses and boot -/

theorem witness_StepRunsTheFrontCommand : ({ State.reset with pending := [.smbRead, .auxPowerUp] } : State).pending = .smbRead :: [.auxPowerUp] := rfl

theorem witness_StepKeepsMemoriesCanonical : memoriesWf State.reset.dev = true ∧ ∃ t, step { State.reset with pending := [.perstDeassert] } = .next t :=
  ⟨by decide, _, rfl⟩

theorem witness_CommandsWriteOnlyTheirMemories : (∃ t, exec .perstDeassert State.reset = .next t) ∧ MemId.scratch ∉ mayWrite .perstDeassert :=
  ⟨⟨_, rfl⟩, by decide⟩

def svnAhead : State := ready fun d => { d with sec := { d.sec with imgSvn := 1 } }
def keyed : State := ready fun d => { d with sec := { d.sec with purpose := 1 } }
def fusing : State := withSec fun x => { x with fusing := some 64 }

theorem witness_FuseWritesFollowTheirChecks :
    (svnAhead.dev.rb.boot = .ready ∧ svnAhead.dev.sec.fusing = none ∧ svnAhead.dev.sec.svnFused < svnAhead.dev.sec.imgSvn.toNat) ∧
    (keyed.dev.rb.boot = .ready ∧ keyed.dev.sec.fusing = none ∧ keyed.dev.sec.imgSvn.toNat ≤ keyed.dev.sec.svnFused) ∧
    State.reset.dev.rb.boot ≠ .ready ∧
    ((2 : Byte) ≠ 0 ∧ (2 : Byte).getLsbD keyed.dev.sec.imgSlot.toNat = false ∧ 0 < 8 ∧ keyed.dev.sec.purpose.getLsbD (2 * 0) = true ∧
      keyed.dev.sec.revoked.getLsbD 0 = false ∧ (2 : Byte).getLsbD 0 = false) ∧
    ((1 : Byte) ≠ 0 ∧ (1 : Byte).getLsbD keyed.dev.sec.imgSlot.toNat = true) ∧ fusing.dev.sec.fusing = some 64 := by decide +kernel

def stepThree : State := withRb fun x => { x with step := 3 }
def atBoot (b : BootState) (n : Nat) : State := withRb fun x => { x with boot := b, step := n }

theorem witness_BootDownloadRuns :
    ((0x0040000000000001 : W64).getLsbD 0 = true ∧ 3 ≤ stepThree.dev.rb.step ∧ stepThree.dev.rb.boot = .idle ∧
      ((0x0040000000000001 : W64) >>> 32).toNat = 4194304) ∧
    (2 : W64).getLsbD 0 = false ∧ ((0x0040004000000001 : W64) >>> 32).toNat = 4194368 ∧ ((0x0000000100000001 : W64) >>> 32).toNat % 64 ≠ 0 ∧
    ((atBoot .fetching 3).dev.rb.boot ≠ .idle ∧ (atBoot .fetching 3).dev.rb.boot ≠ .failed) ∧
    ((atBoot .running 5).dev.rb.boot = .running ∧ (atBoot .running 5).dev.rb.step = 5) := by decide +kernel

theorem witness_BootVerifyChecksInOrder : (atBoot .verifying 4).dev.rb.boot = .verifying := rfl

/-! ### Resets and power -/

def released : State := withRb fun x => { x with boot := .running, step := 4, wdArmed := true, main := false }
def erasing : State := onReset fun d => { d with rb := { d.rb with step := 4 }, sec := { d.sec with dbg := .erasing } }

theorem noneRaised_of {d : Device} (h : d.rb.raised = none) : NoneRaised d := fun _ hx => nomatch h ▸ hx

theorem witness_PackageSourcesRaiseL1 :
    (NoneRaised released.dev ∧ NoneRaised erasing.dev) ∧
    (released.dev.rb.aux = true ∧ 4 ≤ released.dev.rb.step ∧ released.dev.rb.wdArmed = true ∧ released.dev.rb.boot = .running ∧
      released.dev.rb.main ≠ true) ∧
    (erasing.dev.sec.dbg = .erasing ∧ 4 ≤ erasing.dev.rb.step) ∧
    mapped released.dev 1 1 ∧ mapped released.dev 2 1 ∧ mapped released.dev 4 1 ∧ mapped erasing.dev 8 1 := by
  unfold mapped
  exact ⟨⟨noneRaised_of rfl, noneRaised_of rfl⟩, by decide +kernel⟩

def auxOff : State := withRb fun x => { x with aux := false }

theorem witness_AuxiliaryPowerRaisesL0 : auxOff.dev.rb.aux = false := rfl

def stepOne : State := withRb fun x => { x with step := 1, perst := false }
def allPonds (p : PondState) (f : Device → Device) : State := onReset fun d => f { d with power := { d.power with
  ponds := Vector.replicate 32 { Pond.reset with st := p } } }
def stepThreeAwake : State := allPonds .running fun d => { d with rb := { d.rb with step := 3 } }

theorem witness_ReleaseStepsFollowTheTable :
    (State.reset.dev.rb.step = 0 ∧ State.reset.dev.rb.aux = true) ∧
    (stepOne.dev.rb.step = 1 ∧ stepOne.dev.rb.main = true ∧ stepOne.dev.rb.perst = false ∧ stepOne.dev.clock.refPresent = true ∧
      (getPond stepOne.dev 0).st = .off) ∧
    ((2 : BitVec 6).toNat % 4 = 2 ∧ (63 : BitVec 6).toNat % 4 = 3) ∧
    ((withRb fun x => { x with step := 1 }).dev.rb.step = 1 ∧ (withRb fun x => { x with step := 1 }).dev.rb.perst = true) ∧
    (stepThreeAwake.dev.rb.step = 3 ∧ ∀ k, (getPond stepThreeAwake.dev k).st = .running) ∧
    ((atBoot .running 4).dev.rb.step = 4 ∧ (atBoot .running 4).dev.rb.boot = .running) := by decide +kernel

/-- Ponds 0 to 30 run and pond 31 wakes until w; or all wake, each until its own slot's end. -/
def waking (w : Nat) : State := onReset fun d => { d with
  power := { d.power with ponds := (Vector.replicate 32 { Pond.reset with st := .running }).set 31 { Pond.reset with st := .waking, wakeAt := w } }
  clock := { d.clock with elapsed := 16 * 64000 } }
def wakingAll : State := onReset fun d => { d with
  power := { d.power with ponds := Vector.ofFn fun k : Fin 32 => { Pond.reset with st := .waking, wakeAt := 2000 * (k.val + 1) } }
  clock := { d.clock with elapsed := 16 * 64000 } }
def empty10ms : State := allPonds .running fun d => { d with
  rb := { d.rb with boot := .ready }
  clock := { d.clock with elapsed := 16 * 10000000 } }

theorem witness_PondsWakeAndRetain :
    ((getPond (waking 64000).dev 31).st = .waking ∧ (getPond (waking 64000).dev 31).wakeAt ≤ (waking 64000).dev.clock.elapsed / 16 ∧
      ∀ j, (getPond (waking 64000).dev j).st = .waking → (getPond (waking 64000).dev 31).wakeAt ≤ (getPond (waking 64000).dev j).wakeAt) ∧
    (getPond (waking 64000).dev 0).st ≠ .waking ∧
    (waking 64001).dev.clock.elapsed / 16 < (getPond (waking 64001).dev 31).wakeAt ∧
    ((getPond wakingAll.dev 31).wakeAt ≤ wakingAll.dev.clock.elapsed / 16 ∧
      ∃ j, (getPond wakingAll.dev j).st = .waking ∧ (getPond wakingAll.dev j).wakeAt < (getPond wakingAll.dev 31).wakeAt) ∧
    (empty10ms.dev.rb.boot = .ready ∧ empty10ms.dev.power.idleGate = true ∧ (getPond empty10ms.dev 0).st = .running ∧
      (∀ m, (getDom empty10ms.dev { part := partOfPond empty10ms.dev 0, dom := m }).st = .empty) ∧
      (getPart empty10ms.dev (partOfPond empty10ms.dev 0)).clearing = false ∧ (getPart empty10ms.dev (partOfPond empty10ms.dev 0)).resetting = false ∧
      (getPart empty10ms.dev (partOfPond empty10ms.dev 0)).lastNeed ≠ some empty10ms.dev.clock.elapsed ∧
      (∀ c ∈ empty10ms.dev.cmds, c.hdr.part = partOfPond empty10ms.dev 0 → needsPonds c = false) ∧
      (∀ c, partOfCore empty10ms.dev c = partOfPond empty10ms.dev 0 → (getCore empty10ms.dev c).inReset = false) ∧
      (getPart empty10ms.dev (partOfPond empty10ms.dev 0)).emptySince + empty10ms.dev.power.idleMs.toNat * 1000000 ≤ empty10ms.dev.clock.elapsed / 16) ∧
    (onReset fun d => { d with power := { d.power with idleGate := false } }).dev.power.idleGate = false := by decide +kernel

def clearing : State := allPonds .running fun d => modPart d 3 fun p => { p with clearing := true }
def flrTo (level : W64) : State := ready fun d => { d with
  config := 4
  vfPart := vset d.vfPart 7 3
  sec := { d.sec with resetMap := level <<< 12 } }

theorem witness_PartitionAndFunctionResets :
    (NoneRaised (ready id).dev ∧ NoneRaised (flrTo 2).dev) ∧
    (4 ≤ (ready id).dev.rb.step ∧ (0 : PartId).val < (ready id).dev.config ∧ (getPart (ready id).dev 0).resetting = false) ∧
    ((getPart clearing.dev 3).clearing = true ∧ ∀ k ∈ pondsOf clearing.dev 3, (getPond clearing.dev k).st = .running) ∧
    ((flrTo 0xF).dev.rb.boot = .ready ∧ mapped (flrTo 0xF).dev 3 0xF) ∧
    (mapped (flrTo 2).dev 3 2 ∧ (3 : PartId).val < (flrTo 2).dev.config ∧ (vget (flrTo 2).dev.vfPart (finMod 8 (8 - 1))).toNat = 3) := by
  unfold mapped
  exact ⟨⟨noneRaised_of rfl, noneRaised_of rfl⟩, by decide +kernel⟩

def unitIn (u : BitVec 16) : State := allPonds .running fun d => { d with rb := { d.rb with step := 5, units := [(u, none)] } }

/-- A load of core 0 that has left for core 511 and not arrived. -/
def flightTo (k : ReqKind) (a : W64) (bytes : Nat) : Flight :=
  { (default : Flight) with
    uid := 7
    req := { (default : Request) with
      kind := k
      addr := a
      bytes := bytes
      valid := true } }
def coreHeld : State := ready fun d => modUnit { d with rb := { d.rb with units := [(511, none)] } } ⟨0, 0⟩ fun u =>
  { u with flights := [flightTo (.load (.sreg 0 1) false) (0x100000000000 + 511 * 0x400000) 8] }

theorem witness_UnitResetsIsolate :
    NoneRaised (ready id).dev ∧
    (4 ≤ (ready id).dev.rb.step ∧ (getPart (ready id).dev (partOfCore (ready id).dev 511)).resetting = false ∧ (ready id).dev.rb.units = []) ∧
    ((unitIn 0x3007).dev.rb.units = [(0x3007, none)] ∧ (0x3007 : BitVec 16).toNat / 4096 = 3) ∧
    ((unitIn 511).dev.rb.units = [(511, none)] ∧ (511 : BitVec 16).toNat < 512 ∧
      (getPond (unitIn 511).dev (pondOf (finMod 512 (511 : BitVec 16).toNat))).st = .running) ∧
    (coreHeld.dev.err.events = [] ∧ isArmed coreHeld.dev 0x181 (coreUnit ⟨0, 0⟩) = false ∧
      ∀ f ∈ (getUnit coreHeld.dev ⟨0, 0⟩).flights, f.error = none ∧ f.arrived = false ∧ addrHeld coreHeld.dev ⟨0, 0⟩ f.req.addr.toNat = true) :=
  ⟨noneRaised_of rfl, by decide +kernel⟩

theorem witness_PowerLimitsAreApplied :
    ((ready id).dev.rb.boot = .ready ∧ reserveTotal (ready id).dev ≤ 100 * ((3200 : W64) &&& 0xFFF).toNat ∧ ((3200 : W64) &&& 0xFFF).toNat ≤ 3200) ∧
    ((1599 : W64) &&& 0xFFF).toNat < 1600 ∧ 3200 < ((3201 : W64) &&& 0xFFF).toNat ∧
    106250 * State.reset.dev.power.limitW.toNat < 120000 * (2834 : BitVec 16).toNat ∧
    120000 * (2833 : BitVec 16).toNat ≤ 106250 * State.reset.dev.power.limitW.toNat := by decide +kernel

/-- One partition at a code, after a change to the power manager. -/
def atCode (c : Byte) (f : Power → Power) : State := onReset fun d => modPart { d with power := f d.power } 0 fun p => { p with fcode := c }
def needing (kHz : Nat) : State := onReset fun d => modPart d 0 fun p =>
  { p with fcode := 150, doms := vset p.doms 0 { Domain.reset with prog := some { (default : Program) with floorKHz := kHz } } }

/-- Each rule of a decision finds a state and a reading for which it is the first: throttling, a critical pond, the budget with the code
at its floor, the fast limit, a code below its floor, the mean above LIMIT_W and below it. -/
theorem witness_PowerDecisionTakesTheFirstRule :
    (∀ s ∈ [atCode 150 id, atCode 140 id], 0 ∈ livePartitions s.dev ∧ throttledPart s.dev 0 = false ∧ (getPart s.dev 0).critSeen = false ∧
      isArmed s.dev 0x172 0 = false) ∧
    throttledPart (atCode 150 fun w => { w with throttled := 1 }).dev 0 = true ∧
    (partOfPond (atCode 150 id).dev 3 = 0 ∧ ([Margin.good, .good, .good, .crit].getD 3 .good) = .crit) ∧
    (105 * (atCode 140 id).dev.power.limitW.toNat < 100 * 3361 ∧ code (atCode 140 id).dev 0 ≤ floorCode (getPart (atCode 140 id).dev 0)) ∧
    106250 * (atCode 150 id).dev.power.limitW.toNat < 120000 * (2834 : BitVec 16).toNat ∧
    code (needing 750001).dev 0 < floorCode (getPart (needing 750001).dev 0) ∧
    (highest (atCode 150 id).dev 0 ∧ (atCode 150 id).dev.power.limitW.toNat < 3201) ∧
    (lowest (atCode 150 id).dev 0 ∧ 100 * 3135 < 98 * (atCode 150 id).dev.power.limitW.toNat ∧
      ∀ k, (getPond (atCode 150 id).dev k).temp.toNat + 5 < 100) := by
  unfold highest lowest code
  decide +kernel

def hotOnly (n : Nat) (t : Byte) : List Byte := (List.replicate n 0) ++ [t] ++ List.replicate (59 - n) 0

theorem witness_ThermalSampleThrottlesAndTrips :
    NoneRaised (ready id).dev ∧
    ((hotOnly 32 114).length = 60 ∧ 2 ≤ (ready id).dev.rb.step ∧ (ready id).dev.err.armed = [] ∧
      ∀ n : Fin 60, ∀ tr ∈ tripAt n.val, ((hotOnly 32 114).getD n.val 0).toNat < tr) ∧
    ((hotOnly 59 95).length = 60 ∧ 4 ≤ (ready id).dev.rb.step ∧ mapped (ready id).dev 5 1 ∧ tripAt 59 = some 95 ∧
      95 ≤ ((hotOnly 59 95).getD 59 0).toNat ∧ ∀ m : Fin 60, m < 59 → ∀ x ∈ tripAt m.val, ((hotOnly 59 95).getD m.val 0).toNat < x) := by
  unfold mapped
  exact ⟨noneRaised_of rfl, by decide +kernel⟩

/-- A code chosen at 0, n sixteenths of a nanosecond ago. -/
def chosen (w : Bool) (n : Nat) : State := onReset fun d =>
  { modPart d 0 fun p => { p with nextCode := some 210, settling := w } with clock := { d.clock with elapsed := n } }

theorem witness_FrequencyCodeChangesAfterSettling :
    ((getPart (chosen false 16000).dev 0).nextCode = some 210 ∧ (getPart (chosen false 16000).dev 0).settling = false ∧
      (chosen false 16000).dev.clock.refPresent = true ∧ (getPart (chosen false 16000).dev 0).decided + 16000 ≤ (chosen false 16000).dev.clock.elapsed) ∧
    ((getPart (chosen true 16000).dev 0).nextCode = some 210 ∧ (getPart (chosen true 16000).dev 0).settling = true) ∧
    (chosen false 15999).dev.clock.elapsed < (getPart (chosen false 15999).dev 0).decided + 16000 ∧
    (onReset fun d => { d with clock := { d.clock with refPresent := false } }).dev.clock.refPresent = false := by decide +kernel

def pond0 (f : Pond → Pond) : State := allPonds .running fun d => modPond d 0 f
def behind : State := allPonds .running fun d => modPond d 1 fun p => { p with count := 1 }
def early : State := pond0 fun p => { p with count := 1, lastOwn := some 0 }
def realign : State := pond0 fun p => { p with realignAt := some 0 }
def notice : State := allPonds .running fun d => modPond { d with power := { d.power with ponds := d.power.ponds, notices := [(0, 0, 0)] } } 31
  fun p => { p with count := 1 }

theorem witness_StretchesKeepPondsAligned :
    ((getPond behind.dev 0).st = .running ∧ isArmed behind.dev 0x161 0 = false ∧ (getPond behind.dev 0).count < maxCount behind.dev 0) ∧
    ((getPond behind.dev 1).st = .running ∧ maxCount behind.dev 0 ≤ (getPond behind.dev 1).count ∧ (getPond behind.dev 1).lastOwn = none ∧
      (getPart behind.dev 0).lastOwn = none) ∧
    (maxCount early.dev 0 ≤ (getPond early.dev 0).count ∧ (getPond early.dev 0).demand = false ∧ (getPond early.dev 0).lastOwn = some 0 ∧
      (getPart early.dev 0).periods + 1 < 0 + 32) ∧
    ((getPond realign.dev 0).realignAt = some 0 ∧ 0 ≤ (getPart realign.dev 0).periods) ∧
    (notice.dev.power.notices = [(0, 0, 0)] ∧ 0 ≤ (getPart notice.dev 0).periods ∧ 8 ∈ pondsOf notice.dev 0 ∧
      (getPond notice.dev 8).count < maxCount notice.dev 0) := by decide +kernel

theorem witness_TimeCounterCommands :
    ((ready id).dev.rb.boot = .ready ∧ (ready id).dev.clock.time16 ≤ (0 : W64).toNat * 16 ∧ (∀ p, anyRunning (ready id).dev p = false) ∧
      (ready id).dev.fab.aligned = false) ∧
    (0 : W64).toNat * 16 < (ready fun d => { d with clock := { d.clock with time16 := 1 } }).dev.clock.time16 ∧
    (State.reset.dev.clock.refPresent = true ∧ isArmed State.reset.dev 0x160 0 = false) ∧ 2 ≤ (ready id).dev.rb.step ∧
    (State.reset.dev.clock.slew = 0 ∧ State.reset.dev.clock.half = 0) := by decide +kernel

/-- The reset state with one event in its crossing and n entries in the ledger; and one with two events of one tick. -/
def oneEvent (n : Nat) : State := onReset fun d => { d with err := { d.err with events := [default], count := n } }
def eventOf (det unit : BitVec 16) : ErrEvent := { (default : ErrEvent) with det := det, unit := unit, place := .lead }
def twoEvents : State := onReset fun d => { d with err := { d.err with events := [eventOf 0x160 0, eventOf 1 0] } }
def entries (n : Nat) : State := ready fun d => { d with err := { d.err with count := n } }

theorem witness_ErrorLedgerRecordsAndConsumes :
    (nextEvent (oneEvent 255).dev = some default ∧ (oneEvent 255).dev.err.count < 256 ∧ (oneEvent 255).dev.err.notify = false) ∧
    (nextEvent (oneEvent 256).dev = some default ∧ 256 ≤ (oneEvent 256).dev.err.count) ∧
    (twoEvents.dev.err.events = [eventOf 0x160 0, eventOf 1 0] ∧ twoEvents.dev.clock.stopped = 0 ∧
      crossingOf (eventOf 1 0).det (eventOf 1 0).unit ≠ crossingOf (eventOf 0x160 0).det (eventOf 0x160 0).unit ∧
      (eventOf 1 0).place = .lead ∧ (eventOf 0x160 0).place = .lead ∧
      (eventOf 1 0).since = (eventOf 0x160 0).since ∧ (eventOf 1 0).det < (eventOf 0x160 0).det) ∧
    (((1 : W64).setWidth 8 - (entries 1).dev.err.head).toNat ≤ (entries 1).dev.err.count) ∧
    (entries 1).dev.err.count < ((2 : W64).setWidth 8 - (entries 1).dev.err.head).toNat := by decide +kernel

/-! ### Debug port, SMBus, attestation -/

def smb (o : W32) : State := withRb fun x => { x with smbOn := true, smbOffset := o }

theorem witness_PortAndSmbusRead :
    (State.reset.dev.rb.trstN = true ∧ (withRb fun x => { x with trstN := false }).dev.rb.trstN = false) ∧
    (∀ o, (smb o).dev.rb.smbOn = true ∧ (smb o).dev.rb.aux = true) ∧ ((8 : W32).toNat % 8 = 0) ∧
    ((smb 0x20178).dev.sec.dbg ≠ .erasing ∧ (smb 0x20178).dev.rb.smbOffset.toNat = 0x20100 + 8 * (15 : Fin 16).val) ∧
    (0x3FF8 % 8 = 0 ∧ 0x3FF8 < 0x4000 ∧ (smb 0x27FF8).dev.rb.smbOffset.toNat = 0x24000 + 0x3FF8 ∧ 0x3FF8 ∉ (smb 0x27FF8).dev.rb.retBad ∧
      0x3FF8 + 4 ∉ (smb 0x27FF8).dev.rb.retBad ∧ isArmed (smb 0x27FF8).dev 0x106 0 = false) ∧
    ((smb 0x1FFF8).dev.rb.smbOffset.toNat % 8 = 0 ∧ 0x1000 ≤ (smb 0x1FFF8).dev.rb.smbOffset.toNat ∧ (smb 0x1FFF8).dev.rb.smbOffset.toNat < 0x20000) ∧
    0x40000 ≤ (smb 0x40000).dev.rb.smbOffset.toNat ∧ State.reset.dev.rb.smbOn = false :=
  ⟨⟨rfl, rfl⟩, fun _ => ⟨rfl, rfl⟩, by decide +kernel⟩

/-- Tokens under verification after n failures, with the port in a state. -/
def verifying (l : List Submission) (n : Byte) (g : DbgState) : State := withSec fun x => { x with dbg := g, verify := l, fails := n }
/-- A token that a host has submitted on the present tick. -/
def hosted : Submission := submission State.reset.dev 5 7 false

theorem witness_TokensAreSubmitted :
    (State.reset.dev.rb.trstN = true ∧ (∀ x ∈ State.reset.dev.sec.verify, x.port = true ∨ x.time ≠ State.reset.dev.clock.elapsed) ∧ State.reset.dev.sec.fails.toNat < 16) ∧
    ((verifying [{ hosted with time := 1 }, { hosted with port := true }] 16 .closed).dev.sec.verify.length = 2 ∧
      (verifying [{ hosted with time := 1 }, { hosted with port := true }] 16 .closed).dev.rb.trstN = true ∧
      ∀ x ∈ (verifying [{ hosted with time := 1 }, { hosted with port := true }] 16 .closed).dev.sec.verify, x.port = true ∨ x.time ≠ 0) ∧
    (verifying [hosted] 0 .verifying).dev.rb.trstN = true ∧ (verifying [hosted] 0 .verifying).dev.sec.verify = [submission (verifying [hosted] 0 .verifying).dev 5 7 false] := by decide +kernel

theorem witness_TokenVerificationChecksInOrder :
    ((verifying [hosted] 16 .verifying).dev.sec.verify = hosted :: [] ∧ isArmed (verifying [hosted] 16 .verifying).dev 0x1A1 0 = false ∧
      16 ≤ (verifying [hosted] 16 .verifying).dev.sec.fails.toNat) ∧
    ((verifying [hosted] 15 .opened).dev.sec.fails.toNat < 16 ∧ (verifying [hosted] 15 .opened).dev.sec.dbg = .opened ∧
      isArmed (verifying [hosted] 15 .opened).dev 0x162 25 = false ∧ (verifying [hosted] 15 .opened).dev.err.events = []) := by decide +kernel

def identified (q : List SignReq) : State := withSec fun x => { x with idValid := true, queue := q }

theorem witness_AttestationIsSigned :
    ((1 : W64).getLsbD 0 = true ∧ (identified []).dev.sec.attState ≠ 1 ∧ (identified []).dev.sec.idValid = true ∧ (identified []).dev.sec.queue = []) ∧
    (identified [.pennant 0]).dev.sec.queue ≠ [] ∧ State.reset.dev.sec.idValid = false ∧ (2 : W64).getLsbD 0 = false ∧
    (identified [.attest 1 0]).dev.sec.queue = [.attest 1 0] ∧ (identified []).dev.err.events = [] := by decide +kernel

/-! ### Host commands -/

/-- The part with every pond running, READY, and one descriptor waiting in ring 0, which the PF owns. -/
def hostUp (f : Device → Device) : State := ready fun d => f (modRing { d with power := { d.power with
    ponds := Vector.replicate 32 { Pond.reset with st := .running } } } 0 fun r => { r with enabled := true, cmdTail := 1 })
def hdr : CmdHdr := { ring := 0, fence := true, part := 0, dom := 0, tag := 5 }
def held (f : Device → Device) : State := hostUp fun d => f (modPart d 0 fun p => { p with attached := some 0 })
def dom0 (f : Domain → Domain) : State := held fun d => modDom d ⟨0, 0⟩ f

theorem quiet_held : Quiet (held id).dev := quiet_reset _ rfl

theorem takes_hostUp : Takes (hostUp id).dev 0 true ∧ MayName (hostUp id).dev 0 0 ∧ Room (hostUp id).dev 0 := by
  unfold Takes MayName Room
  dsimp only
  decide +kernel

theorem takes_held : Takes (held id).dev 0 true ∧ Holds (held id).dev hdr := by
  unfold Takes Holds MayName Room
  dsimp only
  decide +kernel

def attachedTo (r : Option (Fin 64)) : State := hostUp fun d => modPart d 0 fun p => { p with attached := r }
def vfMap : W64 := 0x03FFFFFFFFFFFF00

theorem witness_PartitionsAreAttachedAndConfigured :
    hdr.part.val < (hostUp id).dev.config ∧ (getPart (attachedTo none).dev 0).attached = none ∧
    (getPart (attachedTo (some 0)).dev 0).attached = some 0 ∧
    ((getPart (attachedTo (some 63)).dev 0).attached = some 63 ∧ (63 : Fin 64) ≠ hdr.ring) ∧
    (∀ k, (getDom (held id).dev { part := 0, dom := k }).st ≠ .running) ∧
    ((vget (hostUp id).dev.rings 0).owner = 0 ∧
      (∀ k, k < 8 → vfMap.extractLsb' (8 * k) 8 = 0xFF ∨ (vfMap.extractLsb' (8 * k) 8).toNat < (4 : Byte).toNat) ∧
      (∀ p k, (getDom (hostUp id).dev { part := p, dom := k }).st = .empty) ∧ (hostUp id).dev.cmds = []) := by decide +kernel

/-- A command in progress from ring 0. -/
def cmdOf (j : Job) : Cmd := { (default : Cmd) with hdr := hdr, job := j }
def g0 : Program := { (default : Program) with cores := [{ (default : CoreSect) with ctx := ⟨0, 0⟩, access := true, execute := true }] }

/-- An overlay image of one empty section for core 0. -/
def overlay0 : List Byte := leBytes 4 0x564F4C43 ++ leBytes 2 1 ++ leBytes 2 1 ++ List.replicate 56 0 ++ leBytes 2 2 ++ leBytes 2 0 ++
  leBytes 4 80 ++ leBytes 4 16 ++ leBytes 4 0 ++ List.replicate 48 0
def overlaid : State := held fun d => modDom { d with host := (List.range 128).map fun k => (64 + k, overlay0.getD k 0) } ⟨0, 0⟩
  fun m => { m with st := .loaded, prog := some g0 }
def loadingProgram : State := held fun d => { d with cmds := [cmdOf (.loadProgram 64 64)] }
def loadingOverlay : State := held fun d => modDom { d with cmds := [cmdOf (.overlay overlay0)] } ⟨0, 0⟩ fun m => { m with prog := some g0 }

theorem witness_ProgramsAreLoaded :
    ((64 : W64).toNat % 64 = 0 ∧ (64 : W32) ≠ 0 ∧ (64 : W32).toNat % 64 = 0 ∧ (getDom (held id).dev ⟨0, 0⟩).st = .empty ∧
      (getDom (held id).dev ⟨0, 0⟩).runHandle = none ∧ (getPart (held id).dev 0).clearing = false ∧ ∀ k, (getPond (held id).dev k).st = .running) ∧
    ((128 : W32).toNat % 64 = 0 ∧ domState overlaid.dev ⟨0, 0⟩ = .loaded ∧ overlaid.dev.err.events = [] ∧
      isArmed overlaid.dev 0x150 (BitVec.ofNat 16 (vget overlaid.dev.rings 0).owner.toNat) = false ∧
      firstFail (overlayChecks overlaid.dev ⟨0, 0⟩ (readBytes overlaid.dev .host 64 128)) = none ∧
      ∀ x ∈ overlayPages overlaid.dev (readBytes overlaid.dev .host 64 128), pageLocked (getCore overlaid.dev x.1) x.2.val = false) ∧
    (∀ k, (getCore loadingProgram.dev k).inReset = false) ∧
    (loadingProgram.dev.cmds = [cmdOf (.loadProgram 64 64)] ∧ (cmdOf (.loadProgram 64 64)).mute = false ∧
      isArmed loadingProgram.dev 0x150 (BitVec.ofNat 16 (vget loadingProgram.dev.rings 0).owner.toNat) = false) ∧
    (loadingOverlay.dev.cmds = [cmdOf (.overlay overlay0)] ∧ (getDom loadingOverlay.dev ⟨0, 0⟩).prog = some g0 ∧
      ∀ x ∈ overlayPages loadingOverlay.dev overlay0, (getCore loadingOverlay.dev x.1).inReset = false) :=
  ⟨by decide +kernel, ⟨by decide +kernel, by decide +kernel, by decide +kernel, by decide +kernel, by decide +kernel, each _ (by decide +kernel)⟩,
    (quiet_reset loadingProgram.dev rfl).every (p := fun k => k.inReset = false) (by decide +kernel) rfl,
    by decide +kernel, rfl, rfl, each _ (by decide +kernel)⟩

def loadBody : LoadTensorBody := { (default : LoadTensorBody) with
  haddr := 64
  daddr := 0x20000FFFFFC0
  len := 64
  weight := true }
def readBody : ReadTensorBody := { (default : ReadTensorBody) with
  haddr := 64
  saddr := 0x20000FFFFFC0
  len := 64
  bctx := 0xFF }
def tensorCmd (j : Job) (f : Cmd → Cmd) (g : Device → Device) : State := held fun d => g { d with cmds := [f (cmdOf j)] }
def readingCmd (f : Cmd → Cmd) : State := tensorCmd (.readTensor readBody) f id
def gathered (c : Cmd) : Cmd := { c with begun := true, data := some ([1], 0) }

/-- A program with one deadline point, at tick 10 and 100 ns. -/
def paced : Program := { (default : Program) with pace := some { (default : Pace) with points := [(10, 100)] } }
/-- Output read for deadline point 1 of a run that began at 0, at a time in ns. -/
def pacedRead (f : Cmd → Cmd) (t : Nat) : State := tensorCmd (.readTensor { readBody with dpoint := 1 }) (f ∘ gathered) fun d =>
  modDom { d with clock := { d.clock with time16 := 16 * t } } ⟨0, 0⟩ fun m => { m with st := .ended, prog := some paced, run := some (freshRun true 0) }
def withheldTo (n : Nat) (c : Cmd) : Cmd := { c with held := true, release := 16 * n }

/-- No request is to come where no core or context is bound to a domain and nothing is in transport. -/
theorem requestsDue_unbound {d : Device} (h : ∀ k, ∀ x : Fin 2, (vget (getCore d k).units x).bound = none ∧ (vget (getCore d k).units x).flights = [])
    (p : PartId) : requestsDue d p = false := by
  simp only [requestsDue, List.any_eq_false, Bool.not_eq_true]
  intro k _ x _
  simp [reservoirDue, grantDue, executing, runOf, domOf, getUnit, h k x]

theorem requestsDue_tensorCmd (j : Job) (f : Cmd → Cmd) : requestsDue (tensorCmd j f id).dev 0 = false :=
  requestsDue_unbound ((quiet_reset (tensorCmd j f id).dev rfl).every (p := fun k => ∀ x : Fin 2, (vget k.units x).bound = none ∧ (vget k.units x).flights = [])
    (by rw [show getCore (tensorCmd j f id).dev 0 = Core.reset from rfl]; decide +kernel) (by decide +kernel)) 0

theorem witness_TensorsMove :
    (loadBody.haddr.toNat % 64 = 0 ∧ loadBody.len ≠ 0 ∧ loadBody.len.toNat % 64 = 0 ∧
      regionOf (held id).dev 0 loadBody.daddr loadBody.len.toNat = some (.reservoir 0xFFFFFC0) ∧ (getPart (held id).dev 0).clearing = false ∧
      (∀ k, (getDom (held id).dev { part := 0, dom := k }).st ≠ .running) ∧ (getPart (held id).dev 0).weights = []) ∧
    (∀ k, (getCore (held id).dev k).clearing = false) ∧
    (let s := tensorCmd (.loadTensor loadBody) id id
     (∃ c, s.dev.cmds = [c] ∧ c.mute = false ∧ c.failed = false ∧ cmdIsolated s.dev c = false ∧ cmdLost s.dev c = false) ∧
       s.dev.err.armed = [] ∧ requestsDue s.dev 0 = false) ∧
    (regionOf (held id).dev 0 readBody.saddr readBody.len.toNat = some (.reservoir 0xFFFFFC0) ∧ readBody.dpoint.toNat ≤ 64 ∧ (held id).dev.cmds = []) ∧
    (let s := readingCmd fun c => { c with active := true }
     ∃ c, s.dev.cmds = [c] ∧ c.active = true ∧ c.begun = false ∧ c.failed = false ∧ cmdIsolated s.dev c = false) ∧
    (let s := readingCmd fun c => { c with begun := true }
     (∃ c, s.dev.cmds = [c] ∧ c.held = false ∧ c.begun = true ∧ c.data = none ∧ c.failed = false ∧ c.mute = false ∧ cmdIsolated s.dev c = false ∧
       cmdLost s.dev c = false) ∧ s.dev.err.armed = [] ∧ s.dev.scratchBad = [] ∧ requestsDue s.dev 0 = false) ∧
    (let s := readingCmd gathered
     (∃ c, s.dev.cmds = [c] ∧ c.held = false ∧ c.begun = true ∧ c.failed = false ∧ c.mute = false ∧ c.data = some ([1], 0)) ∧
       ∀ x, pointTime s.dev ⟨0, 0⟩ 0 = some x → x ≤ s.dev.clock.time16) ∧
    ((∃ c, (pacedRead id 99).dev.cmds = [c] ∧ c.held = false ∧ c.begun = true ∧ c.failed = false ∧ c.data = some ([1], 0)) ∧
      (getDom (pacedRead id 99).dev ⟨0, 0⟩).run = some (freshRun true 0) ∧ (getDom (pacedRead id 99).dev ⟨0, 0⟩).prog = some paced ∧
      0 ∉ (freshRun true 0).missed ∧ (pacedRead id 99).dev.clock.time16 < ((freshRun true 0).paceStart + 100) * 16 - 16 * (freshRun true 0).elapsed) ∧
    (∃ c, (pacedRead (withheldTo 100) 100).dev.cmds = [c] ∧ c.held = true ∧ c.failed = false ∧ c.mute = false ∧ c.data = some ([1], 0) ∧
      c.release ≤ (pacedRead (withheldTo 100) 100).dev.clock.time16) ∧
    (∃ c, (pacedRead (withheldTo 100) 99).dev.cmds = [c] ∧ (pacedRead (withheldTo 100) 99).dev.clock.time16 < c.release) :=
  ⟨by decide +kernel, quiet_held.every (p := fun k => k.clearing = false) (by decide +kernel) rfl,
    ⟨⟨_, rfl, by decide +kernel⟩, rfl, requestsDue_tensorCmd _ _⟩, by decide +kernel, ⟨_, rfl, by decide +kernel⟩,
    ⟨⟨_, rfl, by decide +kernel⟩, rfl, rfl, requestsDue_tensorCmd _ _⟩, ⟨⟨_, rfl, by decide +kernel⟩, fun x h => nomatch h⟩,
    ⟨⟨_, rfl, by decide +kernel⟩, rfl, rfl, by decide +kernel⟩, ⟨_, rfl, by decide +kernel⟩, ⟨_, rfl, by decide +kernel⟩⟩

/-! ### Runs -/

/-- A run that has started, at tick t. -/
def runAt (t : Nat) : Run := { freshRun true 0 with
  started := true
  tick := t }
/-- Domain 0 of partition 0, with g0 on core 0, in a state and a run, while one command is in progress. -/
def domRun (st : DomState) (r : Run) (g : Program) (c : List Cmd) (f : Device → Device) : State := held fun d => f (
  modUnit (modDom { d with cmds := c } ⟨0, 0⟩ fun m => { m with
    st := st
    prog := some g
    run := some r
    runHandle := c.head?.map (·.handle) }) ⟨0, 0⟩ fun u => { u with bound := some 0 })
theorem quiet_domRun (st : DomState) (r : Run) (g : Program) (c : List Cmd) : Quiet (domRun st r g c id).dev :=
  quiet_vmod _ _ (fun k => { k with units := vmod k.units 0 fun u => { u with bound := some 0 } }) quiet_held rfl
theorem quiet_domRun_core (st : DomState) (r : Run) (g : Program) (c : List Cmd) (f : Device → Device) (h : Core → Core)
    (hf : ∀ d, (f d).cores = vmod d.cores 0 h) : Quiet (domRun st r g c f).dev := quiet_vmod _ _ h (quiet_domRun st r g c) (hf _)
def startable : State := domRun .running (freshRun false 0) g0 [] id
def running (t : Nat) : State := domRun .running (runAt t) g0 [] id
def endedRun : Run := { runAt 8 with ended := true }
def ending : State := domRun .running endedRun g0 [cmdOf (.run [])] id
def haltedRun : Run := { endedRun with first := some { ctx := ⟨0, 0⟩, seq := 1, tick := 7, code := 5 } }
def haltedEnd : State := domRun .halted haltedRun g0 [cmdOf (.run [])] id

theorem witness_RunsStartAndEnd :
    ((getDom (dom0 fun m => { m with st := .loaded, prog := some g0 }).dev ⟨0, 0⟩).st = .loaded ∧ needsFabric g0 = false ∧
      (getDom (dom0 fun m => { m with st := .loaded, prog := some g0 }).dev ⟨0, 0⟩).runHandle = none) ∧
    (∀ m, (getDom startable.dev { part := 0, dom := m }).assembling = []) ∧
    (startDue startable.dev ⟨0, 0⟩ = true ∧ restoreImage startable.dev (getDom startable.dev ⟨0, 0⟩) = none ∧ g0.cores.length = 1) ∧
    ((getDom (running 127).dev ⟨0, 0⟩).run = some (runAt 127) ∧ (runAt 127).started = true ∧ (runAt 127).stalled = false ∧ (runAt 127).restored = false ∧
      (runAt 127).ramp = 0 ∧ (runAt 127).tick < 128 ∧ (runAt 127).rampStep ≤ 127 / 16) ∧
    ((getDom ending.dev ⟨0, 0⟩).run = some endedRun ∧ (getDom ending.dev ⟨0, 0⟩).prog = some g0 ∧ (getDom ending.dev ⟨0, 0⟩).st = .running ∧
      (getDom ending.dev ⟨0, 0⟩).runHandle = some (cmdOf (.run [])).handle ∧
      endedRun.aborted = false ∧ ending.dev.sec.dbg ≠ .erasing) ∧
    (∀ c, ∀ x : Fin 2, (vget (getCore ending.dev c).units x).stores = [] ∧ (vget (getCore ending.dev c).units x).fills = [] ∧
      (vget (getCore ending.dev c).units x).replays = []) ∧
    ((getDom haltedEnd.dev ⟨0, 0⟩).st = .halted ∧ (getDom haltedEnd.dev ⟨0, 0⟩).run = some haltedRun ∧ haltedRun.first.isSome = true ∧
      haltedRun.started = true ∧ haltedRun.ended = true ∧ haltedRun.aborted = false ∧ haltedEnd.dev.sec.dbg ≠ .erasing) :=
  ⟨by decide +kernel, by decide +kernel, by decide +kernel, by decide +kernel, by decide +kernel,
    (quiet_domRun _ _ _ _).every (p := fun k => ∀ x : Fin 2, (vget k.units x).stores = [] ∧ (vget k.units x).fills = [] ∧ (vget k.units x).replays = []) (by decide +kernel)
      (by decide +kernel), by decide +kernel⟩

def haltWanted : Run := { runAt 3 with
  stalled := true
  hostHalt := some 0 }
def halting : State := domRun .running haltWanted g0 [cmdOf .halt] id
/-- A core halts for a reason of its own on the tick that HALT takes effect: its bundle is none; or has halted before. -/
def haltsAlone : State := domRun .running { runAt 3 with hostHalt := some 0 } g0 [cmdOf .halt] fun d =>
  modCore d 0 fun k => { k with seqs := vset k.seqs 0 { Sequencer.reset with st := .running } }
def haltedBefore : State := domRun .running { haltedRun with ended := false, hostHalt := some 0 } g0 [cmdOf .halt] id
def haltedByHost : Run := { runAt 3 with halting := true }
def answeringHalt (code : Byte) : State := domRun .halted haltedByHost g0 [cmdOf .halt] fun d => modUnit d ⟨0, 0⟩ fun u => { u with
  halt := { u.halt with
    halted := true
    code := code } }
def claiming : State := domRun .running (runAt 3) g0 [] fun d => modBar d 63 fun b => { b with claim := some ⟨0, 0⟩ }
def captured : State := domRun .ended endedRun g0 [{ cmdOf (.snapshot 64 64 0xFF) with data := some ([1], 7) }] id
def finished : State := domRun .ended endedRun g0 [] id

theorem witness_HaltAndSnapshot :
    ((getDom (running 3).dev ⟨0, 0⟩).st = .running ∧ (getDom (running 3).dev ⟨0, 0⟩).run = some (runAt 3) ∧ (runAt 3).hostHalt = none ∧
      (runAt 3).first = none ∧ (runAt 3).ended = false) ∧
    domState (held id).dev ⟨0, 0⟩ ≠ .running ∧
    (haltWanted.hostHalt = some 0 ∧ haltWanted.started = true ∧ haltWanted.first = none ∧ (getDom halting.dev ⟨0, 0⟩).st = .running ∧ haltWanted.stalled = true) ∧
    (haltsAlone.dev.cmds = [cmdOf .halt] ∧ tickBegun haltsAlone.dev ⟨0, 0⟩ = false ∧
      (getDom haltsAlone.dev ⟨0, 0⟩).run = some { runAt 3 with hostHalt := some 0 } ∧ (runAt 3).stalled = false ∧ (runAt 3).ramp = 0 ∧
      ∃ k ∈ domCtxs haltsAlone.dev ⟨0, 0⟩, (takeHalts haltsAlone.dev k).isSome = true) ∧
    ((getDom haltedBefore.dev ⟨0, 0⟩).run = some { haltedRun with ended := false, hostHalt := some 0 } ∧ tickBegun haltedBefore.dev ⟨0, 0⟩ = false ∧
      haltedRun.first.isSome = true) ∧
    ((getDom halting.dev ⟨0, 0⟩).run = some haltWanted ∧ haltWanted.ended = false ∧ tickBegun halting.dev ⟨0, 0⟩ = false ∧
      domCtxs halting.dev ⟨0, 0⟩ = [⟨0, 0⟩] ∧ domOf halting.dev ⟨0, 0⟩ = some ⟨0, 0⟩ ∧ isHalted halting.dev ⟨0, 0⟩ = false ∧
      halting.dev.cmds = [cmdOf .halt]) ∧
    (∀ code ∈ [0x15, 0x04], (getDom (answeringHalt code).dev ⟨0, 0⟩).run = some haltedByHost ∧ (answeringHalt code).dev.cmds = [cmdOf .halt] ∧
      domCtxs (answeringHalt code).dev ⟨0, 0⟩ = [⟨0, 0⟩] ∧ (getUnit (answeringHalt code).dev ⟨0, 0⟩).halt.code = code) ∧
    ((cmdOf .halt).job = .halt ∧ (cmdOf .halt).mute = false ∧ (cmdOf .halt).hdr.part = 0 ∧ (cmdOf .halt).hdr.dom = 0 ∧ haltedByHost.halting = true) ∧
    ((getDom finished.dev ⟨0, 0⟩).st = .ended ∧ (getDom finished.dev ⟨0, 0⟩).runHandle = none ∧
      imageLength finished.dev ⟨0, 0⟩ ≤ (0xFFFFFFC0 : W32).toNat ∧ (0xFFFFFFC0 : W32).toNat % 64 = 0) ∧
    ((getDom claiming.dev ⟨0, 0⟩).st = .running ∧ (getBar claiming.dev 63).claim = some ⟨0, 0⟩ ∧
      imageLength claiming.dev ⟨0, 0⟩ ≤ (0xFFFFFFC0 : W32).toNat ∧ claiming.dev.cmds = []) ∧
    (captured.dev.cmds = [{ cmdOf (.snapshot 64 64 0xFF) with data := some ([1], 7) }]) := by decide +kernel

def pennant0 : PennantData := { bytes := 0, tainted := false }
def pennanted : State := held fun d => modDom { d with sec := { d.sec with idValid := true } } ⟨0, 0⟩ fun m => { m with st := .ended, pennant := some pennant0 }
def signing : State := held fun d => { d with sec := { d.sec with queue := [.pennant (cmdOf (.pennant 64 0)).handle] }, cmds := [cmdOf (.pennant 64 0)] }

theorem witness_PennantsQueriesInjectionsResets :
    (592 ≤ (640 : W32).toNat ∧ (640 : W32).toNat % 64 = 0 ∧ pennanted.dev.sec.idValid = true ∧ (getDom pennanted.dev ⟨0, 0⟩).st = .ended ∧
      (getDom pennanted.dev ⟨0, 0⟩).pennant = some pennant0 ∧ pennant0.tainted = false) ∧
    (signing.dev.sec.queue = [.pennant (cmdOf (.pennant 64 0)).handle] ∧ signing.dev.cmds = [cmdOf (.pennant 64 0)]) ∧
    ((2 : Byte).toNat ≤ 2 ∧ (queryRecord (held id).dev hdr 1).length ≤ (64 : W32).toNat ∧ (queryRecord (held id).dev hdr 2).length ≤ (128 : W32).toNat) ∧
    (detectorValid 0x181 1023 = true ∧ detectorValid 0x151 63 = true ∧ detectorValid 0x172 0 = true) ∧
    (4 ≤ (held id).dev.rb.step ∧ (held id).dev.sec.resetMap.extractLsb' 24 4 ≠ 0 ∧ 3 ≤ ((held id).dev.sec.resetMap.extractLsb' 24 4).toNat) ∧
    ((getPart (held id).dev (partOfCore (held id).dev 511)).resetting = false ∧ (held id).dev.rb.units = [] ∧ (held id).dev.cmds = []) := by decide +kernel

def descriptor (op : Byte) (body : List Byte) : List Byte := [op, 1, 0, 0] ++ leBytes 4 5 ++ body ++ List.replicate (56 - body.length) 0
/-- A descriptor lies at the head of ring 0. -/
def fetching (b : List Byte) : State := held fun d => { d with host := (List.range 64).map fun k => (k, b.getD k 0) }

theorem witness_DescriptorsAreFetched :
    (∀ b ∈ [descriptor 0x01 [1], descriptor 0x03 [1], descriptor 0x03 [2], descriptor 0x04 (leBytes 8 64 ++ leBytes 4 64), descriptor 0x06 (leBytes 8 9), descriptor 0x07 [],
        descriptor 0x0B ([1, 0, 0, 0, 0, 0, 0, 0] ++ leBytes 8 64 ++ leBytes 4 64)],
      readBytes (fetching b).dev .host ((vget (fetching b).dev.rings 0).cmdBase.toNat * 4096 + (vget (fetching b).dev.rings 0).cmdHead.toNat * 64) 64 = b) ∧
    (descriptor 0x03 [2] = [0x03, 1, 0, 0] ++ leBytes 4 (5 : W32).toNat ++ [2] ++ List.replicate 55 0 ∧
      ∀ k, (getDom (fetching (descriptor 0x03 [2])).dev { part := 0, dom := k }).st ≠ .running) ∧
    ((fetching []).dev.ringTurn = 0 ∧ (fetching []).dev.err.events = [] ∧ (1 : Byte).toNat < 2 ∧ (0 : Byte).toNat / 4 % 4 = 0 ∧
      isArmed (fetching []).dev 0x150 (BitVec.ofNat 16 (vget (fetching []).dev.rings 0).owner.toNat) = false) := by decide +kernel

/-! ### Rings, messages, registers -/

def ring63 (f : Ring → Ring) : State := ready fun d => modRing d 63 f
def full (f : Ring → Ring) : State := ring63 fun r => f { r with cplHead := 1, held := [7] }
def unsentRing : State := ready fun d => modRing { d with msix := vset d.msix 0 { vget d.msix 0 with enabled := true, fmask := false, mask := 0 } } 63
  fun r => { r with unsent := true, vec := 63 }
def pbaSet : State := ready fun d => { d with msix := vset d.msix 0 { vget d.msix 0 with enabled := true, fmask := false, pba := 0x8000000000000000 } }
def based : State := ring63 fun r => { r with cmdBase := 1, cplBase := 2 }
def ringCfg : W64 := 0x003F000010040001

theorem witness_DoorbellsRingsAndMessages :
    ((15 : W32).toNat < 2 ^ (vget (ready id).dev.rings 63).cmdLog2.toNat ∧ 2 ^ (vget (ready id).dev.rings 63).cmdLog2.toNat ≤ (16 : W32).toNat ∧
      isArmed (ready id).dev 0x151 63 = false ∧ State.reset.dev.rb.boot ≠ .ready ∧ (ready id).dev.err.events = []) ∧
    ((vget (full id).dev.rings 63).held = [7] ∧ (5 : W32).toNat < 2 ^ (vget (full id).dev.rings 63).cplLog2.toNat ∧
      (vget (full id).dev.msix (finMod 9 (vget (full id).dev.rings 63).owner.toNat)).enabled = false ∧
      ((vget (full id).dev.rings 63).cplTail.toNat + 1) % 2 ^ (vget (full id).dev.rings 63).cplLog2.toNat ≠ (5 : W32).toNat) ∧
    ((vget unsentRing.dev.rings 63).unsent = true ∧ (vget unsentRing.dev.rings 63).coalDue ≤ unsentRing.dev.clock.elapsed / 16 ∧
      (vget unsentRing.dev.msix 0).enabled = true ∧ (vget pbaSet.dev.msix 0).enabled = true ∧ (vget (ready id).dev.rings 63).unsent = false ∧
      (vget unsentRing.dev.rings 63).owner.toNat = 0 ∧ (vget unsentRing.dev.rings 63).vec.toNat = 63 ∧ (vget unsentRing.dev.msix 0).fmask = false ∧
      (vget unsentRing.dev.msix 0).mask.getLsbD 63 = false) ∧
    ((vget based.dev.rings 63).enabled = false ∧ ringCfg.getLsbD 0 = true ∧ ringCfg.extractLsb' 32 4 = 0 ∧ (ringCfg.extractLsb' 16 5).toNat = 4 ∧
      (ringCfg.extractLsb' 24 5).toNat = 16 ∧ (vget based.dev.rings 63).cmdBase ≠ 0 ∧ (vget based.dev.rings 63).cplBase ≠ 0) ∧
    ((vget (ready id).dev.rings 63).cmdBase = 0 ∧ (vget (ring63 fun r => { r with enabled := true }).dev.rings 63).enabled = true) ∧
    ((vget pbaSet.dev.msix 0).fmask = false ∧ (vget pbaSet.dev.msix 0).pba.getLsbD 63 = true ∧ (vget (ready id).dev.msix 0).pba = 0) := by decide +kernel

theorem witness_RegisterWritesActByTheirFields :
    ((0x20178 : W32).toNat = 0x20100 + 8 * (15 : Fin 16).val ∧ (ready id).dev.sec.dbg ≠ .erasing ∧ State.reset.dev.rb.boot ≠ .ready) ∧
    (memoriesWf (ready id).dev = true ∧ 0x3FF8 < 0x4000 ∧ 0x3FF8 % 8 = 0 ∧ (0x27FF8 : W32).toNat = 0x24000 + 0x3FF8) ∧
    ((∀ x, runOf (ready id).dev { core := 511, ctx := x } = none) ∧ (getCore (ready id).dev 511).pdWait = [] ∧ (getCore (ready id).dev 511).runOff = 0) ∧
    ∀ b n, bankWrites (ready id).dev 511 b n = 0 :=
  ⟨by decide +kernel, by decide +kernel, by decide +kernel, fun b n => (bankWrites_of ((quiet_reset (ready id).dev rfl).every
    (p := fun k => ∀ x : Fin 2, (vget k.units x).flights = []) (by decide +kernel) (by decide +kernel)) 511 b n (by decide +kernel)).trans (by
      revert b
      decide +kernel)⟩

/-! ### Operations of the streams -/

/-- A bundle of one slot: its enable, its place and its word. -/
def bundle (execute : Bool) (enable place word : Nat) : RawBundle :=
  BitVec.ofNat 384 (2 ^ 28 + (if execute then 2 ^ 27 else 0) + 2 ^ enable + word * 2 ^ place)
def scalarB (op fields : Nat) : RawBundle := bundle false 21 32 (op * 2 ^ 40 + fields)
/-- A scalar bundle of format S-R or S-I: RD 1, RS1, RS2 and the rest. -/
def srB (op rs1 rs2 rest : Nat) : RawBundle := scalarB op (2 ^ 35 + rs1 * 2 ^ 30 + rs2 * 2 ^ 25 + rest)
/-- An S-A bundle of generator 1. -/
def saB (op rest : Nat) : RawBundle := scalarB op (2 ^ 37 + rest)
def loadB (op ag kind reg width rest : Nat) : RawBundle :=
  bundle false 24 224 (op * 2 ^ 56 + ag * 2 ^ 53 + 2 ^ 52 + kind * 2 ^ 50 + reg * 2 ^ 45 + width * 2 ^ 41 + rest)
def storeB (op ag width rest : Nat) : RawBundle := bundle false 25 288 (op * 2 ^ 56 + ag * 2 ^ 53 + 2 * 2 ^ 45 + width * 2 ^ 41 + rest)
def syncB (op fields : Nat) : RawBundle := bundle false 26 352 (op * 2 ^ 26 + fields)
def matrixB (op a b dst fmt klen : Nat) : RawBundle :=
  bundle true 23 160 (op * 2 ^ 56 + a * 2 ^ 51 + b * 2 ^ 46 + dst * 2 ^ 41 + fmt * 2 ^ 37 + fmt * 2 ^ 33 + 3 * 2 ^ 25 + klen)
def vectorB (op vd va vb vc rest : Nat) : RawBundle :=
  bundle true 22 80 (op * 2 ^ 72 + vd * 2 ^ 67 + va * 2 ^ 62 + vb * 2 ^ 57 + vc * 2 ^ 52 + rest)

/-- A generator of 8 steps from a base. -/
def ag (base : W64) : AddrGen := { AddrGen.reset with
  base := base
  count := Vector.replicate 6 8
  levels := 1
  done := false
  loaded := true }
/-- A descriptor of one level of 8 steps from address 64. -/
def agWord : BitVec 512 := BitVec.ofNat 512 (64 + 8 * 2 ^ 64 + 2 ^ 448)
def oneEntry : LinkQueue := { LinkQueue.reset with
  entries := [{ (default : LqEntry) with filledAt := some 0 }]
  nextId := 1 }
def routes : List RouteEntry :=
  [{ (default : RouteEntry) with kind := 1, target := ⟨1, 0⟩ }, { (default : RouteEntry) with kind := 3 }, { (default : RouteEntry) with kind := 2, target := ⟨1, 0⟩ }]
def g1 : Program := { g0 with routes := [(⟨0, 0⟩, routes)] }

/-- Core 0 at tick 200 of its run, with bundle b for a sequencer: generator 0 at the scratchpad, 1 with a staged descriptor, 2 at
the reservoir, 3 at the scratchpad of core 1, 4 at message queue 0, which holds a message; LQ0 empty, LQ2 holding an entry; flag 3
external; barrier 0 with both of the core's streams; s1 is 1 and s25 is 1. -/
def issueAt (n : Fin 4) (b : RawBundle) (f : Core → Core) (h : Barrier → Barrier) : State := domRun .running (runAt 200) g1 [] fun d =>
  modBar (modCore d 0 fun k => f { k with
    imem := [(0, b)]
    pages := vset k.pages 0 .loaded
    seqs := vset k.seqs n { Sequencer.reset with
      st := .running
      winHi := 15
      sregs := vset (vset (Vector.replicate 32 0) 1 1) 25 1 }
    ags := vset (vset (vset (vset (vset k.ags 0 (ag 0)) 1 { ag 0 with staged := some (agWord, 0) }) 2 (ag 0x200000000000)) 3 (ag 0x100000400000)) 4 (ag 0x500000000000)
    lqs := vset k.lqs 2 oneEntry
    classes := vset k.classes 3 2
    credit := vset k.credit 0 8
    mqs := vset k.mqs 0 { MsgQueue.reset with
      occ := 1
      wp := 1
      descs := [{ (default : MqDesc) with len := 1, remain := 1 }] } }) 0 fun x => h { x with
    claim := some ⟨0, 0⟩
    parts := [{ who := ⟨⟨0, 0⟩, false⟩, arrivals := 1, reached := 1, left := 0, heldNext := false, leaving := false, nextAt := 0 },
              { who := ⟨⟨0, 0⟩, true⟩, arrivals := 1, reached := 1, left := 0, heldNext := false, leaving := false, nextAt := 0 }] }
def accessAt (b : RawBundle) : State := issueAt 0 b id id
def executeAt (b : RawBundle) : State := issueAt 1 b id id

/-- Whether the bundle of a sequencer issues, as the kernel can decide it. -/
def issues (s : State) (w : SeqId) (b : RawBundle) : Bool :=
  myTurn s.dev (ctxOf s.dev w) w && (takeHalts s.dev (ctxOf s.dev w)).isNone && decide (verdict s.dev (ctxOf s.dev w) w = .issue) &&
    decide (fetchBundle s.dev (ctxOf s.dev w) (getSeq s.dev w) = b)

theorem issues_spec (s : State) (w : SeqId) (b : RawBundle) (h : issues s w b = true) : Issues s w b := by
  simp only [issues, Bool.and_eq_true, decide_eq_true_eq, Option.isNone_iff_eq_none] at h
  exact ⟨h.1.1.1, h.1.1.2, h.1.2, h.2⟩

theorem issues_each (f : RawBundle → State) (w : SeqId) (l : List RawBundle) (h : (l.all fun b => issues (f b) w b) = true) :
    ∀ b ∈ l, Issues (f b) w b := fun b hb => issues_spec _ _ _ (List.all_eq_true.mp h b hb)

/-- Bundles of the operations of two registers. -/
def twoRegs : List RawBundle := [0x01, 0x02, 0x03, 0x04, 0x05, 0x06, 0x07, 0x08, 0x09, 0x0A, 0x0B, 0x0C, 0x0D].map fun op => srB op 2 3 0

theorem witness_ArithmeticOfTwoRegisters : ∀ b ∈ twoRegs, Issues (accessAt b) ⟨0, 0⟩ b := issues_each accessAt ⟨0, 0⟩ _ (by decide +kernel)

def comparing : List RawBundle := ([0x10, 0x11, 0x12, 0x18, 0x19, 0x1A, 0x1B].map fun op => srB op 2 3 0) ++ ([0x50, 0x51, 0x52].map fun op => srB op 2 0 7) ++
  [srB 0x1C 2 0 0, srB 0x1D 2 0 0]

theorem witness_ComparesAndPredicates : ∀ b ∈ comparing, Issues (accessAt b) ⟨0, 0⟩ b := issues_each accessAt ⟨0, 0⟩ _ (by decide +kernel)

def immediates : List RawBundle := ([0x41, 0x44, 0x45, 0x46, 0x47, 0x48, 0x49].map fun op => srB op 2 0 63) ++
  [scalarB 0x80 (2 ^ 35 + 5), scalarB 0x81 (2 ^ 35 + 5), srB 0x20 0 0 0, srB 0x21 0 0 0]

theorem witness_ImmediatesAndCounters : (∀ b ∈ immediates, Issues (accessAt b) ⟨0, 0⟩ b) ∧ Alone (srB 0x21 0 0 0) := by
  unfold Alone
  exact ⟨issues_each accessAt ⟨0, 0⟩ _ (by decide +kernel), by decide +kernel⟩

def queueing : List RawBundle := [scalarB 0x30 (2 * 2 ^ 30), srB 0x31 2 0 0, srB 0x32 2 0 0]

theorem witness_LinkQueueOperations :
    (∀ b ∈ queueing, Issues (accessAt b) ⟨0, 0⟩ b) ∧ (∀ b ∈ queueing, Alone b) ∧
    (∀ b ∈ queueing, (lqOf (accessAt b).dev ⟨0, 0⟩ 2).entries = oneEntry.entries) := by
  unfold Alone
  exact ⟨issues_each accessAt ⟨0, 0⟩ _ (by decide +kernel), each _ (by decide +kernel), each _ (by decide +kernel)⟩

/-- jmp, br taken and not, loop of no and of three passes, setwin and end. -/
def branching : List RawBundle :=
  [scalarB 0xA0 5, scalarB 0xA1 5, scalarB 0xA1 (2 ^ 36 + 5), scalarB 0xB0 1, scalarB 0xB0 (3 * 2 ^ 12 + 1), scalarB 0xB8 0, syncB 1 0]

theorem witness_StreamsBranchAndLoop :
    (∀ b ∈ branching, Issues (accessAt b) ⟨0, 0⟩ b) ∧
    ((readP false (getSeq (accessAt (scalarB 0xA1 5)).dev ⟨0, 0⟩) 0).getLsbD 0 ≠ brPneg (scalarB 0xA1 5) ∧
      brPneg (scalarB 0xA1 (2 ^ 36 + 5)) = true ∧ loopCount default (scalarB 0xB0 1) = 0 ∧ loopCount default (scalarB 0xB0 (3 * 2 ^ 12 + 1)) = 3) :=
  ⟨issues_each accessAt ⟨0, 0⟩ _ (by decide +kernel), by decide +kernel⟩

def generating : List RawBundle := [saB 0xC0 64, saB 0xC1 0, saB 0xC2 64, saB 0xC3 7, saB 0xC4 (2 ^ 27), saB 0xC5 0]

theorem witness_AddressGeneratorOperations :
    (∀ b ∈ generating, Issues (accessAt b) ⟨0, 0⟩ b) ∧ (∀ b ∈ generating, Alone b) ∧
    ((agOf (accessAt (saB 0xC1 0)).dev ⟨0, 0⟩ (agNum (saB 0xC1 0))).staged = some (agWord, 0)) ∧
    ((ag 0).levels.toNat ≤ 6 ∧ (∀ l : Fin 6, l.val < (ag 0).levels.toNat → (vget (ag 0).idx l).toNat < (vget (ag 0).count l).toNat) ∧
      ∀ l : Fin 6, (ag 0).levels.toNat ≤ l.val → vget (ag 0).idx l = 0) := by
  unfold Alone
  exact ⟨issues_each accessAt ⟨0, 0⟩ _ (by decide +kernel), each _ (by decide +kernel), by decide +kernel⟩

/-- Loads: local, predicated off to a queue and to a register, of a message, from the reservoir, broadcast. -/
def loading : List RawBundle := [loadB 1 0 0 0 0 0, loadB 1 0 0 0 0 (2 ^ 21), loadB 1 0 1 5 0 (2 ^ 21), loadB 1 4 0 0 2 0, loadB 1 2 0 0 1 0, loadB 2 0 0 0 0 0]
def xferOf (b : RawBundle) (store : Bool) : Xfer := slotXfer (accessAt b).dev ⟨0, 0⟩ ⟨0, 0⟩ store b

theorem witness_LoadsFillOrRequest :
    (∀ b ∈ loading, Issues (accessAt b) ⟨0, 0⟩ b) ∧ (∀ b ∈ loading, OnlyMem b false) ∧
    (∀ b ∈ [loadB 1 0 0 0 0 0, loadB 2 0 0 0 0 0], xSpace (accessAt b).dev ⟨0, 0⟩ (xferOf b false) = 0 ∧ (xferOf b false).predOff = false ∧
      xResolve (accessAt b).dev ⟨0, 0⟩ (xferOf b false) = .ok (.scratch ⟨0, 0⟩ 0)) ∧
    ((xferOf (loadB 1 0 0 0 0 (2 ^ 21)) false).predOff = true ∧ (xferOf (loadB 1 0 0 0 0 (2 ^ 21)) false).toReg = false ∧
      (xferOf (loadB 1 0 1 5 0 (2 ^ 21)) false).toReg = true) ∧
    (xSpace (accessAt (loadB 1 4 0 0 2 0)).dev ⟨0, 0⟩ (xferOf (loadB 1 4 0 0 2 0) false) = 5 ∧
      xResolve (accessAt (loadB 1 4 0 0 2 0)).dev ⟨0, 0⟩ (xferOf (loadB 1 4 0 0 2 0) false) = .ok (.queue 0)) ∧
    (xLocal (accessAt (loadB 1 2 0 0 1 0)).dev ⟨0, 0⟩ (xferOf (loadB 1 2 0 0 1 0) false) = false ∧
      xResolve (accessAt (loadB 1 2 0 0 1 0)).dev ⟨0, 0⟩ (xferOf (loadB 1 2 0 0 1 0) false) = .ok (.reservoir 0)) := by
  unfold OnlyMem
  exact ⟨issues_each accessAt ⟨0, 0⟩ _ (by decide +kernel), each _ (by decide +kernel), each _ (by decide +kernel), by decide +kernel,
    by decide +kernel, by decide +kernel⟩

/-- Stores: local, predicated off, to the reservoir; staf and stai to core 1. -/
def storing : List RawBundle := [storeB 1 0 1 0, storeB 1 0 1 (2 ^ 21), storeB 1 2 2 0, storeB 2 3 2 0, storeB 3 3 1 0]
/-- A local store to a bank that waits to be gated. -/
def unpowered : State := issueAt 0 (storeB 1 0 1 0) (fun k => { k with pdWait := [(0, 0)] }) id

theorem witness_StoresWriteOrRequest :
    (∀ b ∈ storing, Issues (accessAt b) ⟨0, 0⟩ b) ∧ (∀ b ∈ storing, OnlyMem b true) ∧
    (xSpace (accessAt (storeB 1 0 1 0)).dev ⟨0, 0⟩ (xferOf (storeB 1 0 1 0) true) = 0 ∧
      xResolve (accessAt (storeB 1 0 1 0)).dev ⟨0, 0⟩ (xferOf (storeB 1 0 1 0) true) = .ok (.scratch ⟨0, 0⟩ 0) ∧
      (xferOf (storeB 1 0 1 (2 ^ 21)) true).predOff = true) ∧
    (∀ b ∈ [storeB 2 3 2 0, storeB 3 3 1 0], xLocal (accessAt b).dev ⟨0, 0⟩ (xferOf b true) = false ∧
      xResolve (accessAt b).dev ⟨0, 0⟩ (xferOf b true) = .ok (.scratch ⟨1, 0⟩ 0) ∧ (runOf (accessAt b).dev ⟨0, 0⟩).isSome = true) ∧
    writeAccepted (accessAt (storeB 1 0 1 0)).dev ⟨0, 0⟩ 0 (xBytes (xferOf (storeB 1 0 1 0) true)) 0 = true ∧
    (Issues unpowered ⟨0, 0⟩ (storeB 1 0 1 0) ∧ xSpace unpowered.dev ⟨0, 0⟩ (slotXfer unpowered.dev ⟨0, 0⟩ ⟨0, 0⟩ true (storeB 1 0 1 0)) = 0 ∧
      xResolve unpowered.dev ⟨0, 0⟩ (slotXfer unpowered.dev ⟨0, 0⟩ ⟨0, 0⟩ true (storeB 1 0 1 0)) = .ok (.scratch ⟨0, 0⟩ 0) ∧
      writeAccepted unpowered.dev ⟨0, 0⟩ 0 (xBytes (slotXfer unpowered.dev ⟨0, 0⟩ ⟨0, 0⟩ true (storeB 1 0 1 0))) 0 = false) := by
  unfold OnlyMem
  exact ⟨issues_each accessAt ⟨0, 0⟩ _ (by decide +kernel), each _ (by decide +kernel), by decide +kernel, each _ (by decide +kernel), by decide +kernel,
    issues_spec _ _ _ (by decide +kernel), by decide +kernel⟩

/-- Flag operations: local and remote changes, waits on a local flag and on external flag 3. -/
def flagging : List RawBundle :=
  [syncB 8 5, syncB 8 (2 ^ 21 + 5), syncB 9 5, syncB 9 (2 ^ 21 + 5), syncB 0x0A 0, syncB 0x0B 0, syncB 0x0C 0, syncB 0x0A (3 * 2 ^ 13 + 9),
    syncB 0x0B (2 ^ 21 + 3 * 2 ^ 13), syncB 0x0C (3 * 2 ^ 13 + 9), syncB 0x0D 7]

theorem witness_FlagOperations :
    (∀ b ∈ flagging, Issues (accessAt b) ⟨0, 0⟩ b) ∧ (∀ b ∈ flagging, OnlySync b) ∧
    (syRa (syncB 8 (2 ^ 21 + 5)) = 1 ∧
      ((signalTarget (accessAt (syncB 8 (2 ^ 21 + 5))).dev ⟨0, 0⟩ 1 0).toOption = some ⟨1, 0⟩) ∧
      classOf (accessAt (syncB 0x0A 0)).dev ⟨0, 0⟩ 3 = 2 ∧ classOf (accessAt (syncB 0x0A 0)).dev ⟨0, 0⟩ 0 ≠ 2) := by
  refine ⟨issues_each accessAt ⟨0, 0⟩ _ (by decide +kernel), ?_, by decide +kernel⟩
  unfold OnlySync
  exact each _ (by decide +kernel)

/-- barin, barout; sends on a local, an external and an anchor channel, of no unit, and of a register's length. -/
def sending : List RawBundle := [syncB 0x11 0, syncB 0x12 0, syncB 0x18 0, syncB 0x18 (2 ^ 18), syncB 0x18 (2 ^ 19), syncB 0x19 0, syncB 0x19 (2 ^ 15)]
def barIssues (x : Bool) : State := issueAt 0 (syncB 0x10 0) (fun k => { k with seqs := vmod k.seqs 0 fun q => { q with st := .waiting, barSent := true } })
  fun b => { b with extended := x, fabDone := x, round := 1 }
/-- Both participants' arrivals are on their way, over die links that are up or not. -/
def lastArrival : BarSignal := { depart := false, part := 1, round := 0, due := 9, pc := 3 }
def crossing (up : Bool) : State := domRun .running (runAt 8) g1 [] fun d =>
  modBar { d with dieLinks := Vector.replicate 8 { DieLink.reset with up := up } } 0 fun b => { b with
    claim := some ⟨0, 0⟩
    parts := [{ who := ⟨⟨0, 0⟩, false⟩, arrivals := 1, reached := 0, left := 0, heldNext := false, leaving := false, nextAt := 0 },
              { who := ⟨⟨0, 0⟩, true⟩, arrivals := 1, reached := 0, left := 0, heldNext := false, leaving := false, nextAt := 0 }]
    signals := [{ lastArrival with part := 0 }, lastArrival] }

theorem witness_BarriersAndSends :
    (∀ b ∈ sending, Issues (accessAt b) ⟨0, 0⟩ b) ∧ (∀ b ∈ sending, OnlySync b) ∧
    (∀ x ∈ [false, true], Issues (barIssues x) ⟨0, 0⟩ (syncB 0x10 0)) ∧ (∀ x ∈ [false, true], partIndex (getBar (barIssues x).dev 0) (partWho (barIssues x).dev ⟨0, 0⟩) = some 0) ∧
    (myTurn (accessAt (syncB 0x10 0)).dev ⟨0, 0⟩ ⟨0, 0⟩ = true ∧ (takeHalts (accessAt (syncB 0x10 0)).dev ⟨0, 0⟩).isNone = true ∧
      verdict (accessAt (syncB 0x10 0)).dev ⟨0, 0⟩ ⟨0, 0⟩ = .wait [(.barrier, false)] true ∧
      partIndex (getBar (accessAt (syncB 0x10 0)).dev 0) (partWho (accessAt (syncB 0x10 0)).dev ⟨0, 0⟩) = some 0) ∧
    ((readS (getSeq (accessAt (syncB 0x19 (2 ^ 15))).dev ⟨0, 0⟩) (24 + 1)).toNat = 1 ∧ (readS (getSeq (accessAt (syncB 0x19 0)).dev ⟨0, 0⟩) 24).toNat = 0) ∧
    (routeOf (accessAt (syncB 0x18 0)).dev ⟨0, 0⟩ 0).map (·.kind) = some 1 ∧
    (routeOf (accessAt (syncB 0x18 0)).dev ⟨0, 0⟩ 1).map (·.kind) = some 3 ∧ (routeOf (accessAt (syncB 0x18 0)).dev ⟨0, 0⟩ 2).map (·.kind) = some 2 ∧
    ((∀ n, linkOpen (crossing true).dev n = true) ∧ (getBar (crossing true).dev 0).retried = false) ∧
    (lastArrival ∈ (getBar (crossing false).dev 0).signals ∧ (getBar (crossing false).dev 0).parts.length = 2 ∧
      (∀ p ∈ (getBar (crossing false).dev 0).parts, linkOpen (crossing false).dev (finMod 8 (dieOf p.who.ctx.core).val) = false) ∧
      (getBar (crossing false).dev 0).retried = false ∧ (getBar (crossing false).dev 0).claim = some ⟨0, 0⟩ ∧
      (nominalReach (getBar (crossing false).dev 0)).isSome = true ∧
      ((getDom (crossing false).dev ⟨0, 0⟩).run.map (·.items)) = some []) := by
  unfold OnlySync
  refine ⟨issues_each accessAt ⟨0, 0⟩ _ (by decide +kernel), each _ (by decide +kernel), fun x h => issues_spec _ _ _ ?_, each _ (by decide +kernel),
    by decide +kernel, by decide +kernel, by decide +kernel, by decide +kernel, by decide +kernel, by decide +kernel, by decide +kernel⟩
  exact each (p := fun x => issues (barIssues x) ⟨0, 0⟩ (syncB 0x10 0) = true) [false, true] (by decide +kernel) x h

/-- Passes on plane 0, one of four ticks a step, and passes that hold. -/
def passes : List RawBundle :=
  [matrixB 0x10 0 1 2 2 0, matrixB 0x10 0 1 2 9 0, matrixB 0x14 0 1 0x1F 2 3, matrixB 0x18 0 1 2 2 1, matrixB 0x1C 0 1 0x1F 2 0, matrixB 0x20 0x1F 0x1F 2 0 0]
/-- Passes that go on from an open plane. -/
def goesOn : List (RawBundle × Bool) :=
  [(matrixB 0x12 0 1 2 2 0, false), (matrixB 0x16 0 1 0x1F 2 0, false), (matrixB 0x1A 0 1 2 2 0, true), (matrixB 0x1E 0 1 0x1F 2 0, true)]
def openAt (b : RawBundle) (vec : Bool) : State := issueAt 1 b (fun k => { k with units := vmod k.units 0 fun u => { u with
  matrix := { u.matrix with planes := Vector.replicate 2 { Plane.reset with st := .open, vecFed := vec, fmtA := 2 } } } }) id
def mstatB (dst : Nat) : RawBundle := bundle true 23 160 (0x28 * 2 ^ 56 + 0x1F * 2 ^ 51 + 0x1F * 2 ^ 46 + dst * 2 ^ 41)

theorem witness_MatrixOperations :
    (∀ b ∈ passes ++ [mstatB 2, mstatB 0x18], Issues (executeAt b) ⟨0, 1⟩ b) ∧ (∀ x ∈ goesOn, Issues (openAt x.1 x.2) ⟨0, 1⟩ x.1) ∧
    (∀ b ∈ passes ++ [mstatB 2, mstatB 0x18] ++ goesOn.map Prod.fst, OnlyMatrix b) ∧
    ((feedSteps false (mfields (matrixB 0x10 0 1 2 9 0))).2 ≠ 1 ∧
      clocked false (mfields (matrixB 0x10 0 1 2 2 0)) 127 63 = false) ∧
    ((mfields (matrixB 0x10 0 1 2 2 0)).fmtA = 2 ∧ (mfields (matrixB 0x10 0 1 2 2 0)).exact = false ∧ dstQueue 0x18 = some 2) := by
  refine ⟨issues_each executeAt ⟨0, 1⟩ _ (by decide +kernel),
    fun x h => issues_spec _ _ _ (each goesOn (by decide +kernel : (goesOn.all fun x => decide (issues (openAt x.1 x.2) ⟨0, 1⟩ x.1 = true)) = true) x h), ?_, by decide +kernel⟩
  unfold OnlyMatrix
  exact each _ (by decide +kernel)

/-- An element program of one micro-operation: fneg or another of one input. -/
def epWord : Entry := BitVec.ofNat 2048 (7 * 2 ^ 26 + 0x1F * 2 ^ 13 + 0x1F * 2 ^ 8 + 2 ^ 1280)
def vrOp (op vd va : Nat) (rest : Nat) : RawBundle := vectorB op vd va 0x1F 0x1F rest
def vectors : List RawBundle :=
  [vectorB 1 1 2 3 0x1F (0xB * 2 ^ 44), vectorB 0x20 1 2 3 0x1F (0xC * 2 ^ 44), vectorB 0x40 1 2 3 4 0, vrOp 0x41 0x1F 6 0, vrOp 0x48 1 2 (0xC * 2 ^ 44 + 0xB * 2 ^ 32),
    vrOp 0x49 1 2 (3 * 2 ^ 44), vectorB 0x50 1 2 3 0x1F (0xB * 2 ^ 44), vectorB 0x51 1 2 3 4 (0xB * 2 ^ 44), vrOp 0x58 1 2 (0xC * 2 ^ 44 + 3 * 2 ^ 32), vrOp 0x60 0x1F 0x1F 0,
    vrOp 0x61 0x1F 2 0, vrOp 0x62 1 2 0, vrOp 0x63 1 2 0, vrOp 0x64 0x1F 2 0, vrOp 0x65 1 0x1F 0, vrOp 0x66 0x1F 2 0, vrOp 0x70 0x1F 2 0, vrOp 0x71 1 0x1F 0]
def vectorAt (b : RawBundle) : State := issueAt 1 b (fun k => { k with eps := vset k.eps 0 (some epWord), vregs := vset k.vregs 6 epWord }) id

theorem witness_VectorOperations :
    (∀ b ∈ vectors, Issues (vectorAt b) ⟨0, 1⟩ b) ∧ (∀ b ∈ vectors, OnlyVector b) ∧
    (∀ b ∈ vectors, srcQueue (vfields b).va = none ∧ srcQueue (vfields b).vb = none ∧ srcQueue (vfields b).vc = none) ∧
    ((rowOf' (vectorAt (vrOp 0x62 1 2 0)).dev ⟨0, 0⟩ 0).nan = false ∧ (rowOf' (vectorAt (vrOp 0x62 1 2 0)).dev ⟨0, 0⟩ 0).k = 0 ∧ isNan (d32 0) = false ∧
      operand (vectorAt (vrOp 0x62 1 2 0)).dev ⟨0, 0⟩ 2 0 = 0 ∧ vredKind (vfields (vrOp 0x58 1 2 (0xC * 2 ^ 44 + 3 * 2 ^ 32))) = 3 ∧
      vRnd (vfields (vrOp 0x48 1 2 (0xC * 2 ^ 44 + 0xB * 2 ^ 32))) < 3) := by
  unfold OnlyVector
  exact ⟨issues_each vectorAt ⟨0, 1⟩ _ (by decide +kernel), each _ (by decide +kernel), each _ (by decide +kernel), by decide +kernel⟩

/-- A sequencer whose turn it is not, one whose bundle halts (an undefined opcode), and one that waits for a flag. -/
theorem witness_OperationsPresentTheirBundles :
    myTurn State.reset.dev ⟨0, 0⟩ ⟨0, 0⟩ = false ∧
    (myTurn (accessAt (srB 0x01 2 3 1)).dev ⟨0, 0⟩ ⟨0, 0⟩ = true ∧ (takeHalts (accessAt (srB 0x01 2 3 1)).dev ⟨0, 0⟩).isSome = true) ∧
    (myTurn (accessAt (syncB 0x0A 1)).dev ⟨0, 0⟩ ⟨0, 0⟩ = true ∧ (takeHalts (accessAt (syncB 0x0A 1)).dev ⟨0, 0⟩).isNone = true ∧
      verdict (accessAt (syncB 0x0A 1)).dev ⟨0, 0⟩ ⟨0, 0⟩ = .wait [(.flag, false)] false ∧
      fetchBundle (accessAt (syncB 0x0A 1)).dev ⟨0, 0⟩ (getSeq (accessAt (syncB 0x0A 1)).dev ⟨0, 0⟩) = syncB 0x0A 1) := by decide +kernel

/-! ### Events of a core -/

/-- Core 0 at a tick of its run, no sequencer running, with generator 0 at the scratchpad. -/
def coreAt (t : Nat) (g : Program) (f : Core → Core) : State := domRun .running (runAt t) g [] fun d =>
  modCore { d with dieLinks := Vector.replicate 8 { DieLink.reset with up := true } } 0 fun k => f { k with ags := vset k.ags 0 (ag 0) }
theorem quiet_coreAt (t : Nat) (g : Program) (f : Core → Core) : Quiet (coreAt t g f).dev :=
  quiet_domRun_core _ _ _ _ _ (fun k => f { k with ags := vset k.ags 0 (ag 0) }) fun _ => rfl
def unitAt (t : Nat) (f : CtxUnit → CtxUnit) : State := coreAt t g1 fun k => { k with units := vmod k.units 0 f }
/-- Core 0 of a device changed otherwise too. -/
def unitOn (h : Device → Device) (f : CtxUnit → CtxUnit) : State := domRun .running (runAt 8) g1 [] fun d => modUnit (h d) ⟨0, 0⟩ f
def c0 : CtxId := ⟨0, 0⟩

def repeating : RepeatUnit := { op := .st, seq := 0, pc := 0, ag := 0, toReg := true, reg := 1, width := 1, remaining := 2, predOff := false, slot := 0,
                                waiting := false, waitLocal := false, nextTick := 8 }
def repeats (u : RepeatUnit) : State := unitAt 8 fun x => { x with stUnit := some u }
def fillOf (d : LoadDest) : Fill := { dest := d, data := 5, seq := 0, pc := 0, issued := 3, due := 8, rest := none }
def fillsAt (d : LoadDest) : State := unitAt 8 fun x => { x with fills := [fillOf d] }
def requestOf (k : ReqKind) (a : W64) : Request := { kind := k, seq := 0, pc := 0, addr := a, bytes := 64, predOff := false, valid := true, entryTick := 0, slotsLeft := 1 }
def flightOf (k : ReqKind) (a : W64) : Flight := { (default : Flight) with
  req := requestOf k a
  u := 5
  due := 8
  error := none }
def flies (f : Flight) : State := unitAt 8 fun x => { x with flights := [f] }
def pad1 : W64 := 0x100000400000
def loadFlight : ReqKind := .load (.lq 0 0) false
def filled : Flight := { flightOf loadFlight pad1 with arrived := true }
def stored : PendingStore := { offset := 4194240, bytes := 64, data := 1, wanted := 8, half := false, off := false, seq := 0, pc := 0 }
def storesAt : State := unitAt 8 fun x => { x with stores := [stored] }
/-- A transfer of core 1's scratchpad that is predicated off. -/
def flightOff (k : ReqKind) : Flight := { flightOf k pad1 with req := { requestOf k pad1 with predOff := true } }
def queued (r : Request) : State := unitAt 7 fun x => { x with rqueue := [r] }
def sendReq : Request := requestOf (.message 0 1 [] 0) 1
def contended : State := unitAt 7 fun x => { x with
  rqueue := [sendReq]
  busBanks := 0xFFFFFFFF }

theorem quiet_flies (f : Flight) : Quiet (flies f).dev := quiet_coreAt _ _ _
theorem flies_heldBanks (f : Flight) (h : f.arrived = false) (n off : Nat) : heldBanks (flies f).dev ⟨1, 0⟩ n off = false :=
  heldBanks_none (quiet_flies f) (fun x => match x with
    | 0 => by
      show ([f].all fun f => !f.arrived) = true
      simp [h]
    | 1 => rfl) _ rfl n off

theorem flies_firstAt (f : Flight) : firstAt (flies f).dev c0 f ⟨1, 0⟩ = true :=
  firstAt_alone (quiet_flies f) (fun x => match x with
    | 0 => by
      show ([f].all fun g => ((c0 : CtxId) = c0 && g.uid = f.uid)) = true
      simp
    | 1 => rfl) rfl

/-- A write of core 0 that has to cross a die link, to core 128 of its domain. -/
def crossFlight (k : ReqKind) (a : W64) : Flight := { flightOf k a with var := true }
def crossAt (k : ReqKind) (a : W64) : State := domRun .running (runAt 8) g1 [] fun d =>
  modUnit (modUnit { d with dieLinks := Vector.replicate 8 { DieLink.reset with up := true } } ⟨128, 0⟩ fun x => { x with bound := some 0 }) c0 fun x =>
    { x with flights := [crossFlight k a] }
def pad128 : W64 := 0x100020000000

theorem witness_TransfersComplete :
    (∀ u ∈ [repeating, { repeating with toReg := false, reg := 0 }], unitOf (repeats u).dev c0 true = some u ∧ unitDue (repeats u).dev c0 true = true ∧
      mustAbort (repeats u).dev c0 = false ∧ (takeHalts (repeats u).dev c0).isNone = true ∧ unitLate (repeats u).dev c0 u = false ∧
      xFault (repeats u).dev c0 (unitXfer u) = none) ∧
    (xUnmet (repeats repeating).dev c0 (unitXfer repeating) 0 = [] ∧
      (xUnmet (repeats { repeating with toReg := false, reg := 0 }).dev c0 (unitXfer { repeating with toReg := false, reg := 0 }) 0).length = 1) ∧
    (∀ x ∈ [LoadDest.lq 0 0, .sreg 0 3, .staging 7], (getUnit (fillsAt x).dev c0).fills = [fillOf x] ∧ executing (fillsAt x).dev c0 = true ∧
      presented (fillsAt x).dev c0 = true ∧ (fillOf x).due ≤ tickOf (fillsAt x).dev c0) ∧
    ((getUnit (flies filled).dev c0).fills = [] ∧ (getUnit (flies filled).dev c0).flights = [filled] ∧ flightFillDue (flies filled).dev c0 filled = true ∧
      executing (flies filled).dev c0 = true ∧ filled.req.kind = .load (.lq 0 0) false) ∧
    (storeDue storesAt.dev c0 = true ∧ (getUnit storesAt.dev c0).stores = [stored] ∧ isSplit storesAt.dev c0.core = false ∧
      memoriesWf storesAt.dev = true ∧ stored.bytes ≤ 256) ∧
    (∀ r ∈ [{ requestOf loadFlight pad1 with slotsLeft := 4 }, requestOf loadFlight pad1, sendReq], departDue (queued r).dev c0 = true ∧
      accessed (queued r).dev c0 = true ∧ storeDue (queued r).dev c0 = false ∧ (getUnit (queued r).dev c0).rqueue = [r] ∧
      (streamOf (queued r).dev c0).edge = [] ∧ (getUnit (queued r).dev c0).flights = [] ∧ (streamOf (queued r).dev c0).edgeTick ≤ tickOf (queued r).dev c0) ∧
    ((routeOf (queued sendReq).dev c0 0).map (·.kind) = some 1 ∧ banksFree (queued sendReq).dev c0 (padBanks (queued sendReq).dev c0 0 64) = true ∧
      departDue contended.dev c0 = true ∧ accessed contended.dev c0 = true ∧ storeDue contended.dev c0 = false ∧ (getUnit contended.dev c0).rqueue = [sendReq] ∧
      (streamOf contended.dev c0).edge = [] ∧ banksFree contended.dev c0 (padBanks contended.dev c0 0 64) = false) ∧
    (∀ k ∈ [loadFlight, .store 3], (getUnit (flies (flightOf k pad1)).dev c0).flights = [flightOf k pad1] ∧
      padTarget (flies (flightOf k pad1)).dev c0 (flightOf k pad1) = some (⟨1, 0⟩, 0) ∧ (getCore (flies (flightOf k pad1)).dev 1).inReset = false ∧
      padPowered (flies (flightOf k pad1)).dev ⟨1, 0⟩ 0 64 = true ∧ writeAccepted (flies (flightOf k pad1)).dev ⟨1, 0⟩ 0 64 0 = true ∧
      (flightOf k pad1).halves = 0 ∧ memoriesWf (flies (flightOf k pad1)).dev = true) ∧
    (accessDue (flies (flightOf loadFlight pad1)).dev c0 (flightOf loadFlight pad1) = true ∧
      accessDue (flies (flightOf (.store 3) pad1)).dev c0 (flightOf (.store 3) pad1) = true) ∧
    (∀ k ∈ [loadFlight, .store 3], (getUnit (flies (flightOff k)).dev c0).flights = [flightOff k] ∧
      padTarget (flies (flightOff k)).dev c0 (flightOff k) = some (⟨1, 0⟩, 0) ∧ (getCore (flies (flightOff k)).dev 1).inReset = false ∧ (flightOff k).req.predOff = true) ∧
    (accessDue (flies (flightOff loadFlight)).dev c0 (flightOff loadFlight) = true ∧
      accessDue (flies (flightOff (.store 3))).dev c0 (flightOff (.store 3)) = true) ∧
    (∀ x ∈ [(ReqKind.store 3, pad128), (.accumulate false 5, pad128), (.flag 7 1, 128), (.message 2 1 [1] 64, 128), (.message 0 1 [5] 0, 128)],
      (getUnit (crossAt x.1 x.2).dev c0).flights = [crossFlight x.1 x.2] ∧ (getUnit (crossAt x.1 x.2).dev c0).adds = [] ∧
      crossDue (crossAt x.1 x.2).dev c0 (crossFlight x.1 x.2) = true ∧ flightLinks (crossAt x.1 x.2).dev c0 (crossFlight x.1 x.2) ≠ []) ∧
    (isAnchorUnit (crossAt (.message 2 1 [1] 64) 128).dev c0 (crossFlight (.message 2 1 [1] 64) 128) = true ∧
      isMail (crossAt (.message 0 1 [5] 0) 128).dev c0 (crossFlight (.message 0 1 [5] 0) 128) = true) :=
  ⟨each _ (by decide +kernel), by decide +kernel, each _ (by decide +kernel), by decide +kernel, by decide +kernel, each _ (by decide +kernel),
    by decide +kernel, each _ (by decide +kernel),
    ⟨accessDue_of (.inl ⟨_, _, rfl⟩) (t := ⟨1, 0⟩) (off := 0) (by decide +kernel) (flies_heldBanks _ rfl _ _) (by decide +kernel) (flies_firstAt _),
    accessDue_of (.inr ⟨_, rfl⟩) (t := ⟨1, 0⟩) (off := 0) (by decide +kernel) (flies_heldBanks _ rfl _ _) (by decide +kernel) (flies_firstAt _)⟩,
    each _ (by decide +kernel),
    ⟨accessDue_of (.inl ⟨_, _, rfl⟩) (t := ⟨1, 0⟩) (off := 0) (by decide +kernel) (flies_heldBanks _ rfl _ _) (by decide +kernel) (flies_firstAt _),
    accessDue_of (.inr ⟨_, rfl⟩) (t := ⟨1, 0⟩) (off := 0) (by decide +kernel) (flies_heldBanks _ rfl _ _) (by decide +kernel) (flies_firstAt _)⟩,
    each _ (by decide +kernel), by decide +kernel⟩

/-- Accumulates and anchor units that have not and that have read; the partition has counted periods since. -/
def adding (k : ReqKind) (arrived : Bool) : Flight := { flightOf k (match k with | .message _ _ _ _ => 1 | _ => pad1) with arrived := arrived }
def addsAt (k : ReqKind) (arrived : Bool) : State := domRun .running (runAt 8) g1 [] fun d => modUnit (modPart d 0 fun p => { p with periods := 9 }) c0 fun x =>
  { x with flights := [adding k arrived] }
theorem quiet_addsAt (k : ReqKind) (arrived : Bool) : Quiet (addsAt k arrived).dev :=
  quiet_domRun_core _ _ _ _ _ (fun y => { y with units := vmod y.units 0 fun x => { x with flights := [adding k arrived] } }) fun _ => rfl
theorem adds_heldBanks (k : ReqKind) (n off : Nat) : heldBanks (addsAt k false).dev ⟨1, 0⟩ n off = false :=
  heldBanks_none (quiet_addsAt k false) (fun x => match x with
    | 0 => rfl
    | 1 => rfl) _ rfl n off
theorem adds_firstAt (k : ReqKind) (arrived : Bool) : firstAt (addsAt k arrived).dev c0 (adding k arrived) ⟨1, 0⟩ = true :=
  firstAt_alone (quiet_addsAt k arrived) (fun x => match x with
    | 0 => by
      show ([adding k arrived].all fun g => ((c0 : CtxId) = c0 && g.uid = (adding k arrived).uid)) = true
      simp
    | 1 => rfl) rfl
def unitAdd : ReqKind := .message 2 1 [1] 64
def signal : ReqKind := .flag 7 1
/-- A unit from outside for an anchor buffer of core 1, read in a period or not yet. -/
def inAdd (p : Option Nat) : InAdd :=
  { off := 64, data := 1, reached := 9, readAt := p, sum := 5, flag := some (7, 1), back := some { chan := 3, units := 1, due := 0, inbound := some (40, 2, 4) } }
def inAdds (p : Option Nat) : State := domRun .running (runAt 8) g1 [] fun d => modUnit (modPart d 0 fun q => { q with periods := 9 }) c0 fun x =>
  { x with adds := [inAdd p] }
theorem quiet_inAdds (p : Option Nat) : Quiet (inAdds p).dev :=
  quiet_domRun_core _ _ _ _ _ (fun y => { y with units := vmod y.units 0 fun x => { x with adds := [inAdd p] } }) fun _ => rfl
def mail : ReqKind := .message 0 1 [5] 0
def returned : CreditReturn := { chan := 9, units := 2, due := 8, inbound := none }
def crediting : State := unitAt 8 fun x => { x with credits := [returned] }
def inbound1 : InEntry := { (default : InEntry) with
  kind := 1
  target := ⟨0, 0⟩
  queue := 7
  src := 40 }
def g2 : Program := { g1 with inbound := [inbound1] }
def heldMail : Assembling := { src := 40, inid := 0, mseq := 0, sender := 0, chan := 0, len := 1, units := [(0, 5)], held := true, retried := false, refused := false }
def holding : State := domRun .running (runAt 8) g2 [] fun d => modDom d ⟨0, 0⟩ fun m => { m with assembling := [heldMail] }

theorem adds_read (k : ReqKind) (off : Nat) (hp : padTarget (addsAt k false).dev c0 (adding k false) = some (⟨1, 0⟩, off))
    (h : accReads (addsAt k false).dev c0 ⟨1, 0⟩ (adding k false) off = true) : accDue (addsAt k false).dev c0 (adding k false) = true :=
  accDue_of hp (adds_heldBanks _ _ _) h (adds_firstAt _ _)
theorem adds_write (k : ReqKind) (off : Nat) (hp : padTarget (addsAt k true).dev c0 (adding k true) = some (⟨1, 0⟩, off))
    (h : accWrites (addsAt k true).dev c0 ⟨1, 0⟩ (adding k true) off = true) : accDue (addsAt k true).dev c0 (adding k true) = true :=
  accDue_arrived hp h (adds_firstAt _ _)

theorem mail_first : messageTurn (flies (flightOf mail 1)).dev c0 (flightOf mail 1) = true :=
  messageTurn_alone (quiet_flies _) (fun x => match x with
    | 0 => by
      show ([flightOf mail 1].all fun g => ((c0 : CtxId) = c0 && g = flightOf mail 1)) = true
      simp
    | 1 => rfl) (by decide +kernel)

theorem holding_meets :
    domOf holding.dev c0 = some ⟨0, 0⟩ ∧ (getDom holding.dev ⟨0, 0⟩).prog = some g2 ∧ (getDom holding.dev ⟨0, 0⟩).assembling = [heldMail] ∧
      isSplit holding.dev 0 = false ∧ receives holding.dev ⟨0, 0⟩ = true ∧ (getCore holding.dev 0).inReset = false ∧ heldMail.refused = false ∧
      heldMail.units.length = heldMail.len ∧ physQueue false 0 7 = 7 ∧ heldMail.mseq = nextMseq (getDom holding.dev ⟨0, 0⟩) heldMail ∧ readsDue holding.dev c0 = false ∧
      (mqOf holding.dev c0 7).occ + placeCost (mqOf holding.dev c0 7) 1 ≤ 64 :=
  ⟨rfl, rfl, rfl, by decide +kernel, by decide +kernel, by decide +kernel, rfl, rfl, rfl, by decide +kernel, by decide +kernel, by decide +kernel⟩

theorem witness_SignalsAndMessagesArrive :
    (∀ x ∈ [(ReqKind.accumulate true 5, false), (.accumulate false 5, true), (unitAdd, false), (unitAdd, true)],
      (getUnit (addsAt x.1 x.2).dev c0).flights = [adding x.1 x.2] ∧
      (padTarget (addsAt x.1 x.2).dev c0 (adding x.1 x.2)).map (·.1) = some ⟨1, 0⟩ ∧ (getCore (addsAt x.1 x.2).dev 1).inReset = false ∧
      writeAccepted (addsAt x.1 x.2).dev ⟨1, 0⟩ 0 64 9 = true ∧ writeAccepted (addsAt x.1 x.2).dev ⟨1, 0⟩ 64 64 9 = true ∧
      corePeriod (addsAt x.1 x.2).dev 1 = 9 ∧ (adding x.1 x.2).reached = none ∧ (adding x.1 x.2).halves = 0 ∧ memoriesWf (addsAt x.1 x.2).dev = true) ∧
    (∀ p ∈ [none, some 8], (getUnit (inAdds p).dev c0).flights = [] ∧ (getUnit (inAdds p).dev c0).adds = [inAdd p] ∧
      (getCore (inAdds p).dev 0).inReset = false ∧ writeAccepted (inAdds p).dev c0 64 64 9 = true ∧ (inAdds p).dev.scratchBad = [] ∧
      isArmed (inAdds p).dev 0x100 (coreUnit c0) = false ∧ memoriesWf (inAdds p).dev = true) ∧
    (addDue (inAdds none).dev c0 = true ∧ addDue (inAdds (some 8)).dev c0 = true) ∧
    (∀ a, (adding (.accumulate false 5) a).req.predOff = false ∧ (adding unitAdd a).req.predOff = false ∧ (adding unitAdd a).req.bytes = 64 ∧ (adding unitAdd a).data = 0) ∧
    (accDue (addsAt (.accumulate false 5) true).dev c0 (adding (.accumulate false 5) true) = true ∧ accDue (addsAt unitAdd true).dev c0 (adding unitAdd true) = true) ∧
    (accDue (addsAt (.accumulate true 5) false).dev c0 (adding (.accumulate true 5) false) = true ∧ accDue (addsAt unitAdd false).dev c0 (adding unitAdd false) = true) ∧
    ((routeOf (addsAt unitAdd false).dev c0 2).map (·.kind) = some 2 ∧ (routeOf (flies (flightOf mail 1)).dev c0 0).map (·.target) = some ⟨1, 0⟩) ∧
    ((getUnit (flies (flightOf signal 1)).dev c0).flights = [flightOf signal 1] ∧ flagDue (flies (flightOf signal 1)).dev c0 (flightOf signal 1) = true ∧
      (getCore (flies (flightOf signal 1)).dev (ctxOfScore 1).core).inReset = false) ∧
    (messageDue (flies (flightOf mail 1)).dev c0 (flightOf mail 1) = true ∧ messageTurn (flies (flightOf mail 1)).dev c0 (flightOf mail 1) = true) ∧
    ((getUnit crediting.dev c0).credits = [returned] ∧ creditDue crediting.dev c0 returned = true) ∧
    (domOf holding.dev c0 = some ⟨0, 0⟩ ∧ (getDom holding.dev ⟨0, 0⟩).prog = some g2 ∧ (getDom holding.dev ⟨0, 0⟩).assembling = [heldMail] ∧
      isSplit holding.dev 0 = false ∧ receives holding.dev ⟨0, 0⟩ = true ∧ (getCore holding.dev 0).inReset = false ∧ heldMail.refused = false ∧
      heldMail.units.length = heldMail.len ∧ physQueue false 0 7 = 7 ∧ heldMail.mseq = nextMseq (getDom holding.dev ⟨0, 0⟩) heldMail ∧ readsDue holding.dev c0 = false ∧
      (mqOf holding.dev c0 7).occ + placeCost (mqOf holding.dev c0 7) 1 ≤ 64) :=
  ⟨each _ (by decide +kernel), each _ (by decide +kernel),
    ⟨addDue_alone (a := inAdd none) (quiet_inAdds none) (by decide +kernel) rfl rfl (by decide +kernel),
      addDue_alone (a := inAdd (some 8)) (quiet_inAdds _) (by decide +kernel) rfl (by decide +kernel) (by decide +kernel)⟩, by decide +kernel,
    ⟨adds_write (.accumulate false 5) 0 (by decide +kernel) (by decide +kernel), adds_write unitAdd 64 (by decide +kernel) (by decide +kernel)⟩,
    ⟨adds_read (.accumulate true 5) 0 (by decide +kernel) (by decide +kernel), adds_read unitAdd 64 (by decide +kernel) (by decide +kernel)⟩,
    by decide +kernel, by decide +kernel, ⟨by decide +kernel, mail_first⟩, by decide +kernel, holding_meets⟩

/-! ### Barriers and engines -/

def arrival (round : Nat) : BarSignal := { depart := false, part := 0, round := round, due := 8, pc := 3 }
def departure : BarSignal := { arrival 0 with depart := true }
def partOf : BarPart := { who := ⟨⟨0, 0⟩, false⟩, arrivals := 1, reached := 0, left := 0, heldNext := false, leaving := false, nextAt := 0 }
/-- The links of every die are up. -/
def opened (d : Device) : Device := { d with dieLinks := Vector.replicate 8 { DieLink.reset with up := true } }
def barOver (h : Device → Device) (f : Barrier → Barrier) : State := domRun .running (runAt 8) g1 [] fun d => modBar (h d) 63 fun b => f { b with
  claim := some ⟨0, 0⟩
  parts := [partOf]
  round := 5 }
def barAt : (Barrier → Barrier) → State := barOver opened
/-- No die link is up, while an arrival and a departure are on their way. -/
def cutOff : State := barOver id fun b => { b with signals := [arrival 5, departure] }
/-- The one participant has arrived in two rounds and left none, and the release of the first is there. -/
def leavesLate : Barrier := { Barrier.reset with parts := [{ partOf with arrivals := 2 }] }
def arrives (round : Nat) (x : Bool) : State := barAt fun b => { b with
  extended := x
  signals := [arrival round] }
def releasing : State := barAt fun b => { b with releaseAt := some 8 }
def reaching : State := barAt fun b => { b with reachAt := some 8 }
def departing (n h : BitVec 16) : State := barAt fun b => { b with
  awaitDep := n
  held := h
  signals := [departure] }
def violating : State := barAt fun b => { b with halts := [(⟨⟨0, 0⟩, false⟩, 8, 3)] }

theorem witness_BarrierRoundsComplete :
    (∀ s ∈ [arrives 5 false, arrives 5 true, releasing, reaching, departing 2 0], ∀ p ∈ (getBar s.dev 63).parts, partOpen s.dev p = true) ∧
    (partOf ∈ (getBar cutOff.dev 63).parts ∧ partOpen cutOff.dev partOf = false ∧
      ∀ g ∈ (getBar cutOff.dev 63).signals, (getBar cutOff.dev 63).parts[g.part]? = some partOf) ∧
    (leavesLate.parts = [{ partOf with arrivals := 2 }] ∧ leavesLate.extended = false ∧ (getBar reaching.dev 63).retried = false) ∧
    (∀ x ∈ [(5, false), (5, true), (6, false), (9, false)], nextSignal (arrives x.1 x.2).dev (getBar (arrives x.1 x.2).dev 63) false = some (arrival x.1) ∧
      barRunning (arrives x.1 x.2).dev (getBar (arrives x.1 x.2).dev 63) = true) ∧
    ((getBar (arrives 5 true).dev 63).round.toNat = 5 ∧ (getBar (arrives 5 true).dev 63).awaitDep = 0 ∧
      ((getBar (arrives 5 true).dev 63).counted + 1).toNat = (getBar (arrives 5 true).dev 63).parts.length ∧ (getBar (arrives 5 false).dev 63).parts = [partOf]) ∧
    ((getBar releasing.dev 63).releaseAt = some 8 ∧ barRunning releasing.dev (getBar releasing.dev 63) = true ∧
      8 ≤ barTick releasing.dev (getBar releasing.dev 63) ∧ (getBar releasing.dev 63).retried = false) ∧
    ((getBar reaching.dev 63).reachAt = some 8 ∧ (getBar reaching.dev 63).claim = some ⟨0, 0⟩ ∧ (getDom reaching.dev ⟨0, 0⟩).prog = some g1 ∧
      (getDom reaching.dev ⟨0, 0⟩).run = some (runAt 8) ∧ barRunning reaching.dev (getBar reaching.dev 63) = true ∧
      8 ≤ barTick reaching.dev (getBar reaching.dev 63)) ∧
    (departure.due = barTick (departing 2 0).dev (getBar (departing 2 0).dev 63) ∧ (getBar (departing 2 0).dev 63).retried = false ∧
      (getBar (arrives 5 false).dev 63).retried = false) ∧
    (∀ x ∈ [(2, 0), (1, 0), (1, 1)], nextSignal (departing x.1 x.2).dev (getBar (departing x.1 x.2).dev 63) true = some departure ∧
      barRunning (departing x.1 x.2).dev (getBar (departing x.1 x.2).dev 63) = true ∧ (getBar (departing x.1 x.2).dev 63).parts.length = 1) ∧
    (executing violating.dev c0 = true ∧ isHalted violating.dev c0 = false ∧ (∀ j, j ≠ 63 → (getBar violating.dev j).halts = []) ∧
      (getBar violating.dev 63).halts = [(⟨⟨0, 0⟩, false⟩, 8, 3)] ∧ 8 ≤ barTick violating.dev (getBar violating.dev 63)) :=
  ⟨each _ (by decide +kernel), by decide +kernel, by decide +kernel, each _ (by decide +kernel), by decide +kernel, by decide +kernel, by decide +kernel,
    by decide +kernel, each _ (by decide +kernel), by decide +kernel⟩

def feedOf (sub : Nat) : Feed := { (default : Feed) with
  f := mfields (matrixB 0x10 0x10 1 2 2 3)
  subTicks := sub
  nextTick := 8 }
def feeds (sub : Nat) : State := unitAt 8 fun x => { x with matrix := { x.matrix with feed := some (feedOf sub) } }
def drainOf (dst : BitVec 5) : Drain := { plane := 0, f := default, seq := 1, pc := 0, dst := dst, rows := 3, cols := 63, exact := false, tf := 0, next := 0,
                                          waiting := false, nextTick := 65, done := false, issued := 0 }
def fullQueue : LinkQueue := { LinkQueue.reset with entries := List.replicate 16 { (default : LqEntry) with filledAt := some 0 } }
def drainsAt (dst : BitVec 5) : State := coreAt 65 g1 fun k => { k with
  lqs := vset k.lqs 3 fullQueue
  units := vmod k.units 0 fun x => { x with matrix := { x.matrix with drains := [drainOf dst] } } }
def resultOf : VResult := { due := 8, index := some 0, data := 5, mask := 7, flags := 1, ra := none }
def vopOf (a : BitVec 5) (total : Nat) (l : List VResult) : VOp := { (default : VOp) with
  f := { (default : VectorFields) with
    opc := 0x50
    va := a
    vb := 1 }
  total := total
  start := 8
  results := l
  nextTick := 8 }
def computes (o : VOp) : State := unitAt 8 fun x => { x with vector := { x.vector with op := some o } }
/-- An operation steps on the tick on which another sequencer fetches an undefined opcode. -/
def haltsAt : State := issueAt 0 (srB 0x01 2 3 1) (fun k => { k with units := vmod k.units 0 fun x => { x with vector := { x.vector with
  op := some (vopOf 2 0 [resultOf]) } } }) id

theorem witness_EnginesAdvance :
    (∀ n ∈ [2, 1, 0], (matrixOf (feeds n).dev c0).feed = some (feedOf n) ∧ feedDue (feeds n).dev c0 = true) ∧
    (isHalted (feeds 0).dev c0 = false ∧ .empty ∈ feedHeads (feeds 0).dev c0 (feedOf 0) ∧ ∀ h ∈ feedHeads (feeds 0).dev c0 (feedOf 0), h.isLate = false) ∧
    (∀ x ∈ [0x19, 15], (matrixOf (drainsAt x).dev c0).drains = [drainOf x] ∧ drainDue (drainsAt x).dev c0 = true) ∧
    (destRoom (drainsAt 0x19).dev c0 0x19 = false ∧ (planeOf (drainsAt 15).dev c0 0).vecFed = false) ∧
    (vecOf (computes (vopOf 2 0 [resultOf])).dev c0 = some (vopOf 2 0 [resultOf]) ∧ vecDue (computes (vopOf 2 0 [resultOf])).dev c0 = true ∧
      resultOf.due ≤ tickOf (computes (vopOf 2 0 [resultOf])).dev c0) ∧
    (vecDue (computes (vopOf 0x10 1 [])).dev c0 = true ∧ (vopOf 0x10 1 []).start ≤ tickOf (computes (vopOf 0x10 1 [])).dev c0 ∧
      .empty ∈ vHeads (computes (vopOf 0x10 1 [])).dev c0 (vopOf 0x10 1 []) ∧ isHalted (computes (vopOf 0x10 1 [])).dev c0 = false ∧
      ∀ h ∈ vHeads (computes (vopOf 0x10 1 [])).dev c0 (vopOf 0x10 1 []), h.isLate = false) ∧
    (mustAbort (computes (vopOf 2 0 [resultOf])).dev c0 = false ∧ haltReqs (computes (vopOf 2 0 [resultOf])).dev c0 = [] ∧
      mustAbort (computes (vopOf 0x10 1 [])).dev c0 = false ∧ haltReqs (computes (vopOf 0x10 1 [])).dev c0 = []) ∧
    (vecDue haltsAt.dev c0 = true ∧ mustAbort haltsAt.dev c0 = false ∧ ((haltReqs haltsAt.dev c0).any fun h => h.code != 0x17) = true ∧
      (takeHalts haltsAt.dev c0).isSome = true) :=
  ⟨each _ (by decide +kernel), by decide +kernel, each _ (by decide +kernel), by decide +kernel, by decide +kernel, by decide +kernel, by decide +kernel,
    by decide +kernel⟩

/-! ### Frames -/

/-- The remainder after n bytes of v, on numbers; each is compared so that the kernel evaluates it before the next. -/
def bitN (c : Nat) : Nat := if c % 2 = 1 then (c >>> 1) ^^^ 0xEDB88320 else c >>> 1
def byteN (c b : Nat) : Nat := bitN (bitN (bitN (bitN (bitN (bitN (bitN (bitN (c ^^^ b))))))))
def crcN : Nat → Nat → Nat → Nat
  | 0, _, c => c
  | n + 1, v, c => match Nat.beq c 0 with
    | true => crcN n (v / 256) (byteN c (v % 256))
    | false => crcN n (v / 256) (byteN c (v % 256))

theorem bitN_crcBit (c : W32) : bitN c.toNat = (crcBit c).toNat := by
  simp only [bitN, crcBit, BitVec.getLsbD, Nat.testBit_zero, decide_eq_true_eq]
  split <;> simp [BitVec.toNat_xor, BitVec.toNat_ushiftRight]

theorem byteN_crcByte (c : W32) (v : Nat) : byteN c.toNat (v % 256) = (crcByte c (BitVec.ofNat 8 v)).toNat := by
  have h : c.toNat ^^^ (v % 256) = (c ^^^ (BitVec.ofNat 8 v).setWidth 32).toNat := by
    simp only [BitVec.toNat_xor, BitVec.toNat_setWidth, BitVec.toNat_ofNat]
    congr 1
    omega
  simp only [byteN, crcByte, h, bitN_crcBit]

theorem crcN_foldl (n : Nat) : ∀ (v : Nat) (c : W32), crcN n v c.toNat = ((leBytes n v).foldl crcByte c).toNat := by
  induction n with
  | zero => intro v c; rfl
  | succ n ih =>
    intro v c
    have h : crcN (n + 1) v c.toNat = crcN n (v / 256) (byteN c.toNat (v % 256)) := by
      rw [crcN]
      split <;> rfl
    rw [h, byteN_crcByte, ih]
    rfl

theorem take_leBytes (n k : Nat) : ∀ v, (leBytes (n + k) v).take n = leBytes n v := by
  induction n with
  | zero => intro v; simp [leBytes]
  | succ n ih =>
    intro v
    rw [Nat.succ_add]
    simp [leBytes, ih]

theorem frameOk_of (f : FrameBits) : frameOk f = decide (crcN 252 f.toNat 0xFFFFFFFF ^^^ 0xFFFFFFFF = frameField f 252 4) := by
  have h : (crc32 ((frameBytes f).take 252)).toNat = crcN 252 f.toNat 0xFFFFFFFF ^^^ 0xFFFFFFFF := by
    rw [frameBytes, take_leBytes 252 4, crc32, ← BitVec.xor_allOnes, BitVec.toNat_xor, ← crcN_foldl 252 f.toNat 0xFFFFFFFF]
    rfl
  rw [frameOk, h]

/-- A frame of a kind, sequence number, destination, source, first plane and body, with bytes 240 on zero and an FCS. -/
def frameN (version kind seq dst src first body fcs : Nat) : FrameBits :=
  BitVec.ofNat 2048 (16 * version + kind + seq * 2 ^ 16 + dst * 2 ^ 32 + src * 2 ^ 64 + first * 2 ^ 88 + body * 2 ^ 128 + fcs * 2 ^ 2016)
def idleF : FrameBits := frameN 1 0 0 0 0 0 (0) 0x99FCDFC1
def foreignF : FrameBits := frameN 2 0 0 0 0 0 (0) 0xD95C5591
def mailOld : FrameBits := frameN 1 1 4095 20 24 0 (0) 0x7F2F19FE
def mailFar : FrameBits := frameN 1 1 1 20 24 0 (0) 0xF727C9FD
def creditOld : FrameBits := frameN 1 2 4095 20 24 0 (0) 0x7B25115B
def creditFar : FrameBits := frameN 1 2 1 20 24 0 (0) 0xF32DC158
def collOld : FrameBits := frameN 1 3 4095 20 24 0 (0) 0x78DCE938
def collFar : FrameBits := frameN 1 3 1 20 24 0 (0) 0xF0D4393B
def assignF : FrameBits := frameN 1 11 0 0 0 0 (0) 0x8239147C
def killF : FrameBits := frameN 1 12 0 0 0 0 (1 + 7 * 2 ^ 16) 0x5EE81A5F
def beaconF : FrameBits := frameN 1 8 0 0 0 0 (2 ^ 112) 0xFC66254D
def correctF : FrameBits := frameN 1 8 0 0 0 0 (3 * 2 ^ 112) 0x08CC5665
def mailF : FrameBits := frameN 1 1 0 20 24 0 (2 ^ 8 + 2 ^ 16) 0x8122501A
def creditF : FrameBits := frameN 1 2 0 20 24 0 (1 + 9 * 2 ^ 80 + 2 * 2 ^ 88) 0x5A69A108
def collF : FrameBits := frameN 1 3 0 20 24 0 (2 + 77 * 2 ^ 16 + 2 ^ 64 + 5 * 2 ^ 1760) 0xF77B10A9

def goodFrames : List FrameBits := [idleF, foreignF, mailOld, mailFar, creditOld, creditFar, collOld, collFar, assignF, killF, beaconF, correctF, mailF, creditF, collF]
theorem frames_good : ∀ f ∈ goodFrames, frameOk f = true := fun f h => (frameOk_of f).trans
  (List.all_eq_true.mp (by decide +kernel : (goodFrames.all fun f => decide (crcN 252 f.toNat 0xFFFFFFFF ^^^ 0xFFFFFFFF = frameField f 252 4)) = true) f h)
theorem frame_bad : frameOk (frameN 1 0 0 0 0 0 0 0) = false := (frameOk_of _).trans (by decide +kernel)

/-! ### Stalls, streams and memories -/

def lateItem : VarItem := { ref := .copy, due := 8, ready := none, cause := 6 }
def itemRun : Run := { runAt 8 with items := [lateItem] }
def blocked : State := domRun .running itemRun g1 [] id
def spilling (o : OutItem) : State := unitAt 8 fun x => { x with stream := { x.stream with outbound := [o] } }
def spillOut : OutItem := { (default : OutItem) with
  granted := true
  ackDue := 8
  error := none }
def failing : State := flies { filled with
  due := 7
  error := some 0x0C }
def stalledRun : Run := { runAt 8 with stalled := true }
def stalling : State := domRun .running stalledRun g1 [] id
/-- The second half of a line load is still to be read when the stall ends. -/
def halfFill : Fill := { dest := .lq 0 0, data := 5, seq := 0, pc := 0, issued := 7, due := 13, rest := some 128 }
def halfFilled : State := domRun .running stalledRun g1 [] fun d => modUnit d c0 fun x => { x with
  fills := [halfFill]
  busNext := 4 }
def abortRun : Run := { runAt 8 with abortAt := some 8 }
def aborting : State := domRun .running abortRun g1 [] id
def g3 : Program := { g1 with watchdog := 1 }
def waiting : State := coreAt 200 g3 fun k => { k with
  imem := [(0, syncB 0x0A 1)]
  pages := vset k.pages 0 .loaded
  seqs := vset k.seqs 0 { Sequencer.reset with
    st := .running
    winHi := 15 } }
def pacing (halts : Bool) (l : List (Nat × Nat)) : Program := { g1 with pace := some { haltOnMiss := halts, reserve := 0, points := l } }
def pointRun : Run := { runAt 8 with pointDue := true }
def pointAt (halts : Bool) (l : List (Nat × Nat)) : State := domRun .running pointRun (pacing halts l) [] fun d =>
  { d with clock := { d.clock with time16 := 160 } }
def replayOf (n : Nat) : Replay := { (default : Replay) with
  since := 5
  tries := n
  checked := true
  det := 0x101 }
def periodRun : Run := { runAt 8 with period := 8 }
def replaying (n : Nat) : State := domRun .running periodRun g1 [] fun d => modUnit d c0 fun x => { x with replays := [replayOf n] }
/-- A window opens on the tick on which a stall ends. -/
def openingRun : Run := { stalledRun with openings := [(8, 100)] }
def opening : State := domRun .running openingRun g1 [] id
/-- Output of a point is withheld. -/
def withheldCmd : Cmd := { cmdOf (.readTensor { readBody with dpoint := 4 }) with held := true }
def withheldAt : State := domRun .running (runAt 8) g1 [withheldCmd] id

theorem witness_DomainsStallHaltAndMeetDeadlines :
    ((getDom blocked.dev ⟨0, 0⟩).run = some itemRun ∧ (getDom blocked.dev ⟨0, 0⟩).st = .running ∧ itemRun.ramp = 0 ∧ lateItem ∈ itemRun.items ∧
      lateItem.due ≤ itemRun.tick ∧ readyBy lateItem.ready itemRun.period = false ∧ liveDom (getDom blocked.dev ⟨0, 0⟩) = true ∧ itemRun.started = true ∧
      tickBegun blocked.dev ⟨0, 0⟩ = false ∧ blockers blocked.dev ⟨0, 0⟩ = [⟨8, 6⟩]) ∧
    (NoTransferHalt blocked.dev ⟨0, 0⟩ ∧ NoTransferHalt (running 8).dev ⟨0, 0⟩) ∧
    (blockers (running 8).dev ⟨0, 0⟩ = [] ∧ tickBegun (running 8).dev ⟨0, 0⟩ = false ∧ blockers (spilling spillOut).dev ⟨0, 0⟩ = [⟨8, 0⟩]) ∧
    (domCtxs failing.dev ⟨0, 0⟩ = [c0] ∧ isHalted failing.dev c0 = false ∧ executing failing.dev c0 = true ∧ transferHalts failing.dev c0 ≠ []) ∧
    (withheldCmd ∈ withheldAt.dev.cmds ∧ withheldCmd.held = true ∧ withheldCmd.hdr.part = 0 ∧
      withheldCmd.hdr.dom = 0 ∧ withheldCmd.job = .readTensor { readBody with dpoint := 4 }) ∧
    ((getDom opening.dev ⟨0, 0⟩).run = some openingRun ∧ (getDom opening.dev ⟨0, 0⟩).prog = some g1 ∧ (getDom opening.dev ⟨0, 0⟩).st = .running ∧
      openingRun.openings = [(8, 100)] ∧ liveDom (getDom opening.dev ⟨0, 0⟩) = true ∧ openingRun.stalled = true ∧ openingRun.started = true ∧
      blockers opening.dev ⟨0, 0⟩ = []) ∧
    (itemRun.pointDue = false ∧ (runAt 8).pointDue = false ∧ stalledRun.openings = [] ∧ (getDom stalling.dev ⟨0, 0⟩).prog = some g1 ∧ stalledRun.resuming = false ∧
      pointRun.stalled = false ∧ ∀ n ∈ [1, 2], (replayOf n).checked = true) ∧
    ((getDom stalling.dev ⟨0, 0⟩).run = some stalledRun ∧ liveDom (getDom stalling.dev ⟨0, 0⟩) = true ∧ stalledRun.started = true ∧
      stalledRun.stalled = true ∧ blockers stalling.dev ⟨0, 0⟩ = [] ∧
      ∀ c ∈ domCtxs stalling.dev ⟨0, 0⟩, (getUnit stalling.dev c).busNext = 0 ∧ ∀ f ∈ (getUnit stalling.dev c).fills, f.rest = none) ∧
    ((getDom halfFilled.dev ⟨0, 0⟩).run = some stalledRun ∧ blockers halfFilled.dev ⟨0, 0⟩ = [] ∧ domCtxs halfFilled.dev ⟨0, 0⟩ = [c0] ∧
      runOf halfFilled.dev c0 = some stalledRun ∧ stalledRun.ramp = 0 ∧ (getUnit halfFilled.dev c0).fills = [halfFill] ∧ halfFilled.dev.scratchBad = [] ∧
      isArmed halfFilled.dev 0x100 (coreUnit c0) = false) ∧
    (propagateDue aborting.dev ⟨0, 0⟩ = true ∧ domCtxs aborting.dev ⟨0, 0⟩ = [c0] ∧ (takeHalts aborting.dev c0).isNone = true) ∧
    (watchdogOf waiting.dev c0 = 1 ∧ executing waiting.dev c0 = true ∧ mustAbort waiting.dev c0 = false ∧ transferHalts waiting.dev c0 = [] ∧
      (haltReqs waiting.dev c0).map (fun x => (x.code, x.seq)) = [(0x0B, 0)]) ∧
    (∀ x ∈ [(false, [(8, 3), (8, 50)]), (true, [(8, 50)]), (true, [(8, 3)])], (getDom (pointAt x.1 x.2).dev ⟨0, 0⟩).run = some pointRun ∧
      (getDom (pointAt x.1 x.2).dev ⟨0, 0⟩).prog = some (pacing x.1 x.2) ∧ liveDom (getDom (pointAt x.1 x.2).dev ⟨0, 0⟩) = true) ∧
    ((pointRun.paceStart + 3) * 16 < (pointAt true [(8, 3)]).dev.clock.time16 + 16 * pointRun.elapsed ∧
      ¬(pointRun.paceStart + 50) * 16 < (pointAt true [(8, 50)]).dev.clock.time16 + 16 * pointRun.elapsed) ∧
    (∀ n ∈ [1, 2], (getUnit (replaying n).dev c0).replays = [replayOf n] ∧ (replayOf n).persistent = false ∧
      periodOf (replaying n).dev c0 = (replayOf n).since + 3 ∧ (replaying n).dev.err.events = []) := by
  unfold NoTransferHalt
  exact ⟨by decide +kernel, ⟨each _ (by decide +kernel), each _ (by decide +kernel)⟩, by decide +kernel, by decide +kernel, by decide +kernel, by decide +kernel,
    by decide +kernel, by decide +kernel, by decide +kernel, by decide +kernel, by decide +kernel, each _ (by decide +kernel), by decide +kernel, each _ (by decide +kernel)⟩

def downWrite : PendingStore := { offset := 96, bytes := 32, data := 1, wanted := 8, half := false, off := false, seq := 0, pc := 0 }
def powering (l : List PendingStore) : State := coreAt 8 g1 fun k => { k with
  pdWait := [(3, 0)]
  units := vmod k.units 0 fun x => { x with stores := l } }
def windowRun (n : Nat) : Run := { runAt 8 with window := n }
/-- A run and a pseudo-channel, 3.9 µs after its last accrual. -/
def refreshesIn (r : Run) (owed queued : Nat) (busy : Bool) : State := domRun .running r g1 [] fun d => { d with
  clock := { d.clock with elapsed := 62400 }
  hbmStat := vset d.hbmStat 7 { HbmStack.reset with
    ready := true
    pchs := vset HbmStack.reset.pchs 31 { owed := owed, busy := busy, queued := queued, windowed := false, lastAt := 0, dueAt := 0, issued := 0 } } }
def refreshing (w owed queued : Nat) (busy : Bool) : State := refreshesIn (windowRun w) owed queued busy
def refreshingBefore : State := refreshesIn (freshRun false 0) 3 0 false

theorem powering_flights (l : List PendingStore) : ∀ k, ∀ x : Fin 2, (vget (getCore (powering l).dev k).units x).flights = [] :=
  (quiet_coreAt _ _ _).every (p := fun k => ∀ x : Fin 2, (vget k.units x).flights = [])
    (fun x => match x with | 0 => rfl | 1 => rfl) (by decide +kernel)
theorem powering_adds (l : List PendingStore) : ∀ x : Fin 2, (vget (getCore (powering l).dev 0).units x).adds = []
  | 0 => rfl
  | 1 => rfl

/-- A load that a refresh in progress of its pseudo-channel holds until the refreshes up to one number are over. -/
def subHeld (m : Nat) : SubRequest := { addr := 3 * 2 ^ 44, bytes := 64, granted := some 4, latency := 40, held := .refresh m, since := 0 }
def flightHeld (m : Nat) : Flight := { flightOf loadFlight 0x300000000000 with subs := [subHeld m] }
def refreshHeld (m : Nat) : State := unitOn (fun d => { d with hbmStat := vset d.hbmStat 0 { HbmStack.reset with
  pchs := vset HbmStack.reset.pchs 0 { owed := 0, busy := true, queued := 0, windowed := false, lastAt := 0, dueAt := 0, issued := 1 } } })
  fun x => { x with flights := [flightHeld m] }

theorem witness_BanksAndRefreshes :
    ((getCore (powering []).dev 0).pdWait.any (·.1 = 3) = true ∧ (powering []).dev.err.armed = [] ∧ (powering []).dev.err.events = [] ∧
      0 ≤ (getPart (powering []).dev (partOfCore (powering []).dev 0)).periods) ∧
    ((∀ n, bankWrites (powering []).dev 0 3 n = 0) ∧ bankWrites (powering [downWrite]).dev 0 3 0 = 1) ∧
    (∀ x ∈ [(600, 0), (0, 6), (0, 7)], accrueDue (refreshing x.1 x.2 0 false).dev 7 31 = true ∧
      (vget (vget (refreshing x.1 x.2 0 false).dev.hbmStat 7).pchs 31).owed = x.2) ∧
    (450 ≤ windowLeft (refreshing 600 0 0 false).dev (partOfStack (refreshing 600 0 0 false).dev 7) ∧
      windowLeft (refreshing 0 6 0 false).dev (partOfStack (refreshing 0 6 0 false).dev 7) < 450 ∧
      runWaits (refreshing 0 6 0 false).dev (partOfStack (refreshing 0 6 0 false).dev 7) = false ∧ accrueDue (ready id).dev 7 31 = false) ∧
    (accrueDue refreshingBefore.dev 7 31 = true ∧ windowLeft refreshingBefore.dev (partOfStack refreshingBefore.dev 7) < 450 ∧
      runWaits refreshingBefore.dev (partOfStack refreshingBefore.dev 7) = true) ∧
    ((getDom (refreshing 8 0 0 false).dev ⟨0, 0⟩).run = some (windowRun 8) ∧ (windowRun 8).window ≠ 0 ∧ (windowRun 8).window ≤ (windowRun 8).tick) ∧
    ((vget (vget (refreshing 0 0 1 true).dev.hbmStat 7).pchs 31).busy = true ∧ (vget (vget (refreshing 0 0 1 true).dev.hbmStat 7).pchs 31).queued ≠ 0 ∧
      (vget (vget (refreshing 0 0 0 true).dev.hbmStat 7).pchs 31).queued = 0 ∧ (vget (vget (refreshing 0 0 1 false).dev.hbmStat 7).pchs 31).busy = false) ∧
    (7 ∈ stacksOf (refreshing 0 6 0 false).dev 0 ∧ 0 < min (vget (vget (refreshing 0 6 0 false).dev.hbmStat 7).pchs 31).owed (900 / 450)) ∧
    (∀ m ∈ [0, 9], (getUnit (refreshHeld m).dev c0).flights = [flightHeld m] ∧ (flightHeld m).subs = [subHeld m] ∧ (subHeld m).held = .refresh m ∧
      (subHeld m).addr / 2 ^ 44 = 3 ∧ (vget (vget (refreshHeld m).dev.hbmStat 0).pchs 0).busy = true ∧
      (hbmMap (refreshHeld m).dev 0 ((subHeld m).addr % 2 ^ 44)).1 = 0 ∧ (hbmMap (refreshHeld m).dev 0 ((subHeld m).addr % 2 ^ 44)).2.1 = 0) :=
  ⟨by decide +kernel, ⟨fun n => (bankWrites_of (powering_flights _) _ _ n (powering_adds _)).trans (by decide +kernel),
    (bankWrites_of (powering_flights _) _ _ 0 (powering_adds _)).trans (by decide +kernel)⟩, each _ (by decide +kernel), by decide +kernel, by decide +kernel, by decide +kernel,
    by decide +kernel, by decide +kernel, by decide +kernel⟩

def descOf (kind : Byte) : StreamDesc := { (default : StreamDesc) with
  kind := kind
  fadd := true
  maddr := 0x200000000000
  bytes := 64
  period := 8
  swrap := 1 }
def g4 (kind : Byte) : Program := { g1 with streams := [(c0, [descOf kind])] }
/-- Descriptor 0 of a kind at tick t, its instance under way or not, with the stream engine and core as they are changed. -/
def streamAt (t : Nat) (kind : Byte) (active : Bool) (u : CtxUnit → CtxUnit) (f : Core → Core) : State := coreAt t (g4 kind) fun k => f { k with
  units := vmod k.units 0 fun x => u { x with stream := { x.stream with progs := vset x.stream.progs 0 { StreamProg.reset with active := active } } } }
def onStream (f : StreamUnit → StreamUnit) (u : CtxUnit) : CtxUnit := { u with stream := f u.stream }
/-- Sequencer 0 runs and has not presented its bundle. -/
def unpresented (k : Core) : Core := { k with seqs := vset k.seqs 0 { Sequencer.reset with st := .running } }
def spillItem : OutItem := { (default : OutItem) with
  data := some 5
  slot := 9
  error := none }
def spillAt : State := streamAt 10 2 true (onStream fun x => { x with outbound := [spillItem] }) id
def memoryFlight : Flight := { flightOf loadFlight 0x200000000000 with subs := [{ addr := 2 * 2 ^ 44, bytes := 64, granted := none, latency := 40, held := .free, since := 0 }] }
def loadAt : State := streamAt 8 1 true (fun u => { u with flights := [memoryFlight] }) id
def landing (rot : Bool) (landed : Option Nat) : LandItem := { (default : LandItem) with
  sender := c0
  lambda := 4
  rotation := rot
  landed := landed
  error := none }
def edgeOf (read rot : Bool) : EdgeReq := { read := read, slot := 4, item := landing rot none, send := none }
def edgeAt (read rot : Bool) : State := streamAt 8 (if rot then 3 else 2) true (onStream fun x => { x with edge := [edgeOf read rot] }) id
def landsAt (rot halted : Bool) : State := streamAt 8 1 true (fun u => { onStream (fun x => { x with landing := [landing rot none] }) u with
  halt := { u.halt with halted := halted } }) id
def slotted : State := streamAt 8 1 true (onStream fun x => { x with landing := [landing false (some 4)] }) unpresented

def answered (k : ReqKind) (e : Option Byte) : Flight := { flightOf k 0x200000000000 with
  subs := [{ addr := 2 * 2 ^ 44, bytes := 64, granted := some 4, latency := 40, held := .free, since := 0 }]
  error := e }
/-- An item lands at a bank that is gated. -/
def gatedAt (rot : Bool) : State := streamAt 8 1 true (fun u => { onStream (fun x => { x with landing := [landing rot none] }) u with
  halt := { u.halt with halted := true } }) fun k => { k with bankOn := 0 }

theorem witness_StreamsMoveTheirTransfers :
    (let s := streamAt 8 1 false id id;
      executing s.dev c0 = true ∧ isHalted s.dev c0 = false ∧ descAt s.dev c0 0 = some (descOf 1) ∧ (progAt s.dev c0 0).active = false ∧
      (progAt s.dev c0 0).inst ≤ (descOf 1).repeats.toNat ∧ (descOf 1).start.toNat + (progAt s.dev c0 0).inst * (descOf 1).period.toNat ≤ tickOf s.dev c0 ∧
      (progAt s.dev c0 0).startFrom ≤ tickOf s.dev c0) ∧
    (let s := streamAt 8 1 true id id;
      grantDue s.dev c0 .resRead = true ∧ grantTurn s.dev c0 = true ∧ startsDue s.dev c0 = false ∧ (getUnit s.dev c0).flights = [] ∧ isHalted s.dev c0 = false ∧
      (turnAfter (vget (streamOf s.dev c0).lastGrant (rowIndex .resRead))).find? (fun k => canGrant s.dev c0 .resRead 8 k) = some 0 ∧
      resolve s.dev (partOfCore s.dev 0) none (memAt (descOf 1) 0 0) 64 = .ok (.reservoir 0)) ∧
    (∀ d ∈ [(streamAt 8 1 true id id).dev, spillAt.dev, loadAt.dev], d.err.armed = [] ∧ portLost d 0 0x200000000000 = false ∧ heldInReset d 0 (.reservoir 0) = false) ∧
    (grantDue spillAt.dev c0 .resWrite = true ∧ grantTurn spillAt.dev c0 = true ∧ startsDue spillAt.dev c0 = false ∧
      (turnAfter (vget (streamOf spillAt.dev c0).lastGrant (rowIndex .resWrite))).find? (fun k => canGrant spillAt.dev c0 .resWrite 10 k) = some 0 ∧
      descAt spillAt.dev c0 0 = some (descOf 2) ∧ spillWaiting spillAt.dev c0 0 10 = some spillItem ∧ (streamOf spillAt.dev c0).outbound = [spillItem]) ∧
    (grantDue loadAt.dev c0 .resRead = true ∧ grantTurn loadAt.dev c0 = true ∧ startsDue loadAt.dev c0 = false ∧ (getUnit loadAt.dev c0).flights = [memoryFlight] ∧
      wantsGrant loadAt.dev c0 memoryFlight .resRead 8 = true ∧ memoryFlight.req.predOff = false ∧ memoryFlight.error = none ∧
      resolve loadAt.dev 0 none 0x200000000000 64 = .ok (.reservoir 0)) ∧
    (∀ k ∈ [2, 3], startsDue (streamAt 4 k true id unpresented).dev c0 = false ∧ writeSlotDue (streamAt 4 k true id unpresented).dev c0 = true ∧
      writeSlotFor (streamAt 4 k true id unpresented).dev c0 = some 0 ∧ presented (streamAt 4 k true id unpresented).dev c0 = false ∧
      descAt (streamAt 4 k true id unpresented).dev c0 0 = some (descOf k) ∧ padPowered (streamAt 4 k true id unpresented).dev c0 (padAt (descOf k) 0 0) 64 = true) ∧
    (∀ x ∈ [(true, false), (true, true), (false, false)], startsDue (edgeAt x.1 x.2).dev c0 = false ∧ writeSlotDue (edgeAt x.1 x.2).dev c0 = false ∧
      readSlotDue (edgeAt x.1 x.2).dev c0 = false ∧ (streamOf (edgeAt x.1 x.2).dev c0).edge = [edgeOf x.1 x.2] ∧ edgeDue (edgeAt x.1 x.2).dev c0 = true ∧
      padPowered (edgeAt x.1 x.2).dev c0 0 64 = true ∧ (edgeAt x.1 x.2).dev.scratchBad = [] ∧ memoriesWf (edgeAt x.1 x.2).dev = true ∧
      (edgeOf x.1 x.2).send = none ∧ (edgeOf x.1 x.2).item.error = none ∧ isArmed (edgeAt x.1 x.2).dev 0x100 (coreUnit c0) = false ∧
      progOf (edgeAt x.1 x.2).dev c0 = some (g4 (if x.2 then 3 else 2)) ∧
      (getCore (edgeAt x.1 x.2).dev (ringNext (g4 (if x.2 then 3 else 2)) c0).core).inReset = false) ∧
    (∀ x ∈ [(false, false), (false, true), (true, false), (true, true)], landDue (landsAt x.1 x.2).dev c0 x.1 = some (landing x.1 none) ∧
      isHalted (landsAt x.1 x.2).dev c0 = x.2 ∧ memoriesWf (landsAt x.1 x.2).dev = true ∧ padPowered (landsAt x.1 x.2).dev c0 0 64 = true) ∧
    (∀ rot ∈ [false, true], landDue (gatedAt rot).dev c0 rot = some (landing rot none) ∧ isHalted (gatedAt rot).dev c0 = true ∧
      padPowered (gatedAt rot).dev c0 0 64 = false) ∧
    (0x400000000000 / 2 ^ 44 = 4 ∧ 3 < tickOf (spilling spillOut).dev c0 ∧ (spilling spillOut).dev.err.events = []) ∧
    (startsDue slotted.dev c0 = false ∧ readSlotDue slotted.dev c0 = true ∧ slotItem (streamOf slotted.dev c0).landing 8 = some (landing false (some 4)) ∧
      presented slotted.dev c0 = false ∧ itemError slotted.dev c0 (landing false (some 4)) = none) ∧
    (heldBack (spilling spillOut).dev c0 .free 0 = false ∧ (outLinks (spilling spillOut).dev c0 spillOut).all (linkOpen (spilling spillOut).dev) = true ∧ (streamOf (spilling spillOut).dev c0).outbound = [spillOut] ∧ spillOut.acked = none) ∧
    (∀ x ∈ [(loadFlight, none), (.store 5, none), (loadFlight, some 0x0C)],
      let f := answered x.1 x.2; (getUnit (flies f).dev c0).flights = [f] ∧ responseDue (flies f).dev c0 f = true ∧ f.cause ≠ 1) :=
  ⟨by decide +kernel, by decide +kernel, each _ (by decide +kernel), by decide +kernel, by decide +kernel, each _ (by decide +kernel), each _ (by decide +kernel),
    each _ (by decide +kernel), each _ (by decide +kernel), by decide +kernel, by decide +kernel, by decide +kernel, each _ (by decide +kernel)⟩

def memoryRead (a : Nat) : Flight := { flightOf loadFlight (BitVec.ofNat 64 a) with
  subs := [{ addr := a, bytes := 64, granted := some 4, latency := 40, held := .free, since := 0 }] }
/-- A READ_TENSOR of the host in its data phase. -/
def rereads (a : W64) : State := held fun d => { d with cmds := [{ cmdOf (.readTensor { readBody with saddr := a }) with active := true }] }
theorem rereads_none (a : W64) (hit : Device → CtxId → Nat → Bool) (cause : Option (Fin 7)) (e : Option Byte) : markFirst (rereads a).dev hit true cause e = none :=
  markFirst_none ((quiet_reset (rereads a).dev rfl).every (p := fun k => ∀ x : Fin 2, (vget k.units x).flights = [] ∧
    (vget k.units x).stream.landing = [] ∧ (vget k.units x).stream.outbound = []) (by decide +kernel : ∀ x : Fin 2, (vget Core.reset.units x).flights = [] ∧
    (vget Core.reset.units x).stream.landing = [] ∧ (vget Core.reset.units x).stream.outbound = []) (by decide +kernel)) _ _ _ _
def portAt (st : CxlState) (f : Device → Device) : State := ready fun d => f { d with cxlPorts := vset d.cxlPorts 3 { CxlPort.reset with st := st } }
def linkAt (retraining : Bool) : State := ready fun d => { d with
  dieLinks := vset d.dieLinks 7 { DieLink.reset with
    up := true
    retraining := retraining } }

def hbmF : Flight := memoryRead 0x300000000000
def cxlF : Flight := memoryRead 0x400000000000
/-- A fill of CXL memory that has its grant. -/
def cxlDesc : StreamDesc := { descOf 1 with maddr := 0x400000000000 }
def cxlFill : State := coreAt 8 { g1 with streams := [(c0, [cxlDesc])] } fun k => { k with
  units := vmod k.units 0 fun x => { x with stream := { x.stream with landing := [landing false none] } } }
/-- Port 0 is in a state. -/
def cxlOver (m : CxlState) (s : State) : State := { s with dev := { s.dev with cxlPorts := vset s.dev.cxlPorts 0 { CxlPort.reset with st := m } } }

theorem witness_MemoryLinksFailAndRecover :
    ((getUnit (flies hbmF).dev c0).flights = [hbmF] ∧ flightAt (atStack (flies hbmF).dev c0 0) hbmF = true ∧ (flies hbmF).dev.err.events = [] ∧
      (flies hbmF).dev.err.armed = [] ∧
      (∀ reads ∈ [false, true], ∀ cause ∈ [none, some 5], ∀ e ∈ [none, some 0x0C],
        (markFirst (flies hbmF).dev (fun d c a => atStack d c 0 a) reads cause e).isSome = true)) ∧
    ((∀ e, markFirst (rereads 0x300000000000).dev (fun d c a => atStack d c 0 a) true (some 5) e = none) ∧
      (commandIn (rereads 0x300000000000).dev (partOfStack (rereads 0x300000000000).dev 0) 3 true).isSome = true) ∧
    ((∀ e, markFirst (rereads 0x400000000000).dev (fun d c a => atPort d c 0 a) true (some 5) e = none) ∧
      (commandIn (rereads 0x400000000000).dev (partOfPort (rereads 0x400000000000).dev 0) 4 true).isSome = true) ∧
    (flightAt (atPort (flies cxlF).dev c0 0) cxlF = true ∧ ∀ e ∈ [none, some 0x0C], (markFirst (flies cxlF).dev (fun d c a => atPort d c 0 a) true (some 5) e).isSome = true) ∧
    ((streamOf cxlFill.dev c0).landing = [landing false none] ∧
      atPort cxlFill.dev c0 0 (itemAddr cxlFill.dev c0 (landing false none).desc (landing false none).inst (landing false none).xfer) = true) ∧
    (∀ m ∈ [CxlState.up, .mapped], (vget (cxlOver m (flies cxlF)).dev.cxlPorts 0).st = m ∧ (cxlOver m (flies cxlF)).dev.err.events = [] ∧
      flightAt (atPort (cxlOver m (flies cxlF)).dev c0 0) cxlF = true ∧ (vget (cxlOver m cxlFill).dev.cxlPorts 0).st = m) ∧
    ((portAt .training id).dev.rb.step = 5 ∧ (vget (portAt .training id).dev.cxlPorts 3).st = .training ∧
      (vget (ready id).dev.cxlPorts 3).st = .down ∧ (∀ p, ∀ i ∈ domsOf p, (getDom (ready id).dev i).st = .empty)) ∧
    ((portAt .down fun d => { d with config := 4 }).dev.config = 4 ∧ (running 8).dev.rb.step = 5 ∧
      ∃ i ∈ domsOf (partOfPort (running 8).dev 3), (getDom (running 8).dev i).st ≠ .empty) ∧
    (0 ∈ sentLinks (flies cxlF).dev c0 cxlF ∧ (vget (flies cxlF).dev.dieLinks 0).up = true ∧ (vget (flies cxlF).dev.dieLinks 0).retraining = false) ∧
    (∀ x ∈ [false, true], (vget (linkAt x).dev.dieLinks 7).up = true ∧ (vget (linkAt x).dev.dieLinks 7).retraining = x ∧ (linkAt x).dev.err.events = [] ∧
      isArmed (linkAt x).dev 0x111 7 = false) :=
  ⟨by decide +kernel, ⟨fun e => rereads_none _ _ _ e, by decide +kernel⟩, ⟨fun e => rereads_none _ _ _ e, by decide +kernel⟩, by decide +kernel, by decide +kernel,
    each _ (by decide +kernel), by decide +kernel,
    ⟨by decide +kernel, by decide +kernel, ⟨0, 0⟩, by decide +kernel, by decide +kernel⟩, by decide +kernel, each _ (by decide +kernel)⟩

/-! ### Buoth Link -/

/-- Plane 0 in a state, in a part of fabric index 5. -/
def fabOn (st : PlaneMode) (f : Device → Device) : State := ready fun d => f { d with fab := { d.fab with
  fabEn := true
  killEn := true
  valid := true
  index := 5
  planes := vset d.fab.planes 0 { PlaneLink.reset with st := st } } }
def onPlane (f : PlaneLink → PlaneLink) (d : Device) : Device := modPlane d 0 f
def hearing : State := fabOn .active id
/-- Plane 0 in a state, at a position. -/
def placed (st : PlaneMode) (n : BitVec 24) : State := fabOn st (onPlane fun x => { x with posn := n })

/-- What the kernel evaluates of Heard, and the check of the frame. -/
theorem heard_of {s : State} {p : Fin 8} {f : FrameBits} {kind : Nat} (hf : frameOk f = true)
    (h : (planeUp (getPlane s.dev p).st && decide (frameVersion f = 1) && decide (frameKind f = kind)) = true) : Heard s p f kind := by
  simp only [Bool.and_eq_true, decide_eq_true_eq] at h
  exact ⟨h.1.1, hf, h.1.2, h.2⟩

theorem routed_of {s : State} {p : Fin 8} {f : FrameBits} {kind : Nat} {q : PartId} (hh : Heard s p f kind)
    (h : (decide ((getPlane s.dev p).st = .active) && !isArmed s.dev 0x120 (BitVec.ofNat 16 p.val) && decide (frameSeq f = (getPlane s.dev p).expect) &&
      decide (partOfAddr s.dev (frameDst f) = some q)) = true) : Routed s p f kind q := by
  simp only [Bool.and_eq_true, decide_eq_true_eq, Bool.not_eq_true'] at h
  exact ⟨hh, h.1.1.1, h.1.1.2, h.1.2, h.2⟩

theorem good {f : FrameBits} (h : f ∈ goodFrames) : frameOk f = true := frames_good f h

def outOfOrder : List (FrameBits × Nat) := [(mailOld, 1), (mailFar, 1), (creditOld, 2), (creditFar, 2), (collOld, 3), (collFar, 3)]

theorem witness_FramesAreCheckedAndAcknowledged :
    (Heard hearing 0 idleF 0 ∧ isArmed hearing.dev 0x121 0 = false) ∧
    (planeUp (getPlane hearing.dev 0).st = true ∧ hearing.dev.err.events = [] ∧ isArmed hearing.dev 0x120 0 = false) ∧
    (frameOk (frameN 1 0 0 0 0 0 0 0) = false ∧ frameOk foreignF = true ∧ frameVersion foreignF ≠ 1) ∧
    (∀ x ∈ outOfOrder, Heard hearing 0 x.1 x.2) ∧
    (∀ f ∈ [mailOld, creditOld, collOld], frameSeq f ≠ (getPlane hearing.dev 0).expect ∧ ((getPlane hearing.dev 0).expect - 1 - frameSeq f).toNat < 2048) ∧
    (∀ f ∈ [mailFar, creditFar, collFar], frameSeq f ≠ (getPlane hearing.dev 0).expect ∧ 2048 ≤ ((getPlane hearing.dev 0).expect - 1 - frameSeq f).toNat) ∧
    ((∀ f ∈ [mailF, creditF, collF], frameOk f = true) ∧ ∀ x ∈ [(mailF, 1), (creditF, 2), (collF, 3)], frameKind x.1 = x.2 ∧
      planeUp (getPlane (fabOn .linked id).dev 0).st = true ∧ frameSeq x.1 = (getPlane (fabOn .linked id).dev 0).expect ∧
      (getPlane (fabOn .linked id).dev 0).st ≠ .active ∧ isArmed (fabOn .linked id).dev 0x120 0 = false ∧ (fabOn .linked id).dev.err.events = []) :=
  ⟨⟨heard_of (good (by simp [goodFrames])) (by decide +kernel), by decide +kernel⟩, by decide +kernel,
    ⟨frame_bad, good (by simp [goodFrames]), by decide +kernel⟩,
    fun x h => heard_of (good (each (p := fun x => x.1 ∈ goodFrames) outOfOrder (by decide +kernel) x h))
      (each (p := fun x => (planeUp (getPlane hearing.dev 0).st && decide (frameVersion x.1 = 1) && decide (frameKind x.1 = x.2)) = true) outOfOrder
        (by decide +kernel) x h),
    each _ (by decide +kernel), each _ (by decide +kernel),
    fun f h => good (each (p := fun f => f ∈ goodFrames) [mailF, creditF, collF] (by decide +kernel) f h), each _ (by decide +kernel)⟩

def frame0 : TxFrame := { (default : TxFrame) with
  kind := 1
  dst := 24 }
def overdue : State := fabOn .active fun d => onPlane (fun x => { x with retained := [(0, frame0)] }) { d with clock := { d.clock with elapsed := 400000 } }
def resending (f : TxFrame) : State := fabOn .active (onPlane fun x => { x with
  resendq := [(3, f)]
  posn := 1 })
def sendingNew (limit : BitVec 12) : State := fabOn .active fun d => onPlane (fun x => { x with
  limit := Vector.replicate 8 limit
  posn := 1 }) (modPart d 0 fun p => { p with txq := [frame0] })
/-- A frame of a plane that went down waits. -/
def sendingMoved (f : TxFrame) : State := fabOn .active fun d => onPlane (fun x => { x with
  limit := Vector.replicate 8 1
  posn := 1 }) { d with fab := { d.fab with moved := [f] } }
def movedFrame (part : PartId) : TxFrame := { frame0 with
  resend := true
  part := part }
/-- A collective frame of a domain waits while its domain stalls. -/
def collTx : TxFrame := { frame0 with
  kind := 3
  dom := some ⟨0, 0⟩ }
def stalledFab : State := domRun .running { runAt 8 with stalled := true } g1 [] fun d => onPlane (fun x => { x with
  limit := Vector.replicate 8 1
  posn := 1 }) (modPart { d with fab := hearing.dev.fab } 0 fun p => { p with txq := [collTx] })
def tiring : State := fabOn .active (onPlane fun x => { x with tries := 16 })

theorem witness_PlanesTrainFailAndResend :
    (planeUp (getPlane tiring.dev 0).st = true ∧ 16 ≤ (getPlane tiring.dev 0).tries ∧ tiring.dev.err.events = []) ∧
    (∀ q ∈ [0, 1], (getPlane (sendingMoved (movedFrame q)).dev 0).st = .active ∧ ownPosition (sendingMoved (movedFrame q)).dev 0 1 = true ∧
      (getPlane (sendingMoved (movedFrame q)).dev 0).posn = 1 ∧ (getPlane (sendingMoved (movedFrame q)).dev 0).resendq = [] ∧
      (getPlane (sendingMoved (movedFrame q)).dev 0).retained.length < 2048 ∧ selectPlane (sendingMoved (movedFrame q)).dev (movedFrame q).nominal = some 0 ∧
      hasCredit (getPlane (sendingMoved (movedFrame q)).dev 0) (movedFrame q) = true ∧ (sendingMoved (movedFrame q)).dev.fab.moved = [movedFrame q]) ∧
    ((getPlane stalledFab.dev 0).st = .active ∧ ownPosition stalledFab.dev 0 1 = true ∧ (getPlane stalledFab.dev 0).posn = 1 ∧
      (getPlane stalledFab.dev 0).resendq = [] ∧ stalledFab.dev.fab.moved = [] ∧ (getPart stalledFab.dev 0).txq = [collTx] ∧ collTx.kind = 3 ∧
      domStalled stalledFab.dev collTx.dom = true) ∧
    ((sendingNew 1).dev.fab.moved = [] ∧ frame0.resend = false ∧ frame0.kind ≠ 3 ∧ (placed .active 1).dev.fab.moved = []) ∧
    ((getPlane (fabOn .training id).dev 0).st = .training ∧ planeUp (getPlane hearing.dev 0).st = true ∧ (0x8000 : BitVec 16) ≠ 0 ∧ hearing.dev.err.events = []) ∧
    ((getPlane overdue.dev 0).goodTime + 20000 ≤ elapsedNs overdue.dev ∧ (getPlane overdue.dev 0).retained ≠ [] ∧
      (getPlane overdue.dev 0).ackTime + 4000 ≤ elapsedNs overdue.dev ∧ overdue.dev.err.events = [] ∧ planeUp (getPlane overdue.dev 0).st = true) ∧
    (∀ st ∈ [PlaneMode.linked, .isolated], 0 < (placed st 1).dev.config ∧ (getPlane (placed st 1).dev 0).st = st ∧
      ownPosition (placed st 1).dev 0 (getPlane (placed st 1).dev 0).posn = true) ∧
    (∀ f ∈ [frame0, { frame0 with part := 1 }], (getPlane (resending f).dev 0).st = .active ∧ (getPlane (resending f).dev 0).resendq = [(3, f)] ∧
      ownPosition (resending f).dev 0 (getPlane (resending f).dev 0).posn = true ∧ 0 < (resending f).dev.config) ∧
    (frame0.part = 0 ∧ ({ frame0 with part := 1 } : TxFrame).part ≠ 0) ∧
    (∀ n ∈ [0, 1], (getPlane (sendingNew n).dev 0).st = .active ∧ (getPlane (sendingNew n).dev 0).resendq = [] ∧
      (getPlane (sendingNew n).dev 0).retained.length < 2048 ∧ (getPart (sendingNew n).dev 0).txq = [frame0] ∧
      ownPosition (sendingNew n).dev 0 (getPlane (sendingNew n).dev 0).posn = true) ∧
    (selectPlane (sendingNew 1).dev frame0.nominal = some 0 ∧ hasCredit (getPlane (sendingNew 1).dev 0) frame0 = true ∧
      hasCredit (getPlane (sendingNew 0).dev 0) frame0 = false) ∧
    ((getPlane (placed .active 1).dev 0).resendq = [] ∧ (getPart (placed .active 1).dev 0).txq = [] ∧
      ownPosition (placed .active 1).dev 0 (getPlane (placed .active 1).dev 0).posn = true) ∧
    (∀ x ∈ ([(1, 0), (2, 1), (4, 3)] : List (Nat × PartId)), let s := fabOn .active fun d => { d with config := x.1 }
      planeUp (getPlane s.dev 0).st = true ∧ x.2.val < s.dev.config ∧ s.dev.config = x.1) ∧
    (hearing.dev.rb.boot = .ready ∧ anyLoaded hearing.dev = false ∧ (running 8).dev.rb.boot = .ready ∧ anyLoaded (running 8).dev = true) :=
  ⟨by decide +kernel, each _ (by decide +kernel), by decide +kernel, by decide +kernel, by decide +kernel, by decide +kernel, each _ (by decide +kernel),
    each _ (by decide +kernel), by decide +kernel, each _ (by decide +kernel), by decide +kernel, by decide +kernel, each _ (by decide +kernel), by decide +kernel⟩

def unassigned : State := fabOn .linked fun d => { d with fab := { d.fab with valid := false } }
def assigned : State := fabOn .linked fun d => { d with fab := { d.fab with index := 0 } }
def hearing1 : State := ready fun d => { d with fab := { d.fab with planes := vset d.fab.planes 1 { PlaneLink.reset with st := .linked } } }
def killed : State := fabOn .active fun d => { d with
  fab := { d.fab with kills := [(7, 0)] } }

theorem witness_LinkLocalFramesAct :
    (NoneRaised hearing.dev ∧ ∀ q : Fin 8, q.val < (0 : Fin 8).val → planeActive hearing.dev q = false) ∧
    (Heard unassigned 0 assignF 0xB ∧ frameField assignF 24 1 = 0 ∧ unassigned.dev.fab.addrSrc = false ∧ unassigned.dev.fab.valid = false) ∧
    (Heard assigned 0 assignF 0xB ∧ assigned.dev.fab.addrSrc = false ∧ assigned.dev.fab.valid = true ∧
      BitVec.ofNat 16 (frameField assignF 16 2) = assigned.dev.fab.index ∧ BitVec.ofNat 32 (frameField assignF 20 4) = assigned.dev.fab.fabricId) ∧
    (Heard hearing1 1 assignF 0xB ∧ frameField assignF 24 1 ≠ 1) ∧
    ((getPlane hearing1.dev 1).st = .linked ∧ (getPlane (placed .active 129).dev 0).st = .active ∧ Machine.controlAt (getPlane (placed .active 129).dev 0).posn 8 = true ∧
      (getPlane hearing.dev 0).st = .active ∧ Machine.controlAt (getPlane hearing.dev 0).posn 8 = false) ∧
    (Heard hearing 0 killF 0xC ∧ mapped hearing.dev 7 2 ∧ hearing.dev.fab.killEn = true ∧ frameField killF 16 1 / 2 ^ 0 % 2 = 1 ∧
      (getPlane hearing.dev 0).st = .active ∧ 0 < hearing.dev.config ∧ killKnown hearing.dev (BitVec.ofNat 64 (frameField killF 18 8)) = false ∧ 4 ≤ hearing.dev.rb.step) ∧
    (Heard killed 0 killF 0xC ∧ ∃ t, (BitVec.ofNat 64 (frameField killF 18 8), t) ∈ killed.dev.fab.kills ∧ elapsedNs killed.dev ≤ t + 100000) ∧
    (Heard hearing1 1 beaconF 8 ∧ (getPlane hearing1.dev 1).st ≠ .active) ∧
    (Heard hearing 0 beaconF 8 ∧ Heard hearing 0 correctF 8 ∧ frameField beaconF 30 1 = 1 ∧ frameField correctF 30 1 = 3 ∧ frameField correctF 31 1 = 0 ∧
      hearing.dev.clock.corr = 0) := by
  unfold mapped
  exact ⟨⟨noneRaised_of rfl, fun q h => absurd h (Nat.not_lt_zero _)⟩, ⟨heard_of (good (by simp [goodFrames])) (by decide +kernel), by decide +kernel⟩,
    ⟨heard_of (good (by simp [goodFrames])) (by decide +kernel), by decide +kernel⟩,
    ⟨heard_of (good (by simp [goodFrames])) (by decide +kernel), by decide +kernel⟩, by decide +kernel,
    ⟨heard_of (good (by simp [goodFrames])) (by decide +kernel), by decide +kernel⟩, ⟨heard_of (good (by simp [goodFrames])) (by decide +kernel), 0, by decide +kernel⟩,
    ⟨heard_of (good (by simp [goodFrames])) (by decide +kernel), by decide +kernel⟩,
    heard_of (good (by simp [goodFrames])) (by decide +kernel), heard_of (good (by simp [goodFrames])) (by decide +kernel), by decide +kernel⟩

/-- A broadcast over a ring of fabric addresses 20 and 24, of 64 elements from the second. -/
def collDesc0 : CollDesc := { (default : CollDesc) with
  kind := 5
  format := 0
  order := 0
  cid := 77
  root := 1
  lcount := 1
  check := 5 }
def g5 (order : Byte) (kind : Byte := 1) : Program := { g1 with
  groups := [[20, 24]]
  colls := [{ collDesc0 with order := order }]
  layers := [{ rows := 8, rank := 8, scale := 0 }]
  inbound := [{ (default : InEntry) with
    kind := kind
    src := 24 }] }
def inst0 : CollInst := { (default : CollInst) with begun := true }
def collRun (l : List CollInst) : Run := { runAt 8 with colls := l }
def linked (r : Run) (order : Byte) (f : Device → Device) : State := domRun .running r (g5 order) [] fun d => f { d with fab := hearing.dev.fab }
def inReset : State := fabOn .active fun d => { d with rb := { d.rb with units := [(0x4000, none)] } }
/-- A run that hears messages for an inbound entry of a kind, its core as it is changed. -/
def mailing (kind : Byte) (f : Core → Core) : State := domRun .running (runAt 8) (g5 0 kind) [] fun d => modCore { d with fab := hearing.dev.fab } 0 f
def fullMail (k : Core) : Core := { k with mqs := vmod k.mqs 0 fun q => { q with occ := 64 } }
def mailHeld : Assembling := { src := 24, inid := 0, mseq := 0, sender := 0, chan := 0, len := 1, units := [], held := false, retried := false, refused := false }
def collecting : State := linked (collRun [inst0]) 0 id
def repeated : State := fabOn .active fun d => modPart d 0 fun p => { p with cseqRx := [{ dst := 24, cseq := 0 }] }
def loadedOnly : State := fabOn .active fun d => modDom d ⟨0, 0⟩ fun m => { m with
  st := .loaded
  prog := some (g5 0) }
def collFrame : HeldFrame := { plane := some 0, dom := none, src := frameSrc collF, lseq := (frameSeq collF).toNat, retried := frameRetried collF, bad := false, body := frameBody collF }
def viewOf (order : Byte) : CollView := { dom := ⟨0, 0⟩, idx := 0, g := g5 order, x := { collDesc0 with order := order }, grp := [20, 24], n := 2, pos := 0, blocks := 2 }
/-- A run that has not begun, and one whose core is in reset. -/
def mailBefore : State := domRun .running (freshRun false 0) (g5 0 1) [] fun d => { d with fab := hearing.dev.fab }
def mailReset : State := mailing 1 fun k => { k with inReset := true }
/-- The receive buffer of partition 0 holds its share of 1,024 frames. -/
def fullBuffer : State := fabOn .active fun d => modPart { d with config := 4 } 0 fun p => { p with ceHeld := List.replicate 1024 collFrame }

theorem witness_RoutedFramesReachTheirPartitions :
    ((∀ x ∈ [(mailBefore, false, false), (mailReset, true, true), (mailing 1 id, true, false), (mailing 2 id, true, false)],
        receives x.1.dev ⟨0, 0⟩ = x.2.1 ∧ (getCore x.1.dev 0).inReset = x.2.2) ∧
      (∀ s ∈ [mailBefore, mailReset], isArmed s.dev 0x122 0 = false ∧ s.dev.err.events = [] ∧
        (inboundEntry s.dev 0 24 0).map (fun e => (e.1, e.2.target)) = some (⟨0, 0⟩, c0) ∧ (getDom s.dev ⟨0, 0⟩).assembling = [] ∧ nextMseq (getDom s.dev ⟨0, 0⟩) mailHeld = 0) ∧
      Routed mailBefore 0 mailF 1 0 ∧ Routed mailReset 0 mailF 1 0) ∧
    (bufferShare fullBuffer.dev ≤ (getPart fullBuffer.dev 0).ceHeld.length ∧
      ∀ d ∈ [loadedOnly.dev, collecting.dev, (linked { runAt 8 with openMode := false } 0 id).dev], (getPart d 0).ceWait = [] ∧ 0 < bufferShare d) ∧
    ((Routed (mailing 1 id) 0 mailF 1 0 ∧ Routed (mailing 1 fullMail) 0 mailF 1 0 ∧ Routed (mailing 1 unpresented) 0 mailF 1 0 ∧
        Routed (mailing 2 id) 0 mailF 1 0) ∧ frameRetried mailF = false ∧
      ∀ s ∈ [mailing 1 id, mailing 1 fullMail, mailing 1 unpresented, mailing 2 id], isArmed s.dev 0x122 0 = false ∧
        (inboundEntry s.dev 0 (BitVec.ofNat 18 (frameSrc mailF)) 0).map (·.1) = some ⟨0, 0⟩ ∧ (getDom s.dev ⟨0, 0⟩).assembling = [] ∧
        nextMseq (getDom s.dev ⟨0, 0⟩) mailHeld = 0) ∧
    (readsDue (mailing 1 id).dev c0 = false ∧ (mqOf (mailing 1 id).dev c0 0).occ + placeCost (mqOf (mailing 1 id).dev c0 0) 1 ≤ 64 ∧
      readsDue (mailing 1 fullMail).dev c0 = false ∧ 64 < (mqOf (mailing 1 fullMail).dev c0 0).occ + placeCost (mqOf (mailing 1 fullMail).dev c0 0) 1 ∧
      readsDue (mailing 1 unpresented).dev c0 = true ∧
      ∀ x ∈ [(1, mailing 1 id), (1, mailing 1 fullMail), (1, mailing 1 unpresented), (2, mailing 2 id)],
        (inboundEntry x.2.dev 0 24 0).map (fun e => (e.2.kind, e.2.target, e.2.queue.val)) = some (x.1, c0, 0)) ∧
    (le (frameBodyBytes mailF) 1 1 = 1 ∧ le (frameBodyBytes mailF) 2 1 = 1 ∧ le (frameBodyBytes mailF) 3 1 = 0 ∧ le (frameBodyBytes mailF) 4 4 = 0) ∧
    (Routed hearing 0 mailF 1 0 ∧ inboundEntry hearing.dev 0 24 0 = none) ∧
    (Routed hearing 0 creditF 2 0 ∧ le (frameBodyBytes creditF) 0 1 = 1 ∧ partOfCore hearing.dev (ctxOfScore (le (frameBodyBytes creditF) 8 2)).core = 0 ∧
      (getPart hearing.dev 0).cseqRx = []) ∧
    (Routed repeated 0 creditF 2 0 ∧ ∃ x ∈ (getPart repeated.dev 0).cseqRx, x.dst = BitVec.ofNat 18 (frameSrc creditF) ∧ x.cseq = 0) ∧
    (Routed inReset 0 collF 3 0 ∧ engineReset inReset.dev = true ∧ isArmed inReset.dev 0x190 0 = false) ∧
    (Routed loadedOnly 0 collF 3 0 ∧ engineReset loadedOnly.dev = false ∧ (getPart loadedOnly.dev 0).ceHeld = [] ∧
      (∀ j ∈ domsOf 0, (getDom loadedOnly.dev j).run = none) ∧ (matchColl loadedOnly.dev 0 collFrame).isSome = true) ∧
    (Routed collecting 0 collF 3 0 ∧ (∀ j ∈ domsOf 0, j ≠ ⟨0, 0⟩ → (getDom collecting.dev j).run = none) ∧
      (getDom collecting.dev ⟨0, 0⟩).run = some (collRun [inst0]) ∧ viewColl collecting.dev ⟨0, 0⟩ 0 = some (viewOf 0) ∧
      fateOf collecting.dev 0 collFrame = .use (viewOf 0)) ∧
    (bodyPhase collFrame.body = 2 ∧ ringPos (viewOf 0) 1 = bodyShard collFrame.body ∧ 1 < framesExpected (viewOf 0)) ∧
    (∀ x ∈ [0, 2], collDue (linked { runAt 8 with openMode := false } x id).dev ⟨0, 0⟩ 0 = true ∧
      viewColl (linked { runAt 8 with openMode := false } x id).dev ⟨0, 0⟩ 0 = some (viewOf x)) ∧
    ((viewOf 0).pos ≠ (viewOf 0).x.root ∧ 0 < framesExpected (viewOf 0) ∧ (runAt 8).colls = [] ∧ (runAt 8).collAbort = []) := by
  have hm : frameOk mailF = true := good (by simp [goodFrames])
  have hc : frameOk creditF = true := good (by simp [goodFrames])
  have hk : frameOk collF = true := good (by simp [goodFrames])
  exact ⟨⟨each _ (by decide +kernel), each _ (by decide +kernel), routed_of (heard_of hm (by decide +kernel)) (by decide +kernel),
      routed_of (heard_of hm (by decide +kernel)) (by decide +kernel)⟩, by decide +kernel,
    ⟨⟨routed_of (heard_of hm (by decide +kernel)) (by decide +kernel), routed_of (heard_of hm (by decide +kernel)) (by decide +kernel),
      routed_of (heard_of hm (by decide +kernel)) (by decide +kernel), routed_of (heard_of hm (by decide +kernel)) (by decide +kernel)⟩, by decide +kernel,
      by decide +kernel⟩, by decide +kernel, by decide +kernel,
    ⟨routed_of (heard_of hm (by decide +kernel)) (by decide +kernel), by decide +kernel⟩,
    ⟨routed_of (heard_of hc (by decide +kernel)) (by decide +kernel), by decide +kernel⟩,
    ⟨routed_of (heard_of hc (by decide +kernel)) (by decide +kernel), by decide +kernel⟩,
    ⟨routed_of (heard_of hk (by decide +kernel)) (by decide +kernel), by decide +kernel⟩,
    ⟨routed_of (heard_of hk (by decide +kernel)) (by decide +kernel), by decide +kernel⟩,
    ⟨routed_of (heard_of hk (by decide +kernel)) (by decide +kernel), by decide +kernel⟩, by decide +kernel, each _ (by decide +kernel), by decide +kernel⟩

end Sys2Proof.Tests
end

section
/-! The issue of a bundle as a rule: what the row of an operation comes to, and what its parts leave of the streams. -/

open Sys2Proof.Claims

namespace Sys2Proof.Machine

/-! ### Updates of one stream -/

theorem getSeq_modSeq_other (d : Device) (w x : SeqId) (f : Sequencer → Sequencer) (h : x ≠ w) : getSeq (modSeq d w f) x = getSeq d x := by
  by_cases hc : w.core = x.core
  · have hs : w.seq ≠ x.seq := fun e => h (by cases w; cases x; simp_all)
    simp [getSeq, modSeq, hc, vget_vmod_other _ _ _ _ hs]
  · simp [getSeq, modSeq, getCore_modCore_other _ _ _ _ hc]

theorem vmod_vmod_same {α : Type} {n : Nat} (v : Vector α n) (i : Fin n) (f g : α → α) : vmod (vmod v i f) i g = vmod v i fun x => g (f x) := by
  apply Vector.ext
  intro k hk
  simp only [vmod, vset, vget, Vector.getElem_set]
  split <;> simp_all

theorem modCore_modCore_same (d : Device) (c : CoreId) (f g : Core → Core) : modCore (modCore d c f) c g = modCore d c fun k => g (f k) := by
  simp [modCore, vmod_vmod_same]

theorem modSeq_modSeq_same (d : Device) (w : SeqId) (f g : Sequencer → Sequencer) : modSeq (modSeq d w f) w g = modSeq d w fun q => g (f q) := by
  simp [modSeq, modCore_modCore_same, vmod_vmod_same]

/-- An update of an entry of a table depends on that entry alone. -/
theorem vmod_eq_const {α : Type} {n : Nat} (v : Vector α n) (i : Fin n) (f : α → α) : vmod v i f = vmod v i fun _ => f (vget v i) := rfl

theorem modSeq_eq_const (d : Device) (w : SeqId) (f : Sequencer → Sequencer) : modSeq d w f = modSeq d w fun _ => f (getSeq d w) := rfl

/-! ### The row of an operation -/

/-- The row of an operation that a bundle holds applies the bundle, where it issues. -/
theorem gives_applyIssue {s : State} {w : SeqId} {b : RawBundle} {i : Instr} {hit : RawBundle → Bool} (h : Issues s w b)
    (hi : exec i s = presentOp hit w s) (hb : hit b = true) : Gives i s (applyIssue s.dev (ctxOf s.dev w) w b) := by
  obtain ⟨hturn, hhalt, hv, rfl⟩ := h
  exact hi.trans (presentOp_issues hit w s hturn hhalt hv hb)

/-! ### The advance of a stream -/

@[simp] theorem getSeq_advanceStream_other (d0 d : Device) (c : CtxId) (w x : SeqId) (b : RawBundle) (h : x ≠ w) :
    getSeq (advanceStream d0 d c w b) x = getSeq d x := getSeq_modSeq_other _ _ _ _ h

theorem sregs_advanceStream (d0 d : Device) (c : CtxId) (w : SeqId) (b : RawBundle) :
    (getSeq (advanceStream d0 d c w b) w).sregs = (getSeq d w).sregs := by
  simp [advanceStream]

theorem pregs_advanceStream (d0 d : Device) (c : CtxId) (w : SeqId) (b : RawBundle) :
    (getSeq (advanceStream d0 d c w b) w).pregs = (getSeq d w).pregs := by
  simp [advanceStream]

/-- The advance of a stream is an update of that stream. -/
theorem advanceStream_isModSeq (d0 d : Device) (c : CtxId) (w : SeqId) (b : RawBundle) : ∃ f, advanceStream d0 d c w b = modSeq d w f := ⟨_, rfl⟩

/-! ### A bundle of the scalar slot alone -/

theorem memEffect_none {d0 d : Device} {c : CtxId} {w : SeqId} {b : RawBundle} (hl : loadOp b = 0) (hs : storeOp b = 0) :
    memEffect d0 d c w b = d := by
  simp [memEffect, hl, hs]

theorem vectorEffect_none {d : Device} {c : CtxId} {w : SeqId} {b : RawBundle} (h : vectorOp b = 0) : vectorEffect d c w b = d := by
  simp [vectorEffect, h]

theorem matrixEffect_none {d : Device} {c : CtxId} {w : SeqId} {b : RawBundle} (h : matrixOp b = 0) : matrixEffect d c w b = d := by
  simp [matrixEffect, h, isFeed, isMdrain]

/-- A nop or an end of the sync slot has no effect but on its stream (R58). -/
theorem syncEffect_none {d0 d : Device} {c : CtxId} {w : SeqId} {b : RawBundle} (h : syncOp b ≤ 1) : syncEffect d0 d c w b = d := by
  have hop : syncOp b = 0 ∨ syncOp b = 1 := by omega
  rcases hop with hop | hop <;> simp [syncEffect, hop, isFlagWait, isBarOp, isMsgOp]

/-- Where the scalar slot stands alone, and is not agfetch, nothing precedes it. -/
theorem issueSlots_alone {d : Device} {c : CtxId} {w : SeqId} {b : RawBundle} (h : Alone b) (hop : scalarOp b ≠ 0xC0) : issueSlots d c w b = d := by
  obtain ⟨hl, hs, hv, hm, hy⟩ := h
  simp [issueSlots, memEffect_none hl hs, hop, syncEffect_none hy, vectorEffect_none hv, matrixEffect_none hm]

/-! ### A scalar result -/

theorem vget_sregs_writeS (q : Sequencer) (rd : Nat) (hrd : rd < 32) (v : W64) (now issued : Nat) (r : Fin 32) :
    vget (writeS q rd v now issued).sregs r = if r.val = rd ∧ rd ≠ 0 then v else vget q.sregs r := by
  unfold writeS
  by_cases h0 : rd % 32 = 0
  · have : rd = 0 := by omega
    simp [this]
  · have hne : rd ≠ 0 := by omega
    by_cases hr : r.val = rd
    · have : finMod 32 rd = r := Fin.ext (by simp [finMod, hr]; omega)
      simp [h0, hr, hne, this]
    · have : finMod 32 rd ≠ r := fun e => hr (by simp [← e, finMod]; omega)
      simp [h0, hr, vget_vset_other _ _ _ _ this]

theorem pregs_writeS (q : Sequencer) (rd : Nat) (v : W64) (now issued : Nat) : (writeS q rd v now issued).pregs = q.pregs := by
  unfold writeS
  split <;> rfl

theorem scRd_lt (b : RawBundle) : scRd b < 32 := by
  simp only [scRd, fieldNat]
  exact Nat.mod_lt _ (by decide)

/-- A bundle whose scalar slot comes to a write of rd, or to nothing where its predicate is off, sets rd and leaves every
other stream alone (R93, R119). -/
theorem setsS_of_scalarEffect {s : State} {w : SeqId} {b : RawBundle} {i : Instr} {hit : RawBundle → Bool} {on : Bool} {v : W64} {t : Nat}
    (h : Issues s w b) (hi : exec i s = presentOp hit w s) (hb : hit b = true) (hop : scalarOp b ≠ 0xC0)
    (he : ∀ d, scalarEffect s.dev d (ctxOf s.dev w) w b = if on then setS d w (scRd b) v t else d) : SetsS i s w b on v := by
  refine ⟨_, gives_applyIssue h hi hb, ⟨fun r => ?_, ?_⟩, fun x hx => ?_, fun ha => ?_⟩
  · rw [applyIssue_eq, sregs_advanceStream, he]
    cases on
    · simp [getSeq_issueSlots]
    · simp [setS, getSeq_issueSlots, vget_sregs_writeS _ _ (scRd_lt b)]
  · rw [applyIssue_eq, pregs_advanceStream, he]
    cases on
    · simp [getSeq_issueSlots]
    · simp [setS, getSeq_issueSlots, pregs_writeS]
  · rw [applyIssue_eq, getSeq_advanceStream_other _ _ _ _ _ _ hx, he]
    cases on
    · simp [getSeq_issueSlots]
    · simp [setS, getSeq_modSeq_other _ _ _ _ hx, getSeq_issueSlots]
  · obtain ⟨f, hf⟩ := advanceStream_isModSeq s.dev (scalarEffect s.dev (issueSlots s.dev (ctxOf s.dev w) w b) (ctxOf s.dev w) w b) (ctxOf s.dev w) w b
    rw [applyIssue_eq, hf, he, issueSlots_alone ha hop]
    cases on
    · exact ⟨_, modSeq_eq_const _ _ _⟩
    · exact ⟨_, by rw [if_pos rfl, setS, modSeq_modSeq_same, modSeq_eq_const]⟩

/-! ### Operations with an immediate and the counters -/

/-- An operation of format S-I that writes a scalar register (R94, R119). -/
theorem scalarEffect_immediate {d0 d : Device} {c : CtxId} {w : SeqId} {b : RawBundle} (hi : isSI (scalarOp b) = true)
    (hc : isCompare (scalarOp b) = false) :
    scalarEffect d0 d c w b = setS d w (scRd b) (aluI (scalarOp b) (readS (getSeq d0 w) (scRs1 b)) (scImm30 b)) (tickOf d0 c) := by
  have hr : 0x40 ≤ scalarOp b ∧ scalarOp b ≤ 0x7F := by simpa [isSI] using hi
  have h1 : isSR (scalarOp b) = false := by simp [isSR]; omega
  have h2 : scalarOp b ≠ 0 := by omega
  have h3 : scalarOp b ≠ 0x80 := by omega
  have h4 : scalarOp b ≠ 0x81 := by omega
  simp [scalarEffect, h1, h2, hi, effectI, h3, h4, hc]

theorem shiftLeft_eq_ofNat (x : W64) (n : Nat) : x <<< n = BitVec.ofNat 64 (x.toNat * 2 ^ n) := by
  apply BitVec.eq_of_toNat_eq
  simp [Nat.shiftLeft_eq]

theorem ushiftRight_eq_ofNat (x : W64) (n : Nat) : x >>> n = BitVec.ofNat 64 (x.toNat / 2 ^ n) := by
  apply BitVec.eq_of_toNat_eq
  have : x.toNat / 2 ^ n < 2 ^ 64 := lt_of_le_of_lt (Nat.div_le_self _ _) x.isLt
  rw [BitVec.toNat_ushiftRight, Nat.shiftRight_eq_div_pow, BitVec.toNat_ofNat, Nat.mod_eq_of_lt this]

theorem sshiftRight_eq_ofInt (x : W64) (n : Nat) : x.sshiftRight n = BitVec.ofInt 64 (x.toInt / 2 ^ n) := by
  rw [BitVec.sshiftRight, Int.shiftRight_eq_div_pow]
  norm_cast

/-- lih keeps the low 35 bits of rd and puts its 29 bits above them (R119). -/
theorem lihValue_eq (x : W64) (n : Nat) : lihValue x (put64 0 n) = BitVec.ofNat 64 (x.toNat % 2 ^ 35 + 2 ^ 35 * n) := by
  have hlow : x &&& put64 0 (2 ^ 35 - 1) = BitVec.ofNat 64 (x.toNat % 2 ^ 35) := by
    apply BitVec.eq_of_toNat_eq
    have h : x.toNat &&& (2 ^ 35 - 1) = x.toNat % 2 ^ 35 := Nat.and_two_pow_sub_one_eq_mod _ _
    simp only [put64, BitVec.toNat_and, BitVec.toNat_ofNat]
    norm_num at h ⊢
    omega
  have hhigh : put64 0 n <<< 35 = BitVec.ofNat 64 (2 ^ 35 * n) := by
    apply BitVec.eq_of_toNat_eq
    simp [put64, Nat.shiftLeft_eq]
    omega
  have hdis : BitVec.ofNat 64 (x.toNat % 2 ^ 35) &&& BitVec.ofNat 64 (2 ^ 35 * n) = 0#64 := by
    refine BitVec.eq_of_getLsbD_eq fun k hk => ?_
    rw [BitVec.getLsbD_and, BitVec.getLsbD_ofNat, BitVec.getLsbD_ofNat, Nat.testBit_two_pow_mul, Nat.testBit_mod_two_pow]
    by_cases h : k < 35 <;> simp [h]
  rw [lihValue, hlow, hhigh, ← BitVec.add_eq_or_of_and_eq_zero _ _ hdis, BitVec.ofNat_add]

/-- The row of an operation of format S-I writes rd whatever the predicate field (R94, R119). -/
theorem setsS_immediate {s : State} {w : SeqId} {b : RawBundle} {i : Instr} {op : Nat} {v : W64} (h : Issues s w b) (hop : scalarOp b = op)
    (hi : exec i s = presentOp (fun b => decide (scalarOp b = op)) w s) (hs : isSI op = true) (hc : isCompare op = false)
    (hv : aluI op (readS (getSeq s.dev w) (scRs1 b)) (scImm30 b) = v) : SetsS i s w b true v := by
  subst hop hv
  refine setsS_of_scalarEffect (t := tickAt s w) h hi (by simp) (fun e => by simp [e, isSI] at hs) fun d => ?_
  rw [if_pos rfl]
  exact scalarEffect_immediate hs hc

theorem scalarEffect_li {d0 d : Device} {c : CtxId} {w : SeqId} {b : RawBundle} (h : scalarOp b = 0x80) :
    scalarEffect d0 d c w b = setS d w (scRd b) (scImm35 b) (tickOf d0 c) := by
  simp [scalarEffect, h, isSR, isSI, effectI]

theorem scalarEffect_lih {d0 d : Device} {c : CtxId} {w : SeqId} {b : RawBundle} (h : scalarOp b = 0x81) :
    scalarEffect d0 d c w b = setS d w (scRd b)
      (BitVec.ofNat 64 ((readS (getSeq d0 w) (scRd b)).toNat % 2 ^ 35 + 2 ^ 35 * fieldNat (scalarSlot b) 28 0)) (tickOf d0 c) := by
  rw [← lihValue_eq]
  simp [scalarEffect, h, isSR, isSI, effectI]

theorem scalarEffect_rdtick {d0 d : Device} {c : CtxId} {w : SeqId} {b : RawBundle} (h : scalarOp b = 0x20) :
    scalarEffect d0 d c w b =
      if scalarHolds d0 c (getSeq d0 w) b then setS d w (scRd b) (BitVec.ofNat 64 (tickOf d0 c)) (tickOf d0 c) else d := by
  cases hh : scalarHolds d0 c (getSeq d0 w) b <;> simp [scalarEffect, h, isSR, effectR, hh, isCompare, isPredOp]

theorem scalarEffect_rdtime {d0 d : Device} {c : CtxId} {w : SeqId} {b : RawBundle} (h : scalarOp b = 0x21) :
    scalarEffect d0 d c w b =
      if scalarHolds d0 c (getSeq d0 w) b then countMayVary (setS d w (scRd b) (BitVec.ofNat 64 (replicaNs d0 c.core)) (tickOf d0 c)) c else d := by
  cases hh : scalarHolds d0 c (getSeq d0 w) b <;> simp [scalarEffect, h, isSR, effectR, hh, isCompare, isPredOp]

/-! ### The may-vary counter (R31) -/

@[simp] theorem getSeq_countMayVary (d : Device) (c : CtxId) (x : SeqId) : getSeq (countMayVary d c) x = getSeq d x := by
  unfold countMayVary
  split <;> rfl

@[simp] theorem clock_countMayVary (d : Device) (c : CtxId) : (countMayVary d c).clock = d.clock := by
  unfold countMayVary
  split <;> rfl

@[simp] theorem isSplit_modSeq (d : Device) (w : SeqId) (f : Sequencer → Sequencer) (k : CoreId) : isSplit (modSeq d w f) k = isSplit d k := by
  by_cases h : w.core = k
  · simp [isSplit, modSeq, h]
  · simp [isSplit, modSeq, getCore_modCore_other _ _ _ _ h]

@[simp] theorem domOf_modSeq (d : Device) (w : SeqId) (f : Sequencer → Sequencer) (c : CtxId) : domOf (modSeq d w f) c = domOf d c := by
  rw [domOf, getUnit_modSeq]
  rfl

@[simp] theorem runOf_modSeq (d : Device) (w : SeqId) (f : Sequencer → Sequencer) (c : CtxId) : runOf (modSeq d w f) c = runOf d c := by
  rw [runOf, domOf_modSeq]
  rfl

@[simp] theorem getDom_modRun_same (d : Device) (i : DomId) (f : Run → Run) :
    getDom (modRun d i f) i = { getDom d i with run := (getDom d i).run.map f } := by
  simp [modRun]

/-- A context with a run belongs to a live domain. -/
theorem runOf_eq_some {d : Device} {c : CtxId} {r : Run} :
    runOf d c = some r ↔ ∃ i, domOf d c = some i ∧ liveDom (getDom d i) = true ∧ (getDom d i).run = some r := by
  unfold runOf
  cases domOf d c with
  | none => simp
  | some i => by_cases hl : liveDom (getDom d i) = true <;> simp [hl]

/-- The run of a context after an update of its domain's run. -/
theorem runOf_modRun {d : Device} {c : CtxId} {i : DomId} {r : Run} (f : Run → Run) (hd : domOf d c = some i) (hr : runOf d c = some r) :
    runOf (modRun d i f) c = some (f r) := by
  obtain ⟨j, hj, hl, hrun⟩ := runOf_eq_some.1 hr
  obtain rfl : j = i := by simpa [hj] using hd
  refine runOf_eq_some.2 ⟨j, hj, ?_, ?_⟩
  · rw [getDom_modRun_same]
    exact hl
  · rw [getDom_modRun_same, hrun]
    rfl

theorem runOf_countMayVary {d : Device} {c : CtxId} {r : Run} (hr : runOf d c = some r) :
    runOf (countMayVary d c) c = some { r with mayvary := r.mayvary + 1 } := by
  obtain ⟨i, hi, -, -⟩ := runOf_eq_some.1 hr
  rw [countMayVary, hi]
  exact runOf_modRun _ hi hr

/-- A die's replica of the time counter lies within 1 ns of it (R418). -/
theorem replicaNs_near (d : Device) (k : CoreId) : replicaNs d k ≤ nowNs d + 1 ∧ nowNs d ≤ replicaNs d k + 1 := by
  have h := (Config.replicaSkew (k.val / 128) d.clock.elapsed).isLt
  simp only [replicaNs]
  omega

@[simp] theorem clock_advanceStream (d0 d : Device) (c : CtxId) (w : SeqId) (b : RawBundle) : (advanceStream d0 d c w b).clock = d.clock := rfl

@[simp] theorem runOf_advanceStream (d0 d : Device) (c x : CtxId) (w : SeqId) (b : RawBundle) : runOf (advanceStream d0 d c w b) x = runOf d x :=
  runOf_modSeq _ _ _ _

/-- rdtime writes the replica, and counts as may vary, where its predicate holds (R30, R31, R122). -/
theorem answers_rdtime {s : State} {w : SeqId} {b : RawBundle} (h : Issues s w b) (hop : scalarOp b = 0x21) :
    let on := scalarHolds s.dev (ctxOf s.dev w) (getSeq s.dev w) b
    Answers (.rdtime w) s fun e =>
      Sets s w on (scRd b) (BitVec.ofNat 64 (replicaNs s.dev w.core)) e ∧ (∀ x, x ≠ w → getSeq e x = getSeq s.dev x) ∧
      (Alone b → e.clock = s.dev.clock ∧ ∀ r, runOf s.dev (ctxOf s.dev w) = some r →
        runOf e (ctxOf s.dev w) = some { r with mayvary := r.mayvary + if on then 1 else 0 }) := by
  intro on
  refine ⟨_, gives_applyIssue h (hit := fun b => scalarOp b = 0x21) rfl (by simp [hop]), ⟨fun r => ?_, ?_⟩, fun x hx => ?_, fun ha => ⟨?_, fun r hr => ?_⟩⟩
  · rw [applyIssue_eq, sregs_advanceStream, scalarEffect_rdtime hop]
    change vget (getSeq (if on then _ else _) w).sregs r = _
    cases on
    · simp [getSeq_issueSlots]
    · simp [setS, getSeq_issueSlots, vget_sregs_writeS _ _ (scRd_lt b), ctxOf]
  · rw [applyIssue_eq, pregs_advanceStream, scalarEffect_rdtime hop]
    split <;> simp [setS, getSeq_issueSlots, pregs_writeS]
  · rw [applyIssue_eq, getSeq_advanceStream_other _ _ _ _ _ _ hx, scalarEffect_rdtime hop]
    split <;> simp [setS, getSeq_modSeq_other _ _ _ _ hx, getSeq_issueSlots]
  · rw [applyIssue_eq, clock_advanceStream, scalarEffect_rdtime hop, issueSlots_alone ha (by simp [hop])]
    split <;> simp [setS]
  · rw [applyIssue_eq, runOf_advanceStream, scalarEffect_rdtime hop, issueSlots_alone ha (by simp [hop])]
    change runOf (if on then _ else _) _ = _
    cases on
    · simpa using hr
    · simpa [setS] using runOf_countMayVary (by simpa using hr)

/-- Settles O39: a row of format S-I or S-L comes to one write of rd, and so do the counters, whose bundle issues like any other. -/
theorem immediatesAndCounters : Obligations.ImmediatesAndCounters := by
  unfold Obligations.ImmediatesAndCounters
  intro s w b h
  refine ⟨fun hop => ?_, fun hop => ?_, fun hop => ?_, fun hop => ?_, fun hop => ?_, fun hop => ?_, fun hop => ?_, fun hop => ?_, fun hop => ?_,
    fun hop => ?_, fun hop => ?_⟩
  · exact setsS_immediate h hop rfl rfl rfl rfl
  · exact setsS_immediate h hop rfl rfl rfl rfl
  · exact setsS_immediate h hop rfl rfl rfl rfl
  · exact setsS_immediate h hop rfl rfl rfl rfl
  · exact setsS_immediate h hop rfl rfl rfl (shiftLeft_eq_ofNat _ _)
  · exact setsS_immediate h hop rfl rfl rfl (ushiftRight_eq_ofNat _ _)
  · exact setsS_immediate h hop rfl rfl rfl (sshiftRight_eq_ofInt _ _)
  · exact setsS_of_scalarEffect h rfl (by simpa using hop) (by simp [hop]) fun d => by rw [if_pos rfl]; exact scalarEffect_li hop
  · exact setsS_of_scalarEffect h rfl (by simpa using hop) (by simp [hop]) fun d => by rw [if_pos rfl]; exact scalarEffect_lih hop
  · exact setsS_of_scalarEffect h rfl (by simpa using hop) (by simp [hop]) fun d => scalarEffect_rdtick hop
  · obtain ⟨e, he, hset, hother, halone⟩ := answers_rdtime h hop
    obtain ⟨hle, hge⟩ := replicaNs_near s.dev w.core
    exact ⟨e, he, ⟨_, hle, hge, hset⟩, hother, halone⟩

end Sys2Proof.Machine
end

section
/-! What an update keeps of the parts it does not touch, the reads of the state that depend on those parts alone, and the
stores of a bundle. -/

open Sys2Proof.Claims

namespace Sys2Proof.Machine

/-! ### A projection that an update keeps -/

theorem getCore_modCore_proj {β : Type} (g : Core → β) (d : Device) (c x : CoreId) {f : Core → Core} (h : ∀ k, g (f k) = g k) :
    g (getCore (modCore d c f) x) = g (getCore d x) := by
  by_cases e : c = x
  · subst e
    rw [getCore_modCore_same, h]
  · rw [getCore_modCore_other _ _ _ _ e]

theorem getUnit_modCore_proj {β : Type} (g : CtxUnit → β) (d : Device) (c : CoreId) (x : CtxId) {f : Core → Core}
    (h : ∀ k n, g (vget (f k).units n) = g (vget k.units n)) : g (getUnit (modCore d c f) x) = g (getUnit d x) :=
  getCore_modCore_proj (fun k => g (vget k.units x.ctx)) d c x.core fun k => h k x.ctx

theorem getUnit_modUnit_proj {β : Type} (g : CtxUnit → β) (d : Device) (c x : CtxId) {f : CtxUnit → CtxUnit} (h : ∀ u, g (f u) = g u) :
    g (getUnit (modUnit d c f) x) = g (getUnit d x) := by
  refine getUnit_modCore_proj g d c.core x fun k n => ?_
  by_cases e : c.ctx = n
  · subst e
    rw [vget_vmod_same, h]
  · rw [vget_vmod_other _ _ _ _ e]

theorem getUnit_modUnit_other (d : Device) (c x : CtxId) (f : CtxUnit → CtxUnit) (h : x ≠ c) : getUnit (modUnit d c f) x = getUnit d x := by
  by_cases hc : c.core = x.core
  · have hx : c.ctx ≠ x.ctx := fun e => h (by cases c; cases x; simp_all)
    simp [getUnit, modUnit, hc, vget_vmod_other _ _ _ _ hx]
  · simp [getUnit, modUnit, getCore_modCore_other _ _ _ _ hc]

@[simp] theorem getUnit_modLq (d : Device) (c x : CtxId) (q : Fin 4) (f : LinkQueue → LinkQueue) : getUnit (modLq d c q f) x = getUnit d x :=
  getUnit_modCore_proj id d c.core x fun _ _ => rfl

@[simp] theorem getUnit_modAg (d : Device) (c x : CtxId) (n : Nat) (f : AddrGen → AddrGen) : getUnit (modAg d c n f) x = getUnit d x :=
  getUnit_modCore_proj id d c.core x fun _ _ => rfl

@[simp] theorem isSplit_modUnit (d : Device) (c : CtxId) (f : CtxUnit → CtxUnit) (k : CoreId) : isSplit (modUnit d c f) k = isSplit d k :=
  getCore_modCore_proj (·.split) d c.core k fun _ => rfl

@[simp] theorem isSplit_modLq (d : Device) (c : CtxId) (q : Fin 4) (f : LinkQueue → LinkQueue) (k : CoreId) : isSplit (modLq d c q f) k = isSplit d k :=
  getCore_modCore_proj (·.split) d c.core k fun _ => rfl

@[simp] theorem isSplit_modAg (d : Device) (c : CtxId) (n : Nat) (f : AddrGen → AddrGen) (k : CoreId) : isSplit (modAg d c n f) k = isSplit d k :=
  getCore_modCore_proj (·.split) d c.core k fun _ => rfl

@[simp] theorem agOf_modUnit (d : Device) (c x : CtxId) (f : CtxUnit → CtxUnit) (n : Nat) : agOf (modUnit d c f) x n = agOf d x n :=
  getCore_modCore_proj (fun k => vget k.ags (physAg k.split x.ctx n)) d c.core x.core fun _ => rfl

@[simp] theorem agOf_modLq (d : Device) (c x : CtxId) (q : Fin 4) (f : LinkQueue → LinkQueue) (n : Nat) : agOf (modLq d c q f) x n = agOf d x n :=
  getCore_modCore_proj (fun k => vget k.ags (physAg k.split x.ctx n)) d c.core x.core fun _ => rfl

@[simp] theorem lqOf_modUnit (d : Device) (c x : CtxId) (f : CtxUnit → CtxUnit) (q : Fin 4) : lqOf (modUnit d c f) x q = lqOf d x q :=
  getCore_modCore_proj (fun k => vget k.lqs (physLq k.split x.ctx q)) d c.core x.core fun _ => rfl

@[simp] theorem lqOf_modAg (d : Device) (c x : CtxId) (n : Nat) (f : AddrGen → AddrGen) (q : Fin 4) : lqOf (modAg d c n f) x q = lqOf d x q :=
  getCore_modCore_proj (fun k => vget k.lqs (physLq k.split x.ctx q)) d c.core x.core fun _ => rfl

@[simp] theorem lqOf_modSeq (d : Device) (w : SeqId) (f : Sequencer → Sequencer) (x : CtxId) (q : Fin 4) : lqOf (modSeq d w f) x q = lqOf d x q :=
  getCore_modCore_proj (fun k => vget k.lqs (physLq k.split x.ctx q)) d w.core x.core fun _ => rfl

@[simp] theorem agOf_modSeq (d : Device) (w : SeqId) (f : Sequencer → Sequencer) (x : CtxId) (n : Nat) : agOf (modSeq d w f) x n = agOf d x n :=
  getCore_modCore_proj (fun k => vget k.ags (physAg k.split x.ctx n)) d w.core x.core fun _ => rfl

@[simp] theorem agOf_modAg_same (d : Device) (c : CtxId) (n : Nat) (f : AddrGen → AddrGen) : agOf (modAg d c n f) c n = f (agOf d c n) := by
  simp [agOf, modAg, isSplit]

@[simp] theorem lqOf_modLq_same (d : Device) (c : CtxId) (q : Fin 4) (f : LinkQueue → LinkQueue) : lqOf (modLq d c q f) c q = f (lqOf d c q) := by
  simp [lqOf, modLq, isSplit]

/-! ### Domains -/

theorem getDom_modDom_other (d : Device) (i j : DomId) (f : Domain → Domain) (h : i ≠ j) : getDom (modDom d i f) j = getDom d j := by
  by_cases hp : i.part = j.part
  · have hd : i.dom ≠ j.dom := fun e => h (by cases i; cases j; simp_all)
    simp [getDom, modDom, hp, vget_vmod_other _ _ _ _ hd]
  · simp [getDom, modDom, getPart_modPart_other _ _ _ _ hp]

theorem getDom_modRun_other (d : Device) (i j : DomId) (f : Run → Run) (h : i ≠ j) : getDom (modRun d i f) j = getDom d j :=
  getDom_modDom_other _ _ _ _ h

/-! ### The run of a context -/

theorem domOf_modCore (d : Device) (c : CoreId) {f : Core → Core} (x : CtxId) (h : ∀ k n, (vget (f k).units n).bound = (vget k.units n).bound) :
    domOf (modCore d c f) x = domOf d x := by
  rw [domOf, getUnit_modCore_proj (·.bound) d c x h]
  rfl

theorem runOf_modCore (d : Device) (c : CoreId) {f : Core → Core} (x : CtxId) (h : ∀ k n, (vget (f k).units n).bound = (vget k.units n).bound) :
    runOf (modCore d c f) x = runOf d x := by
  rw [runOf, domOf_modCore d c x h]
  rfl

theorem domOf_modUnit (d : Device) (c : CtxId) {f : CtxUnit → CtxUnit} (x : CtxId) (h : ∀ u, (f u).bound = u.bound) :
    domOf (modUnit d c f) x = domOf d x := by
  rw [domOf, getUnit_modUnit_proj (·.bound) d c x h]
  rfl

theorem runOf_modUnit (d : Device) (c : CtxId) {f : CtxUnit → CtxUnit} (x : CtxId) (h : ∀ u, (f u).bound = u.bound) :
    runOf (modUnit d c f) x = runOf d x := by
  rw [runOf, domOf_modUnit d c x h]
  rfl

@[simp] theorem runOf_modLq (d : Device) (c : CtxId) (q : Fin 4) (f : LinkQueue → LinkQueue) (x : CtxId) : runOf (modLq d c q f) x = runOf d x :=
  runOf_modCore _ _ _ fun _ _ => rfl

@[simp] theorem runOf_modAg (d : Device) (c : CtxId) (n : Nat) (f : AddrGen → AddrGen) (x : CtxId) : runOf (modAg d c n f) x = runOf d x :=
  runOf_modCore _ _ _ fun _ _ => rfl

theorem tickOf_eq_of_runOf {d e : Device} {c : CtxId} (h : runOf e c = runOf d c) : tickOf e c = tickOf d c := by
  rw [tickOf, h]
  rfl

@[simp] theorem tickOf_modLq (d : Device) (c : CtxId) (q : Fin 4) (f : LinkQueue → LinkQueue) (x : CtxId) : tickOf (modLq d c q f) x = tickOf d x :=
  tickOf_eq_of_runOf (runOf_modLq ..)

/-- The tick is one of the things that the slots of a bundle keep. -/
theorem Keeps.tickOf {l : List CorePart} {d e : Device} (h : Keeps l d e) (c : CtxId) : tickOf e c = tickOf d c := by
  have hd : domOf e c = domOf d c := by
    simp only [domOf, getUnit, ((h.core c.core).units c.ctx).bound, partOfCore, partOfDie, diesPer, h.config]
  have hl : ∀ i, liveDom (getDom e i) = liveDom (getDom d i) := fun i => by simp only [liveDom, (h.doms i).st, (h.doms i).runHandle]
  unfold Machine.tickOf runOf
  rw [hd]
  cases domOf d c with
  | none => rfl
  | some i =>
    simp only [hl]
    cases hlive : liveDom (getDom d i) with
    | false => rfl
    | true =>
      cases hrun : (getDom d i).run with
      | none => simp [(h.doms i).none hrun]
      | some q =>
        obtain ⟨x, hx, htick, -, -⟩ := (h.doms i).run q hrun
        simp [hx, htick]

theorem Keeps.agOf {l : List CorePart} {d e : Device} (h : Keeps l d e) (hl : .ags ∉ l) (c : CtxId) (n : Nat) : agOf e c n = agOf d c n := by
  simp only [Machine.agOf, isSplit, (h.core c.core).ags hl, (h.core c.core).split]

theorem Keeps.getSeq {l : List CorePart} {d e : Device} (h : Keeps l d e) (hl : .seqs ∉ l) (w : SeqId) : getSeq e w = getSeq d w := by
  simp only [Machine.getSeq, (h.core w.core).seqs hl]

/-! ### The record of an event -/

/-- What the record of an event may have changed: the error block, the overrun bits of the clock, the bits set on the present tick,
and the taint of runs (R415, R471–R476). -/
structure Reported (d e : Device) : Prop where
  rest : e = { d with parts := e.parts, clock := { d.clock with overrun := e.clock.overrun }, err := e.err, justSet := e.justSet }
  part : ∀ p, getPart e p = { getPart d p with doms := (getPart e p).doms }
  dom : ∀ i, ∃ g : Run → Bool, getDom e i = { getDom d i with run := (getDom d i).run.map fun r => { r with tainted := g r } }

namespace Reported

theorem of_parts {d e : Device} (h : e.parts = d.parts)
    (hr : e = { d with clock := { d.clock with overrun := e.clock.overrun }, err := e.err, justSet := e.justSet }) : Reported d e := by
  have hp : ∀ p, getPart e p = getPart d p := fun p => by rw [getPart, h, getPart]
  refine ⟨by rw [h]; exact hr, fun p => by rw [hp], fun i => ⟨Run.tainted, ?_⟩⟩
  rw [getDom, hp, getDom]
  simp

theorem refl (d : Device) : Reported d d := of_parts rfl rfl

theorem trans {d x e : Device} (h : Reported d x) (k : Reported x e) : Reported d e := by
  refine ⟨k.rest.trans ?_, fun p => (k.part p).trans (by rw [h.part p]), fun i => ?_⟩
  · rw [h.rest]
  · obtain ⟨f, hf⟩ := h.dom i
    obtain ⟨g, hg⟩ := k.dom i
    exact ⟨fun r => g { r with tainted := f r }, by rw [hg, hf]; simp [Function.comp_def]⟩

theorem forAll {α : Type} {l : List α} {d : Device} {f : Device → α → Device} (h : ∀ e x, Reported e (f e x)) : Reported d (forAll l d f) := by
  unfold Machine.forAll
  induction l generalizing d with
  | nil => exact refl d
  | cons x xs ih => exact (h d x).trans ih

theorem cores {d e : Device} (h : Reported d e) : e.cores = d.cores := by rw [h.rest]
theorem barriers {d e : Device} (h : Reported d e) : e.barriers = d.barriers := by rw [h.rest]
theorem rings {d e : Device} (h : Reported d e) : e.rings = d.rings := by rw [h.rest]
theorem msix {d e : Device} (h : Reported d e) : e.msix = d.msix := by rw [h.rest]
theorem cmds {d e : Device} (h : Reported d e) : e.cmds = d.cmds := by rw [h.rest]
theorem config {d e : Device} (h : Reported d e) : e.config = d.config := by rw [h.rest]
theorem vfPart {d e : Device} (h : Reported d e) : e.vfPart = d.vfPart := by rw [h.rest]
theorem sec {d e : Device} (h : Reported d e) : e.sec = d.sec := by rw [h.rest]
theorem power {d e : Device} (h : Reported d e) : e.power = d.power := by rw [h.rest]
theorem time16 {d e : Device} (h : Reported d e) : e.clock.time16 = d.clock.time16 := by rw [h.rest]
theorem elapsed {d e : Device} (h : Reported d e) : e.clock.elapsed = d.clock.elapsed := by rw [h.rest]
theorem fab {d e : Device} (h : Reported d e) : e.fab = d.fab := by rw [h.rest]
theorem hbmStat {d e : Device} (h : Reported d e) : e.hbmStat = d.hbmStat := by rw [h.rest]
theorem cxlPorts {d e : Device} (h : Reported d e) : e.cxlPorts = d.cxlPorts := by rw [h.rest]
theorem scratch {d e : Device} (h : Reported d e) : e.scratch = d.scratch := by rw [h.rest]
theorem scratchBad {d e : Device} (h : Reported d e) : e.scratchBad = d.scratchBad := by rw [h.rest]
theorem reservoir {d e : Device} (h : Reported d e) : e.reservoir = d.reservoir := by rw [h.rest]
theorem retained {d e : Device} (h : Reported d e) : e.retained = d.retained := by rw [h.rest]
theorem hbm {d e : Device} (h : Reported d e) : e.hbm = d.hbm := by rw [h.rest]
theorem cxl {d e : Device} (h : Reported d e) : e.cxl = d.cxl := by rw [h.rest]
theorem host {d e : Device} (h : Reported d e) : e.host = d.host := by rw [h.rest]

theorem getCore {d e : Device} (h : Reported d e) (k : CoreId) : getCore e k = getCore d k := by rw [Machine.getCore, h.cores, Machine.getCore]
theorem getUnit {d e : Device} (h : Reported d e) (c : CtxId) : getUnit e c = getUnit d c := by rw [Machine.getUnit, h.getCore, Machine.getUnit]
theorem getSeq {d e : Device} (h : Reported d e) (w : SeqId) : getSeq e w = getSeq d w := by rw [Machine.getSeq, h.getCore, Machine.getSeq]
theorem isSplit {d e : Device} (h : Reported d e) (k : CoreId) : isSplit e k = isSplit d k := by rw [Machine.isSplit, h.getCore, Machine.isSplit]
theorem partOfCore {d e : Device} (h : Reported d e) (k : CoreId) : partOfCore e k = partOfCore d k := by
  rw [Machine.partOfCore, partOfDie, diesPer, h.config]
  rfl
theorem domOf {d e : Device} (h : Reported d e) (c : CtxId) : domOf e c = domOf d c := by
  rw [Machine.domOf, h.getUnit, h.partOfCore, Machine.domOf]

end Reported

theorem reported_taint (d : Device) (det unit : BitVec 16) : Reported d (taint d det unit) := by
  refine Reported.forAll fun e i => ?_
  split
  · refine ⟨rfl, fun p => ?_, fun j => ?_⟩
    · by_cases hp : i.part = p
      · subst hp
        simp [modRun, modDom]
      · simp [modRun, modDom, getPart_modPart_other _ _ _ _ hp]
    · by_cases hj : i = j
      · subst hj
        exact ⟨fun _ => true, by simp⟩
      · exact ⟨Run.tainted, by rw [getDom_modRun_other _ _ _ _ hj]; simp⟩
  · exact Reported.refl e

theorem reported_useArmed (d : Device) (det unit : BitVec 16) : Reported d (useArmed d det unit) := by
  unfold useArmed
  refine Reported.trans ?_ (reported_taint _ _ _)
  exact Reported.of_parts rfl rfl

theorem reported_inject (d : Device) (det unit : BitVec 16) : Reported d (inject d det unit).2 := by
  unfold inject
  split
  · exact reported_useArmed _ _ _
  · exact Reported.refl d

theorem reported_pushEvent (d : Device) (e : ErrEvent) (p : EventPlace) : Reported d (pushEvent d e p) := Reported.of_parts rfl rfl

theorem reported_overrun (d : Device) (k : Nat) (inj : Bool) : Reported d (overrun d k inj) := Reported.of_parts rfl rfl

/-- An event enters the place that its crossing has for it, or is lost and an overrun is recorded (R415). -/
theorem reported_detect (d : Device) (e : ErrEvent) : Reported d (detect d e) := by
  have ht : Reported d (if e.inj then taint d e.det e.unit else d) := by
    split
    · exact reported_taint _ _ _
    · exact Reported.refl d
  unfold detect
  generalize (if e.inj then taint d e.det e.unit else d) = x at ht
  refine ht.trans ?_
  cases crossingOf e.det e.unit with
  | none => exact reported_pushEvent _ _ _
  | some k =>
    refine (reported_inject x 0x162 (BitVec.ofNat 16 k)).trans ?_
    generalize hy : inject x 0x162 (BitVec.ofNat 16 k) = y
    simp only [hy]
    split
    · split
      · exact Reported.of_parts rfl rfl
      · exact Reported.of_parts rfl rfl
    · split
      · exact (reported_pushEvent _ _ _).trans (reported_overrun _ _ _)
      · exact reported_pushEvent _ _ _

theorem reported_detectAt (d : Device) (e : ErrEvent) : Reported d (detectAt d e) :=
  (reported_inject _ _ _).trans (reported_detect _ _)

end Sys2Proof.Machine
end

section
/-! Bundles of the load or the store slot alone, and what their transfers leave. -/

open Sys2Proof.Claims

namespace Sys2Proof.Machine

/-! ### A bundle of one memory slot -/

theorem applyIssue_onlyMem {d : Device} {c : CtxId} {w : SeqId} {b : RawBundle} {store : Bool} (h : OnlyMem b store) :
    applyIssue d c w b = advanceStream d (memEffect d d c w b) c w b := by
  obtain ⟨hsc, hv, hm, hy, -⟩ := h
  have hslots : issueSlots d c w b = memEffect d d c w b := by
    simp [issueSlots, hsc, syncEffect_none (show syncOp b ≤ 1 by omega), vectorEffect_none hv, matrixEffect_none hm]
  rw [applyIssue_eq, hslots]
  simp [scalarEffect, hsc]

/-- A bundle without a scalar operation moves its stream on by the loop-end evaluation (R58, R70). -/
theorem onlyMoves_advanceStream {s : State} {w : SeqId} {b : RawBundle} {d : Device} (hop : scalarOp b = 0) (h : ∀ x, getSeq d x = getSeq s.dev x) :
    OnlyMoves s w b (advanceStream s.dev d (ctxOf s.dev w) w b) := by
  intro x
  by_cases hx : x = w
  · subst hx
    have hn : nextAddress s.dev (ctxOf s.dev x) (getSeq s.dev x) b =
        ((loopEndEval (getSeq s.dev x).pc.toNat (getSeq s.dev x).loops).1, (loopEndEval (getSeq s.dev x).pc.toNat (getSeq s.dev x).loops).2,
          tickAt s x + 1) := by
      simp [nextAddress, branchTaken, hop, tickAt]
    rw [if_pos rfl, advanceStream, hn]
    simp only [getSeq_modSeq_same, h, moved]
    rfl
  · rw [if_neg hx, getSeq_advanceStream_other _ _ _ _ _ _ hx, h]

@[simp] theorem getUnit_advanceStream (d0 d : Device) (c x : CtxId) (w : SeqId) (b : RawBundle) : getUnit (advanceStream d0 d c w b) x = getUnit d x :=
  getUnit_modSeq _ _ _ _

@[simp] theorem agOf_advanceStream (d0 d : Device) (c x : CtxId) (w : SeqId) (b : RawBundle) (n : Nat) :
    agOf (advanceStream d0 d c w b) x n = agOf d x n := agOf_modSeq _ _ _ _ _

@[simp] theorem lqOf_advanceStream (d0 d : Device) (c x : CtxId) (w : SeqId) (b : RawBundle) (q : Fin 4) :
    lqOf (advanceStream d0 d c w b) x q = lqOf d x q := lqOf_modSeq _ _ _ _ _

/-! ### The advance of the generator and the start of a repeat unit (R102) -/

@[simp] theorem getUnit_xAdvance (d : Device) (c : CtxId) (x : Xfer) : getUnit (xAdvance d c x) c = getUnit d c := by
  unfold xAdvance
  split <;> simp

@[simp] theorem lqOf_xAdvance (d : Device) (c : CtxId) (x : Xfer) (q : Fin 4) : lqOf (xAdvance d c x) c q = lqOf d c q := by
  unfold xAdvance
  split <;> simp

@[simp] theorem runOf_xAdvance (d : Device) (c : CtxId) (x : Xfer) : runOf (xAdvance d c x) c = runOf d c := by
  unfold xAdvance
  split <;> simp

theorem agOf_xAdvance (d : Device) (c : CtxId) (x : Xfer) :
    agOf (xAdvance d c x) c x.ag = if x.adv then agAdvance (agOf d c x.ag) else agOf d c x.ag := by
  unfold xAdvance
  split <;> simp

/-- The transfers that a slot makes after its first (R102). -/
def slotRep (store : Bool) (b : RawBundle) : Nat := msRep (if store then storeSlot b else loadSlot b)

theorem startUnit_none {d : Device} {c : CtxId} {store : Bool} {b : RawBundle} {x : Xfer} (h : slotRep store b = 0) :
    startUnit d c store b x = d := if_pos h

/-- REP starts the slot's repeat unit with what is left after the first transfer (R102). -/
theorem startUnit_some {d : Device} {c : CtxId} {store : Bool} {b : RawBundle} {x : Xfer} (h : slotRep store b ≠ 0) :
    ∃ u, startUnit d c store b x = setUnit d c store (some u) ∧ u.remaining = slotRep store b ∧ u.ag = finMod 8 x.ag ∧ u.op = x.op ∧
      u.predOff = x.predOff ∧ tickOf d c < u.nextTick := by
  refine ⟨_, if_neg h, rfl, rfl, rfl, rfl, ?_⟩
  dsimp only
  split <;> omega

/-- A slot without REP starts no unit; one with REP changes the slot's unit and nothing else. -/
theorem startUnit_cases (d : Device) (c : CtxId) (store : Bool) (b : RawBundle) (x : Xfer) :
    startUnit d c store b x = d ∨ ∃ y, startUnit d c store b x = setUnit d c store (some y) := by
  by_cases h : slotRep store b = 0
  · exact .inl (startUnit_none h)
  · obtain ⟨u, hu, -⟩ := startUnit_some (d := d) (c := c) (x := x) h
    exact .inr ⟨u, hu⟩

@[simp] theorem unitOf_setUnit (d : Device) (c : CtxId) (store : Bool) (y : Option RepeatUnit) : unitOf (setUnit d c store y) c store = y := by
  cases store <;> simp [unitOf, setUnit]

@[simp] theorem agOf_setUnit (d : Device) (c : CtxId) (store : Bool) (y : Option RepeatUnit) (n : Nat) : agOf (setUnit d c store y) c n = agOf d c n :=
  agOf_modUnit _ _ _ _ _

@[simp] theorem lqOf_setUnit (d : Device) (c : CtxId) (store : Bool) (y : Option RepeatUnit) (q : Fin 4) :
    lqOf (setUnit d c store y) c q = lqOf d c q := lqOf_modUnit _ _ _ _ _

@[simp] theorem runOf_setUnit (d : Device) (c : CtxId) (store : Bool) (y : Option RepeatUnit) : runOf (setUnit d c store y) c = runOf d c :=
  runOf_modUnit _ _ _ fun u => by split <;> rfl

/-- A part of a context that the repeat units are not. -/
theorem getUnit_setUnit_proj {β : Type} (g : CtxUnit → β) (d : Device) (c : CtxId) (store : Bool) (y : Option RepeatUnit)
    (hld : ∀ u y, g { u with ldUnit := y } = g u) (hst : ∀ u y, g { u with stUnit := y } = g u) :
    g (getUnit (setUnit d c store y) c) = g (getUnit d c) := by
  refine getUnit_modUnit_proj g d c c fun u => ?_
  split
  · exact hst _ _
  · exact hld _ _

@[simp] theorem agOf_startUnit (d : Device) (c : CtxId) (store : Bool) (b : RawBundle) (x : Xfer) (n : Nat) :
    agOf (startUnit d c store b x) c n = agOf d c n := by
  rcases startUnit_cases d c store b x with h | ⟨y, h⟩ <;> simp [h]

@[simp] theorem lqOf_startUnit (d : Device) (c : CtxId) (store : Bool) (b : RawBundle) (x : Xfer) (q : Fin 4) :
    lqOf (startUnit d c store b x) c q = lqOf d c q := by
  rcases startUnit_cases d c store b x with h | ⟨y, h⟩ <;> simp [h]

theorem runOf_startUnit (d : Device) (c : CtxId) (store : Bool) (b : RawBundle) (x : Xfer) : runOf (startUnit d c store b x) c = runOf d c := by
  rcases startUnit_cases d c store b x with h | ⟨y, h⟩ <;> simp [h]

theorem getUnit_startUnit_proj {β : Type} (g : CtxUnit → β) (d : Device) (c : CtxId) (store : Bool) (b : RawBundle) (x : Xfer)
    (hld : ∀ u y, g { u with ldUnit := y } = g u) (hst : ∀ u y, g { u with stUnit := y } = g u) :
    g (getUnit (startUnit d c store b x) c) = g (getUnit d c) := by
  rcases startUnit_cases d c store b x with h | ⟨y, h⟩
  · rw [h]
  · rw [h, getUnit_setUnit_proj g d c store y hld hst]

theorem msAg_lt (s : BitVec 64) : msAg s < 8 := by
  simp only [msAg, fieldNat]
  exact Nat.mod_lt _ (by decide)

theorem slotXfer_ag_lt (d : Device) (c : CtxId) (w : SeqId) (store : Bool) (b : RawBundle) : (slotXfer d c w store b).ag < 8 := msAg_lt _

/-! ### The rule of a transfer -/

/-- The store slot alone: its transfer, a repeat unit, the generator's advance. -/
theorem memEffect_store {d : Device} {c : CtxId} {w : SeqId} {b : RawBundle} (hl : loadOp b = 0) (hs : storeOp b ≠ 0) :
    memEffect d d c w b =
      xAdvance (startUnit (xEffect d c (slotXfer d c w true b)) c true b (slotXfer d c w true b)) c (slotXfer d c w true b) := by
  simp [memEffect, hl, hs]

/-- What the advance of the stream and the generator, and the start of a repeat unit, keep of a context. -/
structure KeepsContext (c : CtxId) (y e : Device) : Prop where
  lqs : ∀ q, lqOf e c q = lqOf y c q
  rqueue : (getUnit e c).rqueue = (getUnit y c).rqueue
  stores : (getUnit e c).stores = (getUnit y c).stores
  flights : (getUnit e c).flights = (getUnit y c).flights
  run : runOf e c = runOf y c

/-- A transfer of the store slot: what its effect does to the context stands beside the advance of the stream and the generator. -/
theorem transfers_store {s : State} {w : SeqId} {b : RawBundle} {i : Instr} {hit : RawBundle → Bool} {P : Device → Prop} {y : Device}
    (h : Issues s w b) (hm : OnlyMem b true) (hs : storeOp b ≠ 0) (hi : exec i s = presentOp hit w s) (hb : hit b = true)
    (hy : xEffect s.dev (ctxOf s.dev w) (slotXfer s.dev (ctxOf s.dev w) w true b) = y)
    (hunit : (getUnit y (ctxOf s.dev w)).stUnit = (getUnit s.dev (ctxOf s.dev w)).stUnit)
    (hP : ∀ e, KeepsContext (ctxOf s.dev w) y e → P e) : Transfers i s w b true P := by
  subst hy
  generalize hc : ctxOf s.dev w = c at *
  generalize hx : slotXfer s.dev c w true b = x at *
  have hag : x.ag < 8 := by rw [← hx]; exact slotXfer_ag_lt _ _ _ _ _
  have hkeep := keeps_xEffect s.dev c x
  have hl : loadOp b = 0 := hm.2.2.2.2
  have hissue := gives_applyIssue h hi hb
  have hmem := memEffect_store (d := s.dev) (c := c) (w := w) hl hs
  rw [hx] at hmem
  rw [hc, applyIssue_onlyMem hm, hmem] at hissue
  have hkm := keeps_memEffect s.dev s.dev c w b
  rw [hmem] at hkm
  unfold Transfers
  simp only [hc, hx]
  refine ⟨_, hissue, ?_, ?_, fun hn => ?_, fun hn => ?_, hP _ ⟨fun q => by simp, ?_, ?_, ?_, ?_⟩⟩
  · rw [← hc] at hkm ⊢
    exact onlyMoves_advanceStream hm.1 fun y => hkm.getSeq (by decide) y
  · rw [agOf_advanceStream, agOf_xAdvance, agOf_startUnit, hkeep.agOf (by decide)]
  · rw [startUnit_none (store := true) (b := b) hn]
    simpa [unitOf] using hunit
  · obtain ⟨u, hu, hrem, hg, hop, hoff, htick⟩ := startUnit_some (d := xEffect s.dev c x) (c := c) (x := x) (store := true) hn
    refine ⟨u, ?_, hrem, by rw [hg]; exact Nat.mod_eq_of_lt hag, hop, hoff, ?_⟩
    · rw [hu, unitOf, getUnit_advanceStream, getUnit_xAdvance]
      exact unitOf_setUnit _ _ _ _
    · rwa [hkeep.tickOf, ← hc] at htick
  · rw [getUnit_advanceStream, getUnit_xAdvance]
    exact getUnit_startUnit_proj (·.rqueue) _ _ _ _ _ (fun _ _ => rfl) fun _ _ => rfl
  · rw [getUnit_advanceStream, getUnit_xAdvance]
    exact getUnit_startUnit_proj (·.stores) _ _ _ _ _ (fun _ _ => rfl) fun _ _ => rfl
  · rw [getUnit_advanceStream, getUnit_xAdvance]
    exact getUnit_startUnit_proj (·.flights) _ _ _ _ _ (fun _ _ => rfl) fun _ _ => rfl
  · rw [runOf_advanceStream, runOf_xAdvance, runOf_startUnit]

end Sys2Proof.Machine
end

section
/-! What a store's transfer does (R126–R128, R216, R228). -/

open Sys2Proof.Claims

namespace Sys2Proof.Machine

/-! ### Addresses under an update of a core -/

theorem isSplit_modCore (d : Device) (c x : CoreId) {f : Core → Core} (h : ∀ k, (f k).split = k.split) : isSplit (modCore d c f) x = isSplit d x :=
  getCore_modCore_proj (·.split) d c x h

theorem resolve_modCore (d : Device) (c : CoreId) {f : Core → Core} (h : ∀ k, (f k).split = k.split) (p : PartId) (own : Option CtxId) (a n : Nat) :
    resolve (modCore d c f) p own a n = resolve d p own a n := by
  unfold resolve padSize
  simp only [isSplit_modCore d c _ h]
  rfl

theorem agOf_modCore (d : Device) (c : CoreId) (x : CtxId) (n : Nat) {f : Core → Core} (h : ∀ k, (f k).split = k.split ∧ (f k).ags = k.ags) :
    agOf (modCore d c f) x n = agOf d x n :=
  getCore_modCore_proj (fun k => vget k.ags (physAg k.split x.ctx n)) d c x.core fun k => by simp only [h k]

theorem writeAccepted_modCore (d : Device) (c : CoreId) (x : CtxId) (off n since : Nat) {f : Core → Core}
    (h : ∀ k, (f k).split = k.split ∧ (f k).bankOn = k.bankOn ∧ (f k).pdWait = k.pdWait) :
    writeAccepted (modCore d c f) x off n since = writeAccepted d x off n since := by
  unfold writeAccepted padPowered
  simp only [isSplit_modCore d c _ fun k => (h k).1, getCore_modCore_proj (·.bankOn) d c x.core fun k => (h k).2.1,
    getCore_modCore_proj (·.pdWait) d c x.core fun k => (h k).2.2]

theorem modCore_id (d : Device) (c : CoreId) : modCore d c id = d := by
  simp [modCore, vmod, vset, vget]

/-! ### The state that a local store's write meets -/

/-- What an update of a core keeps of what decides a local access. -/
structure KeepsAccess (f : Core → Core) : Prop where
  split : ∀ k, (f k).split = k.split
  ags : ∀ k, (f k).ags = k.ags
  bankOn : ∀ k, (f k).bankOn = k.bankOn
  pdWait : ∀ k, (f k).pdWait = k.pdWait
  bound : ∀ k n, (vget (f k).units n).bound = (vget k.units n).bound

theorem KeepsAccess.id : KeepsAccess id := ⟨fun _ => rfl, fun _ => rfl, fun _ => rfl, fun _ => rfl, fun _ _ => rfl⟩

theorem KeepsAccess.comp {f g : Core → Core} (hg : KeepsAccess g) (hf : KeepsAccess f) : KeepsAccess fun k => g (f k) :=
  ⟨fun k => (hg.split _).trans (hf.split k), fun k => (hg.ags _).trans (hf.ags k), fun k => (hg.bankOn _).trans (hf.bankOn k),
    fun k => (hg.pdWait _).trans (hf.pdWait k), fun k n => (hg.bound _ n).trans (hf.bound k n)⟩

theorem KeepsAccess.xAddr {f : Core → Core} (h : KeepsAccess f) (d : Device) (c : CtxId) (x : Xfer) : xAddr (modCore d c.core f) c x = xAddr d c x := by
  rw [Machine.xAddr, agOf_modCore d c.core c x.ag fun k => ⟨h.split k, h.ags k⟩]
  rfl

theorem KeepsAccess.xResolve {f : Core → Core} (h : KeepsAccess f) (d : Device) (c : CtxId) (x : Xfer) :
    xResolve (modCore d c.core f) c x = xResolve d c x := by
  simp only [Machine.xResolve, h.xAddr, resolve_modCore d c.core h.split]
  rfl

theorem KeepsAccess.xSpace {f : Core → Core} (h : KeepsAccess f) (d : Device) (c : CtxId) (x : Xfer) : xSpace (modCore d c.core f) c x = xSpace d c x := by
  rw [Machine.xSpace, h.xAddr]
  rfl

theorem KeepsAccess.writeAccepted {f : Core → Core} (h : KeepsAccess f) (d : Device) (c : CtxId) (off n since : Nat) :
    writeAccepted (modCore d c.core f) c off n since = writeAccepted d c off n since :=
  writeAccepted_modCore d c.core c off n since fun k => ⟨h.split k, h.bankOn k, h.pdWait k⟩

/-- The device as a local store leaves it before its write: its queue popped, and its port on a line's second tick next. -/
def storeTaken (d : Device) (c : CtxId) (x : Xfer) : Device :=
  if xLine (storePop d c x) c x then modUnit (storePop d c x) c fun u => { u with stLine := some (tickOf d c) } else storePop d c x

theorem storePop_isModCore (d : Device) (c : CtxId) (x : Xfer) : ∃ f, storePop d c x = modCore d c.core f ∧ KeepsAccess f := by
  unfold storePop
  split
  · exact ⟨id, (modCore_id _ _).symm, KeepsAccess.id⟩
  · exact ⟨_, rfl, ⟨fun _ => rfl, fun _ => rfl, fun _ => rfl, fun _ => rfl, fun _ _ => rfl⟩⟩

theorem keepsAccess_modUnit (c : CtxId) {f : CtxUnit → CtxUnit} (h : ∀ u, (f u).bound = u.bound) :
    KeepsAccess fun k => { k with units := vmod k.units c.ctx f } := by
  refine ⟨fun _ => rfl, fun _ => rfl, fun _ => rfl, fun _ => rfl, fun k n => ?_⟩
  by_cases e : c.ctx = n
  · subst e
    simp only [vget_vmod_same, h]
  · simp only [vget_vmod_other _ _ _ _ e]

theorem storeTaken_isModCore (d : Device) (c : CtxId) (x : Xfer) : ∃ f, storeTaken d c x = modCore d c.core f ∧ KeepsAccess f := by
  obtain ⟨f, h, hf⟩ := storePop_isModCore d c x
  unfold storeTaken
  rw [h]
  split
  · exact ⟨_, modCore_modCore_same _ _ _ _, (keepsAccess_modUnit c (f := fun u => { u with stLine := some (tickOf d c) }) fun _ => rfl).comp hf⟩
  · exact ⟨f, rfl, hf⟩

@[simp] theorem getUnit_storePop (d : Device) (c : CtxId) (x : Xfer) : getUnit (storePop d c x) c = getUnit d c := by
  unfold storePop popHead
  split <;> simp

theorem getUnit_storeTaken_proj {β : Type} (g : CtxUnit → β) (d : Device) (c : CtxId) (x : Xfer) (h : ∀ u y, g { u with stLine := y } = g u) :
    g (getUnit (storeTaken d c x) c) = g (getUnit d c) := by
  unfold storeTaken
  split
  · rw [getUnit_modUnit_same, h, getUnit_storePop]
  · rw [getUnit_storePop]

theorem entries_storePop (d : Device) (c : CtxId) (x : Xfer) : (lqOf (storePop d c x) c (xQueue x)).entries =
    if x.toReg then (lqOf d c (xQueue x)).entries else (lqOf d c (xQueue x)).entries.drop 1 := by
  unfold storePop popHead
  split <;> simp [popEntry]

theorem entries_storeTaken (d : Device) (c : CtxId) (x : Xfer) : (lqOf (storeTaken d c x) c (xQueue x)).entries =
    if x.toReg then (lqOf d c (xQueue x)).entries else (lqOf d c (xQueue x)).entries.drop 1 := by
  unfold storeTaken
  split
  · rw [lqOf_modUnit, entries_storePop]
  · exact entries_storePop d c x

/-! ### A local store, by what it meets -/

/-- The pending write of a local store (R216). -/
def localWrite (d : Device) (c : CtxId) (x : Xfer) (off : Nat) : PendingStore :=
  { offset := off, bytes := xBytes x, data := storeData d c x, wanted := tickOf d c + 2, half := false, off := x.predOff, seq := x.seq, pc := x.pc }

theorem localStore_off {d : Device} {c : CtxId} {x : Xfer} (hs : xSpace d c x = 0) (hoff : x.predOff = true) :
    localStore d c x = modUnit (storeTaken d c x) c fun u => { u with stores := u.stores ++ [localWrite d c x (xAddr d c x)] } := by
  obtain ⟨f, h, hf⟩ := storeTaken_isModCore d c x
  have hspace : xSpace (storeTaken d c x) c x = 0 := by rw [h, hf.xSpace, hs]
  have haddr : xAddr (storeTaken d c x) c x = xAddr d c x := by rw [h, hf.xAddr]
  unfold localStore
  simp only [hoff, if_true]
  rw [← storeTaken, hspace, haddr]
  simp [localWrite, hoff]

theorem localStore_accepted {d : Device} {c o : CtxId} {x : Xfer} {off : Nat} (hoff : x.predOff = false) (hr : xResolve d c x = .ok (.scratch o off))
    (ha : writeAccepted d c off (xBytes x) (corePeriod d c.core) = true) :
    localStore d c x = modUnit (storeTaken d c x) c fun u => { u with stores := u.stores ++ [localWrite d c x off] } := by
  obtain ⟨f, h, hf⟩ := storeTaken_isModCore d c x
  have hres : xResolve (storeTaken d c x) c x = .ok (.scratch o off) := by rw [h, hf.xResolve, hr]
  have hacc : writeAccepted (storeTaken d c x) c off (xBytes x) (corePeriod (storeTaken d c x) c.core) = true := by
    rw [h, hf.writeAccepted]
    exact ha
  unfold localStore
  simp only [hoff]
  rw [← storeTaken, hres]
  simp [hacc, localWrite, hoff]

theorem localStore_refused {d : Device} {c o : CtxId} {x : Xfer} {off : Nat} (hoff : x.predOff = false) (hr : xResolve d c x = .ok (.scratch o off))
    (ha : writeAccepted d c off (xBytes x) (corePeriod d c.core) = false) :
    let y := modUnit (storeTaken d c x) c fun u =>
      { u with flights := u.flights ++ [refusedStore (storeTaken d c x) c (localWrite d c x off) (tickOf d c + 2)], nextUid := u.nextUid + 1 }
    localStore d c x = detectAt y (coreEvent y c 0x181 (coreUnit c) 2 0x04 0) := by
  obtain ⟨f, h, hf⟩ := storeTaken_isModCore d c x
  have hres : xResolve (storeTaken d c x) c x = .ok (.scratch o off) := by rw [h, hf.xResolve, hr]
  have hacc : writeAccepted (storeTaken d c x) c off (xBytes x) (corePeriod (storeTaken d c x) c.core) = false := by
    rw [h, hf.writeAccepted]
    exact ha
  unfold localStore
  simp only [hoff]
  rw [← storeTaken, hres]
  simp [hacc, localWrite, hoff]

/-! ### A store that leaves the core -/

/-- The request of a store whose address is valid (R127, R128). -/
def storeRequest (d : Device) (c : CtxId) (x : Xfer) (k : ReqKind) : Request :=
  { kind := k, seq := x.seq, pc := x.pc, addr := BitVec.ofNat 64 (xAddr d c x), bytes := xBytes x, predOff := x.predOff, valid := true,
    entryTick := tickOf d c, slotsLeft := if x.width = 1 then 4 else 1 }

/-- What a store operation asks of its target (R132). -/
def storeKind (op : MemOp) (v : Entry) : ReqKind :=
  match op with
  | .staf => .accumulate true v
  | .stai => .accumulate false v
  | _ => .store v

theorem remoteXfer_store {d : Device} {c : CtxId} {x : Xfer} {t : Target} (hop : isStoreOp x.op = true) (hr : xResolve d c x = .ok t) :
    remoteXfer d c x =
      let e := storePop (enqueue d c (storeRequest d c x (storeKind x.op (storeData d c x)))) c x
      if x.op = .staf ∧ x.predOff = false then countMayVary e c else e := by
  unfold remoteXfer
  simp only [hop, if_true, hr, storeRequest, storeKind, Bool.and_eq_true, decide_eq_true_eq, Bool.not_eq_true'] <;> rfl

@[simp] theorem getUnit_countMayVary (d : Device) (c x : CtxId) : getUnit (countMayVary d c) x = getUnit d x := by
  unfold countMayVary
  split <;> rfl

@[simp] theorem lqOf_countMayVary (d : Device) (c x : CtxId) (q : Fin 4) : lqOf (countMayVary d c) x q = lqOf d x q := by
  unfold countMayVary
  split <;> rfl

@[simp] theorem runOf_storePop (d : Device) (c : CtxId) (x : Xfer) : runOf (storePop d c x) c = runOf d c := by
  unfold storePop popHead
  split <;> simp

@[simp] theorem runOf_enqueue (d : Device) (c : CtxId) (r : Request) : runOf (enqueue d c r) c = runOf d c := runOf_modUnit _ _ _ fun _ => rfl

/-! ### The store rows -/

section
variable {s : State} {w : SeqId} {b : RawBundle}

theorem op_slotXfer_st {d : Device} {c : CtxId} (hs : storeOp b = 1) : (slotXfer d c w true b).op = .st := by
  simp [slotXfer, storeMemOp, hs]

/-- A local store (R128) is one of the first operation, st. -/
theorem xEffect_local {x : Xfer} {d : Device} {c : CtxId} (hop : x.op = .st) (h0 : xSpace d c x = 0) : xEffect d c x = localStore d c x := by
  simp [xEffect, xLocal, h0, hop, isStoreOp]

theorem pops_of_keepsContext {y e : Device} {x : Xfer} (hk : KeepsContext (ctxOf s.dev w) y e)
    (hy : lqOf y (ctxOf s.dev w) (xQueue x) = lqOf (storeTaken s.dev (ctxOf s.dev w) x) (ctxOf s.dev w) (xQueue x)) : Pops s w x e := by
  rw [Pops, hk.lqs, hy, entries_storeTaken]

/-- A local st whose write is put among the pending ones. -/
theorem transfers_localWrite {p : PendingStore} (h : Issues s w b) (hm : OnlyMem b true) (hs : storeOp b = 1) {off : Nat}
    (hput : xEffect s.dev (ctxOf s.dev w) (slotXfer s.dev (ctxOf s.dev w) w true b) =
      modUnit (storeTaken s.dev (ctxOf s.dev w) (slotXfer s.dev (ctxOf s.dev w) w true b)) (ctxOf s.dev w) fun u =>
        { u with stores := u.stores ++ [localWrite s.dev (ctxOf s.dev w) (slotXfer s.dev (ctxOf s.dev w) w true b) off] })
    (hp : localWrite s.dev (ctxOf s.dev w) (slotXfer s.dev (ctxOf s.dev w) w true b) off = p) :
    Transfers (.st w) s w b true fun e => Pops s w (slotXfer s.dev (ctxOf s.dev w) w true b) e ∧
      (getUnit e (ctxOf s.dev w)).rqueue = (getUnit s.dev (ctxOf s.dev w)).rqueue ∧ (getUnit e (ctxOf s.dev w)).stores =
        (getUnit s.dev (ctxOf s.dev w)).stores ++ [p] := by
  subst hp
  refine transfers_store (hit := fun b => storeOp b = 1) h hm (by omega) rfl (by simp [hs]) hput ?_ fun e hk => ⟨?_, ?_, ?_⟩
  · rw [getUnit_modUnit_same]
    exact getUnit_storeTaken_proj (·.stUnit) _ _ _ fun _ _ => rfl
  · exact pops_of_keepsContext hk (lqOf_modUnit _ _ _ _ _)
  · rw [hk.rqueue, getUnit_modUnit_same]
    exact getUnit_storeTaken_proj (·.rqueue) _ _ _ fun _ _ => rfl
  · rw [hk.stores, getUnit_modUnit_same]
    simp only [getUnit_storeTaken_proj (·.stores) s.dev (ctxOf s.dev w) _ fun _ _ => rfl]

/-- A local st to a bank that is being powered down (R228, log entry 108). -/
theorem transfers_refusedStore (h : Issues s w b) (hm : OnlyMem b true) (hs : storeOp b = 1) {o : CtxId} {off : Nat}
    (h0 : xSpace s.dev (ctxOf s.dev w) (slotXfer s.dev (ctxOf s.dev w) w true b) = 0)
    (hon : (slotXfer s.dev (ctxOf s.dev w) w true b).predOff = false)
    (hr : xResolve s.dev (ctxOf s.dev w) (slotXfer s.dev (ctxOf s.dev w) w true b) = .ok (.scratch o off))
    (ha : writeAccepted s.dev (ctxOf s.dev w) off (xBytes (slotXfer s.dev (ctxOf s.dev w) w true b)) (corePeriod s.dev (ctxOf s.dev w).core) = false) :
    Transfers (.st w) s w b true fun e => Pops s w (slotXfer s.dev (ctxOf s.dev w) w true b) e ∧
      (getUnit e (ctxOf s.dev w)).rqueue = (getUnit s.dev (ctxOf s.dev w)).rqueue ∧
      (getUnit e (ctxOf s.dev w)).stores = (getUnit s.dev (ctxOf s.dev w)).stores ∧
      ∃ f, (getUnit e (ctxOf s.dev w)).flights = (getUnit s.dev (ctxOf s.dev w)).flights ++ [f] ∧ f.error = some 0x04 ∧ f.due = tickAt s w + 2 ∧
        f.req.seq = (slotXfer s.dev (ctxOf s.dev w) w true b).seq ∧ f.req.pc = (slotXfer s.dev (ctxOf s.dev w) w true b).pc := by
  have hy := (xEffect_local (op_slotXfer_st hs) h0).trans (localStore_refused hon hr ha)
  refine transfers_store (hit := fun b => storeOp b = 1) h hm (by omega) rfl (by simp [hs]) hy ?_ fun e hk => ⟨?_, ?_, ?_, ?_⟩
  · rw [(reported_detectAt _ _).getUnit, getUnit_modUnit_same]
    exact getUnit_storeTaken_proj (·.stUnit) _ _ _ fun _ _ => rfl
  · refine pops_of_keepsContext hk ?_
    rw [lqOf, isSplit, (reported_detectAt _ _).getCore]
    exact lqOf_modUnit _ _ _ _ _
  · rw [hk.rqueue, (reported_detectAt _ _).getUnit, getUnit_modUnit_same]
    exact getUnit_storeTaken_proj (·.rqueue) _ _ _ fun _ _ => rfl
  · rw [hk.stores, (reported_detectAt _ _).getUnit, getUnit_modUnit_same]
    exact getUnit_storeTaken_proj (·.stores) _ _ _ fun _ _ => rfl
  · refine ⟨refusedStore (storeTaken s.dev (ctxOf s.dev w) (slotXfer s.dev (ctxOf s.dev w) w true b)) (ctxOf s.dev w)
      (localWrite s.dev (ctxOf s.dev w) (slotXfer s.dev (ctxOf s.dev w) w true b) off) (tickAt s w + 2), ?_, rfl, rfl, rfl, rfl⟩
    rw [hk.flights, (reported_detectAt _ _).getUnit, getUnit_modUnit_same]
    simp only [getUnit_storeTaken_proj (·.flights) s.dev (ctxOf s.dev w) _ fun _ _ => rfl]
    rfl

/-- A store of another space enters the request queue; staf counts as may vary where it is on (R31, R128, R132). -/
theorem transfers_storeRequest {i : Instr} {hit : RawBundle → Bool} {t : Target} {r : Run} {k : ReqKind} {more : Nat} {x : Xfer}
    (hx : slotXfer s.dev (ctxOf s.dev w) w true b = x) (h : Issues s w b) (hm : OnlyMem b true) (hs : storeOp b ≠ 0)
    (hi : exec i s = presentOp hit w s) (hb : hit b = true) (hl : xLocal s.dev (ctxOf s.dev w) x = false)
    (hr : xResolve s.dev (ctxOf s.dev w) x = .ok t) (hrun : runOf s.dev (ctxOf s.dev w) = some r)
    (hk : storeKind x.op (storeData s.dev (ctxOf s.dev w) x) = k) (hmore : (if x.op = .staf ∧ x.predOff = false then 1 else 0) = more) :
    Transfers i s w b true fun e => Pops s w x e ∧
      (getUnit e (ctxOf s.dev w)).rqueue = (getUnit s.dev (ctxOf s.dev w)).rqueue ++ [request s w x k true] ∧
      (getUnit e (ctxOf s.dev w)).stores = (getUnit s.dev (ctxOf s.dev w)).stores ∧
      runOf e (ctxOf s.dev w) = some { r with mayvary := r.mayvary + BitVec.ofNat 64 more } := by
  have hop : isStoreOp x.op = true := by
    simp only [← hx, slotXfer, if_true, storeMemOp]
    split
    · rfl
    · split <;> rfl
  generalize hc : ctxOf s.dev w = c at *
  have hy : xEffect s.dev c (slotXfer s.dev c w true b) = remoteXfer s.dev c x := by
    rw [hx, xEffect, hl]
    rfl
  have hentry := entries_storePop (enqueue s.dev c (storeRequest s.dev c x k)) c x
  rw [enqueue, lqOf_modUnit, ← enqueue] at hentry
  have hq : runOf (storePop (enqueue s.dev c (storeRequest s.dev c x k)) c x) c = some r := by
    rw [runOf_storePop, runOf_enqueue, hrun]
  have hreq : storeRequest s.dev c x k = request s w x k true := by simp [storeRequest, request, tickAt, hc]
  rw [remoteXfer_store hop hr, hk] at hy
  subst hc
  refine transfers_store h hm hs hi hb hy ?_ fun e he => ⟨?_, ?_, ?_, ?_⟩
  · dsimp only
    split <;> simp [enqueue]
  · rw [Pops, he.lqs]
    dsimp only
    split
    · rw [lqOf_countMayVary]
      exact hentry
    · exact hentry
  · rw [he.rqueue]
    dsimp only
    split <;> simp [enqueue, hreq]
  · rw [he.stores]
    dsimp only
    split <;> simp [enqueue]
  · rw [he.run, ← hmore]
    dsimp only
    split
    · exact runOf_countMayVary hq
    · simpa only [BitVec.ofNat_eq_ofNat, BitVec.add_zero] using hq

end

/-- Settles O44: a local store puts its write, or a refusal, beside the pop of its queue; every other store enters the request queue. -/
theorem storesWriteOrRequest : Obligations.StoresWriteOrRequest := by
  unfold Obligations.StoresWriteOrRequest
  intro s w b h hm c x v Enters
  refine ⟨fun o off hs h0 hon hr ha => transfers_refusedStore h hm hs h0 hon hr ha, fun o off hs h0 hon hr ha => ?_, fun hs h0 hoff => ?_,
    fun hs t r hl hr hrun => ?_, fun hs t r hl hr hrun => ?_, fun hs t r hl hr hrun => ?_⟩
  · exact transfers_localWrite h hm hs ((xEffect_local (op_slotXfer_st hs) h0).trans (localStore_accepted hon hr ha))
      (by rw [localWrite, show (slotXfer s.dev (ctxOf s.dev w) w true b).predOff = false from hon]; rfl)
  · exact transfers_localWrite h hm hs ((xEffect_local (op_slotXfer_st hs) h0).trans (localStore_off h0 hoff))
      (by rw [localWrite, show (slotXfer s.dev (ctxOf s.dev w) w true b).predOff = true from hoff]; rfl)
  · have hop : x.op = .st := op_slotXfer_st hs
    exact transfers_storeRequest (hit := fun b => storeOp b = 1) rfl h hm (by omega) rfl (by simp [hs]) hl hr hrun (by rw [hop]; rfl) (by simp [hop])
  · have hop : x.op = .staf := by simp [x, slotXfer, storeMemOp, hs]
    exact transfers_storeRequest (hit := fun b => storeOp b = 2) rfl h hm (by omega) rfl (by simp [hs]) hl hr hrun (by rw [hop]; rfl)
      (by cases hp : x.predOff <;> simp [hop])
  · have hop : x.op = .stai := by simp [x, slotXfer, storeMemOp, hs]
    exact transfers_storeRequest (hit := fun b => storeOp b = 3) rfl h hm (by omega) rfl (by simp [hs]) hl hr hrun (by rw [hop]; rfl) (by simp [hop])

end Sys2Proof.Machine
end

section
/-! Bytes that are written and read back, and the completion entry of a ring. -/

open Sys2Proof.Claims

namespace Sys2Proof.Machine

/-! ### A command that changes the device alone -/

theorem gives_of_onDev {i : Instr} {s : State} {f : Device → Device} {e : Device} (hi : exec i s = onDev f s) (he : f s.dev = e) : Gives i s e := by
  subst he
  exact hi

theorem answers_of_onDev {i : Instr} {s : State} {f : Device → Device} {e : Device} {P : Device → Prop} (hi : exec i s = onDev f s) (he : f s.dev = e)
    (h : P e) : Answers i s P := ⟨e, gives_of_onDev hi he, h⟩

/-! ### Little-endian bytes -/

@[simp] theorem length_leBytes : (n v : Nat) → (leBytes n v).length = n
  | 0, _ => rfl
  | n + 1, v => by simp [leBytes, length_leBytes n]

theorem leVal_lt : (bs : List Byte) → leVal bs < 256 ^ bs.length
  | [] => by simp [leVal]
  | b :: bs => by
    have hb := b.isLt
    have h := leVal_lt bs
    simp only [leVal, List.length_cons, Nat.pow_succ]
    omega

/-- The bytes of the value of a list are the list. -/
theorem leBytes_leVal : (bs : List Byte) → leBytes bs.length (leVal bs) = bs
  | [] => rfl
  | b :: bs => by
    have hb := b.isLt
    have hq : (b.toNat + 256 * leVal bs) / 256 = leVal bs := by omega
    have hr : BitVec.ofNat 8 (b.toNat + 256 * leVal bs) = b := by
      apply BitVec.eq_of_toNat_eq
      simp only [BitVec.toNat_ofNat]
      omega
    simp only [List.length_cons, leBytes, leVal, hq, hr, leBytes_leVal bs]

theorem leBytes_leBits {w n : Nat} (bs : List Byte) (hn : bs.length = n) (hw : 2 ^ w = 256 ^ n) : leBytes n (leBits w bs).toNat = bs := by
  have h := leVal_lt bs
  rw [hn, ← hw] at h
  simp only [leBits, BitVec.toNat_ofNat, Nat.mod_eq_of_lt h]
  exact hn ▸ leBytes_leVal bs

/-- Byte by byte, the union of two values is the union of their bytes. -/
theorem leBytes_or : (n x y : Nat) → leBytes n (x ||| y) = List.zipWith (· ||| ·) (leBytes n x) (leBytes n y)
  | 0, _, _ => rfl
  | n + 1, x, y => by
    have hq : (x ||| y) / 256 = x / 256 ||| y / 256 := by
      simpa [Nat.shiftRight_eq_div_pow] using Nat.shiftRight_or_distrib (a := x) (b := y) (i := 8)
    simp only [leBytes, hq, leBytes_or n, BitVec.ofNat_or, List.zipWith_cons_cons]

theorem zipWith_or_zeros : (l : List Byte) → List.zipWith (· ||| ·) l (List.replicate l.length 0) = l
  | [] => rfl
  | b :: l => by
    rw [List.length_cons, List.replicate_succ, List.zipWith_cons_cons, zipWith_or_zeros l, show b ||| (0 : Byte) = b from BitVec.or_zero]

/-! ### Memories -/

/-- A memory of which each byte reads as it was last written: one that lists its zero bytes, or one in form. -/
def Readable (d : Device) (i : MemId) : Prop := memZeros i = false ∨ memWf true (memOf d i) = true

theorem readable_host (d : Device) : Readable d .host := .inl rfl

theorem readByte_writeByte {d : Device} {i : MemId} (h : Readable d i) (a : Nat) (v : Byte) (x : Nat) :
    readByte (writeByte d i a v) i x = if x = a then v else readByte d i x := by
  simp only [readByte, writeByte, memDefault_withMem, memOf_withMem_same]
  by_cases hz : memZeros i = true
  · have hd : memDefault d i x = 0 := by cases i <;> simp_all [memZeros, memDefault]
    rw [if_pos hz, hd]
    exact memFind_memSet _ a v x (h.resolve_left (by simp [hz]))
  · rw [if_neg hz, memFind_memPut]
    by_cases hx : x = a <;> simp [hx]

theorem readable_writeByte {d : Device} {i : MemId} (h : Readable d i) (a : Nat) (v : Byte) : Readable (writeByte d i a v) i := by
  by_cases hz : memZeros i = true
  · refine .inr ?_
    rw [writeByte, memOf_withMem_same, if_pos hz]
    exact memWf_memSet _ a v (h.resolve_left (by simp [hz]))
  · exact .inl (by simpa using hz)

/-- What a byte reads as after a write of bytes. -/
theorem readByte_writeBytes {i : MemId} (x : Nat) : (bs : List Byte) → (d : Device) → (a : Nat) → Readable d i →
    readByte (writeBytes d i a bs) i x = if a ≤ x then (bs[x - a]?).getD (readByte d i x) else readByte d i x
  | [], d, a, _ => by simp [writeBytes]
  | b :: bs, d, a, h => by
    rw [writeBytes, readByte_writeBytes x bs _ _ (readable_writeByte h a b), readByte_writeByte h]
    by_cases hx : x = a
    · subst hx
      simp
    · by_cases hl : a ≤ x
      · have hs : x - a = (x - (a + 1)) + 1 := by omega
        rw [if_pos hl, if_pos (by omega : a + 1 ≤ x), if_neg hx, hs, List.getElem?_cons_succ]
      · rw [if_neg hl, if_neg (by omega : ¬ a + 1 ≤ x), if_neg hx]

theorem readByte_writeBytes_outside {d : Device} {i : MemId} (h : Readable d i) {a x : Nat} {bs : List Byte} (hx : x < a ∨ a + bs.length ≤ x) :
    readByte (writeBytes d i a bs) i x = readByte d i x := by
  rw [readByte_writeBytes x bs d a h]
  split
  · rw [List.getElem?_eq_none (by omega), Option.getD_none]
  · rfl

/-- Bytes that are written read back. -/
theorem readBytes_writeBytes {d : Device} {i : MemId} (h : Readable d i) {a n : Nat} {bs : List Byte} (hn : bs.length = n) :
    readBytes (writeBytes d i a bs) i a n = bs := by
  refine List.ext_getElem (by simp [readBytes, hn]) fun k h1 h2 => ?_
  simp [readBytes, readByte_writeBytes _ bs d a h, List.getElem?_eq_getElem h2]

/-- A write to host memory changes host memory alone, and what it writes depends on host memory alone. -/
theorem writeBytes_host : (bs : List Byte) → (d : Device) → (a : Nat) → writeBytes d .host a bs = { d with host := (writeBytes d .host a bs).host }
  | [], _, _ => rfl
  | b :: bs, d, a => by
    rw [writeBytes, writeBytes_host bs]
    rfl

theorem writeBytes_host_congr : (bs : List Byte) → {d e : Device} → (a : Nat) → e.host = d.host → (writeBytes e .host a bs).host = (writeBytes d .host a bs).host
  | [], _, _, _, h => h
  | b :: bs, d, e, a, h => writeBytes_host_congr bs (a + 1) (show memPut e.host a b = memPut d.host a b by rw [h])

theorem readByte_host_congr {d e : Device} (h : e.host = d.host) (a : Nat) : readByte e .host a = readByte d .host a := by
  simp [readByte, memOf, memDefault, h]

theorem readBytes_host_congr {d e : Device} (h : e.host = d.host) (a n : Nat) : readBytes e .host a n = readBytes d .host a n := by
  simp [readBytes, readByte_host_congr h]

/-! ### The completion entry -/

/-- The bytes of an entry of the model, with its phase, are those of R382. -/
theorem leBytes_cplEntry (d : Device) (i : Fin 64) (hd : W32) (st : Status) (final : Bool) (halt : Byte) (tag : W32) (op : Byte)
    (res : List Byte) :
    leBytes 32 (if (vget d.rings i).phase then cplEntry hd st final halt tag op res ||| (BitVec.ofNat 256 2 <<< 48)
      else cplEntry hd st final halt tag op res).toNat = entry d i hd (statusCode st) final halt tag op res := by
  have hb : leBytes 32 (cplEntry hd st final halt tag op res).toNat = (leBytes 4 hd.toNat ++ leBytes 2 (statusCode st) ++
      [if final then 1 else 0, halt] ++ leBytes 4 tag.toNat ++ [op, 0, 0, 0] ++ (res ++ List.replicate 16 0).take 16) :=
    leBytes_leBits _ (by simp) (by norm_num)
  cases hp : (vget d.rings i).phase
  · simp [hb, entry, hp]
  · have ht : leBytes 32 (BitVec.ofNat 256 2 <<< 48).toNat = List.replicate 4 0 ++ List.replicate 2 0 ++ [2, 0] ++ List.replicate 4 0 ++
        [0, 0, 0, 0] ++ List.replicate 16 0 := by decide
    have hz : ∀ (l : List Byte) (n : Nat), l.length = n → List.zipWith (· ||| ·) l (List.replicate n 0) = l := fun l n hn => hn ▸ zipWith_or_zeros l
    rw [if_pos rfl, BitVec.toNat_or, leBytes_or, hb, ht]
    repeat rw [List.zipWith_append (by simp)]
    rw [hz _ 4 (by simp), hz _ 2 (by simp), hz _ 4 (by simp), hz _ 16 (by simp)]
    cases final <;> simp [entry, hp]

/-- What an entry that is written to a ring comes to: the entry, the ring moved on, and perhaps a message kept back. -/
structure Posted (d e : Device) (i : Fin 64) (bytes : List Byte) : Prop where
  wrote : Wrote d e i bytes
  cmds : e.cmds = d.cmds
  cmdHead : (vget e.rings i).cmdHead = (vget d.rings i).cmdHead
  seq : (vget e.rings i).seq = (vget d.rings i).seq
  outstanding : (vget e.rings i).outstanding = (vget d.rings i).outstanding
  rest : e = { d with rings := e.rings, msix := e.msix, host := e.host }

theorem ring_modRing_other (d : Device) (i j : Fin 64) (f : Ring → Ring) (h : j ≠ i) : vget (modRing d i f).rings j = vget d.rings j :=
  vget_vmod_other _ _ _ _ (Ne.symm h)

/-- A message that is kept back sets its pending bit. -/
theorem raiseMsix_kept {d : Device} {f : FnId} (v : Fin 64) (h : (vget d.msix f).fmask = true ∨ (vget d.msix f).enabled = false) :
    raiseMsix d f v = { d with msix := vset d.msix f { vget d.msix f with pba := (vget d.msix f).pba ||| put64 v.val 1 } } := by
  have hk : msixKept (vget d.msix f) v = true := by
    rcases h with h | h <;> simp [msixKept, h]
  simp [raiseMsix, hk]

/-- The message of a ring that is kept back: its flags and the messages of the functions. -/
def messaged (d : Device) (i : Fin 64) (unsent : Bool) (due : Nat) (m : Vector Msix 9) : Device :=
  { modRing d i fun r => { r with unsent := unsent, coalDue := due } with msix := m }

theorem ringMessage_kept {d : Device} {i : Fin 64} (h : (vget d.msix (finMod 9 (vget d.rings i).owner.toNat)).fmask = true ∨
      (vget d.msix (finMod 9 (vget d.rings i).owner.toNat)).enabled = false) :
    ringMessage d i = d ∨ ∃ u t m, ringMessage d i = messaged d i u t m := by
  unfold ringMessage
  simp only []
  split
  · have hr : modRing d i (fun r => { r with unsent := false, coalDue := elapsedNs d + r.coal.toNat * 1000 }) =
        modRing d i (fun r => { r with unsent := false, coalDue := elapsedNs d + (vget d.rings i).coal.toNat * 1000 }) := by
      simp only [modRing, vmod]
    rw [hr]
    exact .inr ⟨false, _, _, raiseMsix_kept _ h⟩
  · exact .inl rfl

/-- An entry is written, with the ring's tail and phase. -/
def entered (d : Device) (i : Fin 64) (bytes : List Byte) : Device :=
  let r := vget d.rings i
  let t := (r.cplTail.toNat + 1) % cplSize r
  { modRing d i fun r => { r with cplTail := BitVec.ofNat 16 t, phase := if t = 0 then !r.phase else r.phase, unsent := true } with
    host := (writeBytes d .host (entryAt d i) bytes).host }

theorem writeEntry_eq (d : Device) (i : Fin 64) (e : BitVec 256) :
    writeEntry d i e = entered d i (leBytes 32 (if (vget d.rings i).phase then e ||| (BitVec.ofNat 256 2 <<< 48) else e).toNat) := by
  have h := writeBytes_host (leBytes 32 (if (vget d.rings i).phase then e ||| (BitVec.ofNat 256 2 <<< 48) else e).toNat) d (entryAt d i)
  simp only [writeEntry, entered]
  generalize leBytes 32 (if (vget d.rings i).phase then e ||| (BitVec.ofNat 256 2 <<< 48) else e).toNat = bs at h ⊢
  change modRing (writeBytes d .host (entryAt d i) bs) i _ = _
  rw [h]
  rfl

theorem posted_entered {d : Device} {i : Fin 64} {bytes : List Byte} (h : bytes.length = 32) : Posted d (entered d i bytes) i bytes where
  wrote := by
    refine ⟨readBytes_writeBytes (readable_host d) h, fun a ha => readByte_writeBytes_outside (readable_host d) (h ▸ ha), ?_, fun j hj => ?_⟩
    · simp [entered, cplSize]
    · exact ring_modRing_other _ _ _ _ hj
  cmds := rfl
  cmdHead := by simp [entered]
  seq := by simp [entered]
  outstanding := by simp [entered]
  rest := rfl

theorem posted_messaged {d e : Device} {i : Fin 64} {bytes : List Byte} (h : Posted d e i bytes) (u : Bool) (t : Nat) (m : Vector Msix 9) :
    Posted d (messaged e i u t m) i bytes where
  wrote := by
    obtain ⟨hb, ho, ht, hr⟩ := h.wrote
    refine ⟨hb, ho, ?_, fun j hj => ?_⟩
    · simpa [messaged] using ht
    · exact (ring_modRing_other _ _ _ _ hj).trans (hr j hj)
  cmds := h.cmds
  cmdHead := by simpa [messaged] using h.cmdHead
  seq := by simpa [messaged] using h.seq
  outstanding := by simpa [messaged] using h.outstanding
  rest := by
    have := h.rest
    rw [messaged, this]
    rfl

/-- An entry for a ring with room is written (R382, R384). -/
theorem posted_postEntry {d : Device} {i : Fin 64} (h : Room d i) (hd : W32) (st : Status) (final : Bool) (halt : Byte) (tag : W32) (op : Byte)
    (res : List Byte) :
    Posted d (postEntry d i (cplEntry hd st final halt tag op res)) i (entry d i hd (statusCode st) final halt tag op res) := by
  obtain ⟨hroom, hheld, hmsg⟩ := h
  have hfull : cplFull (vget d.rings i) = false := decide_eq_false hroom
  have hpost : postEntry d i (cplEntry hd st final halt tag op res) = ringMessage (writeEntry d i (cplEntry hd st final halt tag op res)) i := by
    simp [postEntry, hfull, hheld]
  rw [hpost, writeEntry_eq, leBytes_cplEntry]
  have hp := posted_entered (d := d) (i := i) (bytes := entry d i hd (statusCode st) final halt tag op res) (by simp [entry])
  rcases ringMessage_kept (i := i) (d := entered d i (entry d i hd (statusCode st) final halt tag op res))
    (by simpa [entered] using hmsg) with hm | ⟨u, t, m, hm⟩
  · rwa [hm]
  · rw [hm]
    exact posted_messaged hp u t m

end Sys2Proof.Machine
end

section
/-! The acceptance of a command and its completion as rules: what a descriptor that is taken leaves, what a final and a
non-final entry leave, and the checks that the statements' hypotheses pass. -/

open Sys2Proof.Claims

namespace Sys2Proof.Machine

/-! ### The state that an entry meets -/

/-- From d to x the host memory, the messages and what decides where the ring's next entry goes are the same. -/
structure SameTail (d x : Device) (i : Fin 64) : Prop where
  host : x.host = d.host
  msix : x.msix = d.msix
  ring : ∃ h n o, vget x.rings i = { vget d.rings i with cmdHead := h, seq := n, outstanding := o }
  others : ∀ j, j ≠ i → vget x.rings j = vget d.rings j

namespace SameTail

theorem trans {d x y : Device} {i : Fin 64} (h : SameTail d x i) (g : SameTail x y i) : SameTail d y i where
  host := g.host.trans h.host
  msix := g.msix.trans h.msix
  ring := by
    obtain ⟨_, _, _, hr⟩ := h.ring
    obtain ⟨a, b, c, gr⟩ := g.ring
    exact ⟨a, b, c, by rw [gr, hr]⟩
  others j hj := (g.others j hj).trans (h.others j hj)

theorem of_eq {d x : Device} {i : Fin 64} (hh : x.host = d.host) (hm : x.msix = d.msix) (hr : x.rings = d.rings) : SameTail d x i :=
  ⟨hh, hm, ⟨_, _, _, by rw [hr]⟩, fun j _ => by rw [hr]⟩

theorem room {d x : Device} {i : Fin 64} (h : SameTail d x i) (hr : Room d i) : Room x i := by
  obtain ⟨_, _, _, he⟩ := h.ring
  simpa [Room, he, h.msix] using hr

theorem entry {d x : Device} {i : Fin 64} (h : SameTail d x i) : Claims.entry x i = Claims.entry d i := by
  obtain ⟨_, _, _, he⟩ := h.ring
  simp [funext_iff, Claims.entry, he]

theorem wrote {d x e : Device} {i : Fin 64} {bs : List Byte} (h : SameTail d x i) (hw : Wrote x e i bs) : Wrote d e i bs := by
  obtain ⟨_, _, _, he⟩ := h.ring
  have ha : entryAt x i = entryAt d i := by simp [entryAt, he]
  obtain ⟨hb, ho, ht, hr⟩ := hw
  rw [ha] at hb ho
  refine ⟨hb, fun a g => (ho a g).trans (readByte_host_congr h.host a), ?_, fun j hj => (hr j hj).trans (h.others j hj)⟩
  simpa [he] using ht

end SameTail

theorem sameTail_under {d e : Device} {i : Fin 64} (x : Device) (h : SameTail d e i) : SameTail d (under x e) i := ⟨h.host, h.msix, h.ring, h.others⟩

/-! ### Final and non-final entries -/

/-- A final completion: its entry, and the command is gone. -/
structure Completed (d e : Device) (handle : W32) (h : CmdHdr) (bytes : List Byte) : Prop where
  wrote : Wrote d e h.ring bytes
  cmdHead : (vget e.rings h.ring).cmdHead = (vget d.rings h.ring).cmdHead
  seq : (vget e.rings h.ring).seq = (vget d.rings h.ring).seq
  outstanding : (vget e.rings h.ring).outstanding = (vget d.rings h.ring).outstanding.filter (· != handle)
  cmds : e.cmds = d.cmds.filter (·.handle != handle)
  rest : e = under d e

/-- A command leaves the outstanding ones. -/
def withdrawn (d : Device) (handle : W32) (i : Fin 64) : Device :=
  { modRing d i (fun r => { r with outstanding := r.outstanding.filter (· != handle) }) with cmds := d.cmds.filter fun c => c.handle != handle }

theorem ring_withdrawn (d : Device) (handle : W32) (i : Fin 64) : vget (withdrawn d handle i).rings i =
    { vget d.rings i with outstanding := (vget d.rings i).outstanding.filter (· != handle) } := ring_modRing_same _ _ _

theorem sameTail_withdrawn (d : Device) (handle : W32) (i : Fin 64) : SameTail d (withdrawn d handle i) i :=
  ⟨rfl, rfl, ⟨_, _, _, ring_withdrawn d handle i⟩, fun _ hj => ring_modRing_other _ _ _ _ hj⟩

theorem completed_complete {d : Device} {h : CmdHdr} (hr : Room d h.ring) (handle : W32) (op : Byte) (st : Status) (halt : Byte) (res : List Byte) :
    Completed d (complete d handle h op st halt res) handle h (entry d h.ring handle (statusCode st) true halt h.tag op res) := by
  have hx : complete d handle h op st halt res = postEntry (withdrawn d handle h.ring) h.ring (cplEntry handle st true halt h.tag op res) := rfl
  have hs := sameTail_withdrawn d handle h.ring
  have hq := ring_withdrawn d handle h.ring
  obtain ⟨hw, hc, hh, hn, ho, hrest⟩ := posted_postEntry (hs.room hr) handle st true halt h.tag op res
  rw [hs.entry, ← hx] at hw
  rw [← hx] at hc hh hn ho hrest
  refine ⟨hs.wrote hw, by rw [hh, hq], by rw [hn, hq], by rw [ho, hq], hc, ?_⟩
  rw [hrest]
  simp only [under, withdrawn, modRing]

/-- A command in progress is completed, unless it is mute. -/
theorem completeCmd_of_find {d : Device} {handle : W32} {c : Cmd} (hf : findCmd d handle = some c) (hm : c.mute = false) (st : Status) (halt : Byte)
    (res : List Byte) : completeCmd d handle st halt res = complete d handle c.hdr c.opcode st halt res := by
  unfold findCmd at hf
  simp [completeCmd, hf, hm]

theorem findCmd_single {d : Device} {c : Cmd} (h : d.cmds = [c]) : findCmd d c.handle = some c := by
  simp [findCmd, h]

/-- The completion of a command in progress ends it. -/
theorem Completed.ends {d e : Device} {c : Cmd} {st : Status} {halt : Byte} {res : List Byte}
    (h : Completed d e c.handle c.hdr (entry d c.hdr.ring c.handle (statusCode st) true halt c.hdr.tag c.opcode res)) :
    Ends d e c (statusCode st) halt res := ⟨h.wrote, h.outstanding, h.cmds⟩

/-- The command that an acceptance puts in progress. -/
def newCmd (handle : W32) (h : CmdHdr) (op : Byte) (job : Job) : Cmd :=
  { handle := handle, hdr := h, opcode := op, job := job, data := none, round := 0, active := false, failed := false, begun := false,
    pos := 0, got := [], held := false, release := 0, mute := false }

/-- The acceptance entry of a command that goes on. -/
structure Opened (d e : Device) (handle : W32) (h : CmdHdr) (op : Byte) (job : Job) : Prop where
  wrote : Wrote d e h.ring (entry d h.ring handle 0 false 0 h.tag op [])
  cmdHead : (vget e.rings h.ring).cmdHead = (vget d.rings h.ring).cmdHead
  seq : (vget e.rings h.ring).seq = (vget d.rings h.ring).seq
  outstanding : (vget e.rings h.ring).outstanding = (vget d.rings h.ring).outstanding
  cmds : e.cmds = d.cmds ++ [newCmd handle h op job]
  rest : e = under d e

theorem opened_beginLong {d : Device} {h : CmdHdr} (hr : Room d h.ring) (handle : W32) (op : Byte) (job : Job) :
    Opened d (beginLong d handle h op job) handle h op job := by
  have hx : beginLong d handle h op job =
    postEntry { d with cmds := d.cmds ++ [newCmd handle h op job] } h.ring (cplEntry handle .ok false 0 h.tag op []) := rfl
  have hs : SameTail d { d with cmds := d.cmds ++ [newCmd handle h op job] } h.ring := .of_eq rfl rfl rfl
  obtain ⟨hw, hc, hh, hn, ho, hrest⟩ := posted_postEntry (hs.room hr) handle .ok false 0 h.tag op []
  rw [hs.entry, ← hx] at hw
  rw [← hx] at hc hh hn ho hrest
  refine ⟨hs.wrote hw, hh, hn, ho, hc, ?_⟩
  rw [hrest]
  rfl

/-! ### Taking a descriptor -/

/-- The device as the descriptor has been taken. -/
def fetched (d : Device) (i : Fin 64) : Device := (fetchDesc d i).2

theorem fetchDesc_eq (d : Device) (i : Fin 64) : fetchDesc d i = (nextHandle d i, fetched d i) := rfl

theorem ring_fetched (d : Device) (i : Fin 64) : vget (fetched d i).rings i = { vget d.rings i with
    cmdHead := BitVec.ofNat 16 (((vget d.rings i).cmdHead.toNat + 1) % 2 ^ (vget d.rings i).cmdLog2.toNat), seq := (vget d.rings i).seq + 1,
    outstanding := (vget d.rings i).outstanding ++ [nextHandle d i] } := ring_modRing_same _ _ _

theorem ring_fetched_other (d : Device) {i j : Fin 64} (h : j ≠ i) : vget (fetched d i).rings j = vget d.rings j := ring_modRing_other _ _ _ _ h

theorem sameTail_fetched (d : Device) (i : Fin 64) : SameTail d (fetched d i) i :=
  ⟨rfl, rfl, ⟨_, _, _, ring_fetched d i⟩, fun _ hj => ring_fetched_other d hj⟩

theorem ringReady_of_takes {d : Device} {i : Fin 64} {fence : Bool} (h : Takes d i fence) : ringReady d i fence = true := by
  obtain ⟨hboot, hen, hst, hq, hlen, hf, -, hheld, -⟩ := h
  cases fence
  · simp [ringReady, bootMode, hboot, hen, hst, hq, hlen, hheld]
  · simp [ringReady, bootMode, hboot, hen, hst, hq, hheld, hf rfl]

theorem room_of_takes {d : Device} {i : Fin 64} {fence : Bool} (h : Takes d i fence) : Room d i := by
  obtain ⟨-, -, -, -, -, -, hr⟩ := h
  exact hr

theorem acceptCmd_refused {d : Device} {h : CmdHdr} (ht : Takes d h.ring h.fence) (op : Byte) (st : Status) (n : Nat) (wake : Option PartId)
    (go : Device → W32 → Device) :
    acceptCmd d h op (some (st, n)) wake go = complete (fetched d h.ring) (nextHandle d h.ring) h op st 0 (failResult st n) := by
  simp [acceptCmd, ringReady_of_takes ht, fetchDesc_eq]

theorem acceptCmd_taken {d : Device} {h : CmdHdr} (ht : Takes d h.ring h.fence) (op : Byte) (go : Device → W32 → Device) :
    acceptCmd d h op none none go = go (fetched d h.ring) (nextHandle d h.ring) := by
  simp [acceptCmd, ringReady_of_takes ht, fetchDesc_eq]

theorem needsWake_running {d : Device} (h : ∀ k, (getPond d k).st = .running) (p : PartId) : needsWake d p = false := by
  simp [needsWake, h]

/-- A command that needs the ponds of a partition, all of which run. -/
theorem acceptCmd_awake {d : Device} {h : CmdHdr} (ht : Takes d h.ring h.fence) (hp : ∀ k, (getPond d k).st = .running) (op : Byte) (p : PartId)
    (go : Device → W32 → Device) :
    acceptCmd d h op none (some p) go = go (fetched (needed d p) h.ring) (nextHandle d h.ring) := by
  have hn : needsWake (modPart d p fun x => { x with lastNeed := some d.clock.elapsed }) p = false := needsWake_running hp p
  simp only [acceptCmd, ringReady_of_takes ht, hn]
  rfl

/-! ### Short and long commands -/

/-- A command whose final entry is written as its descriptor has been taken. -/
theorem finishes_of_complete {i : Instr} {s : State} {h : CmdHdr} {op : Byte} {st : Status} {res : List Byte} {f : Device → Device} {x : Device}
    (ht : Takes s.dev h.ring h.fence) (hi : exec i s = onDev f s)
    (hf : f s.dev = complete (under x (fetched s.dev h.ring)) (nextHandle s.dev h.ring) h op st 0 res) :
    Finishes i s h op (statusCode st) res x := by
  have hs : SameTail s.dev (under x (fetched s.dev h.ring)) h.ring := sameTail_under x (sameTail_fetched s.dev h.ring)
  have hc := completed_complete (hs.room (room_of_takes ht)) (nextHandle s.dev h.ring) op st 0 res
  have hr : vget (under x (fetched s.dev h.ring)).rings h.ring = _ := ring_fetched s.dev h.ring
  rw [hs.entry] at hc
  refine ⟨f s.dev, hi, ?_⟩
  rw [hf]
  refine ⟨hs.wrote hc.wrote, ⟨by rw [hc.cmdHead, hr], by rw [hc.seq, hr]⟩, ?_, hc.cmds, hc.rest⟩
  rw [hc.outstanding, hr]
  simp

/-- A command that is refused writes its final entry and changes nothing else. -/
theorem finishes_of_refused {i : Instr} {s : State} {h : CmdHdr} {op : Byte} {fail : Refused} {st : Status} {n : Nat} {wake : Option PartId}
    {go : Device → W32 → Device} {f : Device → Device} (ht : Takes s.dev h.ring h.fence) (hi : exec i s = onDev f s)
    (hf : f s.dev = acceptCmd s.dev h op fail wake go) (hs : fail = some (st, n)) :
    Finishes i s h op (statusCode st) (failResult st n) s.dev :=
  finishes_of_complete ht hi (by rw [hf, hs, acceptCmd_refused ht]; rfl)

/-- A long command that goes on from its acceptance entry by a change of the commands alone. -/
theorem begins_of_beginLong {i : Instr} {s : State} {h : CmdHdr} {op : Byte} {job : Job} {f : Device → Device} {x : Device}
    {c : Device → Cmd → Prop} (g : List Cmd → List Cmd) (ht : Takes s.dev h.ring h.fence) (hi : exec i s = onDev f s)
    (hf : f s.dev = let e := beginLong (under x (fetched s.dev h.ring)) (nextHandle s.dev h.ring) h op job; { e with cmds := g e.cmds })
    (hc : ∃ k, g (s.dev.cmds ++ [begun s.dev h op job]) = s.dev.cmds ++ [k] ∧ c (f s.dev) k) :
    Begins i s h op c x := by
  have hs : SameTail s.dev (under x (fetched s.dev h.ring)) h.ring := sameTail_under x (sameTail_fetched s.dev h.ring)
  have ho := opened_beginLong (hs.room (room_of_takes ht)) (nextHandle s.dev h.ring) op job
  have hr : vget (under x (fetched s.dev h.ring)).rings h.ring = _ := ring_fetched s.dev h.ring
  have hw := ho.wrote
  rw [hs.entry] at hw
  refine ⟨f s.dev, hi, ?_⟩
  obtain ⟨k, hk, hck⟩ := hc
  have hcmds : (f s.dev).cmds = s.dev.cmds ++ [k] := by
    rw [hf]
    exact (congrArg g ho.cmds).trans hk
  refine ⟨?_, ?_, ?_, ⟨k, hcmds, hck⟩, ?_⟩ <;> rw [hf]
  · exact hs.wrote hw
  · exact ⟨ho.cmdHead.trans (by rw [hr]), ho.seq.trans (by rw [hr])⟩
  · exact ho.outstanding.trans (by rw [hr])
  · have := ho.rest
    rw [this]
    rfl

/-! ### The checks of acceptance -/

theorem mayName_of {d : Device} {i : Fin 64} {p : PartId} (h : MayName d i p) : mayName d i p = true := by
  unfold mayName vfOf
  by_cases hf : (vget d.rings i).owner.toNat = 0
  · simp [hf]
  · simpa [hf] using h.resolve_left hf

theorem rightsFail_unattached {d : Device} {h : CmdHdr} (hm : MayName d h.ring h.part) : rightsFail d h false = none := by
  simp [rightsFail, mayName_of hm]

theorem rightsFail_holds {d : Device} {h : CmdHdr} (hh : Holds d h) : rightsFail d h true = none := by
  obtain ⟨-, hm, ha⟩ := hh
  simp [rightsFail, mayName_of hm, ha]

theorem rightsFail_detached {d : Device} {h : CmdHdr} (ha : (getPart d h.part).attached ≠ some h.ring) : rightsFail d h true = some (.notPermitted, 0) := by
  simp [rightsFail, ha]

/-- Checks that all hold find nothing bad. -/
theorem firstFail_none {cs : Checks} (h : ∀ c ∈ cs, c.2 = true) : firstFail cs = none := by
  unfold firstFail
  suffices ∀ a : Option Nat, List.foldl _ a cs = a from this none
  induction cs with
  | nil => exact fun _ => rfl
  | cons c cs ih => exact fun a => by simpa [h c (by simp)] using ih (fun x hx => h x (by simp [hx])) a

theorem badField_none {cs : Checks} (h : ∀ c ∈ cs, c.2 = true) : badField none cs = none := by
  simp [badField, firstFail_none h]

/-- Conditions of which none holds refuse nothing. -/
theorem firstOf_none {l : List (Bool × Status × Nat)} (h : ∀ x ∈ l, x.1 = false) : firstOf l = none := by
  simp only [firstOf, Option.map_eq_none_iff, List.find?_eq_none]
  exact fun x hx => by simp [h x hx]

@[simp] theorem orElse_none (r : Refused) : orElse none r = r := rfl
@[simp] theorem orElse_some (x : Status × Nat) (r : Refused) : orElse (some x) r = some x := rfl

theorem targetOk_of {d : Device} {h : CmdHdr} (hp : h.part.val < d.config) : (targetOk d h).2 = true := decide_eq_true hp

/-- No domain of a partition runs. -/
theorem anyRunning_false {d : Device} {p : PartId} (h : ∀ k, (getDom d { part := p, dom := k }).st ≠ .running) : anyRunning d p = false := by
  simp only [anyRunning, domsOf, List.any_map, List.any_eq_false, Function.comp_apply, decide_eq_true_eq]
  intro k _
  have := h k
  simp only [domState]
  split <;> simp_all

end Sys2Proof.Machine
end

section
/-! ATTACH, SET_MODE and CONFIGURE_PARTITION. -/

open Sys2Proof.Claims

namespace Sys2Proof.Machine

/-! ### The ports after CONFIGURE_PARTITION -/

/-- What the mapping of the ports of partitions may change: the ports, and which ports a partition has mapped. -/
structure PortsOnly (d e : Device) : Prop where
  rest : e = { d with parts := e.parts, cxlPorts := e.cxlPorts }
  part : ∀ p, ∃ v n, getPart e p = { getPart d p with cxlValid := v, cxlUnits := n }

namespace PortsOnly

theorem refl (d : Device) : PortsOnly d d := ⟨rfl, fun _ => ⟨_, _, rfl⟩⟩

theorem trans {d e x : Device} (h : PortsOnly d e) (g : PortsOnly e x) : PortsOnly d x where
  rest := by rw [g.rest, h.rest]
  part p := by
    obtain ⟨_, _, hp⟩ := h.part p
    obtain ⟨v, n, gp⟩ := g.part p
    exact ⟨v, n, by rw [gp, hp]⟩

theorem all {α : Type} {f : Device → α → Device} (hf : ∀ e x, PortsOnly e (f e x)) (l : List α) : ∀ d, PortsOnly d (forAll l d f) := by
  induction l with
  | nil => exact refl
  | cons x l ih => exact fun d => (hf d x).trans (ih _)

end PortsOnly

theorem portsOnly_modPort (d : Device) (k : Fin 4) (f : CxlPort → CxlPort) : PortsOnly d (modPort d k f) := ⟨rfl, fun _ => ⟨_, _, rfl⟩⟩

theorem portsOnly_mapPorts (d : Device) (p : PartId) : PortsOnly d (mapPorts d p) := by
  unfold mapPorts
  simp only []
  split
  · refine .trans ?_ (PortsOnly.all (fun e k => portsOnly_modPort e k _) _ _)
    refine ⟨rfl, fun q => ?_⟩
    by_cases hq : p = q
    · subst hq
      exact ⟨_, _, getPart_modPart_same _ _ _⟩
    · exact ⟨_, _, getPart_modPart_other _ _ _ _ hq⟩
  · exact .refl d

/-- The device as CONFIGURE_PARTITION sets it, before its ports are mapped. -/
def configured (d : Device) (config : Nat) (vf : W64) : Device :=
  alignPonds { d with
    parts := newParts d config, config := config
    vfPart := Vector.ofFn fun (k : Fin 8) => BitVec.ofNat 4 (vfByte vf (k.val + 1)) }

theorem portsOnly_configureParts (d : Device) (config : Nat) (vf : W64) : PortsOnly (configured d config vf) (configureParts d config vf) :=
  PortsOnly.all portsOnly_mapPorts _ _

theorem getPart_newParts (d : Device) (config : Nat) (p : PartId) :
    (vget (newParts d config) p).openMode = false ∧ (vget (newParts d config) p).attached = none ∧ (vget (newParts d config) p).weights = [] := by
  simp [newParts, vmapi, vget]

theorem getPond_configured (d : Device) (config : Nat) (vf : W64) (k : Fin 32) :
    (getPond (configured d config vf) k).st = (getPond d k).st ∧ (getPond (configured d config vf) k).count = 0 := by
  simp [configured, alignPonds, getPond, vget]

/-- A byte of VF_PART as the statement reads it. -/
theorem vfByte_succ (vf : W64) (k : Nat) : vfByte vf (k + 1) = (vf.extractLsb' (8 * k) 8).toNat := by
  have h1 : 8 * (k + 1) - 8 = 8 * k := by omega
  have h2 : 8 * (k + 1) - 1 + 1 - 8 * k = 8 := by omega
  simp [vfByte, fieldNat, h1, h2, Nat.shiftRight_eq_div_pow]

/-- The partition that VF_PART gives a function. -/
theorem ofNat_vfByte (vf : W64) (k : Nat) : BitVec.ofNat 4 (vfByte vf (k + 1)) = vf.extractLsb' (8 * k) 4 := by
  apply BitVec.eq_of_toNat_eq
  simp only [vfByte_succ, BitVec.toNat_ofNat, BitVec.extractLsb'_toNat]
  omega

/-! ### What the commands are refused for -/

theorem attachFail_base {d : Device} {h : CmdHdr} {action : Byte} (hp : h.part.val < d.config) (hm : MayName d h.ring h.part) (ha : action = 1 ∨ action = 2) :
    attachFail d h action none =
      let x := (getPart d h.part).attached
      firstOf [(action = 2 && x != some h.ring, .stateConflict, 0), (action = 1 && x.isSome && x != some h.ring, .resourceBusy, 0)] := by
  have hb : badField none [targetOk d h, (8, action = 1 || action = 2)] = none := by
    refine badField_none fun c hc => ?_
    rcases List.mem_pair.1 hc with rfl | rfl
    · exact targetOk_of hp
    · simpa using ha
  simp only [attachFail, hb, rightsFail_unattached hm, orElse_none]

theorem setModeFail_base {d : Device} {h : CmdHdr} {m : Byte} (hp : h.part.val < d.config) (hm : m = 1 ∨ m = 2) :
    setModeFail d h m none = orElse (rightsFail d h true) (firstOf [(anyRunning d h.part, .stateConflict, 0)]) := by
  have hb : badField none [targetOk d h, (8, m = 1 || m = 2)] = none := by
    refine badField_none fun c hc => ?_
    rcases List.mem_pair.1 hc with rfl | rfl
    · exact targetOk_of hp
    · simpa using hm
  simp only [setModeFail, hb, orElse_none]

theorem configureFail_none {d : Device} {h : CmdHdr} {n : Byte} {vf : W64} (ho : (vget d.rings h.ring).owner = 0) (hp : h.part = 0) (hd : h.dom = 0)
    (hn : n = 1 ∨ n = 2 ∨ n = 4) (hv : ∀ k, k < 8 → vf.extractLsb' (8 * k) 8 = 0xFF ∨ (vf.extractLsb' (8 * k) 8).toNat < n.toNat)
    (he : ∀ i, (getDom d i).st = .empty) (hc : d.cmds = []) : configureFail d h n vf none = none := by
  have hok : (n = 1 || n = 2 || n = 4 : Bool) = true := by simpa [or_assoc] using hn
  have hb : badField none ([noTarget h, (8, (n = 1 || n = 2 || n = 4 : Bool))] ++ (List.range 8).map fun k =>
      (9 + k, vfByte vf (k + 1) = 0xFF || decide (vfByte vf (k + 1) < if (n = 1 || n = 2 || n = 4 : Bool) then n.toNat else 4))) = none := by
    refine badField_none fun c hc => ?_
    simp only [List.mem_append, List.mem_cons, List.not_mem_nil, or_false, List.mem_map, List.mem_range] at hc
    rcases hc with (rfl | rfl) | ⟨k, hk, rfl⟩
    · simp [noTarget, hp, hd]
    · exact hok
    · rw [vfByte_succ, if_pos hok]
      have hk := hv k hk
      generalize vf.extractLsb' (8 * k) 8 = x at hk ⊢
      rcases hk with rfl | hk
      · rfl
      · simp [hk]
  have hpf : isPF d h.ring = true := by simp [isPF, vfOf, ho]
  have hl : anyLoaded d = false := by simp [anyLoaded, he]
  simp only [configureFail, hb, orElse_none]
  exact firstOf_none (by simp [hpf, hl, hc])

/-! ### The commands -/

theorem attach_taken {d : Device} {h : CmdHdr} {a : Byte} (ht : Takes d h.ring h.fence) (hf : attachFail d h a none = none) :
    attach d h a none = complete (under (modPart d h.part fun p => { p with attached := if a = 1 then some h.ring else none }) (fetched d h.ring))
      (nextHandle d h.ring) h 0x01 .ok 0 [] := by
  rw [attach, hf, acceptCmd_taken ht]
  rfl

theorem setMode_taken {d : Device} {h : CmdHdr} {m : Byte} (ht : Takes d h.ring h.fence) (hf : setModeFail d h m none = none) :
    setMode d h m none = complete (under (modPart d h.part fun p => { p with openMode := m = 2 }) (fetched d h.ring))
      (nextHandle d h.ring) h 0x03 .ok 0 [] := by
  rw [setMode, hf, acceptCmd_taken ht]
  rfl

/-- An attachment that is taken or given back. -/
theorem finishes_attach {s : State} {h : CmdHdr} {a : Byte} (ht : Takes s.dev h.ring h.fence) (hf : attachFail s.dev h a none = none) :
    Finishes (.attach h a) s h 0x01 0 [] (modPart s.dev h.part fun p => { p with attached := if a = 1 then some h.ring else none }) :=
  finishes_of_complete (f := fun d => attach d h a none) (st := .ok) ht rfl (attach_taken ht hf)

theorem configurePartition_taken {d : Device} {h : CmdHdr} {n : Byte} {vf : W64} (ht : Takes d h.ring h.fence) (hf : configureFail d h n vf none = none) :
    configurePartition d h n vf none = complete (configureParts (fetched d h.ring) n.toNat vf) (nextHandle d h.ring) h 0x02 .ok 0 [] := by
  rw [configurePartition, hf, acceptCmd_taken ht]

/-- What CONFIGURE_PARTITION leaves, from the device as its descriptor has been taken. -/
theorem configureParts_frame (d : Device) (config : Nat) (vf : W64) : let e := configureParts d config vf
    e = { configured d config vf with parts := e.parts, cxlPorts := e.cxlPorts } ∧
      ∀ p, (getPart e p).openMode = false ∧ (getPart e p).attached = none ∧ (getPart e p).weights = [] := by
  have h := portsOnly_configureParts d config vf
  refine ⟨h.rest, fun p => ?_⟩
  obtain ⟨v, n, hp⟩ := h.part p
  rw [hp]
  exact getPart_newParts d config p

end Sys2Proof.Machine

open Sys2Proof.Machine

/-- Settles O27: each command takes its descriptor, changes its part of the partition and completes; the refusals complete alone. -/
theorem partitionsAreAttachedAndConfigured : Obligations.PartitionsAreAttachedAndConfigured := by
  unfold Obligations.PartitionsAreAttachedAndConfigured
  refine ⟨fun s h ht hp hm => ⟨fun ha => ?_, fun ha => ?_, fun ha => ⟨?_, fun m hmode => ?_⟩, fun r ha hr => ?_⟩,
    fun s h m ht hh hmode hrun => ?_, fun s h n vf ht ho hp hd hn hv he hc => ?_⟩
  · refine finishes_attach (a := 1) ht ?_
    rw [attachFail_base hp hm (.inl rfl)]
    exact firstOf_none (by rcases ha with ha | ha <;> simp [ha])
  · refine finishes_attach (a := 2) ht ?_
    rw [attachFail_base hp hm (.inr rfl)]
    exact firstOf_none (by simp [ha])
  · refine finishes_of_refused (f := fun d => attach d h 2 none) ht rfl rfl (st := .stateConflict) (n := 0) ?_
    rw [attachFail_base hp hm (.inr rfl)]
    simp [firstOf, ha]
  · refine finishes_of_refused (f := fun d => setMode d h m none) ht rfl rfl (st := .notPermitted) (n := 0) ?_
    rw [setModeFail_base hp hmode, rightsFail_detached ha, orElse_some]
  · refine finishes_of_refused (f := fun d => attach d h 1 none) ht rfl rfl (st := .resourceBusy) (n := 0) ?_
    rw [attachFail_base hp hm (.inl rfl)]
    simp [firstOf, ha, hr]
  · refine finishes_of_complete (f := fun d => setMode d h m none) (st := .ok) ht rfl (setMode_taken ht ?_)
    rw [setModeFail_base hh.1 hmode, rightsFail_holds hh, orElse_none, anyRunning_false hrun]
    rfl
  · obtain ⟨hrest, hparts⟩ := configureParts_frame (fetched s.dev h.ring) n.toNat vf
    generalize hx : configureParts (fetched s.dev h.ring) n.toNat vf = x at hrest hparts
    have hs : SameTail s.dev x h.ring := (sameTail_fetched _ _).trans (.of_eq (by rw [hrest]; rfl) (by rw [hrest]; rfl) (by rw [hrest]; rfl))
    have hring : vget x.rings h.ring = vget (fetched s.dev h.ring).rings h.ring := by rw [hrest]; rfl
    have hc' := completed_complete (hs.room (room_of_takes ht)) (nextHandle s.dev h.ring) 0x02 .ok 0 []
    generalize he' : complete x (nextHandle s.dev h.ring) h 0x02 .ok 0 [] = e at hc'
    have hgo : configurePartition s.dev h n vf none = e := by
      rw [configurePartition_taken ht (configureFail_none ho hp hd hn hv he hc), hx, he']
    obtain ⟨hw, hhead, hseq, -, -, hunder⟩ := hc'
    rw [hs.entry] at hw
    rw [hring, ring_fetched] at hhead hseq
    refine ⟨e, hgo ▸ rfl, hs.wrote hw, ⟨hhead, hseq⟩, ?_, fun k => ?_, fun p => ?_, ?_, ?_, fun k => ?_, ?_, ?_⟩
    · rw [hunder, hrest]; rfl
    · rw [hunder, hrest, ← ofNat_vfByte]
      simp [under, configured, alignPonds, vget]
    · rw [hunder]; exact hparts p
    · rw [hunder, hrest]; rfl
    · rw [hunder, hrest]; rfl
    · rw [hunder, hrest]; exact getPond_configured (fetched s.dev h.ring) n.toNat vf k
    · rw [hunder, hrest]; rfl
    · rw [hunder, hrest]; rfl
end

section
/-! LOAD_TENSOR and READ_TENSOR: the regions they name, the bytes they move, and the entries of their acceptance and end. -/

open Sys2Proof.Claims

namespace Sys2Proof.Machine

/-! ### A device with no armed event -/

theorem isArmed_nil {d : Device} (h : d.err.armed = []) (det unit : BitVec 16) : isArmed d det unit = false := by simp [isArmed, h]

theorem inject_nil {d : Device} (h : d.err.armed = []) (det unit : BitVec 16) : inject d det unit = (false, d) := by simp [inject, isArmed_nil h]

theorem memEvent_nil {d : Device} (h : d.err.armed = []) (c : Option CtxId) (det unit : Nat) (sev : BitVec 2) (code : Byte) (a : Nat) :
    memEvent d c det unit sev code a = (false, d) := by simp [memEvent, inject_nil h]

theorem stackEvent_nil {d : Device} (h : d.err.armed = []) (c : Option CtxId) (k : Fin 8) (det : Nat) (sev : BitVec 2) (code : Byte) (a : Nat)
    (f : HbmStack → HbmStack) : stackEvent d c k det sev code a f = (false, d) := by simp [stackEvent, memEvent_nil h]

theorem hbmEvents_nil {d : Device} (h : d.err.armed = []) (c : Option CtxId) (k : Fin 8) (read : Bool) (a : Nat) :
    hbmEvents d c k read a = (MemRead.plain, d) := by
  have hs := fun det sev code f => stackEvent_nil h c k det sev code a f
  unfold hbmEvents
  generalize stackEvent = event at hs
  generalize cleanReread = reread
  extract_lets parity
  have hp : parity d = (false, d) := hs _ _ _ _
  clear_value parity
  split
  rename_i p d1 h1
  obtain ⟨rfl, rfl⟩ := Prod.mk.inj (hp.symm.trans h1)
  rw [if_neg Bool.false_ne_true]
  cases read
  · rfl
  · simp [hs, MemRead.plain]

theorem cxlEvents_nil {d : Device} (h : d.err.armed = []) (c : Option CtxId) (k : Fin 4) (read : Bool) (a : Nat) :
    (cxlEvents d c k read a).1.error = none ∧ (cxlEvents d c k read a).2 = d := by
  cases read <;> simp [cxlEvents, memEvent_nil h]

theorem resEvents_nil {d : Device} (h : d.err.armed = []) (c : Option CtxId) (p : PartId) (read : Bool) (a : Nat) :
    (resEvents d c p read a).1.error = none ∧ (resEvents d c p read a).2 = d := by
  cases read <;> simp [resEvents, memEvent_nil h, MemRead.plain]

theorem tierEvents_nil {d : Device} (h : d.err.armed = []) (c : Option CtxId) (p : PartId) (t : Target) (read : Bool) :
    (tierEvents d c p t read).1.error = none ∧ (tierEvents d c p t read).2 = d := by
  cases t with
  | hbm off => rw [tierEvents, hbmEvents_nil h]; exact ⟨rfl, rfl⟩
  | cxl off => exact cxlEvents_nil h _ _ _ _
  | reservoir off => exact resEvents_nil h _ _ _ _
  | scratch c off => exact ⟨rfl, rfl⟩
  | queue k => exact ⟨rfl, rfl⟩

theorem hostEvents_nil {d : Device} (h : d.err.armed = []) (p : PartId) (t : Target) (n : Nat) (read : Bool) : hostEvents d p t n read = (false, d) := by
  unfold hostEvents
  induction List.range ((n + 63) / 64) with
  | nil => rfl
  | cons k l ih =>
    obtain ⟨he, hd⟩ := tierEvents_nil h none p (alongTarget t (64 * k)) read
    simp only [List.foldl_cons, he, hd, Option.isSome_none, Bool.or_false]
    exact ih

theorem hostAccess_ok {d : Device} {ring : Fin 64} {read : Bool} (h : read = false ∨ d.err.armed = []) : hostAccess d ring read true = (true, d) := by
  rcases h with h | h
  · simp [hostAccess, h]
  · simp [hostAccess, isArmed_nil h]

/-! ### Writes to a region -/

theorem targetKey_mem (d : Device) (p : PartId) (t : Target) (k : Nat) : (targetKey d p t k).1 ≠ .host ∧ (targetKey d p t k).1 ≠ .retained := by
  cases t <;> simp [targetKey]

theorem writeByte_rest (d : Device) {i : MemId} (h : i ≠ .host ∧ i ≠ .retained) (a : Nat) (v : Byte) :
    ∃ s r m x, writeByte d i a v = { d with scratch := s, reservoir := r, hbm := m, cxl := x } := by
  obtain ⟨hh, hr⟩ := h
  cases i with
  | host => exact absurd rfl hh
  | retained => exact absurd rfl hr
  | scratch => exact ⟨_, d.reservoir, d.hbm, d.cxl, rfl⟩
  | reservoir => exact ⟨d.scratch, _, d.hbm, d.cxl, rfl⟩
  | hbm => exact ⟨d.scratch, d.reservoir, _, d.cxl, rfl⟩
  | cxl => exact ⟨d.scratch, d.reservoir, d.hbm, _, rfl⟩

/-- What a write to a region may change. -/
theorem writeTargetFrom_rest (p : PartId) (t : Target) : (bs : List Byte) → (d : Device) → (k : Nat) → ∃ s r m x, writeTargetFrom d p t k bs =
    { d with scratch := s, reservoir := r, hbm := m, cxl := x }
  | [], d, _ => ⟨d.scratch, d.reservoir, d.hbm, d.cxl, rfl⟩
  | b :: bs, d, k => by
    obtain ⟨s, r, m, x, h⟩ := writeTargetFrom_rest p t bs (writeByte d (targetKey d p t k).1 (targetKey d p t k).2 b) (k + 1)
    obtain ⟨s', r', m', x', hw⟩ := writeByte_rest d (targetKey_mem d p t k) (targetKey d p t k).2 b
    refine ⟨s, r, m, x, ?_⟩
    simp only [writeTargetFrom]
    rw [h, hw]

/-- The commands in progress are nothing to a write. -/
theorem writeTargetFrom_cmds (p : PartId) (t : Target) (l : List Cmd) : (bs : List Byte) → (d : Device) → (k : Nat) →
    writeTargetFrom { d with cmds := l } p t k bs = { writeTargetFrom d p t k bs with cmds := l }
  | [], _, _ => rfl
  | b :: bs, d, k => by
    have hw : ∀ i a, writeByte { d with cmds := l } i a b = { writeByte d i a b with cmds := l } := fun i a => by cases i <;> rfl
    simp only [writeTargetFrom]
    rw [← writeTargetFrom_cmds p t l bs, ← hw]
    rfl

theorem writeTargetFrom_scratch (p q : PartId) (c : CtxId) (off : Nat) : (bs : List Byte) → (d : Device) → (k : Nat) →
    writeTargetFrom d p (.scratch c off) k bs = writeTargetFrom d q (.scratch c off) k bs
  | [], _, _ => rfl
  | b :: bs, d, k => by
    simp only [writeTargetFrom, targetKey]
    exact writeTargetFrom_scratch p q c off bs _ _

/-- Host data that is written to a region: its bytes, and sound parity. -/
theorem hostWrite_nil {d : Device} (h : d.err.armed = []) (p : PartId) (t : Target) (bs : List Byte) :
    ∃ l, hostWrite d p t bs = { writeTarget d p t bs with scratchBad := l } := by
  obtain ⟨s, r, m, x, hw⟩ := writeTargetFrom_rest p t bs d 0
  cases t with
  | scratch c off =>
    have hq : ∀ q, writeTarget d q (.scratch c off) bs = writeTarget d p (.scratch c off) bs := fun q => writeTargetFrom_scratch _ _ _ _ _ _ _
    have hp : ∃ l, writePad d c off bs = { writeTarget d p (.scratch c off) bs with scratchBad := l } := by
      unfold writePad
      simp only [hq]
      split
      · exact ⟨_, rfl⟩
      · exact ⟨_, rfl⟩
    obtain ⟨l, hl⟩ := hp
    have ha : (writePad d c off bs).err.armed = [] := by
      rw [hl, writeTarget, hw]
      exact h
    have hs : storePad d c off bs = writePad d c off bs := by simp [storePad, inject_nil ha]
    exact ⟨l, hs.trans hl⟩
  | reservoir off => exact ⟨(writeTarget d p (.reservoir off) bs).scratchBad, by simp only [hostWrite, hostEvents_nil h]⟩
  | hbm off => exact ⟨(writeTarget d p (.hbm off) bs).scratchBad, by simp only [hostWrite, hostEvents_nil h]⟩
  | cxl off => exact ⟨(writeTarget d p (.cxl off) bs).scratchBad, by simp only [hostWrite, hostEvents_nil h]⟩
  | queue k => exact ⟨(writeTarget d p (.queue k) bs).scratchBad, by simp only [hostWrite, hostEvents_nil h]⟩

/-- A region that is read for the host, where no word is bad. -/
theorem hostRead_nil {d : Device} (h : d.err.armed = []) (hb : d.scratchBad = []) (p : PartId) (t : Target) (n : Nat) :
    hostRead d p t n = (some (readTarget d p t n), d) := by
  cases t with
  | scratch c off => simp [hostRead, parityHost, parityOutside, badWords, hb, isArmed_nil h, forAll]
  | reservoir off => simp [hostRead, hostEvents_nil h]
  | hbm off => simp [hostRead, hostEvents_nil h]
  | cxl off => simp [hostRead, hostEvents_nil h]
  | queue k => simp [hostRead, hostEvents_nil h]

/-! ### The region of a command -/

/-- A region is a scratchpad's exactly when its address is of space 0x1. -/
theorem wakeFor_region {d : Device} {p : PartId} {a : W64} {n : Nat} {t : Target} (h : regionOf d p a n = some t) :
    wakeFor p (some t) = if a.toNat / 2 ^ 44 = 1 then some p else none := by
  have hr : ∀ {ok : Bool} {x y : Target}, rangeRes ok x = .ok y → y = x := by
    intro ok x y hx
    unfold rangeRes at hx
    split at hx
    · exact (AddrRes.ok.inj hx).symm
    · cases hx
  unfold regionOf at h
  simp only [] at h
  split at h
  · rename_i hs
    simp only [Bool.and_eq_true, decide_eq_true_eq] at hs
    obtain ⟨⟨h1, h4⟩, -⟩ := hs
    split at h
    · rename_i y hy
      obtain rfl := Option.some.inj h
      have hcases : a.toNat / 2 ^ 44 = 1 ∨ a.toNat / 2 ^ 44 = 2 ∨ a.toNat / 2 ^ 44 = 3 ∨ a.toNat / 2 ^ 44 = 4 := by omega
      simp only [resolve] at hy
      rcases hcases with hc | hc | hc | hc <;> rw [hc] at hy ⊢ <;> simp only [] at hy
      · split at hy
        · cases hy
        · rw [hr hy]; rfl
      · rw [hr hy]; rfl
      · rw [hr hy]; rfl
      · rw [hr hy]; rfl
    · cases h
  · cases h

theorem clearingAt_false {d : Device} {p : PartId} (hp : (getPart d p).clearing = false) (hc : ∀ k, (getCore d k).clearing = false) (t : Option Target) :
    clearingAt d p t = false := by
  unfold clearingAt
  split <;> simp [hp, hc]

/-- A command of a region is taken: one of a scratchpad needs the ponds, all of which run. -/
theorem acceptCmd_region {d : Device} {h : CmdHdr} {a : W64} {n : Nat} {t : Target} (ht : Takes d h.ring h.fence)
    (hp : ∀ k, (getPond d k).st = .running) (hr : regionOf d h.part a n = some t) (op : Byte) (go : Device → W32 → Device) :
    acceptCmd d h op none (wakeFor h.part (regionOf d h.part a n)) go = go (under (neededFor d h.part a) (fetched d h.ring)) (nextHandle d h.ring) := by
  rw [hr, wakeFor_region hr]
  unfold neededFor
  split
  · rw [acceptCmd_awake ht hp]
    rfl
  · rw [acceptCmd_taken ht]
    rfl

theorem aligned64_of {a : W64} (h : a.toNat % 64 = 0) : aligned64 a = true := decide_eq_true h
theorem len64_of {n : W32} (h0 : n ≠ 0) (h : n.toNat % 64 = 0) : len64 n = true := by simpa [len64, h] using h0

/-! ### Ends of data phases -/

/-- The only command in progress ends, on a device that keeps the ring as it was. -/
theorem ends_completeCmd {d z : Device} {c k : Cmd} (hs : SameTail d z c.hdr.ring) (hr : z.rings = d.rings) (hd : d.cmds.filter (·.handle != c.handle) = [])
    (hz : z.cmds = [k]) (hk : k.handle = c.handle ∧ k.hdr = c.hdr ∧ k.opcode = c.opcode ∧ k.mute = false) (hroom : Room d c.hdr.ring)
    (st : Status) (halt : Byte) (res : List Byte) :
    Ends d (completeCmd z c.handle st halt res) c (statusCode st) halt res ∧ completeCmd z c.handle st halt res = under z (completeCmd z c.handle st halt res) := by
  obtain ⟨hh, hhdr, hop, hm⟩ := hk
  have hf : findCmd z c.handle = some k := hh ▸ findCmd_single hz
  have hc := completed_complete (hs.room hroom) c.handle c.opcode st halt res
  rw [completeCmd_of_find hf hm, hhdr, hop]
  have hw := hc.wrote
  rw [hs.entry] at hw
  refine ⟨⟨hs.wrote hw, by rw [hc.outstanding, hr], ?_⟩, hc.rest⟩
  rw [hc.cmds, hz, hd]
  simp [hh]

/-- A READ_TENSOR whose data is complete writes it to the host and ends. -/
theorem ends_finishRead {d z : Device} {c k : Cmd} {b : ReadTensorBody} {bytes : List Byte} {t : Nat} (hz : z = { d with cmds := [k] })
    (hd : d.cmds = [c]) (hk : k.handle = c.handle ∧ k.hdr = c.hdr ∧ k.opcode = c.opcode ∧ k.mute = false) (hf : k.failed = false)
    (hdata : k.data = some (bytes, t)) (hroom : Room d c.hdr.ring) :
    Ends (writeBytes d .host b.haddr.toNat bytes) (finishRead z k b true) c 0 0 (leBytes 8 t ++ leBytes 4 bytes.length) ∧
      finishRead z k b true = under d (finishRead z k b true) := by
  have hgo : finishRead z k b true = completeCmd (writeBytes z .host b.haddr.toNat bytes) c.handle .ok 0 (leBytes 8 t ++ leBytes 4 bytes.length) := by
    simp only [finishRead, hdata, hostAccess_ok (.inl rfl), hf, hk.1]
    rfl
  have hw : writeBytes z .host b.haddr.toNat bytes = { writeBytes d .host b.haddr.toNat bytes with cmds := [k] } := by
    rw [writeBytes_host bytes d, writeBytes_host bytes z, writeBytes_host_congr bytes _ (show z.host = d.host by rw [hz]), hz]
  have hd' : writeBytes d .host b.haddr.toNat bytes = { d with host := (writeBytes d .host b.haddr.toNat bytes).host } := writeBytes_host _ _ _
  have hroom' : Room (writeBytes d .host b.haddr.toNat bytes) c.hdr.ring := by
    rw [hd']
    exact hroom
  rw [hgo]
  obtain ⟨he, hu⟩ := ends_completeCmd (d := writeBytes d .host b.haddr.toNat bytes) (c := c) (k := k)
    (z := writeBytes z .host b.haddr.toNat bytes) (by rw [hw]; exact .of_eq rfl rfl rfl) (by rw [hw]) (by rw [hd']; simp [hd])
    (by rw [hw]) hk hroom' .ok 0 (leBytes 8 t ++ leBytes 4 bytes.length)
  refine ⟨he, ?_⟩
  rw [hu, hw, hd']
  rfl

end Sys2Proof.Machine
end

section
/-! O29: the checks that the hypotheses of a tensor command pass, what its data phases leave, and the obligation. -/

open Sys2Proof.Claims

namespace Sys2Proof.Machine

/-! ### Acceptance -/

theorem tensorFail_none {d : Device} {h : CmdHdr} {b : LoadTensorBody} {t : Target} (hh : Holds d h) (ha : b.haddr.toNat % 64 = 0) (h0 : b.len ≠ 0)
    (hl : b.len.toNat % 64 = 0) (hs : b.signal = false) (hsc : b.score = 0) (hsf : b.sflag = 0)
    (hr : regionOf d h.part b.daddr b.len.toNat = some t) (hp : (getPart d h.part).clearing = false) (hc : ∀ k, (getCore d k).clearing = false)
    (hrun : ∀ k, (getDom d { part := h.part, dom := k }).st ≠ .running)
    (hw : b.weight = false ∨ ∀ w ∈ (getPart d h.part).weights, w.addr.toNat + w.len.toNat ≤ b.daddr.toNat ∨ b.daddr.toNat + b.len.toNat ≤ w.addr.toNat ∨
      (b.daddr.toNat ≤ w.addr.toNat ∧ w.addr.toNat + w.len.toNat ≤ b.daddr.toNat + b.len.toNat)) :
    tensorFail d h b none = none := by
  have hpart : h.part.val < d.config := by
    obtain ⟨hpart, -, -⟩ := hh
    exact hpart
  have hb : badField none ([targetOk d h, (8, aligned64 b.haddr), (16, (regionOf d h.part b.daddr b.len.toNat).isSome), (24, len64 b.len)] ++
      signalFields b.signal b.score b.sflag 30 32) = none := by
    refine badField_none ?_
    simp [targetOk_of hpart, aligned64_of ha, hr, len64_of h0 hl, signalFields, hs, hsc, hsf]
  have hweights : (b.weight && (getPart d h.part).weights.any fun w => overlaps w b.daddr.toNat b.len.toNat && !covers w b.daddr.toNat b.len.toNat) = false := by
    rcases hw with hw | hw
    · simp [hw]
    · simp only [Bool.and_eq_false_imp, List.any_eq_false, Bool.and_eq_true, Bool.not_eq_true', overlaps, covers, decide_eq_true_eq,
        decide_eq_false_iff_not]
      intro _ w hm
      have := hw w hm
      omega
  simp only [tensorFail, hb, orElse_none, rightsFail_holds hh]
  refine firstOf_none ?_
  simp [clearingAt_false hp hc, anyRunning_false hrun, hs, hweights]

theorem readFail_none {d : Device} {h : CmdHdr} {b : ReadTensorBody} {t : Target} (hpart : h.part.val < d.config) (hm : MayName d h.ring h.part)
    (ha : b.haddr.toNat % 64 = 0) (h0 : b.len ≠ 0) (hl : b.len.toNat % 64 = 0) (hbc : b.bctx = 0xFF) (hdp : b.dpoint.toNat ≤ 64) (hrd : b.round = 0)
    (hs : b.signal = false) (hsc : b.score = 0) (hsf : b.sflag = 0) (hr : regionOf d h.part b.saddr b.len.toNat = some t)
    (hp : (getPart d h.part).clearing = false) (hc : ∀ k, (getCore d k).clearing = false)
    (hrun : ∀ k, (getDom d { part := h.part, dom := k }).st ≠ .running) : readFail d h b none = none := by
  have hb : badField none ([targetOk d h, (8, aligned64 b.haddr), (16, (regionOf d h.part b.saddr b.len.toNat).isSome), (24, len64 b.len),
      (28, decide (b.bctx.toNat ≤ 63) || decide (b.bctx = 0xFF)), (29, decide (b.dpoint.toNat ≤ 64)), (32, !decide (b.bctx = 0xFF) || decide (b.round = 0))] ++
      signalFields b.signal b.score b.sflag 36 38) = none := by
    refine badField_none ?_
    simp [targetOk_of hpart, aligned64_of ha, hr, len64_of h0 hl, signalFields, hs, hsc, hsf, hbc, hdp, hrd]
  simp only [readFail, hb, orElse_none, rightsFail_unattached hm]
  refine firstOf_none ?_
  simp [clearingAt_false hp hc, anyRunning_false hrun, hs, hbc]

theorem loadTensor_begins {s : State} {h : CmdHdr} {b : LoadTensorBody} {t : Target} (ht : Takes s.dev h.ring h.fence)
    (hp : ∀ k, (getPond s.dev k).st = .running) (hr : regionOf s.dev h.part b.daddr b.len.toNat = some t) (hf : tensorFail s.dev h b none = none) :
    Begins (.loadTensor h b) s h 0x05 (fun _ c => c = begun s.dev h 0x05 (.loadTensor b)) (neededFor s.dev h.part b.daddr) := by
  refine begins_of_beginLong (f := fun d => loadTensor d h b none) (job := .loadTensor b) id ht rfl ?_ ⟨_, rfl, rfl⟩
  simp only [loadTensor, hf]
  rw [acceptCmd_region ht hp hr]
  rfl

theorem readTensor_begins {s : State} {h : CmdHdr} {b : ReadTensorBody} {t : Target} (ht : Takes s.dev h.ring h.fence)
    (hp : ∀ k, (getPond s.dev k).st = .running) (hr : regionOf s.dev h.part b.saddr b.len.toNat = some t) (hf : readFail s.dev h b none = none)
    (hb : b.bctx = 0xFF) (hc : ∀ c ∈ s.dev.cmds, c.handle ≠ nextHandle s.dev h.ring) :
    Begins (.readTensor h b) s h 0x09 (fun _ c => c = { begun s.dev h 0x09 (.readTensor b) with active := true }) (neededFor s.dev h.part b.saddr) := by
  refine begins_of_beginLong (f := fun d => readTensor d h b none) (job := .readTensor b)
    (fun l => l.map fun c => if c.handle = nextHandle s.dev h.ring then { c with active := true } else c) ht rfl ?_ ⟨_, ?_, rfl⟩
  · simp only [readTensor, hf]
    rw [acceptCmd_region ht hp hr, if_pos hb]
    rfl
  · have hmap : s.dev.cmds.map (fun c => if c.handle = nextHandle s.dev h.ring then { c with active := true } else c) = s.dev.cmds :=
      (List.map_congr_left fun c hm => if_neg (hc c hm)).trans (List.map_id _)
    rw [List.map_append, hmap]
    simp [begun]

/-! ### The data of a load -/

theorem readBytes_drop (d : Device) (i : MemId) (a n k : Nat) : (readBytes d i a n).drop k = readBytes d i (a + k) (n - k) := by
  refine List.ext_getElem (by simp [readBytes]) fun j h1 h2 => ?_
  simp [readBytes, Nat.add_assoc]

theorem modCmd_single {d : Device} {c : Cmd} (h : d.cmds = [c]) (f : Cmd → Cmd) : modCmd d c.handle f = { d with cmds := [f c] } := by
  simp [modCmd, h]

/-- The requests that are left of a region's cover what is left of its bytes. -/
theorem min_requests (n pos : Nat) : min (64 * (requestCount n - pos)) (n - 64 * pos) = n - 64 * pos := by
  simp only [requestCount]
  omega

/-- The requests of a load that are left move what is left of its bytes. -/
theorem loadSome_left {d : Device} {c : Cmd} {b : LoadTensorBody} {t : Target} (hc : d.cmds = [c]) (ha : d.err.armed = []) :
    ∃ k l, loadSome d c b t (requestCount b.len.toNat - c.pos) =
      { writeTarget d c.hdr.part (alongTarget t (64 * c.pos)) ((readBytes d .host b.haddr.toNat b.len.toNat).drop (64 * c.pos)) with
        cmds := [{ c with pos := k }], scratchBad := l } := by
  refine ⟨c.pos + (requestCount b.len.toNat - c.pos), ?_⟩
  simp only [loadSome, min_requests, modCmd_single hc]
  rw [readBytes_drop]
  obtain ⟨l, hl⟩ := hostWrite_nil (d := { d with cmds := [{ c with pos := c.pos + (requestCount b.len.toNat - c.pos) }] }) ha c.hdr.part
    (alongTarget t (64 * c.pos)) (readBytes d .host (b.haddr.toNat + 64 * c.pos) (b.len.toNat - 64 * c.pos))
  refine ⟨l, hl.trans ?_⟩
  rw [writeTarget, writeTargetFrom_cmds]
  rfl

/-- What a load leaves before its completion: its bytes, its weight record and its flag. -/
def loaded (d : Device) (c : Cmd) (b : LoadTensorBody) : Device :=
  raiseSignal (if b.weight then recordWeight d c.hdr.part b.daddr b.len (readBytes d .host b.haddr.toNat b.len.toNat) else d) b.signal b.score b.sflag

/-- What the end of a load changes beside its bytes. -/
theorem loaded_rest (d : Device) (c : Cmd) (b : LoadTensorBody) : ∃ k m, loaded d c b = { d with cores := k, parts := m } := by
  unfold loaded raiseSignal
  split <;> split <;> exact ⟨_, _, rfl⟩

/-- The end of a load whose requests all act. -/
theorem loadTensorDone_eq {d : Device} {c : Cmd} {b : LoadTensorBody} {t : Target} (hc : d.cmds = [c]) (hj : c.job = .loadTensor b)
    (hr : regionOf d c.hdr.part b.daddr b.len.toNat = some t) (hdue : requestsDue d c.hdr.part = false) (hi : cmdIsolated d c = false)
    (hl : cmdLost d c = false) (hf : c.failed = false) (ha : d.err.armed = [])
    (hs : b.signal = true → (getCore d (scoreCtx b.score).core).inReset = false) :
    loadTensorDone d c.handle true = completeCmd (loaded (loadSome d c b t (requestCount b.len.toNat - c.pos)) c b) c.handle .ok 0 [] := by
  obtain ⟨k, l, hk⟩ := loadSome_left (b := b) (t := t) hc ha
  obtain ⟨_, _, _, _, hw⟩ := writeTargetFrom_rest c.hdr.part (alongTarget t (64 * c.pos)) ((readBytes d .host b.haddr.toNat b.len.toNat).drop (64 * c.pos)) d 0
  generalize hz : loadSome d c b t (requestCount b.len.toNat - c.pos) = z
  have hcores : z.cores = d.cores := by rw [← hz, hk, writeTarget, hw]
  have hheld : ∀ x : Device, x.cores = z.cores → signalHeld x b.signal b.score = false := fun x hx => by
    cases hsig : b.signal
    · rfl
    · simpa [signalHeld, getCore, hx, hcores] using hs hsig
  have hheld' : signalHeld (if b.weight then recordWeight z c.hdr.part b.daddr b.len (readBytes z .host b.haddr.toNat b.len.toNat) else z) b.signal b.score
      = false := hheld _ (by split <;> rfl)
  simp only [loadTensorDone, findCmd_single hc, hj, hr, hdue, hl, hi, hostAccess_ok (.inr ha), hf, hz, hheld']
  rfl

theorem flagPend_loaded (d : Device) (c : Cmd) (b : LoadTensorBody) (h : b.signal = true) :
    (getCore (loaded d c b) (scoreCtx b.score).core).flagPend = (getCore d (scoreCtx b.score).core).flagPend ++
      [.add (BitVec.ofNat 8 (physFlag (isSplit d (scoreCtx b.score).core) (scoreCtx b.score).ctx b.sflag).val) 1] := by
  have hp : ∀ x : Device, x.cores = d.cores → (getCore (raiseSignal x b.signal b.score b.sflag) (scoreCtx b.score).core).flagPend =
      (getCore d (scoreCtx b.score).core).flagPend ++
        [.add (BitVec.ofNat 8 (physFlag (isSplit d (scoreCtx b.score).core) (scoreCtx b.score).ctx b.sflag).val) 1] := fun x hx => by
    rw [raiseSignal, h, if_pos rfl, pendAdd, pendFlag, getCore_modCore_same]
    simp [getCore, isSplit, hx]
  exact hp _ (by split <;> rfl)

theorem weights_loaded (d : Device) (c : Cmd) (b : LoadTensorBody) :
    (b.weight = false → (getPart (loaded d c b) c.hdr.part).weights = (getPart d c.hdr.part).weights) ∧
    (b.weight = true →
      { space := BitVec.ofNat 8 (b.daddr.toNat / 2 ^ 44), addr := b.daddr, len := b.len, digest := sha384 (readBytes d .host b.haddr.toNat b.len.toNat) } ∈
        (getPart (loaded d c b) c.hdr.part).weights) := by
  have hp : ∀ x : Device, getPart (raiseSignal x b.signal b.score b.sflag) c.hdr.part = getPart x c.hdr.part := fun x => by
    unfold raiseSignal
    split <;> rfl
  refine ⟨fun hw => ?_, fun hw => ?_⟩
  · rw [loaded, hp, hw]
    rfl
  · rw [loaded, hp, hw, if_pos rfl, recordWeight, getPart_modPart_same]
    simp

/-! ### The data of a read -/

/-- A READ_TENSOR whose data is complete with the bytes that were left. -/
def gathered (d : Device) (c : Cmd) (b : ReadTensorBody) (t : Target) (k : Nat) : Cmd :=
  let bytes := c.got ++ readTarget d c.hdr.part (alongTarget t (64 * c.pos)) (b.len.toNat - 64 * c.pos)
  { c with pos := k, got := bytes, data := some (bytes, c.round) }

/-- The requests of a read that are left, where no word is bad, gather what is left of its bytes. -/
theorem captureRead_eq {d : Device} {c : Cmd} {b : ReadTensorBody} {t : Target} (hc : d.cmds = [c])
    (hr : regionOf d c.hdr.part b.saddr b.len.toNat = some t) (hdue : requestsDue d c.hdr.part = false) (hi : cmdIsolated d c = false)
    (hl : cmdLost d c = false) (ha : d.err.armed = []) (hbad : d.scratchBad = []) (hs : b.signal = false) :
    ∃ k, captureRead d c b = { d with cmds := [gathered d c b t k] } := by
  refine ⟨c.pos + (requestCount b.len.toNat - c.pos), ?_⟩
  have hsome : readSome d c b t (requestCount b.len.toNat - c.pos) = { d with cmds := [{ c with
      pos := c.pos + (requestCount b.len.toNat - c.pos)
      got := c.got ++ readTarget d c.hdr.part (alongTarget t (64 * c.pos)) (b.len.toNat - 64 * c.pos) }] } := by
    simp only [readSome, min_requests, hostRead_nil ha hbad, modCmd_single hc]
  simp only [captureRead, hr, hdue, hl, hi, hsome, Bool.false_or, Bool.false_eq_true, if_false]
  simp [readEnd, findCmd, signalHeld, raiseSignal, hs, modCmd, gathered]

/-! ### The output and its deadline -/

theorem pointTime_zero (d : Device) (i : DomId) : pointTime d i 0 = none := by
  unfold pointTime
  split <;> simp

theorem readDone_complete {d : Device} {c : Cmd} {b : ReadTensorBody} {x : List Byte × Nat} (hc : d.cmds = [c]) (hj : c.job = .readTensor b)
    (hh : c.held = false) (hb : c.begun = true) (hf : c.failed = false) (hd : c.data = some x) (ok : Bool) :
    readDone d c.handle ok = deliverRead d c b ok := by
  simp [readDone, findCmd_single hc, hj, hh, hb, hf, hd]

end Sys2Proof.Machine

open Sys2Proof.Machine

/-- Settles O29: acceptance opens the command; the ends go through the completion of the only command in progress. -/
theorem tensorsMove : Obligations.TensorsMove := by
  unfold Obligations.TensorsMove
  refine ⟨fun s h b ht hh ha h0 hl hs hsc hsf hr hp hcl hcc hrun hw => ?_, fun s c b t hc hj hm hroom hr hdue hi hlost hf harm hs => ?_,
    fun s h b ht hpart hm ha h0 hl hbc hdp hrd hs hsc hsf hr hp hcl hcc hrun hcmds => ?_, fun s c b hc hj hact hb hf hi => ?_,
    fun s c b t hc hj hh hb hd hf hm hr hdue hi hlost harm hbad hs hdp hroom => ?_,
    fun s c b bytes t hc hj hh hb hf hm hd hpt hroom => ?_, fun s c b bytes t r g p x hc hj hh hb hf hd hrun hprog hpace hdp hx hmiss hlt => ?_,
    fun s i c b bytes t hc hj hip hid hh hf hm hd hrel hroom => ?_, fun s i c b hc hj hrel => ?_⟩
  · obtain ⟨t, hr⟩ := hr
    exact loadTensor_begins ht hp hr (tensorFail_none hh ha h0 hl hs hsc hsf hr hcl hcc hrun hw)
  · obtain ⟨k, l, hk⟩ := loadSome_left (b := b) (t := t) hc harm
    obtain ⟨_, _, _, _, hx⟩ := writeTargetFrom_rest c.hdr.part (alongTarget t (64 * c.pos)) ((readBytes s.dev .host b.haddr.toNat b.len.toNat).drop (64 * c.pos)) s.dev 0
    have hgo := loadTensorDone_eq hc hj hr hdue hi hlost hf harm hs
    generalize loadSome s.dev c b t (requestCount b.len.toNat - c.pos) = z at hk hgo
    obtain ⟨km, m, hrest⟩ := loaded_rest z c b
    have hbytes : readBytes z .host b.haddr.toNat b.len.toNat = readBytes s.dev .host b.haddr.toNat b.len.toNat :=
      readBytes_host_congr (by rw [hk, writeTarget, hx]) _ _
    have hcores : z.cores = s.dev.cores := by rw [hk, writeTarget, hx]
    have hparts : z.parts = s.dev.parts := by rw [hk, writeTarget, hx]
    obtain ⟨hends, hu⟩ := ends_completeCmd (d := s.dev) (z := loaded z c b) (c := c) (k := { c with pos := k })
      (.of_eq (by rw [hrest, hk, writeTarget, hx]) (by rw [hrest, hk, writeTarget, hx]) (by rw [hrest, hk, writeTarget, hx]))
      (by rw [hrest, hk, writeTarget, hx]) (by simp [hc]) (by rw [hrest, hk]) ⟨rfl, rfl, rfl, hm⟩ hroom .ok 0 []
    obtain ⟨hw0, hw1⟩ := weights_loaded z c b
    rw [hbytes] at hw1
    refine answers_of_onDev (f := fun d => loadTensorDone d c.handle true) rfl hgo ⟨hends, ?_, ?_, ?_, ?_, ?_, fun h0 => ?_, fun h1 => ?_, fun h1 => ?_⟩
    · rw [hu, hrest, hk]; rfl
    · rw [hu, hrest, hk]; rfl
    · rw [hu, hrest, hk]; rfl
    · rw [hu, hrest, hk]; rfl
    · rw [hu, hrest, hk, writeTarget, hx]; rfl
    · rw [hu]
      exact (hw0 h0).trans (by simp [getPart, hparts])
    · rw [hu]
      exact hw1 h1
    · rw [hu]
      exact (flagPend_loaded z c b h1).trans (by simp [getCore, isSplit, hcores])
  · obtain ⟨t, hr⟩ := hr
    exact readTensor_begins ht hp hr (readFail_none hpart hm ha h0 hl hbc hdp hrd hs hsc hsf hr hcl hcc hrun) hbc hcmds
  · have hgo : readCapture s.dev c.handle = { s.dev with cmds := [{ c with begun := true }] } := by
      simp [readCapture, findCmd_single hc, hj, hact, hb, hf, hi, modCmd_single hc]
    exact gives_of_onDev (f := fun d => readCapture d c.handle) rfl hgo
  · obtain ⟨k, hk⟩ := captureRead_eq hc hr hdue hi hlost harm hbad hs
    have hgo : readDone s.dev c.handle true = finishRead (captureRead s.dev c b) (gathered s.dev c b t k) b true := by
      have hfind : findCmd (captureRead s.dev c b) c.handle = some (gathered s.dev c b t k) := by
        rw [hk]
        exact findCmd_single (c := gathered s.dev c b t k) rfl
      have hdel : deliverRead (captureRead s.dev c b) (gathered s.dev c b t k) b true =
          finishRead (captureRead s.dev c b) (gathered s.dev c b t k) b true := by
        have h0 : b.dpoint.toNat = 0 := by rw [hdp]; rfl
        rw [deliverRead, h0, pointTime_zero]
      simp only [readDone, findCmd_single hc, hj, hh, hb, hf, hd, Option.isNone_none, if_true, hfind]
      exact hdel
    obtain ⟨he, hu⟩ := ends_finishRead (b := b) hk hc ⟨rfl, rfl, rfl, hm⟩ hf rfl hroom
    refine answers_of_onDev (f := fun d => readDone d c.handle true) rfl hgo ⟨he, ?_⟩
    rw [hu]
    exact ⟨rfl, rfl, rfl, rfl⟩
  · have hgo : readDone s.dev c.handle true = finishRead s.dev c b true := by
      rw [readDone_complete hc hj hh hb hf hd, deliverRead]
      split
      · rename_i x hx
        rw [if_neg (Nat.not_lt.2 (hpt x hx))]
      · rfl
    exact answers_of_onDev (f := fun d => readDone d c.handle true) rfl hgo
      (ends_finishRead (by rw [← hc]) hc ⟨rfl, rfl, rfl, hm⟩ hf hd hroom)
  · have hpt : pointTime s.dev { part := c.hdr.part, dom := c.hdr.dom } b.dpoint.toNat = some ((r.paceStart + x.2) * 16 - 16 * r.elapsed) := by
      have h0 : b.dpoint.toNat ≠ 0 := fun h => hdp (BitVec.eq_of_toNat_eq h)
      simp [pointTime, hrun, hprog, hpace, h0, hmiss, hx]
    refine gives_of_onDev (f := fun d => readDone d c.handle true) rfl ?_
    simp only [readDone_complete hc hj hh hb hf hd, deliverRead, hpt]
    rw [if_pos hlt, modCmd_single hc]
    simp [hf]
  · have hgo : pacedRelease s.dev i = finishRead s.dev c b true := by
      simp [pacedRelease, hc, hh, hip, hid, forAll, hj, Nat.not_lt.2 hrel, hf]
    exact answers_of_onDev (f := fun d => pacedRelease d i) rfl hgo (ends_finishRead (by rw [← hc]) hc ⟨rfl, rfl, rfl, hm⟩ hf hd hroom)
  · refine gives_of_onDev (f := fun d => pacedRelease d i) rfl ?_
    simp only [pacedRelease, hc, List.filter_cons, List.filter_nil]
    split
    · simp [forAll, hj, hrel]
    · rfl
end

section
/-! The banks of a core as rules, which the start and the end of a run and the power-down of a bank use. -/

open Sys2Proof.Claims

namespace Sys2Proof.Machine

/-- A fold of steps each of which leaves the device as it is. -/
theorem forAll_id {α : Type} {f : Device → α → Device} {d : Device} {l : List α} (h : ∀ x ∈ l, f d x = d) : forAll l d f = d := by
  induction l with
  | nil => rfl
  | cons x l ih =>
    change forAll l (f d x) f = d
    rw [h x (by simp)]
    exact ih fun y hy => h y (by simp [hy])

theorem forAll_single {α : Type} (f : Device → α → Device) (d : Device) (x : α) : forAll [x] d f = f d x := rfl

theorem modUnit_eq_self {d : Device} {c : CtxId} {f : CtxUnit → CtxUnit} (h : f (getUnit d c) = getUnit d c) : modUnit d c f = d := by
  have hu : vmod (getCore d c.core).units c.ctx f = (getCore d c.core).units := by
    rw [vmod_eq_const]
    change vset _ _ (f (getUnit d c)) = _
    rw [h]
    simp [vset, getUnit, vget]
  have hc : modCore d c.core (fun k => { k with units := vmod k.units c.ctx f }) = modCore d c.core fun _ => getCore d c.core := by
    simp only [modCore, vmod]
    change { d with cores := vset d.cores c.core { getCore d c.core with units := vmod (getCore d c.core).units c.ctx f } } = _
    rw [hu]
  rw [modUnit, hc]
  exact modCore_id d c.core

/-! ### The power of banks -/

/-- What powering banks of a core may change: the banks' bytes, and which of the core's banks are on or wait. -/
structure BankSteps (k : CoreId) (d e : Device) : Prop where
  rest : e = { d with cores := e.cores, scratch := e.scratch, scratchBad := e.scratchBad }
  other : ∀ j, j ≠ k → getCore e j = getCore d j
  core : ∃ on w, getCore e k = { getCore d k with bankOn := on, pdWait := w }

namespace BankSteps

theorem refl (k : CoreId) (d : Device) : BankSteps k d d := ⟨rfl, fun _ _ => rfl, _, _, rfl⟩

theorem trans {k : CoreId} {d x e : Device} (h : BankSteps k d x) (g : BankSteps k x e) : BankSteps k d e where
  rest := by rw [g.rest, h.rest]
  other j hj := (g.other j hj).trans (h.other j hj)
  core := by
    obtain ⟨_, _, hc⟩ := h.core
    obtain ⟨on, w, gc⟩ := g.core
    exact ⟨on, w, by rw [gc, hc]⟩

theorem all {α : Type} {k : CoreId} {f : Device → α → Device} (h : ∀ e x, BankSteps k e (f e x)) (l : List α) : ∀ d, BankSteps k d (forAll l d f) := by
  induction l with
  | nil => exact refl k
  | cons x l ih => exact fun d => (h d x).trans (ih _)

theorem clear (k : CoreId) (d : Device) (b : Fin 32) : BankSteps k d (bankClear d k b) := ⟨rfl, fun _ _ => rfl, _, _, rfl⟩

theorem modCore {k : CoreId} (d : Device) {f : Core → Core} (h : ∀ x, ∃ on w, f x = { x with bankOn := on, pdWait := w }) :
    BankSteps k d (modCore d k f) := by
  refine ⟨rfl, fun j hj => getCore_modCore_other _ _ _ _ (Ne.symm hj), ?_⟩
  rw [getCore_modCore_same]
  exact h _

end BankSteps

theorem bankSteps_offNow (d : Device) (k : CoreId) (b : Fin 32) : BankSteps k d (bankOffNow d k b) :=
  (BankSteps.clear k d b).trans (BankSteps.modCore _ fun _ => ⟨_, _, rfl⟩)

theorem bankSteps_onNow (d : Device) (k : CoreId) (b : Fin 32) : BankSteps k d (bankOnNow d k b) := by
  refine .trans ?_ (BankSteps.modCore _ fun _ => ⟨_, _, rfl⟩)
  split
  · exact .refl k d
  · exact .clear k d b

theorem bankSteps_request (d : Device) (k : CoreId) (b : Fin 32) : BankSteps k d (bankRequest d k b) := by
  unfold bankRequest
  simp only []
  split
  · exact .refl k d
  · split
    · exact bankSteps_offNow d k b
    · exact BankSteps.modCore d fun _ => ⟨_, _, rfl⟩

theorem bankSteps_settle (d : Device) (c : CtxId) : BankSteps c.core d (bankSettle d c) := by
  refine BankSteps.all (fun e b => ?_) _ _
  split
  · exact bankSteps_request e c.core b
  · exact bankSteps_onNow e c.core b

end Sys2Proof.Machine
end

section
/-! O30: the acceptance of RUN, the first tick, the activity ramp, and the end of a run. -/

open Sys2Proof.Claims

namespace Sys2Proof.Machine

theorem vget_map {α β : Type} {n : Nat} (v : Vector α n) (f : α → β) (i : Fin n) : vget (v.map f) i = f (vget v i) := by simp [vget]

/-- An update of a domain depends on that domain alone. -/
theorem modDom_congr {d : Device} {i : DomId} {f g : Domain → Domain} (h : f (getDom d i) = g (getDom d i)) : modDom d i f = modDom d i g := by
  unfold getDom getPart at h
  simp only [modDom, modPart, vmod]
  rw [h]

/-! ### The refreshes of RUN (R50) -/

theorem owed_issueRefresh (p : Pch) (n : Nat) (w : Bool) (now : Nat) : (issueRefresh p n w now).owed = p.owed := by
  unfold issueRefresh
  simp only []
  split
  · rfl
  · split <;> rfl

/-- Refreshes issued at RUN change the stacks alone. -/
theorem runRefresh_rest (d : Device) (p : PartId) : ∃ h, runRefresh d p = { d with hbmStat := h } := by
  unfold runRefresh
  generalize stacksOf d p = l
  induction l generalizing d with
  | nil => exact ⟨d.hbmStat, rfl⟩
  | cons s l ih =>
    obtain ⟨h, hh⟩ := ih (modStack d s fun x => { x with pchs := x.pchs.map fun p => issueRefresh { p with owed := 0 } p.owed false d.clock.elapsed })
    exact ⟨h, hh⟩

/-- At RUN the stacks of the partition owe nothing. -/
theorem owed_runRefresh (d : Device) (p : PartId) (m : Fin 8) (k : Fin 32) (h : partOfStack d m = p) :
    (vget (vget (runRefresh d p).hbmStat m).pchs k).owed = 0 := by
  have hstep : ∀ (e : Device) (s j : Fin 8), j = s ∨ (∀ k, (vget (vget e.hbmStat j).pchs k).owed = 0) → ∀ k,
      (vget (vget (modStack e s fun x => { x with pchs := x.pchs.map fun p => issueRefresh { p with owed := 0 } p.owed false e.clock.elapsed }).hbmStat j).pchs k).owed = 0 := by
    intro e s j hj k
    by_cases hs : j = s
    · subst hs
      rw [stack_modStack_same]
      simp only [vget_map, owed_issueRefresh]
    · rw [modStack, vget_vmod_other _ _ _ _ (Ne.symm hs)]
      exact hj.resolve_left hs k
  have hall : ∀ (l : List (Fin 8)) (e : Device), (m ∈ l ∨ ∀ k, (vget (vget e.hbmStat m).pchs k).owed = 0) →
      ∀ k, (vget (vget (forAll l e fun d s => modStack d s fun x => { x with
        pchs := x.pchs.map fun p => issueRefresh { p with owed := 0 } p.owed false d.clock.elapsed }).hbmStat m).pchs k).owed = 0 := by
    intro l
    induction l with
    | nil => exact fun e he => he.resolve_left (by simp)
    | cons s l ih =>
      intro e he
      refine ih _ ?_
      by_cases hs : m = s
      · exact .inr (hstep e s m (.inl hs))
      · rcases he with he | he
        · exact .inl ((List.mem_cons.1 he).resolve_left hs)
        · exact .inr (hstep e s m (.inr he))
  exact hall _ d (.inl (by simp [stacksOf, h])) k

/-! ### RUN -/

theorem runFail_none {d : Device} {h : CmdHdr} {b : RunBody} {g : Program} (hh : Holds d h) (hb : b.restore = false) (hi : b.image = 0) (hl : b.ilen = 0)
    (hst : (getDom d (cmdDom h)).st = .loaded ∨ (getDom d (cmdDom h)).st = .ended ∨ (getDom d (cmdDom h)).st = .halted)
    (hg : (getDom d (cmdDom h)).prog = some g) (hf : needsFabric g = false) (hr : (getDom d (cmdDom h)).runHandle = none)
    (hp : (getPart d h.part).clearing = false) (hc : ∀ k, (getCore d k).clearing = false) (hcmds : d.cmds = []) : runFail d h b none = none := by
  have hpart : h.part.val < d.config := by
    obtain ⟨hpart, -, -⟩ := hh
    exact hpart
  have hbad : badField none [targetOk d h, (24, if b.restore then aligned64 b.image else b.image = 0), (32, if b.restore then len64 b.ilen else b.ilen = 0)] = none := by
    refine badField_none ?_
    simp [targetOk_of hpart, hb, hi, hl]
  have hdom : domState d (cmdDom h) = (getDom d (cmdDom h)).st := by
    unfold domState
    rcases hst with h | h | h <;> simp [h]
  simp only [runFail, hbad, orElse_none, rightsFail_holds hh, hdom, hg, hf]
  simp only [hb]
  rw [firstOf_none]
  · rfl
  · rcases hst with h | h | h <;> simp [h, hp, hc, handlePending, hr, weightLoading, hcmds]

/-- What RUN makes of the device before its entry. -/
theorem beginRun_rest (d : Device) (i : DomId) (hd : W32) (b : RunBody) : ∃ h p, beginRun d i hd b = { d with hbmStat := h, parts := p } := by
  unfold beginRun
  simp only []
  obtain ⟨h, hh⟩ := runRefresh_rest (modDom d i fun m => { m with
    st := .running, run := some (freshRun (getPart d i.part).openMode b.session), runHandle := some hd, pennant := none, overlay := 0, overlays := false
    weightsAtRun := weightsDigest (getPart d i.part), restoreDigest := if b.restore then sha384 (runImage d b) else 0 }) i.part
  exact ⟨h, _, hh⟩

theorem getDom_beginRun (d : Device) (i : DomId) (hd : W32) (b : RunBody) : getDom (beginRun d i hd b) i = { getDom d i with
    st := .running, run := some (freshRun (getPart d i.part).openMode b.session), runHandle := some hd, pennant := none, overlay := 0, overlays := false
    weightsAtRun := weightsDigest (getPart d i.part), restoreDigest := if b.restore then sha384 (runImage d b) else 0 } := by
  unfold beginRun
  simp only []
  obtain ⟨h, hh⟩ := runRefresh_rest (modDom d i fun m => { m with
    st := .running, run := some (freshRun (getPart d i.part).openMode b.session), runHandle := some hd, pennant := none, overlay := 0, overlays := false
    weightsAtRun := weightsDigest (getPart d i.part), restoreDigest := if b.restore then sha384 (runImage d b) else 0 }) i.part
  rw [hh]
  exact getDom_modDom_same _ _ _

theorem run_begins {s : State} {h : CmdHdr} {b : RunBody} (ht : Takes s.dev h.ring h.fence) (hb : b.restore = false) (hf : runFail s.dev h b none = none) :
    Begins (.run h b) s h 0x06 (fun _ c => c = begun s.dev h 0x06 (.run [])) (beginRun (fetched s.dev h.ring) (cmdDom h) (nextHandle s.dev h.ring) b) := by
  have him : runImage (fetched s.dev h.ring) b = [] := by simp [runImage, hb]
  refine begins_of_beginLong (f := fun d => run d h b none) (job := .run []) id ht rfl ?_ ⟨_, rfl, rfl⟩
  obtain ⟨x, p, hx⟩ := beginRun_rest (fetched s.dev h.ring) (cmdDom h) (nextHandle s.dev h.ring) b
  have hn : noteReadFail s.dev h b.restore none = s.dev := by simp [noteReadFail, hb]
  simp only [run, hf, hn]
  rw [acceptCmd_taken ht, him, hx]
  rfl

/-! ### The ramp (R431) -/

theorem rampStep_eq {d : Device} {i : DomId} {r : Run} (hr : (getDom d i).run = some r) (hs : r.started = true) (hst : r.stalled = false)
    (hre : r.restored = false) (hramp : r.ramp = 0) (ht : r.tick < 128) (hk : r.rampStep ≤ r.tick / 16) :
    rampStep d i = modRun d i fun r => { r with rampStep := r.rampStep + 1 } := by
  have hdue : rampDue r = true := by simp [rampDue, rampTick, hs, hst, hre, hramp, ht, Nat.lt_succ_of_le hk]
  refine modDom_congr ?_
  simp [hr, hdue]

/-! ### What the clearing leaves in a core (R27) -/

theorem vget_vmapi {α : Type} {n : Nat} (v : Vector α n) (f : Fin n → α → α) (i : Fin n) : vget (vmapi v f) i = f i (vget v i) := by simp [vmapi, vget]

theorem vget_setOwn_whole {α : Type} {n : Nat} (x : Fin 2) (v : Vector α n) (f : Nat → α → α) (i : Fin n) : vget (setOwn false x v f) i = f i.val (vget v i) := by
  simp [setOwn, vget_vmapi]

theorem seqs_startCore (g : Program) (c : CoreSect) (k : Core) (x : Bool) : vget (startCore g c k).seqs (seqOf c.ctx x).seq = startSeq c x := by
  have hmine : (!c.split || decide ((seqOf c.ctx x).seq.val / 2 = c.ctx.ctx.val)) = true := by
    have := c.ctx.ctx.isLt
    have hv : (seqOf c.ctx x).seq.val = 2 * c.ctx.ctx.val + if x then 1 else 0 := by
      simp only [seqOf, finMod]
      split <;> omega
    have hd : (seqOf c.ctx x).seq.val / 2 = c.ctx.ctx.val := by
      rw [hv]
      split <;> omega
    simp [hd]
  simp only [startCore, vget_vmapi, hmine, if_true]
  cases x
  · rw [if_pos (show (seqOf c.ctx false).seq = accSeq c.ctx from rfl)]
  · have hne : (seqOf c.ctx true).seq ≠ accSeq c.ctx := by
      intro h
      have hv := congrArg Fin.val h
      have := c.ctx.ctx.isLt
      simp only [accSeq, seqOf, finMod] at hv
      simp at hv
      omega
    rw [if_neg hne, if_pos (show (seqOf c.ctx true).seq = execSeq c.ctx from rfl)]

theorem bound_startCore (g : Program) (c : CoreSect) (k : Core) (x : Fin 2) : (vget (startCore g c k).units x).bound = (vget k.units x).bound := by
  have hm : ∀ (v : Vector CtxUnit 2) (y : Fin 2) (f : CtxUnit → CtxUnit), (∀ u, (f u).bound = u.bound) → (vget (vmod v y f) x).bound = (vget v x).bound := by
    intro v y f hf
    by_cases hy : y = x
    · subst hy
      rw [vget_vmod_same, hf]
    · rw [vget_vmod_other _ _ _ _ hy]
  simp only [startCore]
  refine (hm _ _ _ ?_).trans (hm _ _ _ ?_)
  · exact fun _ => rfl
  · exact fun _ => rfl

/-- A cleared stream, and where it starts. -/
theorem startSeq_spec (c : CoreSect) (x : Bool) :
    (∀ n, vget (startSeq c x).sregs n = 0) ∧ (∀ n, vget (startSeq c x).pregs n = 0) ∧ (startSeq c x).loops = [] ∧
      ((if x then c.execute else c.access) = true → (startSeq c x).st = .running ∧ (startSeq c x).pc = (if x then c.xEntry else c.aEntry) ∧
        (startSeq c x).winLo = (if x then c.xLo else c.aLo) ∧ (startSeq c x).winHi = (if x then c.xHi else c.aHi)) ∧
      ((if x then c.execute else c.access) = false → (startSeq c x).st = .idle) := by
  have hz : (∀ n, vget Sequencer.reset.sregs n = 0) ∧ (∀ n, vget Sequencer.reset.pregs n = 0) ∧ Sequencer.reset.loops = [] ∧
      Sequencer.reset.st = .idle := by
    refine ⟨fun n => ?_, fun n => ?_, rfl, rfl⟩ <;> simp [Sequencer.reset, vget]
  obtain ⟨hs, hp, hl, hst⟩ := hz
  unfold startSeq
  simp only []
  by_cases ha : (if x then c.execute else c.access) = true
  · rw [if_pos ha]
    exact ⟨hs, hp, hl, fun _ => ⟨rfl, rfl, rfl, rfl⟩, fun h => by rw [ha] at h; cases h⟩
  · rw [if_neg ha]
    exact ⟨hs, hp, hl, fun h => absurd h ha, fun _ => hst⟩

/-- What the clearing of an unsplit core empties. -/
theorem startCore_whole (g : Program) (c : CoreSect) (k : Core) (hs : c.split = false) :
    (∀ f, vget (startCore g c k).flags f = 0) ∧ (∀ n, vget (startCore g c k).vregs n = 0) ∧ (∀ n, (vget (startCore g c k).lqs n).entries = []) ∧
      (∀ n, vget (startCore g c k).mqs n = MsgQueue.reset) ∧ (∀ n, vget (startCore g c k).rowAcc n = RowAcc.reset) := by
  refine ⟨fun f => ?_, fun n => ?_, fun n => ?_, fun n => ?_, fun n => ?_⟩ <;> simp only [startCore, hs, vget_setOwn_whole]
  rw [vget_vmapi]
  rfl

/-! ### The ledger of the first tick -/

/-- What noting the ledger of a core may change: its units, whose bounds stay. -/
structure UnitsOnly (c : CtxId) (d e : Device) : Prop where
  rest : e = { d with cores := e.cores }
  other : ∀ j, j ≠ c.core → getCore e j = getCore d j
  core : ∃ un, getCore e c.core = { getCore d c.core with units := un }
  bound : (getUnit e c).bound = (getUnit d c).bound

theorem UnitsOnly.refl (c : CtxId) (d : Device) : UnitsOnly c d d := ⟨rfl, fun _ _ => rfl, ⟨_, rfl⟩, rfl⟩

theorem UnitsOnly.trans {c : CtxId} {d x e : Device} (h : UnitsOnly c d x) (g : UnitsOnly c x e) : UnitsOnly c d e where
  rest := by rw [g.rest, h.rest]
  other j hj := (g.other j hj).trans (h.other j hj)
  core := by
    obtain ⟨_, hc⟩ := h.core
    obtain ⟨un, gc⟩ := g.core
    exact ⟨un, by rw [gc, hc]⟩
  bound := g.bound.trans h.bound

theorem unitsOnly_modUnit (d : Device) (c : CtxId) {f : CtxUnit → CtxUnit} (h : ∀ u, (f u).bound = u.bound) : UnitsOnly c d (modUnit d c f) where
  rest := rfl
  other _ hj := getCore_modCore_other _ _ _ _ (Ne.symm hj)
  core := ⟨_, getCore_modCore_same _ _ _⟩
  bound := by rw [getUnit_modUnit_same, h]

theorem unitsOnly_noteLedger {d : Device} {i : DomId} {c : CtxId} (h : ∀ x ∈ domCtxs d i, x = c) : UnitsOnly c d (noteLedger d i) := by
  unfold noteLedger
  split
  · exact .refl c d
  · rename_i r hr
    clear hr
    generalize domCtxs d i = l at h
    induction l generalizing d with
    | nil => exact .refl c d
    | cons x l ih =>
      obtain rfl := h x (by simp)
      refine .trans ?_ (ih fun y hy => h y (by simp [hy]))
      beta_reduce
      split
      · exact .refl x d
      · exact unitsOnly_modUnit d x fun _ => rfl

/-- The contexts of a domain whose program has one core section. -/
theorem domCtxs_single {d : Device} {i : DomId} {g : Program} {c : CoreSect} (hg : (getDom d i).prog = some g) (hc : g.cores = [c]) :
    ∀ x ∈ domCtxs d i, x = c.ctx := by
  intro x hx
  simp only [domCtxs, hg, hc, List.any_cons, List.any_nil, Bool.or_false, List.mem_flatMap, List.mem_filterMap] at hx
  obtain ⟨_, _, _, _, hx⟩ := hx
  split at hx
  · rename_i he
    obtain rfl := Option.some.inj hx
    exact (of_decide_eq_true he).symm
  · cases hx

theorem deliverWaiting_id {d : Device} {p : PartId} (h : ∀ i ∈ domsOf p, (getDom d i).assembling = []) : deliverWaiting d p = d := by
  refine forAll_id fun i hi => ?_
  rw [h i hi]
  rfl

/-! ### The first tick -/

/-- The device as the clearing of a program's cores, banks and barriers leaves it. -/
def clearedFor (d : Device) (i : DomId) (g : Program) : Device :=
  let d := forAll g.cores d fun d s => modCore d s.ctx.core (startCore g s)
  let d := forAll g.cores d fun d s => modCore d s.ctx.core fun k => { k with runOff := k.runOff ||| maskBanks s }
  let d := forAll g.cores d fun d s => bankSettle d s.ctx
  forAll (claimed d i) d fun d k => modBar d k startBarrier

/-- The device as a run without an image begins, before its ledger is noted. -/
def begunRun (d : Device) (i : DomId) (g : Program) : Device :=
  modRun (modDom (freshCredit d i) i fun m => { m with inSeq := [], assembling := keptMessages m.assembling }) i (startRun g none (nowNs d))

theorem runStart_eq {d : Device} {i : DomId} {g : Program} (h : startDue d i = true) (hg : (getDom d i).prog = some g)
    (him : restoreImage d (getDom d i) = none) :
    runStart d i = deliverWaiting (noteLedger (begunRun (clearedFor d i g) i g) i) i.part := by
  have hn : ∀ x : Device, nowNs (modDom (freshCredit x i) i fun m => { m with inSeq := [], assembling := keptMessages m.assembling }) = nowNs x := fun x => by
    unfold freshCredit
    split <;> rfl
  simp only [runStart, h, hg, him, Bool.not_true, Bool.false_eq_true, if_false, Option.isSome_none, hn]
  rfl

theorem barriers_only (l : List (Fin 64)) (d : Device) (f : Barrier → Barrier) : ∃ b, forAll l d (fun d k => modBar d k f) = { d with barriers := b } := by
  induction l generalizing d with
  | nil => exact ⟨d.barriers, rfl⟩
  | cons k l ih =>
    obtain ⟨b, hb⟩ := ih (modBar d k f)
    exact ⟨b, hb⟩

/-- The clearing of a program of one core section: the core, its banks, and the barriers. -/
theorem clearedFor_single {d : Device} {i : DomId} {g : Program} {c : CoreSect} (hc : g.cores = [c]) :
    (∃ b, clearedFor d i g = { d with cores := (clearedFor d i g).cores, scratch := (clearedFor d i g).scratch, scratchBad := (clearedFor d i g).scratchBad, barriers := b }) ∧
    (∀ j, j ≠ c.ctx.core → getCore (clearedFor d i g) j = getCore d j) ∧
    ∃ on w off, getCore (clearedFor d i g) c.ctx.core = { startCore g c (getCore d c.ctx.core) with bankOn := on, pdWait := w, runOff := off } := by
  have hb := bankSteps_settle (modCore (modCore d c.ctx.core (startCore g c)) c.ctx.core fun k => { k with runOff := k.runOff ||| maskBanks c }) c.ctx
  generalize hx : bankSettle (modCore (modCore d c.ctx.core (startCore g c)) c.ctx.core fun k => { k with runOff := k.runOff ||| maskBanks c }) c.ctx = x at hb
  have hd : clearedFor d i g = forAll (claimed x i) x fun d k => modBar d k startBarrier := by
    simp only [clearedFor, hc, forAll_single, hx]
  obtain ⟨b, hbar⟩ := barriers_only (claimed x i) x startBarrier
  obtain ⟨hrest, hother, on, w, hcore⟩ := hb
  rw [getCore_modCore_same, getCore_modCore_same] at hcore
  rw [hd, hbar]
  refine ⟨⟨b, ?_⟩, fun j hj => ?_, on, w, _, hcore⟩
  · rw [hrest]
    rfl
  · refine (hother j hj).trans ?_
    rw [getCore_modCore_other _ _ _ _ (Ne.symm hj), getCore_modCore_other _ _ _ _ (Ne.symm hj)]

/-- The domain as its run begins. -/
theorem begunRun_spec (d : Device) (i : DomId) (g : Program) :
    (∃ p, begunRun d i g = { d with parts := p }) ∧ (getDom (begunRun d i g) i).run = (getDom d i).run.map (startRun g none (nowNs d)) ∧
    (getDom (begunRun d i g) i).prog = (getDom d i).prog ∧ (getDom (begunRun d i g) i).assembling = keptMessages (getDom d i).assembling ∧
    ∀ j, j ≠ i → (getDom (begunRun d i g) j).assembling = (getDom d j).assembling := by
  have hf : (∃ p, freshCredit d i = { d with parts := p }) ∧ ∀ j, getDom (freshCredit d i) j = getDom d j := by
    unfold freshCredit
    split
    · exact ⟨⟨d.parts, rfl⟩, fun _ => rfl⟩
    · refine ⟨⟨_, rfl⟩, fun j => ?_⟩
      unfold getDom
      by_cases hj : i.part = j.part
      · rw [← hj, getPart_modPart_same]
      · rw [getPart_modPart_other _ _ _ _ hj]
  obtain ⟨⟨p, hp⟩, hdom⟩ := hf
  unfold begunRun
  refine ⟨⟨_, by rw [hp]; rfl⟩, ?_, ?_, ?_, fun j hj => ?_⟩
  · rw [getDom_modRun_same, getDom_modDom_same, hdom]
  · rw [getDom_modRun_same, getDom_modDom_same, hdom]
  · rw [getDom_modRun_same, getDom_modDom_same, hdom]
  · rw [getDom_modRun_other _ _ _ _ (Ne.symm hj), getDom_modDom_other _ _ _ _ (Ne.symm hj), hdom]

/-! ### The end of a run (R393, R460, R461) -/

/-- What settling the remains of a run's cores leaves as it was. -/
structure KeepsHost (d e : Device) : Prop where
  cmds : e.cmds = d.cmds
  rings : e.rings = d.rings
  host : e.host = d.host
  msix : e.msix = d.msix
  sec : e.sec = d.sec
  pennant : ∀ i, (getDom e i).pennant = (getDom d i).pennant

namespace KeepsHost

theorem refl (d : Device) : KeepsHost d d := ⟨rfl, rfl, rfl, rfl, rfl, fun _ => rfl⟩

theorem trans {d x e : Device} (h : KeepsHost d x) (g : KeepsHost x e) : KeepsHost d e :=
  ⟨g.cmds.trans h.cmds, g.rings.trans h.rings, g.host.trans h.host, g.msix.trans h.msix, g.sec.trans h.sec, fun i => (g.pennant i).trans (h.pennant i)⟩

theorem all {α : Type} {f : Device → α → Device} (h : ∀ e x, KeepsHost e (f e x)) (l : List α) : ∀ d, KeepsHost d (forAll l d f) := by
  induction l with
  | nil => exact refl
  | cons x l ih => exact fun d => (h d x).trans (ih _)

theorem ofReported {d e : Device} (h : Reported d e) : KeepsHost d e := by
  refine ⟨h.cmds, h.rings, h.host, h.msix, h.sec, fun i => ?_⟩
  obtain ⟨_, hd⟩ := h.dom i
  rw [hd]

theorem modCore (d : Device) (k : CoreId) (f : Core → Core) : KeepsHost d (modCore d k f) := ⟨rfl, rfl, rfl, rfl, rfl, fun _ => rfl⟩

end KeepsHost

theorem keepsHost_recordCheck (d : Device) (c : CtxId) (x : Replay) : KeepsHost d (recordCheck d c x) :=
  (KeepsHost.modCore d _ _).trans (.ofReported (reported_detect _ _))

theorem keepsHost_settleReplays (d : Device) (c : CtxId) : KeepsHost d (settleReplays d c) := by
  unfold settleReplays
  refine .trans ?_ (KeepsHost.modCore _ _ _)
  refine .trans ?_ (KeepsHost.all (fun e x => KeepsHost.modCore e _ _) _ _)
  exact KeepsHost.all (fun e x => keepsHost_recordCheck e c x) _ _

theorem settleReplays_none {d : Device} {c : CtxId} (h : (getUnit d c).replays = []) : settleReplays d c = d := by
  unfold settleReplays
  simp only [h, List.filter_nil, forAll, List.foldl_nil]
  exact modUnit_eq_self (by rw [← h])

theorem landLocal_none {d : Device} {c : CtxId} (hs : (getUnit d c).stores = []) (hf : (getUnit d c).fills = []) : landLocal d c = d := by
  unfold landLocal
  simp only [hs, hf, List.filter_nil, List.map_nil, forAll, List.foldl_nil]
  exact modUnit_eq_self (by rw [← hs, ← hf])

/-- The banks of a core or context return as its run ends. -/
def returnBanks (d : Device) (c : CtxId) : Device :=
  bankSettle (modCore d c.core fun k => { k with runOff := if k.split then k.runOff &&& (if c.ctx = 0 then 0xFFFF0000 else 0x0000FFFF) else 0 }) c

/-- What the return of banks changes. -/
theorem returnBanks_rest (d : Device) (c : CtxId) : ∃ k s b, returnBanks d c = { d with cores := k, scratch := s, scratchBad := b } := by
  have h := (bankSteps_settle (modCore d c.core fun k => { k with runOff := if k.split then k.runOff &&& (if c.ctx = 0 then 0xFFFF0000 else 0x0000FFFF) else 0 }) c).rest
  exact ⟨_, _, _, h⟩

theorem returnAll_rest (l : List CtxId) : ∀ d : Device, ∃ k s b, forAll l d returnBanks = { d with cores := k, scratch := s, scratchBad := b } := by
  induction l with
  | nil => exact fun d => ⟨d.cores, d.scratch, d.scratchBad, rfl⟩
  | cons c l ih =>
    intro d
    obtain ⟨_, _, _, h⟩ := returnBanks_rest d c
    obtain ⟨k, s, b, hk⟩ := ih (returnBanks d c)
    exact ⟨k, s, b, hk.trans (by rw [h])⟩

/-- No command of an ended run but the RUN itself is waiting. -/
theorem dropWaiting_run {d : Device} {i : DomId} {c : Cmd} {im : List Byte} (hc : d.cmds = [c]) (hj : c.job = .run im) (halted : Bool) (code : Byte) :
    dropWaiting d i halted code = d := by
  unfold dropWaiting
  refine forAll_id fun x hx => ?_
  obtain rfl : x = c := by simpa [hc] using List.mem_of_mem_filter hx
  rw [hj]

/-- The domain as its run is over. -/
def closedDom (d : Device) (i : DomId) (halted : Bool) : Device :=
  modRun (modDom d i fun m => { m with st := if halted then .halted else .ended, runHandle := none, inSeq := [], assembling := [] }) i fun r =>
    { r with window := 0, openings := [], items := [], hostHalt := none, colls := if halted then [] else r.colls }

theorem getDom_closedDom (d : Device) (i : DomId) (halted : Bool) :
    (getDom (closedDom d i halted) i).st = (if halted then .halted else .ended) ∧ (getDom (closedDom d i halted) i).runHandle = none ∧
      (getDom (closedDom d i halted) i).pennant = (getDom d i).pennant := by
  simp [closedDom]

/-- The pennant of a run that ends. -/
def runPennant (d : Device) (i : DomId) (r : Run) (g : Program) : PennantData :=
  { bytes := leBits 3968 (pennantBytes d i (getDom d i) r g (d.sec.pserial + 1).toNat), tainted := r.tainted }

/-- A pennant that is assembled, with the serial it takes. -/
def penned (d : Device) (i : DomId) (serial : W64) (x : PennantData) : Device :=
  modDom { d with sec := { d.sec with pserial := serial } } i fun m => { m with pennant := some x }

/-- The assembly of the pennant, on a device that differs from the run's in its banks alone. -/
theorem makePennant_eq {d x : Device} {i : DomId} {r : Run} {g : Program} (hx : ∃ k s b, x = { d with cores := k, scratch := s, scratchBad := b })
    (hr : (getDom d i).run = some r) (hg : (getDom d i).prog = some g) :
    makePennant x i = penned x i (d.sec.pserial + 1) (runPennant d i r g) := by
  obtain ⟨k, s, b, rfl⟩ := hx
  have hd : getDom { d with cores := k, scratch := s, scratchBad := b } i = getDom d i := rfl
  have hb : ∀ m n, pennantBytes { d with cores := k, scratch := s, scratchBad := b } i m r g n = pennantBytes d i m r g n := fun m n => rfl
  unfold makePennant runPennant
  simp only [hd, hr, hg, hb]
  rfl

/-- What a run that ended without a halt leaves before its completion. -/
structure EndsRun (d z : Device) (i : DomId) (x : PennantData) : Prop where
  cmds : z.cmds = d.cmds
  rings : z.rings = d.rings
  host : z.host = d.host
  msix : z.msix = d.msix
  sec : z.sec = { d.sec with pserial := d.sec.pserial + 1 }
  st : (getDom z i).st = .ended
  handle : (getDom z i).runHandle = none
  pennant : (getDom z i).pennant = some x

theorem endsRun_closed {d x : Device} (hx : ∃ k s b, x = { d with cores := k, scratch := s, scratchBad := b }) (i : DomId) (p : PennantData) :
    EndsRun d (closedDom (penned x i (d.sec.pserial + 1) p) i false) i p := by
  obtain ⟨k, s, b, rfl⟩ := hx
  obtain ⟨hst, hh, hp⟩ := getDom_closedDom (penned { d with cores := k, scratch := s, scratchBad := b } i (d.sec.pserial + 1) p) i false
  refine ⟨rfl, rfl, rfl, rfl, rfl, hst, hh, hp.trans ?_⟩
  rw [penned, getDom_modDom_same]

/-- The end of a run that has not halted and left nothing in its cores. -/
theorem runEnd_running {d : Device} {i : DomId} {r : Run} {g : Program} {h : W32} {c : Cmd} {im : List Byte} (hover : runOver d i = true)
    (hr : (getDom d i).run = some r) (hg : (getDom d i).prog = some g) (hst : (getDom d i).st = .running) (hh : (getDom d i).runHandle = some h)
    (ha : r.aborted = false) (hc : d.cmds = [c]) (hj : c.job = .run im)
    (hq : ∀ k, (getUnit d k).stores = [] ∧ (getUnit d k).fills = [] ∧ (getUnit d k).replays = []) :
    ∃ z, EndsRun d z i (runPennant d i r g) ∧ runEnd d i = completeCmd z h .ok 0 (leBytes 8 (tickCount r) ++ leBytes 8 r.sched) := by
  have hreplays : forAll (domCtxs d i) d settleReplays = d := forAll_id fun k _ => settleReplays_none (hq k).2.2
  have hland : forAll (domCtxs d i) d landLocal = d := forAll_id fun k _ => landLocal_none (hq k).1 (hq k).2.1
  have hrest := returnAll_rest (domCtxs d i) d
  have hends := endsRun_closed hrest i (runPennant d i r g)
  have hpen := makePennant_eq hrest hr hg
  refine ⟨_, hends, ?_⟩
  have hgo : runEnd d i = completeCmd (dropWaiting (closedDom (makePennant (forAll (domCtxs d i) d returnBanks) i) i false) i false (haltResult r).1) h .ok 0
      (leBytes 8 (tickCount r) ++ leBytes 8 r.sched) := by
    simp only [runEnd, hover, hr, hst, hh, hreplays, ha, Bool.not_true, Bool.false_eq_true, if_false, reduceCtorEq, hland]
    rfl
  rw [hgo, hpen, dropWaiting_run (hends.cmds.trans hc) hj]

/-- The end of a halted run. -/
theorem runEnd_halted {d : Device} {i : DomId} {r : Run} {h : W32} {c : Cmd} {im : List Byte} (hover : runOver d i = true)
    (hr : (getDom d i).run = some r) (hst : (getDom d i).st = .halted) (hh : (getDom d i).runHandle = some h) (ha : r.aborted = false)
    (hc : d.cmds = [c]) (hj : c.job = .run im) :
    ∃ x, KeepsHost d x ∧ runEnd d i = completeCmd (closedDom x i true) h .programHalted (haltResult r).1 (haltResult r).2 := by
  have hkeep : KeepsHost d (forAll (domCtxs (forAll (domCtxs d i) d settleReplays) i) (forAll (domCtxs d i) d settleReplays) returnBanks) := by
    refine .trans (KeepsHost.all (fun e k => keepsHost_settleReplays e k) _ _) (KeepsHost.all (fun e k => ?_) _ _)
    obtain ⟨_, _, _, hk⟩ := returnBanks_rest e k
    rw [hk]
    exact ⟨rfl, rfl, rfl, rfl, rfl, fun _ => rfl⟩
  refine ⟨_, hkeep, ?_⟩
  generalize hx : forAll (domCtxs (forAll (domCtxs d i) d settleReplays) i) (forAll (domCtxs d i) d settleReplays) returnBanks = x at hkeep
  have hdrop : ∀ code, dropWaiting (closedDom x i true) i true code = closedDom x i true := fun code =>
    dropWaiting_run (c := c) (show (closedDom x i true).cmds = [c] from hkeep.cmds.trans hc) hj true code
  have hgo : runEnd d i = completeCmd (dropWaiting (closedDom x i true) i true (haltResult r).1) h .programHalted (haltResult r).1 (haltResult r).2 := by
    subst hx
    simp only [runEnd, hover, hr, hst, hh, ha, Bool.not_true, Bool.false_eq_true, if_false, if_true]
    rfl
  rw [hgo, hdrop]

theorem leBytes_mod : (n v : Nat) → leBytes n (v % 256 ^ n) = leBytes n v
  | 0, _ => rfl
  | n + 1, v => by
    have hlow : BitVec.ofNat 8 (v % 256 ^ (n + 1)) = BitVec.ofNat 8 v := by
      apply BitVec.eq_of_toNat_eq
      simp only [BitVec.toNat_ofNat]
      exact Nat.mod_mod_of_dvd _ (Dvd.intro_left (256 ^ n) rfl)
    have hhigh : v % 256 ^ (n + 1) / 256 = v / 256 % 256 ^ n := by
      rw [Nat.pow_succ, Nat.mul_comm, Nat.mod_mul_right_div_self]
    rw [leBytes, leBytes, hlow, hhigh, leBytes_mod n]

/-- The ticks of a run are its scheduled ticks and the six stall counts of its ledger. -/
theorem tickCount_eq (r : Run) : tickCount r = r.sched + ((List.finRange 6).map fun k => (r.ledger.toList.getD k.val 0).toNat).sum := by
  have hmap : (r.ledger.toList.take 6).map (fun w => w.toNat) = (List.finRange 6).map fun k => (r.ledger.toList.getD k.val 0).toNat := by
    refine List.ext_getElem (by simp) fun n h1 h2 => ?_
    have hn : n < 6 := by simpa using h2
    have hl : n < r.ledger.toList.length := by simp; omega
    rw [List.getElem_map, List.getElem_take, List.getElem_map, List.getD_eq_getElem?_getD]
    simp only [List.getElem_finRange, Fin.val_cast, List.getElem?_eq_getElem hl, Option.getD_some]
  rw [tickCount, ← hmap, List.sum_eq_foldl, List.foldl_map]

theorem runOver_running {d : Device} {i : DomId} {r : Run} (hr : (getDom d i).run = some r) (hst : (getDom d i).st = .running) (hs : r.started = true)
    (he : r.ended = true) (hd : d.sec.dbg ≠ .erasing) : runOver d i = true := by
  simp [runOver, hr, hst, hs, he, hd]

theorem runOver_halted {d : Device} {i : DomId} {r : Run} {h : W32} (hr : (getDom d i).run = some r) (hst : (getDom d i).st = .halted)
    (hh : (getDom d i).runHandle = some h) (hs : r.started = true) (he : r.ended = true) (hd : d.sec.dbg ≠ .erasing) : runOver d i = true := by
  simp [runOver, hr, hst, hs, he, hd, hh]

/-- The result of a halted run (R393). -/
theorem haltResult_of {r : Run} {f : FirstHalt} (h : r.first = some f) :
    haltResult r = (f.code, leBytes 2 (f.ctx.core.val + 512 * f.ctx.ctx.val) ++ [BitVec.ofNat 8 f.seq.val, 0] ++ leBytes 4 f.tick ++
      leBytes 8 (r.sched + ((List.finRange 6).map fun k => (r.ledger.toList.getD k.val 0).toNat).sum)) := by
  have hu : (coreUnit f.ctx).toNat = f.ctx.core.val + 512 * f.ctx.ctx.val := by
    have h1 := f.ctx.core.isLt
    have h2 := f.ctx.ctx.isLt
    simp only [coreUnit, BitVec.toNat_ofNat]
    omega
  have ht : leBytes 4 (f.tick % 2 ^ 32) = leBytes 4 f.tick := leBytes_mod 4 f.tick
  simp only [haltResult, h, hu, ht, tickCount_eq]

end Sys2Proof.Machine

open Sys2Proof.Machine

/-- Settles O30: the acceptance goes through the rule of a long command, the first tick through what the clearing leaves in the one
core, and the end through the completion of the RUN. -/
theorem runsStartAndEnd : Obligations.RunsStartAndEnd := by
  unfold Obligations.RunsStartAndEnd
  refine ⟨fun s h b g ht hh hb him hil => ?_, fun s i g r c hdue hg hr him hc has => ?_, fun s i r hr hs hst hre hramp ht hk => ?_,
    fun s i g r c im hr hg hst hs he ha hh hc hj hm hroom hdbg hq => ?_, fun s i r f c im hr hst hs he ha hh hf hc hj hm hroom hdbg => ?_⟩
  · intro i hst hg hf hrh hp hcl hcmds
    obtain ⟨e, hgives, hw, htaken, -, ⟨k, hk, rfl⟩, hu⟩ := run_begins ht hb (runFail_none hh hb him hil hst hg hf hrh hp hcl hcmds)
    obtain ⟨x, p, hx⟩ := beginRun_rest (fetched s.dev h.ring) (cmdDom h) (nextHandle s.dev h.ring) b
    have hd : getDom e i = _ := (congrArg (getDom · i) hu).trans (getDom_beginRun (fetched s.dev h.ring) (cmdDom h) (nextHandle s.dev h.ring) b)
    refine ⟨e, hgives, hw, htaken, by rw [hk, hcmds]; rfl, by rw [hd], by rw [hd], by rw [hd]; rfl, by rw [hd], by rw [hd], ?_, fun m k hm => ?_, ?_⟩
    · rw [hd]
      simp [hb]
    · rw [hu]
      exact owed_runRefresh _ h.part m k hm
    · rw [hu, hx]
      rfl
  · obtain ⟨⟨bar, hrest⟩, hother, on, w, off, hcore⟩ := clearedFor_single (d := s.dev) (i := i) hc
    have hgo := runStart_eq hdue hg him
    generalize clearedFor s.dev i g = x at hrest hother hcore hgo
    have hdom : ∀ j, getDom x j = getDom s.dev j := fun j => by rw [hrest]; rfl
    have hns : nowNs x = s.dev.clock.time16 / 16 := by rw [hrest]; rfl
    obtain ⟨⟨p, hp⟩, hrun, hprog, hkept, hj⟩ := begunRun_spec x i g
    generalize begunRun x i g = y at hp hrun hprog hkept hj hgo
    have hu := unitsOnly_noteLedger (domCtxs_single (d := y) (hprog.trans ((congrArg Domain.prog (hdom i)).trans hg)) hc)
    generalize noteLedger y i = z at hu hgo
    have hzdom : ∀ j, getDom z j = getDom y j := fun j => by rw [hu.rest]; rfl
    have hycore : ∀ k, getCore y k = getCore x k := fun k => by rw [hp]; rfl
    have hdone : deliverWaiting z i.part = z := by
      refine deliverWaiting_id fun j hjm => ?_
      obtain ⟨m, -, rfl⟩ := List.mem_map.1 hjm
      rw [hzdom]
      by_cases hij : ({ part := i.part, dom := m } : Sys2Proof.DomId) = i
      · rw [hij, hkept, hdom, ← hij, has m]
        rfl
      · rw [hj _ hij, hdom, has m]
    rw [hdone] at hgo
    obtain ⟨un, hun⟩ := hu.core
    rw [hycore, hcore] at hun
    refine answers_of_onDev (f := fun d => runStart d i) rfl hgo ⟨?_, fun b => ?_, fun hs => ?_, ?_, fun k hk => ?_, ?_⟩
    · refine ⟨startRun g none (s.dev.clock.time16 / 16) r, ?_, rfl, rfl, rfl, rfl, rfl, rfl⟩
      rw [hzdom, hrun, hdom, hr, hns]
      rfl
    · have hseq : getSeq z (seqOf c.ctx b) = startSeq c b := by
        have hs : getSeq z (seqOf c.ctx b) = vget (getCore z c.ctx.core).seqs (seqOf c.ctx b).seq := rfl
        rw [hs, hun]
        exact seqs_startCore g c _ b
      simp only [hseq]
      exact startSeq_spec c b
    · rw [hun]
      exact startCore_whole g c _ hs
    · have hb : (getUnit y c.ctx).bound = (getUnit s.dev c.ctx).bound := by
        rw [getUnit, hycore, hcore]
        exact bound_startCore g c _ c.ctx.ctx
      exact hu.bound.trans hb
    · rw [hu.other k hk, hycore, hother k hk]
    · rw [hu.rest, hp, hrest]
  · exact gives_of_onDev (f := fun d => rampStep d i) rfl (rampStep_eq hr hs hst hre hramp ht hk)
  · obtain ⟨z, hz, hgo⟩ := runEnd_running (runOver_running hr hst hs he hdbg) hr hg hst hh ha hc hj hq
    rw [tickCount_eq] at hgo
    obtain ⟨hends, hu⟩ := ends_completeCmd (d := s.dev) (z := z) (c := c) (k := c) (.of_eq hz.host hz.msix hz.rings) hz.rings (by simp [hc])
      (hz.cmds.trans hc) ⟨rfl, rfl, rfl, hm⟩ hroom .ok 0
      (leBytes 8 (r.sched + ((List.finRange 6).map fun k => (r.ledger.toList.getD k.val 0).toNat).sum) ++ leBytes 8 r.sched)
    refine answers_of_onDev (f := fun d => runEnd d i) rfl hgo ⟨hends, ?_, ?_, ?_, ?_⟩
    · rw [hu]
      exact hz.st
    · rw [hu]
      exact hz.handle
    · rw [hu]
      exact hz.sec
    · rw [hu]
      exact hz.pennant
  · obtain ⟨x, hx, hgo⟩ := runEnd_halted (runOver_halted hr hst hh hs he hdbg) hr hst hh ha hc hj
    rw [haltResult_of hf] at hgo
    obtain ⟨hst', hh', hp'⟩ := getDom_closedDom x i true
    obtain ⟨hends, hu⟩ := ends_completeCmd (d := s.dev) (z := closedDom x i true) (c := c) (k := c) (.of_eq hx.host hx.msix hx.rings) hx.rings (by simp [hc])
      (hx.cmds.trans hc) ⟨rfl, rfl, rfl, hm⟩ hroom .programHalted f.code (leBytes 2 (f.ctx.core.val + 512 * f.ctx.ctx.val) ++ [BitVec.ofNat 8 f.seq.val, 0] ++
        leBytes 4 f.tick ++ leBytes 8 (r.sched + ((List.finRange 6).map fun k => (r.ledger.toList.getD k.val 0).toNat).sum))
    refine answers_of_onDev (f := fun d => runEnd d i) rfl hgo ⟨hends, ?_, ?_, ?_, ?_⟩
    · rw [hu]
      exact hst'
    · rw [hu]
      exact hh'
    · rw [hu]
      exact hp'.trans (hx.pennant i)
    · rw [hu]
      exact hx.sec
end

section
/-! O54: the power-down of a bank, and the refreshes of a stack. -/

open Sys2Proof.Claims

namespace Sys2Proof.Machine

/-! ### The bytes of a bank -/

theorem memFind_memClear (lo hi a : Nat) : (m : Mem) → memFind (memClear m lo hi) a = if lo ≤ a ∧ a < hi then none else memFind m a
  | [] => by simp [memClear, memFind]
  | (k, v) :: rest => by
    have ih := memFind_memClear lo hi a rest
    unfold memClear at ih ⊢
    rw [List.filter_cons]
    by_cases hk : k = a
    · subst hk
      by_cases hin : lo ≤ k ∧ k < hi
      · rw [if_neg (by simp; omega), ih, if_pos hin, if_pos hin]
      · rw [if_pos (by simp; omega)]
        simp [memFind, hin]
    · split
      · simp only [memFind, hk, if_false]
        exact ih
      · rw [ih]
        simp [memFind, hk]

theorem bankZeroed_clear (d : Device) (k : CoreId) (b : Fin 32) : BankZeroed d (bankClear d k b) k b := by
  have hr : ∀ a, readByte (bankClear d k b) .scratch a =
      if scratchKey k (b.val * 131072) ≤ a ∧ a < scratchKey k (b.val * 131072) + 131072 then 0 else readByte d .scratch a := by
    intro a
    change (memFind (memClear d.scratch _ _) a).getD 0 = _
    rw [memFind_memClear]
    split <;> rfl
  refine ⟨fun n hn => ?_, fun a ha => ?_⟩
  · rw [hr, if_pos]
    simp only [scratchKey]
    omega
  · rw [hr, if_neg]
    omega

theorem bankZeroed_congr {d d' e e' : Device} {k : CoreId} {b : Fin 32} (h : BankZeroed d e k b) (hd : d'.scratch = d.scratch) (he : e'.scratch = e.scratch) :
    BankZeroed d' e' k b := by
  have hc : ∀ {x y : Device}, y.scratch = x.scratch → ∀ a, readByte y .scratch a = readByte x .scratch a := fun hxy a => by
    simp [readByte, memOf, memDefault, hxy]
  obtain ⟨hz, ho⟩ := h
  exact ⟨fun n hn => (hc he _).trans (hz n hn), fun a ha => (hc he a).trans ((ho a ha).trans (hc hd a).symm)⟩

theorem bankZeroed_offNow (d : Device) (k : CoreId) (b : Fin 32) : BankZeroed d (bankOffNow d k b) k b :=
  bankZeroed_congr (bankZeroed_clear d k b) rfl rfl

theorem getCore_bankOffNow (d : Device) (k : CoreId) (b : Fin 32) : getCore (bankOffNow d k b) k = { getCore d k with
    bankOn := (getCore d k).bankOn &&& ~~~ ((1 : W32) <<< b.val)
    pdWait := (getCore d k).pdWait.filter fun p => p.1 != b } := getCore_modCore_same _ _ _

/-! ### The bound of a power-down (R228) -/

/-- What refusing the writes toward a bank may change of the cores: their units. -/
structure RefuseKeeps (d e : Device) : Prop where
  rest : e = { d with cores := e.cores }
  core : ∀ j, ∃ u, getCore e j = { getCore d j with units := u }

theorem RefuseKeeps.refl (d : Device) : RefuseKeeps d d := ⟨rfl, fun _ => ⟨_, rfl⟩⟩

theorem RefuseKeeps.trans {d x e : Device} (h : RefuseKeeps d x) (g : RefuseKeeps x e) : RefuseKeeps d e where
  rest := by rw [g.rest, h.rest]
  core j := by
    obtain ⟨_, hc⟩ := h.core j
    obtain ⟨u, gc⟩ := g.core j
    exact ⟨u, by rw [gc, hc]⟩

theorem RefuseKeeps.all {α : Type} {f : Device → α → Device} (h : ∀ e x, RefuseKeeps e (f e x)) (l : List α) : ∀ d, RefuseKeeps d (forAll l d f) := by
  induction l with
  | nil => exact refl
  | cons x l ih => exact fun d => (h d x).trans (ih _)

theorem refuseKeeps_modUnit (d : Device) (c : CtxId) (f : CtxUnit → CtxUnit) : RefuseKeeps d (modUnit d c f) := by
  refine ⟨rfl, fun j => ?_⟩
  by_cases hj : c.core = j
  · subst hj
    exact ⟨_, getCore_modCore_same _ _ _⟩
  · exact ⟨_, getCore_modCore_other _ _ _ _ hj⟩

theorem RefuseKeeps.isSplit {d e : Device} (h : RefuseKeeps d e) (j : CoreId) : isSplit e j = isSplit d j := by
  obtain ⟨_, hc⟩ := h.core j
  simp [Machine.isSplit, hc]

theorem forAll_proj {α β : Type} (g : Device → β) {f : Device → α → Device} (h : ∀ e x, g (f e x) = g e) (l : List α) (d : Device) :
    g (forAll l d f) = g d := by
  induction l generalizing d with
  | nil => rfl
  | cons x l ih => exact (ih (f d x)).trans (h d x)

theorem refuseKeeps_refuseWrites (d : Device) (k : CoreId) (b : Fin 32) (limit : Nat) : RefuseKeeps d (refuseWrites d k b limit) := by
  unfold refuseWrites
  refine RefuseKeeps.trans (x := forAll (List.finRange 2) d _) (RefuseKeeps.all (fun e x => ?_) _ d) (RefuseKeeps.all (fun e x => RefuseKeeps.all (fun e y => ?_) _ e) _ _)
  · exact refuseKeeps_modUnit e _ _
  · exact refuseKeeps_modUnit e _ _

/-- A context's stores after the writes toward a bank have been refused. -/
theorem stores_refuseWrites (d : Device) (k : CoreId) (b : Fin 32) (limit : Nat) (x : Fin 2) :
    (getUnit (refuseWrites d k b limit) ⟨k, x⟩).stores = (getUnit d ⟨k, x⟩).stores.filter fun t => !storeToward d k b x t := by
  unfold refuseWrites
  refine (forAll_proj (fun e => (getUnit e ⟨k, x⟩).stores) (fun e j => forAll_proj (fun e => (getUnit e ⟨k, x⟩).stores) (fun e y => ?_) _ e) _ _).trans ?_
  · exact getUnit_modUnit_proj (fun u => u.stores) e _ _ fun _ => rfl
  · rw [show List.finRange 2 = [0, 1] from rfl]
    simp only [forAll, List.foldl_cons, List.foldl_nil]
    have hx : x = 0 ∨ x = 1 := by omega
    rcases hx with rfl | rfl
    · rw [getUnit_modUnit_other _ _ _ _ (by simp), getUnit_modUnit_same]
    · rw [getUnit_modUnit_same]
      have hs : ∀ f t, storeToward (modUnit d ⟨k, 0⟩ f) k b 1 t = storeToward d k b 1 t := fun f t => by
        rw [storeToward, storeToward, isSplit_modUnit]
      simp only [hs]
      rw [getUnit_modUnit_other _ _ _ _ (by simp)]

/-- An event that no injection touches, with nothing waiting, waits at the head of its crossing. -/
theorem logged_detect {d : Device} {e : ErrEvent} (ha : d.err.armed = []) (he : d.err.events = []) (hi : e.inj = false) :
    Logged (detect d e) e.det e.unit e.sev e.code := by
  have hp : ∀ p, Logged (pushEvent d e p) e.det e.unit e.sev e.code := fun p => ⟨_, List.mem_append_right _ (List.mem_singleton.2 rfl), rfl, rfl, rfl, rfl⟩
  unfold detect
  simp only [hi, Bool.false_eq_true, if_false]
  split
  · exact hp _
  · simp only [inject_nil ha, he, inCrossing]
    exact hp _

theorem bankTimeout_late {d : Device} {k : CoreId} {b : Fin 32} {limit : Nat} (hw : (getCore d k).pdWait = [(b, limit)]) (ha : d.err.armed = [])
    (hl : limit ≤ (getPart d (partOfCore d k)).periods) (hn : bankWrites d k b limit ≠ 0) :
    ∃ x, Reported (modCore d k fun c => { c with lateWrites := satAdd c.lateWrites (bankWrites d k b limit) }) x ∧
      bankTimeout d k b = bankOffNow (refuseWrites x k b limit) k b ∧
      (bankWrites d k b limit = 1 → d.err.events = [] →
        Logged x 0x180 (coreUnit ⟨k, if isSplit d k then finMod 2 (b.val / 16) else 0⟩) 2 0) := by
  let u := coreUnit ⟨k, if isSplit d k then finMod 2 (b.val / 16) else 0⟩
  have hu : BitVec.ofNat 16 u.toNat = u := by simp
  refine ⟨forAll (List.range (bankWrites d k b limit)) (modCore d k fun c => { c with lateWrites := satAdd c.lateWrites (bankWrites d k b limit) })
    fun d _ => detect d (hubEvent 0x180 u.toNat 2 0), Reported.forAll fun e _ => reported_detect e _, ?_, fun h1 he => ?_⟩
  · simp only [bankTimeout, hw, List.find?_cons, inject_nil ha]
    simp [hn, corePeriod, Nat.not_lt.2 hl]
    rfl
  · rw [h1]
    have := logged_detect (d := modCore d k fun c => { c with lateWrites := satAdd c.lateWrites 1 }) (e := hubEvent 0x180 u.toNat 2 0) ha he rfl
    rw [show (hubEvent 0x180 u.toNat 2 0).unit = u from hu] at this
    exact this

/-! ### Refreshes (R47–R50) -/

theorem modStack_modStack_same (d : Device) (s : Fin 8) (f g : HbmStack → HbmStack) : modStack (modStack d s f) s g = modStack d s fun x => g (f x) := by
  simp [modStack, vmod_vmod_same]

theorem stack_modStack_other (d : Device) {s j : Fin 8} (f : HbmStack → HbmStack) (h : j ≠ s) : vget (modStack d s f).hbmStat j = vget d.hbmStat j :=
  vget_vmod_other _ _ _ _ (Ne.symm h)

theorem issueRefresh_pos (p : Pch) {n : Nat} (hn : 0 < n) (w : Bool) (now : Nat) : issueRefresh p n w now =
    if p.busy = true then { p with issued := p.issued + n, queued := p.queued + n, windowed := w }
    else { p with issued := p.issued + n, busy := true, queued := n - 1, windowed := w, dueAt := now } := by
  have h0 : n ≠ 0 := Nat.pos_iff_ne_zero.1 hn
  simp only [issueRefresh, h0, if_false]

theorem getUnit_modStack (d : Device) (s : Fin 8) (f : HbmStack → HbmStack) (c : CtxId) : getUnit (modStack d s f) c = getUnit d c := rfl

/-- An update of a stack depends on that stack alone. -/
theorem modStack_congr {d : Device} {s : Fin 8} {f g : HbmStack → HbmStack} (h : f (vget d.hbmStat s) = g (vget d.hbmStat s)) :
    modStack d s f = modStack d s g := by
  simp only [modStack, vmod, h]

/-- A stack as a refresh of one of its pseudo-channels accrues. -/
def accrued (h : HbmStack) (k : Fin 32) (f : Pch → Pch) (windowed forced : Nat) : HbmStack :=
  { h with
    owedMax := topOwed h.owedMax ((vget h.pchs k).owed + 1), windowed := satAdd h.windowed windowed, forced := satAdd h.forced forced
    pchs := vmod h.pchs k fun p => f { p with lastAt := p.lastAt + refreshInterval h } }

theorem satAdd_zero {w : Nat} (x : BitVec w) : satAdd x 0 = x := by simp [satAdd, x.isLt]

/-- What a refresh that accrues comes to, by the window, a run that waits, and what is owed. -/
theorem refreshAccrue_eq {d : Device} {s : Fin 8} {k : Fin 32} (h : accrueDue d s k = true) :
    refreshAccrue d s k = modStack d s fun x =>
      if 450 ≤ windowLeft d (partOfStack d s) then accrued x k (fun p => issueRefresh p 1 true d.clock.elapsed) 1 0
      else if runWaits d (partOfStack d s) = true then
        accrued x k (fun p => issueRefresh { p with owed := 0 } (p.owed + 1) false d.clock.elapsed) 0 0
      else if 8 ≤ (vget x.pchs k).owed + 1 then accrued x k (fun p => issueRefresh p 1 false d.clock.elapsed) 0 1
      else accrued x k (fun p => { p with owed := p.owed + 1 }) 0 0 := by
  have hw : ∀ f, windowLeft (modStack d s f) (partOfStack (modStack d s f) s) = windowLeft d (partOfStack d s) := fun f => rfl
  have hr : ∀ f, runWaits (modStack d s f) (partOfStack (modStack d s f) s) = runWaits d (partOfStack d s) := fun f => rfl
  simp only [refreshAccrue, h, Bool.not_true, Bool.false_eq_true, if_false, modPch, modStack_modStack_same, stack_modStack_same, vget_vmod_same, hw, hr]
  split
  · exact modStack_congr (by simp [accrued, satAdd_zero, vmod_vmod_same])
  · rename_i hno
    split
    · rename_i hrun
      refine modStack_congr ?_
      simp only [accrued, satAdd_zero, vmod_vmod_same, hno, hrun, if_true, if_false]
      rfl
    · rename_i hrun
      split
      · rename_i hmany
        refine modStack_congr ?_
        simp only [accrued, satAdd_zero, vmod_vmod_same, hno, hrun, hmany, if_true, if_false, Nat.add_sub_cancel]
        rfl
      · rename_i hmany
        refine modStack_congr ?_
        simp only [accrued, satAdd_zero, vmod_vmod_same, hno, hrun, hmany, if_false]
        rfl

/-- What the accrual of a refresh leaves of the other stacks and pseudo-channels, and what it makes of its own. -/
theorem accrued_spec (d : Device) (s : Fin 8) (k : Fin 32) (f : Pch → Pch) (w n : Nat) : let h := vget d.hbmStat s
    let e := modStack d s fun x => accrued x k f w n
    ((∀ j, j ≠ s → vget e.hbmStat j = vget d.hbmStat j) ∧ (∀ j, j ≠ k → vget (vget e.hbmStat s).pchs j = vget h.pchs j) ∧ e.cores = d.cores ∧ e.parts = d.parts) ∧
      vget (vget e.hbmStat s).pchs k = f { vget h.pchs k with lastAt := (vget h.pchs k).lastAt + refreshInterval h } ∧
      (vget e.hbmStat s).windowed = satAdd h.windowed w ∧ (vget e.hbmStat s).forced = satAdd h.forced n := by
  intro h e
  have he : vget e.hbmStat s = accrued h k f w n := stack_modStack_same _ _ _
  rw [he]
  exact ⟨⟨fun j hj => stack_modStack_other d _ hj, fun j hj => vget_vmod_other _ _ _ _ (Ne.symm hj), rfl, rfl⟩, vget_vmod_same _ _ _, rfl, rfl⟩

/-- A stack at the opening of a window of a length. -/
def openedStack (h : HbmStack) (len now : Nat) : HbmStack :=
  { h with
    pchs := h.pchs.map fun p => issueRefresh { p with owed := p.owed - min p.owed (len / 450) } (min p.owed (len / 450)) true now
    windowed := satAdd h.windowed (h.pchs.toList.foldl (fun a p => a + min p.owed (len / 450)) 0) }

/-- Each stack of the partition opens once. -/
theorem openWindow_stack {d : Device} {i : DomId} {st : Fin 8} (first len : Nat) (h : st ∈ stacksOf d i.part) :
    vget (openWindow d i first len).hbmStat st = openedStack (vget d.hbmStat st) len d.clock.elapsed := by
  have hall : ∀ (l : List (Fin 8)) (e : Device), l.Nodup → e.clock = d.clock →
      vget (forAll l e fun d s => modStack d s fun x => openedStack x len d.clock.elapsed).hbmStat st =
        if st ∈ l then openedStack (vget e.hbmStat st) len d.clock.elapsed else vget e.hbmStat st := by
    intro l
    induction l with
    | nil => exact fun e _ _ => by simp [forAll]
    | cons s l ih =>
      intro e hl he
      obtain ⟨hs, hl⟩ := List.nodup_cons.1 hl
      refine (ih (modStack e s fun x => openedStack x len e.clock.elapsed) hl he).trans ?_
      by_cases hst : st = s
      · subst hst
        rw [if_neg hs, if_pos (by simp), stack_modStack_same, he]
      · rw [stack_modStack_other _ _ hst]
        simp [hst]
  have hn : (stacksOf d i.part).Nodup := (List.nodup_finRange 8).filter _
  have hgo := hall (stacksOf d i.part) d hn rfl
  rw [if_pos h] at hgo
  refine Eq.trans ?_ hgo
  have hstep : ∀ (l : List (Fin 8)) (e : Device), (forAll l e fun d s =>
      modStack d s fun x => { x with
        pchs := x.pchs.map (fun p => issueRefresh { p with owed := p.owed - min p.owed (len / 450) } (min p.owed (len / 450)) true d.clock.elapsed)
        windowed := satAdd x.windowed ((vget d.hbmStat s).pchs.toList.foldl (fun a p => a + min p.owed (len / 450)) 0) }) =
      forAll l e fun d s => modStack d s fun x => openedStack x len d.clock.elapsed := by
    intro l
    induction l with
    | nil => exact fun e => rfl
    | cons s l ih => exact fun e => ih _
  exact congrArg (fun e => vget e.hbmStat st) (hstep (stacksOf d i.part) d)

/-! ### The end of a refresh (R366) -/

/-- What the release of held requests may change: the units of cores, whose bounds stay. -/
structure Released (d e : Device) : Prop where
  rest : e = { d with cores := e.cores }
  bound : ∀ c, (getUnit e c).bound = (getUnit d c).bound

namespace Released

theorem refl (d : Device) : Released d d := ⟨rfl, fun _ => rfl⟩

theorem modUnit {d e : Device} (h : Released d e) (c : CtxId) {f : CtxUnit → CtxUnit} (hf : ∀ u, (f u).bound = u.bound) : Released d (modUnit e c f) where
  rest := by
    rw [h.rest]
    rfl
  bound x := (getUnit_modUnit_proj (fun u => u.bound) e c x hf).trans (h.bound x)

theorem memLatency {d e : Device} (h : Released d e) (c : CtxId) (a : Nat) : memLatency e c a = memLatency d c a := by
  have hp : isPortable e c = isPortable d c := by
    have hd : domOf e c = domOf d c := by
      rw [domOf, domOf, h.bound, h.rest]
      rfl
    rw [isPortable, isPortable, progOf, progOf, hd, h.rest]
    rfl
  rw [Machine.memLatency, Machine.memLatency, hp, h.rest]
  rfl

end Released

/-- A property that a fold's steps keep, and that the step of one of its entries brings about. -/
theorem forAll_reaches {α : Type} {f : Device → α → Device} {I Q : Device → Prop} {x : α} (hI : ∀ e y, I e → I (f e y))
    (hQ : ∀ e y, I e → Q e → Q (f e y)) (hx : ∀ e, I e → Q (f e x)) (l : List α) : ∀ d, I d → (x ∈ l ∨ Q d) → Q (forAll l d f) := by
  induction l with
  | nil => exact fun d _ h => h.resolve_left (by simp)
  | cons y l ih =>
    intro d hd h
    refine ih _ (hI d y hd) ?_
    rcases h with h | h
    · rcases List.mem_cons.1 h with rfl | h
      · exact .inr (hx d hd)
      · exact .inl h
    · exact .inr (hQ d y hd h)

theorem forAll_keeps {α : Type} {f : Device → α → Device} {I : Device → Prop} (hI : ∀ e y, I e → I (f e y)) (l : List α) (d : Device) (h : I d) :
    I (forAll l d f) := by
  induction l generalizing d with
  | nil => exact h
  | cons y l ih => exact ih (f d y) (hI d y h)

/-- The flights of a context as the requests that came before a refresh begin. -/
def freedFlights (d : Device) (s : Fin 8) (k : Fin 32) (n : Nat) (c : CtxId) (l : List Flight) : List Flight :=
  let p := partOfCore d c.core
  let past := fun (h : Hold) => match h with | .refresh m => decide (m ≤ n) | _ => false
  let sub := fun (x : SubRequest) =>
    if past x.held && (decide (x.addr / 2 ^ 44 = 3) && ((hbmMap d p (x.addr % 2 ^ 44)).1 = s && (hbmMap d p (x.addr % 2 ^ 44)).2.1 = k)) then
      { x with held := .free, since := (getPart d p).periods + memLatency d c x.addr - 1 } else x
  if l.any (fun f => f.subs.any fun x => past x.held) then l.map fun f => { f with subs := f.subs.map sub } else l

theorem modUnit_modUnit_same (d : Device) (c : CtxId) (f g : CtxUnit → CtxUnit) : modUnit (modUnit d c f) c g = modUnit d c fun u => g (f u) := by
  simp [modUnit, modCore_modCore_same, vmod_vmod_same]

/-- What the release does for one context. -/
def ReleasesFlights (s : Fin 8) (k : Fin 32) (n : Nat) (step : Device → CtxId → Device) : Prop :=
  ∀ e c, ∃ F : CtxUnit → CtxUnit, step e c = modUnit e c F ∧ (∀ u, (F u).bound = u.bound) ∧
    (F (getUnit e c)).flights = freedFlights e s k n c (getUnit e c).flights

theorem releaseHeld_steps (d : Device) (s : Fin 8) (k : Fin 32) (n : Nat) :
    ∃ step, ReleasesFlights s k n step ∧ releaseHeld d s k n = forAll allCtxs d step := by
  refine ⟨_, fun e c => ?_, rfl⟩
  simp only [modStream]
  split
  · split
    · rename_i h
      exact ⟨_, modUnit_modUnit_same _ _ _ _, fun _ => rfl, (if_pos h).symm⟩
    · rename_i h
      exact ⟨_, rfl, fun _ => rfl, (if_neg h).symm⟩
  · split
    · rename_i h
      exact ⟨_, rfl, fun _ => rfl, (if_pos h).symm⟩
    · rename_i h
      exact ⟨id, (modUnit_eq_self rfl).symm, fun _ => rfl, (if_neg h).symm⟩

theorem released_releaseHeld (d : Device) (s : Fin 8) (k : Fin 32) (n : Nat) : Released d (releaseHeld d s k n) := by
  obtain ⟨step, hstep, hgo⟩ := releaseHeld_steps d s k n
  rw [hgo]
  refine forAll_keeps (I := Released d) (fun e c h => ?_) _ d (.refl d)
  obtain ⟨F, hF, hb, -⟩ := hstep e c
  rw [hF]
  exact h.modUnit c hb

theorem mem_allCtxs (c : CtxId) : c ∈ allCtxs := by
  obtain ⟨k, x⟩ := c
  refine List.mem_flatMap.2 ⟨k, List.mem_finRange k, ?_⟩
  have hx : x = 0 ∨ x = 1 := by omega
  rcases hx with rfl | rfl <;> simp

/-- A released device frees the same flights. -/
theorem freedFlights_released {d e : Device} (h : Released d e) (s : Fin 8) (k : Fin 32) (n : Nat) (c : CtxId) (l : List Flight) :
    freedFlights e s k n c l = freedFlights d s k n c l := by
  have hp : partOfCore e c.core = partOfCore d c.core := by rw [h.rest]; rfl
  have hm : ∀ p a, hbmMap e p a = hbmMap d p a := fun p a => by rw [h.rest]; rfl
  have hg : ∀ p, getPart e p = getPart d p := fun p => by rw [h.rest]; rfl
  simp only [freedFlights, hp, hm, hg, h.memLatency]

/-- The one flight of a context that waits for a refresh begins when that refresh was issued before the next. -/
theorem flights_releaseHeld {d : Device} {s : Fin 8} {k : Fin 32} {n : Nat} {c : CtxId} {l : List Flight} (hl : (getUnit d c).flights = l)
    (hidem : freedFlights d s k n c (freedFlights d s k n c l) = freedFlights d s k n c l) :
    (getUnit (releaseHeld d s k n) c).flights = freedFlights d s k n c l := by
  obtain ⟨step, hstep, hgo⟩ := releaseHeld_steps d s k n
  rw [hgo]
  have hone : ∀ e y, Released d e → Released d (step e y) ∧
      (getUnit (step e y) c).flights = if y = c then freedFlights d s k n c (getUnit e c).flights else (getUnit e c).flights := by
    intro e y h
    obtain ⟨F, hF, hb, hf⟩ := hstep e y
    rw [hF]
    refine ⟨h.modUnit y hb, ?_⟩
    by_cases hy : y = c
    · subst hy
      rw [if_pos rfl, getUnit_modUnit_same, hf, freedFlights_released h]
    · rw [if_neg hy, getUnit_modUnit_other _ _ _ _ (Ne.symm hy)]
  refine forAll_reaches (x := c) (I := fun e => Released d e ∧ ((getUnit e c).flights = l ∨ (getUnit e c).flights = freedFlights d s k n c l))
    (Q := fun e => (getUnit e c).flights = freedFlights d s k n c l) (fun e y h => ?_) (fun e y h hq => ?_) (fun e h => ?_) _ d ⟨.refl d, .inl hl⟩
    (.inl (mem_allCtxs c))
  · obtain ⟨hr, hfl⟩ := h
    obtain ⟨hr', he⟩ := hone e y hr
    refine ⟨hr', ?_⟩
    rw [he]
    split
    · rcases hfl with hfl | hfl <;> rw [hfl]
      · exact .inr rfl
      · exact .inr hidem
    · exact hfl
  · obtain ⟨-, he⟩ := hone e y h.1
    rw [he, hq]
    split
    · exact hidem
    · rfl
  · obtain ⟨hr, hfl⟩ := h
    obtain ⟨-, he⟩ := hone e c hr
    rw [he, if_pos rfl]
    rcases hfl with hfl | hfl <;> rw [hfl]
    exact hidem

/-- The freeing of one flight of one request at the pseudo-channel. -/
theorem freedFlights_single {d : Device} {s : Fin 8} {k : Fin 32} {n m : Nat} {c : CtxId} {f : Flight} {x : SubRequest} (hf : f.subs = [x])
    (hh : x.held = .refresh m) (ha : x.addr / 2 ^ 44 = 3) (hs : (hbmMap d (partOfCore d c.core) (x.addr % 2 ^ 44)).1 = s)
    (hk : (hbmMap d (partOfCore d c.core) (x.addr % 2 ^ 44)).2.1 = k) :
    freedFlights d s k n c [f] = (if n < m then [f] else [{ f with subs := [{ x with
      held := .free
      since := (getPart d (partOfCore d c.core)).periods + memLatency d c x.addr - 1 }] }]) ∧
    freedFlights d s k n c (freedFlights d s k n c [f]) = freedFlights d s k n c [f] := by
  have h1 : freedFlights d s k n c [f] = (if n < m then [f] else [{ f with subs := [{ x with
      held := .free
      since := (getPart d (partOfCore d c.core)).periods + memLatency d c x.addr - 1 }] }]) := by
    by_cases hm : m ≤ n
    · rw [if_neg (Nat.not_lt.2 hm)]
      simp only [freedFlights, hf, hh, hm, ha, hs, hk, List.any_cons, List.any_nil, List.map_cons, List.map_nil, decide_true, Bool.or_false, Bool.and_self,
        if_true]
    · rw [if_pos (Nat.lt_of_not_le hm)]
      simp [freedFlights, hf, hh, hm]
  refine ⟨h1, ?_⟩
  by_cases hm : n < m
  · rw [if_pos hm] at h1
    rw [h1, h1]
  · rw [if_neg hm] at h1
    rw [h1]
    simp [freedFlights]

theorem refreshDone_eq {d : Device} {s : Fin 8} {k : Fin 32} (hb : (vget (vget d.hbmStat s).pchs k).busy = true) :
    ∃ f, refreshDone d s k = modStack (releaseHeld d s k ((vget (vget d.hbmStat s).pchs k).issued - (vget (vget d.hbmStat s).pchs k).queued)) s f ∧
      vget (f (vget d.hbmStat s)).pchs k = (let p := vget (vget d.hbmStat s).pchs k
        if p.queued = 0 then { p with busy := false } else { p with queued := p.queued - 1, dueAt := d.clock.elapsed }) := by
  have hclock : (releaseHeld d s k ((vget (vget d.hbmStat s).pchs k).issued - (vget (vget d.hbmStat s).pchs k).queued)).clock = d.clock := by
    rw [(released_releaseHeld d s k _).rest]
  unfold refreshDone
  simp only [hb, Bool.not_true, Bool.false_eq_true, if_false, hclock]
  split
  · exact ⟨_, rfl, (vget_vmod_same _ _ _).trans rfl⟩
  · refine ⟨_, rfl, (vget_vmod_same _ _ _).trans ?_⟩
    simp only [hb]

end Sys2Proof.Machine

open Sys2Proof.Machine

/-- Settles O54: a bank's power-down through its bytes and its core; a refresh through what it makes of its stack; a refresh that
ends through the flights it frees. -/
theorem banksAndRefreshes : Obligations.BanksAndRefreshes := by
  unfold Obligations.BanksAndRefreshes
  refine ⟨fun s k b hw hn => ?_, fun s k b limit hw harm hl => ⟨fun hn => ?_, fun hn => ?_⟩, fun s st k => ?_, fun s i r hr hw ht => ?_,
    fun d i first len st k hst => ?_, fun s st k => ⟨fun hb => ?_, fun hb => ?_⟩⟩
  · obtain ⟨p, hp⟩ := Option.isSome_iff_exists.1 (List.find?_isSome.2 (List.any_eq_true.1 hw))
    have hgo : bankPowerdown s.dev k b = bankOffNow s.dev k b := by
      simp [bankPowerdown, hp, hn]
    exact answers_of_onDev (f := fun d => bankPowerdown d k b) rfl hgo
      ⟨bankZeroed_offNow _ k b, fun j hj => (bankSteps_offNow s.dev k b).other j hj, getCore_bankOffNow _ k b⟩
  · refine gives_of_onDev (f := fun d => bankTimeout d k b) rfl ?_
    simp [bankTimeout, hw, hn]
  · obtain ⟨x, hx, hgo, hlog⟩ := bankTimeout_late hw harm hl hn
    have hk := refuseKeeps_refuseWrites x k b limit
    obtain ⟨u, hu⟩ := hk.core k
    have hcore := getCore_bankOffNow (refuseWrites x k b limit) k b
    rw [hu, hx.getCore, getCore_modCore_same] at hcore
    refine answers_of_onDev (f := fun d => bankTimeout d k b) rfl hgo ⟨?_, ?_, ?_, ?_, fun y => ?_, fun h1 he => ?_⟩
    · refine bankZeroed_congr (bankZeroed_offNow (refuseWrites x k b limit) k b) ?_ rfl
      rw [hk.rest]
      exact hx.scratch.symm
    · rw [hcore]
    · rw [hcore]
      simp [hw]
    · rw [hcore]
    · have hsp : isSplit x k = isSplit s.dev k := (hx.isSplit k).trans (isSplit_modCore _ _ _ fun _ => rfl)
      have hsplit : ∀ t, storeToward x k b y t = storeToward s.dev k b y t := fun t => by rw [storeToward, storeToward, hsp]
      have hstores : (getUnit (bankOffNow (refuseWrites x k b limit) k b) ⟨k, y⟩).stores = (getUnit (refuseWrites x k b limit) ⟨k, y⟩).stores := by
        rw [getUnit, getUnit, getCore_bankOffNow]
      rw [hstores, stores_refuseWrites, hx.getUnit]
      simp only [hsplit]
      exact congrArg (List.filter _) (getUnit_modCore_proj (fun u => u.stores) _ _ _ fun _ _ => rfl)
    · obtain ⟨z, hz, h⟩ := hlog h1 he
      refine ⟨z, ?_, h⟩
      have herr : (bankOffNow (refuseWrites x k b limit) k b).err = x.err := by
        rw [(bankSteps_offNow (refuseWrites x k b limit) k b).rest, hk.rest]
      rw [herr]
      exact hz
  · intro h p rest now
    refine ⟨fun ha => ?_, fun ha => ⟨fun hwin => ?_, fun hwin hrun => ?_, fun hwin hrun ho => ?_, fun hwin hrun ho => ?_⟩⟩
    · refine gives_of_onDev (f := fun d => refreshAccrue d st k) rfl ?_
      simp [refreshAccrue, ha]
    · have hgo : refreshAccrue s.dev st k = modStack s.dev st fun x => accrued x k (fun p => issueRefresh p 1 true s.dev.clock.elapsed) 1 0 := by
        rw [refreshAccrue_eq ha]
        exact modStack_congr (if_pos hwin)
      obtain ⟨hrest, hk, hw, hf⟩ := accrued_spec s.dev st k (fun p => issueRefresh p 1 true s.dev.clock.elapsed) 1 0
      exact answers_of_onDev (f := fun d => refreshAccrue d st k) rfl hgo
        ⟨hrest, hk.trans (issueRefresh_pos _ Nat.one_pos _ _), hw, hf.trans (satAdd_zero _)⟩
    · have hgo : refreshAccrue s.dev st k = modStack s.dev st fun x =>
          accrued x k (fun p => issueRefresh { p with owed := 0 } (p.owed + 1) false s.dev.clock.elapsed) 0 0 := by
        rw [refreshAccrue_eq ha]
        exact modStack_congr ((if_neg (Nat.not_le.2 hwin)).trans (if_pos hrun))
      obtain ⟨hrest, hk, hw, hf⟩ := accrued_spec s.dev st k (fun p => issueRefresh { p with owed := 0 } (p.owed + 1) false s.dev.clock.elapsed) 0 0
      exact answers_of_onDev (f := fun d => refreshAccrue d st k) rfl hgo
        ⟨hrest, hk.trans (issueRefresh_pos _ (Nat.succ_pos _) _ _), hf.trans (satAdd_zero _), hw.trans (satAdd_zero _)⟩
    · have hgo : refreshAccrue s.dev st k = modStack s.dev st fun x => accrued x k (fun p => { p with owed := p.owed + 1 }) 0 0 := by
        rw [refreshAccrue_eq ha]
        refine modStack_congr ((if_neg (Nat.not_le.2 hwin)).trans ((if_neg (by rw [hrun]; exact Bool.false_ne_true)).trans (if_neg ?_)))
        exact Nat.not_le.2 (Nat.succ_lt_succ ho)
      obtain ⟨hrest, hk, hw, hf⟩ := accrued_spec s.dev st k (fun p => { p with owed := p.owed + 1 }) 0 0
      exact answers_of_onDev (f := fun d => refreshAccrue d st k) rfl hgo ⟨hrest, hk, hf.trans (satAdd_zero _), hw.trans (satAdd_zero _)⟩
    · have hgo : refreshAccrue s.dev st k = modStack s.dev st fun x => accrued x k (fun p => issueRefresh p 1 false s.dev.clock.elapsed) 0 1 := by
        rw [refreshAccrue_eq ha]
        exact modStack_congr ((if_neg (Nat.not_le.2 hwin)).trans ((if_neg (by rw [hrun]; exact Bool.false_ne_true)).trans (if_pos (Nat.succ_le_succ ho))))
      obtain ⟨hrest, hk, hw, hf⟩ := accrued_spec s.dev st k (fun p => issueRefresh p 1 false s.dev.clock.elapsed) 0 1
      exact answers_of_onDev (f := fun d => refreshAccrue d st k) rfl hgo
        ⟨hrest, hk.trans (issueRefresh_pos _ Nat.one_pos _ _), hf, hw.trans (satAdd_zero _)⟩
  · refine gives_of_onDev (f := fun d => windowClose d i) rfl ?_
    simp [windowClose, windowOver, hr, hw, ht]
  · intro p n q
    have hq : q = issueRefresh { p with owed := p.owed - n } n true d.clock.elapsed := by
      change vget (vget (openWindow d i first len).hbmStat st).pchs k = _
      rw [openWindow_stack first len hst]
      exact vget_map _ _ _
    rw [hq]
    refine ⟨owed_issueRefresh _ _ _ _, ?_, fun hn => ?_⟩
    · unfold issueRefresh
      simp only []
      split
      · rfl
      · split <;> rfl
    · rw [issueRefresh_pos _ hn]
      split
      · rename_i hb
        exact ⟨hb, rfl, rfl⟩
      · exact ⟨rfl, rfl, rfl⟩
  · refine gives_of_onDev (f := fun d => refreshDone d st k) rfl ?_
    simp [refreshDone, hb]
  · obtain ⟨f, hgo, hf⟩ := refreshDone_eq hb
    have hr := released_releaseHeld s.dev st k ((vget (vget s.dev.hbmStat st).pchs k).issued - (vget (vget s.dev.hbmStat st).pchs k).queued)
    refine answers_of_onDev (f := fun d => refreshDone d st k) rfl hgo ⟨?_, fun j hj => ?_, fun c fl x m hfl hsub hheld haddr hs hk => ?_⟩
    · rw [stack_modStack_same, hr.rest]
      exact hf
    · rw [stack_modStack_other _ _ hj, hr.rest]
    · obtain ⟨h1, h2⟩ := freedFlights_single (n := (vget (vget s.dev.hbmStat st).pchs k).issued - (vget (vget s.dev.hbmStat st).pchs k).queued)
        hsub hheld haddr hs hk
      rw [getUnit_modStack, flights_releaseHeld hfl h2, h1]
end

section
/-! Halts of contexts as rules: what a halt records and leaves of the other contexts' halts. -/

open Sys2Proof.Claims

namespace Sys2Proof.Machine

theorem Reported.runOf {d e : Device} (h : Reported d e) (c : CtxId) : ∃ g : Run → Bool, runOf e c = (runOf d c).map fun r => { r with tainted := g r } := by
  unfold Machine.runOf
  rw [h.domOf]
  cases Machine.domOf d c with
  | none => exact ⟨fun _ => false, rfl⟩
  | some i =>
    obtain ⟨g, hg⟩ := h.dom i
    have hl : liveDom (Machine.getDom e i) = liveDom (Machine.getDom d i) := by
      rw [hg]
      rfl
    refine ⟨g, ?_⟩
    simp only [hl]
    rw [hg]
    cases liveDom (Machine.getDom d i) <;> rfl

theorem Reported.tickOf {d e : Device} (h : Reported d e) (c : CtxId) : tickOf e c = tickOf d c := by
  obtain ⟨g, hg⟩ := h.runOf c
  rw [Machine.tickOf, Machine.tickOf, hg]
  cases Machine.runOf d c <;> rfl

/-! ### The halt of a context -/

@[simp] theorem getUnit_modRun (d : Device) (i : DomId) (f : Run → Run) (c : CtxId) : getUnit (modRun d i f) c = getUnit d c := rfl
@[simp] theorem getUnit_modDom (d : Device) (i : DomId) (f : Domain → Domain) (c : CtxId) : getUnit (modDom d i f) c = getUnit d c := rfl

/-- What a halt leaves of the units: the halt record of the context that halts. -/
theorem getUnit_haltWith (d : Device) (y : CtxId) (code : Byte) (seq : Fin 4) (fetch : BitVec 12) (mask : BitVec 4) (hy : isHalted d y = false) (c : CtxId) :
    getUnit (haltWith d y code seq fetch mask) c = getUnit (modUnit d y fun u => { u with
      halt := { halted := true, tick := tick32 (tickOf d y), seqMask := mask, seq := seq, fetch := fetch, code := code } }) c := by
  unfold haltWith
  simp only [hy, Bool.false_eq_true, if_false]
  have hseqs : ∀ x : Device, getUnit (forAll (seqsOf x y) x fun d n => modSeq d { core := y.core, seq := n } fun q =>
      if q.st = .running || q.st = .waiting then { q with st := .halted, cause := .none } else q) c = getUnit x c := fun x =>
    forAll_proj (fun e => getUnit e c) (fun e n => getUnit_modSeq _ _ _ _) _ x
  split
  · exact hseqs _
  · split
    · exact hseqs _
    · exact hseqs _

theorem halt_haltWith_same (d : Device) (y : CtxId) (code : Byte) (seq : Fin 4) (fetch : BitVec 12) (mask : BitVec 4) (hy : isHalted d y = false) :
    (getUnit (haltWith d y code seq fetch mask) y).halt =
      { halted := true, tick := tick32 (tickOf d y), seqMask := mask, seq := seq, fetch := fetch, code := code } := by
  rw [getUnit_haltWith d y code seq fetch mask hy, getUnit_modUnit_same]

theorem halt_haltWith_other (d : Device) (y : CtxId) (code : Byte) (seq : Fin 4) (fetch : BitVec 12) (mask : BitVec 4) {c : CtxId} (hc : c ≠ y) :
    (getUnit (haltWith d y code seq fetch mask) c).halt = (getUnit d c).halt := by
  by_cases hy : isHalted d y = true
  · simp [haltWith, hy]
  · rw [getUnit_haltWith d y code seq fetch mask (by simpa using hy), getUnit_modUnit_other _ _ _ _ hc]

/-- The halt of a context by a check leaves the device that its detection leaves to the halt. -/
theorem haltCheck_eq (d : Device) (y : CtxId) (code : Byte) (seq : Fin 4) (fetch : BitVec 12) (mask : BitVec 4) (hy : isHalted d y = false) :
    ∃ x, Reported d x ∧ haltCheck d y code seq fetch mask = haltWith x y code seq fetch mask := by
  unfold haltCheck
  simp only [hy, Bool.false_eq_true, if_false]
  split
  · exact ⟨_, reported_detectAt _ _, rfl⟩
  · exact ⟨d, .refl d, rfl⟩

theorem Reported.isHalted {d e : Device} (h : Reported d e) (c : CtxId) : isHalted e c = isHalted d c := by rw [Machine.isHalted, h.getUnit, Machine.isHalted]

/-- A context that halts without a bundle of its own. -/
theorem halt_haltNoBundle_same {d : Device} {y : CtxId} (code : Byte) (hy : isHalted d y = false) : (getUnit (haltNoBundle d y code) y).halt =
    { halted := true, tick := BitVec.ofNat 32 (tickOf d y), seqMask := 0, seq := (idleRecord d y).1
      fetch := physAddr (isSplit d y.core) y.ctx (idleRecord d y).2, code := code } := by
  obtain ⟨x, hx, hgo⟩ := haltCheck_eq d y code (idleRecord d y).1 (physAddr (isSplit d y.core) y.ctx (idleRecord d y).2) 0 hy
  have hn : haltNoBundle d y code = haltCheck d y code (idleRecord d y).1 (physAddr (isSplit d y.core) y.ctx (idleRecord d y).2) 0 := rfl
  rw [hn, hgo, halt_haltWith_same _ _ _ _ _ _ ((hx.isHalted y).trans hy), hx.tickOf]
  rfl

theorem halt_haltNoBundle_other (d : Device) (y : CtxId) (code : Byte) {c : CtxId} (hc : c ≠ y) :
    (getUnit (haltNoBundle d y code) c).halt = (getUnit d c).halt := by
  by_cases hy : isHalted d y = true
  · simp [haltNoBundle, haltCheck, hy]
  · obtain ⟨x, hx, hgo⟩ := haltCheck_eq d y code (idleRecord d y).1 (physAddr (isSplit d y.core) y.ctx (idleRecord d y).2) 0 (by simpa using hy)
    have hn : haltNoBundle d y code = haltCheck d y code (idleRecord d y).1 (physAddr (isSplit d y.core) y.ctx (idleRecord d y).2) 0 := rfl
    rw [hn, hgo, halt_haltWith_other _ _ _ _ _ _ hc, hx.getUnit]

/-! ### The requests of a halt -/

theorem lowestReq_cons (x : HaltReq) (l : List HaltReq) : ∃ y ∈ x :: l, lowestReq (x :: l) = some y := by
  induction l generalizing x with
  | nil => exact ⟨x, by simp, rfl⟩
  | cons z l ih =>
    obtain ⟨y, hy, hl⟩ := ih z
    rw [lowestReq, hl]
    by_cases h : y.seq < x.seq
    · exact ⟨y, List.mem_cons_of_mem _ hy, by simp [h]⟩
    · exact ⟨x, by simp, by simp [h]⟩

/-- The end of a context's failed transfers leaves every halt record. -/
theorem halt_dropFailed (d : Device) (y c : CtxId) : (getUnit (dropFailed d y) c).halt = (getUnit d c).halt := by
  have hready : ∀ (e : Device) (f : Flight) (b : Bool), getUnit (itemReady e y f b) c = getUnit e c := fun e f b => by
    unfold itemReady
    split <;> rfl
  have hend : ∀ (e : Device) (f : Flight), (getUnit (endFlight e y f) c).halt = (getUnit e c).halt := fun e f => by
    rw [endFlight, flightReady, hready]
    exact getUnit_modUnit_proj (fun u => u.halt) _ _ _ fun _ => rfl
  refine (forAll_proj (fun e => (getUnit e c).halt) hend _ _).trans ?_
  exact getUnit_modUnit_proj (fun u => u.halt) _ _ _ fun _ => rfl

/-- The detection of a halt request. -/
def requestDetected (y : CtxId) (d : Device) (q : HaltReq) : Device :=
  match q.det with
  | some n => detectAt d (if n.toNat < 0x100 then { checkEvent d y q.code q.fetch with det := n } else { checkEvent d y q.code 0 with det := n })
  | none => d

theorem reported_requestDetected (y : CtxId) (d : Device) (q : HaltReq) : Reported d (requestDetected y d q) := by
  unfold requestDetected
  split
  · exact reported_detectAt _ _
  · exact .refl d

theorem units_noteDrift (k : Core) (v : W64) : (noteDrift k v).units = k.units := by
  unfold noteDrift
  split <;> rfl

/-- A halt that has requests: the detections and the drift leave a device on which the context halts by its lowest request. -/
theorem doHalt_eq {d : Device} {y : CtxId} {l : List HaltReq} {x : HaltReq} (hx : lowestReq l = some x) :
    ∃ z, (∀ c, getUnit z c = getUnit d c) ∧ tickOf z y = tickOf d y ∧
      doHalt d y l = dropFailed (haltWith z y x.code x.seq x.fetch (l.foldl (fun m y => m ||| y.mask) 0)) y := by
  have hrep : Reported d (forAll l d (requestDetected y)) := Reported.forAll fun e q => reported_requestDetected y e q
  refine ⟨forAll (l.filterMap (·.drift)) (forAll l d (requestDetected y)) fun d v => modCore d y.core (noteDrift · v), fun c => ?_, ?_, ?_⟩
  · exact (forAll_proj (fun e => getUnit e c) (fun e v => getUnit_modCore_proj id e _ _ fun k n => by rw [units_noteDrift]) _ _).trans (hrep.getUnit c)
  · exact (forAll_proj (fun e => tickOf e y) (fun e v => tickOf_eq_of_runOf (runOf_modCore _ _ _ fun k n => by rw [units_noteDrift])) _ _).trans
      (hrep.tickOf y)
  · simp only [doHalt, hx]
    rfl

theorem halt_doHalt_same {d : Device} {y : CtxId} {l : List HaltReq} {x : HaltReq} (hx : lowestReq l = some x) (hy : isHalted d y = false) :
    (getUnit (doHalt d y l) y).halt = {
      halted := true, tick := BitVec.ofNat 32 (tickOf d y), seqMask := l.foldl (fun m y => m ||| y.mask) 0, seq := x.seq, fetch := x.fetch
      code := x.code } := by
  obtain ⟨z, hu, ht, hgo⟩ := doHalt_eq (d := d) (y := y) hx
  have hz : isHalted z y = false := by rw [isHalted, hu]; exact hy
  rw [hgo, halt_dropFailed, halt_haltWith_same _ _ _ _ _ _ hz, ht]
  rfl

theorem halt_doHalt_other {d : Device} {y c : CtxId} {l : List HaltReq} (hc : c ≠ y) : (getUnit (doHalt d y l) c).halt = (getUnit d c).halt := by
  cases hx : lowestReq l with
  | none => simp [doHalt, hx]
  | some x =>
    obtain ⟨z, hu, -, hgo⟩ := doHalt_eq (d := d) (y := y) hx
    rw [hgo, halt_dropFailed, halt_haltWith_other _ _ _ _ _ _ hc, hu]

/-- Halts that are taken on a tick halt the context. -/
theorem isHalted_takeHalts {d e : Device} {y : CtxId} (h : takeHalts d y = some e) (hy : isHalted d y = false) : isHalted e y = true := by
  unfold takeHalts at h
  simp only [] at h
  cases hl : haltReqs d y with
  | nil => simp [hl] at h
  | cons x l =>
    obtain ⟨z, -, hz⟩ := lowestReq_cons x l
    rw [hl] at h
    obtain rfl := Option.some.inj h
    rw [isHalted, halt_doHalt_same hz hy]

theorem takeHalts_other {d e : Device} {y c : CtxId} (h : takeHalts d y = some e) (hc : c ≠ y) : (getUnit e c).halt = (getUnit d c).halt := by
  unfold takeHalts at h
  simp only [] at h
  split at h
  · cases h
  · obtain rfl := Option.some.inj h
    exact halt_doHalt_other hc

/-! ### The halt of a whole domain -/

/-- What the halt of a whole domain does for one context. -/
def haltOne (code : Byte) (own : Bool) (d : Device) (c : CtxId) : Device :=
  if isHalted d c then d
  else match (if own then takeHalts d c else none) with
    | some d => d
    | none => haltNoBundle d c code

theorem haltRest_eq (d : Device) (i : DomId) (code : Byte) (own : Bool) : haltRest d i code own = forAll (domCtxs d i) d (haltOne code own) := rfl

theorem haltOne_same (code : Byte) (own : Bool) (d : Device) (c : CtxId) : isHalted (haltOne code own d c) c = true := by
  unfold haltOne
  split
  · assumption
  · rename_i hc
    have hc : isHalted d c = false := by simpa using hc
    split
    · rename_i e he
      cases own
      · cases he
      · exact isHalted_takeHalts he hc
    · rw [isHalted, halt_haltNoBundle_same code hc]

theorem haltOne_other (code : Byte) (own : Bool) (d : Device) {y c : CtxId} (hc : c ≠ y) : (getUnit (haltOne code own d y) c).halt = (getUnit d c).halt := by
  unfold haltOne
  split
  · rfl
  · split
    · rename_i e he
      cases own
      · cases he
      · exact takeHalts_other he hc
    · exact halt_haltNoBundle_other d y code hc

/-- Every context of the domain is halted. -/
theorem isHalted_haltRest (d : Device) (i : DomId) (code : Byte) (own : Bool) : ∀ c ∈ domCtxs d i, isHalted (haltRest d i code own) c = true := by
  intro c hc
  rw [haltRest_eq]
  refine forAll_reaches (x := c) (I := fun _ => True) (Q := fun e => isHalted e c = true) (fun _ _ _ => trivial) (fun e y _ h => ?_)
    (fun e _ => haltOne_same code own e c) _ d trivial (.inl hc)
  by_cases hy : c = y
  · subst hy
    exact haltOne_same code own e c
  · rw [isHalted, haltOne_other code own e hy]
    exact h

/-- A context that had not halted halts with the domain's code, where the contexts take no halt of their own. -/
theorem code_haltRest (d : Device) (i : DomId) (code : Byte) {c : CtxId} (hc : c ∈ domCtxs d i) (hn : isHalted d c = false) :
    (getUnit (haltRest d i code false) c).halt.code = code := by
  have hone : ∀ e, isHalted e c = false → (getUnit (haltOne code false e c) c).halt.code = code := fun e he => by
    have : haltOne code false e c = haltNoBundle e c code := by simp [haltOne, he]
    rw [this, halt_haltNoBundle_same code he]
  have hkeep : ∀ e y, (isHalted e c = true → (getUnit e c).halt.code = code) →
      (isHalted (haltOne code false e y) c = true → (getUnit (haltOne code false e y) c).halt.code = code) := by
    intro e y h hh
    by_cases hy : c = y
    · subst hy
      by_cases he : isHalted e c = true
      · have : haltOne code false e c = e := by simp [haltOne, he]
        rw [this]
        exact h he
      · exact hone e (by simpa using he)
    · rw [isHalted, haltOne_other code false e hy] at hh
      rw [haltOne_other code false e hy]
      exact h hh
  have hall := forAll_keeps (I := fun e => isHalted e c = true → (getUnit e c).halt.code = code) hkeep (domCtxs d i) d fun h => by rw [hn] at h; cases h
  exact hall (isHalted_haltRest d i code false c hc)

end Sys2Proof.Machine
end

section
/-! Stalls, the tick that begins, and the replays of reads as rules. -/

open Sys2Proof.Claims

namespace Sys2Proof.Machine

/-! ### What blocks a tick -/

theorem mem_itemBlocks {d : Device} {r : Run} {x : VarItem} (hx : x ∈ r.items) (hd : x.due ≤ r.tick) (hr : readyBy x.ready r.period = false)
    (hh : itemHolds d x = true) : { due := x.due, cause := x.cause } ∈ itemBlocks d r :=
  List.mem_map.2 ⟨x, List.mem_filter.2 ⟨hx, by simp [hd, hr, hh]⟩, rfl⟩

/-- An item that is not an overlay's, nor a release that nobody waits for, holds its tick. -/
theorem itemHolds_of {d : Device} {x : VarItem} (ho : ∀ k p, x.ref ≠ .overlay k p)
    (hr : ∀ k, x.ref = .release k → releaseWanted d k x.ready.isSome = true) : itemHolds d x = true := by
  unfold itemHolds
  split
  · rename_i k p h
    exact absurd h (ho k p)
  · rename_i k h
    exact hr k h
  · rfl

theorem blockers_running {d : Device} {i : DomId} {r : Run} (hr : (getDom d i).run = some r) (hst : (getDom d i).st = .running) (hramp : r.ramp = 0) :
    blockers d i = itemBlocks (asExecuting d i) r ++ (domCtxs d i).flatMap fun c =>
      if isHalted d c then [] else streamBlocks d c r ++ (lateUses (asExecuting d i) c).map fun e => { due := r.tick, cause := e } := by
  simp [blockers, hr, hst, hramp]

/-- A check of the items where no transfer halts a context: the tick is blocked, or begins. -/
theorem itemCheck_eq {d : Device} {i : DomId} {r : Run} (hr : (getDom d i).run = some r) (hl : liveDom (getDom d i) = true) (hs : r.started = true)
    (hst : r.stalled = false) (hp : r.pointDue = false) (ht : tickBegun d i = false) (hn : NoTransferHalt d i) :
    itemCheck d i = if blockers d i = [] then d else modRun d i fun r => { r with stalled := true } := by
  have hf : (domCtxs d i).find? (fun c => !isHalted d c && executing d c && !(transferHalts d c).isEmpty) = none := by
    rw [List.find?_eq_none]
    intro c hc
    rcases hn c hc with h | h | h <;> simp [h]
  simp only [itemCheck, hr, hl, hs, hst, hf, ht, hp, Bool.not_true, Bool.or_self, Bool.false_eq_true, if_false, Bool.false_or]
  by_cases hb : blockers d i = []
  · simp [hb]
  · simp [hb, beginTick]

theorem ite_isEmpty_ne_nil {α : Type} {l m : List α} (h : l ≠ []) : (if l.isEmpty then m else l) ≠ [] := by
  rw [if_neg (by simpa using h)]
  exact h

/-- A context with a failed transfer has a halt to take. -/
theorem takeHalts_transfer {d : Device} {c : CtxId} (hh : isHalted d c = false) (he : executing d c = true) (ht : transferHalts d c ≠ []) :
    ∃ e, takeHalts d c = some e := by
  have hne : haltReqs d c ≠ [] := by
    unfold haltReqs
    rw [if_neg (by simp [hh, he])]
    rcases judgeSeqs (settleUnits d c) c with ⟨l, after, x⟩
    refine ite_isEmpty_ne_nil fun hnil => ht ?_
    simp only [List.append_eq_nil_iff, List.map_eq_nil_iff] at hnil
    obtain ⟨⟨⟨⟨⟨-, htr⟩, -⟩, -⟩, -⟩, -⟩ := hnil
    exact htr
  exact ⟨doHalt d c (haltReqs d c), by simp [takeHalts, hne]⟩

/-! ### The tick that begins -/

theorem filter_due_nil {l : List (Nat × Nat)} {t : Nat} (h : ∀ w ∈ l, t < w.1) : (l.filter fun w => decide (w.1 ≤ t)) = [] :=
  List.filter_eq_nil_iff.2 fun w hw => by simpa using h w hw

/-- No window opens where none is due. -/
theorem openWindows_none {d : Device} {i : DomId} {r : Run} (hr : (getDom d i).run = some r) (h : ∀ w ∈ r.openings, r.tick < w.1) : openWindows d i = d := by
  simp [openWindows, hr, filter_due_nil h]

theorem forAll_modStack_rest (g : Device → Fin 8 → HbmStack → HbmStack) (l : List (Fin 8)) :
    ∀ d : Device, ∃ h, forAll l d (fun d s => modStack d s (g d s)) = { d with hbmStat := h } := by
  induction l with
  | nil => exact fun d => ⟨d.hbmStat, rfl⟩
  | cons s l ih =>
    intro d
    obtain ⟨h, hh⟩ := ih (modStack d s (g d s))
    exact ⟨h, hh⟩

theorem openWindow_eq (d : Device) (i : DomId) (first len : Nat) : ∃ h, openWindow d i first len = modRun { d with hbmStat := h } i fun r =>
    { r with window := max r.window (first + len) } := by
  unfold openWindow
  obtain ⟨h, hh⟩ := forAll_modStack_rest (fun d s x => { x with
    pchs := x.pchs.map (fun p => issueRefresh { p with owed := p.owed - min p.owed (len / 450) } (min p.owed (len / 450)) true d.clock.elapsed)
    windowed := satAdd x.windowed ((vget d.hbmStat s).pchs.toList.foldl (fun a p => a + min p.owed (len / 450)) 0) }) (stacksOf d i.part) d
  exact ⟨h, congrArg (fun e => modRun e i fun r => { r with window := max r.window (first + len) }) hh⟩

/-- Windows that open one after another leave everything but the stacks and the run's window. -/
theorem forAll_openWindow (i : DomId) (l : List (Nat × Nat)) : ∀ d : Device,
    (∃ h p, forAll l d (fun d w => openWindow d i w.1 w.2) = { d with hbmStat := h, parts := p }) ∧
    ∃ w : Run → Nat, (getDom (forAll l d fun d w => openWindow d i w.1 w.2) i).run = (getDom d i).run.map fun r => { r with window := w r } := by
  induction l with
  | nil => exact fun d => ⟨⟨d.hbmStat, d.parts, rfl⟩, Run.window, by simp [forAll]⟩
  | cons x l ih =>
    intro d
    obtain ⟨h, hh⟩ := openWindow_eq d i x.1 x.2
    obtain ⟨⟨h', p', hrest⟩, w, hrun⟩ := ih (openWindow d i x.1 x.2)
    refine ⟨⟨h', p', hrest.trans ?_⟩, fun r => w { r with window := max r.window (x.1 + x.2) }, hrun.trans ?_⟩
    · rw [hh]
      rfl
    · rw [hh, getDom_modRun_same]
      change Option.map _ (Option.map _ (getDom d i).run) = _
      rw [Option.map_map]
      rfl

theorem openWindows_rest (d : Device) (i : DomId) : ∃ h p, openWindows d i = { d with hbmStat := h, parts := p } := by
  unfold openWindows
  split
  · exact ⟨d.hbmStat, d.parts, rfl⟩
  · simp only []
    split
    · exact ⟨d.hbmStat, d.parts, rfl⟩
    · obtain ⟨⟨h, p, hh⟩, -⟩ := forAll_openWindow i _ _
      exact ⟨h, p, hh⟩

/-- The run of the domain after its windows have opened. -/
theorem openWindows_run {d : Device} {i : DomId} {r : Run} (hr : (getDom d i).run = some r) :
    ∃ o w, (getDom (openWindows d i) i).run = some { r with openings := o, window := w } ∧ ((getDom d i).st = .running →
      o = (r.openings.filter fun w => decide (r.tick < w.1)) ∧ ∀ x, r.openings = [x] → x.1 ≤ r.tick → w = max r.window (x.1 + x.2)) := by
  by_cases hdue : ∀ w ∈ r.openings, r.tick < w.1
  · refine ⟨r.openings, r.window, by rw [openWindows_none hr hdue, hr], fun _ => ⟨?_, fun x hx hle => ?_⟩⟩
    · exact (List.filter_eq_self.2 fun w hw => by simpa using hdue w hw).symm
    · exact absurd (hdue x (by simp [hx])) (Nat.not_lt.2 hle)
  by_cases hst : (getDom d i).st = .running
  · have hne : (r.openings.filter fun w => decide (w.1 ≤ r.tick)) ≠ [] := fun h => hdue fun w hw => by
      simpa using List.filter_eq_nil_iff.1 h w hw
    have hgo : openWindows d i = forAll (r.openings.filter fun w => decide (w.1 ≤ r.tick))
        (modRun d i fun r => { r with openings := r.openings.filter fun w => !decide (w.1 ≤ r.tick) }) fun d w => openWindow d i w.1 w.2 := by
      simp only [openWindows, hr]
      rw [if_neg (by simp [hst, hne])]
    have hop : (r.openings.filter fun w => !decide (w.1 ≤ r.tick)) = r.openings.filter fun w => decide (r.tick < w.1) :=
      List.filter_congr fun w _ => by
        rw [← decide_not]
        exact decide_eq_decide.2 Nat.not_le
    rw [hgo]
    by_cases hone : ∃ x, r.openings = [x]
    · obtain ⟨x, hx⟩ := hone
      have hle : x.1 ≤ r.tick := Nat.not_lt.1 fun h => hdue fun w hw => by
        rw [hx, List.mem_singleton] at hw
        rw [hw]
        exact h
      obtain ⟨h, hh⟩ := openWindow_eq (modRun d i fun r => { r with openings := r.openings.filter fun w => !decide (w.1 ≤ r.tick) }) i x.1 x.2
      have hf : (r.openings.filter fun w => decide (w.1 ≤ r.tick)) = [x] := by simp [hx, hle]
      refine ⟨_, max r.window (x.1 + x.2), ?_, fun _ => ⟨rfl, fun y hy _ => ?_⟩⟩
      · rw [hf, forAll_single, hh, getDom_modRun_same, ← hop]
        change Option.map _ (getDom (modRun d i _) i).run = _
        rw [getDom_modRun_same, hr]
        rfl
      · rw [hx] at hy
        rw [List.head_eq_of_cons_eq hy]
    · obtain ⟨-, w, hw⟩ := forAll_openWindow i (r.openings.filter fun w => decide (w.1 ≤ r.tick))
        (modRun d i fun r => { r with openings := r.openings.filter fun w => !decide (w.1 ≤ r.tick) })
      refine ⟨_, w { r with openings := r.openings.filter fun w => !decide (w.1 ≤ r.tick) }, ?_, fun _ => ⟨rfl, fun x hx => absurd ⟨x, hx⟩ hone⟩⟩
      rw [hw, getDom_modRun_same, hr, ← hop]
      rfl
  · refine ⟨r.openings, r.window, ?_, fun h => absurd h hst⟩
    have hgo : openWindows d i = d := by simp [openWindows, hr, hst]
    rw [hgo, hr]

/-! ### The ports at the start of a tick -/

/-- What the reads of a tick's start change of the domains and replays: the items and the taint of runs, and replays that are added. -/
structure PortWork (d e : Device) : Prop where
  dom : ∀ i, ∃ (f : Run → List VarItem) (g : Run → Bool),
    getDom e i = { getDom d i with run := (getDom d i).run.map fun r => { r with items := f r, tainted := g r } }
  events : e.err.events = d.err.events
  replays : ∀ c, ∀ x ∈ (getUnit d c).replays, x ∈ (getUnit e c).replays

namespace PortWork

theorem of_doms {d e : Device} (h : ∀ i, getDom e i = getDom d i) (he : e.err.events = d.err.events)
    (hr : ∀ c, ∀ x ∈ (getUnit d c).replays, x ∈ (getUnit e c).replays) : PortWork d e :=
  ⟨fun i => ⟨Run.items, Run.tainted, by rw [h]; simp⟩, he, hr⟩

theorem refl (d : Device) : PortWork d d := of_doms (fun _ => rfl) rfl fun _ _ h => h

theorem trans {d x e : Device} (h : PortWork d x) (k : PortWork x e) : PortWork d e := by
  refine ⟨fun i => ?_, k.events.trans h.events, fun c y hy => k.replays c y (h.replays c y hy)⟩
  obtain ⟨f, g, hx⟩ := h.dom i
  obtain ⟨f', g', he⟩ := k.dom i
  exact ⟨fun r => f' { r with items := f r, tainted := g r }, fun r => g' { r with items := f r, tainted := g r }, by rw [he, hx]; simp [Function.comp_def]⟩

theorem all {α : Type} {f : Device → α → Device} (h : ∀ e x, PortWork e (f e x)) (l : List α) : ∀ d, PortWork d (forAll l d f) := by
  induction l with
  | nil => exact refl
  | cons x l ih => exact fun d => (h d x).trans (ih _)

theorem modUnit (d : Device) (c : CtxId) {f : CtxUnit → CtxUnit} (h : ∀ u, ∃ l, (f u).replays = u.replays ++ l) : PortWork d (modUnit d c f) := by
  refine of_doms (fun _ => rfl) rfl fun y x hx => ?_
  by_cases hy : y = c
  · subst hy
    obtain ⟨l, hl⟩ := h (getUnit d y)
    rw [getUnit_modUnit_same, hl]
    exact List.mem_append_left _ hx
  · rw [getUnit_modUnit_other _ _ _ _ hy]
    exact hx

end PortWork

theorem events_taint (d : Device) (det unit : BitVec 16) : (taint d det unit).err.events = d.err.events :=
  forAll_proj (fun e => e.err.events) (fun e i => by split <;> rfl) _ d

theorem events_inject (d : Device) (det unit : BitVec 16) : (inject d det unit).2.err.events = d.err.events := by
  unfold inject
  split
  · exact events_taint _ _ _
  · rfl

theorem portWork_inject (d : Device) (det unit : BitVec 16) : PortWork d (inject d det unit).2 := by
  have h := reported_inject d det unit
  refine ⟨fun i => ?_, events_inject d det unit, fun c x hx => by rw [h.getUnit]; exact hx⟩
  obtain ⟨g, hg⟩ := h.dom i
  exact ⟨Run.items, g, hg⟩

theorem portWork_addItem (d : Device) (c : CtxId) (x : VarItem) : PortWork d (addItem d c x) := by
  unfold addItem
  split
  · exact .refl d
  · rename_i k _
    refine ⟨fun i => ?_, rfl, fun _ _ h => h⟩
    by_cases hk : k = i
    · subst hk
      exact ⟨fun r => r.items ++ [x], Run.tainted, getDom_modRun_same _ _ _⟩
    · rw [getDom_modRun_other _ _ _ _ hk]
      exact ⟨Run.items, Run.tainted, by simp⟩

theorem portWork_failingRead (d : Device) (r : CtxId) (key : Nat) (source : BitVec 2) (seq : Fin 4) (pc : BitVec 12) (det : BitVec 16) (inj : Bool)
    (ahead : Nat) : PortWork d (failingRead d r key source seq pc det inj ahead) :=
  (PortWork.modUnit d r fun _ => ⟨_, rfl⟩).trans (portWork_addItem _ _ _)

theorem portWork_parityRead (d : Device) (r c : CtxId) (off n : Nat) (source : BitVec 2) (seq : Fin 4) (pc : BitVec 12) (ahead : Nat) :
    PortWork d (parityRead d r c off n source seq pc ahead) := by
  have hbad : PortWork d (forAll (badWords d c off n) d fun d k => failingRead d r k source seq pc 0x101 true ahead) :=
    PortWork.all (fun e k => portWork_failingRead e r k source seq pc 0x101 true ahead) _ d
  unfold parityRead
  simp only []
  split
  · exact (hbad.trans (portWork_inject _ _ _)).trans (portWork_failingRead _ _ _ _ _ _ _ _ _)
  · exact hbad

/-- The load port takes the banks that the second halves of line loads need. -/
def busTurned (u : CtxUnit) : CtxUnit := { u with busBanks := u.busBanks ||| u.busNext, busNext := 0 }

/-- The bytes of a second half complete its fill. -/
def halfRead (f : Fill) (bs : List Byte) (u : CtxUnit) : CtxUnit :=
  { u with fills := u.fills.map fun x => if x = f then { x with data := x.data ||| (bytesEntry bs <<< 1024), rest := none } else x }

theorem secondHalf_eq {d : Device} {c : CtxId} {f : Fill} (h : (getUnit d c).fills.find? (·.rest.isSome) = some f) : secondHalf d c =
    parityRead (modUnit d c (halfRead f (readPad d c (f.rest.getD 0) 128))) c c (f.rest.getD 0) 128 0 f.seq f.pc 0 := by
  simp only [secondHalf, h]
  rfl

theorem secondHalf_none {d : Device} {c : CtxId} (h : (getUnit d c).fills.find? (·.rest.isSome) = none) : secondHalf d c = d := by simp [secondHalf, h]

theorem startPorts_eq (d : Device) (c : CtxId) : startPorts d c = secondHalf (modUnit d c busTurned) c := rfl

theorem portWork_secondHalf (d : Device) (c : CtxId) : PortWork d (secondHalf d c) := by
  cases h : (getUnit d c).fills.find? (·.rest.isSome) with
  | none =>
    rw [secondHalf_none h]
    exact .refl d
  | some f =>
    rw [secondHalf_eq h]
    exact (PortWork.modUnit d c (f := halfRead f _) fun _ => ⟨[], (List.append_nil _).symm⟩).trans (portWork_parityRead _ _ _ _ _ _ _ _ _)

theorem portWork_startPorts (d : Device) (c : CtxId) : PortWork d (startPorts d c) :=
  (PortWork.modUnit d c (f := busTurned) fun _ => ⟨[], (List.append_nil _).symm⟩).trans (portWork_secondHalf _ _)

/-- The ports of a domain's contexts start where its run has no unnumbered tick left. -/
def portsStart (d : Device) (c : CtxId) : Device := if (runOf d c).any (·.ramp = 0) then startPorts d c else d

theorem portWork_portsStart (d : Device) (c : CtxId) : PortWork d (portsStart d c) := by
  unfold portsStart
  split
  · exact portWork_startPorts d c
  · exact .refl d

/-- The run as its tick begins. -/
def tickStarted (now : Nat) (g : Option Program) (r : Run) : Run :=
  { r with
    stalled := false, pointDue := r.ramp = 0 && (match g with | some g => isPoint g r.tick | none => false)
    paceStart := if r.ramp = 0 && r.resuming then now else r.paceStart, resuming := r.resuming && r.ramp != 0 }

theorem beginTick_free {d : Device} {i : DomId} (h : blockers d i = []) : beginTick d i =
    modRun (forAll (domCtxs (openWindows d i) i) (openWindows d i) portsStart) i
      (tickStarted (nowNs (forAll (domCtxs (openWindows d i) i) (openWindows d i) portsStart)) (getDom d i).prog) := by
  simp only [beginTick, h, List.isEmpty_nil, if_true]
  rfl

/-- A tick that begins: its run, and the ports' work on the device whose windows have opened. -/
theorem run_beginTick {d : Device} {i : DomId} {r : Run} {g : Program} (hr : (getDom d i).run = some r) (hg : (getDom d i).prog = some g)
    (hb : blockers d i = []) : ∃ q, (getDom (beginTick d i) i).run = some q ∧ q.stalled = false ∧ q.tick = r.tick ∧ q.period = r.period ∧ q.ramp = r.ramp ∧
      q.pointDue = (decide (r.ramp = 0) && isPoint g r.tick) ∧ ((getDom d i).st = .running →
        q.openings = (r.openings.filter fun w => decide (r.tick < w.1)) ∧ ∀ w, r.openings = [w] → w.1 ≤ r.tick → q.window = max r.window (w.1 + w.2)) := by
  have hgo := beginTick_free hb
  obtain ⟨o, w, hrun, ho⟩ := openWindows_run hr
  obtain ⟨f, t, hports⟩ := (PortWork.all portWork_portsStart (domCtxs (openWindows d i) i) (openWindows d i)).dom i
  refine ⟨tickStarted (nowNs (forAll (domCtxs (openWindows d i) i) (openWindows d i) portsStart)) (some g) { r with openings := o, window := w, items := f { r with openings := o, window := w }, tainted := t { r with openings := o, window := w } },
    ?_, rfl, rfl, rfl, rfl, rfl, ho⟩
  rw [hgo, getDom_modRun_same, hports, hrun, hg]
  rfl

/-- What the start of a tick leaves of the events and the replays that wait. -/
theorem stallRelease_keeps (d : Device) (i : DomId) : (stallRelease d i).err.events = d.err.events ∧
    ∀ c, ∀ x ∈ (getUnit d c).replays, x ∈ (getUnit (stallRelease d i) c).replays := by
  have hbegin : blockers d i = [] → (beginTick d i).err.events = d.err.events ∧ ∀ c, ∀ x ∈ (getUnit d c).replays, x ∈ (getUnit (beginTick d i) c).replays := by
    intro hb
    have hgo := beginTick_free hb
    obtain ⟨h, p, hw⟩ := openWindows_rest d i
    have hports := PortWork.all portWork_portsStart (domCtxs (openWindows d i) i) (openWindows d i)
    have hev : (openWindows d i).err = d.err := by rw [hw]
    have hun : ∀ c, getUnit (openWindows d i) c = getUnit d c := fun c => by rw [hw]; rfl
    rw [hgo]
    exact ⟨hports.events.trans (by rw [hev]), fun c x hx => hports.replays c x (by rw [hun]; exact hx)⟩
  unfold stallRelease
  split
  · split
    · rename_i h
      exact hbegin (by simpa using (Bool.and_eq_true_iff.1 h).2)
    · exact ⟨rfl, fun _ _ h => h⟩
  · exact ⟨rfl, fun _ _ h => h⟩

/-- A context whose ports have nothing left over from the tick before. -/
theorem portsStart_idle {d : Device} {c : CtxId} (hn : (getUnit d c).busNext = 0) (hf : ∀ f ∈ (getUnit d c).fills, f.rest = none) : portsStart d c = d := by
  have hbus : modUnit d c busTurned = d := by
    refine modUnit_eq_self ?_
    have hz : busTurned (getUnit d c) = { getUnit d c with busNext := 0 } := by
      rw [busTurned, hn, show (getUnit d c).busBanks ||| 0 = (getUnit d c).busBanks from BitVec.or_zero]
    rw [hz, ← hn]
  unfold portsStart
  split
  · rw [startPorts_eq, hbus, secondHalf_none (List.find?_eq_none.2 fun f h => by simp [hf f h])]
  · rfl

theorem parityRead_sound {d : Device} {c : CtxId} (r : CtxId) (off n : Nat) (source : BitVec 2) (seq : Fin 4) (pc : BitVec 12) (ahead : Nat)
    (hb : d.scratchBad = []) (ha : isArmed d 0x100 (coreUnit c) = false) : parityRead d r c off n source seq pc ahead = d := by
  have hbad : badWords d c off n = [] := by simp [badWords, hb]
  simp only [parityRead, hbad, forAll, List.foldl_nil, ha, Bool.false_and, Bool.false_eq_true, if_false]

theorem readPad_modUnit (d : Device) (c y : CtxId) (F : CtxUnit → CtxUnit) (off n : Nat) : readPad (modUnit d y F) c off n = readPad d c off n := by
  simp only [readPad, readTarget, targetKey, isSplit_modUnit]
  rfl

/-- The second half of the one line load of a context. -/
theorem startPorts_line {d : Device} {c : CtxId} {f : Fill} {off : Nat} (hf : (getUnit d c).fills = [f]) (hr : f.rest = some off) (hb : d.scratchBad = [])
    (ha : isArmed d 0x100 (coreUnit c) = false) :
    startPorts d c = modUnit d c fun u => halfRead f (readPad d c off 128) (busTurned u) := by
  have hfind : (getUnit (modUnit d c busTurned) c).fills.find? (·.rest.isSome) = some f := by
    rw [getUnit_modUnit_same]
    simp [busTurned, hf, hr]
  rw [startPorts_eq, secondHalf_eq hfind, hr, Option.getD_some, readPad_modUnit, modUnit_modUnit_same]
  exact parityRead_sound c off 128 0 f.seq f.pc 0 hb ha

theorem fills_halfRead {f : Fill} {u : CtxUnit} (bs : List Byte) (h : u.fills = [f]) :
    (halfRead f bs u).fills = [{ f with data := f.data ||| (bytesEntry bs <<< 1024), rest := none }] := by
  simp [halfRead, h]

end Sys2Proof.Machine
end

section
/-! O53: the resends of reads under replay, and the statement on the domains that stall, halt and meet their deadlines. -/

open Sys2Proof.Claims

namespace Sys2Proof.Machine

/-! ### An event where nothing waits -/

theorem logged_pushEvent (d : Device) (e : ErrEvent) (p : EventPlace) : Logged (pushEvent d e p) e.det e.unit e.sev e.code :=
  ⟨_, List.mem_append_right _ (List.mem_singleton.2 rfl), rfl, rfl, rfl, rfl⟩

theorem logged_overrun {d : Device} {det unit : BitVec 16} {sev : BitVec 2} {code : Byte} (h : Logged d det unit sev code) (k : Nat) (inj : Bool) :
    Logged (overrun d k inj) det unit sev code := by
  obtain ⟨x, hx, h⟩ := h
  exact ⟨x, List.mem_append_left _ hx, h⟩

/-- An event that meets none waits at the head of its crossing, whatever is armed. -/
theorem logged_detect_first {d : Device} {e : ErrEvent} (he : d.err.events = []) : Logged (detect d e) e.det e.unit e.sev e.code := by
  have ht : (if e.inj then taint d e.det e.unit else d).err.events = [] := by
    split
    · rw [events_taint, he]
    · exact he
  unfold detect
  generalize (if e.inj then taint d e.det e.unit else d) = x at ht
  cases crossingOf e.det e.unit with
  | none => exact logged_pushEvent _ _ _
  | some k =>
    simp only []
    have hy : (inject x 0x162 (BitVec.ofNat 16 k)).2.err.events = [] := (events_inject _ _ _).trans ht
    generalize inject x 0x162 (BitVec.ofNat 16 k) = y at hy
    obtain ⟨inj, z⟩ := y
    have hz : z.err.events = [] := hy
    simp only [inCrossing, hz, List.filter_nil, List.countP_nil]
    cases inj
    · exact logged_pushEvent _ _ _
    · exact logged_overrun (logged_pushEvent _ _ _) _ _

theorem getUnit_notePad (d : Device) (key : Nat) (source : BitVec 2) (persistent : Bool) (c : CtxId) :
    getUnit (notePad d key source persistent) c = getUnit d c := getUnit_modCore_proj id d _ c fun _ _ => rfl

theorem getUnit_recordCheck (d : Device) (c : CtxId) (x : Replay) (y : CtxId) : getUnit (recordCheck d c x) y = getUnit d y :=
  ((reported_detect _ _).getUnit y).trans (getUnit_notePad _ _ _ _ y)

theorem logged_recordCheck {d : Device} {c : CtxId} {x : Replay} (he : d.err.events = []) (hp : x.persistent = false) :
    ∃ u, Logged (recordCheck d c x) x.det u 1 0 := by
  unfold recordCheck
  by_cases h : x.det = 0x102
  · rw [if_pos h]
    exact ⟨_, logged_detect_first (d := notePad d x.offset x.source x.persistent) he⟩
  · rw [if_neg h, hp]
    exact ⟨_, logged_detect_first (d := notePad d x.offset x.source false) he⟩

/-! ### Resends (R224, R225) -/

/-- What becomes of the read under replay that a resend was for. -/
def replaced (r : Replay) (l : List Replay) (u : CtxUnit) : CtxUnit := { u with replays := u.replays.flatMap fun x => if x = r then l else [x] }

theorem replays_replaced {d : Device} {c : CtxId} {r : Replay} (l : List Replay) (h : (getUnit d c).replays = [r]) :
    (getUnit (modUnit d c (replaced r l)) c).replays = l := by
  rw [getUnit_modUnit_same]
  simp [replaced, h]

section Resend
variable {d : Device} {c : CtxId} {r : Replay}

theorem resend_found (h : (getUnit d c).replays = [r]) (hc : r.checked = true) (hp : r.persistent = false) (ht : periodOf d c = r.since + 3) :
    (getUnit d c).replays.find? (resendNow d c) = some r := by
  simp [h, resendNow, hc, hp, ht]

variable (hf : (getUnit d c).replays.find? (resendNow d c) = some r)
include hf

/-- A resend that arrives sound ends the replay and is counted at the owner of the word. -/
theorem resendArrives_sound (h : (getUnit d c).replays = [r]) : (getUnit (resendArrives d c true) c).replays = [] ∧
    (getCore (resendArrives d c true) (finMod 512 (r.offset / 4194304))).replays = satAdd (getCore d (finMod 512 (r.offset / 4194304))).replays 1 := by
  simp only [resendArrives, hf, if_true]
  generalize (finMod 512 (r.offset / 4194304) : CoreId) = k
  have hgo : (getUnit (modCore (modUnit d c (replaced r [])) k fun k => { k with replays := satAdd k.replays 1 }) c).replays = [] ∧
      (getCore (modCore (modUnit d c (replaced r [])) k fun k => { k with replays := satAdd k.replays 1 }) k).replays = satAdd (getCore d k).replays 1 := by
    have hk : (getCore (modUnit d c (replaced r [])) k).replays = (getCore d k).replays := getCore_modCore_proj (fun k => k.replays) d c.core k fun _ => rfl
    have hu : ∀ e, getUnit (modCore e k fun k => { k with replays := satAdd k.replays 1 }) c = getUnit e c := fun e =>
      getUnit_modCore_proj id e k c fun _ _ => rfl
    rw [getCore_modCore_same, hk, hu]
    exact ⟨replays_replaced [] h, rfl⟩
  split
  · exact hgo
  · exact hgo

theorem resendArrives_retry (ht : r.tries < 2) : ∃ F, resendArrives d c false = modUnit (recordCheck d c r) c F ∧
    ∀ u, u.replays = [r] → (F u).replays = [{ r with tries := r.tries + 1, since := periodOf d c }] := by
  refine ⟨fun u => { u with replays := u.replays.flatMap fun x => if x = r then [{ x with tries := x.tries + 1, since := periodOf d c }] else [x] },
    by simp only [resendArrives, hf, Bool.false_eq_true, if_false, ht, if_true], fun u hu => by simp [hu]⟩

/-- A third resend that fails leaves a persistent error, which is recorded. -/
theorem resendArrives_failed (h : (getUnit d c).replays = [r]) (ht : 2 ≤ r.tries) (he : d.err.events = []) :
    { r with tries := 3, persistent := true } ∈ (getUnit (resendArrives d c false) c).replays ∧
    ∃ u, Logged (resendArrives d c false) (if r.det = 0x102 then 0x102 else 0x101) u 2 0x0C := by
  have hnot : ¬ r.tries < 2 := Nat.not_lt.2 ht
  have hgo : ∀ e : ErrEvent, ∀ z, (∀ y, getUnit z y = getUnit (modUnit (detect (notePad d r.offset r.source true) e) c fun u =>
      { u with replays := u.replays.flatMap fun x => if x = r then [{ x with tries := 3, persistent := true }] else [x] }) y) →
      z.err = (detect (notePad d r.offset r.source true) e).err →
      { r with tries := 3, persistent := true } ∈ (getUnit z c).replays ∧ ∃ u, Logged z e.det u e.sev e.code := by
    intro e z hu hz
    refine ⟨?_, e.unit, ?_⟩
    · rw [hu, getUnit_modUnit_same, (reported_detect _ e).getUnit, getUnit_notePad, h]
      simp
    · unfold Logged
      rw [hz]
      exact logged_detect_first he
  simp only [resendArrives, hf, Bool.false_eq_true, if_false, hnot]
  by_cases hdet : r.det = 0x102
  · simp only [if_pos hdet]
    split <;> exact hgo _ _ (fun _ => rfl) rfl
  · simp only [if_neg hdet]
    split <;> exact hgo _ _ (fun _ => rfl) rfl

end Resend

/-- Where no read has failed for the third time, the arrival of a resend starts no tick. -/
theorem resendArrival_quiet {d : Device} {c : CtxId} {ok : Bool}
    (h : ((getUnit (resendArrives d c ok) c).replays.any fun x => x.persistent && decide (x.tries = 3)) = false) : resendArrival d c ok = resendArrives d c ok := by
  unfold resendArrival
  simp only [h, Bool.false_eq_true, if_false]
  split <;> rfl

theorem resendArrival_keeps (d : Device) (c : CtxId) (ok : Bool) :
    (∀ x ∈ (getUnit (resendArrives d c ok) c).replays, x ∈ (getUnit (resendArrival d c ok) c).replays) ∧
    (resendArrival d c ok).err.events = (resendArrives d c ok).err.events := by
  unfold resendArrival
  simp only []
  split
  · split
    · exact ⟨(stallRelease_keeps _ _).2 c, (stallRelease_keeps _ _).1⟩
    · exact ⟨fun _ h => h, rfl⟩
  · exact ⟨fun _ h => h, rfl⟩

/-! ### Deadline points (R55, R56) -/

/-- The points of a program's pace that fall on the run's tick, and those of them that it misses. -/
def pointsDue (p : Pace) (r : Run) : List Nat := (List.range p.points.length).filter fun k => (p.points.getD k (0, 0)).1 = r.tick
def pointsLate (d : Device) (p : Pace) (r : Run) : List Nat :=
  (pointsDue p r).filter fun k => decide ((r.paceStart + (p.points.getD k (0, 0)).2) * 16 < d.clock.time16 + 16 * r.elapsed)

/-- The device with a tick's points compared. -/
def pointsCompared (d : Device) (i : DomId) (p : Pace) (r : Run) : Device :=
  modRun (freeOutput d i (pointsLate d p r)) i fun x => { x with
    pointDue := false
    deadline := x.deadline + (pointsDue p r).length
    miss := x.miss + BitVec.ofNat 64 (pointsLate d p r).length
    missed := x.missed ++ pointsLate d p r }

theorem domCtxs_pointsCompared (d : Device) (i : DomId) (p : Pace) (r : Run) : domCtxs (pointsCompared d i p r) i = domCtxs d i := by
  have hp : (getDom (pointsCompared d i p r) i).prog = (getDom d i).prog := by
    rw [pointsCompared, getDom_modRun_same]
    rfl
  simp only [domCtxs, hp]

theorem deadlinePoint_eq {d : Device} {i : DomId} {r : Run} {g : Program} {p : Pace} (hr : (getDom d i).run = some r) (hg : (getDom d i).prog = some g)
    (hpace : g.pace = some p) (hdue : r.pointDue = true) (hst : r.stalled = false) (hl : liveDom (getDom d i) = true) : deadlinePoint d i =
      if p.haltOnMiss && !(pointsLate d p r).isEmpty then haltRest (pointsCompared d i p r) i 0x0F false else pointsCompared d i p r := by
  simp only [deadlinePoint, hr, hg, hpace, hdue, hst, hl, Option.bind_some, Bool.not_true, Bool.or_self, Bool.false_eq_true, if_false]
  rfl

end Sys2Proof.Machine

open Sys2Proof.Machine

/-- Settles O53: a stall through what blocks a tick and what its start leaves of the run; a domain's halts through the halt of each of its
contexts; a resend through the one read under replay. -/
theorem domainsStallHaltAndMeetDeadlines : Obligations.DomainsStallHaltAndMeetDeadlines := by
  unfold Obligations.DomainsStallHaltAndMeetDeadlines
  refine ⟨fun d i r it hr hst hramp hit ho hrel hdue hready => ?_, fun s i r hr hl hs hst hp ht hn => ⟨fun hb => ?_, fun hb => ?_⟩,
    fun s i r c hr hl hs hst hc hh he ht => ?_, fun s i r g hr hg hl hs hst hb => ⟨?_, fun hop hidle => ?_, fun c f off hop hc hrun hramp hf hrest hbad harm => ?_⟩,
    fun s i hp => ?_, fun s i c hp hc ht => ?_, fun d c q un a => ?_, fun s w x he ha ht hreq hcode hseq => ?_,
    fun s i r g p hr hg hpace hdue hst hl => ⟨fun hmiss => ?_, fun hmiss hlate => ?_⟩, fun d i l c b hc hheld hpart hdom hjob hmem => ?_,
    fun s c r h hchk hp hper => ⟨?_, fun ht => ?_, fun ht he => ?_⟩⟩
  · rw [blockers_running hr hst hramp]
    have hh : itemHolds (asExecuting d i) it = true := itemHolds_of ho hrel
    exact List.append_ne_nil_of_left_ne_nil (List.ne_nil_of_mem (mem_itemBlocks hit hdue hready hh)) _
  · refine gives_of_onDev (f := fun d => itemCheck d i) rfl ?_
    rw [itemCheck_eq hr hl hs hst hp ht hn, if_neg hb]
  · refine gives_of_onDev (f := fun d => itemCheck d i) rfl ?_
    rw [itemCheck_eq hr hl hs hst hp ht hn, if_pos hb]
  · obtain ⟨e, hgo⟩ := takeHalts_transfer hh he ht
    refine answers_of_onDev (f := fun d => itemCheck d i) rfl ?_ (isHalted_takeHalts hgo hh)
    simp [itemCheck, hr, hl, hs, hst, hc, hh, he, ht, hgo]
  · refine answers_of_onDev (f := fun d => stallRelease d i) (e := beginTick s.dev i) rfl ?_ (run_beginTick hr hg hb)
    simp [stallRelease, hr, hl, hs, hst, hb]
  · refine gives_of_onDev (f := fun d => stallRelease d i) rfl ?_
    have hports : forAll (domCtxs s.dev i) s.dev portsStart = s.dev := forAll_id fun c hc => portsStart_idle (hidle c hc).1 (hidle c hc).2
    have hgo : stallRelease s.dev i = beginTick s.dev i := by simp [stallRelease, hr, hl, hs, hst, hb]
    rw [hgo, beginTick_free hb, openWindows_none hr hop, hports, hg]
    exact congrArg (modRun s.dev i) (funext fun r => by simp [tickStarted])
  · have hports : portsStart s.dev c = startPorts s.dev c := by simp [portsStart, hrun, hramp]
    have hgo : stallRelease s.dev i = beginTick s.dev i := by simp [stallRelease, hr, hl, hs, hst, hb]
    have hend : ∃ now, stallRelease s.dev i = modRun (modUnit s.dev c fun u => halfRead f (readPad s.dev c off 128) (busTurned u)) i
        (tickStarted now (getDom s.dev i).prog) := by
      refine ⟨nowNs s.dev, ?_⟩
      rw [hgo, beginTick_free hb, openWindows_none hr hop, hc, forAll_single, hports, startPorts_line hf hrest hbad harm]
      rfl
    obtain ⟨now, hend⟩ := hend
    refine answers_of_onDev (f := fun d => stallRelease d i) rfl hend ⟨?_, ?_, rfl⟩
    · rw [getUnit_modRun, getUnit_modUnit_same]
      exact fills_halfRead _ hf
    · rw [getUnit_modRun, getUnit_modUnit_same]
      rfl
  · refine answers_of_onDev (f := fun d => haltPropagate d i) rfl ?_ (isHalted_haltRest s.dev i 0x16 true)
    simp [haltPropagate, hp]
  · have hh : isHalted s.dev c = false := by
      simp only [propagateDue, hc, Bool.and_eq_true] at hp
      simpa using hp.2
    refine answers_of_onDev (f := fun d => haltPropagate d i) rfl ?_ (halt_haltNoBundle_same 0x16 hh)
    simp [haltPropagate, hp, haltRest_eq, hc, forAll_single, haltOne, hh, ht]
  · unfold waitOrExpire
    simp only []
    congr 1
    simp [and_assoc]
  · have hh : isHalted s.dev (ctxOf s.dev w) = false := by
      by_contra h
      have : haltReqs s.dev (ctxOf s.dev w) = [] := by simp [haltReqs, h]
      rw [this] at hreq
      cases hreq
    have hgo : watchdogExpires s.dev w = doHalt s.dev (ctxOf s.dev w) [x] := by
      simp [watchdogExpires, he, ha, takeHalts, hreq, hcode, hseq]
    refine answers_of_onDev (f := fun d => watchdogExpires d w) rfl hgo ?_
    rw [halt_doHalt_same (x := x) rfl hh, hseq, hcode]
    simp
  · refine gives_of_onDev (f := fun d => deadlinePoint d i) rfl ?_
    have hgo : ¬ (p.haltOnMiss && !(pointsLate s.dev p r).isEmpty) = true := by
      rcases hmiss with h | h
      · simp [h]
      · have : pointsLate s.dev p r = [] := h
        simp [this]
    rw [deadlinePoint_eq hr hg hpace hdue hst hl, if_neg hgo]
    rfl
  · have hgo : (p.haltOnMiss && !(pointsLate s.dev p r).isEmpty) = true := by
      have : pointsLate s.dev p r ≠ [] := hlate
      simp [hmiss, this]
    have hx := domCtxs_pointsCompared s.dev i p r
    refine answers_of_onDev (f := fun d => deadlinePoint d i) rfl ((deadlinePoint_eq hr hg hpace hdue hst hl).trans (if_pos hgo)) fun c hc => ⟨?_, fun hn => ?_⟩
    · exact isHalted_haltRest _ i 0x0F false c (by rw [hx]; exact hc)
    · exact code_haltRest _ i 0x0F (by rw [hx]; exact hc) hn
  · refine List.mem_map.2 ⟨c, hc, if_pos ?_⟩
    simp [hheld, hpart, hdom, hjob, hmem]
  · obtain ⟨hr, hk⟩ := resendArrives_sound (resend_found h hchk hp hper) h
    refine answers_of_onDev (f := fun d => resendArrival d c true) rfl (resendArrival_quiet (by rw [hr]; simp)) ⟨hr, hk⟩
  · obtain ⟨F, hgo, hF⟩ := resendArrives_retry (resend_found h hchk hp hper) ht
    have hrep : (getUnit (resendArrives s.dev c false) c).replays = [{ r with tries := r.tries + 1, since := periodOf s.dev c }] := by
      rw [hgo, getUnit_modUnit_same]
      exact hF _ (by rw [getUnit_recordCheck, h])
    refine answers_of_onDev (f := fun d => resendArrival d c false) rfl (resendArrival_quiet (by simp [hrep, hp])) ⟨hrep, fun he => ?_⟩
    rw [hgo]
    exact logged_recordCheck he hp
  · obtain ⟨hmem, u, hlog⟩ := resendArrives_failed (resend_found h hchk hp hper) h ht he
    obtain ⟨hrep, hev⟩ := resendArrival_keeps s.dev c false
    refine answers_of_onDev (f := fun d => resendArrival d c false) rfl rfl ⟨hrep _ hmem, u, ?_⟩
    unfold Logged
    rw [hev]
    exact hlog
end

section
/-! O49: an external message inside the package that has come due is handed to the hub, though its path could still be crossed. -/

open Sys2Proof.Claims

namespace Sys2Proof.Machine

/-- Channel 0 of core 0 leads to another stall domain of the package: route kind 3, package index 0 (R273, R343). -/
def externalRoute : RouteEntry := { (default : RouteEntry) with kind := 3 }
def externalProgram : Program := { (default : Program) with routes := [(⟨0, 0⟩, [externalRoute])] }

/-- A message of one unit on that channel, due, whose item still stands as variable. -/
def externalFlight : Flight := { (default : Flight) with
  req := { (default : Request) with
    kind := .message 0 1 [5] 0
    valid := true
    bytes := 64 }
  error := none
  var := true }

/-- Core 0, bound to domain 0 of that program, with that message alone in transport. -/
def externalDevice : Device := modDom (modUnit Device.reset ⟨0, 0⟩ fun u => { u with bound := some 0, flights := [externalFlight] }) ⟨0, 0⟩ fun m =>
  { m with prog := some externalProgram }

theorem flights_reset (c : CtxId) : (getUnit Device.reset c).flights = [] := by
  simp [getUnit, getCore, Device.reset, vget, Core.reset, CtxUnit.reset]

theorem flights_externalDevice (c : CtxId) : (getUnit externalDevice c).flights = if c = ⟨0, 0⟩ then [externalFlight] else [] := by
  rw [externalDevice, getUnit_modDom]
  split
  · rename_i h
    rw [h, getUnit_modUnit_same]
  · rename_i h
    rw [getUnit_modUnit_other _ _ _ _ h]
    exact flights_reset c

/-- Alone in transport, the message is the first to its core. -/
theorem messageTurn_externalFlight : messageTurn externalDevice ⟨0, 0⟩ externalFlight = true := by
  have hr : readsDue externalDevice (ctxOfScore externalFlight.req.addr.toNat) = false := by decide +kernel
  simp only [messageTurn, hr, Bool.not_false, Bool.true_and, List.all_eq_true, flights_externalDevice]
  intro k _ x _
  split
  · rename_i h
    rw [h]
    simp
  · simp

theorem routeOf_externalDevice : routeOf externalDevice ⟨0, 0⟩ 0 = some externalRoute := by decide +kernel

/-- A due message to another stall domain of the package is handed to the hub. -/
theorem messageDeliver_external {d : Device} {c : CtxId} {f : Flight} {chan : Byte} {n off : Nat} {us : List (BitVec 512)} {r : RouteEntry}
    (hf : (getUnit d c).flights = [f]) (hdue : messageDue d c f = true) (ht : messageTurn d c f = true) (hk : f.req.kind = .message chan n us off)
    (hr : routeOf d c chan = some r) (h3 : r.kind = 3) (hx : externalTarget d c r = none) :
    messageDeliver d c = sendExternal (endFlight d c f) c chan us := by
  have hgo : (getUnit d c).flights.find? (fun f => messageDue d c f && messageTurn d c f) = some f := by simp [hf, hdue, ht]
  simp only [messageDeliver, hgo, hk, hr, h3, hx, if_true, Option.any_none, Bool.false_eq_true, if_false]

theorem messageDeliver_externalDevice :
    messageDeliver externalDevice ⟨0, 0⟩ = sendExternal (endFlight externalDevice ⟨0, 0⟩ externalFlight) ⟨0, 0⟩ 0 [5] :=
  messageDeliver_external (flights_externalDevice _) (by decide +kernel) messageTurn_externalFlight rfl routeOf_externalDevice rfl (by decide +kernel)

/-- What the end of a flight leaves of what routes a message. -/
structure KeepsRoutes (d e : Device) : Prop where
  prog : ∀ i, (getDom e i).prog = (getDom d i).prog
  bound : ∀ c, (getUnit e c).bound = (getUnit d c).bound
  split : ∀ k, isSplit e k = isSplit d k
  fab : e.fab = d.fab
  config : e.config = d.config

namespace KeepsRoutes

theorem partOfCore {d e : Device} (h : KeepsRoutes d e) (k : CoreId) : partOfCore e k = partOfCore d k := by
  simp only [Machine.partOfCore, partOfDie, diesPer, h.config]

theorem routeOf {d e : Device} (h : KeepsRoutes d e) (c : CtxId) (chan : Byte) : routeOf e c chan = routeOf d c chan := by
  simp only [Machine.routeOf, progOf, domOf, h.split, h.bound, h.partOfCore, h.prog]

theorem inPackage {d e : Device} (h : KeepsRoutes d e) (r : RouteEntry) : inPackage e r = inPackage d r := by
  simp only [Machine.inPackage, h.fab]

theorem inboundEntry {d e : Device} (h : KeepsRoutes d e) (p : PartId) (src : BitVec 18) (inid : Byte) :
    inboundEntry e p src inid = inboundEntry d p src inid := by
  simp only [Machine.inboundEntry, h.prog]

end KeepsRoutes

theorem keepsRoutes_modRun (d : Device) (i : DomId) (f : Run → Run) : KeepsRoutes d (modRun d i f) := by
  refine ⟨fun j => ?_, fun _ => rfl, fun _ => rfl, rfl, rfl⟩
  by_cases hj : i = j
  · rw [hj, getDom_modRun_same]
  · rw [getDom_modRun_other _ _ _ _ hj]

theorem endFlight_spec (d : Device) (c : CtxId) (f : Flight) : KeepsRoutes d (endFlight d c f) ∧
    (getUnit (endFlight d c f) c).flights = (getUnit d c).flights.filter fun x => x.uid != f.uid := by
  have hmod : ∀ l, KeepsRoutes d (modUnit (linksPassed d l) c fun u => { u with flights := u.flights.filter fun x => x.uid != f.uid }) := fun l =>
    ⟨fun _ => rfl, fun y => getUnit_modUnit_proj (fun u => u.bound) (linksPassed d l) c y fun _ => rfl, fun k => isSplit_modUnit _ _ _ _, rfl, rfl⟩
  have hfl : ∀ l, (getUnit (modUnit (linksPassed d l) c fun u => { u with flights := u.flights.filter fun x => x.uid != f.uid }) c).flights =
      (getUnit d c).flights.filter fun x => x.uid != f.uid := fun l => by
    rw [getUnit_modUnit_same]
    rfl
  unfold endFlight flightReady itemReady
  simp only []
  split
  · exact ⟨hmod _, hfl _⟩
  · obtain ⟨hp, hb, hs, hf, hc⟩ := hmod (if within d c f && !f.var then [] else flightLinks d c f)
    obtain ⟨gp, gb, gs, gf, gc⟩ := keepsRoutes_modRun (modUnit (linksPassed d (if within d c f && !f.var then [] else flightLinks d c f)) c fun u =>
      { u with flights := u.flights.filter fun x => x.uid != f.uid }) _ _
    exact ⟨⟨fun i => (gp i).trans (hp i), fun y => (gb y).trans (hb y), fun k => (gs k).trans (hs k), gf.trans hf, gc.trans hc⟩, hfl _⟩

/-- A message that the hub refuses leaves nothing at its core. -/
theorem flights_sendExternal_refused {d : Device} {c : CtxId} {chan : Byte} {us : List (BitVec 512)} {r : RouteEntry} {q : PartId}
    (hr : routeOf d c chan = some r) (hq : inPackage d r = some q)
    (hin : inboundEntry d q (BitVec.ofNat 18 (fabAddr d (partOfCore d c.core))) r.inid = none) :
    (getUnit (sendExternal d c chan us) c).flights = (getUnit d c).flights := by
  have hgo : ∀ (f : Core → Core) (m : Assembling), (∀ k n, vget (f k).units n = vget k.units n) →
      inboundEntry (modCore d c.core f) q m.src m.inid = none → (getUnit (hubMessage (modCore d c.core f) q 0 m) c).flights = (getUnit d c).flights := by
    intro f m hf hm
    have hx : getUnit (modCore d c.core f) c = getUnit d c := getUnit_modCore_proj id d c.core c hf
    unfold hubMessage
    rw [hm]
    simp only []
    split
    · rw [(reported_detectAt _ _).getUnit, hx]
    · rw [hx]
  simp only [sendExternal, hr]
  split
  · rename_i p hp
    obtain rfl : q = p := Option.some.inj (hq.symm.trans hp)
    exact hgo _ _ (fun _ _ => rfl) hin
  · rename_i hp
    exact absurd (hq.symm.trans hp) (Option.some_ne_none q)

theorem flights_messageDeliver : (getUnit (messageDeliver externalDevice ⟨0, 0⟩) ⟨0, 0⟩).flights = [] := by
  obtain ⟨hk, hfl⟩ := endFlight_spec externalDevice ⟨0, 0⟩ externalFlight
  have hq : inPackage externalDevice externalRoute = some 0 := by decide +kernel
  have hin : inboundEntry externalDevice 0 (BitVec.ofNat 18 (fabAddr externalDevice (partOfCore externalDevice 0))) externalRoute.inid = none := by
    decide +kernel
  have hend : inboundEntry (endFlight externalDevice ⟨0, 0⟩ externalFlight) 0 (BitVec.ofNat 18 (fabAddr (endFlight externalDevice ⟨0, 0⟩ externalFlight)
      (partOfCore (endFlight externalDevice ⟨0, 0⟩ externalFlight) 0))) externalRoute.inid = none := by
    rw [hk.inboundEntry, hk.partOfCore]
    simp only [fabAddr, hk.fab] at hin ⊢
    exact hin
  rw [messageDeliver_externalDevice, flights_sendExternal_refused ((hk.routeOf _ _).trans routeOf_externalDevice) ((hk.inPackage _).trans hq) hend, hfl,
    flights_externalDevice]
  simp

theorem gives_unique {i : Instr} {s : State} {d e : Device} (hd : Gives i s d) (he : Gives i s e) : d = e := by
  injection hd.symm.trans he with h
  exact congrArg State.dev h

theorem gives_messageDelivery (s : State) (c : CtxId) : Gives (.messageDelivery c) s (messageDeliver s.dev c) :=
  gives_of_onDev (f := fun d => messageDeliver d c) rfl rfl

end Sys2Proof.Machine

open Sys2Proof.Machine

/-- Refutes O49: the last clause holds every message of a variable item to the crossing of its die links, but one on an external channel
inside the package that has come due by its period is handed to the hub at once and its flight ends. The clause lacks the hypothesis that
the channel is not external; launch itself gives such a flight no variable item, which the clause does not ask for. -/
theorem not_transfersComplete : ¬ Obligations.TransfersComplete := by
  unfold Obligations.TransfersComplete
  rintro ⟨-, -, -, -, -, -, -, -, hcross⟩
  have hadds : (getUnit externalDevice ⟨0, 0⟩).adds = [] := by decide +kernel
  have hdue : crossDue externalDevice ⟨0, 0⟩ externalFlight = true := by decide +kernel
  have hmail : isMail externalDevice ⟨0, 0⟩ externalFlight = true := by decide +kernel
  obtain ⟨e, hgo, hfl, -⟩ := hcross { dev := externalDevice, pending := [] } ⟨0, 0⟩ externalFlight (.messageDelivery ⟨0, 0⟩)
    (flights_externalDevice _) hadds hdue (.inr (.inr (.inr (.inr ⟨rfl, hmail⟩))))
  rw [gives_unique hgo (gives_messageDelivery _ _), flights_messageDeliver] at hfl
  cases hfl
end

section
/-! The advance of a stream and the scalar operations that change their stream alone. -/

open Sys2Proof.Claims

namespace Sys2Proof.Machine

/-! ### The stream after its bundle (R57, R58, R70) -/

/-- A stream x after the bundle b that q presented. -/
def streamNext (d : Device) (c : CtxId) (q : Sequencer) (b : RawBundle) (x : Sequencer) : Sequencer :=
  let n := nextAddress d c q b
  { x with st := if syncOp b = 1 then .ended else .running, pc := BitVec.ofNat 13 n.1, lastPc := q.pc.setWidth 12, loops := n.2.1,
           cause := .none, waitLocal := false, wdCount := 0, resumeAt := n.2.2, nextTick := tickOf d c + 1, shown := false, barSent := false }

theorem advanceStream_eq (d0 d : Device) (c : CtxId) (w : SeqId) (b : RawBundle) :
    advanceStream d0 d c w b = modSeq d w (streamNext d0 c (getSeq d0 w) b) := rfl

theorem modSeq_self (d : Device) (w : SeqId) : modSeq d w (fun q => q) = d := by
  have hv : ∀ {α : Type} {n : Nat} (v : Vector α n) (i : Fin n), vmod v i (fun x => x) = v := fun v i => by
    apply Vector.ext
    intro k hk
    simp only [vmod, vset, vget, Vector.getElem_set]
    split <;> simp_all
  have hk : modCore d w.core (fun k => k) = d := by simp only [modCore, hv]
  simpa only [modSeq, hv] using hk

/-- An update where a condition holds is an update of the stream either way. -/
theorem ite_modSeq (d : Device) (w : SeqId) (f : Sequencer → Sequencer) (on : Bool) :
    (if on then modSeq d w f else d) = modSeq d w fun q => if on then f q else q := by
  cases on
  · exact (modSeq_self d w).symm
  · rfl

/-- A row whose scalar operation changes its stream alone leaves the stream so changed and moved on. -/
theorem answers_of_streamEffect {s : State} {w : SeqId} {b : RawBundle} {i : Instr} {hit : RawBundle → Bool} {f : Sequencer → Sequencer}
    (h : Issues s w b) (hi : exec i s = presentOp hit w s) (hb : hit b = true) (hop : scalarOp b ≠ 0xC0)
    (he : ∀ d, scalarEffect s.dev d (ctxOf s.dev w) w b = modSeq d w f) :
    Answers i s fun e => Leaves s w b e ∧ getSeq e w = streamNext s.dev (ctxOf s.dev w) (getSeq s.dev w) b (f (getSeq s.dev w)) := by
  have heq : applyIssue s.dev (ctxOf s.dev w) w b =
      modSeq (issueSlots s.dev (ctxOf s.dev w) w b) w fun q => streamNext s.dev (ctxOf s.dev w) (getSeq s.dev w) b (f q) := by
    rw [applyIssue_eq, advanceStream_eq, he, modSeq_modSeq_same]
  refine ⟨_, gives_applyIssue h hi hb, ⟨fun x hx => ?_, fun ha => ?_⟩, ?_⟩
  · rw [heq, getSeq_modSeq_other _ _ _ _ hx, getSeq_issueSlots]
  · rw [heq, issueSlots_alone ha hop]
    exact ⟨_, modSeq_eq_const _ _ _⟩
  · rw [heq, getSeq_modSeq_same, getSeq_issueSlots]

/-- A stream that branches nowhere and opens no loop moves on by the loop-end evaluation. -/
theorem streamNext_moved {s : State} {w : SeqId} {b : RawBundle} (hb : branchTaken s.dev (ctxOf s.dev w) (getSeq s.dev w) b = false)
    (hl : scalarOp b ≠ 0xB0) :
    streamNext s.dev (ctxOf s.dev w) (getSeq s.dev w) b (getSeq s.dev w) = moved s w b (getSeq s.dev w) := by
  simp only [streamNext, nextAddress, hb, hl, moved, tickAt, Bool.false_eq_true, if_false]

/-- Every scalar operation but jmp and br branches nowhere (R69). -/
theorem branchTaken_of_ne {d : Device} {c : CtxId} {q : Sequencer} {b : RawBundle} (hj : scalarOp b ≠ 0xA0) (hb : scalarOp b ≠ 0xA1) :
    branchTaken d c q b = false := by
  simp [branchTaken, hj, hb]

/-! ### Predicate results (R83, R93) -/

theorem vget_pregs_writeP (q : Sequencer) (p : Nat) (v : W64) (r : Fin 8) :
    vget (writeP q p v).pregs r = if r.val = p % 8 ∧ r ≠ 0 then v else vget q.pregs r := by
  have hr0 : r ≠ 0 ↔ r.val ≠ 0 := Fin.val_ne_iff.symm
  unfold writeP
  by_cases h0 : p % 8 = 0
  · have hn : ¬ (r.val = p % 8 ∧ r ≠ 0) := fun h => hr0.1 h.2 (h.1.trans h0)
    rw [if_pos h0, if_neg hn]
  · rw [if_neg h0]
    by_cases hr : r.val = p % 8
    · obtain rfl : finMod 8 p = r := Fin.ext hr.symm
      rw [vget_vset_same, if_pos ⟨hr, hr0.2 (by omega)⟩]
    · have hne : finMod 8 p ≠ r := fun e => hr (congrArg Fin.val e).symm
      rw [vget_vset_other _ _ _ _ hne, if_neg fun h => hr h.1]

theorem sregs_writeP (q : Sequencer) (p : Nat) (v : W64) : (writeP q p v).sregs = q.sregs := by
  unfold writeP
  split <;> rfl

/-- A bundle whose scalar slot comes to a write of a predicate register, or to nothing where its own predicate is off, sets that
register and leaves every other stream alone. -/
theorem setsP_of_scalarEffect {s : State} {w : SeqId} {b : RawBundle} {i : Instr} {hit : RawBundle → Bool} {on : Bool} {v : W64}
    (h : Issues s w b) (hi : exec i s = presentOp hit w s) (hb : hit b = true) (hop : scalarOp b ≠ 0xC0)
    (he : ∀ d, scalarEffect s.dev d (ctxOf s.dev w) w b = if on then setP d w (scRd b) v else d) : SetsP i s w b on v := by
  obtain ⟨e, hgo, hleaves, hseq⟩ := answers_of_streamEffect h hi hb hop fun d => (he d).trans (ite_modSeq d w _ on)
  refine ⟨e, hgo, fun r => ?_, ?_, hleaves⟩ <;> rw [hseq] <;> cases on
  · simp [streamNext]
  · simp [streamNext, vget_pregs_writeP]
  · rfl
  · exact sregs_writeP _ _ _

/-- The mask that a compare writes is all ones or all zeros. -/
theorem mask64_decide (p : Prop) [Decidable p] : mask64 (decide p) = ones p := by
  simp [mask64, ones]

/-! ### The scalar slot's effect, by the kind of its operation -/

theorem scalarEffect_compare {d0 d : Device} {c : CtxId} {w : SeqId} {b : RawBundle} (hr : isSR (scalarOp b) = true) (hc : isCompare (scalarOp b) = true) :
    scalarEffect d0 d c w b = if scalarHolds d0 c (getSeq d0 w) b then
      setP d w (scRd b) (mask64 (aluC (scalarOp b) (readS (getSeq d0 w) (scRs1 b)) (readS (getSeq d0 w) (scRs2 b)))) else d := by
  have hop : 0x10 ≤ scalarOp b ∧ scalarOp b ≤ 0x12 := by
    simp only [isSR, isCompare, Bool.or_eq_true, Bool.and_eq_true, decide_eq_true_eq] at hr hc
    omega
  have h0 : scalarOp b ≠ 0 := by omega
  have hq : scalarOp b ≠ 0x30 ∧ scalarOp b ≠ 0x31 ∧ scalarOp b ≠ 0x32 := by omega
  cases hh : scalarHolds d0 c (getSeq d0 w) b <;> simp [scalarEffect, h0, hr, effectR, hq, hh, hc]

theorem scalarEffect_compareImmediate {d0 d : Device} {c : CtxId} {w : SeqId} {b : RawBundle} (hi : isSI (scalarOp b) = true)
    (hc : isCompare (scalarOp b) = true) :
    scalarEffect d0 d c w b = setP d w (scRd b) (mask64 (aluC (scalarOp b) (readS (getSeq d0 w) (scRs1 b)) (scImm30 b))) := by
  have hop : 0x50 ≤ scalarOp b ∧ scalarOp b ≤ 0x52 := by
    simp only [isSI, isCompare, Bool.or_eq_true, Bool.and_eq_true, decide_eq_true_eq] at hi hc
    omega
  have h0 : scalarOp b ≠ 0 ∧ scalarOp b ≠ 0x80 ∧ scalarOp b ≠ 0x81 := by omega
  have hr : isSR (scalarOp b) = false := by simp [isSR]; omega
  simp [scalarEffect, h0, hr, hi, effectI, hc]

theorem scalarEffect_predOp {d0 d : Device} {c : CtxId} {w : SeqId} {b : RawBundle} (hp : isPredOp (scalarOp b) = true) :
    scalarEffect d0 d c w b = if scalarHolds d0 c (getSeq d0 w) b then setP d w (scRd b) (aluP (scalarOp b)
      (readP (isSplit d0 c.core) (getSeq d0 w) (scRs1 b)) (readP (isSplit d0 c.core) (getSeq d0 w) (scRs2 b))) else d := by
  have hop : 0x18 ≤ scalarOp b ∧ scalarOp b ≤ 0x1B := by simpa [isPredOp] using hp
  have hr : isSR (scalarOp b) = true := by simp [isSR]; omega
  have hc : isCompare (scalarOp b) = false := by simp [isCompare]; omega
  have hn : scalarOp b ≠ 0 ∧ scalarOp b ≠ 0x30 ∧ scalarOp b ≠ 0x31 ∧ scalarOp b ≠ 0x32 := by omega
  cases hh : scalarHolds d0 c (getSeq d0 w) b <;> simp [scalarEffect, hn, hr, effectR, hh, hc, hp]

theorem scalarEffect_pmov {d0 d : Device} {c : CtxId} {w : SeqId} {b : RawBundle} (h : scalarOp b = 0x1C) :
    scalarEffect d0 d c w b =
      if scalarHolds d0 c (getSeq d0 w) b then setP d w (scRd b) (readS (getSeq d0 w) (scRs1 b)) else d := by
  cases hh : scalarHolds d0 c (getSeq d0 w) b <;> simp [scalarEffect, h, isSR, effectR, hh, isCompare, isPredOp]

theorem scalarEffect_pget {d0 d : Device} {c : CtxId} {w : SeqId} {b : RawBundle} (h : scalarOp b = 0x1D) :
    scalarEffect d0 d c w b = if scalarHolds d0 c (getSeq d0 w) b then
      setS d w (scRd b) (readP (isSplit d0 c.core) (getSeq d0 w) (scRs1 b)) (tickOf d0 c) else d := by
  cases hh : scalarHolds d0 c (getSeq d0 w) b <;> simp [scalarEffect, h, isSR, effectR, hh, isCompare, isPredOp]

theorem scalarEffect_setwin {d0 d : Device} {c : CtxId} {w : SeqId} {b : RawBundle} (h : scalarOp b = 0xB8) :
    scalarEffect d0 d c w b = modSeq d w fun q => { q with winLo := winLo b, winHi := winHi b } := by
  simp [scalarEffect, h, isSR, isSI, isSA, effectW]

/-- A branch and a loop act by the stream's next address alone (R69, R71). -/
theorem scalarEffect_control {d0 d : Device} {c : CtxId} {w : SeqId} {b : RawBundle}
    (h : scalarOp b = 0xA0 ∨ scalarOp b = 0xA1 ∨ scalarOp b = 0xB0) : scalarEffect d0 d c w b = d := by
  rcases h with h | h | h <;> simp [scalarEffect, h, isSR, isSI, isSA]

/-! ### Compares, predicate operations and moves -/

/-- The row of a compare of two registers, by the relation that it decides. -/
theorem setsP_compare {s : State} {w : SeqId} {b : RawBundle} {i : Instr} {op : Nat} {p : Prop} [Decidable p] (h : Issues s w b) (hop : scalarOp b = op)
    (hi : exec i s = presentOp (fun b => decide (scalarOp b = op)) w s) (hr : isSR op = true) (hc : isCompare op = true)
    (hp : aluC op (readS (getSeq s.dev w) (scRs1 b)) (readS (getSeq s.dev w) (scRs2 b)) = decide p) :
    SetsP i s w b (scalarHolds s.dev (ctxOf s.dev w) (getSeq s.dev w) b) (ones p) := by
  subst hop
  refine setsP_of_scalarEffect h hi (by simp) (fun e => by simp [e, isSR] at hr) fun d => ?_
  rw [← mask64_decide, ← hp]
  exact scalarEffect_compare hr hc

/-- The same of a compare with an immediate, which no predicate turns off. -/
theorem setsP_compareImmediate {s : State} {w : SeqId} {b : RawBundle} {i : Instr} {op : Nat} {p : Prop} [Decidable p] (h : Issues s w b)
    (hop : scalarOp b = op) (hi : exec i s = presentOp (fun b => decide (scalarOp b = op)) w s) (hs : isSI op = true) (hc : isCompare op = true)
    (hp : aluC op (readS (getSeq s.dev w) (scRs1 b)) (scImm30 b) = decide p) : SetsP i s w b true (ones p) := by
  subst hop
  refine setsP_of_scalarEffect h hi (by simp) (fun e => by simp [e, isSI] at hs) fun d => ?_
  rw [if_pos rfl, ← mask64_decide, ← hp]
  exact scalarEffect_compareImmediate hs hc

/-- The row of an operation of two predicate registers. -/
theorem setsP_predOp {s : State} {w : SeqId} {b : RawBundle} {i : Instr} {op : Nat} (h : Issues s w b) (hop : scalarOp b = op)
    (hi : exec i s = presentOp (fun b => decide (scalarOp b = op)) w s) (hp : isPredOp op = true) :
    SetsP i s w b (scalarHolds s.dev (ctxOf s.dev w) (getSeq s.dev w) b)
      (aluP op (readP (isSplit s.dev w.core) (getSeq s.dev w) (scRs1 b)) (readP (isSplit s.dev w.core) (getSeq s.dev w) (scRs2 b))) := by
  subst hop
  exact setsP_of_scalarEffect h hi (by simp) (fun e => by simp [e, isPredOp] at hp) fun d => scalarEffect_predOp hp

end Sys2Proof.Machine

open Sys2Proof.Machine

/-- Settles O38: each row comes to one write of a predicate register, but pget's, which writes a scalar one. -/
theorem comparesAndPredicates : Obligations.ComparesAndPredicates := by
  unfold Obligations.ComparesAndPredicates
  intro s w b h
  refine ⟨fun hop => ?_, fun hop => ?_, fun hop => ?_, fun hop => ?_, fun hop => ?_, fun hop => ?_, fun hop => ?_, fun hop => ?_, fun hop => ?_,
    fun hop => ?_, fun hop => ?_, fun hop => ?_⟩
  · exact setsP_compare h hop rfl rfl rfl rfl
  · exact setsP_compare h hop rfl rfl rfl rfl
  · exact setsP_compare h hop rfl rfl rfl rfl
  · exact setsP_compareImmediate h hop rfl rfl rfl rfl
  · exact setsP_compareImmediate h hop rfl rfl rfl rfl
  · exact setsP_compareImmediate h hop rfl rfl rfl rfl
  · exact setsP_predOp h hop rfl rfl
  · exact setsP_predOp h hop rfl rfl
  · exact setsP_predOp h hop rfl rfl
  · exact setsP_predOp h hop rfl rfl
  · exact setsP_of_scalarEffect h rfl (by simpa using hop) (by simp [hop]) fun d => scalarEffect_pmov hop
  · exact setsS_of_scalarEffect h rfl (by simpa using hop) (by simp [hop]) fun d => scalarEffect_pget hop
end

section
/-! O41: branches, loops, windows and the end of a stream. -/

open Sys2Proof.Claims

namespace Sys2Proof.Machine

/-- A branch or a loop, or a br that is not taken, moves its stream on and changes nothing else. -/
theorem answers_control {s : State} {w : SeqId} {b : RawBundle} {i : Instr} {op : Nat} (h : Issues s w b) (hop : scalarOp b = op)
    (hi : exec i s = presentOp (fun b => decide (scalarOp b = op)) w s) (hc : op = 0xA0 ∨ op = 0xA1 ∨ op = 0xB0) :
    Answers i s fun e => Leaves s w b e ∧ getSeq e w = streamNext s.dev (ctxOf s.dev w) (getSeq s.dev w) b (getSeq s.dev w) := by
  subst hop
  exact answers_of_streamEffect (f := fun q => q) h hi (by simp) (by omega) fun d => (scalarEffect_control hc).trans (modSeq_self d w).symm

/-- A br is taken when bit 0 of its predicate differs from PNEG (R72, R93). -/
theorem branchTaken_br {d : Device} {c : CtxId} {q : Sequencer} {b : RawBundle} (h : scalarOp b = 0xA1) :
    branchTaken d c q b = ((readP (isSplit d c.core) q (brPred b)).getLsbD 0 != brPneg b) := by
  have hj : (decide (scalarOp b = 0xA0)) = false := by simp [h]
  rw [branchTaken, hj, decide_eq_true h]
  rfl

/-- Where a stream goes, in the terms of the bundle that moves on without a branch. -/
theorem streamNext_goes {s : State} {w : SeqId} {b : RawBundle} {n : Nat × List LoopLevel × Nat}
    (h : nextAddress s.dev (ctxOf s.dev w) (getSeq s.dev w) b = n) :
    streamNext s.dev (ctxOf s.dev w) (getSeq s.dev w) b (getSeq s.dev w) =
      { moved s w b (getSeq s.dev w) with pc := BitVec.ofNat 13 n.1, loops := n.2.1, resumeAt := n.2.2 } := by
  subst h
  rfl

/-- A branch, a loop, or a br that is not taken goes where the next address says. -/
theorem answers_goes {s : State} {w : SeqId} {b : RawBundle} {i : Instr} {op pc at' : Nat} {l : List LoopLevel} (h : Issues s w b) (hop : scalarOp b = op)
    (hi : exec i s = presentOp (fun b => decide (scalarOp b = op)) w s) (hc : op = 0xA0 ∨ op = 0xA1 ∨ op = 0xB0)
    (hn : nextAddress s.dev (ctxOf s.dev w) (getSeq s.dev w) b = (pc, l, at')) :
    Answers i s fun e => Leaves s w b e ∧
      getSeq e w = { moved s w b (getSeq s.dev w) with pc := BitVec.ofNat 13 pc, loops := l, resumeAt := at' } := by
  obtain ⟨e, hgo, hl, hq⟩ := answers_control h hop hi hc
  exact ⟨e, hgo, hl, hq.trans (streamNext_goes hn)⟩

/-- A bundle of end alone ends its stream and changes nothing else (R58). -/
theorem acts_endOp {s : State} {w : SeqId} {b : RawBundle} (h : Issues s w b) (hy : syncOp b = 1) (ha : Alone b) (hop : scalarOp b = 0) :
    Acts (.endOp w) s w b s.dev := by
  have hgo := gives_applyIssue (i := .endOp w) (hit := fun b => syncOp b = 1) h rfl (by simp [hy])
  have he : scalarEffect s.dev s.dev (ctxOf s.dev w) w b = s.dev := by simp [scalarEffect, hop]
  rw [applyIssue_eq, issueSlots_alone ha (by omega), he, advanceStream_eq, modSeq_eq_const, streamNext_moved (branchTaken_of_ne (by omega) (by omega)) (by omega)] at hgo
  exact hgo

end Sys2Proof.Machine

open Sys2Proof.Machine

/-- Settles O41: a control operation acts by the address of the stream's next bundle alone, and setwin by the window beside it; the
evaluation of the loop stack is its recursion. -/
theorem streamsBranchAndLoop : Obligations.StreamsBranchAndLoop := by
  unfold Obligations.StreamsBranchAndLoop
  refine ⟨fun s w b h => ?_, fun s w b pc l rest => ⟨rfl, rfl, fun hne => ?_, fun he hr => ?_, fun he hr => ?_⟩⟩
  · refine ⟨fun hop => ?_, fun hop htaken => ?_, fun hop hoff => ?_, fun hop hz => ?_, fun hop hz => ?_, fun hop => ?_, fun hy hop hl hs hv hm => ?_⟩
    · exact answers_goes h hop rfl (by omega) (by simp [nextAddress, branchTaken, hop, tickAt])
    · have ht : branchTaken s.dev (ctxOf s.dev w) (getSeq s.dev w) b = true := (branchTaken_br hop).trans (bne_iff_ne.2 htaken)
      exact answers_goes h hop rfl (by omega) (by simp [nextAddress, ht, tickAt])
    · have ht : branchTaken s.dev (ctxOf s.dev w) (getSeq s.dev w) b = false := (branchTaken_br hop).trans (bne_eq_false_iff_eq.2 hoff)
      obtain ⟨e, hgo, hl, hq⟩ := answers_control (i := .br w) h hop rfl (by omega)
      exact ⟨e, hgo, hl, hq.trans (streamNext_moved ht (by omega))⟩
    · exact answers_goes h hop rfl (by omega) (by simp [nextAddress, branchTaken, hop, hz, tickAt])
    · exact answers_goes h hop rfl (by omega) (by simp [nextAddress, branchTaken, hop, hz, tickAt])
    · obtain ⟨e, hgo, hl, hq⟩ := answers_of_streamEffect h (i := .setwin w) rfl (by simpa using hop) (by omega) fun d => scalarEffect_setwin hop
      refine ⟨e, hgo, hl, hq.trans ?_⟩
      rw [← streamNext_moved (branchTaken_of_ne (by omega) (by omega)) (by omega)]
      rfl
    · exact acts_endOp h hy ⟨hl, hs, hv, hm, by omega⟩ hop
  · simp [loopEndEval, hne]
  · simp [loopEndEval, he, hr]
  · rw [loopEndEval, if_pos he, if_neg (by omega)]
end

section
/-! O40: the link-queue operations of a bundle of the scalar slot alone. -/

open Sys2Proof.Claims

namespace Sys2Proof.Machine

/-! ### The queues under an update (R64) -/

@[simp] theorem getSeq_modLq (d : Device) (c : CtxId) (q : Fin 4) (f : LinkQueue → LinkQueue) (w : SeqId) : getSeq (modLq d c q f) w = getSeq d w :=
  getCore_modCore_proj (fun k => vget k.seqs w.seq) d c.core w.core fun _ => rfl

@[simp] theorem getSeq_modAg (d : Device) (c : CtxId) (n : Nat) (f : AddrGen → AddrGen) (w : SeqId) : getSeq (modAg d c n f) w = getSeq d w :=
  getCore_modCore_proj (fun k => vget k.seqs w.seq) d c.core w.core fun _ => rfl

/-- A queue that another physical one stands for keeps its state. -/
theorem lqOf_modLq_other (d : Device) (c : CtxId) (q n : Fin 4) (f : LinkQueue → LinkQueue)
    (h : physLq (isSplit d c.core) c.ctx n ≠ physLq (isSplit d c.core) c.ctx q) : lqOf (modLq d c q f) c n = lqOf d c n := by
  have hs : (getCore d c.core).split = isSplit d c.core := rfl
  simp only [lqOf, isSplit_modLq]
  rw [modLq, getCore_modCore_same, hs, vget_vmod_other _ _ _ _ h.symm]

/-! ### The scalar slot's effect (R121) -/

theorem scalarEffect_lq {d0 d : Device} {c : CtxId} {w : SeqId} {b : RawBundle} (h : scalarOp b = 0x30 ∨ scalarOp b = 0x31 ∨ scalarOp b = 0x32) :
    scalarEffect d0 d c w b = lqEffect d0 d c w (getSeq d0 w) b (scalarHolds d0 c (getSeq d0 w) b) := by
  rcases h with h | h | h <;> simp [scalarEffect, h, isSR, effectR]

theorem headData_cons {d : Device} {c : CtxId} {q : Fin 4} {x : LqEntry} {l : List LqEntry} (h : (lqOf d c q).entries = x :: l) :
    headData d c q = x.data := by
  simp [headData, h]

/-- lqpush pushes what its predicate decides. -/
theorem acts_lqpush {s : State} {w : SeqId} {b : RawBundle} (h : Issues s w b) (ha : Alone b) (hop : scalarOp b = 0x30) :
    Acts (.lqpush w) s w b (pushData s.dev (ctxOf s.dev w) (finMod 4 (scRd b))
      (if scalarHolds s.dev (ctxOf s.dev w) (getSeq s.dev w) b then (readS (getSeq s.dev w) (scRs1 b)).setWidth 2048 else 0)) := by
  have hgo := gives_applyIssue (i := .lqpush w) (hit := fun b => scalarOp b = 0x30) h rfl (by simp [hop])
  rw [applyIssue_eq, issueSlots_alone ha (by omega), scalarEffect_lq (.inl hop), advanceStream_eq, modSeq_eq_const] at hgo
  simp only [lqEffect, hop, pushData, getSeq_modLq] at hgo
  rw [streamNext_moved (branchTaken_of_ne (by omega) (by omega)) (by omega)] at hgo
  rw [Acts, modSeq_eq_const]
  simpa only [pushData, getSeq_modLq] using hgo

/-- The device before the stream moves on, where lqpop frees the head of a queue and writes a register when on. -/
def popped (d : Device) (c : CtxId) (w : SeqId) (q : Fin 4) (rd : Nat) (v : W64) (on : Bool) : Device :=
  popHead (if on then setS d w rd v (tickOf d c) else d) c q

theorem gives_lqpop {s : State} {w : SeqId} {b : RawBundle} {x : LqEntry} {l : List LqEntry} (h : Issues s w b) (ha : Alone b) (hop : scalarOp b = 0x31)
    (hq : (lqOf s.dev (ctxOf s.dev w) (finMod 4 (scRs1 b))).entries = x :: l) :
    Gives (.lqpop w) s (advanceStream s.dev (popped s.dev (ctxOf s.dev w) w (finMod 4 (scRs1 b)) (scRd b) (x.data.extractLsb' 0 64)
      (scalarHolds s.dev (ctxOf s.dev w) (getSeq s.dev w) b)) (ctxOf s.dev w) w b) := by
  have hgo := gives_applyIssue (i := .lqpop w) (hit := fun b => scalarOp b = 0x31) h rfl (by simp [hop])
  rw [applyIssue_eq, issueSlots_alone ha (by omega), scalarEffect_lq (.inr (.inl hop))] at hgo
  simp only [lqEffect, hop, headData_cons hq] at hgo
  exact hgo

/-- The pop of a queue changes no stream, and the write of rd that one alone. -/
theorem getSeq_popped (d : Device) (c : CtxId) (w x : SeqId) (q : Fin 4) (rd : Nat) (v : W64) (on : Bool) :
    getSeq (popped d c w q rd v on) x = getSeq (if on then setS d w rd v (tickOf d c) else d) x := getSeq_modLq _ _ _ _ _

theorem lqOf_popped (d : Device) (w : SeqId) (q : Fin 4) (rd : Nat) (v : W64) (on : Bool) :
    let c := ctxOf d w
    (lqOf (popped d c w q rd v on) c q).entries = (lqOf d c q).entries.drop 1 ∧
      ∀ n : Fin 4, physLq (isSplit d w.core) c.ctx n ≠ physLq (isSplit d w.core) c.ctx q → lqOf (popped d c w q rd v on) c n = lqOf d c n := by
  have hq : ∀ n, lqOf (if on then setS d w rd v (tickOf d (ctxOf d w)) else d) (ctxOf d w) n = lqOf d (ctxOf d w) n := fun n => by
    cases on
    · rfl
    · exact lqOf_modSeq _ _ _ _ _
  have hs : isSplit (if on then setS d w rd v (tickOf d (ctxOf d w)) else d) w.core = isSplit d w.core := by
    cases on
    · rfl
    · exact isSplit_modSeq _ _ _ _
  refine ⟨?_, fun n hn => ?_⟩
  · rw [popped, popHead, lqOf_modLq_same, hq]
    rfl
  · rw [popped, popHead, lqOf_modLq_other _ _ _ _ _ (by rw [show (ctxOf d w).core = w.core from rfl, hs]; exact hn), hq]

theorem getUnit_popped (d : Device) (c x : CtxId) (w : SeqId) (q : Fin 4) (rd : Nat) (v : W64) (on : Bool) :
    getUnit (popped d c w q rd v on) x = getUnit d x := by
  rw [popped, popHead, getUnit_modLq]
  cases on
  · rfl
  · exact getUnit_modSeq _ _ _ _

end Sys2Proof.Machine

open Sys2Proof.Machine

/-- Settles O40: the push comes before the stream's advance, the pop beside the write of rd, and the peek to that write alone. -/
theorem linkQueueOperations : Obligations.LinkQueueOperations := by
  unfold Obligations.LinkQueueOperations
  intro s w b h ha
  refine ⟨fun hop => acts_lqpush h ha hop, fun x l hq => ⟨fun hop => ?_, fun hop => ?_⟩, fun n l hl _ v => ?_⟩
  · obtain ⟨hentries, hothers⟩ := lqOf_popped s.dev w (finMod 4 (scRs1 b)) (scRd b) (x.data.extractLsb' 0 64)
      (scalarHolds s.dev (ctxOf s.dev w) (getSeq s.dev w) b)
    refine ⟨_, gives_lqpop h ha hop hq, ⟨fun r => ?_, ?_⟩, ?_, fun n hn => ?_, fun y hy => ?_, fun y => ?_⟩
    · rw [sregs_advanceStream, getSeq_popped]
      split
      · simp [setS, vget_sregs_writeS _ _ (scRd_lt b), *]
      · simp [*]
    · rw [pregs_advanceStream, getSeq_popped]
      split
      · simp [setS, pregs_writeS]
      · rfl
    · rw [lqOf_advanceStream, hentries, hq, List.drop_one, List.tail_cons]
    · rw [lqOf_advanceStream, hothers n hn]
    · rw [getSeq_advanceStream_other _ _ _ _ _ _ hy, getSeq_popped]
      split
      · exact getSeq_modSeq_other _ _ _ _ hy
      · rfl
    · rw [getUnit_advanceStream, getUnit_popped]
  · refine setsS_of_scalarEffect (t := tickAt s w) h rfl (by simpa using hop) (by omega) fun d => ?_
    rw [scalarEffect_lq (.inr (.inr hop))]
    simp only [lqEffect, hop, headData_cons hq]
    rfl
  · rw [← hl]
    rfl
end

section
/-! O36: every row of an operation presents the next bundle of its sequencer. -/

open Sys2Proof.Claims

namespace Sys2Proof.Machine

/-! ### The rows of the table -/

/-- A row runs the presentation of its sequencer's bundle where that holds the operation. -/
def Presents (w : SeqId) (s : State) (r : Instr × (RawBundle → Bool)) : Prop :=
  ∃ hit, exec r.1 s = presentOp hit w s ∧ ∀ b, r.2 b = true → hit b = true

theorem presents_of_map_eq {w : SeqId} {s : State} {l : List (Instr × (RawBundle → Bool))}
    (h : l.map (fun r => exec r.1 s) = l.map fun r => presentOp r.2 w s) : ∀ r ∈ l, Presents w s r :=
  fun r hr => ⟨r.2, List.map_inj_left.1 h r hr, fun _ hb => hb⟩

/-- The properties of a feed's opcode, but for bit 0, which names the plane (R141). -/
theorem feed_opcode {op k : Nat} (h : op / 2 = k) : isFeed op = decide (8 ≤ k ∧ k ≤ 15) ∧ isMvec op = decide (12 ≤ k ∧ k ≤ 15) ∧
    mContinues op = decide (k % 2 = 1) ∧ mHolds op = decide (k / 2 % 2 = 1) := by
  have hf : (16 ≤ op ∧ op ≤ 31) ↔ (8 ≤ k ∧ k ≤ 15) := by omega
  have hv : (24 ≤ op ∧ op ≤ 31) ↔ (12 ≤ k ∧ k ≤ 15) := by omega
  have hq : op / 4 = k / 2 := by omega
  simp [isFeed, isMvec, mContinues, mHolds, ← hf, ← hv, h, hq]

theorem presents_matrixRows (w : SeqId) (s : State) : ∀ r ∈ matrixRows w, Presents w s r := by
  have feed : ∀ {op k : Nat}, decide (op / 2 = k) = true → _ := fun h => feed_opcode (of_decide_eq_true h)
  simp only [matrixRows, List.forall_mem_cons]
  refine ⟨⟨_, rfl, fun b hb => ?_⟩, ⟨_, rfl, fun b hb => ?_⟩, ⟨_, rfl, fun b hb => ?_⟩, ⟨_, rfl, fun b hb => ?_⟩, ⟨_, rfl, fun b hb => ?_⟩,
    ⟨_, rfl, fun b hb => ?_⟩, ⟨_, rfl, fun b hb => ?_⟩, ⟨_, rfl, fun b hb => ?_⟩, ⟨_, rfl, fun b hb => ?_⟩, ⟨_, rfl, fun b hb => hb⟩, fun _ h => nomatch h⟩
  case refine_9 =>
    have : matrixOp b = 0x20 ∨ matrixOp b = 0x21 := by
      have := of_decide_eq_true hb
      omega
    simpa [isMdrain] using this
  all_goals simp [feed hb]

theorem presents_opRows (w : SeqId) (s : State) : ∀ r ∈ opRows w, Presents w s r := by
  intro r hr
  simp only [opRows, List.mem_append] at hr
  rcases hr with ((((hr | hr) | hr) | hr) | hr) | hr
  · exact presents_of_map_eq rfl r hr
  · exact presents_of_map_eq rfl r hr
  · exact presents_of_map_eq rfl r hr
  · exact presents_matrixRows w s r hr
  · exact presents_of_map_eq rfl r hr
  · exact presents_of_map_eq rfl r hr

/-- A row whose operation the bundle holds presents it. -/
theorem gives_present {s : State} {w : SeqId} {b : RawBundle} {r : Instr × (RawBundle → Bool)}
    (hf : fetchBundle s.dev (ctxOf s.dev w) (getSeq s.dev w) = b) (hr : r ∈ opRows w) (hb : r.2 b = true) : Gives r.1 s (present s.dev w) := by
  obtain ⟨hit, hi, hhit⟩ := presents_opRows w s r hr
  have hh : holdsOp s.dev w hit = true := by simp [holdsOp, hf, hhit b hb]
  exact gives_of_onDev (f := fun d => if holdsOp d w hit then present d w else d) hi (if_pos hh)

theorem present_notTurn {d : Device} {w : SeqId} (h : myTurn d (ctxOf d w) w = false) : present d w = d := by
  simp [present, h]

theorem present_halts {d e : Device} {w : SeqId} (ht : myTurn d (ctxOf d w) w = true) (h : takeHalts d (ctxOf d w) = some e) : present d w = e := by
  simp [present, ht, h]

theorem present_waits {d : Device} {w : SeqId} {l : List Unmet} {a : Bool} (ht : myTurn d (ctxOf d w) w = true) (hh : takeHalts d (ctxOf d w) = none)
    (hv : verdict d (ctxOf d w) w = .wait l a) : present d w = applyWait d (ctxOf d w) w l a := by
  simp [present, ht, hh, applyVerdict, hv]

/-! ### The other streams under the scalar slot -/

theorem scalarEffect_none {d0 d : Device} {c : CtxId} {w : SeqId} {b : RawBundle} (h : scalarOp b = 0) : scalarEffect d0 d c w b = d := by
  simp [scalarEffect, h]

section Other
variable {w x : SeqId} (hx : x ≠ w)
include hx

theorem getSeq_setS_other (d : Device) (r : Nat) (v : W64) (t : Nat) : getSeq (setS d w r v t) x = getSeq d x := getSeq_modSeq_other _ _ _ _ hx

theorem getSeq_setP_other (d : Device) (p : Nat) (v : W64) : getSeq (setP d w p v) x = getSeq d x := getSeq_modSeq_other _ _ _ _ hx

theorem getSeq_lqEffect_other (d0 d : Device) (c : CtxId) (q : Sequencer) (b : RawBundle) (on : Bool) :
    getSeq (lqEffect d0 d c w q b on) x = getSeq d x := by
  unfold lqEffect
  split
  · exact getSeq_modLq _ _ _ _ _
  · rw [popHead, getSeq_modLq]
    split
    · exact getSeq_setS_other hx _ _ _ _
    · rfl
  · split
    · exact getSeq_setS_other hx _ _ _ _
    · rfl

theorem getSeq_effectR_other (d0 d : Device) (c : CtxId) (q : Sequencer) (b : RawBundle) : getSeq (effectR d0 d c w q b) x = getSeq d x := by
  simp only [effectR]
  split_ifs
  all_goals simp only [getSeq_lqEffect_other hx, getSeq_setS_other hx, getSeq_setP_other hx, getSeq_countMayVary]

theorem getSeq_effectI_other (d0 d : Device) (c : CtxId) (q : Sequencer) (b : RawBundle) : getSeq (effectI d0 d c w q b) x = getSeq d x := by
  simp only [effectI]
  split_ifs
  all_goals simp only [getSeq_setS_other hx, getSeq_setP_other hx]

theorem getSeq_effectA_other (d0 d : Device) (c : CtxId) (q : Sequencer) (b : RawBundle) : getSeq (effectA d0 d c w q b) x = getSeq d x := by
  simp only [effectA]
  split
  · split
    · exact getSeq_modAg _ _ _ _ _
    · rfl
  · exact getSeq_modAg _ _ _ _ _
  · exact getSeq_modAg _ _ _ _ _
  · exact getSeq_setS_other hx _ _ _ _
  · exact getSeq_modAg _ _ _ _ _
  · rfl

/-- The scalar slot of a bundle acts on no stream but its own. -/
theorem getSeq_scalarEffect_other (d0 d : Device) (c : CtxId) (b : RawBundle) : getSeq (scalarEffect d0 d c w b) x = getSeq d x := by
  simp only [scalarEffect]
  split_ifs
  · rfl
  · exact getSeq_effectR_other hx _ _ _ _ _
  · exact getSeq_effectI_other hx _ _ _ _ _
  · exact getSeq_effectA_other hx _ _ _ _ _
  · exact getSeq_modSeq_other _ _ _ _ hx
  · rfl

end Other

end Sys2Proof.Machine

open Sys2Proof.Machine

/-- Settles O36: a row runs the presentation of the bundle, whatever the operation, and that goes by the turn, the halts and the verdict. -/
theorem operationsPresentTheirBundles : Obligations.OperationsPresentTheirBundles := by
  unfold Obligations.OperationsPresentTheirBundles
  intro s w b hf r hr hb
  have hgo := gives_present hf hr hb
  refine ⟨fun ht => ?_, fun d ht hh => ?_, fun u l ht hh hv => ?_, fun h => ?_⟩
  · rwa [present_notTurn ht] at hgo
  · rwa [present_halts ht hh] at hgo
  · rw [present_waits ht hh hv, applyWait] at hgo
    refine ⟨_, hgo, ?_⟩
    dsimp only
    rw [if_neg Bool.false_ne_true, getSeq_modSeq_same]
    exact ⟨rfl, rfl, rfl, rfl, ⟨_, modSeq_eq_const _ _ _⟩, rfl, rfl⟩
  · obtain ⟨hit, hi, hhit⟩ := presents_opRows w s r hr
    refine ⟨_, gives_applyIssue h hi (hhit b hb), fun x hx => ?_, ?_, ?_, ?_, fun hop => ⟨?_, ?_⟩⟩
    · rw [applyIssue_eq, getSeq_advanceStream_other _ _ _ _ _ _ hx, getSeq_scalarEffect_other hx, getSeq_issueSlots]
    · rw [applyIssue_eq, advanceStream_eq, getSeq_modSeq_same]; rfl
    · rw [applyIssue_eq, advanceStream_eq, getSeq_modSeq_same]; rfl
    · rw [applyIssue_eq, advanceStream_eq, getSeq_modSeq_same]; rfl
    · rw [applyIssue_eq, sregs_advanceStream, scalarEffect_none hop, getSeq_issueSlots]
    · rw [applyIssue_eq, pregs_advanceStream, scalarEffect_none hop, getSeq_issueSlots]
end

section
/-! O52: a tick of the matrix feed, of the drain port and of the vector engine. -/

open Sys2Proof.Claims

namespace Sys2Proof.Machine

/-! ### Updates of a context's engines -/

@[simp] theorem matrixOf_modMatrix (d : Device) (c : CtxId) (f : MatrixUnit → MatrixUnit) : matrixOf (modMatrix d c f) c = f (matrixOf d c) := by
  simp [matrixOf, modMatrix]

@[simp] theorem tickOf_modMatrix (d : Device) (c x : CtxId) (f : MatrixUnit → MatrixUnit) : tickOf (modMatrix d c f) x = tickOf d x :=
  tickOf_eq_of_runOf (runOf_modUnit _ _ _ fun _ => rfl)

@[simp] theorem vregPend_modUnit (d : Device) (c : CtxId) (f : CtxUnit → CtxUnit) (k : CoreId) :
    (getCore (modUnit d c f) k).vregPend = (getCore d k).vregPend := getCore_modCore_proj (·.vregPend) d c.core k fun _ => rfl

@[simp] theorem vregPend_modMatrix (d : Device) (c : CtxId) (f : MatrixUnit → MatrixUnit) (k : CoreId) :
    (getCore (modMatrix d c f) k).vregPend = (getCore d k).vregPend := vregPend_modUnit _ _ _ _

/-- A result for a vector register joins those of the tick, and no context's units change. -/
theorem vregPend_writeV (d : Device) (c : CtxId) (n : Nat) (v : Entry) (t : Nat) :
    (getCore (modCore d c.core fun k => writeV k c.ctx n v t) c.core).vregPend =
      (getCore d c.core).vregPend ++ [(physVreg (isSplit d c.core) c.ctx n, v, t)] := by
  rw [getCore_modCore_same]
  rfl

theorem getUnit_writeV (d : Device) (c x : CtxId) (n : Nat) (v : Entry) (t : Nat) :
    getUnit (modCore d c.core fun k => writeV k c.ctx n v t) x = getUnit d x := getUnit_modCore_proj id d c.core x fun _ _ => rfl

theorem matrixOf_writeV (d : Device) (c x : CtxId) (n : Nat) (v : Entry) (t : Nat) :
    matrixOf (modCore d c.core fun k => writeV k c.ctx n v t) x = matrixOf d x := by
  rw [matrixOf, getUnit_writeV, matrixOf]

@[simp] theorem rowAcc_modUnit (d : Device) (c : CtxId) (f : CtxUnit → CtxUnit) (k : CoreId) :
    (getCore (modUnit d c f) k).rowAcc = (getCore d k).rowAcc := getCore_modCore_proj (·.rowAcc) d c.core k fun _ => rfl

theorem val_raise (s : Sticky) (f : NFlags) (pc : BitVec 12) : (raise s f pc).val = s.val := by
  unfold raise
  split <;> rfl

theorem fresh_raise (s : Sticky) (f : NFlags) (pc : BitVec 12) : (raise s f pc).fresh = s.fresh ||| f := by
  unfold raise
  split
  · simp_all
  · rfl

theorem raise_zero (s : Sticky) (pc : BitVec 12) : raise s 0 pc = s := if_pos rfl

/-- A destination code below 16 names registers, and no queue (R92). -/
theorem dstQueue_register {x : BitVec 5} (h : x.toNat < 16) : dstQueue x = none := by
  have h1 : x ≠ 0x18 := fun e => absurd h (by rw [e]; decide)
  have h2 : x ≠ 0x19 := fun e => absurd h (by rw [e]; decide)
  rw [dstQueue, dstPush, if_neg h1, if_neg h2, List.head?_nil]

/-! ### The feed (R148) -/

theorem gives_matrixFeedStep {s : State} {c : CtxId} {e : Device} (hd : feedDue s.dev c = true) (he : feedTick s.dev c = e) :
    Gives (.matrixFeedStep c) s e :=
  gives_of_onDev (f := fun d => if feedDue d c then feedTick d c else d) rfl ((if_pos hd).trans he)

/-- The last tick of a feed step changes the planes by the one of the pass, raises its flags and moves the pass on. -/
theorem matrixOf_finishStep (d : Device) (c : CtxId) (g : Feed) :
    let sp := isSplit d c.core
    let r := stepPlane sp g (stepLen sp g) (planeOf d c g.plane)
    ∃ x, matrixOf (finishStep d c g) c =
        { matrixOf d c with planes := vmod (matrixOf d c).planes g.plane fun _ => r.1, flags := raise (matrixOf d c).flags r.2.2 g.pc, feed := some x } ∧
      x.k = g.k + stepLen sp g ∧ x.block = r.2.1 ∧ x.done = decide (passSteps g.f ≤ g.k + stepLen sp g) ∧ x.nextTick = tickOf d c + 1 := by
  intro sp r
  have hm : matrixOf (finishStep d c g) c = { matrixOf d c with
      planes := vmod (matrixOf d c).planes g.plane fun _ => r.1, flags := raise (matrixOf d c).flags r.2.2 g.pc
      feed := (matrixOf (finishStep d c g) c).feed } := by
    simp only [finishStep, setFeed, raiseArray, modPlaneOf, matrixOf_modMatrix]
    rfl
  have hf : (matrixOf (finishStep d c g) c).feed = some { g with
      k := g.k + stepLen sp g, block := r.2.1, scaled := if (g.k + stepLen sp g) % 64 = 0 then false else g.scaled, subTicks := 0
      nextTick := tickOf d c + 1, done := decide (passSteps g.f ≤ g.k + stepLen sp g) } := by
    simp only [finishStep, setFeed, raiseArray, modPlaneOf, matrixOf_modMatrix, tickOf_modMatrix]
    rfl
  exact ⟨_, hm.trans (by rw [hf]), rfl, rfl, rfl, rfl⟩

/-- A feed counts the ticks of a step down to its last, which ends the step. -/
theorem feedTick_counts {d : Device} {c : CtxId} {g : Feed} (hg : (matrixOf d c).feed = some g) (h : 1 < g.subTicks) :
    feedTick d c = setFeed d c { g with subTicks := g.subTicks - 1, nextTick := tickOf d c + 1 } := by
  simp only [feedTick, hg, h, if_true]

theorem feedTick_finishes {d : Device} {c : CtxId} {g : Feed} (hg : (matrixOf d c).feed = some g) (h : g.subTicks = 1) :
    feedTick d c = finishStep d c g := by
  simp only [feedTick, hg]
  rw [if_neg (by omega), if_pos h]

/-- A feed that waits for an operand whose data is neither there nor late. -/
theorem feedTick_waits {d : Device} {c : CtxId} {g : Feed} (hg : (matrixOf d c).feed = some g) (h0 : g.subTicks = 0) (hh : isHalted d c = false)
    (he : .empty ∈ feedHeads d c g) (hl : ∀ h ∈ feedHeads d c g, h.isLate = false) :
    feedTick d c = setFeed d c { g with waiting := true, nextTick := tickOf d c + 1 } := by
  have hlate : (feedHeads d c g).any (·.isLate) = false := List.any_eq_false.2 fun h hm => by simp [hl h hm]
  have hempty : ((feedHeads d c g).any fun h => h = .empty || h.isLate) = true := List.any_eq_true.2 ⟨_, he, by simp⟩
  simp [feedTick, hg, h0, hlate, hempty, hh]

/-! ### The drain port (R152–R156) -/

theorem gives_drainDelivery {s : State} {c : CtxId} {e : Device} (hd : drainDue s.dev c = true) (he : drainTick s.dev c = e) :
    Gives (.drainDelivery c) s e :=
  gives_of_onDev (f := fun d => drainDelivery d c) rfl ((if_pos hd).trans he)

/-- A drain of a product in FP32 or INT32 delivers the present row to its register and moves on to the next. -/
theorem drainTick_register {d : Device} {c : CtxId} {x : Drain} {rest : List Drain} (hx : (matrixOf d c).drains = x :: rest) (hdst : x.dst.toNat < 16)
    (hv : (planeOf d c x.plane).vecFed = false) (he : x.exact = false) :
    drainTick d c = modMatrix (modCore (raiseArray d c 0 x.pc) c.core fun k => writeV k c.ctx (x.dst.toNat + x.next)
        (ofLanes 32 ((List.range 64).map fun j => if j ≤ x.cols.toNat then
          (vget (vget (planeOf d c x.plane).cells (finMod 128 x.next)) (finMod 64 j)).toNat else 0)) x.issued) c fun m =>
      { m with
        lastDelivery := some (tickOf d c)
        drains := { x with
          next := x.next + 1
          waiting := false
          nextTick := tickOf d c + 1
          done := decide (x.rows.toNat + 1 ≤ x.next + 1) } :: rest } := by
  have hq := dstQueue_register hdst
  simp [drainTick, hx, destRoom, hq, drainEntry, hv, he, putResult, hdst, drainEntries]

/-! ### The vector engine (R187–R189) -/

/-- The engine takes its tick where nothing but its own results' traps halts the core (R183). -/
theorem vectorResult_ticks {d : Device} {c : CtxId} (hd : vecDue d c = true) (hh : isHalted d c = true ∨ mustAbort d c = false)
    (hr : ∀ h ∈ haltReqs d c, h.code = 0x17) : vectorResult d c = vecTick d c := by
  have ha : (!vecDue d c || mustAbort d c && !isHalted d c) = false := by
    rcases hh with hh | hh <;> simp [hd, hh]
  have hall : (haltReqs d c).all (·.code = 0x17) = true := List.all_eq_true.2 fun h hm => by simp [hr h hm]
  rw [vectorResult, ha, hall]
  rfl

/-- On the tick of another halt the engine takes no step (R79, R189). -/
theorem vectorResult_halts {d e : Device} {c : CtxId} {h : HaltReq} (hd : vecDue d c = true) (hh : isHalted d c = true ∨ mustAbort d c = false)
    (hm : h ∈ haltReqs d c) (hc : h.code ≠ 0x17) (ht : takeHalts d c = some e) : vectorResult d c = e := by
  have ha : (!vecDue d c || mustAbort d c && !isHalted d c) = false := by
    rcases hh with hh | hh <;> simp [hd, hh]
  have hall : (haltReqs d c).all (·.code = 0x17) = false := List.all_eq_false.2 ⟨h, hm, by simpa using hc⟩
  rw [vectorResult, ha, hall, ht]
  rfl

theorem gives_vectorResult {s : State} {c : CtxId} {e : Device} (he : vectorResult s.dev c = e) : Gives (.vectorResult c) s e :=
  gives_of_onDev (f := fun d => vectorResult d c) rfl he

/-- A result for a register keeps the bits that its mask leaves out. -/
theorem putMasked_register {d : Device} {c : CtxId} {o : VOp} (r : VResult) (n : Nat) (h : o.f.vd.toNat < 16) :
    putMasked d c o r n = modCore d c.core fun k => writeV k c.ctx (o.f.vd.toNat + n)
      ((r.data &&& r.mask) ||| (readV (getCore d c.core) c.ctx (o.f.vd.toNat + n) &&& ~~~ r.mask)) o.issued := by
  have hq := dstQueue_register h
  simp [putMasked, hq, putResult, h]

/-- The first part of a result's effect: its entry. -/
def entryPut (d : Device) (c : CtxId) (o : VOp) (r : VResult) : Device := match r.index with | some n => putMasked d c o r n | none => d

theorem applyResult_eq (d : Device) (c : CtxId) (o : VOp) (r : VResult) : applyResult d c o r =
    modUnit (match r.ra with
      | some ra => modCore (entryPut d c o r) c.core fun k => { k with rowAcc := vset k.rowAcc (physRow k.split c.ctx (vQ o.f)) ra }
      | none => entryPut d c o r) c fun u => { u with vector := { u.vector with flags := raise u.vector.flags r.flags o.pc } } := rfl

/-- A row accumulator is part of no context's units. -/
theorem getUnit_rowAcc (d : Device) (c x : CtxId) (f : Core → Vector RowAcc 8) :
    getUnit (modCore d c.core fun k => { k with rowAcc := f k }) x = getUnit d x := getUnit_modCore_proj id d c.core x fun _ _ => rfl

/-- The entry of a result for a register leaves the core's split and its contexts alone. -/
theorem entryPut_keeps {d : Device} {c : CtxId} {o : VOp} (r : VResult) (h : o.f.vd.toNat < 16) :
    (getCore (entryPut d c o r) c.core).split = isSplit d c.core ∧ getUnit (entryPut d c o r) c = getUnit d c := by
  unfold entryPut
  cases r.index with
  | none => exact ⟨rfl, rfl⟩
  | some n =>
    dsimp only
    rw [putMasked_register r n h]
    exact ⟨getCore_modCore_proj (·.split) d c.core c.core fun _ => rfl, getUnit_writeV _ _ _ _ _ _⟩

theorem vregPend_applyResult {d : Device} {c : CtxId} {o : VOp} {r : VResult} {n : Nat} (h : o.f.vd.toNat < 16) (hi : r.index = some n) :
    (getCore (applyResult d c o r) c.core).vregPend = (getCore d c.core).vregPend ++ [(physVreg (isSplit d c.core) c.ctx (o.f.vd.toNat + n),
      (r.data &&& r.mask) ||| (readV (getCore d c.core) c.ctx (o.f.vd.toNat + n) &&& ~~~ r.mask), o.issued)] := by
  have hp : (getCore (entryPut d c o r) c.core).vregPend = (getCore d c.core).vregPend ++ [(physVreg (isSplit d c.core) c.ctx (o.f.vd.toNat + n),
      (r.data &&& r.mask) ||| (readV (getCore d c.core) c.ctx (o.f.vd.toNat + n) &&& ~~~ r.mask), o.issued)] := by
    simp only [entryPut, hi, putMasked_register r n h, vregPend_writeV]
  rw [applyResult_eq, vregPend_modUnit, ← hp]
  split
  · exact getCore_modCore_proj (·.vregPend) _ _ _ fun _ => rfl
  · rfl

theorem rowAcc_applyResult {d : Device} {c : CtxId} {o : VOp} {r : VResult} {x : RowAcc} (h : o.f.vd.toNat < 16) (hr : r.ra = some x) :
    vget (getCore (applyResult d c o r) c.core).rowAcc (physRow (isSplit d c.core) c.ctx (vQ o.f)) = x := by
  obtain ⟨hs, -⟩ := entryPut_keeps (d := d) (c := c) r h
  rw [applyResult_eq, rowAcc_modUnit, hr]
  simp only [getCore_modCore_same, hs, vget_vset_same]

theorem vector_applyResult {d : Device} {c : CtxId} {o : VOp} (r : VResult) (h : o.f.vd.toNat < 16) :
    (getUnit (applyResult d c o r) c).vector = { (getUnit d c).vector with flags := raise (getUnit d c).vector.flags r.flags o.pc } := by
  obtain ⟨-, hu⟩ := entryPut_keeps (d := d) (c := c) r h
  rw [applyResult_eq, getUnit_modUnit_same, ← hu]
  cases r.ra with
  | some x => rw [getUnit_rowAcc]
  | none => rfl

/-- The last result of an operation for a register, on its tick. -/
theorem vecTick_delivers {d : Device} {c : CtxId} {o : VOp} {r : VResult} (ho : vecOf d c = some o) (hn : o.total ≤ o.next) (hr : o.results = [r])
    (hv : o.f.vd.toNat < 16) (hd : r.due ≤ tickOf d c) :
    vecTick d c = setVec (applyResult d c o r) c (some { o with
      results := []
      waiting := false
      nextTick := tickOf d c + 1
      done := decide (o.start ≤ tickOf d c + 1) }) := by
  have hdue : stepDue o (tickOf d c) = false := by simp [stepDue, hn]
  have hpush : pushDue o (tickOf d c) = false := by simp [pushDue, dstQueue_register hv]
  simp [vecTick, ho, hdue, hpush, hr, hd, hn, forAll]

/-- A step that is due and whose operand is neither there nor late moves every later tick of the operation on by one. -/
theorem vecTick_holds {d : Device} {c : CtxId} {o : VOp} (ho : vecOf d c = some o) (hn : o.next < o.total) (hs : o.start ≤ tickOf d c)
    (hh : isHalted d c = false) (he : .empty ∈ vHeads d c o) (hl : ∀ h ∈ vHeads d c o, h.isLate = false) :
    vecTick d c = setVec d c (some (holdOp o (tickOf d c))) := by
  have hdue : stepDue o (tickOf d c) = true := by simp [stepDue, hn, hs]
  have hlate : (vHeads d c o).any (·.isLate) = false := List.any_eq_false.2 fun h hm => by simp [hl h hm]
  have hempty : (vHeads d c o).any (· = .empty) = true := List.any_eq_true.2 ⟨_, he, by simp⟩
  simp [vecTick, ho, hdue, hh, hlate, hempty]

end Sys2Proof.Machine

open Sys2Proof.Machine

/-- Settles O52: each engine's tick by what it meets, a feed's last sub-tick through its plane, a vector result through the entry, the row
accumulator and the flags that it leaves. -/
theorem enginesAdvance : Obligations.EnginesAdvance := by
  unfold Obligations.EnginesAdvance
  refine ⟨fun s c g hg hd => ⟨fun h1 => ?_, fun h1 => ?_, fun h0 hh he hl => ?_⟩, fun s c x rest hx hd => ⟨fun hroom => ?_, fun hdst hv he => ?_⟩,
    fun s c o r ho hd hh hr hn hres hv hdue => ?_, fun s c h d hd hh hm hc ht => ?_, fun s c o ho hd ha hr hn hs hh he hl => ?_⟩
  · exact gives_matrixFeedStep hd (feedTick_counts hg h1)
  · obtain ⟨x, hm, hk, hblock, hdone, hnext⟩ := matrixOf_finishStep s.dev c g
    refine ⟨_, gives_matrixFeedStep hd (feedTick_finishes hg h1), ?_, fun p hp => ?_, ?_, x, ?_, hk, hblock, hdone, hnext⟩
    · rw [planeOf, hm, vget_vmod_same]
    · rw [planeOf, hm, vget_vmod_other _ _ _ _ hp.symm]
      rfl
    · rw [hm, val_raise]
    · rw [hm]
  · exact gives_matrixFeedStep hd (feedTick_waits hg h0 hh he hl)
  · exact gives_drainDelivery hd (by simp only [drainTick, hx, hroom]; rfl)
  · refine ⟨_, gives_drainDelivery hd (drainTick_register hx hdst hv he), ?_, ?_⟩
    · rw [vregPend_modMatrix, vregPend_writeV, raiseArray, vregPend_modMatrix, modMatrix, isSplit_modUnit]
    · rw [matrixOf_modMatrix, matrixOf_writeV, raiseArray, matrixOf_modMatrix, raise_zero]
  · refine ⟨_, gives_vectorResult ((vectorResult_ticks hd hh hr).trans (vecTick_delivers ho hn hres hv hdue)), ?_, fun n hi => ?_, fun x hx => ?_, ?_⟩
    · simp [vecOf, setVec]
    · rw [setVec, vregPend_modUnit, vregPend_applyResult hv hi]
    · rw [setVec, rowAcc_modUnit, rowAcc_applyResult hv hx]
    · rw [setVec, getUnit_modUnit_same]
      simp only [vector_applyResult r hv, fresh_raise]
  · exact gives_vectorResult (vectorResult_halts hd hh hm hc ht)
  · exact gives_vectorResult ((vectorResult_ticks hd (.inr ha) hr).trans (vecTick_holds ho hn hs hh he hl))
end

section
/-! O28: a load whose handle is that of a run which it ends. -/

open Sys2Proof.Claims

namespace Sys2Proof.Machine

/-- A binary of one core section, for core 0, of no contract but the portable one (R111–R113). -/
def smallBinary : List Byte :=
  leBytes 4 0x54534C43 ++ leBytes 2 1 ++ [1, 1] ++ List.replicate 56 0 ++ leBytes 4 1 ++ leBytes 4 128 ++ List.replicate 56 0 ++
    leBytes 2 1 ++ leBytes 2 0 ++ leBytes 4 144 ++ leBytes 4 32 ++ leBytes 4 0 ++ List.replicate 32 0

/-- The load of that binary from host address 64 into domain 0, by a command of handle 7. -/
def smallLoad : Cmd := { (default : Cmd) with
  handle := 7
  hdr := { (default : CmdHdr) with ring := 0, part := 0, dom := 0 }
  job := .loadProgram 64 176 }

/-- Domain 1, to which core 0 is bound, has halted, and its RUN has the handle of the load. -/
def sharedHandle : Device :=
  modDom (modUnit { Device.reset with
      host := (List.range 176).map fun k => (64 + k, smallBinary.getD k 0)
      cmds := [smallLoad] } ⟨0, 0⟩ fun u => { u with bound := some 1 }) ⟨0, 1⟩ fun m =>
    { m with st := .halted, run := some (default : Run), runHandle := some 7 }

theorem readBytes_sharedHandle : readBytes sharedHandle .host (64 : W64).toNat (176 : W32).toNat = smallBinary := by decide +kernel

theorem loadStatus_smallBinary : (loadStatus sharedHandle ⟨0, 0⟩ smallBinary).1 = .ok := by decide +kernel

theorem inReset_sharedHandle (k : CoreId) : (getCore sharedHandle k).inReset = false := by
  have hreset : (getCore Device.reset k).inReset = false := by simp [getCore, Device.reset, vget, Core.reset]
  have hunit : ∀ (d : Device) (c : CtxId) (f : CtxUnit → CtxUnit), (getCore (modUnit d c f) k).inReset = (getCore d k).inReset := fun d c f =>
    getCore_modCore_proj (·.inReset) d c.core k fun _ => rfl
  exact (hunit _ _ _).trans hreset

theorem room_sharedHandle : Room sharedHandle 0 := by
  unfold Room
  decide +kernel

/-- The end of a load whose checks all pass, while no event is armed and no core is in reset, installs the binary and completes the command. -/
theorem loadDone_of_ok {d : Device} {i : DomId} {c : Cmd} {a : W64} {n : W32} (hc : d.cmds = [c]) (hp : c.hdr.part = i.part)
    (hi : c.hdr.dom = i.dom) (hj : c.job = .loadProgram a n) (ha : d.err.armed = []) (hr : ∀ k, (getCore d k).inReset = false)
    (hok : (loadStatus d i (readBytes d .host a.toNat n.toNat)).1 = .ok) :
    loadDone d i true = completeCmd (installProgram d i (parseProgram (readBytes d .host a.toNat n.toNat))) c.handle .ok 0
      (leBytes 8 ((programFloor (parseProgram (readBytes d .host a.toNat n.toNat))).getD 0) ++
        leBytes 8 ((parseProgram (readBytes d .host a.toNat n.toNat)).digest.toNat % 2 ^ 64)) := by
  rcases hs : loadStatus d i (readBytes d .host a.toNat n.toNat) with ⟨st, o⟩
  obtain rfl : st = .ok := by simpa [hs] using hok
  simp [loadDone, hc, hp, hi, hj, hostAccess_ok (.inr ha), hs, hr]

theorem completeCmd_of_no_cmds {d : Device} (h : d.cmds = []) (handle : W32) (st : Status) (halt : Byte) (res : List Byte) :
    completeCmd d handle st halt res = d := by
  simp [completeCmd, h]

/-- Host memory and the commands in progress, which an installation touches only where it ends a run. -/
def hostAndCmds (d : Device) : Mem × List Cmd := (d.host, d.cmds)

theorem hostAndCmds_installProgram {d : Device} {i : DomId} {g : Program} {e : Fin 16} (h : holders d i g = [e]) :
    hostAndCmds (installProgram d i g) = hostAndCmds (endHalted d { part := i.part, dom := e }) := by
  have hempty : ∀ x j, hostAndCmds (emptyDomain x j) = hostAndCmds x := fun _ _ => rfl
  have hbarriers : ∀ (x : Device) b, hostAndCmds { x with barriers := b } = hostAndCmds x := fun _ _ => rfl
  have hdom : ∀ x j f, hostAndCmds (modDom x j f) = hostAndCmds x := fun _ _ _ => rfl
  have hrelease : ∀ x c, hostAndCmds (releaseCore x c) = hostAndCmds x := fun _ _ => rfl
  have hinstall : ∀ x k, hostAndCmds (installCore i g x k) = hostAndCmds x := fun _ _ => rfl
  have hclaim : ∀ x b, hostAndCmds (claimBarrier i x b) = hostAndCmds x := fun _ _ => rfl
  unfold installProgram
  dsimp only
  rw [h, forAll_single, hdom, forAll_proj hostAndCmds hclaim, forAll_proj hostAndCmds hinstall, forAll_proj hostAndCmds fun x (k : CoreSect) => hrelease x k.ctx,
    hbarriers (forAll _ _ releaseCore) _, forAll_proj hostAndCmds hrelease, hempty]

theorem installProgram_of_holder {d : Device} {i : DomId} {g : Program} {e : Fin 16} (h : holders d i g = [e]) :
    (installProgram d i g).host = (endHalted d { part := i.part, dom := e }).host ∧
    (installProgram d i g).cmds = (endHalted d { part := i.part, dom := e }).cmds :=
  ⟨congrArg Prod.fst (hostAndCmds_installProgram h), congrArg Prod.snd (hostAndCmds_installProgram h)⟩

theorem holders_sharedHandle : holders sharedHandle ⟨0, 0⟩ (parseProgram smallBinary) = [1] := by decide +kernel

/-- The end of the run of domain 1 takes the load's command, and its entry has the status PROGRAM_HALTED. -/
theorem endHalted_sharedHandle : (endHalted sharedHandle ⟨0, 1⟩).cmds = [] ∧ readByte (endHalted sharedHandle ⟨0, 1⟩) .host 4 = 7 := by
  decide +kernel

theorem installProgram_sharedHandle : (installProgram sharedHandle ⟨0, 0⟩ (parseProgram smallBinary)).cmds = [] ∧
    readByte (installProgram sharedHandle ⟨0, 0⟩ (parseProgram smallBinary)) .host 4 = 7 := by
  obtain ⟨hhost, hcmds⟩ := installProgram_of_holder holders_sharedHandle
  rw [hcmds, readByte_host_congr hhost]
  exact endHalted_sharedHandle

theorem loadStatus_sharedHandle : (loadStatus sharedHandle ⟨0, 0⟩ (readBytes sharedHandle .host (64 : W64).toNat (176 : W32).toNat)).1 = .ok := by
  rw [readBytes_sharedHandle]
  exact loadStatus_smallBinary

theorem status_loadDone_sharedHandle : readByte (loadDone sharedHandle ⟨0, 0⟩ true) .host 4 = 7 := by
  obtain ⟨hnone, hstatus⟩ := installProgram_sharedHandle
  rw [loadDone_of_ok (c := smallLoad) rfl rfl rfl rfl rfl inReset_sharedHandle loadStatus_sharedHandle, readBytes_sharedHandle, completeCmd_of_no_cmds hnone]
  exact hstatus

/-- The status of a completion entry stands at its byte 4 (R382). -/
theorem status_of_ends {d e : Device} {c : Cmd} {st : Nat} {halt : Byte} {res : List Byte} (h : Ends d e c st halt res) :
    readByte e .host (entryAt d c.hdr.ring + 4) = BitVec.ofNat 8 st := by
  obtain ⟨⟨hbytes, -⟩, -⟩ := h
  have hb := congrArg (·[4]?) hbytes
  simpa [readBytes, entry, leBytes, List.range_succ] using hb

theorem answers_of_pos {i : Instr} {s : State} {p : Prop} [Decidable p] {P Q : Device → Prop} (hp : p)
    (h : Answers i s fun e => if p then P e else Q e) : Answers i s P := by
  simpa only [if_pos hp] using h

theorem gives_sharedHandle : Gives (.loadProgramDone ⟨0, 0⟩ true) { dev := sharedHandle, pending := [] } (loadDone sharedHandle ⟨0, 0⟩ true) :=
  gives_of_onDev (f := fun d => loadDone d ⟨0, 0⟩ true) rfl rfl

theorem entryAt_sharedHandle : entryAt sharedHandle smallLoad.hdr.ring = 0 := by decide +kernel

end Sys2Proof.Machine

open Sys2Proof.Machine

/-- Refutes O28: its third clause lets another domain hold the load's own handle as that of its RUN. The installation ends that run, whose
completion takes the only command of the handle, and the entry carries PROGRAM_HALTED where the clause asks for OK. The clause lacks the
hypothesis that no other domain's RUN has the handle of the load. -/
theorem not_programsAreLoaded : ¬ Obligations.ProgramsAreLoaded := by
  unfold Obligations.ProgramsAreLoaded
  rintro ⟨-, -, hload, -⟩
  obtain ⟨e, hgo, hend, -⟩ := answers_of_pos loadStatus_sharedHandle (hload { dev := sharedHandle, pending := [] } ⟨0, 0⟩ smallLoad 64 176
    rfl rfl rfl rfl rfl room_sharedHandle (isArmed_nil rfl _ _) inReset_sharedHandle)
  rw [gives_unique hgo gives_sharedHandle] at hend
  have hzero := status_of_ends hend
  rw [entryAt_sharedHandle] at hzero
  exact absurd (status_loadDone_sharedHandle.symm.trans hzero) (by decide)
end

section
/-! O37: the scalar operations of two registers. -/

open Sys2Proof.Claims

namespace Sys2Proof.Machine

/-! ### Values of two registers (R119) -/

theorem sMin_eq_ofInt (x y : W64) : sMin x y = BitVec.ofInt 64 (min x.toInt y.toInt) := by
  simp only [sMin, BitVec.slt, decide_eq_true_eq]
  split
  · rw [min_eq_left (by omega), BitVec.ofInt_toInt]
  · rw [min_eq_right (by omega), BitVec.ofInt_toInt]

theorem sMax_eq_ofInt (x y : W64) : sMax x y = BitVec.ofInt 64 (max x.toInt y.toInt) := by
  simp only [sMax, BitVec.slt, decide_eq_true_eq]
  split
  · rw [max_eq_right (by omega), BitVec.ofInt_toInt]
  · rw [max_eq_left (by omega), BitVec.ofInt_toInt]

theorem uMin_eq_ofNat (x y : W64) : uMin x y = BitVec.ofNat 64 (min x.toNat y.toNat) := by
  simp only [uMin, BitVec.ult, decide_eq_true_eq]
  split
  · rw [min_eq_left (by omega), BitVec.ofNat_toNat, BitVec.setWidth_eq]
  · rw [min_eq_right (by omega), BitVec.ofNat_toNat, BitVec.setWidth_eq]

theorem uMax_eq_ofNat (x y : W64) : uMax x y = BitVec.ofNat 64 (max x.toNat y.toNat) := by
  simp only [uMax, BitVec.ult, decide_eq_true_eq]
  split
  · rw [max_eq_right (by omega), BitVec.ofNat_toNat, BitVec.setWidth_eq]
  · rw [max_eq_left (by omega), BitVec.ofNat_toNat, BitVec.setWidth_eq]

/-! ### The rows -/

/-- An operation of two scalar registers writes rd where its predicate holds (R93, R119). -/
theorem scalarEffect_twoRegisters {d0 d : Device} {c : CtxId} {w : SeqId} {b : RawBundle} (h : 1 ≤ scalarOp b ∧ scalarOp b ≤ 0x0D) :
    scalarEffect d0 d c w b = if scalarHolds d0 c (getSeq d0 w) b then
      setS d w (scRd b) (aluR (scalarOp b) (readS (getSeq d0 w) (scRs1 b)) (readS (getSeq d0 w) (scRs2 b))) (tickOf d0 c) else d := by
  have hr : isSR (scalarOp b) = true := by simp [isSR]; omega
  have hc : isCompare (scalarOp b) = false := by simp [isCompare]; omega
  have hp : isPredOp (scalarOp b) = false := by simp [isPredOp]; omega
  have hn : scalarOp b ≠ 0 ∧ scalarOp b ≠ 0x30 ∧ scalarOp b ≠ 0x31 ∧ scalarOp b ≠ 0x32 ∧ scalarOp b ≠ 0x1C ∧ scalarOp b ≠ 0x1D ∧
      scalarOp b ≠ 0x20 ∧ scalarOp b ≠ 0x21 := by omega
  cases hh : scalarHolds d0 c (getSeq d0 w) b <;> simp [scalarEffect, effectR, hr, hc, hp, hn, hh]

/-- The row of an operation of two scalar registers, by the value that it computes. -/
theorem setsS_twoRegisters {s : State} {w : SeqId} {b : RawBundle} {i : Instr} {op : Nat} {v : W64} (h : Issues s w b) (hop : scalarOp b = op)
    (hi : exec i s = presentOp (fun b => decide (scalarOp b = op)) w s) (hr : 1 ≤ op ∧ op ≤ 0x0D)
    (hv : aluR op (readS (getSeq s.dev w) (scRs1 b)) (readS (getSeq s.dev w) (scRs2 b)) = v) :
    SetsS i s w b (scalarHolds s.dev (ctxOf s.dev w) (getSeq s.dev w) b) v := by
  subst hop hv
  exact setsS_of_scalarEffect h hi (by simp) (by omega) fun d => scalarEffect_twoRegisters hr

end Sys2Proof.Machine

open Sys2Proof.Machine

/-- Settles O37: each row comes to one write of rd, of the value that its arithmetic names. -/
theorem arithmeticOfTwoRegisters : Obligations.ArithmeticOfTwoRegisters := by
  unfold Obligations.ArithmeticOfTwoRegisters
  intro s w b h q on x y
  refine ⟨fun hop => ?_, fun hop => ?_, fun hop => ?_, fun hop => ?_, fun hop => ?_, fun hop => ?_, fun hop => ?_, fun hop => ?_, fun hop => ?_,
    fun hop => ?_, fun hop => ?_, fun hop => ?_, fun hop => ?_⟩
  · exact setsS_twoRegisters h hop rfl (by decide) rfl
  · exact setsS_twoRegisters h hop rfl (by decide) rfl
  · exact setsS_twoRegisters h hop rfl (by decide) rfl
  · exact setsS_twoRegisters h hop rfl (by decide) rfl
  · exact setsS_twoRegisters h hop rfl (by decide) rfl
  · exact setsS_twoRegisters h hop rfl (by decide) rfl
  · exact setsS_twoRegisters h hop rfl (by decide) (shiftLeft_eq_ofNat _ _)
  · exact setsS_twoRegisters h hop rfl (by decide) (ushiftRight_eq_ofNat _ _)
  · exact setsS_twoRegisters h hop rfl (by decide) (sshiftRight_eq_ofInt _ _)
  · exact setsS_twoRegisters h hop rfl (by decide) (sMin_eq_ofInt _ _)
  · exact setsS_twoRegisters h hop rfl (by decide) (sMax_eq_ofInt _ _)
  · exact setsS_twoRegisters h hop rfl (by decide) (uMin_eq_ofNat _ _)
  · exact setsS_twoRegisters h hop rfl (by decide) (uMax_eq_ofNat _ _)
end

section
/-! The advance of an address generator: its position in the iteration space, and n advances at once (R106, R123). -/

namespace Sys2Proof.Machine

/-! ### Positions by levels -/

/-- The position of the indices of a list of levels, the first one innermost. -/
def posOn (g : AddrGen) : List (Fin 6) → Nat
  | [] => 0
  | l :: ls => if l.val < g.levels.toNat then (vget g.idx l).toNat + (vget g.count l).toNat * posOn g ls else posOn g ls

/-- The positions of a list of levels. -/
def totalOn (g : AddrGen) : List (Fin 6) → Nat
  | [] => 1
  | l :: ls => if l.val < g.levels.toNat then (vget g.count l).toNat * totalOn g ls else totalOn g ls

theorem agPosition_eq_posOn (g : AddrGen) : agPosition g = posOn g (List.finRange 6) := by
  have h : ∀ (ls : List (Fin 6)) (a m : Nat), (ls.foldl (fun (a : Nat × Nat) l =>
      if l.val < g.levels.toNat then (a.1 + a.2 * (vget g.idx l).toNat, a.2 * (vget g.count l).toNat) else a) (a, m)).1 = a + m * posOn g ls := by
    intro ls
    induction ls with
    | nil => simp [posOn]
    | cons l ls ih =>
      intro a m
      rw [List.foldl_cons, posOn]
      split
      · rw [ih]
        ring
      · exact ih a m
  rw [agPosition, h]
  ring

theorem agTotal_eq_totalOn (g : AddrGen) : agTotal g = totalOn g (List.finRange 6) := by
  have h : ∀ (ls : List (Fin 6)) (a : Nat),
      ls.foldl (fun a l => if l.val < g.levels.toNat then a * (vget g.count l).toNat else a) a = a * totalOn g ls := by
    intro ls
    induction ls with
    | nil => simp [totalOn]
    | cons l ls ih =>
      intro a
      rw [List.foldl_cons, totalOn]
      split
      · rw [ih, mul_assoc]
      · exact ih a
  rw [agTotal, h, one_mul]

theorem posOn_congr {g k : AddrGen} (hl : k.levels = g.levels) (hc : k.count = g.count) :
    ∀ {ls : List (Fin 6)}, (∀ l ∈ ls, vget k.idx l = vget g.idx l) → posOn k ls = posOn g ls := by
  intro ls
  induction ls with
  | nil => exact fun _ => rfl
  | cons l ls ih =>
    intro h
    rw [posOn, posOn, hl, hc, h l List.mem_cons_self, ih fun x hx => h x (List.mem_cons_of_mem _ hx)]

theorem totalOn_congr {g k : AddrGen} (hl : k.levels = g.levels) (hc : k.count = g.count) (ls : List (Fin 6)) : totalOn k ls = totalOn g ls := by
  induction ls with
  | nil => rfl
  | cons l ls ih => rw [totalOn, totalOn, hl, hc, ih]

/-- Levels that are not in use hold one position. -/
theorem posOn_unused {g : AddrGen} : ∀ {ls : List (Fin 6)}, (∀ l ∈ ls, g.levels.toNat ≤ l.val) → posOn g ls = 0 ∧ totalOn g ls = 1 := by
  intro ls
  induction ls with
  | nil => exact fun _ => ⟨rfl, rfl⟩
  | cons l ls ih =>
    intro h
    have hl : ¬ l.val < g.levels.toNat := Nat.not_lt.2 (h l List.mem_cons_self)
    rw [posOn, totalOn, if_neg hl, if_neg hl]
    exact ih fun x hx => h x (List.mem_cons_of_mem _ hx)

/-! ### Positions from a level on -/

/-- The position of the indices of level l and those above it. -/
def posFrom (g : AddrGen) (l : Nat) : Nat := posOn g ((List.finRange 6).drop l)

/-- The positions of level l and those above it. -/
def totalFrom (g : AddrGen) (l : Nat) : Nat := totalOn g ((List.finRange 6).drop l)

theorem drop_finRange_six {l : Nat} (h : l < 6) : (List.finRange 6).drop l = finMod 6 l :: (List.finRange 6).drop (l + 1) := by
  rw [List.drop_eq_getElem_cons (by simpa using h)]
  congr 1
  exact Fin.ext (by simp [finMod, Nat.mod_eq_of_lt h])

theorem le_of_mem_drop_finRange {l : Nat} {i : Fin 6} (h : i ∈ (List.finRange 6).drop l) : l ≤ i.val := by
  obtain ⟨n, hn, rfl⟩ := List.mem_iff_getElem.1 h
  simp

theorem finMod_six_val {l : Nat} (h : l < 6) : (finMod 6 l : Fin 6).val = l := Nat.mod_eq_of_lt h

theorem finMod_six_ne {l : Nat} (h : l < 6) {i : Fin 6} (hi : i.val ≠ l) : finMod 6 l ≠ i := fun e => hi (e ▸ finMod_six_val h)

theorem posFrom_succ {g : AddrGen} {l : Nat} (h6 : l < 6) (hl : l < g.levels.toNat) :
    posFrom g l = (vget g.idx (finMod 6 l)).toNat + (vget g.count (finMod 6 l)).toNat * posFrom g (l + 1) := by
  rw [posFrom, drop_finRange_six h6, posOn, finMod_six_val h6, if_pos hl, posFrom]

theorem totalFrom_succ {g : AddrGen} {l : Nat} (h6 : l < 6) (hl : l < g.levels.toNat) :
    totalFrom g l = (vget g.count (finMod 6 l)).toNat * totalFrom g (l + 1) := by
  rw [totalFrom, drop_finRange_six h6, totalOn, finMod_six_val h6, if_pos hl, totalFrom]

/-- The positions of the levels above l do not depend on the index of l. -/
theorem posFrom_setIdx (g : AddrGen) {l : Nat} (h : l < 6) (v : W32) :
    posFrom { g with idx := vset g.idx (finMod 6 l) v } (l + 1) = posFrom g (l + 1) :=
  posOn_congr (g := g) (k := { g with idx := vset g.idx (finMod 6 l) v }) rfl rfl fun i hm =>
    vget_vset_other _ _ _ _ (finMod_six_ne h (by have := le_of_mem_drop_finRange hm; omega))

theorem totalFrom_setIdx (g : AddrGen) (v : Vector W32 6) (l : Nat) : totalFrom { g with idx := v } l = totalFrom g l :=
  totalOn_congr (g := g) (k := { g with idx := v }) rfl rfl _

/-! ### Indices in range -/

/-- The indices of a generator lie below their counts, and those of levels not in use are zero. -/
structure InRange (g : AddrGen) : Prop where
  levels : g.levels.toNat ≤ 6
  idx : ∀ l : Fin 6, l.val < g.levels.toNat → (vget g.idx l).toNat < (vget g.count l).toNat
  unused : ∀ l : Fin 6, g.levels.toNat ≤ l.val → vget g.idx l = 0

theorem InRange.posOn_lt {g : AddrGen} (h : InRange g) (ls : List (Fin 6)) : posOn g ls < totalOn g ls := by
  induction ls with
  | nil => exact Nat.one_pos
  | cons l ls ih =>
    rw [posOn, totalOn]
    split
    · rename_i hl
      calc (vget g.idx l).toNat + (vget g.count l).toNat * posOn g ls
          < (vget g.count l).toNat + (vget g.count l).toNat * posOn g ls := Nat.add_lt_add_right (h.idx l hl) _
        _ = (vget g.count l).toNat * (posOn g ls + 1) := by ring
        _ ≤ (vget g.count l).toNat * totalOn g ls := Nat.mul_le_mul_left _ ih
    · exact ih

theorem InRange.agPosition_lt {g : AddrGen} (h : InRange g) : agPosition g < agTotal g := by
  rw [agPosition_eq_posOn, agTotal_eq_totalOn]
  exact h.posOn_lt _

/-- An index that is replaced by one in range. -/
theorem InRange.setIdx {g : AddrGen} (h : InRange g) {l : Fin 6} {v : W32} (hl : l.val < g.levels.toNat) (hv : v.toNat < (vget g.count l).toNat) :
    InRange { g with idx := vset g.idx l v } := by
  refine ⟨h.levels, fun k hk => ?_, fun k hk => ?_⟩
  · by_cases e : l = k
    · subst e
      simpa using hv
    · simpa [vget_vset_other _ _ _ _ e] using h.idx k hk
  · have e : l ≠ k := fun e => absurd (e ▸ hl : k.val < g.levels.toNat) (Nat.not_lt.2 hk)
    simpa [vget_vset_other _ _ _ _ e] using h.unused k hk

/-- One level of the indices at a position: its index, and the position of the levels after it. -/
def digitStep (g : AddrGen) (a : Vector W32 6 × Nat) (l : Fin 6) : Vector W32 6 × Nat :=
  if l.val < g.levels.toNat then (vset a.1 l (BitVec.ofNat 32 (a.2 % (vget g.count l).toNat)), a.2 / (vget g.count l).toNat) else a

theorem agIndices_eq_foldl (g : AddrGen) (p : Nat) : agIndices g p = ((List.finRange 6).foldl (digitStep g) (Vector.replicate 6 0, p)).1 := rfl

theorem InRange.digitStep_posOn {g : AddrGen} (h : InRange g) (v : Vector W32 6) (l : Fin 6) (ls : List (Fin 6)) :
    digitStep g (v, posOn g (l :: ls)) l = (if l.val < g.levels.toNat then vset v l (vget g.idx l) else v, posOn g ls) := by
  rw [digitStep, posOn]
  by_cases hl : l.val < g.levels.toNat
  · have hi := h.idx l hl
    simp only [hl, if_true]
    rw [Nat.add_mul_mod_self_left, Nat.mod_eq_of_lt hi, Nat.add_mul_div_left _ _ (by omega), Nat.div_eq_of_lt hi, zero_add, BitVec.ofNat_toNat,
      BitVec.setWidth_eq]
  · simp only [hl, if_false]

theorem InRange.vget_foldl_digitStep {g : AddrGen} (h : InRange g) (k : Fin 6) (ls : List (Fin 6)) (v : Vector W32 6) :
    vget (ls.foldl (digitStep g) (v, posOn g ls)).1 k = if k ∈ ls ∧ k.val < g.levels.toNat then vget g.idx k else vget v k := by
  induction ls generalizing v with
  | nil => simp
  | cons l ls ih =>
    rw [List.foldl_cons, h.digitStep_posOn, ih]
    by_cases hk : k = l
    · subst hk
      by_cases hl : k.val < g.levels.toNat <;> simp [hl]
    · have hv : vget (if l.val < g.levels.toNat then vset v l (vget g.idx l) else v) k = vget v k := by
        split
        · exact vget_vset_other _ _ _ _ (Ne.symm hk)
        · rfl
      simp only [hv, List.mem_cons, hk, false_or]

/-- The indices at the position of indices in range are those indices. -/
theorem InRange.agIndices_agPosition {g : AddrGen} (h : InRange g) : agIndices g (agPosition g) = g.idx := by
  have hget : ∀ k : Fin 6, vget (agIndices g (agPosition g)) k = vget g.idx k := fun k => by
    rw [agPosition_eq_posOn, agIndices_eq_foldl, h.vget_foldl_digitStep]
    by_cases hk : k.val < g.levels.toNat
    · simp [hk]
    · rw [if_neg (by simp [hk]), h.unused k (Nat.not_lt.1 hk)]
      simp [vget]
  exact Vector.ext fun k hk => hget ⟨k, hk⟩

/-! ### One advance (R106) -/

/-- What a carry into level l leaves: the indices below l, and from l on the next position, the first one after the last. -/
structure Carried (l : Nat) (g k : AddrGen) : Prop where
  rest : k = { g with idx := k.idx, done := k.done }
  below : ∀ i : Fin 6, i.val < l → vget k.idx i = vget g.idx i
  range : InRange k
  pos : posFrom k l = (posFrom g l + 1) % totalFrom g l
  done : k.done = (g.done || (!g.exhaust && decide (totalFrom g l ≤ posFrom g l + 1)))

/-- An index that does not reach its count takes the position on by one. -/
theorem carried_next {l : Nat} {g : AddrGen} (h : InRange g) (hl : l < g.levels.toNat)
    (hi : (vget g.idx (finMod 6 l)).toNat + 1 < (vget g.count (finMod 6 l)).toNat) :
    Carried l g { g with idx := vset g.idx (finMod 6 l) (vget g.idx (finMod 6 l) + 1) } := by
  have h6 : l < 6 := hl.trans_le h.levels
  have hadd : (vget g.idx (finMod 6 l) + 1).toNat = (vget g.idx (finMod 6 l)).toNat + 1 := by
    have := (vget g.count (finMod 6 l)).isLt
    rw [BitVec.toNat_add]
    exact Nat.mod_eq_of_lt (show _ + 1 < 2 ^ 32 by omega)
  have hlt : posFrom g l + 1 < totalFrom g l := by
    have hrest : posFrom g (l + 1) < totalFrom g (l + 1) := h.posOn_lt _
    rw [posFrom_succ h6 hl, totalFrom_succ h6 hl]
    calc (vget g.idx (finMod 6 l)).toNat + (vget g.count (finMod 6 l)).toNat * posFrom g (l + 1) + 1
        < (vget g.count (finMod 6 l)).toNat * (posFrom g (l + 1) + 1) := by
          rw [Nat.mul_add]
          omega
      _ ≤ (vget g.count (finMod 6 l)).toNat * totalFrom g (l + 1) := Nat.mul_le_mul_left _ hrest
  refine ⟨rfl, fun i hil => vget_vset_other _ _ _ _ (finMod_six_ne h6 (by omega)), h.setIdx (by rwa [finMod_six_val h6]) (by rwa [hadd]), ?_, ?_⟩
  · have hset := posFrom_succ (g := { g with idx := vset g.idx (finMod 6 l) (vget g.idx (finMod 6 l) + 1) }) h6 hl
    rw [posFrom_setIdx g h6, vget_vset_same, hadd] at hset
    rw [Nat.mod_eq_of_lt hlt, hset, posFrom_succ h6 hl]
    ring
  · rw [decide_eq_false (Nat.not_le.2 hlt), Bool.and_false, Bool.or_false]

/-- An index that reaches its count goes back to zero, and the carry goes on. -/
theorem carried_wrap {l : Nat} {g k : AddrGen} (h : InRange g) (hl : l < g.levels.toNat)
    (hi : ¬ (vget g.idx (finMod 6 l)).toNat + 1 < (vget g.count (finMod 6 l)).toNat)
    (hk : Carried (l + 1) { g with idx := vset g.idx (finMod 6 l) 0 } k) : Carried l g k := by
  have h6 : l < 6 := hl.trans_le h.levels
  have hcount : (vget g.idx (finMod 6 l)).toNat + 1 = (vget g.count (finMod 6 l)).toNat := by
    have := h.idx (finMod 6 l) (by rwa [finMod_six_val h6])
    omega
  have hlast : posFrom g l + 1 = (vget g.count (finMod 6 l)).toNat * (posFrom g (l + 1) + 1) := by
    rw [posFrom_succ h6 hl, Nat.mul_add]
    omega
  have hzero : vget k.idx (finMod 6 l) = 0 := (hk.below _ (by rw [finMod_six_val h6]; omega)).trans (vget_vset_same _ _ _)
  have hrest := hk.rest
  refine ⟨by rw [hrest], fun i hil => ?_, hk.range, ?_, ?_⟩
  · exact (hk.below i (by omega)).trans (vget_vset_other _ _ _ _ (finMod_six_ne h6 (by omega)))
  · have hpos := hk.pos
    have hlev : k.levels = g.levels := by rw [hrest]
    have hc : k.count = g.count := by rw [hrest]
    rw [posFrom_setIdx g h6, totalFrom_setIdx] at hpos
    rw [hlast, totalFrom_succ h6 hl, Nat.mul_mod_mul_left, ← hpos, posFrom_succ h6 (hlev ▸ hl), hzero, hc]
    exact Nat.zero_add _
  · rw [hk.done, posFrom_setIdx g h6, totalFrom_setIdx, hlast, totalFrom_succ h6 hl]
    simp only [Nat.mul_le_mul_left_iff (show 0 < (vget g.count (finMod 6 l)).toNat by omega)]

/-- A carry past the last level ends the iteration space, which begins again. -/
theorem carried_end {l : Nat} {g : AddrGen} (h : InRange g) (hl : g.levels.toNat ≤ l) :
    Carried l g (if g.exhaust then g else { g with done := true }) := by
  obtain ⟨hpos, htot⟩ : posFrom g l = 0 ∧ totalFrom g l = 1 := posOn_unused fun i hm => hl.trans (le_of_mem_drop_finRange hm)
  split
  · rename_i he
    exact ⟨rfl, fun _ _ => rfl, h, by rw [hpos, htot], by simp [he]⟩
  · rename_i he
    have hsame : posFrom { g with done := true } l = 0 := (posOn_congr (g := g) (k := { g with done := true }) rfl rfl fun _ _ => rfl).trans hpos
    exact ⟨rfl, fun _ _ => rfl, ⟨h.levels, h.idx, h.unused⟩, by rw [hsame, hpos, htot], by simp [he, hpos, htot]⟩

theorem carried_agCarry {n l : Nat} {g : AddrGen} (h : InRange g) (hl : l ≤ g.levels.toNat) (hn : g.levels.toNat < l + n) :
    Carried l g (agCarry n l g) := by
  induction n generalizing l g with
  | zero => omega
  | succ n ih =>
    rw [agCarry]
    by_cases hlt : l < g.levels.toNat
    · rw [if_pos hlt]
      by_cases hi : (vget g.idx (finMod 6 l)).toNat + 1 < (vget g.count (finMod 6 l)).toNat
      · rw [if_pos hi]
        exact carried_next h hlt hi
      · have hv : (finMod 6 l : Fin 6).val < g.levels.toNat := by rwa [finMod_six_val (hlt.trans_le h.levels)]
        have hzero := h.setIdx (v := 0) hv (Nat.zero_lt_of_lt (h.idx _ hv))
        rw [if_neg hi]
        exact carried_wrap h hlt hi (ih hzero hlt (by simp only; omega))
    · rw [if_neg hlt]
      exact carried_end h (Nat.not_lt.1 hlt)

/-! ### n advances (R123) -/

theorem carried_agAdvance {g : AddrGen} (h : InRange g) : Carried 0 g (agAdvance g) :=
  carried_agCarry h (Nat.zero_le _) (by have := h.levels; omega)

theorem agIndices_congr {g k : AddrGen} (hl : k.levels = g.levels) (hc : k.count = g.count) (p : Nat) : agIndices k p = agIndices g p := by
  rw [agIndices, hl, hc]
  rfl

theorem agStep_zero {g : AddrGen} (h : InRange g) : agStep g 0 = g := by
  have hlt := h.agPosition_lt
  simp [agStep, Nat.mod_eq_of_lt hlt, h.agIndices_agPosition, Nat.not_le.2 hlt]

/-- One advance before n is n + 1. -/
theorem agStep_agAdvance {g : AddrGen} (h : InRange g) (n : Nat) : agStep (agAdvance g) n = agStep g (n + 1) := by
  have hk := carried_agAdvance h
  generalize agAdvance g = k at hk
  have hlt := h.agPosition_lt
  have hrest := hk.rest
  have hlev : k.levels = g.levels := by rw [hrest]
  have hcount : k.count = g.count := by rw [hrest]
  have hex : k.exhaust = g.exhaust := by rw [hrest]
  have htot : agTotal k = agTotal g := by rw [agTotal_eq_totalOn, agTotal_eq_totalOn, totalOn_congr hlev hcount]
  have hpos : agPosition k = (agPosition g + 1) % agTotal g := by
    rw [agPosition_eq_posOn, agPosition_eq_posOn, agTotal_eq_totalOn]
    exact hk.pos
  have hdone : k.done = (g.done || (!g.exhaust && decide (agTotal g ≤ agPosition g + 1))) := by
    rw [agPosition_eq_posOn, agTotal_eq_totalOn]
    exact hk.done
  have hidx : (agPosition k + n) % agTotal g = (agPosition g + (n + 1)) % agTotal g := by
    rw [hpos, Nat.mod_add_mod]
    congr 1
    omega
  have hwrap : (agTotal g ≤ agPosition g + 1 ∨ agTotal g ≤ agPosition k + n) ↔ agTotal g ≤ agPosition g + (n + 1) := by
    rcases Nat.lt_or_ge (agPosition g + 1) (agTotal g) with hin | hout
    · rw [hpos, Nat.mod_eq_of_lt hin]
      omega
    · omega
  rw [agStep, agStep, htot, hidx, hdone, hex, agIndices_congr hlev hcount]
  generalize agPosition k = p at hwrap ⊢
  rw [hrest]
  simp only [Bool.or_assoc, ← Bool.and_or_distrib_left, ← Bool.decide_or, hwrap]

theorem agStep_eq_iterate {g : AddrGen} (h : InRange g) (n : Nat) : agStep g n = Nat.iterate agAdvance n g := by
  induction n generalizing g with
  | zero => exact agStep_zero h
  | succ n ih => rw [← agStep_agAdvance h, ih (carried_agAdvance h).range, Function.iterate_succ_apply]

end Sys2Proof.Machine
end

section
/-! O42: the operations of the address generators. -/

open Sys2Proof.Claims

namespace Sys2Proof.Machine

/-! ### What an issue has passed (R110) -/

theorem waitOrExpire_ne_issue (d : Device) (c : CtxId) (q : Sequencer) (l : List Unmet) (a : Bool) : waitOrExpire d c q l a ≠ .issue := by
  simp only [waitOrExpire]
  split <;> exact fun h => nomatch h

/-- A bundle that issues has passed the checks at issue. -/
theorem issueCheck_of_issueVerdict {d : Device} {c : CtxId} {w : SeqId} {b : RawBundle} (h : issueVerdict d c w b = .issue) :
    issueCheck d c w b = none := by
  simp only [issueVerdict] at h
  split at h
  · exact absurd h (waitOrExpire_ne_issue _ _ _ _ _)
  · split at h
    · exact absurd h (waitOrExpire_ne_issue _ _ _ _ _)
    · split at h
      · exact nomatch h
      · split at h
        · exact nomatch h
        · assumption

theorem issueVerdict_of_verdict {d : Device} {c : CtxId} {w : SeqId} (h : verdict d c w = .issue) :
    issueVerdict d c w (fetchBundle d c (getSeq d w)) = .issue := by
  simp only [verdict] at h
  split at h
  · exact nomatch h
  · split at h
    · exact nomatch h
    · split at h
      · exact nomatch h
      · split at h
        · exact nomatch h
        · exact h

theorem scalarIssue_of_issues {s : State} {w : SeqId} {b : RawBundle} (h : Issues s w b) :
    scalarIssue s.dev (ctxOf s.dev w) (getSeq s.dev w) b = none := by
  obtain ⟨-, -, hv, rfl⟩ := h
  have hc := issueCheck_of_issueVerdict (issueVerdict_of_verdict hv)
  rw [issueCheck] at hc
  cases hs : scalarIssue s.dev (ctxOf s.dev w) (getSeq s.dev w) (fetchBundle s.dev (ctxOf s.dev w) (getSeq s.dev w)) with
  | none => rfl
  | some x => simp [hs] at hc

/-! ### The scalar slot's effect (R123) -/

theorem scalarEffect_generator {d0 d : Device} {c : CtxId} {w : SeqId} {b : RawBundle} (h : isSA (scalarOp b) = true) :
    scalarEffect d0 d c w b = effectA d0 d c w (getSeq d0 w) b := by
  have hop : 0xC0 ≤ scalarOp b ∧ scalarOp b ≤ 0xDF := by simpa [isSA] using h
  have hr : isSR (scalarOp b) = false := by simp [isSR]; omega
  have hi : isSI (scalarOp b) = false := by simp [isSI]; omega
  have hn : scalarOp b ≠ 0 ∧ scalarOp b ≠ 0x80 ∧ scalarOp b ≠ 0x81 := by omega
  simp [scalarEffect, hr, hi, hn, h]

/-- An operation that changes one generator changes nothing else but its stream, which moves on. -/
theorem acts_generator {s : State} {w : SeqId} {b : RawBundle} {i : Instr} {op : Nat} {f : AddrGen → AddrGen} (h : Issues s w b) (ha : Alone b)
    (hop : scalarOp b = op) (hi : exec i s = presentOp (fun b => decide (scalarOp b = op)) w s) (hs : 0xC1 ≤ op ∧ op ≤ 0xDF)
    (he : effectA s.dev s.dev (ctxOf s.dev w) w (getSeq s.dev w) b = modAg s.dev (ctxOf s.dev w) (agNum b) f) :
    Acts i s w b (modAg s.dev (ctxOf s.dev w) (agNum b) f) := by
  subst hop
  have hgo := gives_applyIssue h hi (by simp)
  rw [applyIssue_eq, issueSlots_alone ha (by omega), scalarEffect_generator (by simp [isSA]; omega), he, advanceStream_eq, modSeq_eq_const,
    getSeq_modAg, streamNext_moved (branchTaken_of_ne (by omega) (by omega)) (by omega)] at hgo
  rw [Acts, modSeq_eq_const, getSeq_modAg]
  exact hgo

/-- A generator whose staged descriptor may be installed takes it. -/
theorem agInstalled_eq {g k : AddrGen} {x : BitVec 512} {t now : Nat} (hs : g.staged = some (x, t)) (h : agInstalled g now = some k) : k = agLoad x := by
  rw [agInstalled, hs] at h
  simp only [Option.ite_none_right_eq_some] at h
  exact (Option.some.inj h.2).symm

theorem acts_aginst {s : State} {w : SeqId} {b : RawBundle} {x : BitVec 512} {t : Nat} (h : Issues s w b) (ha : Alone b) (hop : scalarOp b = 0xC1)
    (hs : (agOf s.dev (ctxOf s.dev w) (agNum b)).staged = some (x, t)) :
    Acts (.aginst w) s w b (modAg s.dev (ctxOf s.dev w) (agNum b) fun _ => agLoad x) := by
  refine acts_generator h ha hop rfl (by decide) ?_
  have hc := scalarIssue_of_issues h
  simp only [scalarIssue, hop] at hc
  cases hg : agInstalled (agOf s.dev (ctxOf s.dev w) (agNum b)) (tickOf s.dev (ctxOf s.dev w)) with
  | none => simp [hg] at hc
  | some k =>
    simp only [effectA, hop, hg]
    rw [agInstalled_eq hs hg]

/-- Bits 47:0 of the generator's address (R105). -/
theorem agTarget_eq_and (g : AddrGen) : BitVec.ofNat 64 (agTarget g) = agAddress g &&& 0xFFFFFFFFFFFF := by
  apply BitVec.eq_of_toNat_eq
  have hand : (agAddress g).toNat &&& (2 ^ 48 - 1) = (agAddress g).toNat % 2 ^ 48 := Nat.and_two_pow_sub_one_eq_mod _ _
  have hlt : (agAddress g).toNat % 2 ^ 48 < 2 ^ 48 := Nat.mod_lt _ (by decide)
  rw [BitVec.toNat_and, agTarget, BitVec.toNat_ofNat, Nat.mod_eq_of_lt (by omega), ← hand]
  rfl

/-- A row whose scalar operation writes a register of its stream sets it. -/
theorem answers_sets {s : State} {w : SeqId} {b : RawBundle} {i : Instr} {hit : RawBundle → Bool} {rd t : Nat} {v : W64} (h : Issues s w b)
    (hi : exec i s = presentOp hit w s) (hb : hit b = true) (hop : scalarOp b ≠ 0xC0) (hrd : rd < 32)
    (he : ∀ d, scalarEffect s.dev d (ctxOf s.dev w) w b = setS d w rd v t) : Answers i s fun e => Sets s w true rd v e ∧ Leaves s w b e := by
  obtain ⟨e, hgo, hl, hq⟩ := answers_of_streamEffect h hi hb hop he
  refine ⟨e, hgo, ⟨fun r => ?_, ?_⟩, hl⟩
  · rw [hq]
    simp [streamNext, vget_sregs_writeS _ _ hrd]
  · rw [hq]
    exact pregs_writeS _ _ _ _ _

/-! ### agfetch (R124) -/

/-- The bytes of a scratchpad repeat with its size, so that an address that wraps at 2^64 names the same ones. -/
theorem readPad_mod (d : Device) (c : CtxId) (n k : Nat) : readPad d c (n % 2 ^ 64) k = readPad d c n k := by
  have hoff : ∀ j, physOffset (isSplit d c.core) c.ctx (n % 2 ^ 64 + j) = physOffset (isSplit d c.core) c.ctx (n + j) := fun j => by
    have h32 : (n % 2 ^ 64 + j) % 32 = (n + j) % 32 := by omega
    have hb : (n % 2 ^ 64 + j) / 32 % 32 = (n + j) / 32 % 32 := by omega
    have hc : (n % 2 ^ 64 + j) / 32 % 16 = (n + j) / 32 % 16 := by omega
    have hr : (n % 2 ^ 64 + j) / 512 % 4096 = (n + j) / 512 % 4096 := by omega
    have hw : (n % 2 ^ 64 + j) / 1024 % 4096 = (n + j) / 1024 % 4096 := by omega
    simp only [physOffset, bankOf, rowOf, h32, hb, hc, hr, hw]
  simp only [readPad, readTarget, targetKey, hoff]

theorem scalarEffect_agfetch {d0 d : Device} {c : CtxId} {w : SeqId} {b : RawBundle} (h : scalarOp b = 0xC0) : scalarEffect d0 d c w b = d := by
  rw [scalarEffect_generator (by simp [isSA, h])]
  simp [effectA, h]

/-- A bundle of agfetch alone: the load port's read, and the advance of its stream. -/
theorem applyIssue_agfetch {d : Device} {c : CtxId} {w : SeqId} {b : RawBundle} (ha : Alone b) (hop : scalarOp b = 0xC0) :
    applyIssue d c w b = advanceStream d (agFetchEffect d d c w b) c w b := by
  obtain ⟨hl, hs, hv, hm, hy⟩ := ha
  rw [applyIssue_eq, scalarEffect_agfetch hop]
  simp only [issueSlots, memEffect_none hl hs, hop, if_true, syncEffect_none hy, vectorEffect_none hv, matrixEffect_none hm]

/-- The staging fill of agfetch (R123). -/
def stagingFill (d : Device) (c : CtxId) (w : SeqId) (b : RawBundle) : Fill :=
  { dest := .staging (finMod 8 (agNum b)), data := bytesEntry (readPad d c (fetchAddr (getSeq d w) b).toNat 64), seq := w.seq,
    pc := physPc d c ((getSeq d w).pc.setWidth 12), issued := tickOf d c, due := tickOf d c + 5, rest := none }

theorem stagingFill_mem (d : Device) (c : CtxId) (w : SeqId) (b : RawBundle) :
    stagingFill d c w b ∈ (getUnit (agFetchEffect d d c w b) c).fills := by
  have hk : (if (isSplit d c.core && decide (128 < 64)) = true then 128 else 64) = 64 := by simp
  simp only [agFetchEffect, portRead, addFill, getUnit_modUnit_same, hk]
  exact List.mem_append_right _ List.mem_cons_self

theorem answers_agfetch {s : State} {w : SeqId} {b : RawBundle} (h : Issues s w b) (ha : Alone b) (hop : scalarOp b = 0xC0) :
    let c := ctxOf s.dev w
    Answers (.agfetch w) s fun e => OnlyMoves s w b e ∧ (∀ n, agOf e c n = agOf s.dev c n) ∧
      ∃ f ∈ (getUnit e c).fills, f.dest = .staging (finMod 8 (agNum b)) ∧ f.due = tickAt s w + 5 ∧
        f.data = bytesEntry (readPad s.dev c ((readS (getSeq s.dev w) (agRs1 b)).toNat + ((agLow b).extractLsb' 0 24).toNat) 64) := by
  intro c
  have hgo := gives_applyIssue (i := .agfetch w) (hit := fun b => scalarOp b = 0xC0) h rfl (by simp [hop])
  rw [applyIssue_agfetch ha hop] at hgo
  have hkeep := keeps_agFetchEffect s.dev s.dev c w b
  refine ⟨_, hgo, fun x => ?_, fun n => ?_, stagingFill s.dev c w b, ?_, rfl, rfl, ?_⟩
  · by_cases hx : x = w
    · subst hx
      rw [if_pos rfl, advanceStream_eq, getSeq_modSeq_same, hkeep.getSeq (by decide),
        streamNext_moved (branchTaken_of_ne (by omega) (by omega)) (by omega)]
    · rw [if_neg hx, getSeq_advanceStream_other _ _ _ _ _ _ hx, hkeep.getSeq (by decide)]
  · rw [agOf_advanceStream, hkeep.agOf (by decide)]
  · rw [getUnit_advanceStream]
    exact stagingFill_mem _ _ _ _
  · have hmod : (fetchAddr (getSeq s.dev w) b).toNat =
        ((readS (getSeq s.dev w) (agRs1 b)).toNat + ((agLow b).extractLsb' 0 24).toNat) % 2 ^ 64 := by
      rw [fetchAddr, BitVec.toNat_add, BitVec.toNat_setWidth_of_le (by decide)]
    rw [stagingFill, hmod, readPad_mod]

end Sys2Proof.Machine

open Sys2Proof.Machine

/-- Settles O42: agfetch comes to one staging fill, agrd to one write of a register and the others to one update of the generator; the position
of the indices carries n advances. -/
theorem addressGeneratorOperations : Obligations.AddressGeneratorOperations := by
  unfold Obligations.AddressGeneratorOperations
  refine ⟨fun s w b h ha => ⟨fun hop => answers_agfetch h ha hop, fun x t hop hs => acts_aginst h ha hop hs, fun hop => ?_, fun hop => ?_, fun hop => ?_,
    fun hop => ?_⟩, fun g n hl hi hz => agStep_eq_iterate ⟨hl, hi, hz⟩ n⟩
  · exact acts_generator h ha hop rfl (by decide) (by simp only [effectA, hop]; rfl)
  · refine acts_generator h ha hop rfl (by decide) ?_
    simp only [effectA, hop, stepCount, fieldNat, BitVec.extractLsb'_toNat]
    simp
  · refine answers_sets (t := tickAt s w) h (hit := fun b => scalarOp b = 0xC4) rfl (by simp [hop]) (by omega) (BitVec.isLt _) fun d => ?_
    rw [scalarEffect_generator (by simp [isSA, hop]), ← agTarget_eq_and]
    simp only [effectA, hop, fieldNat, BitVec.extractLsb'_toNat, Nat.shiftRight_eq_div_pow]
    rfl
  · exact acts_generator h ha hop rfl (by decide) (by simp only [effectA, hop]; rfl)
end

section
/-! What a load's transfer does (R126–R128, R131, R213). -/

open Sys2Proof.Claims

namespace Sys2Proof.Machine

/-! ### What the ports leave of a context's loads -/

theorem Keeps.lqOf {l : List CorePart} {d e : Device} (h : Keeps l d e) (hl : .lqs ∉ l) (c : CtxId) (q : Fin 4) : lqOf e c q = lqOf d c q := by
  simp only [Machine.lqOf, isSplit, (h.core c.core).lqs hl, (h.core c.core).split]

theorem Keeps.mqOf {l : List CorePart} {d e : Device} (h : Keeps l d e) (hl : .mqs ∉ l) (c : CtxId) (q : Nat) : mqOf e c q = mqOf d c q := by
  simp only [Machine.mqOf, isSplit, (h.core c.core).mqs hl, (h.core c.core).split]

@[simp] theorem mqOf_modMq_same (d : Device) (c : CtxId) (q : Nat) (f : MsgQueue → MsgQueue) : mqOf (modMq d c q f) c q = f (mqOf d c q) := by
  simp [mqOf, modMq, isSplit]

/-- The parts of a context that its loads are in: fills, queued requests, and the repeat unit of the slot. -/
def loadParts (d : Device) (c : CtxId) : List Fill × List Request × Option RepeatUnit :=
  ((getUnit d c).fills, (getUnit d c).rqueue, (getUnit d c).ldUnit)

theorem loadParts_modUnit (d : Device) (y c : CtxId) {f : CtxUnit → CtxUnit}
    (h : ∀ u, (f u).fills = u.fills ∧ (f u).rqueue = u.rqueue ∧ (f u).ldUnit = u.ldUnit) : loadParts (modUnit d y f) c = loadParts d c :=
  getUnit_modUnit_proj (fun u => (u.fills, u.rqueue, u.ldUnit)) d y c fun u => by simp only [h u]

theorem loadParts_reported {d e : Device} (h : Reported d e) (c : CtxId) : loadParts e c = loadParts d c := by
  simp only [loadParts, h.getUnit]

@[simp] theorem loadParts_modMq (d : Device) (y c : CtxId) (q : Nat) (f : MsgQueue → MsgQueue) : loadParts (modMq d y q f) c = loadParts d c :=
  getUnit_modCore_proj (fun u => (u.fills, u.rqueue, u.ldUnit)) d y.core c fun _ _ => rfl

@[simp] theorem loadParts_reserve (d : Device) (c : CtxId) (x : Xfer) (var : Bool) : loadParts (reserve d c x var) c = loadParts d c := by
  unfold reserve
  split
  · rfl
  · simp only [loadParts, getUnit_modLq]

@[simp] theorem loadParts_addItem (d : Device) (y c : CtxId) (i : VarItem) : loadParts (addItem d y i) c = loadParts d c := by
  unfold addItem
  split <;> rfl

@[simp] theorem loadParts_failingRead (d : Device) (r c : CtxId) (key : Nat) (source : BitVec 2) (seq : Fin 4) (pc : BitVec 12) (det : BitVec 16)
    (inj : Bool) (ahead : Nat) : loadParts (failingRead d r key source seq pc det inj ahead) c = loadParts d c := by
  rw [failingRead, loadParts_addItem]
  exact loadParts_modUnit _ _ _ fun _ => ⟨rfl, rfl, rfl⟩

@[simp] theorem loadParts_parityRead (d : Device) (r y c : CtxId) (off n : Nat) (source : BitVec 2) (seq : Fin 4) (pc : BitVec 12) (ahead : Nat) :
    loadParts (parityRead d r y off n source seq pc ahead) c = loadParts d c := by
  have hbad : loadParts (forAll (badWords d y off n) d fun d k => failingRead d r k source seq pc 0x101 true ahead) c = loadParts d c :=
    forAll_proj (loadParts · c) (fun _ _ => loadParts_failingRead ..) _ d
  unfold parityRead
  dsimp only
  split
  · rw [loadParts_failingRead, loadParts_reported (reported_inject _ _ _), hbad]
  · exact hbad

@[simp] theorem loadParts_portBanks (d : Device) (y c : CtxId) (off n : Nat) : loadParts (portBanks d y off n) c = loadParts d c := by
  have hb : ∀ m, loadParts (takeBanks d y m) c = loadParts d c := fun _ => loadParts_modUnit _ _ _ fun _ => ⟨rfl, rfl, rfl⟩
  unfold portBanks
  dsimp only
  split
  · refine Eq.trans (loadParts_modUnit _ _ _ ?_) (hb _)
    exact fun _ => ⟨rfl, rfl, rfl⟩
  · exact hb _

@[simp] theorem loadParts_portRead (d : Device) (y c : CtxId) (off n : Nat) (seq : Fin 4) (pc : BitVec 12) :
    loadParts (portRead d y off n seq pc).2.2 c = loadParts d c := by
  rw [portRead, loadParts_parityRead, loadParts_portBanks]

@[simp] theorem loadParts_returnCredit (d : Device) (y c : CtxId) (m : MqDesc) : loadParts (returnCredit d y m) c = loadParts d c := by
  have hc : ∀ z l, loadParts (modUnit d z fun u => { u with credits := u.credits ++ l }) c = loadParts d c :=
    fun _ _ => loadParts_modUnit _ _ _ fun _ => ⟨rfl, rfl, rfl⟩
  unfold returnCredit
  dsimp only
  split
  · exact hc _ _
  · split
    · rw [loadParts_addItem]
      exact hc _ _
    · exact hc _ _

@[simp] theorem loadParts_queueParity (d : Device) (y c : CtxId) (seq : Fin 4) (pc : BitVec 12) :
    loadParts (queueParity d y seq pc) c = loadParts d c := by
  have hi := loadParts_reported (reported_inject d 0x102 (coreUnit y)) c
  unfold queueParity
  dsimp only
  split
  · rw [loadParts_failingRead]
    exact hi
  · exact hi

theorem loadParts_addFill (d : Device) (c : CtxId) (f : Fill) :
    loadParts (addFill d c f) c = ((loadParts d c).1 ++ [f], (loadParts d c).2) := by
  simp only [loadParts, addFill, getUnit_modUnit_same]

theorem loadParts_enqueue (d : Device) (c : CtxId) (r : Request) :
    loadParts (enqueue d c r) c = ((loadParts d c).1, (loadParts d c).2.1 ++ [r], (loadParts d c).2.2) := by
  simp only [loadParts, enqueue, getUnit_modUnit_same]

/-! ### The reserved entry -/

/-- The queue of a load after its transfer. -/
def reservedLq (d : Device) (c : CtxId) (x : Xfer) (var : Bool) : LinkQueue :=
  if x.toReg then lqOf d c (xQueue x) else pushEntry (lqOf d c (xQueue x)) (tickOf d c) none var

theorem lqOf_reserve (d : Device) (c : CtxId) (x : Xfer) (var : Bool) : lqOf (reserve d c x var) c (xQueue x) = reservedLq d c x var := by
  unfold reserve reservedLq
  split
  · rfl
  · rw [lqOf_modLq_same]

theorem reserves_of_reservedLq {s : State} {w : SeqId} {x : Xfer} {e : Device} {var : Bool}
    (h : lqOf e (ctxOf s.dev w) (xQueue x) = reservedLq s.dev (ctxOf s.dev w) x var) : Reserves s w x e := by
  unfold Reserves
  rw [h, reservedLq]
  split
  · rfl
  · exact ⟨_, rfl, rfl, rfl⟩

theorem reserve_isModCore (d : Device) (c : CtxId) (x : Xfer) (var : Bool) : ∃ f, reserve d c x var = modCore d c.core f ∧ KeepsAccess f := by
  unfold reserve
  split
  · exact ⟨id, (modCore_id _ _).symm, KeepsAccess.id⟩
  · exact ⟨_, rfl, ⟨fun _ => rfl, fun _ => rfl, fun _ => rfl, fun _ => rfl, fun _ _ => rfl⟩⟩

@[simp] theorem xAddr_reserve (d : Device) (c : CtxId) (x y : Xfer) (var : Bool) : xAddr (reserve d c x var) c y = xAddr d c y := by
  obtain ⟨f, h, hf⟩ := reserve_isModCore d c x var
  rw [h, hf.xAddr]

@[simp] theorem xSpace_reserve (d : Device) (c : CtxId) (x y : Xfer) (var : Bool) : xSpace (reserve d c x var) c y = xSpace d c y := by
  obtain ⟨f, h, hf⟩ := reserve_isModCore d c x var
  rw [h, hf.xSpace]

@[simp] theorem xResolve_reserve (d : Device) (c : CtxId) (x y : Xfer) (var : Bool) : xResolve (reserve d c x var) c y = xResolve d c y := by
  obtain ⟨f, h, hf⟩ := reserve_isModCore d c x var
  rw [h, hf.xResolve]

@[simp] theorem isSplit_reserve (d : Device) (c : CtxId) (x : Xfer) (var : Bool) (k : CoreId) : isSplit (reserve d c x var) k = isSplit d k := by
  obtain ⟨f, h, hf⟩ := reserve_isModCore d c x var
  rw [h, isSplit_modCore _ _ _ hf.split]

@[simp] theorem readPad_reserve (d : Device) (c y : CtxId) (x : Xfer) (var : Bool) (off n : Nat) :
    readPad (reserve d c x var) y off n = readPad d y off n := by
  obtain ⟨f, h, hf⟩ := reserve_isModCore d c x var
  rw [h]
  simp only [readPad, readTarget, targetKey, isSplit_modCore _ _ _ hf.split]
  rfl

@[simp] theorem mqOf_reserve (d : Device) (c y : CtxId) (x : Xfer) (var : Bool) (q : Nat) : mqOf (reserve d c x var) y q = mqOf d y q :=
  (keeps_reserve d c x var).mqOf (by decide) y q

/-! ### A local load, by what it meets -/

/-- The fill of a local load (R127, R213). -/
def localFill (d : Device) (c : CtxId) (x : Xfer) (v : Entry) (rest : Option Nat) : Fill :=
  { dest := loadDest d c x, data := v, seq := x.seq, pc := x.pc, issued := tickOf d c, due := tickOf d c + (if xLine d c x then 6 else 5), rest := rest }

theorem xMessage_none {d : Device} {c : CtxId} {x : Xfer} (h : xSpace d c x = 0) : xMessage d c x = none := by simp [xMessage, h]

theorem xMessage_queue {d : Device} {c : CtxId} {x : Xfer} {q : Nat} (h : xSpace d c x = 5) (hr : xResolve d c x = .ok (.queue q)) :
    xMessage d c x = some q := by simp [xMessage, h, hr]

theorem localLoad_scratch {d : Device} {c o : CtxId} {x : Xfer} {off : Nat} (h0 : xSpace d c x = 0) (hon : x.predOff = false)
    (hr : xResolve d c x = .ok (.scratch o off)) :
    let two := isSplit d c.core && decide (128 < xBytes x)
    localLoad d c x = addFill (portRead (reserve d c x false) c off (xBytes x) x.seq x.pc).2.2 c
      (localFill d c x (loadData x.op (readPad d c off (if two then 128 else xBytes x))) (if two then some (off + 128) else none)) := by
  have hm : xMessage (reserve d c x false) c x = none := xMessage_none (by simpa using h0)
  unfold localLoad
  simp only [hm, hon, xResolve_reserve, hr, localFill, portRead, readPad_reserve, isSplit_reserve, Bool.false_and, Bool.false_eq_true, if_false]

theorem localLoad_off {d : Device} {c : CtxId} {x : Xfer} (h0 : xSpace d c x = 0) (hoff : x.predOff = true) :
    localLoad d c x = if x.toReg then portBanks (reserve d c x false) c (xAddr d c x) (xBytes x)
      else addFill (portBanks (reserve d c x false) c (xAddr d c x) (xBytes x)) c (localFill d c x 0 none) := by
  have hm : xMessage (reserve d c x false) c x = none := xMessage_none (by simpa using h0)
  unfold localLoad
  simp only [hm, hoff, xSpace_reserve, xAddr_reserve, h0, localFill, Bool.true_and, if_true]

/-- The device with a message's unit taken and, after its last one, the credit returned (R131, R268). -/
def takenUnit (d : Device) (c : CtxId) (q : Nat) : Device :=
  let e := modMq d c q fun _ => (takeUnit (mqOf d c q)).2.1
  (takeUnit (mqOf d c q)).2.2.elim e (returnCredit e c)

/-- The credit is returned beside the queue. -/
theorem keeps_takenUnit (d : Device) (c : CtxId) (q : Nat) : Keeps [] (modMq d c q fun _ => (takeUnit (mqOf d c q)).2.1) (takenUnit d c q) := by
  unfold takenUnit
  cases (takeUnit (mqOf d c q)).2.2 with
  | none => exact Keeps.refl _ _
  | some m => exact keeps_returnCredit _ _ _

@[simp] theorem loadParts_takenUnit (d : Device) (c y : CtxId) (q : Nat) : loadParts (takenUnit d c q) y = loadParts d y := by
  unfold takenUnit
  cases (takeUnit (mqOf d c q)).2.2 with
  | none => exact loadParts_modMq _ _ _ _ _
  | some m => exact (loadParts_returnCredit _ _ _ _).trans (loadParts_modMq _ _ _ _ _)

theorem localLoad_message {d : Device} {c : CtxId} {x : Xfer} {q : Nat} (h5 : xSpace d c x = 5) (hr : xResolve d c x = .ok (.queue q))
    (hon : x.predOff = false) : localLoad d c x = queueParity (addFill (takenUnit (reserve d c x false) c q) c
      (localFill d c x ((takeUnit (mqOf d c q)).1.setWidth 2048) none)) c x.seq x.pc := by
  have hm : xMessage (reserve d c x false) c x = some q := xMessage_queue (by simpa using h5) (by simpa using hr)
  unfold localLoad
  simp only [hm, hon, localFill, takenUnit, mqOf_reserve, Bool.false_and, Bool.false_eq_true, if_false]
  cases (takeUnit (mqOf d c q)).2.2 <;> rfl

/-! ### A load that leaves the core -/

theorem remoteXfer_load {s : State} {w : SeqId} {x : Xfer} {t : Target} (hop : isStoreOp x.op = false) (hr : xResolve s.dev (ctxOf s.dev w) x = .ok t) :
    remoteXfer s.dev (ctxOf s.dev w) x =
      reserve (enqueue s.dev (ctxOf s.dev w) (request s w x (.load (loadDest s.dev (ctxOf s.dev w) x) (x.op = .ldbc)) true)) (ctxOf s.dev w) x
        (xVariable s.dev (ctxOf s.dev w) x) := by
  unfold remoteXfer
  simp only [hop, Bool.false_eq_true, if_false, hr]
  rfl

theorem tickOf_enqueue (d : Device) (c : CtxId) (r : Request) : tickOf (enqueue d c r) c = tickOf d c := tickOf_eq_of_runOf (runOf_enqueue d c r)

theorem reservedLq_enqueue (d : Device) (c : CtxId) (r : Request) (x : Xfer) (var : Bool) :
    reservedLq (enqueue d c r) c x var = reservedLq d c x var := by
  rw [reservedLq, tickOf_enqueue, enqueue, lqOf_modUnit, reservedLq]

/-! ### The rule of a load -/

/-- The load slot alone: its transfer, a repeat unit, the generator's advance. -/
theorem memEffect_load {d : Device} {c : CtxId} {w : SeqId} {b : RawBundle} (hl : loadOp b ≠ 0) (hs : storeOp b = 0) :
    memEffect d d c w b =
      xAdvance (startUnit (xEffect d c (slotXfer d c w false b)) c false b (slotXfer d c w false b)) c (slotXfer d c w false b) := by
  simp [memEffect, hl, hs]

theorem isStoreOp_slotXfer_load {d : Device} {c : CtxId} {w : SeqId} {b : RawBundle} {x : Xfer} (hx : slotXfer d c w false b = x) :
    isStoreOp x.op = false := by
  subst hx
  simp only [slotXfer, Bool.false_eq_true, if_false, loadMemOp]
  split <;> rfl

theorem xEffect_localLoad {d : Device} {c : CtxId} {x : Xfer} (hop : isStoreOp x.op = false) (h : xSpace d c x = 0 ∨ xSpace d c x = 5) :
    xEffect d c x = localLoad d c x := by
  have hloc : xLocal d c x = true := by simpa [xLocal] using h
  simp [xEffect, hloc, hop]

theorem xEffect_remote {d : Device} {c : CtxId} {x : Xfer} (h : xLocal d c x = false) : xEffect d c x = remoteXfer d c x := by simp [xEffect, h]

theorem storeOp_of_onlyMem {b : RawBundle} (h : OnlyMem b false) : storeOp b = 0 := by
  obtain ⟨-, -, -, -, hs⟩ := h
  exact hs

/-- The device after a bundle of one memory slot, whose transfer's effect leaves y. -/
def slotDone (d0 y : Device) (c : CtxId) (w : SeqId) (store : Bool) (b : RawBundle) (x : Xfer) : Device :=
  advanceStream d0 (xAdvance (startUnit y c store b x) c x) c w b

theorem keeps_slotDone (d0 y : Device) (c : CtxId) (w : SeqId) (store : Bool) (b : RawBundle) (x : Xfer) :
    Keeps [.seqs, .ags] y (slotDone d0 y c w store b x) := by
  refine Keeps.step (keeps_modSeq _ _ _) (by decide) ?_
  exact Keeps.step (keeps_xAdvance _ _ _) (by decide) (Keeps.step (keeps_startUnit _ _ _ _ _) (by decide) (Keeps.refl _ _))

/-- A part of the context that no repeat unit is. -/
theorem getUnit_slotDone_proj {β : Type} (g : CtxUnit → β) (d0 y : Device) (c : CtxId) (w : SeqId) (store : Bool) (b : RawBundle) (x : Xfer)
    (hld : ∀ u y, g { u with ldUnit := y } = g u) (hst : ∀ u y, g { u with stUnit := y } = g u) :
    g (getUnit (slotDone d0 y c w store b x) c) = g (getUnit y c) := by
  rw [slotDone, getUnit_advanceStream, getUnit_xAdvance]
  exact getUnit_startUnit_proj g _ _ _ _ _ hld hst

theorem unitOf_slotDone (d0 y : Device) (c : CtxId) (w : SeqId) (store : Bool) (b : RawBundle) (x : Xfer) :
    unitOf (slotDone d0 y c w store b x) c store = unitOf (startUnit y c store b x) c store := by
  simp only [unitOf, slotDone, getUnit_advanceStream, getUnit_xAdvance]

/-- A bundle of one memory slot transfers: the stream and the generator advance, and a repeat unit starts with REP (R102). -/
theorem transfers_slotDone {s : State} {w : SeqId} {b : RawBundle} {i : Instr} {hit : RawBundle → Bool} {store : Bool} {P : Device → Prop} {y : Device}
    {x : Xfer} (hx : slotXfer s.dev (ctxOf s.dev w) w store b = x) (h : Issues s w b) (hm : OnlyMem b store) (hi : exec i s = presentOp hit w s)
    (hb : hit b = true) (hmem : memEffect s.dev s.dev (ctxOf s.dev w) w b = xAdvance (startUnit y (ctxOf s.dev w) store b x) (ctxOf s.dev w) x)
    (hkeep : Keeps [.lqs, .mqs] s.dev y) (hunit : unitOf y (ctxOf s.dev w) store = unitOf s.dev (ctxOf s.dev w) store)
    (hP : P (slotDone s.dev y (ctxOf s.dev w) w store b x)) : Transfers i s w b store P := by
  have hag : x.ag < 8 := by
    rw [← hx]
    exact slotXfer_ag_lt _ _ _ _ _
  have hissue := gives_applyIssue h hi hb
  rw [applyIssue_onlyMem hm, hmem] at hissue
  have hseq := keeps_memEffect s.dev s.dev (ctxOf s.dev w) w b
  rw [hmem] at hseq
  unfold Transfers
  simp only [hx]
  refine ⟨_, hissue, onlyMoves_advanceStream hm.1 fun v => hseq.getSeq (by decide) v, ?_, fun hn => ?_, fun hn => ?_, hP⟩
  · rw [agOf_advanceStream, agOf_xAdvance, agOf_startUnit, hkeep.agOf (by decide)]
  · rw [← slotDone, unitOf_slotDone, startUnit_none hn, hunit]
  · obtain ⟨u, hu, hrem, hg, hop, hoff, htick⟩ := startUnit_some (d := y) (c := ctxOf s.dev w) (x := x) (store := store) hn
    rw [hkeep.tickOf] at htick
    exact ⟨u, by rw [← slotDone, unitOf_slotDone, hu, unitOf_setUnit], hrem, by rw [hg]; exact Nat.mod_eq_of_lt hag, hop, hoff, htick⟩

section
variable {s : State} {w : SeqId} {b : RawBundle} {i : Instr} {hit : RawBundle → Bool} {x : Xfer} (hx : slotXfer s.dev (ctxOf s.dev w) w false b = x)
  (h : Issues s w b) (hm : OnlyMem b false) (hl : loadOp b ≠ 0) (hi : exec i s = presentOp hit w s) (hb : hit b = true)
include hx h hm hl hi hb

/-- A transfer of the load slot, by the entry that it reserves and what it leaves of the context's fills and requests. -/
theorem transfers_load {P : Device → Prop} {y : Device} {var : Bool} {fs : List Fill} {rs : List Request} (hy : xEffect s.dev (ctxOf s.dev w) x = y)
    (hparts : loadParts y (ctxOf s.dev w) = (fs, rs, (getUnit s.dev (ctxOf s.dev w)).ldUnit))
    (hq : lqOf y (ctxOf s.dev w) (xQueue x) = reservedLq s.dev (ctxOf s.dev w) x var)
    (hP : ∀ e, Reserves s w x e → (getUnit e (ctxOf s.dev w)).fills = fs → (getUnit e (ctxOf s.dev w)).rqueue = rs →
      (∀ q, mqOf e (ctxOf s.dev w) q = mqOf y (ctxOf s.dev w) q) → P e) : Transfers i s w b false P := by
  have hmem := memEffect_load (d := s.dev) (c := ctxOf s.dev w) (w := w) hl (storeOp_of_onlyMem hm)
  rw [hx, hy] at hmem
  have hkeep := keeps_xEffect s.dev (ctxOf s.dev w) x
  rw [hy] at hkeep
  have hdone := keeps_slotDone s.dev y (ctxOf s.dev w) w false b x
  obtain ⟨hf, hr, hu⟩ : (getUnit y (ctxOf s.dev w)).fills = fs ∧ (getUnit y (ctxOf s.dev w)).rqueue = rs ∧
      (getUnit y (ctxOf s.dev w)).ldUnit = (getUnit s.dev (ctxOf s.dev w)).ldUnit := by simpa only [loadParts, Prod.mk.injEq] using hparts
  refine transfers_slotDone hx h hm hi hb hmem hkeep hu (hP _ ?_ ?_ ?_ fun q => hdone.mqOf (by decide) _ _)
  · exact reserves_of_reservedLq ((hdone.lqOf (by decide) _ _).trans hq)
  · exact (getUnit_slotDone_proj (·.fills) _ _ _ _ _ _ _ (fun _ _ => rfl) fun _ _ => rfl).trans hf
  · exact (getUnit_slotDone_proj (·.rqueue) _ _ _ _ _ _ _ (fun _ _ => rfl) fun _ _ => rfl).trans hr

/-- A local load of one access to the scratchpad (R127, R213). -/
theorem transfers_scratchLoad {o : CtxId} {off : Nat} (h0 : xSpace s.dev (ctxOf s.dev w) x = 0) (hon : x.predOff = false)
    (hr : xResolve s.dev (ctxOf s.dev w) x = .ok (.scratch o off)) :
    let c := ctxOf s.dev w
    let two := isSplit s.dev c.core && decide (128 < xBytes x)
    Transfers i s w b false fun e => Reserves s w x e ∧ (getUnit s.dev c).fills ⊆ (getUnit e c).fills ∧
      localFill s.dev c x (loadData x.op (readPad s.dev c off (if two then 128 else xBytes x))) (if two then some (off + 128) else none)
        ∈ (getUnit e c).fills := by
  intro c two
  have hy := (xEffect_localLoad (isStoreOp_slotXfer_load hx) (.inl h0)).trans (localLoad_scratch h0 hon hr)
  have hk := Keeps.step (keeps_addFill (portRead (reserve s.dev c x false) c off (xBytes x) x.seq x.pc).2.2 c
    (localFill s.dev c x (loadData x.op (readPad s.dev c off (if two then 128 else xBytes x))) (if two then some (off + 128) else none)))
    (List.Subset.refl _) (keeps_portRead _ _ _ _ _ _)
  refine transfers_load hx h hm hl hi hb hy ((loadParts_addFill _ _ _).trans (by rw [loadParts_portRead, loadParts_reserve]; rfl))
    ((hk.lqOf (by decide) _ _).trans (lqOf_reserve _ _ _ _)) fun e hres hf _ _ => ⟨hres, ?_, ?_⟩
  · rw [hf]
    exact List.subset_append_left _ _
  · rw [hf]
    exact List.mem_append_right _ List.mem_cons_self

/-- A local load that is predicated off fills its queue's entry with zero (R103). -/
theorem transfers_loadOff (h0 : xSpace s.dev (ctxOf s.dev w) x = 0) (hoff : x.predOff = true) :
    let c := ctxOf s.dev w
    Transfers i s w b false fun e => Reserves s w x e ∧
      (getUnit e c).fills = (getUnit s.dev c).fills ++ if x.toReg then [] else [localFill s.dev c x 0 none] := by
  intro c
  have hy := (xEffect_localLoad (isStoreOp_slotXfer_load hx) (.inl h0)).trans (localLoad_off h0 hoff)
  have hbanks := keeps_portBanks (reserve s.dev c x false) c (xAddr s.dev c x) (xBytes x)
  refine transfers_load hx h hm hl hi hb hy (var := false) (rs := (getUnit s.dev c).rqueue) ?_ ?_ fun e hres hf _ _ => ⟨hres, hf⟩
  · split
    · rw [loadParts_portBanks, loadParts_reserve, List.append_nil]
      rfl
    · rw [loadParts_addFill, loadParts_portBanks, loadParts_reserve]
      rfl
  · rw [← lqOf_reserve]
    split
    · exact hbanks.lqOf (by decide) _ _
    · exact (Keeps.step (keeps_addFill _ _ _) (List.Subset.refl _) hbanks).lqOf (by decide) _ _

/-- A message read takes a unit of its queue (R131). -/
theorem transfers_messageLoad {q : Nat} (h5 : xSpace s.dev (ctxOf s.dev w) x = 5) (hr : xResolve s.dev (ctxOf s.dev w) x = .ok (.queue q))
    (hon : x.predOff = false) :
    let c := ctxOf s.dev w
    Transfers i s w b false fun e => Reserves s w x e ∧
      localFill s.dev c x ((takeUnit (mqOf s.dev c q)).1.setWidth 2048) none ∈ (getUnit e c).fills ∧ mqOf e c q = (takeUnit (mqOf s.dev c q)).2.1 := by
  intro c
  have hy := (xEffect_localLoad (isStoreOp_slotXfer_load hx) (.inr h5)).trans (localLoad_message h5 hr hon)
  have hk : Keeps [] (takenUnit (reserve s.dev c x false) c q) (queueParity (addFill (takenUnit (reserve s.dev c x false) c q) c
      (localFill s.dev c x ((takeUnit (mqOf s.dev c q)).1.setWidth 2048) none)) c x.seq x.pc) :=
    Keeps.step (keeps_queueParity _ _ _ _) (List.Subset.refl _) (keeps_addFill _ _ _)
  have htake := keeps_takenUnit (reserve s.dev c x false) c q
  refine transfers_load hx h hm hl hi hb hy (var := false) (fs := (getUnit s.dev c).fills ++
    [localFill s.dev c x ((takeUnit (mqOf s.dev c q)).1.setWidth 2048) none]) (rs := (getUnit s.dev c).rqueue) ?_ ?_ fun e hres hf _ hmq => ⟨hres, ?_, ?_⟩
  · rw [loadParts_queueParity, loadParts_addFill, loadParts_takenUnit, loadParts_reserve]
    rfl
  · rw [← lqOf_reserve, hk.lqOf (by decide), htake.lqOf (by decide), (keeps_modMq _ _ _ _).lqOf (by decide)]
  · rw [hf]
    exact List.mem_append_right _ List.mem_cons_self
  · rw [hmq, hk.mqOf (by decide), htake.mqOf (by decide), mqOf_modMq_same, mqOf_reserve]

/-- A load of another space enters the request queue (R127, R128). -/
theorem transfers_loadRequest {t : Target} (hloc : xLocal s.dev (ctxOf s.dev w) x = false) (hr : xResolve s.dev (ctxOf s.dev w) x = .ok t) :
    let c := ctxOf s.dev w
    Transfers i s w b false fun e => Reserves s w x e ∧ (getUnit e c).fills = (getUnit s.dev c).fills ∧
      (getUnit e c).rqueue = (getUnit s.dev c).rqueue ++ [request s w x (.load (loadDest s.dev c x) (x.op = .ldbc)) true] := by
  intro c
  have hy : xEffect s.dev c x = _ := (xEffect_remote hloc).trans (remoteXfer_load (isStoreOp_slotXfer_load hx) hr)
  refine transfers_load hx h hm hl hi hb hy ?_ ((lqOf_reserve _ _ _ _).trans (reservedLq_enqueue _ _ _ _ _)) fun e hres hf hrq _ => ⟨hres, hf, hrq⟩
  rw [loadParts_reserve, loadParts_enqueue]
  rfl

end

/-- A row of a load runs the presentation of its bundle. -/
theorem load_row {s : State} {w : SeqId} {b : RawBundle} {i : Instr} (h : (i = .ld w ∧ loadOp b = 1) ∨ (i = .ldbc w ∧ loadOp b = 2)) :
    loadOp b ≠ 0 ∧ ∃ hit, exec i s = presentOp hit w s ∧ hit b = true := by
  rcases h with ⟨rfl, hop⟩ | ⟨rfl, hop⟩
  · exact ⟨by omega, fun b => loadOp b = 1, rfl, by simp [hop]⟩
  · exact ⟨by omega, fun b => loadOp b = 2, rfl, by simp [hop]⟩

end Sys2Proof.Machine

open Sys2Proof.Machine

/-- Settles O43: a local load leaves its fill beside the entry that it reserves, and any other one a request. -/
theorem loadsFillOrRequest : Obligations.LoadsFillOrRequest := by
  unfold Obligations.LoadsFillOrRequest
  intro s w b i h hm hrow c x two fill
  obtain ⟨hl, hit, hi, hb⟩ := load_row (s := s) hrow
  have hop : (decide (x.op = .ldbc)) = decide (loadOp b = 2) := by
    simp only [x, slotXfer, loadMemOp, Bool.false_eq_true, if_false]
    split <;> simp [*]
  refine ⟨fun o off h0 hon hr => transfers_scratchLoad rfl h hm hl hi hb h0 hon hr, fun h0 hoff hq => ?_, fun h0 hoff hq => ?_,
    fun q h5 hr hon => transfers_messageLoad rfl h hm hl hi hb h5 hr hon, fun t hloc hr => ?_⟩
  · have hgo := transfers_loadOff (x := x) rfl h hm hl hi hb h0 hoff
    simp only [hq, Bool.false_eq_true, if_false] at hgo
    exact hgo
  · have hgo := transfers_loadOff (x := x) rfl h hm hl hi hb h0 hoff
    simp only [hq, if_true, List.append_nil] at hgo
    exact hgo
  · rw [← hop]
    exact transfers_loadRequest rfl h hm hl hi hb hloc hr
end

section
/-! O45: the flag operations of the sync slot, and the end of the tick. -/

open Sys2Proof.Claims

namespace Sys2Proof.Machine

/-! ### A bundle of the sync slot alone -/

theorem applyIssue_onlySync {d : Device} {c : CtxId} {w : SeqId} {b : RawBundle} (h : OnlySync b) :
    applyIssue d c w b = advanceStream d (syncEffect d d c w b) c w b := by
  obtain ⟨hsc, hl, hs, hv, hm⟩ := h
  have hslots : issueSlots d c w b = syncEffect d d c w b := by
    simp [issueSlots, memEffect_none hl hs, hsc, vectorEffect_none hv, matrixEffect_none hm]
  rw [applyIssue_eq, hslots]
  simp [scalarEffect, hsc]

/-- The row of a bundle of the sync slot alone comes to that slot's effect, beside the stream that moves on. -/
theorem acts_syncEffect {s : State} {w : SeqId} {b : RawBundle} {i : Instr} {hit : RawBundle → Bool} {d : Device} (h : Issues s w b) (ho : OnlySync b)
    (hi : exec i s = presentOp hit w s) (hb : hit b = true) (hd : syncEffect s.dev s.dev (ctxOf s.dev w) w b = d) : Acts i s w b d := by
  obtain ⟨hsc, -⟩ := id ho
  have hgo := gives_applyIssue h hi hb
  have hseq : getSeq d w = getSeq s.dev w := by
    rw [← hd]
    exact (keeps_syncEffect _ _ _ _ _).getSeq (by decide) w
  rw [applyIssue_onlySync ho, hd, advanceStream_eq, modSeq_eq_const, hseq,
    streamNext_moved (branchTaken_of_ne (by omega) (by omega)) (by omega)] at hgo
  rw [Acts, modSeq_eq_const, hseq]
  exact hgo

/-! ### The sync slot's effect on flags (R133–R135, R238) -/

/-- A change of a flag of the sequencer's own core joins those of the end of the tick. -/
theorem syncEffect_localSignal {d : Device} {c : CtxId} {w : SeqId} {b : RawBundle} (hra : syRa b = 0) :
    (syncOp b = 8 → syncEffect d d c w b = pendFlag (countSent d c c (syFlag b) (syImm b)) c.core
      (.add (BitVec.ofNat 8 (physFlag (isSplit d c.core) c.ctx (syFlag b)).val) (syImm b))) ∧
    (syncOp b = 9 → syncEffect d d c w b = pendFlag d c.core
      (.add (BitVec.ofNat 8 (physFlag (isSplit d c.core) c.ctx (syFlag b)).val) (-syImm b))) := by
  have hs : isSplit (countSent d c c (syFlag b) (syImm b)) c.core = isSplit d c.core := (keeps_countSent d c c (syFlag b) (syImm b)).core c.core |>.split
  refine ⟨fun hop => ?_, fun hop => ?_⟩
  · simp only [syncEffect, signalEffect, signalOf, hop, hra, pendAdd, hs, if_true, decide_true, Bool.true_or]
  · simp [syncEffect, signalEffect, signalOf, hop, hra, pendAdd]

/-- The request of a signal to another core or context (R134). -/
def signalRequest (d : Device) (c : CtxId) (w : SeqId) (b : RawBundle) (v : W32) : Request :=
  { kind := .flag (syFlag b) v, seq := w.seq, pc := physPc d c ((getSeq d w).pc.setWidth 12), addr := readS (getSeq d w) (syRa b), bytes := 0,
    predOff := false, valid := true, entryTick := tickOf d c, slotsLeft := 1 }

theorem syncEffect_remoteSignal {d : Device} {c t : CtxId} {w : SeqId} {b : RawBundle} (hra : syRa b ≠ 0)
    (ht : signalTarget d c (readS (getSeq d w) (syRa b)) (syFlag b) = .ok t) :
    (syncOp b = 8 → syncEffect d d c w b = enqueue (countSent d c t (syFlag b) (syImm b)) c (signalRequest d c w b (syImm b))) ∧
    (syncOp b = 9 → syncEffect d d c w b = enqueue d c (signalRequest d c w b (-syImm b))) := by
  refine ⟨fun hop => ?_, fun hop => ?_⟩ <;> simp [syncEffect, signalEffect, signalOf, hop, hra, ht, signalRequest]

/-- A wait on a flag of class 2 is a check of its own (R238). -/
theorem syncEffect_externalWait {d : Device} {c : CtxId} {w : SeqId} {b : RawBundle} (hop : isFlagWait (syncOp b) = true) (hc : classOf d c (syFlag b) = 2) :
    syncEffect d d c w b = extCheck d c w b (flagNeed (getSeq d w) b) := by
  have hw : (syncOp b = 0x0A ∨ syncOp b = 0x0B) ∨ syncOp b = 0x0C := by simpa [isFlagWait] using hop
  rcases hw with (h | h) | h <;> simp [syncEffect, h, hc, isFlagWait]

/-- A wait on another flag is over with its issue, but for what fwsub takes (R135). -/
theorem syncEffect_wait {d : Device} {c : CtxId} {w : SeqId} {b : RawBundle} (hop : syncOp b = 0x0A ∨ syncOp b = 0x0B) (hc : classOf d c (syFlag b) ≠ 2) :
    syncEffect d d c w b = d := by
  rcases hop with h | h <;> simp [syncEffect, h, hc, isFlagWait, isBarOp, isMsgOp]

theorem syncEffect_fwsub {d : Device} {c : CtxId} {w : SeqId} {b : RawBundle} (hop : syncOp b = 0x0C) (hc : classOf d c (syFlag b) ≠ 2) :
    syncEffect d d c w b = pendFlag d c.core (.sub w.seq (BitVec.ofNat 8 (physFlag (isSplit d c.core) c.ctx (syFlag b)).val) (syImm b)) := by
  simp only [syncEffect, hop, hc, flagNeed]
  rfl

theorem syncEffect_fset {d : Device} {c : CtxId} {w : SeqId} {b : RawBundle} (hop : syncOp b = 0x0D) :
    syncEffect d d c w b = pendFlag d c.core (.set w.seq (BitVec.ofNat 8 (physFlag (isSplit d c.core) c.ctx (syFlag b)).val) (syImm b)) := by
  simp [syncEffect, hop, isFlagWait]

/-! ### The end of the tick (R135, R235) -/

/-- A flag at the end of a tick that changes some flag: what was set, else its old value, and the sum of the rest. -/
theorem flags_settleFlags {k : Core} (h : k.flagPend ≠ []) (f : Fin 256) :
    vget (settleFlags k).flags f = (setOf k.flagPend f.val).getD (vget k.flags f) + sumOf k.flagPend f.val := by
  unfold settleFlags
  split
  · exact absurd ‹_› h
  · simp [vget, vmapi]

theorem flagPend_settleFlags (k : Core) : (settleFlags k).flagPend = [] := by
  unfold settleFlags
  split
  · assumption
  · rfl

/-- Additions and subtractions of a flag are summed. -/
theorem flags_settleFlags_addSub {k : Core} {f : Fin 256} {g : Byte} {x y : W32} {m : Fin 4} (hg : g.toNat = f.val)
    (hp : k.flagPend = [.add g x, .sub m g y]) : vget (settleFlags k).flags f = vget k.flags f + x - y := by
  have hset : setOf k.flagPend f.val = none := by simp [Machine.setOf, hp]
  have hsum : sumOf k.flagPend f.val = x - y := by simp [sumOf, hp, hg]
  rw [flags_settleFlags (by simp [hp]), hset, hsum]
  exact (add_sub_assoc _ _ _).symm

/-- Of two sequencers that set a flag, the lower one's value stands, and an addition comes on top of it. -/
theorem flags_settleFlags_setTwice {k : Core} {f : Fin 256} {g : Byte} {x y v : W32} {m n : Fin 4} (hg : g.toNat = f.val) (hmn : m < n)
    (hp : k.flagPend = [.add g x, .set n g y, .set m g v]) : vget (settleFlags k).flags f = v + x := by
  have hlow : ¬ n ≤ m := not_le.2 hmn
  have hset : setOf k.flagPend f.val = some v := by simp [Machine.setOf, hp, hg, hlow]
  have hsum : sumOf k.flagPend f.val = x := by simp [sumOf, hp, hg]
  rw [flags_settleFlags (by simp [hp]), hset, hsum]
  rfl

/-- What changes other flags leaves a flag alone. -/
theorem flags_settleFlags_other {k : Core} {f : Fin 256} {p : Byte} {x y v : W32} {m n : Fin 4} (hg : p.toNat ≠ f.val)
    (hp : k.flagPend = [.add p x, .set n p y, .sub m p v]) : vget (settleFlags k).flags f = vget k.flags f := by
  have hset : setOf k.flagPend f.val = none := by simp [Machine.setOf, hp, hg]
  have hsum : sumOf k.flagPend f.val = 0 := by simp [sumOf, hp, hg]
  rw [flags_settleFlags (by simp [hp]), hset, hsum]
  exact add_zero _

end Sys2Proof.Machine

open Sys2Proof.Machine

/-- Settles O45: each row comes to the effect of the sync slot, and a flag at the end of the tick to what was set and the sum of the changes. -/
theorem flagOperations : Obligations.FlagOperations := by
  unfold Obligations.FlagOperations
  refine ⟨fun s w b h ho => ?_, fun k f g x y v m n hg hmn => ⟨fun hp => ?_, fun hp => ?_, fun p hne hp => ?_, flagPend_settleFlags k⟩⟩
  · intro c q i f far item
    refine ⟨fun hop hra => ?_, fun t hop hra ht => ?_, fun hop hra => ?_, fun t hop hra ht => ?_, fun hop hc => ?_, fun hop hc => ?_, fun hop hc => ?_,
      fun hop hc => ?_, fun hop hc => ?_, fun hop hc => ?_, fun hop => ?_⟩
    · exact acts_syncEffect h ho rfl (by simp [hop]) ((syncEffect_localSignal hra).1 hop)
    · exact acts_syncEffect h ho rfl (by simp [hop]) ((syncEffect_remoteSignal hra ht).1 hop)
    · exact acts_syncEffect h ho rfl (by simp [hop]) ((syncEffect_localSignal hra).2 hop)
    · exact acts_syncEffect h ho rfl (by simp [hop]) ((syncEffect_remoteSignal hra ht).2 hop)
    · exact acts_syncEffect h ho rfl (by simp [hop]) (syncEffect_wait (.inl hop) hc)
    · exact acts_syncEffect h ho rfl (by simp [hop]) (syncEffect_wait (.inr hop) hc)
    · exact acts_syncEffect h ho rfl (by simp [hop]) (syncEffect_fwsub hop hc)
    · exact acts_syncEffect h ho rfl (by simp [hop]) ((syncEffect_externalWait (by simp [hop, isFlagWait]) hc).trans (by simp only [extCheck, flagNeed, hop]; rfl))
    · exact acts_syncEffect h ho rfl (by simp [hop]) ((syncEffect_externalWait (by simp [hop, isFlagWait]) hc).trans (by simp only [extCheck, flagNeed, hop]; rfl))
    · exact acts_syncEffect h ho rfl (by simp [hop]) ((syncEffect_externalWait (by simp [hop, isFlagWait]) hc).trans (by simp only [extCheck, flagNeed, hop]; rfl))
    · exact acts_syncEffect h ho rfl (by simp [hop]) (syncEffect_fset hop)
  · exact flags_settleFlags_addSub hg hp
  · exact flags_settleFlags_setTwice hg hmn hp
  · exact flags_settleFlags_other (fun e => hne (BitVec.eq_of_toNat_eq (e.trans hg.symm))) hp
end

section
/-! O46: the barrier operations and the sends of the sync slot. -/

open Sys2Proof.Claims

namespace Sys2Proof.Machine

/-! ### Participants (R246, R249) -/

theorem parts_modBarPart (b : Barrier) (k : Nat) (f : BarPart → BarPart) :
    (modBarPart b k f).parts = (List.range b.parts.length).map fun i => if i = k then f (barPart b i) else barPart b i := by
  have hpart : ∀ i ∈ List.range b.parts.length, (match b.parts[i]? with | some p => some (if i = k then f p else p) | none => none) =
      some (if i = k then f (barPart b i) else barPart b i) := fun i hi => by
    rw [barPart, List.getElem?_eq_getElem (List.mem_range.1 hi)]
    rfl
  exact (List.filterMap_congr hpart).trans (congrFun List.filterMap_eq_map' _)

@[simp] theorem length_parts_modBarPart (b : Barrier) (k : Nat) (f : BarPart → BarPart) : (modBarPart b k f).parts.length = b.parts.length := by
  rw [parts_modBarPart, List.length_map, List.length_range]

theorem barPart_modBarPart_same {b : Barrier} {k : Nat} (h : k < b.parts.length) (f : BarPart → BarPart) :
    barPart (modBarPart b k f) k = f (barPart b k) := by
  rw [barPart, parts_modBarPart]
  simp [h]

theorem barPart_modBarPart_other (b : Barrier) {i k : Nat} (h : i ≠ k) (f : BarPart → BarPart) : barPart (modBarPart b k f) i = barPart b i := by
  rw [barPart, parts_modBarPart]
  by_cases hi : i < b.parts.length
  · simp [hi, h]
  · simp [hi, barPart]

theorem lt_of_partIndex {b : Barrier} {p : Participant} {n : Nat} (h : partIndex b p = some n) : n < b.parts.length := by
  simp only [partIndex] at h
  split at h
  · rwa [← Option.some.inj h]
  · cases h

/-- A signal on its way changes no participant. -/
@[simp] theorem barPart_sendSignal (b : Barrier) (depart : Bool) (k round t : Nat) (pc : BitVec 12) (i : Nat) :
    barPart (sendSignal b depart k round t pc) i = barPart b i := rfl

theorem signals_leaveRound (b : Barrier) (k t : Nat) : (leaveRound b k t).signals =
    b.signals ++ [{ depart := true, part := k, round := (barPart b k).left, due := t + 10, pc := 0 }] := rfl

theorem barPart_leaveRound_same {b : Barrier} {k : Nat} (h : k < b.parts.length) (t : Nat) :
    barPart (leaveRound b k t) k = { barPart b k with left := (barPart b k).left + 1, leaving := false } := by
  rw [leaveRound, barPart_sendSignal, barPart_modBarPart_same h]

theorem barPart_leaveRound_other (b : Barrier) {i k : Nat} (h : i ≠ k) (t : Nat) : barPart (leaveRound b k t) i = barPart b i := by
  rw [leaveRound, barPart_sendSignal, barPart_modBarPart_other _ h]

/-- An arrival is the last signal that its participant sends, whether it leaves a round with it or not. -/
theorem arrive_spec {b : Barrier} {k : Nat} (h : k < b.parts.length) (t : Nat) (pc : BitVec 12) :
    (∃ l, (arrive b k t pc).signals = l ++ [{ depart := false, part := k, round := (barPart b k).arrivals, due := t + 10, pc := pc }]) ∧
      (barPart (arrive b k t pc) k).arrivals = (barPart b k).arrivals + 1 := by
  refine ⟨⟨_, rfl⟩, ?_⟩
  simp only [arrive, barPart_sendSignal]
  split
  · rw [barPart_modBarPart_same (by simpa [leaveRound, sendSignal] using h), barPart_leaveRound_same h]
  · rw [barPart_modBarPart_same h]

/-! ### What is on its way at the hub (R252) -/

/-- A context with something at a die link that is not up is marked. -/
def delayMarked (d : Device) (k : Fin 64) : Device :=
  if barBlocked d (getBar d k) && !(getBar d k).retried then modBar d k fun b => { b with retried := true } else d

/-- The variable item of a release that is due on tick t joins those of a run. -/
def addRelease (k : Fin 64) (t : Nat) (r : Run) : Run :=
  if r.items.any fun x => x.ref = .release k && x.due = t + 1 then r
  else { r with items := r.items ++ [{ ref := .release k, due := t + 1, ready := none, cause := 2 }] }

theorem noteReach_eq (d : Device) (k : Fin 64) : noteReach d k =
    match nominalReach (getBar (delayMarked d k) k), (getBar (delayMarked d k) k).claim with
    | some t, some i => if (getBar (delayMarked d k) k).retried then modRun (delayMarked d k) i (addRelease k t) else delayMarked d k
    | _, _ => delayMarked d k := rfl

theorem noteReach_barriers (d : Device) (k : Fin 64) : (noteReach d k).barriers = (delayMarked d k).barriers := by
  rw [noteReach_eq]
  split
  · split <;> rfl
  · rfl

/-- The mark is all that noteReach leaves in the context. -/
theorem getBar_noteReach (d : Device) (k : Fin 64) : ∃ r, getBar (noteReach d k) k = { getBar d k with retried := r } := by
  rw [getBar, noteReach_barriers]
  unfold delayMarked
  split
  · exact ⟨true, getBar_modBar_same _ _ _⟩
  · exact ⟨_, rfl⟩

/-- Where every die link is up nothing is delayed. -/
theorem noteReach_open {d : Device} {k : Fin 64} (hopen : ∀ n, linkOpen d n = true) (hr : (getBar d k).retried = false) : noteReach d k = d := by
  have hfree : barBlocked d (getBar d k) = false := by
    have hsig : ∀ g, sigOpen d (getBar d k) g = true := fun g => by
      unfold sigOpen
      split
      · exact hopen _
      · rfl
    simp [barBlocked, hsig, partOpen, hopen]
  have hmark : delayMarked d k = d := by simp [delayMarked, hfree]
  rw [noteReach_eq, hmark, hr]
  split <;> rfl

/-- A context with a signal at a die link that is not up is marked, and its way to the participants becomes a variable item. -/
theorem noteReach_blocked {d : Device} {k : Fin 64} {i : DomId} {t : Nat} (hb : barBlocked d (getBar d k) = true) (hr : (getBar d k).retried = false)
    (hc : (getBar d k).claim = some i) (ht : nominalReach (getBar d k) = some t) :
    noteReach d k = modRun (modBar d k fun b => { b with retried := true }) i (addRelease k t) := by
  have hmark : delayMarked d k = modBar d k fun b => { b with retried := true } := by simp [delayMarked, hb, hr]
  have hbar : getBar (delayMarked d k) k = { getBar d k with retried := true } := by rw [hmark, getBar_modBar_same]
  have hn : nominalReach (getBar (delayMarked d k) k) = some t := by
    rw [hbar]
    exact ht
  have hi : (getBar (delayMarked d k) k).claim = some i := by
    rw [hbar]
    exact hc
  rw [noteReach_eq, hn, hi, hbar, hmark]
  rfl

theorem addRelease_new {k : Fin 64} {t : Nat} {r : Run} (h : ∀ x ∈ r.items, x.ref ≠ .release k) :
    addRelease k t r = { r with items := r.items ++ [{ ref := .release k, due := t + 1, ready := none, cause := 2 }] } := by
  have hnone : (r.items.any fun x => x.ref = .release k && x.due = t + 1) = false := by
    rw [List.any_eq_false]
    exact fun x hx => by simp [h x hx]
  rw [addRelease, hnone]
  rfl

theorem barBlocked_of_signal {d : Device} {b : Barrier} {g : BarSignal} {p : BarPart} (hg : g ∈ b.signals) (hp : b.parts[g.part]? = some p)
    (hl : linkOpen d (finMod 8 (dieOf p.who.ctx.core).val) = false) : barBlocked d b = true := by
  have hsig : sigOpen d b g = false := by simp [sigOpen, hp, partOpen, hl]
  simp only [barBlocked, Bool.or_eq_true, List.any_eq_true]
  exact .inl ⟨g, hg, by simp [hsig]⟩

/-! ### The barrier operations (R136, R249, R253) -/

theorem syncEffect_bar {d : Device} {c : CtxId} {w : SeqId} {b : RawBundle} (h : isBarOp (syncOp b) = true) : syncEffect d d c w b = barEffect d c w b := by
  have hop : (syncOp b = 0x10 ∨ syncOp b = 0x11) ∨ syncOp b = 0x12 := by
    simp only [isBarOp, Bool.and_eq_true, decide_eq_true_eq] at h
    omega
  rcases hop with (hop | hop) | hop <;> simp [syncEffect, hop, isFlagWait, isBarOp]

/-- A bar or barout leaves its round, or waits for the fabric's release. -/
theorem barEffect_leaves {d : Device} {c : CtxId} {w : SeqId} {b : RawBundle} {n : Nat} (hop : syncOp b ≠ 0x11)
    (hn : partIndex (getBar d (syBctx b)) (partWho d w) = some n) : barEffect d c w b =
    if (getBar d (syBctx b)).extended then fabricCheck d (syBctx b) n w (tickOf d c)
    else noteReach (modBar d (syBctx b) fun x => leaveRound x n (tickOf d c)) (syBctx b) := by
  simp only [barEffect, hn, hop, if_false]

theorem barEffect_barin {d : Device} {c : CtxId} {w : SeqId} {b : RawBundle} {n : Nat} (hop : syncOp b = 0x11)
    (hn : partIndex (getBar d (syBctx b)) (partWho d w) = some n) : barEffect d c w b =
    noteReach (modBar d (syBctx b) fun x => arrive x n (tickOf d c) (physPc d c ((getSeq d w).pc.setWidth 12))) (syBctx b) := by
  simp only [barEffect, hn, hop, if_true]

/-- The check of an extended context's release is ready where the round has been released (R253). -/
theorem fabricCheck_eq (d : Device) (k : Fin 64) (n : Nat) (w : SeqId) (t : Nat) : fabricCheck d k n w t =
    addItem (modBar d k fun x => modBarPart x n fun p => { p with leaving := true }) (ctxOf d w)
      { ref := .fabRelease k (barPart (getBar d k) n).left w, due := t + 4,
        ready := if (barPart (getBar d k) n).left < (getBar d k).round.toNat ∨ (getBar d k).fabDone = true then some 0 else none, cause := 6 } := by
  simp only [fabricCheck, Bool.or_eq_true, decide_eq_true_eq]
  rfl

/-! ### The first presentation of a bar (R136) -/

/-- A participant's arrival, on the tick t. -/
def arriveAs (p : Participant) (t : Nat) (pc : BitVec 12) (x : Barrier) : Barrier :=
  match partIndex x p with
  | some n => arrive x n t pc
  | none => x

theorem barArrive_eq (d : Device) (c : CtxId) (w : SeqId) (b : RawBundle) : barArrive d c w b =
    noteReach (modBar (modSeq d w fun q => { q with barSent := true }) (syBctx b)
      (arriveAs (partWho d w) (tickOf d c) (physPc d c ((getSeq d w).pc.setWidth 12)))) (syBctx b) := by
  have hwho : partWho (modSeq d w fun q => { q with barSent := true }) w = partWho d w := by
    simp only [partWho, ctxOf, isSplit_modSeq]
  rw [← hwho]
  rfl

theorem getBar_barArrive {d : Device} {c : CtxId} {w : SeqId} {b : RawBundle} {n : Nat} (hn : partIndex (getBar d (syBctx b)) (partWho d w) = some n) :
    ∃ r, getBar (barArrive d c w b) (syBctx b) =
      { arrive (getBar d (syBctx b)) n (tickOf d c) (physPc d c ((getSeq d w).pc.setWidth 12)) with retried := r } := by
  have harrive : arriveAs (partWho d w) (tickOf d c) (physPc d c ((getSeq d w).pc.setWidth 12)) (getBar d (syBctx b)) =
      arrive (getBar d (syBctx b)) n (tickOf d c) (physPc d c ((getSeq d w).pc.setWidth 12)) := by
    simp only [arriveAs, hn]
  obtain ⟨r, hr⟩ := getBar_noteReach (modBar (modSeq d w fun q => { q with barSent := true }) (syBctx b)
    (arriveAs (partWho d w) (tickOf d c) (physPc d c ((getSeq d w).pc.setWidth 12)))) (syBctx b)
  refine ⟨r, ?_⟩
  rw [barArrive_eq, hr, getBar_modBar_same, ← harrive]
  rfl

theorem getSeq_barArrive (d : Device) (c : CtxId) (w : SeqId) (b : RawBundle) :
    getSeq (barArrive d c w b) w = { getSeq d w with barSent := true } := by
  rw [barArrive_eq, (keeps_noteReach _ _).getSeq (by decide), (keeps_modBar _ _ _).getSeq (by decide), getSeq_modSeq_same]

/-- A bar that waits for its release alone sends its arrival. -/
theorem answers_barArrives {s : State} {w : SeqId} {b : RawBundle} {u : Unmet} {n : Nat} (ht : myTurn s.dev (ctxOf s.dev w) w = true)
    (hh : takeHalts s.dev (ctxOf s.dev w) = none) (hv : verdict s.dev (ctxOf s.dev w) w = .wait [u] true)
    (hf : fetchBundle s.dev (ctxOf s.dev w) (getSeq s.dev w) = b) (hop : syncOp b = 0x10)
    (hn : partIndex (getBar s.dev (syBctx b)) (partWho s.dev w) = some n) :
    Answers (.bar w) s fun e => (getSeq e w).barSent = true ∧ (getSeq e w).st = .waiting ∧ ∃ r, getBar e (syBctx b) =
      { arrive (getBar s.dev (syBctx b)) n (tickAt s w) (physPc s.dev (ctxOf s.dev w) ((getSeq s.dev w).pc.setWidth 12)) with retried := r } := by
  have hgo : Gives (.bar w) s (present s.dev w) :=
    gives_of_onDev (f := fun d => if holdsOp d w (fun b => syncOp b = 0x10) then present d w else d) rfl (if_pos (by simp [holdsOp, hf, hop]))
  rw [present_waits ht hh hv, applyWait, hf] at hgo
  refine ⟨_, hgo, ?_⟩
  dsimp only
  rw [if_pos rfl, getSeq_modSeq_same, getSeq_barArrive]
  exact ⟨rfl, rfl, getBar_barArrive hn⟩

/-! ### Sends (R137, R138, R267, R273) -/

theorem syncEffect_send {d : Device} {c : CtxId} {w : SeqId} {b : RawBundle} (h : isMsgOp (syncOp b) = true) : syncEffect d d c w b = sendEffect d d c w b := by
  have hop : syncOp b = 0x18 ∨ syncOp b = 0x19 := by simpa [isMsgOp] using h
  rcases hop with hop | hop <;> simp [syncEffect, hop, isFlagWait, isBarOp, isMsgOp]

/-- The request of a send of n units (R138). -/
def sendRequest (d : Device) (c : CtxId) (w : SeqId) (b : RawBundle) (n t : Nat) : Request :=
  { kind := .message (syChan b) n [] (agTarget (agOf d c (syAg b))), seq := w.seq, pc := physPc d c ((getSeq d w).pc.setWidth 12), addr := 0, bytes := 64,
    predOff := false, valid := true, entryTick := t, slotsLeft := n }

/-- The request of a send has entered the queue, and the generator has advanced. -/
def sentBy (d : Device) (c : CtxId) (w : SeqId) (b : RawBundle) (n t : Nat) : Device :=
  modAg (enqueue d c (sendRequest d c w b n t)) c (syAg b) agAdvance

theorem runOf_sentBy (d : Device) (c : CtxId) (w : SeqId) (b : RawBundle) (n t : Nat) : runOf (sentBy d c w b n t) c = runOf d c := by
  rw [sentBy, runOf_modAg, runOf_enqueue]

theorem creditOf_sentBy (d : Device) (c : CtxId) (w : SeqId) (b : RawBundle) (n t : Nat) (chan : Byte) : creditOf (sentBy d c w b n t) c chan = creditOf d c chan := by
  have hk : Keeps [.ags] d (sentBy d c w b n t) := (keeps_modAg _ _ _ _).step (List.Subset.refl _) ((keeps_enqueue _ _ _).step (by decide) (Keeps.refl _ _))
  simp only [creditOf, isSplit, (hk.core c.core).credit (by decide), (hk.core c.core).split]

theorem sendEffect_zero {d : Device} {c : CtxId} {w : SeqId} {b : RawBundle} (hn : sendLen (getSeq d w) b = 0) : sendEffect d d c w b = d := by
  simp [sendEffect, hn]

/-- Whether the credit of a send on an external channel is there, and no earlier send waits for some (R273). -/
def creditMet (d : Device) (c : CtxId) (chan : Byte) (n : Nat) : Bool := decide (n ≤ creditOf d c chan) && !creditOwed d c chan

/-- A send of some units, by the kind of its route. -/
theorem sendEffect_route {d : Device} {c : CtxId} {w : SeqId} {b : RawBundle} {n : Nat} {r : RouteEntry} (hl : sendLen (getSeq d w) b = n) (hn : n ≠ 0)
    (hr : routeOf d c (syChan b) = some r) : sendEffect d d c w b =
    if r.kind = 1 then modCredit (sentBy d c w b n (tickOf d c)) c (syChan b) fun k => k - n
    else if r.kind = 3 then addItem (if creditMet d c (syChan b) n then modCredit (sentBy d c w b n (tickOf d c + 4)) c (syChan b) fun k => k - n
        else sentBy d c w b n (tickOf d c + 4)) c
      { ref := .credit c (syChan b) n, due := tickOf d c + 4, ready := if creditMet d c (syChan b) n then some (periodOf d c) else none, cause := 6 }
    else sentBy d c w b n (tickOf d c) := by
  have hmet : creditMet (sentBy d c w b n (tickOf d c + 4)) c (syChan b) n = creditMet d c (syChan b) n := by
    simp only [creditMet, creditOf_sentBy, creditOwed, runOf_sentBy]
  have hperiod : periodOf (sentBy d c w b n (tickOf d c + 4)) c = periodOf d c := by
    simp only [periodOf, runOf_sentBy]
  subst hl
  simp only [sendEffect, hn, hr, if_false]
  by_cases h1 : r.kind = 1
  · simp only [h1, if_true]
    rfl
  · by_cases h3 : r.kind = 3
    · simp only [if_neg h1, if_pos h3, ← hmet, ← hperiod]
      rfl
    · simp only [h1, h3, if_false]
      rfl

/-- A row of a send runs the presentation of its bundle, and names its length (R137). -/
theorem send_row {s : State} {w : SeqId} {b : RawBundle} {i : Instr} {n : Nat} (h : (i = .send w ∧ syncOp b = 0x18 ∧ n = syLen b + 1) ∨
    (i = .sendr w ∧ syncOp b = 0x19 ∧ n = (readS (getSeq s.dev w) (24 + syLen b)).toNat)) :
    ∃ hit, exec i s = presentOp hit w s ∧ hit b = true ∧ isMsgOp (syncOp b) = true ∧ sendLen (getSeq s.dev w) b = n := by
  rcases h with ⟨rfl, hop, rfl⟩ | ⟨rfl, hop, rfl⟩
  · exact ⟨fun b => syncOp b = 0x18, rfl, by simp [hop], by simp [hop, isMsgOp], by simp [sendLen, hop]⟩
  · exact ⟨fun b => syncOp b = 0x19, rfl, by simp [hop], by simp [hop, isMsgOp], by simp [sendLen, hop]⟩

end Sys2Proof.Machine

open Sys2Proof.Machine

/-- Settles O46: a bar, barin or barout comes to its barrier's change, with what a die link delays of it, and a send to its request beside the
credit that its route takes. -/
theorem barriersAndSends : Obligations.BarriersAndSends := by
  unfold Obligations.BarriersAndSends
  refine ⟨?_, ?_, fun x n t hlt => ?_, fun d k hopen hr => noteReach_open hopen hr, ?_, ?_⟩
  · intro s w b n h ho hn c x out note
    have hleaves : syncOp b ≠ 0x11 → isBarOp (syncOp b) = true → syncEffect s.dev s.dev c w b =
        if x.extended then out else note (modBar s.dev (syBctx b) fun x => leaveRound x n (tickAt s w)) := fun hne hbar => by
      rw [syncEffect_bar hbar, barEffect_leaves hne hn, fabricCheck_eq]
      rfl
    exact ⟨fun hop => acts_syncEffect h ho rfl (by simp [hop]) (hleaves (by simp [hop]) (by simp [hop, isBarOp])),
      fun hop => acts_syncEffect h ho rfl (by simp [hop]) ((syncEffect_bar (by simp [hop, isBarOp])).trans (barEffect_barin hop hn)),
      fun hop => acts_syncEffect h ho rfl (by simp [hop]) (hleaves (by simp [hop]) (by simp [hop, isBarOp]))⟩
  · intro s w b u n c x ht hh hv hf hop hn
    obtain ⟨e, hgo, hsent, hst, r, hbar⟩ := answers_barArrives ht hh hv hf hop hn
    obtain ⟨⟨l, hsignals⟩, harrivals⟩ := arrive_spec (lt_of_partIndex hn) (tickAt s w) (physPc s.dev c ((getSeq s.dev w).pc.setWidth 12))
    exact ⟨e, hgo, hsent, hst, ⟨l, by rw [hbar]; exact hsignals⟩, by rw [hbar]; exact harrivals⟩
  · exact ⟨signals_leaveRound x n t, barPart_leaveRound_same hlt t, fun k hk => barPart_leaveRound_other x hk t⟩
  · intro d k i r g p t b hg hp hl hr hc hrun ht hfree
    have hrun' : (getDom (modBar d k fun b => { b with retried := true }) i).run = some r := hrun
    rw [noteReach_blocked (barBlocked_of_signal hg hp hl) hr hc ht, getDom_modRun_same, hrun']
    exact ⟨congrArg Barrier.retried (getBar_modBar_same d k fun b => { b with retried := true }), congrArg some (addRelease_new hfree)⟩
  · intro s w b i n h ho hrow c req
    obtain ⟨hit, hi, hb, hop, hlen⟩ := send_row hrow
    have hacts : ∀ {d}, sendEffect s.dev s.dev c w b = d → Acts i s w b d := fun hd => acts_syncEffect h ho hi hb ((syncEffect_send hop).trans hd)
    refine ⟨fun h0 => hacts (sendEffect_zero (hlen.trans h0)), fun r h0 hr h1 => hacts ?_, fun r h0 hr h3 => ?_, fun r h0 hr h1 h3 => hacts ?_⟩
    · rw [sendEffect_route hlen h0 hr, if_pos h1]
      rfl
    · intro met sent
      refine hacts ?_
      rw [sendEffect_route hlen h0 hr, if_neg (by rw [h3]; decide), if_pos h3]
      rfl
    · rw [sendEffect_route hlen h0 hr, if_neg h1, if_neg h3]
      rfl
end

section
/-! What the access of a scratchpad by an arrival leaves, and the bytes that its write puts there. -/

open Sys2Proof.Claims

namespace Sys2Proof.Machine

/-! ### Work on the banks of a scratchpad -/

/-- What the reads and writes of a scratchpad by an arrival may have changed: the banks taken and the reads under replay, the items and the
taint of runs, the words themselves, and the armed events. -/
structure BankWork (d e : Device) : Prop where
  fab : e.fab = d.fab
  sec : e.sec = d.sec
  config : e.config = d.config
  part : ∀ p, ∃ m, getPart e p = { getPart d p with doms := m }
  dom : ∀ i, ∃ (f : Run → List VarItem) (g : Run → Bool),
    getDom e i = { getDom d i with run := (getDom d i).run.map fun r => { r with items := f r, tainted := g r } }
  core : ∀ k, ∃ u, getCore e k = { getCore d k with units := u }
  unit : ∀ c, ∃ b s r, getUnit e c = { getUnit d c with busBanks := b, remServed := s, replays := r }

namespace BankWork

/-- A change of neither the cores nor the partitions. -/
theorem lit {d e : Device} (hc : e.cores = d.cores) (hp : e.parts = d.parts) (hf : e.fab = d.fab) (hs : e.sec = d.sec) (hg : e.config = d.config) :
    BankWork d e := by
  have hcore : ∀ k, getCore e k = getCore d k := fun k => by rw [getCore, hc, getCore]
  have hpart : ∀ p, getPart e p = getPart d p := fun p => by rw [getPart, hp, getPart]
  refine ⟨hf, hs, hg, fun p => ⟨_, hpart p⟩, fun i => ⟨Run.items, Run.tainted, ?_⟩, fun k => ⟨_, hcore k⟩, fun c =>
    ⟨(getUnit d c).busBanks, (getUnit d c).remServed, (getUnit d c).replays, ?_⟩⟩
  · rw [getDom, hpart, getDom]
    simp
  · rw [getUnit, hcore, getUnit]

theorem refl (d : Device) : BankWork d d := lit rfl rfl rfl rfl rfl

theorem trans {d x e : Device} (h : BankWork d x) (k : BankWork x e) : BankWork d e := by
  refine ⟨k.fab.trans h.fab, k.sec.trans h.sec, k.config.trans h.config, fun p => ?_, fun i => ?_, fun n => ?_, fun c => ?_⟩
  · obtain ⟨m, hm⟩ := h.part p
    obtain ⟨m', hm'⟩ := k.part p
    exact ⟨m', by rw [hm', hm]⟩
  · obtain ⟨f, g, hx⟩ := h.dom i
    obtain ⟨f', g', he⟩ := k.dom i
    exact ⟨fun r => f' { r with items := f r, tainted := g r }, fun r => g' { r with items := f r, tainted := g r }, by rw [he, hx]; simp [Function.comp_def]⟩
  · obtain ⟨u, hu⟩ := h.core n
    obtain ⟨u', hu'⟩ := k.core n
    exact ⟨u', by rw [hu', hu]⟩
  · obtain ⟨b, s, r, hu⟩ := h.unit c
    obtain ⟨b', s', r', hu'⟩ := k.unit c
    exact ⟨b', s', r', by rw [hu', hu]⟩

theorem all {α : Type} {f : Device → α → Device} (h : ∀ e x, BankWork e (f e x)) (l : List α) : ∀ d, BankWork d (forAll l d f) := by
  induction l with
  | nil => exact refl
  | cons x l ih => exact fun d => (h d x).trans (ih _)

theorem reported {d e : Device} (h : Reported d e) : BankWork d e :=
  ⟨h.fab, h.sec, h.config, fun p => ⟨_, h.part p⟩, fun i => (h.dom i).elim fun g hg => ⟨Run.items, g, hg⟩, fun k => ⟨_, h.getCore k⟩,
    fun c => ⟨_, _, _, h.getUnit c⟩⟩

theorem modUnit (d : Device) (c : CtxId) {f : CtxUnit → CtxUnit} (h : ∀ u, ∃ b s r, f u = { u with busBanks := b, remServed := s, replays := r }) :
    BankWork d (modUnit d c f) := by
  refine ⟨rfl, rfl, rfl, fun p => ⟨_, rfl⟩, fun i => ⟨Run.items, Run.tainted, ?_⟩, fun k => ?_, fun x => ?_⟩
  · exact (show getDom d i = _ by simp)
  · by_cases hk : c.core = k
    · exact ⟨_, by rw [← hk, Machine.modUnit, getCore_modCore_same]⟩
    · exact ⟨_, by rw [Machine.modUnit, getCore_modCore_other _ _ _ _ hk]⟩
  · by_cases hx : x = c
    · subst hx
      obtain ⟨b, s, r, hu⟩ := h (getUnit d x)
      exact ⟨b, s, r, by rw [getUnit_modUnit_same, hu]⟩
    · exact ⟨_, _, _, getUnit_modUnit_other _ _ _ _ hx⟩

/-! What such work leaves of the state that arrivals go by. -/

variable {d e : Device} (h : BankWork d e)
include h

theorem isSplit (k : CoreId) : isSplit e k = isSplit d k := by
  obtain ⟨u, hu⟩ := h.core k
  rw [Machine.isSplit, hu, Machine.isSplit]

theorem flagPend (k : CoreId) : (getCore e k).flagPend = (getCore d k).flagPend := by
  obtain ⟨u, hu⟩ := h.core k
  rw [hu]

theorem flights (c : CtxId) : (getUnit e c).flights = (getUnit d c).flights := by
  obtain ⟨b, s, r, hu⟩ := h.unit c
  rw [hu]

theorem adds (c : CtxId) : (getUnit e c).adds = (getUnit d c).adds := by
  obtain ⟨b, s, r, hu⟩ := h.unit c
  rw [hu]

theorem credits (c : CtxId) : (getUnit e c).credits = (getUnit d c).credits := by
  obtain ⟨b, s, r, hu⟩ := h.unit c
  rw [hu]

theorem vector (c : CtxId) : (getUnit e c).vector = (getUnit d c).vector := by
  obtain ⟨b, s, r, hu⟩ := h.unit c
  rw [hu]

theorem bound (c : CtxId) : (getUnit e c).bound = (getUnit d c).bound := by
  obtain ⟨b, s, r, hu⟩ := h.unit c
  rw [hu]

theorem prog (i : DomId) : (getDom e i).prog = (getDom d i).prog := by
  obtain ⟨f, g, hd⟩ := h.dom i
  rw [hd]

theorem routes : KeepsRoutes d e := ⟨h.prog, h.bound, h.isSplit, h.fab, h.config⟩

theorem partOfCore (k : CoreId) : partOfCore e k = partOfCore d k := h.routes.partOfCore k

theorem periods (p : PartId) : (getPart e p).periods = (getPart d p).periods := by
  obtain ⟨m, hm⟩ := h.part p
  rw [hm]

theorem corePeriod (k : CoreId) : corePeriod e k = corePeriod d k := by
  rw [Machine.corePeriod, h.partOfCore, h.periods, Machine.corePeriod]

theorem bankTicks (t : CtxId) (n : Nat) : bankTicks e t n = bankTicks d t n := by
  rw [Machine.bankTicks, tickBytes, h.isSplit, Machine.bankTicks, tickBytes]

theorem domOf (c : CtxId) : domOf e c = domOf d c := by
  rw [Machine.domOf, h.bound, h.partOfCore, Machine.domOf]

theorem isPortable (c : CtxId) : isPortable e c = isPortable d c := by
  simp only [Machine.isPortable, progOf, h.domOf, h.prog]

theorem remoteLatency (p : Bool) (a b : CoreId) : remoteLatency e p a b = remoteLatency d p a b := by
  simp only [Machine.remoteLatency, pathTicks, position, physPos, h.sec]

theorem outsideDue (c : CtxId) (a : BitVec 18) (sender : BitVec 10) (t : Nat) : outsideDue e c a sender t = outsideDue d c a sender t := by
  simp only [Machine.outsideDue, h.fab, h.isPortable, h.remoteLatency]

/-- The run of a context but for its items and its taint. -/
theorem runOf (c : CtxId) : ∃ (f : Run → List VarItem) (g : Run → Bool), runOf e c = (runOf d c).map fun r => { r with items := f r, tainted := g r } := by
  simp only [Machine.runOf, h.domOf]
  cases Machine.domOf d c with
  | none => exact ⟨Run.items, Run.tainted, rfl⟩
  | some i =>
    obtain ⟨f, g, hd⟩ := h.dom i
    have hlive : liveDom (getDom e i) = liveDom (getDom d i) := by rw [hd, liveDom, liveDom]
    refine ⟨f, g, ?_⟩
    have hrun : (getDom e i).run = (getDom d i).run.map fun r => { r with items := f r, tainted := g r } := by rw [hd]
    simp only [hlive, hrun]
    cases liveDom (getDom d i) <;> rfl

theorem settleTick (c : CtxId) : settleTick e c = settleTick d c := by
  obtain ⟨f, g, hr⟩ := h.runOf c
  rw [Machine.settleTick, hr, Machine.settleTick]
  cases Machine.runOf d c <;> rfl

end BankWork

theorem bankWork_serveRemote (d : Device) (t : CtxId) (off n : Nat) : BankWork d (serveRemote d t off n) :=
  (BankWork.modUnit d t fun _ => ⟨_, _, _, rfl⟩).trans (BankWork.modUnit _ t fun _ => ⟨_, _, _, rfl⟩)

theorem bankWork_addItem (d : Device) (c : CtxId) (x : VarItem) : BankWork d (addItem d c x) := by
  have hw := portWork_addItem d c x
  unfold addItem at hw ⊢
  split at hw
  · exact .refl d
  · rename_i k _
    refine ⟨rfl, rfl, rfl, fun p => ?_, hw.dom, fun _ => ⟨_, rfl⟩, fun _ => ⟨_, _, _, rfl⟩⟩
    by_cases hp : k.part = p
    · exact ⟨_, by rw [← hp, modRun, modDom, getPart_modPart_same]⟩
    · exact ⟨_, by rw [modRun, modDom, getPart_modPart_other _ _ _ _ hp]⟩

theorem bankWork_failingRead (d : Device) (r : CtxId) (key : Nat) (source : BitVec 2) (seq : Fin 4) (pc : BitVec 12) (det : BitVec 16) (inj : Bool)
    (ahead : Nat) : BankWork d (failingRead d r key source seq pc det inj ahead) :=
  (BankWork.modUnit d r fun _ => ⟨_, _, _, rfl⟩).trans (bankWork_addItem _ _ _)

theorem bankWork_parityRead (d : Device) (r c : CtxId) (off n : Nat) (source : BitVec 2) (seq : Fin 4) (pc : BitVec 12) (ahead : Nat) :
    BankWork d (parityRead d r c off n source seq pc ahead) := by
  have hbad : BankWork d (forAll (badWords d c off n) d fun d k => failingRead d r k source seq pc 0x101 true ahead) :=
    BankWork.all (fun e k => bankWork_failingRead e r k source seq pc 0x101 true ahead) _ d
  unfold parityRead
  simp only []
  split
  · exact (hbad.trans (.reported (reported_inject _ _ _))).trans (bankWork_failingRead _ _ _ _ _ _ _ _ _)
  · exact hbad

theorem bankWork_writePad (d : Device) (c : CtxId) (off : Nat) (bs : List Byte) : BankWork d (writePad d c off bs) := by
  obtain ⟨s, r, m, x, hw⟩ := writeTargetFrom_rest (partOfCore d c.core) (.scratch c off) bs d 0
  simp only [writePad, writeTarget, hw]
  split <;> exact .lit rfl rfl rfl rfl rfl

theorem bankWork_storePad (d : Device) (c : CtxId) (off : Nat) (bs : List Byte) : BankWork d (storePad d c off bs) := by
  have hi := (bankWork_writePad d c off bs).trans (.reported (reported_inject (writePad d c off bs) 0x101 (coreUnit c)))
  simp only [storePad]
  split
  · exact hi.trans (.lit rfl rfl rfl rfl rfl)
  · exact hi

/-! ### The bytes of a write (R82, R212) -/

/-- A byte's key names its bank, its row and its place in the row. -/
theorem bankRow_inj {a b r l b' r' l' : Nat} (hr : r < 4096) (hr' : r' < 4096) (hl : l < 32) (hl' : l' < 32)
    (h : a + (b * 131072 + r * 32 + l) = a + (b' * 131072 + r' * 32 + l')) : b = b' ∧ l = l' := by omega

/-- Within 512 bytes no two offsets name one byte of a scratchpad. -/
theorem padKey_inj {d : Device} {c : CtxId} {x y : Nat} (hxy : x < y + 512) (hyx : y < x + 512) (h : padKey d c x = padKey d c y) : x = y := by
  have hctx := c.ctx.isLt
  simp only [padKey, scratchKey, physOffset] at h
  cases hs : isSplit d c.core <;> rw [hs] at h
  · obtain ⟨hb, hl⟩ := bankRow_inj (Nat.mod_lt _ (by decide)) (Nat.mod_lt _ (by decide)) (Nat.mod_lt _ (by decide)) (Nat.mod_lt _ (by decide)) h
    simp only [bankOf, finMod, Bool.false_eq_true, if_false] at hb
    omega
  · obtain ⟨hb, hl⟩ := bankRow_inj (Nat.mod_lt _ (by decide)) (Nat.mod_lt _ (by decide)) (Nat.mod_lt _ (by decide)) (Nat.mod_lt _ (by decide)) h
    simp only [bankOf, finMod, if_true] at hb
    omega

theorem padKey_congr {d e : Device} {c : CtxId} (h : isSplit e c.core = isSplit d c.core) (off : Nat) : padKey e c off = padKey d c off := by
  rw [padKey, h, padKey]

theorem readByte_scratch_congr {d e : Device} (h : e.scratch = d.scratch) (a : Nat) : readByte e .scratch a = readByte d .scratch a := by
  simp [readByte, memOf, memDefault, h]

/-- A write reaches a byte from the bytes as they were and those that the write's device has. -/
theorem padWrote_congr {d x y e : Device} {c : CtxId} {off : Nat} {bs : List Byte} (h : PadWrote x y c off bs) (hs : isSplit x c.core = isSplit d c.core)
    (hx : x.scratch = d.scratch) (he : e.scratch = y.scratch) : PadWrote d e c off bs := by
  obtain ⟨hin, hout⟩ := h
  refine ⟨fun k hk => ?_, fun a ha => ?_⟩
  · rw [readByte_scratch_congr he, ← padKey_congr hs]
    exact hin k hk
  · rw [readByte_scratch_congr he, ← readByte_scratch_congr hx]
    exact hout a fun k hk => by rw [padKey_congr hs]; exact ha k hk

theorem writeTargetFrom_scratch_cons (d : Device) (p : PartId) (c : CtxId) (off k : Nat) (b : Byte) (bs : List Byte) :
    writeTargetFrom d p (.scratch c off) k (b :: bs) = writeTargetFrom (writeByte d .scratch (padKey d c (off + k)) b) p (.scratch c off) (k + 1) bs := rfl

/-- A byte that a write does not name keeps its value. -/
theorem readByte_writeTargetFrom_other (p : PartId) (c : CtxId) (off a : Nat) : (bs : List Byte) → (d : Device) → (k : Nat) → Readable d .scratch →
    (∀ j, j < bs.length → a ≠ padKey d c (off + (k + j))) → readByte (writeTargetFrom d p (.scratch c off) k bs) .scratch a = readByte d .scratch a
  | [], _, _, _, _ => rfl
  | b :: bs, d, k, h, ha => by
    have h0 : a ≠ padKey d c (off + k) := ha 0 (Nat.succ_pos _)
    have hrest : ∀ j, j < bs.length → a ≠ padKey d c (off + (k + 1 + j)) := fun j hj => by
      have := ha (j + 1) (by simpa using hj)
      rwa [show k + (j + 1) = k + 1 + j by omega] at this
    rw [writeTargetFrom_scratch_cons, readByte_writeTargetFrom_other p c off a bs _ (k + 1) (readable_writeByte h _ _) hrest, readByte_writeByte h, if_neg h0]

/-- Each byte of a short write reads as written. -/
theorem readByte_writeTargetFrom (p : PartId) (c : CtxId) (off : Nat) : (bs : List Byte) → (d : Device) → (k : Nat) → Readable d .scratch →
    bs.length ≤ 512 → ∀ j, j < bs.length → readByte (writeTargetFrom d p (.scratch c off) k bs) .scratch (padKey d c (off + (k + j))) = bs.getD j 0
  | [], _, _, _, _, j, hj => absurd hj (Nat.not_lt_zero j)
  | b :: bs, d, k, h, hlen, j, hj => by
    have hlen' : bs.length + 1 ≤ 512 := by simpa using hlen
    have hj' : j < bs.length + 1 := by simpa using hj
    rw [writeTargetFrom_scratch_cons]
    cases j with
    | zero =>
      have hrest : ∀ i, i < bs.length → padKey d c (off + (k + 0)) ≠ padKey d c (off + (k + 1 + i)) := fun i hi he => by
        have := padKey_inj (by omega) (by omega) he
        omega
      rw [readByte_writeTargetFrom_other p c off _ bs _ (k + 1) (readable_writeByte h _ _) hrest, readByte_writeByte h]
      exact if_pos rfl
    | succ j =>
      rw [show k + (j + 1) = k + 1 + j by omega]
      exact readByte_writeTargetFrom p c off bs _ (k + 1) (readable_writeByte h _ _) (by omega) j (by omega)

theorem scratch_writePad (d : Device) (c : CtxId) (off : Nat) (bs : List Byte) :
    (writePad d c off bs).scratch = (writeTargetFrom d (partOfCore d c.core) (.scratch c off) 0 bs).scratch := by
  change (if _ then writeTargetFrom _ _ _ _ _ else _ : Device).scratch = _
  split <;> rfl

theorem scratch_storePad (d : Device) (c : CtxId) (off : Nat) (bs : List Byte) :
    (storePad d c off bs).scratch = (writeTargetFrom d (partOfCore d c.core) (.scratch c off) 0 bs).scratch := by
  rw [← scratch_writePad, ← (reported_inject (writePad d c off bs) 0x101 (coreUnit c)).scratch]
  simp only [storePad]
  split <;> rfl

theorem readable_of_memoriesWf {d : Device} (h : memoriesWf d = true) (i : MemId) : Readable d i := by
  have hi := (memoriesWf_iff d).1 h i
  cases hz : memZeros i with
  | false => exact .inl hz
  | true => exact .inr (by rwa [hz] at hi)

/-- A store of at most 512 bytes writes exactly those. -/
theorem padWrote_storePad {d : Device} (h : memoriesWf d = true) (c : CtxId) (off : Nat) {bs : List Byte} (hl : bs.length ≤ 512) :
    PadWrote d (storePad d c off bs) c off bs := by
  have hr := readable_of_memoriesWf h .scratch
  refine ⟨fun k hk => ?_, fun a ha => ?_⟩
  · rw [readByte_scratch_congr (scratch_storePad d c off bs), ← readByte_writeTargetFrom (partOfCore d c.core) c off bs d 0 hr hl k hk, Nat.zero_add]
  · rw [readByte_scratch_congr (scratch_storePad d c off bs)]
    exact readByte_writeTargetFrom_other _ c off a bs d 0 hr fun j hj => by rw [Nat.zero_add]; exact ha j hj

@[simp] theorem length_entryBytes (e : Entry) (n : Nat) : (entryBytes e n).length = n := length_leBytes _ _

@[simp] theorem scratch_serveRemote (d : Device) (t : CtxId) (off n : Nat) : (serveRemote d t off n).scratch = d.scratch := rfl

theorem scratch_parityRead (d : Device) (r c : CtxId) (off n : Nat) (source : BitVec 2) (seq : Fin 4) (pc : BitVec 12) (ahead : Nat) :
    (parityRead d r c off n source seq pc ahead).scratch = d.scratch :=
  (mems_parityRead d r c off n source seq pc ahead).other .scratch (by simp)

end Sys2Proof.Machine
end

section
/-! O50: accumulates and the units of anchor channels. -/

open Sys2Proof.Claims

namespace Sys2Proof.Machine

/-! ### The end of a flight -/

/-- The end of a flight takes it from its context's list, and nothing else from the cores. -/
theorem cores_endFlight (d : Device) (c : CtxId) (f : Flight) :
    (endFlight d c f).cores = (modUnit d c fun u => { u with flights := u.flights.filter fun x => x.uid != f.uid }).cores := by
  unfold endFlight flightReady itemReady
  simp only []
  split <;> rfl

theorem getCore_of_cores {d e : Device} (h : e.cores = d.cores) (k : CoreId) : getCore e k = getCore d k := by rw [getCore, h, getCore]

theorem getUnit_of_cores {d e : Device} (h : e.cores = d.cores) (c : CtxId) : getUnit e c = getUnit d c := by
  rw [getUnit, getCore_of_cores h, getUnit]

/-- A part of the cores that the units are not. -/
theorem getCore_endFlight_proj {β : Type} (g : Core → β) (h : ∀ (k : Core) (u : Vector CtxUnit 2), g { k with units := u } = g k) (d : Device) (c : CtxId)
    (f : Flight) (k : CoreId) : g (getCore (endFlight d c f) k) = g (getCore d k) := by
  rw [getCore_of_cores (cores_endFlight d c f)]
  exact getCore_modCore_proj g d c.core k fun x => h x _

theorem getUnit_endFlight_proj {β : Type} (g : CtxUnit → β) (h : ∀ (u : CtxUnit) (l : List Flight), g { u with flights := l } = g u) (d : Device) (c x : CtxId)
    (f : Flight) : g (getUnit (endFlight d c f) x) = g (getUnit d x) := by
  rw [getUnit_of_cores (cores_endFlight d c f)]
  exact getUnit_modUnit_proj g d c x fun u => h u _

theorem scratch_endFlight (d : Device) (c : CtxId) (f : Flight) : (endFlight d c f).scratch = d.scratch :=
  (mems_endFlight d c f).other .scratch (by simp)

/-- The only flight of a context ends. -/
theorem flights_endFlight {d : Device} {c : CtxId} {f : Flight} (h : (getUnit d c).flights = [f]) : (getUnit (endFlight d c f) c).flights = [] := by
  rw [(endFlight_spec d c f).2, h]
  simp

/-- The only flight of a context changes. -/
theorem flights_setFlight {d : Device} {c : CtxId} {f g : Flight} (h : (getUnit d c).flights = [f]) (hg : g.uid = f.uid) :
    (getUnit (setFlight d c g) c).flights = [g] := by
  rw [setFlight, getUnit_modUnit_same, h]
  simp [hg]

theorem vector_setFlight (d : Device) (c x : CtxId) (g : Flight) : (getUnit (setFlight d c g) x).vector = (getUnit d x).vector :=
  getUnit_modUnit_proj (·.vector) d c x fun _ => rfl

/-! ### Changes of flags (R235) -/

/-- A change of a flag that joins those of the tick on a device whose cores have kept their changes and their split. -/
theorem flagAdded_pendAdd {d x e : Device} {t : CtxId} {f : Byte} {v : W32} (hs : isSplit x t.core = isSplit d t.core)
    (hx : (getCore x t.core).flagPend = (getCore d t.core).flagPend) (he : (getCore e t.core).flagPend = (getCore (pendAdd x t f v) t.core).flagPend) :
    FlagAdded d e t f v := by
  rw [FlagAdded, he, pendAdd, pendFlag, getCore_modCore_same, hx, hs]

theorem flags_pendAdd (d : Device) (t : CtxId) (f : Byte) (v : W32) (k : CoreId) : (getCore (pendAdd d t f v) k).flags = (getCore d k).flags :=
  getCore_modCore_proj (·.flags) d t.core k fun _ => rfl

theorem getUnit_pendAdd (d : Device) (t c : CtxId) (f : Byte) (v : W32) : getUnit (pendAdd d t f v) c = getUnit d c :=
  getUnit_modCore_proj id d t.core c fun _ _ => rfl

theorem getUnit_deliverFlag (d : Device) (t c : CtxId) (fadd fper : Bool) (f : Byte) (n : Nat) : getUnit (deliverFlag d t fadd fper f n) c = getUnit d c := by
  unfold deliverFlag
  split
  · exact getUnit_pendAdd _ _ _ _ _
  · rfl

theorem scratch_deliverFlag (d : Device) (t : CtxId) (fadd fper : Bool) (f : Byte) (n : Nat) : (deliverFlag d t fadd fper f n).scratch = d.scratch :=
  (mems_deliverFlag d t fadd fper f n).other .scratch (by simp)

/-! ### The flags of the vector engine (R272) -/

theorem getUnit_raiseVector (d : Device) (t : CtxId) (f : NFlags) : getUnit (raiseVector d t f) t =
    { getUnit d t with vector := { (getUnit d t).vector with flags := { (getUnit d t).vector.flags with val := (getUnit d t).vector.flags.val ||| f } } } := by
  unfold raiseVector
  split
  · rename_i h
    rw [h, show (getUnit d t).vector.flags.val ||| 0 = (getUnit d t).vector.flags.val from BitVec.or_zero]
  · exact getUnit_modUnit_same _ _ _

theorem getUnit_raiseVector_proj {β : Type} (g : CtxUnit → β) (h : ∀ (u : CtxUnit) (v : VectorUnit), g { u with vector := v } = g u) (d : Device) (t c : CtxId)
    (f : NFlags) : g (getUnit (raiseVector d t f) c) = g (getUnit d c) := by
  unfold raiseVector
  split
  · rfl
  · exact getUnit_modUnit_proj g d t c fun u => h u _

theorem scratch_raiseVector (d : Device) (t : CtxId) (f : NFlags) : (raiseVector d t f).scratch = d.scratch := by
  unfold raiseVector
  split <;> rfl

/-! ### The read of the target's words (R132, R217) -/

/-- What the read of a flight's words on one bank tick makes of the scratchpad's context. -/
def accReadPad (d : Device) (c : CtxId) (f : Flight) (t : CtxId) (off : Nat) : Device :=
  let k := tickBytes d t f.req.bytes
  let o := off + k * f.halves
  parityRead (serveRemote d t o k) c t o k 2 f.req.seq f.req.pc (if f.halves + 1 < bankTicks d t f.req.bytes then 1 else 0)

theorem bankWork_accReadPad (d : Device) (c : CtxId) (f : Flight) (t : CtxId) (off : Nat) : BankWork d (accReadPad d c f t off) :=
  (bankWork_serveRemote _ _ _ _).trans (bankWork_parityRead _ _ _ _ _ _ _ _ _)

theorem scratch_accReadPad (d : Device) (c : CtxId) (f : Flight) (t : CtxId) (off : Nat) : (accReadPad d c f t off).scratch = d.scratch :=
  scratch_parityRead _ _ _ _ _ _ _ _ _

/-- The words that a flight has read at its target, with those of the present bank tick. -/
def wordsRead (d : Device) (f : Flight) (t : CtxId) (off : Nat) : Entry :=
  let k := tickBytes d t f.req.bytes
  f.data ||| (bytesEntry (readPad d t (off + k * f.halves) k) <<< (8 * k * f.halves))

/-- The sum that a flight forms of its target's words and its own, and the flags that it raises. -/
def flightSum (f : Flight) (old : Entry) : Entry × NFlags :=
  match f.req.kind with
  | .accumulate float e => (sumWords float f.req.bytes old e, 0)
  | .message _ _ us _ => sumTarns old ((us.headD 0).setWidth 2048)
  | _ => (old, 0)

/-- A bank tick of the read that is not its last. -/
theorem accRead_more {d : Device} {c : CtxId} {f : Flight} {t : CtxId} {off : Nat} (hp : f.req.predOff = false)
    (hm : f.halves + 1 < bankTicks d t f.req.bytes) :
    accRead d c f t off = setFlight (accReadPad d c f t off) c { f with halves := f.halves + 1, data := wordsRead d f t off } := by
  simp only [accRead, hp, hm, decide_true, if_true, Bool.false_eq_true, if_false, accReadPad, wordsRead]

/-- The last bank tick of the read forms the sum. -/
theorem accRead_last {d : Device} {c : CtxId} {f : Flight} {t : CtxId} {off : Nat} (hp : f.req.predOff = false)
    (hm : ¬ f.halves + 1 < bankTicks d t f.req.bytes) :
    accRead d c f t off = setFlight (raiseVector (accReadPad d c f t off) t (flightSum f (wordsRead d f t off)).2) c
      { f with arrived := true, halves := 0, data := (flightSum f (wordsRead d f t off)).1, readAt := (getPart d (partOfCore d c.core)).periods } := by
  have hw := bankWork_accReadPad d c f t off
  rw [← hw.periods, ← hw.partOfCore]
  simp only [accRead, hp, hm, decide_false, Bool.false_eq_true, if_false, accReadPad, wordsRead]
  rfl

theorem scratch_accRead {d : Device} {c : CtxId} {f : Flight} {t : CtxId} {off : Nat} (hp : f.req.predOff = false) :
    (accRead d c f t off).scratch = d.scratch := by
  by_cases hm : f.halves + 1 < bankTicks d t f.req.bytes
  · rw [accRead_more hp hm]
    exact scratch_accReadPad d c f t off
  · rw [accRead_last hp hm]
    exact (scratch_raiseVector _ _ _).trans (scratch_accReadPad d c f t off)

/-- The only flight of a context after a bank tick of its read. -/
theorem flights_accRead {d : Device} {c : CtxId} {f : Flight} {t : CtxId} {off : Nat} (hf : (getUnit d c).flights = [f]) (hp : f.req.predOff = false) :
    (getUnit (accRead d c f t off) c).flights = [if f.halves + 1 < bankTicks d t f.req.bytes then { f with halves := f.halves + 1, data := wordsRead d f t off }
      else { f with arrived := true, halves := 0, data := (flightSum f (wordsRead d f t off)).1, readAt := (getPart d (partOfCore d c.core)).periods }] := by
  have hw := (bankWork_accReadPad d c f t off).flights c
  by_cases hm : f.halves + 1 < bankTicks d t f.req.bytes
  · rw [accRead_more hp hm, if_pos hm]
    exact flights_setFlight (hw.trans hf) rfl
  · rw [accRead_last hp hm, if_neg hm]
    refine flights_setFlight (f := f) ?_ rfl
    exact (getUnit_raiseVector_proj (·.flights) (fun _ _ => rfl) _ _ _ _).trans (hw.trans hf)

/-- The last bank tick of the read raises what the sum raises. -/
theorem vectorFlags_accRead {d : Device} {c : CtxId} {f : Flight} {t : CtxId} {off : Nat} (hp : f.req.predOff = false)
    (hm : ¬ f.halves + 1 < bankTicks d t f.req.bytes) :
    (getUnit (accRead d c f t off) t).vector.flags.val = (getUnit d t).vector.flags.val ||| (flightSum f (wordsRead d f t off)).2 := by
  rw [accRead_last hp hm, vector_setFlight, getUnit_raiseVector, (bankWork_accReadPad d c f t off).vector]

/-! ### The write of the sum (R132, R217, R272) -/

/-- The sum of a flight is written on one bank tick. -/
def accWritePad (d : Device) (f : Flight) (t : CtxId) (off : Nat) : Device :=
  let k := tickBytes d t f.req.bytes
  storePad (serveRemote d t (off + k * f.halves) k) t (off + k * f.halves) (entryBytes (f.data >>> (8 * k * f.halves)) k)

theorem bankWork_accWritePad (d : Device) (f : Flight) (t : CtxId) (off : Nat) : BankWork d (accWritePad d f t off) :=
  (bankWork_serveRemote _ _ _ _).trans (bankWork_storePad _ _ _ _)

/-- With the last write an anchor channel's message adds to its flag. -/
def anchorFlag (d : Device) (c : CtxId) (f : Flight) (t : CtxId) (e : Device) : Device :=
  match f.req.kind with
  | .message chan n _ _ => (match routeOf d c chan with
    | some r => if n = 0 then e else deliverFlag e t r.fadd r.fper r.tflag n
    | none => e)
  | _ => e

theorem accWrite_eq {d : Device} {c : CtxId} {f : Flight} {t : CtxId} {off : Nat} (hp : f.req.predOff = false) : accWrite d c f t off =
    if f.halves + 1 < bankTicks d t f.req.bytes then setFlight (accWritePad d f t off) c { f with halves := f.halves + 1 }
    else endFlight (anchorFlag d c f t (accWritePad d f t off)) c f := by
  have hw := bankWork_accWritePad d f t off
  have hr : ∀ chan, routeOf d c chan = routeOf (accWritePad d f t off) c chan := fun chan => (hw.routes.routeOf c chan).symm
  rw [← hw.bankTicks]
  simp only [accWrite, hp, anchorFlag, hr, Bool.false_eq_true, if_false]
  rfl

theorem getUnit_anchorFlag (d : Device) (c x : CtxId) (f : Flight) (t : CtxId) (e : Device) : getUnit (anchorFlag d c f t e) x = getUnit e x := by
  unfold anchorFlag
  split
  · split
    · split
      · rfl
      · exact getUnit_deliverFlag _ _ _ _ _ _ _
    · rfl
  · rfl

theorem scratch_anchorFlag (d : Device) (c : CtxId) (f : Flight) (t : CtxId) (e : Device) : (anchorFlag d c f t e).scratch = e.scratch := by
  unfold anchorFlag
  split
  · split
    · split
      · rfl
      · exact scratch_deliverFlag _ _ _ _ _ _
    · rfl
  · rfl

/-- The only flight of a context after a bank tick of its write. -/
theorem flights_accWrite {d : Device} {c : CtxId} {f : Flight} {t : CtxId} {off : Nat} (hf : (getUnit d c).flights = [f]) (hp : f.req.predOff = false) :
    (getUnit (accWrite d c f t off) c).flights = if f.halves + 1 < bankTicks d t f.req.bytes then [{ f with halves := f.halves + 1 }] else [] := by
  have hw : (getUnit (accWritePad d f t off) c).flights = [f] := ((bankWork_accWritePad d f t off).flights c).trans hf
  rw [accWrite_eq hp]
  split
  · exact flights_setFlight hw rfl
  · exact flights_endFlight (by rw [getUnit_anchorFlag, hw])

/-- A bank tick of the write puts its bytes at the target. -/
theorem padWrote_accWrite {d : Device} {c : CtxId} {f : Flight} {t : CtxId} {off : Nat} (hp : f.req.predOff = false) (hwf : memoriesWf d = true)
    (hn : f.req.bytes ≤ 256) : let k := tickBytes d t f.req.bytes
    PadWrote d (accWrite d c f t off) t (off + k * f.halves) (entryBytes (f.data >>> (8 * k * f.halves)) k) := by
  intro k
  have hk : k ≤ 512 := by
    simp only [k, tickBytes]
    split <;> omega
  have hscratch : (accWrite d c f t off).scratch = (accWritePad d f t off).scratch := by
    rw [accWrite_eq hp]
    split
    · rfl
    · rw [scratch_endFlight, scratch_anchorFlag]
  have hserve := bankWork_serveRemote d t (off + k * f.halves) k
  have hstore := padWrote_storePad ((mems_serveRemote d t (off + k * f.halves) k).form hwf) t (off + k * f.halves)
    (bs := entryBytes (f.data >>> (8 * k * f.halves)) k) (by rwa [length_entryBytes])
  exact padWrote_congr hstore (hserve.isSplit _) rfl hscratch

/-! ### The steps of accumulates and anchor units -/

/-- A flight that finds its target awake, and its banks on, reads or writes. -/
theorem accAct_eq {d : Device} {c : CtxId} {f : Flight} {t : CtxId} {off : Nat} (ht : padTarget d c f = some (t, off))
    (hr : (getCore d t.core).inReset = false) (hp : f.req.predOff = false)
    (hw : f.arrived = false → f.halves = 0 → writeAccepted d t off f.req.bytes (f.reached.getD (corePeriod d t.core)) = true) :
    accAct d c f = if f.arrived then accWrite d c f t off else accRead d c f t off := by
  have hok : (!f.arrived && decide (f.halves = 0) && !writeAccepted d t off f.req.bytes (f.reached.getD (corePeriod d t.core))) = false := by
    cases ha : f.arrived with
    | true => rfl
    | false =>
      by_cases h0 : f.halves = 0
      · simp [hw ha h0]
      · simp [h0]
  simp only [accAct, ht, hr, hp, Bool.not_false, Bool.true_and, hok, Bool.false_and, Bool.or_self, Bool.false_eq_true, if_false]

theorem accumulateApply_eq {d : Device} {c : CtxId} {f : Flight} {fl : Bool} {v : Entry} (hf : (getUnit d c).flights = [f])
    (hk : f.req.kind = .accumulate fl v) (hd : accDue d c f = true) : accumulateApply d c = accAct d c f := by
  have hgo : (getUnit d c).flights.find? (fun f => isAccumulate f && accDue d c f) = some f := by simp [hf, isAccumulate, hk, hd]
  simp only [accumulateApply, hgo]

theorem anchorAdd_eq {d : Device} {c : CtxId} {f : Flight} {ch : Byte} {n o : Nat} {us : List (BitVec 512)} {r : RouteEntry} (hf : (getUnit d c).flights = [f])
    (hk : f.req.kind = .message ch n us o) (hr : routeOf d c ch = some r) (h2 : r.kind = 2) (hd : accDue d c f = true) : anchorAdd d c = accAct d c f := by
  have hgo : (getUnit d c).flights.find? (fun f => isAnchorUnit d c f && accDue d c f) = some f := by simp [hf, isAnchorUnit, hk, hr, h2, hd]
  simp only [anchorAdd, hgo]

/-- With its last write an anchor unit of a message adds to the message's flag (R271, R272). -/
theorem flagAdded_accWrite {d : Device} {c : CtxId} {f : Flight} {t : CtxId} {off n o : Nat} {ch : Byte} {us : List (BitVec 512)} {r : RouteEntry}
    (hp : f.req.predOff = false) (hm : ¬ f.halves + 1 < bankTicks d t f.req.bytes) (hk : f.req.kind = .message ch n us o) (hr : routeOf d c ch = some r)
    (hn : n ≠ 0) (hadd : r.fadd = true) : FlagAdded d (accWrite d c f t off) t r.tflag (if r.fper then BitVec.ofNat 32 n else 1) := by
  have hw := bankWork_accWritePad d f t off
  refine flagAdded_pendAdd (hw.isSplit _) (hw.flagPend _) ?_
  rw [accWrite_eq hp, if_neg hm, getCore_endFlight_proj (·.flagPend) fun _ _ => rfl]
  simp only [anchorFlag, hk, hr, hn, deliverFlag, hadd, if_true, if_false]

end Sys2Proof.Machine
end

section
/-! O50: units from outside, flag signals, messages, credit and held messages, and the obligation. -/

open Sys2Proof.Claims

namespace Sys2Proof.Machine

/-! ### Units of inbound messages (R272) -/

theorem anchorAdd_inbound {d : Device} {t : CtxId} (hf : (getUnit d t).flights = []) (hd : addDue d t = true) : anchorAdd d t = addAct d t := by
  simp only [anchorAdd, hf, List.find?_nil, hd, if_true]

theorem parityOutside_sound {d : Device} (c : CtxId) (off n : Nat) (source : BitVec 2) (hb : d.scratchBad = [])
    (ha : isArmed d 0x100 (coreUnit c) = false) : parityOutside d c off n source = (false, d) := by
  have hbad : badWords d c off n = [] := by simp [badWords, hb]
  simp only [parityOutside, hbad, forAll, List.foldl_nil, ha, Bool.false_and, Bool.false_eq_true, if_false, List.isEmpty_nil, Bool.not_true]

/-- The read of the target's tarns, where every check of the read holds. -/
theorem addAct_read {d : Device} {t : CtxId} {a : InAdd} {rest : List InAdd} (ha : (getUnit d t).adds = a :: rest) (hr : (getCore d t.core).inReset = false)
    (hn : a.readAt = none) (hw : writeAccepted d t a.off 64 a.reached = true) (hb : d.scratchBad = []) (harm : isArmed d 0x100 (coreUnit t) = false) :
    let x := sumTarns (bytesEntry (readPad d t a.off 64)) (a.data.setWidth 2048)
    addAct d t = modUnit (raiseVector (serveRemote d t a.off 64) t x.2) t fun u =>
      { u with adds := { a with readAt := some (corePeriod d t.core), sum := x.1.setWidth 512 } :: rest } := by
  intro x
  have hpar := parityOutside_sound t a.off 64 2 (d := serveRemote d t a.off 64) hb harm
  rw [← (bankWork_serveRemote d t a.off 64).corePeriod]
  simp only [addAct, ha, hr, hn, hw, hpar, Bool.not_true, Bool.false_eq_true, if_false]
  rfl

/-- The write of the sum, with which the credit of a message's last unit is on its way back, and its flag added. -/
theorem addAct_write {d : Device} {t : CtxId} {a : InAdd} {rest : List InAdd} (ha : (getUnit d t).adds = a :: rest) (hr : (getCore d t.core).inReset = false)
    (hn : a.readAt ≠ none) : addAct d t =
    match a.flag with
    | some (f, n) => pendAdd (addDone (storePad (serveRemote d t a.off 64) t a.off (leBytes 64 a.sum.toNat)) t a rest) t f n
    | none => addDone (storePad (serveRemote d t a.off 64) t a.off (leBytes 64 a.sum.toNat)) t a rest := by
  obtain ⟨p, hp⟩ := Option.ne_none_iff_exists'.1 hn
  simp only [addAct, ha, hr, hp, Bool.false_eq_true, if_false] <;> rfl

/-- The credit of a message whose last unit has left the edge (R273). -/
theorem credits_addDone {d : Device} {t : CtxId} {a : InAdd} {r : CreditReturn} {src : BitVec 18} {k : BitVec 10} {x : Byte} (rest : List InAdd)
    (ha : a.back = some r) (hr : r.inbound = some (src, k, x)) :
    (getUnit (addDone d t a rest) t).credits = (getUnit d t).credits ++ [{ r with due := outsideDue d t src k (settleTick d t) }] := by
  simp only [addDone, ha, hr, getUnit_modUnit_same]

theorem flagPend_addDone (d : Device) (t : CtxId) (a : InAdd) (rest : List InAdd) (k : CoreId) :
    (getCore (addDone d t a rest) k).flagPend = (getCore d k).flagPend := getCore_modCore_proj (·.flagPend) d t.core k fun _ => rfl

/-- A step of the write of an inbound unit. -/
theorem answers_addWrite {s : State} {t : CtxId} {a : InAdd} {rest : List InAdd} (hf : (getUnit s.dev t).flights = []) (ha : (getUnit s.dev t).adds = a :: rest)
    (hd : addDue s.dev t = true) (hr : (getCore s.dev t.core).inReset = false) (hn : a.readAt ≠ none) (hwf : memoriesWf s.dev = true) :
    Answers (.anchorUnitAdd t) s fun e => (getUnit e t).adds = rest ∧
      PadWrote s.dev e t a.off (leBytes 64 a.sum.toNat) ∧ (∀ f n, a.flag = some (f, n) → FlagAdded s.dev e t f n) ∧
      ∀ r src k x, a.back = some r → r.inbound = some (src, k, x) → (getUnit e t).credits = (getUnit s.dev t).credits ++
        [{ r with due := outsideDue s.dev t src k (settleTick s.dev t) }] := by
  have hserve := bankWork_serveRemote s.dev t a.off 64
  have hw := hserve.trans (bankWork_storePad (serveRemote s.dev t a.off 64) t a.off (leBytes 64 a.sum.toNat))
  have hstore := padWrote_storePad ((mems_serveRemote s.dev t a.off 64).form hwf) t a.off (bs := leBytes 64 a.sum.toNat) (by simp)
  have hgo := (anchorAdd_inbound hf hd).trans (addAct_write ha hr hn)
  generalize storePad (serveRemote s.dev t a.off 64) t a.off (leBytes 64 a.sum.toNat) = y at hw hstore hgo
  have hadds : (getUnit (addDone y t a rest) t).adds = rest := by rw [addDone, getUnit_modUnit_same]
  have hcredits : ∀ r src k x, a.back = some r → r.inbound = some (src, k, x) → (getUnit (addDone y t a rest) t).credits =
      (getUnit s.dev t).credits ++ [{ r with due := outsideDue s.dev t src k (settleTick s.dev t) }] := fun r src k x hb hi => by
    rw [credits_addDone rest hb hi, hw.credits, hw.outsideDue, hw.settleTick]
  have hpad : PadWrote s.dev (addDone y t a rest) t a.off (leBytes 64 a.sum.toNat) := padWrote_congr hstore (hserve.isSplit _) rfl rfl
  cases hflag : a.flag with
  | none =>
    rw [hflag] at hgo
    exact answers_of_onDev (f := fun d => anchorAdd d t) rfl hgo ⟨hadds, hpad, fun f n h => (by cases h), hcredits⟩
  | some p =>
    obtain ⟨f, n⟩ := p
    rw [hflag] at hgo
    refine answers_of_onDev (f := fun d => anchorAdd d t) rfl hgo ⟨?_, ?_, fun g m h => ?_, ?_⟩
    · rw [getUnit_pendAdd, hadds]
    · exact hpad
    · cases h
      exact flagAdded_pendAdd (((isSplit_modUnit _ _ _ _).trans (hw.isSplit _))) ((flagPend_addDone _ _ _ _ _).trans (hw.flagPend _)) rfl
    · rw [getUnit_pendAdd]
      exact hcredits

/-! ### Flag signals and messages (R134, R235, R265, R271) -/

theorem flagSignal_eq {d : Device} {c : CtxId} {f : Flight} {g : Byte} {v : W32} (hf : (getUnit d c).flights = [f]) (hk : f.req.kind = .flag g v)
    (hd : flagDue d c f = true) (hr : (getCore d (ctxOfScore f.req.addr.toNat).core).inReset = false) :
    flagSignal d c = endFlight (pendAdd d (ctxOfScore f.req.addr.toNat) g v) c f := by
  have hgo : (getUnit d c).flights.find? (flagDue d c) = some f := by simp [hf, hd]
  simp only [flagSignal, hgo, hk, hr, Bool.false_eq_true, if_false]

theorem messageDeliver_queue {d : Device} {c : CtxId} {f : Flight} {ch : Byte} {n o : Nat} {us : List (BitVec 512)} {r : RouteEntry}
    (hf : (getUnit d c).flights = [f]) (hk : f.req.kind = .message ch n us o) (hr : routeOf d c ch = some r) (h1 : r.kind = 1)
    (hd : messageDue d c f = true) (ht : messageTurn d c f = true) (hreset : (getCore d r.target.core).inReset = false) :
    messageDeliver d c = endFlight (deliverFlag (modMq d r.target r.queue.val fun q => place q us ch (scoreOf c) (settleTick d r.target) none)
      r.target r.fadd r.fper r.tflag n) c f := by
  have hgo : (getUnit d c).flights.find? (fun f => messageDue d c f && messageTurn d c f) = some f := by simp [hf, hd, ht]
  have h3 : r.kind ≠ 3 := by rw [h1]; decide
  simp only [messageDeliver, hgo, hk, hr, if_neg h3, hreset, Bool.false_eq_true, if_false]

theorem getUnit_modMq (d : Device) (t c : CtxId) (q : Nat) (f : MsgQueue → MsgQueue) : getUnit (modMq d t q f) c = getUnit d c :=
  getUnit_modCore_proj id d t.core c fun _ _ => rfl

theorem isSplit_modMq (d : Device) (t : CtxId) (q : Nat) (f : MsgQueue → MsgQueue) (k : CoreId) : isSplit (modMq d t q f) k = isSplit d k :=
  getCore_modCore_proj (·.split) d t.core k fun _ => rfl

theorem flagPend_modMq (d : Device) (t : CtxId) (q : Nat) (f : MsgQueue → MsgQueue) (k : CoreId) :
    (getCore (modMq d t q f) k).flagPend = (getCore d k).flagPend := getCore_modCore_proj (·.flagPend) d t.core k fun _ => rfl

theorem mqOf_of_cores {d e : Device} (h : e.cores = d.cores) (c : CtxId) (q : Nat) : mqOf e c q = mqOf d c q := by
  simp only [mqOf, isSplit, getCore_of_cores h]

theorem mqOf_endFlight (d : Device) (c x : CtxId) (f : Flight) (q : Nat) : mqOf (endFlight d c f) x q = mqOf d x q :=
  getCore_endFlight_proj (fun k => vget k.mqs (physQueue k.split x.ctx q)) (fun _ _ => rfl) d c f x.core

theorem mqOf_deliverFlag (d : Device) (t c : CtxId) (fadd fper : Bool) (f : Byte) (n q : Nat) : mqOf (deliverFlag d t fadd fper f n) c q = mqOf d c q := by
  unfold deliverFlag
  split
  · exact getCore_modCore_proj (fun k => vget k.mqs (physQueue k.split c.ctx q)) d t.core c.core fun _ => rfl
  · rfl

/-! ### Credit (R268) -/

theorem creditOf_modCredit_same (d : Device) (c : CtxId) (chan : Byte) (f : Nat → Nat) :
    creditOf (modCredit d c chan f) c chan = f (creditOf d c chan) % 256 := by
  simp only [creditOf, modCredit, isSplit, getCore_modCore_same, vget_vmod_same, BitVec.toNat_ofNat]

theorem creditOf_modCredit_other (d : Device) (c : CtxId) {chan n : Byte} (f : Nat → Nat)
    (h : physChan (isSplit d c.core) c.ctx n ≠ physChan (isSplit d c.core) c.ctx chan) : creditOf (modCredit d c chan f) c n = creditOf d c n := by
  simp only [creditOf, modCredit, isSplit, getCore_modCore_same]
  exact congrArg BitVec.toNat (vget_vmod_other _ _ _ _ (Ne.symm h))

/-- A credit return raises its channel, and leaves the cores otherwise alone. -/
theorem cores_creditReturn {d : Device} {c : CtxId} {r : CreditReturn} (hc : (getUnit d c).credits = [r]) (hi : r.inbound = none)
    (hd : creditDue d c r = true) : (creditReturn d c).cores =
    (modCredit (modUnit d c fun u => { u with credits := u.credits.erase r }) c r.chan (· + r.units)).cores := by
  have hgo : (getUnit d c).credits.find? (creditDue d c) = some r := by simp [hc, hd]
  simp only [creditReturn, hgo, hi]
  split <;> rfl

theorem getUnit_modCredit (d : Device) (t c : CtxId) (chan : Byte) (f : Nat → Nat) : getUnit (modCredit d t chan f) c = getUnit d c :=
  getUnit_modCore_proj id d t.core c fun _ _ => rfl

theorem creditOf_of_cores {d e : Device} (h : e.cores = d.cores) (c : CtxId) (chan : Byte) : creditOf e c chan = creditOf d c chan := by
  simp only [creditOf, isSplit, getCore_of_cores h]

theorem creditOf_modUnit (d : Device) (t c : CtxId) (f : CtxUnit → CtxUnit) (chan : Byte) : creditOf (modUnit d t f) c chan = creditOf d c chan :=
  getCore_modCore_proj (fun k => (vget k.credit (physChan k.split c.ctx chan)).toNat) d t.core c.core fun _ => rfl

/-! ### Held messages (R274) -/

theorem deliverReady_none {d : Device} {i : DomId} {e : InEntry} {inid : Byte} (h : readyMessage (getDom d i) inid = none) :
    ∀ n, deliverReady n d i e inid = d
  | 0 => rfl
  | n + 1 => by
    have hno : (if receives d i then readyMessage (getDom d i) inid else none) = none := by simp [h]
    simp only [deliverReady, hno]

/-- The state after a message is delivered to a queue of its target. -/
def delivered (d : Device) (i : DomId) (e : InEntry) (inid : Byte) (m : Assembling) : Device :=
  markMessage (modDom (deliverFlag (modMq d e.target e.queue.val fun q => place q (messageUnits m) inid m.sender (settleTick d e.target) (some (m.src, m.chan)))
    e.target e.fadd e.fper e.tflag m.len) i fun x => passMessage x m) i e m.retried

theorem deliverReady_queue {d : Device} {i : DomId} {e : InEntry} {inid : Byte} {m : Assembling} (hrec : receives d i = true)
    (hm : readyMessage (getDom d i) inid = some m) (hf : m.refused = false) (hr : (getCore d e.target.core).inReset = false) (h1 : e.kind = 1)
    (hd : readsDue d e.target = false) (hroom : (mqOf d e.target e.queue.val).occ + placeCost (mqOf d e.target e.queue.val) m.len ≤ 64) (n : Nat) :
    deliverReady (n + 1) d i e inid = deliverReady n (delivered d i e inid m) i e inid := by
  have hin : deliverInbound d e inid m = some (deliverFlag (modMq d e.target e.queue.val fun q =>
      place q (messageUnits m) inid m.sender (settleTick d e.target) (some (m.src, m.chan))) e.target e.fadd e.fper e.tflag m.len) := by
    simp only [deliverInbound, h1, if_true, if_neg (not_lt.2 hroom)]
  simp only [deliverReady, hrec, hm, hf, hr, hd, hin, Bool.and_false, Bool.false_eq_true, if_true, if_false]
  rfl

theorem quotaRelease_single {d : Device} {k : CoreId} {q : Fin 8} {c : CtxId} {i : DomId} {g : Program} {x : InEntry} {m : Assembling}
    (hc : c = { core := k, ctx := if isSplit d k then finMod 2 (q.val / 4) else 0 }) (hi : domOf d c = some i) (hg : (getDom d i).prog = some g)
    (hx : g.inbound = [x]) (h1 : x.kind = 1) (ht : x.target = c) (hq : physQueue (isSplit d k) c.ctx x.queue.val = q)
    (ha : (getDom d i).assembling = [m]) (hid : m.inid = 0) (hh : m.held = true) : quotaRelease d k q = deliverReady 256 d i x 0 := by
  subst hc
  have hrange : List.range [x].length = [0] := rfl
  simp only [quotaRelease, hi, hg, hx, hrange, forAll_single, List.getElem?_cons_zero, h1, ht, hq, ha]
  simp [hid, hh]

theorem deliverFlag_parts (d : Device) (t : CtxId) (fadd fper : Bool) (f : Byte) (n : Nat) : (deliverFlag d t fadd fper f n).parts = d.parts := by
  unfold deliverFlag
  split <;> rfl

theorem getDom_of_parts {d e : Device} (h : e.parts = d.parts) (i : DomId) : getDom e i = getDom d i := by rw [getDom, getPart, h, getDom, getPart]

/-- A domain that has passed a message: its run aside. -/
theorem getDom_delivered (d : Device) (i : DomId) (e : InEntry) (inid : Byte) (m : Assembling) :
    ∃ r, getDom (delivered d i e inid m) i = { passMessage (getDom d i) m with run := r } := by
  have hparts : ∀ f, getDom (deliverFlag (modMq d e.target e.queue.val f) e.target e.fadd e.fper e.tflag m.len) i = getDom d i := fun f =>
    getDom_of_parts (deliverFlag_parts _ _ _ _ _ _) i
  unfold delivered markMessage markRetried
  split
  · exact ⟨_, by rw [getDom_modRun_same, getDom_modDom_same, hparts]⟩
  · exact ⟨_, by rw [getDom_modDom_same, hparts]⟩

theorem cores_markMessage (d : Device) (i : DomId) (e : InEntry) (retried : Bool) : (markMessage d i e retried).cores = d.cores := by
  unfold markMessage
  split <;> rfl

theorem mqOf_delivered (d : Device) (i : DomId) (e : InEntry) (inid : Byte) (m : Assembling) : mqOf (delivered d i e inid m) e.target e.queue.val =
    place (mqOf d e.target e.queue.val) (messageUnits m) inid m.sender (settleTick d e.target) (some (m.src, m.chan)) := by
  rw [delivered, mqOf_of_cores (cores_markMessage _ _ _ _)]
  exact (mqOf_deliverFlag _ _ _ _ _ _ _ _).trans (mqOf_modMq_same _ _ _ _)

/-- A message that has passed leaves its channel at the next number. -/
theorem nextMseq_passMessage (x : Domain) (m : Assembling) : nextMseq (passMessage x m) m = nextMseq x m + 1 := by
  have hgone : (x.inSeq.filter fun e => !(e.inid = m.inid && e.sender = m.sender && e.chan = m.chan)).find?
      (fun e => e.inid = m.inid && e.sender = m.sender && e.chan = m.chan) = none := by
    rw [List.find?_eq_none]
    intro e he
    exact fun h => absurd (List.mem_filter.1 he).2 (by rw [h]; decide)
  rw [nextMseq]
  simp only [passMessage, List.find?_append, hgone]
  simp

/-- The only message of a domain passes. -/
theorem assembling_passMessage {x : Domain} {m : Assembling} (h : x.assembling = [m]) : (passMessage x m).assembling = [] := by
  simp [passMessage, h, sameMessage]

theorem readyMessage_single {x : Domain} {m : Assembling} {inid : Byte} (h : x.assembling = [m]) (hid : m.inid = inid) (hs : m.mseq = nextMseq x m)
    (hl : m.units.length = m.len) : readyMessage x inid = some m := by
  simp [readyMessage, h, hid, ← hs, hl]

end Sys2Proof.Machine

open Sys2Proof.Machine

/-- Settles O50: each arrival by its step, an access of a scratchpad through what its banks' work leaves and the bytes that it writes. -/
theorem signalsAndMessagesArrive : Obligations.SignalsAndMessagesArrive := by
  unfold Obligations.SignalsAndMessagesArrive
  refine ⟨?_, ?_, ?_, ?_, ?_, ?_, ?_⟩
  · intro s c t f off fl v hf hk hd ht hr hp n k more old
    have hgo := accumulateApply_eq hf hk hd
    refine ⟨fun ha hw => ?_, fun ha hwf hn => ?_⟩
    · rw [accAct_eq ht hr hp fun _ => hw, ha, if_neg Bool.false_ne_true] at hgo
      refine answers_of_onDev (f := fun d => accumulateApply d c) rfl hgo ⟨(flights_accRead hf hp).trans ?_, scratch_accRead hp⟩
      simp only [more, decide_eq_true_eq, flightSum, hk]
      rfl
    · rw [accAct_eq ht hr hp fun h => (by simp [ha] at h), ha, if_pos rfl] at hgo
      refine answers_of_onDev (f := fun d => accumulateApply d c) rfl hgo ⟨(flights_accWrite hf hp).trans ?_, padWrote_accWrite hp hwf hn⟩
      simp only [more, decide_eq_true_eq]
      rfl
  · intro s c t f off n o ch u r hf hk hroute h2 hd ht hr hp hb h0
    have hgo := anchorAdd_eq hf hk hroute h2 hd
    have hbytes : tickBytes s.dev t f.req.bytes = 64 := by
      rw [hb, tickBytes]
      split <;> rfl
    have hlast : ¬ f.halves + 1 < bankTicks s.dev t f.req.bytes := by rw [bankTicks, hbytes, hb, h0]; decide
    refine ⟨fun ha hdata hw => ?_, fun ha hwf => ?_⟩
    · have hread : wordsRead s.dev f t off = bytesEntry (readPad s.dev t off 64) := by simp [wordsRead, hbytes, h0, hdata]
      rw [accAct_eq ht hr hp fun _ _ => by rwa [hb], ha, if_neg Bool.false_ne_true] at hgo
      refine answers_of_onDev (f := fun d => anchorAdd d c) rfl hgo ⟨(flights_accRead hf hp).trans ?_, (vectorFlags_accRead hp hlast).trans ?_, scratch_accRead hp⟩
      · rw [if_neg hlast, hread]
        simp only [flightSum, hk, ← h0]
        rfl
      · rw [hread]
        simp only [flightSum, hk]
        rfl
    · have hpad := padWrote_accWrite (c := c) (t := t) (off := off) hp hwf (by omega)
      rw [accAct_eq ht hr hp fun h => (by simp [ha] at h), ha, if_pos rfl] at hgo
      refine answers_of_onDev (f := fun d => anchorAdd d c) rfl hgo ⟨(flights_accWrite hf hp).trans (if_neg hlast), ?_,
        fun hn hadd => flagAdded_accWrite hp hlast hk hroute hn hadd⟩
      simpa only [hbytes, h0, Nat.mul_zero, Nat.add_zero, BitVec.ushiftRight_zero] using hpad
  · intro s t a rest hf ha hd hr
    refine ⟨fun hn hw hbad harm => ?_, fun hn hwf => answers_addWrite hf ha hd hr hn hwf⟩
    have hgo := (anchorAdd_inbound hf hd).trans (addAct_read ha hr hn hw hbad harm)
    refine answers_of_onDev (f := fun d => anchorAdd d t) rfl hgo ?_
    rw [getUnit_modUnit_same, getUnit_raiseVector, (bankWork_serveRemote s.dev t a.off 64).vector]
    exact ⟨rfl, rfl, scratch_raiseVector _ _ _⟩
  · intro s c f g v hf hk hd hr
    refine answers_of_onDev (f := fun d => flagSignal d c) rfl (flagSignal_eq hf hk hd hr) ⟨?_, ?_, fun k => ?_⟩
    · exact flights_endFlight ((congrArg _ (getUnit_pendAdd _ _ _ _ _)).trans hf)
    · exact flagAdded_pendAdd rfl rfl (getCore_endFlight_proj (·.flagPend) (fun _ _ => rfl) _ _ _ _)
    · rw [getCore_endFlight_proj (·.flags) fun _ _ => rfl, flags_pendAdd]
  · intro s c f ch n o us r hf hk hroute h1 hd ht hr
    refine answers_of_onDev (f := fun d => messageDeliver d c) rfl (messageDeliver_queue hf hk hroute h1 hd ht hr) ⟨?_, ?_, fun hadd => ?_, fun hadd k => ?_⟩
    · exact flights_endFlight ((congrArg _ ((getUnit_deliverFlag _ _ _ _ _ _ _).trans (getUnit_modMq _ _ _ _ _))).trans hf)
    · rw [mqOf_endFlight, mqOf_deliverFlag, mqOf_modMq_same]
    · refine flagAdded_pendAdd (x := modMq s.dev r.target r.queue.val fun q => place q us ch (scoreOf c) (settleTick s.dev r.target) none)
        (isSplit_modMq _ _ _ _ _) (flagPend_modMq _ _ _ _ _) ?_
      rw [getCore_endFlight_proj (·.flagPend) fun _ _ => rfl, deliverFlag, if_pos hadd]
    · rw [getCore_endFlight_proj (·.flagPend) fun _ _ => rfl, deliverFlag, if_neg (by simp [hadd]), flagPend_modMq]
  · intro s c r hc hi hd
    have hcores := cores_creditReturn hc hi hd
    refine answers_of_onDev (f := fun d => creditReturn d c) rfl rfl ⟨?_, ?_, fun n hn => ?_⟩
    · rw [getUnit_of_cores hcores, getUnit_modCredit, getUnit_modUnit_same, hc]
      simp
    · rw [creditOf_of_cores hcores, creditOf_modCredit_same, creditOf_modUnit]
    · rw [creditOf_of_cores hcores, creditOf_modCredit_other _ _ _ (by rwa [isSplit_modUnit]), creditOf_modUnit]
  · intro s k q i g x m c hi hg hx h1 ht hq ha hid hh href hlen hseq hreads hrec hr hroom
    have hready := readyMessage_single ha hid hseq hlen
    obtain ⟨run, hdom⟩ := getDom_delivered s.dev i x 0 m
    have hassembling : (getDom (delivered s.dev i x 0 m) i).assembling = [] := by
      rw [hdom]
      exact assembling_passMessage ha
    have hgo : quotaRelease s.dev k q = delivered s.dev i x 0 m := by
      rw [quotaRelease_single rfl hi hg hx h1 ht hq ha hid hh,
        deliverReady_queue hrec hready href (by rwa [ht]) h1 (by rwa [ht]) (by rwa [ht]) 255]
      exact deliverReady_none (by rw [readyMessage, hassembling]; rfl) 255
    have hmq := mqOf_delivered s.dev i x 0 m
    rw [ht] at hmq
    refine answers_of_onDev (f := fun d => quotaRelease d k q) rfl hgo ⟨hassembling, ?_, hmq⟩
    rw [hdom, hseq]
    exact nextMseq_passMessage (getDom s.dev i) m
end

section
/-! O47: the passes of the matrix array, their end, mdrain and mstat. -/

open Sys2Proof.Claims

namespace Sys2Proof.Machine

/-! ### A bundle of the matrix slot alone -/

theorem applyIssue_onlyMatrix {d : Device} {c : CtxId} {w : SeqId} {b : RawBundle} (h : OnlyMatrix b) :
    applyIssue d c w b = advanceStream d (matrixEffect d c w b) c w b := by
  obtain ⟨hsc, hl, hs, hv, hy⟩ := h
  have hslots : issueSlots d c w b = matrixEffect d c w b := by
    simp [issueSlots, memEffect_none hl hs, hsc, syncEffect_none (show syncOp b ≤ 1 by omega), vectorEffect_none hv]
  rw [applyIssue_eq, hslots]
  simp [scalarEffect, hsc]

/-- A row of the matrix slot comes to that slot's effect, and to the streams' advance. -/
theorem answers_matrixEffect {s : State} {w : SeqId} {b : RawBundle} {r : Instr × (RawBundle → Bool)} {d : Device} {P : Device → Prop} (h : Issues s w b)
    (ho : OnlyMatrix b) (hr : r ∈ matrixRows w) (hb : r.2 b = true) (hd : matrixEffect s.dev (ctxOf s.dev w) w b = d)
    (hP : P (advanceStream s.dev d (ctxOf s.dev w) w b)) : Answers r.1 s fun e => OnlyMoves s w b e ∧ P e := by
  subst hd
  obtain ⟨hit, hi, hhit⟩ := presents_matrixRows w s r hr
  have hgo := gives_applyIssue h hi (hhit b hb)
  rw [applyIssue_onlyMatrix ho] at hgo
  exact ⟨_, hgo, onlyMoves_advanceStream ho.1 fun x => (keeps_matrixEffect _ _ _ _).getSeq (by decide) x, hP⟩

/-- The row leaves the device as the effect does, but for the stream that moves on. -/
theorem acts_matrixEffect {s : State} {w : SeqId} {b : RawBundle} {r : Instr × (RawBundle → Bool)} {d : Device} (h : Issues s w b)
    (ho : OnlyMatrix b) (hr : r ∈ matrixRows w) (hb : r.2 b = true) (hd : matrixEffect s.dev (ctxOf s.dev w) w b = d) : Acts r.1 s w b d := by
  obtain ⟨hsc, -⟩ := id ho
  have hseq : getSeq d w = getSeq s.dev w := by
    rw [← hd]
    exact (keeps_matrixEffect _ _ _ _).getSeq (by decide) w
  obtain ⟨e, hgo, -, rfl⟩ := answers_matrixEffect h ho hr hb hd rfl
  rw [advanceStream_eq, modSeq_eq_const, hseq, streamNext_moved (branchTaken_of_ne (by omega) (by omega)) (by omega)] at hgo
  rw [Acts, modSeq_eq_const, hseq]
  exact hgo

@[simp] theorem matrixOf_advanceStream (d0 d : Device) (c x : CtxId) (w : SeqId) (b : RawBundle) : matrixOf (advanceStream d0 d c w b) x = matrixOf d x :=
  congrArg CtxUnit.matrix (getUnit_advanceStream _ _ _ _ _ _)

theorem vregPend_advanceStream (d0 d : Device) (c : CtxId) (w : SeqId) (b : RawBundle) (k : CoreId) :
    (getCore (advanceStream d0 d c w b) k).vregPend = (getCore d k).vregPend := getCore_modCore_proj (·.vregPend) d w.core k fun _ => rfl

/-! ### What a tick of a feed leaves -/

theorem vmod_self {α : Type} {n : Nat} (v : Vector α n) (i : Fin n) : vmod v i (fun x => x) = v := Vector.set_getElem_self _

/-- Two feeds of one pass. -/
structure SamePass (h g : Feed) : Prop where
  f : h.f = g.f
  plane : h.plane = g.plane
  seq : h.seq = g.seq

/-- A tick of the feed of g leaves a feed of the same pass, which has changed x alone: the cells of its plane. -/
structure FeedLeaves (c : CtxId) (g : Feed) (d e : Device) (x : Vector (Vector W64 64) 128) : Prop where
  feed : ∃ h, (matrixOf e c).feed = some h ∧ SamePass h g
  planes : (matrixOf e c).planes = vmod (matrixOf d c).planes g.plane fun p => { p with cells := x }
  drains : (matrixOf e c).drains = (matrixOf d c).drains

/-- A tick that moves no k-step on leaves the cells as they are. -/
theorem feedLeaves_of_cells {c : CtxId} {g h : Feed} {d e : Device} (hs : SamePass h g) (he : matrixOf e c = { matrixOf d c with feed := some h }) :
    FeedLeaves c g d e (planeOf d c g.plane).cells := by
  refine ⟨⟨h, by rw [he], hs⟩, ?_, by rw [he]⟩
  rw [he, vmod_eq_const]
  exact (vmod_self (matrixOf d c).planes g.plane).symm

/-- The cells of a plane after a step of n k-steps of a feed. -/
def stepCells (sp : Bool) (g : Feed) (n : Nat) (p : Plane) : Vector (Vector W64 64) 128 := (stepPlane sp g n p).1.cells

/-- A step changes nothing of its plane but the cells. -/
theorem fst_stepPlane (sp : Bool) (g : Feed) (n : Nat) (p : Plane) : (stepPlane sp g n p).1 = { p with cells := stepCells sp g n p } := rfl

theorem vget_stepCells (sp : Bool) (g : Feed) (n : Nat) (p : Plane) (i : Fin 128) (j : Fin 64) : vget (vget (stepCells sp g n p) i) j =
    if clocked sp g.f i.val j.val = true then (stepCell sp g n i.val j.val (vget (vget p.cells i) j)).1 else vget (vget p.cells i) j := by
  simp only [stepCells, stepPlane, vget_vmapi]

theorem feedLeaves_finishStep {c : CtxId} {g h : Feed} {d y : Device} (hs : SamePass h g) (hy : matrixOf y c = matrixOf d c) (hsp : isSplit y c.core = isSplit d c.core) :
    FeedLeaves c g d (finishStep y c h) (stepCells (isSplit d c.core) h (stepLen (isSplit d c.core) h) (planeOf d c g.plane)) := by
  have hp : planeOf y c h.plane = planeOf d c g.plane := by rw [planeOf, hy, hs.plane, planeOf]
  rw [← hsp, ← hp]
  have hm : (matrixOf (finishStep y c h) c).feed = some { h with
      k := h.k + stepLen (isSplit y c.core) h
      block := (stepPlane (isSplit y c.core) h (stepLen (isSplit y c.core) h) (planeOf y c h.plane)).2.1
      scaled := if (h.k + stepLen (isSplit y c.core) h) % 64 = 0 then false else h.scaled
      subTicks := 0
      nextTick := tickOf y c + 1
      done := decide (passSteps h.f ≤ h.k + stepLen (isSplit y c.core) h) } := by
    simp only [finishStep, setFeed, raiseArray, modPlaneOf, matrixOf_modMatrix, tickOf_modMatrix]
  obtain ⟨x, hx, -⟩ := matrixOf_finishStep y c h
  refine ⟨⟨_, hm, hs.f, hs.plane, hs.seq⟩, ?_, ?_⟩
  · rw [hx, ← hy, ← hs.plane]
    rfl
  · rw [hx, ← hy]


/-- An operand that is taken touches the array of no context. -/
theorem takeOperand_keeps (d : Device) (c : CtxId) (code : BitVec 5) (on : Bool) :
    matrixOf (if on then takeOperand d c code else d) c = matrixOf d c ∧ isSplit (if on then takeOperand d c code else d) c.core = isSplit d c.core := by
  split
  · unfold takeOperand
    split
    · exact ⟨congrArg CtxUnit.matrix (getUnit_modLq _ _ _ _ _), isSplit_modLq _ _ _ _ _⟩
    · exact ⟨rfl, rfl⟩
  · exact ⟨rfl, rfl⟩

/-- The entries that a tick takes come into a feed of the same pass. -/
theorem feedTake_keeps (d : Device) (c : CtxId) (g : Feed) :
    SamePass (feedTake d c g).1 g ∧ matrixOf (feedTake d c g).2 c = matrixOf d c ∧ isSplit (feedTake d c g).2 c.core = isSplit d c.core := by
  refine ⟨⟨?_, ?_, ?_⟩, ?_, ?_⟩
  · simp only [feedTake, apply_ite Prod.fst, apply_ite Feed.f, ite_self]
  · simp only [feedTake, apply_ite Prod.fst, apply_ite Feed.plane, ite_self]
  · simp only [feedTake, apply_ite Prod.fst, apply_ite Feed.seq, ite_self]
  · simp only [feedTake, apply_ite Prod.snd, ite_self, takeOperand_keeps]
  · simp only [feedTake, apply_ite Prod.snd, ite_self, takeOperand_keeps]

theorem matrixOf_setFeed (d : Device) (c : CtxId) (g : Feed) : matrixOf (setFeed d c g) c = { matrixOf d c with feed := some g } := matrixOf_modMatrix _ _ _

/-- The first tick of a step leaves the cells as they are, or makes a step of one tick that needs no scales (R148). -/
theorem feedTick_leaves {d : Device} {c : CtxId} {g : Feed} (hg : (matrixOf d c).feed = some g) (h0 : g.subTicks = 0) :
    ∃ x, FeedLeaves c g d (feedTick d c) x ∧ (x = (planeOf d c g.plane).cells ∨ scaleTick g = false ∧ (feedSteps (isSplit d c.core) g.f).2 = 1 ∧
      ∃ h n, h.f = g.f ∧ x = stepCells (isSplit d c.core) h n (planeOf d c g.plane)) := by
  have hset : ∀ (y : Device) (h : Feed), matrixOf y c = matrixOf d c → SamePass h g → FeedLeaves c g d (setFeed y c h) (planeOf d c g.plane).cells :=
    fun y h hy hs => feedLeaves_of_cells hs (by rw [matrixOf_setFeed, hy])
  obtain ⟨⟨hf, hp, hq⟩, hy, hsp⟩ := feedTake_keeps d c { g with waiting := false }
  simp only [feedTick, hg]
  rw [if_neg (by omega), if_neg (by omega)]
  split
  · exact ⟨_, feedLeaves_of_cells (h := g) ⟨rfl, rfl, rfl⟩ (by rw [← hg]), .inl rfl⟩
  split
  · split
    · exact ⟨_, hset _ _ rfl ⟨rfl, rfl, rfl⟩, .inl rfl⟩
    · exact ⟨_, hset _ _ rfl ⟨rfl, rfl, rfl⟩, .inl rfl⟩
  split
  · exact ⟨_, hset _ _ hy ⟨hf, hp, hq⟩, .inl rfl⟩
  next hscale =>
    rw [hsp]
    split
    next h1 => exact ⟨_, feedLeaves_finishStep ⟨hf, hp, hq⟩ hy hsp, .inr ⟨by simpa using hscale, by rwa [hf] at h1, _, _, hf, rfl⟩⟩
    next => exact ⟨_, hset _ _ hy ⟨hf, hp, hq⟩, .inl rfl⟩

/-! ### Operands in registers (R92, R147) -/

/-- A source code below 16 names a register, and no queue (R92). -/
theorem srcQueue_register {x : BitVec 5} (h : x.toNat < 16) : srcQueue x = none := by
  have hne : ∀ n : BitVec 5, 16 ≤ n.toNat → ¬ x = n := fun n hn e => absurd (e ▸ h) (by omega)
  rw [srcQueue, srcPop, srcPeek, if_neg (hne _ (by decide)), if_neg (hne _ (by decide)), if_neg (hne _ (by decide)), if_neg (hne _ (by decide))]

/-- A feed of g with its next entries of A and B. -/
def withEntries (g : Feed) (a b : Entry) : Feed := { g with waiting := false, aUsed := g.aUsed + 1, bUsed := g.bUsed + 1, aEntry := a, bEntry := b }

/-- The first tick of a pass whose operands are registers, and whose steps take one tick and no scales, makes the pass's first step. -/
theorem feedTick_registers {d : Device} {c : CtxId} {g : Feed} (hg : (matrixOf d c).feed = some g) (h0 : g.subTicks = 0) (hk : g.k = 0)
    (hA : g.f.srcA.toNat < 16) (hB : g.f.srcB.toNat < 16) (hm : isMx g.f = false) (h1 : (feedSteps (isSplit d c.core) g.f).2 = 1) :
    feedTick d c = finishStep d c (withEntries g (readV (getCore d c.core) c.ctx (g.f.srcA.toNat + g.aUsed))
      (readV (getCore d c.core) c.ctx (g.f.srcB.toNat + g.bUsed))) := by
  have hqA := srcQueue_register hA
  have hqB := srcQueue_register hB
  have hready : feedHeads d c g = [.ready 0, .ready 0] := by
    simp [feedHeads, feedTakes, scaleTick, hm, needsA, needsB, hk, operandHead, hqA, hqB]
  have htake : feedTake d c { g with waiting := false } = (withEntries g (readV (getCore d c.core) c.ctx (g.f.srcA.toNat + g.aUsed))
      (readV (getCore d c.core) c.ctx (g.f.srcB.toNat + g.bUsed)), d) := by
    simp [feedTake, feedTakes, scaleTick, hm, needsA, needsB, hk, takeOperand, operand, hqA, hqB, hA, hB, withEntries]
  have hnone : scaleTick g = false := by simp [scaleTick, hm]
  simp only [feedTick, hg, hready, htake, hnone]
  rw [if_neg (by omega), if_neg (by omega)]
  exact if_pos h1

/-! ### INT8 products (R140, R145, R156, R157) -/

/-- The fields of a pass of INT8 operands into INT32 cells. -/
def Int8 (f : MatrixFields) : Prop := f.fmtA = 2 ∧ f.fmtB = 2 ∧ f.exact = false

theorem isMx_int8 {f : MatrixFields} (h : Int8 f) : isMx f = false := by
  obtain ⟨hA, hB, -⟩ := h
  simp [isMx, hA, hB, fmtMx]

/-- An INT8 step takes one tick, and one k-step or, in mvec, those of an entry of A. -/
theorem feedSteps_int8 {f : MatrixFields} (h : Int8 f) (sp : Bool) : feedSteps sp f = (if fVec f then stepsA sp 2 else 1, 1) := by
  obtain ⟨hA, hB, hx⟩ := h
  cases hv : fVec f <;> simp [feedSteps, hA, hB, hx, hv]

theorem stepsA_int8 (sp : Bool) : stepsA sp 2 = if sp then 4 else 2 := by cases sp <;> rfl

theorem passSteps_int8 {f : MatrixFields} (h : Int8 f) : passSteps f = f.klen.toNat + 1 := by
  obtain ⟨hA, hB, -⟩ := h
  simp [passSteps, hA, hB, fmtMx]

theorem aElem_int8 {g : Feed} (h : Int8 g.f) (sp : Bool) (i k : Nat) :
    aElem sp g i k = ofInt 8 (lane g.aEntry 8 (arrayRows sp * (k % stepsA sp 2) + i)) := by
  obtain ⟨hA, -⟩ := h
  simp only [aElem, hA, elemCode, lane, Nat.mul_comm 8]
  rfl

theorem bElem_int8 {g : Feed} (h : Int8 g.f) (j k : Nat) : bElem g j k = ofInt 8 (lane g.bEntry 8 (if fVec g.f then k % 256 else 64 * (k % 4) + j)) := by
  obtain ⟨-, hB, -⟩ := h
  cases hv : fVec g.f
  · simp only [bElem, hv, hB, elemCode, lane, Nat.mul_comm 8]
    rfl
  · simp only [bElem, hv, hB, elemCode, lane, Nat.mul_comm 8, Nat.one_mul, Nat.add_zero]
    rfl

/-- A cell after the product of two INT8 elements. -/
def plusProduct (x : W64) (a b : Nat) : W64 := ((x.setWidth 32 : W32) + BitVec.ofInt 32 (signed 8 a * signed 8 b)).setWidth 64

theorem signedNat_natAbs (m : Int) : signedNat (decide (m < 0)) m.natAbs = m := by
  simp only [signedNat, decide_eq_true_eq]
  split <;> omega

theorem signedNat_mul (a b : Bool) (m n : Nat) : signedNat (a != b) (m * n) = signedNat a m * signedNat b n := by
  cases a <;> cases b <;> simp [signedNat]

theorem cellInt_int8 (x : W64) (a b : Nat) : (cellInt x (mulNum (ofInt 8 a) (ofInt 8 b))).1 = plusProduct x a b := by
  have hprod : signedNat _ _ = signed 8 a * signed 8 b := (signedNat_mul _ _ _ _).trans (congrArg₂ (· * ·) (signedNat_natAbs _) (signedNat_natAbs _))
  have hexp : ∀ m : Nat, m * 2 ^ ((0 : Int) + 0).toNat = m := fun m => by simp
  rw [plusProduct, ← hprod]
  simp only [cellInt, mulNum, ofInt, hexp]
  rfl

theorem cellStep_int8 {g : Feed} (h : Int8 g.f) (sp : Bool) (i j k : Nat) (x : W64) (blk : Num) : (cellStep sp g i j k x blk).1 =
    (cellInt x (mulNum (aElem sp g i k) (bElem g (if fVec g.f then 0 else j) k))).1 := by
  have hm := isMx_int8 h
  obtain ⟨hA, hB, hx⟩ := h
  simp [cellStep, hx, hm, isInt, hA, hB]

theorem stepCell_mmul_int8 {g : Feed} (h : Int8 g.f) (hv : fVec g.f = false) (hk : g.k = 0) (sp : Bool) (i j : Nat) (x : W64) :
    (stepCell sp g 1 i j x).1 = plusProduct x (lane g.aEntry 8 i) (lane g.bEntry 8 j) := by
  have hone : (stepCell sp g 1 i j x).1 = (cellStep sp g i j 0 x (blockAt g i j)).1 := by
    simp [stepCell, hv, hk, List.range_succ]
  rw [hone, cellStep_int8 h, aElem_int8 h, bElem_int8 h, cellInt_int8, hv]
  simp

/-- In mvec column j takes the step's k-step j, where it has so many (R156). -/
theorem stepCell_mvec_int8 {g : Feed} (h : Int8 g.f) (hv : fVec g.f = true) (hk : g.k = 0) (sp : Bool) {n : Nat} (hn : n ≤ stepsA sp 2) (i j : Nat) (x : W64) :
    (stepCell sp g n i j x).1 = if j < n then plusProduct x (lane g.aEntry 8 (arrayRows sp * j + i)) (lane g.bEntry 8 j) else x := by
  by_cases hj : j < n
  · have hone : (stepCell sp g n i j x).1 = (cellStep sp g i j j x (blockAt g i j)).1 := by
      simp [stepCell, hv, hk, isMx_int8 h, Nat.not_le.2 hj]
    have hs : stepsA sp 2 ≤ 4 := by cases sp <;> decide
    rw [hone, cellStep_int8 h, aElem_int8 h, bElem_int8 h, cellInt_int8, hv, if_pos hj, Nat.mod_eq_of_lt (by omega), if_pos rfl, Nat.mod_eq_of_lt (by omega)]
  · simp [stepCell, hv, hj, Nat.not_lt.1 hj]

theorem clocked_mmul {sp : Bool} {f : MatrixFields} (hv : fVec f = false) (i j : Nat) :
    clocked sp f i j = true ↔ i ≤ f.rows.toNat ∧ i < arrayRows sp ∧ j ≤ f.cols.toNat := by
  simp [clocked, hv, and_assoc]

theorem clocked_mvec {sp : Bool} {f : MatrixFields} (hv : fVec f = true) (i j : Nat) :
    clocked sp f i j = true ↔ i ≤ f.rows.toNat ∧ i < arrayRows sp ∧ j < stepsA sp f.fmtA.toNat := by
  simp [clocked, hv, and_assoc]

/-- The first step of an INT8 mmul, at each cell. -/
theorem cells_mmul_int8 {g : Feed} (h : Int8 g.f) (hv : fVec g.f = false) (hk : g.k = 0) (sp : Bool) (p : Plane) (i : Fin 128) (j : Fin 64) :
    vget (vget (stepCells sp g (stepLen sp g) p) i) j =
      if i.val ≤ g.f.rows.toNat ∧ i.val < arrayRows sp ∧ j.val ≤ g.f.cols.toNat then
        plusProduct (vget (vget p.cells i) j) (lane g.aEntry 8 i.val) (lane g.bEntry 8 j.val)
      else vget (vget p.cells i) j := by
  have hlen : stepLen sp g = 1 := by simp [stepLen, feedSteps_int8 h, hv, passSteps_int8 h, hk]
  rw [vget_stepCells, hlen, stepCell_mmul_int8 h hv hk]
  simp only [clocked_mmul hv]

/-- The first step of an INT8 mvec, at each cell. -/
theorem cells_mvec_int8 {g : Feed} (h : Int8 g.f) (hv : fVec g.f = true) (hk : g.k = 0) (sp : Bool) (p : Plane) (i : Fin 128) (j : Fin 64) :
    vget (vget (stepCells sp g (stepLen sp g) p) i) j =
      if i.val ≤ g.f.rows.toNat ∧ i.val < arrayRows sp ∧ j.val < (if sp then 4 else 2) ∧ j.val ≤ g.f.klen.toNat then
        plusProduct (vget (vget p.cells i) j) (lane g.aEntry 8 (arrayRows sp * j.val + i.val)) (lane g.bEntry 8 j.val)
      else vget (vget p.cells i) j := by
  have hlen : stepLen sp g = min (stepsA sp 2) (g.f.klen.toNat + 1) := by simp [stepLen, feedSteps_int8 h, hv, passSteps_int8 h, hk]
  have hsteps : stepsA sp g.f.fmtA.toNat = stepsA sp 2 := by
    obtain ⟨hA, -⟩ := h
    rw [hA]
    rfl
  have hlt : j.val < stepLen sp g ↔ j.val < stepsA sp 2 ∧ j.val ≤ g.f.klen.toNat := by omega
  rw [vget_stepCells, stepCell_mvec_int8 h hv hk sp (hlen ▸ Nat.min_le_left _ _), ← ite_and]
  simp only [clocked_mvec hv, hsteps, hlt, ← stepsA_int8, and_assoc, and_self_left]

/-! ### The issue of a pass (R148–R150) -/

theorem opc_mfields {b : RawBundle} (h : matrixOp b ≠ 0) : (mfields b).opc.toNat = matrixOp b := by
  have hen : enMatrix b = true := by
    by_contra hno
    exact h (if_neg hno)
  simp [matrixOp, hen, mfields, fieldNat, Nat.shiftRight_eq_div_pow]

/-- A row of a pass, and no other, has an opcode below 0x20 (R141). -/
theorem isFeed_of_row {w : SeqId} {r : Instr × (RawBundle → Bool)} {b : RawBundle} (hr : r ∈ matrixRows w) (hb : r.2 b = true) (hlt : matrixOp b < 0x20) :
    isFeed (matrixOp b) = true := by
  have hop : 0x10 ≤ matrixOp b := by
    simp only [matrixRows, List.mem_cons, List.not_mem_nil, or_false] at hr
    rcases hr with rfl | rfl | rfl | rfl | rfl | rfl | rfl | rfl | rfl | rfl <;> have := of_decide_eq_true hb <;> omega
  simp [isFeed, hop, Nat.le_of_lt_succ hlt]

/-- The feed of a bundle's pass on its issue tick. -/
def passFeed (d : Device) (c : CtxId) (w : SeqId) (b : RawBundle) : Feed :=
  newFeed (mfields b) w.seq (physPc d c ((getSeq d w).pc.setWidth 12)) (tickOf d c)

theorem plane_passFeed (d : Device) (c : CtxId) (w : SeqId) {b : RawBundle} (h : matrixOp b ≠ 0) : (passFeed d c w b).plane = mPlane (matrixOp b) :=
  congrArg mPlane (opc_mfields h)

/-- The plane of a bundle's pass as the pass finds it. -/
def passPlane (b : RawBundle) (p : Plane) : Plane :=
  { (if mContinues (matrixOp b) then p else clearCells p) with
    st := .feeding
    vecFed := isMvec (matrixOp b)
    fmtA := if isMvec (matrixOp b) then (mfields b).fmtA else p.fmtA }

/-- A device whose bundle's pass is about to take its first tick. -/
def passStart (d : Device) (c : CtxId) (w : SeqId) (b : RawBundle) : Device := modMatrix d c fun m =>
  { m with
    feed := some (passFeed d c w b)
    planes := vmod m.planes (mPlane (matrixOp b)) (passPlane b) }

theorem matrixEffect_feed {d : Device} {c : CtxId} {w : SeqId} {b : RawBundle} (h : isFeed (matrixOp b) = true) :
    matrixEffect d c w b = feedTick (passStart d c w b) c := by
  rw [matrixEffect]
  exact if_pos h

theorem matrixOf_passStart (d : Device) (c : CtxId) (w : SeqId) (b : RawBundle) : matrixOf (passStart d c w b) c =
    { matrixOf d c with
      feed := some (passFeed d c w b)
      planes := vmod (matrixOf d c).planes (mPlane (matrixOp b)) (passPlane b) } := matrixOf_modMatrix _ _ _

theorem planeOf_passStart (d : Device) (c : CtxId) (w : SeqId) (b : RawBundle) :
    planeOf (passStart d c w b) c (mPlane (matrixOp b)) = passPlane b (planeOf d c (mPlane (matrixOp b))) := by
  rw [planeOf, matrixOf_passStart]
  exact vget_vmod_same _ _ _

theorem readV_passStart (d : Device) (c : CtxId) (w : SeqId) (b : RawBundle) (n : Nat) :
    readV (getCore (passStart d c w b) c.core) c.ctx n = readV (getCore d c.core) c.ctx n :=
  getCore_modCore_proj (fun k => readV k c.ctx n) d c.core c.core fun _ => rfl

theorem isSplit_passStart (d : Device) (c : CtxId) (w : SeqId) (b : RawBundle) : isSplit (passStart d c w b) c.core = isSplit d c.core :=
  isSplit_modUnit _ _ _ _

/-- A pass clears its plane or goes on from what it holds (R150). -/
theorem cells_passPlane (b : RawBundle) (p : Plane) (i : Fin 128) (j : Fin 64) :
    vget (vget (passPlane b p).cells i) j = if matrixOp b / 2 % 2 = 1 then vget (vget p.cells i) j else 0 := by
  simp only [passPlane, mContinues, decide_eq_true_eq]
  split
  · rfl
  · simp [clearCells, vget]

/-- The row of a pass leaves its plane fed and the feed in progress, and the plane's cells as the issue tick's feed leaves them. -/
theorem answers_pass {s : State} {w : SeqId} {b : RawBundle} {r : Instr × (RawBundle → Bool)} {x : Vector (Vector W64 64) 128} {P : Plane → Prop}
    (h : Issues s w b) (ho : OnlyMatrix b) (hr : r ∈ matrixRows w) (hb : r.2 b = true) (hlt : matrixOp b < 0x20)
    (hx : FeedLeaves (ctxOf s.dev w) (passFeed s.dev (ctxOf s.dev w) w b) (passStart s.dev (ctxOf s.dev w) w b)
      (feedTick (passStart s.dev (ctxOf s.dev w) w b) (ctxOf s.dev w)) x)
    (hP : P { passPlane b (planeOf s.dev (ctxOf s.dev w) (mPlane (matrixOp b))) with cells := x }) :
    Answers r.1 s fun e => OnlyMoves s w b e ∧
      (∃ g, (matrixOf e (ctxOf s.dev w)).feed = some g ∧ g.f = mfields b ∧ g.plane = mPlane (matrixOp b) ∧ g.seq = w.seq) ∧
      (planeOf e (ctxOf s.dev w) (mPlane (matrixOp b))).st = .feeding ∧
      (planeOf e (ctxOf s.dev w) (mPlane (matrixOp b))).vecFed = decide (0x18 ≤ matrixOp b) ∧
      (∀ k, k ≠ mPlane (matrixOp b) → planeOf e (ctxOf s.dev w) k = planeOf s.dev (ctxOf s.dev w) k) ∧
      (matrixOf e (ctxOf s.dev w)).drains = (matrixOf s.dev (ctxOf s.dev w)).drains ∧ P (planeOf e (ctxOf s.dev w) (mPlane (matrixOp b))) := by
  have hfeed := isFeed_of_row hr hb hlt
  obtain ⟨⟨g, hg, hf, hplane, hseq⟩, hplanes, hdrains⟩ := hx
  have hopc := plane_passFeed s.dev (ctxOf s.dev w) w (b := b) fun h0 => by simp [h0, isFeed] at hfeed
  have hvec : isMvec (matrixOp b) = decide (0x18 ≤ matrixOp b) := by simp [isMvec, Nat.le_of_lt_succ hlt]
  rw [matrixOf_passStart, hopc, vmod_vmod_same] at hplanes
  rw [matrixOf_passStart] at hdrains
  refine answers_matrixEffect h ho hr hb (matrixEffect_feed hfeed) ?_
  simp only [planeOf, matrixOf_advanceStream, hplanes, hdrains, vget_vmod_same]
  exact ⟨⟨g, hg, hf, hplane.trans hopc, hseq⟩, rfl, hvec, fun k hk => vget_vmod_other _ _ _ _ hk.symm, trivial, hP⟩

/-- A pass leaves what it does not clock as it found it, and every cell where its first tick makes no step. -/
theorem passCells (d : Device) (c : CtxId) (w : SeqId) (b : RawBundle) (hop : matrixOp b ≠ 0) :
    ∃ x, FeedLeaves c (passFeed d c w b) (passStart d c w b) (feedTick (passStart d c w b) c) x ∧
      (∀ i j, clocked (isSplit d c.core) (mfields b) i.val j.val = false →
        vget (vget x i) j = vget (vget (passPlane b (planeOf d c (mPlane (matrixOp b)))).cells i) j) ∧
      (isMx (mfields b) = true ∨ (feedSteps (isSplit d c.core) (mfields b)).2 ≠ 1 → x = (passPlane b (planeOf d c (mPlane (matrixOp b)))).cells) := by
  obtain ⟨x, hx, hcase⟩ := feedTick_leaves (g := passFeed d c w b) (by rw [matrixOf_passStart]) rfl
  rw [plane_passFeed _ _ _ hop, planeOf_passStart, isSplit_passStart] at hcase
  refine ⟨x, hx, fun i j hoff => ?_, fun hno => ?_⟩
  · rcases hcase with rfl | ⟨-, -, g, n, hg, rfl⟩
    · rfl
    · have hclock : clocked (isSplit d c.core) g.f i.val j.val = false := by
        rw [hg]
        exact hoff
      rw [vget_stepCells, if_neg (by simp [hclock])]
  · rcases hcase with rfl | ⟨hscale, h1, -⟩
    · rfl
    · have hmx : isMx (mfields b) = false := by simpa [scaleTick, passFeed, newFeed] using hscale
      rcases hno with hno | hno
      · exact absurd hno (by simp [hmx])
      · exact absurd h1 hno

/-- The feed of an INT8 pass with the entries of its registers. -/
def readFeed (d : Device) (c : CtxId) (w : SeqId) (b : RawBundle) : Feed :=
  withEntries (passFeed d c w b) (readV (getCore d c.core) c.ctx (mfields b).srcA.toNat) (readV (getCore d c.core) c.ctx (mfields b).srcB.toNat)

/-- The first tick of an INT8 pass of registers makes its first step. -/
theorem feedLeaves_int8 {d : Device} {c : CtxId} {w : SeqId} {b : RawBundle} (hop : matrixOp b ≠ 0) (h : Int8 (mfields b))
    (hA : (mfields b).srcA.toNat < 16) (hB : (mfields b).srcB.toNat < 16) :
    FeedLeaves c (passFeed d c w b) (passStart d c w b) (feedTick (passStart d c w b) c) (stepCells (isSplit d c.core) (readFeed d c w b)
      (stepLen (isSplit d c.core) (readFeed d c w b)) (passPlane b (planeOf d c (mPlane (matrixOp b))))) := by
  rw [feedTick_registers (g := passFeed d c w b) (by rw [matrixOf_passStart]) rfl rfl hA hB (isMx_int8 h) (congrArg Prod.snd (feedSteps_int8 h _)), readV_passStart,
    readV_passStart, ← planeOf_passStart d c w b, ← plane_passFeed d c w hop, ← isSplit_passStart d c w b]
  exact feedLeaves_finishStep ⟨rfl, rfl, rfl⟩ rfl rfl


/-! ### The end of a pass, mdrain and mstat (R150, R152, R158) -/

/-- At its end a pass that holds leaves its plane open and starts no drain (R150). -/
theorem endFeed_holds {d : Device} {c : CtxId} {g : Feed} (h : mHolds g.f.opc.toNat = true) : matrixOf (endFeed d c g) c =
    { matrixOf d c with feed := none, planes := vmod (matrixOf d c).planes g.plane fun p => { p with st := .open } } := by
  rw [endFeed, if_pos h, matrixOf_modMatrix]

/-- The drain of a matrix slot that starts on tick t. -/
def drainFrom (f : MatrixFields) (p : Fin 2) (seq : Fin 4) (pc : BitVec 12) (t issued : Nat) : Drain :=
  { f := f, plane := p, seq := seq, pc := pc, dst := f.dst, rows := f.rows, cols := f.cols, exact := f.exact, tf := t, next := 0, waiting := false,
    nextTick := t + 1, done := false, issued := issued }

/-- At its end any other pass starts the drain of its plane (R150). -/
theorem endFeed_drains {d : Device} {c : CtxId} {g : Feed} (h : mHolds g.f.opc.toNat = false) : matrixOf (endFeed d c g) c =
    { matrixOf d c with
      feed := none
      drains := (matrixOf d c).drains ++ [drainFrom g.f g.plane g.seq g.pc (tickOf d c) g.issued]
      planes := vmod (matrixOf d c).planes g.plane fun p => { p with st := .draining } } := by
  rw [endFeed, if_neg (by simp [h]), matrixOf_modMatrix]
  rfl

theorem matrixEffect_mdrain {d : Device} {c : CtxId} {w : SeqId} {b : RawBundle} (h : matrixOp b / 2 = 16) : matrixEffect d c w b =
    modMatrix d c fun m => { m with
      drains := m.drains ++ [drainFrom (mfields b) (mPlane (matrixOp b)) w.seq (physPc d c ((getSeq d w).pc.setWidth 12)) (tickOf d c) (tickOf d c)]
      planes := vmod m.planes (mPlane (matrixOp b)) fun p => { p with st := .draining } } := by
  have hop : matrixOp b = 0x20 ∨ matrixOp b = 0x21 := by omega
  rcases hop with hop | hop <;> simp [matrixEffect, hop, isFeed, isMdrain, drainFrom]

/-- The flags of the array are cleared as mstat reads them. -/
def statRead (d : Device) (c : CtxId) : Device := modMatrix d c fun m => { m with flags := { m.flags with val := 0 } }

theorem matrixEffect_mstat {d : Device} {c : CtxId} {w : SeqId} {b : RawBundle} (h : matrixOp b = 0x28) :
    matrixEffect d c w b = putResult (statRead d c) c (mfields b).dst 0 ((matrixOf d c).flags.val.setWidth 2048) (tickOf d c) := by
  simp [matrixEffect, h, isFeed, isMdrain, statRead]

theorem putResult_register {d : Device} {c : CtxId} {code : BitVec 5} (n : Nat) (v : Entry) (t : Nat) (h : code.toNat < 16) :
    putResult d c code n v t = modCore d c.core fun k => writeV k c.ctx (code.toNat + n) v t := by
  rw [putResult, dstQueue_register h]
  exact if_pos h

theorem putResult_queue {d : Device} {c : CtxId} {code : BitVec 5} {q : Fin 4} (n : Nat) (v : Entry) (t : Nat) (h : dstQueue code = some q) :
    putResult d c code n v t = modLq d c q fun x => pushEntry x (tickOf d c) (some v) false := by
  rw [putResult, h]
  rfl

end Sys2Proof.Machine

open Sys2Proof.Machine

/-- Settles O47: a pass comes to its first feed tick on the plane that it cleared or goes on from, whose INT8 step is read cell by cell; mdrain and
mstat come to the matrix slot's effect. -/
theorem matrixOperations : Obligations.MatrixOperations := by
  unfold Obligations.MatrixOperations
  refine ⟨?_, fun d c g => ?_, ?_⟩
  · intro s w b h ho r hr hb hlt c sp m p old z A B rows plus fed are
    have hop : matrixOp b ≠ 0 := fun h0 => by simpa [h0, isFeed] using isFeed_of_row hr hb hlt
    have hfed : ∀ {x} {Cells : Plane → Prop}, FeedLeaves c (passFeed s.dev c w b) (passStart s.dev c w b) (feedTick (passStart s.dev c w b) c) x →
        Cells { passPlane b old with cells := x } → fed Cells := fun hx hC => answers_pass h ho hr hb hlt hx hC
    clear_value fed
    have hz : ∀ i j, vget (vget (passPlane b old).cells i) j = z i j := cells_passPlane b old
    obtain ⟨x, hx, hoff, hall⟩ := passCells s.dev c w b hop
    refine ⟨hfed hx fun i j hc => (hoff i j hc).trans (hz i j), fun hno => hfed hx fun i j => ?_, fun hvec hA hB hfA hfB he => ?_,
      fun hvec hA hB hfA hfB he => ?_⟩
    · exact (congrArg (fun y => vget (vget y i) j) (hall hno)).trans (hz i j)
    · have hv : fVec m = false := by
        rw [fVec, opc_mfields hop]
        simp [isMvec, hvec]
      refine hfed (feedLeaves_int8 hop ⟨hfA, hfB, he⟩ hA hB) fun i j => ?_
      simp only [← hz]
      exact cells_mmul_int8 (g := readFeed s.dev c w b) ⟨hfA, hfB, he⟩ hv rfl sp _ i j
    · have hv : fVec m = true := by
        rw [fVec, opc_mfields hop]
        simp [isMvec, hvec, Nat.le_of_lt_succ hlt]
      refine hfed (feedLeaves_int8 hop ⟨hfA, hfB, he⟩ hA hB) fun i j => ?_
      simp only [← hz]
      exact cells_mvec_int8 (g := readFeed s.dev c w b) ⟨hfA, hfB, he⟩ hv rfl sp _ i j
  · rcases Bool.eq_false_or_eq_true (mHolds g.f.opc.toNat) with hh | hh
    · simp [planeOf, endFeed_holds hh, hh]
    · simp [planeOf, endFeed_drains hh, hh, drainFrom]
  · intro s w b h ho c m
    have hstat : matrixOp b = 0x28 → ∀ {d : Device} {P : Device → Prop}, matrixEffect s.dev c w b = d → P (advanceStream s.dev d c w b) →
        Answers (.mstat w) s fun e => OnlyMoves s w b e ∧ P e := fun hop d P hd hP =>
      answers_matrixEffect (r := (.mstat w, fun b => decide (matrixOp b = 0x28))) h ho (by simp [matrixRows]) (by simp [hop]) hd hP
    refine ⟨fun hop => ?_, fun hop hdst => ?_, fun q hop hq => ?_⟩
    · exact acts_matrixEffect (r := (.mdrain w, fun b => decide (matrixOp b / 2 = 16))) h ho (by simp [matrixRows]) (by simp [hop])
        (matrixEffect_mdrain hop)
    · refine hstat hop ((matrixEffect_mstat hop).trans (putResult_register _ _ _ hdst)) ⟨?_, ?_⟩
      · rw [vregPend_advanceStream]
        exact (vregPend_writeV _ _ _ _ _).trans (by rw [statRead, vregPend_modMatrix, modMatrix, isSplit_modUnit]; rfl)
      · rw [matrixOf_advanceStream, matrixOf_writeV, statRead, matrixOf_modMatrix]
    · refine hstat hop ((matrixEffect_mstat hop).trans (putResult_queue _ _ _ hq)) ⟨?_, ?_⟩
      · rw [lqOf_advanceStream, lqOf_modLq_same, statRead, tickOf_modMatrix, modMatrix, lqOf_modUnit]
        rfl
      · rw [matrixOf_advanceStream, matrixOf, getUnit_modLq, ← matrixOf, statRead, matrixOf_modMatrix]
end

section
/-! O51: the hub of the barriers, the way of its releases, and its violations. -/

open Sys2Proof.Claims

namespace Sys2Proof.Machine

/-! ### Die links that are up (R252) -/

/-- The hub link of every participant's die is up. -/
def LinksUp (d : Device) (b : Barrier) : Prop := ∀ p ∈ b.parts, partOpen d p = true

theorem LinksUp.sigOpen {d : Device} {b : Barrier} (h : LinksUp d b) (g : BarSignal) : sigOpen d b g = true := by
  unfold Machine.sigOpen
  split
  next p hp => exact h p (List.mem_of_getElem? hp)
  next => rfl

theorem LinksUp.barBlocked {d : Device} {b : Barrier} (h : LinksUp d b) : barBlocked d b = false := by
  have hparts : (b.parts.any fun p => !partOpen d p) = false := List.any_eq_false.2 fun p hp => by simp [h p hp]
  simp [Machine.barBlocked, h.sigOpen, hparts]

theorem barPart_mem {b : Barrier} {k : Nat} (h : k < b.parts.length) : barPart b k ∈ b.parts := by
  rw [barPart, List.getElem?_eq_getElem h]
  exact List.getElem_mem h

/-- A change of a participant that leaves who it is leaves its link. -/
theorem LinksUp.modBarPart {d : Device} {b : Barrier} (h : LinksUp d b) (k : Nat) {f : BarPart → BarPart} (hf : ∀ p, (f p).who = p.who) :
    LinksUp d (modBarPart b k f) := by
  intro p hp
  rw [parts_modBarPart, List.mem_map] at hp
  obtain ⟨i, hi, rfl⟩ := hp
  have hopen := h _ (barPart_mem (List.mem_range.1 hi))
  split
  · rw [partOpen, hf]
    exact hopen
  · exact hopen

/-- A context that changes is not marked where nothing of it is delayed. -/
theorem delayMarked_modBar {d : Device} {k : Fin 64} {f : Barrier → Barrier} (h : LinksUp d (f (getBar d k))) :
    delayMarked (modBar d k f) k = modBar d k f := by
  have hup : LinksUp (modBar d k f) (f (getBar d k)) := h
  simp [delayMarked, hup.barBlocked]

theorem cores_noteReach (d : Device) (k : Fin 64) : (noteReach d k).cores = d.cores := by
  have hmark : (delayMarked d k).cores = d.cores := by
    unfold delayMarked
    split <;> rfl
  rw [noteReach_eq]
  split
  · split
    · exact hmark
    · exact hmark
  · exact hmark

/-! ### An event of the hub

Each of the three counts and releases changes one context, and notes what the die links then delay of it. -/

theorem answers_mono {i : Instr} {s : State} {P Q : Device → Prop} (h : Answers i s P) (hpq : ∀ e, P e → Q e) : Answers i s Q :=
  h.imp fun e he => he.imp_right (hpq e)

theorem modBar_congr {d : Device} {k : Fin 64} {f g : Barrier → Barrier} (h : f (getBar d k) = g (getBar d k)) : modBar d k f = modBar d k g := by
  have hv : vmod d.barriers k f = vmod d.barriers k g := congrArg (vset d.barriers k) h
  rw [modBar, hv, modBar]

/-- Over links that are up the event changes its context alone, and no core. -/
theorem answers_hubEvent {i : Instr} {s : State} {k : Fin 64} {d : Device} {f : Barrier → Barrier} (hi : Gives i s d)
    (hd : d = noteReach (modBar s.dev k f) k) (hup : LinksUp s.dev (f (getBar s.dev k))) :
    Answers i s fun e => getBar e k = f (getBar s.dev k) ∧ (∀ j, j ≠ k → getBar e j = getBar s.dev j) ∧ e.cores = s.dev.cores := by
  have hbar : ∀ j, getBar (noteReach (modBar s.dev k f) k) j = getBar (modBar s.dev k f) j := fun j => by
    rw [getBar, noteReach_barriers, delayMarked_modBar hup, getBar]
  subst hd
  refine ⟨_, hi, ?_, fun j hj => ?_, cores_noteReach _ _⟩
  · rw [hbar, getBar_modBar_same]
  · rw [hbar, getBar_modBar_other _ _ _ _ hj.symm]

/-- Where nothing has been delayed before either, the event leaves the context that it leaves and no more. -/
theorem gives_hubEvent {i : Instr} {s : State} {k : Fin 64} {d : Device} {f g : Barrier → Barrier} (hi : Gives i s d)
    (hd : d = noteReach (modBar s.dev k f) k) (hup : LinksUp s.dev (f (getBar s.dev k))) (hr : (f (getBar s.dev k)).retried = false)
    (hfg : f (getBar s.dev k) = g (getBar s.dev k)) : Gives i s (modBar s.dev k g) := by
  have hnote : noteReach (modBar s.dev k f) k = modBar s.dev k f := by
    rw [noteReach_eq, delayMarked_modBar hup, getBar_modBar_same, hr]
    split <;> rfl
  rw [← modBar_congr hfg, ← hnote, ← hd]
  exact hi

theorem barTurn_running {d : Device} {b : Barrier} {t : Nat} (hr : barRunning d b = true) (ht : t ≤ barTick d b) : barTurn d b t = true := by
  simp [barTurn, hr, ht]

/-- The signal that the hub takes next has come due. -/
theorem nextSignal_due {d : Device} {b : Barrier} {depart : Bool} {g : BarSignal} (h : nextSignal d b depart = some g) : g.due ≤ barTick d b := by
  have hg := List.find?_some h
  simp only [Bool.and_eq_true, decide_eq_true_eq] at hg
  obtain ⟨⟨⟨-, hdue⟩, -⟩, -⟩ := hg
  exact hdue

/-- No signal that a die link holds back reaches the hub. -/
theorem nextSignal_closed {d : Device} {b : Barrier} (h : ∀ g ∈ b.signals, sigOpen d b g = false) (depart : Bool) : nextSignal d b depart = none :=
  List.find?_eq_none.2 fun g hg => by simp [h g hg]

/-! ### Arrivals (R247, R248, R251, R253) -/

theorem countFull_release {b : Barrier} (hx : b.extended = false) (hp : b.parts ≠ []) (t : Nat) :
    countFull b t = { b with releaseAt := if b.counted.toNat = b.parts.length then some (t + 1) else b.releaseAt } := by
  by_cases hfull : b.counted.toNat = b.parts.length
  · simp [countFull, hx, hp, hfull]
  · simp [countFull, hfull]

theorem countFull_extended {b : Barrier} (hx : b.extended = true) (hp : b.parts ≠ []) (hfull : b.counted.toNat = b.parts.length) (t : Nat) :
    countFull b t = { b with localDone := true, reachAt := some (t + 13) } := by
  simp [countFull, hx, hp, hfull]

/-- A count that is not full changes nothing. -/
theorem countFull_short {b : Barrier} (h : b.counted.toNat ≠ b.parts.length) (t : Nat) : countFull b t = b := by simp [countFull, h]

theorem countFull_keeps {β : Type} (g : Barrier → β) (hg : ∀ (b : Barrier) l x r, g { b with localDone := l, reachAt := x, releaseAt := r } = g b) (b : Barrier)
    (t : Nat) : g (countFull b t) = g b := by
  unfold countFull
  split
  · split
    · exact hg b true (some (t + 13)) b.releaseAt
    · exact hg b b.localDone b.reachAt (some (t + 1))
  · rfl

/-- An arrival changes no participant's link. -/
theorem linksUp_hubArrival {d : Device} {b : Barrier} (h : LinksUp d b) (g : BarSignal) (t : Nat) : LinksUp d (hubArrival b g t) := by
  unfold hubArrival
  dsimp only
  split
  · rw [LinksUp, countFull_keeps Barrier.parts fun _ _ _ _ => rfl]
    exact h
  · split
    · exact LinksUp.modBarPart (b := { b with held := b.held + 1 }) h _ fun _ => rfl
    · exact h

theorem retried_hubArrival (b : Barrier) (g : BarSignal) (t : Nat) : (hubArrival b g t).retried = b.retried := by
  unfold hubArrival
  dsimp only
  split
  · exact countFull_keeps Barrier.retried (fun _ _ _ _ => rfl) _ t
  · split <;> rfl

/-- The context after the arrival g has been taken. -/
def arrivalTaken (g : BarSignal) (b : Barrier) : Barrier := hubArrival { b with signals := b.signals.erase g } g g.due

/-- A context whose count has the arrival g. -/
def withArrival (g : BarSignal) (b : Barrier) : Barrier := { b with signals := b.signals.erase g, counted := b.counted + 1 }

theorem arrivalTaken_counted {b : Barrier} {g : BarSignal} (hg : g.round = b.round.toNat) (h0 : b.awaitDep = 0) :
    arrivalTaken g b = countFull (withArrival g b) g.due := by
  simp [arrivalTaken, hubArrival, withArrival, hg, h0]

theorem arrivalTaken_held {b : Barrier} {g : BarSignal} (hg : g.round = b.round.toNat + 1) : arrivalTaken g b =
    modBarPart { b with signals := b.signals.erase g, held := b.held + 1 } g.part fun p => { p with heldNext := true } := by
  simp [arrivalTaken, hubArrival, hg]

theorem arrivalTaken_refused {b : Barrier} {g : BarSignal} (h : g.round ≠ b.round.toNat) (hn : g.round ≠ b.round.toNat + 1) : arrivalTaken g b =
    { b with signals := b.signals.erase g, violation := true, halts := b.halts ++ [((barPart b g.part).who, g.due + 10, g.pc)] } := by
  simp [arrivalTaken, hubArrival, h, hn, barPart]

theorem arrivalCounted_eq {d : Device} {k : Fin 64} {g : BarSignal} (hg : nextSignal d (getBar d k) false = some g)
    (hr : barRunning d (getBar d k) = true) : arrivalCounted d k = noteReach (modBar d k (arrivalTaken g)) k := by
  simp only [arrivalCounted, hg, barTurn_running hr (nextSignal_due hg), if_true]
  rfl

theorem gives_barrierArrivalCounted (s : State) (k : Fin 64) : Gives (.barrierArrivalCounted k) s (arrivalCounted s.dev k) := rfl

theorem linksUp_arrivalTaken {d : Device} {b : Barrier} (h : LinksUp d b) (g : BarSignal) : LinksUp d (arrivalTaken g b) :=
  linksUp_hubArrival (b := { b with signals := b.signals.erase g }) h g g.due

/-- An arrival with nothing delayed leaves its context as the hub leaves it. -/
theorem gives_arrival {s : State} {k : Fin 64} {g : BarSignal} {f : Barrier → Barrier} (hg : nextSignal s.dev (getBar s.dev k) false = some g)
    (hrun : barRunning s.dev (getBar s.dev k) = true) (hup : LinksUp s.dev (getBar s.dev k)) (hr : (getBar s.dev k).retried = false)
    (hf : arrivalTaken g (getBar s.dev k) = f (getBar s.dev k)) : Gives (.barrierArrivalCounted k) s (modBar s.dev k f) :=
  gives_hubEvent (gives_barrierArrivalCounted s k) (arrivalCounted_eq hg hrun) (linksUp_arrivalTaken hup g) ((retried_hubArrival _ _ _).trans hr) hf

/-! ### Departures (R250) -/

/-- The next round begins, with the arrivals that are held for it. -/
def nextRound (b : Barrier) : Barrier :=
  { b with awaitDep := 0, round := b.round + 1, counted := b.held, held := 0, localDone := false, fabDone := false,
           parts := b.parts.map fun p => { p with heldNext := false } }

theorem hubDeparture_last {b : Barrier} (h : b.awaitDep = 1) (t : Nat) : hubDeparture b t = countFull (nextRound b) t := by
  simp [hubDeparture, h, nextRound]

theorem hubDeparture_more {b : Barrier} (h : b.awaitDep ≠ 1) (t : Nat) : hubDeparture b t = { b with awaitDep := b.awaitDep - 1 } := by
  have hne : (b.awaitDep - 1 != 0) = true := bne_iff_ne.2 fun e => h (sub_eq_zero.1 e)
  exact if_pos hne

theorem linksUp_nextRound {d : Device} {b : Barrier} (h : LinksUp d b) : LinksUp d (nextRound b) := by
  intro p hp
  obtain ⟨q, hq, rfl⟩ := List.mem_map.1 hp
  exact h q hq

theorem linksUp_hubDeparture {d : Device} {b : Barrier} (h : LinksUp d b) (t : Nat) : LinksUp d (hubDeparture b t) := by
  by_cases hlast : b.awaitDep = 1
  · rw [hubDeparture_last hlast, LinksUp, countFull_keeps Barrier.parts fun _ _ _ _ => rfl]
    exact linksUp_nextRound h
  · rw [hubDeparture_more hlast]
    exact h

/-- A context without the departure g, marked where g comes late. -/
def departing (g : BarSignal) (late : Bool) (b : Barrier) : Barrier := { b with signals := b.signals.erase g, retried := b.retried || late }

/-- The context after the departure g has been taken. -/
def departureTaken (g : BarSignal) (late : Bool) (b : Barrier) : Barrier := hubDeparture (departing g late b) g.due

theorem departureCounted_eq {d : Device} {k : Fin 64} {g : BarSignal} (hg : nextSignal d (getBar d k) true = some g)
    (hr : barRunning d (getBar d k) = true) :
    departureCounted d k = noteReach (modBar d k (departureTaken g (decide (g.due < barTick d (getBar d k))))) k := by
  simp only [departureCounted, hg, barTurn_running hr (nextSignal_due hg), if_true]
  rfl

theorem gives_barrierDepartureCounted (s : State) (k : Fin 64) : Gives (.barrierDepartureCounted k) s (departureCounted s.dev k) := rfl

theorem linksUp_departureTaken {d : Device} {b : Barrier} (h : LinksUp d b) (g : BarSignal) (late : Bool) : LinksUp d (departureTaken g late b) :=
  linksUp_hubDeparture (b := departing g late b) h g.due

theorem departureTaken_more {b : Barrier} (h : b.awaitDep ≠ 1) (g : BarSignal) (late : Bool) :
    departureTaken g late b = { departing g late b with awaitDep := b.awaitDep - 1 } := hubDeparture_more (b := departing g late b) h g.due

theorem departureTaken_last {b : Barrier} (h : b.awaitDep = 1) (g : BarSignal) (late : Bool) :
    departureTaken g late b = countFull (nextRound (departing g late b)) g.due := hubDeparture_last (b := departing g late b) h g.due

/-- The last departure opens the next round, which no held arrival begins. -/
theorem departureTaken_empty {b : Barrier} (h : b.awaitDep = 1) (h0 : b.held = 0) (hp : b.parts ≠ []) (g : BarSignal) (late : Bool) :
    departureTaken g late b = nextRound (departing g late b) := by
  have hshort : (nextRound (departing g late b)).counted.toNat ≠ (nextRound (departing g late b)).parts.length := by
    simpa [nextRound, departing, h0, eq_comm] using hp
  rw [departureTaken_last h, countFull_short hshort]

/-- The last departure opens the next round, which the held arrivals complete. -/
theorem departureTaken_full {b : Barrier} (h : b.awaitDep = 1) (hfull : b.held.toNat = b.parts.length) (hp : b.parts ≠ []) (hx : b.extended = false)
    (g : BarSignal) (late : Bool) : departureTaken g late b = { nextRound (departing g late b) with releaseAt := some (g.due + 1) } := by
  have hparts : (nextRound (departing g late b)).parts ≠ [] := by simpa [nextRound, departing] using hp
  have hcount : (nextRound (departing g late b)).counted.toNat = (nextRound (departing g late b)).parts.length := by
    simpa [nextRound, departing] using hfull
  rw [departureTaken_last h, countFull_release (b := nextRound (departing g late b)) hx hparts, if_pos hcount]

/-! ### The release (R248, R252) -/

/-- The context after its release that is due on tick t. -/
def releasedAt (t : Nat) (late : Bool) (b : Barrier) : Barrier :=
  { releaseRound b with releaseAt := none, reachAt := some (t + 12), retried := b.retried || late }

theorem barRelease_eq {d : Device} {k : Fin 64} {t : Nat} (ht : (getBar d k).releaseAt = some t) (hr : barRunning d (getBar d k) = true)
    (hle : t ≤ barTick d (getBar d k)) :
    barRelease d k = noteReach (modBar d k (releasedAt t (decide (t < barTick d (getBar d k))))) k := by
  simp only [barRelease, ht, barTurn_running hr hle, if_true]
  rfl

theorem gives_barrierRelease (s : State) (k : Fin 64) : Gives (.barrierRelease k) s (barRelease s.dev k) := rfl

/-! ### The release on its arrival (R248, R249, R253) -/

theorem barPart_modBarPart_proj {β : Type} (g : BarPart → β) (b : Barrier) (k : Nat) {f : BarPart → BarPart} (h : ∀ p, g (f p) = g p) (i : Nat) :
    g (barPart (modBarPart b k f) i) = g (barPart b i) := by
  by_cases hi : i = k
  · subst hi
    by_cases hlt : i < b.parts.length
    · rw [barPart_modBarPart_same hlt, h]
    · rw [barPart, barPart, List.getElem?_eq_none (by simpa using hlt), List.getElem?_eq_none (by simpa using hlt)]
  · rw [barPart_modBarPart_other b hi]

theorem barPart_leaveRound_proj {β : Type} (g : BarPart → β) (h : ∀ (p : BarPart) l x, g { p with left := l, leaving := x } = g p) (b : Barrier)
    (k t i : Nat) : g (barPart (leaveRound b k t) i) = g (barPart b i) := by
  rw [leaveRound, barPart_sendSignal]
  exact barPart_modBarPart_proj g b k (fun p => h p (p.left + 1) false) i

/-- A context whose participants the release has reached, before any of them leaves. -/
def releaseHere (t : Nat) (b : Barrier) : Barrier :=
  { b with reachAt := none, lastReach := some t, retried := false, parts := b.parts.map fun p => { p with reached := p.reached + 1 } }

/-- A participant whose later operation has come leaves. -/
def leaveDue (t : Nat) (b : Barrier) (k : Nat) : Barrier :=
  if decide ((barPart b k).left + 1 < (barPart b k).arrivals) && releaseSeen b (barPart b k) then leaveRound b k (max t (barPart b k).nextAt) else b

theorem reachAll_eq (b : Barrier) (t : Nat) : reachAll b t = (List.range b.parts.length).foldl (leaveDue t) (releaseHere t b) := by
  have hlen : (releaseHere t b).parts.length = b.parts.length := List.length_map _
  rw [← hlen]
  rfl

/-- What no participant changes as it leaves is as it was when the release came. -/
theorem reachAll_proj {β : Type} (g : Barrier → β) (h : ∀ b k t, g (leaveRound b k t) = g b) (b : Barrier) (t : Nat) :
    g (reachAll b t) = g (releaseHere t b) := by
  rw [reachAll_eq]
  refine List.foldlRecOn (motive := fun x => g x = g (releaseHere t b)) _ _ rfl fun x hx k _ => ?_
  unfold leaveDue
  split
  · exact (h x k _).trans hx
  · exact hx

theorem barPart_releaseHere {b : Barrier} {n : Nat} (h : n < b.parts.length) (t : Nat) :
    barPart (releaseHere t b) n = { barPart b n with reached := (barPart b n).reached + 1 } := by
  simp [barPart, releaseHere, h]

theorem barPart_reachAll {b : Barrier} {n : Nat} (h : n < b.parts.length) (t : Nat) :
    (barPart (reachAll b t) n).reached = (barPart b n).reached + 1 ∧ (barPart (reachAll b t) n).arrivals = (barPart b n).arrivals := by
  constructor
  · rw [reachAll_proj (fun x => (barPart x n).reached) fun b k t => barPart_leaveRound_proj BarPart.reached (fun _ _ _ => rfl) b k t n,
      barPart_releaseHere h]
  · rw [reachAll_proj (fun x => (barPart x n).arrivals) fun b k t => barPart_leaveRound_proj BarPart.arrivals (fun _ _ _ => rfl) b k t n,
      barPart_releaseHere h]

/-- A participant that has arrived in the next round already leaves as the release reaches it (R249). -/
theorem signals_reachAll_single {b : Barrier} {p : BarPart} (hp : b.parts = [p]) (hx : b.extended = false) (ha : p.left + 1 < p.arrivals)
    (hr : p.left ≤ p.reached) (hl : p.leaving = false) (t : Nat) : (reachAll b t).signals =
    b.signals ++ [{ depart := true, part := 0, round := p.left, due := max t p.nextAt + 10, pc := 0 }] := by
  have hpart : barPart (releaseHere t b) 0 = { p with reached := p.reached + 1 } := by
    rw [barPart_releaseHere (by simp [hp]), barPart, hp]
    rfl
  have hseen : releaseSeen (releaseHere t b) { p with reached := p.reached + 1 } = true := by
    have hext : (releaseHere t b).extended = false := hx
    simp [releaseSeen, Nat.lt_succ_of_le hr, hl, hext]
  have hleave : reachAll b t = leaveRound (releaseHere t b) 0 (max t p.nextAt) := by
    rw [reachAll_eq, hp]
    change leaveDue t (releaseHere t b) 0 = _
    rw [leaveDue, hpart, hseen]
    simp [ha]
  rw [hleave, signals_leaveRound, hpart]
  rfl

/-- The refresh windows of a context join the openings of its domain's run. -/
def addWindows (k : Fin 64) (g : Program) (first : Nat) (r : Run) : Run :=
  { r with openings := r.openings ++ (g.refresh.filter fun e => e.1 = k).map fun e => (first, e.2) }

/-- A device with the release of tick t at the participants, and the windows of a context that the fabric does not release. -/
def withRelease (d : Device) (k : Fin 64) (t : Nat) (i : DomId) (g : Program) : Device :=
  if (getBar d k).extended then modBar d k fun b => reachAll b t else modRun (modBar d k fun b => reachAll b t) i (addWindows k g (t + 1))

theorem getBar_withRelease (d : Device) (k : Fin 64) (t : Nat) (i : DomId) (g : Program) : getBar (withRelease d k t i g) k = reachAll (getBar d k) t := by
  unfold withRelease
  split
  · exact getBar_modBar_same _ _ _
  · exact getBar_modBar_same _ _ _

theorem cores_withRelease (d : Device) (k : Fin 64) (t : Nat) (i : DomId) (g : Program) : (withRelease d k t i g).cores = d.cores := by
  unfold withRelease
  split <;> rfl

theorem run_withRelease {d : Device} {k : Fin 64} (hx : (getBar d k).extended = false) (t : Nat) (i : DomId) (g : Program) :
    (getDom (withRelease d k t i g) i).run = (getDom d i).run.map (addWindows k g (t + 1)) := by
  rw [withRelease, if_neg (by simp [hx]), getDom_modRun_same]
  rfl

theorem gives_barrierReleaseArrive (s : State) (k : Fin 64) : Gives (.barrierReleaseArrive k) s (releaseArrive s.dev k) := rfl

theorem releaseArrive_eq {d : Device} {k : Fin 64} {t : Nat} {i : DomId} {g : Program} (ht : (getBar d k).reachAt = some t)
    (hc : (getBar d k).claim = some i) (hg : (getDom d i).prog = some g) (hr : barRunning d (getBar d k) = true) (hle : t ≤ barTick d (getBar d k))
    (hf : (getBar d k).retried = false) (hup : LinksUp d (getBar d k)) : releaseArrive d k = withRelease d k t i g := by
  have hall : (getBar d k).parts.all (partOpen d) = true := List.all_eq_true.2 hup
  have hwindows : barWindows (modBar d k fun b => reachAll b t) k i (t + 1) = modRun (modBar d k fun b => reachAll b t) i (addWindows k g (t + 1)) := by
    have hprog : (getDom (modBar d k fun b => reachAll b t) i).prog = some g := hg
    rw [barWindows, hprog]
    rfl
  simp [releaseArrive, ht, hc, barTurn_running hr hle, hall, hf, hwindows, withRelease]

/-- A release does not pass a link that is not up. -/
theorem releaseArrive_closed {d : Device} {k : Fin 64} {p : BarPart} (hp : p ∈ (getBar d k).parts) (hc : partOpen d p = false) : releaseArrive d k = d := by
  have hall : (getBar d k).parts.all (partOpen d) = false := List.all_eq_false.2 ⟨p, hp, by simp [hc]⟩
  simp only [releaseArrive, hall, Bool.and_false, Bool.false_eq_true, if_false]
  split <;> rfl

/-! ### Sense violations (R251) -/

theorem barriers_haltWith (d : Device) (c : CtxId) (code : Byte) (seq : Fin 4) (fetch : BitVec 12) (mask : BitVec 4) :
    (haltWith d c code seq fetch mask).barriers = d.barriers := by
  unfold haltWith
  split
  · rfl
  · have hseqs : ∀ x : Device, (forAll (seqsOf x c) x fun d n => modSeq d { core := c.core, seq := n } fun q =>
        if q.st = .running || q.st = .waiting then { q with st := .halted, cause := .none } else q).barriers = x.barriers := fun x =>
      forAll_proj Device.barriers (fun e n => modSeq_barriers e _ _) _ x
    dsimp only
    split
    · exact hseqs _
    · split
      · exact hseqs _
      · exact hseqs _

theorem barriers_haltCheck (d : Device) (c : CtxId) (code : Byte) (seq : Fin 4) (fetch : BitVec 12) (mask : BitVec 4) :
    (haltCheck d c code seq fetch mask).barriers = d.barriers := by
  by_cases hc : isHalted d c = true
  · simp [haltCheck, hc]
  · obtain ⟨x, hx, hgo⟩ := haltCheck_eq d c code seq fetch mask (by simpa using hc)
    rw [hgo, barriers_haltWith, hx.barriers]

theorem halt_haltCheck_same {d : Device} {c : CtxId} (code : Byte) (seq : Fin 4) (fetch : BitVec 12) (mask : BitVec 4) (hc : isHalted d c = false) :
    (getUnit (haltCheck d c code seq fetch mask) c).halt =
      { halted := true, tick := BitVec.ofNat 32 (tickOf d c), seqMask := mask, seq := seq, fetch := fetch, code := code } := by
  obtain ⟨x, hx, hgo⟩ := haltCheck_eq d c code seq fetch mask hc
  rw [hgo, halt_haltWith_same _ _ _ _ _ _ ((hx.isHalted c).trans hc), hx.tickOf]
  rfl

/-- A search that hits one element alone finds it. -/
theorem findSome?_finRange_only {n : Nat} {β : Type} {f : Fin n → Option β} {k : Fin n} {x : β} (hk : f k = some x) (ho : ∀ j, j ≠ k → f j = none) :
    (List.finRange n).findSome? f = some x := by
  cases hfind : (List.finRange n).findSome? f with
  | none =>
    rw [List.findSome?_eq_none_iff.1 hfind k (List.mem_finRange k)] at hk
    cases hk
  | some y =>
    obtain ⟨j, -, hj⟩ := List.exists_of_findSome?_eq_some hfind
    by_cases hjk : j = k
    · rw [← hj, hjk, hk]
    · rw [ho j hjk] at hj
      cases hj

/-- The one violation that waits halts its sender's core. -/
theorem violationHalt_eq {d : Device} {c : CtxId} {k : Fin 64} {p : Participant} {t : Nat} {pc : BitVec 12}
    (ho : ∀ j, j ≠ k → (getBar d j).halts = []) (hk : (getBar d k).halts = [(p, t, pc)]) (hp : p.ctx = c) (ht : t ≤ barTick d (getBar d k)) :
    violationHalt d c = haltCheck (modBar d k fun b => { b with halts := b.halts.erase (p, t, pc) }) c 0x09 (partSeq p).seq pc (1 <<< (partSeq p).seq.val) := by
  have hfind : ((List.finRange 64).findSome? fun k =>
      ((getBar d k).halts.find? fun h => h.1.ctx = c && decide (h.2.1 ≤ barTick d (getBar d k))).map fun h => (k, h)) = some (k, (p, t, pc)) :=
    findSome?_finRange_only (k := k) (by simp [hk, hp, ht]) fun j hj => by simp [ho j hj]
  simp only [violationHalt, hfind]

end Sys2Proof.Machine

open Sys2Proof.Machine

/-- Settles O51: over links that are up each event of the hub changes its context alone, as the count, the departure or the release does; a link
that is not up keeps every event as it was. -/
theorem barrierRoundsComplete : Obligations.BarrierRoundsComplete := by
  unfold Obligations.BarrierRoundsComplete
  refine ⟨?_, ?_, ?_, ?_, ?_, fun b p t hp hx ha hr hl => signals_reachAll_single hp hx ha hr hl t, ?_⟩
  · intro s k g b hg hrun hup
    have htaken : ∀ {f : Barrier → Barrier}, b.retried = false → arrivalTaken g b = f b → Gives (.barrierArrivalCounted k) s (modBar s.dev k f) :=
      fun hr hf => gives_arrival hg hrun hup hr hf
    have hany := answers_hubEvent (gives_barrierArrivalCounted s k) (arrivalCounted_eq hg hrun) (linksUp_arrivalTaken hup g)
    refine ⟨hany, fun hr hround h0 hx hp => htaken hr ?_, fun hr hround h0 hx hp hfull => htaken hr ?_, fun hround hlt => ?_, fun hr hne hnext => htaken hr ?_⟩
    · exact (arrivalTaken_counted hround h0).trans (countFull_release (b := withArrival g b) hx hp _)
    · exact (arrivalTaken_counted hround h0).trans (countFull_extended (b := withArrival g b) hx hp hfull _)
    · refine answers_mono hany fun e ⟨hk, hother, _⟩ => ?_
      rw [hk, arrivalTaken_held hround]
      exact ⟨rfl, rfl, congrArg BarPart.heldNext (barPart_modBarPart_same hlt _), rfl, hother⟩
    · exact arrivalTaken_refused hne hnext
  · intro s k t b ht hrun hle hup
    exact answers_hubEvent (f := releasedAt t _) (gives_barrierRelease s k) (barRelease_eq ht hrun hle) hup
  · intro s k t i g r ht hc hg hr hrun hle hf hup
    have hgo := gives_barrierReleaseArrive s k
    rw [releaseArrive_eq ht hc hg hrun hle hf hup] at hgo
    refine ⟨_, hgo, ?_⟩
    simp only [getBar_withRelease]
    refine ⟨reachAll_proj Barrier.reachAt (fun _ _ _ => rfl) _ t, reachAll_proj Barrier.lastReach (fun _ _ _ => rfl) _ t,
      fun n hn => barPart_reachAll hn t, fun hx => ?_, cores_withRelease _ _ _ _ _⟩
    rw [run_withRelease hx, hr]
    rfl
  · intro s k g b hg hrun hup
    have hany := answers_hubEvent (gives_barrierDepartureCounted s k) (departureCounted_eq hg hrun) (linksUp_departureTaken hup g _)
    refine ⟨fun hmore hr hdue => ?_, fun hlast h0 hp => ?_, fun hlast hheld hp hx => ?_⟩
    · have htaken : departureTaken g (decide (g.due < barTick s.dev b)) b = { b with signals := b.signals.erase g, awaitDep := b.awaitDep - 1 } := by
        rw [departureTaken_more hmore, hdue]
        simp [departing]
      refine gives_hubEvent (gives_barrierDepartureCounted s k) (departureCounted_eq hg hrun) (linksUp_departureTaken hup g _) ?_ htaken
      rw [htaken]
      exact hr
    · refine answers_mono hany fun e ⟨hk, hother, _⟩ => ?_
      rw [hk, departureTaken_empty hlast h0 hp]
      refine ⟨rfl, rfl, h0, rfl, rfl, rfl, fun p hp => ?_, hother⟩
      obtain ⟨q, -, rfl⟩ := List.mem_map.1 hp
      rfl
    · refine answers_mono hany fun e ⟨hk, _⟩ => ?_
      rw [hk, departureTaken_full hlast hheld hp hx]
      exact ⟨rfl, rfl, rfl⟩
  · intro s k p hp hclosed
    refine ⟨(gives_barrierReleaseArrive s k).trans (by rw [releaseArrive_closed hp hclosed]), fun hall => ?_⟩
    have hnone : ∀ depart, nextSignal s.dev (getBar s.dev k) depart = none := nextSignal_closed fun g hg => by simp [sigOpen, hall g hg, hclosed]
    exact ⟨(gives_barrierArrivalCounted s k).trans (by simp only [arrivalCounted, hnone]),
      (gives_barrierDepartureCounted s k).trans (by simp only [departureCounted, hnone])⟩
  · intro s c k p t pc he hc ho hk hp ht
    refine answers_of_onDev rfl ((if_pos he).trans (violationHalt_eq ho hk hp ht)) ⟨?_, ?_⟩
    · rw [getBar, barriers_haltCheck, ← getBar, getBar_modBar_same]
      simp [hk]
    · exact halt_haltCheck_same _ _ _ _ hc
end

section
/-! The stream unit of a core or context: what its updates leave, and what leaves its descriptors and their progress. -/

open Sys2Proof.Claims

namespace Sys2Proof.Machine

/-! ### Updates of a stream unit -/

theorem modUnit_congr {d : Device} {c : CtxId} {f g : CtxUnit → CtxUnit} (h : f (getUnit d c) = g (getUnit d c)) : modUnit d c f = modUnit d c g := by
  unfold getUnit getCore at h
  simp only [modUnit, modCore, vmod]
  rw [h]

theorem modStream_congr {d : Device} {c : CtxId} {f g : StreamUnit → StreamUnit} (h : f (streamOf d c) = g (streamOf d c)) :
    modStream d c f = modStream d c g :=
  modUnit_congr (congrArg (fun s => { getUnit d c with stream := s }) h)

theorem modStream_modStream_same (d : Device) (c : CtxId) (f g : StreamUnit → StreamUnit) :
    modStream (modStream d c f) c g = modStream d c fun s => g (f s) := modUnit_modUnit_same _ _ _ _

@[simp] theorem streamOf_modStream_same (d : Device) (c : CtxId) (f : StreamUnit → StreamUnit) : streamOf (modStream d c f) c = f (streamOf d c) :=
  congrArg CtxUnit.stream (getUnit_modUnit_same _ _ _)

theorem streamOf_modUnit_proj {β : Type} (g : StreamUnit → β) (d : Device) (c x : CtxId) {f : CtxUnit → CtxUnit}
    (h : ∀ u, g (f u).stream = g u.stream) : g (streamOf (modUnit d c f) x) = g (streamOf d x) := getUnit_modUnit_proj (fun u => g u.stream) d c x h

theorem streamOf_modStream_proj {β : Type} (g : StreamUnit → β) (d : Device) (c x : CtxId) {f : StreamUnit → StreamUnit} (h : ∀ s, g (f s) = g s) :
    g (streamOf (modStream d c f) x) = g (streamOf d x) := streamOf_modUnit_proj g d c x fun u => h u.stream

theorem streamOf_pendAdd (d : Device) (t c : CtxId) (f : Byte) (v : W32) : streamOf (pendAdd d t f v) c = streamOf d c :=
  congrArg CtxUnit.stream (getUnit_pendAdd _ _ _ _ _)

/-! ### Descriptors and their progress -/

theorem progAt_modStream (d : Device) (c x : CtxId) {f : StreamUnit → StreamUnit} (h : ∀ s, (f s).progs = s.progs) (k : Nat) :
    progAt (modStream d c f) x k = progAt d x k := congrArg (vget · (finMod 64 k)) (streamOf_modStream_proj (·.progs) d c x h)

theorem progAt_modProg_same (d : Device) (c : CtxId) (k : Nat) (f : StreamProg → StreamProg) : progAt (modProg d c k f) c k = f (progAt d c k) := by
  simp [progAt, modProg]

theorem descAt_of_progOf {d e : Device} {c : CtxId} (h : progOf e c = progOf d c) (k : Nat) : descAt e c k = descAt d c k := by
  rw [descAt, streamDescs, h, descAt, streamDescs]

theorem progOf_modUnit (d : Device) (c : CtxId) {f : CtxUnit → CtxUnit} (x : CtxId) (h : ∀ u, (f u).bound = u.bound) :
    progOf (modUnit d c f) x = progOf d x := by
  rw [progOf, domOf_modUnit d c x h]
  rfl

theorem tickOf_modUnit (d : Device) (c : CtxId) {f : CtxUnit → CtxUnit} (x : CtxId) (h : ∀ u, (f u).bound = u.bound) :
    tickOf (modUnit d c f) x = tickOf d x := tickOf_eq_of_runOf (runOf_modUnit d c x h)

theorem getCore_modUnit (d : Device) (c : CtxId) {f : CtxUnit → CtxUnit} (k : CoreId) :
    ∃ u, getCore (modUnit d c f) k = { getCore d k with units := u } := by
  by_cases hk : c.core = k
  · exact ⟨_, by rw [← hk, modUnit, getCore_modCore_same]⟩
  · exact ⟨_, by rw [modUnit, getCore_modCore_other _ _ _ _ hk]⟩

/-- What an update keeps of a stream's descriptors and their progress, and of the cores that a landing's write goes by. -/
structure KeepsProgress (d e : Device) : Prop where
  core : ∀ k, ∃ u, getCore e k = { getCore d k with units := u }
  progs : ∀ c, (streamOf e c).progs = (streamOf d c).progs
  prog : ∀ c, progOf e c = progOf d c

namespace KeepsProgress

theorem trans {d x e : Device} (h : KeepsProgress d x) (k : KeepsProgress x e) : KeepsProgress d e := by
  refine ⟨fun n => ?_, fun c => (k.progs c).trans (h.progs c), fun c => (k.prog c).trans (h.prog c)⟩
  obtain ⟨u, hu⟩ := h.core n
  obtain ⟨v, hv⟩ := k.core n
  exact ⟨v, by rw [hv, hu]⟩

theorem modUnit (d : Device) (c : CtxId) {f : CtxUnit → CtxUnit} (hb : ∀ u, (f u).bound = u.bound) (hp : ∀ u, (f u).stream.progs = u.stream.progs) :
    KeepsProgress d (modUnit d c f) :=
  ⟨getCore_modUnit d c, fun x => streamOf_modUnit_proj (·.progs) d c x hp, fun x => progOf_modUnit d c x hb⟩

theorem modStream (d : Device) (c : CtxId) {f : StreamUnit → StreamUnit} (h : ∀ s, (f s).progs = s.progs) : KeepsProgress d (modStream d c f) :=
  modUnit d c (fun _ => rfl) fun u => h u.stream

variable {d e : Device} (h : KeepsProgress d e)
include h

theorem isSplit (k : CoreId) : isSplit e k = isSplit d k := by
  obtain ⟨u, hu⟩ := h.core k
  rw [Machine.isSplit, hu, Machine.isSplit]

theorem flagPend (k : CoreId) : (getCore e k).flagPend = (getCore d k).flagPend := by
  obtain ⟨u, hu⟩ := h.core k
  rw [hu]

theorem padPowered (c : CtxId) (off n : Nat) : padPowered e c off n = padPowered d c off n := by
  obtain ⟨u, hu⟩ := h.core c.core
  rw [Machine.padPowered, h.isSplit, hu, Machine.padPowered]

theorem descAt (c : CtxId) (k : Nat) : descAt e c k = descAt d c k := descAt_of_progOf (h.prog c) k

theorem progAt (c : CtxId) (k : Nat) : progAt e c k = progAt d c k := by rw [Machine.progAt, h.progs, Machine.progAt]

end KeepsProgress

/-! ### What the work on banks and the record of an event leave of a stream unit -/

namespace BankWork

variable {d e : Device} (h : BankWork d e)
include h

theorem streamOf (c : CtxId) : streamOf e c = streamOf d c := by
  obtain ⟨b, s, r, hu⟩ := h.unit c
  rw [Machine.streamOf, hu, Machine.streamOf]

theorem keepsProgress : KeepsProgress d e :=
  ⟨h.core, fun c => by rw [h.streamOf], fun c => by simp only [progOf, h.domOf, h.prog]⟩

end BankWork

theorem bankWork_takeBanks (d : Device) (c : CtxId) (m : W32) : BankWork d (takeBanks d c m) := BankWork.modUnit d c fun _ => ⟨_, _, _, rfl⟩

/-! ### The late answers of a CXL port (R370, R471) -/

theorem bankWork_noteLate (d : Device) (c : CtxId) (a due since : Nat) : BankWork d (noteLate d c a due since) := by
  unfold noteLate
  split
  · refine BankWork.trans ?_ (.reported (reported_detectAt _ _))
    exact .lit rfl rfl rfl rfl rfl
  · exact .refl d

theorem cores_noteLate (d : Device) (c : CtxId) (a due since : Nat) : (noteLate d c a due since).cores = d.cores := by
  unfold noteLate
  split
  · exact (reported_detectAt _ _).cores
  · rfl

/-- An answer that comes in time, by another port than CXL's or held by an injected event is not late. -/
theorem noteLate_timely {d : Device} {c : CtxId} {a due since : Nat} (h : a / 2 ^ 44 ≠ 4 ∨ since ≠ 0 ∨ (executing d c = true ∧ tickOf d c ≤ due)) :
    noteLate d c a due since = d := by
  refine if_neg ?_
  rcases h with h | h | ⟨h1, h2⟩
  · simp [h, -Nat.reducePow]
  · simp [h]
  · simp [h1, h2]

theorem noteLate_late {d : Device} {c : CtxId} {a due since : Nat} (ha : a / 2 ^ 44 = 4) (hs : since = 0) (h : executing d c = false ∨ due < tickOf d c) :
    noteLate d c a due since = let port := (cxlMap d (partOfCore d c.core) (a % 2 ^ 44)).1
      detectAt (modPort d port fun p => { p with late := satAdd p.late 1 }) (coreEvent d c 0x132 (BitVec.ofNat 16 port.val) 1 0 (put64 0 (a % 2 ^ 44))) := by
  refine if_pos ?_
  rcases h with h | h
  · simp [ha, hs, h, -Nat.reducePow]
  · simp [ha, hs, h, -Nat.reducePow]

theorem logged_detectAt {d : Device} {e : ErrEvent} (he : d.err.events = []) : Logged (detectAt d e) e.det e.unit e.sev e.code := by
  unfold detectAt
  exact logged_detect_first (d := (inject d e.det e.unit).2) (e := { e with inj := (inject d e.det e.unit).1 }) ((events_inject _ _ _).trans he)

end Sys2Proof.Machine
end

section
/-! Grants of the memory (R278, R282–R284, R362, R506): what a request reads or writes, and what a grant makes of a fill, of a spill and
of a core's load. -/

open Sys2Proof.Claims

namespace Sys2Proof.Machine

/-! ### A request that memory answers -/

theorem tierEvents_plain {d : Device} (h : d.err.armed = []) (c : Option CtxId) (p : PartId) (t : Target) (read : Bool) :
    tierEvents d c p t read = (MemRead.plain, d) := by
  cases t with
  | hbm off => exact hbmEvents_nil h _ _ _ _
  | cxl off => cases read <;> simp [tierEvents, cxlEvents, memEvent_nil h, MemRead.plain]
  | reservoir off => cases read <;> simp [tierEvents, resEvents, memEvent_nil h, MemRead.plain]
  | scratch c off => rfl
  | queue k => rfl

/-- No isolation wrapper, closed port or armed event stands between a request of a core and n bytes of a target. -/
structure Reaches (d : Device) (c : CtxId) (a n : Nat) (g : Target) : Prop where
  armed : d.err.armed = []
  port : portLost d (partOfCore d c.core) a = false
  resolved : resolve d (partOfCore d c.core) none a n = .ok g
  awake : heldInReset d (partOfCore d c.core) g = false

namespace Reaches

variable {d : Device} {c : CtxId} {a n : Nat} {g : Target} (h : Reaches d c a n g)
include h

theorem wrapperEntry (first : Bool) : wrapperEntry d c a n first = d := by
  simp [Machine.wrapperEntry, wrapped, h.resolved, h.awake]

theorem memAct_read : memAct d c a n none = (readTarget d (partOfCore d c.core) g n, MemRead.plain, d) := by
  simp [memAct, h.resolved, h.awake, h.port, tierEvents_plain h.armed]

theorem memAct_write (bs : List Byte) : memAct d c a n (some bs) = ([], MemRead.plain, writeTarget d (partOfCore d c.core) g bs) := by
  simp [memAct, h.resolved, h.awake, h.port, tierEvents_plain h.armed]

end Reaches

/-! ### A fill and a spill that take a grant (R282–R284) -/

/-- The progress of a fill after a grant, and of a spill. -/
def fillProgress (x : StreamDesc) (t : Nat) (p : StreamProg) : StreamProg :=
  if p.xfer + 1 = xfers x then stopInstance p t else { p with xfer := p.xfer + 1 }
def spillProgress (x : StreamDesc) (t : Nat) (p : StreamProg) : StreamProg :=
  if p.granted + 1 = xfers x then stopInstance { p with granted := p.granted + 1 } t else { p with granted := p.granted + 1 }

theorem grantFill_eq {d : Device} {c : CtxId} {k : Nat} {x : StreamDesc} {g : Target}
    (h : Reaches d c (memAt x (progAt d c k).inst (progAt d c k).xfer) 64 g) (t : Nat) :
    grantFill d c k x t = modStream d c fun s => { s with
      landing := s.landing ++ [{ fillItem d c k x t with data := leBits 512 (readTarget d (partOfCore d c.core) g 64) }]
      progs := vmod s.progs (finMod 64 k) (fillProgress x t) } := by
  simp only [grantFill, h.wrapperEntry, h.memAct_read, modProg, modStream_modStream_same]
  rfl

/-- A spill's outbound entry as its grant leaves it. -/
def spillGranted (d : Device) (c : CtxId) (x : StreamDesc) (o : OutItem) (t : Nat) : OutItem :=
  let a := memAt x o.inst o.xfer
  { o with granted := true, held := holdAt d (partOfCore d c.core) a, ackDue := t + memLatency d c a, cause := memCause (a / 2 ^ 44), error := none }

/-- A write to a target leaves what a spill's entry is made of. -/
theorem spillGranted_writeTarget (d : Device) (p : PartId) (g : Target) (bs : List Byte) (c : CtxId) (x : StreamDesc) (o : OutItem) (t : Nat) :
    spillGranted (writeTarget d p g bs) c x o t = spillGranted d c x o t := by
  obtain ⟨s, r, m, y, hw⟩ := writeTargetFrom_rest p g bs d 0
  rw [writeTarget, hw]
  rfl

theorem streamOf_writeTarget (d : Device) (p : PartId) (g : Target) (bs : List Byte) (c : CtxId) : streamOf (writeTarget d p g bs) c = streamOf d c := by
  obtain ⟨s, r, m, y, hw⟩ := writeTargetFrom_rest p g bs d 0
  rw [writeTarget, hw]
  rfl

theorem grantSpill_eq {d : Device} {c : CtxId} {k t : Nat} {x : StreamDesc} {o : OutItem} {v : BitVec 512} {g : Target}
    (h : Reaches d c (memAt x o.inst o.xfer) 64 g) (hw : spillWaiting d c k t = some o) (hv : o.data = some v) :
    grantSpill d c k x t = modStream (writeTarget d (partOfCore d c.core) g (leBytes 64 v.toNat)) c fun s => { s with
      outbound := s.outbound.map fun y => if y = o then spillGranted d c x o t else y
      progs := vmod s.progs (finMod 64 k) (spillProgress x t) } := by
  rw [← spillGranted_writeTarget d (partOfCore d c.core) g (leBytes 64 v.toNat)]
  simp only [grantSpill, hw, hv, h.wrapperEntry, h.memAct_write, modProg, modStream_modStream_same, Option.getD_some, spillGranted]
  rfl

/-! ### The grant of a tick (R506) -/

/-- The gate of a row's grant: it is due, after the starts of the tick, and the core's turn has come. -/
structure GrantOpen (d : Device) (c : CtxId) (row : GrantRow) : Prop where
  due : grantDue d c row = true
  turn : grantTurn d c = true
  starts : startsDue d c = false

/-- The grant of a row is used for the present tick. -/
def grantUsed (row : GrantRow) (t : Nat) (s : StreamUnit) : StreamUnit := { s with grantTick := vset s.grantTick (rowIndex row) (t + 1) }

theorem memoryGrant_core {d e : Device} {c : CtxId} {row : GrantRow} (h : GrantOpen d c row) (hg : grantCore d c row = some e) :
    memoryGrant d c row = modStream e c (grantUsed row (tickOf d c)) := by
  simp only [memoryGrant, h.due, h.turn, h.starts, hg, Bool.not_false, Bool.and_self, if_true]
  rfl

/-- Without a core transfer the stream whose turn it is takes the grant. -/
theorem memoryGrant_stream {d e : Device} {c : CtxId} {row : GrantRow} {k : Nat} {x : StreamDesc} (h : GrantOpen d c row) (hf : (getUnit d c).flights = [])
    (hh : isHalted d c = false) (hk : (turnAfter (vget (streamOf d c).lastGrant (rowIndex row))).find? (fun k => canGrant d c row (tickOf d c) k) = some k)
    (hx : descAt d c k = some x) (he : (if x.kind = 1 then grantFill d c k x (tickOf d c) else grantSpill d c k x (tickOf d c)) = e) :
    memoryGrant d c row = modStream e c fun s =>
      grantUsed row (tickOf d c) { s with lastGrant := vset s.lastGrant (rowIndex row) (finMod 64 k) } := by
  subst he
  have hcore : grantCore d c row = none := by simp [grantCore, hf]
  simp only [memoryGrant, h.due, h.turn, h.starts, hcore, hh, grantStream, hk, hx, Bool.not_false, Bool.and_self, if_true, Bool.false_eq_true, if_false,
    modStream_modStream_same]
  rfl

/-! ### A core's load that takes a grant (R362) -/

/-- A load's flight of one request as its grant leaves it. -/
def loadGranted (d : Device) (c : CtxId) (f : Flight) (y : SubRequest) (bs : List Byte) (t : Nat) : Flight :=
  { f with
    subs := [{ y with granted := some t, held := holdAt d (partOfCore d c.core) y.addr, since := 0 }]
    data := f.data ||| BitVec.ofNat 2048 (leVal bs)
    due := t + y.latency - 1 }

theorem grantSub_load {d : Device} {c : CtxId} {row : GrantRow} {f : Flight} {y : SubRequest} {t : Nat} {g : Target} {dest : LoadDest} {bc : Bool}
    (h : Reaches d c y.addr y.bytes g) (hs : f.subs = [y]) (hy : subFits d c row t y = true) (hk : f.req.kind = .load dest bc) (hp : f.req.predOff = false)
    (he : f.error = none) : grantSub d c f row t = (loadGranted d c f y (readTarget d (partOfCore d c.core) g y.bytes) t, d) := by
  have hfirst : [y].findIdx (subFits d c row t) = 0 := by simp [List.findIdx_cons, hy]
  simp only [grantSub, hs, hfirst, List.getElem?_cons_zero, hk, hp, he, h.wrapperEntry]
  simp [h.memAct_read, MemRead.plain, holdTill, loadGranted, he]

theorem getUnit_addItem (d : Device) (c x : CtxId) (i : VarItem) : getUnit (addItem d c i) x = getUnit d x := by
  unfold addItem
  split <;> rfl

/-- The contract tick of a transfer leaves the units of every core. -/
theorem getUnit_flightDue (d : Device) (c x : CtxId) (f : Flight) : getUnit (flightDue d c f) x = getUnit d x := by
  unfold flightDue
  split
  · rfl
  · split
    · exact getUnit_modLq _ _ _ _ _
    · exact getUnit_addItem _ _ _ _

theorem lqOf_flightDue {d : Device} {c : CtxId} {f : Flight} {q : Fin 4} {id : Nat} {bc : Bool} (hg : ∀ x ∈ f.subs, x.granted ≠ none)
    (hk : f.req.kind = .load (.lq q id) bc) : lqOf (flightDue d c f) c q = dueEntry (lqOf d c q) id f.due := by
  have hall : (f.subs.any fun x => x.granted.isNone) = false := List.any_eq_false.2 fun x hx => by simp [hg x hx]
  simp only [flightDue, hall, hk, Bool.false_eq_true, if_false, lqOf_modLq_same]

theorem grantCore_load {d : Device} {c : CtxId} {row : GrantRow} {f : Flight} {y : SubRequest} {g : Target} {dest : LoadDest} {bc : Bool}
    (h : Reaches d c y.addr y.bytes g) (hf : (getUnit d c).flights = [f]) (hs : f.subs = [y]) (hw : wantsGrant d c f row (tickOf d c) = true)
    (hk : f.req.kind = .load dest bc) (hp : f.req.predOff = false) (he : f.error = none) :
    let z := loadGranted d c f y (readTarget d (partOfCore d c.core) g y.bytes) (tickOf d c)
    grantCore d c row = some (flightDue (modUnit d c fun u => { u with flights := [z] }) c z) := by
  intro z
  have hy : subFits d c row (tickOf d c) y = true := by
    simp only [wantsGrant, hs, Bool.and_eq_true, List.any_cons, List.any_nil, Bool.or_false] at hw
    exact hw.2
  have hfind : (getUnit d c).flights.find? (fun f => wantsGrant d c f row (tickOf d c)) = some f := by simp [hf, hw]
  have hset : (modUnit d c fun u => { u with flights := u.flights.map fun x => if x.uid = z.uid then z else x }) =
      modUnit d c fun u => { u with flights := [z] } := modUnit_congr (by simp [hf, z, loadGranted])
  simp only [grantCore, hfind, grantSub_load h hs hy hk hp he]
  exact congrArg (fun e => some (flightDue e c z)) hset

end Sys2Proof.Machine
end

section
/-! Read and write slots, the scratchpad's edge, and landings (R283–R290): what each makes of its stream unit, and what a landing's write leaves. -/

open Sys2Proof.Claims

namespace Sys2Proof.Machine

/-! ### The end of a transfer (R286) -/

/-- The progress of a descriptor as one of its rounds completes: a round is what REPEATS counts, `xfers` transfers (R280, R286). -/
def roundCounted (counts : List (Nat × Nat)) (p : StreamProg) : StreamProg := { p with counts := counts, completed := p.completed + 1 }

/-- The descriptor that is noted as the last to complete a round (R294). -/
def doneLast (l : BitVec 6) : StreamUnit → StreamUnit := fun s => { s with lastDone := l }

/-- A descriptor completes a round, and is the one done last. -/
def roundDone (d : Device) (owner : CtxId) (k : Nat) (counts : List (Nat × Nat)) : Device :=
  let e := modProg d owner k (roundCounted counts)
  modStream e { core := owner.core, ctx := 0 } (doneLast (physDesc e owner k))

theorem streamOf_roundDone_proj {β : Type} (g : StreamUnit → β) (h : ∀ s p l, g { s with progs := p, lastDone := l } = g s) (d : Device)
    (owner : CtxId) (k : Nat) (counts : List (Nat × Nat)) (x : CtxId) : g (streamOf (roundDone d owner k counts) x) = g (streamOf d x) :=
  (streamOf_modStream_proj g _ _ x fun s => h s s.progs _).trans (streamOf_modStream_proj g d owner x fun s => h s _ s.lastDone)

theorem getCore_roundDone (d : Device) (owner : CtxId) (k : Nat) (counts : List (Nat × Nat)) (n : CoreId) :
    ∃ u, getCore (roundDone d owner k counts) n = { getCore d n with units := u } := by
  obtain ⟨u, hu⟩ : ∃ u, getCore (modProg d owner k (roundCounted counts)) n = { getCore d n with units := u } := getCore_modUnit d owner n
  obtain ⟨v, hv⟩ : ∃ v, getCore (roundDone d owner k counts) n = { getCore (modProg d owner k (roundCounted counts)) n with units := v } :=
    getCore_modUnit _ _ n
  exact ⟨v, by rw [hv, hu]⟩

theorem completed_roundDone (d : Device) (owner : CtxId) (k : Nat) (counts : List (Nat × Nat)) :
    (progAt (roundDone d owner k counts) owner k).completed = (progAt d owner k).completed + 1 := by
  rw [roundDone, progAt_modStream (f := doneLast _) _ _ _ fun _ => rfl, progAt_modProg_same]
  rfl

/-- A transfer that ends is counted; the last of a descriptor's round completes it and raises its flag. -/
theorem finishXfer_cases (d : Device) (owner : CtxId) (k inst : Nat) (flagOwner : CtxId) :
    descAt d owner k = none ∧ finishXfer d owner k inst flagOwner = d ∨
    ∃ x counts, descAt d owner k = some x ∧
      (1 < xfers x ∧ finishXfer d owner k inst flagOwner = modProg d owner k (fun p => { p with counts := counts }) ∨
      finishXfer d owner k inst flagOwner =
        if x.fadd then pendAdd (roundDone d owner k counts) flagOwner x.flag 1 else roundDone d owner k counts) := by
  unfold finishXfer
  cases hx : descAt d owner k with
  | none => exact .inl ⟨rfl, rfl⟩
  | some x =>
    refine .inr ?_
    dsimp only
    exact (Decidable.em (_ + 1 < xfers x)).elim (fun h => ⟨x, _, rfl, .inl ⟨by omega, if_pos h⟩⟩) fun h => ⟨x, _, rfl, .inr (if_neg h)⟩

/-- What the end of a transfer leaves of a stream unit: all but its progress and the descriptor done last. -/
theorem streamOf_finishXfer_proj {β : Type} (g : StreamUnit → β) (h : ∀ s p l, g { s with progs := p, lastDone := l } = g s) (d : Device)
    (owner : CtxId) (k inst : Nat) (flagOwner x : CtxId) : g (streamOf (finishXfer d owner k inst flagOwner) x) = g (streamOf d x) := by
  rcases finishXfer_cases d owner k inst flagOwner with ⟨-, hgo⟩ | ⟨y, counts, -, ⟨-, hgo⟩ | hgo⟩
  · rw [hgo]
  · rw [hgo]
    exact streamOf_modStream_proj g d owner x fun s => h s _ s.lastDone
  · rw [hgo]
    split
    · rw [streamOf_pendAdd, streamOf_roundDone_proj g h]
    · exact streamOf_roundDone_proj g h _ _ _ _ _

/-! ### The write of a landed item (R283) -/

theorem padWrote_writePad {d : Device} (h : memoriesWf d = true) (c : CtxId) (off : Nat) {bs : List Byte} (hl : bs.length ≤ 512) :
    PadWrote d (writePad d c off bs) c off bs :=
  padWrote_congr (padWrote_storePad h c off hl) rfl rfl ((scratch_writePad d c off bs).trans (scratch_storePad d c off bs).symm)

theorem streamOf_landWrite_proj {β : Type} (g : StreamUnit → β) (h : ∀ s p l, g { s with progs := p, lastDone := l } = g s) (d : Device) (c x : CtxId)
    (i : LandItem) : g (streamOf (landWrite d c i) x) = g (streamOf d x) :=
  (streamOf_finishXfer_proj g h _ _ _ _ _ x).trans (congrArg g ((bankWork_writePad d c _ _).streamOf x))

/-- An item's write puts its 64 bytes at its offset. -/
theorem padWrote_landWrite {d : Device} (h : memoriesWf d = true) (c : CtxId) (i : LandItem) :
    PadWrote d (landWrite d c i) c i.offset (leBytes 64 i.data.toNat) :=
  padWrote_congr (padWrote_writePad h c i.offset (by simp)) rfl rfl ((mems_finishXfer _ _ _ _ _).other .scratch (by simp))

/-- The transfer of a round of one transfer is counted, and its flag raised. -/
def ItemCounted (d e : Device) (c : CtxId) (i : LandItem) : Prop :=
  ∀ x, descAt d i.sender i.desc = some x → xfers x = 1 →
    (progAt e i.sender i.desc).completed = (progAt d i.sender i.desc).completed + 1 ∧ (x.fadd = true → FlagAdded d e c x.flag 1)

theorem itemCounted_finishXfer (d : Device) (c : CtxId) (i : LandItem) : ItemCounted d (finishXfer d i.sender i.desc i.inst c) c i := by
  intro x hx h1
  obtain ⟨hnone, -⟩ | ⟨y, counts, hy, hgo⟩ := finishXfer_cases d i.sender i.desc i.inst c
  · rw [hnone] at hx
    cases hx
  obtain rfl : x = y := Option.some.inj (hx.symm.trans hy)
  obtain ⟨hmore, -⟩ | hgo := hgo
  · omega
  rw [hgo]
  refine ⟨?_, fun hf => ?_⟩
  · split
    · rw [progAt, streamOf_pendAdd]
      exact completed_roundDone _ _ _ _
    · exact completed_roundDone _ _ _ _
  · obtain ⟨u, hu⟩ := getCore_roundDone d i.sender i.desc counts c.core
    rw [if_pos hf]
    exact flagAdded_pendAdd (by rw [isSplit, hu, isSplit]) (by rw [hu]) rfl

/-- An item is counted from the state before what its write met and from there alike. -/
theorem ItemCounted.of_keeps {d z e : Device} {c : CtxId} {i : LandItem} (h : ItemCounted z e c i) (hk : KeepsProgress d z) : ItemCounted d e c i := by
  intro x hx h1
  obtain ⟨hcount, hflag⟩ := h x (by rwa [hk.descAt]) h1
  refine ⟨by rw [hcount, hk.progAt], fun hf => ?_⟩
  have hadd := hflag hf
  rwa [FlagAdded, hk.flagPend, hk.isSplit] at hadd

theorem itemCounted_landWrite (d : Device) (c : CtxId) (i : LandItem) : ItemCounted d (landWrite d c i) c i :=
  (itemCounted_finishXfer _ c i).of_keeps (bankWork_writePad d c _ _).keepsProgress

/-- What the write of an item leaves, seen from a state before it whose scratchpads and progress the write met. -/
theorem landWrite_from {d z : Device} {c : CtxId} {i : LandItem} (hk : KeepsProgress d z) (hm : Mems [] d z) (hwf : memoriesWf d = true) :
    PadWrote d (landWrite z c i) c i.offset (leBytes 64 i.data.toNat) ∧ ItemCounted d (landWrite z c i) c i :=
  ⟨padWrote_congr (padWrote_landWrite (hm.form hwf) c i) (hk.isSplit _) (hm.other .scratch (by simp)) rfl, (itemCounted_landWrite z c i).of_keeps hk⟩

/-! ### Landings (R283, R288, R290) -/

/-- The device with an item's late answer counted, where it is a fill's. -/
def lateNoted (d : Device) (c : CtxId) (i : LandItem) (rot : Bool) : Device :=
  if rot then d else noteLate d c (itemAddr d c i.desc i.inst i.xfer) i.lambda i.since

theorem bankWork_lateNoted (d : Device) (c : CtxId) (i : LandItem) (rot : Bool) : BankWork d (lateNoted d c i rot) := by
  unfold lateNoted
  split
  · exact .refl d
  · exact bankWork_noteLate _ _ _ _ _

theorem mems_lateNoted (d : Device) (c : CtxId) (i : LandItem) (rot : Bool) : Mems [] d (lateNoted d c i rot) := by
  unfold lateNoted
  split
  · exact .refl _ d
  · exact mems_noteLate _ _ _ _ _

/-- An item of a core that has not halted lands. -/
theorem landItem_lands {d : Device} {c : CtxId} {rot : Bool} {i : LandItem} (h : landDue d c rot = some i) (hh : isHalted d c = false) :
    landItem d c rot = modStream (lateNoted d c i rot) c fun s => { s with
      landing := s.landing.map fun y => if y = i then { i with landed := some (periodOf d c) } else y } := by
  simp only [landItem, h, hh, Bool.false_eq_true, if_false]
  rfl

/-- The device after an item of a halted core has left the landing buffer. -/
def landDropped (d : Device) (c : CtxId) (i : LandItem) (rot : Bool) : Device :=
  modStream (lateNoted d c i (rot || i.landed.isSome)) c fun s => { s with landing := s.landing.erase i }

theorem keepsProgress_landDropped (d : Device) (c : CtxId) (i : LandItem) (rot : Bool) : KeepsProgress d (landDropped d c i rot) :=
  (bankWork_lateNoted d c i _).keepsProgress.trans (.modStream _ _ fun _ => rfl)

theorem mems_landDropped (d : Device) (c : CtxId) (i : LandItem) (rot : Bool) : Mems [] d (landDropped d c i rot) :=
  (mems_modStream _ _ _).step (by simp) (mems_lateNoted d c i _)

theorem landing_landDropped (d : Device) (c : CtxId) (i : LandItem) (rot : Bool) :
    (streamOf (landDropped d c i rot) c).landing = (streamOf d c).landing.erase i := by
  rw [landDropped, streamOf_modStream_same, (bankWork_lateNoted d c i _).streamOf]

/-- An item of a halted core is written at once, where its banks are powered. -/
theorem landItem_halted {d : Device} {c : CtxId} {rot : Bool} {i : LandItem} (h : landDue d c rot = some i) (hh : isHalted d c = true) :
    landItem d c rot = if padPowered d c i.offset 64 then landWrite (landDropped d c i rot) c i else landDropped d c i rot := by
  rw [← (keepsProgress_landDropped d c i rot).padPowered]
  simp only [landItem, h, hh, if_true]
  rfl

/-! ### The slots of a tick (R282, R284, R285) -/

/-- What the slots go by of a stream unit's core does not lie in the stream unit. -/
theorem presented_modStream (d : Device) (c : CtxId) (f : StreamUnit → StreamUnit) : presented (modStream d c f) c = presented d c := by
  have hh : isHalted (modStream d c f) c = isHalted d c := getUnit_modUnit_proj (·.halt.halted) d c c fun _ => rfl
  have hs : seqsOf (modStream d c f) c = seqsOf d c := by rw [seqsOf, modStream, isSplit_modUnit, seqsOf]
  have ht : tickOf (modStream d c f) c = tickOf d c := tickOf_modUnit d c c fun _ => rfl
  simp only [presented, hh, hs, ht]
  simp only [modStream, getSeq_modUnit]

/-- The edge serves nothing before every sequencer has done its part of the tick. -/
theorem edgeDue_unpresented {d : Device} {c : CtxId} (h : presented d c = false) : edgeDue d c = false := by simp [edgeDue, accessed, h]

theorem readSlotWrite_unpresented {d : Device} {c : CtxId} (hs : startsDue d c = false) (h : presented (assignRead d c) c = false) :
    readSlotWrite d c = assignRead d c := by
  simp only [readSlotWrite, hs, Bool.false_eq_true, if_false, edgeDue_unpresented h, Bool.and_false]
  split <;> rfl

theorem writeSlot_unpresented {d : Device} {c : CtxId} (hs : startsDue d c = false) (h : presented (assignWrite d c) c = false) :
    writeSlot d c = assignWrite d c := by
  simp only [writeSlot, hs, Bool.false_eq_true, if_false, edgeDue_unpresented h, Bool.and_false]
  split <;> rfl

/-- A read slot takes a landed item to the edge. -/
theorem assignRead_takes {d : Device} {c : CtxId} {i : LandItem} (hd : readSlotDue d c = true) (hi : slotItem (streamOf d c).landing (tickOf d c) = some i)
    (he : itemError d c i = none) : assignRead d c = modStream d c fun s => { s with
      landing := s.landing.erase i
      edge := s.edge ++ [{ read := false, slot := tickOf d c, item := i, send := none }]
      slotTick := tickOf d c + 1 } := by
  simp only [assignRead, readSlotItem, hd, hi, he, if_true, Option.isNone_none]

theorem assignRead_none {d : Device} {c : CtxId} (h : readSlotDue d c = false) : assignRead d c = d := by
  simp [assignRead, readSlotItem, h]

theorem assignWrite_none {d : Device} {c : CtxId} (h : writeSlotDue d c = false) : assignWrite d c = d := by simp [assignWrite, h]

/-- The item that a write slot reads for a descriptor, and the outbound entry of a spill. -/
def slotRead (d : Device) (c : CtxId) (k : Nat) (x : StreamDesc) : LandItem :=
  { desc := k, inst := (progAt d c k).inst, xfer := (progAt d c k).xfer, offset := padAt x (progAt d c k).inst (progAt d c k).xfer, data := 0, lambda := 0,
    rotation := x.kind = 3, landed := none, cause := 2, sender := c, error := none, held := .free, since := 0 }
def slotSpill (d : Device) (c : CtxId) (k : Nat) : OutItem :=
  { desc := k, inst := (progAt d c k).inst, xfer := (progAt d c k).xfer, data := none, slot := tickOf d c, granted := false, ackDue := 0, acked := none,
    cause := 2, error := none, held := .free, since := 0 }

/-- The progress of a descriptor that has taken a write slot. -/
def slotProgress (x : StreamDesc) (t : Nat) (p : StreamProg) : StreamProg :=
  if x.kind = 3 && p.xfer + 1 = xfers x then stopInstance p t else { p with xfer := p.xfer + 1 }

/-- A write slot reads for the descriptor whose turn it is. -/
theorem assignWrite_takes {d : Device} {c : CtxId} {k : Nat} {x : StreamDesc} (hd : writeSlotDue d c = true) (hk : writeSlotFor d c = some k)
    (hx : descAt d c k = some x) (hp : padPowered d c (padAt x (progAt d c k).inst (progAt d c k).xfer) 64 = true) :
    assignWrite d c = modStream d c fun s => { s with
      edge := s.edge ++ [{ read := true, slot := tickOf d c, item := slotRead d c k x, send := none }]
      slotTick := tickOf d c + 1
      lastWrite := finMod 64 k
      outbound := if x.kind = 2 then s.outbound ++ [slotSpill d c k] else s.outbound
      progs := vmod s.progs (finMod 64 k) (slotProgress x (tickOf d c)) } := by
  have hpad : (writeSlotPad d c).any (fun o => !padPowered d c o 64) = false := by simp [writeSlotPad, hd, hk, hx, hp]
  simp only [assignWrite, hpad, hd, hk, hx, Bool.not_true, Bool.or_self, Bool.false_eq_true, if_false, modProg, modStream_modStream_same]
  rfl

/-! ### The edge of the scratchpad (R284, R290) -/

/-- The oldest request leaves the edge, which serves no other on the tick. -/
def edgeLeft (rest : List EdgeReq) (t : Nat) (s : StreamUnit) : StreamUnit := { s with edge := rest, edgeTick := t + 1 }

/-- The device with the oldest request taken off the edge, and its banks. -/
def edgeTaken (d : Device) (c : CtxId) (i : LandItem) (rest : List EdgeReq) : Device :=
  takeBanks (modStream d c (edgeLeft rest (tickOf d c))) c (padBanks d c i.offset 64)

theorem takeBanks_edgeLeft (d : Device) (c : CtxId) (i : LandItem) (rest : List EdgeReq) :
    takeBanks (modStream d c fun s => { s with edge := rest, edgeTick := tickOf d c + 1 }) c (padBanks d c i.offset 64) = edgeTaken d c i rest := rfl

theorem keepsProgress_edgeTaken (d : Device) (c : CtxId) (i : LandItem) (rest : List EdgeReq) : KeepsProgress d (edgeTaken d c i rest) :=
  (KeepsProgress.modStream d c (f := edgeLeft rest (tickOf d c)) fun _ => rfl).trans (bankWork_takeBanks _ _ _).keepsProgress

theorem mems_edgeTaken (d : Device) (c : CtxId) (i : LandItem) (rest : List EdgeReq) : Mems [] d (edgeTaken d c i rest) :=
  (mems_takeBanks _ _ _).step (by simp) (mems_modStream _ _ _)

theorem streamOf_edgeTaken (d : Device) (c : CtxId) (i : LandItem) (rest : List EdgeReq) :
    streamOf (edgeTaken d c i rest) c = edgeLeft rest (tickOf d c) (streamOf d c) := by
  rw [edgeTaken, (bankWork_takeBanks _ _ _).streamOf, streamOf_modStream_same]

theorem landing_edgeTaken (d : Device) (c x : CtxId) (i : LandItem) (rest : List EdgeReq) :
    (streamOf (edgeTaken d c i rest) x).landing = (streamOf d x).landing := by
  rw [edgeTaken, (bankWork_takeBanks _ _ _).streamOf]
  exact streamOf_modStream_proj (·.landing) d c x fun _ => rfl

theorem readPad_edgeTaken (d : Device) (c : CtxId) (i : LandItem) (rest : List EdgeReq) (off n : Nat) :
    readPad (edgeTaken d c i rest) c off n = readPad d c off n := (readPad_modUnit _ _ _ _ _ _).trans (readPad_modUnit _ _ _ _ _ _)

section Edge
variable {d : Device} {c : CtxId} {r : EdgeReq} {rest : List EdgeReq} (he : (streamOf d c).edge = r :: rest)
  (hp : padPowered d c r.item.offset 64 = true) (hn : r.item.error = none)

include hp hn in
theorem edgeError_none : edgeError d c r = none := by simp [edgeError, hp, hn]

include he hp hn

/-- A write at the edge. -/
theorem serveEdge_write (hr : r.read = false) : serveEdge d c = landWrite (edgeTaken d c r.item rest) c r.item := by
  simp only [serveEdge, he, edgeError_none hp hn, takeBanks_edgeLeft, hr, Option.isSome_none, Bool.false_eq_true, if_false, Bool.not_false, if_true]

/-- A read for a spill fills its outbound entry. -/
theorem serveEdge_spill (hr : r.read = true) (hrot : r.item.rotation = false) (hb : d.scratchBad = []) (ha : isArmed d 0x100 (coreUnit c) = false) :
    serveEdge d c = modStream (edgeTaken d c r.item rest) c fun s => { s with
      outbound := s.outbound.map fun o =>
        if o.desc = r.item.desc ∧ o.inst = r.item.inst ∧ o.xfer = r.item.xfer then
          { o with data := some (leBits 512 (readPad d c r.item.offset 64)) } else o } := by
  have hread := parityRead_sound (d := edgeTaken d c r.item rest) c r.item.offset 64 1 0 0 0 hb ha
  rw [← readPad_edgeTaken d c r.item rest]
  simp only [serveEdge, he, edgeError_none hp hn, takeBanks_edgeLeft, hr, hrot, Option.isSome_none, Bool.not_true, Bool.false_eq_true, if_false, hread,
    Bool.and_eq_true, decide_eq_true_eq, and_assoc]

/-- A read for a rotation travels to the successor. -/
theorem serveEdge_rotation {g : Program} {x : StreamDesc} (hr : r.read = true) (hrot : r.item.rotation = true) (hb : d.scratchBad = [])
    (ha : isArmed d 0x100 (coreUnit c) = false) (hg : progOf d c = some g) (hx : descAt d c r.item.desc = some x)
    (hm : (getCore d (ringNext g c).core).inReset = false) :
    serveEdge d c = modStream (edgeTaken d c r.item rest) (ringNext g c) fun s => { s with
      landing := s.landing ++ [{ r.item with
        offset := nextAt x r.item.inst r.item.xfer
        data := leBits 512 (readPad d c r.item.offset 64)
        lambda := r.slot + remoteLatency d (isPortable d c) c.core (ringNext g c).core
        cause := 2 }] } := by
  have hk := keepsProgress_edgeTaken d c r.item rest
  have hread := parityRead_sound (d := edgeTaken d c r.item rest) c r.item.offset 64 1 0 0 0 hb ha
  have hg' : progOf (edgeTaken d c r.item rest) c = some g := (hk.prog c).trans hg
  have hx' : descAt (edgeTaken d c r.item rest) c r.item.desc = some x := (hk.descAt c _).trans hx
  have hm' : (getCore (edgeTaken d c r.item rest) (ringNext g c).core).inReset = false := by
    obtain ⟨u, hu⟩ := hk.core (ringNext g c).core
    rw [hu]
    exact hm
  have hport : isPortable (edgeTaken d c r.item rest) c = isPortable d c := by rw [isPortable, hk.prog, isPortable]
  rw [← readPad_edgeTaken d c r.item rest, ← hport]
  simp only [serveEdge, he, edgeError_none hp hn, takeBanks_edgeLeft, hr, hrot, Option.isSome_none, Bool.not_true, Bool.false_eq_true, if_false, if_true, hread,
    hg', hx', hm']
  rfl

end Edge

theorem writeSlot_serves {d : Device} {c : CtxId} {r : EdgeReq} {rest : List EdgeReq} (hs : startsDue d c = false) (hw : writeSlotDue d c = false)
    (he : (streamOf d c).edge = r :: rest) (hr : r.read = true) (hsend : r.send = none) (hd : edgeDue d c = true) : writeSlot d c = serveEdge d c := by
  simp [writeSlot, hs, assignWrite_none hw, he, hr, hsend, hd]

theorem readSlotWrite_serves {d : Device} {c : CtxId} {r : EdgeReq} {rest : List EdgeReq} (hs : startsDue d c = false) (hw : readSlotDue d c = false)
    (he : (streamOf d c).edge = r :: rest) (hr : r.read = false) (hd : edgeDue d c = true) : readSlotWrite d c = serveEdge d c := by
  simp [readSlotWrite, hs, assignRead_none hw, he, hr, hd]

end Sys2Proof.Machine
end

section
/-! O55: streams start, take grants and slots, land and are acknowledged, and memory answers core transfers. -/

open Sys2Proof.Claims

namespace Sys2Proof.Machine

/-! ### Starts, acknowledgements and responses (R282, R284, R364) -/

theorem instanceStart_due {d : Device} {c : CtxId} {k : Nat} {x : StreamDesc} (he : executing d c = true) (hh : isHalted d c = false)
    (hx : descAt d c k = some x) (ha : (progAt d c k).active = false) (hi : (progAt d c k).inst ≤ x.repeats.toNat)
    (ht : startTick x (progAt d c k).inst ≤ tickOf d c) (hs : (progAt d c k).startFrom ≤ tickOf d c) :
    instanceStart d c k = modProg d c k fun p => { p with active := true, xfer := 0, granted := 0 } :=
  if_pos (by simp [instanceDue, he, hh, hx, ha, hi, ht, hs])

/-- The one spill of a core's outbound buffer is acknowledged. -/
theorem spillAck_single {d : Device} {c : CtxId} {o : OutItem} (ho : (streamOf d c).outbound = [o]) (hg : o.granted = true) (ha : o.acked = none)
    (he : o.error = none) (ht : o.ackDue ≤ tickOf d c + 4) (hh : heldBack d c o.held o.since = false) (hl : (outLinks d c o).all (linkOpen d) = true) :
    spillAck d c = modStream (noteLate d c (itemAddr d c o.desc o.inst o.xfer) o.ackDue o.since) c fun x => { x with
      outbound := [{ o with acked := some (if executing d c = true ∧ tickOf d c + 4 ≤ o.ackDue then 0 else periodOf d c) }] } := by
  have hfind : (streamOf d c).outbound.find? (fun o => o.granted && o.acked.isNone && o.error.isNone && decide (o.ackDue ≤ tickOf d c + 4) &&
      !heldBack d c o.held o.since && (outLinks d c o).all (linkOpen d)) = some o := by
    simp only [ho, List.find?_cons, hg, ha, he, ht, hh, hl, Option.isNone_none, decide_true, Bool.not_false, Bool.and_self]
  simp only [spillAck, hfind]
  refine modStream_congr ?_
  rw [(bankWork_noteLate _ _ _ _ _).streamOf, ho]
  simp

/-- The device with a response's lateness counted. -/
def responseNoted (d : Device) (c : CtxId) (f : Flight) : Device :=
  noteLate d c f.req.addr.toNat f.due (f.subs.foldl (fun a x => max a x.since) 0)

theorem flights_responseNoted (d : Device) (c : CtxId) (f : Flight) : (getUnit (responseNoted d c f) c).flights = (getUnit d c).flights :=
  (bankWork_noteLate _ _ _ _ _).flights c

section Response
variable {d : Device} {c : CtxId} {f : Flight} (hf : (getUnit d c).flights = [f]) (hd : responseDue d c f = true)
include hf hd

theorem response_found : (getUnit d c).flights.find? (responseDue d c) = some f := by simp [hf, hd]

/-- The data of a load comes to its flight. -/
theorem memoryResponse_load {dest : LoadDest} {bc : Bool} (he : f.error = none) (hk : f.req.kind = .load dest bc) :
    memoryResponse d c = modUnit (responseNoted d c f) c fun u => { u with
      flights := [{ f with arrived := true, data := if bc then loadData .ldbc (leBytes 8 f.data.toNat) else f.data }] } := by
  simp only [memoryResponse, response_found hf hd, he, hk]
  refine modUnit_congr ?_
  rw [← responseNoted, flights_responseNoted, hf]
  simp

theorem memoryResponse_store {v : Entry} (he : f.error = none) (hk : f.req.kind = .store v) : memoryResponse d c = endFlight (responseNoted d c f) c f := by
  simp only [memoryResponse, response_found hf hd, he, hk]
  rfl

theorem memoryResponse_error {v : Byte} (he : f.error = some v) : memoryResponse d c = failFlight (responseNoted d c f) c f v := by
  simp only [memoryResponse, response_found hf hd, he]
  rfl

end Response

/-- The only flight of a context fails. -/
theorem flights_failFlight {d : Device} {c : CtxId} {f : Flight} (h : (getUnit d c).flights = [f]) (code : Byte) :
    (getUnit (failFlight d c f code) c).flights = [{ f with arrived := true, error := some code }] := by
  have hready : (getUnit (flightReady d c f) c).flights = [f] := by
    unfold flightReady itemReady
    split
    · exact h
    · exact h
  have hset : (getUnit (setFlight (flightReady d c f) c { f with arrived := true, error := some code }) c).flights =
      [{ f with arrived := true, error := some code }] := flights_setFlight hready rfl
  unfold failFlight
  split
  · rw [getUnit_modLq, hset]
  · exact hset

/-! ### Grants, slots, landings and the edge as rules -/

theorem answers_fillGrant {s : State} {c : CtxId} {row : GrantRow} {k : Nat} {x : StreamDesc} {g : Target} (ho : GrantOpen s.dev c row)
    (hf : (getUnit s.dev c).flights = []) (hh : isHalted s.dev c = false)
    (hk : (turnAfter (vget (streamOf s.dev c).lastGrant (rowIndex row))).find? (fun k => canGrant s.dev c row (tickOf s.dev c) k) = some k)
    (hx : descAt s.dev c k = some x) (h1 : x.kind = 1) (hr : Reaches s.dev c (memAt x (progAt s.dev c k).inst (progAt s.dev c k).xfer) 64 g) :
    Answers (.memoryGrant c row) s fun e =>
      (streamOf e c).landing = (streamOf s.dev c).landing ++ [{ fillItem s.dev c k x (tickOf s.dev c) with
        data := leBits 512 (readTarget s.dev (partOfCore s.dev c.core) g 64) }] ∧
      progAt e c k = fillProgress x (tickOf s.dev c) (progAt s.dev c k) ∧
      vget (streamOf e c).lastGrant (rowIndex row) = finMod 64 k ∧ vget (streamOf e c).grantTick (rowIndex row) = tickOf s.dev c + 1 ∧
      e.hbm = s.dev.hbm ∧ e.cxl = s.dev.cxl ∧ e.reservoir = s.dev.reservoir ∧ e.scratch = s.dev.scratch := by
  have hgo := memoryGrant_stream ho hf hh hk hx ((if_pos h1).trans (grantFill_eq hr _))
  rw [modStream_modStream_same] at hgo
  refine answers_of_onDev (f := fun d => memoryGrant d c row) rfl hgo ⟨?_, ?_, ?_, ?_, rfl, rfl, rfl, rfl⟩
  · rw [streamOf_modStream_same, grantUsed]
  · rw [progAt, streamOf_modStream_same, grantUsed, vget_vmod_same, progAt]
  · rw [streamOf_modStream_same, grantUsed, vget_vset_same]
  · rw [streamOf_modStream_same, grantUsed, vget_vset_same]

theorem answers_spillGrant {s : State} {c : CtxId} {row : GrantRow} {k : Nat} {x : StreamDesc} {o : OutItem} {v : BitVec 512} {g : Target}
    (ho : GrantOpen s.dev c row) (hf : (getUnit s.dev c).flights = []) (hh : isHalted s.dev c = false)
    (hk : (turnAfter (vget (streamOf s.dev c).lastGrant (rowIndex row))).find? (fun k => canGrant s.dev c row (tickOf s.dev c) k) = some k)
    (hx : descAt s.dev c k = some x) (h2 : x.kind = 2) (hw : spillWaiting s.dev c k (tickOf s.dev c) = some o) (hv : o.data = some v)
    (hout : (streamOf s.dev c).outbound = [o]) (hr : Reaches s.dev c (memAt x o.inst o.xfer) 64 g) :
    Answers (.memoryGrant c row) s fun e => (streamOf e c).outbound = [spillGranted s.dev c x o (tickOf s.dev c)] ∧
      (let m := writeTarget s.dev (partOfCore s.dev c.core) g (leBytes 64 v.toNat); e.hbm = m.hbm ∧ e.cxl = m.cxl ∧ e.reservoir = m.reservoir) ∧
      progAt e c k = spillProgress x (tickOf s.dev c) (progAt s.dev c k) := by
  have hgo := memoryGrant_stream ho hf hh hk hx ((if_neg (by simp [h2])).trans (grantSpill_eq hr hw hv))
  rw [modStream_modStream_same] at hgo
  refine answers_of_onDev (f := fun d => memoryGrant d c row) rfl hgo ⟨?_, ⟨rfl, rfl, rfl⟩, ?_⟩
  · rw [streamOf_modStream_same, grantUsed, streamOf_writeTarget, hout]
    simp
  · rw [progAt, streamOf_modStream_same, grantUsed, vget_vmod_same, streamOf_writeTarget, progAt]

theorem answers_loadGrant {s : State} {c : CtxId} {row : GrantRow} {f : Flight} {y : SubRequest} {dest : LoadDest} {bc : Bool} {g : Target}
    (ho : GrantOpen s.dev c row) (hf : (getUnit s.dev c).flights = [f]) (hs : f.subs = [y]) (hw : wantsGrant s.dev c f row (tickOf s.dev c) = true)
    (hk : f.req.kind = .load dest bc) (hp : f.req.predOff = false) (he : f.error = none) (hr : Reaches s.dev c y.addr y.bytes g) :
    Answers (.memoryGrant c row) s fun e =>
      (getUnit e c).flights = [loadGranted s.dev c f y (readTarget s.dev (partOfCore s.dev c.core) g y.bytes) (tickOf s.dev c)] ∧
      (∀ q id, dest = .lq q id → lqOf e c q = dueEntry (lqOf s.dev c q) id (tickOf s.dev c + y.latency - 1)) ∧
      vget (streamOf e c).grantTick (rowIndex row) = tickOf s.dev c + 1 ∧ (streamOf e c).landing = (streamOf s.dev c).landing ∧
      e.hbm = s.dev.hbm ∧ e.cxl = s.dev.cxl := by
  have hgo := memoryGrant_core ho (grantCore_load hr hf hs hw hk hp he)
  generalize hz : loadGranted s.dev c f y (readTarget s.dev (partOfCore s.dev c.core) g y.bytes) (tickOf s.dev c) = z at hgo
  have hunit : getUnit (flightDue (modUnit s.dev c fun u => { u with flights := [z] }) c z) c = { getUnit s.dev c with flights := [z] } := by
    rw [getUnit_flightDue, getUnit_modUnit_same]
  have hmem := mems_flightDue (modUnit s.dev c fun u => { u with flights := [z] }) c z
  refine answers_of_onDev (f := fun d => memoryGrant d c row) rfl hgo ⟨?_, fun q id hq => ?_, ?_, ?_, hmem.other .hbm (by simp), hmem.other .cxl (by simp)⟩
  · rw [modStream, getUnit_modUnit_same, hunit]
  · have hgrants : ∀ x ∈ z.subs, x.granted ≠ none := by simp [← hz, loadGranted]
    have hkind : z.req.kind = .load (.lq q id) bc := by rw [← hz, ← hq]; exact hk
    rw [modStream, lqOf_modUnit, lqOf_flightDue hgrants hkind, lqOf_modUnit, ← hz, loadGranted]
  · rw [streamOf_modStream_same, grantUsed, vget_vset_same]
  · rw [streamOf_modStream_same, grantUsed, streamOf, hunit, streamOf]

/-- The descriptor of a write slot reads the scratchpad at the edge. -/
theorem answers_writeSlot_takes {s : State} {c : CtxId} {k : Nat} {x : StreamDesc} (hs : startsDue s.dev c = false) (hd : writeSlotDue s.dev c = true)
    (hk : writeSlotFor s.dev c = some k) (hx : descAt s.dev c k = some x) (hp : presented s.dev c = false)
    (hpad : padPowered s.dev c (padAt x (progAt s.dev c k).inst (progAt s.dev c k).xfer) 64 = true) :
    Answers (.writeSlot c) s fun e => (streamOf e c).slotTick = tickOf s.dev c + 1 ∧ (streamOf e c).lastWrite = finMod 64 k ∧
      (streamOf e c).edge = (streamOf s.dev c).edge ++ [{ read := true, slot := tickOf s.dev c, item := slotRead s.dev c k x, send := none }] ∧
      (streamOf e c).outbound = (if x.kind = 2 then (streamOf s.dev c).outbound ++ [slotSpill s.dev c k] else (streamOf s.dev c).outbound) ∧
      progAt e c k = slotProgress x (tickOf s.dev c) (progAt s.dev c k) := by
  have htake := assignWrite_takes hd hk hx hpad
  have hgo := (writeSlot_unpresented hs (by rw [htake, presented_modStream, hp])).trans htake
  refine answers_of_onDev (f := fun d => writeSlot d c) rfl hgo ⟨?_, ?_, ?_, ?_, ?_⟩
  · rw [streamOf_modStream_same]
  · rw [streamOf_modStream_same]
  · rw [streamOf_modStream_same]
  · rw [streamOf_modStream_same]
  · rw [progAt, streamOf_modStream_same, vget_vmod_same, progAt]

/-- An item of a halted core is written at once where its banks are powered, and dropped where they are not. -/
theorem landItem_halted_leaves {d : Device} {c : CtxId} {rot : Bool} {i : LandItem} (h : landDue d c rot = some i) (hh : isHalted d c = true) :
    (streamOf (landItem d c rot) c).landing = (streamOf d c).landing.erase i ∧
    (memoriesWf d = true → padPowered d c i.offset 64 = true →
      PadWrote d (landItem d c rot) c i.offset (leBytes 64 i.data.toNat) ∧ ItemCounted d (landItem d c rot) c i) ∧
    (padPowered d c i.offset 64 = false → (landItem d c rot).scratch = d.scratch) := by
  rw [landItem_halted h hh]
  refine ⟨?_, fun hwf hp => ?_, fun hp => ?_⟩
  · split
    · exact (streamOf_landWrite_proj (·.landing) (fun _ _ _ => rfl) _ _ _ _).trans (landing_landDropped d c i rot)
    · exact landing_landDropped d c i rot
  · rw [if_pos hp]
    exact landWrite_from (keepsProgress_landDropped d c i rot) (mems_landDropped d c i rot) hwf
  · rw [if_neg (by simp [hp])]
    exact (mems_landDropped d c i rot).other .scratch (by simp)

/-- What a landing comes to, of either kind of item. -/
theorem answers_landing {s : State} {c : CtxId} {i : LandItem} {cmd : Instr} {rot : Bool} (hcmd : exec cmd s = onDev (fun d => landItem d c rot) s)
    (hi : landDue s.dev c rot = some i) :
    (isHalted s.dev c = false → Gives cmd s (modStream (lateNoted s.dev c i rot) c fun x => { x with
      landing := x.landing.map fun y => if y = i then { i with landed := some (periodOf s.dev c) } else y })) ∧
    (isHalted s.dev c = true → memoriesWf s.dev = true → padPowered s.dev c i.offset 64 = true → Answers cmd s fun e =>
      (streamOf e c).landing = (streamOf s.dev c).landing.erase i ∧ PadWrote s.dev e c i.offset (leBytes 64 i.data.toNat) ∧ ItemCounted s.dev e c i) ∧
    (isHalted s.dev c = true → padPowered s.dev c i.offset 64 = false → Answers cmd s fun e =>
      (streamOf e c).landing = (streamOf s.dev c).landing.erase i ∧ e.scratch = s.dev.scratch) := by
  refine ⟨fun hh => gives_of_onDev hcmd (landItem_lands hi hh), fun hh hwf hp => ?_, fun hh hp => ?_⟩
  · obtain ⟨hland, hwrite, -⟩ := landItem_halted_leaves hi hh
    exact answers_of_onDev hcmd rfl ⟨hland, hwrite hwf hp⟩
  · obtain ⟨hland, -, hdrop⟩ := landItem_halted_leaves hi hh
    exact answers_of_onDev hcmd rfl ⟨hland, hdrop hp⟩

/-- A write at the edge puts its item at its offset and counts it. -/
theorem answers_edgeWrite {s : State} {c : CtxId} {r : EdgeReq} {rest : List EdgeReq} (hs : startsDue s.dev c = false) (hw : readSlotDue s.dev c = false)
    (he : (streamOf s.dev c).edge = r :: rest) (hr : r.read = false) (hd : edgeDue s.dev c = true) (hp : padPowered s.dev c r.item.offset 64 = true)
    (hn : r.item.error = none) (hwf : memoriesWf s.dev = true) :
    Answers (.readSlotWrite c) s fun e => (streamOf e c).edge = rest ∧ (streamOf e c).edgeTick = tickOf s.dev c + 1 ∧
      PadWrote s.dev e c r.item.offset (leBytes 64 r.item.data.toNat) ∧ ItemCounted s.dev e c r.item := by
  have hgo := (readSlotWrite_serves hs hw he hr hd).trans (serveEdge_write he hp hn hr)
  have hleft : ∀ {β : Type} (g : StreamUnit → β), (∀ s p l, g { s with progs := p, lastDone := l } = g s) →
      g (streamOf (landWrite (edgeTaken s.dev c r.item rest) c r.item) c) = g (edgeLeft rest (tickOf s.dev c) (streamOf s.dev c)) := fun g h => by
    rw [streamOf_landWrite_proj g h, streamOf_edgeTaken]
  exact answers_of_onDev (f := fun d => readSlotWrite d c) rfl hgo ⟨hleft (·.edge) fun _ _ _ => rfl, hleft (·.edgeTick) fun _ _ _ => rfl,
    landWrite_from (keepsProgress_edgeTaken s.dev c r.item rest) (mems_edgeTaken s.dev c r.item rest) hwf⟩

theorem edge_landingAdded (d : Device) (m c : CtxId) (l : List LandItem) :
    (streamOf (modStream d m fun s => { s with landing := s.landing ++ l }) c).edge = (streamOf d c).edge :=
  streamOf_modStream_proj (·.edge) d m c fun _ => rfl

/-- A read at the edge fills a spill's outbound entry, or travels to a rotation's successor. -/
theorem answers_edgeRead {s : State} {c : CtxId} {r : EdgeReq} {rest : List EdgeReq} (hs : startsDue s.dev c = false) (hw : writeSlotDue s.dev c = false)
    (he : (streamOf s.dev c).edge = r :: rest) (hr : r.read = true) (hsend : r.send = none) (hd : edgeDue s.dev c = true)
    (hp : padPowered s.dev c r.item.offset 64 = true) (hn : r.item.error = none) (hb : s.dev.scratchBad = [])
    (ha : isArmed s.dev 0x100 (coreUnit c) = false) :
    let v : BitVec 512 := leBits 512 (readPad s.dev c r.item.offset 64)
    (r.item.rotation = false → Answers (.writeSlot c) s fun e => (streamOf e c).edge = rest ∧ (streamOf e c).edgeTick = tickOf s.dev c + 1 ∧
      (streamOf e c).outbound = ((streamOf s.dev c).outbound.map fun o =>
        if o.desc = r.item.desc ∧ o.inst = r.item.inst ∧ o.xfer = r.item.xfer then { o with data := some v } else o) ∧ e.scratch = s.dev.scratch) ∧
    (∀ g x, r.item.rotation = true → progOf s.dev c = some g → descAt s.dev c r.item.desc = some x →
      (getCore s.dev (ringNext g c).core).inReset = false → Answers (.writeSlot c) s fun e => (streamOf e c).edge = rest ∧
        (streamOf e (ringNext g c)).landing = (streamOf s.dev (ringNext g c)).landing ++ [{ r.item with
          offset := nextAt x r.item.inst r.item.xfer
          data := v
          lambda := r.slot + remoteLatency s.dev (isPortable s.dev c) c.core (ringNext g c).core
          cause := 2 }] ∧ e.scratch = s.dev.scratch) := by
  have hserve := writeSlot_serves hs hw he hr hsend hd
  refine ⟨fun hrot => ?_, fun g x hrot hg hx hm => ?_⟩
  · refine answers_of_onDev (f := fun d => writeSlot d c) rfl (hserve.trans (serveEdge_spill he hp hn hr hrot hb ha)) ⟨?_, ?_, ?_, rfl⟩
    · rw [streamOf_modStream_same, streamOf_edgeTaken, edgeLeft]
    · rw [streamOf_modStream_same, streamOf_edgeTaken, edgeLeft]
    · rw [streamOf_modStream_same, streamOf_edgeTaken, edgeLeft]
  · refine answers_of_onDev (f := fun d => writeSlot d c) rfl (hserve.trans (serveEdge_rotation he hp hn hr hrot hb ha hg hx hm)) ⟨?_, ?_, rfl⟩
    · rw [edge_landingAdded, streamOf_edgeTaken, edgeLeft]
    · rw [streamOf_modStream_same, landing_edgeTaken]

/-- A late answer of a CXL port is counted there and recorded. -/
theorem noteLate_counts {d : Device} {c : CtxId} {a due since : Nat} (ha : a / 2 ^ 44 = 4) (hs : since = 0) (h : executing d c = false ∨ due < tickOf d c)
    (he : d.err.events = []) : let port := (cxlMap d (partOfCore d c.core) (a % 2 ^ 44)).1
    (vget (noteLate d c a due since).cxlPorts port).late = satAdd (vget d.cxlPorts port).late 1 ∧ (noteLate d c a due since).cores = d.cores ∧
      Logged (noteLate d c a due since) 0x132 (BitVec.ofNat 16 port.val) 1 0 := by
  intro port
  refine ⟨?_, cores_noteLate _ _ _ _ _, ?_⟩
  · rw [noteLate_late ha hs h, (reported_detectAt _ _).cxlPorts, port_modPort_same]
  · rw [noteLate_late ha hs h]
    exact logged_detectAt (d := modPort d port fun p => { p with late := satAdd p.late 1 }) he

end Sys2Proof.Machine

open Sys2Proof.Machine

/-- Settles O55: a grant by what memory gives its request, a slot and the edge by what they make of the stream unit, a landing by its write and what
is counted, and an acknowledgement or a response by the late answer that it may note. -/
theorem streamsMoveTheirTransfers : Obligations.StreamsMoveTheirTransfers := by
  unfold Obligations.StreamsMoveTheirTransfers
  refine ⟨?_, ?_, ?_, ?_, ?_, ?_, ?_, ?_, ?_, ?_, ?_, ?_⟩
  · intro s c k x he hh hx p ha hi ht hs
    exact gives_of_onDev (f := fun d => instanceStart d c k.val) rfl (instanceStart_due he hh hx ha hi ht hs)
  · intro s c row k x g t p a hd ht hs hf hh hk hx h1 harm hport hres hheld
    exact answers_fillGrant ⟨hd, ht, hs⟩ hf hh hk hx h1 ⟨harm, hport, hres, hheld⟩
  · intro s c row k x o v g t p a hd ht hs hf hh hk hx h2 hw hv hout harm hport hres hheld
    exact answers_spillGrant ⟨hd, ht, hs⟩ hf hh hk hx h2 hw hv hout ⟨harm, hport, hres, hheld⟩
  · intro s c row f y dest bc g t hd ht hs hf hsub hw hk hp he harm hport hres hheld
    exact answers_loadGrant ⟨hd, ht, hs⟩ hf hsub hw hk hp he ⟨harm, hport, hres, hheld⟩
  · intro s c k x t p hs hd hk hx hpres hpad
    refine answers_mono (answers_writeSlot_takes hs hd hk hx hpres hpad) fun e ⟨htick, hlast, hedge, hout, hprog⟩ =>
      ⟨htick, hlast, ⟨_, hedge, rfl, rfl, rfl, rfl, rfl, rfl⟩, fun h2 => ?_, fun h3 => ?_⟩
    · exact ⟨by rw [hprog, slotProgress, h2]; rfl, _, by rw [hout, if_pos h2], rfl, rfl, rfl, rfl, rfl, rfl⟩
    · refine ⟨by rw [hout, if_neg (by simp [h3])], ?_⟩
      simp only [hprog, slotProgress, h3, decide_true, Bool.true_and, decide_eq_true_eq]
      rfl
  · intro s c r rest hs hw he hr hsend hd hp hn hb ha
    exact answers_edgeRead hs hw he hr hsend hd hp hn hb ha
  · intro s c i cmd rot hcmd hi
    simp only [List.mem_cons, List.not_mem_nil, or_false, Prod.mk.injEq] at hcmd
    rcases hcmd with ⟨rfl, rfl⟩ | ⟨rfl, rfl⟩
    · exact answers_landing rfl hi
    · exact answers_landing rfl hi
  · intro d c a due since port
    exact ⟨noteLate_timely, noteLate_counts⟩
  · intro s c i hs hd hi hp he
    have htake := assignRead_takes hd hi he
    exact gives_of_onDev (f := fun d => readSlotWrite d c) rfl
      ((readSlotWrite_unpresented hs (by rw [htake, presented_modStream, hp])).trans htake)
  · intro s c r rest hs hw he hr hd hp hn hwf
    exact answers_edgeWrite hs hw he hr hd hp hn hwf
  · intro s c o ho hg ha he ht hh hl
    exact gives_of_onDev (f := fun d => spillAck d c) rfl (spillAck_single ho hg ha he ht hh hl)
  · intro s c f hf hd
    have hfl := (flights_responseNoted s.dev c f).trans hf
    refine ⟨fun dest bc he hk => ?_, fun v he hk => ?_, fun v he => ?_⟩
    · exact gives_of_onDev (f := fun d => memoryResponse d c) rfl (memoryResponse_load hf hd he hk)
    · have hmem := mems_memoryResponse s.dev c
      refine answers_of_onDev (f := fun d => memoryResponse d c) rfl rfl
        ⟨?_, hmem.other .scratch (by simp), hmem.other .hbm (by simp), hmem.other .cxl (by simp)⟩
      rw [memoryResponse_store hf hd he hk]
      exact flights_endFlight hfl
    · exact answers_of_onDev (f := fun d => memoryResponse d c) rfl (memoryResponse_error hf hd he) (flights_failFlight hfl v)
end

section
/-! Planes of Buoth Link: what an update of one leaves of the others, how a plane leaves its state, and the rule that FAB_CTRL
gives each (R336, R340, R342, R345). -/

open Sys2Proof.Claims

namespace Sys2Proof.Machine

/-! ### Updates of a plane -/

theorem getPlane_modPlane_other (d : Device) (p q : Fin 8) (f : PlaneLink → PlaneLink) (h : p ≠ q) : getPlane (modPlane d p f) q = getPlane d q :=
  vget_vmod_other _ _ _ _ h

theorem modPlane_modPlane_same (d : Device) (p : Fin 8) (f g : PlaneLink → PlaneLink) :
    modPlane (modPlane d p f) p g = modPlane d p fun x => g (f x) := by
  simp only [modPlane, vmod_vmod_same]

theorem getPlane_of_fab {d e : Device} (h : e.fab = d.fab) (p : Fin 8) : getPlane e p = getPlane d p := by rw [getPlane, h, getPlane]

/-- The planes with one changed: that one as the change makes it, each other as it was. -/
theorem getPlane_of_planes {d e : Device} {p : Fin 8} {f : PlaneLink → PlaneLink} (h : e.fab.planes = vmod d.fab.planes p f) :
    getPlane e p = f (getPlane d p) ∧ ∀ q, q ≠ p → getPlane e q = getPlane d q := by
  simp only [getPlane, h]
  exact ⟨vget_vmod_same _ _ _, fun q hq => vget_vmod_other _ _ _ _ (Ne.symm hq)⟩

/-! ### A plane links, and leaves its state (R340, R345) -/

theorem planeLinked_training {d : Device} {p : Fin 8} (h : (getPlane d p).st = .training) : planeLinked d p =
    { modPlane d p (fun x => { freshLink x .linked with lanesOk := 0xFFFF, goodTime := elapsedNs d, ackTime := elapsedNs d }) with
      clock := { d.clock with stopped := d.clock.stopped &&& ~~~ ((1 : BitVec 26) <<< (12 + p.val)) } } := if_pos h

/-- The frames that leave the retry buffer of a plane as it leaves its state: an ACTIVE one's. -/
def movedFrames (x : PlaneLink) : List TxFrame := if x.st = .active then x.retained.map fun r => { r.2 with resend := true } else []

theorem newTimePlane_eq (d : Device) : ∃ t, newTimePlane d = { d with fab := { d.fab with timePlane := t } } := by
  unfold newTimePlane
  split
  · exact ⟨_, rfl⟩
  · exact ⟨d.fab.timePlane, rfl⟩

theorem leavePlane_down (d : Device) (p : Fin 8) {st : PlaneMode} (h : st ≠ .isolated) : ∃ t, leavePlane d p st = { d with fab := { d.fab with
    planes := vmod d.fab.planes p (downLink · st)
    moved := d.fab.moved ++ movedFrames (getPlane d p)
    timePlane := t } } := by
  unfold leavePlane movedFrames
  simp only [if_neg h]
  split
  · exact newTimePlane_eq _
  · obtain ⟨t, ht⟩ := newTimePlane_eq (modPlane d p (downLink · st))
    exact ⟨t, ht.trans (by simp [modPlane])⟩

theorem st_downLink (x : PlaneLink) (st : PlaneMode) : (downLink x st).st = st := rfl

theorem retrains_downLink (x : PlaneLink) (st : PlaneMode) :
    (downLink x st).retrains = if x.beenActive && st != .disabled then satAdd x.retrains 1 else x.retrains := by
  unfold downLink freshLink
  split <;> rfl

/-- What a link keeps as it goes down: its lanes and its position. -/
theorem downLink_keeps (x : PlaneLink) (st : PlaneMode) : (downLink x st).lanesOk = x.lanesOk ∧ (downLink x st).posn = x.posn := by
  unfold downLink freshLink
  split <;> exact ⟨rfl, rfl⟩

theorem downState_ne_isolated (d : Device) (p : Fin 8) : downState d p ≠ .isolated := by
  unfold downState
  split
  · decide
  · split <;> decide

/-- A plane that goes down: its event is recorded, its frames move, and its link starts afresh. -/
theorem planeDown_eq (d : Device) (p : Fin 8) : ∃ x t, Reported d x ∧ (d.err.events = [] → Logged x 0x123 (BitVec.ofNat 16 p.val) 1 0) ∧
    planeDown d p = { x with fab := { d.fab with
      planes := vmod d.fab.planes p (downLink · (downState d p))
      moved := d.fab.moved ++ movedFrames (getPlane d p)
      timePlane := t } } := by
  have hrep := reported_detectAt d (hubEvent 0x123 p.val 1 0)
  obtain ⟨t, ht⟩ := leavePlane_down (detectAt d (hubEvent 0x123 p.val 1 0)) p (downState_ne_isolated d p)
  refine ⟨_, t, hrep, fun he => logged_detectAt he, ?_⟩
  rw [planeDown, ht, getPlane_of_fab hrep.fab, hrep.fab]

theorem downed_planeDown {d : Device} (he : d.err.events = []) (p : Fin 8) : Downed d (planeDown d p) p := by
  obtain ⟨x, t, hx, hlog, hgo⟩ := planeDown_eq d p
  obtain ⟨hp, ho⟩ := getPlane_of_planes (d := d) (e := planeDown d p) (p := p) (f := (downLink · (downState d p))) (by rw [hgo])
  obtain ⟨-, hposn⟩ := downLink_keeps (getPlane d p) (downState d p)
  refine ⟨?_, ?_, ?_, ?_, ho, ?_, fun q => ?_, ?_, ?_, ?_⟩
  · rw [hp, st_downLink, downState]
    cases d.fab.planeEn.getLsbD p.val <;> rfl
  · rw [hp]; rfl
  · rw [hp]; rfl
  · rw [hp]; rfl
  · rw [hgo]; rfl
  · rw [hgo]
    exact (by rw [hx.part q] : (getPart x q).txq = (getPart d q).txq)
  · rw [hp, retrains_downLink, downState]
    cases d.fab.planeEn.getLsbD p.val <;> cases d.fab.fabEn <;> simp
  · rw [hp, hposn]
  · rw [hgo]
    exact hlog he

theorem lanesOk_planeDown (d : Device) (p : Fin 8) : (getPlane (planeDown d p) p).lanesOk = (getPlane d p).lanesOk := by
  obtain ⟨x, t, -, -, hgo⟩ := planeDown_eq d p
  rw [(getPlane_of_planes (d := d) (e := planeDown d p) (p := p) (f := (downLink · (downState d p))) (by rw [hgo])).1]
  exact (downLink_keeps _ _).1

theorem stopped_planeDown (d : Device) (p : Fin 8) : (planeDown d p).clock.stopped = d.clock.stopped := by
  obtain ⟨x, t, hx, -, hgo⟩ := planeDown_eq d p
  rw [hgo]
  exact congrArg (·.clock.stopped) hx.rest

/-- Lanes that were lost before do not matter to what going down leaves. -/
theorem downed_of_lanes {d e : Device} {p : Fin 8} {v : BitVec 16} (h : Downed (modPlane d p fun x => { x with lanesOk := v }) e p) : Downed d e p := by
  obtain ⟨hst, hret, hexp, hseq, ho, hmoved, htxq, htrain, hposn, hlog⟩ := h
  rw [getPlane_modPlane_same] at hmoved htrain hposn
  exact ⟨hst, hret, hexp, hseq, fun q hq => (ho q hq).trans (getPlane_modPlane_other _ _ _ _ (Ne.symm hq)), hmoved, htxq, htrain, hposn, hlog⟩

/-- The loss of lanes takes the plane down, and then stops its clock. -/
theorem lossOfLanes_up {d : Device} {p : Fin 8} {lanes : BitVec 16} (he : d.err.events = []) (hu : planeUp (getPlane d p).st = true) (hl : lanes ≠ 0) :
    ∃ x, Downed d x p ∧ (getPlane x p).lanesOk = (getPlane d p).lanesOk &&& ~~~ lanes ∧ x.clock.stopped = d.clock.stopped ∧
      lossOfLanes d p lanes = { x with clock := { x.clock with stopped := x.clock.stopped ||| ((1 : BitVec 26) <<< (12 + p.val)) } } := by
  have hmod : modPlane d p (fun x => { x with lanesOk := x.lanesOk &&& ~~~ lanes }) =
      modPlane d p fun x => { x with lanesOk := (getPlane d p).lanesOk &&& ~~~ lanes } := by
    simp only [modPlane, vmod, getPlane]
  refine ⟨planeDown (modPlane d p fun x => { x with lanesOk := (getPlane d p).lanesOk &&& ~~~ lanes }) p,
    downed_of_lanes (downed_planeDown (by rwa [modPlane_err]) p), by rw [lanesOk_planeDown, getPlane_modPlane_same],
    by rw [stopped_planeDown, modPlane_clock], ?_⟩
  simp only [lossOfLanes, hu, hmod, bne_iff_ne.2 hl, Bool.and_self, if_true]

theorem linkSilence_down {d : Device} {p : Fin 8} (hu : planeUp (getPlane d p).st = true)
    (h : (getPlane d p).goodTime + 20000 ≤ elapsedNs d ∨ 16 ≤ (getPlane d p).tries) : linkSilence d p = planeDown d p := by
  have hgo : (decide ((getPlane d p).goodTime + 20000 ≤ elapsedNs d) || decide (16 ≤ (getPlane d p).tries)) = true := by simpa using h
  simp only [linkSilence, hu, hgo, Bool.true_or, Bool.and_self, if_true]

theorem retryTimeout_due {d : Device} {p : Fin 8} (hu : planeUp (getPlane d p).st = true) (hr : (getPlane d p).retained ≠ [])
    (ht : (getPlane d p).ackTime + 4000 ≤ elapsedNs d) :
    retryTimeout d p = modPlane d p fun x => { x with resendq := x.retained, ackTime := elapsedNs d } := by
  have hr' : (getPlane d p).retained.isEmpty = false := by simpa using hr
  simp only [retryTimeout, hu, hr', decide_eq_true ht, Bool.not_false, Bool.and_self, if_true]

/-! ### FAB_CTRL (R342) -/

/-- The settings that a write of FAB_CTRL leaves. -/
def fabRuled (d : Device) (v : W64) : Fabric :=
  let f := { d.fab with planeEn := BitVec.ofNat 8 (fieldNat v 23 16), killEn := v.getLsbD 2 }
  if anyLoaded d then f
  else
    let f := { f with fabEn := v.getLsbD 0, addrSrc := v.getLsbD 1, hostIndex := BitVec.ofNat 16 (fieldNat v 63 48) }
    let f := if f.fabEn then f else { f with valid := false, index := 0, fabricId := 0 }
    if f.addrSrc then { f with valid := true, index := f.hostIndex, fabricId := 0 } else f

/-- What a write of FAB_CTRL does to a plane. -/
def planeRuled (f : Fabric) (d : Device) (p : Fin 8) : Device :=
  let st := (getPlane d p).st
  if !f.planeEn.getLsbD p.val then (if st = .disabled then d else leavePlane d p .disabled)
  else if !f.fabEn then (if st = .down then d else leavePlane d p .down)
  else if st = .down || st = .disabled then modPlane d p fun x => freshLink x .training
  else d

theorem fabCtrlWrite_eq (d : Device) (v : W64) :
    fabCtrlWrite d v = forAll (List.finRange 8) { d with fab := fabRuled d v } (planeRuled (fabRuled d v)) := rfl

/-- The state that the settings give a plane. -/
def ruledState (f : Fabric) (p : Fin 8) (st : PlaneMode) : PlaneMode :=
  if f.planeEn.getLsbD p.val = false then .disabled else if f.fabEn = false then .down else if st = .down ∨ st = .disabled then .training else st

/-- Settings of the fabric beside its planes, and the cores. -/
def fabSettings (d : Device) : Byte × Bool × Bool × Bool × BitVec 16 × Bool × BitVec 16 × Vector Core 512 :=
  (d.fab.planeEn, d.fab.killEn, d.fab.fabEn, d.fab.addrSrc, d.fab.hostIndex, d.fab.valid, d.fab.index, d.cores)

/-- The rule of a plane changes that plane, and of the rest the frames that moved and the time plane alone. -/
theorem planeRuled_eq (f : Fabric) (d : Device) (p : Fin 8) : ∃ g m t, planeRuled f d p = { d with fab := { d.fab with
    planes := vmod d.fab.planes p g, moved := m, timePlane := t } } ∧ (g (getPlane d p)).st = ruledState f p (getPlane d p).st := by
  have hid : vmod d.fab.planes p id = d.fab.planes := by simp [vmod, vset, vget]
  have hleave : ∀ st, st ≠ .isolated → ∃ g m t, (if (getPlane d p).st = st then d else leavePlane d p st) = { d with fab := { d.fab with
      planes := vmod d.fab.planes p g, moved := m, timePlane := t } } ∧ (g (getPlane d p)).st = st := fun st h => by
    by_cases hst : (getPlane d p).st = st
    · exact ⟨id, d.fab.moved, d.fab.timePlane, by rw [if_pos hst, hid], hst⟩
    · obtain ⟨t, ht⟩ := leavePlane_down d p h
      exact ⟨_, _, t, by rw [if_neg hst, ht], rfl⟩
  unfold planeRuled ruledState
  cases f.planeEn.getLsbD p.val with
  | false => exact hleave .disabled (by decide)
  | true =>
    cases f.fabEn with
    | false => exact hleave .down (by decide)
    | true =>
      by_cases hst : (getPlane d p).st = .down ∨ (getPlane d p).st = .disabled
      · exact ⟨(freshLink · .training), d.fab.moved, d.fab.timePlane, by simp [hst, modPlane], by simp [hst, freshLink]⟩
      · exact ⟨id, d.fab.moved, d.fab.timePlane, by simp [hst, hid], by simp [hst]⟩

theorem fabSettings_fabCtrlWrite (d : Device) (v : W64) : fabSettings (fabCtrlWrite d v) = fabSettings { d with fab := fabRuled d v } := by
  rw [fabCtrlWrite_eq]
  refine forAll_proj fabSettings (fun e p => ?_) _ _
  obtain ⟨g, m, t, hgo, -⟩ := planeRuled_eq (fabRuled d v) e p
  rw [hgo]
  rfl

/-- Of a fold over distinct entries, one alone changes a part of the device: the fold changes it as that one does. -/
theorem forAll_point {α β : Type} (g : Device → β) (F : β → β) {f : Device → α → Device} {x : α} (hx : ∀ e, g (f e x) = F (g e))
    (ho : ∀ e y, y ≠ x → g (f e y) = g e) {l : List α} : ∀ d, l.Nodup → x ∈ l → g (forAll l d f) = F (g d) := by
  induction l with
  | nil => exact fun _ _ h => absurd h (by simp)
  | cons y l ih =>
    intro d hn h
    obtain ⟨hy, hl⟩ := List.nodup_cons.1 hn
    rcases List.mem_cons.1 h with rfl | hm
    · have hrest : ∀ l' : List α, x ∉ l' → ∀ e, g (forAll l' e f) = g e := fun l' => by
        induction l' with
        | nil => exact fun _ _ => rfl
        | cons z l' ih' =>
          intro hz e
          obtain ⟨hzx, hl'⟩ := not_or.1 (mt List.mem_cons.2 hz)
          exact (ih' hl' (f e z)).trans (ho e z (Ne.symm hzx))
      exact (hrest l hy (f d x)).trans (hx d)
    · have hne : y ≠ x := fun e => hy (e ▸ hm)
      exact (ih (f d y) hl hm).trans (congrArg F (ho d y hne))

theorem planes_fabRuled (d : Device) (v : W64) : (fabRuled d v).planes = d.fab.planes := by
  unfold fabRuled
  split
  · rfl
  · simp only []
    split <;> split <;> rfl

theorem st_fabCtrlWrite (d : Device) (v : W64) (p : Fin 8) :
    (getPlane (fabCtrlWrite d v) p).st = ruledState (fabRuled d v) p (getPlane d p).st := by
  have hstart : getPlane { d with fab := fabRuled d v } p = getPlane d p := by rw [getPlane, planes_fabRuled, getPlane]
  rw [fabCtrlWrite_eq, ← hstart]
  refine forAll_point (fun e => (getPlane e p).st) (ruledState (fabRuled d v) p) (fun e => ?_) (fun e q hq => ?_) _ (List.nodup_finRange 8) (List.mem_finRange p)
  · obtain ⟨g, m, t, hgo, hst⟩ := planeRuled_eq (fabRuled d v) e p
    rw [← hst, hgo]
    exact congrArg PlaneLink.st (vget_vmod_same _ _ _)
  · obtain ⟨g, m, t, hgo, -⟩ := planeRuled_eq (fabRuled d v) e q
    rw [hgo]
    exact congrArg PlaneLink.st (vget_vmod_other _ _ _ _ hq)

theorem ofNat_fieldNat {w n hi lo : Nat} (v : BitVec w) (h : hi + 1 = lo + n) : BitVec.ofNat n (fieldNat v hi lo) = v.extractLsb' lo n := by
  apply BitVec.eq_of_toNat_eq
  rw [fieldNat, h, Nat.add_sub_cancel_left, BitVec.toNat_ofNat, Nat.mod_mod, BitVec.extractLsb'_toNat, Nat.shiftRight_eq_div_pow]

theorem planeEn_fabRuled (d : Device) (v : W64) : (fabRuled d v).planeEn = v.extractLsb' 16 8 := by
  rw [← ofNat_fieldNat (n := 8) (hi := 23) (lo := 16) v rfl]
  unfold fabRuled
  split
  · rfl
  · simp only []
    split <;> split <;> rfl

theorem killEn_fabRuled (d : Device) (v : W64) : (fabRuled d v).killEn = v.getLsbD 2 := by
  unfold fabRuled
  split
  · rfl
  · simp only []
    split <;> split <;> rfl

/-- The settings after a write while a program is loaded. -/
theorem fabRuled_loaded {d : Device} (v : W64) (h : anyLoaded d = true) :
    fabRuled d v = { d.fab with planeEn := BitVec.ofNat 8 (fieldNat v 23 16), killEn := v.getLsbD 2 } := if_pos h

/-- The address settings after a write while nothing is loaded. -/
theorem fabRuled_unloaded {d : Device} (v : W64) (h : anyLoaded d = false) : let f := fabRuled d v
    f.fabEn = v.getLsbD 0 ∧ f.addrSrc = v.getLsbD 1 ∧ f.hostIndex = v.extractLsb' 48 16 ∧ f.valid = (v.getLsbD 1 || (v.getLsbD 0 && d.fab.valid)) ∧
      f.index = if v.getLsbD 1 = true then v.extractLsb' 48 16 else if v.getLsbD 0 = true then d.fab.index else 0 := by
  rw [← ofNat_fieldNat (n := 16) (hi := 63) (lo := 48) v rfl]
  simp only [fabRuled, h, Bool.false_eq_true, if_false]
  cases v.getLsbD 0 <;> cases v.getLsbD 1 <;> exact ⟨rfl, rfl, rfl, rfl, rfl⟩

end Sys2Proof.Machine
end

section
/-! Positions of Buoth Link and the frames that they carry (R330, R331, R336–R338, R344, R345). -/

open Sys2Proof.Claims

namespace Sys2Proof.Machine

/-! ### Positions (R331) -/

/-- The positions of the kind that carries a beacon's answer. -/
def answerAt (n : Nat) : Prop := n / 16 % 16 = 0 ∧ n % 16 = n / 16 / 8 % 16

theorem ownPosition_iff {d : Device} {q : PartId} {n : BitVec 24} :
    ownPosition d q n = true ↔ ¬ answerAt n.toNat ∧ n.toNat % 16 % d.config = q.val := by
  simp only [ownPosition, controlAt, Bool.and_eq_true, Bool.not_eq_true', ← Bool.not_eq_true, decide_eq_true_eq]
  rfl

/-- Such positions recur with a period of 2,048, once in every 16 slots of it. -/
theorem mod_of_answerAt {n : Nat} (h : answerAt n) : ∃ j < 8, n % 2048 = 258 * j := by
  obtain ⟨hs, hn⟩ := h
  have hlow : n % 256 = n % 16 := by omega
  have hhigh : n / 16 / 8 % 16 = 2 * (n / 256 % 8) := by omega
  exact ⟨n / 256 % 8, by omega, by omega⟩

/-- Of two positions less than a slot apart one alone carries an answer. -/
theorem not_answerAt_both {x c : Nat} (hc : 0 < c) (h : c < 16) (hx : answerAt x) : ¬ answerAt ((x + c) % 2 ^ 24) := by
  intro hy
  obtain ⟨i, hi, hxi⟩ := mod_of_answerAt hx
  obtain ⟨j, hj, hyj⟩ := mod_of_answerAt hy
  rw [Nat.mod_mod_of_dvd _ (by decide), ← Nat.mod_add_mod, hxi, Nat.mod_eq_of_lt (by omega)] at hyj
  omega

/-- Of 8 positions in a row one is the partition's, whatever answer lies among them. -/
theorem exists_ownPosition {d : Device} {q : PartId} (n : BitVec 24) (hq : q.val < d.config) (hc : d.config = 1 ∨ d.config = 2 ∨ d.config = 4) :
    ∃ k < 8, ownPosition d q (n + BitVec.ofNat 24 k) = true := by
  have hpos : ∀ k, k < 8 → (n + BitVec.ofNat 24 k).toNat = (n.toNat + k) % 2 ^ 24 := fun k _ => by simp [BitVec.toNat_add]
  have hturn : ∃ k, k + d.config < 8 ∧ 0 < d.config ∧ d.config < 16 ∧ (n.toNat + k) % 2 ^ 24 % 16 % d.config = q.val ∧
      ((n.toNat + k) % 2 ^ 24 + d.config) % 2 ^ 24 % 16 % d.config = q.val := by
    refine ⟨(16 + q.val - n.toNat % 16) % d.config, ?_⟩
    rcases hc with hc | hc | hc <;> rw [hc] at hq ⊢ <;> omega
  obtain ⟨k, hk, hpositive, hslot, hfirst, hsecond⟩ := hturn
  by_cases hx : answerAt ((n.toNat + k) % 2 ^ 24)
  · refine ⟨k + d.config, hk, ownPosition_iff.2 ?_⟩
    rw [hpos _ hk, ← Nat.add_assoc, ← Nat.mod_add_mod]
    exact ⟨not_answerAt_both hpositive hslot hx, hsecond⟩
  · refine ⟨k, by omega, ownPosition_iff.2 ?_⟩
    rw [hpos _ (by omega)]
    exact ⟨hx, hfirst⟩

/-- A plane that is in a position of the kind stays there. -/
theorem passToNext_here {d : Device} {p : Fin 8} {kind : BitVec 24 → Bool} (h : kind (getPlane d p).posn = true) : passToNext d p kind = d := by
  have hfind : (List.range 258).find? (fun k => kind ((getPlane d p).posn + BitVec.ofNat 24 k)) = some 0 := by
    rw [List.range_succ_eq_map, List.find?_cons_of_pos]
    simpa using h
  have hzero : (getPlane d p).posn + BitVec.ofNat 24 0 = (getPlane d p).posn := BitVec.add_zero _
  simp only [passToNext, hfind, Option.elim_some, hzero, passTo, if_true]

theorem posn_passTo (d : Device) (p : Fin 8) (n : BitVec 24) : (getPlane (passTo d p n) p).posn = n := by
  unfold passTo
  split
  · assumption
  · rw [getPlane_modPlane_same]

/-- A plane comes to a position of the kind, where one recurs. -/
theorem posn_passToNext {d : Device} {p : Fin 8} {kind : BitVec 24 → Bool} {k : Nat} (hk : k < 258)
    (h : kind ((getPlane d p).posn + BitVec.ofNat 24 k) = true) : kind (getPlane (passToNext d p kind) p).posn = true := by
  unfold passToNext
  rw [posn_passTo]
  cases hfind : (List.range 258).find? fun k => kind ((getPlane d p).posn + BitVec.ofNat 24 k) with
  | none => exact absurd h (List.find?_eq_none.1 hfind k (List.mem_range.2 hk))
  | some m => exact List.find?_some (p := fun k => kind ((getPlane d p).posn + BitVec.ofNat 24 k)) hfind

/-! ### A frame leaves -/

theorem buildFrame_congr {d e : Device} {p : Fin 8} (hx : (getPlane e p).expect = (getPlane d p).expect) (hn : (getPlane e p).nakDue = (getPlane d p).nakDue)
    (hf : (getPlane e p).freed = (getPlane d p).freed) (hc : e.config = d.config) (kind : Nat) (resent retried : Bool) (seq dst src first : Nat)
    (body : BitVec 1792) : buildFrame e p kind resent retried seq dst src first body = buildFrame d p kind resent retried seq dst src first body := by
  simp only [buildFrame, ackField, creditField, creditBuffer, hx, hn, hf, hc]

theorem buildFrame_modPlane (d : Device) (p : Fin 8) {g : PlaneLink → PlaneLink}
    (h : ∀ x, (g x).expect = x.expect ∧ (g x).nakDue = x.nakDue ∧ (g x).freed = x.freed) : buildFrame (modPlane d p g) p = buildFrame d p := by
  obtain ⟨hx, hn, hf⟩ := h (getPlane d p)
  funext kind resent retried seq dst src first body
  exact buildFrame_congr (by rwa [getPlane_modPlane_same]) (by rwa [getPlane_modPlane_same]) (by rwa [getPlane_modPlane_same])
    (modPlane_config _ _ _) _ _ _ _ _ _ _ _

theorem fabAddr_modPlane (d : Device) (p : Fin 8) (g : PlaneLink → PlaneLink) (q : PartId) : fabAddr (modPlane d p g) q = fabAddr d q := rfl

theorem positionDone_sendIdle (d : Device) (p : Fin 8) : positionDone (sendIdle d p) p = IdlePosition d p := modPlane_modPlane_same _ _ _ _

/-- A link after one of its positions has carried a frame. -/
def carried (x : PlaneLink) (f : FrameBits) : PlaneLink := { x with
  lastSent := f
  nakDue := false
  naks := if x.nakDue then satAdd x.naks 1 else x.naks
  posn := x.posn + 1 }

theorem positionDone_emit (d : Device) (p : Fin 8) (f : TxFrame) (n : BitVec 12) (again : Bool) : positionDone (emit d p f n again) p =
    modPlane d p (carried · (buildFrame d p f.kind.toNat again (again || f.resend) n.toNat f.dst.toNat (fabAddr d f.part) (f.first.getD p).val f.body)) :=
  modPlane_modPlane_same _ _ _ _

theorem fabricSend_own {d : Device} {q : PartId} {p : Fin 8} (hu : planeUp (getPlane d p).st = true) (hq : q.val < d.config)
    (ho : ownPosition d q (getPlane d p).posn = true) :
    fabricSend d q p = positionDone (if (getPlane d p).st = .active then sendPosition d q p else sendIdle d p) p := by
  simp only [fabricSend, hu, partPresent, decide_eq_true hq, passToNext_here ho, Bool.not_true, Bool.or_self, Bool.false_eq_true, if_false]

/-! ### What may leave (R338, R344, R345) -/

theorem sendable_single {d : Device} {p : Fin 8} {f : TxFrame} (hs : selectPlane d f.nominal = some p) (hc : hasCredit (getPlane d p) f = true) :
    sendable d p [f] = [f] := by
  simp [sendable, hs, hc]

theorem sendable_noCredit {d : Device} {p : Fin 8} {f : TxFrame} (hc : hasCredit (getPlane d p) f = false) : sendable d p [f] = [] := by
  by_cases hs : selectPlane d f.nominal = some p
  · simp [sendable, hs, hc]
  · simp [sendable, hs]

theorem newFrame_of_ready {d : Device} {q : PartId} {p : Fin 8} {l : List TxFrame}
    (h : ((getPart d q).txq.filter fun f => !(f.kind = 3 && domStalled d f.dom)) = l) (hl : sendable d p l = l) :
    newFrame d q p = (l.find? fun f => decide (f.kind = 3) = (getPlane d p).nextColl.getLsbD q.val).orElse fun _ => l.head? := by
  simp only [newFrame, h, hl]

theorem newFrame_single {d : Device} {q : PartId} {p : Fin 8} {f : TxFrame} (hq : (getPart d q).txq = [f]) (hd : f.kind = 3 → domStalled d f.dom = false)
    (hs : selectPlane d f.nominal = some p) (hc : hasCredit (getPlane d p) f = true) : newFrame d q p = some f := by
  have hfree : ((getPart d q).txq.filter fun f => !(f.kind = 3 && domStalled d f.dom)) = [f] := by
    have hf : (!(decide (f.kind = 3) && domStalled d f.dom)) = true := by
      by_cases hk : f.kind = 3
      · rw [hd hk, Bool.and_false, Bool.not_false]
      · rw [decide_eq_false hk, Bool.false_and, Bool.not_false]
    rw [hq, List.filter_singleton, hf]
    rfl
  rw [newFrame_of_ready hfree (sendable_single hs hc), List.find?_singleton]
  split <;> rfl

theorem newFrame_empty {d : Device} {q : PartId} {p : Fin 8} (h : (getPart d q).txq = []) : newFrame d q p = none :=
  newFrame_of_ready (l := []) (by simp [h]) rfl

theorem newFrame_waits {d : Device} {q : PartId} {p : Fin 8} {f : TxFrame} (hq : (getPart d q).txq = [f])
    (h : hasCredit (getPlane d p) f = false ∨ (f.kind = 3 ∧ domStalled d f.dom = true)) : newFrame d q p = none := by
  have hempty : sendable d p ((getPart d q).txq.filter fun f => !(f.kind = 3 && domStalled d f.dom)) = [] := by
    by_cases hk : (decide (f.kind = 3) && domStalled d f.dom) = true
    · rw [hq, List.filter_singleton, hk]
      rfl
    · rw [hq, List.filter_singleton, Bool.eq_false_iff.2 hk]
      exact sendable_noCredit (h.resolve_right fun ⟨h3, hs⟩ => hk (by simp [h3, hs]))
  simp only [newFrame, hempty]
  rfl

theorem nextFrame_new {d : Device} {q : PartId} {p : Fin 8} (hr : (getPlane d p).retained.length < 2048) (hm : d.fab.moved = []) :
    nextFrame d q p = newFrame d q p := by
  simp only [nextFrame, if_neg (not_le.2 hr), hm]
  rfl

theorem nextFrame_none {d : Device} {q : PartId} {p : Fin 8} (hm : d.fab.moved = []) (hn : newFrame d q p = none) : nextFrame d q p = none := by
  unfold nextFrame
  split
  · rfl
  · rw [hm]
    exact hn

/-- A moved frame that can leave goes before every new one, in its own partition's positions alone (R345). -/
theorem nextFrame_moved {d : Device} {q : PartId} {p : Fin 8} {f : TxFrame} (hm : d.fab.moved = [f]) (hs : selectPlane d f.nominal = some p)
    (hc : hasCredit (getPlane d p) f = true) :
    nextFrame d q p = if 2048 ≤ (getPlane d p).retained.length then none else if f.part = q then some f else none := by
  simp only [nextFrame, hm, sendable_single hs hc]

/-! ### What a position carries -/

/-- The link of a plane that sends a frame again: one of the oldest frame retained counts as without progress (R336). -/
def resendingLink (n : BitVec 12) (rest : List (BitVec 12 × TxFrame)) (x : PlaneLink) : PlaneLink := { x with
  resendq := rest
  resends := satAdd x.resends 1
  tries := if x.retained.head?.any (·.1 = n) then x.tries + 1 else x.tries }

theorem sendPosition_resend {d : Device} {q : PartId} {p : Fin 8} {n : BitVec 12} {f : TxFrame} {rest : List (BitVec 12 × TxFrame)}
    (h : (getPlane d p).resendq = (n, f) :: rest) (hq : f.part = q) : sendPosition d q p = emit (modPlane d p (resendingLink n rest)) p f n true := by
  simp only [sendPosition, h, hq, if_true]
  rfl

theorem sendPosition_other {d : Device} {q : PartId} {p : Fin 8} {n : BitVec 12} {f : TxFrame} {rest : List (BitVec 12 × TxFrame)}
    (h : (getPlane d p).resendq = (n, f) :: rest) (hq : f.part ≠ q) : sendPosition d q p = sendIdle d p := by
  simp only [sendPosition, h, if_neg hq]

theorem sendPosition_idle {d : Device} {q : PartId} {p : Fin 8} (h : (getPlane d p).resendq = []) (hn : nextFrame d q p = none) :
    sendPosition d q p = sendIdle d p := by simp only [sendPosition, h, hn]

theorem sendPosition_next {d : Device} {q : PartId} {p : Fin 8} {f : TxFrame} (h : (getPlane d p).resendq = []) (hn : nextFrame d q p = some f) :
    sendPosition d q p = emit (retain d q p f) p f (getPlane d p).nextSeq false := by simp only [sendPosition, h, hn]

/-- The link of a plane that a new frame leaves on. -/
def retaining (x : PlaneLink) (q : PartId) (p : Fin 8) (f : TxFrame) (now : Nat) : PlaneLink := { x with
  nextSeq := x.nextSeq + 1
  retained := x.retained ++ [(x.nextSeq, { f with first := some (f.first.getD p) })]
  ackTime := if x.retained.isEmpty then now else x.ackTime
  sent := vmod x.sent (creditIndex f) (· + 1)
  nextColl := if f.kind = 3 then x.nextColl &&& ~~~ ((1 : BitVec 4) <<< q.val) else x.nextColl ||| ((1 : BitVec 4) <<< q.val) }

/-- A frame that is retained has left those moved, or the transmit queue. -/
theorem retain_eq (d : Device) (q : PartId) (p : Fin 8) (f : TxFrame) : retain d q p f =
    modPlane (if f.resend then { d with fab := { d.fab with moved := d.fab.moved.erase f } } else modPart d q fun x => { x with txq := x.txq.erase f }) p
      (retaining · q p f (elapsedNs d)) := by
  unfold retain
  split <;> rfl

theorem getPlane_retain (d : Device) (q : PartId) (p : Fin 8) (f : TxFrame) :
    getPlane (retain d q p f) p = retaining (getPlane d p) q p f (elapsedNs d) := by
  rw [retain_eq, getPlane_modPlane_same]
  split <;> rfl

theorem config_retain (d : Device) (q : PartId) (p : Fin 8) (f : TxFrame) : (retain d q p f).config = d.config := by
  rw [retain_eq]
  split <;> rfl

theorem fabAddr_retain (d : Device) (q x : PartId) (p : Fin 8) (f : TxFrame) : fabAddr (retain d q p f) x = fabAddr d x := by
  rw [retain_eq]
  split <;> rfl

theorem buildFrame_retain (d : Device) (q : PartId) (p : Fin 8) (f : TxFrame) : buildFrame (retain d q p f) p = buildFrame d p := by
  funext kind resent retried seq dst src first body
  refine buildFrame_congr ?_ ?_ ?_ (config_retain d q p f) kind resent retried seq dst src first body <;> rw [getPlane_retain] <;> rfl

/-- Whatever a position carries takes any NAK that was due, and leaves the position to its end. -/
theorem sendPosition_keeps (d : Device) (q : PartId) (p : Fin 8) :
    (getPlane (sendPosition d q p) p).posn = (getPlane d p).posn ∧ (getPlane (sendPosition d q p) p).nakDue = false := by
  have hsend : ∀ (e : Device) (f : FrameBits), (getPlane (sendFrame e p f) p).posn = (getPlane e p).posn ∧ (getPlane (sendFrame e p f) p).nakDue = false :=
    fun e f => by
      rw [sendFrame, getPlane_modPlane_same]
      exact ⟨rfl, rfl⟩
  cases hr : (getPlane d p).resendq with
  | cons x rest =>
    by_cases hq : x.2.part = q
    · rw [sendPosition_resend hr hq, emit]
      exact ⟨(hsend _ _).1.trans (by rw [getPlane_modPlane_same]; rfl), (hsend _ _).2⟩
    · rw [sendPosition_other hr hq]
      exact hsend _ _
  | nil =>
    cases hn : nextFrame d q p with
    | none =>
      rw [sendPosition_idle hr hn]
      exact hsend _ _
    | some f =>
      rw [sendPosition_next hr hn, emit]
      exact ⟨(hsend _ _).1.trans (by rw [getPlane_retain]; rfl), (hsend _ _).2⟩

/-- The position that carried the frame is the partition's, and no NAK is due after it. -/
theorem fabricSend_position {d : Device} {q : PartId} {p : Fin 8} (hu : planeUp (getPlane d p).st = true) (hq : q.val < d.config)
    (hc : d.config = 1 ∨ d.config = 2 ∨ d.config = 4) :
    ownPosition d q ((getPlane (fabricSend d q p) p).posn - 1) = true ∧ (getPlane (fabricSend d q p) p).nakDue = false := by
  obtain ⟨k, hk, ho⟩ := exists_ownPosition (getPlane d p).posn hq hc
  have hown := posn_passToNext (by omega) ho
  have hdone : ∀ e : Device, (getPlane e p).posn = (getPlane (passToNext d p (ownPosition d q)) p).posn ∧ (getPlane e p).nakDue = false →
      ownPosition d q ((getPlane (positionDone e p) p).posn - 1) = true ∧ (getPlane (positionDone e p) p).nakDue = false := fun e he => by
    rw [positionDone, getPlane_modPlane_same]
    exact ⟨by simpa [he.1] using hown, he.2⟩
  simp only [fabricSend, hu, partPresent, decide_eq_true hq, Bool.not_true, Bool.or_self, Bool.false_eq_true, if_false]
  refine hdone _ ?_
  split
  · exact sendPosition_keeps _ q p
  · rw [sendIdle, sendLocal, sendFrame, getPlane_modPlane_same]
    exact ⟨rfl, rfl⟩

/-! ### The positions of a partition as rules -/

theorem gives_idle {s : State} {q : PartId} {p : Fin 8} (hu : planeUp (getPlane s.dev p).st = true) (hq : q.val < s.dev.config)
    (ho : ownPosition s.dev q (getPlane s.dev p).posn = true)
    (h : (getPlane s.dev p).st = .active → sendPosition s.dev q p = sendIdle s.dev p) : Gives (.fabricFrameSend q p) s (IdlePosition s.dev p) := by
  refine gives_of_onDev (f := fun d => fabricSend d q p) rfl ?_
  rw [fabricSend_own hu hq ho, ← positionDone_sendIdle]
  split
  · rw [h ‹_›]
  · rfl

theorem answers_resend {s : State} {q : PartId} {p : Fin 8} {n : BitVec 12} {f : TxFrame} {rest : List (BitVec 12 × TxFrame)}
    (ha : (getPlane s.dev p).st = .active) (hq : q.val < s.dev.config) (ho : ownPosition s.dev q (getPlane s.dev p).posn = true)
    (hr : (getPlane s.dev p).resendq = (n, f) :: rest) (hp : f.part = q) : Answers (.fabricFrameSend q p) s fun e =>
      getPlane e p = carried (resendingLink n rest (getPlane s.dev p))
        (buildFrame s.dev p f.kind.toNat true true n.toNat f.dst.toNat (fabAddr s.dev f.part) (f.first.getD p).val f.body) := by
  have hgo := fabricSend_own (by rw [ha]; rfl) hq ho
  rw [if_pos ha, sendPosition_resend hr hp, positionDone_emit, buildFrame_modPlane (g := resendingLink n rest) _ _ fun _ => ⟨rfl, rfl, rfl⟩, fabAddr_modPlane, Bool.true_or] at hgo
  exact answers_of_onDev (f := fun d => fabricSend d q p) rfl hgo (by rw [getPlane_modPlane_same, getPlane_modPlane_same])

theorem answers_newFrame {s : State} {q : PartId} {p : Fin 8} {f : TxFrame} (ha : (getPlane s.dev p).st = .active) (hq : q.val < s.dev.config)
    (ho : ownPosition s.dev q (getPlane s.dev p).posn = true) (hr : (getPlane s.dev p).resendq = []) (hn : nextFrame s.dev q p = some f) :
    Answers (.fabricFrameSend q p) s fun e => e.parts = (retain s.dev q p f).parts ∧ e.fab.moved = (retain s.dev q p f).fab.moved ∧
      getPlane e p = carried (retaining (getPlane s.dev p) q p f (elapsedNs s.dev))
        (buildFrame s.dev p f.kind.toNat false f.resend (getPlane s.dev p).nextSeq.toNat f.dst.toNat (fabAddr s.dev f.part) (f.first.getD p).val f.body) := by
  have hgo := fabricSend_own (by rw [ha]; rfl) hq ho
  rw [if_pos ha, sendPosition_next hr hn, positionDone_emit] at hgo
  refine answers_of_onDev (f := fun d => fabricSend d q p) rfl hgo ⟨rfl, rfl, ?_⟩
  rw [getPlane_modPlane_same, getPlane_retain, buildFrame_retain, fabAddr_retain, Bool.false_or]

end Sys2Proof.Machine

open Sys2Proof.Machine

/-- Settles O58: a plane goes down by what its link keeps, a position by the frame that it finds, and FAB_CTRL by the rule that it gives each
plane. The next position of a partition is the model's choice (log entry 87). -/
theorem planesTrainFailAndResend : Obligations.PlanesTrainFailAndResend := by
  unfold Obligations.PlanesTrainFailAndResend
  refine ⟨?_, ?_, ?_, ?_, ?_, ?_, ?_⟩
  · intro s p h
    have hp := getPlane_modPlane_same s.dev p fun x => { freshLink x .linked with lanesOk := 0xFFFF, goodTime := elapsedNs s.dev, ackTime := elapsedNs s.dev }
    refine answers_of_onDev (f := fun d => planeLinked d p) rfl (planeLinked_training h)
      ⟨congrArg (·.st) hp, congrArg (·.lanesOk) hp, congrArg (·.goodTime) hp, congrArg (·.ackTime) hp, congrArg (·.retained) hp, fun q hq => ?_, rfl, rfl⟩
    exact getPlane_modPlane_other s.dev p q _ (Ne.symm hq)
  · intro s p lanes hu hl he
    obtain ⟨x, hdown, hlanes, hstop, hgo⟩ := lossOfLanes_up he hu hl
    exact answers_of_onDev (f := fun d => lossOfLanes d p lanes) rfl hgo ⟨hdown, hlanes, congrArg (· ||| _) hstop⟩
  · intro s p hu h he
    exact answers_of_onDev (f := fun d => linkSilence d p) rfl (linkSilence_down hu h) ⟨downed_planeDown he p, lanesOk_planeDown _ p⟩
  · intro s p hu hr ht
    exact gives_of_onDev (f := fun d => retryTimeout d p) rfl (retryTimeout_due hu hr ht)
  · intro s q p l hq ho
    refine ⟨fun hst => ?_, fun ha => ⟨fun n f rest hr hp => ?_, fun n f rest hr hp => ?_, fun f hr hlen hs hc h => ?_, fun hr hm ht => ?_,
      fun f hr hm hp hs hc => ?_, fun f hr hm ht h => ?_⟩⟩
    · refine gives_idle ?_ hq ho fun ha => ?_
      · rcases hst with h | h <;> rw [h] <;> rfl
      · rcases hst with h | h <;> exact absurd (ha.symm.trans h) (by decide)
    · refine answers_mono (answers_resend ha hq ho hr hp) fun e he => ?_
      rw [he]
      refine ⟨rfl, rfl, rfl, rfl, rfl, ?_, rfl⟩
      change (if l.retained.head?.any (·.1 = n) then l.tries + 1 else l.tries) = _
      cases l.retained.head? <;> simp
    · exact gives_idle (by rw [ha]; rfl) hq ho fun _ => sendPosition_other hr hp
    · have hn : nextFrame s.dev q p = some f := by
        rcases h with ⟨hm, ht, -, hd⟩ | ⟨hm, -, hp⟩
        · rw [nextFrame_new hlen hm, newFrame_single ht hd hs hc]
        · rw [nextFrame_moved hm hs hc, if_neg (not_le.2 hlen), if_pos hp]
      refine answers_mono (answers_newFrame ha hq ho hr hn) fun e ⟨hparts, hmoved, he⟩ => ?_
      rw [he]
      refine ⟨?_, rfl, rfl, vget_vmod_same _ _ _, rfl, rfl⟩
      rw [retain_eq] at hparts hmoved
      rcases h with ⟨hm, ht, hf, -⟩ | ⟨hm, hf, -⟩
      · rw [hf] at hparts
        rw [hf, if_neg Bool.false_ne_true, getPart, hparts]
        exact (congrArg Part.txq (getPart_modPart_same s.dev q _)).trans (by simp [ht])
      · rw [hf] at hparts hmoved
        rw [hf, if_pos rfl, hmoved, getPart, hparts]
        exact ⟨by simp [modPlane, hm], rfl⟩
    · exact gives_idle (by rw [ha]; rfl) hq ho fun _ => sendPosition_idle hr (nextFrame_none hm (newFrame_empty ht))
    · refine gives_idle (by rw [ha]; rfl) hq ho fun _ => sendPosition_idle hr ?_
      rw [nextFrame_moved hm hs hc, if_neg hp, ite_self]
    · exact gives_idle (by rw [ha]; rfl) hq ho fun _ => sendPosition_idle hr (nextFrame_none hm (newFrame_waits ht h))
  · intro s q p hu hq hc
    exact answers_of_onDev (f := fun d => fabricSend d q p) rfl rfl (fabricSend_position hu hq hc)
  · intro s v hb
    have hready : bootMode s.dev = false := by simp [bootMode, hb]
    have hgo : (if bootMode s.dev then s.dev else fabCtrlWrite s.dev v) = fabCtrlWrite s.dev v := by rw [hready]; rfl
    have hset := fabSettings_fabCtrlWrite s.dev v
    simp only [fabSettings, Prod.mk.injEq] at hset
    obtain ⟨hen, hkill, hfab, haddr, hhost, hvalid, hindex, hcores⟩ := hset
    refine answers_of_onDev (f := fun d => if bootMode d then d else fabCtrlWrite d v) rfl hgo ⟨?_, ?_, fun hl => ?_, fun hl => ?_, fun p => ?_, hcores⟩
    · rw [hen, planeEn_fabRuled]
    · rw [hkill, killEn_fabRuled]
    · rw [hfab, haddr, hhost, hvalid, hindex, fabRuled_loaded v hl]
      exact ⟨rfl, rfl, rfl, rfl, rfl⟩
    · rw [hfab, haddr, hhost, hvalid, hindex]
      exact fabRuled_unloaded v hl
    · have hbit : (fabRuled s.dev v).planeEn.getLsbD p.val = v.getLsbD (16 + p.val) := by
        rw [planeEn_fabRuled, BitVec.getLsbD_extractLsb', decide_eq_true p.isLt, Bool.true_and]
      rw [st_fabCtrlWrite, hfab, ruledState, hbit]
end

section
/-! A routed frame that its link takes (R333–R338), and what the hub then goes by of the device. -/

open Sys2Proof.Claims

namespace Sys2Proof.Machine

/-! ### Receiving a routed frame -/

theorem inject_unarmed {d : Device} {det unit : BitVec 16} (h : isArmed d det unit = false) : inject d det unit = (false, d) := by
  simp only [inject, h, Bool.false_eq_true, if_false]

theorem modPlane_eq_const (d : Device) (p : Fin 8) (f : PlaneLink → PlaneLink) : modPlane d p f = modPlane d p fun _ => f (getPlane d p) := rfl

/-- What a good frame leaves of its link's numbering and credit. -/
theorem goodFrame_eq (d : Device) (p : Fin 8) (f : FrameBits) : ∃ x, goodFrame d p f = modPlane d p (fun _ => x) ∧ x.st = (getPlane d p).st ∧
    x.expect = (getPlane d p).expect ∧ x.goodTime = elapsedNs d ∧ x.freed = (getPlane d p).freed := by
  unfold goodFrame takeAck
  simp only []
  split
  · exact ⟨_, modPlane_eq_const _ _ _, rfl, rfl, rfl, rfl⟩
  · rw [modPlane_modPlane_same]
    refine ⟨_, modPlane_eq_const _ _ _, ?_, ?_, ?_, ?_⟩ <;> split <;> split <;> rfl

/-- The next frame of a link is accepted, and the one after it expected. -/
theorem acceptSeq_expected {d : Device} {p : Fin 8} {f : FrameBits} (h : frameSeq f = (getPlane d p).expect) : ∃ x, acceptSeq d p f =
    (true, modPlane d p fun _ => x) ∧ x.st = (getPlane d p).st ∧ x.expect = (getPlane d p).expect + 1 ∧ x.goodTime = (getPlane d p).goodTime ∧
      x.freed = (getPlane d p).freed := by
  simp only [acceptSeq, if_pos h]
  exact ⟨_, congrArg (Prod.mk true) (modPlane_eq_const _ _ _), rfl, rfl, rfl, rfl⟩

/-- The link of a routed frame that is to be used counts it, and is otherwise as it may be. -/
theorem receiveRouted_routed {s : State} {p : Fin 8} {f : FrameBits} {kind : Nat} {q : PartId} (h : Routed s p f kind q) (hk : definedKind kind = true) :
    ∃ x, receiveRouted s.dev p f kind = (some q, modPlane s.dev p fun _ => x) ∧ x.expect = (getPlane s.dev p).expect + 1 ∧
      x.goodTime = elapsedNs s.dev ∧ x.freed = (getPlane s.dev p).freed := by
  obtain ⟨⟨hup, hok, hversion, hkind⟩, hactive, harm, hseq, hpart⟩ := h
  obtain ⟨x, hgood, hst, hexpect, htime, hfreed⟩ := goodFrame_eq s.dev p f
  have hx : getPlane (goodFrame s.dev p f) p = x := by rw [hgood, getPlane_modPlane_same]
  obtain ⟨y, haccept, hyst, hyexpect, hytime, hyfreed⟩ := acceptSeq_expected (hseq.trans (by rw [hx, hexpect]))
  rw [hx] at hyst hyexpect hytime hyfreed
  rw [hgood, modPlane_modPlane_same, ← hgood] at haccept
  have hdest : partOfAddr (modPlane s.dev p fun _ => y) (frameDst f) = some q := hpart
  have hon : (getPlane (modPlane s.dev p fun _ => y) p).st = .active := by rw [getPlane_modPlane_same, hyst, hst, hactive]
  refine ⟨y, ?_, by rw [hyexpect, hexpect], hytime.trans htime, hyfreed.trans hfreed⟩
  simp only [receiveRouted, hup, frameInjected, inject_unarmed harm, hok, hkind, hk, haccept, hdest, hversion, hon, bne_self_eq_false, Bool.not_true,
    Bool.or_self, Bool.false_eq_true, if_false, decide_true, Bool.and_self, if_true]

/-- A link that has taken a frame and freed its entry has accepted it. -/
theorem accepted_of_plane {s : State} {p : Fin 8} {e : Device} {x : PlaneLink} {n : Nat} (hx : x.expect = (getPlane s.dev p).expect + 1)
    (ht : x.goodTime = elapsedNs s.dev) (hf : x.freed = (getPlane s.dev p).freed)
    (he : getPlane e p = { x with freed := vmod x.freed (finMod 8 n) (· + 1) }) : Accepted s p e n := by
  rw [Accepted, he, ← hx, ← ht, ← hf]
  exact ⟨rfl, rfl, vget_vmod_same _ _ _⟩

/-- A routed frame of a channel: the device with its link's frame accepted and its buffer entry freed. -/
theorem routed_freed {s : State} {p : Fin 8} {f : FrameBits} {kind : Nat} {q : PartId} (h : Routed s p f kind q) (hk : definedKind kind = true) :
    ∃ y z, receiveRouted s.dev p f kind = (some q, z) ∧ freeEntry z p false q = modPlane s.dev p (fun _ => y) ∧
      ∀ e, e.fab = (modPlane s.dev p fun _ => y).fab → Accepted s p e q.val := by
  obtain ⟨x, hroute, hexpect, htime, hfreed⟩ := receiveRouted_routed h hk
  refine ⟨{ x with freed := vmod x.freed (finMod 8 (0 + q.val)) (· + 1) }, _, hroute, modPlane_modPlane_same _ _ _ _, fun e he => ?_⟩
  refine accepted_of_plane hexpect htime hfreed ?_
  rw [getPlane_of_fab he, getPlane_modPlane_same, Nat.zero_add]

/-! ### What the hub goes by -/

/-- From d to e the planes, and of the domains what the hub holds and expects, may have changed. -/
structure HubOnly (d e : Device) : Prop where
  cores : e.cores = d.cores
  config : e.config = d.config
  sec : e.sec = d.sec
  err : e.err = d.err
  part : ∀ p, ∃ m, getPart e p = { getPart d p with doms := m }
  dom : ∀ i, ∃ a n, getDom e i = { getDom d i with assembling := a, inSeq := n }

namespace HubOnly

theorem modPlane (d : Device) (p : Fin 8) (f : PlaneLink → PlaneLink) : HubOnly d (modPlane d p f) :=
  ⟨rfl, rfl, rfl, rfl, fun q => ⟨(getPart d q).doms, rfl⟩, fun i => ⟨(getDom d i).assembling, (getDom d i).inSeq, rfl⟩⟩

theorem trans {d x e : Device} (h : HubOnly d x) (k : HubOnly x e) : HubOnly d e := by
  refine ⟨k.cores.trans h.cores, k.config.trans h.config, k.sec.trans h.sec, k.err.trans h.err, fun p => ?_, fun i => ?_⟩
  · obtain ⟨m, hm⟩ := h.part p
    obtain ⟨n, hn⟩ := k.part p
    exact ⟨n, by rw [hn, hm]⟩
  · obtain ⟨a, n, hx⟩ := h.dom i
    obtain ⟨b, m, he⟩ := k.dom i
    exact ⟨b, m, by rw [he, hx]⟩

theorem modDom (d : Device) (i : DomId) {f : Domain → Domain} (h : ∀ x, ∃ a n, f x = { x with assembling := a, inSeq := n }) : HubOnly d (modDom d i f) := by
  refine ⟨rfl, rfl, rfl, rfl, fun p => ?_, fun j => ?_⟩
  · by_cases hp : i.part = p
    · subst hp
      exact ⟨_, getPart_modPart_same _ _ _⟩
    · exact ⟨(getPart d p).doms, getPart_modPart_other _ _ _ _ hp⟩
  · by_cases hj : i = j
    · subst hj
      obtain ⟨a, n, hf⟩ := h (getDom d i)
      exact ⟨a, n, by rw [getDom_modDom_same, hf]⟩
    · exact ⟨(getDom d j).assembling, (getDom d j).inSeq, getDom_modDom_other _ _ _ _ hj⟩

variable {d e : Device} (h : HubOnly d e)
include h

theorem getCore (k : CoreId) : getCore e k = getCore d k := getCore_of_cores h.cores k
theorem getUnit (c : CtxId) : getUnit e c = getUnit d c := getUnit_of_cores h.cores c
theorem getSeq (w : SeqId) : getSeq e w = getSeq d w := by rw [Machine.getSeq, h.getCore, Machine.getSeq]
theorem isSplit (k : CoreId) : isSplit e k = isSplit d k := by rw [Machine.isSplit, h.getCore, Machine.isSplit]
theorem mqOf (c : CtxId) (q : Nat) : mqOf e c q = mqOf d c q := mqOf_of_cores h.cores c q
theorem isArmed (det unit : BitVec 16) : isArmed e det unit = isArmed d det unit := by rw [Machine.isArmed, h.err, Machine.isArmed]
theorem partOfCore (k : CoreId) : partOfCore e k = partOfCore d k := by rw [Machine.partOfCore, partOfDie, diesPer, h.config]; rfl

theorem corePeriod (k : CoreId) : corePeriod e k = corePeriod d k := by
  obtain ⟨m, hm⟩ := h.part (Machine.partOfCore d k)
  rw [Machine.corePeriod, h.partOfCore, hm, Machine.corePeriod]

theorem receives (i : DomId) : receives e i = receives d i := by
  obtain ⟨a, n, hx⟩ := h.dom i
  simp only [Machine.receives, liveDom, hx]

theorem runOf (c : CtxId) : runOf e c = runOf d c := by
  have hdom : domOf e c = domOf d c := by rw [domOf, h.getUnit, h.partOfCore, domOf]
  rw [Machine.runOf, hdom, Machine.runOf]
  cases domOf d c with
  | none => rfl
  | some i =>
    obtain ⟨a, n, hx⟩ := h.dom i
    have hlive : liveDom (getDom e i) = liveDom (getDom d i) := by rw [hx]; rfl
    have hrun : (getDom e i).run = (getDom d i).run := by rw [hx]
    simp only [hlive, hrun]

theorem settleTick (c : CtxId) : settleTick e c = settleTick d c := by rw [Machine.settleTick, h.runOf, Machine.settleTick]
theorem tickOf (c : CtxId) : tickOf e c = tickOf d c := tickOf_eq_of_runOf (h.runOf c)
theorem executing (c : CtxId) : executing e c = executing d c := by rw [Machine.executing, h.sec, h.runOf, Machine.executing]
theorem isHalted (c : CtxId) : isHalted e c = isHalted d c := by rw [Machine.isHalted, h.getUnit, Machine.isHalted]
theorem agOf (c : CtxId) (n : Nat) : agOf e c n = agOf d c n := by rw [Machine.agOf, h.isSplit, h.getCore, Machine.agOf]
theorem lqOf (c : CtxId) (q : Fin 4) : lqOf e c q = lqOf d c q := by rw [Machine.lqOf, h.isSplit, h.getCore, Machine.lqOf]

theorem headOf (c : CtxId) (q : Fin 4) : headOf e c q = headOf d c q := by
  simp only [Machine.headOf, h.lqOf, h.tickOf, periodOf, h.runOf, entryCause, h.getUnit]

theorem padSize (k : CoreId) : padSize e k = padSize d k := by rw [Machine.padSize, h.isSplit, Machine.padSize]
theorem reservoirShare : reservoirShare e = reservoirShare d := by rw [Machine.reservoirShare, h.config, Machine.reservoirShare]
theorem hbmCapacity : hbmCapacity e = hbmCapacity d := by rw [Machine.hbmCapacity, stacksPer, diesPer, h.config]; rfl

theorem cxlLimit (p : PartId) : cxlLimit e p = cxlLimit d p := by
  obtain ⟨m, hm⟩ := h.part p
  rw [Machine.cxlLimit, hm, Machine.cxlLimit]

theorem xAddr (c : CtxId) (x : Xfer) : xAddr e c x = xAddr d c x := by rw [Machine.xAddr, h.agOf, Machine.xAddr]
theorem xSpace (c : CtxId) (x : Xfer) : xSpace e c x = xSpace d c x := by rw [Machine.xSpace, h.xAddr, Machine.xSpace]
theorem xLocal (c : CtxId) (x : Xfer) : xLocal e c x = xLocal d c x := by simp only [Machine.xLocal, h.xSpace]

theorem resolve (p : PartId) (own : Option CtxId) (a n : Nat) : resolve e p own a n = resolve d p own a n := by
  simp only [Machine.resolve, h.padSize, h.isSplit, h.partOfCore, h.reservoirShare, h.hbmCapacity, h.cxlLimit]

theorem xResolve (c : CtxId) (x : Xfer) : xResolve e c x = xResolve d c x := by
  simp only [Machine.xResolve, h.xAddr, h.partOfCore, h.resolve]

theorem padPowered (c : CtxId) (off n : Nat) : padPowered e c off n = padPowered d c off n := by
  simp only [Machine.padPowered, h.isSplit, h.getCore]

theorem sealedRun (c : CtxId) : sealedRun e c = sealedRun d c := by rw [Machine.sealedRun, h.runOf, Machine.sealedRun]
theorem rqRoom (c : CtxId) : rqRoom e c = rqRoom d c := by simp only [Machine.rqRoom, h.isSplit]
theorem rqFull (c : CtxId) (n : Nat) : rqFull e c n = rqFull d c n := by simp only [Machine.rqFull, h.rqRoom, h.getUnit]
theorem pendingWrites (c : CtxId) : pendingWrites e c = pendingWrites d c := by rw [Machine.pendingWrites, h.getUnit, Machine.pendingWrites]
theorem roomOf (c : CtxId) (q : Fin 4) : roomOf e c q = roomOf d c q := by rw [Machine.roomOf, h.lqOf, h.tickOf, Machine.roomOf]
theorem xLine (c : CtxId) (x : Xfer) : xLine e c x = xLine d c x := by simp only [Machine.xLine, h.isSplit, h.xSpace]
theorem portBusy (c : CtxId) (store : Bool) : portBusy e c store = portBusy d c store := by simp only [Machine.portBusy, h.tickOf, h.getUnit]
theorem xMessage (c : CtxId) (x : Xfer) : xMessage e c x = xMessage d c x := by simp only [Machine.xMessage, h.xSpace, h.xResolve]

/-- The checks of a transfer and what it waits for go by nothing that the hub holds. -/
theorem xFault (c : CtxId) (x : Xfer) : xFault e c x = xFault d c x := by
  simp only [Machine.xFault, h.agOf, h.xResolve, h.padPowered, h.sealedRun]

theorem xUnmet (c : CtxId) (x : Xfer) (n : Nat) : xUnmet e c x n = xUnmet d c x n := by
  simp only [Machine.xUnmet, h.xLocal, h.xSpace, h.rqFull, h.xLine, h.portBusy, h.tickOf, h.headOf, h.pendingWrites, h.xMessage, h.mqOf, h.roomOf]

theorem unitOf (c : CtxId) (store : Bool) : unitOf e c store = unitOf d c store := by simp only [Machine.unitOf, h.getUnit]

theorem unitDue (c : CtxId) (store : Bool) : unitDue e c store = unitDue d c store := by
  simp only [Machine.unitDue, h.executing, h.isHalted, h.unitOf, h.tickOf]

theorem unitLate (c : CtxId) (u : RepeatUnit) : unitLate e c u = unitLate d c u := by simp only [Machine.unitLate, unitHeads, h.headOf]

theorem unitFault (c : CtxId) (store : Bool) : unitFault e c store = unitFault d c store := by
  simp only [Machine.unitFault, h.unitOf, h.unitDue, h.unitLate, h.xUnmet, h.xFault]

theorem unitWork (c : CtxId) (store : Bool) : unitWork e c store = unitWork d c store := by simp only [Machine.unitWork, h.unitDue, h.unitFault]

theorem presented (c : CtxId) : presented e c = presented d c := by
  simp only [Machine.presented, h.isHalted, seqsOf, h.isSplit, h.getSeq, h.tickOf]

theorem readsDue (c : CtxId) : readsDue e c = readsDue d c := by simp only [Machine.readsDue, accessed, h.executing, h.presented, h.unitWork]

end HubOnly

end Sys2Proof.Machine
end

section
/-! O60: channel messages and credit that come over the fabric (R266, R271–R274, R347, R348). -/

open Sys2Proof.Claims

namespace Sys2Proof.Machine

/-! ### A message of one frame -/

/-- The units of a channel message's frame, as many as the message has. -/
def frameUnits (f : FrameBits) : List (BitVec 512) :=
  (List.range (le (frameBodyBytes f) 2 1)).map fun k => leBits 512 (slice (frameBodyBytes f) (16 + 64 * k) 64)

/-- The message of a frame that brings it whole and was not retried. -/
def frameMessage (f : FrameBits) : Assembling := {
  src := BitVec.ofNat 18 (frameSrc f), inid := BitVec.ofNat 8 (le (frameBodyBytes f) 0 1), mseq := BitVec.ofNat 32 (le (frameBodyBytes f) 4 4)
  sender := BitVec.ofNat 10 (le (frameBodyBytes f) 8 2), chan := BitVec.ofNat 8 (le (frameBodyBytes f) 10 1), len := le (frameBodyBytes f) 2 1
  units := (List.range (le (frameBodyBytes f) 2 1)).map fun k => (k, (frameUnits f).getD k 0), held := false, retried := false, refused := false }

theorem length_frameUnits (f : FrameBits) : (frameUnits f).length = (frameMessage f).len := by simp [frameUnits, frameMessage]

theorem receiveMessage_whole {d : Device} {q : PartId} {f : FrameBits} (hn : le (frameBodyBytes f) 1 1 = le (frameBodyBytes f) 2 1)
    (h0 : le (frameBodyBytes f) 3 1 = 0) (hr : frameRetried f = false) : receiveMessage d q f = hubMessage d q (frameSeq f).toNat (frameMessage f) := by
  have hunits : ((List.range (le (frameBodyBytes f) 2 1)).map fun k =>
      (0 + k, (leBits 512 (slice (frameBodyBytes f) (16 + 64 * k) 64) : BitVec 512))) = (frameMessage f).units := by
    refine List.map_congr_left fun k hk => ?_
    have hlt := List.mem_range.1 hk
    simp [frameUnits, List.getD_eq_getElem?_getD, hlt]
  simp only [receiveMessage, hn, h0, hr, hunits]
  rfl

/-- The units of a message whose frame brought them in order. -/
theorem messageUnits_frameMessage (f : FrameBits) : messageUnits (frameMessage f) = frameUnits f := by
  refine List.ext_getElem (by rw [messageUnits, List.length_map, List.length_range, length_frameUnits]) fun k hk hk' => ?_
  have hlen : k < le (frameBodyBytes f) 2 1 := by simpa [frameUnits] using hk'
  have hfind : (frameMessage f).units.find? (fun u => decide (u.1 = k)) = some (k, (frameUnits f).getD k 0) := by
    simp only [frameMessage, List.find?_map]
    have : (List.range (le (frameBodyBytes f) 2 1)).find? ((fun u : Nat × BitVec 512 => decide (u.1 = k)) ∘ fun k => (k, (frameUnits f).getD k 0)) = some k := by
      rw [List.find?_range_eq_some]
      exact ⟨by simp, List.mem_range.2 hlen, fun j hj => by simpa using hj.ne⟩
    rw [this]
    rfl
  simp only [messageUnits, List.getElem_map, List.getElem_range, hfind]
  exact List.getD_eq_getElem _ _ hk'

/-! ### The hub takes a message -/

/-- The only message of a domain's identifiers joins what the hub holds. -/
theorem hubMessage_joins {d : Device} {q : PartId} {lseq : Nat} {m : Assembling} {i : DomId} {x : InEntry} (he : inboundEntry d q m.src m.inid = some (i, x))
    (ha : (getDom d i).assembling = []) (hs : nextMseq (getDom d i) m = m.mseq) (harm : isArmed d 0x122 (BitVec.ofNat 16 q.val) = false)
    (hr : m.retried = false) : hubMessage d q lseq m = deliverReady 256 (modDom d i fun y => { y with assembling := joinUnits y.assembling m }) i x m.inid := by
  have hnew : ¬ 2 ^ 31 ≤ (m.mseq - nextMseq (getDom d i) m).toNat := by
    rw [hs, BitVec.sub_self]
    decide
  have hfirst : ∀ b, (m.retried && b) = false := fun b => by rw [hr, Bool.false_and]
  simp only [hubMessage, he, if_neg hnew, ha, List.any_nil, Bool.false_eq_true, if_false, inject_unarmed harm, Bool.or_false, hfirst, markMessage]

/-- The device in which the message of a frame has joined what the hub holds for a domain, its link having taken the frame. -/
structure Joined (s : State) (p : Fin 8) (f : FrameBits) (q : PartId) (i : DomId) (z : Device) : Prop where
  hub : HubOnly s.dev z
  accepted : ∀ e, e.fab = z.fab → Accepted s p e q.val
  dom : getDom z i = { getDom s.dev i with assembling := [frameMessage f] }

theorem channelMessage_joins {s : State} {p : Fin 8} {f : FrameBits} {q : PartId} {i : DomId} {x : InEntry} (h : Routed s p f 1 q)
    (hr : frameRetried f = false) (harm : isArmed s.dev 0x122 (BitVec.ofNat 16 q.val) = false)
    (he : inboundEntry s.dev q (frameMessage f).src (frameMessage f).inid = some (i, x)) (ha : (getDom s.dev i).assembling = [])
    (hs : nextMseq (getDom s.dev i) (frameMessage f) = (frameMessage f).mseq) (hn : le (frameBodyBytes f) 1 1 = le (frameBodyBytes f) 2 1)
    (h0 : le (frameBodyBytes f) 3 1 = 0) :
    ∃ z, Joined s p f q i z ∧ channelMessageFrame s.dev p f = deliverReady 256 z i x (frameMessage f).inid := by
  obtain ⟨y, w, hroute, hfree, haccept⟩ := routed_freed h rfl
  have hheard : channelMessageFrame s.dev p f = hubMessage (modPlane s.dev p fun _ => y) q (frameSeq f).toNat (frameMessage f) := by
    simp only [channelMessageFrame, hroute, hfree, receiveMessage_whole hn h0 hr]
  have hkeep := HubOnly.modPlane s.dev p fun _ => y
  refine ⟨modDom (modPlane s.dev p fun _ => y) i fun z => { z with assembling := joinUnits z.assembling (frameMessage f) },
    ⟨hkeep.trans (.modDom _ _ fun z => ⟨_, z.inSeq, rfl⟩), haccept, ?_⟩, ?_⟩
  · rw [getDom_modDom_same]
    change { getDom s.dev i with assembling := joinUnits (getDom s.dev i).assembling (frameMessage f) } = _
    rw [ha]
    rfl
  · exact hheard.trans (hubMessage_joins he ha hs ((hkeep.isArmed _ _).trans harm) rfl)

/-! ### What becomes of it (R266, R271–R274, R443) -/

theorem deliverReady_waits {d : Device} {i : DomId} (h : receives d i = false) (x : InEntry) (inid : Byte) : ∀ n, deliverReady n d i x inid = d
  | 0 => rfl
  | n + 1 => by simp only [deliverReady, h, Bool.false_eq_true, if_false]

section Ready

variable {d : Device} {i : DomId} {x : InEntry} {inid : Byte} {m : Assembling} (hrec : receives d i = true)
  (hm : readyMessage (getDom d i) inid = some m) (hf : m.refused = false)
include hrec hm hf

theorem deliverReady_reset (hr : (getCore d x.target.core).inReset = true) (n : Nat) :
    deliverReady (n + 1) d i x inid = deliverReady n (noteErrors (modDom d i fun y => passMessage y m) 0 [x.target]) i x inid := by
  simp only [deliverReady, hrec, hm, hf, hr, Bool.false_eq_true, if_true, if_false]

variable (hr : (getCore d x.target.core).inReset = false)
include hr

theorem deliverReady_readsDue (h1 : x.kind = 1) (hd : readsDue d x.target = true) (n : Nat) : deliverReady (n + 1) d i x inid = d := by
  simp only [deliverReady, hrec, hm, hf, hr, h1, hd, decide_true, Bool.and_self, Bool.false_eq_true, if_true, if_false]

theorem deliverReady_full (h1 : x.kind = 1) (hd : readsDue d x.target = false) (hh : m.held = false)
    (hroom : 64 < (mqOf d x.target x.queue.val).occ + placeCost (mqOf d x.target x.queue.val) m.len) (n : Nat) : deliverReady (n + 1) d i x inid =
      modMq (modDom d i fun y => { y with assembling := y.assembling.map fun z => if z = m then { z with held := true } else z }) x.target x.queue.val
        fun q => { q with quotaHolds := satAdd q.quotaHolds 1 } := by
  have hin : deliverInbound d x inid m = none := by simp only [deliverInbound, h1, if_true, if_pos hroom]
  simp only [deliverReady, hrec, hm, hf, hr, hd, hin, hh, Bool.and_false, Bool.false_eq_true, if_true, if_false]

/-- Units for an anchor buffer join its additions at once. -/
theorem deliverReady_anchor (h2 : x.kind = 2) (hq : m.retried = false) (n : Nat) : deliverReady (n + 1) d i x inid =
    deliverReady n (modDom (anchorArrive d x inid m) i fun y => passMessage y m) i x inid := by
  have hne : x.kind ≠ 1 := by rw [h2]; decide
  have hin : deliverInbound d x inid m = some (anchorArrive d x inid m) := if_neg hne
  simp only [deliverReady, hrec, hm, hf, hr, hin, hq, markMessage, decide_eq_false hne, Bool.false_and, Bool.false_eq_true, if_true, if_false]

end Ready

theorem reported_noteErrors (d : Device) (code : Byte) (cs : List CtxId) : Reported d (noteErrors d code cs) :=
  Reported.forAll fun _ _ => reported_detectAt _ _

theorem fab_delivered (d : Device) (i : DomId) (x : InEntry) (inid : Byte) (m : Assembling) : (delivered d i x inid m).fab = d.fab := by
  unfold delivered markMessage deliverFlag
  split <;> split <;> rfl

/-- A message that is placed adds to its flag, where its entry says so (R271). -/
theorem flagAdded_delivered {d : Device} {i : DomId} {x : InEntry} {inid : Byte} {m : Assembling} (h : x.fadd = true) :
    FlagAdded d (delivered d i x inid m) x.target x.tflag (if x.fper then BitVec.ofNat 32 m.len else 1) := by
  refine flagAdded_pendAdd (x := modMq d x.target x.queue.val fun q => place q (messageUnits m) inid m.sender (settleTick d x.target) (some (m.src, m.chan)))
    (isSplit_modMq _ _ _ _ _) (flagPend_modMq _ _ _ _ _) ?_
  rw [delivered, getCore_of_cores (cores_markMessage _ _ _ _), deliverFlag, if_pos h]
  rfl

/-- Device e is z once the message that joined there has passed: nothing more is ready, and its channel's next one is expected. -/
theorem Joined.passed {s : State} {p : Fin 8} {f : FrameBits} {q : PartId} {i : DomId} {z e : Device} {r : Option Run} (h : Joined s p f q i z)
    (he : getDom e i = { passMessage (getDom z i) (frameMessage f) with run := r }) : (getDom e i).assembling = [] ∧
      nextMseq (getDom e i) (frameMessage f) = nextMseq (getDom s.dev i) (frameMessage f) + 1 ∧ ∀ x inid n, deliverReady n e i x inid = e := by
  have hnone : (getDom e i).assembling = [] := by
    rw [he]
    exact assembling_passMessage (by rw [h.dom])
  refine ⟨hnone, ?_, fun x inid n => deliverReady_none (by rw [readyMessage, hnone]; rfl) n⟩
  rw [he]
  refine (nextMseq_passMessage _ _).trans ?_
  rw [h.dom]
  rfl

theorem Joined.ready {s : State} {p : Fin 8} {f : FrameBits} {q : PartId} {i : DomId} {z : Device} (h : Joined s p f q i z)
    (hs : nextMseq (getDom s.dev i) (frameMessage f) = (frameMessage f).mseq) :
    readyMessage (getDom z i) (frameMessage f).inid = some (frameMessage f) :=
  readyMessage_single (by rw [h.dom]) rfl (by rw [h.dom]; exact hs.symm) (by simp [frameMessage])

section Outcome

variable {s : State} {p : Fin 8} {f : FrameBits} {q : PartId} {i : DomId} {z : Device} {x : InEntry} (h : Joined s p f q i z)
  (hgo : channelMessageFrame s.dev p f = deliverReady 256 z i x (frameMessage f).inid)
include h hgo

theorem Joined.answers_waits (hw : receives s.dev i = false) : Answers (.channelMessageFrame p f) s fun e =>
    Accepted s p e q.val ∧ (getDom e i).assembling = [frameMessage f] ∧ e.cores = s.dev.cores := by
  rw [deliverReady_waits ((h.hub.receives i).trans hw)] at hgo
  exact answers_of_onDev (f := fun d => channelMessageFrame d p f) rfl hgo ⟨h.accepted z rfl, by rw [h.dom], h.hub.cores⟩

variable (hs : nextMseq (getDom s.dev i) (frameMessage f) = (frameMessage f).mseq) (hrec : receives s.dev i = true)
include hs hrec

/-- Toward a core in reset the message is gone, with an entry in the ledger (R443, R472). -/
theorem Joined.answers_reset (hr : (getCore s.dev x.target.core).inReset = true) : Answers (.channelMessageFrame p f) s fun e =>
    Accepted s p e q.val ∧ (getDom e i).assembling = [] ∧ nextMseq (getDom e i) (frameMessage f) = (frameMessage f).mseq + 1 ∧ e.cores = s.dev.cores ∧
      (s.dev.err.events = [] → Logged e 0x181 (coreUnit x.target) 2 0) := by
  rw [deliverReady_reset ((h.hub.receives i).trans hrec) (h.ready hs) rfl ((congrArg _ (h.hub.getCore _)).trans hr)] at hgo
  have hrep := reported_noteErrors (modDom z i fun y => passMessage y (frameMessage f)) 0 [x.target]
  obtain ⟨g, hdom⟩ := hrep.dom i
  rw [getDom_modDom_same] at hdom
  obtain ⟨hnone, hnext, hdone⟩ := h.passed hdom
  rw [hdone] at hgo
  refine answers_of_onDev (f := fun d => channelMessageFrame d p f) rfl hgo
    ⟨h.accepted _ hrep.fab, hnone, hnext.trans (by rw [hs]), hrep.cores.trans h.hub.cores, fun hev => ?_⟩
  exact logged_detectAt (d := modDom z i fun y => passMessage y (frameMessage f))
    (e := coreEvent (modDom z i fun y => passMessage y (frameMessage f)) x.target 0x181 (coreUnit x.target) 2 0 0) ((congrArg (·.events) h.hub.err).trans hev)

variable (hr : (getCore s.dev x.target.core).inReset = false)
include hr

theorem Joined.answers_readsDue (h1 : x.kind = 1) (hd : readsDue s.dev x.target = true) : Answers (.channelMessageFrame p f) s fun e =>
    Accepted s p e q.val ∧ (getDom e i).assembling = [frameMessage f] ∧ e.cores = s.dev.cores := by
  rw [deliverReady_readsDue ((h.hub.receives i).trans hrec) (h.ready hs) rfl ((congrArg _ (h.hub.getCore _)).trans hr) h1
    ((h.hub.readsDue _).trans hd)] at hgo
  exact answers_of_onDev (f := fun d => channelMessageFrame d p f) rfl hgo ⟨h.accepted z rfl, by rw [h.dom], h.hub.cores⟩

theorem Joined.answers_placed (h1 : x.kind = 1) (hd : readsDue s.dev x.target = false)
    (hroom : (mqOf s.dev x.target x.queue.val).occ + placeCost (mqOf s.dev x.target x.queue.val) (frameMessage f).len ≤ 64) :
    Answers (.channelMessageFrame p f) s fun e => Accepted s p e q.val ∧ (getDom e i).assembling = [] ∧
      nextMseq (getDom e i) (frameMessage f) = (frameMessage f).mseq + 1 ∧
      mqOf e x.target x.queue.val = place (mqOf s.dev x.target x.queue.val) (frameUnits f) (frameMessage f).inid (frameMessage f).sender
        (settleTick s.dev x.target) (some ((frameMessage f).src, (frameMessage f).chan)) ∧
      (x.fadd = true → FlagAdded s.dev e x.target x.tflag (if x.fper then BitVec.ofNat 32 (frameMessage f).len else 1)) := by
  rw [deliverReady_queue ((h.hub.receives i).trans hrec) (h.ready hs) rfl ((congrArg _ (h.hub.getCore _)).trans hr) h1 ((h.hub.readsDue _).trans hd)
    (by rwa [h.hub.mqOf])] at hgo
  obtain ⟨r, hdom⟩ := getDom_delivered z i x (frameMessage f).inid (frameMessage f)
  obtain ⟨hnone, hnext, hdone⟩ := h.passed hdom
  rw [hdone] at hgo
  refine answers_of_onDev (f := fun d => channelMessageFrame d p f) rfl hgo
    ⟨h.accepted _ (fab_delivered _ _ _ _ _), hnone, hnext.trans (by rw [hs]), ?_, fun hadd => ?_⟩
  · rw [mqOf_delivered, h.hub.mqOf, h.hub.settleTick, messageUnits_frameMessage]
  · have hflag := flagAdded_delivered (d := z) (i := i) (inid := (frameMessage f).inid) (m := frameMessage f) hadd
    rwa [FlagAdded, h.hub.getCore, h.hub.isSplit] at hflag

theorem Joined.answers_full (h1 : x.kind = 1) (hd : readsDue s.dev x.target = false)
    (hroom : 64 < (mqOf s.dev x.target x.queue.val).occ + placeCost (mqOf s.dev x.target x.queue.val) (frameMessage f).len) :
    Answers (.channelMessageFrame p f) s fun e => Accepted s p e q.val ∧ (getDom e i).assembling = [{ frameMessage f with held := true }] ∧
      mqOf e x.target x.queue.val = { mqOf s.dev x.target x.queue.val with
        quotaHolds := satAdd (mqOf s.dev x.target x.queue.val).quotaHolds 1 } := by
  rw [deliverReady_full ((h.hub.receives i).trans hrec) (h.ready hs) rfl ((congrArg _ (h.hub.getCore _)).trans hr) h1 ((h.hub.readsDue _).trans hd) rfl
    (by rwa [h.hub.mqOf])] at hgo
  refine answers_of_onDev (f := fun d => channelMessageFrame d p f) rfl hgo ⟨h.accepted _ rfl, ?_, ?_⟩
  · refine (congrArg Domain.assembling (getDom_modDom_same z i _)).trans ?_
    rw [h.dom]
    simp
  · rw [mqOf_modMq_same, mqOf_of_cores (modDom_cores _ _ _), h.hub.mqOf]

theorem Joined.answers_anchor (h2 : x.kind = 2) : Answers (.channelMessageFrame p f) s fun e => Accepted s p e q.val ∧
    (getDom e i).assembling = [] ∧ nextMseq (getDom e i) (frameMessage f) = (frameMessage f).mseq + 1 ∧
    (getUnit e x.target).adds = (getUnit s.dev x.target).adds ++ (List.range (frameMessage f).len).map fun k => {
      off := x.taddr.toNat + 64 * k, data := (frameUnits f).getD k 0, reached := corePeriod s.dev x.target.core, readAt := none, sum := 0
      flag := if x.fadd && k + 1 = (frameMessage f).len then some (x.tflag, if x.fper then BitVec.ofNat 32 (frameMessage f).len else 1) else none
      back := if k + 1 = (frameMessage f).len then some {
        chan := (frameMessage f).inid, units := (frameMessage f).len, due := 0
        inbound := some ((frameMessage f).src, (frameMessage f).sender, (frameMessage f).chan) } else none } := by
  rw [deliverReady_anchor ((h.hub.receives i).trans hrec) (h.ready hs) rfl ((congrArg _ (h.hub.getCore _)).trans hr) h2 rfl] at hgo
  have hdom : getDom (modDom (anchorArrive z x (frameMessage f).inid (frameMessage f)) i fun y => passMessage y (frameMessage f)) i =
      { passMessage (getDom z i) (frameMessage f) with run := (getDom z i).run } := getDom_modDom_same _ _ _
  obtain ⟨hnone, hnext, hdone⟩ := h.passed hdom
  rw [hdone] at hgo
  refine answers_of_onDev (f := fun d => channelMessageFrame d p f) rfl hgo ⟨h.accepted _ rfl, hnone, hnext.trans (by rw [hs]), ?_⟩
  rw [getUnit_modDom, anchorArrive, getUnit_modUnit_same]
  simp only [messageUnits_frameMessage, length_frameUnits, h.hub.getUnit, h.hub.corePeriod]

end Outcome

/-! ### A message without an inbound entry (R274) -/

/-- The event of a message that is refused waits inside the hub, where no armed event falls on it. -/
theorem detectAt_refusedMessage {d : Device} {q : PartId} (h : isArmed d 0x122 (BitVec.ofNat 16 q.val) = false) (v : W64) :
    detectAt d (hubEvent 0x122 q.val 2 v) = pushEvent d (hubEvent 0x122 q.val 2 v) .lead := by
  have hin : inject d (hubEvent 0x122 q.val 2 v).det (hubEvent 0x122 q.val 2 v).unit = (false, d) := inject_unarmed h
  have hcross : ∀ u, crossingOf 0x122 u = none := fun u => by simp [crossingOf]
  simp only [detectAt, hin, detect, Bool.false_eq_true, if_false]
  rw [show crossingOf (hubEvent 0x122 q.val 2 v).det _ = none from hcross _]
  rfl

theorem receiveMessage_noEntry {d : Device} {q : PartId} {f : FrameBits} (harm : isArmed d 0x122 (BitVec.ofNat 16 q.val) = false)
    (h : inboundEntry d q (BitVec.ofNat 18 (frameSrc f)) (BitVec.ofNat 8 (le (frameBodyBytes f) 0 1)) = none) :
    receiveMessage d q f = if le (frameBodyBytes f) 3 1 = 0 ∧ 0 < le (frameBodyBytes f) 1 1 then
      pushEvent d (hubEvent 0x122 q.val 2 (put64 0 (frameSeq f).toNat)) .lead else d := by
  have hfirst : (((List.range (le (frameBodyBytes f) 1 1)).map fun k => (le (frameBodyBytes f) 3 1 + k,
      (leBits 512 (slice (frameBodyBytes f) (16 + 64 * k) 64) : BitVec 512))).any fun u => decide (u.1 = 0)) = true ↔
        le (frameBodyBytes f) 3 1 = 0 ∧ 0 < le (frameBodyBytes f) 1 1 := by
    simp only [List.any_map, List.any_eq_true, List.mem_range, Function.comp_apply, decide_eq_true_eq]
    exact ⟨fun ⟨k, hk, h0⟩ => ⟨by omega, by omega⟩, fun ⟨h0, hn⟩ => ⟨0, hn, by omega⟩⟩
  simp only [receiveMessage, hubMessage, h, hfirst, detectAt_refusedMessage harm]

theorem answers_refusedMessage {s : State} {p : Fin 8} {f : FrameBits} {q : PartId} (h : Routed s p f 1 q)
    (harm : isArmed s.dev 0x122 (BitVec.ofNat 16 q.val) = false)
    (hno : inboundEntry s.dev q (BitVec.ofNat 18 (frameSrc f)) (BitVec.ofNat 8 (le (frameBodyBytes f) 0 1)) = none) (he : s.dev.err.events = []) :
    Answers (.channelMessageFrame p f) s fun e => Accepted s p e q.val ∧ e.parts = s.dev.parts ∧ e.cores = s.dev.cores ∧
      (if le (frameBodyBytes f) 3 1 = 0 ∧ 0 < le (frameBodyBytes f) 1 1 then Logged e 0x122 (BitVec.ofNat 16 q.val) 2 0 else e.err.events = []) := by
  obtain ⟨y, w, hroute, hfree, haccept⟩ := routed_freed h rfl
  have hgo : channelMessageFrame s.dev p f = receiveMessage (modPlane s.dev p fun _ => y) q f := by simp only [channelMessageFrame, hroute, hfree]
  rw [receiveMessage_noEntry (d := modPlane s.dev p fun _ => y) harm hno] at hgo
  refine answers_of_onDev (f := fun d => channelMessageFrame d p f) rfl hgo ?_
  split
  · exact ⟨haccept _ rfl, rfl, rfl, logged_pushEvent _ _ _⟩
  · exact ⟨haccept _ rfl, rfl, rfl, he⟩

/-! ### Credit frames (R347) -/

theorem channelCredit_heard {s : State} {p : Fin 8} {f : FrameBits} {q : PartId} (h : Routed s p f 2 q) :
    ∃ y, channelCreditFrame s.dev p f = receiveCredit (modPlane s.dev p fun _ => y) q f ∧
      ∀ e, e.fab = (modPlane s.dev p fun _ => y).fab → Accepted s p e q.val := by
  obtain ⟨y, w, hroute, hfree, haccept⟩ := routed_freed h rfl
  exact ⟨y, by simp only [channelCreditFrame, hroute, hfree], haccept⟩

theorem receiveCredit_again {d : Device} {q : PartId} {f : FrameBits}
    (h : ∃ x ∈ (getPart d q).cseqRx, x.dst = BitVec.ofNat 18 (frameSrc f) ∧ x.cseq = BitVec.ofNat 32 (le (frameBodyBytes f) 4 4)) :
    receiveCredit d q f = d := by
  refine if_pos (List.any_eq_true.2 ?_)
  obtain ⟨x, hx, hdst, hcseq⟩ := h
  exact ⟨x, hx, by simp [hdst, hcseq]⟩

/-- A credit frame of one entry, for a core of the partition, that has not come before. -/
theorem receiveCredit_first {d : Device} {q : PartId} {f : FrameBits} (hr : frameRetried f = false) (h1 : le (frameBodyBytes f) 0 1 = 1)
    (hq : partOfCore d (ctxOfScore (le (frameBodyBytes f) 8 2)).core = q)
    (h : ∀ x ∈ (getPart d q).cseqRx, x.dst ≠ BitVec.ofNat 18 (frameSrc f) ∨ x.cseq ≠ BitVec.ofNat 32 (le (frameBodyBytes f) 4 4)) :
    receiveCredit d q f = modCredit (modPart d q fun x => { x with
        cseqRx := x.cseqRx ++ [{ dst := BitVec.ofNat 18 (frameSrc f), cseq := BitVec.ofNat 32 (le (frameBodyBytes f) 4 4) }] })
      (ctxOfScore (le (frameBodyBytes f) 8 2)) (BitVec.ofNat 8 (le (frameBodyBytes f) 10 1)) (· + le (frameBodyBytes f) 11 1) := by
  have hnew : ((getPart d q).cseqRx.any fun x => x.dst = BitVec.ofNat 18 (frameSrc f) && x.cseq = BitVec.ofNat 32 (le (frameBodyBytes f) 4 4)) = false := by
    rw [List.any_eq_false]
    intro x hx
    simpa using fun hd hc => (h x hx).elim (· hd) (· hc)
  have hone : List.range 1 = [0] := rfl
  have hpart : ∀ x, partOfCore (modPart d q x) (ctxOfScore (le (frameBodyBytes f) 8 2)).core = q := fun _ => hq
  simp only [receiveCredit, hnew, hr, h1, hone, forAll_single, Nat.mul_zero, Nat.add_zero, hpart, Bool.false_eq_true, if_false, if_true, applyCredit]

end Sys2Proof.Machine
end

section
/-! What a credit frame makes of a partition and its core, and the instances of the collective engine: what they go by of the device, and the
engine's turns (R303, R317, R318, R347). -/

open Sys2Proof.Claims

namespace Sys2Proof.Machine

/-! ### Credit frames -/

section Credit

variable {s : State} {p : Fin 8} {f : FrameBits} {q : PartId} (h : Routed s p f 2 q)
include h

theorem answers_firstCredit (hr : frameRetried f = false) (h1 : le (frameBodyBytes f) 0 1 = 1)
    (hq : partOfCore s.dev (ctxOfScore (le (frameBodyBytes f) 8 2)).core = q)
    (hnew : ∀ x ∈ (getPart s.dev q).cseqRx, x.dst ≠ BitVec.ofNat 18 (frameSrc f) ∨ x.cseq ≠ BitVec.ofNat 32 (le (frameBodyBytes f) 4 4)) :
    Answers (.channelCreditFrame p f) s fun e => Accepted s p e q.val ∧
      (getPart e q).cseqRx = (getPart s.dev q).cseqRx ++ [{ dst := BitVec.ofNat 18 (frameSrc f), cseq := BitVec.ofNat 32 (le (frameBodyBytes f) 4 4) }] ∧
      creditOf e (ctxOfScore (le (frameBodyBytes f) 8 2)) (BitVec.ofNat 8 (le (frameBodyBytes f) 10 1)) =
        (creditOf s.dev (ctxOfScore (le (frameBodyBytes f) 8 2)) (BitVec.ofNat 8 (le (frameBodyBytes f) 10 1)) + le (frameBodyBytes f) 11 1) % 256 ∧
      ∀ k, k ≠ (ctxOfScore (le (frameBodyBytes f) 8 2)).core → getCore e k = getCore s.dev k := by
  obtain ⟨y, hgo, haccept⟩ := channelCredit_heard h
  rw [receiveCredit_first (d := modPlane s.dev p fun _ => y) hr h1 hq hnew] at hgo
  refine answers_of_onDev (f := fun d => channelCreditFrame d p f) rfl hgo ⟨haccept _ rfl, ?_, ?_, fun k hk => ?_⟩
  · exact congrArg Part.cseqRx (getPart_modPart_same _ _ _)
  · rw [creditOf_modCredit_same]
    exact congrArg (fun n => (n + _) % 256) (creditOf_of_cores rfl _ _)
  · exact getCore_modCore_other _ _ _ _ (Ne.symm hk)

theorem answers_repeatedCredit
    (hold : ∃ x ∈ (getPart s.dev q).cseqRx, x.dst = BitVec.ofNat 18 (frameSrc f) ∧ x.cseq = BitVec.ofNat 32 (le (frameBodyBytes f) 4 4)) :
    Answers (.channelCreditFrame p f) s fun e => Accepted s p e q.val ∧ e.parts = s.dev.parts ∧ e.cores = s.dev.cores := by
  obtain ⟨y, hgo, haccept⟩ := channelCredit_heard h
  rw [receiveCredit_again (d := modPlane s.dev p fun _ => y) hold] at hgo
  exact answers_of_onDev (f := fun d => channelCreditFrame d p f) rfl hgo ⟨haccept _ rfl, rfl, rfl⟩

end Credit

/-! ### What the collective engine goes by -/

/-- From d to e nothing that the collective engine goes by has changed, but for the frames that it holds. -/
structure EngineSame (d e : Device) : Prop where
  dom : ∀ i, getDom e i = getDom d i
  index : e.fab.index = d.fab.index
  units : e.rb.units = d.rb.units
  config : e.config = d.config

theorem viewColl_of_prog {d e : Device} {i : DomId} (hprog : (getDom e i).prog = (getDom d i).prog) (hindex : e.fab.index = d.fab.index) (k : Fin 16) :
    viewColl e i k = viewColl d i k := by
  simp only [viewColl, fabAddr, hprog, hindex]

namespace EngineSame

theorem modPlane (d : Device) (p : Fin 8) (f : PlaneLink → PlaneLink) : EngineSame d (modPlane d p f) := ⟨fun _ => rfl, rfl, rfl, rfl⟩

theorem modPart (d : Device) (q : PartId) {f : Part → Part} (h : ∀ x, (f x).doms = x.doms) : EngineSame d (modPart d q f) := by
  refine ⟨fun i => ?_, rfl, rfl, rfl⟩
  by_cases hq : q = i.part
  · rw [getDom, hq, getPart_modPart_same, h, getDom]
  · rw [getDom, getPart_modPart_other _ _ _ _ hq, getDom]

theorem trans {d x e : Device} (h : EngineSame d x) (k : EngineSame x e) : EngineSame d e :=
  ⟨fun i => (k.dom i).trans (h.dom i), k.index.trans h.index, k.units.trans h.units, k.config.trans h.config⟩

variable {d e : Device} (h : EngineSame d e)
include h

theorem viewColl (i : DomId) (k : Fin 16) : viewColl e i k = viewColl d i k := viewColl_of_prog (by rw [h.dom]) h.index k

theorem matchColl (q : PartId) (x : HeldFrame) : matchColl e q x = matchColl d q x := by simp only [Machine.matchColl, h.viewColl]

theorem engineReset : engineReset e = engineReset d := by rw [Machine.engineReset, h.units, Machine.engineReset]

theorem collFree (i : DomId) : collFree e i = collFree d i := by simp only [Machine.collFree, h.engineReset, h.dom]

theorem fateOf (q : PartId) (x : HeldFrame) : fateOf e q x = fateOf d q x := by
  simp only [Machine.fateOf, h.matchColl, h.dom, h.engineReset, h.collFree]

end EngineSame

/-- A view is of the descriptor that was looked up. -/
theorem viewColl_names {d : Device} {i : DomId} {k : Fin 16} {v : CollView} (h : viewColl d i k = some v) : v.dom = i ∧ v.idx = k := by
  rw [viewColl] at h
  obtain ⟨g, -, hg⟩ := Option.bind_eq_some_iff.1 h
  split at hg
  · contradiction
  · split at hg
    · contradiction
    · obtain rfl := Option.some.inj hg
      exact ⟨rfl, rfl⟩

/-- A frame belongs to a descriptor of a domain of its partition. -/
theorem matchColl_dom {d : Device} {q : PartId} {x : HeldFrame} {v : CollView} (h : matchColl d q x = some v) : v.dom ∈ domsOf q := by
  have hall : v ∈ (domsOf q).flatMap fun i => (List.finRange 16).filterMap fun k => match viewColl d i k with
      | some v => if v.x.cid.toNat = bodyCid x.body then some v else none
      | none => none := by
    simp only [matchColl] at h
    split at h
    · obtain rfl := Option.some.inj h
      exact List.mem_of_find?_eq_some ‹_›
    · exact List.mem_of_head? h
  obtain ⟨i, hi, hv⟩ := List.mem_flatMap.1 hall
  obtain ⟨k, -, hk⟩ := List.mem_filterMap.1 hv
  split at hk
  next w hw =>
    split at hk
    · obtain rfl := Option.some.inj hk
      exact (viewColl_names hw).1 ▸ hi
    · contradiction
  · contradiction

theorem fateOfData_use {v w : CollView} {c : CollInst} {b : BitVec 1792} (h : fateOfData v c b = .use w) : w = v := by
  simp only [fateOfData] at h
  split at h
  · contradiction
  · split at h
    · contradiction
    · split at h
      · contradiction
      · exact (CollFate.use.inj h).symm

theorem fateOfVerdict_use {v w : CollView} {c : CollInst} {b : BitVec 1792} (h : fateOfVerdict v c b = .use w) : w = v := by
  simp only [fateOfVerdict] at h
  split at h
  · exact (CollFate.use.inj h).symm
  · split at h <;> contradiction

theorem else_of_ite_eq {α : Type} {c : Prop} [Decidable c] {a b x : α} (h : (if c then a else b) = x) (ha : a ≠ x) : ¬ c ∧ b = x := by
  by_cases hc : c
  · exact absurd ((if_pos hc).symm.trans h) ha
  · exact ⟨hc, (if_neg hc).symm.trans h⟩

/-- A frame that is used is of a descriptor whose domain the engine acts for. -/
theorem fateOf_use {d : Device} {q : PartId} {x : HeldFrame} {v : CollView} (h : fateOf d q x = .use v) :
    (getDom d v.dom).st ≠ .halted ∧ collFree d v.dom = true := by
  rw [fateOf] at h
  cases hm : matchColl d q x with
  | none => simp only [hm, reduceCtorEq] at h
  | some w =>
    cases hr : (getDom d w.dom).run with
    | none => simp only [hm, hr, reduceCtorEq] at h
    | some r =>
      simp only [hm, hr] at h
      obtain ⟨hst, h⟩ := else_of_ite_eq h nofun
      obtain ⟨-, h⟩ := else_of_ite_eq h nofun
      obtain ⟨-, h⟩ := else_of_ite_eq h nofun
      obtain ⟨hfree, h⟩ := else_of_ite_eq h nofun
      obtain ⟨-, h⟩ := else_of_ite_eq h nofun
      obtain ⟨-, h⟩ := else_of_ite_eq h nofun
      obtain ⟨-, h⟩ := else_of_ite_eq h nofun
      have hv : v = w := by
        clear hm hr
        cases hc : r.colls.find? fun c => c.desc = w.idx with
        | none =>
          simp only [hc] at h
          obtain ⟨-, h⟩ := else_of_ite_eq h nofun
          contradiction
        | some c =>
          simp only [hc] at h
          obtain ⟨-, h⟩ := else_of_ite_eq h nofun
          obtain ⟨-, h⟩ := else_of_ite_eq h nofun
          obtain ⟨-, h⟩ := else_of_ite_eq h nofun
          split at h
          · exact fateOfVerdict_use h
          · exact fateOfData_use h
      exact hv ▸ ⟨hst, by simpa using hfree⟩

theorem fateOf_noRun {d : Device} {q : PartId} {x : HeldFrame} {v : CollView} (h : matchColl d q x = some v) (hr : (getDom d v.dom).run = none) :
    fateOf d q x = .wait := by
  simp only [fateOf, h, hr]

/-! ### The buffer -/

theorem modPart_congr {d : Device} {q : PartId} {f g : Part → Part} (h : f (getPart d q) = g (getPart d q)) : modPart d q f = modPart d q g := by
  rw [modPart, modPart, vmod_eq_const, vmod_eq_const _ _ g]
  exact congrArg (fun x => { d with parts := vmod d.parts q fun _ => x }) h

theorem modPart_modPart_same (d : Device) (q : PartId) (f g : Part → Part) : modPart (modPart d q f) q g = modPart d q fun x => g (f x) := by
  simp only [modPart, vmod_vmod_same]

theorem refill_noWait {d : Device} {q : PartId} (h : (getPart d q).ceWait = []) : refill d q = d := by
  rw [refill, h]
  rfl

/-- A frame of no domain enters a buffer that holds nothing. -/
theorem enterBuffer_empty {d : Device} {q : PartId} {h : HeldFrame} (hh : (getPart d q).ceHeld = []) (hw : (getPart d q).ceWait = [])
    (hd : h.dom = none) (hs : 0 < bufferShare d) : enterBuffer d q h = modPart d q fun x => { x with ceHeld := [h], ceWait := [] } := by
  have hwait : (getPart (modPart d q fun x => { x with ceWait := x.ceWait ++ [h] }) q).ceWait = [h] := by
    rw [getPart_modPart_same, hw]
    rfl
  have hheld : (getPart (modPart d q fun x => { x with ceWait := x.ceWait ++ [h] }) q).ceHeld = [] := by rw [getPart_modPart_same, hh]
  have hstall : domStalled (modPart d q fun x => { x with ceWait := x.ceWait ++ [h] }) h.dom = false := by rw [hd, domStalled]
  have hroom : ¬ bufferShare (modPart d q fun x => { x with ceWait := x.ceWait ++ [h] }) ≤ 0 := Nat.not_le.2 hs
  simp only [enterBuffer, refill, hwait, hheld, hstall, Bool.not_false, List.filter_cons_of_pos, List.filter_nil, forAll_single, List.length_nil,
    if_neg hroom]
  rw [modPart_modPart_same]
  exact modPart_congr (by simp [hh, hw])

theorem enterBuffer_full {d : Device} {q : PartId} (h : HeldFrame) (hs : bufferShare d ≤ (getPart d q).ceHeld.length) :
    enterBuffer d q h = modPart d q fun x => { x with ceWait := x.ceWait ++ [h] } := by
  refine forAll_id fun x _ => if_pos ?_
  rw [getPart_modPart_same]
  exact hs

/-- The frame that alone is held leaves the buffer, and its entry is freed. -/
theorem leaveBuffer_single {d : Device} {q : PartId} {h : HeldFrame} {p : Fin 8} (hh : (getPart d q).ceHeld = [h]) (hw : (getPart d q).ceWait = [])
    (hp : h.plane = some p) : leaveBuffer d q 0 = freeEntry (modPart d q fun x => { x with ceHeld := [] }) p true q := by
  have herase : modPart d q (fun x => { x with ceHeld := x.ceHeld.eraseIdx 0 }) = modPart d q fun x => { x with ceHeld := [] } :=
    modPart_congr (by simp [hh])
  have hnone : (getPart (freeEntry (modPart d q fun x => { x with ceHeld := [] }) p true q) q).ceWait = [] :=
    (congrArg Part.ceWait (getPart_modPart_same _ _ _)).trans hw
  have hfirst : (getPart d q).ceHeld[0]? = some h := by rw [hh]; rfl
  simp only [leaveBuffer, hfirst, herase, freeHeld, hp, refill_noWait hnone]

/-! ### The engine's turns -/

/-- What the engine does for a domain by itself. -/
def ownTurn (d : Device) (i : DomId) : Option Device :=
  match (getDom d i).run with
  | none => none
  | some r =>
    if (getDom d i).st = .halted && !r.colls.isEmpty then some (abortActive d i 3)
    else if !collFree d i then none
    else r.colls.findSome? fun c => match viewColl d i c.desc with
      | some v => advanceInst d v c
      | none => none

theorem collStep_eq (d : Device) (q : PartId) : collStep d q = match (domsOf q).findSome? (ownTurn d) with
    | some e => some e
    | none => takeHeld d q := rfl

theorem ownTurn_noRun {d : Device} {i : DomId} (h : (getDom d i).run = none) : ownTurn d i = none := by rw [ownTurn, h]

/-- Of the partition's domains that of v alone has a run, and c is its one instance, which the engine may act for. -/
structure SoleInst (d : Device) (q : PartId) (v : CollView) (r : Run) (c : CollInst) : Prop where
  mem : v.dom ∈ domsOf q
  others : ∀ j ∈ domsOf q, j ≠ v.dom → (getDom d j).run = none
  run : (getDom d v.dom).run = some r
  colls : r.colls = [c]
  desc : c.desc = v.idx
  view : viewColl d v.dom v.idx = some v
  free : collFree d v.dom = true
  live : (getDom d v.dom).st ≠ .halted

theorem findSome?_only {α β : Type} {f : α → Option β} {a : α} : {l : List α} → a ∈ l → (∀ b ∈ l, b ≠ a → f b = none) → l.findSome? f = f a
  | b :: l, ha, h => by
    by_cases hb : b = a
    · subst hb
      cases hf : f b with
      | some x => simp [hf]
      | none =>
        rw [List.findSome?_eq_none_iff]
        intro c hc
        by_cases hcb : c = b
        · rw [hcb, hf]
        · exact h c hc hcb
    · rw [List.findSome?_cons, h b List.mem_cons_self hb]
      exact findSome?_only ((List.mem_cons.1 ha).resolve_left (Ne.symm hb)) fun c hc => h c (List.mem_cons_of_mem _ hc)

namespace SoleInst

variable {d : Device} {q : PartId} {v : CollView} {r : Run} {c : CollInst} (h : SoleInst d q v r c)
include h

theorem findSome?_ownTurn : (domsOf q).findSome? (ownTurn d) = advanceInst d v c := by
  have hown : ownTurn d v.dom = advanceInst d v c := by
    simp only [ownTurn, h.run, h.colls, h.desc, h.view, h.free, h.live, decide_false, Bool.false_and, Bool.not_true, Bool.false_eq_true, if_false,
      List.findSome?_cons, List.findSome?_nil]
    cases advanceInst d v c <;> rfl
  rw [findSome?_only h.mem fun j hj hne => ownTurn_noRun (h.others j hj hne), hown]

theorem collStep_advance {e : Device} (ha : advanceInst d v c = some e) : collStep d q = some e := by
  rw [collStep_eq, h.findSome?_ownTurn, ha]

theorem collStep_held (ha : advanceInst d v c = none) : collStep d q = takeHeld d q := by
  rw [collStep_eq, h.findSome?_ownTurn, ha]

/-- The instance acts on what the engine goes by, and is put back. -/
theorem putInst {e : Device} (hsame : EngineSame d e) (k : CollInst) (hk : k.desc = v.idx) :
    SoleInst (putInst (e, k) v) q v { r with colls := [k] } k := by
  have hrun : (getDom (Machine.putInst (e, k) v) v.dom).run = some { r with colls := [k] } := by
    rw [Machine.putInst, getDom_modRun_same, hsame.dom, h.run]
    simp [h.colls, h.desc]
  have hst : (getDom (Machine.putInst (e, k) v) v.dom).st = (getDom d v.dom).st := by
    rw [Machine.putInst, getDom_modRun_same, hsame.dom]
  have hprog : (getDom (Machine.putInst (e, k) v) v.dom).prog = (getDom d v.dom).prog := by
    rw [Machine.putInst, getDom_modRun_same, hsame.dom]
  have hreset : Machine.engineReset (Machine.putInst (e, k) v) = Machine.engineReset d := hsame.engineReset
  refine ⟨h.mem, fun j hj hne => ?_, hrun, rfl, hk, ?_, ?_, hst ▸ h.live⟩
  · rw [Machine.putInst, getDom_modRun_other _ _ _ _ (Ne.symm hne), hsame.dom, h.others j hj hne]
  · exact (viewColl_of_prog hprog hsame.index _).trans h.view
  · rw [← h.free]
    simp [collFree, hreset, hrun, hst, h.run, h.colls]

end SoleInst

theorem advanceInst_begins {d : Device} {v : CollView} {c : CollInst} (h : c.begun = false) :
    advanceInst d v c = some (putInst (beginAttempt d v c) v) := by
  simp [advanceInst, h]

/-- An attempt that expects further frames does not go on by itself. -/
theorem advanceInst_waits {d : Device} {v : CollView} {c : CollInst} (hb : c.begun = true) (hs : c.step = 0) (hf : c.used.length < framesExpected v)
    (hn : 0 < v.n) : advanceInst d v c = none := by
  have h1 : ¬ framesExpected v ≤ c.used.length := Nat.not_le.2 hf
  have h2 : ¬ v.n ≤ 0 := Nat.not_le.2 hn
  simp [advanceInst, hb, hs, h1, h2]

theorem takeHeld_nil {d : Device} {q : PartId} (h : (getPart d q).ceHeld = []) : takeHeld d q = none := by
  rw [takeHeld, h]
  rfl

theorem takeHeld_waits {d : Device} {q : PartId} {x : HeldFrame} (h : (getPart d q).ceHeld = [x]) (hf : fateOf d q x = .wait) : takeHeld d q = none := by
  have hrange : List.range 1 = [0] := rfl
  simp [takeHeld, h, hrange, hf]

theorem takeHeld_uses {d : Device} {q : PartId} {x : HeldFrame} {v : CollView} {r : Run} {c : CollInst} (h : (getPart d q).ceHeld = [x])
    (hf : fateOf d q x = .use v) (hsole : SoleInst d q v r c) (hr : (useFrame (leaveBuffer d q 0, c) v x.body x.retried).2.retried = false) :
    takeHeld d q = some (putInst (useFrame (leaveBuffer d q 0, c) v x.body x.retried) v) := by
  have hrange : List.range 1 = [0] := rfl
  have hfind : (getDom d v.dom).run.bind (fun r => r.colls.find? fun c => c.desc = v.idx) = some c := by
    rw [hsole.run, Option.bind_some, hsole.colls]
    simp [hsole.desc]
  simp [takeHeld, h, hrange, hf, hfind, hr]

theorem collRun_idle {d : Device} {q : PartId} (hw : (getPart d q).ceWait = []) (h : collStep d q = none) : collRun d q = d := by
  rw [collRun, refill_noWait hw, collFuel, show 256 + 4 * ((getPart d q).ceHeld.length + (getPart d q).ceWait.length) =
    255 + 4 * ((getPart d q).ceHeld.length + (getPart d q).ceWait.length) + 1 by omega, collPump, h]

theorem collRun_once {d e : Device} {q : PartId} (hw : (getPart d q).ceWait = []) (h : collStep d q = some e) (he : collStep e q = none) :
    collRun d q = e := by
  rw [collRun, refill_noWait hw, collFuel, show 256 + 4 * ((getPart d q).ceHeld.length + (getPart d q).ceWait.length) =
    254 + 4 * ((getPart d q).ceHeld.length + (getPart d q).ceWait.length) + 1 + 1 by omega, collPump, h]
  simp only [collPump, he]

end Sys2Proof.Machine
end

section
/-! Collective frames as they arrive, wait and are used, and the starts of instances (R302, R303, R310, R317, R318, R443). -/

open Sys2Proof.Claims

namespace Sys2Proof.Machine

/-! ### Writes to the reservoir -/

/-- A write to the reservoir changes the reservoir alone, and what it writes depends on the reservoir alone. -/
theorem writeBytes_reservoir : (bs : List Byte) → (d : Device) → (a : Nat) →
    writeBytes d .reservoir a bs = { d with reservoir := (writeBytes d .reservoir a bs).reservoir }
  | [], _, _ => rfl
  | b :: bs, d, a => by
    rw [writeBytes, writeBytes_reservoir bs]
    rfl

theorem writeBytes_reservoir_congr : (bs : List Byte) → {d e : Device} → (a : Nat) → e.reservoir = d.reservoir →
    (writeBytes e .reservoir a bs).reservoir = (writeBytes d .reservoir a bs).reservoir
  | [], _, _, _, h => h
  | b :: bs, d, e, a, h => writeBytes_reservoir_congr bs (a + 1) (show memSet e.reservoir a b = memSet d.reservoir a b by rw [h])

theorem writeOut_eq (d : Device) (v : CollView) (a : Nat) (l : List Nat) :
    writeOut d v a l = { d with reservoir := (writeOut d v a l).reservoir } := writeBytes_reservoir _ _ _

theorem writeOut_keeps (d : Device) (v : CollView) (a : Nat) (l : List Nat) :
    EngineSame d (writeOut d v a l) ∧ (writeOut d v a l).parts = d.parts ∧ (writeOut d v a l).fab = d.fab := by
  rw [writeOut_eq]
  exact ⟨⟨fun _ => rfl, rfl, rfl, rfl⟩, rfl, rfl⟩

theorem writeOut_congr {d e : Device} (v : CollView) (a : Nat) (l : List Nat) (hc : e.config = d.config) (hr : e.reservoir = d.reservoir) :
    (writeOut e v a l).reservoir = (writeOut d v a l).reservoir := by
  simp only [writeOut, reservoirShare, hc]
  exact writeBytes_reservoir_congr _ _ hr

/-! ### A frame arrives -/

/-- The device after its link has taken a routed frame that it is to use. -/
structure TookFrame (s : State) (p : Fin 8) (z : Device) : Prop where
  same : EngineSame s.dev z
  parts : z.parts = s.dev.parts
  err : z.err = s.dev.err
  reservoir : z.reservoir = s.dev.reservoir
  expect : (getPlane z p).expect = (getPlane s.dev p).expect + 1
  goodTime : (getPlane z p).goodTime = elapsedNs s.dev
  freed : (getPlane z p).freed = (getPlane s.dev p).freed

theorem tookFrame_routed {s : State} {p : Fin 8} {f : FrameBits} {q : PartId} (h : Routed s p f 3 q) :
    ∃ z, receiveRouted s.dev p f 3 = (some q, z) ∧ TookFrame s p z := by
  obtain ⟨x, hroute, hexpect, htime, hfreed⟩ := receiveRouted_routed h rfl
  refine ⟨_, hroute, EngineSame.modPlane _ _ _, rfl, rfl, rfl, ?_, ?_, ?_⟩ <;> rwa [getPlane_modPlane_same]

/-- What arrives at a partition with a collective frame on which no armed event falls. -/
def arrivedFrame (p : Fin 8) (f : FrameBits) : HeldFrame :=
  { plane := some p, dom := none, src := frameSrc f, lseq := (frameSeq f).toNat, retried := frameRetried f, bad := false, body := frameBody f }

/-- The device with a frame that alone is held for a partition. -/
def holding (z : Device) (q : PartId) (h : HeldFrame) : Device := modPart z q fun x => { x with ceHeld := [h], ceWait := [] }

theorem engineSame_holding (z : Device) (q : PartId) (h : HeldFrame) : EngineSame z (holding z q h) := EngineSame.modPart _ _ fun _ => rfl

theorem ceHeld_holding (z : Device) (q : PartId) (h : HeldFrame) : (getPart (holding z q h) q).ceHeld = [h] := by rw [holding, getPart_modPart_same]

theorem ceWait_holding (z : Device) (q : PartId) (h : HeldFrame) : (getPart (holding z q h) q).ceWait = [] := by rw [holding, getPart_modPart_same]

namespace TookFrame

variable {s : State} {p : Fin 8} {z : Device} (t : TookFrame s p z)
include t

theorem getPart (q : PartId) : getPart z q = getPart s.dev q := by rw [Machine.getPart, t.parts, Machine.getPart]

theorem isArmed (det unit : BitVec 16) : isArmed z det unit = isArmed s.dev det unit := by rw [Machine.isArmed, t.err, Machine.isArmed]

theorem accepted {e : Device} (he : e.fab = z.fab) (q : PartId) : Accepted s p (freeEntry e p true q) (4 + q.val) := by
  have hplane := getPlane_of_fab he p
  exact accepted_of_plane (by rw [hplane, t.expect]) (by rw [hplane, t.goodTime]) (by rw [hplane, t.freed]) (getPlane_modPlane_same _ _ _)

variable {f : FrameBits} {q : PartId} (hroute : receiveRouted s.dev p f 3 = (some q, z))
include hroute

theorem collectiveFrame_reset (hr : engineReset s.dev = true) : collectiveFrame s.dev p f = freeEntry z p true q := by
  simp only [collectiveFrame, hroute, t.same.engineReset, hr, if_true]

theorem collectiveFrame_held (hr : engineReset s.dev = false) (ha : Machine.isArmed s.dev 0x190 (BitVec.ofNat 16 q.val) = false)
    (hh : (Machine.getPart s.dev q).ceHeld = []) (hw : (Machine.getPart s.dev q).ceWait = []) (hs : 0 < bufferShare s.dev) :
    collectiveFrame s.dev p f = collRun (holding z q (arrivedFrame p f)) q := by
  have hroom : 0 < bufferShare z := by rwa [bufferShare, t.same.config]
  have henter := enterBuffer_empty (h := arrivedFrame p f) (by rw [t.getPart, hh]) (by rw [t.getPart, hw]) rfl hroom
  simp only [collectiveFrame, hroute, t.same.engineReset, hr, Bool.false_eq_true, if_false, inject_unarmed ((t.isArmed _ _).trans ha)]
  exact congrArg (collRun · q) henter

end TookFrame

/-! ### A frame is held, or used -/

/-- With no run in the partition a frame of a known collective stays where it is. -/
theorem collRun_holding_waits {d : Device} {q : PartId} {h : HeldFrame} {v : CollView} (hruns : ∀ j ∈ domsOf q, (getDom d j).run = none)
    (hv : matchColl d q h = some v) : collRun (holding d q h) q = holding d q h := by
  have hsame := engineSame_holding d q h
  have hfate : fateOf (holding d q h) q h = .wait := by rw [hsame.fateOf, fateOf_noRun hv (hruns _ (matchColl_dom hv))]
  have hown : (domsOf q).findSome? (ownTurn (holding d q h)) = none :=
    List.findSome?_eq_none_iff.2 fun j hj => ownTurn_noRun ((congrArg Domain.run (hsame.dom j)).trans (hruns j hj))
  refine collRun_idle (ceWait_holding _ _ _) ?_
  rw [collStep_eq, hown]
  exact takeHeld_waits (ceHeld_holding _ _ _) hfate

theorem SoleInst.of_same {d e : Device} {q : PartId} {v : CollView} {r : Run} {c : CollInst} (h : SoleInst d q v r c) (hs : EngineSame d e) :
    SoleInst e q v r c := by
  refine ⟨h.mem, fun j hj hne => ?_, ?_, h.colls, h.desc, ?_, ?_, ?_⟩
  · rw [hs.dom, h.others j hj hne]
  · rw [hs.dom, h.run]
  · rw [hs.viewColl, h.view]
  · rw [hs.collFree, h.free]
  · rw [hs.dom]
    exact h.live

/-- An instance after it has used a gather frame. -/
def afterGather (c : CollInst) (b : BitVec 1792) : CollInst :=
  { c with rx := c.rx + 1, flags := c.flags ||| bodyFlags b, used := [(2, bodyShard b, bodySeq b)] }

/-- The device after a gather frame's elements have been written. -/
def gatherOut (d : Device) (v : CollView) (c : CollInst) (b : BitVec 1792) : Device :=
  writeOut d v (frameSpan v (bodyShard b) (bodySeq b)).1
    (fromWire v c.attempt (frameSpan v (bodyShard b) (bodySeq b)).1 (bodyElems v b (frameSpan v (bodyShard b) (bodySeq b)).2)).1

theorem gatherOut_keeps (d : Device) (v : CollView) (c : CollInst) (b : BitVec 1792) :
    EngineSame d (gatherOut d v c b) ∧ (gatherOut d v c b).parts = d.parts ∧ (gatherOut d v c b).fab = d.fab := writeOut_keeps _ _ _ _

/-- The first gather frame of an attempt, at the last member of the ring: written, and sent on to nobody (R308). -/
theorem useFrame_lastGather {d : Device} {v : CollView} {c : CollInst} {b : BitVec 1792} (ho : v.x.order = 0) (hp : bodyPhase b = 2)
    (hlast : ringPos v 1 = bodyShard b) (hu : c.used = []) (hr : c.retried = false) :
    useFrame (d, c) v b false = (gatherOut d v c b, afterGather c b) := by
  simp [useFrame, useGather, sendData, gatherOut, afterGather, ho, hp, hlast, hu, hr]

/-- A change of a run leaves what a partition has besides its domains. -/
theorem getPart_modRun_proj {β : Type} (g : Part → β) (h : ∀ x m, g { x with doms := m } = g x) (d : Device) (i : DomId) (f : Run → Run) (q : PartId) :
    g (getPart (modRun d i f) q) = g (getPart d q) := by
  by_cases hq : i.part = q
  · rw [modRun, modDom, hq, getPart_modPart_same, h]
  · rw [modRun, modDom, getPart_modPart_other _ _ _ _ hq]

theorem ceHeld_modRun (d : Device) (i : DomId) (f : Run → Run) (q : PartId) : (getPart (modRun d i f) q).ceHeld = (getPart d q).ceHeld :=
  getPart_modRun_proj (·.ceHeld) (fun _ _ => rfl) d i f q

theorem ceWait_modRun (d : Device) (i : DomId) (f : Run → Run) (q : PartId) : (getPart (modRun d i f) q).ceWait = (getPart d q).ceWait :=
  getPart_modRun_proj (·.ceWait) (fun _ _ => rfl) d i f q

/-- The device after a frame from plane p, which alone was held, has left its buffer. -/
def released (z : Device) (q : PartId) (h : HeldFrame) (p : Fin 8) : Device :=
  freeEntry (modPart (holding z q h) q fun x => { x with ceHeld := [] }) p true q

theorem ceHeld_released (z : Device) (q : PartId) (h : HeldFrame) (p : Fin 8) : (getPart (released z q h p) q).ceHeld = [] :=
  congrArg Part.ceHeld (getPart_modPart_same (holding z q h) q _)

/-- Then the buffer is empty also when the frame's instance has acted. -/
theorem ceHeld_putInst_gatherOut (z : Device) (q : PartId) (h : HeldFrame) (p : Fin 8) (v : CollView) (c k : CollInst) (b : BitVec 1792) :
    (getPart (putInst (gatherOut (released z q h p) v c b, k) v) q).ceHeld = [] := by
  rw [putInst, ceHeld_modRun, getPart, (gatherOut_keeps _ _ _ _).2.1]
  exact ceHeld_released z q h p

theorem engineSame_released (z : Device) (q : PartId) (h : HeldFrame) (p : Fin 8) : EngineSame (holding z q h) (released z q h p) :=
  (EngineSame.modPart _ q (f := fun x => { x with ceHeld := [] }) fun _ => rfl).trans (EngineSame.modPlane _ _ _)

/-- The frame that alone is held is used by the sole instance, which then has to wait for the next. -/
theorem collRun_holding_gathers {z : Device} {q : PartId} {h : HeldFrame} {p : Fin 8} {v : CollView} {r : Run} {c : CollInst}
    (hsole : SoleInst z q v r c) (hfate : fateOf z q h = .use v) (hp : h.plane = some p) (ho : v.x.order = 0) (hn : v.n = 2)
    (hphase : bodyPhase h.body = 2) (hlast : ringPos v 1 = bodyShard h.body) (hb : c.begun = true) (hs : c.step = 0) (hu : c.used = [])
    (hmore : 1 < framesExpected v) (hr : c.retried = false) (hret : h.retried = false) :
    collRun (holding z q h) q = putInst (gatherOut (released z q h p) v c h.body, afterGather c h.body) v := by
  have hsame := engineSame_holding z q h
  have hhold := hsole.of_same hsame
  have huse := useFrame_lastGather (d := leaveBuffer (holding z q h) q 0) ho hphase hlast hu hr
  rw [leaveBuffer_single (ceHeld_holding _ _ _) (ceWait_holding _ _ _) hp, ← released] at huse
  have hbuffer : leaveBuffer (holding z q h) q 0 = released z q h p := leaveBuffer_single (ceHeld_holding _ _ _) (ceWait_holding _ _ _) hp
  have htake := takeHeld_uses (ceHeld_holding z q h) ((hsame.fateOf q h).trans hfate) hhold
  rw [hret, hbuffer, huse] at htake
  obtain ⟨hout, -, -⟩ := gatherOut_keeps (released z q h p) v c h.body
  have hnext := hhold.putInst ((engineSame_released z q h p).trans hout) (afterGather c h.body) hsole.desc
  refine collRun_once (ceWait_holding _ _ _) ?_ ?_ (e := putInst (gatherOut (released z q h p) v c h.body, afterGather c h.body) v)
  · rw [hhold.collStep_held (advanceInst_waits hb hs (by rw [hu]; exact Nat.lt_of_succ_lt hmore) (by omega)), htake hr]
  · rw [hnext.collStep_held (advanceInst_waits hb hs hmore (by omega))]
    exact takeHeld_nil (ceHeld_putInst_gatherOut _ _ _ _ _ _ _ _)

/-! ### An instance starts -/

/-- What an instance that is due needs. -/
theorem collDue_needs {d : Device} {i : DomId} {k : Fin 16} {v : CollView} {r : Run} (h : collDue d i k = true) (hv : viewColl d i k = some v)
    (hr : (getDom d i).run = some r) : engineReset d = false ∧ (getDom d i).st = .running ∧ r.started = true ∧ r.stalled = false ∧ r.ramp = 0 ∧
      (v.x.order = 2 → r.openMode = false → isHalted d v.x.core = false) := by
  simp only [collDue, hv, hr, Bool.and_eq_true, Bool.not_eq_true', decide_eq_true_eq, Bool.and_eq_false_iff] at h
  obtain ⟨⟨⟨⟨⟨⟨⟨⟨hreset, hst⟩, hstarted⟩, hstalled⟩, hramp⟩, -⟩, -⟩, -⟩, hopen⟩ := h
  refine ⟨hreset, hst, hstarted, hstalled, hramp, fun h2 hmode => ?_⟩
  simpa [h2, hmode] using hopen

theorem answers_firstComeHalt {s : State} {i : DomId} {k : Fin 16} {v : CollView} {r : Run} (hdue : collDue s.dev i k = true)
    (hv : viewColl s.dev i k = some v) (hr : (getDom s.dev i).run = some r) (ho : v.x.order = 2) (hmode : r.openMode = false) :
    Answers (.collectiveInstanceStart i k) s fun e => isHalted e v.x.core = true ∧ (getUnit e v.x.core).halt.code = 0x0E ∧
      (getUnit e v.x.core).halt.seq = execSeq v.x.core := by
  obtain ⟨-, -, -, -, -, hrunning⟩ := collDue_needs hdue hv hr
  have hgo : startColl s.dev i k = firstComeHalt s.dev v.x.core := by simp [startColl, hdue, hv, hr, ho, hmode]
  refine answers_of_onDev (f := fun d => startColl d i k) rfl hgo ?_
  have hhalt := halt_haltCheck_same 0x0E (seqOf v.x.core true).seq
    (physAddr (isSplit s.dev v.x.core.core) v.x.core.ctx ((getSeq s.dev (seqOf v.x.core true)).pc.setWidth 12)) 0 (hrunning ho hmode)
  rw [← firstComeHalt] at hhalt
  rw [isHalted, hhalt]
  exact ⟨rfl, rfl, rfl⟩

/-- A new instance of a descriptor. -/
def newInst (k : Fin 16) (n : Nat) : CollInst :=
  { desc := k, inst := n, attempt := 0, begun := false, used := [], partials := [], flags := 0, step := 0, retried := false, tx := 0, rx := 0 }

/-- An attempt that sends nothing first: the instance has begun. -/
def begunInst (c : CollInst) : CollInst := { c with begun := true, used := [], partials := [], step := 0, flags := 0 }

/-- The run of a first instance that has started. -/
def withInst (r : Run) (k : Fin 16) (c : CollInst) : Run := { r with colls := [c], collNext := vset r.collNext k (vget r.collNext k + 1) }

theorem startColl_begins {d : Device} {i : DomId} {k : Fin 16} {v : CollView} {r : Run} (hdue : collDue d i k = true) (hv : viewColl d i k = some v)
    (hr : (getDom d i).run = some r) (ho : v.x.order = 0) (hc : r.colls = []) (ha : r.collAbort = []) :
    ∃ f, startColl d i k = collRun (modRun d i f) i.part ∧ f r = withInst r k (newInst k (vget r.collNext k)) := by
  simp only [startColl, hdue, hv, hr, ho, ha, Bool.not_true, Bool.false_eq_true, if_false, List.find?_nil]
  exact ⟨_, rfl, by simp [withInst, newInst, hc, ha]⟩

/-- A member that is not the root of an ordered broadcast begins by waiting (R308). -/
theorem beginAttempt_waits {d : Device} {v : CollView} {c : CollInst} (ha : isArmed d 0x191 (BitVec.ofNat 16 v.dom.part.val) = false)
    (hk : v.x.kind = 5) (ho : v.x.order = 0) (hpos : v.pos ≠ v.x.root) : beginAttempt d v c = (d, begunInst c) := by
  have hsums : startsSums v = [] := by simp [startsSums, hk, ho]
  have hgather : startsGather v = [] := by simp [startsGather, hk, ho, hpos]
  simp only [beginAttempt, inject_unarmed ha, hsums, hgather, begunInst, List.foldl_nil, Bool.false_eq_true, if_false]

theorem mem_domsOf (i : DomId) : i ∈ domsOf i.part := List.mem_map.2 ⟨i.dom, List.mem_finRange _, rfl⟩

/-- The first instance of a run starts, begins its attempt, and waits for the frames of its ring. -/
theorem startColl_waits {d : Device} {i : DomId} {k : Fin 16} {v : CollView} {r : Run} (hdue : collDue d i k = true) (hv : viewColl d i k = some v)
    (hr : (getDom d i).run = some r) (hk : v.x.kind = 5) (ho : v.x.order = 0) (hn : v.n = 2) (hpos : v.pos ≠ v.x.root) (hc : r.colls = [])
    (hab : r.collAbort = []) (hh : (getPart d i.part).ceHeld = []) (hw : (getPart d i.part).ceWait = [])
    (hothers : ∀ j ∈ domsOf i.part, j ≠ i → (getDom d j).run = none) (ha : isArmed d 0x191 (BitVec.ofNat 16 i.part.val) = false)
    (hmore : 0 < framesExpected v) :
    ∃ e, startColl d i k = e ∧ (getDom e i).run = some (withInst r k (begunInst (newInst k (vget r.collNext k)))) ∧ e.reservoir = d.reservoir ∧
      e.cores = d.cores := by
  obtain ⟨hreset, hst, hstarted, hstalled, hramp, -⟩ := collDue_needs hdue hv hr
  obtain ⟨f, hgo, hf⟩ := startColl_begins hdue hv hr ho hc hab
  obtain ⟨hdom, hidx⟩ := viewColl_names hv
  have hrun : (getDom (modRun d i f) i).run = some (withInst r k (newInst k (vget r.collNext k))) := by
    rw [getDom_modRun_same, hr, Option.map_some, hf]
  have hsole : SoleInst (modRun d i f) i.part v (withInst r k (newInst k (vget r.collNext k))) (newInst k (vget r.collNext k)) := by
    subst hdom hidx
    refine ⟨mem_domsOf _, fun j hj hne => ?_, hrun, rfl, rfl, ?_, ?_, ?_⟩
    · rw [getDom_modRun_other _ _ _ _ (Ne.symm hne), hothers j hj hne]
    · rw [viewColl_of_prog (d := d) (e := modRun d v.dom f) (by rw [getDom_modRun_same]) rfl, hv]
    · have hidle : engineReset (modRun d v.dom f) = false := hreset
      rw [collFree, hidle, hrun, getDom_modRun_same, hst]
      simp [withInst, hstarted, hstalled, hramp]
    · rw [getDom_modRun_same, hst]
      exact fun h => DomState.noConfusion h
  have hbegin := beginAttempt_waits (d := modRun d i f) (c := newInst k (vget r.collNext k)) (hdom ▸ ha) hk ho hpos
  have hstep := hsole.collStep_advance (advanceInst_begins rfl)
  rw [hbegin] at hstep
  have hnext := hsole.putInst ⟨fun _ => rfl, rfl, rfl, rfl⟩ (begunInst (newInst k (vget r.collNext k))) hidx.symm
  refine ⟨_, hgo.trans (collRun_once ?_ hstep ?_), ?_, rfl, rfl⟩
  · rw [ceWait_modRun, hw]
  · rw [hnext.collStep_held (advanceInst_waits rfl rfl hmore (by omega))]
    refine takeHeld_nil ?_
    rw [putInst, ceHeld_modRun, ceHeld_modRun, hh]
  · exact hdom ▸ hnext.run

end Sys2Proof.Machine
end

section
/-! Messages, credit and collective frames answer as the spec gives it (R302, R303, R310, R317, R318, R347, R348, R443). -/

open Sys2Proof.Claims

namespace Sys2Proof.Machine

theorem accepted_of_fab {s : State} {p : Fin 8} {d e : Device} {n : Nat} (h : Accepted s p d n) (he : e.fab = d.fab) : Accepted s p e n := by
  rw [Accepted, getPlane_of_fab he]
  exact h

section Collective

variable {s : State} {p : Fin 8} {f : FrameBits} {q : PartId} (h : Routed s p f 3 q)
include h

/-- During a reset of the engine a frame is gone, and its entry is freed (R443). -/
theorem answers_resetCollective (hr : engineReset s.dev = true) :
    Answers (.collectiveFrame p f) s fun e => Accepted s p e (4 + q.val) ∧ e.parts = s.dev.parts := by
  obtain ⟨z, hroute, t⟩ := tookFrame_routed h
  exact answers_of_onDev (f := fun d => collectiveFrame d p f) rfl (t.collectiveFrame_reset hroute hr) ⟨t.accepted rfl q, t.parts⟩

variable (hr : engineReset s.dev = false) (ha : isArmed s.dev 0x190 (BitVec.ofNat 16 q.val) = false) (hh : (getPart s.dev q).ceHeld = [])
  (hw : (getPart s.dev q).ceWait = []) (hs : 0 < bufferShare s.dev)
include hr ha hh hw hs

theorem answers_heldCollective {v : CollView} (hruns : ∀ j ∈ domsOf q, (getDom s.dev j).run = none) (hv : matchColl s.dev q (arrivedFrame p f) = some v) :
    Answers (.collectiveFrame p f) s fun e => (getPart e q).ceHeld = [arrivedFrame p f] ∧ (getPlane e p).expect = (getPlane s.dev p).expect + 1 ∧
      (getPlane e p).freed = (getPlane s.dev p).freed ∧ e.reservoir = s.dev.reservoir := by
  obtain ⟨z, hroute, t⟩ := tookFrame_routed h
  have hwaits := collRun_holding_waits (fun j hj => (congrArg Domain.run (t.same.dom j)).trans (hruns j hj)) ((t.same.matchColl _ _).trans hv)
  exact answers_of_onDev (f := fun d => collectiveFrame d p f) rfl ((t.collectiveFrame_held hroute hr ha hh hw hs).trans hwaits)
    ⟨ceHeld_holding _ _ _, t.expect, t.freed, t.reservoir⟩

theorem answers_usedCollective {v : CollView} {r : Run} {c : CollInst} (hmem : v.dom ∈ domsOf q)
    (hothers : ∀ j ∈ domsOf q, j ≠ v.dom → (getDom s.dev j).run = none) (hrun : (getDom s.dev v.dom).run = some r) (hcolls : r.colls = [c])
    (hdesc : c.desc = v.idx) (hview : viewColl s.dev v.dom v.idx = some v) (hfate : fateOf s.dev q (arrivedFrame p f) = .use v) (ho : v.x.order = 0)
    (hn : v.n = 2) (hphase : bodyPhase (frameBody f) = 2) (hlast : ringPos v 1 = bodyShard (frameBody f)) (hb : c.begun = true) (hstep : c.step = 0)
    (hu : c.used = []) (hmore : 1 < framesExpected v) (hret : c.retried = false) (hfret : frameRetried f = false) :
    Answers (.collectiveFrame p f) s fun e => Accepted s p e (4 + q.val) ∧ (getPart e q).ceHeld = [] ∧
      e.reservoir = (gatherOut s.dev v c (frameBody f)).reservoir ∧
      (getDom e v.dom).run = some { r with colls := [afterGather c (frameBody f)] } := by
  obtain ⟨z, hroute, t⟩ := tookFrame_routed h
  obtain ⟨hlive, hfree⟩ := fateOf_use hfate
  have hsole : SoleInst z q v r c := (SoleInst.mk hmem hothers hrun hcolls hdesc hview hfree hlive).of_same t.same
  have hgathers := collRun_holding_gathers hsole ((t.same.fateOf _ _).trans hfate) rfl ho hn hphase hlast hb hstep hu hmore hret hfret
  obtain ⟨hout, -, hfab⟩ := gatherOut_keeps (released z q (arrivedFrame p f) p) v c (frameBody f)
  have hnext := hsole.putInst (((engineSame_holding _ _ _).trans (engineSame_released _ _ _ _)).trans hout) (afterGather c (frameBody f)) hdesc
  refine answers_of_onDev (f := fun d => collectiveFrame d p f) rfl ((t.collectiveFrame_held hroute hr ha hh hw hs).trans hgathers) ⟨?_, ?_, ?_, hnext.run⟩
  · exact accepted_of_fab (d := released z q (arrivedFrame p f) p) (t.accepted rfl q) hfab
  · exact ceHeld_putInst_gatherOut _ _ _ _ _ _ _ _
  · exact writeOut_congr v _ _ t.same.config t.reservoir

end Collective

end Sys2Proof.Machine

open Sys2Proof.Machine

/-- Settles O60: a frame that its link takes leaves the hub's view of the device as it was, so that a message is what becomes of the one that its
domain then holds (log entry 103 for a run that has not begun, log entry 93 for the credit that an anchor addition owes), a credit frame is
one update, and of the collective engine's turns the frame's own is the one that is due. -/
theorem routedFramesReachTheirPartitions : Obligations.RoutedFramesReachTheirPartitions := by
  unfold Obligations.RoutedFramesReachTheirPartitions
  refine ⟨?_, ?_, ?_, ?_, ?_, ?_⟩
  · intro s p f q i x hrouted hretried harm b src id seq len us m amount hentry hholds hseq hunits hfirst
    obtain ⟨z, hjoined, hgo⟩ := channelMessage_joins hrouted hretried harm hentry hholds hseq hunits hfirst
    exact ⟨hjoined.answers_waits hgo, hjoined.answers_reset hgo hseq, fun hrec hr => ⟨hjoined.answers_placed hgo hseq hrec hr,
      hjoined.answers_readsDue hgo hseq hrec hr, hjoined.answers_full hgo hseq hrec hr, hjoined.answers_anchor hgo hseq hrec hr⟩⟩
  · intro s p f q hrouted _ harm hno he
    exact answers_refusedMessage hrouted harm hno he
  · intro s p f q hrouted hretried b src seq c chan
    exact ⟨answers_firstCredit hrouted hretried, answers_repeatedCredit hrouted⟩
  · intro s p f q hrouted harm h
    refine ⟨answers_resetCollective hrouted, fun v hr hh hw hs hruns hv => answers_heldCollective hrouted hr harm hh hw hs hruns hv, ?_⟩
    intro v r c hr hh hw hs hmem hothers hrun hcolls hdesc hview hfate _ ho hn hphase hlast hb hstep hu hmore hret hfret t
    exact answers_usedCollective hrouted hr harm hh hw hs hmem hothers hrun hcolls hdesc hview hfate ho hn hphase hlast hb hstep hu hmore hret hfret
  · intro d q h hfull
    exact enterBuffer_full h hfull
  · intro s i k v r hdue hv hr
    refine ⟨fun ho hmode => answers_firstComeHalt hdue hv hr ho hmode, fun hk ho hn hpos hc hab hh hw hothers harm hmore => ?_⟩
    obtain ⟨e, hgo, hend⟩ := startColl_waits hdue hv hr hk ho hn hpos hc hab hh hw hothers harm hmore
    exact answers_of_onDev (f := fun d => startColl d i k) rfl hgo hend
end

section
/-! Frames as bytes (R332, R333): what each field of a built frame reads. -/

open Sys2Proof.Claims

namespace Sys2Proof.Machine

/-! ### Fields of a byte string -/

theorem leVal_append : (a b : List Byte) → leVal (a ++ b) = leVal a + 256 ^ a.length * leVal b
  | [], b => by simp [leVal]
  | x :: a, b => by
    rw [List.cons_append, leVal, leVal, leVal_append a b, List.length_cons, Nat.pow_succ]
    ring

theorem leVal_leBytes : (n v : Nat) → leVal (leBytes n v) = v % 256 ^ n
  | 0, v => by rw [Nat.pow_zero, Nat.mod_one, leBytes, leVal]
  | n + 1, v => by 
    rw [leBytes, leVal, leVal_leBytes n, BitVec.toNat_ofNat, Nat.pow_succ' (m := 256)]
    exact Nat.mod_mul.symm

theorem two_pow_bytes (n : Nat) : 2 ^ (8 * n) = 256 ^ n := Nat.pow_mul 2 8 n

/-- A vector of n bytes. -/
theorem toNat_lt_bytes {w n : Nat} (x : BitVec w) (h : w = 8 * n) : x.toNat < 256 ^ n := by
  subst h
  exact lt_of_lt_of_eq x.isLt (two_pow_bytes n)

theorem toNat_leBits {w : Nat} {bs : List Byte} (h : w = 8 * bs.length) : (leBits w bs).toNat = leVal bs := by
  subst h
  exact Nat.mod_eq_of_lt (lt_of_lt_of_eq (leVal_lt bs) (two_pow_bytes _).symm)

/-- A field of the frame that a byte string spells is the value of the bytes there. -/
theorem frameField_leBits {pre mid post : List Byte} (h : (pre ++ mid ++ post).length = 256) {a n : Nat} (ha : pre.length = a) (hn : mid.length = n) :
    frameField (leBits 2048 (pre ++ mid ++ post)) a n = leVal mid := by
  subst ha hn
  rw [frameField, toNat_leBits (by rw [h]), two_pow_bytes, two_pow_bytes, List.append_assoc, leVal_append, leVal_append,
    Nat.add_mul_div_left _ _ (by positivity), Nat.div_eq_of_lt (leVal_lt _), Nat.zero_add, Nat.add_mul_mod_self_left, Nat.mod_eq_of_lt (leVal_lt _)]

/-! ### The bytes of a built frame (R332) -/

/-- The flags byte. -/
def flagsByte (resent retried : Bool) : Byte := (if resent then 1 else 0) + (if retried then 2 else 0)

/-- The 16 bytes before the body. -/
def frameHead (x : PlaneLink) (kind : Nat) (resent retried : Bool) (seq dst src first : Nat) : List Byte :=
  [BitVec.ofNat 8 (16 + kind), flagsByte resent retried] ++ leBytes 2 seq ++ leBytes 3 dst ++ [0] ++ leBytes 3 src ++ [BitVec.ofNat 8 first] ++
    leBytes 2 (ackField x) ++ [0, 0]

/-- The 252 bytes that FCS covers. -/
def coveredBytes (d : Device) (p : Fin 8) (kind : Nat) (resent retried : Bool) (seq dst src first : Nat) (body : BitVec 1792) : List Byte :=
  frameHead (getPlane d p) kind resent retried seq dst src first ++ leBytes 224 body.toNat ++ leBytes 12 (creditField d (getPlane d p))

section Built

variable (d : Device) (p : Fin 8) (kind : Nat) (resent retried : Bool) (seq dst src first : Nat) (body : BitVec 1792)

theorem buildFrame_eq : buildFrame d p kind resent retried seq dst src first body =
    leBits 2048 (coveredBytes d p kind resent retried seq dst src first body ++
      leBytes 4 (crc32 (coveredBytes d p kind resent retried seq dst src first body)).toNat) := rfl

theorem length_coveredBytes : (coveredBytes d p kind resent retried seq dst src first body).length = 252 := by simp [coveredBytes, frameHead]

/-- A field of a built frame before its body is the value of the bytes there. -/
theorem frameField_head {pre mid post : List Byte} (h : frameHead (getPlane d p) kind resent retried seq dst src first = pre ++ mid ++ post) {a n : Nat}
    (ha : pre.length = a) (hn : mid.length = n) : frameField (buildFrame d p kind resent retried seq dst src first body) a n = leVal mid := by
  rw [buildFrame_eq]
  have hlen := length_coveredBytes d p kind resent retried seq dst src first body
  generalize hc : crc32 (coveredBytes d p kind resent retried seq dst src first body) = c
  have hsplit : coveredBytes d p kind resent retried seq dst src first body ++ leBytes 4 c.toNat =
      pre ++ mid ++ (post ++ leBytes 224 body.toNat ++ leBytes 12 (creditField d (getPlane d p)) ++ leBytes 4 c.toNat) := by
    rw [coveredBytes, h]
    simp only [List.append_assoc]
  rw [hsplit]
  exact frameField_leBits (by rw [← hsplit, List.length_append, hlen, length_leBytes]) ha hn

theorem frameField_body : frameField (buildFrame d p kind resent retried seq dst src first body) 16 224 = body.toNat := by
  rw [buildFrame_eq]
  generalize crc32 (coveredBytes d p kind resent retried seq dst src first body) = c
  have hlen : (coveredBytes d p kind resent retried seq dst src first body ++ leBytes 4 c.toNat).length = 256 := by
    rw [List.length_append, length_coveredBytes, length_leBytes]
  rw [coveredBytes, List.append_assoc] at hlen ⊢
  rw [frameField_leBits hlen (by simp [frameHead]) (length_leBytes _ _), leVal_leBytes]
  exact Nat.mod_eq_of_lt (toNat_lt_bytes body rfl)

/-- FCS holds of every frame that is built (R333). -/
theorem frameOk_buildFrame : frameOk (buildFrame d p kind resent retried seq dst src first body) = true := by
  have hlen := length_coveredBytes d p kind resent retried seq dst src first body
  rw [buildFrame_eq]
  generalize coveredBytes d p kind resent retried seq dst src first body = l at hlen
  have hall : (l ++ leBytes 4 (crc32 l).toNat).length = 256 := by rw [List.length_append, hlen, length_leBytes]
  have hfield := frameField_leBits (post := []) (by rwa [List.append_nil]) hlen (length_leBytes 4 (crc32 l).toNat)
  rw [List.append_nil, leVal_leBytes, Nat.mod_eq_of_lt (toNat_lt_bytes (crc32 l) rfl)] at hfield
  rw [frameOk, frameBytes, leBytes_leBits _ hall (two_pow_bytes 256), List.take_left' hlen, hfield]
  exact decide_eq_true rfl

theorem frameField_first_byte : frameField (buildFrame d p kind resent retried seq dst src first body) 0 1 = (16 + kind) % 256 :=
  (frameField_head (pre := []) (mid := [BitVec.ofNat 8 (16 + kind)]) _ _ _ _ _ _ _ _ _ _ rfl rfl rfl).trans (by simp [leVal])

theorem frameKind_buildFrame (h : kind < 16) : frameKind (buildFrame d p kind resent retried seq dst src first body) = kind := by
  rw [frameKind, frameField_first_byte]
  omega

theorem frameVersion_buildFrame (h : kind < 16) : frameVersion (buildFrame d p kind resent retried seq dst src first body) = 1 := by
  rw [frameVersion, frameField_first_byte]
  omega

theorem frameField_flags : frameField (buildFrame d p kind resent retried seq dst src first body) 1 1 = (flagsByte resent retried).toNat :=
  frameField_head (pre := [BitVec.ofNat 8 (16 + kind)]) (mid := [flagsByte resent retried]) _ _ _ _ _ _ _ _ _ _ rfl rfl rfl

theorem frameSeq_buildFrame (h : seq < 4096) : frameSeq (buildFrame d p kind resent retried seq dst src first body) = BitVec.ofNat 12 seq := by
  have hfield : frameField (buildFrame d p kind resent retried seq dst src first body) 2 2 = seq % 256 ^ 2 :=
    (frameField_head (pre := [BitVec.ofNat 8 (16 + kind), flagsByte resent retried]) (mid := leBytes 2 seq) _ _ _ _ _ _ _ _ _ _ rfl rfl rfl).trans
      (leVal_leBytes 2 seq)
  rw [frameSeq, hfield]
  congr 1
  omega

theorem frameDst_buildFrame (h : dst < 2 ^ 18) : frameDst (buildFrame d p kind resent retried seq dst src first body) = dst := by
  have hfield : frameField (buildFrame d p kind resent retried seq dst src first body) 4 3 = dst % 256 ^ 3 :=
    (frameField_head (pre := [BitVec.ofNat 8 (16 + kind), flagsByte resent retried] ++ leBytes 2 seq) (mid := leBytes 3 dst)
      _ _ _ _ _ _ _ _ _ _ rfl rfl rfl).trans (leVal_leBytes 3 dst)
  rw [frameDst, hfield]
  omega

theorem frameSrc_buildFrame (h : src < 2 ^ 18) : frameSrc (buildFrame d p kind resent retried seq dst src first body) = src := by
  have hfield : frameField (buildFrame d p kind resent retried seq dst src first body) 8 3 = src % 256 ^ 3 :=
    (frameField_head (pre := [BitVec.ofNat 8 (16 + kind), flagsByte resent retried] ++ leBytes 2 seq ++ leBytes 3 dst ++ [0]) (mid := leBytes 3 src)
      (post := [BitVec.ofNat 8 first] ++ leBytes 2 (ackField (getPlane d p)) ++ [0, 0]) _ _ _ _ _ _ _ _ _ _
      (by simp only [frameHead, List.append_assoc]) rfl rfl).trans (leVal_leBytes 3 src)
  rw [frameSrc, hfield]
  omega

theorem frameBody_buildFrame : frameBody (buildFrame d p kind resent retried seq dst src first body) = body := by
  rw [frameBody, frameField_body, BitVec.ofNat_toNat, BitVec.setWidth_eq]

/-- A bit of byte 1 of a frame. -/
theorem getLsbD_flags (f : FrameBits) (k : Nat) (h : k < 8) : f.getLsbD (8 + k) = (frameField f 1 1).testBit k := by
  rw [frameField, Nat.testBit_mod_two_pow, Nat.testBit_div_two_pow, decide_eq_true (show k < 8 * 1 from h), Bool.true_and, Nat.add_comm]
  rfl

theorem frameResent_buildFrame : frameResent (buildFrame d p kind resent retried seq dst src first body) = resent := by
  rw [frameResent, getLsbD_flags _ 0 (by decide), frameField_flags]
  cases resent <;> cases retried <;> rfl

theorem frameRetried_buildFrame : frameRetried (buildFrame d p kind resent retried seq dst src first body) = retried := by
  rw [frameRetried, getLsbD_flags _ 1 (by decide), frameField_flags]
  cases resent <;> cases retried <;> rfl

end Built

end Sys2Proof.Machine
end

section
/-! Frames that come on a plane (R333–R338, R355): what a good one brings its link, and what becomes of one that fails, is refused, or is
out of sequence. -/

open Sys2Proof.Claims

namespace Sys2Proof.Machine

/-! ### A good frame (R335, R338) -/

/-- The frames that stay retained under the acknowledgement of a frame. -/
def keptFrames (f : FrameBits) (l : List (BitVec 12 × TxFrame)) : List (BitVec 12 × TxFrame) :=
  if frameField f 12 2 / 2 ^ 15 % 2 = 0 then l else freeUpTo (BitVec.ofNat 12 (frameField f 12 2 % 4096)) l

/-- A link that has heard a good frame. -/
def heardLink (f : FrameBits) (now : Nat) (x : PlaneLink) : PlaneLink :=
  let x := { takeCredit x f with goodTime := now }
  if frameField f 12 2 / 2 ^ 15 % 2 = 0 then x
  else
    let kept := keptFrames f x.retained
    let x := if kept.length < x.retained.length then { x with tries := 0, ackTime := now } else x
    let x := { x with retained := kept, resendq := freeUpTo (BitVec.ofNat 12 (frameField f 12 2 % 4096)) x.resendq }
    if frameField f 12 2 / 2 ^ 14 % 2 = 1 then { x with resendq := kept } else x

theorem goodFrame_heard (d : Device) (p : Fin 8) (f : FrameBits) : goodFrame d p f = modPlane d p (heardLink f (elapsedNs d)) := by
  unfold goodFrame takeAck heardLink keptFrames
  by_cases hv : frameField f 12 2 / 2 ^ 15 % 2 = 0
  · simp only [if_pos hv]
  · simp only [if_neg hv, modPlane_modPlane_same]
    rfl

/-- A good frame changes its link's credit, its time, what it retains, what it sends again and its record of progress, and no more. -/
theorem heardLink_eq (f : FrameBits) (now : Nat) (x : PlaneLink) : heardLink f now x = { takeCredit x f with
    goodTime := now
    retained := keptFrames f x.retained
    resendq := (heardLink f now x).resendq
    tries := (heardLink f now x).tries
    ackTime := (heardLink f now x).ackTime } := by
  unfold heardLink
  by_cases hv : frameField f 12 2 / 2 ^ 15 % 2 = 0
  · simp only [if_pos hv, keptFrames]
    rfl
  · simp only [if_neg hv]
    split <;> split <;> rfl

theorem limit_heardLink (f : FrameBits) (now : Nat) (x : PlaneLink) (i : Fin 8) :
    vget (heardLink f now x).limit i = BitVec.ofNat 12 (frameField f 240 12 / 2 ^ (12 * i.val)) := by
  rw [heardLink_eq]
  apply BitVec.eq_of_toNat_eq
  simp [takeCredit, vget]

theorem resendq_heardLink {f : FrameBits} (hv : frameField f 12 2 / 2 ^ 15 % 2 = 1) (hn : frameField f 12 2 / 2 ^ 14 % 2 = 1) (now : Nat) (x : PlaneLink) :
    (heardLink f now x).resendq = keptFrames f x.retained := by
  have hv' : frameField f 12 2 / 2 ^ 15 % 2 ≠ 0 := by omega
  simp only [heardLink, if_neg hv', if_pos hn]
  rfl

/-- What a good frame leaves beside its link's acknowledgement and credit. -/
structure HeardOn (d e : Device) (p : Fin 8) : Prop where
  rest : ∃ y, e = modPlane d p fun _ => y
  st : (getPlane e p).st = (getPlane d p).st
  expect : (getPlane e p).expect = (getPlane d p).expect
  nextSeq : (getPlane e p).nextSeq = (getPlane d p).nextSeq
  nakDue : (getPlane e p).nakDue = (getPlane d p).nakDue
  awaiting : (getPlane e p).awaiting = (getPlane d p).awaiting
  freed : (getPlane e p).freed = (getPlane d p).freed
  posn : (getPlane e p).posn = (getPlane d p).posn
  refused : (getPlane e p).refused = (getPlane d p).refused

theorem heardOn_goodFrame (d : Device) (p : Fin 8) (f : FrameBits) : HeardOn d (goodFrame d p f) p := by
  have hx : getPlane (goodFrame d p f) p = heardLink f (elapsedNs d) (getPlane d p) := by rw [goodFrame_heard, getPlane_modPlane_same]
  rw [heardLink_eq] at hx
  refine ⟨⟨_, (goodFrame_heard d p f).trans (modPlane_eq_const _ _ _)⟩, ?_, ?_, ?_, ?_, ?_, ?_, ?_, ?_⟩ <;> rw [hx] <;> rfl

namespace HeardOn

variable {d e : Device} {p : Fin 8} (h : HeardOn d e p)
include h

theorem fab : ∃ v, e.fab = { d.fab with planes := v } := by
  obtain ⟨y, rfl⟩ := h.rest
  exact ⟨_, rfl⟩

theorem others (q : Fin 8) (hq : q ≠ p) : getPlane e q = getPlane d q := by
  obtain ⟨y, rfl⟩ := h.rest
  exact getPlane_modPlane_other _ _ _ _ (Ne.symm hq)

theorem parts : e.parts = d.parts := by
  obtain ⟨y, rfl⟩ := h.rest
  rfl

theorem cores : e.cores = d.cores := by
  obtain ⟨y, rfl⟩ := h.rest
  rfl

theorem err : e.err = d.err := by
  obtain ⟨y, rfl⟩ := h.rest
  rfl

end HeardOn

/-! ### What the record of an event adds -/

/-- The detectors of the events that wait, but for the overruns of crossings. -/
def waitingDets (d : Device) : List (BitVec 16) := (d.err.events.filter fun y => y.det ≠ 0x162).map (·.det)

theorem waitingDets_pushEvent {d : Device} {x : ErrEvent} (hx : x.det ≠ 0x162) (place : EventPlace) :
    waitingDets (pushEvent d x place) = waitingDets d ++ [x.det] := by
  rw [waitingDets, pushEvent, List.filter_append, List.map_append, List.filter_cons_of_pos (by exact decide_eq_true hx)]
  rfl

theorem waitingDets_overrun (d : Device) (k : Nat) (inj : Bool) : waitingDets (overrun d k inj) = waitingDets d := by
  rw [waitingDets, overrun, pushEvent, List.filter_append, List.map_append, List.filter_cons_of_neg (by simp [hubEvent])]
  exact List.append_nil _

/-- An event inside the hub, or one that meets no other, waits after those that were there. -/
theorem waitingDets_detect {d : Device} {x : ErrEvent} (hx : x.det ≠ 0x162) (h : crossingOf x.det x.unit = none ∨ d.err.events = []) :
    waitingDets (detect d x) = waitingDets d ++ [x.det] := by
  have ht : (if x.inj then taint d x.det x.unit else d).err.events = d.err.events := by
    split
    · exact events_taint _ _ _
    · rfl
  unfold detect
  generalize (if x.inj then taint d x.det x.unit else d) = y at ht
  have hpush : ∀ z : Device, z.err.events = d.err.events → ∀ place, waitingDets (pushEvent z x place) = waitingDets d ++ [x.det] := fun z hz place => by
    rw [waitingDets_pushEvent hx, waitingDets, hz, waitingDets]
  cases hc : crossingOf x.det x.unit with
  | none => exact hpush y ht _
  | some k =>
    have hz : (inject y 0x162 (BitVec.ofNat 16 k)).2.err.events = d.err.events := (events_inject _ _ _).trans ht
    have hempty : (inject y 0x162 (BitVec.ofNat 16 k)).2.err.events = [] := hz.trans (h.resolve_left (by simp [hc]))
    simp only [inCrossing, hempty, List.filter_nil, List.countP_nil]
    cases (inject y 0x162 (BitVec.ofNat 16 k)).1
    · exact hpush _ hz _
    · exact (waitingDets_overrun _ _ _).trans (hpush _ hz .lead)

theorem waitingDets_detectAt {d : Device} {x : ErrEvent} (hx : x.det ≠ 0x162) (h : crossingOf x.det x.unit = none ∨ d.err.events = []) :
    waitingDets (detectAt d x) = waitingDets d ++ [x.det] := by
  have hev := events_inject d x.det x.unit
  refine (waitingDets_detect (d := (inject d x.det x.unit).2) (x := { x with inj := (inject d x.det x.unit).1 }) hx (by rwa [hev])).trans ?_
  rw [waitingDets, hev, waitingDets]

/-! ### A frame that fails (R335, R473) -/

/-- The link of a plane on which a frame has failed, with the codewords of it that could not be corrected. -/
def failedLink (x : PlaneLink) (n : Nat) : PlaneLink :=
  { x with failed := satAdd x.failed 1, uncorr := satAdd x.uncorr n, nakDue := true, awaiting := true }

theorem failedLink_zero (x : PlaneLink) : failedLink x 0 = { x with failed := satAdd x.failed 1, nakDue := true, awaiting := true } := by
  rw [failedLink, satAdd_zero]

theorem failFrame_link {d : Device} (he : d.err.events = []) (p : Fin 8) (n : Nat) (inj : Bool) (seq : BitVec 12) :
    getPlane (failFrame d p n inj seq) p = failedLink (getPlane d p) n ∧ Logged (failFrame d p n inj seq) 0x120 (BitVec.ofNat 16 p.val) 1 0 ∧
      (failFrame d p n inj seq).cores = d.cores := by
  have hrep := reported_detect (modPlane d p (failedLink · n)) { hubEvent 0x120 p.val 1 (put64 0 seq.toNat) with inj := inj }
  refine ⟨?_, ?_, hrep.cores⟩
  · exact (getPlane_of_fab hrep.fab p).trans (getPlane_modPlane_same _ _ _)
  · exact logged_detect_first (d := modPlane d p (failedLink · n)) (e := { hubEvent 0x120 p.val 1 (put64 0 seq.toNat) with inj := inj }) he

/-! ### A frame that is refused (R334, R355) -/

theorem refuseFrame_link {d : Device} (p : Fin 8) (f : FrameBits) :
    getPlane (refuseFrame d p f) p = { getPlane d p with refused := satAdd (getPlane d p).refused 1 } ∧
      (d.err.events = [] → Logged (refuseFrame d p f) 0x121 (BitVec.ofNat 16 p.val) 0 0) ∧
      (d.err.events = [] → waitingDets (refuseFrame d p f) = [0x121]) ∧ (refuseFrame d p f).cores = d.cores := by
  have hrep := reported_detectAt (modPlane d p fun x => { x with refused := satAdd x.refused 1 })
    (hubEvent 0x121 p.val 0 (BitVec.ofNat 64 (frameSeq f).toNat))
  refine ⟨?_, fun he => ?_, fun he => ?_, hrep.cores⟩
  · exact (getPlane_of_fab hrep.fab p).trans (getPlane_modPlane_same _ _ _)
  · exact logged_detectAt (d := modPlane d p fun x => { x with refused := satAdd x.refused 1 })
      (e := hubEvent 0x121 p.val 0 (BitVec.ofNat 64 (frameSeq f).toNat)) he
  · have hdets := waitingDets_detectAt (d := modPlane d p fun x => { x with refused := satAdd x.refused 1 })
      (x := hubEvent 0x121 p.val 0 (BitVec.ofNat 64 (frameSeq f).toNat)) (by simp [hubEvent]) (.inr he)
    exact hdets.trans (by simp [waitingDets, he, hubEvent])

/-- A routed frame that its link has taken and refuses: its entry is freed, and a message is recorded with the frame of its first unit. -/
theorem refuseRouted_link {d : Device} (he : d.err.events = []) (p : Fin 8) (f : FrameBits) :
    getPlane (refuseRouted d p f) p = { getPlane d p with
      freed := vmod (getPlane d p).freed (finMod 8 ((if frameKind f = 3 then 4 else 0) + frameDst f % 4)) (· + 1)
      refused := satAdd (getPlane d p).refused 1 } ∧
    waitingDets (refuseRouted d p f) = (if frameKind f = 1 ∧ frameField f 19 1 = 0 then [0x121, 0x122] else [0x121]) ∧
    (refuseRouted d p f).cores = d.cores := by
  obtain ⟨hx, -, hdets, hcores⟩ := refuseFrame_link (d := freeEntry d p (frameKind f = 3) (finMod 4 (frameDst f))) p f
  have hlink := hx.trans (by rw [freeEntry, getPlane_modPlane_same])
  simp only [decide_eq_true_eq] at hlink
  unfold refuseRouted
  by_cases h : frameKind f = 1 ∧ frameField f 19 1 = 0
  · have hrep := reported_detectAt (refuseFrame (freeEntry d p (frameKind f = 3) (finMod 4 (frameDst f))) p f)
      (hubEvent 0x122 (finMod 4 (frameDst f) : PartId).val 2 (put64 0 (frameSeq f).toNat))
    have hmore := waitingDets_detectAt (d := refuseFrame (freeEntry d p (frameKind f = 3) (finMod 4 (frameDst f))) p f)
      (x := hubEvent 0x122 (finMod 4 (frameDst f) : PartId).val 2 (put64 0 (frameSeq f).toNat)) (by simp [hubEvent]) (.inl (by simp [crossingOf, hubEvent]))
    simp only [h, decide_true, Bool.and_self, if_true, and_self] at hrep hmore hlink hdets hcores ⊢
    exact ⟨(getPlane_of_fab hrep.fab p).trans hlink, hmore.trans (by rw [hdets he]; rfl), hrep.cores.trans hcores⟩
  · have hgo : (decide (frameKind f = 1) && decide (frameField f 19 1 = 0)) = false := by simpa using h
    simp only [hgo, Bool.false_eq_true, if_false, if_neg h]
    exact ⟨hlink, hdets he, hcores⟩

end Sys2Proof.Machine
end

section
/-! O57: the commands of frames by what their link finds: a frame that fails, that is refused, or that is out of sequence. -/

open Sys2Proof.Claims

namespace Sys2Proof.Machine

/-! ### Link-local and idle frames at the link (R333–R335) -/

section Receiving

variable {d : Device} {p : Fin 8} {f : FrameBits} (hu : planeUp (getPlane d p).st = true)
include hu

theorem receiveLocal_fails (hf : frameOk f = false) (kind : Nat) : receiveLocal d p f kind = (false, failFrame d p 0 false (frameSeq f)) := by
  simp only [receiveLocal, hu, hf, Bool.not_true, Bool.not_false, Bool.false_eq_true, if_false, if_true]

theorem receiveLocal_foreign (hf : frameOk f = true) (hv : frameVersion f ≠ 1) (kind : Nat) :
    receiveLocal d p f kind = (false, refuseFrame (goodFrame d p f) p f) := by
  simp only [receiveLocal, hu, hf, bne_iff_ne.2 hv, Bool.not_true, Bool.true_or, Bool.false_eq_true, if_false, if_true]

theorem receiveLocal_used (hf : frameOk f = true) (hv : frameVersion f = 1) {kind : Nat} (hk : frameKind f = kind) (hd : definedKind kind = true) :
    receiveLocal d p f kind = (true, goodFrame d p f) := by
  simp only [receiveLocal, hu, hf, hv, hk, hd, bne_self_eq_false, Bool.not_true, Bool.or_self, Bool.false_eq_true, if_false, decide_true]

/-! ### Routed frames at the link (R333–R338) -/

theorem receiveRouted_fails (harm : isArmed d 0x120 (BitVec.ofNat 16 p.val) = false) (hf : frameOk f = false) (kind : Nat) :
    receiveRouted d p f kind = (none, failFrame d p 0 false (frameSeq f)) := by
  simp only [receiveRouted, hu, frameInjected, inject_unarmed harm, hf, Bool.not_true, Bool.not_false, Bool.or_true, Bool.false_eq_true, if_false, if_true]

/-- A good frame of the kind that its link does not accept goes no further. -/
theorem receiveRouted_unaccepted (harm : isArmed d 0x120 (BitVec.ofNat 16 p.val) = false) (hf : frameOk f = true) {kind : Nat} (hk : frameKind f = kind)
    (hd : definedKind kind = true) {e : Device} (ha : acceptSeq (goodFrame d p f) p f = (false, e)) : receiveRouted d p f kind = (none, e) := by
  simp only [receiveRouted, hu, frameInjected, inject_unarmed harm, hf, hk, hd, ha, bne_self_eq_false, Bool.not_true, Bool.not_false, Bool.or_self,
    Bool.false_eq_true, if_false, if_true]

/-- A frame that its link accepts is refused for its version, its address, or its plane's state. -/
theorem receiveRouted_refused (harm : isArmed d 0x120 (BitVec.ofNat 16 p.val) = false) (hf : frameOk f = true) {kind : Nat} (hk : frameKind f = kind)
    (hd : definedKind kind = true) {e : Device} (ha : acceptSeq (goodFrame d p f) p f = (true, e))
    (hr : frameVersion f ≠ 1 ∨ partOfAddr e (frameDst f) = none ∨ (getPlane e p).st ≠ .active) :
    receiveRouted d p f kind = (none, refuseRouted e p f) := by
  simp only [receiveRouted, hu, frameInjected, inject_unarmed harm, hf, hk, hd, ha, bne_self_eq_false, Bool.not_true, Bool.or_self, Bool.false_eq_true, if_false]
  cases hq : partOfAddr e (frameDst f) with
  | none => rfl
  | some q =>
    have hno : ¬ (frameVersion f = 1 ∧ (getPlane e p).st = .active) := fun ⟨hv, hst⟩ => by
      rcases hr with h | h | h
      · exact h hv
      · exact Option.some_ne_none q (hq.symm.trans h)
      · exact h hst
    simp only [Bool.and_eq_true, decide_eq_true_eq, if_neg hno]

end Receiving

/-- A frame that was received before changes nothing. -/
theorem acceptSeq_again {d : Device} {p : Fin 8} {f : FrameBits} (hne : frameSeq f ≠ (getPlane d p).expect)
    (h : ((getPlane d p).expect - 1 - frameSeq f).toNat < 2048) : acceptSeq d p f = (false, d) := by
  simp only [acceptSeq, if_neg hne, behindSeq, decide_eq_true h, if_true]

/-- A frame ahead of the one expected asks for a resend, once. -/
theorem acceptSeq_ahead {d : Device} {p : Fin 8} {f : FrameBits} (hne : frameSeq f ≠ (getPlane d p).expect)
    (h : 2048 ≤ ((getPlane d p).expect - 1 - frameSeq f).toNat) : ∃ e, acceptSeq d p f = (false, e) ∧ (getPlane e p).expect = (getPlane d p).expect ∧
      (getPlane e p).nakDue = ((getPlane d p).nakDue || !(getPlane d p).awaiting) ∧ (getPlane e p).awaiting = true ∧ e.parts = d.parts ∧ e.cores = d.cores := by
  simp only [acceptSeq, if_neg hne, behindSeq, decide_eq_false (not_lt.2 h), Bool.false_eq_true, if_false]
  cases ha : (getPlane d p).awaiting with
  | true => exact ⟨d, rfl, rfl, by simp, ha, rfl, rfl⟩
  | false => exact ⟨_, rfl, by rw [getPlane_modPlane_same], by rw [getPlane_modPlane_same]; simp, by rw [getPlane_modPlane_same], rfl, rfl⟩

/-! ### The commands of frames that are not used -/

theorem gives_unusedLocal {s : State} {p : Fin 8} {f : FrameBits} {cmd : Instr} (hc : cmd ∈ [Instr.assign p f, .kill p f, .beacon p f]) {e : Device}
    (h : ∀ kind, receiveLocal s.dev p f kind = (false, e)) : Gives cmd s e := by
  simp only [List.mem_cons, List.not_mem_nil, or_false] at hc
  rcases hc with rfl | rfl | rfl
  · exact gives_of_onDev (f := fun d => let r := receiveLocal d p f 0xB; if r.1 then assignIndex r.2 p f else r.2) rfl
      (by simp only [h, Bool.false_eq_true, if_false])
  · exact gives_of_onDev (f := fun d => let r := receiveLocal d p f 0xC; if r.1 then killFrame r.2 p f else r.2) rfl
      (by simp only [h, Bool.false_eq_true, if_false])
  · exact gives_of_onDev (f := fun d => let r := receiveLocal d p f 8; if r.1 then beacon r.2 p f else r.2) rfl
      (by simp only [h, Bool.false_eq_true, if_false])

/-- The commands of routed frames and the kinds that they take. -/
def routedCmds (p : Fin 8) (f : FrameBits) : List (Instr × Nat) := [(.channelMessageFrame p f, 1), (.channelCreditFrame p f, 2), (.collectiveFrame p f, 3)]

theorem definedKind_of_routed {p : Fin 8} {f : FrameBits} {cmd : Instr} {kind : Nat} (hc : (cmd, kind) ∈ routedCmds p f) : definedKind kind = true := by
  simp only [routedCmds, List.mem_cons, Prod.mk.injEq, List.not_mem_nil, or_false] at hc
  rcases hc with ⟨-, rfl⟩ | ⟨-, rfl⟩ | ⟨-, rfl⟩ <;> rfl

theorem gives_unusedRouted {s : State} {p : Fin 8} {f : FrameBits} {cmd : Instr} {kind : Nat} (hc : (cmd, kind) ∈ routedCmds p f) {e : Device}
    (h : receiveRouted s.dev p f kind = (none, e)) : Gives cmd s e := by
  simp only [routedCmds, List.mem_cons, Prod.mk.injEq, List.not_mem_nil, or_false] at hc
  rcases hc with ⟨rfl, rfl⟩ | ⟨rfl, rfl⟩ | ⟨rfl, rfl⟩
  · exact gives_of_onDev (f := fun d => channelMessageFrame d p f) rfl (by simp only [channelMessageFrame, h])
  · exact gives_of_onDev (f := fun d => channelCreditFrame d p f) rfl (by simp only [channelCreditFrame, h])
  · exact gives_of_onDev (f := fun d => collectiveFrame d p f) rfl (by simp only [collectiveFrame, h])

section Outcome

variable {s : State} {p : Fin 8} {f : FrameBits}

/-- What a failed frame leaves, of whatever command. -/
def FailedOn (s : State) (p : Fin 8) (e : Device) : Prop :=
  getPlane e p = failedLink (getPlane s.dev p) 0 ∧ Logged e 0x120 (BitVec.ofNat 16 p.val) 1 0

theorem answers_failed (hu : planeUp (getPlane s.dev p).st = true) (harm : isArmed s.dev 0x120 (BitVec.ofNat 16 p.val) = false) (he : s.dev.err.events = [])
    (hf : frameOk f = false) {cmd : Instr}
    (hc : cmd ∈ [Instr.assign p f, .kill p f, .beacon p f, .channelMessageFrame p f, .channelCreditFrame p f, .collectiveFrame p f]) :
    Answers cmd s (FailedOn s p) := by
  obtain ⟨hx, hlog, -⟩ := failFrame_link he p 0 false (frameSeq f)
  refine ⟨failFrame s.dev p 0 false (frameSeq f), ?_, hx, hlog⟩
  have hcases : cmd ∈ [Instr.assign p f, .kill p f, .beacon p f] ∨ ∃ kind, (cmd, kind) ∈ routedCmds p f := by
    simp only [List.mem_cons, List.not_mem_nil, or_false] at hc
    rcases hc with h | h | h | h | h | h <;> simp [h, routedCmds]
  rcases hcases with h | ⟨kind, h⟩
  · exact gives_unusedLocal h (receiveLocal_fails hu hf)
  · exact gives_unusedRouted h (receiveRouted_fails hu harm hf kind)

/-- What a frame of another version leaves, of whatever link-local command. -/
theorem refusedLocal_link {d : Device} (he : d.err.events = []) :
    (getPlane (refuseFrame (goodFrame d p f) p f) p).refused = satAdd (getPlane d p).refused 1 ∧
      (getPlane (refuseFrame (goodFrame d p f) p f) p).expect = (getPlane d p).expect ∧
      Logged (refuseFrame (goodFrame d p f) p f) 0x121 (BitVec.ofNat 16 p.val) 0 0 := by
  have hgood := heardOn_goodFrame d p f
  obtain ⟨hx, hlog, -⟩ := refuseFrame_link (d := goodFrame d p f) p f
  rw [hgood.err] at hlog
  refine ⟨?_, ?_, hlog he⟩
  · rw [hx, hgood.refused]
  · rw [hx, hgood.expect]

theorem planeUp_countCorrected {d : Device} (hu : planeUp (getPlane d p).st = true) (n : Nat) : planeUp (getPlane (countCorrected d p n) p).st = true := by
  rwa [countCorrected, getPlane_modPlane_same]

theorem idleFrame_unused {d e : Device} {n : Nat} (hu : planeUp (getPlane d p).st = true) (h : receiveLocal (countCorrected d p n) p f 0 = (false, e)) :
    idleFrame d p n f = e := by
  simp only [idleFrame, hu, if_true, h, Bool.false_and, Bool.false_eq_true, if_false]

theorem idleFrame_used {d e : Device} {n : Nat} (hu : planeUp (getPlane d p).st = true) (h : receiveLocal (countCorrected d p n) p f 0 = (true, e))
    (ha : isArmed e 0x121 (BitVec.ofNat 16 p.val) = false) : idleFrame d p n f = e := by
  simp only [idleFrame, hu, if_true, h, ha, Bool.and_false, Bool.false_eq_true, if_false]

/-- What an idle frame that is heard makes of its link: the codewords that it reports are counted (log entry 84). -/
theorem idleFrame_heard (n : BitVec 16) (h : Heard s p f 0) (ha : isArmed s.dev 0x121 (BitVec.ofNat 16 p.val) = false) :
    idleFrame s.dev p n.toNat f =
      modPlane s.dev p fun x => heardLink f (elapsedNs s.dev) { x with corrected := satAdd x.corrected n.toNat } := by
  obtain ⟨hu, hf, hv, hk⟩ := h
  have hrec := receiveLocal_used (planeUp_countCorrected hu n.toNat) hf hv hk rfl
  have hgood := goodFrame_heard (countCorrected s.dev p n.toNat) p f
  rw [idleFrame_used hu hrec (by rw [isArmed, (heardOn_goodFrame _ p f).err]; exact ha), hgood]
  exact modPlane_modPlane_same _ _ _ _

/-- A routed frame in sequence that is refused moves the sequence on, and its entry is freed. -/
theorem answers_refusedRouted (hu : planeUp (getPlane s.dev p).st = true) (harm : isArmed s.dev 0x120 (BitVec.ofNat 16 p.val) = false)
    (he : s.dev.err.events = []) {cmd : Instr} {kind : Nat} (hc : (cmd, kind) ∈ routedCmds p f) (hf : frameOk f = true) (hk : frameKind f = kind)
    (hs : frameSeq f = (getPlane s.dev p).expect)
    (hr : frameVersion f ≠ 1 ∨ partOfAddr s.dev (frameDst f) = none ∨ (getPlane s.dev p).st ≠ .active) : Answers cmd s fun e =>
      (getPlane e p).refused = satAdd (getPlane s.dev p).refused 1 ∧ (getPlane e p).expect = (getPlane s.dev p).expect + 1 ∧
      (getPlane e p).freed = vmod (getPlane s.dev p).freed (finMod 8 ((if kind = 3 then 4 else 0) + frameDst f % 4)) (· + 1) ∧
      waitingDets e = (if kind = 1 ∧ frameField f 19 1 = 0 then [0x121, 0x122] else [0x121]) ∧ e.cores = s.dev.cores := by
  have hgood := heardOn_goodFrame s.dev p f
  obtain ⟨y, hy⟩ := hgood.rest
  have haccept : acceptSeq (goodFrame s.dev p f) p f = (true, modPlane (goodFrame s.dev p f) p fun x =>
      { x with expect := x.expect + 1, awaiting := x.awaiting && !frameResent f }) := if_pos (hs.trans hgood.expect.symm)
  generalize hz : (modPlane (goodFrame s.dev p f) p fun x => { x with expect := x.expect + 1, awaiting := x.awaiting && !frameResent f }) = z at haccept
  have hlink : getPlane z p = { getPlane (goodFrame s.dev p f) p with
      expect := (getPlane (goodFrame s.dev p f) p).expect + 1
      awaiting := (getPlane (goodFrame s.dev p f) p).awaiting && !frameResent f } := by rw [← hz, getPlane_modPlane_same]
  have hpart : partOfAddr z (frameDst f) = partOfAddr s.dev (frameDst f) := by rw [← hz, hy]; rfl
  have hst : (getPlane z p).st = (getPlane s.dev p).st := by rw [hlink, ← hgood.st]
  have hev : z.err.events = [] := by rw [← hz, modPlane_err, hgood.err, he]
  have hcores : z.cores = s.dev.cores := by rw [← hz, modPlane_cores, hgood.cores]
  obtain ⟨hx, hdets, hkept⟩ := refuseRouted_link hev p f
  rw [hk] at hx hdets
  refine ⟨refuseRouted z p f, gives_unusedRouted hc (receiveRouted_refused hu harm hf hk (definedKind_of_routed hc) haccept ?_), ?_, ?_, ?_, hdets,
    hkept.trans hcores⟩
  · rwa [hpart, hst]
  · rw [hx, hlink, hgood.refused]
  · rw [hx, hlink, hgood.expect]
  · rw [hx, hlink, hgood.freed]

/-- A routed frame that was received before is ignored. -/
theorem answers_again {cmd : Instr} {kind : Nat} (hc : (cmd, kind) ∈ routedCmds p f) (h : Heard s p f kind)
    (harm : isArmed s.dev 0x120 (BitVec.ofNat 16 p.val) = false) (hne : frameSeq f ≠ (getPlane s.dev p).expect)
    (hold : ((getPlane s.dev p).expect - 1 - frameSeq f).toNat < 2048) : Answers cmd s fun e =>
      (getPlane e p).expect = (getPlane s.dev p).expect ∧ (getPlane e p).nakDue = (getPlane s.dev p).nakDue ∧ e.parts = s.dev.parts ∧
      e.cores = s.dev.cores := by
  obtain ⟨hu, hf, -, hk⟩ := h
  have hgood := heardOn_goodFrame s.dev p f
  refine ⟨goodFrame s.dev p f, gives_unusedRouted hc (receiveRouted_unaccepted hu harm hf hk (definedKind_of_routed hc) ?_), hgood.expect, hgood.nakDue,
    hgood.parts, hgood.cores⟩
  exact acceptSeq_again (by rwa [hgood.expect]) (by rwa [hgood.expect])

/-- A routed frame ahead of the one expected asks once for a resend. -/
theorem answers_ahead {cmd : Instr} {kind : Nat} (hc : (cmd, kind) ∈ routedCmds p f) (h : Heard s p f kind)
    (harm : isArmed s.dev 0x120 (BitVec.ofNat 16 p.val) = false) (hne : frameSeq f ≠ (getPlane s.dev p).expect)
    (hahead : 2048 ≤ ((getPlane s.dev p).expect - 1 - frameSeq f).toNat) : Answers cmd s fun e =>
      (getPlane e p).expect = (getPlane s.dev p).expect ∧ (getPlane e p).nakDue = ((getPlane s.dev p).nakDue || !(getPlane s.dev p).awaiting) ∧
      (getPlane e p).awaiting = true ∧ e.parts = s.dev.parts ∧ e.cores = s.dev.cores := by
  obtain ⟨hu, hf, -, hk⟩ := h
  have hgood := heardOn_goodFrame s.dev p f
  obtain ⟨e, haccept, hx, hn, ha, hparts, hcores⟩ := acceptSeq_ahead (d := goodFrame s.dev p f) (p := p) (f := f) (by rwa [hgood.expect]) (by rwa [hgood.expect])
  refine ⟨e, gives_unusedRouted hc (receiveRouted_unaccepted hu harm hf hk (definedKind_of_routed hc) haccept), hx.trans hgood.expect, ?_, ha,
    hparts.trans hgood.parts, hcores.trans hgood.cores⟩
  rw [hn, hgood.nakDue, hgood.awaiting]

end Outcome

end Sys2Proof.Machine

open Sys2Proof.Machine

/-- Settles O57: a good frame changes its link's credit, acknowledgement and times alone; a frame that fails, is refused or is out of
sequence leaves every command alike, before the command's own work. -/
theorem framesAreCheckedAndAcknowledged : Obligations.FramesAreCheckedAndAcknowledged := by
  unfold Obligations.FramesAreCheckedAndAcknowledged
  refine ⟨?_, ?_, ?_, ?_, ?_⟩
  · intro d p kind seq dst src first resent retried body hkind hseq hdst hsrc f
    exact ⟨frameOk_buildFrame _ _ _ _ _ _ _ _ _ _, frameVersion_buildFrame _ _ _ _ _ _ _ _ _ _ hkind, frameKind_buildFrame _ _ _ _ _ _ _ _ _ _ hkind,
      frameSeq_buildFrame _ _ _ _ _ _ _ _ _ _ hseq, frameDst_buildFrame _ _ _ _ _ _ _ _ _ _ hdst, frameSrc_buildFrame _ _ _ _ _ _ _ _ _ _ hsrc,
      frameBody_buildFrame _ _ _ _ _ _ _ _ _ _, frameResent_buildFrame _ _ _ _ _ _ _ _ _ _, frameRetried_buildFrame _ _ _ _ _ _ _ _ _ _⟩
  · intro s p f n h harm x w kept
    have hlink : getPlane (idleFrame s.dev p n.toNat f) p = heardLink f (elapsedNs s.dev) { x with corrected := satAdd x.corrected n.toNat } := by
      rw [idleFrame_heard n h harm, getPlane_modPlane_same]
    have heq := hlink.trans (heardLink_eq _ _ _)
    refine answers_of_onDev (f := fun d => idleFrame d p n.toNat f) rfl rfl ⟨?_, ?_, ?_, fun i => ?_, fun hv hn => ?_, ?_, ?_, fun q hq => ?_, ?_⟩
    · rw [heq]
    · rw [heq]; rfl
    · rw [heq]; rfl
    · rw [hlink, limit_heardLink]
    · rw [hlink, resendq_heardLink hv hn]; rfl
    · rw [heq]; rfl
    · rw [heq]; rfl
    · rw [idleFrame_heard n h harm, getPlane_modPlane_other _ _ _ _ (Ne.symm hq)]
    · rw [idleFrame_heard n h harm, modPlane_parts]
  · intro s p unc x hu he
    have hinj := reported_inject s.dev 0x120 (BitVec.ofNat 16 p.val)
    have hev := (events_inject s.dev 0x120 (BitVec.ofNat 16 p.val)).trans he
    obtain ⟨hx, hlog, hcores⟩ := failFrame_link hev p unc.toNat (frameInjected s.dev p).1 (getPlane (frameInjected s.dev p).2 p).expect
    refine answers_of_onDev (f := fun d => if planeUp (getPlane d p).st then failFrame (frameInjected d p).2 p unc.toNat (frameInjected d p).1
      (getPlane (frameInjected d p).2 p).expect else d) rfl (if_pos hu) ⟨hx.trans ?_, hlog, hcores.trans hinj.cores⟩
    rw [getPlane_of_fab hinj.fab]
    rfl
  · intro s p f n x hu harm he
    refine ⟨fun cmd hc hf => ?_, fun hf => ?_, fun cmd hc hf hv => ?_, fun cmd kind credit hc hf hk hs hr => ?_⟩
    · rw [← failedLink_zero]
      exact answers_failed hu harm he hf hc
    · obtain ⟨hx, hlog, -⟩ := failFrame_link (d := countCorrected s.dev p n.toNat) he p 0 false (frameSeq f)
      refine answers_of_onDev (f := fun d => idleFrame d p n.toNat f) rfl
        (idleFrame_unused hu (receiveLocal_fails (planeUp_countCorrected hu _) hf 0)) ⟨hx.trans ?_, hlog⟩
      rw [failedLink_zero, countCorrected, getPlane_modPlane_same]
    · rcases List.mem_cons.1 hc with rfl | hc
      · obtain ⟨hrefused, hexpect, hlog⟩ := refusedLocal_link (p := p) (f := f) (d := countCorrected s.dev p n.toNat) he
        refine answers_of_onDev (f := fun d => idleFrame d p n.toNat f) rfl
          (idleFrame_unused hu (receiveLocal_foreign (planeUp_countCorrected hu _) hf hv 0)) ⟨hrefused.trans ?_, hexpect.trans ?_, hlog⟩
        · rw [countCorrected, getPlane_modPlane_same]
        · rw [countCorrected, getPlane_modPlane_same]
      · exact ⟨_, gives_unusedLocal hc (receiveLocal_foreign hu hf hv), refusedLocal_link he⟩
    · have hcmd : (cmd, kind) ∈ routedCmds p f ∧ credit = if kind = 3 then 4 else 0 := by
        simp only [List.mem_cons, Prod.mk.injEq, List.not_mem_nil, or_false] at hc
        rcases hc with ⟨rfl, rfl, rfl⟩ | ⟨rfl, rfl, rfl⟩ | ⟨rfl, rfl, rfl⟩ <;> simp [routedCmds]
      obtain ⟨hrouted, hcredit⟩ := hcmd
      refine answers_mono (answers_refusedRouted hu harm he hrouted hf hk hs hr) fun e ⟨hrefused, hexpect, hfreed, hdets, hcores⟩ =>
        ⟨hrefused, hexpect, ?_, hdets, hcores⟩
      rw [hfreed, hcredit]
      exact vget_vmod_same _ _ _
  · intro s p f cmd kind hc h harm x
    exact ⟨answers_again hc h harm, answers_ahead hc h harm⟩
end

section
/-! Level 2 of a reset as a Kill raises it (R437–R442, R355): what it leaves of the sources, of the accepted Kills and of the resets of other
partitions. -/

open Sys2Proof.Claims

namespace Sys2Proof.Machine

/-! ### What the work of a reset leaves -/

/-- The sources and the accepted Kills stay, and so does each reset in progress. -/
structure L2Keeps (d e : Device) : Prop where
  source : e.rb.source = d.rb.source
  kid : e.fab.kid = d.fab.kid
  kills : e.fab.kills = d.fab.kills
  resetting : ∀ q, (getPart d q).resetting = true → (getPart e q).resetting = true

namespace L2Keeps

theorem of_eq {d e : Device} (hr : e.rb.source = d.rb.source) (hk : e.fab.kid = d.fab.kid) (hs : e.fab.kills = d.fab.kills) (hp : e.parts = d.parts) :
    L2Keeps d e := ⟨hr, hk, hs, fun q h => by rwa [getPart, hp]⟩

theorem refl (d : Device) : L2Keeps d d := of_eq rfl rfl rfl rfl

theorem trans {d x e : Device} (h : L2Keeps d x) (g : L2Keeps x e) : L2Keeps d e :=
  ⟨g.source.trans h.source, g.kid.trans h.kid, g.kills.trans h.kills, fun q hq => g.resetting q (h.resetting q hq)⟩

theorem all {α : Type} {f : Device → α → Device} (h : ∀ e x, L2Keeps e (f e x)) (l : List α) (d : Device) : L2Keeps d (forAll l d f) :=
  forAll_keeps (I := L2Keeps d) (fun e x he => he.trans (h e x)) l d (refl d)

theorem modPart (d : Device) (p : PartId) (f : Part → Part) (h : ∀ x, x.resetting = true → (f x).resetting = true := by exact fun _ h => h) :
    L2Keeps d (modPart d p f) := by
  refine ⟨rfl, rfl, rfl, fun q hq => ?_⟩
  by_cases hp : p = q
  · subst hp
    rw [getPart_modPart_same]
    exact h _ hq
  · rwa [getPart_modPart_other _ _ _ _ hp]

theorem modDom (d : Device) (i : DomId) (f : Domain → Domain) : L2Keeps d (modDom d i f) := modPart d _ _

theorem ofReported {d e : Device} (h : Reported d e) : L2Keeps d e := by
  refine ⟨?_, by rw [h.fab], by rw [h.fab], fun q hq => ?_⟩
  · rw [h.rest]
  · rw [h.part q]
    exact hq

end L2Keeps

/-! ### Completions and frames -/

theorem l2Keeps_raiseMsix (d : Device) (f : FnId) (v : Fin 64) : L2Keeps d (raiseMsix d f v) := by
  have hsend : L2Keeps d (sendMsix d f v) := by
    rw [sendMsix, writeBytes_host]
    exact .of_eq rfl rfl rfl rfl
  unfold raiseMsix
  simp only []
  split
  · exact .of_eq rfl rfl rfl rfl
  · exact hsend

theorem l2Keeps_ringMessage (d : Device) (i : Fin 64) : L2Keeps d (ringMessage d i) := by
  unfold ringMessage
  extract_lets r x
  split
  · have hx : L2Keeps d x := .of_eq rfl rfl rfl rfl
    exact hx.trans (l2Keeps_raiseMsix _ _ _)
  · exact .refl d

theorem l2Keeps_postEntry (d : Device) (i : Fin 64) (e : BitVec 256) : L2Keeps d (postEntry d i e) := by
  have hwrite : L2Keeps d (writeEntry d i e) := by
    rw [writeEntry_eq]
    exact .of_eq rfl rfl rfl rfl
  unfold postEntry
  simp only []
  split
  · exact .of_eq rfl rfl rfl rfl
  · exact hwrite.trans (l2Keeps_ringMessage _ _)

theorem l2Keeps_complete (d : Device) (handle : W32) (h : CmdHdr) (opcode : Byte) (st : Status) (halt : Byte) (res : List Byte) :
    L2Keeps d (complete d handle h opcode st halt res) := by
  unfold complete
  extract_lets x y
  have hx : L2Keeps d y := .of_eq rfl rfl rfl rfl
  exact hx.trans (l2Keeps_postEntry _ _ _)

theorem l2Keeps_abortCmds (d : Device) (p : PartId) : L2Keeps d (abortCmds d p) := by
  refine .all (fun e c => ?_) _ _
  unfold completeCmd
  split
  · exact .refl e
  · split
    · exact .of_eq rfl rfl rfl rfl
    · exact l2Keeps_complete _ _ _ _ _ _ _

theorem l2Keeps_dropHeld (d : Device) (p : PartId) (test : HeldFrame → Bool) : L2Keeps d (dropHeld d p test) := by
  unfold dropHeld
  refine L2Keeps.trans ?_ (.all (fun e h => ?_) _ _)
  · exact .modPart _ _ _
  · unfold freeHeld
    split
    · exact .of_eq rfl rfl rfl rfl
    · exact .refl e

theorem l2Keeps_enterBuffer (d : Device) (p : PartId) (h : HeldFrame) : L2Keeps d (enterBuffer d p h) := by
  unfold enterBuffer refill
  refine L2Keeps.trans ?_ (.all (fun e x => ?_) _ _)
  · exact .modPart _ _ _
  · split
    · exact .refl e
    · exact .modPart _ _ _

theorem l2Keeps_sendAbort (d : Device) (p : PartId) (x : CollDesc) (inst acause dst : Nat) : L2Keeps d (sendAbort d p x inst acause dst) := by
  unfold sendAbort sendColl
  split
  · exact l2Keeps_enterBuffer _ _ _
  · exact .modPart _ _ _

theorem l2Keeps_abortActive (d : Device) (i : DomId) (acause : Nat) : L2Keeps d (abortActive d i acause) := by
  unfold abortActive
  split
  · refine L2Keeps.trans (.all (fun e c => ?_) _ _) (.modDom _ _ _)
    split
    · extract_lets y
      refine L2Keeps.trans (x := y) (l2Keeps_dropHeld _ _ _) ?_
      split
      · exact l2Keeps_sendAbort _ _ _ _ _ _
      · exact .refl _
    · exact .refl e
  · exact .refl d

theorem l2Keeps_emptyDomain (d : Device) (i : DomId) : L2Keeps d (emptyDomain d i) := by
  unfold emptyDomain
  extract_lets x y
  have hx : L2Keeps d x := .of_eq rfl rfl rfl rfl
  have hy : L2Keeps x y := .modPart _ _ _
  exact (hx.trans hy).trans (.modDom _ _ _)

theorem l2Keeps_startWake (d : Device) (ks : List (Fin 32)) : L2Keeps d (startWake d ks) := by
  have hslots : ∀ (l : List (Fin 32)) (e : Device) (t : Nat), L2Keeps e (wakeSlots e t l) := by
    intro l
    induction l with
    | nil => exact fun e _ => .refl e
    | cons k l ih =>
      intro e t
      have hk : L2Keeps e (modPond e k fun x => { x with st := .waking, wakeAt := t + wakeSpacing e }) := .of_eq rfl rfl rfl rfl
      exact hk.trans (ih _ _)
  exact hslots _ _ _

/-! ### Level 2 (R435, R440, R442) -/

/-- A reset of a partition keeps the sources, the Kills and the resets in progress, and the partition is in reset. -/
theorem resetL2_resets (d : Device) (p : PartId) : L2Keeps d (resetL2 d p) ∧ (getPart (resetL2 d p) p).resetting = true := by
  unfold resetL2
  extract_lets absorbed rb x1 x2 x3 fab x4 x5 x6 x7 err x8 x9
  have h1 : L2Keeps d x1 := .of_eq rfl rfl rfl rfl
  have h2 : L2Keeps x1 x2 := (l2Keeps_abortCmds x1 p).trans (.all (fun _ _ => .ofReported (reported_detectAt _ _)) _ _)
  have h3 : L2Keeps x2 x3 := L2Keeps.trans (l2Keeps_dropHeld x2 p _) (.modPart _ _ _)
  clear_value x3
  have h4 : L2Keeps x3 x4 := ⟨rfl, rfl, rfl, fun q hq => by rwa [getPart, vget_map]⟩
  have h5 : L2Keeps x4 x5 := .all (fun _ _ => (l2Keeps_abortActive _ _ 3).trans (l2Keeps_emptyDomain _ _)) _ _
  clear_value x5
  have h6 : L2Keeps x5 x6 := by
    refine .all (fun e c => ?_) _ _
    exact .of_eq rfl rfl rfl rfl
  clear_value x6
  have h8 : L2Keeps x6 x8 := .of_eq rfl rfl rfl rfl
  have h9 : L2Keeps x8 x9 := .modPart _ _ _ fun _ _ => rfl
  clear_value x8
  have hwake := l2Keeps_startWake x9 (pondsOf x9 p)
  refine ⟨((((((((h1.trans h2).trans h3).trans h4).trans h5).trans h6).trans h8).trans h9)).trans hwake, hwake.resetting p ?_⟩
  exact congrArg Part.resetting (getPart_modPart_same x8 p _)

/-- A level 2 reset keeps the sources and the Kills, and its partitions are in reset, whether they were so before or not. -/
theorem beginL2_resets (d : Device) {ps : List PartId} (hs : List W32) {q : PartId} (hq : q ∈ ps) (hp : partPresent d q = true) :
    L2Keeps d (beginL2 d ps hs) ∧ (getPart (beginL2 d ps hs) q).resetting = true := by
  unfold beginL2
  have hin : q ∈ ps.filter (partPresent d) := List.mem_filter.2 ⟨hq, hp⟩
  generalize ps.filter (partPresent d) = l at hin
  have hcmds : L2Keeps d (forAll l d fun d p => modPart d p fun x => { x with resetCmds := x.resetCmds ++ hs }) :=
    .all (fun _ _ => .modPart _ _ _) l d
  by_cases hw : l.all (resettingParts d).contains = true
  · simp only [hw, if_true]
    refine ⟨hcmds, hcmds.resetting q ?_⟩
    have hr := List.all_eq_true.1 hw q hin
    simpa [resettingParts] using hr
  · simp only [if_neg hw]
    refine ⟨hcmds.trans (.all (fun e p => (resetL2_resets e p).1) _ _), ?_⟩
    refine forAll_reaches (I := fun _ => True) (Q := fun e => (getPart e q).resetting = true) (x := q) (fun _ _ _ => trivial)
      (fun e y _ h => (resetL2_resets e y).1.resetting q h) (fun e _ => (resetL2_resets e q).2) _ _ trivial (.inl ?_)
    simp [hin]

/-- A source that the fuse table maps to level 2, and meets no other on its tick, is recorded, and the reset of its partitions begins. -/
theorem raiseSource_l2 {d : Device} {n : Nat} (hl : levelOf d n = 2) (hs : 4 ≤ d.rb.step) (hn : NoneRaised d) (ps : List PartId) :
    ∃ e, raiseSource d n ps = beginL2 e ps [] ∧ e.rb.source = d.rb.source ||| (1 <<< n) ∧ e.fab = d.fab ∧ e.config = d.config := by
  have hlevel : levelOf (noteSource d n) n = 2 := hl
  have hjoin : ∃ e, joinRaised (noteSource d n) 2 ps = (2, ps, e) ∧ e.rb.step = d.rb.step ∧ e.rb.source = d.rb.source ||| (1 <<< n) ∧ e.fab = d.fab ∧
      e.config = d.config := by
    have hraised : (noteSource d n).rb.raised = d.rb.raised := rfl
    unfold joinRaised
    rw [hraised]
    cases hr : d.rb.raised with
    | none => exact ⟨_, rfl, rfl, rfl, rfl, rfl⟩
    | some x =>
      have hne : ¬ x.1 = (noteSource d n).clock.elapsed := hn x hr
      simp only [if_neg hne]
      exact ⟨_, rfl, rfl, rfl, rfl, rfl⟩
  obtain ⟨e, he, hstep, hsource, hfab, hconfig⟩ := hjoin
  refine ⟨e, ?_, hsource, hfab, hconfig⟩
  have hgo : packageResetting e = false := decide_eq_false (by omega)
  simp only [raiseSource, hlevel, raiseLevel, he, applyLevel, hgo, lt_irrefl, Bool.false_eq_true, if_false]

end Sys2Proof.Machine
end

section
/-! Assign, Hello and Kill frames (R341, R342, R355). -/

open Sys2Proof.Claims

namespace Sys2Proof.Machine

/-! ### A plane joins the fabric, or becomes ISOLATED (R340, R342) -/

theorem modPlane_self (d : Device) (p : Fin 8) : modPlane d p (fun _ => getPlane d p) = d := by
  have hsame : vmod d.fab.planes p (fun _ => getPlane d p) = d.fab.planes := by simp [vmod, vset, vget, getPlane]
  rw [modPlane, hsame]

/-- The plane becomes ACTIVE, if it is not so already. -/
def joinPlane (d : Device) (p : Fin 8) : Device :=
  if (getPlane d p).st = .active then d else modPlane d p fun x => { x with st := .active, beenActive := true }

theorem joinPlane_eq (d : Device) (p : Fin 8) : ∃ y, joinPlane d p = modPlane d p (fun _ => y) ∧ y.st = .active := by
  unfold joinPlane
  split
  · exact ⟨getPlane d p, (modPlane_self d p).symm, ‹_›⟩
  · exact ⟨_, modPlane_eq_const _ _ _, rfl⟩

theorem st_joinPlane (d : Device) (p : Fin 8) : (getPlane (joinPlane d p) p).st = .active := by
  obtain ⟨y, hy, hst⟩ := joinPlane_eq d p
  rw [hy, getPlane_modPlane_same, hst]

/-- The mismatch is noted, and the plane becomes ISOLATED. -/
def isolatePlane (d : Device) (p : Fin 8) : Device :=
  leavePlane (noteSet { d with fab := { d.fab with mismatch := true } } .mismatch) p .isolated

/-- A plane that becomes ISOLATED keeps its link (log entry 83); frames that it retained, and the time plane, may change. -/
theorem leavePlane_isolated (d : Device) (p : Fin 8) : ∃ m t, leavePlane d p .isolated = { d with fab := { d.fab with
    planes := vmod d.fab.planes p isolatedLink
    moved := m
    timePlane := t } } := by
  unfold leavePlane
  simp only [if_true]
  split
  · obtain ⟨t, ht⟩ := newTimePlane_eq (modPlane (failover d p) p isolatedLink)
    exact ⟨_, t, ht⟩
  · obtain ⟨t, ht⟩ := newTimePlane_eq (modPlane d p isolatedLink)
    exact ⟨d.fab.moved, t, ht⟩

theorem isolatePlane_isolates (d : Device) (p : Fin 8) :
    getPlane (isolatePlane d p) p = isolatedLink (getPlane d p) ∧ (isolatePlane d p).fab.mismatch = true ∧
      (isolatePlane d p).fab.index = d.fab.index ∧ ∀ q, q ≠ p → getPlane (isolatePlane d p) q = getPlane d q := by
  obtain ⟨m, t, hgo⟩ := leavePlane_isolated (noteSet { d with fab := { d.fab with mismatch := true } } .mismatch) p
  obtain ⟨hp, ho⟩ := getPlane_of_planes (d := d) (e := isolatePlane d p) (p := p) (f := isolatedLink) (by rw [isolatePlane, hgo]; rfl)
  refine ⟨hp, ?_, ?_, ho⟩ <;> rw [isolatePlane, hgo] <;> rfl

/-! ### What an Assign does (R342) -/

/-- The index and the fabric identifier that an Assign brings. -/
def assignedIndex (f : FrameBits) : BitVec 16 := BitVec.ofNat 16 (frameField f 16 2)
def assignedFabric (f : FrameBits) : W32 := BitVec.ofNat 32 (frameField f 20 4)

/-- The device with the address that an Assign brings. -/
def addressed (d : Device) (f : FrameBits) : Device :=
  { d with fab := { d.fab with valid := true, index := assignedIndex f, fabricId := assignedFabric f } }

theorem assignIndex_eq (d : Device) (p : Fin 8) (f : FrameBits) : assignIndex d p f =
    if frameField f 24 1 != p.val then isolatePlane d p
    else if d.fab.addrSrc then (if assignedIndex f = d.fab.index then joinPlane d p else isolatePlane d p)
    else if !d.fab.valid then joinPlane (addressed d f) p
    else if assignedIndex f = d.fab.index && assignedFabric f = d.fab.fabricId then joinPlane d p
    else isolatePlane d p := rfl

section Assign

variable {d : Device} {p : Fin 8} {f : FrameBits}

/-- The first Assign of a device whose address comes from the fabric gives it its address. -/
theorem assignIndex_first (hp : frameField f 24 1 = p.val) (hs : d.fab.addrSrc = false) (hv : d.fab.valid = false) : assignIndex d p f = joinPlane (addressed d f) p := by
  simp only [assignIndex_eq, hp, hs, hv, bne_self_eq_false, Bool.false_eq_true, if_false, Bool.not_false, if_true]

theorem assignIndex_agrees (hp : frameField f 24 1 = p.val)
    (h : if d.fab.addrSrc then assignedIndex f = d.fab.index else d.fab.valid = true ∧ assignedIndex f = d.fab.index ∧ assignedFabric f = d.fab.fabricId) :
    assignIndex d p f = joinPlane d p := by
  simp only [assignIndex_eq, hp, bne_self_eq_false, Bool.false_eq_true, if_false]
  by_cases hs : d.fab.addrSrc = true
  · rw [if_pos hs] at h ⊢
    exact if_pos h
  · rw [if_neg hs] at h ⊢
    obtain ⟨hv, hidx, hfid⟩ := h
    simp only [hv, hidx, hfid, Bool.not_true, Bool.false_eq_true, if_false, decide_true, Bool.and_self, if_true]

theorem assignIndex_disagrees (h : frameField f 24 1 ≠ p.val ∨ (if d.fab.addrSrc then assignedIndex f ≠ d.fab.index else
      d.fab.valid = true ∧ (assignedIndex f ≠ d.fab.index ∨ assignedFabric f ≠ d.fab.fabricId))) : assignIndex d p f = isolatePlane d p := by
  rw [assignIndex_eq]
  by_cases hp : frameField f 24 1 = p.val
  · have hdiffers := h.resolve_left (not_not_intro hp)
    simp only [hp, bne_self_eq_false, Bool.false_eq_true, if_false]
    by_cases hs : d.fab.addrSrc = true
    · rw [if_pos hs] at hdiffers ⊢
      exact if_neg hdiffers
    · rw [if_neg hs] at hdiffers ⊢
      obtain ⟨hv, hne⟩ := hdiffers
      have hboth : ¬ (decide (assignedIndex f = d.fab.index) && decide (assignedFabric f = d.fab.fabricId)) = true := by
        simpa [imp_iff_not_or] using hne
      simp only [hv, Bool.not_true, Bool.false_eq_true, if_false, if_neg hboth]
  · exact if_pos (bne_iff_ne.2 hp)

end Assign

/-- The command of a link-local frame that is heard acts on the device as its good frame left it. -/
theorem answers_heardLocal {s : State} {p : Fin 8} {f : FrameBits} {kind : Nat} {i : Instr} {g : Device → Device} {P : Device → Prop}
    (h : Heard s p f kind) (hd : definedKind kind = true)
    (hi : exec i s = onDev (fun d => let r := receiveLocal d p f kind; if r.1 then g r.2 else r.2) s) (hP : P (g (goodFrame s.dev p f))) : Answers i s P := by
  obtain ⟨hu, hf, hv, hk⟩ := h
  exact answers_of_onDev hi (by simp only [receiveLocal_used hu hf hv hk hd, if_true]) hP

theorem answers_assign {s : State} {p : Fin 8} {f : FrameBits} {P : Device → Prop} (h : Heard s p f 0xB) (hP : P (assignIndex (goodFrame s.dev p f) p f)) :
    Answers (.assign p f) s P := answers_heardLocal (g := (assignIndex · p f)) h rfl rfl hP

/-! ### Hello (R341) -/

/-- The control positions of slots 8 modulo 16 recur within 258. -/
theorem exists_controlAt (n : BitVec 24) : ∃ k < 258, controlAt (n + BitVec.ofNat 24 k) 8 = true := by
  have hpos : ∀ k, (n + BitVec.ofNat 24 k).toNat = (n.toNat + k) % 2 ^ 24 := fun k => by simp [BitVec.toNat_add]
  have hnext : ∃ k < 258, ∃ j < 8, (n.toNat + k) % 2048 = 129 + 258 * j := by
    by_cases hlast : n.toNat % 2048 < 1936
    · exact ⟨129 + 258 * ((n.toNat % 2048 + 128) / 258) - n.toNat % 2048, by omega, (n.toNat % 2048 + 128) / 258, by omega, by omega⟩
    · exact ⟨2177 - n.toNat % 2048, by omega, 0, by omega, by omega⟩
  obtain ⟨k, hk, j, hj, hmod⟩ := hnext
  have hwrap : (n.toNat + k) % 2 ^ 24 % 2048 = 129 + 258 * j := by omega
  refine ⟨k, hk, ?_⟩
  simp only [controlAt, slotOf, hpos, Bool.and_eq_true, decide_eq_true_eq]
  generalize (n.toNat + k) % 2 ^ 24 = x at hwrap
  have hlow : x % (16 * 16) = 129 + 2 * j := by omega
  have hslot : x / 16 % 16 = 8 := by
    rw [← Nat.mod_mul_right_div_self, hlow]
    omega
  have hcontrol : x / (16 * 8) % 16 = 1 + 2 * j := by
    rw [← Nat.mod_mul_right_div_self, show x % (16 * 8 * 16) = 129 + 258 * j from hwrap]
    omega
  rw [Nat.div_div_eq_div_mul, hcontrol]
  exact ⟨hslot, by omega⟩

/-- A plane that has come to a position: it carried idle frames until then. -/
theorem passTo_eq (d : Device) (p : Fin 8) (n : BitVec 24) : ∃ y, passTo d p n = modPlane d p (fun _ => y) ∧ y.posn = n ∧
    y.expect = (getPlane d p).expect ∧ y.freed = (getPlane d p).freed ∧ y.tvalid = (getPlane d p).tvalid ∧
    y.nakDue = (if (getPlane d p).posn = n then (getPlane d p).nakDue else false) := by
  unfold passTo
  by_cases h : (getPlane d p).posn = n
  · simp only [if_pos h]
    exact ⟨getPlane d p, (modPlane_self d p).symm, h, rfl, rfl, rfl, rfl⟩
  · simp only [if_neg h]
    exact ⟨_, (modPlane_modPlane_same _ _ _ _).trans (modPlane_eq_const _ _ _), rfl, rfl, rfl, rfl, rfl⟩

theorem positionDone_sendLocal (d : Device) (p : Fin 8) (kind : Nat) (body : BitVec 1792) :
    positionDone (sendLocal d p kind body) p = modPlane d p (carried · (buildFrame d p kind false false 0 0 0 p.val body)) :=
  modPlane_modPlane_same _ _ _ _

theorem helloBody_modPlane (d : Device) (p q : Fin 8) (g : PlaneLink → PlaneLink) : helloBody (modPlane d p g) q = helloBody d q := rfl

/-- A Hello in the position in hand. -/
theorem sendHello_here {d : Device} {p : Fin 8} (h : (getPlane d p).st = .linked ∨ ((getPlane d p).st = .active ∧ controlAt (getPlane d p).posn 8 = true)) :
    sendHello d p = modPlane d p (carried · (buildFrame d p 0xA false false 0 0 0 p.val (helloBody d p))) := by
  rw [← positionDone_sendLocal]
  rcases h with h | ⟨h, hc⟩
  · simp only [sendHello, h, reduceCtorEq, decide_true, decide_false, Bool.true_or, if_true, if_false]
  · simp only [sendHello, h, decide_true, Bool.or_true, if_true, passToNext_here (kind := (controlAt · 8)) hc]

/-- A Hello in a later control position: the idle frames before it have carried any NAK that was due. -/
theorem sendHello_later {d : Device} {p : Fin 8} (ha : (getPlane d p).st = .active) (hc : controlAt (getPlane d p).posn 8 = false) :
    controlAt ((getPlane (sendHello d p) p).posn - 1) 8 = true ∧
      (getPlane (sendHello d p) p).lastSent =
        buildFrame (modPlane d p fun x => { x with nakDue := false }) p 0xA false false 0 0 0 p.val (helloBody d p) ∧
      (getPlane (sendHello d p) p).nakDue = false := by
  obtain ⟨k, hk, hkind⟩ := exists_controlAt (getPlane d p).posn
  have hcontrol := posn_passToNext (kind := (controlAt · 8)) hk hkind
  have hgo : sendHello d p = positionDone (sendLocal (passToNext d p (controlAt · 8)) p 0xA (helloBody (passToNext d p (controlAt · 8)) p)) p := by
    simp only [sendHello, ha, decide_true, Bool.or_true, if_true]
  rw [positionDone_sendLocal] at hgo
  obtain ⟨n, hn⟩ : ∃ n, passToNext d p (controlAt · 8) = passTo d p n := ⟨_, rfl⟩
  obtain ⟨y, hy, hposn, hexpect, hfreed, -, hnak⟩ := passTo_eq d p n
  rw [hn, hy, getPlane_modPlane_same, hposn] at hcontrol
  have hmoved : (getPlane d p).posn ≠ n := fun h => by
    rw [h, hcontrol] at hc
    exact Bool.noConfusion hc
  rw [if_neg hmoved] at hnak
  have hframe := buildFrame_congr (d := modPlane d p fun x => { x with nakDue := false }) (e := modPlane d p fun _ => y) (p := p)
    (by simp [hexpect]) (by simp [hnak]) (by simp [hfreed]) rfl 0xA false false 0 0 0 p.val (helloBody d p)
  rw [hgo, hn, hy, getPlane_modPlane_same, getPlane_modPlane_same, helloBody_modPlane, hframe]
  refine ⟨?_, rfl, rfl⟩
  rw [← hcontrol]
  change controlAt (y.posn + 1 - 1) 8 = controlAt n 8
  rw [hposn, BitVec.add_sub_cancel]

/-! ### Kill (R355) -/

theorem answers_kill {s : State} {p : Fin 8} {f : FrameBits} {P : Device → Prop} (h : Heard s p f 0xC) (hP : P (killFrame (goodFrame s.dev p f) p f)) :
    Answers (.kill p f) s P := answers_heardLocal (g := (killFrame · p f)) h rfl rfl hP

/-- The identifier of a Kill, and the partitions present that it names. -/
def killId (f : FrameBits) : W64 := BitVec.ofNat 64 (frameField f 18 8)
def killNamed (d : Device) (f : FrameBits) : List PartId :=
  (List.finRange 4).filter fun q => partPresent d q && decide (frameField f 16 1 % 16 / 2 ^ q.val % 2 = 1)

/-- The device with a Kill accepted. -/
def killAccepted (d : Device) (f : FrameBits) : Device := { d with fab := { d.fab with
  kid := killId f
  kills := (d.fab.kills.filter fun k => decide (elapsedNs d ≤ k.2 + 100000)) ++ [(killId f, elapsedNs d)] } }

theorem killFrame_eq (d : Device) (p : Fin 8) (f : FrameBits) : killFrame d p f =
    if killKnown d (killId f) then d
    else if d.fab.killEn && decide ((getPlane d p).st = .active) && !(killNamed d f).isEmpty then raiseSource (killAccepted d f) 7 (killNamed d f)
    else refuseFrame d p f := rfl

theorem killFrame_known {d : Device} {p : Fin 8} {f : FrameBits} (h : killKnown d (killId f) = true) : killFrame d p f = d := by
  rw [killFrame_eq, if_pos h]

theorem killKnown_of_mem {d : Device} {id : W64} {t : Nat} (hm : (id, t) ∈ d.fab.kills) (ht : elapsedNs d ≤ t + 100000) : killKnown d id = true :=
  List.any_eq_true.2 ⟨(id, t), hm, by simp [ht]⟩

theorem mem_killNamed {d : Device} {f : FrameBits} {q : PartId} (hp : q.val < d.config) (hq : frameField f 16 1 / 2 ^ q.val % 2 = 1) : q ∈ killNamed d f := by
  have hlow : ∀ (x : Nat) (i : Fin 4), x % 16 / 2 ^ i.val % 2 = x / 2 ^ i.val % 2 := by
    intro x i
    fin_cases i <;> simp <;> omega
  simp [killNamed, partPresent, hp, hlow, hq]

/-- A Kill of a new identifier is recorded, and resets the partitions that it names. -/
theorem killFrame_new {d : Device} {p : Fin 8} {f : FrameBits} {q : PartId} (hk : killKnown d (killId f) = false) (he : d.fab.killEn = true)
    (ha : (getPlane d p).st = .active) (hq : q ∈ killNamed d f) : killFrame d p f = raiseSource (killAccepted d f) 7 (killNamed d f) := by
  have hsome := List.isEmpty_eq_false_iff.2 (List.ne_nil_of_mem hq)
  simp only [killFrame_eq, hk, he, ha, hsome, Bool.false_eq_true, if_false, decide_true, Bool.not_false, Bool.and_self, if_true]

/-- A reset that the source of the Kills raises at level 2 leaves the Kill recorded, and a partition that it names in reset. -/
theorem killFrame_resets {d : Device} {p : Fin 8} {f : FrameBits} {q : PartId} (hk : killKnown d (killId f) = false) (he : d.fab.killEn = true)
    (ha : (getPlane d p).st = .active) (hp : q.val < d.config) (hq : frameField f 16 1 / 2 ^ q.val % 2 = 1) (hl : levelOf d 7 = 2) (hs : 4 ≤ d.rb.step)
    (hn : NoneRaised d) : (getPart (killFrame d p f) q).resetting = true ∧ (killFrame d p f).rb.source = d.rb.source ||| 0x080 ∧
      (killFrame d p f).fab.kid = killId f ∧ (killId f, elapsedNs d) ∈ (killFrame d p f).fab.kills := by
  have hnamed := mem_killNamed hp hq
  obtain ⟨e, hgo, hsource, hfab, hconfig⟩ := raiseSource_l2 (d := killAccepted d f) (n := 7) hl hs hn (killNamed d f)
  have hpresent : partPresent e q = true := decide_eq_true (by rw [hconfig]; exact hp)
  obtain ⟨hkeeps, hreset⟩ := beginL2_resets e [] hnamed hpresent
  rw [killFrame_new hk he ha hnamed, hgo]
  refine ⟨hreset, hkeeps.source.trans hsource, ?_, ?_⟩
  · rw [hkeeps.kid, hfab]
    rfl
  · rw [hkeeps.kills, hfab]
    exact List.mem_append_right _ (List.mem_singleton.2 rfl)

theorem levelOf_of_mapped {d : Device} (h : mapped d 7 2) : levelOf d 7 = 2 := by
  have hv := congrArg BitVec.toNat h
  rw [BitVec.toNat_and, BitVec.toNat_ushiftRight, Nat.shiftRight_eq_div_pow] at hv
  rw [levelOf, ← Nat.and_two_pow_sub_one_eq_mod _ 4]
  exact hv

end Sys2Proof.Machine
end

section
/-! O59: beacons, their answers and corrections of the time counter (R349–R353), and the statement on link-local frames. -/

open Sys2Proof.Claims

namespace Sys2Proof.Machine

/-! ### The answer (R331, R350, R351) -/

/-- The device with a beacon answered in the answer's position. -/
def answered (d : Device) (p : Fin 8) (n : BitVec 24) (body : BitVec 1792) : Device := positionDone (sendLocal (passTo d p n) p 9 body) p

theorem getPlane_cameTo (d : Device) (p : Fin 8) (n : BitVec 24) : getPlane (CameTo d p n) p =
    { getPlane d p with nakDue := if (getPlane d p).posn = n then (getPlane d p).nakDue else false } := by
  unfold CameTo
  split
  · rfl
  · rw [getPlane_modPlane_same]

theorem config_cameTo (d : Device) (p : Fin 8) (n : BitVec 24) : (CameTo d p n).config = d.config := by
  unfold CameTo
  split <;> rfl

/-- The answer changes its plane alone; its frame is as the plane's link was when the beacon came, but for what has been heard since. -/
theorem answered_eq {d₀ d : Device} {p : Fin 8} (hposn : (getPlane d p).posn = (getPlane d₀ p).posn) (hx : (getPlane d p).expect = (getPlane d₀ p).expect)
    (hn : (getPlane d p).nakDue = (getPlane d₀ p).nakDue) (hf : (getPlane d p).freed = (getPlane d₀ p).freed) (hc : d.config = d₀.config)
    (n : BitVec 24) (body : BitVec 1792) : ∃ y, answered d p n body = modPlane d p (fun _ => y) ∧ y.posn = n + 1 ∧ y.tvalid = (getPlane d p).tvalid ∧
      y.lastSent = buildFrame (CameTo d₀ p n) p 9 false false 0 0 0 p.val body := by
  obtain ⟨y, hy, hposn', hexpect, hfreed, htvalid, hnak⟩ := passTo_eq d p n
  have hframe := buildFrame_congr (d := CameTo d₀ p n) (e := modPlane d p fun _ => y) (p := p) (by simp [getPlane_cameTo, hexpect, hx])
    (by simp [getPlane_cameTo, hnak, hposn, hn]) (by simp [getPlane_cameTo, hfreed, hf]) (by rw [modPlane_config, config_cameTo, hc])
    9 false false 0 0 0 p.val body
  refine ⟨carried y (buildFrame (modPlane d p fun _ => y) p 9 false false 0 0 0 p.val body), ?_, ?_, htvalid, hframe⟩
  · rw [answered, positionDone_sendLocal, hy, modPlane_modPlane_same]
  · exact congrArg (· + 1) hposn'

/-! ### Corrections (R352, R353) -/

/-- What a correction, or a beacon without one, leaves: the planes, and all that an answer goes by. -/
structure TimeOnly (d e : Device) : Prop where
  planes : e.fab.planes = d.fab.planes
  config : e.config = d.config
  barriers : e.barriers = d.barriers
  timePlane : e.fab.timePlane = d.fab.timePlane
  beacons : e.fab.beacons = d.fab.beacons

theorem timeOnly_missCorr (d : Device) : TimeOnly d (missCorr d) := ⟨rfl, rfl, rfl, rfl, rfl⟩

theorem clock_missCorr (d : Device) : (missCorr d).clock = d.clock := rfl

theorem timeOnly_takeCorr (d : Device) (corr : Int) : TimeOnly d (takeCorr d corr) := by
  unfold takeCorr
  split
  · exact ⟨rfl, rfl, rfl, rfl, rfl⟩
  · by_cases h : 1024 < corr
    · simp only [if_pos h]
      exact ⟨rfl, rfl, rfl, rfl, rfl⟩
    · simp only [if_neg h]
      exact ⟨rfl, rfl, rfl, rfl, rfl⟩

/-- While a correction is in progress another changes nothing of the clock. -/
theorem clock_takeCorr_busy {d : Device} (h : d.clock.corr ≠ 0) (corr : Int) : (takeCorr d corr).clock = d.clock := by
  rw [takeCorr, if_pos (bne_iff_ne.2 h)]

/-- Successive accepted corrections near zero, with one more. -/
def nearCount (d : Device) (corr : Int) : Nat := if -64 ≤ corr ∧ corr ≤ 64 then d.fab.inRange + 1 else 0

/-- What an accepted correction makes of d: it steps, halves or slews the counter, and updates the alignment (the counter stops at its
largest value, log entry 97). -/
structure Corrected (d e : Device) (corr : Int) : Prop where
  clock : e.clock = applyCorr d.clock corr
  sinceCorr : e.fab.sinceCorr = 0
  inRange : e.fab.inRange = nearCount d corr
  stepped : 1024 < corr → e.fab.stepped = true
  corrLast : e.fab.corrLast = BitVec.ofInt 32 corr
  aligned : e.fab.aligned = if corr < -1024 ∨ 1024 < corr then false else d.fab.aligned || decide (16 ≤ nearCount d corr)

theorem corrected_takeCorr {d : Device} (h : d.clock.corr = 0) (corr : Int) : Corrected d (takeCorr d corr) corr := by
  have hfree : ¬ (d.clock.corr != 0) = true := by simp [h]
  have hnear : (if (decide (-64 ≤ corr) && decide (corr ≤ 64)) = true then d.fab.inRange + 1 else 0) = nearCount d corr := by
    simp only [nearCount, Bool.and_eq_true, decide_eq_true_eq]
  rw [takeCorr, if_neg hfree]
  simp only [hnear]
  by_cases hstep : 1024 < corr
  · constructor <;> simp [hstep]
  · constructor <;> simp [hstep]

/-- The device with a beacon counted. -/
def counted (d : Device) : Device := { d with fab := { d.fab with beacons := d.fab.beacons + 1 } }

theorem beaconTime_eq (d : Device) (cvalid : Bool) (corr : Int) :
    beaconTime d cvalid corr = if cvalid then takeCorr (counted d) corr else missCorr (counted d) := rfl

theorem timeOnly_beaconTime (d : Device) (cvalid : Bool) (corr : Int) : TimeOnly (counted d) (beaconTime d cvalid corr) := by
  rw [beaconTime_eq]
  split
  · exact timeOnly_takeCorr _ corr
  · exact timeOnly_missCorr _

theorem clock_beaconTime_busy {d : Device} (h : d.clock.corr ≠ 0) (cvalid : Bool) (corr : Int) : (beaconTime d cvalid corr).clock = d.clock := by
  rw [beaconTime_eq]
  split
  · exact clock_takeCorr_busy (d := counted d) h corr
  · rfl

/-! ### A beacon (R349–R353) -/

theorem answers_beacon {s : State} {p : Fin 8} {f : FrameBits} {P : Device → Prop} (h : Heard s p f 8) (hP : P (beacon (goodFrame s.dev p f) p f)) :
    Answers (.beacon p f) s P := answers_heardLocal (g := (beacon · p f)) h rfl rfl hP

/-- A link with a beacon's TVALID noted. -/
def timedLink (f : FrameBits) (x : PlaneLink) : PlaneLink := { x with tvalid := decide (x.st = .active) && decide (frameField f 30 1 % 2 = 1) }

/-- The device with a beacon's TVALID noted and the time plane chosen anew. -/
def timed (d : Device) (p : Fin 8) (f : FrameBits) : Device :=
  newTimePlane (modPlane d p (timedLink f))

/-- The correction of a beacon. -/
def beaconCorr (f : FrameBits) : Int := (BitVec.ofNat 32 (frameField f 24 4)).toInt

/-- What a beacon does to a device whose time plane is chosen: a correction and barrier releases on that plane, a miss counted on another. -/
def beaconed (d : Device) (p : Fin 8) (f : FrameBits) : Device :=
  if isTimePlane d p then
    forAll (List.range (min 104 (frameField f 31 1))) (beaconTime d (frameField f 30 1 / 2 % 2 = 1) (beaconCorr f)) fun d k =>
      fabricRelease d (frameField f (32 + 2 * k) 2 % 4096) (frameField f (32 + 2 * k) 2 / 4096 % 2 = 1) (frameRetried f)
  else if countsMisses d p then missCorr d
  else d

theorem beacon_eq (d : Device) (p : Fin 8) (f : FrameBits) : beacon d p f =
    answered (beaconed (timed d p f) p f) p (answerPosition (frameField f 28 2)) (answerBody (engineTime d p) (frameField f 28 2) d.fab.aligned
      (d.clock.corr = 0) (if isTimePlane (timed d p f) p then
        arrivalEntries (passTo (beaconed (timed d p f) p f) p (answerPosition (frameField f 28 2))) else [])) := rfl

/-- A plane that does not carry time at most counts a miss. -/
theorem beaconed_untimed {d : Device} {p : Fin 8} {f : FrameBits} (h : isTimePlane d p = false) : beaconed d p f = d ∨ beaconed d p f = missCorr d := by
  unfold beaconed
  rw [if_neg (by simp [h])]
  split
  · exact .inr rfl
  · exact .inl rfl

/-- A beacon of the time plane that brings no barrier releases. -/
theorem beaconed_timed {d : Device} {p : Fin 8} {f : FrameBits} (h : isTimePlane d p = true) (hn : frameField f 31 1 = 0) :
    beaconed d p f = beaconTime d (frameField f 30 1 / 2 % 2 = 1) (beaconCorr f) := by
  rw [beaconed, if_pos h, hn, Nat.min_zero, List.range_zero]
  rfl

theorem timed_eq (d : Device) (p : Fin 8) (f : FrameBits) : ∃ t, timed d p f =
    { modPlane d p (timedLink f) with fab := { (modPlane d p (timedLink f)).fab with timePlane := t } } := newTimePlane_eq _

theorem getPlane_timed (d : Device) (p : Fin 8) (f : FrameBits) : getPlane (timed d p f) p = timedLink f (getPlane d p) := by
  obtain ⟨t, ht⟩ := timed_eq d p f
  rw [ht]
  exact getPlane_modPlane_same d p _

/-- Of the planes that carry time the lowest is the time plane. -/
theorem timePlane_timed {d : Device} {p : Fin 8} {f : FrameBits} (ha : (getPlane d p).st = .active) (hv : frameField f 30 1 % 2 = 1)
    (hlow : ∀ q : Fin 8, q.val < p.val → planeActive d q = false ∨ (getPlane d q).tvalid = false) : (timed d p f).fab.timePlane = p := by
  have hlower : ∀ q : Fin 8, q.val < p.val →
      (planeActive (modPlane d p (timedLink f)) q && (getPlane (modPlane d p (timedLink f)) q).tvalid) = false := fun q hq => by
    have hcase := hlow q hq
    have hother : p ≠ q := fun h => absurd (congrArg Fin.val h) (by omega)
    simp only [planeActive, getPlane_modPlane_other _ _ _ _ hother] at hcase ⊢
    rcases hcase with h | h <;> simp [h]
  have hfind : ((List.finRange 8).find? fun q =>
      planeActive (modPlane d p (timedLink f)) q && (getPlane (modPlane d p (timedLink f)) q).tvalid) = some p := by
    refine List.find?_eq_some_iff_getElem.2 ⟨by simp [planeActive, timedLink, ha, hv], p.val, by simp, by simp, fun j hj => ?_⟩
    rw [hlower _ (by simpa using hj)]
    rfl
  rw [timed, newTimePlane, hfind]

/-- What hearing a beacon and noting its TVALID leave. -/
theorem timed_keeps {d₀ d : Device} {p : Fin 8} (h : HeardOn d₀ d p) (f : FrameBits) :
    (getPlane (timed d p f) p).posn = (getPlane d₀ p).posn ∧ (getPlane (timed d p f) p).expect = (getPlane d₀ p).expect ∧
      (getPlane (timed d p f) p).nakDue = (getPlane d₀ p).nakDue ∧ (getPlane (timed d p f) p).freed = (getPlane d₀ p).freed := by
  rw [getPlane_timed]
  exact ⟨h.posn, h.expect, h.nakDue, h.freed⟩

/-- The clock, and all of the fabric but its planes and its time plane, stay as they were when the beacon came. -/
theorem timed_rest {d₀ d : Device} {p : Fin 8} (h : HeardOn d₀ d p) (f : FrameBits) : (timed d p f).clock = d₀.clock ∧ (timed d p f).config = d₀.config ∧
    (timed d p f).barriers = d₀.barriers ∧ ∃ v t, (timed d p f).fab = { d₀.fab with planes := v, timePlane := t } := by
  obtain ⟨y, hy⟩ := h.rest
  obtain ⟨t, ht⟩ := timed_eq d p f
  rw [ht, hy]
  exact ⟨rfl, rfl, rfl, _, t, rfl⟩

/-- What an answer tells of the device is as when the beacon came. -/
theorem answer_of_heard {d₀ d : Device} {p : Fin 8} (h : HeardOn d₀ d p) :
    engineTime d p = engineTime d₀ p ∧ d.fab.aligned = d₀.fab.aligned ∧ d.clock = d₀.clock := by
  obtain ⟨y, hy⟩ := h.rest
  rw [hy]
  exact ⟨rfl, rfl, rfl⟩

/-- A beacon on a plane that is not ACTIVE is answered, and changes nothing of the time. -/
theorem beacon_inactive {d₀ d : Device} {p : Fin 8} {f : FrameBits} (h : HeardOn d₀ d p) (hst : (getPlane d₀ p).st ≠ .active) :
    (getPlane (beacon d p f) p).posn = answerPosition (frameField f 28 2) + 1 ∧
    (getPlane (beacon d p f) p).lastSent = buildFrame (CameTo d₀ p (answerPosition (frameField f 28 2))) p 9 false false 0 0 0 p.val
      (answerBody (engineTime d₀ p) (frameField f 28 2) d₀.fab.aligned (d₀.clock.corr = 0) []) ∧
    (beacon d p f).clock = d₀.clock ∧ (beacon d p f).fab.beacons = d₀.fab.beacons := by
  obtain ⟨hposn, hexpect, hnak, hfreed⟩ := timed_keeps h f
  obtain ⟨hclock, hconfig, -, v, t, hfab⟩ := timed_rest h f
  obtain ⟨htime, haligned, hc⟩ := answer_of_heard h
  have hoff : isTimePlane (timed d p f) p = false := by simp [isTimePlane, planeActive, getPlane_timed, timedLink, h.st, hst]
  have hrest : TimeOnly (timed d p f) (beaconed (timed d p f) p f) ∧ (beaconed (timed d p f) p f).clock = (timed d p f).clock := by
    rcases beaconed_untimed (f := f) hoff with hx | hx <;> rw [hx]
    · exact ⟨⟨rfl, rfl, rfl, rfl, rfl⟩, rfl⟩
    · exact ⟨timeOnly_missCorr _, clock_missCorr _⟩
  obtain ⟨hkeeps, hclock'⟩ := hrest
  have hplane : getPlane (beaconed (timed d p f) p f) p = getPlane (timed d p f) p := by rw [getPlane, hkeeps.planes, getPlane]
  rw [beacon_eq, hoff, if_neg Bool.false_ne_true, htime, haligned, hc]
  generalize beaconed (timed d p f) p f = z at hkeeps hclock' hplane
  obtain ⟨y, hy, hyposn, -, hsent⟩ := answered_eq (d₀ := d₀) (by rw [hplane, hposn]) (by rw [hplane, hexpect]) (by rw [hplane, hnak]) (by rw [hplane, hfreed])
    (hkeeps.config.trans hconfig) (answerPosition (frameField f 28 2)) (answerBody (engineTime d₀ p) (frameField f 28 2) d₀.fab.aligned (d₀.clock.corr = 0) [])
  rw [hy, getPlane_modPlane_same]
  refine ⟨hyposn, hsent, hclock'.trans hclock, hkeeps.beacons.trans ?_⟩
  rw [hfab]

/-- A beacon that carries time is answered on the time plane with the arrivals, and takes its correction. -/
theorem beacon_active {d₀ d : Device} {p : Fin 8} {f : FrameBits} (h : HeardOn d₀ d p) (ha : (getPlane d₀ p).st = .active)
    (hv : frameField f 30 1 % 2 = 1) (hn : frameField f 31 1 = 0)
    (hlow : ∀ q : Fin 8, q.val < p.val → planeActive d₀ q = false ∨ (getPlane d₀ q).tvalid = false) :
    ∃ y, beacon d p f = modPlane (beaconTime (timed d p f) (frameField f 30 1 / 2 % 2 = 1) (beaconCorr f)) p (fun _ => y) ∧
      (timed d p f).fab.timePlane = p ∧ y.posn = answerPosition (frameField f 28 2) + 1 ∧ y.tvalid = true ∧
      y.lastSent = buildFrame (CameTo d₀ p (answerPosition (frameField f 28 2))) p 9 false false 0 0 0 p.val
        (answerBody (engineTime d₀ p) (frameField f 28 2) d₀.fab.aligned (d₀.clock.corr = 0) (arrivalEntries d₀)) := by
  obtain ⟨hposn, hexpect, hnak, hfreed⟩ := timed_keeps h f
  obtain ⟨-, hconfig, hbarriers, -⟩ := timed_rest h f
  obtain ⟨htime, haligned, hc⟩ := answer_of_heard h
  have hlow' : ∀ q : Fin 8, q.val < p.val → planeActive d q = false ∨ (getPlane d q).tvalid = false := fun q hq => by
    rw [planeActive, h.others q (fun hqp => absurd (congrArg Fin.val hqp) (by omega))]
    exact hlow q hq
  have hst : (getPlane d p).st = .active := h.st.trans ha
  have hplane₀ := timePlane_timed hst hv hlow'
  have hon : isTimePlane (timed d p f) p = true := by simp [isTimePlane, planeActive, hplane₀, getPlane_timed, timedLink, hst, hv]
  have hkeeps := timeOnly_beaconTime (timed d p f) (frameField f 30 1 / 2 % 2 = 1) (beaconCorr f)
  rw [beacon_eq, hon, if_pos rfl, htime, haligned, hc, beaconed_timed hon hn]
  generalize beaconTime (timed d p f) (frameField f 30 1 / 2 % 2 = 1) (beaconCorr f) = z at hkeeps
  have hplane : getPlane z p = getPlane (timed d p f) p := by rw [getPlane, hkeeps.planes]; rfl
  have harrivals : arrivalEntries (passTo z p (answerPosition (frameField f 28 2))) = arrivalEntries d₀ := by
    obtain ⟨y, hy, -⟩ := passTo_eq z p (answerPosition (frameField f 28 2))
    have hbars : ∀ k, getBar (passTo z p (answerPosition (frameField f 28 2))) k = getBar d₀ k := fun k => by
      rw [getBar, hy, modPlane_barriers, hkeeps.barriers, getBar, ← hbarriers]
      rfl
    simp only [arrivalEntries, hbars]
  obtain ⟨y, hy, hyposn, hytvalid, hsent⟩ := answered_eq (d₀ := d₀) (by rw [hplane, hposn]) (by rw [hplane, hexpect]) (by rw [hplane, hnak])
    (by rw [hplane, hfreed]) (hkeeps.config.trans hconfig) (answerPosition (frameField f 28 2))
    (answerBody (engineTime d₀ p) (frameField f 28 2) d₀.fab.aligned (d₀.clock.corr = 0) (arrivalEntries d₀))
  refine ⟨y, by rw [harrivals, hy], hplane₀, hyposn, ?_, hsent⟩
  rw [hytvalid, hplane, getPlane_timed]
  simp [timedLink, hst, hv]

end Sys2Proof.Machine

open Sys2Proof.Machine

/-- Settles O59: a link-local frame that is heard acts on the device as its good frame left it. A plane that it isolates keeps its numbering (log
entry 83), a Hello takes the next control position (log entry 87), the engine's time is its replica (log entry 77), and a counter that is
stepped stops at its largest value (log entry 97). -/
theorem linkLocalFramesAct : Obligations.LinkLocalFramesAct := by
  unfold Obligations.LinkLocalFramesAct
  refine ⟨?_, ?_, ?_, ?_, ?_, ?_⟩
  · intro s p f h fab idx fid
    have hgood := heardOn_goodFrame s.dev p f
    obtain ⟨v, hfab⟩ := hgood.fab
    have hindex : (goodFrame s.dev p f).fab.index = s.dev.fab.index := by rw [hfab]
    have hmismatch : (goodFrame s.dev p f).fab.mismatch = s.dev.fab.mismatch := by rw [hfab]
    refine ⟨fun hp hsrc hvalid => answers_assign h ?_, fun hp hagree => answers_assign h ?_, fun hne => answers_assign h ?_⟩
    · rw [assignIndex_first hp (by rw [hfab]; exact hsrc) (by rw [hfab]; exact hvalid)]
      have hst := st_joinPlane (addressed (goodFrame s.dev p f) f) p
      obtain ⟨y, hy, -⟩ := joinPlane_eq (addressed (goodFrame s.dev p f) f) p
      refine ⟨?_, ?_, ?_, hst, ?_⟩ <;> rw [hy]
      · rfl
      · rfl
      · rfl
      · exact hmismatch
    · rw [assignIndex_agrees hp (by rw [hfab]; exact hagree)]
      obtain ⟨y, hy, -⟩ := joinPlane_eq (goodFrame s.dev p f) p
      refine ⟨st_joinPlane _ _, ?_, ?_⟩ <;> rw [hy]
      · exact hindex
      · exact hmismatch
    · rw [assignIndex_disagrees (by rw [hfab]; exact hne)]
      obtain ⟨hx, hmis, hidx, hothers⟩ := isolatePlane_isolates (goodFrame s.dev p f) p
      refine ⟨by rw [hx]; rfl, ?_, ?_, hmis, ?_, fun q hq => (hothers q hq).trans (hgood.others q hq)⟩
      · rw [hx]
        exact hgood.expect
      · rw [hx]
        exact hgood.nextSeq
      · rw [hidx, hindex]
  · intro s p x
    refine ⟨fun h => gives_of_onDev (f := fun d => sendHello d p) rfl (sendHello_here h), fun ha hc => ?_⟩
    exact answers_of_onDev (f := fun d => sendHello d p) rfl rfl (sendHello_later ha hc)
  · intro s p f q h ha hkill hq hnamed hnew hstep hmap hnone
    have hgood := heardOn_goodFrame s.dev p f
    obtain ⟨y, hy⟩ := hgood.rest
    refine answers_kill h ?_
    have hst := hgood.st.trans ha
    rw [hy] at hst ⊢
    exact killFrame_resets hnew hkill hst hq hnamed (levelOf_of_mapped hmap) hstep hnone
  · intro s p f h ⟨t, hmem, ht⟩
    obtain ⟨y, hy⟩ := (heardOn_goodFrame s.dev p f).rest
    refine answers_kill h ?_
    rw [hy, killFrame_known (killKnown_of_mem (d := modPlane s.dev p fun _ => y) hmem ht)]
    exact ⟨rfl, rfl, rfl⟩
  · intro s p f n h hst
    exact answers_beacon h (beacon_inactive (heardOn_goodFrame s.dev p f) hst)
  · intro s p f corr bits at_ n h ha hv hn hlow
    have hgood := heardOn_goodFrame s.dev p f
    obtain ⟨hclock, -, -, v, t, hfab⟩ := timed_rest hgood f
    obtain ⟨y, hy, hplane, hposn, htvalid, hsent⟩ := beacon_active hgood ha hv hn hlow
    refine answers_beacon h ?_
    rw [hy, getPlane_modPlane_same]
    generalize timed (goodFrame s.dev p f) p f = z at hclock hfab hplane
    have hbeacons : z.fab.beacons = s.dev.fab.beacons := by rw [hfab]
    have hsince : z.fab.sinceCorr = s.dev.fab.sinceCorr := by rw [hfab]
    have hrange : z.fab.inRange = s.dev.fab.inRange := by rw [hfab]
    have haligned : z.fab.aligned = s.dev.fab.aligned := by rw [hfab]
    have hkeeps := timeOnly_beaconTime z (bits / 2 % 2 = 1) (beaconCorr f)
    refine ⟨hkeeps.timePlane.trans hplane, hkeeps.beacons.trans (congrArg (· + 1) hbeacons), htvalid, hposn, hsent, fun hno => ?_, fun hbusy => ?_,
      fun hyes hfree => ?_⟩
    · have hgo : decide (bits / 2 % 2 = 1) = false := decide_eq_false (by omega)
      rw [hgo, ← hsince, ← haligned]
      exact ⟨hclock, rfl, rfl⟩
    · exact (clock_beaconTime_busy (by rw [hclock]; exact hbusy) _ _).trans hclock
    · have hgo : decide (bits / 2 % 2 = 1) = true := decide_eq_true hyes
      have hcorrected : Corrected (counted z) (beaconTime z true (beaconCorr f)) corr :=
        corrected_takeCorr (d := counted z) (by rw [← hclock] at hfree; exact hfree) corr
      have hnear : nearCount (counted z) corr = n := by
        rw [nearCount]
        exact hrange ▸ rfl
      rw [hgo, ← hclock, ← haligned, ← hnear]
      generalize beaconTime z true (beaconCorr f) = e at hcorrected
      exact ⟨hcorrected.clock, hcorrected.sinceCorr, hcorrected.inRange, hcorrected.stepped, hcorrected.corrLast, hcorrected.aligned⟩
end
